-- ==== Sys2Proof/Word.lean ====
section
/-!
DEFINITION. Word.lean: the value types of the Bamzel-4 model and their plainest arithmetic. A scalar is 32 bits, a
sequencer register 64 bits, a wide token 256 bits (R61, R76, R156). Operand records are the fields of the encoding classes.
-/
namespace Sys2Proof

abbrev Byte := BitVec 8
abbrev Word := BitVec 32
abbrev DWord := BitVec 64
/-- A wide value: lane j stands at bits [32j+31:32j] (R76). A scalar value stands in lane 0. -/
abbrev Wide := BitVec 256
/-- What one request to another package carries: 64 bytes. -/
abbrev Line := BitVec 512
abbrev Reg := BitVec 5

/-- A finite map from Nat: a list of pairs with rising keys; an unlisted key reads as the default the reader names. -/
abbrev AMap (α : Type) := List (Nat × α)

def AMap.find? {α : Type} : AMap α → Nat → Option α
  | [], _ => none
  | (j, v) :: t, k => if j = k then some v else AMap.find? t k

def AMap.getD {α : Type} (m : AMap α) (k : Nat) (d : α) : α :=
  match AMap.find? m k with
  | some v => v
  | none => d

def AMap.set {α : Type} : AMap α → Nat → α → AMap α
  | [], k, v => [(k, v)]
  | (j, w) :: t, k, v =>
    if k < j then (k, v) :: (j, w) :: t
    else if k = j then (k, v) :: t
    else (j, w) :: AMap.set t k v

def AMap.erase {α : Type} : AMap α → Nat → AMap α
  | [], _ => []
  | (j, w) :: t, k => if j = k then AMap.erase t k else (j, w) :: AMap.erase t k

/-- Fields of an element instruction word of classes R, U, V and C (R94, R97). -/
structure ElemRec where
  trig : BitVec 6
  d : Reg
  a : Reg
  b : Reg
  dqa : Bool
  dqb : Bool
  sp : Bool
  tp : Bool
  deriving DecidableEq, Repr

/-- Fields of a class M word (R101): response channel, scope, address pair, order, bits [8:4], flags. -/
structure MemRec where
  trig : BitVec 6
  rsp : BitVec 2
  scope : BitVec 3
  pair : BitVec 3
  ord : BitVec 2
  b : Reg
  dqb : Bool
  sp : Bool
  tp : Bool
  deriving DecidableEq, Repr

/-- Fields of a class A word (R102). -/
structure AtomRec where
  trig : BitVec 6
  rsp : BitVec 2
  scope : BitVec 3
  addr : BitVec 3
  opnd : BitVec 3
  ord : BitVec 2
  sp : Bool
  deriving DecidableEq, Repr

/-- A side of an element (R233 DIR): 0 N, 1 E, 2 S, 3 W. -/
inductive Dir where
  | north | east | south | west
  deriving DecidableEq, Repr, Inhabited

/-- The two halves of a wire's work (R229, R230): a wire takes a token; a token in flight arrives. -/
inductive WireStep where
  | take | arrive
  deriving DecidableEq, Repr, Inhabited

/-- What the packet network does in one step (R250, R254): accept the packet staged at an element; deliver a packet in
flight to one of its destinations. -/
inductive PacketStep where
  | accept (region elem : Nat)
  | deliver (pkt dest : Nat)
  deriving DecidableEq, Repr, Inhabited

/-- An answer that comes from outside the package (another package over Agfel, or a failed link): the value, whether it is
poison, and whether the home reports an error after it applied an atomic (R154, R177). `version` is the home slice's word on a
vld: 0 a retained version, 1 gone, 2 waiting, 3 the newest version (R146); `early` names the bytes of the newest version that it read
before it performed the requester's earlier stores to them (R323). `refused`: the home did not perform an atomic, because its bytes are
guarded there (R201, R245). `ack`: on a flit, the number below which it acknowledges the flits sent on its port (R444). -/
structure Reply where
  data : Line
  poison : Bool
  version : Nat
  applied : Bool
  oldSent : Bool
  early : Byte
  refused : Bool
  ack : Nat
  deriving DecidableEq, Repr, Inhabited

/-- The first 32 bytes of an answer. -/
def Reply.wide (r : Reply) : Wide := r.data.extractLsb' 0 256

/-- A request that arrives from outside the package, over CXL.mem or an Agfel port (R332, R437). -/
structure OuterReq where
  addr : Nat
  size : Nat
  write : Bool
  data : Line
  cache : Bool
  deriving DecidableEq, Repr, Inhabited

/-- What the part reads from its strap pins and its boot flash at reset, or the recovery image as the host's memory gives it
(R452, R454): the bytes of image and blob, each with its signature, r then s. -/
structure BootInput where
  package : BitVec 12
  recovery : Bool
  image : List Byte
  imageSig : BitVec 512
  blob : List Byte
  blobSig : BitVec 512
  deriving DecidableEq, Repr, Inhabited

/-- The register values that a blob or a recovery image gives (R452). -/
structure Settings where
  talert : Option Word
  thyst : Option Word
  tstress : Option Word
  masks : List (Nat × BitVec 16)
  deriving DecidableEq, Repr, Inhabited

/-- A firmware image once it is taken apart (R452): the bytes it places in memory, the Sceip core's first pc, and the translation
root of ctx 0. -/
structure Firmware where
  cells : List (Nat × Byte)
  pc : DWord
  root : Option Nat
  settings : Settings
  deriving DecidableEq, Repr, Inhabited

/-- The operation of an atomic (R151, R175). -/
inductive AmoKind where
  | add | min | max | band | bor | xchg | cas | fadd
  deriving DecidableEq, Repr, Inhabited

/-- What a request from an Agfel peer does at its home slice here (R289, R441). -/
inductive PeerOp where
  | load | store | vld | vst | vrcl | harvest | bind | record | mark
  | amo (k : AmoKind)
  deriving DecidableEq, Repr, Inhabited

/-- What an uncorrectable payload error strikes (R255): a packet in flight; token n, from the oldest, on the wire of an element's side;
the token in the bypass buffer that feeds it; token n on the link from a port or an island into a side, or on the one out to it. -/
inductive InFlight where
  | packet (id : Nat)
  | wire (region elem : Nat) (side : Dir) (n : Nat)
  | bypass (region elem : Nat) (side : Dir)
  | inward (region elem : Nat) (side : Dir) (n : Nat)
  | outward (region elem : Nat) (side : Dir) (n : Nat)
  deriving DecidableEq, Repr, Inhabited

def Dir.toNat : Dir → Nat
  | .north => 0 | .east => 1 | .south => 2 | .west => 3

def Dir.ofCode (n : Nat) : Dir :=
  if n % 4 = 0 then .north else if n % 4 = 1 then .east else if n % 4 = 2 then .south else .west

def Dir.opposite : Dir → Dir
  | .north => .south | .east => .west | .south => .north | .west => .east

/-- Bits [hi:lo] of a natural number (R3, R9). -/
def bits (x hi lo : Nat) : Nat := (x / 2 ^ lo) % 2 ^ (hi + 1 - lo)

/-- Bit i of a natural number. -/
def bit (x i : Nat) : Bool := (x / 2 ^ i) % 2 = 1

end Sys2Proof
end

