-- ==== Sys2Proof/Machine/Fp.lean ====
section
/-!
DEFINITION. Fp.lean: the floating formats of R59, exact values, rounding and overflow (R62 to R66), comparison (R67),
conversions (R68, R69) and the pairwise tree of sums (R71). Everything is exact arithmetic on natural and whole numbers.
-/
namespace Sys2Proof.Machine

/-- How a format ends: with infinities and NaNs (IEEE), with one NaN code and no infinity (E4M3), with neither (E2M1). -/
inductive FmtEnd where
  | ieee | e4m3 | e2m1
  deriving DecidableEq, Repr

structure Fmt where
  ebits : Nat
  mbits : Nat
  bias : Nat
  ends : FmtEnd
  deriving DecidableEq, Repr

namespace Fmt
def f32 : Fmt := ⟨8, 23, 127, .ieee⟩
def f16 : Fmt := ⟨5, 10, 15, .ieee⟩
def bf16 : Fmt := ⟨8, 7, 127, .ieee⟩
def e4m3 : Fmt := ⟨4, 3, 7, .e4m3⟩
def e5m2 : Fmt := ⟨5, 2, 15, .ieee⟩
def e2m1 : Fmt := ⟨2, 1, 1, .e2m1⟩
end Fmt

/-- Position of the sign bit. -/
def Fmt.signPos (f : Fmt) : Nat := f.ebits + f.mbits
/-- Code of the largest finite magnitude. -/
def Fmt.maxCode (f : Fmt) : Nat :=
  match f.ends with
  | .ieee => (2 ^ f.ebits - 1) * 2 ^ f.mbits - 1
  | .e4m3 => 2 ^ f.signPos - 2
  | .e2m1 => 2 ^ f.signPos - 1
/-- Code of infinity in an IEEE format. -/
def Fmt.infCode (f : Fmt) : Nat := (2 ^ f.ebits - 1) * 2 ^ f.mbits
/-- The canonical NaN (R59). -/
def Fmt.nanCode (f : Fmt) : Nat :=
  match f.ends with
  | .ieee => f.infCode + 2 ^ (f.mbits - 1)
  | _ => 2 ^ f.signPos - 1

/-- Rounding modes, by the codes of R62. -/
inductive Rm where
  | rne | rz | rd | ru
  deriving DecidableEq, Repr

def Rm.ofCode (n : Nat) : Rm := if n = 0 then .rne else if n = 1 then .rz else if n = 2 then .rd else .ru

/-- A value: a finite one is ± m × 2^e, with m = 0 a signed zero. -/
inductive FVal where
  | nan
  | inf (neg : Bool)
  | fin (neg : Bool) (m : Nat) (e : Int)
  deriving DecidableEq, Repr

/-- The value a code encodes. -/
def Fmt.dec (f : Fmt) (x : Nat) : FVal :=
  let neg := bit x f.signPos
  let ex := (x / 2 ^ f.mbits) % 2 ^ f.ebits
  let sg := x % 2 ^ f.mbits
  let code := x % 2 ^ f.signPos
  if f.ends = .ieee && ex == 2 ^ f.ebits - 1 then (if sg = 0 then .inf neg else .nan)
  else if f.ends = .e4m3 && code == 2 ^ f.signPos - 1 then .nan
  else if ex = 0 then .fin neg sg (1 - f.bias - f.mbits)
  else .fin neg (2 ^ f.mbits + sg) ((ex : Int) - f.bias - f.mbits)

def Fmt.withSign (f : Fmt) (neg : Bool) (code : Nat) : Nat := if neg then code + 2 ^ f.signPos else code

/-- A result that rounds to infinity (R63, R64). -/
def Fmt.infinite (f : Fmt) (satf neg : Bool) : Nat :=
  if satf then f.withSign neg f.maxCode
  else
    match f.ends with
    | .ieee => f.withSign neg f.infCode
    | .e4m3 => f.withSign neg (2 ^ f.signPos - 1)
    | .e2m1 => f.withSign neg f.maxCode

/-- A finite result whose rounded magnitude exceeds the largest finite value (R63). -/
def Fmt.overflow (f : Fmt) (rm : Rm) (satf neg : Bool) : Nat :=
  match rm, neg with
  | .rne, _ => f.infinite satf neg
  | .rz, _ => f.withSign neg f.maxCode
  | .rd, true => f.infinite satf neg
  | .rd, false => f.withSign neg f.maxCode
  | .ru, false => f.infinite satf neg
  | .ru, true => f.withSign neg f.maxCode

/-- Whether a discarded part rounds the magnitude up: `rem` against the unit `unit`, `sticky` for what lies below. -/
def roundUp (rm : Rm) (neg odd : Bool) (rem unit : Nat) (sticky : Bool) : Bool :=
  match rm with
  | .rne => decide (unit < 2 * rem) || (2 * rem == unit && (sticky || odd))
  | .rz => false
  | .rd => neg && (decide (0 < rem) || sticky)
  | .ru => !neg && (decide (0 < rem) || sticky)

/-- The exact value ± (m + a sticky part) × 2^e rounded to a format (R62, R63, R64, R66). -/
def Fmt.round (f : Fmt) (rm : Rm) (ftz satf : Bool) (neg : Bool) (m : Nat) (e : Int) (sticky : Bool) : Nat :=
  if m = 0 then f.withSign neg 0
  else
    let top : Int := (Nat.log2 m : Int) + e
    let emin : Int := 1 - (f.bias : Int)
    let ex : Int := if top < emin then emin else top
    let q : Int := ex - f.mbits
    let sig : Nat := if q ≤ e then m * 2 ^ (e - q).toNat else m / 2 ^ (q - e).toNat
    let up : Bool := if q ≤ e then false
      else roundUp rm neg (sig % 2 == 1) (m % 2 ^ (q - e).toNat) (2 ^ (q - e).toNat) sticky
    let sig1 := if up then sig + 1 else sig
    let code := if sig1 < 2 ^ f.mbits then sig1 else (ex + f.bias).toNat * 2 ^ f.mbits + (sig1 - 2 ^ f.mbits)
    if f.maxCode < code then f.overflow rm satf neg
    else if ftz && decide (code < 2 ^ f.mbits) then f.withSign neg 0
    else f.withSign neg code

/-- A value rounded to a format. An infinite source becomes what a result made infinite becomes, in every rounding mode: NaN of its sign
in E4M3 without .satf (DEDUCED: R65 converts an infinity exactly, and the modes of R63 judge a rounded magnitude; log entry 72). -/
def Fmt.enc (f : Fmt) (rm : Rm) (ftz satf : Bool) : FVal → Nat
  | .nan => f.nanCode
  | .inf neg => f.infinite satf neg
  | .fin neg m e => f.round rm ftz satf neg m e false

/-- A signed whole number of units 2^e. -/
def signedAt (neg : Bool) (m : Nat) (e lo : Int) : Int :=
  let v : Int := (m : Int) * 2 ^ (e - lo).toNat
  if neg then -v else v

/-- The exact sum (R65: an exact zero sum of opposite signs is +0, except under RD). -/
def FVal.add (rm : Rm) : FVal → FVal → FVal
  | .nan, _ => .nan
  | _, .nan => .nan
  | .inf a, .inf b => if a = b then .inf a else .nan
  | .inf a, _ => .inf a
  | _, .inf b => .inf b
  | .fin na ma ea, .fin nb mb eb =>
    let lo := if ea ≤ eb then ea else eb
    let v := signedAt na ma ea lo + signedAt nb mb eb lo
    if v = 0 then (if na = nb then .fin na 0 0 else .fin (rm = .rd) 0 0)
    else .fin (v < 0) v.natAbs lo

def FVal.neg : FVal → FVal
  | .nan => .nan
  | .inf a => .inf (!a)
  | .fin a m e => .fin (!a) m e

def FVal.mul : FVal → FVal → FVal
  | .nan, _ => .nan
  | _, .nan => .nan
  | .inf a, .inf b => .inf (a != b)
  | .inf a, .fin b m _ => if m = 0 then .nan else .inf (a != b)
  | .fin a m _, .inf b => if m = 0 then .nan else .inf (a != b)
  | .fin a m e, .fin b n f => .fin (a != b) (m * n) (e + f)

def Fmt.addBits (f : Fmt) (x y : Nat) : Nat := f.enc .rne false false ((f.dec x).add .rne (f.dec y))
def Fmt.subBits (f : Fmt) (x y : Nat) : Nat := f.enc .rne false false ((f.dec x).add .rne (f.dec y).neg)
def Fmt.mulBits (f : Fmt) (x y : Nat) : Nat := f.enc .rne false false ((f.dec x).mul (f.dec y))
/-- x × y + z with one rounding. -/
def Fmt.fmaBits (f : Fmt) (x y z : Nat) : Nat :=
  f.enc .rne false false (((f.dec x).mul (f.dec y)).add .rne (f.dec z))

/-- R122. -/
def Fmt.divBits (f : Fmt) (x y : Nat) : Nat :=
  match f.dec x, f.dec y with
  | .nan, _ => f.nanCode
  | _, .nan => f.nanCode
  | .inf _, .inf _ => f.nanCode
  | .inf a, .fin b _ _ => f.infinite false (a != b)
  | .fin a _ _, .inf b => f.withSign (a != b) 0
  | .fin a m e, .fin b n g =>
    if n = 0 then (if m = 0 then f.nanCode else f.infinite false (a != b))
    else if m = 0 then f.withSign (a != b) 0
    else
      let k := 64 + Nat.log2 n
      f.round .rne false false (a != b) (m * 2 ^ k / n) (e - g - k) (m * 2 ^ k % n != 0)

/-- The whole part of a square root, by bits from k - 1 down. -/
def isqrtFrom (m : Nat) : Nat → Nat → Nat
  | 0, r => r
  | k + 1, r => if (r + 2 ^ k) * (r + 2 ^ k) ≤ m then isqrtFrom m k (r + 2 ^ k) else isqrtFrom m k r

/-- R122; `ftz` replaces a subnormal source by zero of its sign first (R66). -/
def Fmt.sqrtBits (f : Fmt) (rm : Rm) (ftz : Bool) (x : Nat) : Nat :=
  let sub := ftz && decide ((x / 2 ^ f.mbits) % 2 ^ f.ebits = 0)
  let v := if sub then FVal.fin (bit x f.signPos) 0 0 else f.dec x
  match v with
  | .nan => f.nanCode
  | .inf false => f.infinite false false
  | .inf true => f.nanCode
  | .fin neg m e =>
    if m = 0 then f.withSign neg 0
    else if neg then f.nanCode
    else
      let k : Nat := if e % 2 = 0 then 54 else 55
      let w := m * 2 ^ k
      let r := isqrtFrom w 41 0
      f.round rm ftz false false r ((e - k) / 2) (r * r != w)

/-! ## Comparison, minimum and maximum (R67) -/

/-- -1, 0 or 1 for two values that are not NaN; zeros of either sign are equal. -/
def FVal.cmp : FVal → FVal → Option Int
  | .nan, _ => none
  | _, .nan => none
  | .inf a, .inf b => if a = b then some 0 else if a then some (-1) else some 1
  | .inf a, _ => if a then some (-1) else some 1
  | _, .inf b => if b then some 1 else some (-1)
  | .fin na ma ea, .fin nb mb eb =>
    let lo := if ea ≤ eb then ea else eb
    let v := signedAt na ma ea lo - signedAt nb mb eb lo
    some (if v < 0 then -1 else if v = 0 then 0 else 1)

def FVal.isNeg : FVal → Bool
  | .nan => false
  | .inf a => a
  | .fin a _ _ => a

def FVal.isNan : FVal → Bool
  | .nan => true
  | _ => false

/-- Minimum (`pick` -1) or maximum (`pick` 1) of two codes: −0 lies below +0; one NaN gives the other operand. -/
def Fmt.minmax (f : Fmt) (pick : Int) (x y : Nat) : Nat :=
  let a := f.dec x
  let b := f.dec y
  match a.cmp b with
  | none => if a.isNan && b.isNan then f.nanCode else if a.isNan then y else x
  | some c =>
    if c = 0 then (if (pick = -1) = (a.isNeg = true) then x else y)
    else if c = pick then x else y

def Fmt.eqBits (f : Fmt) (x y : Nat) : Bool := (f.dec x).cmp (f.dec y) == some 0
def Fmt.ltBits (f : Fmt) (x y : Nat) : Bool := (f.dec x).cmp (f.dec y) == some (-1)
def Fmt.leBits (f : Fmt) (x y : Nat) : Bool := f.eqBits x y || f.ltBits x y

/-! ## Conversions -/

/-- R68: from one format to another; .ftz applies to the result. -/
def Fmt.convert (src dst : Fmt) (rm : Rm) (ftz satf : Bool) (x : Nat) : Nat := dst.enc rm ftz satf (src.dec x)

/-- A whole number to a format (R69). -/
def Fmt.ofInt (f : Fmt) (rm : Rm) (v : Int) : Nat := f.round rm false false (v < 0) v.natAbs 0 false

/-- A value rounded to a whole number and clamped to lo .. hi; NaN gives 0 (R69). -/
def FVal.toInt (rm : Rm) (lo hi : Int) : FVal → Int
  | .nan => 0
  | .inf neg => if neg then lo else hi
  | .fin neg m e =>
    let k := (-e).toNat
    let whole : Nat := if 0 ≤ e then m * 2 ^ e.toNat else m / 2 ^ k
    let up : Bool := if 0 ≤ e then false else roundUp rm neg (whole % 2 == 1) (m % 2 ^ k) (2 ^ k) false
    let v : Int := if up then (whole : Int) + 1 else whole
    let w := if neg then -v else v
    if w < lo then lo else if hi < w then hi else w

/-! ## The tree of R71 -/

/-- One level: neighbours combined in pairs. -/
def pairUp (op : Nat → Nat → Nat) : List Nat → List Nat
  | a :: b :: t => op a b :: pairUp op t
  | l => l

/-- k levels of the tree. -/
def treeSum (op : Nat → Nat → Nat) : Nat → List Nat → List Nat
  | 0, l => l
  | k + 1, l => treeSum op k (pairUp op l)

end Sys2Proof.Machine
end

