-- ==== Sys2Proof/Syntax.lean ====
section
/-!
DEFINITION. Syntax.lean: the one inductive Instr, a constructor for every row of spec/opcode_table.json, in its order:
element instructions, sequencer instructions, and the events of the part (operands of events name the agent or carry
what comes from outside the package).
-/
namespace Sys2Proof

inductive Instr where
  /-- ADD_I32 (R119). Element firing that adds two 32-bit values modulo 2^32. -/
  | addI32 (f : ElemRec)
  /-- SUB_I32 (R119). Element firing that subtracts two 32-bit values modulo 2^32. -/
  | subI32 (f : ElemRec)
  /-- MUL_I32 (R119). Element firing that returns the low 32 bits of a product. -/
  | mulI32 (f : ElemRec)
  /-- MULH_I32 (R119). Element firing that returns the high 32 bits of a signed 64-bit product. -/
  | mulhI32 (f : ElemRec)
  /-- AND (R119). Element firing computing bitwise AND. -/
  | and (f : ElemRec)
  /-- OR (R119). Element firing computing bitwise OR. -/
  | or (f : ElemRec)
  /-- XOR (R119). Element firing computing bitwise XOR. -/
  | xor (f : ElemRec)
  /-- SHL (R119). Element firing shifting left by B[4:0]. -/
  | shl (f : ElemRec)
  /-- SHR_U32 (R119). Element firing shifting right logically. -/
  | shrU32 (f : ElemRec)
  /-- SHR_I32 (R119). Element firing shifting right arithmetically. -/
  | shrI32 (f : ElemRec)
  /-- MIN_I32 (R119). Element firing returning the signed smaller value. -/
  | minI32 (f : ElemRec)
  /-- MAX_I32 (R119). Element firing returning the signed larger value. -/
  | maxI32 (f : ElemRec)
  /-- MOV (R119). Element firing that copies its source. -/
  | mov (f : ElemRec)
  /-- SEL (R120). Element firing that chooses A or B by p7. -/
  | sel (f : ElemRec)
  /-- ADDSAT_I32 (R119). Element firing performing a saturating signed add. -/
  | addsatI32 (f : ElemRec)
  /-- SUBSAT_I32 (R119). Element firing performing a saturating signed subtract. -/
  | subsatI32 (f : ElemRec)
  /-- ABS_I32 (R119). Element firing returning the absolute value modulo 2^32. -/
  | absI32 (f : ElemRec)
  /-- CLZ (R119). Element firing counting leading zero bits. -/
  | clz (f : ElemRec)
  /-- POPC (R119). Element firing counting one bits. -/
  | popc (f : ElemRec)
  /-- CMP_EQ (R119). Element firing producing 1 when A equals B. -/
  | cmpEq (f : ElemRec)
  /-- CMP_LT_I32 (R119). Element firing producing a signed less-than result. -/
  | cmpLtI32 (f : ElemRec)
  /-- CMP_LT_U32 (R119). Element firing producing an unsigned less-than result. -/
  | cmpLtU32 (f : ElemRec)
  /-- FADD_F32 (R121). Element firing adding two FP32 values by RNE. -/
  | faddF32 (f : ElemRec)
  /-- FSUB_F32 (R121). Element firing subtracting two FP32 values by RNE. -/
  | fsubF32 (f : ElemRec)
  /-- FMUL_F32 (R121). Element firing multiplying two FP32 values by RNE. -/
  | fmulF32 (f : ElemRec)
  /-- FFMA_F32 (R121). Element firing performing a fused multiply-add into a scalar register accumulator. -/
  | ffmaF32 (f : ElemRec)
  /-- FMIN_F32 (R121). Element firing returning the FP32 minimum under R67. -/
  | fminF32 (f : ElemRec)
  /-- FMAX_F32 (R121). Element firing returning the FP32 maximum under R67. -/
  | fmaxF32 (f : ElemRec)
  /-- FABS_F32 (R121). Element firing clearing the FP32 sign bit. -/
  | fabsF32 (f : ElemRec)
  /-- FNEG_F32 (R121). Element firing inverting the FP32 sign bit. -/
  | fnegF32 (f : ElemRec)
  /-- FCMP_EQ_F32 (R121). Element firing comparing FP32 values for equality. -/
  | fcmpEqF32 (f : ElemRec)
  /-- FCMP_LT_F32 (R121). Element firing comparing FP32 values for less-than. -/
  | fcmpLtF32 (f : ElemRec)
  /-- FCMP_LE_F32 (R121). Element firing comparing FP32 values for less-or-equal. -/
  | fcmpLeF32 (f : ElemRec)
  /-- FDIV_F32 (R122). Element firing dividing FP32 values, correctly rounded. -/
  | fdivF32 (f : ElemRec)
  /-- FSQRT_F32 (R122). Element firing taking an FP32 square root with rounding mode and FTZ. -/
  | fsqrtF32 (f : ElemRec)
  /-- FADD_F16X2 (R123). Element firing adding two packed FP16 pairs. -/
  | faddF16x2 (f : ElemRec)
  /-- FMUL_F16X2 (R123). Element firing multiplying two packed FP16 pairs. -/
  | fmulF16x2 (f : ElemRec)
  /-- FFMA_F16X2 (R123). Element firing performing a packed FP16 fused multiply-add into a register. -/
  | ffmaF16x2 (f : ElemRec)
  /-- FADD_BF16X2 (R123). Element firing adding two packed BF16 pairs. -/
  | faddBf16x2 (f : ElemRec)
  /-- FMUL_BF16X2 (R123). Element firing multiplying two packed BF16 pairs. -/
  | fmulBf16x2 (f : ElemRec)
  /-- FFMA_BF16X2 (R123). Element firing performing a packed BF16 fused multiply-add into a register. -/
  | ffmaBf16x2 (f : ElemRec)
  /-- CVT_F32_I32 (R124). Element firing converting INT32 to FP32. -/
  | cvtF32I32 (f : ElemRec)
  /-- CVT_I32_F32 (R124). Element firing converting FP32 to INT32 with clamping. -/
  | cvtI32F32 (f : ElemRec)
  /-- CVT_F32_F16 (R124). Element firing widening FP16 to FP32. -/
  | cvtF32F16 (f : ElemRec)
  /-- CVT_F32_BF16 (R124). Element firing widening BF16 to FP32. -/
  | cvtF32Bf16 (f : ElemRec)
  /-- CVT_F16_F32 (R124). Element firing narrowing FP32 to FP16. -/
  | cvtF16F32 (f : ElemRec)
  /-- CVT_BF16_F32 (R124). Element firing narrowing FP32 to BF16. -/
  | cvtBf16F32 (f : ElemRec)
  /-- CVT_E4M3_F32 (R124). Element firing narrowing FP32 to E4M3. -/
  | cvtE4m3F32 (f : ElemRec)
  /-- CVT_E5M2_F32 (R124). Element firing narrowing FP32 to E5M2. -/
  | cvtE5m2F32 (f : ElemRec)
  /-- VADD_I32 (R125). Element firing adding eight 32-bit lanes. -/
  | vaddI32 (f : ElemRec)
  /-- VFADD_F32 (R125). Element firing adding eight FP32 lanes. -/
  | vfaddF32 (f : ElemRec)
  /-- VFMUL_F32 (R125). Element firing multiplying eight FP32 lanes. -/
  | vfmulF32 (f : ElemRec)
  /-- VFMA_F32 (R125). Element firing performing a lane-wise FP32 fused multiply-add into a w register. -/
  | vfmaF32 (f : ElemRec)
  /-- VFMA_F16 (R125). Element firing performing a sixteen-item FP16 fused multiply-add into a w register. -/
  | vfmaF16 (f : ElemRec)
  /-- VFMA_BF16 (R125). Element firing performing a sixteen-item BF16 fused multiply-add into a w register. -/
  | vfmaBf16 (f : ElemRec)
  /-- VBCAST (R126). Element firing broadcasting a scalar to all lanes. -/
  | vbcast (f : ElemRec)
  /-- VEXT (R126). Element firing extracting one lane to a scalar destination. -/
  | vext (f : ElemRec)
  /-- VINS (R126). Element firing inserting a scalar into one lane of a w register. -/
  | vins (f : ElemRec)
  /-- VREDSUM_F32 (R127). Element firing summing eight FP32 lanes in the fixed tree. -/
  | vredsumF32 (f : ElemRec)
  /-- VREDSUM_F16 (R127). Element firing summing sixteen FP16 items in the fixed tree. -/
  | vredsumF16 (f : ElemRec)
  /-- VREDMAX_F32 (R127). Element firing taking the maximum of eight FP32 lanes in the fixed tree. -/
  | vredmaxF32 (f : ElemRec)
  /-- PWR (R130). Element firing writing predicates under a mask. -/
  | pwr (f : ElemRec)
  /-- PRD (R130). Element firing reading the predicates into a destination. -/
  | prd (f : ElemRec)
  /-- STEER (R132). Element firing routing a data token to one of two arms by a control token, or closing both arms with a stop. -/
  | steer (f : ElemRec)
  /-- MERGE (R133). Element firing taking a token from the arm that a control token selects. -/
  | merge (f : ElemRec)
  /-- REP (R136). Element firing sending a token once per firing for a register count, then consuming it. -/
  | rep (f : ElemRec)
  /-- SWEEP (R139). Element firing that halts the region and discards later-iteration tokens, responses and stores. -/
  | sweep (f : ElemRec)
  /-- STOP (R137). Element firing that sends a stop token with a payload and level. -/
  | stop (f : ElemRec)
  /-- TAG_SET (R131). Element firing making a data token with a chosen level. -/
  | tagSet (f : ElemRec)
  /-- TAG_GET (R131). Element firing reading the tag of a channel head. -/
  | tagGet (f : ElemRec)
  /-- SEND (R141). Element firing sending a one- or two-word packet from the send buffer on a route label. -/
  | send (f : ElemRec)
  /-- FIN (R142). Element firing marking the end of the current unit for its element. -/
  | fin (f : ElemRec)
  /-- LD_B32 (R144). Element firing issuing a 4-byte load into a response channel. -/
  | ldB32 (f : MemRec)
  /-- LD_U8 (R144). Element firing issuing a zero-extended byte load. -/
  | ldU8 (f : MemRec)
  /-- LD_W256 (R144). Element firing issuing a 32-byte load into a wide response channel. -/
  | ldW256 (f : MemRec)
  /-- ST_B32 (R145). Element firing issuing a 4-byte store, buffered or released. -/
  | stB32 (f : MemRec)
  /-- ST_B8 (R145). Element firing issuing a byte store. -/
  | stB8 (f : MemRec)
  /-- ST_W256 (R145). Element firing issuing a 32-byte store. -/
  | stW256 (f : MemRec)
  /-- VLD (R146). Element firing issuing a versioned load of a named version. -/
  | vld (f : MemRec)
  /-- VST (R147). Element firing issuing a versioned store that creates the next version. -/
  | vst (f : MemRec)
  /-- VRCL (R148). Element firing issuing a reclaim of versions older than a named version. -/
  | vrcl (f : MemRec)
  /-- FENCE (R150). Element firing ordering earlier accesses before later ones at a scope and closing the window. -/
  | fence (f : MemRec)
  /-- AMO_ADD32 (R152). Element firing issuing a 32-bit atomic add. -/
  | amoAdd32 (f : AtomRec)
  /-- AMO_ADD64 (R152). Element firing issuing a 64-bit atomic add. -/
  | amoAdd64 (f : AtomRec)
  /-- AMO_MIN_I32 (R152). Element firing issuing a signed atomic minimum. -/
  | amoMinI32 (f : AtomRec)
  /-- AMO_MAX_I32 (R152). Element firing issuing a signed atomic maximum. -/
  | amoMaxI32 (f : AtomRec)
  /-- AMO_AND32 (R152). Element firing issuing a 32-bit atomic AND. -/
  | amoAnd32 (f : AtomRec)
  /-- AMO_OR32 (R152). Element firing issuing a 32-bit atomic OR. -/
  | amoOr32 (f : AtomRec)
  /-- AMO_XCHG32 (R152). Element firing issuing a 32-bit atomic exchange. -/
  | amoXchg32 (f : AtomRec)
  /-- AMO_CAS32 (R152). Element firing issuing a 32-bit compare-and-swap. -/
  | amoCas32 (f : AtomRec)
  /-- AMO_CAS64 (R152). Element firing issuing a 64-bit compare-and-swap. -/
  | amoCas64 (f : AtomRec)
  /-- AMO_FADD_F32 (R152). Element firing issuing an FP32 atomic add. -/
  | amoFaddF32 (f : AtomRec)
  /-- STATIC_OPERATION (R108). One operation of a static element with MATRIX 0 once its operands and output room are present. -/
  | staticOperation (region elem : Nat)
  /-- ADD_I64 (R170). Sequencer 64-bit add. -/
  | addI64 (d a b : Reg)
  /-- SUB_I64 (R170). Sequencer 64-bit subtract. -/
  | subI64 (d a b : Reg)
  /-- MUL_I64 (R170). Sequencer low 64-bit product. -/
  | mulI64 (d a b : Reg)
  /-- MULH_I64 (R170). Sequencer signed high product. -/
  | mulhI64 (d a b : Reg)
  /-- MULH_U64 (R170). Sequencer unsigned high product. -/
  | mulhU64 (d a b : Reg)
  /-- DIV_I64 (R170). Sequencer signed division. -/
  | divI64 (d a b : Reg)
  /-- DIV_U64 (R170). Sequencer unsigned division. -/
  | divU64 (d a b : Reg)
  /-- REM_I64 (R170). Sequencer signed remainder. -/
  | remI64 (d a b : Reg)
  /-- REM_U64 (R170). Sequencer unsigned remainder. -/
  | remU64 (d a b : Reg)
  /-- SEQ_AND (R170). Sequencer bitwise AND. -/
  | seqAnd (d a b : Reg)
  /-- SEQ_OR (R170). Sequencer bitwise OR. -/
  | seqOr (d a b : Reg)
  /-- SEQ_XOR (R170). Sequencer bitwise XOR. -/
  | seqXor (d a b : Reg)
  /-- SEQ_SHL (R170). Sequencer left shift by B[5:0]. -/
  | seqShl (d a b : Reg)
  /-- SHR_U64 (R170). Sequencer logical right shift. -/
  | shrU64 (d a b : Reg)
  /-- SHR_I64 (R170). Sequencer arithmetic right shift. -/
  | shrI64 (d a b : Reg)
  /-- SLT_I64 (R170). Sequencer signed set-less-than. -/
  | sltI64 (d a b : Reg)
  /-- SLT_U64 (R170). Sequencer unsigned set-less-than. -/
  | sltU64 (d a b : Reg)
  /-- MIN_I64 (R170). Sequencer signed minimum. -/
  | minI64 (d a b : Reg)
  /-- MAX_I64 (R170). Sequencer signed maximum. -/
  | maxI64 (d a b : Reg)
  /-- SEQ_ADD_I32 (R170). Sequencer 32-bit add, sign-extended to 64 bits. -/
  | seqAddI32 (d a b : Reg)
  /-- ADDI (R171). Sequencer add of a signed 16-bit immediate. -/
  | addi (d a : Reg) (i : BitVec 16)
  /-- ANDI (R171). Sequencer AND with a zero-extended immediate. -/
  | andi (d a : Reg) (i : BitVec 16)
  /-- ORI (R171). Sequencer OR with a zero-extended immediate. -/
  | ori (d a : Reg) (i : BitVec 16)
  /-- XORI (R171). Sequencer XOR with a zero-extended immediate. -/
  | xori (d a : Reg) (i : BitVec 16)
  /-- SLTI_I64 (R171). Sequencer signed set-less-than with an immediate. -/
  | sltiI64 (d a : Reg) (i : BitVec 16)
  /-- SLTI_U64 (R171). Sequencer unsigned set-less-than with a sign-extended immediate. -/
  | sltiU64 (d a : Reg) (i : BitVec 16)
  /-- SHLI (R171). Sequencer left shift by an immediate. -/
  | shli (d a : Reg) (n : BitVec 6)
  /-- SHRI_U64 (R171). Sequencer logical right shift by an immediate. -/
  | shriU64 (d a : Reg) (n : BitVec 6)
  /-- SHRI_I64 (R171). Sequencer arithmetic right shift by an immediate. -/
  | shriI64 (d a : Reg) (n : BitVec 6)
  /-- MOVZ (R171). Sequencer move of a shifted immediate with zeros. -/
  | movz (d : Reg) (q : BitVec 2) (i : BitVec 16)
  /-- MOVK (R171). Sequencer replacement of one 16-bit quarter of a register. -/
  | movk (d : Reg) (q : BitVec 2) (i : BitVec 16)
  /-- JALR (R171). Sequencer indirect jump and link. -/
  | jalr (d a : Reg) (i : BitVec 16)
  /-- BR (R172). Sequencer unconditional branch. -/
  | br (o : BitVec 21)
  /-- JAL (R172). Sequencer branch and link. -/
  | jal (r : Reg) (o : BitVec 21)
  /-- BZ (R172). Sequencer branch if zero. -/
  | bz (r : Reg) (o : BitVec 21)
  /-- BNZ (R172). Sequencer branch if nonzero. -/
  | bnz (r : Reg) (o : BitVec 21)
  /-- BLTZ (R172). Sequencer branch if negative. -/
  | bltz (r : Reg) (o : BitVec 21)
  /-- BGEZ (R172). Sequencer branch if not negative. -/
  | bgez (r : Reg) (o : BitVec 21)
  /-- SEQ_LD_U8 (R173). Sequencer relaxed byte load, zero-extended. -/
  | seqLdU8 (d a : Reg) (o : BitVec 12)
  /-- LD_I8 (R173). Sequencer relaxed byte load, sign-extended. -/
  | ldI8 (d a : Reg) (o : BitVec 12)
  /-- LD_U16 (R173). Sequencer relaxed 2-byte load, zero-extended. -/
  | ldU16 (d a : Reg) (o : BitVec 12)
  /-- LD_I16 (R173). Sequencer relaxed 2-byte load, sign-extended. -/
  | ldI16 (d a : Reg) (o : BitVec 12)
  /-- LD_U32 (R173). Sequencer relaxed 4-byte load, zero-extended. -/
  | ldU32 (d a : Reg) (o : BitVec 12)
  /-- LD_I32 (R173). Sequencer relaxed 4-byte load, sign-extended. -/
  | ldI32 (d a : Reg) (o : BitVec 12)
  /-- LD_B64 (R173). Sequencer relaxed 8-byte load. -/
  | ldB64 (d a : Reg) (o : BitVec 12)
  /-- SEQ_ST_B8 (R173). Sequencer relaxed byte store. -/
  | seqStB8 (d a : Reg) (o : BitVec 12)
  /-- ST_B16 (R173). Sequencer relaxed 2-byte store. -/
  | stB16 (d a : Reg) (o : BitVec 12)
  /-- SEQ_ST_B32 (R173). Sequencer relaxed 4-byte store. -/
  | seqStB32 (d a : Reg) (o : BitVec 12)
  /-- ST_B64 (R173). Sequencer relaxed 8-byte store. -/
  | stB64 (d a : Reg) (o : BitVec 12)
  /-- SEQ_AMO_ADD32 (R175). Sequencer 32-bit atomic add. -/
  | seqAmoAdd32 (d a b : Reg) (scope : BitVec 3) (ord : BitVec 2)
  /-- SEQ_AMO_ADD64 (R175). Sequencer 64-bit atomic add. -/
  | seqAmoAdd64 (d a b : Reg) (scope : BitVec 3) (ord : BitVec 2)
  /-- AMO_AND64 (R175). Sequencer 64-bit atomic AND. -/
  | amoAnd64 (d a b : Reg) (scope : BitVec 3) (ord : BitVec 2)
  /-- AMO_OR64 (R175). Sequencer 64-bit atomic OR. -/
  | amoOr64 (d a b : Reg) (scope : BitVec 3) (ord : BitVec 2)
  /-- AMO_XCHG64 (R175). Sequencer 64-bit atomic exchange. -/
  | amoXchg64 (d a b : Reg) (scope : BitVec 3) (ord : BitVec 2)
  /-- AMO_MIN_I64 (R175). Sequencer signed 64-bit atomic minimum. -/
  | amoMinI64 (d a b : Reg) (scope : BitVec 3) (ord : BitVec 2)
  /-- AMO_MAX_I64 (R175). Sequencer signed 64-bit atomic maximum. -/
  | amoMaxI64 (d a b : Reg) (scope : BitVec 3) (ord : BitVec 2)
  /-- SEQ_AMO_CAS32 (R175). Sequencer 32-bit compare-and-swap. -/
  | seqAmoCas32 (d a b : Reg) (scope : BitVec 3) (ord : BitVec 2)
  /-- SEQ_AMO_CAS64 (R175). Sequencer 64-bit compare-and-swap. -/
  | seqAmoCas64 (d a b : Reg) (scope : BitVec 3) (ord : BitVec 2)
  /-- SEQ_LD_B32_ACQ (R175). Sequencer 4-byte acquire load. -/
  | seqLdB32Acq (d a : Reg) (scope : BitVec 3)
  /-- LD_B64_ACQ (R175). Sequencer 8-byte acquire load. -/
  | ldB64Acq (d a : Reg) (scope : BitVec 3)
  /-- SEQ_ST_B32_REL (R175). Sequencer 4-byte release store. -/
  | seqStB32Rel (a b : Reg) (scope : BitVec 3)
  /-- ST_B64_REL (R175). Sequencer 8-byte release store. -/
  | stB64Rel (a b : Reg) (scope : BitVec 3)
  /-- SEQ_VLD (R178). Sequencer versioned load of a named version. -/
  | seqVld (d a b : Reg)
  /-- SEQ_VST (R178). Sequencer versioned store creating the next version. -/
  | seqVst (a b : Reg)
  /-- SEQ_VRCL (R178). Sequencer reclaim of older versions of a word. -/
  | seqVrcl (a b : Reg)
  /-- SEQ_FENCE (R179). Sequencer fence at a scope. -/
  | seqFence (scope : BitVec 3)
  /-- STRM_LD (R182). Sequencer command issuing a stream from memory into a wide port. -/
  | strmLd (ra rb : Reg) (port : BitVec 4)
  /-- STRM_ST (R183). Sequencer command issuing a stream from a wide port into memory. -/
  | strmSt (ra rb : Reg) (port : BitVec 4)
  /-- STRM_CP (R184). Sequencer command issuing a memory-to-memory copy with a scoreboard entry. -/
  | strmCp (ra rb rc : Reg)
  /-- MEM_HRV (R191). Sequencer command issuing a dirty-bit harvest over a range. -/
  | memHrv (ra rb : Reg)
  /-- SEMA_SIG (R193). Sequencer signal of one of its own semaphores with a release. -/
  | semaSig (r : Reg) (scope : BitVec 3) (i : BitVec 6)
  /-- SEMA_SIG_R (R193). Sequencer signal of any package semaphore by name. -/
  | semaSigR (d r : Reg) (scope : BitVec 3)
  /-- SEMA_ACQ (R193). Sequencer wait until a semaphore holds a count, then take it with an acquire. -/
  | semaAcq (d r : Reg) (scope : BitVec 3) (i : BitVec 6)
  /-- SEMA_TRY (R193). Sequencer attempt to take count from a semaphore without waiting. -/
  | semaTry (d r : Reg) (scope : BitVec 3) (i : BitVec 6)
  /-- SEMA_SET (R193). Sequencer set of a semaphore's count and clear of its error bit. -/
  | semaSet (r : Reg) (i : BitVec 6)
  /-- SEMA_RD (R193). Sequencer read of a semaphore's count and error bit. -/
  | semaRd (d : Reg) (i : BitVec 6)
  /-- TBAR_INIT (R197). Sequencer initialisation and marking of a transaction-barrier object. -/
  | tbarInit (a b : Reg) (scope : BitVec 3)
  /-- TBAR_ARR (R197). Sequencer arrival and byte declaration at a barrier, with release and completion step. -/
  | tbarArr (d a b : Reg) (scope : BitVec 3)
  /-- TBAR_DECL (R197). Sequencer byte declaration at a barrier, with completion step. -/
  | tbarDecl (a b : Reg) (scope : BitVec 3)
  /-- TBAR_WAIT (R197). Sequencer wait for a barrier phase to complete, returning its status. -/
  | tbarWait (d a b : Reg) (scope : BitVec 3)
  /-- TBAR_TEST (R197). Sequencer test of a barrier phase without waiting. -/
  | tbarTest (d a b : Reg) (scope : BitVec 3)
  /-- TBAR_FINI (R197). Sequencer clear of a barrier object's mark. -/
  | tbarFini (a : Reg) (scope : BitVec 3)
  /-- LNCH (R205). Sequencer command launching COUNT units of a graph. -/
  | lnch (ra rb : Reg)
  /-- LNCH_IND (R205). Sequencer command launching the number held in a versioned count word. -/
  | lnchInd (ra rb : Reg)
  /-- CFG_LD (R210). Sequencer command loading an image into a free region. -/
  | cfgLd (ra rb rc : Reg)
  /-- CFG_SWP (R212). Sequencer command checking an image, passing the region's reconfiguration token and loading the image. -/
  | cfgSwp (ra rb rc : Reg)
  /-- CFG_UNL (R210). Sequencer command passing the reconfiguration token and freeing the region. -/
  | cfgUnl (ra rc : Reg)
  /-- CFG_SV (R359). Sequencer command saving a region into a save area for pre-emption. -/
  | cfgSv (ra rb rc : Reg)
  /-- CFG_RST (R361). Sequencer command restoring a saved region into a free region. -/
  | cfgRst (ra rb rc : Reg)
  /-- BRNG_GET (R215). Sequencer fetch of the next record of a byte ring, skipping skip records. -/
  | brngGet (d a : Reg)
  /-- BRNG_REL (R215). Sequencer release of the head record of a byte ring. -/
  | brngRel (a : Reg)
  /-- MRING_PUT (R217). Sequencer write of a 64-byte record to the quadrant's multicast ring. -/
  | mringPut (a b : Reg)
  /-- MRING_GET (R217). Sequencer wait for the next multicast slot addressed to it. -/
  | mringGet (d : Reg)
  /-- MRING_LD (R217). Sequencer read of a doubleword of its held multicast slot. -/
  | mringLd (d a : Reg)
  /-- MRING_REL (R217). Sequencer release of its held multicast slot. -/
  | mringRel
  /-- BQ_PUSH (R218). Sequencer insertion of a key and value into a bushel queue. -/
  | bqPush (d a b : Reg) (y : BitVec 1) (q : BitVec 4)
  /-- BQ_POP (R219). Sequencer removal of one of the four lowest-ranked entries of its context. -/
  | bqPop (d : BitVec 4) (b : Reg) (y : BitVec 1) (q : BitVec 4)
  /-- BQ_POP_W (R218). Sequencer pop that waits until an entry of its context exists. -/
  | bqPopW (d : BitVec 4) (b : Reg) (y : BitVec 1) (q : BitVec 4)
  /-- BQ_CNT (R218). Sequencer count of its context's entries in a bushel queue. -/
  | bqCnt (d : Reg) (y : BitVec 1) (q : BitVec 4)
  /-- CSRR (R221). Sequencer read of a system register. -/
  | csrr (d : Reg) (i : BitVec 12)
  /-- CSRW (R221). Sequencer write of a system register. -/
  | csrw (a : Reg) (i : BitVec 12)
  /-- CSRS (R221). Sequencer set of bits in a system register. -/
  | csrs (a : Reg) (i : BitVec 12)
  /-- CSRC (R221). Sequencer clear of bits in a system register. -/
  | csrc (a : Reg) (i : BitVec 12)
  /-- WAIT (R221). Sequencer wait for a signal, multicast slot, event or timeout. -/
  | wait
  /-- HALT (R221). Sequencer end of program. -/
  | halt
  /-- TRAP (R221). Sequencer raise of SW_TRAP with a code. -/
  | trap (i : BitVec 12)
  /-- ERET (R221). Sequencer return from an event handler. -/
  | eret
  /-- SBAR (R188). Sequencer wait for every earlier stream to retire, then acquire at .pkg. -/
  | sbar
  /-- RPL_BEG (R223). Sequencer start of replay of a frozen region. -/
  | rplBeg (d a b : Reg)
  /-- RPL_STEP (R357). Sequencer replay of the next journaled firing. -/
  | rplStep (d a b : Reg)
  /-- RPL_END (R358). Sequencer end of replay, letting the region fire from the replayed state. -/
  | rplEnd (d a b : Reg)
  /-- RPL_DROP (R223). Sequencer abandonment of replay, returning the region to its frozen state. -/
  | rplDrop (d a b : Reg)
  /-- CTX_TEN (R225). Sceip assignment of a context to a tenant. -/
  | ctxTen (d a : Reg)
  /-- CTX_ROOT (R225). Sceip set of a context's translation root. -/
  | ctxRoot (d a : Reg)
  /-- CTX_KILL (R225). Sceip termination of a context. -/
  | ctxKill (d a : Reg)
  /-- MST_FRZ (R363). Sceip freeze of a master. -/
  | mstFrz (d : Reg)
  /-- MST_THAW (R363). Sceip release of a frozen master. -/
  | mstThaw (d : Reg)
  /-- THR_SET (R450). Sceip set of a sector's issue-slot throttle. -/
  | thrSet (d a : Reg)
  /-- SNSR_RD (R448). Sceip read of a sensor. -/
  | snsrRd (d a : Reg)
  /-- EVL_PUT (R451). Sceip append of a 32-byte record to the event log. -/
  | evlPut (d : Reg)
  /-- TLB_INV (R307). Sceip invalidation of a context's cached translations. -/
  | tlbInv (d a : Reg)
  /-- SEQ_RUN (R157). Sceip start of a sector sequencer program in a context. -/
  | seqRun (d a b : Reg)
  /-- SEQ_STOP (R225). Sceip stop of a sector sequencer. -/
  | seqStop (d : Reg)
  /-- SEQ_RESUME (R225). Sceip resumption of a stopped sequencer at epc. -/
  | seqResume (d : Reg)
  /-- SEQ_PROGRAM_START (R157). Start of a sequencer program once its earlier streams and launches have drained. -/
  | seqProgramStart (core : Nat)
  /-- SEQ_RESULT_ARRIVAL (R166). Arrival of an asynchronous sequencer result, clearing its register reservation. -/
  | seqResultArrival (core id : Nat) (reply : Reply)
  /-- WAIT_TIMEOUT (R221). Expiry of the 65,536-cycle limit of a wait. -/
  | waitTimeout (core : Nat)
  /-- EVENT_TAKE (R222). Taking of a queued region-fault event at an instruction boundary or during a wait. -/
  | eventTake (core : Nat)
  /-- CONFIGURATION_LOAD (R21). Load of a configuration into a region over the configuration network, with its load-time checks. -/
  | configurationLoad (op : Nat)
  /-- RECONFIGURATION_TOKEN_PASSAGE (R40). Passage of a reconfiguration token once all its drain conditions hold. -/
  | reconfigurationTokenPassage (region : Nat)
  /-- CONFIGURATION_SAVE (R359). Scan of a stopped region's state into a save area. -/
  | configurationSave (op : Nat)
  /-- CONFIGURATION_RESTORE (R361). Write-back of a saved region's state and restart of its clock. -/
  | configurationRestore (op : Nat)
  /-- LAUNCH_JUDGEMENT (R205). Judgement of a launch after reading its parameter block and count, accepting or rejecting it. -/
  | launchJudgement (launch : Nat) (reply : Reply)
  /-- PLACEMENT_TAKE (R341). Taking of a usable candidate as a placement of a waiting launch. -/
  | placementTake (launch : Nat)
  /-- UNIT_START (R79). Start of a unit on an idle placement with its start packet. -/
  | unitStart (launch : Nat)
  /-- UNIT_COMPLETION (R142). Completion of a unit when the window holding its last fin commits. -/
  | unitCompletion (region : Nat)
  /-- LAUNCH_COMPLETION (R206). Completion of a launch, signalling its completion semaphore. -/
  | launchCompletion (launch : Nat)
  /-- LINK_TOKEN_ARRIVAL (R229). Arrival of a token taken by a wire into the receiving channel after the link latency. -/
  | linkTokenArrival (region elem : Nat) (side : Dir) (half : WireStep)
  /-- PACKET_ARRIVAL (R254). Replication of a packet down the tree and its arrival at landing queues. -/
  | packetArrival (move : PacketStep)
  /-- LANDING_QUEUE_PASS (R250). Passage of a packet from a landing queue to its inbox, returning its credit. -/
  | landingQueuePass (loc inbox : Nat)
  /-- QOUT_RECORD_WRITE (R243). Write of a token as a record into a memory-backed queue. -/
  | qoutRecordWrite (region elem : Nat) (side : Dir) (reply : Reply)
  /-- QIN_RECORD_DELIVER (R243). Delivery of a memory-backed queue record as a token. -/
  | qinRecordDeliver (region elem : Nat) (side : Dir) (reply : Reply)
  /-- WINDOW_COMMIT (R352). Commit of a closed window, performing its buffered stores in journal order. -/
  | windowCommit (region : Nat)
  /-- WINDOW_FAULT_DETECT (R355). Detection of a failed check or cause in a window, setting its fault flag. -/
  | windowFaultDetect (region : Nat)
  /-- REGION_CLOCK_GATE (R355). Gating of a faulted region at cycle d+12, discarding its windows and writing its fault record. -/
  | regionClockGate (region : Nat)
  /-- SWEEP_COMPLETE (R139). Completion of a sweep and resumption of firing. -/
  | sweepComplete (region : Nat)
  /-- TLB_WALK (R303). Page-table walk by a TLB tile for an access. -/
  | tlbWalk (region acc : Nat)
  /-- LOAD_RESPONSE (R144). Delivery of a load, vld or atomic response into its reserved channel entry. -/
  | loadResponse (region acc : Nat) (reply : Reply)
  /-- UNBUFFERED_ACCESS_PERFORM (R114). Performance of a release store after its preceding window commits. -/
  | unbufferedAccessPerform (region acc : Nat)
  /-- ATOMIC_PERFORM (R152). Indivisible performance of an atomic at its home slice, RDC or scratchpad. -/
  | atomicPerform (region acc : Nat) (reply : Reply)
  /-- VLD_HOME_JUDGE (R146). Judgement of a vld at the home slice: answer, wait, or VERSION_GONE. -/
  | vldHomeJudge (region acc : Nat) (reply : Reply)
  /-- VLD_RESEND (R296). Resending of a vld refused by a full waiting list. -/
  | vldResend (region acc : Nat)
  /-- VST_PERFORM (R147). Creation of a new version once a slot is free, answering waiting vld requests. -/
  | vstPerform (region acc : Nat)
  /-- VERSION_STALL (R147). Expiry of the 2^20-cycle wait of a vst for a free version. -/
  | versionStall (region acc : Nat)
  /-- VRCL_PERFORM (R148). Retirement of older versions of a word at the home slice. -/
  | vrclPerform (region acc : Nat)
  /-- STREAM_START (R310). Taking of a stream from the sectors' queues by an address-generator engine. -/
  | streamStart (stream : Nat)
  /-- STREAM_ITEM_MOVE (R311). Movement of a stream item between memory and a port or between arrays. -/
  | streamItemMove (stream : Nat) (reply : Reply)
  /-- STREAM_RETRY (R190). Retry of a paused stream's translation on tlb.inv or every 65,536 cycles. -/
  | streamRetry (stream : Nat)
  /-- STREAM_RETIRE (R187). Retirement of a stream with its barrier credit and semaphore signal. -/
  | streamRetire (stream : Nat)
  /-- DIRTY_HARVEST (R308). Read-and-clear of frame bits and setting of dirty bits by mem.hrv. -/
  | dirtyHarvest (stream : Nat)
  /-- TLB_INVALIDATE_COMPLETE (R307). Completion of tlb.inv once every tile and access has finished. -/
  | tlbInvalidateComplete (inv : Nat)
  /-- MATRIX_CHAIN (R265). Passing of a west result tile east in a matrix readout. -/
  | matrixChain (region elem : Nat)
  /-- MATRIX_EMIT (R268). Emission of an element's own result tile. -/
  | matrixEmit (region elem : Nat)
  /-- MATRIX_TOKEN (R269). Emission of a completion token, ending the readout. -/
  | matrixToken (region elem : Nat)
  /-- MATRIX_BEAT (R266). One beat of a matrix element on two operand tiles. -/
  | matrixBeat (region elem : Nat)
  /-- MATRIX_CLOSE (R265). Close of a round on two LEVEL 0 stops, filling the accumulator. -/
  | matrixClose (region elem : Nat)
  /-- MATRIX_OUTER (R265). Handling of two stops of one level above 0. -/
  | matrixOuter (region elem : Nat)
  /-- MATRIX_BEHIND (R271). Shedding of the lower-ranked head on mismatched fibres. -/
  | matrixBehind (region elem : Nat)
  /-- MATRIX_FATHOM (R276). Fathom step passing fathom tiles on and stopping the element. -/
  | matrixFathom (region elem : Nat)
  /-- REPEAT_NODE (R273). Repeat node taking a count and fibre and presenting it n times. -/
  | repeatNode (region elem : Nat)
  /-- RAY_TAKE (R379). Traversal island taking a ray token and reading its record and scene. -/
  | rayTake (sector : Nat)
  /-- CANDIDATE_INVOKE (R384). Sending of a candidate token for a non-opaque candidate. -/
  | candidateInvoke (sector ray : Nat)
  /-- VERDICT_TAKE (R385). Taking of a verdict token for a waiting ray. -/
  | verdictTake (sector : Nat)
  /-- RAY_MIGRATION (R386). Migration of a ray to the island owning a partition. -/
  | rayMigration (sector ray : Nat)
  /-- RAY_RESULT (R382). Ending of a ray with its result token and chain-table write. -/
  | rayResult (sector ray : Nat)
  /-- TRAVERSAL_STOP_PASS (R387). Passage of a stop or poison token on link 0 after earlier results. -/
  | traversalStopPass (sector : Nat)
  /-- DRAIN (R394). Traversal command responding once earlier rays have returned. -/
  | drain (sector : Nat)
  /-- CTINV (R394). Traversal command invalidating the context's chain-table entries. -/
  | ctinv (sector : Nat)
  /-- TRAVERSAL_UNKNOWN_COMMAND (R394). Response with STATUS 1 and an ISLAND_CMD record to an unknown traversal command. -/
  | traversalUnknownCommand (sector : Nat)
  /-- PRIMITIVE_TOKEN (R401). Rasterisation of a primitive token into fragments and tag closes per view. -/
  | primitiveToken (block : Nat)
  /-- TAG_CLOSE (R408). Handling of a tag close at a home slice. -/
  | tagClose (slice item : Nat)
  /-- BLEND_FORWARD (R406). Translation and forwarding of a fragment by a blend unit. -/
  | blendForward (slice : Nat)
  /-- BLEND_APPLICATION (R409). Indivisible blend of a fragment into a pixel at its home slice in tag order. -/
  | blendApplication (slice item : Nat)
  /-- VIEW (R412). Raster command setting the view table address. -/
  | view (block : Nat)
  /-- CLR (R412). Raster command resetting tile tags and clearing the surface. -/
  | clr (block : Nat)
  /-- FBEG (R412). Raster command resetting every tile's tag state. -/
  | fbeg (block : Nat)
  /-- RASTER_FENCE (R412). Raster FENCE command arriving at a barrier after earlier writes. -/
  | rasterFence (block : Nat)
  /-- MODES (R412). Raster command writing every block's mode byte to memory. -/
  | modes (block : Nat)
  /-- DCMP (R412). Raster command rewriting compressed blocks uncompressed. -/
  | dcmp (block : Nat)
  /-- MLOAD (R412). Raster command setting block modes from memory. -/
  | mload (block : Nat)
  /-- RASTER_UNKNOWN_COMMAND (R412). Response with STATUS 1 to an unknown raster command or token kind. -/
  | rasterUnknownCommand (block : Nat)
  /-- RASTER_STOP_PASS (R404). Passage of a stop or poison token through a raster island after earlier tokens complete. -/
  | rasterStopPass (block : Nat)
  /-- ISECT (R424). Intersect command emitting matching items of fibre pairs with nested stops. -/
  | isect (cluster : Nat)
  /-- UNION (R424). Intersect command emitting the union of items of fibre pairs with nested stops. -/
  | union (cluster : Nat)
  /-- INTERSECT_UNKNOWN_COMMAND (R423). Response with STATUS 1 to an unknown merge OP. -/
  | intersectUnknownCommand (cluster : Nat)
  /-- ACCUMULATOR_PAIR (R429). Accumulation of a pair token into the sparse accumulator tile. -/
  | accumulatorPair (cluster : Nat)
  /-- ACCUMULATOR_POISON (R429). Clearing and poisoning of the accumulator on a poison token. -/
  | accumulatorPoison (cluster : Nat)
  /-- ACCUMULATOR_FLUSH (R429). Flush of the accumulator's occupied entries on a LEVEL 0 stop. -/
  | accumulatorFlush (cluster : Nat)
  /-- ACCUMULATOR_STOP_PASS (R429). Passage of a stop of level 1 or above through the accumulator. -/
  | accumulatorStopPass (cluster : Nat)
  /-- HOST_QUEUE_ENABLE (R433). Write of EN from 0 to 1, setting the fetch offset to HEAD. -/
  | hostQueueEnable (queue : Nat)
  /-- DOORBELL (R433). Write to DOORBELL starting a fetch of host-queue records. -/
  | doorbell (queue : Nat)
  /-- HOST_QUEUE_FETCH (R433). Merged further fetch of a host queue after the current one ends. -/
  | hostQueueFetch (queue : Nat)
  /-- INTR (R434). Store to INTR raising an MSI-X vector after a release at .sys. -/
  | intr (msg : Nat)
  /-- CXL_MEM_REQUEST (R437). Host CXL.mem request translated through an HDM window and performed at the home slice. -/
  | cxlMemRequest (req : OuterReq)
  /-- AGFEL_PEER_REQUEST (R289). Request from another package performed at a home slice. -/
  | agfelPeerRequest (op : PeerOp) (req : OuterReq)
  /-- AGFEL_ROUTE_MASK_WRITE (R442). Write of an Agfel route mask, applied once in-flight requests complete. -/
  | agfelRouteMaskWrite (package : Nat) (mask : BitVec 16)
  /-- FLIT_RECEIVE (R444). Receipt and in-order acknowledgement of a link flit. -/
  | flitReceive (port : Nat) (seqno : Nat) (req : Nat) (reply : Reply)
  /-- FLIT_REPLAY (R444). Replay from the oldest unacknowledged flit on a negative or overdue acknowledgement. -/
  | flitReplay (port : Nat)
  /-- LINK_DOWN (R446). Taking down of a link after eight replays, poisoning outstanding requests. -/
  | linkDown (port : Nat)
  /-- LINK_RETRAIN_COMPLETE (R445). Completion of a link retrain, resuming from the oldest unacknowledged flit. -/
  | linkRetrainComplete (port : Nat)
  /-- LINK_TIMEOUT (R364). Expiry of the 2^22-cycle wait of an unanswered load, returning poison. -/
  | linkTimeout (req : Nat)
  /-- PAYLOAD_KILL (R255). Uncorrectable packet or token error terminating its context. -/
  | payloadKill (ctx : Nat) (what : InFlight)
  /-- HEADER_CORRUPT (R256). Uncorrectable packet header error bringing down the partition. -/
  | headerCorrupt (bay : Nat)
  /-- MEMORY_UNCORRECTABLE_ERROR (R292). Uncorrectable memory error marking 8 bytes poisoned. -/
  | memoryUncorrectableError (addr : Nat)
  /-- SOFT_CORRECTED (R292). Correction and counting of a single-bit error. -/
  | softCorrected (source : Nat)
  /-- SENSOR_REFRESH (R448). Refresh of sensor readings every 4,096 cycles. -/
  | sensorRefresh (temps : List Nat) (power : Nat)
  /-- DROOP_EVENT (R449). Voltage-droop event marking its sector stressed. -/
  | droopEvent (sector : Nat)
  /-- PACKAGE_RESET (R452). Package reset, boot image verification and identity key derivation. -/
  | packageReset (boot : BootInput)
  /-- ATTGO (R454). Write to ATTGO starting attestation with the captured nonce. -/
  | attgo
  /-- ATTESTATION_COMPLETE (R453). Completion of attestation with the signature ready. -/
  | attestationComplete
  /-- RCVGO (R454). Write to RCVGO starting recovery-image fetch and verification. -/
  | rcvgo
  /-- RECOVERY_COMPLETE (R454). End of recovery verification, setting BOOTST to 1 or 3. -/
  | recoveryComplete (boot : BootInput)
  /-- PRST_GO (R447). Write of GO to prst starting a partition reset. -/
  | prstGo (bay : Nat)
  /-- PARTITION_RESET_COMPLETE (R447). Completion of a partition reset, clearing GO. -/
  | partitionResetComplete (bay : Nat)
  /-- REGISTER_WRITE (R430). Write to a device or management register that has no behaviour of its own; with no data, the host reads one. -/
  | registerWrite (addr : Nat) (size : Nat) (data : Option DWord)
  /-- SEQ_ILLEGAL_OP (R164). Execution of a sequencer word with an unallocated MAJ, FN or OP, or a nonzero field that must be zero, raising ILLEGAL_OP as a precise fault. -/
  | seqIllegalOp (core : Nat)
  /-- FETCH_FAULT (R158). Sequencer instruction fetch at pc that raises a translation, permission or poison cause against the instruction at pc. -/
  | fetchFault (core : Nat)
  /-- WRITE_COMPLETION (R446). Return of the completion of a write performed at a remote home, which lets fences, releases and INTR that wait on it proceed. -/
  | writeCompletion (req : Nat) (performed : Bool)
  /-- CONSUMED_COPY_UPDATE (R441). Arrival of the far end's update of the local copy of CONSUMED used by a QOUT end whose queue lies in another package. -/
  | consumedCopyUpdate (region elem : Nat) (side : Dir) (reply : Reply)
  /-- BACK_INVALIDATE_RESPONSE (R438). The host's answer to a back-invalidation of a host-cached line, after which the waiting package write is performed. -/
  | backInvalidateResponse (line : Nat)
  deriving DecidableEq, Repr, Inhabited

end Sys2Proof
end

