-- ==== Sys2Proof/Config.lean ====
section
/-!
DEFINITION. Config.lean: what an implementation fixes, the values the spec leaves open (opaque constants without a body, so
that nothing can evaluate them), and the turn: which agent moves next.
-/
namespace Sys2Proof

/-- Who moves in one step: a sequencer core (0 to 255 by sector, 256 the Sceip core), an element, or an event of the part. -/
inductive Actor where
  | core (c : Nat)
  | element (region elem : Nat)
  | event (i : Instr)
  deriving DecidableEq, Repr, Inhabited

/-- One turn: `wait` cycles of the fabric clock pass, then the actor moves. -/
structure Turn where
  wait : Nat
  actor : Actor
  /-- A core's plain access of this turn is performed later than it issues (R174, R325). -/
  defer : Bool := false
  deriving DecidableEq, Repr, Inhabited

namespace Config

/-- Log entry 1. The order in which the agents of the part move is not architectural (R25, R93, R253, R299, R359). -/
opaque freeTurn : Nat → Turn
/-- Log entry 2. Which cached translations the tiles still hold at a step: capacity and replacement are not architectural
(R299). The step number and the place in the list. -/
opaque freeKeep : Nat → Nat → Bool
/-- Log entry 3. Which of the four lowest-ranked entries a bushel-queue pop removes (R219). -/
opaque freePop : Nat → Nat
/-- Log entry 4. Which way of a chain-table set a fill displaces (R392). -/
opaque freeWay : Nat → Nat
/-- Log entry 5. Tokens a wide port holds beyond the one that R185 guarantees. -/
opaque portExtra : Nat
/-- Log entry 6. Whether a primitive outside the box of a node above it is tested, and whether a ray meets an error that its best hit
hides (R377, R379): a function of the ray and of what is judged, so that neither timing nor other rays decide (R383). -/
opaque freeTested : Nat → Bool
/-- Log entry 7. The bytes of a ray's WORK field: their contents are not architectural (R378). -/
opaque freeWork : Nat → Byte
/-- Log entry 9. The order in which the fragments of a view leave the raster island (R402): where each enters the list. -/
opaque freeFragment : Nat → Nat
/-- Log entry 49. Whether an atomic whose die-to-die link failed on the way was applied at its home (R446): applied to the counter of free values. -/
opaque lostApplied : Nat → Bool
/-- Log entry 8. The private scalar of the identity key comes from the C-die's unclonable function (R453); the secret number of each
signature is the signer's. -/
opaque identityScalar : Nat
opaque signNonce : Nat → Nat
/-- Log entry 8. The vendor key that the ROM holds: a point of P-256 (R452). -/
opaque vendorKey : Nat × Nat
/-- Log entry 8. What the bytes of a firmware image and of a configuration blob mean: R452 gives no format. -/
opaque firmwareOf : List Byte → Firmware
opaque blobOf : List Byte → Settings

/-- Log entry 66. The byte count of a stream whose item size is reserved: R189 credits it, and R180 gives such an item no size. The
item count and ESZ. -/
opaque reservedBytes : Nat → Nat → Nat

/-- The scopes of R7, by code. -/
def scopeSys : Nat := 7
def scopePkg : Nat := 6
/-- Counts of R156, R310, R312, R141. -/
def streamQueueSize : Nat := 16
def launchQueueSize : Nat := 8
def eventQueueSize : Nat := 4
def scoreboardSize : Nat := 32
def engineStreams : Nat := 4
/-- The Sceip core's number among the cores of this model. -/
def sceip : Nat := 256

end Config
end Sys2Proof
end

