-- ==== Sys2Proof/Machine/State.lean ====
section
/-!
DEFINITION. State.lean: the state of one package as plain data: every piece of state the spec gives the machine, what the
part holds in flight, and the machine right after package reset.
-/
namespace Sys2Proof.Machine

/-- Reasons the machine stops. Every architectural cause of R368 is TAKEN as the spec describes; only a turn that names no
agent of the part stops the machine. -/
inductive Fault where
  /-- Raised by Step: the turn names a core or an element number the package does not have, or gives an instruction word
  the place of an event. Safe: no such agent exists. -/
  | noSuchAgent
  deriving DecidableEq, Repr

/-- Reasons a step is refused. -/
inductive Refusal where
  /-- Raised by exec for an instruction without a meaning in this model. Safe. -/
  | notModelled (mnemonic : String)
  deriving DecidableEq, Repr

/-- A token: a value and its 8-bit tag (R76, R77). A scalar value stands in lane 0. -/
structure Token where
  val : Wide
  tag : Byte
  deriving DecidableEq, Repr, Inhabited

/-- A token in a channel, a buffer or a queue: the cycle in which it entered (visible from the next, R86) and the serial
number of the firing of its region that produced it (0 when it came from outside the region or from no firing). -/
structure Entry where
  tok : Token
  at_ : Nat
  src : Nat
  deriving DecidableEq, Repr, Inhabited

/-- An entry of an input channel: a token, or the reservation of a response (R101): the serial of the access, the half, and
whether a sweep has dropped it (R139). -/
inductive InEntry where
  | tok (e : Entry)
  | resv (acc : Nat) (half : Nat) (dropped : Bool)
  deriving DecidableEq, Repr, Inhabited

/-- An input or output channel, and the cycles in which its last entries were freed (R86, R230). -/
structure InCh where
  q : List InEntry := []
  freed : List Nat := []
  deriving DecidableEq, Repr, Inhabited

structure OutCh where
  q : List Entry := []
  freed : List Nat := []
  deriving DecidableEq, Repr, Inhabited

/-- A task packet: its header word (R247) and its one or two payload words. `two` repeats LEN, `tag` repeats TAG. -/
structure Packet where
  header : DWord
  w0 : DWord
  w1 : DWord
  two : Bool
  tag : Byte
  deriving DecidableEq, Repr, Inhabited

/-- A packet in an inbox: halves dequeued so far, and the cycle it arrived (R78, R86). -/
structure InboxEntry where
  pkt : Packet
  gone : Nat
  at_ : Nat
  deriving DecidableEq, Repr, Inhabited

/-- A packet waiting at the packet stage, with its route label and the serial of its firing (R141). -/
structure Staged where
  pkt : Packet
  label : Nat
  src : Nat
  suppressed : Bool
  deriving DecidableEq, Repr, Inhabited

/-- A tile of matrix mode (R258, R263): tag, result bit, up to 256 bytes of values (or a stop's payload), E2M1 scales. -/
structure Tile where
  tag : Byte
  result : Bool
  data : BitVec 2048
  scales : DWord
  deriving DecidableEq, Repr, Inhabited

/-- State of one element in matrix mode (R259), with what crosses its entries and exits in parts (R264), and the fathom
marker of R276. `accTile` is kept as 64 words, entry (r, c) at 8r + c. -/
structure Mat where
  accTile : Vector Word 64 := Vector.replicate 64 0
  accFull : Bool := false
  pz : Bool := false
  bc : BitVec 16 := 0
  rb : BitVec 6 := 0
  rtd : Bool := false
  pcnt : BitVec 7 := 0
  rbuf : List Tile := []
  rcount : Word := 0
  rlen : BitVec 4 := 0
  rpos : BitVec 4 := 0
  rpoison : Bool := false
  rtaking : Bool := false
  inTile : Vector (Option Tile) 4 := Vector.replicate 4 none
  outTile : Vector (Option Tile) 4 := Vector.replicate 4 none
  parts : Vector (List Token) 4 := Vector.replicate 4 []
  fathomed : Bool := false
  deriving DecidableEq, Repr

/-- State of one element (R76). -/
structure Elem where
  slots : Vector Word 32 := Vector.replicate 32 0
  trigs : Vector Word 64 := Vector.replicate 64 0
  consts : Vector Word 8 := Vector.replicate 8 0
  mode : Word := 0
  route : Word := 0
  static : Word := 0
  x : Vector Word 16 := Vector.replicate 16 0
  w : Vector Wide 8 := Vector.replicate 8 0
  p : Byte := 0
  rr : BitVec 5 := 31
  inc : Vector InCh 4 := Vector.replicate 4 default
  outc : Vector OutCh 4 := Vector.replicate 4 default
  inbox : Vector (List InboxEntry) 4 := Vector.replicate 4 []
  sb : Vector Word 4 := Vector.replicate 4 0
  sbtag : Byte := 0
  stage : Option Staged := none
  /-- The cycle in which the packet stage was last freed plus one, and those in which memory-port entries were (R84). -/
  stageFreed : Nat := 0
  portFreed : List Nat := []
  /-- The cycles in which the last entries of each inbox were freed (R86). -/
  boxFreed : Vector (List Nat) 4 := Vector.replicate 4 []
  finished : Bool := false
  started : Bool := false
  /-- The cycle of the last firing plus one, 0 before any: an element fires at most once per cycle (R26, R85). -/
  lastFire : Nat := 0
  mat : Mat := {}
  deriving DecidableEq, Repr

/-- Kinds of memory access of an element (classes M and A). -/
inductive AccKind where
  | load | acquire | store | release | vld | vst | vrcl
  | amo (k : AmoKind)
  deriving DecidableEq, Repr, Inhabited

/-- A translation as a request uses it (R302, R303): domain-physical address, memory type, VER, permissions, page. -/
structure Xlat where
  pa : Nat
  mt : Nat
  ver : Bool
  deriving DecidableEq, Repr, Inhabited

/-- How far an access has come. -/
inductive AccSt where
  /-- In the element's memory port, not yet accepted by its TLB tile (R144). -/
  | port
  /-- Translated and checked. -/
  | ready (x : Xlat)
  /-- Sent to another package; its answer is outstanding (R289). -/
  | remote (x : Xlat)
  /-- A vld on the home slice's waiting list, or refused by a full list (R146, R296). -/
  | waiting (x : Xlat)
  | refused (x : Xlat)
  /-- Performed (a store, an atomic, vst, vrcl) or answered (a load, a vld). -/
  | done
  /-- Failed a check. -/
  | failed (cause : Byte) (addr : DWord)
  deriving DecidableEq, Repr, Inhabited

/-- A memory access of an element, from its firing until its window has committed and its response is delivered. -/
structure Acc where
  serial : Nat
  elem : Nat
  slot : Nat
  kind : AccKind
  va : DWord
  size : Nat
  data : Wide
  new : DWord
  version : Word
  tag : Byte
  rsp : Nat
  scope : Nat
  ord : Nat
  itag : Option (BitVec 6)
  st : AccSt
  /-- The response awaiting delivery: its value and whether it is poison. -/
  result : Option (Wide × Bool)
  delivered : Nat
  since : Nat
  /-- The access occupies an entry of its element's memory port (R116, R144). -/
  inPort : Bool
  /-- The recorded response that it took in place of a second performance (R154). -/
  kept : Option (Wide × Bool)
  /-- The copies whose scoreboard entries it overlapped as it left the port: it waits for them (R313). -/
  behind : List Nat
  deriving DecidableEq, Repr, Inhabited

/-- A journal entry (R353), with the serial number and the cycle of its firing. -/
structure JEntry where
  serial : Nat
  elem : Nat
  slot : Nat
  static : Bool
  cycle : Nat
  deriving DecidableEq, Repr, Inhabited

/-- Where a logged arrival entered (R353, R360); `unit` is the start of a unit at the region (R76, R79). -/
inductive Arrival where
  | chan (elem ch : Nat) (tok : Token)
  | resv (elem ch acc half : Nat) (tok : Token)
  | inbox (elem k : Nat) (pkt : Packet)
  | unit
  deriving DecidableEq, Repr, Inhabited

/-- An arrival-log entry: the journal index of the next firing at the arrival (R353). -/
structure LogEntry where
  jidx : Nat
  what : Arrival
  deriving DecidableEq, Repr, Inhabited

/-- The region's element state at a moment, with the serial number of the next firing there and how many entries of the
arrival log that state already holds. -/
structure Snap where
  elems : AMap Elem
  serial : Nat
  logged : Nat
  deriving DecidableEq, Repr, Inhabited

/-- An uncommitted window (R351). -/
structure Window where
  snap : Snap
  firings : Nat
  closed : Bool
  deriving DecidableEq, Repr, Inhabited

/-- A raised cause of a window: where, and the cycle it was raised in (R355). -/
structure Raised where
  serial : Nat
  elem : Nat
  slot : Nat
  cause : Byte
  addr : DWord
  cycle : Nat
  /-- Raised by the firing itself (R92), not by its access (R118). -/
  atFire : Bool
  applied : Bool
  old : Option DWord
  deriving DecidableEq, Repr, Inhabited

/-- Why a region does not fire (R355, R363, R43, R256). -/
inductive Freeze where
  | windowFault | isolation | mgmt
  deriving DecidableEq, Repr, Inhabited

/-- The recorded response of an atomic that raised REMOTE_APPLIED_ERR (R154, R223): element, slot, value and poison. The next
firing of that slot takes it in place of a second performance. -/
structure Applied where
  elem : Nat
  slot : Nat
  value : Wide
  poison : Bool
  deriving DecidableEq, Repr, Inhabited

/-- A replay in progress (R223, R357): the core that runs it, the journal it follows, and how many of its firings lie in windows that
have committed since. -/
structure Replay where
  core : Nat
  todo : List JEntry
  committed : Nat
  deriving DecidableEq, Repr, Inhabited

/-- Sweeps in progress, all fired in one cycle (R139): of each the exit iteration and the serial of its firing; and that cycle. -/
structure Sweep where
  exits : List (BitVec 6 × Nat)
  start : Nat
  deriving DecidableEq, Repr, Inhabited

/-- A unit on a placement: its launch, identifier, and the cycle it started. -/
structure UnitRun where
  launch : Nat
  ident : Nat
  start : Nat
  /-- Serial of the firing of the last fin, once every START element has fired it (R142, R344). -/
  finAt : Option Nat
  deriving DecidableEq, Repr, Inhabited

/-- A bound end of a memory-backed queue (R240, R242): the translation taken at binding. -/
structure QEnd where
  out : Bool
  desc : Nat
  ring : Nat
  log2n : Nat
  wide : Bool
  /-- The local copy of CONSUMED, for a QOUT end whose queue lies in another package (R441), and the records written. -/
  consumedCopy : Nat
  produced : Nat
  /-- The count of records that the descriptor in another package has been told (R243, R441). -/
  told : Nat
  deriving DecidableEq, Repr, Inhabited

/-- A queued region-fault event (R222). -/
structure Event where
  region : Nat
  word : DWord
  ctx : Nat
  cause : Byte
  addr : DWord
  deriving DecidableEq, Repr, Inhabited

/-- A resident configuration and all its state. It is named by its first quad: bay × 1,024 + QBASE. -/
structure Region where
  id : Nat
  quads : Nat
  ctx : Nat
  image : DWord
  /-- Loaded by cfg.ld or restored (R340), not by a launch. -/
  byCfg : Bool
  rtab : Vector DWord 128
  elems : AMap Elem
  cred : AMap Nat
  dead : List Nat
  rsup : AMap Nat := []
  wsup : AMap Nat := []
  /-- Tokens that left on a boundary wire and packets that left on a label: key and serial of the firing (R356). -/
  leftWire : List (Nat × Nat) := []
  leftLabel : List (Nat × Nat) := []
  wins : List Window := []
  nextSnap : Option Snap := none
  journal : List JEntry := []
  log : List LogEntry := []
  pend : List LogEntry := []
  accs : List Acc := []
  serial : Nat := 1
  raised : List Raised := []
  applied : List Applied := []
  /-- Fences fired: element and serial; they hold back later accesses and tokens (R150, R330). -/
  fences : List (Nat × Nat) := []
  flagAt : Option Nat := none
  frozen : Option Freeze := none
  faultCause : Byte := 0
  faultAddr : DWord := 0
  /-- The event of a freeze that a full event queue holds back (R222). -/
  unposted : Option Event := none
  replay : Option Replay := none
  sweep : Option Sweep := none
  unit : Option UnitRun := none
  /-- A reconfiguration token waits at the boundary: the configuration operation it serves (R40). -/
  token : Option Nat := none
  mp : Bool := false
  ms : Bool := false
  qends : AMap QEnd := []
  engineFrozen : Bool := false
  /-- The cycle in which a window last committed plus one, and whether two uncommitted windows held the region back until then (R84,
  R351). -/
  commitAt : Nat := 0
  wasFull : Bool := false
  /-- The cycle in which a sweep last completed plus one (R139). -/
  sweepDone : Nat := 0
  /-- The cycle in which a unit last started plus one: its predicates and permissions show from the next cycle (R84, R343). -/
  startAt : Nat := 0
  /-- Credits that returned in the cycle named: they are usable in the next (R250). -/
  credNew : AMap (Nat × Nat) := []
  /-- The number of this configuration among all that were loaded: packets name it as their sender (R253). -/
  inst : Nat := 0
  deriving DecidableEq, Repr

/-- The outgoing wire of an element on one side: tokens in flight with the cycle they are due, the bypass buffer that feeds
it, and the boundary buffer at its far end (R230, R238). -/
structure Flight where
  tok : Token
  due : Nat
  src : Nat
  deriving DecidableEq, Repr, Inhabited

structure Wire where
  flight : List Flight := []
  bypass : Option Entry := none
  buffer : List Entry := []
  bufferCtx : Nat := 0
  /-- The last cycle in which the wire took a token, plus one (R230). -/
  lastTake : Nat := 0
  freed : List Nat := []
  deriving DecidableEq, Repr, Inhabited

/-- A packet in the network (R254): the route that pays for it, the configuration that sent it, every destination and those whose
copies are still on their way. -/
structure PacketFlight where
  id : Nat
  pkt : Packet
  region : Nat
  inst : Nat
  label : Nat
  all : List Nat
  dests : List Nat
  inbox : Nat
  /-- Copies not yet handed to their inboxes; at zero the credit returns (R250). -/
  owed : Nat
  deriving DecidableEq, Repr, Inhabited

/-- A packet in a landing queue (R250): the flight that owns it (0 when none pays any more), and its arrival cycle. -/
structure Landed where
  pkt : Packet
  flight : Nat
  at_ : Nat
  deriving DecidableEq, Repr, Inhabited

/-- A semaphore (R192). -/
structure Sema where
  count : Word := 0
  e : Bool := false
  deriving DecidableEq, Repr, Inhabited

/-- What an asynchronous result of a sequencer is for (R166). -/
inductive PendKind where
  | load (size : Nat) (signed : Bool) | amo (size : Nat) | vld | launch | cfg | kill
  deriving DecidableEq, Repr, Inhabited

/-- A reserved destination register and its result when it is known: value and poison (R166, R169). `remote` names the
request to another package that answers it. -/
structure Pend where
  id : Nat
  reg : Nat
  kind : PendKind
  addr : DWord
  result : Option (DWord × Bool)
  remote : Bool
  vldWait : Option (Nat × Word)
  pc : DWord
  since : Nat
  /-- Every later access of the core waits for it: an acquire (R326). -/
  acq : Bool
  deriving DecidableEq, Repr, Inhabited

/-- Whether a sequencer runs: idle (never started, or after halt), running, stopped by seq.stop, by a fault or by a
freeze (R156, R168, R221, R225, R363). -/
inductive RunSt where
  | idle | running | stopped
  deriving DecidableEq, Repr, Inhabited

/-- The operation of a held access: the register's fill comes from the core's reservation of the same number. -/
inductive HeldKind where
  | load | store
  | amo (k : AmoKind)
  deriving DecidableEq, Repr, Inhabited

/-- An access of a sequencer that has issued and is not yet performed, or not yet sent to another package (R166, R174, R313, R325,
R442, R446): its reservation's or its own number, its address as translated at issue, the operands, and the scoreboard entries it met, by stream. -/
structure Held where
  id : Nat
  kind : HeldKind
  va : DWord
  ctx : Nat
  mt : Nat
  pa : Nat
  size : Nat
  op : Nat
  new : Nat
  score : List Nat
  pc : DWord
  deriving DecidableEq, Repr, Inhabited

/-- A sequencer's write to another package whose completion is outstanding (R446): its request, the address and the instruction it came
from, and whether that program is over. -/
structure FarWrite where
  req : Nat
  va : DWord
  pc : DWord
  past : Bool
  deriving DecidableEq, Repr, Inhabited

/-- State of one sequencer core (R156, R159). -/
structure CoreSt where
  g : Vector DWord 32 := Vector.replicate 32 0
  marks : Vector Bool 32 := Vector.replicate 32 false
  pc : DWord := 0
  ctx : BitVec 6 := 0
  evt : Bool := false
  /-- Bits of sst[2:1] that software set while nothing backs them, or cleared while something does (R160). -/
  rplSet : Bool := false
  rplClear : Bool := false
  mrhSet : Bool := false
  mrhClear : Bool := false
  epc : DWord := 0
  ecause : DWord := 0
  eaddr : DWord := 0
  evec : DWord := 0
  erg : DWord := 0
  rplLen : BitVec 16 := 0
  rplIdx : BitVec 16 := 0
  /-- The region whose replay this core runs. -/
  replay : Option Nat := none
  slotHeld : Bool := false
  mcix : Word := 0
  sema : Vector Sema 64 := Vector.replicate 64 {}
  run : RunSt := .idle
  frozen : Bool := false
  pend : List Pend := []
  events : List Event := []
  /-- A wait (R167): the cycle it began, and whether something it waits for has happened since (R221). -/
  waitFrom : Option Nat := none
  woken : Bool := false
  /-- seq.run waiting for the old program's streams and launches (R157): context, pc, g1. -/
  starting : Option (BitVec 6 × DWord × DWord) := none
  /-- The core must stop at its next instruction boundary (seq.stop). -/
  stopAsked : Bool := false
  /-- Writes to other packages whose completion is outstanding (R446). -/
  remoteWrites : List FarWrite := []
  /-- Accesses issued and not yet performed, oldest first (R174). -/
  held : List Held := []
  deriving DecidableEq, Repr

/-- A stream descriptor as read at issue (R180). -/
structure Desc where
  base : DWord
  n0 : Nat
  n1 : Nat
  n2 : Nat
  n3 : Nat
  s1 : DWord
  s2 : DWord
  s3 : DWord
  esz : Nat
  stopd : Nat
  scope : Nat
  semaEn : Bool
  sema : Nat
  tbarEn : Bool
  sbase : DWord
  deriving DecidableEq, Repr, Inhabited

inductive StreamKind where
  | ld | st | cp | hrv
  deriving DecidableEq, Repr, Inhabited

inductive StreamSt where
  | queued | running
  | paused (va : DWord) (since : Nat)
  | failed (cause : Byte) (addr : DWord)
  deriving DecidableEq, Repr, Inhabited

/-- A stream command in a stream queue (R186): its descriptors, how many items it has moved, and its place in the token layout of
R182. -/
structure Stream where
  id : Nat
  core : Nat
  ctx : Nat
  pc : DWord
  kind : StreamKind
  desc : Desc
  dst : Desc
  tb : DWord
  port : Nat
  hva : DWord
  hlen : DWord
  st : StreamSt
  /-- Items moved (bytes of the range walked, for mem.hrv); stop tokens of the current fibre's end already passed on each port. -/
  item : Nat
  stops : Nat
  sstops : Nat
  /-- Bytes read for the token being packed; a packed token that waits for room, or one being unpacked. -/
  buf : List Byte
  sbuf : List Byte
  held : Option Token
  sheld : Option Token
  /-- Poison in the token being packed (strm.ld); poison met, which fails the stream at retirement (strm.st, strm.cp). -/
  poison : Bool
  spoison : Bool
  /-- A tlb.inv asks for a retry; the pause's record is written (R190). -/
  retry : Bool
  reported : Bool
  deriving DecidableEq, Repr, Inhabited

/-- A range-scoreboard entry (R312). -/
structure Score where
  sector : Nat
  stream : Nat
  ctx : Nat
  lo : Nat
  hi : Nat
  deriving DecidableEq, Repr, Inhabited

/-- A configuration image (R209): quads, route table, configured elements. -/
structure Image where
  qc : Nat
  rtab : Vector DWord 128
  elems : AMap Elem
  deriving DecidableEq, Repr

inductive PlaceSt where
  | loading | idle | running (ident : Nat) | unloading | gone
  deriving DecidableEq, Repr, Inhabited

structure Placement where
  region : Nat
  own : Bool
  st : PlaceSt
  deriving DecidableEq, Repr, Inhabited

/-- A launch in a launch queue (R203 to R206, R340 to R345): the fields of its parameter block once it is read, what it has been
granted and how far its units have come. -/
structure Launch where
  id : Nat
  core : Nat
  ctx : Nat
  pc : DWord
  pend : Nat
  lpb : DWord
  ind : Bool
  read : Bool := false
  accepted : Bool := false
  count : Nat := 0
  image : DWord := 0
  img : Option Image := none
  span : Nat := 0
  spanAt : Nat := 0
  quads : Nat := 0
  plmax : Nat := 0
  csema : Nat := 0
  csemaEn : Bool := false
  arg : DWord := 0
  countAddr : DWord := 0
  countVer : Word := 0
  /-- The placement count C (R341). -/
  places : Nat := 0
  next : Nat := 0
  completed : Nat := 0
  abandoned : Nat := 0
  cause : Byte := 0
  placements : List Placement := []
  dropped : List Nat := []
  ptr : Nat := 0
  firstStart : Option Nat := none
  heldBack : Nat := 0
  idleSum : Nat := 0
  unloading : Bool := false
  deriving DecidableEq, Repr

/-- What the placement controller keeps for a context and IMAGE (R345). -/
structure PlaceCtl where
  ctx : Nat
  image : DWord
  prev : Nat
  t : Nat
  s : Nat
  i : Nat
  deriving DecidableEq, Repr, Inhabited

inductive CfgKind where
  | ld | swp | unl | sv | rst | launchLoad | launchUnload | kill
  deriving DecidableEq, Repr, Inhabited

/-- Progress of a configuration operation (R19): waiting behind another of its region; waiting with its token injected;
loading, saving or restoring. -/
inductive CfgSt where
  | queued | token | acting
  deriving DecidableEq, Repr, Inhabited

/-- An operation of the configuration network (R19, R210). `image` is what a cfg.swp read before its token (R212); `frozen`: the
region was frozen at the injection (R358). -/
structure CfgOp where
  id : Nat
  kind : CfgKind
  core : Nat
  pend : Nat
  ctx : Nat
  addr : DWord
  word : DWord
  launch : Nat
  st : CfgSt
  image : Option Image
  frozen : Bool
  deriving DecidableEq, Repr

/-- What the part keeps of a saved region beside the save area (R278, R359; log entry 40): its unit, the repeat nodes' marks, where
units started among the pending arrivals, counts on wires inside the region, and the packets whose credits are owed. -/
structure SavedRegion where
  pa : Nat
  ctx : Nat
  unit : Option UnitRun
  mats : AMap Mat
  unitAt : List Nat
  wsup : List (Nat × Nat)
  applied : List Applied
  owed : List (Nat × Nat)
  landed : AMap (List Nat)
  deriving DecidableEq, Repr

/-- A cached translation of a TLB tile (R299). -/
structure TlbEntry where
  bay : Nat
  tile : Nat
  ctx : Nat
  base : Nat
  size : Nat
  leaf : DWord
  deriving DecidableEq, Repr, Inhabited

/-- A tlb.inv in progress (R307): the page or every page, and the accesses and tags that were translated before it. -/
structure Inval where
  id : Nat
  ctx : Nat
  va : DWord
  core : Nat
  waits : List (Nat × Nat)
  deriving DecidableEq, Repr, Inhabited

/-- Versions of a word other than version 0 alone (R293, R333): newest number and the older retained values, oldest first, each
with whether its 8 bytes were poisoned when its successor was created (R292). -/
structure VTag where
  newest : Word := 0
  older : List (DWord × Bool) := []
  deriving DecidableEq, Repr, Inhabited

/-- A vld waiting at a home slice (R146): who asked, for which version. -/
inductive VldOwner where
  | region (id acc : Nat)
  | core (c pend : Nat)
  | launch (id : Nat)
  /-- A firing that the core's rpl.step replays (R357). -/
  | step (c : Nat)
  /-- A peer: of a vld the port that it came through, of a vst its number among those that wait. -/
  | peer (n : Nat)
  deriving DecidableEq, Repr, Inhabited

structure VldWait where
  word : Nat
  version : Word
  owner : VldOwner
  deriving DecidableEq, Repr, Inhabited

/-- A vst that waits at its home slice for a free version (R147, R295): who asked. Those of one word stand in the order in which they
arrived (R334, R337). -/
structure VstWait where
  word : Nat
  owner : VldOwner
  deriving DecidableEq, Repr, Inhabited

/-- A request that left for another package (R442, R446). -/
inductive ReqKind where
  | load | vld | atomic | write | vst | vrcl | harvest | bind | record | produced | consumed | mark
  deriving DecidableEq, Repr, Inhabited

inductive ReqOwner where
  | region (id acc : Nat)
  | queue (region inst : Nat)
  | core (c pend : Nat)
  | stream (id : Nat)
  | other
  deriving DecidableEq, Repr, Inhabited

structure Req where
  id : Nat
  kind : ReqKind
  owner : ReqOwner
  ctx : Nat
  addr : Nat
  port : Nat
  since : Nat
  size : Nat
  data : Line
  /-- A flit with its completion has been accepted (R444). -/
  completed : Bool
  deriving DecidableEq, Repr, Inhabited

/-- Who reads memory as part of one command or event, where the answer may have to come from another package (R289). -/
inductive Reader where
  | core (c : Nat) | launch (id : Nat) | cfgop (id : Nat) | ray (id : Nat) | island (kind idx : Nat) | region (id : Nat) | part
  deriving DecidableEq, Repr, Inhabited

/-- A read of another package's memory that a command or event in progress needs: its request and, when it has come, the answer
and whether it is poison. The command is executed again with the answers it holds. -/
structure RemRead where
  reader : Reader
  addr : Nat
  size : Nat
  req : Nat
  answer : Option (Nat × Bool)
  deriving DecidableEq, Repr, Inhabited

/-- A wide port between an address generator and a boundary link (R185): tokens toward the region, tokens toward memory. -/
structure Port where
  toRegion : List Token := []
  toMem : List Token := []
  /-- Tokens on the wire toward the region, and the last cycle in which it took one, plus one (R230). -/
  fly : List Flight := []
  lastOut : Nat := 0
  deriving DecidableEq, Repr, Inhabited

/-- One link of a fixed island or of a blend unit: tokens in its slots, tokens it waits to send (R234). -/
structure Link where
  inq : List Entry := []
  outq : List Token := []
  freed : List Nat := []
  /-- Tokens on the wire toward the region, and the last cycle in which it took one, plus one (R230). -/
  fly : List Flight := []
  lastOut : Nat := 0
  deriving DecidableEq, Repr, Inhabited

/-- A candidate of a ray (R381). -/
structure Cand where
  t : Word
  inst : Nat
  prim : Nat
  leaf : Nat
  u : Word
  v : Word
  opaq : Bool
  deriving DecidableEq, Repr, Inhabited

inductive RaySt where
  /-- Partitions are still to be entered; `todo` names them. -/
  | search
  /-- The list of R382 is being invoked. -/
  | invoke
  | verdict
  | over
  deriving DecidableEq, Repr, Inhabited

/-- Why a ray ends early (R379): the box that led to the entry, the status, its cause and the entry's address. -/
structure RayErr where
  box : List Word
  status : Nat
  cause : Byte
  addr : DWord
  deriving DecidableEq, Repr, Inhabited

/-- A ray in flight (R379 to R386): the island that took it, the island it is at and whether it holds an entry there, its token,
its record, the descriptor as read, the partitions still to be entered (owning sector, root node and the box that leads there), and
what was found. -/
structure Ray where
  id : Nat
  origin : Nat
  here : Nat
  entered : Bool
  ctx : Nat
  handle : DWord
  state : DWord
  level : BitVec 6
  org : List Word := []
  dir : List Word := []
  tmin : Word := 0
  tmax : Word := 0
  sd : List Nat := []
  key : Option (BitVec 48) := none
  hf : Bool := false
  ho : Bool := false
  st : RaySt
  todo : List (Nat × Nat × List Word) := []
  errs : List RayErr := []
  cands : List Cand := []
  best : Option Cand := none
  list : List Cand := []
  nany : Nat := 0
  status : Nat := 0
  cause : Byte := 0
  errAddr : DWord := 0
  poisoned : Bool := false
  order : Nat
  deriving DecidableEq, Repr, Inhabited

/-- A traversal island (R369, R370): its rays stand in the package's ray list; stop and poison tokens taken on link 0 wait
with the order number they were taken at. -/
structure Island where
  taken : Nat := 0
  stops : List (Nat × Token) := []
  drains : List (Nat × Token) := []
  deriving DecidableEq, Repr, Inhabited

/-- A chain-table entry (R390); VAL is its presence. -/
structure Chain where
  key : BitVec 48
  leaf : Word
  gen : BitVec 16
  deriving DecidableEq, Repr, Inhabited

/-- A primitive or command in a raster island that is not complete (R404): the tags (slice, tile, tag) still open. -/
structure RasterJob where
  tags : List (Nat × Nat × Nat)
  deriving DecidableEq, Repr, Inhabited

structure Raster where
  view : DWord := 0
  jobs : List RasterJob := []
  deriving DecidableEq, Repr, Inhabited

/-- Tag state of one screen tile at one home slice (R407). -/
structure TileTag where
  slice : Nat
  tile : Nat
  e : BitVec 16
  n : Nat
  close : Option Nat
  deriving DecidableEq, Repr, Inhabited

/-- A fragment or a close held at a home slice (R408). -/
structure BlendItem where
  id : Nat
  slice : Nat
  tile : Nat
  tag : BitVec 16
  ctx : Nat
  master : Nat
  /-- The binding it came through, as a record names it: master identifier and location. -/
  mid : Nat
  loc : Nat
  /-- none: a tag close with `count`; some pa: a fragment on the pixel at pa. -/
  pixel : Option Nat
  va : DWord
  count : Nat
  value : Word
  op : Nat
  fmt : Nat
  comp : Bool
  kill : Bool
  deriving DecidableEq, Repr, Inhabited

/-- An intersect island: the command it has taken and is still reading for (R428), the response that waits (R426) and the accumulator
tile (R429). -/
structure Isect where
  cmd : Option Token := none
  response : Option Token := none
  accVal : AMap Word := []
  poisoned : Bool := false
  lp : BitVec 6 := 0
  deriving DecidableEq, Repr, Inhabited

/-- An entry of a bushel queue (R318). -/
structure BqEntry where
  key : DWord
  value : DWord
  ctx : Nat
  deriving DecidableEq, Repr, Inhabited

/-- A slot of a multicast ring (R216): each named sequencer holds the same 64 bytes. -/
structure MSlot where
  seq : Word
  mask : BitVec 16
  ctx : Nat
  copies : AMap (BitVec 512)
  deriving DecidableEq, Repr, Inhabited

structure MRing where
  p : Word := 0
  slots : AMap MSlot := []
  deriving DecidableEq, Repr, Inhabited

/-- A host queue (R432, R433). -/
structure HostQ where
  en : Bool := false
  frz : Bool := false
  ctx : Nat := 0
  sema : Nat := 0
  qcb : DWord := 0
  fetch : DWord := 0
  /-- EN was set and F is still to take HEAD; a fetch is in progress; a further fetch is owed. -/
  enabling : Bool := false
  fetching : Bool := false
  again : Bool := false
  deriving DecidableEq, Repr, Inhabited

/-- An HDM window (R436). -/
structure Hdm where
  hbase : DWord := 0
  size : Nat := 0
  ctx : Nat := 0
  en : Bool := false
  tbay : Nat := 0
  vbase : DWord := 0
  deriving DecidableEq, Repr, Inhabited

/-- An Agfel port, or from number 16 on the die-to-die link of a bay (R443, R444): status fields and the sequence number of the next
flit to accept, the oldest sent and not acknowledged, and the next to send. -/
structure APort where
  up : Bool := false
  train : Bool := false
  rpl : Byte := 0
  corr : Word := 0
  accepted : Nat := 0
  acked : Nat := 0
  sent : Nat := 0
  replays : Nat := 0
  /-- The flits below this number have been replayed. -/
  replayTo : Nat := 0
  /-- Requests of the peer that accepted flits brought and that are not yet performed. -/
  peerIn : Nat := 0
  deriving DecidableEq, Repr, Inhabited

/-- An MSI-X message the part waits to send: vector, the core whose earlier accesses it releases (R435). -/
structure Msg where
  vector : Nat
  core : Nat
  waits : List Nat
  deriving DecidableEq, Repr, Inhabited

/-- A message as MSI-X sends it (R435): the vector, and address and data of its table entry. -/
structure SentMsg where
  vector : Nat
  addr : DWord
  data : Word
  deriving DecidableEq, Repr, Inhabited

/-- What an answer that leaves for the host or an Agfel peer holds: a value, the value of a newest version, poison, the unsupported-request response of CXL
(R437), a home slice's word on a versioned request: gone, waiting, stalled (R146, R334, R337), or on a write or an atomic to guarded
bytes: refused (R201, R245), or a register read through BAR0
(R430). -/
inductive AnswerKind where
  | value | newest | poison | unsupported | gone | waiting | stall | refused | register
  deriving DecidableEq, Repr, Inhabited

/-- An answer that left the package: to a peer or to the host, for which address. -/
structure OutAnswer where
  peer : Bool
  addr : Nat
  kind : AnswerKind
  data : BitVec 512
  deriving DecidableEq, Repr, Inhabited

/-- A context (R33): tenant, root, fault-queue address (R447). -/
structure Ctx where
  tenant : Nat := 0
  root : Option Nat := none
  fqaddr : DWord := 0
  deriving DecidableEq, Repr, Inhabited

/-- The sensors and alert state of one sector (R448, R449), and its throttle (R450). -/
structure SectorSt where
  temp : Nat := 0
  droops : Word := 0
  /-- The counter as the last refresh read it (R448). -/
  droopsSeen : Word := 0
  lastDroop : Option Nat := none
  armed : Bool := true
  k : Nat := 8
  deriving DecidableEq, Repr, Inhabited

/-- A fault record (R367) with what its copy in the event log adds. -/
structure FaultRec where
  cause : Byte
  cls : Nat
  applied : Bool := false
  oldv : Bool := false
  mkind : Nat
  ctx : Nat
  mid : Nat := 0
  addr : DWord := 0
  loc : Nat := 0
  jidx : Nat := 0
  slot : Nat := 0
  pc : DWord := 0
  old : DWord := 0
  /-- The cycle of detection, where it is not that of the record. -/
  seen : Option Nat := none
  /-- SRC of its copy in the event log, where it is not the sector of LOC (R451). -/
  srcIs : Option Nat := none
  deriving DecidableEq, Repr, Inhabited

/-- A queue end in this package that another package has bound (R240, R441): descriptor, ring and its bytes as package-physical
addresses, whether it is the QOUT end, and the package. -/
structure FarEnd where
  desc : Nat
  ring : Nat
  bytes : Nat
  out : Bool
  package : Nat
  deriving DecidableEq, Repr, Inhabited

/-- A peer's vst that waits for a free version (R147, R337): its number, the port it came through, its word, its value, and the cycle the wait began. -/
structure PeerWait where
  id : Nat
  port : Nat
  addr : Nat
  value : DWord
  since : Nat
  deriving DecidableEq, Repr, Inhabited

/-- Who is executing: the exec of an instruction acts for it. -/
inductive Acting where
  | nobody
  | core (c : Nat)
  | elem (region elem slot : Nat)
  deriving DecidableEq, Repr, Inhabited

/-- A kill of a context in progress (R225). -/
structure Kill where
  ctx : Nat
  core : Nat
  pend : Nat
  deriving DecidableEq, Repr, Inhabited

/-- The whole package. -/
structure State where
  cyc : Nat
  /-- Model fields: the schedule still prescribed, the counter of free turns, the counter of other free values, who acts. -/
  turns : List Turn
  turnNo : Nat
  freeNo : Nat
  act : Acting
  /-- The turn's choice that a core's plain access is performed later (R325). -/
  defer : Bool
  package : BitVec 12
  recovery : Bool
  -- memory: stored bytes by package-physical address, scratchpads by cluster × 2^18 + offset, and the hidden state
  mem : List Host.Cell
  scratch : List Host.Cell
  poison : List Nat
  scratchPoison : List Nat
  versions : AMap VTag
  barriers : List Nat
  frames : List Nat
  modes : AMap Byte
  hostLines : List Nat
  vldWaits : List VldWait
  vstQueue : List VstWait
  tlb : List TlbEntry
  invals : List Inval
  ctxs : AMap Ctx
  cores : AMap CoreSt
  regions : List Region
  wires : AMap Wire
  landings : AMap (List Landed)
  flights : List PacketFlight
  nextId : Nat
  ports : AMap Port
  cfgops : List CfgOp
  saved : List SavedRegion
  launches : List Launch
  placeCtl : List PlaceCtl
  streams : List Stream
  /-- The sector whose stream each stream engine started last (R310). -/
  lastSector : AMap Nat
  score : List Score
  lastCtx : AMap Nat
  -- fixed islands
  links : AMap Link
  rays : List Ray
  islands : AMap Island
  chain : AMap Chain
  rasters : AMap Raster
  tileTags : List TileTag
  blendItems : List BlendItem
  isects : AMap Isect
  -- queues and rings
  bushels : AMap (List BqEntry)
  mrings : AMap MRing
  -- host and links
  hostQs : AMap HostQ
  msixTable : AMap DWord
  msixPend : List Nat
  msgs : List Msg
  sentMsgs : List SentMsg
  /-- The Message Control word of the MSI-X capability: bit 15 enable, bit 14 function mask (R435). -/
  msixCtl : BitVec 16
  hdm : AMap Hdm
  masks : AMap (BitVec 16)
  newMasks : AMap (BitVec 16)
  aports : AMap APort
  reqs : List Req
  remoteReads : List RemRead
  answers : List OutAnswer
  farEnds : List FarEnd
  peerWaits : List PeerWait
  /-- Records that wait for a fault queue in another package, oldest first (R366; log entry 23). -/
  recQueue : List FaultRec
  -- management
  sectors : AMap SectorSt
  power : Nat
  lastRefresh : Nat
  corrected : AMap Nat
  talert : Word
  thyst : Word
  tstress : Word
  fqsel : BitVec 6
  prstBay : BitVec 2
  /-- Bays whose reset runs (R447). -/
  prstRun : List Nat
  downBays : List Nat
  evlprod : DWord
  evlog : AMap (BitVec 256)
  bootst : BitVec 2
  rcvaddr : DWord
  rcvRun : Bool
  /-- The running firmware image and the blob, none before boot, and the host lines a recovery has read (R439, R454). -/
  fwImage : Option (List Byte)
  blobImage : Option (List Byte)
  hostReads : List Nat
  nonce : BitVec 256
  nonceHeld : BitVec 256
  attst : BitVec 2
  sig : BitVec 512
  kills : List Kill
  deriving DecidableEq, Repr

/-- The Sceip core after package reset: ctx 0, MGMT 1, running from pc 0 (R156, R224; log entry 20). -/
def CoreSt.sceipReset : CoreSt := { run := .running }

/-- The package right after reset (R76, R156, R216, R293, R333, R407, R413, R432, R436, R442, R443, R447 to R452, R454):
every register at the reset value of its table; the thresholds at their ROM defaults (R452). -/
def State.reset : State where
  cyc := 0
  turns := []
  turnNo := 0
  freeNo := 0
  act := .nobody
  defer := false
  package := 0
  recovery := false
  mem := []
  scratch := []
  poison := []
  scratchPoison := []
  versions := []
  barriers := []
  frames := []
  modes := []
  hostLines := []
  vldWaits := []
  vstQueue := []
  tlb := []
  invals := []
  ctxs := []
  cores := [(256, CoreSt.sceipReset)]
  regions := []
  wires := []
  landings := []
  flights := []
  nextId := 1
  ports := []
  cfgops := []
  saved := []
  launches := []
  placeCtl := []
  streams := []
  lastSector := []
  score := []
  lastCtx := []
  links := []
  rays := []
  islands := []
  chain := []
  rasters := []
  tileTags := []
  blendItems := []
  isects := []
  bushels := []
  mrings := []
  hostQs := []
  msixTable := []
  msixPend := []
  msgs := []
  sentMsgs := []
  msixCtl := 0
  hdm := []
  masks := []
  newMasks := []
  aports := []
  reqs := []
  remoteReads := []
  answers := []
  farEnds := []
  peerWaits := []
  recQueue := []
  sectors := []
  power := 0
  lastRefresh := 0
  corrected := []
  talert := 0x05F0
  thyst := 0x0050
  tstress := 0x0550
  fqsel := 0
  prstBay := 0
  prstRun := []
  downBays := []
  evlprod := 0
  evlog := []
  bootst := 0
  rcvaddr := 0
  rcvRun := false
  fwImage := none
  blobImage := none
  hostReads := []
  nonce := 0
  nonceHeld := 0
  attst := 0
  sig := 0
  kills := []

end Sys2Proof.Machine
end

