-- ==== Sys2Proof/Machine/Mem.lean ====
section
/-!
DEFINITION. Mem.lean: bytes of memory in canonical form, byte order, homes of lines (R281, R282), poison marks (R292),
version tags (R293, R333), frame bits (R308), and the colour-delta form of a block (R290, R413 to R415).
-/
namespace Sys2Proof.Machine

/-! ## Cells -/

/-- What a byte that nothing has written reads as: zero (log entry 10). -/
def Mem.read : List Host.Cell → Nat → Byte
  | [], _ => 0
  | (j, v) :: t, a => if j = a then v else Mem.read t a

/-- A write keeps the canonical form: rising addresses, no listed zero. -/
def Mem.write : List Host.Cell → Nat → Byte → List Host.Cell
  | [], a, b => if b = 0 then [] else [(a, b)]
  | (j, w) :: t, a, b =>
    if a < j then (if b = 0 then (j, w) :: t else (a, b) :: (j, w) :: t)
    else if a = j then (if b = 0 then t else (a, b) :: t)
    else (j, w) :: Mem.write t a b

/-- Addresses from n upward, strictly rising, no entry equal to the unlisted value. -/
def Mem.risingFrom : Nat → List Host.Cell → Bool
  | _, [] => true
  | n, (a, b) :: t => decide (n ≤ a) && (b != 0) && Mem.risingFrom (a + 1) t

/-- The canonical form. -/
def Mem.wf (m : List Host.Cell) : Bool := Mem.risingFrom 0 m

def Mem.readList (m : List Host.Cell) (a : Nat) : Nat → List Byte
  | 0 => []
  | n + 1 => Mem.read m a :: Mem.readList m (a + 1) n

def Mem.writeList (m : List Host.Cell) (a : Nat) : List Byte → List Host.Cell
  | [] => m
  | b :: bs => Mem.writeList (Mem.write m a b) (a + 1) bs

/-! ## Byte order: little-endian everywhere (R3) -/

def leNat : List Byte → Nat
  | [] => 0
  | b :: bs => b.toNat + 256 * leNat bs

def leBytes (v : Nat) : Nat → List Byte
  | 0 => []
  | n + 1 => BitVec.ofNat 8 v :: leBytes (v / 256) n

/-! ## Sorted sets of numbers -/

def NSet.insert : List Nat → Nat → List Nat
  | [], k => [k]
  | j :: t, k => if k < j then k :: j :: t else if k = j then j :: t else j :: NSet.insert t k

def NSet.insertAll (l : List Nat) : List Nat → List Nat
  | [] => l
  | k :: t => NSet.insertAll (NSet.insert l k) t

def NSet.eraseAll (l ks : List Nat) : List Nat := l.filter (fun k => !ks.contains k)

/-- The numbers from a, n of them. -/
def natsFrom (a : Nat) : Nat → List Nat
  | 0 => []
  | n + 1 => a :: natsFrom (a + 1) n

/-- The aligned 8-byte units that n bytes at a touch, and those they cover whole (R292). -/
def unitsOf (a n : Nat) : List Nat := if n = 0 then [] else natsFrom (a / 8) ((a + n - 1) / 8 + 1 - a / 8)
def unitsWithin (a n : Nat) : List Nat := natsFrom ((a + 7) / 8) ((a + n) / 8 - (a + 7) / 8)

/-! ## The package-physical map (R37) and homes (R281, R282) -/

inductive Place where
  | hbm | gddr | sram | device | reserved
  deriving DecidableEq, Repr

def placeOf (pa : Nat) : Place :=
  if pa < 0x6000000000 then .hbm
  else if pa < 0x8000000000 then .reserved
  else if pa < 0x9000000000 then .gddr
  else if pa < 0xC000000000 then .reserved
  else if pa < 0xC010000000 then .sram
  else if pa < 0xF000000000 then .reserved
  else if pa < 0x10000000000 then .device
  else .reserved

/-- Normal memory of a package: HBM4, GDDR and tile SRAM. -/
def isNormal (pa : Nat) : Bool :=
  match placeOf pa with
  | .hbm | .gddr | .sram => true
  | _ => false

/-- R281. -/
def homeBay (pa : Nat) : Nat :=
  match placeOf pa with
  | .hbm => pa / 0x1800000000
  | .gddr => (pa - 0x8000000000) / 0x400000000
  | .sram => (pa - 0xC000000000) / 0x4000000
  | _ => 0

def foldHome (a : Nat) : Nat → Nat → Nat
  | 0, h => h
  | n + 1, h => foldHome (a / 16) n (h ^^^ (a % 16))

/-- R282: the home slice within its bay, and in the package (bay × 16 + h). -/
def homeH (pa : Nat) : Nat := foldHome (pa / 128) 8 ((pa / 2 ^ 39) % 2)
def homeSlice (pa : Nat) : Nat := homeBay pa * 16 + homeH pa

/-- Package number and package-physical part of a domain-physical address (R35). -/
def pkgOf (dpa : Nat) : Nat := dpa / 2 ^ 40
def lowOf (dpa : Nat) : Nat := dpa % 2 ^ 40
def State.isLocal (s : State) (dpa : Nat) : Bool := pkgOf dpa == s.package.toNat

/-! ## Colour-delta blocks: 256 bytes, two lines (R398, R413) -/

def blockOf (pa : Nat) : Nat := pa / 256
def State.modeOf (s : State) (pa : Nat) : Nat := (AMap.getD s.modes (blockOf pa) 0).toNat

/-- n bits at bit position p of the bit string that starts at bit 0 of the byte at a. -/
def bitsAt (m : List Host.Cell) (a p n : Nat) : Nat :=
  (leNat (Mem.readList m (a + p / 8) 3) / 2 ^ (p % 8)) % 2 ^ n

/-- Two's complement of n bits as a byte. -/
def sextByte (n v : Nat) : Byte :=
  if n = 0 then 0 else if v < 2 ^ (n - 1) then BitVec.ofNat 8 v else BitVec.ofNat 8 (v + 256 - 2 ^ n)

/-- The byte a fabric reader sees at pa (R290, R413, R415). -/
def decompByte (m : List Host.Cell) (mode pa : Nat) : Byte :=
  if mode = 0 then Mem.read m pa
  else
    let line := pa - pa % 128
    let o := pa % 128
    let c := o % 4
    let base := Mem.read m (line + c)
    if mode = 1 then base
    else if o < 4 then base
    else
      let n := mode - 0x10
      base + sextByte n (bitsAt m (line + 4) (n * (4 * (o / 4 - 1) + c)) n)

/-- The signed difference of two channels (R414), as an offset by 128. -/
def deltaOf (p b : Byte) : Nat := (p.toNat + 256 - b.toNat + 128) % 256

/-- The least width that holds a delta. -/
def widthOf (d : Nat) : Nat :=
  if d = 128 then 0
  else if 127 ≤ d && d < 129 then 1
  else if 126 ≤ d && d < 130 then 2
  else if 124 ≤ d && d < 132 then 3
  else if 120 ≤ d && d < 136 then 4
  else if 112 ≤ d && d < 144 then 5
  else if 96 ≤ d && d < 160 then 6
  else if 64 ≤ d && d < 192 then 7
  else 8

/-- The deltas of one half, in the order of R413 (channel fastest), against its first pixel; the first four are zero. -/
def halfDeltas (line base : List Byte) : List Byte → List Nat
  | [] => []
  | p :: ps =>
    match base with
    | [] => match line with
      | [] => []
      | b :: bs => deltaOf p b :: halfDeltas line bs ps
    | b :: bs => deltaOf p b :: halfDeltas line bs ps

def maxWidth : List Nat → Nat
  | [] => 0
  | d :: ds => max (widthOf d) (maxWidth ds)

def packDeltas (n : Nat) : List Nat → Nat
  | [] => 0
  | d :: ds => (d + 128) % 2 ^ n + 2 ^ n * packDeltas n ds

/-- The canonical mode and the stored bytes of a block (R414). -/
def compressBlock (bytes : List Byte) : Nat × List Byte :=
  let l0 := bytes.take 128
  let l1 := bytes.drop 128
  let b0 := l0.take 4
  let b1 := l1.take 4
  let d0 := halfDeltas b0 b0 l0
  let d1 := halfDeltas b1 b1 l1
  let n := max (maxWidth d0) (maxWidth d1)
  if n = 8 then (0, bytes)
  else (0x10 + n, b0 ++ leBytes (packDeltas n (d0.drop 4)) 124 ++ (b1 ++ leBytes (packDeltas n (d1.drop 4)) 124))

def State.decompList (s : State) (pa : Nat) : Nat → List Byte
  | 0 => []
  | n + 1 => decompByte s.mem (s.modeOf pa) pa :: State.decompList s (pa + 1) n

/-- A read of n bytes along the fabric paths (R286, R415). -/
def State.fabRead (s : State) (pa n : Nat) : List Byte := s.decompList pa n

def State.fabNat (s : State) (pa n : Nat) : Nat := leNat (s.fabRead pa n)

/-- A read of the stored bytes, as the host and Agfel peers see them (R415). -/
def State.hostRead (s : State) (pa n : Nat) : List Byte := Mem.readList s.mem pa n

/-- Marks of a write of n bytes at pa: poison of units covered whole clears (R292), frame bits set (R308). -/
def State.noteWrite (s : State) (pa n : Nat) : State :=
  { s with
    poison := NSet.eraseAll s.poison (unitsWithin pa n)
    frames := NSet.insertAll s.frames (natsFrom (pa / 4096) (if n = 0 then 0 else (pa + n - 1) / 4096 + 1 - pa / 4096)) }

/-- Stores the block's contents in canonical form (R414). -/
def State.storeBlock (s : State) (blk : Nat) (bytes : List Byte) : State :=
  let r := compressBlock bytes
  { s with
    mem := Mem.writeList s.mem (blk * 256) r.2
    modes := if r.1 = 0 then AMap.erase s.modes blk else AMap.set s.modes blk (BitVec.ofNat 8 r.1) }

/-- The bytes of a block after a patch of `bs` at offset o. -/
def patchAt (bytes : List Byte) (o : Nat) (bs : List Byte) : List Byte :=
  bytes.take o ++ bs ++ bytes.drop (o + bs.length)

/-- A write within one block. `comp`: the application's fragment has COMP = 1 (R414). -/
def State.writeInBlock (s : State) (pa : Nat) (bs : List Byte) (comp : Bool) : State :=
  let blk := blockOf pa
  if bs.isEmpty then s
  else if s.modeOf pa = 0 && !comp then { s with mem := Mem.writeList s.mem pa bs }
  else s.storeBlock blk (patchAt (s.decompList (blk * 256) 256) (pa % 256) bs)

/-- A write performed from the fabric: at most 256 bytes, so at most two blocks. -/
def State.fabWrite (s : State) (pa : Nat) (bs : List Byte) : State :=
  let k := 256 - pa % 256
  ((s.writeInBlock pa (bs.take k) false).writeInBlock (pa + k) (bs.drop k) false).noteWrite pa bs.length

def State.fabWriteNat (s : State) (pa n v : Nat) : State := s.fabWrite pa (leBytes v n)

/-- The home rewrites a block uncompressed and sets its mode to 0x00 (R415, DCMP of R412). -/
def State.uncompress (s : State) (blk : Nat) : State :=
  if s.modeOf (blk * 256) = 0 then s
  else { s with mem := Mem.writeList s.mem (blk * 256) (s.decompList (blk * 256) 256), modes := AMap.erase s.modes blk }

/-- A write by the host or an Agfel peer (R415). -/
def State.hostWrite (s : State) (pa : Nat) (bs : List Byte) : State :=
  let s1 := (s.uncompress (blockOf pa)).uncompress (blockOf (pa + bs.length - 1))
  { s1 with mem := Mem.writeList s1.mem pa bs }.noteWrite pa bs.length

/-! ## Poison (R292) -/

def State.poisonedAt (s : State) (pa n : Nat) : Bool := (unitsOf pa n).any (fun u => s.poison.contains u)
def State.markPoison (s : State) (pa n : Nat) : State := { s with poison := NSet.insertAll s.poison (unitsOf pa n) }

/-! ## Cluster scratchpads (R284): one flat list, cluster × 2^18 + offset -/

def State.scrRead (s : State) (a n : Nat) : List Byte := Mem.readList s.scratch a n
def State.scrWrite (s : State) (a : Nat) (bs : List Byte) : State :=
  { s with
    scratch := Mem.writeList s.scratch a bs
    scratchPoison := NSet.eraseAll s.scratchPoison (unitsWithin a bs.length) }
def State.scrPoisoned (s : State) (a n : Nat) : Bool := (unitsOf a n).any (fun u => s.scratchPoison.contains u)

/-- Zeroes a quad's quarter (R284). -/
def State.scrZero (s : State) (quad : Nat) : State :=
  let lo := quad * 2 ^ 16
  { s with
    scratch := s.scratch.filter (fun c => decide (c.1 < lo) || decide (lo + 2 ^ 16 ≤ c.1))
    scratchPoison := s.scratchPoison.filter (fun u => decide (u * 8 < lo) || decide (lo + 2 ^ 16 ≤ u * 8)) }

/-! ## Version tags (R146 to R148, R293 to R296, R333) -/

/-- The home slice's judgement of a vld of version v. -/
inductive VldAnswer where
  | notYet
  | value (v : DWord) (poison : Bool)
  | gone
  deriving DecidableEq, Repr

def State.vtag (s : State) (pa : Nat) : VTag := AMap.getD s.versions (pa / 8) {}

def State.judgeVld (s : State) (pa : Nat) (v : Word) : VldAnswer :=
  let t := s.vtag pa
  let d := (v - t.newest).toNat
  let back := (t.newest - v).toNat
  if 1 ≤ d && d ≤ 2 ^ 31 - 1 then .notYet
  else if back = 0 then .value (BitVec.ofNat 64 (s.fabNat (pa - pa % 8) 8)) (s.poisonedAt pa 8)
  else if back ≤ t.older.length then
    .value (t.older.getD (t.older.length - back) (0, false)).1 (t.older.getD (t.older.length - back) (0, false)).2
  else .gone

/-- Older values a home slice retains (R294). -/
def olderAt (slice : Nat) : AMap VTag → Nat
  | [] => 0
  | (w, t) :: r => (if homeSlice (w * 8) = slice then t.older.length else 0) + olderAt slice r

/-- Whether a vst must wait: four versions retained, or the version buffer full (R147, R295). -/
def State.vstBlocked (s : State) (pa : Nat) : Bool :=
  decide (3 ≤ (s.vtag pa).older.length) || decide (4096 ≤ olderAt (homeSlice pa) s.versions)

/-- The three things of a vst, in one step (R333). -/
def State.vst (s : State) (pa : Nat) (v : DWord) : State :=
  let t := s.vtag pa
  let old := (BitVec.ofNat 64 (s.fabNat (pa - pa % 8) 8), s.poisonedAt pa 8)
  { s with versions := AMap.set s.versions (pa / 8) { newest := t.newest + 1, older := t.older ++ [old] } }.fabWriteNat
    (pa - pa % 8) 8 v.toNat

/-- R148. -/
def State.vrcl (s : State) (pa : Nat) (v : Word) : State :=
  let t := s.vtag pa
  let d := (v - t.newest).toNat
  let back := (t.newest - v).toNat
  let keep := if 1 ≤ d && d ≤ 2 ^ 31 - 1 then 0 else min back t.older.length
  if back ≤ t.older.length || (1 ≤ d && d ≤ 2 ^ 31 - 1) then
    { s with versions := AMap.set s.versions (pa / 8) { t with older := t.older.drop (t.older.length - keep) } }
  else s

end Sys2Proof.Machine
end

