-- ==== Sys2Proof/Machine/Ops.lean ====
section
/-!
DEFINITION. Ops.lean: the named operations that the meanings share: access to cores, regions and elements; translation and
its checks (R283 to R307); reads and writes by virtual address; requests to other packages (R289, R442); the event log and
the fault queues (R366, R367, R451); taking a precise fault (R168), an event (R222) and the return (R221); freezes (R363);
semaphores (R192, R193) and MSI-X messages (R434).
-/
namespace Sys2Proof.Machine

/-! ## Cause codes (R368) -/
namespace Cause
abbrev illegalOp : Byte := 0x01
abbrev privFault : Byte := 0x02
abbrev swTrap : Byte := 0x03
abbrev mgmtArg : Byte := 0x04
abbrev addrNoncanonical : Byte := 0x08
abbrev addrUnmapped : Byte := 0x09
abbrev misaligned : Byte := 0x0A
abbrev pageFault : Byte := 0x0B
abbrev permFault : Byte := 0x0C
abbrev ptFormat : Byte := 0x0D
abbrev notVersioned : Byte := 0x10
abbrev versionGone : Byte := 0x11
abbrev versionStall : Byte := 0x12
abbrev poisonConsumed : Byte := 0x18
abbrev stopMismatch : Byte := 0x19
abbrev routeInvalid : Byte := 0x1A
abbrev matrixPoison : Byte := 0x1B
abbrev matrixShape : Byte := 0x1C
abbrev tbarRange : Byte := 0x20
abbrev ringFormat : Byte := 0x21
abbrev ringState : Byte := 0x22
abbrev rplState : Byte := 0x23
abbrev streamDesc : Byte := 0x28
abbrev streamShape : Byte := 0x29
abbrev streamPort : Byte := 0x2A
abbrev queueFormat : Byte := 0x2B
abbrev launchRange : Byte := 0x30
abbrev launchUnversioned : Byte := 0x31
abbrev launchSpan : Byte := 0x32
abbrev cfgSharedArm : Byte := 0x38
abbrev cfgOverlap : Byte := 0x39
abbrev cfgNotOwner : Byte := 0x3A
abbrev cfgRegion : Byte := 0x3B
abbrev cfgRange : Byte := 0x3C
abbrev cfgBound : Byte := 0x3D
abbrev cfgCredit : Byte := 0x3E
abbrev cfgRoute : Byte := 0x3F
abbrev isolationFreeze : Byte := 0x40
abbrev remoteAppliedErr : Byte := 0x41
abbrev payloadKill : Byte := 0x42
abbrev headerCorrupt : Byte := 0x43
abbrev linkReplay : Byte := 0x44
abbrev linkTimeout : Byte := 0x45
abbrev islandCmd : Byte := 0x48
abbrev islandFormat : Byte := 0x49
abbrev blendWindow : Byte := 0x4A
abbrev compressFormat : Byte := 0x4B
abbrev thermalAlert : Byte := 0x50
abbrev droopAlert : Byte := 0x51
abbrev softCorrected : Byte := 0x52
abbrev warnTokenDiscard : Byte := 0x58
abbrev warnPacketDiscard : Byte := 0x59
/-- The column "Log" of R368. -/
def logged (c : Byte) : Bool :=
  c == 0x1B || c == 0x1C || c == 0x40 || (0x42 ≤ c.toNat && c.toNat ≤ 0x45) || (0x50 ≤ c.toNat && c.toNat ≤ 0x52)
end Cause

/-! ## Places of the part -/

def State.core (s : State) (c : Nat) : CoreSt := AMap.getD s.cores c {}
def State.setCore (s : State) (c : Nat) (x : CoreSt) : State := { s with cores := AMap.set s.cores c x }
def State.updCore (s : State) (c : Nat) (f : CoreSt → CoreSt) : State := s.setCore c (f (s.core c))

def State.region? (s : State) (id : Nat) : Option Region := s.regions.find? (fun r => r.id == id)
/-- The region that holds a quad (R18: at most one). -/
def State.regionOfQuad (s : State) (q : Nat) : Option Region :=
  s.regions.find? (fun r => decide (r.id ≤ q) && decide (q < r.id + r.quads))
def insertRegion : List Region → Region → List Region
  | [], r => [r]
  | h :: t, r => if r.id < h.id then r :: h :: t else if r.id = h.id then r :: t else h :: insertRegion t r
def State.setRegion (s : State) (r : Region) : State := { s with regions := insertRegion s.regions r }
def State.dropRegion (s : State) (id : Nat) : State := { s with regions := s.regions.filter (fun r => r.id != id) }
def State.updRegion (s : State) (id : Nat) (f : Region → Region) : State :=
  match s.region? id with
  | some r => s.setRegion (f r)
  | none => s

def Region.elem (r : Region) (e : Nat) : Elem := AMap.getD r.elems e {}
def Region.setElem (r : Region) (e : Nat) (x : Elem) : Region := { r with elems := AMap.set r.elems e x }
def Region.updElem (r : Region) (e : Nat) (f : Elem → Elem) : Region := r.setElem e (f (r.elem e))
/-- Location of region-relative element e: the 14 bits of R79. -/
def Region.loc (r : Region) (e : Nat) : Nat := 4 * r.id + e
def Region.bay (r : Region) : Nat := r.id / 1024
/-- The region word (R208). -/
def Region.word (r : Region) : DWord :=
  BitVec.ofNat 64 (r.id % 1024 + 1024 * (r.quads - 1) + 2 ^ 20 * (r.id / 1024))
/-- The owning sequencer (R22): the lowest-numbered sector that holds an element of the region. -/
def Region.owner (r : Region) : Nat := r.id / 16

def State.ctxOf (s : State) (c : Nat) : Ctx := AMap.getD s.ctxs c {}
def State.cycWord (s : State) : DWord := BitVec.ofNat 64 s.cyc

/-- The core's context (R195); the Sceip core runs in ctx 0 (R224). -/
def State.coreCtx (s : State) (c : Nat) : Nat := if c = Config.sceip then 0 else (s.core c).ctx.toNat
/-- The bay whose tiles serve a core (R298); the C-die's core uses those of bay 0 (log entry 21). -/
def coreBay (c : Nat) : Nat := if c = Config.sceip then 0 else c / 64
/-- The sector number a core reports (R159); the Sceip core reports 0 (log entry 21). -/
def coreSector (c : Nat) : Nat := if c = Config.sceip then 0 else c
/-- The quadrant (bay × 4 + quadrant) of a core, and its block. -/
def coreQuadrant (c : Nat) : Nat := coreSector c / 16
def coreBlock (c : Nat) : Nat := coreSector c / 4

/-- A fresh number for a request, a packet, a command. -/
def State.fresh (s : State) : Nat × State := (s.nextId, { s with nextId := s.nextId + 1 })

/-! ## The event log (R451) -/

/-- The reserved-zero fields of a record, [15:14] and [63:32], are zero in every record that the part writes (R4, R451). -/
def evlClean (rec : BitVec 256) : BitVec 256 := rec &&& ~~~(0xFFFFFFFF0000C000 : BitVec 256)

def State.evlPut (s : State) (rec : BitVec 256) : State :=
  { s with evlog := AMap.set s.evlog (s.evlprod.toNat % 4096) (evlClean rec), evlprod := s.evlprod + 1 }

def State.evlWrite (s : State) (cause : Byte) (ctx src : Nat) (d0 d1 : DWord) : State :=
  s.evlPut (BitVec.ofNat 256 (cause.toNat + 2 ^ 8 * (ctx % 64) + 2 ^ 16 * (src % 65536) + 2 ^ 64 * s.cycWord.toNat
    + 2 ^ 128 * d0.toNat + 2 ^ 192 * d1.toNat))

/-! ## MSI-X messages (R434, R435) -/

/-- Word k of the table: entry v at 2v (address) and 2v + 1 (data, vector control). Entries are masked at reset, as PCIe has
it (log entry 12). -/
def State.msixWord (s : State) (k : Nat) : DWord := AMap.getD s.msixTable k (if k % 2 = 1 then 0x100000000 else 0)

/-- A vector sends nothing: its own mask, the function mask, or MSI-X not enabled (R435; log entry 12). -/
def State.msixMasked (s : State) (v : Nat) : Bool :=
  !s.msixCtl.getLsbD 15 || s.msixCtl.getLsbD 14 || (s.msixWord (2 * v + 1)).getLsbD 32

/-- Sends the message of a vector, address and data as its table entry has them, or sets its pending bit while it is masked. -/
def State.sendMsix (s : State) (v : Nat) : State :=
  if s.msixMasked v then { s with msixPend := NSet.insert s.msixPend v }
  else
    { s with
      sentMsgs := s.sentMsgs ++ [⟨v, s.msixWord (2 * v), (s.msixWord (2 * v + 1)).extractLsb' 0 32⟩]
      msixPend := s.msixPend.filter (fun x => x != v) }

/-! ## Requests that may stop -/

/-- Why an access, or the command it belongs to, does not go on: a cause, a wait (executed again), or a freeze (R34). -/
inductive Stop where
  | raise (cause : Byte) (addr : DWord)
  | wait
  | isolate (addr : DWord)
  deriving DecidableEq, Repr

/-- A computation over the state that may stop; what it did to the state stays. -/
abbrev Mach (α : Type) := ExceptT Stop (StateM State) α

def Mach.exec {α : Type} (m : Mach α) (s : State) : Except Stop α × State := (ExceptT.run m).run s

def raiseM {α : Type} (cause : Byte) (addr : DWord) : Mach α := throw (.raise cause addr)
def waitM {α : Type} : Mach α := throw .wait

/-- The kinds of agent that R283 tells apart. -/
inductive Agent where
  | element | core | engine | island | host | part
  deriving DecidableEq, Repr

/-- Who makes a request: its context, the bay whose tiles translate it, its kind, the quad of an element, the region it belongs
to, and the command that reads. -/
structure Who where
  ctx : Nat
  bay : Nat
  agent : Agent
  quad : Nat
  region : Option Nat
  reader : Reader
  deriving DecidableEq, Repr

def whoCore (s : State) (c : Nat) : Who := ⟨s.coreCtx c, coreBay c, .core, 0, none, .core c⟩
def whoPart (ctx : Nat) : Who := ⟨ctx, 0, .part, 0, none, .part⟩

/-- What a request needs of its leaf (R304). -/
inductive Need where
  | load | store | atomic | vld | vst | fetch
  deriving DecidableEq, Repr

def checkPerm (leaf : DWord) : Need → Option Byte
  | .load => if leaf.getLsbD 6 then none else some Cause.permFault
  | .store => if leaf.getLsbD 7 then none else some Cause.permFault
  | .atomic => if leaf.getLsbD 6 && leaf.getLsbD 7 then none else some Cause.permFault
  | .vld => if !leaf.getLsbD 9 then some Cause.notVersioned
    else if leaf.getLsbD 6 then none else some Cause.permFault
  | .vst => if !leaf.getLsbD 9 then some Cause.notVersioned
    else if leaf.getLsbD 6 && leaf.getLsbD 7 then none else some Cause.permFault
  | .fetch => if leaf.getLsbD 8 && leaf.getLsbD 6 then none else some Cause.permFault

/-! ## Translation (R298 to R306) -/

/-- R35. -/
def canonical (va : DWord) : Bool := va.toNat / 2 ^ 56 == 0 || va.toNat / 2 ^ 56 == 255

def foldTile (v : Nat) : Nat → Nat → Nat
  | 0, t => t
  | n + 1, t => foldTile (v / 16) n (t ^^^ (v % 16))

/-- R298. -/
def tileOf (ctx : Nat) (va : DWord) : Nat :=
  foldTile (va.toNat / 2 ^ 22) 8 ((ctx % 16) ^^^ bits va.toNat 56 54)

/-- Index bits of a level (R300). -/
def vaIndex (va : DWord) (level : Nat) : Nat :=
  if level = 5 then bits va.toNat 56 52 else bits va.toNat (12 + 8 * level + 7) (12 + 8 * level)

def leafSize (leaf : DWord) : Nat := bits leaf.toNat 5 2
def pageBytes (leaf : DWord) : Nat := 2 ^ (12 + 2 * leafSize leaf)
def leafPa (leaf : DWord) : Nat := bits leaf.toNat 51 12 * 4096
def leafMt (leaf : DWord) : Nat := bits leaf.toNat 53 52

/-- A pointer entry that R301 calls malformed. -/
def State.badPointer (s : State) (e : Nat) : Bool :=
  let node := bits e 51 11 * 2048
  bits e 63 52 != 0 || bits e 10 2 != 0 || !s.isLocal node || !isNormal (lowOf node)

/-- A leaf that R302, R283 or R284 calls malformed. -/
def State.badLeaf (s : State) (e : DWord) : Bool :=
  let pa := leafPa e
  let mt := leafMt e
  bits e.toNat 63 54 != 0 || mt == 3 || pa % pageBytes e != 0
    || (mt == 2 && (!s.isLocal pa || placeOf (lowOf pa) != .device || placeOf (lowOf pa + pageBytes e - 1) != .device))
    || (mt == 1 && (decide (3 < leafSize e) || decide (2 ^ 18 ≤ pa)))
    || (e.getLsbD 9 && mt != 0)

/-- What a walk finds: the leaf, where it stands, or a cause with its address. -/
inductive Walked where
  | leaf (entryPa : Nat) (e : DWord)
  | bad (cause : Byte) (addr : DWord)
  deriving DecidableEq, Repr

/-- The leaf part of R303 at a level of 3 or less. -/
def State.walkLeaf (s : State) (va : DWord) (level node i e : Nat) : Walked :=
  if 3 < level || bits e 5 2 / 4 != level then .bad Cause.ptFormat va
  else
    let g := 4 ^ (bits e 5 2 % 4)
    let i0 := i - i % g
    let pa0 := node + 8 * i0
    if s.poisonedAt pa0 8 then .bad Cause.poisonConsumed (BitVec.ofNat 64 pa0)
    else
      let e0 := s.fabNat pa0 8
      if !bit e0 0 || !bit e0 1 || bits e0 5 2 != bits e 5 2 then .bad Cause.ptFormat va
      else if s.badLeaf (BitVec.ofNat 64 e0) then .bad Cause.ptFormat va
      else .leaf pa0 (BitVec.ofNat 64 e0)

/-- The walk of R303 from a level downward. -/
def State.walkFrom (s : State) (va : DWord) : Nat → Nat → Walked
  | 0, node =>
    let i := vaIndex va 0
    let a := node + 8 * i
    if s.poisonedAt a 8 then .bad Cause.poisonConsumed (BitVec.ofNat 64 a)
    else
      let e := s.fabNat a 8
      if !bit e 0 then .bad Cause.pageFault va
      else if !bit e 1 then .bad Cause.ptFormat va
      else s.walkLeaf va 0 node i e
  | l + 1, node =>
    let i := vaIndex va (l + 1)
    let a := node + 8 * i
    if s.poisonedAt a 8 then .bad Cause.poisonConsumed (BitVec.ofNat 64 a)
    else
      let e := s.fabNat a 8
      if !bit e 0 then .bad Cause.pageFault va
      else if !bit e 1 then
        if s.badPointer e then .bad Cause.ptFormat va
        else State.walkFrom s va l (lowOf (bits e 51 11 * 2048))
      else s.walkLeaf va (l + 1) node i e

/-- The walk of a context's tree. -/
def State.walk (s : State) (ctx : Nat) (va : DWord) : Walked :=
  match (s.ctxOf ctx).root with
  | none => .bad Cause.pageFault va
  | some root => s.walkFrom va 5 root

/-- Whether a line (128 bytes) is cached by the host, so that a write waits for its answer (R438). -/
def State.hostHolds (s : State) (pa n : Nat) : Bool :=
  (natsFrom (pa / 128) (if n = 0 then 0 else (pa + n - 1) / 128 + 1 - pa / 128)).any (fun l => s.hostLines.contains l)

/-- The stored bytes that a write of n bytes at pa changes: all of a block that is compressed, or becomes so (R414, R415). -/
def State.writeLo (s : State) (pa : Nat) (comp : Bool) : Nat := if s.modeOf pa != 0 || comp then pa - pa % 256 else pa
def State.writeHi (s : State) (pa n : Nat) (comp : Bool) : Nat :=
  let z := pa + (n - 1)
  if s.modeOf z != 0 || comp then z - z % 256 + 256 else pa + n
/-- A write must first take a line of the block from the host (R438). -/
def State.writeHeld (s : State) (pa n : Nat) (comp : Bool) : Bool :=
  s.hostHolds (s.writeLo pa comp) (s.writeHi pa n comp - s.writeLo pa comp)

def TlbEntry.covers (e : TlbEntry) (bay ctx : Nat) (va : DWord) : Bool :=
  e.bay == bay && e.tile == tileOf ctx va && e.ctx == ctx && decide (e.base ≤ va.toNat) && decide (va.toNat < e.base + e.size)

def State.tlbFind (s : State) (bay ctx : Nat) (va : DWord) : Option TlbEntry := s.tlb.find? (fun e => e.covers bay ctx va)
def State.tlbDrop (s : State) (bay ctx : Nat) (va : DWord) : State :=
  { s with tlb := s.tlb.filter (fun e => !e.covers bay ctx va) }

/-- A tile caches at most 2,048 translations (R299). -/
def State.tlbAdd (s : State) (bay ctx : Nat) (va leaf : DWord) : State :=
  let t := tileOf ctx va
  let e : TlbEntry := ⟨bay, t, ctx, va.toNat - va.toNat % pageBytes leaf, pageBytes leaf, leaf⟩
  let mine := s.tlb.filter (fun x => x.bay == bay && x.tile == t)
  let rest := if 2048 ≤ mine.length then
      match mine with
      | [] => s.tlb
      | old :: _ => s.tlb.erase old
    else s.tlb
  { s with tlb := rest ++ [e] }

/-- A leaf's translation of an address, before the checks of R283 and R284. -/
def leafTarget (quad : Nat) (leaf : DWord) (va : DWord) : Xlat :=
  let pa := leafPa leaf + va.toNat % pageBytes leaf
  { pa := if leafMt leaf = 1 then quad / 4 * 2 ^ 18 + pa % 2 ^ 18 else pa, mt := leafMt leaf, ver := leaf.getLsbD 9 }

/-- The walk that fills a translation: A is set before the check (R303, R305). -/
def fillM (w : Who) (need : Need) (va : DWord) : Mach DWord := do
  let s ← get
  match s.walk w.ctx va with
  | .bad c a => raiseM c a
  | .leaf pa0 leaf =>
    if !leaf.getLsbD 10 then
      if s.writeHeld pa0 8 false then waitM
      set (s.fabWriteNat pa0 8 (leaf.toNat ||| 0x400))
    let leaf1 := leaf ||| 0x400
    match checkPerm leaf1 need with
    | some c => raiseM c va
    | none =>
      modify (fun s => s.tlbAdd w.bay w.ctx va leaf1)
      pure leaf1

/-- Translation of one request through its tile, with the check of R304. -/
def translateM (w : Who) (need : Need) (va : DWord) : Mach Xlat := do
  if !canonical va then raiseM Cause.addrNoncanonical va
  let s ← get
  let leaf ← match s.tlbFind w.bay w.ctx va with
    | some e =>
      if (checkPerm e.leaf need).isNone then pure e.leaf
      else do
        set (s.tlbDrop w.bay w.ctx va)
        fillM w need va
    | none => fillM w need va
  pure (leafTarget w.quad leaf va)

/-- Which agents R283 lets use a memory type; normal addresses lie in memory (R37, R283). -/
def targetOk (a : Agent) (x : Xlat) : Bool :=
  if x.mt = 0 then isNormal (lowOf x.pa)
  else if x.mt = 1 then a == .element
  else a == .core

/-- Whether a store or an atomic touches a marked barrier object (R201). -/
def State.touchesBarrier (s : State) (pa n : Nat) : Bool :=
  (natsFrom (pa / 32) (if n = 0 then 0 else (pa + n - 1) / 32 + 1 - pa / 32)).any (fun u => s.barriers.contains (u * 32))

def rangesMeet (a n b m : Nat) : Bool := decide (a < b + m) && decide (b < a + n)

/-- Whether a store or an atomic touches the descriptor or the ring of a queue with an end bound by this package, or of one of
this package with an end bound by another (R245). -/
def State.touchesQueue (s : State) (dpa n : Nat) : Bool :=
  s.regions.any (fun r => r.qends.any (fun p =>
    rangesMeet p.2.desc 64 dpa n || rangesMeet p.2.ring (2 ^ p.2.log2n * (if p.2.wide then 64 else 8)) dpa n))
    || (s.isLocal dpa && s.farEnds.any (fun f => rangesMeet f.desc 64 (lowOf dpa) n || rangesMeet f.ring f.bytes (lowOf dpa) n))

/-- The quarter checks of R284 for one byte. -/
def quarterCheck (s : State) (w : Who) (a : Nat) (va : DWord) : Option Stop :=
  match s.regionOfQuad (a / 2 ^ 16) with
  | none => some (.raise Cause.permFault va)
  | some r => if r.ctx != w.ctx then some (.isolate va)
    else if some r.id = w.region then none else some (.raise Cause.permFault va)

/-- Whether a need writes. -/
def Need.writes : Need → Bool
  | .store | .atomic => true
  | _ => false

/-! ### Links (R442, R444, R446) -/

def State.aport (s : State) (n : Nat) : APort := AMap.getD s.aports n {}
def State.setAport (s : State) (n : Nat) (p : APort) : State := { s with aports := AMap.set s.aports n p }

def popcount16 (m : BitVec 16) : Nat := (List.range 16).foldl (fun k i => if m.getLsbD i then k + 1 else k) 0

def nthSet (m : BitVec 16) : List Nat → Nat → Nat
  | [], _ => 0
  | p :: ps, k => if m.getLsbD p then (if k = 0 then p else nthSet m ps (k - 1)) else nthSet m ps k

/-- R442. -/
def State.routeMask (s : State) (p : Nat) : BitVec 16 := AMap.getD s.masks p 0
def State.portFor (s : State) (dpa : Nat) : Nat :=
  let m := s.routeMask (pkgOf dpa)
  nthSet m (List.range 16) ((lowOf dpa / 128) % 65521 % popcount16 m)

/-- The bay whose M-die serves an address: its home's, or that of the Agfel port its requests leave on. -/
def State.servedBy (s : State) (dpa : Nat) : Nat := if s.isLocal dpa then homeBay (lowOf dpa) else s.portFor dpa / 4
/-- Traffic between two bays passes the die-to-die link of each; one of them is down and retrains (R446; log entry 49). -/
def State.dieDown (s : State) (bay : Nat) (x : Xlat) : Bool :=
  let b := s.servedBy x.pa
  x.mt == 0 && b != bay && ((s.aport (16 + bay)).train || (s.aport (16 + b)).train)

/-- All checks of an access of n bytes at va: canonical, aligned, translated and permitted (R144, R173), and its target. -/
def checkM (w : Who) (need : Need) (va : DWord) (n : Nat) : Mach Xlat := do
  if !canonical va then raiseM Cause.addrNoncanonical va
  if va.toNat % n != 0 then raiseM Cause.misaligned va
  let x ← translateM w need va
  if !targetOk w.agent x then raiseM Cause.addrUnmapped va
  let s ← get
  if x.mt = 1 then
    match quarterCheck s w x.pa va with
    | some e => throw e
    | none =>
      match quarterCheck s w (x.pa + n - 1) va with
      | some e => throw e
      | none => pure ()
  if x.mt = 0 && need.writes && (s.isLocal x.pa && s.touchesBarrier (lowOf x.pa) n || s.touchesQueue x.pa n) then
    raiseM Cause.permFault va
  pure x

/-- The checks, after which the access waits while a die-to-die link on its way retrains. -/
def accessM (w : Who) (need : Need) (va : DWord) (n : Nat) : Mach Xlat := do
  let x ← checkM w need va n
  if (← get).dieDown w.bay x then waitM
  pure x

/-! ## Requests to other packages (R289, R442) -/

/-- Whether the mask of a package names a port that is up. -/
def State.reachable (s : State) (p : Nat) : Bool :=
  (List.range 16).any (fun n => (s.routeMask p).getLsbD n && (s.aport n).up)

/-- A request whose answer says only that it is over: it carries no value back. -/
def ReqKind.isWrite : ReqKind → Bool
  | .write | .vst | .vrcl | .bind | .record | .produced | .consumed | .mark => true
  | .load | .vld | .atomic | .harvest => false

/-- Records, under a number given before, a request that leaves for another package. -/
def State.sendAs (s : State) (id : Nat) (kind : ReqKind) (owner : ReqOwner) (ctx dpa n : Nat) (data : Line) : State :=
  let p := s.portFor dpa
  { s.setAport p { s.aport p with sent := (s.aport p).sent + 1 } with
    reqs := s.reqs ++ [⟨id, kind, owner, ctx, dpa, p, s.cyc, n, data, false⟩] }
/-- Records a request that leaves for another package. While a new mask waits, requests are held (R442). -/
def State.sendReq (s : State) (kind : ReqKind) (owner : ReqOwner) (ctx dpa n : Nat) (data : Line) : Nat × State :=
  (s.nextId, { s.sendAs s.nextId kind owner ctx dpa n data with nextId := s.nextId + 1 })
/-- An answer leaves the package, to the host or to a peer. -/
def State.answer (s : State) (peer : Bool) (addr : Nat) (kind : AnswerKind) (data : BitVec 512) : State :=
  { s with answers := s.answers ++ [⟨peer, addr, kind, data⟩] }
/-- An answer to a peer is a flit of the port that its request came through (R444). -/
def State.answerPeer (s : State) (port addr : Nat) (kind : AnswerKind) (data : Nat) : State :=
  (s.setAport port { s.aport port with sent := (s.aport port).sent + 1 }).answer true addr kind (BitVec.ofNat 512 data)
/-- A request of a peer that an accepted flit has brought (R444): the port it came through, and the state without it. -/
def State.peerPort (s : State) : Option Nat := (List.range 16).find? (fun n => (s.aport n).up && decide (0 < (s.aport n).peerIn))
def State.takePeer (s : State) : Option State := s.peerPort.map (fun n => s.setAport n { s.aport n with peerIn := (s.aport n).peerIn - 1 })
def State.maskHeld (s : State) (p : Nat) : Bool := (AMap.find? s.newMasks p).isSome
/-- An access of an agent of a bay can not leave now: a die-to-die link on its way retrains (R446), or a new route mask waits (R442). -/
def State.linkHeld (s : State) (bay : Nat) (x : Xlat) : Bool :=
  s.dieDown bay x || (x.mt == 0 && !s.isLocal x.pa && s.maskHeld (pkgOf x.pa))

/-! ## Fault records (R366, R367) -/

/-- Sector a record's location names: the source of its copy in the event log. -/
def FaultRec.src (r : FaultRec) : Nat := r.srcIs.getD (if r.mkind = 1 then r.loc % 256 else r.loc / 64)

/-- The eight doublewords of a record (R367). -/
def FaultRec.words (r : FaultRec) (cyc seqn : Nat) : List Nat :=
  [ r.cause.toNat + 2 ^ 8 * (r.cls % 8) + (if r.applied then 2 ^ 11 else 0) + (if r.oldv then 2 ^ 12 else 0)
      + 2 ^ 16 * (r.mkind % 8) + 2 ^ 24 * (r.ctx % 64),
    r.mid % 2 ^ 32, r.addr.toNat, r.loc % 2 ^ 14 + 2 ^ 16 * (r.jidx % 2 ^ 12) + 2 ^ 32 * (r.slot % 32),
    r.pc.toNat, r.old.toNat, cyc % 2 ^ 64, seqn % 2 ^ 32 ]

def wordsBytes : List Nat → List Byte
  | [] => []
  | w :: ws => leBytes w 8 ++ wordsBytes ws

/-- A write by the part itself: the host's copies go first, within the step (R438, log entry 22). -/
def State.partWrite (s : State) (pa : Nat) (bs : List Byte) : State :=
  let lo := s.writeLo pa false / 128
  let hi := (s.writeHi pa bs.length false - 1) / 128
  ({ s with hostLines := s.hostLines.filter (fun l => decide (l < lo) || decide (hi < l)) }).fabWrite pa bs

/-- Where a part access goes: normal memory of this package or of another (R366, R441). -/
def partAddr (ctx : Nat) (need : Need) (va : DWord) : Mach Xlat := do
  let x ← translateM (whoPart ctx) need va
  let s ← get
  if x.mt != 0 || !isNormal (lowOf x.pa) then raiseM Cause.addrUnmapped va
  if !s.isLocal x.pa && s.maskHeld (pkgOf x.pa) then waitM
  pure x

/-- The LINK_REPLAY record of an access that the part itself makes for a fault queue stands in the event log alone: the queue cannot take
it (log entry 78). -/
def State.partLost (s : State) (ctx dpa : Nat) : State := s.evlWrite Cause.linkReplay ctx (s.portFor dpa) (BitVec.ofNat 64 dpa) 0

/-- Eight bytes read by the part. Another package answers later; one that no port reaches answers poison. -/
def partRead8 (ctx : Nat) (va : DWord) : Mach Nat := do
  let x ← partAddr ctx .load va
  let s ← get
  if s.isLocal x.pa then
    if s.poisonedAt (lowOf x.pa) 8 then raiseM Cause.poisonConsumed va
    pure (s.fabNat (lowOf x.pa) 8)
  else
    match s.remoteReads.find? (fun r => r.reader == .part && r.addr == x.pa && r.size == 8) with
    | some r =>
      (match r.answer with
      | some (v, p) => if p then raiseM Cause.poisonConsumed va else pure v
      | none => waitM)
    | none =>
      if !s.reachable (pkgOf x.pa) then
        set (s.partLost ctx x.pa)
        raiseM Cause.poisonConsumed va
      let s1 := (s.sendReq .load .other ctx x.pa 8 0).2
      let asked : RemRead := ⟨.part, x.pa, 8, s.nextId, none⟩
      set { s1 with remoteReads := s1.remoteReads ++ [asked] }
      waitM

/-- Bytes written by the part at a place it has translated; a package that no port reaches takes nothing (R442). -/
def State.partStore (s : State) (ctx : Nat) (x : Xlat) (bs : List Byte) : State :=
  if s.isLocal x.pa then s.partWrite (lowOf x.pa) bs
  else if s.reachable (pkgOf x.pa) then (s.sendReq .write .other ctx x.pa bs.length (BitVec.ofNat 512 (leNat bs))).2
  else s.partLost ctx x.pa

/-- What became of a record: written, dropped for want of room, refused with the cause of DATA1 (the flag says whether DROPS counts
it), or waiting for an answer of another package. -/
inductive FqResult where
  | written
  | full
  | refused (why : Byte) (count : Bool)
  | waits
  deriving DecidableEq, Repr

/-- The header of a context's fault queue as the part reads it (R366): BASE, LOG2N word, PROD, CONS, DROPS. -/
def fqHeader (ctx : Nat) (fq : DWord) : Mach (Nat × Nat × Nat × Nat × Nat) := do
  let base ← partRead8 ctx fq
  let l ← partRead8 ctx (fq + 8)
  let p ← partRead8 ctx (fq + 0x10)
  let c ← partRead8 ctx (fq + 0x18)
  let d ← partRead8 ctx (fq + 0x20)
  let _ ← partAddr ctx .store (fq + 0x10)
  let _ ← partAddr ctx .store (fq + 0x20)
  pure (base, l, p, c, d)

/-- Adds 1 to DROPS. -/
def State.addDrop (s : State) (ctx : Nat) (fq : DWord) (d : Nat) : State :=
  match (partAddr ctx .store (fq + 0x20)).exec s with
  | (.ok x, s1) => s1.partStore ctx x (leBytes (d + 1) 4)
  | (.error _, s1) => s1

def State.tryRecord (s : State) (r : FaultRec) : FqResult × State :=
  let fq := (s.ctxOf r.ctx).fqaddr
  if fq = 0 then (.refused 0 false, s)
  else
    match (fqHeader r.ctx fq).exec s with
    | (.error (.raise c _), s1) => (.refused c false, s1)
    | (.error _, s1) => (.waits, s1)
    | (.ok (base, l, p, c, d), s1) =>
      let n := l % 32
      if n < 4 || 16 < n || base % (64 * 2 ^ n) != 0 then (.refused 0 true, s1.addDrop r.ctx fq (d % 2 ^ 32))
      else if 2 ^ n ≤ (p + 2 ^ 64 - c) % 2 ^ 64 then (.full, s1.addDrop r.ctx fq (d % 2 ^ 32))
      else
        match (partAddr r.ctx .store (BitVec.ofNat 64 (base + 64 * (p % 2 ^ n)))).exec s1 with
        | (.error (.raise c _), s2) => (.refused c true, s2.addDrop r.ctx fq (d % 2 ^ 32))
        | (.error _, s2) => (.waits, s2)
        | (.ok x, s2) =>
          let s3 := s2.partStore r.ctx x (wordsBytes (r.words (r.seen.getD s2.cyc) p))
          match (partAddr r.ctx .store (fq + 0x10)).exec s3 with
          | (.ok y, s4) => (.written, (s4.partStore r.ctx y (leBytes (p + 1) 8)).sendMsix (32 * r.ctx))
          | (.error _, s4) => (.written, s4)

/-- Forgets the answers a finished command held. -/
def State.endReads (s : State) (r : Reader) : State :=
  { s with remoteReads := s.remoteReads.filter (fun x => x.reader != r) }

/-- One attempt to write a fault record to its context's queue, with the copies and drops of R366 and R451; whether it waits. -/
def State.recordNow (s : State) (r : FaultRec) : Bool × State :=
  match s.tryRecord r with
  | (.waits, s1) => (true, s1)
  | (.refused why _, s1) =>
    (false, (s1.evlWrite r.cause r.ctx r.src (s.ctxOf r.ctx).fqaddr (BitVec.ofNat 64 why.toNat)).endReads .part)
  | (_, s1) => (false, (if Cause.logged r.cause then s1.evlWrite r.cause r.ctx r.src r.addr 0 else s1).endReads .part)

/-- A record that must wait keeps its place and its cycle of detection. -/
def State.keepRecord (s : State) (r : FaultRec) : State :=
  { s with recQueue := s.recQueue ++ [{ r with seen := some (r.seen.getD s.cyc) }] }

/-- Writes a fault record, in order with those that still wait. -/
def State.record (s : State) (r : FaultRec) : State :=
  if s.recQueue.isEmpty then
    match s.recordNow r with
    | (true, s1) => s1.keepRecord r
    | (false, s1) => s1
  else s.keepRecord r

/-- The oldest waiting record is tried again. -/
def State.pumpRecord (s : State) : State :=
  match s.recQueue with
  | [] => s
  | r :: rest =>
    match s.recordNow r with
    | (true, s1) => s1
    | (false, s1) => { s1 with recQueue := rest }

/-- A request to a package that no port reaches: LINK_REPLAY, with the port the mask names for its line (R364, R442). -/
def State.linkLost (s : State) (ctx dpa : Nat) : State :=
  s.record { cause := Cause.linkReplay, cls := 2, mkind := 4, ctx := ctx, addr := BitVec.ofNat 64 dpa, srcIs := some (s.portFor dpa) }

/-! ## Master identifiers (R225) -/

def midCore (c : Nat) : Nat := 2 ^ 28 + coreSector c
def midRegion (word : DWord) : Nat := word.toNat % 2 ^ 28
def midEngine (word : DWord) : Nat := 2 ^ 29 + word.toNat % 2 ^ 28
def midQueue (q : Nat) : Nat := 3 * 2 ^ 28 + q

/-- An error record of a core's stream, launch or access (R367). -/
def State.coreError (s : State) (c ctx : Nat) (cause : Byte) (addr pc : DWord) : State :=
  s.record { cause := cause, cls := 2, mkind := 1, ctx := ctx, mid := midCore c, addr := addr, loc := coreSector c, pc := pc }

/-! ## Taking a precise fault, an event, and the return -/

/-- A core leaves the instruction it was in: the answers it held go, and a vst or a vld that waits for a version is withdrawn (R167,
R178, R357). -/
def State.leaveInstr (s : State) (c : Nat) : State :=
  let mine := s.remoteReads.filter (fun r => r.reader == Reader.core c)
  { s with
    remoteReads := s.remoteReads.filter (fun r => r.reader != Reader.core c)
    vldWaits := s.vldWaits.filter (fun v => v.owner != VldOwner.step c)
    vstQueue := s.vstQueue.filter (fun v => v.owner != VldOwner.step c)
    reqs := s.reqs.filter (fun q => !(q.kind == .vst && mine.any (fun r => r.req == q.id))) }

/-- R168: the sequencer stops with epc at the instruction, ecause and eaddr set, and a fault record in its context's queue. -/
def State.preciseFault (s : State) (c : Nat) (cause : Byte) (addr : DWord) : State :=
  let x := s.core c
  let s1 := s.setCore c { x with
    run := .stopped, epc := x.pc, ecause := cause.zeroExtend 64, eaddr := addr, waitFrom := none, woken := false }
  (s1.leaveInstr c).record
    { cause := cause, cls := 0, mkind := 1, ctx := s.coreCtx c, mid := midCore c, addr := addr, loc := coreSector c, pc := x.pc }

/-- R363: a core frozen at an instruction stops before it, with epc at it. -/
def State.isolateCore (s : State) (c : Nat) (addr : DWord) : State :=
  let x := s.core c
  let s1 := s.setCore c { x with run := .stopped, frozen := true, epc := x.pc, waitFrom := none, woken := false }
  (s1.leaveInstr c).record
    { cause := Cause.isolationFreeze, cls := 0, mkind := 1, ctx := s.coreCtx c, mid := midCore c, addr := addr,
      loc := coreSector c, pc := x.pc }

/-- The first queued event of the context the core runs (R222, R362). -/
def State.nextEvent (s : State) (c : Nat) : Option Event := (s.core c).events.find? (fun e => e.ctx == s.coreCtx c)

def eraseEvent : List Event → Event → List Event
  | [], _ => []
  | h :: t, e => if h = e then t else h :: eraseEvent t e

/-- R222: epc, ecause, eaddr, erg, EVT and pc are written; the entry leaves the queue. -/
def State.takeEvent (s : State) (c : Nat) (e : Event) : State :=
  (s.leaveInstr c).updCore c (fun x => { x with
    epc := x.pc, ecause := e.cause.zeroExtend 64, eaddr := e.addr, erg := e.word, evt := true, pc := x.evec
    events := eraseEvent x.events e, waitFrom := none, woken := false })

/-- An instruction address: bits [1:0] of pc are always zero (R156). -/
def pcOf (v : DWord) : DWord := v &&& ~~~(3 : DWord)

/-- The return of R221: pc = epc, EVT = 0. -/
def State.returnEvent (s : State) (c : Nat) : State := s.updCore c (fun x => { x with pc := pcOf x.epc, evt := false })

/-! ## Posting an event (R222) -/

/-- At most four entries; a full queue leaves the region unposted until an entry frees. -/
def State.postEvent (s : State) (c : Nat) (e : Event) : State :=
  if (s.core c).events.length < Config.eventQueueSize then
    s.updCore c (fun x => { x with events := x.events ++ [e], woken := true })
  else s

/-! ## Semaphores (R192, R193, R195) -/

def Sema.add (m : Sema) (n : Nat) : Sema :=
  if 0xFFFFFFFF < m.count.toNat + n then { count := 0xFFFFFFFF, e := true } else { m with count := BitVec.ofNat 32 (m.count.toNat + n) }

/-- Adds n to semaphore i of a core and wakes its wait (R221). -/
def State.semaAdd (s : State) (c i n : Nat) : State :=
  s.updCore c (fun x => { x with
    sema := x.sema.setIfInBounds i ((x.sema.getD i {}).add n), woken := true })

/-- Sets the error bit of a semaphore (R187, R206). -/
def State.semaErr (s : State) (c i : Nat) : State :=
  s.updCore c (fun x => { x with sema := x.sema.setIfInBounds i { x.sema.getD i {} with e := true } })

/-- Whether a signal from context ctx may reach the semaphore's sequencer (R195). -/
def State.semaReach (s : State) (ctx name : Nat) : Bool := s.coreCtx (name / 64) == ctx
def State.semaNamed (s : State) (name n : Nat) : State := s.semaAdd (name / 64 % 256) (name % 64) n

/-! ## Reads and writes by virtual address -/

/-- The answer another package gave to a read of the current command, or the request for it (R289, R442, R364). -/
def remoteReadM (w : Who) (dpa n : Nat) : Mach (Nat × Bool) := do
  let s ← get
  match s.remoteReads.find? (fun r => r.reader == w.reader && r.addr == dpa && r.size == n) with
  | some r =>
    match r.answer with
    | some a => pure a
    | none => waitM
  | none =>
    if s.maskHeld (pkgOf dpa) then waitM
    if !s.reachable (pkgOf dpa) then
      let s1 := s.linkLost w.ctx dpa
      let known : RemRead := ⟨w.reader, dpa, n, 0, some (0, true)⟩
      set { s1 with remoteReads := s1.remoteReads ++ [known] }
      pure (0, true)
    else
      let s1 := (s.sendReq .load .other w.ctx dpa n 0).2
      let asked : RemRead := ⟨w.reader, dpa, n, s.nextId, none⟩
      set { s1 with remoteReads := s1.remoteReads ++ [asked] }
      waitM

/-- The bytes at a translated address and whether they are poison. -/
def readAtM (w : Who) (x : Xlat) (n : Nat) : Mach (Nat × Bool) := do
  let s ← get
  if x.mt = 1 then pure (leNat (s.scrRead x.pa n), s.scrPoisoned x.pa n)
  else if s.isLocal x.pa then pure (s.fabNat (lowOf x.pa) n, s.poisonedAt (lowOf x.pa) n)
  else remoteReadM w x.pa n

/-- A write at a translated address. A line the host holds is invalidated first (R438). -/
def writeAtM (w : Who) (x : Xlat) (bs : List Byte) (owner : ReqOwner) : Mach Unit := do
  let s ← get
  if x.mt = 1 then set (s.scrWrite x.pa bs)
  else if s.isLocal x.pa then
    if s.writeHeld (lowOf x.pa) bs.length false then waitM
    set (s.fabWrite (lowOf x.pa) bs)
  else
    if s.maskHeld (pkgOf x.pa) then waitM
    if !s.reachable (pkgOf x.pa) then
      set (s.linkLost w.ctx x.pa)
    else
      set (s.sendReq .write owner w.ctx x.pa bs.length (BitVec.ofNat 512 (leNat bs))).2

/-! ## What a sequencer's own accesses wait for (R166, R174, R313) -/

/-- An entry of the range scoreboard overlaps an access (R313). -/
def Score.hit (e : Score) (sector ctx : Nat) (va : DWord) (n : Nat) : Bool :=
  e.sector == sector && e.ctx == ctx && decide (e.lo < va.toNat + n) && decide (va.toNat ≤ e.hi)
def State.scoreHit (s : State) (sector ctx : Nat) (va : DWord) (n : Nat) : Bool := s.score.any (fun e => e.hit sector ctx va n)
/-- The streams whose entries it meets. -/
def State.scoreHits (s : State) (sector ctx : Nat) (va : DWord) (n : Nat) : List Nat :=
  (s.score.filter (fun e => e.hit sector ctx va n)).map (fun e => e.stream)

/-- A held access has a byte in common with n bytes at a translated address (R323). -/
def Held.meets (h : Held) (x : Xlat) (n : Nat) : Bool :=
  (h.mt == 1) == (x.mt == 1) && decide (h.pa < x.pa + n) && decide (x.pa < h.pa + h.size)

/-- Entries of the scoreboard that an access of a core meets; the Sceip core lies in no sector. -/
def State.coreHits (s : State) (c ctx : Nat) (va : DWord) (n : Nat) : List Nat :=
  if c = Config.sceip then [] else s.scoreHits c ctx va n

/-- The bytes are those of an access that a core has issued and that is not yet performed. -/
def State.behindHeld (s : State) (c : Nat) (x : Xlat) (n : Nat) : Bool := (s.core c).held.any (fun h => h.meets x n)

/-- A read or a write that a command makes for a core waits for the copies it meets, and behind the core's own accesses to the same
bytes. -/
def State.coreWaits (s : State) (w : Who) (va : DWord) (x : Xlat) (n : Nat) : Bool :=
  match w.reader with
  | .core c => !(s.coreHits c w.ctx va n).isEmpty || s.behindHeld c x n
  | .launch id => s.launches.any (fun l => l.id == id && !(s.coreHits l.core w.ctx va n).isEmpty)
  | _ => false

/-- A load of n bytes by a command; poison raises POISON_CONSUMED (R181, R215, R225, R303). A device page takes plain loads of a
core alone (R285), which are not read this way. -/
def loadM (w : Who) (va : DWord) (n : Nat) : Mach Nat := do
  let x ← accessM w .load va n
  if x.mt = 2 then raiseM Cause.permFault va
  if (← get).coreWaits w va x n then waitM
  let (v, p) ← readAtM w x n
  if p then raiseM Cause.poisonConsumed va
  pure v

/-- n doublewords from va. -/
def loadWordsM (w : Who) (va : DWord) : Nat → Mach (List Nat)
  | 0 => pure []
  | n + 1 => do
    let v ← loadM w va 8
    let t ← loadWordsM w (va + 8) n
    pure (v :: t)

def storeM (w : Who) (va : DWord) (n v : Nat) (owner : ReqOwner) : Mach Unit := do
  let x ← accessM w .store va n
  if (← get).coreWaits w va x n then waitM
  writeAtM w x (leBytes v n) owner

end Sys2Proof.Machine
end

