-- ==== Sys2Proof/Machine/Access.lean ====
section
/-!
DEFINITION. Access.lean: what memory does for atomics (R151, R175, R176), for the answers of waiting vlds (R146, R296, R334), and
for the range scoreboard (R312 to R314): shared by elements, sequencers, peers and islands.
-/
namespace Sys2Proof.Machine

/-- The new value of an atomic, or none where it writes nothing: `op` is the operand, or the compare value of a compare-and-swap
whose new value is `new`. -/
def amoResult (k : AmoKind) (size old op new : Nat) : Option Nat :=
  let m := 2 ^ (8 * size)
  let sgn := fun (v : Nat) => if v % m < m / 2 then ((v % m : Nat) : Int) else ((v % m : Nat) : Int) - m
  match k with
  | .add => some ((old + op) % m)
  | .min => some (if sgn op < sgn old then op % m else old)
  | .max => some (if sgn old < sgn op then op % m else old)
  | .band => some (old &&& (op % m))
  | .bor => some (old ||| (op % m))
  | .xchg => some (op % m)
  | .cas => if old = op % m then some (new % m) else none
  | .fadd => some (Fmt.f32.addBits old (op % m))

/-- The frame bits of the frames that n bytes at pa touch are set (R308). -/
def State.noteFrames (s : State) (pa n : Nat) : State :=
  { s with frames := NSet.insertAll s.frames (natsFrom (pa / 4096) ((pa + n - 1) / 4096 + 1 - pa / 4096)) }

/-- An atomic at a translated address of this package or a scratchpad: old value and whether its bytes are poison; poisoned
bytes are not written (R152, R176). An atomic that writes nothing is performed all the same: its frame bit is set (R308). -/
def amoAtM (x : Xlat) (k : AmoKind) (size op new : Nat) : Mach (Nat × Bool) := do
  let s ← get
  if x.mt = 1 then
    if s.scrPoisoned x.pa size then pure (0, true)
    else
      let old := leNat (s.scrRead x.pa size)
      match amoResult k size old op new with
      | some v => set (s.scrWrite x.pa (leBytes v size))
      | none => pure ()
      pure (old, false)
  else
    let pa := lowOf x.pa
    if s.poisonedAt pa size then
      set (s.noteFrames pa size)
      pure (0, true)
    else
      let old := s.fabNat pa size
      match amoResult k size old op new with
      | some v =>
        if s.writeHeld pa size false then waitM
        set (s.fabWriteNat pa size v)
      | none => set (s.noteFrames pa size)
      pure (old, false)

/-! ## Reads through the windows of a region (R116, R331) -/

def Region.acc? (r : Region) (n : Nat) : Option Acc := r.accs.find? (fun a => a.serial == n)
def Region.setAcc (r : Region) (x : Acc) : Region := { r with accs := r.accs.map (fun a => if a.serial = x.serial then x else a) }

/-- Where an access goes, once translated. -/
def Acc.xlat (a : Acc) : Option Xlat :=
  match a.st with
  | .ready x | .remote x | .waiting x | .refused x => some x
  | _ => none

/-- The byte of the latest buffered store before serial n that covers address a (R116). -/
def Region.forwarded (r : Region) (n mt a : Nat) : Option Byte :=
  r.accs.foldl (fun found b =>
    match b.kind, b.xlat with
    | .store, some x =>
      if b.serial < n && x.mt == mt && x.pa ≤ a && a < x.pa + b.size then some (b.data.extractLsb' (8 * (a - x.pa)) 8) else found
    | _, _ => found) none

/-- Every byte comes from the windows. -/
def Region.covered (r : Region) (n : Nat) (x : Xlat) (size : Nat) : Bool :=
  (natsFrom x.pa size).all (fun a => (r.forwarded n x.mt a).isSome)

/-- The bytes of an answer from another package, with those that the windows held when the request left. -/
def overlay (a : Acc) (d : Wide) : Nat → List Byte
  | 0 => []
  | k + 1 =>
    let i := a.size - (k + 1)
    (if a.new.getLsbD i then a.data.extractLsb' (8 * i) 8 else d.extractLsb' (8 * i) 8) :: overlay a d k

/-- Records the bytes that the windows hold of a load that leaves for another package. -/
def Region.withForward (r : Region) (a : Acc) (x : Xlat) : Acc :=
  (List.range a.size).foldl (fun y i =>
    match r.forwarded a.serial x.mt (x.pa + i) with
    | some b => { y with new := y.new ||| ((1 : DWord) <<< i), data := y.data ||| (b.zeroExtend 256 <<< (8 * i)) }
    | none => y) a

/-- A value of this package's memory with the bytes that the windows hold of it; poison shows unless they hold it all. -/
def Region.throughWindows (r : Region) (a : Acc) (x : Xlat) (v : DWord) (poison : Bool) : Wide × Bool :=
  let y := r.withForward { a with data := 0, new := 0 } x
  (BitVec.ofNat 256 (leNat (overlay y (v.zeroExtend 256) a.size)), poison && !r.covered a.serial x a.size)

/-- The answer of another package to a vld of the newest version is read through the windows that are uncommitted now; `early` names the
bytes that the home read before it performed the stores which the windows held as the request left (R323, R335). -/
def Region.answeredVld (r : Region) (a : Acc) (x : Xlat) (reply : Reply) : Wide × Bool :=
  if reply.version = 3 then
    let sent : Acc := { a with new := a.new &&& reply.early.zeroExtend 64 }
    let v := r.throughWindows a x (BitVec.ofNat 64 (leNat (overlay sent reply.wide a.size))) false
    (v.1, reply.poison && !(List.range a.size).all (fun i => sent.new.getLsbD i || (r.forwarded a.serial x.mt (x.pa + i)).isSome))
  else (reply.wide, reply.poison)

/-! ## Waiting vlds -/

/-- Requests waiting at the home slice of a word. -/
def State.vldWaiting (s : State) (slice : Nat) : Nat := (s.vldWaits.filter (fun w => homeSlice (w.word * 8) == slice)).length

/-- The list of a home slice holds 1,024 requests (R296). -/
def State.vldListFull (s : State) (pa : Nat) : Bool := decide (1024 ≤ s.vldWaiting (homeSlice pa))

/-- The access of a region that waited for a version is answered: it reads the version through its region's windows (R114, R116, R331). -/
def Region.wakeVld (r : Region) (acc : Nat) (v : DWord) : Region :=
  match r.acc? acc with
  | none => r
  | some a =>
    match a.st with
    | .waiting x => r.setAcc { a with st := .done, result := some (r.throughWindows a x v false) }
    | _ => r

/-- Hands the value of a version just created to the owner of a waiting vld; a peer reads it as it is stored (R415). -/
def State.answerVld (s : State) (w : VldWait) (v : DWord) : State :=
  match w.owner with
  | .region id acc => s.updRegion id (fun r => r.wakeVld acc v)
  | .core c pend =>
    s.updCore c (fun x => { x with pend := x.pend.map (fun p =>
      if p.id = pend then { p with result := some (v, false), vldWait := none } else p) })
  | .launch id => { s with remoteReads := s.remoteReads ++ [⟨.launch id, w.word * 8, 0, 0, some (v.toNat, false)⟩] }
  | .step c => { s with remoteReads := s.remoteReads ++ [⟨.core c, w.word * 8, 0, 0, some (v.toNat, false)⟩] }
  | .peer port => s.answerPeer port (w.word * 8) .newest (leNat (s.hostRead (w.word * 8) 8))

def State.answerAll (s : State) (v : DWord) : List VldWait → State
  | [] => s
  | w :: ws => State.answerAll (s.answerVld w v) v ws

/-- A vst, and in the same step the answers to every vld that waits for the version it creates (R146, R333). -/
def State.createVersion (s : State) (pa : Nat) (v : DWord) : State :=
  let s1 := s.vst pa v
  let n := (s1.vtag pa).newest
  let mine := fun (w : VldWait) => w.word == pa / 8 && w.version == n
  { s1 with vldWaits := s1.vldWaits.filter (fun w => !mine w) }.answerAll v (s1.vldWaits.filter mine)

/-! ## Waiting vsts (R147, R295, R334, R337) -/

/-- A vst finds no free version, or another vst of its word has waited here for longer. -/
def State.vstHeld (s : State) (pa : Nat) (o : VldOwner) : Bool :=
  s.vstBlocked pa || (match s.vstQueue.find? (fun w => w.word == pa / 8) with
    | some w => w.owner != o
    | none => false)

/-- It waits behind those that arrived before it. -/
def State.vstJoin (s : State) (pa : Nat) (o : VldOwner) : State :=
  let w : VstWait := ⟨pa / 8, o⟩
  { s with vstQueue := s.vstQueue ++ [w] }
/-- The same for one that looks again. -/
def State.vstStay (s : State) (pa : Nat) (o : VldOwner) : State :=
  if s.vstQueue.contains ⟨pa / 8, o⟩ then s else s.vstJoin pa o

/-- It no longer waits: its version is created, or it is given up. -/
def State.vstGone (s : State) (pa : Nat) (o : VldOwner) : State := { s with vstQueue := s.vstQueue.erase ⟨pa / 8, o⟩ }

/-- Above every value: a version that is gone; the newest version, as its home says; and a write or an atomic that its home refused. -/
def goneMark : Nat := 2 ^ 64
def newestMark : Nat := 2 ^ 65
def refusedMark : Nat := 2 ^ 300
/-- The answer, as a number, by which a home says that a vst waits there for a free version. -/
def vstWaits : Nat := 2 ^ 64
/-- What a command has another package perform, of n bytes, stands among its requests under this size: it is done once. -/
def doneSize (n : Nat) : Nat := 64 + n
/-- A vst that waited here across a die-to-die link is over: the link failed, and it was not performed (R364, R446). -/
def State.vstLost (s : State) (w : Who) (pa : Nat) : Bool :=
  s.remoteReads.any (fun r => r.reader == w.reader && r.addr == pa && r.size == doneSize 8 && r.answer.isSome)
/-- It has been performed, and the command has still to take its answer. -/
def RemRead.performed (r : RemRead) : Bool :=
  decide (64 < r.size) && (match r.answer with
    | some v => v.1 != vstWaits
    | none => false)

/-- A vld by a command waits at the home slice of its word until the version is there: value, poison, and whether it is the newest
version (R146, R207, R357). -/
def homeVldM (w : Who) (owner : VldOwner) (va : DWord) (x : Xlat) (ver : Word) : Mach (DWord × Bool × Bool) := do
  let s ← get
  let here := s.isLocal x.pa
  let at_ := if here then lowOf x.pa else x.pa
  match s.remoteReads.find? (fun r => r.reader == w.reader && r.addr == at_ && r.size == 0) with
  | some r =>
    (match r.answer with
    | some (v, p) => if goneMark ≤ v && v < newestMark then raiseM Cause.versionGone va
      else pure (BitVec.ofNat 64 v, p, here || decide (newestMark ≤ v))
    | none => waitM)
  | none =>
    if here then
      match s.judgeVld at_ ver with
      | .gone => raiseM Cause.versionGone va
      | .value y p => pure (y, p, ver == (s.vtag at_).newest)
      | .notYet =>
        if !s.vldWaits.any (fun v => v.owner == owner) && !s.vldListFull at_ then
          let wait : VldWait := ⟨at_ / 8, ver, owner⟩
          set { s with vldWaits := s.vldWaits ++ [wait] }
        waitM
    else
      if s.maskHeld (pkgOf at_) then waitM
      if !s.reachable (pkgOf at_) then
        set (s.linkLost w.ctx at_)
        pure (0, true, true)
      else
        let asked : RemRead := ⟨w.reader, at_, 0, s.nextId, none⟩
        let s1 := (s.sendReq .vld .other w.ctx at_ 8 (ver.zeroExtend 512)).2
        set { s1 with remoteReads := s1.remoteReads ++ [asked] }
        waitM

end Sys2Proof.Machine
end

