-- ==== Sys2Proof/WellFormed.lean ====
section
/-!
DEFINITION. WellFormed.lean: which instruction terms an encoding of the spec can hold: the checks of R88, R95 to R103 and
R129 that depend on one word alone, and the field limits of the sequencer's formats. Widths of channels (R100) and routed
response channels (R103) depend on the element's other words; the load checks them (Machine/Load.lean).
-/
namespace Sys2Proof

/-- A scalar source that is a channel: in0 to in3, k0 to k3 (R95). -/
def isChan (r : Reg) : Bool := 16 ≤ r.toNat && r.toNat ≤ 23
/-- A vector source code that R96 allocates; one that is a wide channel; a vector destination. -/
def isVecSrc (r : Reg) : Bool := r.toNat ≤ 7 || (16 ≤ r.toNat && r.toNat ≤ 19) || 24 ≤ r.toNat
def isVecChan (r : Reg) : Bool := 16 ≤ r.toNat && r.toNat ≤ 19
def isVecDst (r : Reg) : Bool := r.toNat ≤ 7 || (16 ≤ r.toNat && r.toNat ≤ 19)
/-- A flag may be set only on a channel (R88). -/
def flagOn (flag chan : Bool) : Bool := !flag || chan

def okR (f : ElemRec) : Bool := flagOn f.dqa (isChan f.a) && flagOn f.dqb (isChan f.b)
def okFma (f : ElemRec) : Bool := f.d.toNat < 16 && okR f
/-- Class U: bits of the modifier field outside `mask` are zero, DQB is zero (R97, R98). -/
def okU (mask : Nat) (f : ElemRec) : Bool :=
  flagOn f.dqa (isChan f.a) && !f.dqb && (f.b &&& ~~~(BitVec.ofNat 5 mask)) == 0
def okLane (f : ElemRec) : Bool :=
  isVecDst f.d && isVecSrc f.a && isVecSrc f.b && flagOn f.dqa (isVecChan f.a) && flagOn f.dqb (isVecChan f.b)
def okVfma (f : ElemRec) : Bool := f.d.toNat < 8 && okLane f
def okBcast (f : ElemRec) : Bool := isVecDst f.d && f.b == 0 && flagOn f.dqa (isChan f.a) && !f.dqb
def okExt (f : ElemRec) : Bool := isVecSrc f.a && f.b.toNat < 8 && flagOn f.dqa (isVecChan f.a) && !f.dqb
def okIns (f : ElemRec) : Bool := f.d.toNat < 8 && f.b.toNat < 8 && flagOn f.dqa (isChan f.a) && !f.dqb
def okReduce (f : ElemRec) : Bool := isVecSrc f.a && f.b == 0 && flagOn f.dqa (isVecChan f.a) && !f.dqb

/-! Class C (R129). -/
def okPwr (f : ElemRec) : Bool := f.d == 0 && okR f && !f.sp && !f.tp
def okPrd (f : ElemRec) : Bool :=
  (f.d.toNat < 20 || 28 ≤ f.d.toNat) && f.a == 0 && f.b == 0 && !f.dqa && !f.dqb && !f.tp
def okSteer (f : ElemRec) : Bool :=
  (f.d == 16 || f.d == 18) && isChan f.b && flagOn f.dqa (isChan f.a) && f.dqb && !f.tp
def okMerge (f : ElemRec) : Bool :=
  isVecChan f.d && (f.b == 16 || f.b == 18) && flagOn f.dqa (isChan f.a) && f.dqb && !f.tp
def okRep (f : ElemRec) : Bool := isVecChan f.d && f.b.toNat < 16 && flagOn f.dqa (isChan f.a) && !f.dqb
def okSweep (f : ElemRec) : Bool := f.d == 0 && isChan f.a && f.b == 0 && !f.dqb && !f.tp
def okStop (f : ElemRec) : Bool := (isVecChan f.d || f.d == 28) && okR f
def okTagSet (f : ElemRec) : Bool := (isVecChan f.d || f.d == 28) && okR f && !f.tp
def okTagGet (f : ElemRec) : Bool := isChan f.a && f.b == 0 && !f.dqb && !f.tp
def okSend (f : ElemRec) : Bool :=
  (f.d == 29 || f.d == 31) && f.b == 0 && flagOn f.dqa (isChan f.a) && !f.dqb && !f.tp
def okFin (f : ElemRec) : Bool := f.d == 0 && f.a == 0 && f.b == 0 && !f.dqa && !f.dqb && !f.tp

/-! Classes M and A (R101, R102). -/
def okLoad (f : MemRec) : Bool := f.ord.toNat < 2 && flagOn f.dqb (isChan f.b)
def okStore (f : MemRec) : Bool := f.rsp == 0 && (f.ord == 0 || f.ord == 2) && flagOn f.dqb (isChan f.b)
def okStoreWide (f : MemRec) : Bool :=
  f.rsp == 0 && (f.ord == 0 || f.ord == 2) && isVecSrc f.b && flagOn f.dqb (isVecChan f.b)
def okVld (f : MemRec) : Bool := f.scope == 0 && f.ord == 0 && flagOn f.dqb (isChan f.b)
def okVst (f : MemRec) : Bool := f.rsp == 0 && f.scope == 0 && f.ord == 0 && f.b.toNat % 4 == 0 && !f.dqb
def okVrcl (f : MemRec) : Bool := f.rsp == 0 && f.scope == 0 && f.ord == 0 && flagOn f.dqb (isChan f.b)
def okFence (f : MemRec) : Bool := f.rsp == 0 && f.pair == 0 && f.ord == 0 && f.b == 0 && !f.dqb
def okCas64 (f : AtomRec) : Bool := f.opnd != 7

/-- BQ: FN[4] clear leaves FN[3:0] zero (R218). -/
def okQuadrant (y : BitVec 1) (q : BitVec 4) : Bool := y == 1 || q == 0

/-- The terms an encoding can hold. Events have no encoding and are all well formed. -/
def wellFormed : Instr → Bool
  | .addI32 f => okR f
  | .subI32 f => okR f
  | .mulI32 f => okR f
  | .mulhI32 f => okR f
  | .and f => okR f
  | .or f => okR f
  | .xor f => okR f
  | .shl f => okR f
  | .shrU32 f => okR f
  | .shrI32 f => okR f
  | .minI32 f => okR f
  | .maxI32 f => okR f
  | .mov f => okU 0 f
  | .sel f => okR f
  | .addsatI32 f => okR f
  | .subsatI32 f => okR f
  | .absI32 f => okU 0 f
  | .clz f => okU 0 f
  | .popc f => okU 0 f
  | .cmpEq f => okR f
  | .cmpLtI32 f => okR f
  | .cmpLtU32 f => okR f
  | .faddF32 f => okR f
  | .fsubF32 f => okR f
  | .fmulF32 f => okR f
  | .ffmaF32 f => okFma f
  | .fminF32 f => okR f
  | .fmaxF32 f => okR f
  | .fabsF32 f => okU 0 f
  | .fnegF32 f => okU 0 f
  | .fcmpEqF32 f => okR f
  | .fcmpLtF32 f => okR f
  | .fcmpLeF32 f => okR f
  | .fdivF32 f => okR f
  | .fsqrtF32 f => okU 14 f
  | .faddF16x2 f => okR f
  | .fmulF16x2 f => okR f
  | .ffmaF16x2 f => okFma f
  | .faddBf16x2 f => okR f
  | .fmulBf16x2 f => okR f
  | .ffmaBf16x2 f => okFma f
  | .cvtF32I32 f => okU 6 f
  | .cvtI32F32 f => okU 6 f
  | .cvtF32F16 f => okU 0 f
  | .cvtF32Bf16 f => okU 0 f
  | .cvtF16F32 f => okU 14 f
  | .cvtBf16F32 f => okU 14 f
  | .cvtE4m3F32 f => okU 30 f
  | .cvtE5m2F32 f => okU 30 f
  | .vaddI32 f => okLane f
  | .vfaddF32 f => okLane f
  | .vfmulF32 f => okLane f
  | .vfmaF32 f => okVfma f
  | .vfmaF16 f => okVfma f
  | .vfmaBf16 f => okVfma f
  | .vbcast f => okBcast f
  | .vext f => okExt f
  | .vins f => okIns f
  | .vredsumF32 f => okReduce f
  | .vredsumF16 f => okReduce f
  | .vredmaxF32 f => okReduce f
  | .pwr f => okPwr f
  | .prd f => okPrd f
  | .steer f => okSteer f
  | .merge f => okMerge f
  | .rep f => okRep f
  | .sweep f => okSweep f
  | .stop f => okStop f
  | .tagSet f => okTagSet f
  | .tagGet f => okTagGet f
  | .send f => okSend f
  | .fin f => okFin f
  | .ldB32 f => okLoad f
  | .ldU8 f => okLoad f
  | .ldW256 f => okLoad f
  | .stB32 f => okStore f
  | .stB8 f => okStore f
  | .stW256 f => okStoreWide f
  | .vld f => okVld f
  | .vst f => okVst f
  | .vrcl f => okVrcl f
  | .fence f => okFence f
  | .amoAdd32 _ => true
  | .amoAdd64 _ => true
  | .amoMinI32 _ => true
  | .amoMaxI32 _ => true
  | .amoAnd32 _ => true
  | .amoOr32 _ => true
  | .amoXchg32 _ => true
  | .amoCas32 _ => true
  | .amoCas64 f => okCas64 f
  | .amoFaddF32 _ => true
  | .staticOperation _ _ => true
  | .addI64 _ _ _ => true
  | .subI64 _ _ _ => true
  | .mulI64 _ _ _ => true
  | .mulhI64 _ _ _ => true
  | .mulhU64 _ _ _ => true
  | .divI64 _ _ _ => true
  | .divU64 _ _ _ => true
  | .remI64 _ _ _ => true
  | .remU64 _ _ _ => true
  | .seqAnd _ _ _ => true
  | .seqOr _ _ _ => true
  | .seqXor _ _ _ => true
  | .seqShl _ _ _ => true
  | .shrU64 _ _ _ => true
  | .shrI64 _ _ _ => true
  | .sltI64 _ _ _ => true
  | .sltU64 _ _ _ => true
  | .minI64 _ _ _ => true
  | .maxI64 _ _ _ => true
  | .seqAddI32 _ _ _ => true
  | .addi _ _ _ => true
  | .andi _ _ _ => true
  | .ori _ _ _ => true
  | .xori _ _ _ => true
  | .sltiI64 _ _ _ => true
  | .sltiU64 _ _ _ => true
  | .shli _ _ _ => true
  | .shriU64 _ _ _ => true
  | .shriI64 _ _ _ => true
  | .movz _ _ _ => true
  | .movk _ _ _ => true
  | .jalr _ _ _ => true
  | .br _ => true
  | .jal _ _ => true
  | .bz _ _ => true
  | .bnz _ _ => true
  | .bltz _ _ => true
  | .bgez _ _ => true
  | .seqLdU8 _ _ _ => true
  | .ldI8 _ _ _ => true
  | .ldU16 _ _ _ => true
  | .ldI16 _ _ _ => true
  | .ldU32 _ _ _ => true
  | .ldI32 _ _ _ => true
  | .ldB64 _ _ _ => true
  | .seqStB8 _ _ _ => true
  | .stB16 _ _ _ => true
  | .seqStB32 _ _ _ => true
  | .stB64 _ _ _ => true
  | .seqAmoAdd32 _ _ _ _ _ => true
  | .seqAmoAdd64 _ _ _ _ _ => true
  | .amoAnd64 _ _ _ _ _ => true
  | .amoOr64 _ _ _ _ _ => true
  | .amoXchg64 _ _ _ _ _ => true
  | .amoMinI64 _ _ _ _ _ => true
  | .amoMaxI64 _ _ _ _ _ => true
  | .seqAmoCas32 _ _ _ _ _ => true
  | .seqAmoCas64 _ _ _ _ _ => true
  | .seqLdB32Acq _ _ _ => true
  | .ldB64Acq _ _ _ => true
  | .seqStB32Rel _ _ _ => true
  | .stB64Rel _ _ _ => true
  | .seqVld _ _ _ => true
  | .seqVst _ _ => true
  | .seqVrcl _ _ => true
  | .seqFence _ => true
  | .strmLd _ _ _ => true
  | .strmSt _ _ _ => true
  | .strmCp _ _ _ => true
  | .memHrv _ _ => true
  | .semaSig _ _ _ => true
  | .semaSigR _ _ _ => true
  | .semaAcq _ _ _ _ => true
  | .semaTry _ _ _ _ => true
  | .semaSet _ _ => true
  | .semaRd _ _ => true
  | .tbarInit _ _ _ => true
  | .tbarArr _ _ _ _ => true
  | .tbarDecl _ _ _ => true
  | .tbarWait _ _ _ _ => true
  | .tbarTest _ _ _ _ => true
  | .tbarFini _ _ => true
  | .lnch _ _ => true
  | .lnchInd _ _ => true
  | .cfgLd _ _ _ => true
  | .cfgSwp _ _ _ => true
  | .cfgUnl _ _ => true
  | .cfgSv _ _ _ => true
  | .cfgRst _ _ _ => true
  | .brngGet _ _ => true
  | .brngRel _ => true
  | .mringPut _ _ => true
  | .mringGet _ => true
  | .mringLd _ _ => true
  | .mringRel => true
  | .bqPush _ _ _ y q => okQuadrant y q
  | .bqPop _ _ y q => okQuadrant y q
  | .bqPopW _ _ y q => okQuadrant y q
  | .bqCnt _ y q => okQuadrant y q
  | .csrr _ _ => true
  | .csrw _ _ => true
  | .csrs _ _ => true
  | .csrc _ _ => true
  | .wait => true
  | .halt => true
  | .trap _ => true
  | .eret => true
  | .sbar => true
  | .rplBeg _ _ _ => true
  | .rplStep _ _ _ => true
  | .rplEnd _ _ _ => true
  | .rplDrop _ _ _ => true
  | .ctxTen _ _ => true
  | .ctxRoot _ _ => true
  | .ctxKill _ _ => true
  | .mstFrz _ => true
  | .mstThaw _ => true
  | .thrSet _ _ => true
  | .snsrRd _ _ => true
  | .evlPut _ => true
  | .tlbInv _ _ => true
  | .seqRun _ _ _ => true
  | .seqStop _ => true
  | .seqResume _ => true
  | .seqProgramStart _ => true
  | .seqResultArrival _ _ _ => true
  | .waitTimeout _ => true
  | .eventTake _ => true
  | .configurationLoad _ => true
  | .reconfigurationTokenPassage _ => true
  | .configurationSave _ => true
  | .configurationRestore _ => true
  | .launchJudgement _ _ => true
  | .placementTake _ => true
  | .unitStart _ => true
  | .unitCompletion _ => true
  | .launchCompletion _ => true
  | .linkTokenArrival _ _ _ _ => true
  | .packetArrival _ => true
  | .landingQueuePass _ _ => true
  | .qoutRecordWrite _ _ _ _ => true
  | .qinRecordDeliver _ _ _ _ => true
  | .windowCommit _ => true
  | .windowFaultDetect _ => true
  | .regionClockGate _ => true
  | .sweepComplete _ => true
  | .tlbWalk _ _ => true
  | .loadResponse _ _ _ => true
  | .unbufferedAccessPerform _ _ => true
  | .atomicPerform _ _ _ => true
  | .vldHomeJudge _ _ _ => true
  | .vldResend _ _ => true
  | .vstPerform _ _ => true
  | .versionStall _ _ => true
  | .vrclPerform _ _ => true
  | .streamStart _ => true
  | .streamItemMove _ _ => true
  | .streamRetry _ => true
  | .streamRetire _ => true
  | .dirtyHarvest _ => true
  | .tlbInvalidateComplete _ => true
  | .matrixChain _ _ => true
  | .matrixEmit _ _ => true
  | .matrixToken _ _ => true
  | .matrixBeat _ _ => true
  | .matrixClose _ _ => true
  | .matrixOuter _ _ => true
  | .matrixBehind _ _ => true
  | .matrixFathom _ _ => true
  | .repeatNode _ _ => true
  | .rayTake _ => true
  | .candidateInvoke _ _ => true
  | .verdictTake _ => true
  | .rayMigration _ _ => true
  | .rayResult _ _ => true
  | .traversalStopPass _ => true
  | .drain _ => true
  | .ctinv _ => true
  | .traversalUnknownCommand _ => true
  | .primitiveToken _ => true
  | .tagClose _ _ => true
  | .blendForward _ => true
  | .blendApplication _ _ => true
  | .view _ => true
  | .clr _ => true
  | .fbeg _ => true
  | .rasterFence _ => true
  | .modes _ => true
  | .dcmp _ => true
  | .mload _ => true
  | .rasterUnknownCommand _ => true
  | .rasterStopPass _ => true
  | .isect _ => true
  | .union _ => true
  | .intersectUnknownCommand _ => true
  | .accumulatorPair _ => true
  | .accumulatorPoison _ => true
  | .accumulatorFlush _ => true
  | .accumulatorStopPass _ => true
  | .hostQueueEnable _ => true
  | .doorbell _ => true
  | .hostQueueFetch _ => true
  | .intr _ => true
  | .cxlMemRequest _ => true
  | .agfelPeerRequest _ _ => true
  | .agfelRouteMaskWrite _ _ => true
  | .flitReceive _ _ _ _ => true
  | .flitReplay _ => true
  | .linkDown _ => true
  | .linkRetrainComplete _ => true
  | .linkTimeout _ => true
  | .payloadKill _ _ => true
  | .headerCorrupt _ => true
  | .memoryUncorrectableError _ => true
  | .softCorrected _ => true
  | .sensorRefresh _ _ => true
  | .droopEvent _ => true
  | .packageReset _ => true
  | .attgo => true
  | .attestationComplete => true
  | .rcvgo => true
  | .recoveryComplete _ => true
  | .prstGo _ => true
  | .partitionResetComplete _ => true
  | .registerWrite _ _ _ => true
  | .seqIllegalOp _ => true
  | .fetchFault _ => true
  | .writeCompletion _ _ => true
  | .consumedCopyUpdate _ _ _ _ => true
  | .backInvalidateResponse _ => true

end Sys2Proof
end

