-- ==== Sys2Proof/Decode.lean ====
section
/-!
DEFINITION. Decode.lean: the decoder of element words (R94 to R105) and of sequencer words (R161 to R164, R170 to R225,
R455), total on any words and rejecting by name; and after it the encoder, from the same tables.
-/
namespace Sys2Proof

/-- Why a word is not an instruction. -/
inductive Reject where
  /-- The nil word or a word whose OPC, MAJ, FN or OP is unallocated (R104, R163, R164). -/
  | unallocated
  /-- A reserved selector or a nonzero field that must be zero (R103, R164). -/
  | reservedField
  deriving DecidableEq, Repr

/-- What a decoder answers: an instruction and its length in bytes, or a rejection. -/
inductive Decoded where
  | instr (i : Instr) (len : Nat)
  | rejected (why : Reject)
  deriving DecidableEq, Repr

/-! ## Element words -/

def opcOf (w : Word) : BitVec 7 := w.extractLsb' 19 7

def elemRec (w : Word) : ElemRec where
  trig := w.extractLsb' 26 6
  d := w.extractLsb' 14 5
  a := w.extractLsb' 9 5
  b := w.extractLsb' 4 5
  dqa := w.getLsbD 3
  dqb := w.getLsbD 2
  sp := w.getLsbD 1
  tp := w.getLsbD 0

def memRec (w : Word) : MemRec where
  trig := w.extractLsb' 26 6
  rsp := w.extractLsb' 17 2
  scope := w.extractLsb' 14 3
  pair := w.extractLsb' 11 3
  ord := w.extractLsb' 9 2
  b := w.extractLsb' 4 5
  dqb := w.getLsbD 2
  sp := w.getLsbD 1
  tp := w.getLsbD 0

def atomRec (w : Word) : AtomRec where
  trig := w.extractLsb' 26 6
  rsp := w.extractLsb' 17 2
  scope := w.extractLsb' 14 3
  addr := w.extractLsb' 11 3
  opnd := w.extractLsb' 6 3
  ord := w.extractLsb' 4 2
  sp := w.getLsbD 1

/-- DQA is zero in class M (R97); bits [10:9], DQA, DQB and TP are zero in class A (R97, R102). -/
def zeroM (w : Word) : Bool := !w.getLsbD 3
def zeroA (w : Word) : Bool := w.extractLsb' 9 2 == 0 && w.extractLsb' 2 2 == 0 && !w.getLsbD 0

/-- The instruction an opcode names, before the field checks (R104). -/
def elemInstr (w : Word) : Option Instr :=
  match (opcOf w).toNat with
  | 0x01 => some (.addI32 (elemRec w))
  | 0x02 => some (.subI32 (elemRec w))
  | 0x03 => some (.mulI32 (elemRec w))
  | 0x04 => some (.mulhI32 (elemRec w))
  | 0x05 => some (.and (elemRec w))
  | 0x06 => some (.or (elemRec w))
  | 0x07 => some (.xor (elemRec w))
  | 0x08 => some (.shl (elemRec w))
  | 0x09 => some (.shrU32 (elemRec w))
  | 0x0A => some (.shrI32 (elemRec w))
  | 0x0B => some (.minI32 (elemRec w))
  | 0x0C => some (.maxI32 (elemRec w))
  | 0x10 => some (.mov (elemRec w))
  | 0x11 => some (.sel (elemRec w))
  | 0x12 => some (.addsatI32 (elemRec w))
  | 0x13 => some (.subsatI32 (elemRec w))
  | 0x14 => some (.absI32 (elemRec w))
  | 0x15 => some (.clz (elemRec w))
  | 0x16 => some (.popc (elemRec w))
  | 0x17 => some (.cmpEq (elemRec w))
  | 0x18 => some (.cmpLtI32 (elemRec w))
  | 0x19 => some (.cmpLtU32 (elemRec w))
  | 0x20 => some (.faddF32 (elemRec w))
  | 0x21 => some (.fsubF32 (elemRec w))
  | 0x22 => some (.fmulF32 (elemRec w))
  | 0x23 => some (.ffmaF32 (elemRec w))
  | 0x24 => some (.fminF32 (elemRec w))
  | 0x25 => some (.fmaxF32 (elemRec w))
  | 0x26 => some (.fabsF32 (elemRec w))
  | 0x27 => some (.fnegF32 (elemRec w))
  | 0x28 => some (.fcmpEqF32 (elemRec w))
  | 0x29 => some (.fcmpLtF32 (elemRec w))
  | 0x2A => some (.fcmpLeF32 (elemRec w))
  | 0x2B => some (.fdivF32 (elemRec w))
  | 0x2C => some (.fsqrtF32 (elemRec w))
  | 0x30 => some (.faddF16x2 (elemRec w))
  | 0x31 => some (.fmulF16x2 (elemRec w))
  | 0x32 => some (.ffmaF16x2 (elemRec w))
  | 0x33 => some (.faddBf16x2 (elemRec w))
  | 0x34 => some (.fmulBf16x2 (elemRec w))
  | 0x35 => some (.ffmaBf16x2 (elemRec w))
  | 0x38 => some (.cvtF32I32 (elemRec w))
  | 0x39 => some (.cvtI32F32 (elemRec w))
  | 0x3A => some (.cvtF32F16 (elemRec w))
  | 0x3B => some (.cvtF32Bf16 (elemRec w))
  | 0x3C => some (.cvtF16F32 (elemRec w))
  | 0x3D => some (.cvtBf16F32 (elemRec w))
  | 0x3E => some (.cvtE4m3F32 (elemRec w))
  | 0x3F => some (.cvtE5m2F32 (elemRec w))
  | 0x40 => some (.vaddI32 (elemRec w))
  | 0x41 => some (.vfaddF32 (elemRec w))
  | 0x42 => some (.vfmulF32 (elemRec w))
  | 0x43 => some (.vfmaF32 (elemRec w))
  | 0x44 => some (.vfmaF16 (elemRec w))
  | 0x45 => some (.vfmaBf16 (elemRec w))
  | 0x46 => some (.vbcast (elemRec w))
  | 0x47 => some (.vext (elemRec w))
  | 0x48 => some (.vins (elemRec w))
  | 0x49 => some (.vredsumF32 (elemRec w))
  | 0x4A => some (.vredsumF16 (elemRec w))
  | 0x4B => some (.vredmaxF32 (elemRec w))
  | 0x50 => some (.pwr (elemRec w))
  | 0x51 => some (.prd (elemRec w))
  | 0x52 => some (.steer (elemRec w))
  | 0x53 => some (.merge (elemRec w))
  | 0x54 => some (.rep (elemRec w))
  | 0x55 => some (.sweep (elemRec w))
  | 0x56 => some (.stop (elemRec w))
  | 0x57 => some (.tagSet (elemRec w))
  | 0x58 => some (.tagGet (elemRec w))
  | 0x59 => some (.send (elemRec w))
  | 0x5A => some (.fin (elemRec w))
  | 0x60 => some (.ldB32 (memRec w))
  | 0x61 => some (.ldU8 (memRec w))
  | 0x62 => some (.ldW256 (memRec w))
  | 0x63 => some (.stB32 (memRec w))
  | 0x64 => some (.stB8 (memRec w))
  | 0x65 => some (.stW256 (memRec w))
  | 0x66 => some (.vld (memRec w))
  | 0x67 => some (.vst (memRec w))
  | 0x68 => some (.vrcl (memRec w))
  | 0x69 => some (.fence (memRec w))
  | 0x70 => some (.amoAdd32 (atomRec w))
  | 0x71 => some (.amoAdd64 (atomRec w))
  | 0x72 => some (.amoMinI32 (atomRec w))
  | 0x73 => some (.amoMaxI32 (atomRec w))
  | 0x74 => some (.amoAnd32 (atomRec w))
  | 0x75 => some (.amoOr32 (atomRec w))
  | 0x76 => some (.amoXchg32 (atomRec w))
  | 0x77 => some (.amoCas32 (atomRec w))
  | 0x78 => some (.amoCas64 (atomRec w))
  | 0x79 => some (.amoFaddF32 (atomRec w))
  | _ => none

/-- The zero bits of the word's class. -/
def elemZero (w : Word) : Bool :=
  if (opcOf w).toNat < 0x60 then true else if (opcOf w).toNat < 0x70 then zeroM w else zeroA w

def decodeElem (w : Word) : Decoded :=
  match elemInstr w with
  | none => .rejected .unallocated
  | some i => if elemZero w && wellFormed i then .instr i 4 else .rejected .reservedField

/-! ## Sequencer words -/

def majOf (w : Word) : BitVec 6 := w.extractLsb' 26 6
def rdOf (w : Word) : Reg := w.extractLsb' 21 5
def rs1Of (w : Word) : Reg := w.extractLsb' 16 5
def rs2Of (w : Word) : Reg := w.extractLsb' 11 5
def fnOf (w : Word) : BitVec 11 := w.extractLsb' 0 11
def immOf (w : Word) : BitVec 16 := w.extractLsb' 0 16
def offOf (w : Word) : BitVec 21 := w.extractLsb' 0 21

/-- A guard on the fields that must be zero. -/
def Decoded.need (ok : Bool) (d : Decoded) : Decoded := if ok then d else .rejected .reservedField

def one (i : Instr) : Decoded := .instr i 4
def two (i : Instr) : Decoded := .instr i 8

/-- The ALU group (R170). -/
def decodeAlu (w : Word) : Decoded :=
  let d := rdOf w; let a := rs1Of w; let b := rs2Of w
  match (fnOf w).toNat with
  | 0x00 => one (.addI64 d a b)
  | 0x01 => one (.subI64 d a b)
  | 0x02 => one (.mulI64 d a b)
  | 0x03 => one (.mulhI64 d a b)
  | 0x04 => one (.mulhU64 d a b)
  | 0x05 => one (.divI64 d a b)
  | 0x06 => one (.divU64 d a b)
  | 0x07 => one (.remI64 d a b)
  | 0x08 => one (.remU64 d a b)
  | 0x09 => one (.seqAnd d a b)
  | 0x0A => one (.seqOr d a b)
  | 0x0B => one (.seqXor d a b)
  | 0x0C => one (.seqShl d a b)
  | 0x0D => one (.shrU64 d a b)
  | 0x0E => one (.shrI64 d a b)
  | 0x0F => one (.sltI64 d a b)
  | 0x10 => one (.sltU64 d a b)
  | 0x11 => one (.minI64 d a b)
  | 0x12 => one (.maxI64 d a b)
  | 0x13 => one (.seqAddI32 d a b)
  | _ => .rejected .unallocated

/-- SHIFTI (R171): IMM[15:8] zero, IMM[7:6] the operation. -/
def decodeShift (w : Word) : Decoded :=
  let d := rdOf w; let a := rs1Of w; let n : BitVec 6 := w.extractLsb' 0 6
  match (immOf w).toNat / 64 with
  | 0 => one (.shli d a n)
  | 1 => one (.shriU64 d a n)
  | 2 => one (.shriI64 d a n)
  | _ => .rejected .reservedField

/-- Plain loads and stores (R173). -/
def decodeLoad (w : Word) : Decoded :=
  let d := rdOf w; let a := rs1Of w; let o : BitVec 12 := w.extractLsb' 4 12
  match (w.extractLsb' 0 4).toNat with
  | 0x0 => one (.seqLdU8 d a o)
  | 0x2 => one (.ldI8 d a o)
  | 0x4 => one (.ldU16 d a o)
  | 0x6 => one (.ldI16 d a o)
  | 0x8 => one (.ldU32 d a o)
  | 0xA => one (.ldI32 d a o)
  | 0xC => one (.ldB64 d a o)
  | _ => .rejected .unallocated

def decodeStore (w : Word) : Decoded :=
  let d := rdOf w; let a := rs1Of w; let o : BitVec 12 := w.extractLsb' 4 12
  match (w.extractLsb' 0 4).toNat with
  | 0x0 => one (.seqStB8 d a o)
  | 0x4 => one (.stB16 d a o)
  | 0x8 => one (.seqStB32 d a o)
  | 0xC => one (.stB64 d a o)
  | _ => .rejected .unallocated

/-- The AMO group (R175): FN[10:8] scope, FN[7:6] order, FN[5:0] operation. -/
def decodeAmo (w : Word) : Decoded :=
  let d := rdOf w; let a := rs1Of w; let b := rs2Of w
  let c : BitVec 3 := w.extractLsb' 8 3; let o : BitVec 2 := w.extractLsb' 6 2
  match (w.extractLsb' 0 6).toNat with
  | 0x00 => one (.seqAmoAdd32 d a b c o)
  | 0x01 => one (.seqAmoAdd64 d a b c o)
  | 0x02 => one (.amoAnd64 d a b c o)
  | 0x03 => one (.amoOr64 d a b c o)
  | 0x04 => one (.amoXchg64 d a b c o)
  | 0x05 => one (.amoMinI64 d a b c o)
  | 0x06 => one (.amoMaxI64 d a b c o)
  | 0x07 => one (.seqAmoCas32 d a b c o)
  | 0x08 => one (.seqAmoCas64 d a b c o)
  | 0x10 => .need (o == 1 && b == 0) (one (.seqLdB32Acq d a c))
  | 0x11 => .need (o == 1 && b == 0) (one (.ldB64Acq d a c))
  | 0x12 => .need (o == 2 && d == 0) (one (.seqStB32Rel a b c))
  | 0x13 => .need (o == 2 && d == 0) (one (.stB64Rel a b c))
  | _ => .rejected .unallocated

/-- The VER group (R178). -/
def decodeVer (w : Word) : Decoded :=
  let d := rdOf w; let a := rs1Of w; let b := rs2Of w
  match (fnOf w).toNat with
  | 0 => one (.seqVld d a b)
  | 1 => .need (d == 0) (one (.seqVst a b))
  | 2 => .need (d == 0) (one (.seqVrcl a b))
  | _ => .rejected .unallocated

/-- The SEMA group (R193): S format, [9:6] zero. -/
def decodeSema (w : Word) : Decoded :=
  let d := rdOf w; let r := rs1Of w
  let c : BitVec 3 := w.extractLsb' 13 3; let i : BitVec 6 := w.extractLsb' 0 6
  .need (w.extractLsb' 6 4 == 0)
    (match (w.extractLsb' 10 3).toNat with
    | 0 => .need (d == 0) (one (.semaSig r c i))
    | 1 => .need (i == 0) (one (.semaSigR d r c))
    | 2 => one (.semaAcq d r c i)
    | 3 => one (.semaTry d r c i)
    | 4 => .need (d == 0 && c == 0) (one (.semaSet r i))
    | 5 => .need (c == 0 && r == 0) (one (.semaRd d i))
    | _ => .rejected .unallocated)

/-- The TBAR group (R197): FN[7:3] zero. -/
def decodeTbar (w : Word) : Decoded :=
  let d := rdOf w; let a := rs1Of w; let b := rs2Of w; let c : BitVec 3 := w.extractLsb' 8 3
  .need (w.extractLsb' 3 5 == 0)
    (match (w.extractLsb' 0 3).toNat with
    | 0 => .need (d == 0) (one (.tbarInit a b c))
    | 1 => one (.tbarArr d a b c)
    | 2 => .need (d == 0) (one (.tbarDecl a b c))
    | 3 => one (.tbarWait d a b c)
    | 4 => one (.tbarTest d a b c)
    | 5 => .need (d == 0 && b == 0) (one (.tbarFini a c))
    | _ => .rejected .unallocated)

/-- The RING group (R217): FN[10:3] zero. -/
def decodeRing (w : Word) : Decoded :=
  let d := rdOf w; let a := rs1Of w; let b := rs2Of w
  match (fnOf w).toNat with
  | 0 => .need (b == 0) (one (.brngGet d a))
  | 1 => .need (d == 0 && b == 0) (one (.brngRel a))
  | 2 => .need (d == 0) (one (.mringPut a b))
  | 3 => .need (a == 0 && b == 0) (one (.mringGet d))
  | 4 => .need (b == 0) (one (.mringLd d a))
  | 5 => .need (d == 0 && a == 0 && b == 0) (one .mringRel)
  | _ => .rejected .unallocated

/-- The BQ group (R218): FN[10:8] zero, FN[7:5] the operation, FN[4:0] the queue. bq.pop's even RD is its pair number. -/
def decodeBq (w : Word) : Decoded :=
  let d := rdOf w; let a := rs1Of w; let b := rs2Of w
  let y : BitVec 1 := w.extractLsb' 4 1; let q : BitVec 4 := w.extractLsb' 0 4
  let p : BitVec 4 := w.extractLsb' 22 4
  .need (w.extractLsb' 8 3 == 0 && okQuadrant y q)
    (match (w.extractLsb' 5 3).toNat with
    | 0 => one (.bqPush d a b y q)
    | 1 => .need (!w.getLsbD 21 && a == 0) (one (.bqPop p b y q))
    | 2 => .need (!w.getLsbD 21 && a == 0) (one (.bqPopW p b y q))
    | 3 => .need (a == 0 && b == 0) (one (.bqCnt d y q))
    | _ => .rejected .unallocated)

/-- The SYS group (R221). -/
def decodeSys (w : Word) : Decoded :=
  let d := rdOf w; let a := rs1Of w; let i : BitVec 12 := w.extractLsb' 0 12
  match (w.extractLsb' 12 4).toNat with
  | 0 => .need (a == 0) (one (.csrr d i))
  | 1 => .need (d == 0) (one (.csrw a i))
  | 2 => .need (d == 0) (one (.csrs a i))
  | 3 => .need (d == 0) (one (.csrc a i))
  | 4 => .need (d == 0 && a == 0 && i == 0) (one .wait)
  | 5 => .need (d == 0 && a == 0 && i == 0) (one .halt)
  | 7 => .need (d == 0 && a == 0) (one (.trap i))
  | 8 => .need (d == 0 && a == 0 && i == 0) (one .eret)
  | 9 => .need (d == 0 && a == 0 && i == 0) (one .sbar)
  | _ => .rejected .unallocated

/-- The RPL group (R223): FN[10:2] zero. Log entry 30: the register fields a form does not name are ignored. -/
def decodeRpl (w : Word) : Decoded :=
  let d := rdOf w; let a := rs1Of w; let b := rs2Of w
  match (fnOf w).toNat with
  | 0 => one (.rplBeg d a b)
  | 1 => one (.rplStep d a b)
  | 2 => one (.rplEnd d a b)
  | 3 => one (.rplDrop d a b)
  | _ => .rejected .unallocated

/-- The MGMT group (R225, R455): FN[10:4] zero; a field a form does not fill is zero. -/
def decodeMgmt (w : Word) : Decoded :=
  let d := rdOf w; let a := rs1Of w; let b := rs2Of w
  match (fnOf w).toNat with
  | 0 => .need (b == 0) (one (.ctxTen d a))
  | 1 => .need (b == 0) (one (.ctxRoot d a))
  | 2 => .need (b == 0) (one (.ctxKill d a))
  | 3 => .need (a == 0 && b == 0) (one (.mstFrz d))
  | 4 => .need (a == 0 && b == 0) (one (.mstThaw d))
  | 5 => .need (b == 0) (one (.thrSet d a))
  | 6 => .need (b == 0) (one (.snsrRd d a))
  | 7 => .need (a == 0 && b == 0) (one (.evlPut d))
  | 8 => .need (b == 0) (one (.tlbInv d a))
  | 9 => one (.seqRun d a b)
  | 10 => .need (a == 0 && b == 0) (one (.seqStop d))
  | 11 => .need (a == 0 && b == 0) (one (.seqResume d))
  | _ => .rejected .unallocated

/-- The X form (R162): word 0 [5:0] zero, FN in [10:6], IMM32 in word 1. -/
def decodeX (w v : Word) : Decoded :=
  let ra := rdOf w; let rb := rs1Of w; let rc := rs2Of w
  let fn := (w.extractLsb' 6 5).toNat
  let port : BitVec 4 := v.extractLsb' 0 4
  .need (w.extractLsb' 0 6 == 0)
    (match (majOf w).toNat with
    | 0x30 =>
      match fn with
      | 0 => .need (rc == 0 && v.extractLsb' 4 28 == 0) (two (.strmLd ra rb port))
      | 1 => .need (rc == 0 && v.extractLsb' 4 28 == 0) (two (.strmSt ra rb port))
      | 2 => .need (v == 0) (two (.strmCp ra rb rc))
      | 3 => .need (rc == 0 && v == 0) (two (.memHrv ra rb))
      | _ => .rejected .unallocated
    | 0x31 =>
      match fn with
      | 0 => .need (rc == 0 && v == 0) (two (.lnch ra rb))
      | 1 => .need (rc == 0 && v == 0) (two (.lnchInd ra rb))
      | _ => .rejected .unallocated
    | 0x32 =>
      match fn with
      | 0 => .need (v == 0) (two (.cfgLd ra rb rc))
      | 1 => .need (v == 0) (two (.cfgSwp ra rb rc))
      | 2 => .need (rb == 0 && v == 0) (two (.cfgUnl ra rc))
      | 3 => .need (v == 0) (two (.cfgSv ra rb rc))
      | 4 => .need (v == 0) (two (.cfgRst ra rb rc))
      | _ => .rejected .unallocated
    | _ => .rejected .unallocated)

/-- A sequencer instruction from its word and the word after it, which only the X form uses (R161 to R164). -/
def decodeSeq (w v : Word) : Decoded :=
  let d := rdOf w; let a := rs1Of w
  match (majOf w).toNat with
  | 0x00 => decodeAlu w
  | 0x02 => one (.addi d a (immOf w))
  | 0x03 => one (.andi d a (immOf w))
  | 0x04 => one (.ori d a (immOf w))
  | 0x05 => one (.xori d a (immOf w))
  | 0x06 => one (.sltiI64 d a (immOf w))
  | 0x07 => one (.sltiU64 d a (immOf w))
  | 0x08 => decodeShift w
  | 0x09 => .need (w.extractLsb' 18 3 == 0) (one (.movz d (w.extractLsb' 16 2) (immOf w)))
  | 0x0A => .need (w.extractLsb' 18 3 == 0) (one (.movk d (w.extractLsb' 16 2) (immOf w)))
  | 0x0B => one (.jalr d a (immOf w))
  | 0x10 => decodeLoad w
  | 0x11 => decodeStore w
  | 0x12 => decodeAmo w
  | 0x13 => decodeVer w
  | 0x14 => .need (w.extractLsb' 11 15 == 0 && w.extractLsb' 0 8 == 0) (one (.seqFence (w.extractLsb' 8 3)))
  | 0x18 => .need (d == 0) (one (.br (offOf w)))
  | 0x19 => one (.jal d (offOf w))
  | 0x1A => one (.bz d (offOf w))
  | 0x1B => one (.bnz d (offOf w))
  | 0x1C => one (.bltz d (offOf w))
  | 0x1D => one (.bgez d (offOf w))
  | 0x20 => decodeSema w
  | 0x21 => decodeTbar w
  | 0x22 => decodeRing w
  | 0x23 => decodeBq w
  | 0x24 => decodeSys w
  | 0x25 => decodeRpl w
  | 0x26 => decodeMgmt w
  | 0x30 | 0x31 | 0x32 => decodeX w v
  | _ => .rejected .unallocated

/-! ## The encoder -/

def packR (opc : BitVec 7) (f : ElemRec) : Word :=
  f.trig ++ opc ++ f.d ++ f.a ++ f.b ++ BitVec.ofBool f.dqa ++ BitVec.ofBool f.dqb ++ BitVec.ofBool f.sp ++ BitVec.ofBool f.tp

def packM (opc : BitVec 7) (f : MemRec) : Word :=
  f.trig ++ opc ++ f.rsp ++ f.scope ++ f.pair ++ f.ord ++ f.b ++ 0#1 ++ BitVec.ofBool f.dqb ++ BitVec.ofBool f.sp
    ++ BitVec.ofBool f.tp

def packA (opc : BitVec 7) (f : AtomRec) : Word :=
  f.trig ++ opc ++ f.rsp ++ f.scope ++ f.addr ++ 0#2 ++ f.opnd ++ f.ord ++ 0#2 ++ BitVec.ofBool f.sp ++ 0#1

def packRR (maj : BitVec 6) (d a b : Reg) (fn : BitVec 11) : Word := maj ++ d ++ a ++ b ++ fn
def packI (maj : BitVec 6) (d a : Reg) (i : BitVec 16) : Word := maj ++ d ++ a ++ i
def packO (maj : BitVec 6) (d a : Reg) (o : BitVec 12) (fn : BitVec 4) : Word := maj ++ d ++ a ++ o ++ fn
def packB (maj : BitVec 6) (r : Reg) (o : BitVec 21) : Word := maj ++ r ++ o
def packS (d r : Reg) (c op : BitVec 3) (i : BitVec 6) : Word := 0x20#6 ++ d ++ r ++ c ++ op ++ 0#4 ++ i
def packY (d a : Reg) (fn : BitVec 4) (i : BitVec 12) : Word := 0x24#6 ++ d ++ a ++ fn ++ i
def packX (maj : BitVec 6) (ra rb rc : Reg) (fn : BitVec 5) : Word := maj ++ ra ++ rb ++ rc ++ fn ++ 0#6

/-- The words of an instruction; none for an event, which has no encoding. -/
def encode : Instr → List Word
  | .addI32 f => [packR 0x01 f]
  | .subI32 f => [packR 0x02 f]
  | .mulI32 f => [packR 0x03 f]
  | .mulhI32 f => [packR 0x04 f]
  | .and f => [packR 0x05 f]
  | .or f => [packR 0x06 f]
  | .xor f => [packR 0x07 f]
  | .shl f => [packR 0x08 f]
  | .shrU32 f => [packR 0x09 f]
  | .shrI32 f => [packR 0x0A f]
  | .minI32 f => [packR 0x0B f]
  | .maxI32 f => [packR 0x0C f]
  | .mov f => [packR 0x10 f]
  | .sel f => [packR 0x11 f]
  | .addsatI32 f => [packR 0x12 f]
  | .subsatI32 f => [packR 0x13 f]
  | .absI32 f => [packR 0x14 f]
  | .clz f => [packR 0x15 f]
  | .popc f => [packR 0x16 f]
  | .cmpEq f => [packR 0x17 f]
  | .cmpLtI32 f => [packR 0x18 f]
  | .cmpLtU32 f => [packR 0x19 f]
  | .faddF32 f => [packR 0x20 f]
  | .fsubF32 f => [packR 0x21 f]
  | .fmulF32 f => [packR 0x22 f]
  | .ffmaF32 f => [packR 0x23 f]
  | .fminF32 f => [packR 0x24 f]
  | .fmaxF32 f => [packR 0x25 f]
  | .fabsF32 f => [packR 0x26 f]
  | .fnegF32 f => [packR 0x27 f]
  | .fcmpEqF32 f => [packR 0x28 f]
  | .fcmpLtF32 f => [packR 0x29 f]
  | .fcmpLeF32 f => [packR 0x2A f]
  | .fdivF32 f => [packR 0x2B f]
  | .fsqrtF32 f => [packR 0x2C f]
  | .faddF16x2 f => [packR 0x30 f]
  | .fmulF16x2 f => [packR 0x31 f]
  | .ffmaF16x2 f => [packR 0x32 f]
  | .faddBf16x2 f => [packR 0x33 f]
  | .fmulBf16x2 f => [packR 0x34 f]
  | .ffmaBf16x2 f => [packR 0x35 f]
  | .cvtF32I32 f => [packR 0x38 f]
  | .cvtI32F32 f => [packR 0x39 f]
  | .cvtF32F16 f => [packR 0x3A f]
  | .cvtF32Bf16 f => [packR 0x3B f]
  | .cvtF16F32 f => [packR 0x3C f]
  | .cvtBf16F32 f => [packR 0x3D f]
  | .cvtE4m3F32 f => [packR 0x3E f]
  | .cvtE5m2F32 f => [packR 0x3F f]
  | .vaddI32 f => [packR 0x40 f]
  | .vfaddF32 f => [packR 0x41 f]
  | .vfmulF32 f => [packR 0x42 f]
  | .vfmaF32 f => [packR 0x43 f]
  | .vfmaF16 f => [packR 0x44 f]
  | .vfmaBf16 f => [packR 0x45 f]
  | .vbcast f => [packR 0x46 f]
  | .vext f => [packR 0x47 f]
  | .vins f => [packR 0x48 f]
  | .vredsumF32 f => [packR 0x49 f]
  | .vredsumF16 f => [packR 0x4A f]
  | .vredmaxF32 f => [packR 0x4B f]
  | .pwr f => [packR 0x50 f]
  | .prd f => [packR 0x51 f]
  | .steer f => [packR 0x52 f]
  | .merge f => [packR 0x53 f]
  | .rep f => [packR 0x54 f]
  | .sweep f => [packR 0x55 f]
  | .stop f => [packR 0x56 f]
  | .tagSet f => [packR 0x57 f]
  | .tagGet f => [packR 0x58 f]
  | .send f => [packR 0x59 f]
  | .fin f => [packR 0x5A f]
  | .ldB32 f => [packM 0x60 f]
  | .ldU8 f => [packM 0x61 f]
  | .ldW256 f => [packM 0x62 f]
  | .stB32 f => [packM 0x63 f]
  | .stB8 f => [packM 0x64 f]
  | .stW256 f => [packM 0x65 f]
  | .vld f => [packM 0x66 f]
  | .vst f => [packM 0x67 f]
  | .vrcl f => [packM 0x68 f]
  | .fence f => [packM 0x69 f]
  | .amoAdd32 f => [packA 0x70 f]
  | .amoAdd64 f => [packA 0x71 f]
  | .amoMinI32 f => [packA 0x72 f]
  | .amoMaxI32 f => [packA 0x73 f]
  | .amoAnd32 f => [packA 0x74 f]
  | .amoOr32 f => [packA 0x75 f]
  | .amoXchg32 f => [packA 0x76 f]
  | .amoCas32 f => [packA 0x77 f]
  | .amoCas64 f => [packA 0x78 f]
  | .amoFaddF32 f => [packA 0x79 f]
  | .staticOperation _ _ => []
  | .addI64 d a b => [packRR 0x00 d a b 0x00]
  | .subI64 d a b => [packRR 0x00 d a b 0x01]
  | .mulI64 d a b => [packRR 0x00 d a b 0x02]
  | .mulhI64 d a b => [packRR 0x00 d a b 0x03]
  | .mulhU64 d a b => [packRR 0x00 d a b 0x04]
  | .divI64 d a b => [packRR 0x00 d a b 0x05]
  | .divU64 d a b => [packRR 0x00 d a b 0x06]
  | .remI64 d a b => [packRR 0x00 d a b 0x07]
  | .remU64 d a b => [packRR 0x00 d a b 0x08]
  | .seqAnd d a b => [packRR 0x00 d a b 0x09]
  | .seqOr d a b => [packRR 0x00 d a b 0x0A]
  | .seqXor d a b => [packRR 0x00 d a b 0x0B]
  | .seqShl d a b => [packRR 0x00 d a b 0x0C]
  | .shrU64 d a b => [packRR 0x00 d a b 0x0D]
  | .shrI64 d a b => [packRR 0x00 d a b 0x0E]
  | .sltI64 d a b => [packRR 0x00 d a b 0x0F]
  | .sltU64 d a b => [packRR 0x00 d a b 0x10]
  | .minI64 d a b => [packRR 0x00 d a b 0x11]
  | .maxI64 d a b => [packRR 0x00 d a b 0x12]
  | .seqAddI32 d a b => [packRR 0x00 d a b 0x13]
  | .addi d a i => [packI 0x02 d a i]
  | .andi d a i => [packI 0x03 d a i]
  | .ori d a i => [packI 0x04 d a i]
  | .xori d a i => [packI 0x05 d a i]
  | .sltiI64 d a i => [packI 0x06 d a i]
  | .sltiU64 d a i => [packI 0x07 d a i]
  | .shli d a n => [packI 0x08 d a (0#10 ++ n)]
  | .shriU64 d a n => [packI 0x08 d a (1#10 ++ n)]
  | .shriI64 d a n => [packI 0x08 d a (2#10 ++ n)]
  | .movz d q i => [packI 0x09 d (0#3 ++ q) i]
  | .movk d q i => [packI 0x0A d (0#3 ++ q) i]
  | .jalr d a i => [packI 0x0B d a i]
  | .br o => [packB 0x18 0 o]
  | .jal r o => [packB 0x19 r o]
  | .bz r o => [packB 0x1A r o]
  | .bnz r o => [packB 0x1B r o]
  | .bltz r o => [packB 0x1C r o]
  | .bgez r o => [packB 0x1D r o]
  | .seqLdU8 d a o => [packO 0x10 d a o 0x0]
  | .ldI8 d a o => [packO 0x10 d a o 0x2]
  | .ldU16 d a o => [packO 0x10 d a o 0x4]
  | .ldI16 d a o => [packO 0x10 d a o 0x6]
  | .ldU32 d a o => [packO 0x10 d a o 0x8]
  | .ldI32 d a o => [packO 0x10 d a o 0xA]
  | .ldB64 d a o => [packO 0x10 d a o 0xC]
  | .seqStB8 d a o => [packO 0x11 d a o 0x0]
  | .stB16 d a o => [packO 0x11 d a o 0x4]
  | .seqStB32 d a o => [packO 0x11 d a o 0x8]
  | .stB64 d a o => [packO 0x11 d a o 0xC]
  | .seqAmoAdd32 d a b scope ord => [packRR 0x12 d a b (scope ++ ord ++ 0x00#6)]
  | .seqAmoAdd64 d a b scope ord => [packRR 0x12 d a b (scope ++ ord ++ 0x01#6)]
  | .amoAnd64 d a b scope ord => [packRR 0x12 d a b (scope ++ ord ++ 0x02#6)]
  | .amoOr64 d a b scope ord => [packRR 0x12 d a b (scope ++ ord ++ 0x03#6)]
  | .amoXchg64 d a b scope ord => [packRR 0x12 d a b (scope ++ ord ++ 0x04#6)]
  | .amoMinI64 d a b scope ord => [packRR 0x12 d a b (scope ++ ord ++ 0x05#6)]
  | .amoMaxI64 d a b scope ord => [packRR 0x12 d a b (scope ++ ord ++ 0x06#6)]
  | .seqAmoCas32 d a b scope ord => [packRR 0x12 d a b (scope ++ ord ++ 0x07#6)]
  | .seqAmoCas64 d a b scope ord => [packRR 0x12 d a b (scope ++ ord ++ 0x08#6)]
  | .seqLdB32Acq d a scope => [packRR 0x12 d a 0 (scope ++ 1#2 ++ 0x10#6)]
  | .ldB64Acq d a scope => [packRR 0x12 d a 0 (scope ++ 1#2 ++ 0x11#6)]
  | .seqStB32Rel a b scope => [packRR 0x12 0 a b (scope ++ 2#2 ++ 0x12#6)]
  | .stB64Rel a b scope => [packRR 0x12 0 a b (scope ++ 2#2 ++ 0x13#6)]
  | .seqVld d a b => [packRR 0x13 d a b 0]
  | .seqVst a b => [packRR 0x13 0 a b 1]
  | .seqVrcl a b => [packRR 0x13 0 a b 2]
  | .seqFence scope => [packRR 0x14 0 0 0 (scope ++ 0#8)]
  | .strmLd ra rb port => [packX 0x30 ra rb 0 0, 0#28 ++ port]
  | .strmSt ra rb port => [packX 0x30 ra rb 0 1, 0#28 ++ port]
  | .strmCp ra rb rc => [packX 0x30 ra rb rc 2, 0]
  | .memHrv ra rb => [packX 0x30 ra rb 0 3, 0]
  | .semaSig r scope i => [packS 0 r scope 0 i]
  | .semaSigR d r scope => [packS d r scope 1 0]
  | .semaAcq d r scope i => [packS d r scope 2 i]
  | .semaTry d r scope i => [packS d r scope 3 i]
  | .semaSet r i => [packS 0 r 0 4 i]
  | .semaRd d i => [packS d 0 0 5 i]
  | .tbarInit a b scope => [packRR 0x21 0 a b (scope ++ 0#8)]
  | .tbarArr d a b scope => [packRR 0x21 d a b (scope ++ 1#8)]
  | .tbarDecl a b scope => [packRR 0x21 0 a b (scope ++ 2#8)]
  | .tbarWait d a b scope => [packRR 0x21 d a b (scope ++ 3#8)]
  | .tbarTest d a b scope => [packRR 0x21 d a b (scope ++ 4#8)]
  | .tbarFini a scope => [packRR 0x21 0 a 0 (scope ++ 5#8)]
  | .lnch ra rb => [packX 0x31 ra rb 0 0, 0]
  | .lnchInd ra rb => [packX 0x31 ra rb 0 1, 0]
  | .cfgLd ra rb rc => [packX 0x32 ra rb rc 0, 0]
  | .cfgSwp ra rb rc => [packX 0x32 ra rb rc 1, 0]
  | .cfgUnl ra rc => [packX 0x32 ra 0 rc 2, 0]
  | .cfgSv ra rb rc => [packX 0x32 ra rb rc 3, 0]
  | .cfgRst ra rb rc => [packX 0x32 ra rb rc 4, 0]
  | .brngGet d a => [packRR 0x22 d a 0 0]
  | .brngRel a => [packRR 0x22 0 a 0 1]
  | .mringPut a b => [packRR 0x22 0 a b 2]
  | .mringGet d => [packRR 0x22 d 0 0 3]
  | .mringLd d a => [packRR 0x22 d a 0 4]
  | .mringRel => [packRR 0x22 0 0 0 5]
  | .bqPush d a b y q => [packRR 0x23 d a b (0#6 ++ y ++ q)]
  | .bqPop d b y q => [packRR 0x23 (d ++ 0#1) 0 b (1#6 ++ y ++ q)]
  | .bqPopW d b y q => [packRR 0x23 (d ++ 0#1) 0 b (2#6 ++ y ++ q)]
  | .bqCnt d y q => [packRR 0x23 d 0 0 (3#6 ++ y ++ q)]
  | .csrr d i => [packY d 0 0 i]
  | .csrw a i => [packY 0 a 1 i]
  | .csrs a i => [packY 0 a 2 i]
  | .csrc a i => [packY 0 a 3 i]
  | .wait => [packY 0 0 4 0]
  | .halt => [packY 0 0 5 0]
  | .trap i => [packY 0 0 7 i]
  | .eret => [packY 0 0 8 0]
  | .sbar => [packY 0 0 9 0]
  | .rplBeg d a b => [packRR 0x25 d a b 0]
  | .rplStep d a b => [packRR 0x25 d a b 1]
  | .rplEnd d a b => [packRR 0x25 d a b 2]
  | .rplDrop d a b => [packRR 0x25 d a b 3]
  | .ctxTen d a => [packRR 0x26 d a 0 0]
  | .ctxRoot d a => [packRR 0x26 d a 0 1]
  | .ctxKill d a => [packRR 0x26 d a 0 2]
  | .mstFrz d => [packRR 0x26 d 0 0 3]
  | .mstThaw d => [packRR 0x26 d 0 0 4]
  | .thrSet d a => [packRR 0x26 d a 0 5]
  | .snsrRd d a => [packRR 0x26 d a 0 6]
  | .evlPut d => [packRR 0x26 d 0 0 7]
  | .tlbInv d a => [packRR 0x26 d a 0 8]
  | .seqRun d a b => [packRR 0x26 d a b 9]
  | .seqStop d => [packRR 0x26 d 0 0 10]
  | .seqResume d => [packRR 0x26 d 0 0 11]
  | .seqProgramStart _ => []
  | .seqResultArrival _ _ _ => []
  | .waitTimeout _ => []
  | .eventTake _ => []
  | .configurationLoad _ => []
  | .reconfigurationTokenPassage _ => []
  | .configurationSave _ => []
  | .configurationRestore _ => []
  | .launchJudgement _ _ => []
  | .placementTake _ => []
  | .unitStart _ => []
  | .unitCompletion _ => []
  | .launchCompletion _ => []
  | .linkTokenArrival _ _ _ _ => []
  | .packetArrival _ => []
  | .landingQueuePass _ _ => []
  | .qoutRecordWrite _ _ _ _ => []
  | .qinRecordDeliver _ _ _ _ => []
  | .windowCommit _ => []
  | .windowFaultDetect _ => []
  | .regionClockGate _ => []
  | .sweepComplete _ => []
  | .tlbWalk _ _ => []
  | .loadResponse _ _ _ => []
  | .unbufferedAccessPerform _ _ => []
  | .atomicPerform _ _ _ => []
  | .vldHomeJudge _ _ _ => []
  | .vldResend _ _ => []
  | .vstPerform _ _ => []
  | .versionStall _ _ => []
  | .vrclPerform _ _ => []
  | .streamStart _ => []
  | .streamItemMove _ _ => []
  | .streamRetry _ => []
  | .streamRetire _ => []
  | .dirtyHarvest _ => []
  | .tlbInvalidateComplete _ => []
  | .matrixChain _ _ => []
  | .matrixEmit _ _ => []
  | .matrixToken _ _ => []
  | .matrixBeat _ _ => []
  | .matrixClose _ _ => []
  | .matrixOuter _ _ => []
  | .matrixBehind _ _ => []
  | .matrixFathom _ _ => []
  | .repeatNode _ _ => []
  | .rayTake _ => []
  | .candidateInvoke _ _ => []
  | .verdictTake _ => []
  | .rayMigration _ _ => []
  | .rayResult _ _ => []
  | .traversalStopPass _ => []
  | .drain _ => []
  | .ctinv _ => []
  | .traversalUnknownCommand _ => []
  | .primitiveToken _ => []
  | .tagClose _ _ => []
  | .blendForward _ => []
  | .blendApplication _ _ => []
  | .view _ => []
  | .clr _ => []
  | .fbeg _ => []
  | .rasterFence _ => []
  | .modes _ => []
  | .dcmp _ => []
  | .mload _ => []
  | .rasterUnknownCommand _ => []
  | .rasterStopPass _ => []
  | .isect _ => []
  | .union _ => []
  | .intersectUnknownCommand _ => []
  | .accumulatorPair _ => []
  | .accumulatorPoison _ => []
  | .accumulatorFlush _ => []
  | .accumulatorStopPass _ => []
  | .hostQueueEnable _ => []
  | .doorbell _ => []
  | .hostQueueFetch _ => []
  | .intr _ => []
  | .cxlMemRequest _ => []
  | .agfelPeerRequest _ _ => []
  | .agfelRouteMaskWrite _ _ => []
  | .flitReceive _ _ _ _ => []
  | .flitReplay _ => []
  | .linkDown _ => []
  | .linkRetrainComplete _ => []
  | .linkTimeout _ => []
  | .payloadKill _ _ => []
  | .headerCorrupt _ => []
  | .memoryUncorrectableError _ => []
  | .softCorrected _ => []
  | .sensorRefresh _ _ => []
  | .droopEvent _ => []
  | .packageReset _ => []
  | .attgo => []
  | .attestationComplete => []
  | .rcvgo => []
  | .recoveryComplete _ => []
  | .prstGo _ => []
  | .partitionResetComplete _ => []
  | .registerWrite _ _ _ => []
  | .seqIllegalOp _ => []
  | .fetchFault _ => []
  | .writeCompletion _ _ => []
  | .consumedCopyUpdate _ _ _ _ => []
  | .backInvalidateResponse _ => []

/-- The instruction the decoders read from a table word (log entry 31): of 32 bits an element word where the word is one, else a
sequencer word followed by a zero word; of 64 bits the two words of an X form. A word of another length is none. -/
def decodeTableWord (nbits w : Nat) : Option Instr :=
  if nbits = 32 then
    match decodeElem (BitVec.ofNat 32 w) with
    | .instr i _ => some i
    | .rejected _ =>
      match decodeSeq (BitVec.ofNat 32 w) 0 with
      | .instr i _ => some i
      | .rejected _ => none
  else if nbits = 64 then
    match decodeSeq (BitVec.ofNat 32 w) (BitVec.ofNat 32 (w / 2 ^ 32)) with
    | .instr i _ => some i
    | .rejected _ => none
  else none

end Sys2Proof
end

