-- ==== Sys2Proof/Machine/Operands.lean ====
section
/-!
DEFINITION. Operands.lean: every operand form of the element (R78, R87, R95, R96, R101, R102: registers, channel heads,
inbox halves, constants, pairs, lanes, destinations and send slots) and of the sequencer (R156, R161 to R173: registers with
their poison marks and reservations, immediates, offsets, branch targets).
-/
namespace Sys2Proof.Machine

/-! ## Tokens and tags (R77) -/

/-- KIND of a tag: 0 data, 1 stop, 2 fathom, 3 poison. -/
def kindOf (t : Byte) : Nat := t.toNat / 64
def levelOf (t : Byte) : Nat := t.toNat % 64
def mkTag (kind level : Nat) : Byte := BitVec.ofNat 8 (64 * (kind % 4) + level % 64)
def isData (t : Byte) : Bool := kindOf t == 0
def isStop (t : Byte) : Bool := kindOf t == 1
def isFathom (t : Byte) : Bool := kindOf t == 2
def isPoison (t : Byte) : Bool := kindOf t == 3
def dataTag : Byte := 0

/-- Lane j of a wide value (R76). -/
def lane (v : Wide) (j : Nat) : Word := v.extractLsb' (32 * j) 32
def ofLanes (ls : List Word) : Wide := ls.reverse.foldl (fun acc x => (acc <<< 32) ||| x.zeroExtend 256) 0
def lanes (v : Wide) : List Word := (List.range 8).map (lane v)
def scalarOf (v : Word) : Wide := v.zeroExtend 256
def broadcast (v : Word) : Wide := ofLanes (List.replicate 8 v)

/-! ## The element's channels and registers -/

def Elem.xr (e : Elem) (i : Nat) : Word := e.x.getD i 0
def Elem.setX (e : Elem) (i : Nat) (v : Word) : Elem := { e with x := e.x.setIfInBounds i v }
def Elem.wr (e : Elem) (i : Nat) : Wide := e.w.getD i 0
def Elem.setW (e : Elem) (i : Nat) (v : Wide) : Elem := { e with w := e.w.setIfInBounds i v }
/-- The 64-bit value of an even-odd pair (R101, R113). -/
def Elem.pair (e : Elem) (a : Nat) : DWord := (e.xr (2 * a + 1)).zeroExtend 64 <<< 32 ||| (e.xr (2 * a)).zeroExtend 64
def Elem.const (e : Elem) (i : Nat) : Word := e.consts.getD i 0
def Elem.inch (e : Elem) (i : Nat) : InCh := e.inc.getD i default
def Elem.setIn (e : Elem) (i : Nat) (c : InCh) : Elem := { e with inc := e.inc.setIfInBounds i c }
def Elem.outch (e : Elem) (i : Nat) : OutCh := e.outc.getD i default
def Elem.setOut (e : Elem) (i : Nat) (c : OutCh) : Elem := { e with outc := e.outc.setIfInBounds i c }
def Elem.box (e : Elem) (k : Nat) : List InboxEntry := e.inbox.getD k []
def Elem.setBox (e : Elem) (k : Nat) (l : List InboxEntry) : Elem := { e with inbox := e.inbox.setIfInBounds k l }

/-- Mode-word fields (R80). -/
def Elem.isStatic (e : Elem) : Bool := e.mode.getLsbD 31
def Elem.isMatrix (e : Elem) : Bool := e.mode.getLsbD 31 && e.mode.getLsbD 30
def Elem.start (e : Elem) : Bool := e.mode.getLsbD 29
def Elem.inWide (e : Elem) (i : Nat) : Bool := e.mode.getLsbD (20 + i)
def Elem.outWide (e : Elem) (i : Nat) : Bool := e.mode.getLsbD (16 + i)
def Elem.pReset (e : Elem) : Byte := e.mode.extractLsb' 8 8

/-- The half of a packet after `gone` halves (R78). -/
def Packet.half (p : Packet) (gone : Nat) : Word :=
  if gone = 0 then p.w0.extractLsb' 0 32 else if gone = 1 then p.w0.extractLsb' 32 32
  else if gone = 2 then p.w1.extractLsb' 0 32 else p.w1.extractLsb' 32 32
def Packet.halves (p : Packet) : Nat := if p.two then 4 else 2

/-- A head visible at cycle `now` (R86). Channels 0 to 3 are in0 to in3, 4 to 7 are k0 to k3. -/
def Elem.head (e : Elem) (now ch : Nat) : Option Token :=
  if ch < 4 then
    match (e.inch ch).q with
    | .tok t :: _ => if t.at_ < now then some t.tok else none
    | _ => none
  else
    match e.box (ch - 4) with
    | b :: _ => if b.at_ < now then some ⟨scalarOf (b.pkt.half b.gone), b.pkt.tag⟩ else none
    | [] => none

/-- n entries of an inbox were freed in this cycle: they are room from the next (R86). -/
def Elem.freeBox (e : Elem) (now k n : Nat) : Elem :=
  let l := (e.boxFreed.getD k []).filter (fun d => decide (now ≤ d)) ++ List.replicate n now
  { e with boxFreed := e.boxFreed.setIfInBounds k l }
/-- Free entries of an inbox, as the start of the cycle has them (R78, R86). -/
def Elem.boxRoom (e : Elem) (now k : Nat) : Nat :=
  2 - (e.box k).length - ((e.boxFreed.getD k []).filter (fun d => decide (now ≤ d))).length

/-- Removes the head of a channel; an inbox loses one half (R78, R88). The sender's credit follows from `freed` (R230). -/
def Elem.deq (e : Elem) (now ch : Nat) : Elem :=
  if ch < 4 then
    let c := e.inch ch
    e.setIn ch { q := c.q.drop 1, freed := c.freed ++ [now] }
  else
    match e.box (ch - 4) with
    | b :: t =>
      if b.gone + 1 = b.pkt.halves then (e.setBox (ch - 4) t).freeBox now (ch - 4) 1
      else e.setBox (ch - 4) ({ b with gone := b.gone + 1 } :: t)
    | [] => e

/-- Free entries of an output channel as readiness sees them (R76, R86). -/
def Elem.outRoom (e : Elem) (now o : Nat) : Bool :=
  let c := e.outch o
  decide (c.q.length + (c.freed.filter (fun d => decide (now ≤ d))).length < 2)

/-- Appends a token to an output channel; it becomes visible in the next cycle. -/
def Elem.enq (e : Elem) (now src o : Nat) (t : Token) : Elem :=
  let c := e.outch o
  e.setOut o { c with q := c.q ++ [⟨t, now, src⟩] }

/-- Free unreserved entries of an input channel, as the start of the cycle has them (R84). -/
def Elem.inRoom (e : Elem) (now i : Nat) : Nat :=
  4 - (e.inch i).q.length - ((e.inch i).freed.filter (fun d => decide (now ≤ d))).length

/-! ## Sources -/

/-- What a source field supplies: value, tag, and the channel it names. -/
structure Src where
  val : Wide
  tag : Byte
  chan : Option Nat
  deriving DecidableEq, Repr

/-- A scalar source (R95); none while the channel it names holds no head. -/
def Elem.scalarSrc (e : Elem) (now : Nat) (r : Reg) : Option Src :=
  let n := r.toNat
  if n < 16 then some ⟨scalarOf (e.xr n), dataTag, none⟩
  else if n < 24 then
    match e.head now (n - 16) with
    | some t => some ⟨t.val, t.tag, some (n - 16)⟩
    | none => none
  else some ⟨scalarOf (e.const (n - 24)), dataTag, none⟩

/-- A vector source (R96). -/
def Elem.vectorSrc (e : Elem) (now : Nat) (r : Reg) : Option Src :=
  let n := r.toNat
  if n < 16 then some ⟨e.wr n, dataTag, none⟩
  else if n < 24 then
    match e.head now (n - 16) with
    | some t => some ⟨t.val, t.tag, some (n - 16)⟩
    | none => none
  else some ⟨broadcast (e.const (n - 24)), dataTag, none⟩

/-! ## Destinations -/

/-- A scalar destination (R95): x0 to x15, out0 to out3, p0 to p7, s0 to s3. -/
inductive Dest where
  | x (i : Nat) | out (i : Nat) | p (i : Nat) | s (i : Nat) | w (i : Nat)
  deriving DecidableEq, Repr

def scalarDest (r : Reg) : Dest :=
  let n := r.toNat
  if n < 16 then .x n else if n < 20 then .out (n - 16) else if n < 28 then .p (n - 20) else .s (n - 28)

def vectorDest (r : Reg) : Dest := if r.toNat < 16 then .w r.toNat else .out (r.toNat - 16)

/-- A channel or a send slot takes a token with its tag (R90, R91). -/
def Dest.takesTag : Dest → Bool
  | .out _ => true
  | .s _ => true
  | _ => false

/-- Room for a result (R84, condition 5). -/
def Dest.room (d : Dest) (e : Elem) (now : Nat) : Bool :=
  match d with
  | .out o => e.outRoom now o
  | _ => true

/-- Sets or clears one predicate (R95). -/
def setPred (p : Byte) (i : Nat) (v : Bool) : Byte :=
  if v then p ||| (1 <<< i) else p &&& ~~~((1 : Byte) <<< i)

/-- Writes a result (R87, R95): a predicate takes whether the value is nonzero; s0 also sets the send buffer's tag. A scalar
output channel and every register keep 32 bits. -/
def Elem.write (e : Elem) (now src : Nat) (d : Dest) (t : Token) : Elem :=
  match d with
  | .x i => e.setX i (lane t.val 0)
  | .w i => e.setW i t.val
  | .out o => e.enq now src o (if e.outWide o then t else ⟨scalarOf (lane t.val 0), t.tag⟩)
  | .p i => { e with p := setPred e.p i (lane t.val 0 != 0) }
  | .s i => { e with
      sb := e.sb.setIfInBounds i (lane t.val 0)
      sbtag := if i = 0 then t.tag else e.sbtag }

/-! ## The sequencer's operands -/

/-- g0 reads zero (R156). -/
def CoreSt.gr (x : CoreSt) (r : Reg) : DWord := if r = 0 then 0 else x.g.getD r.toNat 0
/-- Writing a register clears its mark (R169); g0 ignores writes. -/
def CoreSt.wr (x : CoreSt) (r : Reg) (v : DWord) : CoreSt :=
  if r = 0 then x else { x with g := x.g.setIfInBounds r.toNat v, marks := x.marks.setIfInBounds r.toNat false }
/-- g0 is never marked (R169). -/
def CoreSt.mark (x : CoreSt) (r : Reg) : CoreSt := if r = 0 then x else { x with marks := x.marks.setIfInBounds r.toNat true }
def CoreSt.marked (x : CoreSt) (r : Reg) : Bool := if r = 0 then false else x.marks.getD r.toNat false
/-- A result is still to come for the register (R166). -/
def CoreSt.reserved (x : CoreSt) (r : Reg) : Bool := r != 0 && x.pend.any (fun p => p.reg == r.toNat)

def sext16 (i : BitVec 16) : DWord := i.signExtend 64
def zext16 (i : BitVec 16) : DWord := i.zeroExtend 64
/-- M format: signed byte offset (R161, R173). -/
def sext12 (o : BitVec 12) : DWord := o.signExtend 64
/-- B format: the target is the branch's address plus 4 × sext(OFF) (R172). -/
def branchTo (pc : DWord) (o : BitVec 21) : DWord := pc + (o.signExtend 64 <<< 2)

end Sys2Proof.Machine
end

