-- ==== Sys2Proof/Machine/Flags.lean ====
section
/-!
DEFINITION. Flags.lean: the predicates and tags that the element computes: the trigger's tests (R82 to R84), the flip of the
set-predicate flag (R87), the masked write of pwr (R130), the tag of a result (R89), and the poison and stop rules (R90, R91).
-/
namespace Sys2Proof.Machine

/-! ## Trigger fields (R82) -/

def careOf (t : Word) : Byte := t.extractLsb' 24 8
def valOf (t : Word) : Byte := t.extractLsb' 16 8
def readyMask (t : Word) : Byte := t.extractLsb' 8 8
def tagCode (t : Word) : Nat := bits t.toNat 7 4
def priOf (t : Word) : Nat := bits t.toNat 3 2

/-- Channels of a READY mask in the order in0 to in3, k0 to k3 (R82, R83). -/
def readyChans (t : Word) : List Nat := (List.range 8).filter (fun i => (readyMask t).getLsbD i)

/-- R84, condition 2. -/
def predOk (e : Elem) (t : Word) : Bool := e.p &&& careOf t == valOf t

def headTags (e : Elem) (now : Nat) : List Nat → List (Option Byte)
  | [] => []
  | c :: cs => (e.head now c).map (fun t => t.tag) :: headTags e now cs

/-- The tag condition of R83 on the tags of the named heads. -/
def tagOk (code : Nat) : List Byte → Bool
  | [] => code == 0
  | h :: t =>
    if code = 0 then true
    else if code = 1 then isData h && t.all isData
    else if code = 2 then isStop h
    else if code = 3 then isStop h && levelOf h == 0
    else if code = 4 then isStop h && levelOf h != 0
    else if code = 5 then isPoison h
    else if code = 6 then isData h && t.all (fun g => isData g && levelOf g == levelOf h)
    else false

/-- Conditions 2, 3 (the channels of READY) and 4 of R84. -/
def trigOk (e : Elem) (now : Nat) (t : Word) : Bool :=
  let tags := headTags e now (readyChans t)
  predOk e t && tags.all (fun g => g.isSome) && tagOk (tagCode t) (tags.filterMap id)

/-! ## Predicates -/

/-- The set-predicate step (R87): p = p XOR CARE. -/
def spStep (sp : Bool) (t : Word) (p : Byte) : Byte := if sp then p ^^^ careOf t else p
/-- R130: bits of b replace p. -/
def pwrStep (p a b : Byte) : Byte := (p &&& ~~~b) ||| (a &&& b)
/-- A comparison's result. -/
def flag (b : Bool) : Word := if b then 1 else 0

/-! ## Tags of results -/

/-- R89: with the tag-pass flag the tag of the first source that is a channel; else data, level 0. -/
def outTag (tp : Bool) (a : Src) (b : Option Src) : Byte :=
  if !tp then dataTag
  else if a.chan.isSome then a.tag
  else
    match b with
    | some y => if y.chan.isSome then y.tag else dataTag
    | none => dataTag

/-- The LEVEL of the first poison head among the sources (R90). -/
def poisonLevel (a : Src) (b : Option Src) : Option Nat :=
  if isPoison a.tag then some (levelOf a.tag)
  else
    match b with
    | some y => if isPoison y.tag then some (levelOf y.tag) else none
    | none => none

/-- R91: the tag-pass flag, a destination that takes a tag, and a stop at the head of the first source. -/
def stopPasses (tp : Bool) (d : Dest) (a : Src) : Bool := tp && d.takesTag && a.chan.isSome && isStop a.tag

/-- `later` of R113: iteration l lies 1 to 31 after e. -/
def later (l e : Nat) : Bool := let d := (l + 64 - e) % 64; decide (1 ≤ d) && decide (d ≤ 31)

end Sys2Proof.Machine
end

