-- ==== Sys2Proof/Machine/Fire.lean ====
section
/-!
DEFINITION. Fire.lean: the firing of R87 as one function of the element's state: what a firing answers, the common steps of
classes R, U and V (R87 to R92), and the memory accesses, packets and marks that a firing hands to its region.
-/
namespace Sys2Proof.Machine

/-- Where a firing happens: the cycle, the slot and its trigger entry, the region and the element in it. -/
structure FireCtx where
  now : Nat
  slot : Nat
  trig : Word
  region : Region
  elem : Nat
  /-- Packet credits an element may claim on a label in this cycle, and whether the label's route is live (R250, R251). -/
  credits : Nat → Nat
  live : Nat → Bool

/-- A memory access as its firing issues it. -/
structure AccReq where
  kind : AccKind
  va : DWord
  size : Nat
  data : Wide := 0
  new : DWord := 0
  version : Word := 0
  tag : Byte := 0
  rsp : Nat := 0
  scope : Nat := 0
  ord : Nat := 0
  itag : Option (BitVec 6) := none
  deriving DecidableEq, Repr

/-- What a firing hands to its region. -/
inductive Fx where
  | access (a : AccReq)
  | send (label : Nat) (pkt : Packet)
  | fence
  | fin
  | sweep (exit : BitVec 6)
  deriving DecidableEq, Repr

/-- A firing that is not ready (R84); one that raises a cause and changes nothing (R92); one that takes effect. -/
inductive FireRes where
  | notReady
  | raises (cause : Byte)
  | done (e : Elem) (fx : List Fx)
  deriving DecidableEq, Repr

/-- The dequeue flags: the second removes nothing where the first has dequeued the same channel (R87). -/
def deqFlagged (e : Elem) (now : Nat) (dqa dqb : Bool) (a : Option Nat) (b : Option Nat) : Elem :=
  let e1 := match dqa, a with
    | true, some ch => e.deq now ch
    | _, _ => e
  match dqb, b with
  | true, some ch => if dqa && a == some ch then e1 else e1.deq now ch
  | _, _ => e1

/-- R87 from the result on: dequeue, flip, write. -/
def finishFire (c : FireCtx) (e : Elem) (dqa dqb sp : Bool) (a b : Option Nat) (d : Dest) (t : Token) : Elem :=
  let e1 := deqFlagged e c.now dqa dqb a b
  let e2 := { e1 with p := spStep sp c.trig e1.p }
  e2.write c.now c.region.serial d t

/-- A firing of class R, U or V with its sources read: R90, R91, then the operation. -/
def fireSrc (c : FireCtx) (e : Elem) (dqa dqb sp tp : Bool) (d : Dest) (a : Src) (b : Option Src) (v : Wide) : FireRes :=
  if !d.room e c.now then .notReady
  else
    let bc := match b with
      | some y => y.chan
      | none => none
    match poisonLevel a b with
    | some l =>
      if tp && d.takesTag then .done (finishFire c e dqa dqb sp a.chan bc d ⟨0, mkTag 3 l⟩) []
      else .raises Cause.poisonConsumed
    | none =>
      if stopPasses tp d a then .done (finishFire c e dqa dqb sp a.chan bc d ⟨a.val, a.tag⟩) []
      else .done (finishFire c e dqa dqb sp a.chan bc d ⟨v, outTag tp a b⟩) []

/-- Class R: two scalar sources. -/
def fireR (op : Elem → Word → Word → Word) (f : ElemRec) (c : FireCtx) (e : Elem) : FireRes :=
  match e.scalarSrc c.now f.a, e.scalarSrc c.now f.b with
  | some a, some b =>
    fireSrc c e f.dqa f.dqb f.sp f.tp (scalarDest f.d) a (some b) (scalarOf (op e (lane a.val 0) (lane b.val 0)))
  | _, _ => .notReady

/-- Class U: one scalar source and a modifier field. -/
def fireU (op : Nat → Word → Word) (f : ElemRec) (c : FireCtx) (e : Elem) : FireRes :=
  match e.scalarSrc c.now f.a with
  | some a => fireSrc c e f.dqa false f.sp f.tp (scalarDest f.d) a none (scalarOf (op f.b.toNat (lane a.val 0)))
  | none => .notReady

/-- Class V with two vector sources. -/
def fireV (op : Elem → Wide → Wide → Wide) (f : ElemRec) (c : FireCtx) (e : Elem) : FireRes :=
  match e.vectorSrc c.now f.a, e.vectorSrc c.now f.b with
  | some a, some b => fireSrc c e f.dqa f.dqb f.sp f.tp (vectorDest f.d) a (some b) (op e a.val b.val)
  | _, _ => .notReady

/-- Class V with one vector source and a scalar destination. -/
def fireVS (op : Wide → Word) (f : ElemRec) (c : FireCtx) (e : Elem) : FireRes :=
  match e.vectorSrc c.now f.a with
  | some a => fireSrc c e f.dqa false f.sp f.tp (scalarDest f.d) a none (scalarOf (op a.val))
  | none => .notReady

/-- Class V with one scalar source and a vector destination. -/
def fireSV (op : Elem → Word → Wide) (f : ElemRec) (c : FireCtx) (e : Elem) : FireRes :=
  match e.scalarSrc c.now f.a with
  | some a => fireSrc c e f.dqa false f.sp f.tp (vectorDest f.d) a none (op e (lane a.val 0))
  | none => .notReady

end Sys2Proof.Machine
end

