-- ==== Sys2Proof/Machine/ElementAlu.lean ====
section
/-!
DEFINITION. ElementAlu.lean: the results and the firings of the element's integer, floating, packed, conversion and vector
instructions (R119 to R128), each as R87 has it.
-/
namespace Sys2Proof.Machine

/-- clamp to the range of INT32 (R119). -/
def clamp32 (v : Int) : Word :=
  BitVec.ofInt 32 (if v < -2147483648 then -2147483648 else if 2147483647 < v then 2147483647 else v)

def popcFrom (v : Nat) : Nat → Nat
  | 0 => 0
  | n + 1 => v % 2 + popcFrom (v / 2) n

/-- The modifier field (R98), as the five bits [8:4]. -/
def rmOf (m : Nat) : Rm := Rm.ofCode (bits m 2 1)
def ftzOf (m : Nat) : Bool := bit m 3
def satOf (m : Nat) : Bool := bit m 4

/-- Two 16-bit items of a word (R61, R123). -/
def pair16 (op : Nat → Nat → Nat) (a b : Word) : Word :=
  BitVec.ofNat 32 (op (a.toNat % 65536) (b.toNat % 65536) + 65536 * op (a.toNat / 65536) (b.toNat / 65536))
def pair16fma (f : Fmt) (a b d : Word) : Word :=
  BitVec.ofNat 32 (f.fmaBits (a.toNat % 65536) (b.toNat % 65536) (d.toNat % 65536)
    + 65536 * f.fmaBits (a.toNat / 65536) (b.toNat / 65536) (d.toNat / 65536))

/-! ## Results of classes R and U -/

/-- ADD_I32 (R119). -/
def opAddI32 (a b : Word) : Word := a + b
/-- SUB_I32 (R119). -/
def opSubI32 (a b : Word) : Word := a - b
/-- MUL_I32 (R119). -/
def opMulI32 (a b : Word) : Word := a * b
/-- MULH_I32 (R119). -/
def opMulhI32 (a b : Word) : Word := BitVec.ofInt 32 (a.toInt * b.toInt / 2 ^ 32)
/-- AND (R119). -/
def opAnd (a b : Word) : Word := a &&& b
/-- OR (R119). -/
def opOr (a b : Word) : Word := a ||| b
/-- XOR (R119). -/
def opXor (a b : Word) : Word := a ^^^ b
/-- SHL (R119). -/
def opShl (a b : Word) : Word := a <<< (b.toNat % 32)
/-- SHR_U32 (R119). -/
def opShrU32 (a b : Word) : Word := a >>> (b.toNat % 32)
/-- SHR_I32 (R119). -/
def opShrI32 (a b : Word) : Word := a.sshiftRight (b.toNat % 32)
/-- MIN_I32 (R119). -/
def opMinI32 (a b : Word) : Word := if a.slt b then a else b
/-- MAX_I32 (R119). -/
def opMaxI32 (a b : Word) : Word := if a.slt b then b else a
/-- ADDSAT_I32 (R119). -/
def opAddsatI32 (a b : Word) : Word := clamp32 (a.toInt + b.toInt)
/-- SUBSAT_I32 (R119). -/
def opSubsatI32 (a b : Word) : Word := clamp32 (a.toInt - b.toInt)
/-- CMP_EQ (R119). -/
def opCmpEq (a b : Word) : Word := flag (a == b)
/-- CMP_LT_I32 (R119). -/
def opCmpLtI32 (a b : Word) : Word := flag (a.slt b)
/-- CMP_LT_U32 (R119). -/
def opCmpLtU32 (a b : Word) : Word := flag (a.ult b)
/-- MOV (R119). -/
def opMov (_m : Nat) (a : Word) : Word := a
/-- ABS_I32 (R119). -/
def opAbsI32 (_m : Nat) (a : Word) : Word := BitVec.ofInt 32 a.toInt.natAbs
/-- CLZ (R119). -/
def opClz (_m : Nat) (a : Word) : Word := BitVec.ofNat 32 (if a = 0 then 32 else 31 - Nat.log2 a.toNat)
/-- POPC (R119). -/
def opPopc (_m : Nat) (a : Word) : Word := BitVec.ofNat 32 (popcFrom a.toNat 32)
/-- FADD_F32 (R121). -/
def opFaddF32 (a b : Word) : Word := BitVec.ofNat 32 (Fmt.f32.addBits a.toNat b.toNat)
/-- FSUB_F32 (R121). -/
def opFsubF32 (a b : Word) : Word := BitVec.ofNat 32 (Fmt.f32.subBits a.toNat b.toNat)
/-- FMUL_F32 (R121). -/
def opFmulF32 (a b : Word) : Word := BitVec.ofNat 32 (Fmt.f32.mulBits a.toNat b.toNat)
/-- FMIN_F32 (R121). -/
def opFminF32 (a b : Word) : Word := BitVec.ofNat 32 (Fmt.f32.minmax (-1) a.toNat b.toNat)
/-- FMAX_F32 (R121). -/
def opFmaxF32 (a b : Word) : Word := BitVec.ofNat 32 (Fmt.f32.minmax 1 a.toNat b.toNat)
/-- FABS_F32 (R121). -/
def opFabsF32 (_m : Nat) (a : Word) : Word := if (Fmt.f32.dec a.toNat).isNan then 0x7FC00000 else a &&& 0x7FFFFFFF
/-- FNEG_F32 (R121). -/
def opFnegF32 (_m : Nat) (a : Word) : Word := if (Fmt.f32.dec a.toNat).isNan then 0x7FC00000 else a ^^^ 0x80000000
/-- FCMP_EQ_F32 (R121). -/
def opFcmpEqF32 (a b : Word) : Word := flag (Fmt.f32.eqBits a.toNat b.toNat)
/-- FCMP_LT_F32 (R121). -/
def opFcmpLtF32 (a b : Word) : Word := flag (Fmt.f32.ltBits a.toNat b.toNat)
/-- FCMP_LE_F32 (R121). -/
def opFcmpLeF32 (a b : Word) : Word := flag (Fmt.f32.leBits a.toNat b.toNat)
/-- FDIV_F32 (R122). -/
def opFdivF32 (a b : Word) : Word := BitVec.ofNat 32 (Fmt.f32.divBits a.toNat b.toNat)
/-- FSQRT_F32 (R122). -/
def opFsqrtF32 (m : Nat) (a : Word) : Word := BitVec.ofNat 32 (Fmt.f32.sqrtBits (rmOf m) (ftzOf m) a.toNat)
/-- FADD_F16X2 (R123). -/
def opFaddF16x2 (a b : Word) : Word := pair16 (Fmt.f16.addBits) a b
/-- FMUL_F16X2 (R123). -/
def opFmulF16x2 (a b : Word) : Word := pair16 (Fmt.f16.mulBits) a b
/-- FADD_BF16X2 (R123). -/
def opFaddBf16x2 (a b : Word) : Word := pair16 (Fmt.bf16.addBits) a b
/-- FMUL_BF16X2 (R123). -/
def opFmulBf16x2 (a b : Word) : Word := pair16 (Fmt.bf16.mulBits) a b
/-- CVT_F32_I32 (R124). -/
def opCvtF32I32 (m : Nat) (a : Word) : Word := BitVec.ofNat 32 (Fmt.f32.ofInt (rmOf m) a.toInt)
/-- CVT_I32_F32 (R124). -/
def opCvtI32F32 (m : Nat) (a : Word) : Word := BitVec.ofInt 32 ((Fmt.f32.dec a.toNat).toInt (rmOf m) (-2147483648) 2147483647)
/-- CVT_F32_F16 (R124). -/
def opCvtF32F16 (_m : Nat) (a : Word) : Word := BitVec.ofNat 32 (Fmt.f16.convert Fmt.f32 .rne false false (a.toNat % 65536))
/-- CVT_F32_BF16 (R124). -/
def opCvtF32Bf16 (_m : Nat) (a : Word) : Word := BitVec.ofNat 32 (Fmt.bf16.convert Fmt.f32 .rne false false (a.toNat % 65536))
/-- CVT_F16_F32 (R124). -/
def opCvtF16F32 (m : Nat) (a : Word) : Word := BitVec.ofNat 32 (Fmt.f32.convert Fmt.f16 (rmOf m) (ftzOf m) false a.toNat)
/-- CVT_BF16_F32 (R124). -/
def opCvtBf16F32 (m : Nat) (a : Word) : Word := BitVec.ofNat 32 (Fmt.f32.convert Fmt.bf16 (rmOf m) (ftzOf m) false a.toNat)
/-- CVT_E4M3_F32 (R124). -/
def opCvtE4m3F32 (m : Nat) (a : Word) : Word := BitVec.ofNat 32 (Fmt.f32.convert Fmt.e4m3 (rmOf m) (ftzOf m) (satOf m) a.toNat)
/-- CVT_E5M2_F32 (R124). -/
def opCvtE5m2F32 (m : Nat) (a : Word) : Word := BitVec.ofNat 32 (Fmt.f32.convert Fmt.e5m2 (rmOf m) (ftzOf m) (satOf m) a.toNat)

/-! ## Firings of classes R and U -/

/-- ADD_I32 (R119, R87). -/
def fireAddI32 (f : ElemRec) (c : FireCtx) (e : Elem) : FireRes := fireR (fun _ => opAddI32) f c e
/-- SUB_I32 (R119, R87). -/
def fireSubI32 (f : ElemRec) (c : FireCtx) (e : Elem) : FireRes := fireR (fun _ => opSubI32) f c e
/-- MUL_I32 (R119, R87). -/
def fireMulI32 (f : ElemRec) (c : FireCtx) (e : Elem) : FireRes := fireR (fun _ => opMulI32) f c e
/-- MULH_I32 (R119, R87). -/
def fireMulhI32 (f : ElemRec) (c : FireCtx) (e : Elem) : FireRes := fireR (fun _ => opMulhI32) f c e
/-- AND (R119, R87). -/
def fireAnd (f : ElemRec) (c : FireCtx) (e : Elem) : FireRes := fireR (fun _ => opAnd) f c e
/-- OR (R119, R87). -/
def fireOr (f : ElemRec) (c : FireCtx) (e : Elem) : FireRes := fireR (fun _ => opOr) f c e
/-- XOR (R119, R87). -/
def fireXor (f : ElemRec) (c : FireCtx) (e : Elem) : FireRes := fireR (fun _ => opXor) f c e
/-- SHL (R119, R87). -/
def fireShl (f : ElemRec) (c : FireCtx) (e : Elem) : FireRes := fireR (fun _ => opShl) f c e
/-- SHR_U32 (R119, R87). -/
def fireShrU32 (f : ElemRec) (c : FireCtx) (e : Elem) : FireRes := fireR (fun _ => opShrU32) f c e
/-- SHR_I32 (R119, R87). -/
def fireShrI32 (f : ElemRec) (c : FireCtx) (e : Elem) : FireRes := fireR (fun _ => opShrI32) f c e
/-- MIN_I32 (R119, R87). -/
def fireMinI32 (f : ElemRec) (c : FireCtx) (e : Elem) : FireRes := fireR (fun _ => opMinI32) f c e
/-- MAX_I32 (R119, R87). -/
def fireMaxI32 (f : ElemRec) (c : FireCtx) (e : Elem) : FireRes := fireR (fun _ => opMaxI32) f c e
/-- ADDSAT_I32 (R119, R87). -/
def fireAddsatI32 (f : ElemRec) (c : FireCtx) (e : Elem) : FireRes := fireR (fun _ => opAddsatI32) f c e
/-- SUBSAT_I32 (R119, R87). -/
def fireSubsatI32 (f : ElemRec) (c : FireCtx) (e : Elem) : FireRes := fireR (fun _ => opSubsatI32) f c e
/-- CMP_EQ (R119, R87). -/
def fireCmpEq (f : ElemRec) (c : FireCtx) (e : Elem) : FireRes := fireR (fun _ => opCmpEq) f c e
/-- CMP_LT_I32 (R119, R87). -/
def fireCmpLtI32 (f : ElemRec) (c : FireCtx) (e : Elem) : FireRes := fireR (fun _ => opCmpLtI32) f c e
/-- CMP_LT_U32 (R119, R87). -/
def fireCmpLtU32 (f : ElemRec) (c : FireCtx) (e : Elem) : FireRes := fireR (fun _ => opCmpLtU32) f c e
/-- MOV (R119, R87). -/
def fireMov (f : ElemRec) (c : FireCtx) (e : Elem) : FireRes := fireU opMov f c e
/-- ABS_I32 (R119, R87). -/
def fireAbsI32 (f : ElemRec) (c : FireCtx) (e : Elem) : FireRes := fireU opAbsI32 f c e
/-- CLZ (R119, R87). -/
def fireClz (f : ElemRec) (c : FireCtx) (e : Elem) : FireRes := fireU opClz f c e
/-- POPC (R119, R87). -/
def firePopc (f : ElemRec) (c : FireCtx) (e : Elem) : FireRes := fireU opPopc f c e
/-- FADD_F32 (R121, R87). -/
def fireFaddF32 (f : ElemRec) (c : FireCtx) (e : Elem) : FireRes := fireR (fun _ => opFaddF32) f c e
/-- FSUB_F32 (R121, R87). -/
def fireFsubF32 (f : ElemRec) (c : FireCtx) (e : Elem) : FireRes := fireR (fun _ => opFsubF32) f c e
/-- FMUL_F32 (R121, R87). -/
def fireFmulF32 (f : ElemRec) (c : FireCtx) (e : Elem) : FireRes := fireR (fun _ => opFmulF32) f c e
/-- FMIN_F32 (R121, R87). -/
def fireFminF32 (f : ElemRec) (c : FireCtx) (e : Elem) : FireRes := fireR (fun _ => opFminF32) f c e
/-- FMAX_F32 (R121, R87). -/
def fireFmaxF32 (f : ElemRec) (c : FireCtx) (e : Elem) : FireRes := fireR (fun _ => opFmaxF32) f c e
/-- FABS_F32 (R121, R87). -/
def fireFabsF32 (f : ElemRec) (c : FireCtx) (e : Elem) : FireRes := fireU opFabsF32 f c e
/-- FNEG_F32 (R121, R87). -/
def fireFnegF32 (f : ElemRec) (c : FireCtx) (e : Elem) : FireRes := fireU opFnegF32 f c e
/-- FCMP_EQ_F32 (R121, R87). -/
def fireFcmpEqF32 (f : ElemRec) (c : FireCtx) (e : Elem) : FireRes := fireR (fun _ => opFcmpEqF32) f c e
/-- FCMP_LT_F32 (R121, R87). -/
def fireFcmpLtF32 (f : ElemRec) (c : FireCtx) (e : Elem) : FireRes := fireR (fun _ => opFcmpLtF32) f c e
/-- FCMP_LE_F32 (R121, R87). -/
def fireFcmpLeF32 (f : ElemRec) (c : FireCtx) (e : Elem) : FireRes := fireR (fun _ => opFcmpLeF32) f c e
/-- FDIV_F32 (R122, R87). -/
def fireFdivF32 (f : ElemRec) (c : FireCtx) (e : Elem) : FireRes := fireR (fun _ => opFdivF32) f c e
/-- FSQRT_F32 (R122, R87). -/
def fireFsqrtF32 (f : ElemRec) (c : FireCtx) (e : Elem) : FireRes := fireU opFsqrtF32 f c e
/-- FADD_F16X2 (R123, R87). -/
def fireFaddF16x2 (f : ElemRec) (c : FireCtx) (e : Elem) : FireRes := fireR (fun _ => opFaddF16x2) f c e
/-- FMUL_F16X2 (R123, R87). -/
def fireFmulF16x2 (f : ElemRec) (c : FireCtx) (e : Elem) : FireRes := fireR (fun _ => opFmulF16x2) f c e
/-- FADD_BF16X2 (R123, R87). -/
def fireFaddBf16x2 (f : ElemRec) (c : FireCtx) (e : Elem) : FireRes := fireR (fun _ => opFaddBf16x2) f c e
/-- FMUL_BF16X2 (R123, R87). -/
def fireFmulBf16x2 (f : ElemRec) (c : FireCtx) (e : Elem) : FireRes := fireR (fun _ => opFmulBf16x2) f c e
/-- CVT_F32_I32 (R124, R87). -/
def fireCvtF32I32 (f : ElemRec) (c : FireCtx) (e : Elem) : FireRes := fireU opCvtF32I32 f c e
/-- CVT_I32_F32 (R124, R87). -/
def fireCvtI32F32 (f : ElemRec) (c : FireCtx) (e : Elem) : FireRes := fireU opCvtI32F32 f c e
/-- CVT_F32_F16 (R124, R87). -/
def fireCvtF32F16 (f : ElemRec) (c : FireCtx) (e : Elem) : FireRes := fireU opCvtF32F16 f c e
/-- CVT_F32_BF16 (R124, R87). -/
def fireCvtF32Bf16 (f : ElemRec) (c : FireCtx) (e : Elem) : FireRes := fireU opCvtF32Bf16 f c e
/-- CVT_F16_F32 (R124, R87). -/
def fireCvtF16F32 (f : ElemRec) (c : FireCtx) (e : Elem) : FireRes := fireU opCvtF16F32 f c e
/-- CVT_BF16_F32 (R124, R87). -/
def fireCvtBf16F32 (f : ElemRec) (c : FireCtx) (e : Elem) : FireRes := fireU opCvtBf16F32 f c e
/-- CVT_E4M3_F32 (R124, R87). -/
def fireCvtE4m3F32 (f : ElemRec) (c : FireCtx) (e : Elem) : FireRes := fireU opCvtE4m3F32 f c e
/-- CVT_E5M2_F32 (R124, R87). -/
def fireCvtE5m2F32 (f : ElemRec) (c : FireCtx) (e : Elem) : FireRes := fireU opCvtE5m2F32 f c e
/-- FFMA_F32 (R121): the destination register is the accumulator. -/
def fireFfmaF32 (f : ElemRec) (c : FireCtx) (e : Elem) : FireRes :=
  fireR (fun e a b => BitVec.ofNat 32 (Fmt.f32.fmaBits a.toNat b.toNat (e.xr f.d.toNat).toNat)) f c e
/-- FFMA_F16X2 (R123): the destination register is the accumulator. -/
def fireFfmaF16x2 (f : ElemRec) (c : FireCtx) (e : Elem) : FireRes :=
  fireR (fun e a b => pair16fma Fmt.f16 a b (e.xr f.d.toNat)) f c e
/-- FFMA_BF16X2 (R123): the destination register is the accumulator. -/
def fireFfmaBf16x2 (f : ElemRec) (c : FireCtx) (e : Elem) : FireRes :=
  fireR (fun e a b => pair16fma Fmt.bf16 a b (e.xr f.d.toNat)) f c e

/-- SEL (R120): p7 chooses the source whose tag and stop count; poison counts on both. -/
def fireSel (f : ElemRec) (c : FireCtx) (e : Elem) : FireRes :=
  match e.scalarSrc c.now f.a, e.scalarSrc c.now f.b with
  | some a, some b =>
    let d := scalarDest f.d
    let ch := if e.p.getLsbD 7 then a else b
    if !d.room e c.now then .notReady
    else
      match poisonLevel a (some b) with
      | some l =>
        if f.tp && d.takesTag then .done (finishFire c e f.dqa f.dqb f.sp a.chan b.chan d ⟨0, mkTag 3 l⟩) []
        else .raises Cause.poisonConsumed
      | none =>
        let t : Token := if stopPasses f.tp d ch then ⟨ch.val, ch.tag⟩ else ⟨scalarOf (lane ch.val 0), outTag f.tp ch none⟩
        .done (finishFire c e f.dqa f.dqb f.sp a.chan b.chan d t) []
  | _, _ => .notReady

/-! ## Vector instructions (R125 to R128) -/

/-- A lane operation. -/
def mapLanes (op : Word → Word → Word) (a b : Wide) : Wide :=
  ofLanes ((List.range 8).map (fun j => op (lane a j) (lane b j)))
def mapLanes3 (op : Word → Word → Word → Word) (a b d : Wide) : Wide :=
  ofLanes ((List.range 8).map (fun j => op (lane a j) (lane b j) (lane d j)))

/-- The sixteen 16-bit items of a wide value (R61, R125). -/
def items16 (v : Wide) : List Nat := (List.range 16).map (fun k => bits v.toNat (16 * k + 15) (16 * k))

def fma32 (a b d : Word) : Word := BitVec.ofNat 32 (Fmt.f32.fmaBits a.toNat b.toNat d.toNat)
def redsumF32 (v : Wide) : Word :=
  BitVec.ofNat 32 ((treeSum Fmt.f32.addBits 3 ((lanes v).map (fun x => x.toNat))).headD 0)
def redsumF16 (v : Wide) : Word := BitVec.ofNat 32 ((treeSum Fmt.f16.addBits 4 (items16 v)).headD 0)
def redmaxF32 (v : Wide) : Word :=
  BitVec.ofNat 32 ((treeSum (Fmt.f32.minmax 1) 3 ((lanes v).map (fun x => x.toNat))).headD 0)

/-- VADD_I32 (R125). -/
def fireVaddI32 (f : ElemRec) (c : FireCtx) (e : Elem) : FireRes := fireV (fun _ => mapLanes opAddI32) f c e
/-- VFADD_F32 (R125). -/
def fireVfaddF32 (f : ElemRec) (c : FireCtx) (e : Elem) : FireRes := fireV (fun _ => mapLanes opFaddF32) f c e
/-- VFMUL_F32 (R125). -/
def fireVfmulF32 (f : ElemRec) (c : FireCtx) (e : Elem) : FireRes := fireV (fun _ => mapLanes opFmulF32) f c e
/-- VFMA_F32 (R125). -/
def fireVfmaF32 (f : ElemRec) (c : FireCtx) (e : Elem) : FireRes :=
  fireV (fun e a b => mapLanes3 fma32 a b (e.wr f.d.toNat)) f c e
/-- VFMA_F16 (R125). -/
def fireVfmaF16 (f : ElemRec) (c : FireCtx) (e : Elem) : FireRes :=
  fireV (fun e a b => mapLanes3 (pair16fma Fmt.f16) a b (e.wr f.d.toNat)) f c e
/-- VFMA_BF16 (R125). -/
def fireVfmaBf16 (f : ElemRec) (c : FireCtx) (e : Elem) : FireRes :=
  fireV (fun e a b => mapLanes3 (pair16fma Fmt.bf16) a b (e.wr f.d.toNat)) f c e
/-- VBCAST (R126). -/
def fireVbcast (f : ElemRec) (c : FireCtx) (e : Elem) : FireRes := fireSV (fun _ a => broadcast a) f c e
/-- VEXT (R126). -/
def fireVext (f : ElemRec) (c : FireCtx) (e : Elem) : FireRes := fireVS (fun v => lane v f.b.toNat) f c e
/-- VINS (R126). -/
def fireVins (f : ElemRec) (c : FireCtx) (e : Elem) : FireRes :=
  fireSV (fun e a => ofLanes ((List.range 8).map (fun j => if j = f.b.toNat then a else lane (e.wr f.d.toNat) j))) f c e
/-- VREDSUM_F32 (R127). -/
def fireVredsumF32 (f : ElemRec) (c : FireCtx) (e : Elem) : FireRes := fireVS redsumF32 f c e
/-- VREDSUM_F16 (R127). -/
def fireVredsumF16 (f : ElemRec) (c : FireCtx) (e : Elem) : FireRes := fireVS redsumF16 f c e
/-- VREDMAX_F32 (R127). -/
def fireVredmaxF32 (f : ElemRec) (c : FireCtx) (e : Elem) : FireRes := fireVS redmaxF32 f c e

end Sys2Proof.Machine
end

