-- ==== Sys2Proof/Machine/ElementCtl.lean ====
section
/-!
DEFINITION. ElementCtl.lean: the firings of the class C instructions (R129 to R142): predicates, tags, steer and merge,
repeat, stop tokens, sweep, packets and the end of a unit.
-/
namespace Sys2Proof.Machine

/-- PWR (R130): the predicates are written last. -/
def firePwr (f : ElemRec) (c : FireCtx) (e : Elem) : FireRes :=
  match e.scalarSrc c.now f.a, e.scalarSrc c.now f.b with
  | some a, some b =>
    if (poisonLevel a (some b)).isSome then .raises Cause.poisonConsumed
    else
      let e1 := deqFlagged e c.now f.dqa f.dqb a.chan b.chan
      .done { e1 with p := pwrStep e1.p (a.val.extractLsb' 0 8) (b.val.extractLsb' 0 8) } []
  | _, _ => .notReady

/-- PRD (R130): reads p before the flip. -/
def firePrd (f : ElemRec) (c : FireCtx) (e : Elem) : FireRes :=
  let d := scalarDest f.d
  if !d.room e c.now then .notReady
  else .done (finishFire c e false false f.sp none none d ⟨e.p.zeroExtend 256, dataTag⟩) []

/-- STEER (R132, R134). A poison control raises whatever room the arms have, since R134 asks room for a data or a stop control
alone (log entry 58). -/
def fireSteer (f : ElemRec) (c : FireCtx) (e : Elem) : FireRes :=
  match e.scalarSrc c.now f.a, e.scalarSrc c.now f.b with
  | some ct, some d =>
    let i := f.d.toNat - 16
    let tok : Token := ⟨d.val, d.tag⟩
    let fin := fun (x : Elem) =>
      let y := deqFlagged x c.now f.dqa true ct.chan d.chan
      FireRes.done { y with p := spStep f.sp c.trig y.p } []
    if isPoison ct.tag then .raises Cause.poisonConsumed
    else if isStop ct.tag then
      if !(e.outRoom c.now i && e.outRoom c.now (i + 1)) then .notReady
      else if !isStop d.tag || levelOf d.tag != levelOf ct.tag then .raises Cause.stopMismatch
      else fin ((e.enq c.now c.region.serial i tok).enq c.now c.region.serial (i + 1) tok)
    else
      let o := if lane ct.val 0 = 0 then i else i + 1
      if !e.outRoom c.now o then .notReady else fin (e.enq c.now c.region.serial o tok)
  | _, _ => .notReady

/-- The dequeues of a merge: its arms, and the control source where it is flagged and is not an arm dequeued already. -/
def mergeDeq (e : Elem) (now : Nat) (arms : List Nat) (dqa : Bool) (ctl : Option Nat) : Elem :=
  let e1 := arms.foldl (fun x a => x.deq now a) e
  match dqa, ctl with
  | true, some ch => if arms.contains ch then e1 else e1.deq now ch
  | _, _ => e1

/-- MERGE (R133, R134). -/
def fireMerge (f : ElemRec) (c : FireCtx) (e : Elem) : FireRes :=
  match e.scalarSrc c.now f.a with
  | none => .notReady
  | some ct =>
    let i := f.b.toNat - 16
    let o := f.d.toNat - 16
    let fin := fun (arms : List Nat) (t : Token) =>
      let y := mergeDeq (e.enq c.now c.region.serial o t) c.now arms f.dqa ct.chan
      FireRes.done { y with p := spStep f.sp c.trig y.p } []
    if isPoison ct.tag then
      (if e.outRoom c.now o && (e.head c.now (if lane ct.val 0 = 0 then i else i + 1)).isSome then .raises Cause.poisonConsumed
       else .notReady)
    else if isStop ct.tag then
      match e.head c.now i, e.head c.now (i + 1) with
      | some x, some y =>
        if !e.outRoom c.now o then .notReady
        else if !(isStop x.tag && isStop y.tag && levelOf x.tag == levelOf ct.tag && levelOf y.tag == levelOf ct.tag) then
          .raises Cause.stopMismatch
        else fin [i, i + 1] x
      | _, _ => .notReady
    else
      let m := if lane ct.val 0 = 0 then i else i + 1
      match e.head c.now m with
      | some t => if !e.outRoom c.now o then .notReady else fin [m] t
      | none => .notReady

/-- REP (R136): .sp and the dequeue take effect only in the firing that consumes the source. -/
def fireRep (f : ElemRec) (c : FireCtx) (e : Elem) : FireRes :=
  match e.scalarSrc c.now f.a with
  | none => .notReady
  | some a =>
    let d := scalarDest f.d
    let n := e.xr f.b.toNat
    let consume := fun (x : Elem) =>
      let y := deqFlagged x c.now f.dqa false a.chan none
      { y with p := spStep f.sp c.trig y.p }
    let room := d.room e c.now
    if isPoison a.tag then
      if !f.tp then .raises Cause.poisonConsumed
      else if !room then .notReady
      else .done ((consume e).write c.now c.region.serial d ⟨0, mkTag 3 (levelOf a.tag)⟩) []
    else if isStop a.tag && f.tp then
      if !room then .notReady else .done ((consume e).write c.now c.region.serial d ⟨a.val, a.tag⟩) []
    else if n = 0 then .done (consume e) []
    else if !room then .notReady
    else
      let e1 := (e.write c.now c.region.serial d ⟨scalarOf (lane a.val 0), outTag f.tp a none⟩).setX f.b.toNat (n - 1)
      if n = 1 then .done (consume e1) [] else .done e1 []

/-- SWEEP (R139): the head's LEVEL is the exit iteration, whatever its KIND but poison. -/
def fireSweep (f : ElemRec) (c : FireCtx) (e : Elem) : FireRes :=
  match e.scalarSrc c.now f.a with
  | none => .notReady
  | some a =>
    if isPoison a.tag then .raises Cause.poisonConsumed
    else
      let y := deqFlagged e c.now f.dqa false a.chan none
      .done { y with p := spStep f.sp c.trig y.p } [.sweep (BitVec.ofNat 6 (levelOf a.tag))]

/-- STOP (R137). -/
def fireStop (f : ElemRec) (c : FireCtx) (e : Elem) : FireRes :=
  match e.scalarSrc c.now f.a, e.scalarSrc c.now f.b with
  | some a, some b =>
    let d := scalarDest f.d
    let go := fun (t : Token) => FireRes.done (finishFire c e f.dqa f.dqb f.sp a.chan b.chan d t) []
    if !d.room e c.now then .notReady
    else
      match poisonLevel a (some b) with
      | some l => if f.tp then go ⟨0, mkTag 3 l⟩ else .raises Cause.poisonConsumed
      | none => go ⟨scalarOf (lane a.val 0), mkTag 1 (lane b.val 0).toNat⟩
  | _, _ => .notReady

/-- TAG_SET (R131). -/
def fireTagSet (f : ElemRec) (c : FireCtx) (e : Elem) : FireRes :=
  match e.scalarSrc c.now f.a, e.scalarSrc c.now f.b with
  | some a, some b =>
    let d := scalarDest f.d
    if !d.room e c.now then .notReady
    else if (poisonLevel a (some b)).isSome then .raises Cause.poisonConsumed
    else .done (finishFire c e f.dqa f.dqb f.sp a.chan b.chan d ⟨scalarOf (lane a.val 0), mkTag 0 (lane b.val 0).toNat⟩) []
  | _, _ => .notReady

/-- TAG_GET (R131): reads any KIND. -/
def fireTagGet (f : ElemRec) (c : FireCtx) (e : Elem) : FireRes :=
  match e.scalarSrc c.now f.a with
  | none => .notReady
  | some a =>
    let d := scalarDest f.d
    if !d.room e c.now then .notReady
    else .done (finishFire c e f.dqa false f.sp a.chan none d ⟨a.tag.zeroExtend 256, dataTag⟩) []

/-! ## Packets (R141, R247 to R250) -/

/-- TYPE of a route-table entry (R231). -/
def routeType (w : DWord) : Nat := bits w.toNat 63 61
def Region.route (r : Region) (k : Nat) : DWord := r.rtab.getD k 0
def isPacketRoute (w : DWord) : Bool := routeType w == 1 || routeType w == 2

/-- The header as it leaves the sender; DST, INBOX and MC are filled in by the network (R247, R254). -/
def headerOf (ctx label src : Nat) (tag : Byte) (two : Bool) : DWord :=
  BitVec.ofNat 64 (2 ^ 58 * (ctx % 64) + 2 ^ 50 * tag.toNat + (if two then 2 ^ 49 else 0) + 2 ^ 41 * (label % 128)
    + 2 ^ 11 * (src % 2 ^ 14))

/-- SEND (R141, R250). A suppressed packet takes no credit (R356). A poison label raises with a free packet stage alone: it names no
route whose credit could be asked for (log entry 58). -/
def fireSend (f : ElemRec) (c : FireCtx) (e : Elem) : FireRes :=
  match e.scalarSrc c.now f.a with
  | none => .notReady
  | some a =>
    let k := (lane a.val 0).toNat % 128
    if e.stage.isSome || decide (c.now < e.stageFreed) then .notReady
    else if isPoison a.tag then .raises Cause.poisonConsumed
    else if !isPacketRoute (c.region.route k) then .raises Cause.routeInvalid
    else if c.credits k = 0 && AMap.getD c.region.rsup k 0 = 0 then .notReady
    else if !c.live k then .raises Cause.isolationFreeze
    else
      let two := f.d == 31
      let pkt : Packet := {
        header := headerOf c.region.ctx k (c.region.loc c.elem) e.sbtag two
        w0 := (e.sb.getD 1 0).zeroExtend 64 <<< 32 ||| (e.sb.getD 0 0).zeroExtend 64
        w1 := if two then (e.sb.getD 3 0).zeroExtend 64 <<< 32 ||| (e.sb.getD 2 0).zeroExtend 64 else 0
        two := two
        tag := e.sbtag }
      let y := deqFlagged e c.now f.dqa false a.chan none
      .done { y with p := spStep f.sp c.trig y.p } [.send k pkt]

/-- FIN (R142). -/
def fireFin (f : ElemRec) (c : FireCtx) (e : Elem) : FireRes :=
  .done { e with p := spStep f.sp c.trig e.p, finished := true } [.fin]

end Sys2Proof.Machine
end

