-- ==== Sys2Proof/Machine/ElementMem.lean ====
section
/-!
DEFINITION. ElementMem.lean: the firings of the memory and atomic instructions (R101, R102, R143 to R152). A firing reads its
operands, reserves its response and hands the access to its region; what memory does then is in Windows.lean and Access.lean.
-/
namespace Sys2Proof.Machine

/-- A free entry at an element's memory port at the start of the cycle: of its eight, those held by accesses and those freed in this
cycle are not (R84, R116, R144). -/
def Region.portFree (r : Region) (now elem : Nat) : Bool :=
  decide ((r.accs.filter (fun a => a.elem == elem && a.inPort)).length + ((r.elem elem).portFreed.filter (fun d => d == now)).length < 8)

/-- No closing window stands in the way of an unbuffered firing, now or at the start of the cycle (R84, R351). -/
def Region.unbufOk (r : Region) (now : Nat) : Bool := !r.wins.any (fun w => w.closed) && decide (r.commitAt ≤ now)

/-- The common end of a class M or A firing: dequeue, flip, and the access. -/
def issue (c : FireCtx) (e : Elem) (dqb sp : Bool) (b : Option Nat) (a : AccReq) : FireRes :=
  let y := deqFlagged e c.now false dqb none b
  .done { y with p := spStep sp c.trig y.p } [.access a]

/-- Loads (R143, R144). -/
def fireLoad (size : Nat) (f : MemRec) (c : FireCtx) (e : Elem) : FireRes :=
  match e.scalarSrc c.now f.b with
  | none => .notReady
  | some b =>
    if !c.region.portFree c.now c.elem || e.inRoom c.now f.rsp.toNat = 0 then .notReady
    else if isPoison b.tag then .raises Cause.poisonConsumed
    else issue c e f.dqb f.sp b.chan {
      kind := if f.ord = 1 then .acquire else .load, va := e.pair f.pair.toNat + (lane b.val 0).signExtend 64, size := size
      tag := outTag f.tp b none, rsp := f.rsp.toNat, scope := f.scope.toNat, ord := f.ord.toNat }

/-- Stores (R143, R145); the data source is `src`. -/
def fireStoreOf (src : Option Src) (size : Nat) (f : MemRec) (c : FireCtx) (e : Elem) : FireRes :=
  match src with
  | none => .notReady
  | some d =>
    if !c.region.portFree c.now c.elem || (f.ord == 2 && !c.region.unbufOk c.now) then .notReady
    else if isPoison d.tag then .raises Cause.poisonConsumed
    else issue c e f.dqb f.sp d.chan {
      kind := if f.ord = 2 then .release else .store, va := e.pair f.pair.toNat, size := size, data := d.val
      scope := f.scope.toNat, ord := f.ord.toNat
      itag := if d.chan.isSome then some (BitVec.ofNat 6 (levelOf d.tag)) else none }

/-- Atomics (R151, R152): operands come from registers. -/
def fireAtomic (k : AmoKind) (size : Nat) (f : AtomRec) (c : FireCtx) (e : Elem) : FireRes :=
  let m := f.opnd.toNat
  if !c.region.portFree c.now c.elem || !c.region.unbufOk c.now || decide (e.inRoom c.now f.rsp.toNat < size / 4) then .notReady
  else issue c e false f.sp none {
    kind := .amo k, va := e.pair f.addr.toNat, size := size
    data := if size = 8 then (e.pair m).zeroExtend 256 else scalarOf (e.xr (2 * m))
    new := if size = 8 then e.pair (m + 1) else (e.xr (2 * m + 1)).zeroExtend 64
    rsp := f.rsp.toNat, scope := f.scope.toNat, ord := f.ord.toNat }

/-- LD_B32 (R144). -/
def fireLdB32 (f : MemRec) (c : FireCtx) (e : Elem) : FireRes := fireLoad 4 f c e
/-- LD_U8 (R144). -/
def fireLdU8 (f : MemRec) (c : FireCtx) (e : Elem) : FireRes := fireLoad 1 f c e
/-- LD_W256 (R144). -/
def fireLdW256 (f : MemRec) (c : FireCtx) (e : Elem) : FireRes := fireLoad 32 f c e
/-- ST_B32 (R145). -/
def fireStB32 (f : MemRec) (c : FireCtx) (e : Elem) : FireRes := fireStoreOf (e.scalarSrc c.now f.b) 4 f c e
/-- ST_B8 (R145). -/
def fireStB8 (f : MemRec) (c : FireCtx) (e : Elem) : FireRes := fireStoreOf (e.scalarSrc c.now f.b) 1 f c e
/-- ST_W256 (R145). -/
def fireStW256 (f : MemRec) (c : FireCtx) (e : Elem) : FireRes := fireStoreOf (e.vectorSrc c.now f.b) 32 f c e
/-- VLD (R146): two response entries. -/
def fireVld (f : MemRec) (c : FireCtx) (e : Elem) : FireRes :=
  match e.scalarSrc c.now f.b with
  | none => .notReady
  | some b =>
    if !c.region.portFree c.now c.elem || decide (e.inRoom c.now f.rsp.toNat < 2) then .notReady
    else if isPoison b.tag then .raises Cause.poisonConsumed
    else issue c e f.dqb f.sp b.chan {
      kind := .vld, va := e.pair f.pair.toNat, size := 8, version := lane b.val 0, tag := outTag f.tp b none, rsp := f.rsp.toNat }
/-- VST (R147): the data pair stands in bits [8:6]. -/
def fireVst (f : MemRec) (c : FireCtx) (e : Elem) : FireRes :=
  if !c.region.portFree c.now c.elem || !c.region.unbufOk c.now then .notReady
  else issue c e false f.sp none {
    kind := .vst, va := e.pair f.pair.toNat, size := 8, data := (e.pair (f.b.toNat / 4)).zeroExtend 256 }
/-- VRCL (R148). -/
def fireVrcl (f : MemRec) (c : FireCtx) (e : Elem) : FireRes :=
  match e.scalarSrc c.now f.b with
  | none => .notReady
  | some b =>
    if !c.region.portFree c.now c.elem || !c.region.unbufOk c.now then .notReady
    else if isPoison b.tag then .raises Cause.poisonConsumed
    else issue c e f.dqb f.sp b.chan { kind := .vrcl, va := e.pair f.pair.toNat, size := 8, version := lane b.val 0 }
/-- FENCE (R150): occupies no memory-port entry and closes the open window. -/
def fireFence (f : MemRec) (c : FireCtx) (e : Elem) : FireRes :=
  .done { e with p := spStep f.sp c.trig e.p } [.fence]
/-- AMO_ADD32 (R151). -/
def fireAmoAdd32 (f : AtomRec) (c : FireCtx) (e : Elem) : FireRes := fireAtomic .add 4 f c e
/-- AMO_ADD64 (R151). -/
def fireAmoAdd64 (f : AtomRec) (c : FireCtx) (e : Elem) : FireRes := fireAtomic .add 8 f c e
/-- AMO_MIN_I32 (R151). -/
def fireAmoMinI32 (f : AtomRec) (c : FireCtx) (e : Elem) : FireRes := fireAtomic .min 4 f c e
/-- AMO_MAX_I32 (R151). -/
def fireAmoMaxI32 (f : AtomRec) (c : FireCtx) (e : Elem) : FireRes := fireAtomic .max 4 f c e
/-- AMO_AND32 (R151). -/
def fireAmoAnd32 (f : AtomRec) (c : FireCtx) (e : Elem) : FireRes := fireAtomic .band 4 f c e
/-- AMO_OR32 (R151). -/
def fireAmoOr32 (f : AtomRec) (c : FireCtx) (e : Elem) : FireRes := fireAtomic .bor 4 f c e
/-- AMO_XCHG32 (R151). -/
def fireAmoXchg32 (f : AtomRec) (c : FireCtx) (e : Elem) : FireRes := fireAtomic .xchg 4 f c e
/-- AMO_CAS32 (R151). -/
def fireAmoCas32 (f : AtomRec) (c : FireCtx) (e : Elem) : FireRes := fireAtomic .cas 4 f c e
/-- AMO_CAS64 (R151). -/
def fireAmoCas64 (f : AtomRec) (c : FireCtx) (e : Elem) : FireRes := fireAtomic .cas 8 f c e
/-- AMO_FADD_F32 (R151). -/
def fireAmoFaddF32 (f : AtomRec) (c : FireCtx) (e : Elem) : FireRes := fireAtomic .fadd 4 f c e

end Sys2Proof.Machine
end

