-- ==== Sys2Proof/Machine/FireTable.lean ====
section
/-!
DEFINITION. FireTable.lean: the firing of each element instruction, as slot selection (R84, R85) and replay (R93) look it up.
-/
namespace Sys2Proof.Machine

/-- The firing of an element instruction; none for every other instruction. -/
def fireOf : Instr → Option (FireCtx → Elem → FireRes)
  | .addI32 f => some (fireAddI32 f)
  | .subI32 f => some (fireSubI32 f)
  | .mulI32 f => some (fireMulI32 f)
  | .mulhI32 f => some (fireMulhI32 f)
  | .and f => some (fireAnd f)
  | .or f => some (fireOr f)
  | .xor f => some (fireXor f)
  | .shl f => some (fireShl f)
  | .shrU32 f => some (fireShrU32 f)
  | .shrI32 f => some (fireShrI32 f)
  | .minI32 f => some (fireMinI32 f)
  | .maxI32 f => some (fireMaxI32 f)
  | .mov f => some (fireMov f)
  | .sel f => some (fireSel f)
  | .addsatI32 f => some (fireAddsatI32 f)
  | .subsatI32 f => some (fireSubsatI32 f)
  | .absI32 f => some (fireAbsI32 f)
  | .clz f => some (fireClz f)
  | .popc f => some (firePopc f)
  | .cmpEq f => some (fireCmpEq f)
  | .cmpLtI32 f => some (fireCmpLtI32 f)
  | .cmpLtU32 f => some (fireCmpLtU32 f)
  | .faddF32 f => some (fireFaddF32 f)
  | .fsubF32 f => some (fireFsubF32 f)
  | .fmulF32 f => some (fireFmulF32 f)
  | .ffmaF32 f => some (fireFfmaF32 f)
  | .fminF32 f => some (fireFminF32 f)
  | .fmaxF32 f => some (fireFmaxF32 f)
  | .fabsF32 f => some (fireFabsF32 f)
  | .fnegF32 f => some (fireFnegF32 f)
  | .fcmpEqF32 f => some (fireFcmpEqF32 f)
  | .fcmpLtF32 f => some (fireFcmpLtF32 f)
  | .fcmpLeF32 f => some (fireFcmpLeF32 f)
  | .fdivF32 f => some (fireFdivF32 f)
  | .fsqrtF32 f => some (fireFsqrtF32 f)
  | .faddF16x2 f => some (fireFaddF16x2 f)
  | .fmulF16x2 f => some (fireFmulF16x2 f)
  | .ffmaF16x2 f => some (fireFfmaF16x2 f)
  | .faddBf16x2 f => some (fireFaddBf16x2 f)
  | .fmulBf16x2 f => some (fireFmulBf16x2 f)
  | .ffmaBf16x2 f => some (fireFfmaBf16x2 f)
  | .cvtF32I32 f => some (fireCvtF32I32 f)
  | .cvtI32F32 f => some (fireCvtI32F32 f)
  | .cvtF32F16 f => some (fireCvtF32F16 f)
  | .cvtF32Bf16 f => some (fireCvtF32Bf16 f)
  | .cvtF16F32 f => some (fireCvtF16F32 f)
  | .cvtBf16F32 f => some (fireCvtBf16F32 f)
  | .cvtE4m3F32 f => some (fireCvtE4m3F32 f)
  | .cvtE5m2F32 f => some (fireCvtE5m2F32 f)
  | .vaddI32 f => some (fireVaddI32 f)
  | .vfaddF32 f => some (fireVfaddF32 f)
  | .vfmulF32 f => some (fireVfmulF32 f)
  | .vfmaF32 f => some (fireVfmaF32 f)
  | .vfmaF16 f => some (fireVfmaF16 f)
  | .vfmaBf16 f => some (fireVfmaBf16 f)
  | .vbcast f => some (fireVbcast f)
  | .vext f => some (fireVext f)
  | .vins f => some (fireVins f)
  | .vredsumF32 f => some (fireVredsumF32 f)
  | .vredsumF16 f => some (fireVredsumF16 f)
  | .vredmaxF32 f => some (fireVredmaxF32 f)
  | .pwr f => some (firePwr f)
  | .prd f => some (firePrd f)
  | .steer f => some (fireSteer f)
  | .merge f => some (fireMerge f)
  | .rep f => some (fireRep f)
  | .sweep f => some (fireSweep f)
  | .stop f => some (fireStop f)
  | .tagSet f => some (fireTagSet f)
  | .tagGet f => some (fireTagGet f)
  | .send f => some (fireSend f)
  | .fin f => some (fireFin f)
  | .ldB32 f => some (fireLdB32 f)
  | .ldU8 f => some (fireLdU8 f)
  | .ldW256 f => some (fireLdW256 f)
  | .stB32 f => some (fireStB32 f)
  | .stB8 f => some (fireStB8 f)
  | .stW256 f => some (fireStW256 f)
  | .vld f => some (fireVld f)
  | .vst f => some (fireVst f)
  | .vrcl f => some (fireVrcl f)
  | .fence f => some (fireFence f)
  | .amoAdd32 f => some (fireAmoAdd32 f)
  | .amoAdd64 f => some (fireAmoAdd64 f)
  | .amoMinI32 f => some (fireAmoMinI32 f)
  | .amoMaxI32 f => some (fireAmoMaxI32 f)
  | .amoAnd32 f => some (fireAmoAnd32 f)
  | .amoOr32 f => some (fireAmoOr32 f)
  | .amoXchg32 f => some (fireAmoXchg32 f)
  | .amoCas32 f => some (fireAmoCas32 f)
  | .amoCas64 f => some (fireAmoCas64 f)
  | .amoFaddF32 f => some (fireAmoFaddF32 f)
  | _ => none

/-- The firing a slot's word stands for; none for the nil word. -/
def wordFire (w : Word) : Option (FireCtx → Elem → FireRes) :=
  if w = 0 then none
  else
    match elemInstr w with
    | some i => fireOf i
    | none => none

end Sys2Proof.Machine
end

