-- ==== Sys2Proof/Machine/Windows.lean ====
section
/-!
DEFINITION. Windows.lean: how a firing enters its region: slot selection (R84, R85), who may fire (R343, R351, R355, R450), the
commit windows, the journal and the arrival log (R351 to R354), and arrivals into channels and inboxes.
-/
namespace Sys2Proof.Machine

/-! ## Destinations of packet routes (R248, R249) -/

def routeDests (r : Region) (w : DWord) : List Nat :=
  let n := w.toNat
  if routeType w = 1 then
    (if bit n 60 then [4 * r.id + bits n 59 46] else [bits n 59 46])
  else if routeType w = 2 then
    let level := bits n 60 58
    let gs := 4 ^ level
    let span := 16 * gs
    let first := if bit n 57 then r.id - r.id % span
      else 1024 * bits n 56 55 + 256 * bits n 54 53 + 64 * bits n 52 51 + 16 * bits n 50 49
    ((List.range 16).filter (fun m => bit n (33 + m))).map (fun m => 4 * (first + m * gs + bits n 32 27) + bits n 26 25)
  else []

def routeInbox (w : DWord) : Nat := if routeType w = 1 then bits w.toNat 45 44 else bits w.toNat 24 23
def routeCredits (w : DWord) : Nat := if routeType w = 1 then bits w.toNat 43 40 else bits w.toNat 22 19

/-- R251: no resident region of another context holds a destination. -/
def State.routeLive (s : State) (r : Region) (k : Nat) : Bool :=
  (routeDests r (r.route k)).all (fun l =>
    match s.regionOfQuad (l / 4) with
    | some q => q.ctx == r.ctx
    | none => true)

/-! ## Windows (R351) -/

def Region.snapNow (r : Region) : Snap := ⟨r.elems, r.serial, r.log.length⟩

def lastWin : List Window → Option Window
  | [] => none
  | [w] => some w
  | _ :: t => lastWin t

/-- The newest window is open. -/
def Region.isOpen (r : Region) : Bool :=
  match lastWin r.wins with
  | some w => !w.closed
  | none => false

def closeLastIn : List Window → List Window
  | [] => []
  | [w] => [{ w with closed := true }]
  | w :: t => w :: closeLastIn t

/-- Closes the open window, if one is open. What a firing of the next window starts from is kept. -/
def Region.closeWindow (r : Region) : Region :=
  if r.isOpen then { r with wins := closeLastIn r.wins, nextSnap := some r.snapNow } else r

/-- Opens a window at the first firing after a close. -/
def Region.openWindow (r : Region) : Region :=
  if r.isOpen then r
  else { r with
    wins := r.wins ++ [⟨r.nextSnap.getD r.snapNow, 0, false⟩]
    nextSnap := none }

/-- Two uncommitted windows of which the newer has closed: the region fires nothing. -/
def Region.windowsFull (r : Region) : Bool := decide (2 ≤ r.wins.length) && !r.isOpen
/-- The same, as the start of the cycle has it (R84). -/
def Region.heldBy (r : Region) (now : Nat) : Bool := r.windowsFull || (r.wasFull && decide (now < r.commitAt))

def countLast : List Window → List Window
  | [] => []
  | [w] => [{ w with firings := w.firings + 1 }]
  | w :: t => w :: countLast t

/-- Serial of the first firing of the newest window. -/
def Region.lastSerial (r : Region) : Nat :=
  match lastWin r.wins with
  | some w => w.snap.serial
  | none => r.serial

/-- First serial that no longer belongs to the older window. -/
def Region.bound (r : Region) : Nat :=
  match r.wins with
  | _ :: w :: _ => w.snap.serial
  | [_] => (match r.nextSnap with
    | some n => n.serial
    | none => r.serial)
  | [] => r.serial

/-- Whether a firing belongs to an uncommitted window. -/
def Region.uncommitted (r : Region) (serial : Nat) : Bool :=
  match r.wins with
  | w :: _ => decide (w.snap.serial ≤ serial)
  | [] => false

/-- Buffered stores of the newest window. -/
def Region.bufferedStores (r : Region) : Nat :=
  (r.accs.filter (fun a => a.kind == .store && decide (r.lastSerial ≤ a.serial))).length

def AccKind.unbuffered : AccKind → Bool
  | .release | .vst | .vrcl | .amo _ => true
  | _ => false

def Fx.unbuffered : Fx → Bool
  | .access a => a.kind.unbuffered
  | _ => false

def Fx.closes : Fx → Bool
  | .fence | .fin => true
  | .access a => a.kind.unbuffered
  | _ => false

/-! ## Arrivals (R353, R354) -/

/-- The log takes a further entry. -/
def Region.logRoom (r : Region) : Bool := decide (r.log.length < 2048)

/-- Arrivals are recorded during an uncommitted window, and during a replay, which opens its windows again. -/
def Region.logs (r : Region) : Bool := !r.wins.isEmpty || r.replay.isSome
/-- A full log lets nothing in that it must record; senders outside then hold no credit (R354). -/
def Region.logShut (r : Region) : Bool := r.logs && !r.logRoom

/-- Records an arrival; the open window closes when the log reaches 1,536 entries. -/
def Region.logArrival (r : Region) (w : Arrival) : Region :=
  if !r.logs then r
  else
    let r1 := { r with log := r.log ++ [⟨r.journal.length, w⟩] }
    if 1536 ≤ r1.log.length then r1.closeWindow else r1

/-- A token that a firing of an uncommitted window produced is not logged (R353). -/
def Region.logsToken (r : Region) (src : Nat) : Bool := src == 0 || !r.uncommitted src

/-- The exit iterations of the sweeps in progress. -/
def Region.exits (r : Region) : List Nat :=
  match r.sweep with
  | some w => w.exits.map (fun p => p.1.toNat)
  | none => []
/-- A sweep in progress removes the token (R139). -/
def Region.swept (r : Region) (tag : Byte) : Bool :=
  (isData tag || isPoison tag) && r.exits.any (fun x => later (levelOf tag) x)

/-- A token enters an input channel. -/
def Region.putToken (r : Region) (now e ch : Nat) (t : Token) (src : Nat) : Region :=
  if r.swept t.tag then
    r.updElem e (fun x => x.setIn ch { x.inch ch with freed := (x.inch ch).freed ++ [now] })
  else
    let r1 := r.updElem e (fun x => x.setIn ch { x.inch ch with q := (x.inch ch).q ++ [.tok ⟨t, now, src⟩] })
    if r.logsToken src then r1.logArrival (.chan e ch t) else r1

/-- A packet enters an inbox. -/
def Region.putPacket (r : Region) (now e k : Nat) (p : Packet) : Region :=
  if r.swept p.tag then r
  else (r.updElem e (fun x => x.setBox k (x.box k ++ [⟨p, 0, now⟩]))).logArrival (.inbox e k p)

/-- Pending arrivals for the same place come first (R358). -/
def Region.pendingChan (r : Region) (e ch : Nat) : Bool :=
  r.pend.any (fun p => match p.what with
    | .chan e1 c1 _ => e1 == e && c1 == ch
    | _ => false)
def Region.pendingBox (r : Region) (e k : Nat) : Bool :=
  r.pend.any (fun p => match p.what with
    | .inbox e1 k1 _ => e1 == e && k1 == k
    | _ => false)

/-- Fills the reservation of an access with its response (R101). -/
def fillResv (now acc half : Nat) (t : Token) (drop : Bool) : List InEntry → List InEntry
  | [] => []
  | .resv a h d :: q =>
    if a = acc && h = half then (if d || drop then q else .tok ⟨t, now, 0⟩ :: q) else .resv a h d :: fillResv now acc half t drop q
  | x :: q => x :: fillResv now acc half t drop q

/-- The response enters its reservation; one that is dropped frees its entry, from the next cycle (R84, R86, R139). -/
def InCh.fill (c : InCh) (now acc half : Nat) (t : Token) (drop : Bool) : InCh :=
  let q := fillResv now acc half t drop c.q
  { q := q, freed := c.freed ++ List.replicate (c.q.length - q.length) now }

/-- The response of an access fired in an uncommitted window is not logged, since replay issues the access again. -/
def Region.putResponse (r : Region) (now e ch acc half : Nat) (t : Token) : Region :=
  let r1 := r.updElem e (fun x => x.setIn ch ((x.inch ch).fill now acc half t (r.swept t.tag)))
  if r.uncommitted acc then r1 else r1.logArrival (.resv e ch acc half t)

/-! ## Pending arrivals after a freeze (R357, R358) -/

/-- The log has room for an arrival that it must record (R354). A replay enters only what its own log held. -/
def Region.mayLog (r : Region) : Bool := r.wins.isEmpty || r.replay.isSome || r.logRoom

/-- Whether an arrival can enter now; an entry freed in this cycle is room from the next (R86). -/
def Region.canEnter (r : Region) (now : Nat) (a : Arrival) : Bool :=
  r.mayLog && (match a with
    | .chan e ch _ => decide (0 < (r.elem e).inRoom now ch)
    | .resv _ _ _ _ _ => true
    | .inbox e k _ => decide (0 < (r.elem e).boxRoom now k)
    | .unit => true)

/-- The start packet of R79. -/
def startPacket (ident loc rel ctx : Nat) (arg : DWord) : Packet where
  header := 0
  w0 := BitVec.ofNat 64 (ident % 2 ^ 24 + 2 ^ 32 * (loc % 2 ^ 14 + 2 ^ 14 * (rel % 1024) + 2 ^ 24 * (ctx % 64)))
  w1 := arg
  two := true
  tag := 0

/-- A unit starts at an element (R76, R79): predicates and the round-robin pointer take their start values, and a START element
may fire again. -/
def Elem.startUnit (e : Elem) : Elem := { e with p := e.pReset, rr := 31, started := true, finished := false }
def Region.startElems (r : Region) (now : Nat) : Region :=
  { r with elems := r.elems.map (fun p => (p.1, p.2.startUnit)), startAt := now + 1 }

def Region.enter (r : Region) (now : Nat) : Arrival → Region
  | .chan e ch t => r.putToken now e ch t 0
  | .resv e ch acc half t => (r.updElem e (fun x => x.setIn ch ((x.inch ch).fill now acc half t false))).logArrival
      (.resv e ch acc half t)
  | .inbox e k p => r.putPacket now e k p
  | .unit => (r.startElems now).logArrival .unit

/-- Enters every pending arrival that finds room, in order; one that must wait holds those of its own place back. -/
def Region.settlePend (r : Region) (now : Nat) : List LogEntry → List LogEntry → Region
  | [], kept => { r with pend := kept }
  | p :: ps, kept =>
    let blocked := kept.any (fun k => match k.what, p.what with
      | .chan e c _, .chan e1 c1 _ => e == e1 && c == c1
      | .inbox e k1 _, .inbox e1 k2 _ => e == e1 && k1 == k2
      | _, _ => false)
    if !blocked && r.canEnter now p.what then Region.settlePend (r.enter now p.what) now ps kept
    else Region.settlePend r now ps (kept ++ [p])

/-- Pending arrivals enter as entries free, while no replay runs (R358): as a firing frees them, and with the passing of time whatever
has freed them: a sweep, a commit that makes room in the log, or the restore of a region that waits for them. -/
def Region.settle (r : Region) (now : Nat) : Region :=
  if r.frozen.isNone && r.replay.isNone && !r.pend.isEmpty then r.settlePend now r.pend [] else r

/-! ## Who may fire -/

def State.throttle (s : State) (sector : Nat) : Nat := (AMap.getD s.sectors sector {}).k
/-- R450: k of every 8 cycles; the first k of an aligned group (log entry 24). -/
def State.slotOpen (s : State) (sector : Nat) : Bool := decide (s.cyc % 8 < s.throttle sector)
def Region.sector (r : Region) (e : Nat) : Nat := (4 * r.id + e) / 64

/-- A save stops the region's firings from the cycle after its token is injected (R359). -/
def State.savePending (s : State) (r : Region) : Bool :=
  match r.token with
  | some id => s.cfgops.any (fun o => o.id == id && o.kind == .sv)
  | none => false

/-- Neither frozen, gated, swept, saved, replayed nor out of windows (R139, R351, R355, R359). -/
def State.regionFires (s : State) (r : Region) : Bool :=
  r.frozen.isNone && r.replay.isNone && !s.savePending r
    && (match r.flagAt with
      | some d => decide (s.cyc < d + 12)
      | none => true)
    && (match r.sweep with
      | some w => decide (s.cyc ≤ w.start)
      | none => true)
    && decide (r.sweepDone ≤ s.cyc) && !r.heldBy s.cyc && !s.downBays.contains r.bay

/-- One firing a cycle, no firing of a finished or not yet started element, none of one that has raised (R85, R142, R343). -/
def State.elemFires (s : State) (r : Region) (e : Nat) : Bool :=
  let el := r.elem e
  s.regionFires r && decide (el.lastFire ≤ s.cyc) && s.slotOpen (r.sector e)
    && !r.raised.any (fun x => x.atFire && x.elem == e)

/-- A slot of a triggered element may be judged. Where a unit started earlier in this cycle, the slots wait for the next, since they are
judged on the state at the start of the cycle (R84). -/
def State.triggeredFires (s : State) (r : Region) (e : Nat) : Bool :=
  let el := r.elem e
  s.elemFires r e && !el.isStatic && !el.finished && (!el.start || el.started) && decide (r.startAt ≤ s.cyc)

/-! ## Slot selection (R84, R85) -/

/-- Credits of a label that returned in this cycle, usable from the next (R250). -/
def Region.credFresh (r : Region) (now k : Nat) : Nat :=
  match AMap.find? r.credNew k with
  | some p => if p.1 = now then p.2 else 0
  | none => 0
/-- A credit of a label returns. -/
def Region.giveCredit (r : Region) (now k : Nat) : Region :=
  { r with
    cred := AMap.set r.cred k (AMap.getD r.cred k 0 + 1)
    credNew := AMap.set r.credNew k (now, r.credFresh now k + 1) }

/-- Claims of lower elements on a label in this cycle, as a list of labels; filled in by `claimsUpTo`. -/
def mkCtx (s : State) (r : Region) (e slot : Nat) (claims : List Nat) : FireCtx where
  now := s.cyc
  slot := slot
  trig := (r.elem e).trigs.getD ((((r.elem e).slots.getD slot 0).extractLsb' 26 6).toNat) 0
  region := r
  elem := e
  credits := fun k => AMap.getD r.cred k 0 - r.credFresh s.cyc k - (claims.filter (fun c => c == k)).length
  live := fun k => s.routeLive r k

/-- A slot's firing, when the slot is ready. -/
def slotFire (s : State) (r : Region) (e slot : Nat) (claims : List Nat) : Option FireRes :=
  match wordFire ((r.elem e).slots.getD slot 0) with
  | none => none
  | some f =>
    let c := mkCtx s r e slot claims
    if !trigOk (r.elem e) s.cyc c.trig then none
    else
      match f c (r.elem e) with
      | .notReady => none
      | x => some x

/-- The better of two candidate slots: higher PRI, then nearest after L. -/
def betterSlot (el : Elem) (best : Option (Nat × Nat)) (slot pri : Nat) : Option (Nat × Nat) :=
  let d := fun n => (n + 32 - el.rr.toNat - 1 + 32) % 32
  match best with
  | none => some (slot, pri)
  | some (b, p) => if p < pri then some (slot, pri) else if p = pri && d slot < d b then some (slot, pri) else some (b, p)

/-- The slot that fires, if any is ready (R85). -/
def selectSlot (s : State) (r : Region) (e : Nat) (claims : List Nat) : Option Nat :=
  let el := r.elem e
  ((List.range 32).foldl (fun best n =>
    if (slotFire s r e n claims).isSome then betterSlot el best n (priOf (mkCtx s r e n claims).trig) else best) none).map (fun b => b.1)

/-- Labels that the elements below e would send on in this cycle, in increasing order of element (R250). -/
def claimsUpTo (s : State) (r : Region) : Nat → List Nat
  | 0 => []
  | e + 1 =>
    let before := claimsUpTo s r e
    if !s.triggeredFires r e || (r.elem e).slots.all (fun w => w == 0) then before
    else
      match selectSlot s r e before with
      | none => before
      | some n =>
        match slotFire s r e n before with
        | some (.done _ (.send k _ :: _)) => if AMap.getD r.rsup k 0 = 0 then before ++ [k] else before
        | _ => before

/-! ## A firing takes effect -/

def mkAcc (r : Region) (e slot now : Nat) (a : AccReq) : Acc where
  serial := r.serial
  elem := e
  slot := slot
  kind := a.kind
  va := a.va
  size := a.size
  data := a.data
  new := a.new
  version := a.version
  tag := a.tag
  rsp := a.rsp
  scope := a.scope
  ord := a.ord
  itag := a.itag
  st := .port
  result := none
  delivered := 0
  since := now
  inPort := true
  kept := none
  behind := []

/-- Response entries an access reserves (R101, R102). -/
def Acc.halves (a : Acc) : Nat :=
  match a.kind with
  | .load | .acquire => 1
  | .vld => 2
  | .amo _ => a.size / 4
  | _ => 0

def reserveIn (e : Elem) (ch acc n : Nat) : Elem :=
  e.setIn ch { e.inch ch with q := (e.inch ch).q ++ (List.range n).map (fun h => InEntry.resv acc h false) }

/-- Later tokens of a sweep leave every channel and inbox (R139); freed entries give their credit back. -/
def keepEntry (exit : Nat) : InEntry → Bool
  | .tok t => !((isData t.tok.tag || isPoison t.tok.tag) && later (levelOf t.tok.tag) exit)
  | .resv _ _ _ => true

def sweepIn (exit now : Nat) (c : InCh) : InCh :=
  let gone := c.q.length - (c.q.filter (keepEntry exit)).length
  { q := c.q.filter (keepEntry exit), freed := c.freed ++ List.replicate gone now }

def sweepTok (exit : Nat) (t : Token) : Bool := !((isData t.tag || isPoison t.tag) && later (levelOf t.tag) exit)

/-- The channels and inboxes of one element, and its reservations for responses that are later (R139). -/
def Elem.sweepElem (e : Elem) (exit now : Nat) (lateAcc : Nat → Bool) : Elem :=
  { e with
    inc := e.inc.map (fun c =>
      let c1 := sweepIn exit now c
      { c1 with q := c1.q.map (fun x => match x with
          | .resv a h d => .resv a h (d || lateAcc a)
          | y => y) })
    outc := e.outc.map (fun c => { c with q := c.q.filter (fun t => sweepTok exit t.tok) })
    inbox := e.inbox.map (fun l => l.filter (fun b => sweepTok exit ⟨0, b.pkt.tag⟩))
    boxFreed := Vector.ofFn (fun (k : Fin 4) => e.boxFreed[k] ++ List.replicate
      ((e.box k).filter (fun b => !sweepTok exit ⟨0, b.pkt.tag⟩)).length now) }

/-- Whether an outstanding load response is of a later iteration. -/
def Region.lateAccs (r : Region) (exit : Nat) : List Nat :=
  (r.accs.filter (fun a => a.halves != 0 && later (levelOf a.tag) exit && a.kind != .vst
    && (a.kind == .load || a.kind == .acquire || a.kind == .vld))).map (fun a => a.serial)

/-- The tokens, packets and outstanding responses of a region that a sweep discards. -/
def Region.sweepRegion (r : Region) (exit now : Nat) : Region :=
  let late := r.lateAccs exit
  { r with elems := r.elems.map (fun p => (p.1, p.2.sweepElem exit now (fun a => late.contains a))) }

/-- A store of the open window that a sweep removes (R139). -/
def Region.sweepsStore (r : Region) (exit : Nat) (a : Acc) : Bool :=
  a.kind == .store && r.isOpen && decide (r.lastSerial ≤ a.serial)
    && (match a.itag with
      | some l => later l.toNat exit
      | none => false)

/-- The entry of its element's memory port that an access holds is free from the next cycle (R84). -/
def Region.freePort (r : Region) (now : Nat) (a : Acc) : Region :=
  if a.inPort then
    r.updElem a.elem (fun x => { x with portFreed := x.portFreed.filter (fun d => decide (now ≤ d)) ++ [now] })
  else r

/-- The stores of the open window that a sweep removes: as it fires, and again with its discards for those that later turns of its
cycle fired (R139). -/
def Region.sweepStores (r : Region) (now exit : Nat) : Region :=
  (r.accs.filter (r.sweepsStore exit)).foldl (fun q a => q.freePort now a)
    { r with accs := r.accs.filter (fun a => !r.sweepsStore exit a) }

/-- Every START element has fired fin (R142). -/
def Region.allFinished (r : Region) : Bool :=
  (List.range (4 * r.quads)).all (fun e => !(r.elem e).start || (r.elem e).finished)

/-- One effect of a firing on its region; the serial is that of the firing. -/
def applyFx (now e slot : Nat) (r : Region) : Fx → Region
  | .access a =>
    let known := r.applied.find? (fun p => p.elem == e && p.slot == slot)
    let acc0 := mkAcc r e slot now a
    let acc := match known with
      | some p => { acc0 with st := .done, result := some (p.value, p.poison), inPort := false, kept := some (p.value, p.poison) }
      | none => acc0
    let r1 := { r with accs := r.accs ++ [acc], applied := r.applied.filter (fun p => some p != known) }
    if acc.halves = 0 then r1 else r1.updElem e (fun x => reserveIn x acc.rsp acc.serial acc.halves)
  | .send k p =>
    let sup := AMap.getD r.rsup k 0
    let r1 := r.updElem e (fun x => { x with stage := some ⟨p, k, r.serial, sup != 0⟩ })
    if sup = 0 then { r1 with cred := AMap.set r1.cred k (AMap.getD r1.cred k 0 - 1) }
    else { r1 with rsup := AMap.set r1.rsup k (sup - 1) }
  | .fence => { r with fences := r.fences ++ [(e, r.serial)] }
  | .fin =>
    if r.allFinished then
      { r with unit := r.unit.map (fun u => { u with finAt := some r.serial }) }
    else r
  | .sweep x =>
    let others := match r.sweep with
      | some w => w.exits
      | none => []
    { r.sweepStores now x.toNat with sweep := some ⟨others ++ [(x, r.serial)], now⟩ }

/-- Windows after a firing: the 1,024th firing, the 256th buffered store, and the closing classes (R114, R351). -/
def Region.closeAfter (r : Region) (fx : List Fx) : Region :=
  match lastWin r.wins with
  | none => r
  | some w =>
    if fx.any Fx.closes || decide (1024 ≤ w.firings) || decide (256 ≤ r.bufferedStores) then r.closeWindow else r

/-- A firing of element e (or an operation of a static element) takes effect: windows, journal, element, accesses. -/
def Region.firing (r : Region) (now e slot : Nat) (static : Bool) (el : Elem) (fx : List Fx) : Region :=
  let r0 := if fx.any Fx.unbuffered then r.closeWindow.openWindow else r.openWindow
  let r1 := r0.setElem e { el with lastFire := now + 1, rr := if static then el.rr else BitVec.ofNat 5 slot }
  let r2 := { r1 with
    wins := countLast r1.wins
    journal := r1.journal ++ [⟨r1.serial, e, slot, static, now⟩] }
  let r3 := fx.foldl (applyFx now e slot) r2
  ({ r3 with serial := r3.serial + 1 }.closeAfter fx).settle now

/-- A firing that raises a cause (R92): nothing changes but the journal, the window's count and the fault flag (R351, R355). -/
def Region.raising (r : Region) (now e slot : Nat) (static : Bool) (cause : Byte) : Region :=
  let r1 := r.openWindow
  let r2 : Region := { r1 with
    wins := countLast r1.wins
    journal := r1.journal ++ [⟨r1.serial, e, slot, static, now⟩]
    raised := r1.raised ++ [⟨r1.serial, e, slot, cause, 0, now, true, false, none⟩]
    flagAt := some (r1.flagAt.getD now)
    serial := r1.serial + 1 }
  r2.closeAfter []

/-- What a firing's answer does to its region. -/
def Region.applyFire (r : Region) (now e slot : Nat) (static : Bool) : FireRes → Region
  | .notReady => r
  | .raises cause => r.raising now e slot static cause
  | .done el fx => r.firing now e slot static el fx

/-- An element instruction executes for the element whose turn it is: when the element may fire and its slot is ready. -/
def fireAs (f : FireCtx → Elem → FireRes) (s : State) : Host.Outcome State Fault Refusal :=
  match s.act with
  | .elem id e slot =>
    match s.region? id with
    | none => .next s
    | some r =>
      let c := mkCtx s r e slot (claimsUpTo s r e)
      if s.triggeredFires r e && trigOk (r.elem e) s.cyc c.trig then
        .next (s.setRegion (r.applyFire s.cyc e slot false (f c (r.elem e))))
      else .next s
  | _ => .next s

end Sys2Proof.Machine
end

