-- ==== Sys2Proof/Machine/Element.lean ====
section
/-!
DEFINITION. Element.lean: the meaning of each element instruction: its firing (ElementAlu, ElementCtl, ElementMem) taken by the
element whose turn it is (Windows.lean).
-/
namespace Sys2Proof.Machine

/-- ADD_I32 (R119). -/
def execAddI32 (f : ElemRec) (s : State) : Host.Outcome State Fault Refusal := fireAs (fireAddI32 f) s
/-- SUB_I32 (R119). -/
def execSubI32 (f : ElemRec) (s : State) : Host.Outcome State Fault Refusal := fireAs (fireSubI32 f) s
/-- MUL_I32 (R119). -/
def execMulI32 (f : ElemRec) (s : State) : Host.Outcome State Fault Refusal := fireAs (fireMulI32 f) s
/-- MULH_I32 (R119). -/
def execMulhI32 (f : ElemRec) (s : State) : Host.Outcome State Fault Refusal := fireAs (fireMulhI32 f) s
/-- AND (R119). -/
def execAnd (f : ElemRec) (s : State) : Host.Outcome State Fault Refusal := fireAs (fireAnd f) s
/-- OR (R119). -/
def execOr (f : ElemRec) (s : State) : Host.Outcome State Fault Refusal := fireAs (fireOr f) s
/-- XOR (R119). -/
def execXor (f : ElemRec) (s : State) : Host.Outcome State Fault Refusal := fireAs (fireXor f) s
/-- SHL (R119). -/
def execShl (f : ElemRec) (s : State) : Host.Outcome State Fault Refusal := fireAs (fireShl f) s
/-- SHR_U32 (R119). -/
def execShrU32 (f : ElemRec) (s : State) : Host.Outcome State Fault Refusal := fireAs (fireShrU32 f) s
/-- SHR_I32 (R119). -/
def execShrI32 (f : ElemRec) (s : State) : Host.Outcome State Fault Refusal := fireAs (fireShrI32 f) s
/-- MIN_I32 (R119). -/
def execMinI32 (f : ElemRec) (s : State) : Host.Outcome State Fault Refusal := fireAs (fireMinI32 f) s
/-- MAX_I32 (R119). -/
def execMaxI32 (f : ElemRec) (s : State) : Host.Outcome State Fault Refusal := fireAs (fireMaxI32 f) s
/-- MOV (R119). -/
def execMov (f : ElemRec) (s : State) : Host.Outcome State Fault Refusal := fireAs (fireMov f) s
/-- SEL (R120). -/
def execSel (f : ElemRec) (s : State) : Host.Outcome State Fault Refusal := fireAs (fireSel f) s
/-- ADDSAT_I32 (R119). -/
def execAddsatI32 (f : ElemRec) (s : State) : Host.Outcome State Fault Refusal := fireAs (fireAddsatI32 f) s
/-- SUBSAT_I32 (R119). -/
def execSubsatI32 (f : ElemRec) (s : State) : Host.Outcome State Fault Refusal := fireAs (fireSubsatI32 f) s
/-- ABS_I32 (R119). -/
def execAbsI32 (f : ElemRec) (s : State) : Host.Outcome State Fault Refusal := fireAs (fireAbsI32 f) s
/-- CLZ (R119). -/
def execClz (f : ElemRec) (s : State) : Host.Outcome State Fault Refusal := fireAs (fireClz f) s
/-- POPC (R119). -/
def execPopc (f : ElemRec) (s : State) : Host.Outcome State Fault Refusal := fireAs (firePopc f) s
/-- CMP_EQ (R119). -/
def execCmpEq (f : ElemRec) (s : State) : Host.Outcome State Fault Refusal := fireAs (fireCmpEq f) s
/-- CMP_LT_I32 (R119). -/
def execCmpLtI32 (f : ElemRec) (s : State) : Host.Outcome State Fault Refusal := fireAs (fireCmpLtI32 f) s
/-- CMP_LT_U32 (R119). -/
def execCmpLtU32 (f : ElemRec) (s : State) : Host.Outcome State Fault Refusal := fireAs (fireCmpLtU32 f) s
/-- FADD_F32 (R121). -/
def execFaddF32 (f : ElemRec) (s : State) : Host.Outcome State Fault Refusal := fireAs (fireFaddF32 f) s
/-- FSUB_F32 (R121). -/
def execFsubF32 (f : ElemRec) (s : State) : Host.Outcome State Fault Refusal := fireAs (fireFsubF32 f) s
/-- FMUL_F32 (R121). -/
def execFmulF32 (f : ElemRec) (s : State) : Host.Outcome State Fault Refusal := fireAs (fireFmulF32 f) s
/-- FFMA_F32 (R121). -/
def execFfmaF32 (f : ElemRec) (s : State) : Host.Outcome State Fault Refusal := fireAs (fireFfmaF32 f) s
/-- FMIN_F32 (R121). -/
def execFminF32 (f : ElemRec) (s : State) : Host.Outcome State Fault Refusal := fireAs (fireFminF32 f) s
/-- FMAX_F32 (R121). -/
def execFmaxF32 (f : ElemRec) (s : State) : Host.Outcome State Fault Refusal := fireAs (fireFmaxF32 f) s
/-- FABS_F32 (R121). -/
def execFabsF32 (f : ElemRec) (s : State) : Host.Outcome State Fault Refusal := fireAs (fireFabsF32 f) s
/-- FNEG_F32 (R121). -/
def execFnegF32 (f : ElemRec) (s : State) : Host.Outcome State Fault Refusal := fireAs (fireFnegF32 f) s
/-- FCMP_EQ_F32 (R121). -/
def execFcmpEqF32 (f : ElemRec) (s : State) : Host.Outcome State Fault Refusal := fireAs (fireFcmpEqF32 f) s
/-- FCMP_LT_F32 (R121). -/
def execFcmpLtF32 (f : ElemRec) (s : State) : Host.Outcome State Fault Refusal := fireAs (fireFcmpLtF32 f) s
/-- FCMP_LE_F32 (R121). -/
def execFcmpLeF32 (f : ElemRec) (s : State) : Host.Outcome State Fault Refusal := fireAs (fireFcmpLeF32 f) s
/-- FDIV_F32 (R122). -/
def execFdivF32 (f : ElemRec) (s : State) : Host.Outcome State Fault Refusal := fireAs (fireFdivF32 f) s
/-- FSQRT_F32 (R122). -/
def execFsqrtF32 (f : ElemRec) (s : State) : Host.Outcome State Fault Refusal := fireAs (fireFsqrtF32 f) s
/-- FADD_F16X2 (R123). -/
def execFaddF16x2 (f : ElemRec) (s : State) : Host.Outcome State Fault Refusal := fireAs (fireFaddF16x2 f) s
/-- FMUL_F16X2 (R123). -/
def execFmulF16x2 (f : ElemRec) (s : State) : Host.Outcome State Fault Refusal := fireAs (fireFmulF16x2 f) s
/-- FFMA_F16X2 (R123). -/
def execFfmaF16x2 (f : ElemRec) (s : State) : Host.Outcome State Fault Refusal := fireAs (fireFfmaF16x2 f) s
/-- FADD_BF16X2 (R123). -/
def execFaddBf16x2 (f : ElemRec) (s : State) : Host.Outcome State Fault Refusal := fireAs (fireFaddBf16x2 f) s
/-- FMUL_BF16X2 (R123). -/
def execFmulBf16x2 (f : ElemRec) (s : State) : Host.Outcome State Fault Refusal := fireAs (fireFmulBf16x2 f) s
/-- FFMA_BF16X2 (R123). -/
def execFfmaBf16x2 (f : ElemRec) (s : State) : Host.Outcome State Fault Refusal := fireAs (fireFfmaBf16x2 f) s
/-- CVT_F32_I32 (R124). -/
def execCvtF32I32 (f : ElemRec) (s : State) : Host.Outcome State Fault Refusal := fireAs (fireCvtF32I32 f) s
/-- CVT_I32_F32 (R124). -/
def execCvtI32F32 (f : ElemRec) (s : State) : Host.Outcome State Fault Refusal := fireAs (fireCvtI32F32 f) s
/-- CVT_F32_F16 (R124). -/
def execCvtF32F16 (f : ElemRec) (s : State) : Host.Outcome State Fault Refusal := fireAs (fireCvtF32F16 f) s
/-- CVT_F32_BF16 (R124). -/
def execCvtF32Bf16 (f : ElemRec) (s : State) : Host.Outcome State Fault Refusal := fireAs (fireCvtF32Bf16 f) s
/-- CVT_F16_F32 (R124). -/
def execCvtF16F32 (f : ElemRec) (s : State) : Host.Outcome State Fault Refusal := fireAs (fireCvtF16F32 f) s
/-- CVT_BF16_F32 (R124). -/
def execCvtBf16F32 (f : ElemRec) (s : State) : Host.Outcome State Fault Refusal := fireAs (fireCvtBf16F32 f) s
/-- CVT_E4M3_F32 (R124). -/
def execCvtE4m3F32 (f : ElemRec) (s : State) : Host.Outcome State Fault Refusal := fireAs (fireCvtE4m3F32 f) s
/-- CVT_E5M2_F32 (R124). -/
def execCvtE5m2F32 (f : ElemRec) (s : State) : Host.Outcome State Fault Refusal := fireAs (fireCvtE5m2F32 f) s
/-- VADD_I32 (R125). -/
def execVaddI32 (f : ElemRec) (s : State) : Host.Outcome State Fault Refusal := fireAs (fireVaddI32 f) s
/-- VFADD_F32 (R125). -/
def execVfaddF32 (f : ElemRec) (s : State) : Host.Outcome State Fault Refusal := fireAs (fireVfaddF32 f) s
/-- VFMUL_F32 (R125). -/
def execVfmulF32 (f : ElemRec) (s : State) : Host.Outcome State Fault Refusal := fireAs (fireVfmulF32 f) s
/-- VFMA_F32 (R125). -/
def execVfmaF32 (f : ElemRec) (s : State) : Host.Outcome State Fault Refusal := fireAs (fireVfmaF32 f) s
/-- VFMA_F16 (R125). -/
def execVfmaF16 (f : ElemRec) (s : State) : Host.Outcome State Fault Refusal := fireAs (fireVfmaF16 f) s
/-- VFMA_BF16 (R125). -/
def execVfmaBf16 (f : ElemRec) (s : State) : Host.Outcome State Fault Refusal := fireAs (fireVfmaBf16 f) s
/-- VBCAST (R126). -/
def execVbcast (f : ElemRec) (s : State) : Host.Outcome State Fault Refusal := fireAs (fireVbcast f) s
/-- VEXT (R126). -/
def execVext (f : ElemRec) (s : State) : Host.Outcome State Fault Refusal := fireAs (fireVext f) s
/-- VINS (R126). -/
def execVins (f : ElemRec) (s : State) : Host.Outcome State Fault Refusal := fireAs (fireVins f) s
/-- VREDSUM_F32 (R127). -/
def execVredsumF32 (f : ElemRec) (s : State) : Host.Outcome State Fault Refusal := fireAs (fireVredsumF32 f) s
/-- VREDSUM_F16 (R127). -/
def execVredsumF16 (f : ElemRec) (s : State) : Host.Outcome State Fault Refusal := fireAs (fireVredsumF16 f) s
/-- VREDMAX_F32 (R127). -/
def execVredmaxF32 (f : ElemRec) (s : State) : Host.Outcome State Fault Refusal := fireAs (fireVredmaxF32 f) s
/-- PWR (R130). -/
def execPwr (f : ElemRec) (s : State) : Host.Outcome State Fault Refusal := fireAs (firePwr f) s
/-- PRD (R130). -/
def execPrd (f : ElemRec) (s : State) : Host.Outcome State Fault Refusal := fireAs (firePrd f) s
/-- STEER (R132). -/
def execSteer (f : ElemRec) (s : State) : Host.Outcome State Fault Refusal := fireAs (fireSteer f) s
/-- MERGE (R133). -/
def execMerge (f : ElemRec) (s : State) : Host.Outcome State Fault Refusal := fireAs (fireMerge f) s
/-- REP (R136). -/
def execRep (f : ElemRec) (s : State) : Host.Outcome State Fault Refusal := fireAs (fireRep f) s
/-- SWEEP (R139). -/
def execSweep (f : ElemRec) (s : State) : Host.Outcome State Fault Refusal := fireAs (fireSweep f) s
/-- STOP (R137). -/
def execStop (f : ElemRec) (s : State) : Host.Outcome State Fault Refusal := fireAs (fireStop f) s
/-- TAG_SET (R131). -/
def execTagSet (f : ElemRec) (s : State) : Host.Outcome State Fault Refusal := fireAs (fireTagSet f) s
/-- TAG_GET (R131). -/
def execTagGet (f : ElemRec) (s : State) : Host.Outcome State Fault Refusal := fireAs (fireTagGet f) s
/-- SEND (R141). -/
def execSend (f : ElemRec) (s : State) : Host.Outcome State Fault Refusal := fireAs (fireSend f) s
/-- FIN (R142). -/
def execFin (f : ElemRec) (s : State) : Host.Outcome State Fault Refusal := fireAs (fireFin f) s
/-- LD_B32 (R144). -/
def execLdB32 (f : MemRec) (s : State) : Host.Outcome State Fault Refusal := fireAs (fireLdB32 f) s
/-- LD_U8 (R144). -/
def execLdU8 (f : MemRec) (s : State) : Host.Outcome State Fault Refusal := fireAs (fireLdU8 f) s
/-- LD_W256 (R144). -/
def execLdW256 (f : MemRec) (s : State) : Host.Outcome State Fault Refusal := fireAs (fireLdW256 f) s
/-- ST_B32 (R145). -/
def execStB32 (f : MemRec) (s : State) : Host.Outcome State Fault Refusal := fireAs (fireStB32 f) s
/-- ST_B8 (R145). -/
def execStB8 (f : MemRec) (s : State) : Host.Outcome State Fault Refusal := fireAs (fireStB8 f) s
/-- ST_W256 (R145). -/
def execStW256 (f : MemRec) (s : State) : Host.Outcome State Fault Refusal := fireAs (fireStW256 f) s
/-- VLD (R146). -/
def execVld (f : MemRec) (s : State) : Host.Outcome State Fault Refusal := fireAs (fireVld f) s
/-- VST (R147). -/
def execVst (f : MemRec) (s : State) : Host.Outcome State Fault Refusal := fireAs (fireVst f) s
/-- VRCL (R148). -/
def execVrcl (f : MemRec) (s : State) : Host.Outcome State Fault Refusal := fireAs (fireVrcl f) s
/-- FENCE (R150). -/
def execFence (f : MemRec) (s : State) : Host.Outcome State Fault Refusal := fireAs (fireFence f) s
/-- AMO_ADD32 (R152). -/
def execAmoAdd32 (f : AtomRec) (s : State) : Host.Outcome State Fault Refusal := fireAs (fireAmoAdd32 f) s
/-- AMO_ADD64 (R152). -/
def execAmoAdd64 (f : AtomRec) (s : State) : Host.Outcome State Fault Refusal := fireAs (fireAmoAdd64 f) s
/-- AMO_MIN_I32 (R152). -/
def execAmoMinI32 (f : AtomRec) (s : State) : Host.Outcome State Fault Refusal := fireAs (fireAmoMinI32 f) s
/-- AMO_MAX_I32 (R152). -/
def execAmoMaxI32 (f : AtomRec) (s : State) : Host.Outcome State Fault Refusal := fireAs (fireAmoMaxI32 f) s
/-- AMO_AND32 (R152). -/
def execAmoAnd32 (f : AtomRec) (s : State) : Host.Outcome State Fault Refusal := fireAs (fireAmoAnd32 f) s
/-- AMO_OR32 (R152). -/
def execAmoOr32 (f : AtomRec) (s : State) : Host.Outcome State Fault Refusal := fireAs (fireAmoOr32 f) s
/-- AMO_XCHG32 (R152). -/
def execAmoXchg32 (f : AtomRec) (s : State) : Host.Outcome State Fault Refusal := fireAs (fireAmoXchg32 f) s
/-- AMO_CAS32 (R152). -/
def execAmoCas32 (f : AtomRec) (s : State) : Host.Outcome State Fault Refusal := fireAs (fireAmoCas32 f) s
/-- AMO_CAS64 (R152). -/
def execAmoCas64 (f : AtomRec) (s : State) : Host.Outcome State Fault Refusal := fireAs (fireAmoCas64 f) s
/-- AMO_FADD_F32 (R152). -/
def execAmoFaddF32 (f : AtomRec) (s : State) : Host.Outcome State Fault Refusal := fireAs (fireAmoFaddF32 f) s

end Sys2Proof.Machine
end

