-- ==== Sys2Proof/Machine/AccessEvents.lean ====
section
/-!
DEFINITION. AccessEvents.lean: how the memory accesses of elements go on after their firings: translation and checks (R144, R303),
order (R114 to R118, R326), loads and responses (R116, R101), versioned accesses (R146 to R148, R294 to R296), unbuffered accesses
and atomics (R114, R152, R154).
-/
namespace Sys2Proof.Machine

/-! ## The accesses of a region -/

def AccKind.need : AccKind → Need
  | .load | .acquire => .load
  | .store | .release => .store
  | .vld => .vld
  | .vst | .vrcl => .vst
  | .amo _ => .atomic

def accWho (r : Region) (a : Acc) : Who := ⟨r.ctx, r.bay, .element, r.id + a.elem / 4, some r.id, .region r.id⟩

/-- The region's accesses go on: it is neither gated nor frozen nor replayed, and its partition is up. -/
def State.regionLive (s : State) (r : Region) : Bool :=
  r.frozen.isNone && r.replay.isNone && !s.downBays.contains r.bay
    && (match r.flagAt with
      | some d => decide (s.cyc < d + 12)
      | none => true)

/-- The access is performed, or answered. A buffered store leaves the list when it is performed. -/
def Acc.performed (a : Acc) : Bool := a.st == .done

/-- The bytes of two accesses overlap, or one of them is not yet translated. -/
def Acc.mayOverlap (a b : Acc) : Bool :=
  match a.xlat, b.xlat with
  | some x, some y => x.mt == y.mt && decide (x.pa < y.pa + b.size) && decide (y.pa < x.pa + a.size)
  | _, _ => a.st == .port || b.st == .port

/-- A vld on a waiting list. -/
def Acc.isWaitingVld (a : Acc) : Bool :=
  a.kind == .vld && (match a.st with
    | .waiting _ => true
    | _ => false)

/-! ## Order of one element's accesses (R115, R150, R326) -/

/-- Accesses of element e with a serial below f that are not yet performed. A save does not wait for a waiting vld (R146). -/
def State.unperformed (s : State) (r : Region) (e f : Nat) : Bool :=
  r.accs.any (fun a => a.elem == e && decide (a.serial < f) && !a.performed && !(s.savePending r && a.isWaitingVld))
    || s.reqs.any (fun q => q.kind.isWrite && (match q.owner with
      | .region i n => i == r.id && decide (n < f)
      | _ => false))

/-- A fence of the element holds back what comes after it (R150, R330). -/
def State.fenced (s : State) (r : Region) (e n : Nat) : Bool :=
  r.fences.any (fun p => p.1 == e && decide (p.2 < n) && s.unperformed r e p.2)

def Acc.acquires (a : Acc) : Bool :=
  match a.kind with
  | .acquire | .vld => true
  | .amo _ => a.ord % 2 == 1
  | _ => false

def Acc.releases (a : Acc) : Bool :=
  match a.kind with
  | .release | .vst => true
  | .amo _ => decide (2 ≤ a.ord)
  | _ => false

/-- An earlier acquire of the element is not performed. -/
def State.acquiring (s : State) (r : Region) (a : Acc) : Bool :=
  r.accs.any (fun b => b.elem == a.elem && decide (b.serial < a.serial) && b.acquires && !b.performed
    && !(s.savePending r && b.isWaitingVld))

/-- No die-to-die link on the way of a translated access retrains (R446). -/
def State.wayOpen (s : State) (r : Region) (a : Acc) : Bool := a.xlat.all (fun x => !s.dieDown r.bay x)

/-- Fences, acquires and releases let the access be performed, and the links on its way carry it. -/
def State.ordered (s : State) (r : Region) (a : Acc) : Bool :=
  !s.fenced r a.elem a.serial && !s.acquiring r a && !(a.releases && s.unperformed r a.elem a.serial) && s.wayOpen r a

/-- The range scoreboard holds the access back at this moment (R313, R314: versioned accesses are not checked). -/
def State.scored (s : State) (r : Region) (a : Acc) : Bool :=
  match a.kind with
  | .vld | .vst | .vrcl => false
  | _ => s.scoreHit (r.sector a.elem) r.ctx a.va a.size

/-- The access as it leaves the port: the entries it overlaps now are those it waits for (R313). A buffered store is checked as its
window commits instead. -/
def State.checkedAcc (s : State) (r : Region) (a : Acc) : Acc :=
  match a.kind with
  | .vld | .vst | .vrcl | .store => a
  | _ => { a with behind := s.scoreHits (r.sector a.elem) r.ctx a.va a.size }
/-- An entry it waits for is not freed. -/
def State.waitsScore (s : State) (a : Acc) : Bool := a.behind.any (fun n => s.score.any (fun e => e.stream == n))

/-! ## The memory port (R84, R116, R144) -/

/-- An access takes another state. It keeps its entry of the port where `keep` says so. -/
def Region.putAcc (r : Region) (now : Nat) (a : Acc) (keep : Bool) : Region :=
  if keep then r.setAcc a else (r.freePort now a).setAcc { a with inPort := false }

/-- A release store or an atomic that comes before the access in the journal, is not performed and may cover a byte of it: the access
waits at its port (R116). -/
def Region.behindUnbuffered (r : Region) (a : Acc) : Bool :=
  (a.kind == .load || a.kind == .acquire)
    && r.accs.any (fun b => decide (b.serial < a.serial) && !b.performed && b.kind.unbuffered && b.kind != .vst && b.kind != .vrcl
      && b.mayOverlap a)

/-- The window of an access is the oldest of its region: what came before it has committed (R114, R117, R152). -/
def Region.inOldest (r : Region) (a : Acc) : Bool :=
  match r.wins with
  | w :: _ => decide (w.snap.serial ≤ a.serial) && decide (a.serial < r.bound)
  | [] => false

/-! ## TLB_WALK and WINDOW_FAULT_DETECT -/

/-- TLB_WALK (R144, R303): the tile accepts the request, and its checks are made. An unbuffered access is sent, and checked, once the
window that it closed has committed (R114, R152). -/
def execTlbWalk (region acc : Nat) (s : State) : Host.Outcome State Fault Refusal :=
  match s.region? region with
  | none => .next s
  | some r =>
    match r.acc? acc with
    | none => .next s
    | some a =>
      if a.st != .port || !s.regionLive r || (a.kind.unbuffered && !r.inOldest a) then .next s
      else
        match (accessM (accWho r a) a.kind.need a.va a.size).exec s with
        | (.ok x, s1) =>
          .next (s1.updRegion region (fun r1 =>
            let b : Acc := { a with st := .ready x }
            if r1.behindUnbuffered b then r1.putAcc s.cyc b true else r1.putAcc s.cyc (s1.checkedAcc r1 b) false))
        | (.error (.raise c ad), s1) => .next (s1.updRegion region (fun r1 => r1.putAcc s.cyc { a with st := .failed c ad } false))
        | (.error (.isolate ad), s1) =>
          .next (s1.updRegion region (fun r1 => r1.putAcc s.cyc { a with st := .failed Cause.isolationFreeze ad } false))
        | (.error .wait, s1) => .next s1

/-- The failed accesses as causes of their windows, raised in this cycle. -/
def failures (now : Nat) : List Acc → List Raised
  | [] => []
  | a :: t =>
    match a.st with
    | .failed c ad => ⟨a.serial, a.elem, a.slot, c, ad, now, false, false, none⟩ :: failures now t
    | _ => failures now t

/-- WINDOW_FAULT_DETECT (R118, R355): every failed access sets the fault flag. -/
def execWindowFaultDetect (region : Nat) (s : State) : Host.Outcome State Fault Refusal :=
  match s.region? region with
  | none => .next s
  | some r =>
    let new := (failures s.cyc r.accs).filter (fun x => !r.raised.any (fun y => y.serial == x.serial))
    if new.isEmpty || !s.regionLive r then .next s
    else .next (s.setRegion { r with raised := r.raised ++ new, flagAt := some (r.flagAt.getD s.cyc) })

/-! ## Loads (R116, R144) -/

/-- Whether the load's bytes can be taken: no unperformed access of R116 or R323 covers one of them. -/
def State.mayRead (s : State) (r : Region) (a : Acc) : Bool :=
  s.ordered r a && !r.accs.any (fun b => decide (b.serial < a.serial) && !b.performed && b.mayOverlap a
    && (b.kind.unbuffered
      || (b.kind == .store && b.st == .port)
      || (b.elem == a.elem && (b.kind == .load || b.kind == .acquire))))

/-- The bytes of a load at x: the windows' where a store covers them, else those of memory; and whether one of the latter is
poison. -/
def State.loadBytes (s : State) (r : Region) (n : Nat) (x : Xlat) : Nat → Nat → List Byte × Bool
  | 0, _ => ([], false)
  | k + 1, i =>
    let (bs, p) := s.loadBytes r n x k (i + 1)
    match r.forwarded n x.mt (x.pa + i) with
    | some b => (b :: bs, p)
    | none =>
      if x.mt = 1 then (Mem.read s.scratch (x.pa + i) :: bs, p || s.scrPoisoned (x.pa + i) 1)
      else
        (decompByte s.mem (s.modeOf (lowOf (x.pa + i))) (lowOf (x.pa + i)) :: bs, p || s.poisonedAt (lowOf (x.pa + i)) 1)

/-- The request of an access of a region, once a flit with its answer has been accepted (R444). -/
def State.reqOf (s : State) (id acc : Nat) : Option Req :=
  s.reqs.find? (fun q => q.completed && !q.kind.isWrite && q.owner == .region id acc)
/-- The home has said that a vld waits there: another flit will bring its value (R146). -/
def State.stillOpen (s : State) (q : Nat) : State := { s with reqs := s.reqs.map (fun x => if x.id = q then { x with completed := false } else x) }
def State.dropReq (s : State) (q : Nat) : State := { s with reqs := s.reqs.filter (fun x => x.id != q) }

/-- Sends the request of an access to another package; a package that no port reaches answers poison (R364, R442). -/
def State.sendAcc (s : State) (r : Region) (a : Acc) (x : Xlat) (kind : ReqKind) (data : Line) : State :=
  if s.maskHeld (pkgOf x.pa) then s
  else if !s.reachable (pkgOf x.pa) then
    (s.linkLost r.ctx x.pa).updRegion r.id
      (fun r1 => r1.setAcc { a with st := .done, result := if kind.isWrite then none else some (0, true) })
  else
    ((s.sendReq kind (.region r.id a.serial) r.ctx x.pa a.size data).2).updRegion r.id
      (fun r1 => r1.setAcc { a with st := .remote x, since := s.cyc })

/-- Drops the first n entries of the log and moves the rest n journal entries down. -/
def shiftLog (gone first : Nat) (l : List LogEntry) : List LogEntry :=
  (l.drop first).map (fun e => { e with jidx := e.jidx - gone })

/-- The oldest window leaves: its journal entries and log entries go, its performed accesses stay while a response waits
(R352 to R354). What it held back may fire from the next cycle (R84). -/
def Region.dropWindow (r0 : Region) (now : Nat) : Region :=
  let r : Region := { r0 with commitAt := now + 1, wasFull := r0.heldBy now }
  let b := r.bound
  let gone := (r.journal.filter (fun j => decide (j.serial < b))).length
  let accs := r.accs.filter (fun a => decide (b ≤ a.serial) || (a.result.isSome || (a.halves != 0 && a.delivered = 0 && a.st != .done)))
  let r1 := { r with journal := r.journal.filter (fun j => decide (b ≤ j.serial)), accs := accs }
  match r.wins with
  | _ :: w :: t =>
    { r1 with
      log := shiftLog gone w.snap.logged r.log
      wins := { w with snap := { w.snap with logged := 0 } } :: t
      nextSnap := r.nextSnap.map (fun n => { n with logged := n.logged - w.snap.logged })
      leftWire := r.leftWire.filter (fun p => decide (b ≤ p.2))
      leftLabel := r.leftLabel.filter (fun p => decide (b ≤ p.2)) }
  | _ => { r1 with log := [], wins := [], nextSnap := none, leftWire := [], leftLabel := [] }

/-- Fences whose earlier accesses are all performed are forgotten. -/
def State.pruneFences (s : State) (id : Nat) : State :=
  match s.region? id with
  | none => s
  | some r => s.setRegion { r with fences := r.fences.filter (fun p => s.unperformed r p.1 p.2) }

/-- An unbuffered access is performed: its window commits with it. -/
def State.performed (s : State) (region : Nat) (a : Acc) : State :=
  (s.updRegion region (fun r => (r.setAcc { a with st := .done }).dropWindow s.cyc)).pruneFences region

/-- The answer of another package to an access of a region (R146, R154, R289): `reply.version` is the home's word on a vld. An atomic
whose answer reports an error after the effect raises REMOTE_APPLIED_ERR, and its response is kept. -/
def State.answerAcc (s : State) (r : Region) (a : Acc) (q : Req) (reply : Reply) : State :=
  let s1 := s.dropReq q.id
  let put := fun (t : State) (b : Acc) => t.updRegion r.id (fun r1 => r1.setAcc b)
  match a.kind, a.st with
  | .load, .remote _ | .acquire, .remote _ =>
    put s1 { a with st := .done, result := some (BitVec.ofNat 256 (leNat (overlay a reply.wide a.size)), reply.poison) }
  | .vld, .remote x =>
    if reply.version = 2 then put (s.stillOpen q.id) { a with st := .waiting x }
    else if reply.version = 1 then put s1 { a with st := .failed Cause.versionGone a.va }
    else put s1 { a with st := .done, result := some (r.answeredVld a x reply) }
  | .vld, .waiting x => put s1 { a with st := .done, result := some (r.answeredVld a x reply) }
  | .amo _, .remote _ =>
    if reply.refused then put s1 { a with st := .failed Cause.permFault a.va }
    else if reply.applied then
      let x : Raised := ⟨a.serial, a.elem, a.slot, Cause.remoteAppliedErr, a.va, s.cyc, false, true,
        if reply.oldSent then some (reply.data.extractLsb' 0 64) else none⟩
      let b : Acc := { a with st := .done, result := some (if reply.oldSent then (reply.wide, false) else (0, true)) }
      (put s1 b).updRegion r.id (fun r1 => { r1 with raised := r1.raised ++ [x], flagAt := some (r1.flagAt.getD s.cyc) })
    else s1.performed r.id { a with result := some (reply.wide, reply.poison) }
  | _, _ => s1

/-- A load reads its bytes, once those entries of the scoreboard are freed that it overlapped as it left its port (R313); one that the
windows serve whole is not checked. -/
def State.readLoad (s : State) (r : Region) (a : Acc) (x : Xlat) : State :=
  if r.covered a.serial x a.size || !s.waitsScore a then
    if x.mt = 0 && !s.isLocal x.pa && !r.covered a.serial x a.size then s.sendAcc r (r.withForward a x) x .load 0
    else
      let (bs, p) := s.loadBytes r a.serial x a.size 0
      s.updRegion r.id (fun r1 => r1.setAcc { a with st := .done, result := some (BitVec.ofNat 256 (leNat bs), p) })
  else s

/-- A load that may read leaves its port, if it still waited there (R116), and reads. -/
def State.performLoad (s : State) (r : Region) (a : Acc) (reply : Reply) : State :=
  match a.st with
  | .ready x =>
    if !s.mayRead r a then s
    else if a.inPort then
      let b : Acc := { s.checkedAcc r a with inPort := false }
      let r1 := r.putAcc s.cyc (s.checkedAcc r a) false
      (s.setRegion r1).readLoad r1 b x
    else s.readLoad r a x
  | .remote _ =>
    match s.reqOf r.id a.serial with
    | some q => s.answerAcc r a q reply
    | none => s
  | _ => s

/-! ## Responses (R101, R144, R146, R152) -/

/-- The first reservation of a channel that no response has filled. -/
def firstResv : List InEntry → Option (Nat × Nat)
  | [] => none
  | .resv a h _ :: _ => some (a, h)
  | .tok _ :: t => firstResv t

/-- The token of one half of a response; poison keeps the level its tag would have carried. -/
def responseTok (a : Acc) (v : Wide) (poison : Bool) (half : Nat) : Token :=
  if poison then ⟨0, mkTag 3 (levelOf a.tag)⟩
  else if a.halves = 2 then ⟨scalarOf (lane v half), a.tag⟩
  else if a.size = 32 then ⟨v, a.tag⟩
  else ⟨scalarOf (lane v 0), a.tag⟩

def deliverHalves (now : Nat) (a : Acc) (v : Wide) (poison : Bool) (r : Region) : Nat → Region
  | 0 => r
  | n + 1 =>
    let half := a.halves - (n + 1)
    deliverHalves now a v poison (r.putResponse now a.elem a.rsp a.serial half (responseTok a v poison half)) n

/-- Delivers the response of an access when its reservation is the first open one of its channel; a response that the arrival
log must record waits while the log is full (R354). -/
def State.deliver (s : State) (region acc : Nat) : State :=
  match s.region? region with
  | none => s
  | some r =>
    match r.acc? acc with
    | none => s
    | some a =>
      match a.result with
      | none => s
      | some (v, p) =>
        if firstResv ((r.elem a.elem).inch a.rsp).q != some (acc, 0) then s
        else if !r.uncommitted acc && r.logs && !decide (r.log.length + a.halves ≤ 2048) then s
        else
          let r1 := deliverHalves s.cyc a v p r a.halves
          let gone := a.kind == .load || a.kind == .acquire || a.kind == .vld || !r.uncommitted acc
          s.setRegion (if gone then { r1 with accs := r1.accs.filter (fun b => b.serial != acc) }
            else r1.setAcc { a with result := none, delivered := a.halves })

/-- LOAD_RESPONSE: a load reads its bytes; the response of a load, a vld or an atomic enters its reservation. In a replay only a vld that
has waited since before it is answered. -/
def execLoadResponse (region acc : Nat) (reply : Reply) (s : State) : Host.Outcome State Fault Refusal :=
  match s.region? region with
  | none => .next s
  | some r =>
    match r.acc? acc with
    | none => .next s
    | some a =>
      if !s.regionLive r && !(r.replay.isSome && a.isWaitingVld) then .next s
      else
        let s1 :=
          if a.kind == .load || a.kind == .acquire then s.performLoad r a reply
          else if a.isWaitingVld then
            match s.reqOf region acc with
            | some q => s.answerAcc r a q reply
            | none => s
          else s
        .next (s1.deliver region acc)

/-! ## Versioned loads (R146, R294, R296) -/

/-- A vld may be judged: its order lets it, its element's earlier accesses to the word are performed but for the stores that the
windows show it, and no earlier unbuffered access of the region may cover it (R114, R116, R323). -/
def State.mayJudge (s : State) (r : Region) (a : Acc) : Bool :=
  s.ordered r a && !r.accs.any (fun b => decide (b.serial < a.serial) && !b.performed && !b.isWaitingVld && b.mayOverlap a
    && (b.kind.unbuffered || (b.kind == .store && b.st == .port) || (b.elem == a.elem && b.kind != .store)))

/-- The home slice judges a vld. The newest version is read through the region's windows (R114, R331, R336). -/
def State.judge (s : State) (r : Region) (a : Acc) (x : Xlat) : State :=
  let pa := lowOf x.pa
  match s.judgeVld pa a.version with
  | .gone => s.updRegion r.id (fun r1 => r1.setAcc { a with st := .failed Cause.versionGone a.va })
  | .value v p =>
    let newest := a.version == (s.vtag pa).newest
    let y : Wide × Bool := if newest then r.throughWindows a x v p else (v.zeroExtend 256, p)
    s.updRegion r.id (fun r1 => r1.setAcc { a with st := .done, result := some y })
  | .notYet =>
    if s.vldListFull pa then s.updRegion r.id (fun r1 => r1.setAcc { a with st := .refused x })
    else
      let w : VldWait := ⟨pa / 8, a.version, .region r.id a.serial⟩
      { s with vldWaits := s.vldWaits ++ [w] }.updRegion r.id (fun r1 => r1.setAcc { a with st := .waiting x })

/-- VLD_HOME_JUDGE. Another package's home slice answers, or says that the version is gone (version 1) or waits (version 2). -/
def execVldHomeJudge (region acc : Nat) (reply : Reply) (s : State) : Host.Outcome State Fault Refusal :=
  match s.region? region with
  | none => .next s
  | some r =>
    match r.acc? acc with
    | none => .next s
    | some a =>
      if a.kind != .vld || !s.regionLive r then .next s
      else
        match a.st with
        | .ready x =>
          if !s.mayJudge r a then .next s
          else if s.isLocal x.pa then .next (s.judge r a x)
          else .next (s.sendAcc r (r.withForward a x) x .vld (a.version.zeroExtend 512))
        | .remote _ =>
          match s.reqOf region acc with
          | none => .next s
          | some q => .next (s.answerAcc r a q reply)
        | _ => .next s

/-- VLD_RESEND: a refused vld is judged again. -/
def execVldResend (region acc : Nat) (s : State) : Host.Outcome State Fault Refusal :=
  match s.region? region with
  | none => .next s
  | some r =>
    match r.acc? acc with
    | none => .next s
    | some a =>
      match a.st with
      | .refused x => .next (if a.kind == .vld && s.regionLive r && s.wayOpen r a then s.judge r a x else s)
      | _ => .next s

/-! ## Unbuffered accesses (R114, R117) -/

/-- The window of an unbuffered access is the oldest, and its order lets it be performed. -/
def State.mayPerform (s : State) (r : Region) (a : Acc) : Bool :=
  s.regionLive r && r.inOldest a && s.ordered r a
    && !r.accs.any (fun b => b.elem == a.elem && decide (b.serial < a.serial) && !b.performed && !b.isWaitingVld && b.mayOverlap a)

/-- Writes the bytes of a store at its place. The host's copy of a line has left before. -/
def State.storeAt (s : State) (x : Xlat) (bs : List Byte) : State :=
  if x.mt = 1 then s.scrWrite x.pa bs else s.fabWrite (lowOf x.pa) bs

def storeBlocked (s : State) (x : Xlat) (n : Nat) : Bool := x.mt == 0 && s.isLocal x.pa && s.writeHeld (lowOf x.pa) n false

def wideBytes (v : Wide) (n : Nat) : List Byte := leBytes v.toNat n

/-- UNBUFFERED_ACCESS_PERFORM: a release store. -/
def execUnbufferedAccessPerform (region acc : Nat) (s : State) : Host.Outcome State Fault Refusal :=
  match s.region? region with
  | none => .next s
  | some r =>
    match r.acc? acc with
    | none => .next s
    | some a =>
      match a.kind, a.st with
      | .release, .ready x =>
        if !s.mayPerform r a || s.waitsScore a || storeBlocked s x a.size then .next s
        else if x.mt = 0 && !s.isLocal x.pa then .next (s.sendAcc r a x .write (a.data.zeroExtend 512))
        else .next ((s.storeAt x (wideBytes a.data a.size)).performed region a)
      | _, _ => .next s

/-- A vst whose wait for a free version has lasted 2^20 cycles (R147). -/
def State.stalled (s : State) (a : Acc) : Bool := decide (a.since + 2 ^ 20 < s.cyc)

/-- The vst fails: no version is created. A request to another package's home slice is answered so. -/
def State.stallVst (s : State) (r : Region) (a : Acc) : State :=
  let rest := s.reqs.filter (fun q => !(q.kind == ReqKind.vst && q.owner == ReqOwner.region r.id a.serial))
  let queue := s.vstQueue.filter (fun w => w.owner != VldOwner.region r.id a.serial)
  { s with reqs := rest, vstQueue := queue }.setRegion (r.setAcc { a with st := .failed Cause.versionStall a.va })

/-- VST_PERFORM: the version is created once a slot is free and no vst of the word has waited for longer; else a wait begins (R147,
R295, R334), and one that has lasted 2^20 cycles has failed. -/
def execVstPerform (region acc : Nat) (s : State) : Host.Outcome State Fault Refusal :=
  match s.region? region with
  | none => .next s
  | some r =>
    match r.acc? acc with
    | none => .next s
    | some a =>
      match a.kind, a.st with
      | .vst, .ready x =>
        if !s.mayPerform r a then .next s
        else if !s.isLocal x.pa then .next (s.sendAcc r a x .vst (a.data.zeroExtend 512))
        else if s.vstHeld (lowOf x.pa) (.region region acc) then
          .next ((s.vstJoin (lowOf x.pa) (.region region acc)).setRegion (r.setAcc { a with st := .waiting x, since := s.cyc }))
        else if s.writeHeld (lowOf x.pa) 8 false then .next s
        else .next ((s.createVersion (lowOf x.pa) (a.data.extractLsb' 0 64)).performed region a)
      | .vst, .waiting x =>
        if !s.mayPerform r a then .next s
        else if s.stalled a then .next (s.stallVst r a)
        else if s.vstHeld (lowOf x.pa) (.region region acc) || s.writeHeld (lowOf x.pa) 8 false then .next s
        else
          let s1 := s.vstGone (lowOf x.pa) (.region region acc)
          .next ((s1.createVersion (lowOf x.pa) (a.data.extractLsb' 0 64)).performed region a)
      | _, _ => .next s

/-- VERSION_STALL: a vst has waited 2^20 cycles, here, or at the home slice of another package as its answer says. -/
def execVersionStall (region acc : Nat) (s : State) : Host.Outcome State Fault Refusal :=
  match s.region? region with
  | none => .next s
  | some r =>
    match r.acc? acc with
    | none => .next s
    | some a =>
      match a.kind, a.st with
      | .vst, .waiting _ => .next (if s.regionLive r && s.stalled a then s.stallVst r a else s)
      | .vst, .remote _ =>
        let said := s.reqs.any (fun q => q.completed && q.kind == .vst && q.owner == .region region acc)
        .next (if s.regionLive r && said && s.stalled a then s.stallVst r a else s)
      | _, _ => .next s

/-- VRCL_PERFORM. -/
def execVrclPerform (region acc : Nat) (s : State) : Host.Outcome State Fault Refusal :=
  match s.region? region with
  | none => .next s
  | some r =>
    match r.acc? acc with
    | none => .next s
    | some a =>
      match a.kind, a.st with
      | .vrcl, .ready x =>
        if !s.mayPerform r a then .next s
        else if !s.isLocal x.pa then .next (s.sendAcc r a x .vrcl (a.version.zeroExtend 512))
        else .next ((s.vrcl (lowOf x.pa) a.version).performed region a)
      | _, _ => .next s

/-- ATOMIC_PERFORM (R152). An answer from another package that reports an error after the effect raises REMOTE_APPLIED_ERR
(R154): its response is kept, and the atomic is not performed again. -/
def execAtomicPerform (region acc : Nat) (reply : Reply) (s : State) : Host.Outcome State Fault Refusal :=
  match s.region? region with
  | none => .next s
  | some r =>
    match r.acc? acc with
    | none => .next s
    | some a =>
      match a.kind, a.st with
      | .amo k, .ready x =>
        if !s.mayPerform r a || s.waitsScore a then .next s
        else if x.mt = 0 && !s.isLocal x.pa then
          .next (s.sendAcc r a x .atomic ((a.data ||| (a.new.zeroExtend 256 <<< 64)).zeroExtend 512))
        else
          match (amoAtM x k a.size (a.data.extractLsb' 0 64).toNat a.new.toNat).exec s with
          | (.ok (old, p), s1) => .next (s1.performed region { a with result := some (BitVec.ofNat 256 old, p) })
          | (.error _, _) => .next s
      | .amo _, .remote _ =>
        match s.reqOf region acc with
        | none => .next s
        | some q => .next (s.answerAcc r a q reply)
      | _, _ => .next s

end Sys2Proof.Machine
end

