-- ==== Sys2Proof/Machine/Barrier.lean ====
section
/-!
DEFINITION. Barrier.lean: the transaction-barrier object (R196 to R202): its fields, the completion step, arrivals,
declarations and credits, each one indivisible step at the object's home slice.
-/
namespace Sys2Proof.Machine

/-- The fields of R196. -/
structure Tbar where
  gen : Nat
  quota : Nat
  arrv : Nat
  decl : Nat
  land : Nat
  poison : Bool
  lastp : Bool
  wsem : Nat
  wen : Bool
  ctx : Nat
  deriving DecidableEq, Repr

def State.tbarAt (s : State) (pa : Nat) : Tbar :=
  let w0 := s.fabNat pa 8
  let w3 := s.fabNat (pa + 24) 8
  { gen := w0 % 2 ^ 32, quota := bits w0 47 32, arrv := bits w0 63 48
    decl := s.fabNat (pa + 8) 8, land := s.fabNat (pa + 16) 8
    poison := bit w3 0, lastp := bit w3 1, wsem := bits w3 29 16, wen := bit w3 30, ctx := bits w3 37 32 }

def Tbar.words (t : Tbar) : List Nat :=
  [ t.gen % 2 ^ 32 + 2 ^ 32 * (t.quota % 2 ^ 16) + 2 ^ 48 * (t.arrv % 2 ^ 16), t.decl, t.land,
    (if t.poison then 1 else 0) + (if t.lastp then 2 else 0) + 2 ^ 16 * (t.wsem % 2 ^ 14) + (if t.wen then 2 ^ 30 else 0)
      + 2 ^ 32 * (t.ctx % 64) ]

def State.putTbar (s : State) (pa : Nat) (t : Tbar) : State := s.partWrite pa (wordsBytes t.words)

/-- The wake signal reaches only a sequencer of the object's context (R198). -/
def State.wake (s : State) (t : Tbar) : State :=
  if s.coreCtx (t.wsem / 64) = t.ctx then s.semaNamed t.wsem 1
  else s.record { cause := Cause.tbarRange, cls := 2, mkind := 4, ctx := t.ctx }

/-- The completion step (R198), with the object written back. -/
def State.complete (s : State) (pa : Nat) (t : Tbar) : State :=
  if t.arrv = t.quota && t.decl = t.land then
    let t1 := { t with lastp := t.poison, poison := false, gen := (t.gen + 1) % 2 ^ 32, arrv := 0, decl := 0, land := 0 }
    let s1 := s.putTbar pa t1
    if t.wen then s1.wake t else s1
  else s.putTbar pa t

/-- A stream credit (R187, R198): LAND saturates with POISON and a record. -/
def State.tbarCredit (s : State) (pa bytes ctx : Nat) (failed : Bool) : State :=
  let t := s.tbarAt pa
  let t1 := if failed then { t with poison := true } else t
  if 2 ^ 64 ≤ t.land + bytes then
    (s.record { cause := Cause.tbarRange, cls := 2, mkind := 4, ctx := ctx }).complete pa { t1 with land := 2 ^ 64 - 1, poison := true }
  else s.complete pa { t1 with land := t.land + bytes }

/-- Whether an arrival of n with d declared bytes is out of range (R197). -/
def Tbar.badArrival (t : Tbar) (n d : Nat) : Bool := decide (t.quota < t.arrv + n) || decide (2 ^ 64 ≤ t.decl + d)
def State.tbarArrive (s : State) (pa n d : Nat) : State :=
  let t := s.tbarAt pa
  s.complete pa { t with arrv := t.arrv + n, decl := t.decl + d }

/-- The status of a phase (R199): none while it has not completed. -/
def Tbar.status (t : Tbar) (g : Nat) : Option Nat :=
  let d := (t.gen + 2 ^ 32 - g % 2 ^ 32) % 2 ^ 32
  if d = 0 || 2 ^ 31 ≤ d then none
  else if d = 1 then some (if t.lastp then 1 else 0)
  else some 2

/-- The object an operation names (R197, R201): aligned, translated, in normal memory of this package. `need` is the permission its page
must give (DESIGN CHOICE, log entry 83: no rule names it): reading and writing for init, arr, decl and fini, reading for wait and test. -/
def tbarObj (w : Who) (need : Need) (va : DWord) : Mach Nat := do
  if !canonical va then raiseM Cause.addrNoncanonical va
  if va.toNat % 32 != 0 then raiseM Cause.misaligned va
  let x ← translateM w need va
  if x.mt = 2 then raiseM Cause.tbarRange va
  if x.mt = 1 then raiseM Cause.addrUnmapped va
  let s ← get
  if !isNormal (lowOf x.pa) then raiseM Cause.addrUnmapped va
  if !s.isLocal x.pa then raiseM Cause.tbarRange va
  match w.reader with
  | .core c => if s.behindHeld c x 32 then waitM
  | _ => pure ()
  pure (lowOf x.pa)

/-- A marked object. -/
def tbarMarked (w : Who) (need : Need) (va : DWord) : Mach Nat := do
  let pa ← tbarObj w need va
  let s ← get
  if !s.barriers.contains pa then raiseM Cause.tbarRange va
  pure pa

end Sys2Proof.Machine
end

