-- ==== Sys2Proof/Machine/Mesh.lean ====
section
/-!
DEFINITION. Mesh.lean: the grid of a bay (R227 to R229), route words (R110), boundary bindings (R233 to R236), and where each wire
of an element leads.
-/
namespace Sys2Proof.Machine

/-! ## The grid (R227) -/

/-- Column and row of a location, from alternate bits of its name. -/
def locX (l : Nat) : Nat := (List.range 6).foldl (fun v k => if bit l (2 * k) then v + 2 ^ k else v) 0
def locY (l : Nat) : Nat := (List.range 6).foldl (fun v k => if bit l (2 * k + 1) then v + 2 ^ k else v) 0
def locAt (bay x y : Nat) : Nat :=
  4096 * bay + (List.range 6).foldl (fun v k => v + (if bit x k then 4 ^ k else 0) + (if bit y k then 2 * 4 ^ k else 0)) 0

/-- The grid neighbour on a side; none at the edge of the bay. -/
def neighbour (l : Nat) (side : Dir) : Option Nat :=
  let x := locX l
  let y := locY l
  match side with
  | .north => if y = 0 then none else some (locAt (l / 4096) x (y - 1))
  | .east => if x = 63 then none else some (locAt (l / 4096) (x + 1) y)
  | .south => if y = 63 then none else some (locAt (l / 4096) x (y + 1))
  | .west => if x = 0 then none else some (locAt (l / 4096) (x - 1) y)

/-- R229: latency by the lowest switch common to two locations. -/
def linkLatency (a b : Nat) : Nat :=
  if a / 16 = b / 16 then 1 else if a / 64 = b / 64 then 2 else if a / 256 = b / 256 then 3 else if a / 1024 = b / 1024 then 4 else 5

/-! ## Route words (R110) -/

def inCode (w : Word) (i : Nat) : Nat := bits w.toNat (31 - 3 * i) (29 - 3 * i)
def toCode (w : Word) (side : Dir) : Nat := bits w.toNat (19 - 3 * side.toNat) (17 - 3 * side.toNat)

/-- What takes the tokens of an incoming link: an input channel, or the bypass to the opposite side. -/
inductive Consumer where
  | chan (i : Nat)
  | bypass
  | none
  deriving DecidableEq, Repr

def Elem.consumer (e : Elem) (side : Dir) : Consumer :=
  match (List.range 4).find? (fun i => inCode e.route i == side.toNat + 1) with
  | some i => .chan i
  | none => if toCode e.route side.opposite = 5 then .bypass else .none

/-- What drives an outgoing link. -/
inductive Driver where
  | out (o : Nat)
  | bypass
  | none
  deriving DecidableEq, Repr

def Elem.driver (e : Elem) (side : Dir) : Driver :=
  let c := toCode e.route side
  if 1 ≤ c && c ≤ 4 then .out (c - 1) else if c = 5 then .bypass else .none

/-! ## Bindings -/

def bindDir (w : DWord) : Dir := Dir.ofCode (bits w.toNat 60 59)
/-- Region-relative element of a BIND entry. -/
def bindElem (w : DWord) : Nat := 4 * bits w.toNat 58 49 + bits w.toNat 48 47
def bindEp (w : DWord) : Nat := bits w.toNat 46 44
def bindOpnd (w : DWord) : Nat := bits w.toNat 43 0

def Region.binds (r : Region) : List DWord := r.rtab.toList.filter (fun w => routeType w == 3)
def Region.bindOf (r : Region) (e : Nat) (side : Dir) : Option DWord :=
  r.binds.find? (fun w => bindElem w == e && bindDir w == side)

/-- Numbers of the links of fixed islands: kind 0 traversal by sector, 1 raster by block, 2 intersect by cluster, 3 blend by
home slice. -/
def linkKey (kind idx link : Nat) : Nat := (kind * 1024 + idx) * 8 + link
def portKey (loc opnd : Nat) : Nat := loc / 16 * 4 + opnd % 4

/-- The island link that an ISLAND operand names for an element at a location (R234). -/
def islandKey (loc opnd : Nat) : Nat :=
  let link := bits opnd 6 4
  match opnd % 4 with
  | 0 => linkKey 0 (loc / 64) link
  | 1 => linkKey 1 (loc / 256) link
  | 2 => linkKey 2 (loc / 16) link
  | _ => linkKey 3 (loc / 4096 * 16 + loc / 1024 % 4 * 4 + bits opnd 3 2) link

/-- Slots of an input link (R370, R398, R406, R418). -/
def linkSlots (key : Nat) : Nat :=
  let kind := key / 8192
  let link := key % 8
  if kind = 0 then (if link = 0 then 16 else if link = 1 then 4 else if link = 2 then 16 else 0)
  else if kind = 1 then (if link = 0 then 16 else 0)
  else if kind = 2 then (if link = 0 then 4 else if link = 3 then 16 else 0)
  else (if link = 0 then 16 else 0)
/-- Links that an island has. -/
def linkExists (kind link : Nat) : Bool :=
  if kind = 0 then decide (link < 3) else if kind = 1 then decide (link < 2) else if kind = 2 then decide (link < 4) else link == 0

/-- Where the wires of one side of an element lead. -/
inductive Far where
  | unbound
  | mesh (e : Nat)
  | sink
  | tie (loc : Nat)
  | port (p : Nat)
  | island (key : Nat)
  | qout
  | qin
  deriving DecidableEq, Repr

def Region.holds (r : Region) (loc : Nat) : Bool := decide (4 * r.id ≤ loc) && decide (loc < 4 * (r.id + r.quads))

def Region.far (r : Region) (e : Nat) (side : Dir) : Far :=
  let l := r.loc e
  let next := neighbour l side
  match next with
  | some m => if r.holds m then .mesh (m - 4 * r.id) else farBound next
  | none => farBound next
where
  farBound (next : Option Nat) : Far :=
    match r.bindOf e side with
    | none => .unbound
    | some w =>
      match bindEp w with
      | 0 => .sink
      | 1 => (match next with
        | some m => .tie m
        | none => .unbound)
      | 2 => .port (portKey (r.loc e) (bindOpnd w))
      | 3 => .island (islandKey (r.loc e) (bindOpnd w))
      | 4 => .qout
      | _ => .qin

/-! ## Wires -/

/-- A wire by the element it leaves and the side. -/
def wireKey (loc : Nat) (side : Dir) : Nat := 4 * loc + side.toNat
def State.wire (s : State) (k : Nat) : Wire := AMap.getD s.wires k {}
def State.setWire (s : State) (k : Nat) (w : Wire) : State := { s with wires := AMap.set s.wires k w }
def State.updWire (s : State) (k : Nat) (f : Wire → Wire) : State := s.setWire k (f (s.wire k))
def State.link (s : State) (k : Nat) : Link := AMap.getD s.links k {}
def State.updLink (s : State) (k : Nat) (f : Link → Link) : State := { s with links := AMap.set s.links k (f (s.link k)) }
def State.port (s : State) (k : Nat) : Port := AMap.getD s.ports k {}
def State.updPort (s : State) (k : Nat) (f : Port → Port) : State := { s with ports := AMap.set s.ports k (f (s.port k)) }
/-- Tokens a wide port holds (log entry 5). -/
def portRoom : Nat := 1 + Config.portExtra % 3

/-- The region that holds a location, and the element in it. -/
def State.at? (s : State) (loc : Nat) : Option (Region × Nat) :=
  (s.regionOfQuad (loc / 4)).map (fun r => (r, loc - 4 * r.id))

/-- A wire between two elements of a region, as tokens leave it, is named by the key's location. -/
def Region.ownsWire (r : Region) (k : Nat) : Bool := r.holds (k / 4)

end Sys2Proof.Machine
end

