-- ==== Sys2Proof/Machine/Tiles.lean ====
section
/-!
DEFINITION. Tiles.lean: the matrix array of a region (R257), tiles and how they cross its entries and exits (R258, R263, R264), and
the fathom at an entry (R275).
-/
namespace Sys2Proof.Machine

/-- Static-word fields (R106). -/
def stOp (w : Word) : Nat := bits w.toNat 31 25
def stA (w : Word) : Nat := bits w.toNat 24 22
def stB (w : Word) : Nat := bits w.toNat 21 19
def stPassA (w : Word) : Nat := bits w.toNat 18 16
def stPassB (w : Word) : Nat := bits w.toNat 15 13
def stRes (w : Word) : Nat := bits w.toNat 12 10
def stFmt (w : Word) : Nat := bits w.toNat 3 0


/-- Matrix control word (R261). -/
def mcAct (c : Word) : Nat := bits c.toNat 31 30
def mcOfmt (c : Word) : Nat := bits c.toNat 29 28
def mcRstop (c : Word) : Bool := c.getLsbD 27
def mcRep (c : Word) : Nat := bits c.toNat 26 25
def mcCin (c : Word) : Nat := bits c.toNat 24 22
def mcCpass (c : Word) : Nat := bits c.toNat 21 19


/-! ## Channels of the array -/

/-- The element and channel that takes the tokens of an incoming link, past bypasses. -/
def Region.chainEnd (r : Region) : Nat → Nat → Dir → Option (Nat × Nat)
  | 0, _, _ => none
  | n + 1, e, side =>
    match (r.elem e).consumer side with
    | .chan i => some (e, i)
    | .bypass =>
      (match r.far e side.opposite with
      | .mesh e2 => Region.chainEnd r n e2 side
      | _ => none)
    | .none => none

/-- The element that drives an incoming link, past bypasses, and the wires on the way. -/
def Region.chainStart (r : Region) : Nat → Nat → Dir → Option Nat × List Nat
  | 0, _, _ => (none, [])
  | n + 1, e, side =>
    match r.far e side with
    | .mesh e2 =>
      let k := wireKey (r.loc e2) side.opposite
      (match (r.elem e2).driver side.opposite with
      | .out _ => (some e2, [k])
      | .bypass =>
        let t := Region.chainStart r n e2 side
        (t.1, k :: t.2)
      | .none => (none, [k]))
    | _ => (none, [])

def sideList : List Dir := [.north, .east, .south, .west]

/-- The link an output channel drives. -/
def Elem.outSide (e : Elem) (o : Nat) : Option Dir := sideList.find? (fun d => toCode e.route d == o + 1)

/-- Where an output channel of a matrix element leads inside the array; none at an exit. -/
def Region.tileDest (r : Region) (e o : Nat) : Option (Nat × Nat) :=
  match (r.elem e).outSide o with
  | none => none
  | some d =>
    match r.far e d with
    | .mesh e2 =>
      (match r.chainEnd 128 e2 d.opposite with
      | some (m, i) => if (r.elem m).isMatrix then some (m, i) else none
      | none => none)
    | _ => none

/-- An output channel that drives an array link. -/
def Region.isExit (r : Region) (e o : Nat) : Bool := ((r.elem e).outSide o).isSome && (r.tileDest e o).isNone

/-- The wires on which tokens are on their way into an input channel, and whether a matrix element feeds it. -/
def Region.feeds (r : Region) (e i : Nat) : Bool × List Nat :=
  if inCode (r.elem e).route i = 0 then (false, [])
  else
    let c := r.chainStart 128 e (Dir.ofCode (inCode (r.elem e).route i - 1))
    (match c.1 with
      | some m => (r.elem m).isMatrix
      | none => false, c.2)
def Region.isEntry (r : Region) (e i : Nat) : Bool := (r.elem e).isMatrix && !(r.feeds e i).1

def Elem.fmt (e : Elem) : Nat := stFmt e.static
/-- Tokens of an operand tile. -/
def opTokens (fmt : Nat) : Nat := if fmt = 4 then 5 else 4

/-! ## Assembly at an entry -/

def Mat.inT (m : Mat) (i : Nat) : Option Tile := (m.inTile.getD i none)
def Mat.outT (m : Mat) (o : Nat) : Option Tile := (m.outTile.getD o none)
def Mat.part (m : Mat) (i : Nat) : List Token := m.parts.getD i []
def Mat.setInT (m : Mat) (i : Nat) (t : Option Tile) : Mat := { m with inTile := m.inTile.setIfInBounds i t }
def Mat.setOutT (m : Mat) (o : Nat) (t : Option Tile) : Mat := { m with outTile := m.outTile.setIfInBounds o t }
def Mat.setPart (m : Mat) (i : Nat) (l : List Token) : Mat := { m with parts := m.parts.setIfInBounds i l }

def joinToks : List Token → Nat
  | [] => 0
  | t :: ts => t.val.toNat + 2 ^ 256 * joinToks ts

/-- The operand tile of its tokens; missing bytes are zero. -/
def tileOfToks (ts : List Token) : Tile :=
  match ts.find? (fun t => isPoison t.tag) with
  | some p => ⟨mkTag 3 (levelOf p.tag), false, 0, 0⟩
  | none =>
    ⟨(match ts with
      | t :: _ => t.tag
      | [] => dataTag), false, BitVec.ofNat 2048 (joinToks (ts.take 4)),
      (match ts.drop 4 with
        | t :: _ => t.val.extractLsb' 0 64
        | [] => 0)⟩

def stopTile (t : Token) : Tile := ⟨t.tag, false, (lane t.val 0).zeroExtend 2048, 0⟩
/-- A token of a count channel. -/
def tokenTile (t : Token) : Tile := ⟨t.tag, false, t.val.zeroExtend 2048, 0⟩

/-- A matrix element takes a token at an entry; none while the channel is full. A stop that completes a part waits behind it. -/
def Elem.takeTok (e : Elem) (i : Nat) (t : Token) : Option Elem :=
  let m := e.mat
  if (m.inT i).isSome then none
  else if mcCin (e.const 0) = i + 1 then some { e with mat := m.setInT i (some (tokenTile t)) }
  else if isStop t.tag then
    (if (m.part i).isEmpty then some { e with mat := m.setInT i (some (stopTile t)) }
    else some { e with mat := (m.setInT i (some (tileOfToks (m.part i)))).setPart i [t] })
  else
    let ps := m.part i ++ [t]
    if ps.length = opTokens e.fmt then some { e with mat := (m.setInT i (some (tileOfToks ps))).setPart i [] }
    else some { e with mat := m.setPart i ps }

/-- Dequeues a channel. -/
def Mat.deq (m : Mat) (i : Nat) : Mat :=
  match m.part i with
  | [t] => if isStop t.tag then (m.setInT i (some (stopTile t))).setPart i [] else m.setInT i none
  | _ => m.setInT i none

/-! ## Leaving by an exit -/

/-- Tokens of a tile that leaves (R264); `count` for a count channel. A result tile keeps its token count in `scales`. -/
def tileToks (fmt : Nat) (count : Bool) (t : Tile) : List Token :=
  if count then [⟨t.data.extractLsb' 0 256, t.tag⟩]
  else if isStop t.tag || isFathom t.tag then [⟨t.data.extractLsb' 0 256, t.tag⟩]
  else
    let n := if t.result then t.scales.toNat else opTokens fmt
    if isPoison t.tag then List.replicate n ⟨0, t.tag⟩
    else (List.range n).map (fun k =>
      if !t.result && k = 4 then ⟨t.scales.zeroExtend 256, dataTag⟩ else ⟨t.data.extractLsb' (256 * k) 256, dataTag⟩)

/-- An output channel is empty. -/
def Elem.outFree (e : Elem) (o : Nat) : Bool := (e.mat.outT o).isNone && (e.outch o).q.isEmpty

/-- Places a tile in output channel code c (1 to 4), which is empty; 0 places nothing. -/
def Region.placeTile (r : Region) (now e c : Nat) (t : Tile) : Region :=
  if c = 0 then r
  else
    let o := c - 1
    if r.isExit e o then
      r.updElem e (fun x => x.setOut o { x.outch o with
        q := (tileToks x.fmt (mcCpass (x.const 0) == c) t).map (fun k => ⟨k, now, 0⟩) })
    else r.updElem e (fun x => { x with mat := x.mat.setOutT o (some t) })
def Elem.codeFree (e : Elem) (c : Nat) : Bool := c == 0 || e.outFree (c - 1)

/-! ## The fathom (R275) -/

def fathomTile : Tile := ⟨mkTag 2 0, false, 0, 0⟩

/-- The entry behind an incoming link takes no further token: a reconfiguration token waits. -/
def Region.linkShut (r : Region) (e : Nat) (side : Dir) : Bool :=
  r.token.isSome && (match r.chainEnd 128 e side with
    | some (m, _) => (r.elem m).isMatrix
    | none => false)

/-- The head of a channel of a matrix element. Behind its whole tile, and behind the tokens that were on the array link at the injection,
an entry shows the fathom; the tokens of a tile that is not complete stand behind it (log entry 33). -/
def State.headTile (s : State) (r : Region) (e i : Nat) : Option Tile :=
  let m := (r.elem e).mat
  match m.inT i with
  | some t => some t
  | none =>
    if r.token.isSome && !m.fathomed && r.isEntry e i
        && (r.feeds e i).2.all (fun k => (s.wire k).flight.isEmpty && (s.wire k).bypass.isNone) then some fathomTile
    else none

end Sys2Proof.Machine
end

