-- ==== Sys2Proof/Machine/Freeze.lean ====
section
/-!
DEFINITION. Freeze.lean: the commit of a window (R352), the freeze of a region with its rolled-back state (R353 to R356, R363), and
the gating of a faulted region (R355).
-/
namespace Sys2Proof.Machine

/-! ## Commit -/

/-- Whether an access lets its window commit (R117, R352). A buffered store waits for the acquires of its element before it, so one that was
fired after a vld which still waits holds its window's commit (DESIGN CHOICE between R117 and R326: log entry 80). -/
def State.accSettled (s : State) (r : Region) (a : Acc) : Bool :=
  match a.kind, a.st with
  | .store, .ready x =>
    s.ordered r a && !s.scored r a && !storeBlocked s x a.size
      && (x.mt != 0 || s.isLocal x.pa || !s.maskHeld (pkgOf x.pa))
  | .vld, .waiting _ => true
  | _, .done => true
  | _, _ => false

/-- The oldest window can commit. -/
def State.commitReady (s : State) (r : Region) : Bool :=
  match r.wins with
  | [] => false
  | w :: _ =>
    w.closed && s.regionLive r && !r.raised.any (fun x => decide (x.serial < r.bound))
      && (r.accs.filter (fun a => decide (a.serial < r.bound))).all (fun a => s.accSettled r a)

/-- A buffered store is performed. -/
def State.commitStore (s : State) (r : Region) (a : Acc) : State :=
  match a.xlat with
  | none => s
  | some x =>
    if x.mt = 1 || s.isLocal x.pa then s.storeAt x (wideBytes a.data a.size)
    else if s.reachable (pkgOf x.pa) then (s.sendReq .write (.region r.id a.serial) r.ctx x.pa a.size (a.data.zeroExtend 512)).2
    else s.linkLost r.ctx x.pa

def commitStores (r : Region) : List Acc → State → State
  | [], s => s
  | a :: t, s => commitStores r t (if a.kind = .store then s.commitStore r a else s)

/-- The window's stores in journal order, then the window leaves. -/
def State.commitWindow (s : State) (r : Region) : State :=
  let s1 := commitStores r (r.accs.filter (fun a => decide (a.serial < r.bound))) s
  (s1.updRegion r.id (fun r1 =>
    let r2 : Region := { r1 with accs := r1.accs.filter (fun a => decide (r.bound ≤ a.serial) || a.kind != .store) }
    r2.dropWindow s.cyc)).pruneFences r.id

/-- WINDOW_COMMIT. -/
def execWindowCommit (region : Nat) (s : State) : Host.Outcome State Fault Refusal :=
  match s.region? region with
  | none => .next s
  | some r => .next (if s.commitReady r then s.commitWindow r else s)

/-! ## The rolled-back state -/

def Region.firstSnap (r : Region) : Snap :=
  match r.wins with
  | w :: _ => w.snap
  | [] => r.snapNow

/-- Element state at the opening of the older window; matrix elements have no windows. -/
def rollElems (old : AMap Elem) : AMap Elem → AMap Elem
  | [] => []
  | (k, e) :: t => (k, if e.isMatrix then e else AMap.getD old k e) :: rollElems old t

/-- Credits and suppressions that the staged packets of discarded firings took. -/
def unstage (first : Nat) : AMap Elem → Region → Region
  | [], r => r
  | (_, e) :: t, r =>
    unstage first t (match e.stage with
      | some p =>
        if p.src < first then r
        else if p.suppressed then { r with rsup := AMap.set r.rsup p.label (AMap.getD r.rsup p.label 0 + 1) }
        else { r with cred := AMap.set r.cred p.label (AMap.getD r.cred p.label 0 + 1) }
      | none => r)

/-- Adds the departures of discarded firings to the suppression counts (R356). -/
def countUp (first : Nat) : List (Nat × Nat) → AMap Nat → AMap Nat
  | [], m => m
  | (k, n) :: t, m => countUp first t (if n < first then m else AMap.set m k (AMap.getD m k 0 + 1))

/-- The atomics that raised REMOTE_APPLIED_ERR, with the responses to deliver in place of a second performance. -/
def appliedOf : List Raised → List Applied
  | [] => []
  | x :: t =>
    if x.applied then
      (match x.old with
      | some v => ⟨x.elem, x.slot, v.zeroExtend 256, false⟩
      | none => ⟨x.elem, x.slot, 0, true⟩) :: appliedOf t
    else appliedOf t

/-- Recorded responses that discarded firings took: the firings take them again (R154). -/
def keptOf (first : Nat) : List Acc → List Applied
  | [] => []
  | a :: t =>
    match a.kept with
    | some v => if first ≤ a.serial then ⟨a.elem, a.slot, v.1, v.2⟩ :: keptOf first t else keptOf first t
    | none => keptOf first t

/-- Arrivals that had not entered by the freeze stay behind the logged ones, for no replayed firing to take. -/
def heldBack (l : List LogEntry) : List LogEntry := l.map (fun p => { p with jidx := 4096 })

def Region.rollback (r : Region) (how : Freeze) : Region :=
  let sn := r.firstSnap
  let r1 := unstage sn.serial r.elems r
  { r1 with
    elems := rollElems sn.elems r.elems
    pend := r.log.drop sn.logged ++ heldBack r.pend
    rsup := countUp sn.serial r.leftLabel r1.rsup
    wsup := countUp sn.serial r.leftWire r.wsup
    leftWire := []
    leftLabel := []
    wins := []
    nextSnap := none
    log := []
    accs := r.accs.filter (fun a => decide (a.serial < sn.serial))
    fences := r.fences.filter (fun p => decide (p.2 < sn.serial))
    sweep := match r.sweep.map (fun w => { w with exits := w.exits.filter (fun p => decide (p.2 < sn.serial)) }) with
      | some w => if w.exits.isEmpty then none else some w
      | none => none
    unit := r.unit.map (fun u => { u with finAt := match u.finAt with
      | some n => if n < sn.serial then some n else none
      | none => none })
    applied := keptOf sn.serial r.accs ++ r.applied ++ appliedOf r.raised
    raised := []
    flagAt := none
    frozen := some how }

/-- Tokens of discarded firings leave the wires inside the region. -/
def dropWires (r : Region) (first : Nat) : AMap Wire → AMap Wire
  | [] => []
  | (k, w) :: t =>
    (k, if r.ownsWire k then
        { w with
          flight := w.flight.filter (fun f => decide (f.src < first))
          bypass := match w.bypass with
            | some b => if b.src < first then some b else none
            | none => none }
      else w) :: dropWires r first t

/-- What the package holds for firings from a serial on goes. -/
def State.withdraw (s : State) (r : Region) (first : Nat) : State :=
  let mine := fun (o : ReqOwner) => match o with
    | .region i n => i == r.id && decide (first ≤ n)
    | _ => false
  { s with
    wires := dropWires r first s.wires
    vldWaits := s.vldWaits.filter (fun w => match w.owner with
      | .region i n => !(i == r.id && decide (first ≤ n))
      | _ => true)
    vstQueue := s.vstQueue.filter (fun w => match w.owner with
      | .region i n => !(i == r.id && decide (first ≤ n))
      | _ => true)
    reqs := s.reqs.map (fun q => if q.kind != .write && mine q.owner then { q with owner := .other } else q) }

def State.rollback (s : State) (r : Region) (how : Freeze) : State :=
  (s.withdraw r r.firstSnap.serial).setRegion (r.rollback how)

/-- Index of a firing in the journal. -/
def jidxOf (n : Nat) : List JEntry → Nat
  | [] => 0
  | j :: t => if j.serial = n then 0 else jidxOf n t + 1

/-- The record of a frozen region: CLASS 1 at a firing, CLASS 2 by mst.frz (R363, R367). -/
def regionRecord (r : Region) (x : Raised) (cls : Nat) : FaultRec where
  cause := x.cause
  cls := cls
  applied := x.applied
  oldv := x.old.isSome
  mkind := 0
  ctx := r.ctx
  mid := midRegion r.word
  addr := x.addr
  loc := if cls = 2 then r.loc 0 else r.loc x.elem
  jidx := if cls = 2 then 0 else if r.journal.any (fun j => j.serial == x.serial) then jidxOf x.serial r.journal else 0
  slot := if cls = 2 then 0 else x.slot
  old := x.old.getD 0
  seen := some x.cycle

/-- Posts the event of a window fault, or keeps it until the queue has room (R222). -/
def State.postFault (s : State) (r : Region) (x : Raised) : State :=
  let e : Event := ⟨r.id, r.word, r.ctx, x.cause, x.addr⟩
  if (s.core r.owner).events.length < Config.eventQueueSize then s.postEvent r.owner e
  else s.updRegion r.id (fun r1 => { r1 with unposted := some e })

/-- Freezes a region: windows discarded, record written, and for a window fault the event posted. -/
def State.freezeRegion (s : State) (r : Region) (how : Freeze) (x : Raised) (cls : Nat) : State :=
  let s1 := (s.rollback r how).updRegion r.id (fun r1 => { r1 with faultCause := x.cause, faultAddr := x.addr })
  let s2 := s1.record (regionRecord r x cls)
  if how = .windowFault then s2.postFault r x else s2

/-- Slot of a journaled firing. -/
def slotOf (n : Nat) (l : List JEntry) : Nat :=
  match l.find? (fun j => j.serial == n) with
  | some j => j.slot
  | none => 0

/-- A freeze with ISOLATION_FREEZE at a token or a packet (R34, R238): the record names the firing that produced it (R363). -/
def State.isolateRegion (s : State) (id elem serial : Nat) : State :=
  match s.region? id with
  | none => s
  | some r => s.freezeRegion r .isolation ⟨serial, elem, slotOf serial r.journal, Cause.isolationFreeze, 0, s.cyc, false, false, none⟩ 1

/-- The flag that counts: the first set, and of those the lowest journal index. -/
def firstRaised : List Raised → Option Raised
  | [] => none
  | x :: t =>
    match firstRaised t with
    | none => some x
    | some y => if y.cycle < x.cycle || (y.cycle = x.cycle && y.serial < x.serial) then some y else some x

/-- An unbuffered access is on its way to another package. -/
def Region.awayUnbuffered (r : Region) : Bool :=
  r.accs.any (fun a => a.kind.unbuffered && (match a.st with
    | .remote _ => true
    | _ => false))

/-- REGION_CLOCK_GATE: from cycle d + 12. -/
def execRegionClockGate (region : Nat) (s : State) : Host.Outcome State Fault Refusal :=
  match s.region? region with
  | none => .next s
  | some r =>
    match r.flagAt, firstRaised r.raised with
    | some d, some x =>
      if s.cyc < d + 12 || r.frozen.isSome || r.awayUnbuffered then .next s
      else .next (s.freezeRegion r (if x.cause = Cause.isolationFreeze then .isolation else .windowFault) x 1)
    | _, _ => .next s

end Sys2Proof.Machine
end

