-- ==== Sys2Proof/Machine/Net.lean ====
section
/-!
DEFINITION. Net.lean: circuit links and boundary ends (R228 to R239), memory-backed queues (R240 to R246), task packets (R247 to
R254), and the end of a sweep (R139).
-/
namespace Sys2Proof.Machine

/-! ## Taking a token (R230) -/

/-- The token in front of an outgoing wire. -/
def State.outFront (s : State) (r : Region) (e : Nat) (side : Dir) : Option Entry :=
  match (r.elem e).driver side with
  | .out o => ((r.elem e).outch o).q.head?
  | .bypass => (s.wire (wireKey (r.loc e) side)).bypass
  | .none => none

/-- The token an outgoing wire would take, visible since an earlier cycle. -/
def State.outHead (s : State) (r : Region) (e : Nat) (side : Dir) : Option Entry :=
  match s.outFront r e side with
  | some t => if t.at_ < s.cyc then some t else none
  | none => none

/-- A token of an older firing leaves the element states kept for a roll-back. -/
def Snap.dropOut (e o src : Nat) (n : Snap) : Snap :=
  if src < n.serial then
    { n with elems := AMap.set n.elems e ((AMap.getD n.elems e {}).setOut o
        { ((AMap.getD n.elems e {}).outch o) with q := ((AMap.getD n.elems e {}).outch o).q.drop 1 }) }
  else n
def Snap.dropStage (e src : Nat) (n : Snap) : Snap :=
  if src < n.serial then { n with elems := AMap.set n.elems e { AMap.getD n.elems e {} with stage := none } } else n
def Region.mapSnaps (r : Region) (f : Snap → Snap) : Region :=
  { r with wins := r.wins.map (fun w => { w with snap := f w.snap }), nextSnap := r.nextSnap.map f }

/-- Removes the head an outgoing wire takes. -/
def State.dropHead (s : State) (r : Region) (e : Nat) (side : Dir) (src : Nat) : State :=
  let key := wireKey (r.loc e) side
  match (r.elem e).driver side with
  | .out o =>
    let c := (r.elem e).outch o
    let r1 := r.updElem e (fun x => x.setOut o { q := c.q.drop 1, freed := c.freed.filter (fun d => decide (s.cyc ≤ d)) ++ [s.cyc] })
    s.setRegion (if (r.elem e).isMatrix then r1 else r1.mapSnaps (Snap.dropOut e o src))
  | .bypass => s.updWire key (fun w => { w with bypass := none, freed := w.freed.filter (fun d => decide (s.cyc < d + 6)) ++ [s.cyc] })
  | .none => s

def stamps (now l : Nat) (freed : List Nat) : Nat := (freed.filter (fun d => decide (now < d + l))).length

/-- Whether a sender holds a credit for the consumer of an incoming link; `away` tokens have claimed entries already. -/
def State.hasCredit (s : State) (r : Region) (e : Nat) (side : Dir) (away l : Nat) : Bool :=
  match (r.elem e).consumer side with
  | .chan i =>
    let c := (r.elem e).inch i
    if (r.elem e).isMatrix then away == 0 && ((r.elem e).mat.inT i).isNone
    else decide (c.q.length + away + stamps s.cyc l c.freed < 4)
  | .bypass =>
    let w := s.wire (wireKey (r.loc e) side.opposite)
    decide ((if w.bypass.isSome then 1 else 0) + away + stamps s.cyc l w.freed < 1)
  | .none => false

/-- Whether the sender outside holds a credit for the end bound at one side of an element: what is under way has claimed its entries
already, a full arrival log withholds it (R230, R238, R354). The latency of a port's link is the model's choice (log entry 74). -/
def State.endCredit (s : State) (r : Region) (e : Nat) (side : Dir) : Bool :=
  !r.logShut && (match r.far e side with
    | .tie m =>
      let w := s.wire (wireKey m side.opposite)
      let away := w.flight.length + w.buffer.length
      decide (away < 4) && (away == 0 || w.bufferCtx == r.ctx) && s.hasCredit r e side away (linkLatency (r.loc e) m)
    | .port p => s.hasCredit r e side (s.port p).fly.length 1
    | .island k => s.hasCredit r e side (s.link k).fly.length 2
    | _ => s.hasCredit r e side 0 1)

/-- A wire leaves the region, or leads into or out of its matrix array (R239, R352, R356). -/
def Region.crosses (r : Region) (e : Nat) (side : Dir) : Bool :=
  match r.far e side with
  | .mesh e2 => (r.elem e).isMatrix != (r.elem e2).isMatrix
  | _ => true

/-- A token of a firing leaves on a wire. -/
def Region.leaves (r : Region) (key src : Nat) : Region :=
  if src != 0 && r.uncommitted src then { r with leftWire := r.leftWire ++ [(key, src)] } else r

def State.fly (s : State) (key : Nat) (t : Entry) (due src ctx : Nat) : State :=
  let f : Flight := ⟨t.tok, due, src⟩
  s.updWire key (fun w => { w with flight := w.flight ++ [f], bufferCtx := ctx, lastTake := s.cyc + 1 })

/-- The token leaves its channel, and the departure is noted. -/
def State.takeHead (s : State) (r : Region) (e : Nat) (side : Dir) (src : Nat) : State :=
  let key := wireKey (r.loc e) side
  let s1 := (s.dropHead r e side src).updWire key (fun w => { w with lastTake := s.cyc + 1 })
  if r.crosses e side then s1.updRegion r.id (fun r1 => r1.leaves key src) else s1

/-- A reproduced token is discarded at the boundary (R356). -/
def State.suppressTake (s : State) (r : Region) (e : Nat) (side : Dir) (src : Nat) : State :=
  let key := wireKey (r.loc e) side
  (s.takeHead r e side src).updRegion r.id (fun r1 => { r1 with wsup := AMap.set r1.wsup key (AMap.getD r1.wsup key 0 - 1) })

/-- A wire to the grid neighbour across a boundary (R238). The neighbour is there until its reconfiguration token passes (DESIGN CHOICE: log
entry 79). -/
def State.tieTake (s : State) (r : Region) (e : Nat) (side : Dir) (m : Nat) (t : Entry) : State :=
  let key := wireKey (r.loc e) side
  let w := s.wire key
  let l := linkLatency (r.loc e) m
  let away := w.flight.length + w.buffer.length
  let free := decide (away < 4) && (away == 0 || w.bufferCtx == r.ctx)
  let go := (s.takeHead r e side t.src).fly key t (s.cyc + l) 0 r.ctx
  match s.at? m with
  | some (q, e2) =>
    if q.ctx != r.ctx then s.isolateRegion r.id e t.src
    else if q.far e2 side.opposite = .tie (r.loc e) then
      (if s.endCredit q e2 side.opposite then go else s)
    else if free then go else s
  | none => if free then go else s

/-- An element of the region acts; a matrix array still drains while its region is frozen (R275, R358). -/
def State.sideLive (s : State) (r : Region) (e : Nat) : Bool :=
  s.regionLive r || ((r.elem e).isMatrix && r.token.isSome && r.frozen.isSome && !s.downBays.contains r.bay)

/-- What is on its way goes on into a link: its region acts, or is frozen while the array behind the link drains (R275, R277). -/
def State.linkLive (s : State) (r : Region) (e : Nat) (side : Dir) : Bool :=
  s.regionLive r || (r.frozen.isSome && r.linkShut e side && !s.downBays.contains r.bay)
/-- The bypass that feeds such a link passes its token on. -/
def State.bypassLive (s : State) (r : Region) (e : Nat) (side : Dir) : Bool :=
  (r.elem e).driver side == .bypass && (match r.far e side with
    | .mesh e2 => s.linkLive r e2 side.opposite
    | _ => false)

/-- A tile moves whole between two elements of the array (R264). -/
def State.tileTake (s : State) (r : Region) (e : Nat) (side : Dir) : State :=
  match (r.elem e).driver side with
  | .out o =>
    (match (r.elem e).mat.outT o, r.tileDest e o with
    | some t, some (m, i) =>
      if s.sideLive r e && ((r.elem m).mat.inT i).isNone then
        let r1 := r.updElem e (fun x => { x with mat := x.mat.setOutT o none })
        s.setRegion (r1.updElem m (fun x => { x with mat := x.mat.setInT i (some t) }))
      else s
    | _, _ => s)
  | _ => s

/-- A sender of the region waits behind the fathom of an entry (R275). -/
def Region.heldAtEntry (r : Region) (e : Nat) (side : Dir) : Bool :=
  match (r.elem e).driver side, r.far e side with
  | .out _, .mesh e2 => r.linkShut e2 side.opposite
  | _, _ => false

/-- The wire on a side takes its token, at most one a cycle. -/
def State.wireTake (s : State) (r : Region) (e : Nat) (side : Dir) : State :=
  let key := wireKey (r.loc e) side
  let w := s.wire key
  match s.outHead r e side with
  | none => if (r.elem e).isMatrix then s.tileTake r e side else s
  | some t =>
    let crossing := r.crosses e side
    if s.cyc < w.lastTake || !(s.sideLive r e || s.bypassLive r e side) || s.fenced r e t.src || r.heldAtEntry e side then s
    else if crossing && isFathom t.tok.tag then s.takeHead r e side 0
    else if crossing && t.src != 0 && AMap.getD r.wsup key 0 != 0 then s.suppressTake r e side t.src
    else
      match r.far e side with
      | .mesh e2 =>
        let l := linkLatency (r.loc e) (r.loc e2)
        if s.hasCredit r e2 side.opposite w.flight.length l && !(crossing && r.logShut) then
          (s.takeHead r e side t.src).fly key t (s.cyc + l) (if crossing then 0 else t.src) r.ctx
        else s
      | .sink => s.takeHead r e side t.src
      | .tie m => s.tieTake r e side m t
      | .port p =>
        if (s.port p).toMem.length < portRoom then (s.takeHead r e side t.src).updPort p (fun x => { x with toMem := x.toMem ++ [t.tok] })
        else s
      | .island k =>
        let x := s.link k
        if x.inq.length + stamps s.cyc 2 x.freed < linkSlots k then
          let en : Entry := ⟨t.tok, s.cyc + 2, 0⟩
          (s.takeHead r e side t.src).updLink k (fun x => { x with inq := x.inq ++ [en] })
        else s
      | _ => s

/-! ## Arrival (R229, R238, R354) -/

/-- A token enters the consumer of an incoming link, when there is room. -/
def State.enterAny (s : State) (r : Region) (e : Nat) (side : Dir) (t : Token) (at_ src : Nat) : Option State :=
  match (r.elem e).consumer side with
  | .chan i =>
    let c := (r.elem e).inch i
    if (r.elem e).isMatrix then ((r.elem e).takeTok i t).map (fun x => s.setRegion (r.setElem e x))
    else if 4 ≤ c.q.length || r.pendingChan e i || (r.logsToken src && r.logShut) then none
    else
      let r1 := r.updElem e (fun x => x.setIn i { x.inch i with freed := (x.inch i).freed.filter (fun d => decide (s.cyc < d + 6)) })
      some (s.setRegion (r1.putToken at_ e i t src))
  | .bypass =>
    let k := wireKey (r.loc e) side.opposite
    let b : Entry := ⟨t, at_, src⟩
    if (s.wire k).bypass.isSome then none
    else if r.swept t.tag then some s
    else some (s.updWire k (fun w => { w with bypass := some b }))
  | .none => none

/-- A token enters the consumer of an incoming link of a region whose elements act, or, of a frozen one, a link that leads to an entry of
the array that drains. -/
def State.enterIn (s : State) (r : Region) (e : Nat) (side : Dir) (t : Token) (at_ src : Nat) : Option State :=
  if s.linkLive r e side then s.enterAny r e side t at_ src else none

/-- Tokens due on a wire move to its boundary buffer. -/
def Wire.land (now : Nat) (w : Wire) : Wire :=
  let due := w.flight.filter (fun f => decide (f.due ≤ now))
  { w with flight := w.flight.filter (fun f => decide (now < f.due)), buffer := w.buffer ++ due.map (fun f => ⟨f.tok, f.due, 0⟩) }

/-- Held tokens enter in order, as far as they can. A region counts as reconfiguring from the passage of its token on: between injection and
passage they still enter the outgoing configuration (DESIGN CHOICE: R44 and R238 do not say which; log entry 79). -/
def State.drainBuffer (s : State) (id e : Nat) (side : Dir) (key from_ : Nat) : Nat → State
  | 0 => s
  | n + 1 =>
    match s.region? id, (s.wire key).buffer with
    | some r, t :: rest =>
      if (s.wire key).bufferCtx != r.ctx || r.linkShut e side then s
      else
        match s.enterIn r e side t.tok (max t.at_ from_) 0 with
        | some s1 => State.drainBuffer (s1.updWire key (fun w => { w with buffer := rest })) id e side key from_ n
        | none => s
    | _, _ => s

/-- Tokens in flight inside a region enter their consumer in order once they are due. A token is stamped with the cycle it is due in,
or, where something held it back, with the first of the cycles that pass now. -/
def arriveMesh (id e : Nat) (side : Dir) (k from_ : Nat) : List Flight → State → State
  | [], s => s
  | f :: rest, s =>
    match s.region? id with
    | none => s
    | some r =>
      if s.cyc < f.due then s
      else
        match s.enterIn r e side f.tok (max f.due from_) f.src with
        | some s1 => arriveMesh id e side k from_ rest (s1.updWire k (fun w => { w with flight := rest }))
        | none => s

/-- Tokens due on the wire of an island or a port enter the element. -/
def arriveEnd (id e : Nat) (side : Dir) (from_ : Nat) (drop : List Flight → State → State) : List Flight → State → State
  | [], s => s
  | f :: rest, s =>
    match s.region? id with
    | none => s
    | some r =>
      if s.cyc < f.due || r.linkShut e side then s
      else
        match s.enterIn r e side f.tok (max f.due from_) 0 with
        | some s1 => arriveEnd id e side from_ drop rest (drop rest s1)
        | none => s

/-- Everything due at one side of an element of a region. -/
def State.arriveSide (s : State) (r : Region) (e : Nat) (side : Dir) (from_ : Nat) : State :=
  match r.far e side with
  | .mesh e2 =>
    let k := wireKey (r.loc e2) side.opposite
    arriveMesh r.id e side k from_ (s.wire k).flight s
  | .tie m =>
    let k := wireKey m side.opposite
    (s.updWire k (Wire.land s.cyc)).drainBuffer r.id e side k from_ 8
  | .port p => arriveEnd r.id e side from_ (fun l s1 => s1.updPort p (fun x => { x with fly := l })) (s.port p).fly s
  | .island k => arriveEnd r.id e side from_ (fun l s1 => s1.updLink k (fun x => { x with fly := l })) (s.link k).fly s
  | _ => s

/-- The wire out of a port or an island takes a token: one a cycle, against the credits of the consumer (R230, R234). -/
def State.endSend (s : State) (r : Region) (e : Nat) (side : Dir) : State :=
  match r.far e side with
  | .port p =>
    (match (s.port p).toRegion with
    | t :: rest =>
      if s.cyc < (s.port p).lastOut || r.linkShut e side || !s.regionLive r || !s.endCredit r e side then s
      else
        let f : Flight := ⟨t, s.cyc + 1, 0⟩
        s.updPort p (fun x => { x with toRegion := rest, fly := x.fly ++ [f], lastOut := s.cyc + 1 })
    | [] => s)
  | .island k =>
    (match (s.link k).outq with
    | t :: rest =>
      if s.cyc < (s.link k).lastOut || r.linkShut e side || !s.regionLive r || !s.endCredit r e side then s
      else
        let f : Flight := ⟨t, s.cyc + 2, 0⟩
        s.updLink k (fun x => { x with outq := rest, fly := x.fly ++ [f], lastOut := s.cyc + 1 })
    | [] => s)
  | _ => s

/-- What arrives at one side of an element, and what the end bound there sends. -/
def State.wireArrive (s : State) (r : Region) (e : Nat) (side : Dir) : State :=
  let s1 := s.arriveSide r e side s.cyc
  match s1.region? r.id with
  | some r1 => s1.endSend r1 e side
  | none => s1

/-- A wire whose far end no element of a tied region takes: its tokens reach the boundary buffer (R238). -/
def State.landAt (s : State) (k : Nat) : State := s.updWire k (Wire.land s.cyc)

/-- Everything due on one wire (R229, R238). -/
def State.arriveKey (from_ : Nat) (s : State) (k : Nat) : State :=
  if (s.wire k).flight.isEmpty && (s.wire k).buffer.isEmpty then s
  else
    match neighbour (k / 4) (Dir.ofCode k) with
    | none => s
    | some m =>
      match s.at? m with
      | none => s.landAt k
      | some (q, e) =>
        match q.far e (Dir.ofCode k).opposite with
        | .mesh _ | .tie _ => s.arriveSide q e (Dir.ofCode k).opposite from_
        | _ => s.landAt k

/-- The sides of a region to which an island or a port is bound. -/
def Region.endSides (r : Region) : List (Nat × Dir) :=
  (r.binds.filter (fun w => bindEp w == 2 || bindEp w == 3)).map (fun w => (bindElem w, bindDir w))

def State.arriveEnds (from_ : Nat) (s : State) (id : Nat) : State :=
  match s.region? id with
  | none => s
  | some r => r.endSides.foldl (fun u p =>
      match u.region? id with
      | some r1 => u.arriveSide r1 p.1 p.2 from_
      | none => u) s

/-- Pending arrivals of every region that has some enter as far as they can (R358). -/
def State.settleAll (s : State) (now : Nat) : State :=
  { s with regions := s.regions.map (fun r => if r.pend.isEmpty then r else r.settle now) }

/-- Cycles have passed: every token that is due has arrived (R229). -/
def State.arrivals (s : State) (from_ : Nat) : State :=
  (s.regions.map (fun r => r.id)).foldl (State.arriveEnds from_) ((s.wires.map (fun p => p.1)).foldl (State.arriveKey from_) s)

/-- LINK_TOKEN_ARRIVAL: a wire takes a token, or a token enters the receiving element. -/
def execLinkTokenArrival (region elem : Nat) (side : Dir) (half : WireStep) (s : State) : Host.Outcome State Fault Refusal :=
  match s.region? region with
  | none => .next s
  | some r =>
    match half with
    | .take => .next (s.wireTake r elem side)
    | .arrive => .next (s.wireArrive r elem side)

/-! ## Packets -/

/-- The header of R247 with its destination open. -/
def packetHeader (r : Region) (e label inbox : Nat) (mc : Bool) (p : Packet) : DWord :=
  BitVec.ofNat 64 (2 ^ 58 * (r.ctx % 64) + 2 ^ 50 * p.tag.toNat + (if p.two then 2 ^ 49 else 0) + (if mc then 2 ^ 48 else 0)
    + 2 ^ 41 * (label % 128) + 2 ^ 39 * (inbox % 4) + 2 ^ 11 * (r.loc e % 2 ^ 14))
def headerCtx (h : DWord) : Nat := bits h.toNat 63 58

/-- A staged packet leaves its element, whose stage is free from the next cycle, and the departure is noted. -/
def Region.unstageElem (r : Region) (now e : Nat) (p : Staged) : Region :=
  let r1 := (r.updElem e (fun x => { x with stage := none, stageFreed := now + 1 })).mapSnaps (Snap.dropStage e p.src)
  if r.uncommitted p.src then { r1 with leftLabel := r1.leftLabel ++ [(p.label, p.src)] } else r1

/-- The router accepts a staged packet (R141, R254); a suppressed one is discarded (R356). -/
def State.acceptPacket (s : State) (r : Region) (e : Nat) : State :=
  match (r.elem e).stage with
  | none => s
  | some p =>
    if !s.regionLive r || s.fenced r e p.src then s
    else
      let w := r.route p.label
      let r2 := r.unstageElem s.cyc e p
      if p.suppressed then s.setRegion r2
      else
        let ds := routeDests r w
        let pkt : Packet := { p.pkt with header := packetHeader r e p.label (routeInbox w) (routeType w == 2) p.pkt }
        let f : PacketFlight := ⟨s.nextId, pkt, r.id, r.inst, p.label, ds, ds, routeInbox w, ds.length⟩
        { (s.setRegion r2) with nextId := s.nextId + 1, flights := s.flights ++ [f] }

/-- Two packets bound for one inbox whose order is fixed by the sender (R253): the quads send, whichever configuration they hold. -/
def sameStream (a b : PacketFlight) : Bool :=
  a.region == b.region && (a.label == b.label || (!a.pkt.header.getLsbD 48 && !b.pkt.header.getLsbD 48))
/-- Destinations that two packets share. -/
def PacketFlight.meets (a b : PacketFlight) : Bool := a.all.any (fun d => b.all.contains d)
/-- The packet has reached one of the destinations it shares with another. -/
def begunWith (a b : PacketFlight) : Bool :=
  a.all.any (fun d => b.all.contains d && !a.dests.contains d && a.inbox == b.inbox)
def bothMulti (a b : PacketFlight) : Bool := a.pkt.header.getLsbD 48 && b.pkt.header.getLsbD 48

/-- The flights before one in the sending order, and whether a copy for d may go now (R253, R254). -/
def mayLand (f : PacketFlight) (d : Nat) : List PacketFlight → Bool
  | [] => true
  | a :: t =>
    if a.id = f.id then true
    else
      (if a.dests.contains d && a.inbox == f.inbox then
          (if sameStream a f then false else if bothMulti a f then !begunWith a f else true)
        else true)
      && mayLand f d t

/-- f passes the switches before every multicast it overlaps that has not begun. -/
def moveUp (f : PacketFlight) : List PacketFlight → List PacketFlight
  | [] => []
  | a :: t =>
    if a.id = f.id then a :: t
    else if bothMulti a f && !sameStream a f && !begunWith a f && a.meets f then
      f :: a :: t.filter (fun x => x.id != f.id)
    else a :: moveUp f t

/-- Between a packet that f would overtake and f, nothing that shares a destination has begun. -/
def overtakes (f : PacketFlight) : List PacketFlight → Bool
  | [] => true
  | a :: t =>
    if a.id = f.id then true
    else if bothMulti a f && !sameStream a f && !begunWith a f && a.meets f then
      (t.takeWhile (fun x => x.id != f.id)).all (fun x => !(x.meets f) || !begunWith x f && !sameStream x f)
    else overtakes f t

/-- The credit of a packet returns to the configuration that sent it, if it is still there. -/
def State.payBack (s : State) (f : PacketFlight) : State :=
  s.updRegion f.region (fun r => if r.inst = f.inst then r.giveCredit s.cyc f.label else r)

/-- One copy fewer is owed; the credit returns with the last (R250). -/
def State.returnCredit (s : State) (id : Nat) : State :=
  match s.flights.find? (fun f => f.id == id) with
  | none => s
  | some f =>
    if f.owed ≤ 1 then
      ({ s with flights := s.flights.filter (fun x => x.id != id) }).payBack f
    else { s with flights := s.flights.map (fun x => if x.id = id then { x with owed := x.owed - 1 } else x) }

def landKey (loc k : Nat) : Nat := 4 * loc + k
def State.landing (s : State) (k : Nat) : List Landed := AMap.getD s.landings k []
def State.setLanding (s : State) (k : Nat) (l : List Landed) : State :=
  { s with landings := if l.isEmpty then AMap.erase s.landings k else AMap.set s.landings k l }

def packetDiscard (h : DWord) (loc : Nat) : FaultRec :=
  { cause := Cause.warnPacketDiscard, cls := 3, mkind := 4, ctx := headerCtx h, loc := loc }

/-- A copy reaches the landing queue of one destination; toward a region of another context it is discarded (R251). -/
def State.landPacket (s : State) (id d : Nat) : State :=
  match s.flights.find? (fun f => f.id == id) with
  | none => s
  | some f =>
    let k := landKey d f.inbox
    if !f.dests.contains d || !mayLand f d s.flights || !overtakes f s.flights || s.downBays.contains (d / 4096) then s
    else
      let s0 : State := { s with flights := if bothMulti f f then moveUp f s.flights else s.flights }
      let s1 : State := { s0 with flights := s0.flights.map (fun x => if x.id = id then { x with dests := x.dests.filter (fun y => y != d) } else x) }
      let h := f.pkt.header ||| BitVec.ofNat 64 (2 ^ 25 * (d % 2 ^ 14))
      match s.at? d with
      | some (q, _) =>
        if q.ctx != headerCtx f.pkt.header then (s1.returnCredit id).record (packetDiscard h d)
        else if 8 ≤ (s.landing k).length then s
        else
          let l : Landed := ⟨{ f.pkt with header := h }, id, s.cyc⟩
          s1.setLanding k (s1.landing k ++ [l])
      | none =>
        if 8 ≤ (s.landing k).length then s
        else
          let l : Landed := ⟨{ f.pkt with header := h }, id, s.cyc⟩
          s1.setLanding k (s1.landing k ++ [l])

/-- PACKET_ARRIVAL. -/
def execPacketArrival (move : PacketStep) (s : State) : Host.Outcome State Fault Refusal :=
  match move with
  | .accept region elem =>
    (match s.region? region with
    | none => .next s
    | some r => .next (s.acceptPacket r elem))
  | .deliver pkt dest => .next (s.landPacket pkt dest)

/-- LANDING_QUEUE_PASS (R250 to R252): at most one packet a cycle into an inbox. -/
def execLandingQueuePass (loc inbox : Nat) (s : State) : Host.Outcome State Fault Refusal :=
  let k := landKey loc inbox
  match s.landing k, s.at? loc with
  | l :: rest, some (r, e) =>
    if r.ctx != headerCtx l.pkt.header then
      .next (((s.setLanding k rest).returnCredit l.flight).record (packetDiscard l.pkt.header loc))
    else if !s.regionLive r || (r.elem e).boxRoom s.cyc inbox = 0 || r.pendingBox e inbox || r.logShut
        || ((r.elem e).box inbox).any (fun b => b.at_ == s.cyc) then .next s
    else .next (((s.setLanding k rest).setRegion (r.putPacket s.cyc e inbox l.pkt)).returnCredit l.flight)
  | _, _ => .next s

/-! ## Memory-backed queues (R240 to R244) -/

def qKey (e : Nat) (side : Dir) : Nat := 4 * e + side.toNat
def recBytes (wide : Bool) (t : Token) : List Byte :=
  if wide then leBytes t.val.toNat 32 ++ [t.tag] ++ leBytes 0 31 else leBytes (lane t.val 0).toNat 4 ++ [t.tag] ++ leBytes 0 3
def QEnd.recSize (q : QEnd) : Nat := if q.wide then 64 else 8

/-- The address of record n of a queue. -/
def QEnd.recAt (q : QEnd) (n : Nat) : Nat := q.ring + n % 2 ^ q.log2n * q.recSize
def Region.setEnd (r : Region) (k : Nat) (q : QEnd) : Region := { r with qends := AMap.set r.qends k q }

/-- The token at the wire becomes record `produced` of a queue in another package. One record is on its way at a time: PRODUCED moves, and
the next follows, once its home has it, so that records are told of in order and one that a link lost is not (R243, R441). -/
def State.qoutAway (s s1 : State) (r : Region) (q : QEnd) (t : Token) : State :=
  if s.maskHeld (pkgOf q.desc) || s.reqs.any (fun x => x.kind == .record && x.owner == .queue r.id r.inst && x.addr == q.recAt q.produced) then s
  else if !s.reachable (pkgOf q.desc) then s1.linkLost r.ctx (q.recAt q.produced)
  else (s1.sendReq .record (.queue r.id r.inst) r.ctx (q.recAt q.produced) q.recSize (BitVec.ofNat 512 (leNat (recBytes q.wide t)))).2

/-- The far descriptor is told how many records there are. -/
def State.tellProduced (s : State) (r : Region) (k : Nat) (q : QEnd) : State :=
  if s.maskHeld (pkgOf q.desc) then s
  else
    let s1 := s.setRegion (r.setEnd k { q with told := q.produced })
    if !s.reachable (pkgOf q.desc) then s1.linkLost r.ctx (q.desc + 0x10)
    else (s1.sendReq .produced (.queue r.id r.inst) r.ctx (q.desc + 0x10) 8 (BitVec.ofNat 512 q.produced)).2

/-- QOUT_RECORD_WRITE: the token at the wire becomes a record. A queue in another package is written over Agfel, against the
local copy of CONSUMED (R441). -/
def execQoutRecordWrite (region elem : Nat) (side : Dir) (reply : Reply) (s : State) : Host.Outcome State Fault Refusal :=
  let _ := reply
  match s.region? region with
  | none => .next s
  | some r =>
    let key := wireKey (r.loc elem) side
    match AMap.find? r.qends (qKey elem side) with
    | none => .next s
    | some q =>
      let away := !s.isLocal q.desc
      if q.out && away && q.told != q.produced then .next (s.tellProduced r (qKey elem side) q)
      else
        match s.outHead r elem side with
        | none => .next s
        | some t =>
          let prod := if away then q.produced else s.fabNat (lowOf q.desc + 0x10) 8
          let cons := if away then q.consumedCopy else s.fabNat (lowOf q.desc + 0x18) 8
          let busy := s.cyc < (s.wire key).lastTake || !s.sideLive r elem || s.fenced r elem t.src || !q.out
          if busy then .next s
          else if isFathom t.tok.tag then .next (s.takeHead r elem side 0)
          else if t.src != 0 && AMap.getD r.wsup key 0 != 0 then .next (s.suppressTake r elem side t.src)
          else if 2 ^ q.log2n ≤ (prod + 2 ^ 64 - cons) % 2 ^ 64 then .next s
          else
            let s1 := s.takeHead r elem side t.src
            if away then .next (s.qoutAway s1 r q t.tok)
            else
              .next ((s1.partWrite (lowOf (q.recAt prod)) (recBytes q.wide t.tok)).partWrite (lowOf q.desc + 0x10) (leBytes (prod + 1) 8))

/-- The home of a queue in another package has a record: it counts. -/
def Region.recordDone (r : Region) (addr : Nat) : Region :=
  { r with qends := r.qends.map (fun p =>
      if p.2.out && p.2.recAt p.2.produced == addr then (p.1, { p.2 with produced := (p.2.produced + 1) % 2 ^ 64 }) else p) }
def State.recordDone (s : State) (q : Req) (id inst : Nat) : State :=
  s.updRegion id (fun r => if q.kind = .record && r.inst = inst then r.recordDone q.addr else r)

/-- The record a QIN end delivers, poison included (R243). -/
def State.recordTok (s : State) (q : QEnd) (pa : Nat) : Token :=
  let tagAt := if q.wide then pa + 32 else pa + 4
  let tag := BitVec.ofNat 8 (s.fabNat tagAt 1)
  if s.poisonedAt pa q.recSize then
    ⟨0, mkTag 3 (if s.poisonedAt tagAt 1 then 0 else levelOf tag)⟩
  else if q.wide then ⟨BitVec.ofNat 256 (s.fabNat pa 32), tag⟩ else ⟨BitVec.ofNat 256 (s.fabNat pa 4), tag⟩

/-- CONSUMED moves on, and a QOUT end that another package bound hears of it (R243, R441). -/
def State.setConsumed (s : State) (q : QEnd) (ctx n : Nat) : State :=
  let s1 := s.partWrite (lowOf q.desc + 0x18) (leBytes n 8)
  match s.farEnds.find? (fun f => f.out && f.desc == lowOf q.desc) with
  | some f =>
    let dpa := 2 ^ 40 * f.package + lowOf q.desc + 0x18
    if s.reachable f.package then (s1.sendReq .consumed .other ctx dpa 8 (BitVec.ofNat 512 n)).2 else s1.linkLost ctx dpa
  | none => s1
/-- The package that bound the far end cannot be told now: a new route mask for it waits (R442). -/
def State.farHeld (s : State) (q : QEnd) : Bool := s.farEnds.any (fun f => f.out && f.desc == lowOf q.desc && s.maskHeld f.package)

/-- QIN_RECORD_DELIVER. A fathom is absorbed at the end (R239). -/
def execQinRecordDeliver (region elem : Nat) (side : Dir) (reply : Reply) (s : State) : Host.Outcome State Fault Refusal :=
  let _ := reply
  match s.region? region with
  | none => .next s
  | some r =>
    match AMap.find? r.qends (qKey elem side) with
    | none => .next s
    | some q =>
      let key := wireKey (r.loc elem) side
      let prod := s.fabNat (lowOf q.desc + 0x10) 8
      let cons := s.fabNat (lowOf q.desc + 0x18) 8
      if q.out || prod = cons || s.farHeld q || s.cyc < (s.wire key).lastTake || r.linkShut elem side || !s.endCredit r elem side then .next s
      else
        let tok := s.recordTok q (lowOf (q.ring + cons % 2 ^ q.log2n * q.recSize))
        let taken := if isFathom tok.tag then some s else s.enterIn r elem side tok s.cyc 0
        match taken with
        | none => .next s
        | some s1 => .next ((s1.setConsumed q r.ctx (cons + 1)).updWire key (fun w => { w with lastTake := s.cyc + 1 }))

/-- CONSUMED_COPY_UPDATE (R441): an accepted flit brings it. -/
def execConsumedCopyUpdate (region elem : Nat) (side : Dir) (reply : Reply) (s : State) : Host.Outcome State Fault Refusal :=
  match s.region? region with
  | none => .next s
  | some r =>
    match AMap.find? r.qends (qKey elem side) with
    | none => .next s
    | some q =>
      match (if q.out && !s.isLocal q.desc then s.takePeer else none) with
      | some s1 =>
        let q1 : QEnd := { q with consumedCopy := (reply.data.extractLsb' 0 64).toNat }
        .next (s1.setRegion { r with qends := AMap.set r.qends (qKey elem side) q1 })
      | none => .next s

/-! ## Sweeps (R139) -/

/-- Later tokens leave the wires that lead to elements of the region, their bypass buffers and boundary buffers. -/
def sweepWires (r : Region) (exit : Nat) : AMap Wire → AMap Wire
  | [] => []
  | (k, w) :: t =>
    let into := match neighbour (k / 4) (Dir.ofCode k) with
      | some m => r.holds m
      | none => false
    let w1 : Wire := if r.ownsWire k then
        { w with bypass := (match w.bypass with
            | some b => (if sweepTok exit b.tok then some b else none)
            | none => none) }
      else w
    let w2 : Wire := if into then
        { w1 with
          flight := w1.flight.filter (fun f => sweepTok exit f.tok)
          buffer := w1.buffer.filter (fun b => sweepTok exit b.tok) }
      else w1
    (k, w2) :: sweepWires r exit t

def returnAll : List Landed → State → State
  | [], s => s
  | l :: t, s => returnAll t (s.returnCredit l.flight)

def sweepLandings (r : Region) (exit : Nat) : List (Nat × List Landed) → State → State
  | [], s => s
  | (k, l) :: t, s =>
    let later := fun (x : Landed) => !sweepTok exit ⟨0, x.pkt.tag⟩
    if r.holds (k / 4) && l.any later then
      sweepLandings r exit t (returnAll (l.filter later) (s.setLanding k (l.filter (fun x => !later x))))
    else sweepLandings r exit t s

/-- What a sweep names leaves the region: channels, inboxes, outstanding responses, wires and landing queues. -/
def State.discardSwept (s : State) (r : Region) (exit : Nat) : State :=
  let s1 : State := { (s.setRegion ((r.sweepStores s.cyc exit).sweepRegion exit s.cyc)) with wires := sweepWires r exit s.wires }
  sweepLandings r exit s.landings s1

/-- What the sweeps of a cycle name leaves their region. -/
def State.discardAll (id : Nat) : List Nat → State → State
  | [], s => s
  | x :: xs, s =>
    match s.region? id with
    | some r => State.discardAll id xs (s.discardSwept r x)
    | none => s

/-- The sweeps of a region end in cycle `at_`; firing resumes in the next. -/
def State.endSweep (s : State) (r : Region) (at_ : Nat) : State :=
  State.discardAll r.id r.exits (s.setRegion { r with sweep := none, sweepDone := at_ + 1 })

/-- Cycles have passed: a sweep has discarded what stood in its region when it fired, and is over at its bound (R139). -/
def State.sweepPass (from_ : Nat) (s : State) (id : Nat) : State :=
  match s.region? id with
  | none => s
  | some r =>
    match r.sweep with
    | none => s
    | some w =>
      let bound := w.start + 64 + 4 * r.quads
      if !s.regionLive r then s
      else if bound ≤ s.cyc then s.endSweep r (max bound from_)
      else if from_ ≤ w.start + 1 then State.discardAll r.id r.exits s
      else s

/-- SWEEP_COMPLETE: no earlier than the cycle after the sweep fired. -/
def execSweepComplete (region : Nat) (s : State) : Host.Outcome State Fault Refusal :=
  match s.region? region with
  | none => .next s
  | some r =>
    match r.sweep with
    | none => .next s
    | some w =>
      if s.cyc < w.start + 1 || !s.regionLive r then .next s
      else .next (s.endSweep r s.cyc)

end Sys2Proof.Machine
end

