-- ==== Sys2Proof/Machine/Load.lean ====
section
/-!
DEFINITION. Load.lean: configuration images (R209), every check of a load (R20, R82, R100, R103, R106, R107, R111, R135, R231 to
R237, R242, R251, R257 to R262), and what a load leaves (R44, R76, R252, R284).
-/
namespace Sys2Proof.Machine

/-! ## Words of one element -/

def routeOk (w : Word) : Bool :=
  (List.range 4).all (fun i => decide (inCode w i < 5))
    && [Dir.north, .east, .south, .west].all (fun d => decide (toCode w d < 6)) && w.extractLsb' 0 8 == 0
    -- one consumer for each incoming link, one link for each output channel (R111)
    && [Dir.north, .east, .south, .west].all (fun d =>
        decide (((List.range 4).filter (fun i => inCode w i == d.toNat + 1)).length + (if toCode w d.opposite = 5 then 1 else 0) ≤ 1))
    && [1, 2, 3, 4].all (fun c => decide (([Dir.north, .east, .south, .west].filter (fun d => toCode w d == c)).length ≤ 1))

def trigWordOk (w : Word) : Bool :=
  w.extractLsb' 0 2 == 0 && (w.extractLsb' 16 8 &&& ~~~(w.extractLsb' 24 8)) == 0 && decide (bits w.toNat 7 4 < 7)
    && !(w.extractLsb' 8 8 == 0 && bits w.toNat 7 4 != 0)

/-- Width of a scalar or vector source, and of a destination, against the element's channels (R100). -/
def Elem.srcOk (e : Elem) (wide : Bool) (r : Reg) : Bool := if 16 ≤ r.toNat && r.toNat < 20 then e.inWide (r.toNat - 16) == wide else true
def Elem.dstOk (e : Elem) (wide : Bool) (r : Reg) : Bool := if 16 ≤ r.toNat && r.toNat < 20 then e.outWide (r.toNat - 16) == wide else true
def Elem.abd (e : Elem) (a b d : Bool) (f : ElemRec) : Bool := e.srcOk a f.a && e.srcOk b f.b && e.dstOk d f.d
/-- Class U: the second field is a modifier. -/
def Elem.ad (e : Elem) (a d : Bool) (f : ElemRec) : Bool := e.srcOk a f.a && e.dstOk d f.d
def Elem.rspOk (e : Elem) (wide : Bool) (r : Nat) : Bool := e.inWide r == wide && inCode e.route r == 0

/-- The checks of one slot that need the element's other words (R100, R101, R103, R129). -/
def Elem.slotOk (e : Elem) (i : Instr) : Bool :=
  match i with
  | .vaddI32 f | .vfaddF32 f | .vfmulF32 f | .vfmaF32 f | .vfmaF16 f | .vfmaBf16 f => e.abd true true true f
  | .vbcast f => e.ad false true f
  | .vext f => e.ad true false f
  | .vins f => e.ad false false f
  | .vredsumF32 f | .vredsumF16 f | .vredmaxF32 f => e.ad true false f
  | .steer f => e.abd false false false f && e.dstOk false (f.d + 1)
  | .merge f => e.abd false false false f && e.srcOk false (f.b + 1)
  | .fin _ => e.start
  | .ldB32 f | .ldU8 f => e.srcOk false f.b && e.rspOk false f.rsp.toNat
  | .ldW256 f => e.srcOk false f.b && e.rspOk true f.rsp.toNat
  | .vld f => e.srcOk false f.b && e.rspOk false f.rsp.toNat
  | .stB32 f | .stB8 f | .vrcl f => e.srcOk false f.b
  | .stW256 f => e.srcOk true f.b
  | .vst _ | .fence _ => true
  | .amoAdd32 f | .amoAdd64 f | .amoMinI32 f | .amoMaxI32 f | .amoAnd32 f | .amoOr32 f | .amoXchg32 f | .amoCas32 f | .amoCas64 f
  | .amoFaddF32 f => e.rspOk false f.rsp.toNat
  | .mov f | .absI32 f | .clz f | .popc f | .fabsF32 f | .fnegF32 f | .fsqrtF32 f | .cvtF32I32 f | .cvtI32F32 f | .cvtF32F16 f
  | .cvtF32Bf16 f | .cvtF16F32 f | .cvtBf16F32 f | .cvtE4m3F32 f | .cvtE5m2F32 f => e.ad false false f
  | .addI32 f | .subI32 f | .mulI32 f | .mulhI32 f | .and f | .or f | .xor f | .shl f | .shrU32 f | .shrI32 f | .minI32 f | .maxI32 f
  | .sel f | .addsatI32 f | .subsatI32 f | .cmpEq f | .cmpLtI32 f | .cmpLtU32 f | .faddF32 f | .fsubF32 f | .fmulF32 f | .ffmaF32 f
  | .fminF32 f | .fmaxF32 f | .fcmpEqF32 f | .fcmpLtF32 f | .fcmpLeF32 f | .fdivF32 f | .faddF16x2 f | .fmulF16x2 f | .ffmaF16x2 f
  | .faddBf16x2 f | .fmulBf16x2 f | .ffmaBf16x2 f | .pwr f | .prd f | .rep f | .sweep f | .stop f | .tagSet f | .tagGet f | .send f =>
    e.abd false false false f
  | _ => false

def Elem.slotWordOk (e : Elem) (w : Word) : Bool :=
  if w = 0 then true
  else
    match decodeElem w with
    | .instr i _ => e.slotOk i
    | .rejected _ => false

/-- Opcodes a static element may hold: class U, and class R but for sel and the accumulating forms (R107). -/
def staticU (op : Nat) : Bool :=
  match elemInstr (BitVec.ofNat 32 (op * 2 ^ 19)) with
  | some (.mov _) | some (.absI32 _) | some (.clz _) | some (.popc _) | some (.fabsF32 _) | some (.fnegF32 _) | some (.fsqrtF32 _)
  | some (.cvtF32I32 _) | some (.cvtI32F32 _) | some (.cvtF32F16 _) | some (.cvtF32Bf16 _) | some (.cvtF16F32 _)
  | some (.cvtBf16F32 _) | some (.cvtE4m3F32 _) | some (.cvtE5m2F32 _) => decide (op < 0x40)
  | _ => false
def staticR (op : Nat) : Bool :=
  match elemInstr (BitVec.ofNat 32 (op * 2 ^ 19)) with
  | some (.addI32 _) | some (.subI32 _) | some (.mulI32 _) | some (.mulhI32 _) | some (.and _) | some (.or _) | some (.xor _)
  | some (.shl _) | some (.shrU32 _) | some (.shrI32 _) | some (.minI32 _) | some (.maxI32 _) | some (.addsatI32 _)
  | some (.subsatI32 _) | some (.cmpEq _) | some (.cmpLtI32 _) | some (.cmpLtU32 _) | some (.faddF32 _) | some (.fsubF32 _)
  | some (.fmulF32 _) | some (.fminF32 _) | some (.fmaxF32 _) | some (.fcmpEqF32 _) | some (.fcmpLtF32 _) | some (.fcmpLeF32 _)
  | some (.fdivF32 _) | some (.faddF16x2 _) | some (.fmulF16x2 _) | some (.faddBf16x2 _) | some (.fmulBf16x2 _) => decide (op < 0x40)
  | _ => false

def Elem.selNarrow (e : Elem) (c : Nat) : Bool := if 1 ≤ c && c ≤ 4 then !e.inWide (c - 1) else true
def Elem.outNarrow (e : Elem) (c : Nat) : Bool := if 1 ≤ c && c ≤ 4 then !e.outWide (c - 1) else true

/-- Every channel that the route word connects is scalar. -/
def Elem.routesNarrow (e : Elem) : Bool :=
  (List.range 4).all (fun i => inCode e.route i == 0 || !e.inWide i)
    && [Dir.north, .east, .south, .west].all (fun d => e.outNarrow (toCode e.route d))

/-- The fields of a static word that no element may hold otherwise: no reserved bit or code, no unallocated opcode (R20, R106).
An element with STATIC = 0 is held to these too, though nothing reads its static word (DEDUCED: log entry 59). -/
def staticFields (w : Word) : Bool :=
  w.extractLsb' 4 6 == 0 && stFmt w == 0 && decide (stPassA w < 5) && decide (stPassB w < 5) && decide (stRes w < 5)
    && (stOp w == 0 || (elemInstr (BitVec.ofNat 32 (stOp w * 2 ^ 19))).isSome)

def Elem.staticOk (e : Elem) : Bool :=
  let w := e.static
  staticFields w && e.routesNarrow
    && (if staticU (stOp w) then stA w != 0 && stB w == 0 && stPassB w == 0 else staticR (stOp w) && stA w != 0 && stB w != 0)
    && e.selNarrow (stA w) && e.selNarrow (stB w) && e.outNarrow (stPassA w) && e.outNarrow (stPassB w) && e.outNarrow (stRes w)

/-! ### Matrix words (R260 to R262) -/

def isOut (n : Nat) : Bool := 1 ≤ n && n ≤ 4
def distinct3 (a b c : Nat) : Bool := (a == 0 || b == 0 || a != b) && (a == 0 || c == 0 || a != c) && (b == 0 || c == 0 || b != c)

/-- The checks of a matrix element at row i and column j of an array of rr rows and cc columns. -/
def Elem.matrixOk (e : Elem) (fmt i j rr cc : Nat) : Bool :=
  let w := e.static
  let c := e.const 0
  stOp w == 0 && w.extractLsb' 4 6 == 0 && decide (stFmt w < 6) && stFmt w == fmt && !e.start
    && isOut (stA w) && isOut (stB w) && isOut (stRes w) && decide (stPassA w < 5) && decide (stPassB w < 5)
    && (List.range 7).all (fun k => e.const (k + 1) == 0)
    && decide (mcAct c < 2) && decide (mcOfmt c < 3) && decide (mcRep c < 3) && decide (mcCin c < 5) && decide (mcCpass c < 5)
    && c.extractLsb' 0 19 == 0 && (mcOfmt c == 0 || fmt != 5)
    && inCode e.route (stA w - 1) == 4 && inCode e.route (stB w - 1) == 1
    && (stPassA w != 0 || j + 1 == cc) && (stPassB w != 0 || i + 1 == rr)
    && (stPassA w == 0 || toCode e.route .east == stPassA w) && (stPassB w == 0 || toCode e.route .south == stPassB w)
    && (stPassA w == 0 || stRes w == stPassA w) && !(mcRstop c && stPassA w != 0)
    && (mcRep c != 1 || j == 0) && (mcRep c != 2 || i == 0)
    && ((mcCin c != 0) == (mcRep c != 0)) && (mcCpass c == 0 || mcRep c != 0)
    && distinct3 (stA w) (stB w) (mcCin c) && distinct3 (stPassA w) (stPassB w) (mcCpass c)

/-- Checks that one element's words decide. -/
def Elem.wordsOk (e : Elem) : Bool :=
  e.mode.extractLsb' 24 5 == 0 && e.mode.extractLsb' 0 8 == 0 && !(e.mode.getLsbD 30 && !e.mode.getLsbD 31)
    && routeOk e.route && e.trigs.all trigWordOk
    && (if e.isStatic then e.slots.all (fun w => w == 0) && e.trigs.all (fun w => w == 0) && (e.isMatrix || e.staticOk)
      else e.slots.all (fun w => e.slotWordOk w) && staticFields e.static)

/-! ## Route-table entries (R231, R233, R248, R249) -/

def creditOk (n : Nat) : Bool := 1 ≤ n && n ≤ 8

def routeEntryOk (qc : Nat) (w : DWord) : Bool :=
  let n := w.toNat
  match routeType w with
  | 0 => w == 0
  | 1 => creditOk (bits n 43 40) && bits n 39 0 == 0 && (!bit n 60 || (bits n 59 58 == 0 && decide (bits n 57 48 < qc)))
  | 2 =>
    let lv := bits n 60 58
    decide (lv < 4) && creditOk (bits n 22 19) && bits n 18 0 == 0 && bits n 48 33 != 0 && decide (bits n 32 27 < 4 ^ lv)
      && (if bit n 57 then bits n 56 49 == 0
        else if lv = 3 then bits n 54 49 == 0 else if lv = 2 then bits n 52 49 == 0 else if lv = 1 then bits n 50 49 == 0 else true)
  | 3 =>
    let o := bindOpnd w
    decide (bits n 58 49 < qc) && (match bindEp w with
      | 0 | 1 => o == 0
      | 2 => decide (o < 4)
      | 3 => decide (o < 128) && (o % 4 == 3 || bits o 3 2 == 0) && linkExists (o % 4) (bits o 6 4)
      | 4 | 5 => decide (o < 2 ^ 42)
      | _ => false)
  | _ => false

/-! ## The image as a region -/

def Image.region (im : Image) (id ctx : Nat) (image : DWord) (byCfg : Bool) : Region where
  id := id
  quads := im.qc
  ctx := ctx
  image := image
  byCfg := byCfg
  rtab := im.rtab
  elems := im.elems
  cred := (List.range 128).foldl (fun m k => if routeType (im.rtab.getD k 0) = 1 || routeType (im.rtab.getD k 0) = 2 then
    AMap.set m k (routeCredits (im.rtab.getD k 0)) else m) []
  dead := []

def sides : List Dir := [.north, .east, .south, .west]

/-- Where a link that crosses a TIE comes out: the region there and the element in it, where that region ties back. -/
def Region.noTie (_ : Nat) : Option (Region × Nat) := none

/-- Width of what drives an outgoing link: the channel's, or for a bypass that of its incoming link; none where nothing drives it
or its source is not known (R111, R237). `look` finds the region beyond a TIE. -/
def drivenWidth (look : Nat → Option (Region × Nat)) : Nat → Region → Nat → Dir → Option Bool
  | 0, _, _, _ => none
  | n + 1, r, e, side =>
    match (r.elem e).driver side with
    | .out o => some ((r.elem e).isMatrix || (r.elem e).outWide o)
    | .bypass => (match r.far e side.opposite with
      | .mesh e2 => drivenWidth look n r e2 side
      | .port _ | .island _ => some true
      | .qin => (AMap.find? r.qends (qKey e side.opposite)).map (fun q => q.wide)
      | .tie m => (match look m with
        | some (t, e3) => if t.far e3 side = .tie (r.loc e) then drivenWidth look n t e3 side else none
        | none => none)
      | _ => none)
    | .none => none
/-- Width of what takes an incoming link: the channel's, or for a chain of bypasses that of the consumer at its end. -/
def takenWidth (look : Nat → Option (Region × Nat)) : Nat → Region → Nat → Dir → Option Bool
  | 0, _, _, _ => none
  | n + 1, r, e, side =>
    match (r.elem e).consumer side with
    | .chan i => some ((r.elem e).isMatrix || (r.elem e).inWide i)
    | .bypass => (match r.far e side.opposite with
      | .mesh e2 => takenWidth look n r e2 side
      | .port _ | .island _ => some true
      | .qout => (AMap.find? r.qends (qKey e side.opposite)).map (fun q => q.wide)
      | .tie m => (match look m with
        | some (t, e3) => if t.far e3 side = .tie (r.loc e) then takenWidth look n t e3 side else none
        | none => none)
      | _ => none)
    | .none => none
/-- The same inside one region: a TIE's far side is not looked at. -/
def Region.outWidth (r : Region) (n e : Nat) (side : Dir) : Option Bool := drivenWidth Region.noTie n r e side
def Region.endWidth (r : Region) (n e : Nat) (side : Dir) : Option Bool := takenWidth Region.noTie n r e side

def agree (a b : Option Bool) : Bool :=
  match a, b with
  | some x, some y => x == y
  | _, _ => true

/-- Widths of the links inside the region, and of its ports and island links (R111, R237). -/
def Region.widthsOk (r : Region) : Bool :=
  (List.range (4 * r.quads)).all (fun e => sides.all (fun d =>
    match r.far e d with
    | .mesh e2 => agree (r.outWidth 128 e d) (r.endWidth 128 e2 d.opposite)
    | .port _ | .island _ => agree (r.outWidth 128 e d) (some true) && agree (r.endWidth 128 e d) (some true)
    | _ => true))

/-- The matrix elements form one rectangle and pass their checks (R257, R262). -/
def Region.matrixOk (r : Region) : Bool :=
  let es := (List.range (4 * r.quads)).filter (fun e => (r.elem e).isMatrix)
  match es with
  | [] => true
  | e0 :: _ =>
    let xs := es.map (fun e => locX (r.loc e))
    let ys := es.map (fun e => locY (r.loc e))
    let x0 := xs.foldl min 64
    let y0 := ys.foldl min 64
    let cc := xs.foldl max 0 + 1 - x0
    let rr := ys.foldl max 0 + 1 - y0
    decide (es.length = rr * cc)
      && es.all (fun e => (r.elem e).matrixOk (stFmt (r.elem e0).static) (locY (r.loc e) - y0) (locX (r.loc e) - x0) rr cc)
      && es.all (fun e => sides.all (fun d => match r.far e d with
          | .mesh e2 => (r.elem e2).isMatrix
              || (agree (r.outWidth 128 e2 d.opposite) (some true) && agree (r.endWidth 128 e2 d.opposite) (some true))
          | _ => true))

/-- A TIE at the outward edge of the bay's grid, which depends on where the region lies (R236, R238). -/
def Region.edgeTie (r : Region) : Bool :=
  r.binds.any (fun w => bindEp w == 1 && (neighbour (r.loc (bindElem w)) (bindDir w)).isNone)

/-- A BIND entry names a boundary side, and no two name the same one (R236). -/
def Region.bindsOk (r : Region) : Bool :=
  r.binds.all (fun w =>
    (match neighbour (r.loc (bindElem w)) (bindDir w) with
      | some m => !r.holds m
      | none => true)
    && decide ((r.binds.filter (fun v => bindElem v == bindElem w && bindDir v == bindDir w)).length ≤ 1))

/-- A queue end as one number: its descriptor, by the address of the binding before the load and by the translation after it. -/
def Region.queueEnd (r : Region) (e : Nat) (d : Dir) : Option Nat :=
  match AMap.find? r.qends (qKey e d) with
  | some q => some (2 ^ 64 + q.desc)
  | none => (r.bindOf e d).map (fun w => 2 ^ 44 + bindOpnd w)

/-- The endpoint beyond a chain of bypasses that leaves element e by a side. -/
def Region.endOut (r : Region) : Nat → Nat → Dir → Option Nat
  | 0, _, _ => none
  | n + 1, e, d =>
    match r.far e d with
    | .mesh e2 => if (r.elem e2).consumer d.opposite = .bypass then Region.endOut r n e2 d else none
    | .port p => some p
    | .island k => some (2 ^ 20 + k)
    | .qout => r.queueEnd e d
    | _ => none
def Region.endIn (r : Region) : Nat → Nat → Dir → Option Nat
  | 0, _, _ => none
  | n + 1, e, d =>
    match r.far e d with
    | .mesh e2 => if (r.elem e2).driver d.opposite = .bypass then Region.endIn r n e2 d else none
    | .port p => some p
    | .island k => some (2 ^ 20 + k)
    | .qin => r.queueEnd e d
    | _ => none

def Region.armOut (r : Region) (e o : Nat) : Option Nat :=
  match sides.find? (fun d => toCode (r.elem e).route d == o + 1) with
  | some d => r.endOut 128 e d
  | none => none
def Region.armIn (r : Region) (e i : Nat) : Option Nat :=
  if inCode (r.elem e).route i = 0 then none else r.endIn 128 e (Dir.ofCode (inCode (r.elem e).route i - 1))
def sameEnd (a b : Option Nat) : Bool := a.isSome && a == b

/-- R135. -/
def Region.sharedArm (r : Region) : Bool :=
  (List.range (4 * r.quads)).any (fun e => (r.elem e).slots.any (fun w =>
    match elemInstr w with
    | some (.steer f) => sameEnd (r.armOut e (f.d.toNat - 16)) (r.armOut e (f.d.toNat - 15))
    | some (.merge f) => sameEnd (r.armIn e (f.b.toNat - 16)) (r.armIn e (f.b.toNat - 15))
    | _ => false))

/-- The checks that the image's words alone decide (R205, R212): the cause of a rejection. No result depends on where an aligned
region lies. -/
def Region.wordsFault (r : Region) : Option Byte :=
  if !((List.range (4 * r.quads)).all (fun e => (r.elem e).wordsOk)) then some Cause.illegalOp
  else if !(r.rtab.all (routeEntryOk r.quads)) then some Cause.illegalOp
  else if !r.bindsOk || !r.matrixOk || !r.widthsOk then some Cause.illegalOp
  else if r.sharedArm then some Cause.cfgSharedArm
  else none

/-- The checks that the image and the region word decide (R212). -/
def Region.staticFault (r : Region) : Option Byte := if r.edgeTie then some Cause.illegalOp else r.wordsFault

/-! ## Reading an image -/

/-- A read of the configuration network: normal memory of this package (R211); the value, and whether a byte of it is poison. -/
def cfgPeekM (w : Who) (va : DWord) (n : Nat) : Mach (Nat × Bool) := do
  let x ← accessM w .load va n
  let s ← get
  if x.mt != 0 || !s.isLocal x.pa then raiseM Cause.addrUnmapped va
  readAtM w x n
def cfgReadM (w : Who) (va : DWord) (n : Nat) : Mach Nat := do
  let (v, p) ← cfgPeekM w va n
  if p then raiseM Cause.poisonConsumed va
  pure v

/-- Words of an image from an address on, and whether any byte of them is poison. -/
def cfgWordsM (w : Who) (va : DWord) : Nat → Mach (List Word × Bool)
  | 0 => pure ([], false)
  | n + 1 => do
    let (v, p) ← cfgPeekM w va 4
    let (t, q) ← cfgWordsM w (va + 4) n
    pure (BitVec.ofNat 32 v :: t, p || q)

def cfgDwordsM (w : Who) (va : DWord) : Nat → Mach (List DWord × Bool)
  | 0 => pure ([], false)
  | n + 1 => do
    let (v, p) ← cfgPeekM w va 8
    let (t, q) ← cfgDwordsM w (va + 8) n
    pure (BitVec.ofNat 64 v :: t, p || q)

def vecOf {α : Type} (d : α) (l : List α) (n : Nat) : Vector α n := Vector.ofFn (fun i => l.getD i.val d)

/-- An element after its load, from the 128 words of its record (R76, R209). -/
def elemOf (ws : List Word) : Elem :=
  let e : Elem := {
    mode := ws.getD 0 0, route := ws.getD 1 0, static := ws.getD 2 0
    consts := vecOf 0 (ws.drop 8) 8, trigs := vecOf 0 (ws.drop 16) 64, slots := vecOf 0 (ws.drop 80) 32 }
  { e with p := e.pReset }

def recordOk (ws : List Word) : Bool := ((ws.drop 3).take 5).all (fun w => w == 0) && (ws.drop 112).all (fun w => w == 0)

/-- The element records of an image, whether their reserved words are zero, and whether a byte of them is poison. -/
def cfgElemsM (w : Who) (va : DWord) : Nat → Nat → Mach (List (Nat × Elem) × Bool × Bool)
  | 0, _ => pure ([], true, false)
  | n + 1, k => do
    let (ws, p) ← cfgWordsM w va 128
    let (t, ok, q) ← cfgElemsM w (va + 512) n (k + 1)
    pure ((k, elemOf ws) :: t, ok && recordOk ws, p || q)

/-- The parts of an image are placed correctly (R209). -/
def partsPlaced (rt el qc : Nat) : Bool :=
  rt % 8 == 0 && el % 64 == 0 && decide (64 ≤ rt) && decide (64 ≤ el) && (decide (rt + 1024 ≤ el) || decide (el + 2048 * qc ≤ rt))
    && decide (rt + 1024 ≤ 2 ^ 64) && decide (el + 2048 * qc ≤ 2 ^ 64)

/-- The image at an address, for a region of `quads` quads. The causes come in the order of R205: the address, the translation of
every byte read, poison in one of them, QC against the region, then the image's own words (R209, R211). The parts are read where
the header places them correctly for 1 to 1,024 quads (log entry 60). -/
def readImageM (w : Who) (va : DWord) (quads : Nat) : Mach Image := do
  if va.toNat % 64 != 0 then raiseM Cause.misaligned va
  if !canonical va then raiseM Cause.addrNoncanonical va
  let (hd, p0) ← cfgDwordsM w va 8
  let h := fun k => (hd.getD k 0).toNat
  let qc := bits (h 0) 47 32
  let parts := decide (1 ≤ qc) && decide (qc ≤ 1024) && partsPlaced (h 1) (h 2) qc
  let (rtab, p1) ← cfgDwordsM w (va + BitVec.ofNat 64 (h 1)) (if parts then 128 else 0)
  let (es, ok, p2) ← cfgElemsM w (va + BitVec.ofNat 64 (h 2)) (if parts then 4 * qc else 0) 0
  if p0 || p1 || p2 then raiseM Cause.poisonConsumed va
  if qc != quads then raiseM Cause.cfgRange va
  if bits (h 0) 31 0 != 1 || bits (h 0) 63 48 != 0 || !((hd.drop 3).all (fun v => v == 0)) || !parts || !ok then
    raiseM Cause.illegalOp va
  pure ⟨qc, vecOf 0 rtab 128, es⟩

/-! ## Checks against other regions (R212, R236, R237, R251) -/

/-- What a BIND entry binds: a port, an island, a queue end; an island is bound as a whole (R369, R398, R417). -/
def Region.endpoint (r : Region) (w : DWord) : Option Nat :=
  match bindEp w with
  | 2 => some (portKey (r.loc (bindElem w)) (bindOpnd w))
  | 3 => some (2 ^ 20 + islandKey (r.loc (bindElem w)) (bindOpnd w) / 8)
  | 4 => some (2 ^ 44 + bindOpnd w)
  | 5 => some (2 ^ 45 + bindOpnd w)
  | _ => none
/-- The single link it names. -/
def Region.endLink (r : Region) (w : DWord) : Option Nat :=
  match bindEp w with
  | 3 => some (2 ^ 20 + islandKey (r.loc (bindElem w)) (bindOpnd w))
  | _ => r.endpoint w

def Region.boundTwice (r : Region) : Bool :=
  r.binds.any (fun w => (r.endLink w).isSome && decide (1 < (r.binds.filter (fun v => r.endLink v == r.endLink w)).length))

/-- Another resident configuration has bound a port or an island that this one names. -/
def State.boundElsewhere (s : State) (r : Region) : Bool :=
  s.regions.any (fun q => q.id != r.id && q.binds.any (fun v => (bindEp v == 2 || bindEp v == 3)
    && r.binds.any (fun w => (r.endpoint w).isSome && r.endpoint w == q.endpoint v)))

def Region.sends (r : Region) : List DWord := r.rtab.toList.filter (fun w => routeType w == 1 || routeType w == 2)

/-- One of its own entries leads into a resident region of another context. -/
def State.routeBad (s : State) (r : Region) : Bool :=
  r.sends.any (fun w => (routeDests r w).any (fun l =>
    match s.regionOfQuad (l / 4) with
    | some q => q.ctx != r.ctx
    | none => false))

/-- The credits that the live entries of a region give toward one inbox, as the package stands with `r` loaded. -/
def creditsToward (s : State) (r q : Region) (loc k : Nat) : Nat :=
  (q.sends.filter (fun w => routeInbox w == k && (routeDests q w).contains loc
    && (routeDests q w).all (fun l =>
        if r.holds l then q.ctx == r.ctx
        else match s.regionOfQuad (l / 4) with
          | some t => t.ctx == q.ctx
          | none => true))).foldl (fun v w => v + routeCredits w) 0

/-- Some inbox that an entry of any resident configuration, or of the one being loaded, leads to would be given more than 8. -/
def State.creditBad (s : State) (r : Region) : Bool :=
  let all := r :: s.regions.filter (fun q => q.id != r.id)
  all.any (fun o => o.sends.any (fun w => (routeDests o w).any (fun l =>
    decide (8 < (all.foldl (fun v q => v + creditsToward s r q l (routeInbox w)) 0)))))

/-- What lies beyond a TIE, with `r` loaded. -/
def State.beyond (s : State) (r : Region) (m : Nat) : Option (Region × Nat) :=
  if r.holds m then some (r, m - 4 * r.id) else s.at? m

/-- A TIE whose far side is resident and ties back has its width (R237). -/
def State.tieBad (s : State) (r : Region) : Bool :=
  let look := s.beyond r
  r.binds.any (fun w => bindEp w == 1 && (match neighbour (r.loc (bindElem w)) (bindDir w) with
    | none => false
    | some m => match s.at? m with
      | none => false
      | some (q, e2) =>
        q.far e2 (bindDir w).opposite == .tie (r.loc (bindElem w))
          && (!agree (drivenWidth look 256 r (bindElem w) (bindDir w)) (takenWidth look 256 q e2 (bindDir w).opposite)
            || !agree (drivenWidth look 256 q e2 (bindDir w).opposite) (takenWidth look 256 r (bindElem w) (bindDir w)))))

/-- A bound queue end whose width is not that of the chain that leads to it, now that the widths of the other ends are known. -/
def State.queueWidthBad (s : State) (r : Region) : Bool :=
  let look := s.beyond r
  r.qends.any (fun (k, q) => !agree (if q.out then drivenWidth look 256 r (k / 4) (Dir.ofCode k)
    else takenWidth look 256 r (k / 4) (Dir.ofCode k)) (some q.wide))

/-- Two bindings of the region name one end of one queue, whatever addresses they name it by (R236). -/
def Region.endTwice (r : Region) : Bool :=
  r.qends.any (fun (k, q) => r.qends.any (fun (k2, q2) => k != k2 && q.out == q2.out && q.desc == q2.desc))

/-! ## Binding a queue end (R242) -/

/-- Turns every translation cause into the one the binding reports. -/
def orElseRaise {α : Type} (m : Mach α) (cause : Byte) (va : DWord) : Mach α :=
  tryCatch m (fun e => match e with
    | .wait => throw .wait
    | _ => raiseM cause va)

/-- One queue end: its translation, its checks, and the bits it needs. -/
def bindEndM (w : Who) (r : Region) (v : DWord) : Mach (Nat × QEnd) := do
  let out := bindEp v == 4
  let va : DWord := BitVec.ofNat 64 (bindOpnd v * 64)
  let bad : Byte := Cause.queueFormat
  let x ← orElseRaise (do
    let _ ← translateM w .store va
    translateM w .load va) bad va
  if x.mt != 0 || placeOf (lowOf x.pa) != .sram then raiseM bad va
  let s ← get
  let mine := s.isLocal x.pa && homeBay (lowOf x.pa) == r.bay
  if !out && !mine then raiseM bad va
  let (ring, p0) ← readAtM w x 8
  let (ctl, p1) ← readAtM w { x with pa := x.pa + 8 } 8
  let (prod, p2) ← readAtM w { x with pa := x.pa + 0x10 } 8
  let (cons, p3) ← readAtM w { x with pa := x.pa + 0x18 } 8
  let (own, p4) ← readAtM w { x with pa := x.pa + 0x20 } 8
  if p0 || p1 || p2 || p3 || p4 then raiseM Cause.poisonConsumed va
  let n := ctl % 32
  let wide := bit ctl 5
  let size := 2 ^ n * (if wide then 64 else 8)
  if n < 4 || 16 < n || ring % size != 0 then raiseM bad va
  let rva : DWord := BitVec.ofNat 64 ring
  let y ← orElseRaise (do
    let _ ← translateM w .store rva
    translateM w .load rva) bad va
  let s1 ← get
  let page := match s1.tlbFind w.bay w.ctx rva with
    | some t => t.size
    | none => 0
  if y.mt != 0 || placeOf (lowOf y.pa) != .sram || pkgOf y.pa != pkgOf x.pa || homeBay (lowOf y.pa) != homeBay (lowOf x.pa)
      || page < size then raiseM bad va
  let width := if out then r.outWidth 128 (bindElem v) (bindDir v) else r.endWidth 128 (bindElem v) (bindDir v)
  if !agree width (some wide) then raiseM bad va
  let need := if out then 0 else 1
  if bit own need || (bit own (1 - need) && bits own 7 2 != r.ctx) then raiseM Cause.cfgBound va
  pure (qKey (bindElem v) (bindDir v), ⟨out, x.pa, y.pa, n, wide, cons, prod, prod⟩)

def bindEndsM (w : Who) (r : Region) : List DWord → Mach (AMap QEnd)
  | [] => pure []
  | v :: t => do
    let e ← bindEndM w r v
    let rest ← bindEndsM w r t
    pure (AMap.set rest e.1 e.2)

/-- Sets or clears an end's bit in a descriptor of this package; CTX is written with it, the other end's bit stays (R242). -/
def State.markHere (s : State) (desc : Nat) (out : Bool) (ctx : Nat) (on : Bool) : State :=
  let b := if out then 0 else 1
  let own := s.fabNat (desc + 0x20) 8
  let bitsNow := (if on then 2 ^ b else 0) + (if bit own (1 - b) then 2 ^ (1 - b) else 0)
  s.partWrite (desc + 0x20) (leBytes (bitsNow + 4 * (if on then ctx else bits own 7 2)) 8)

/-- What a binding or an unbinding tells the descriptor's home in another package: set or clear, which end, the context, the package
that binds, and the ring with its size. The form is the model's (log entry 61). -/
def bindWord (q : QEnd) (ctx : Nat) (on : Bool) (package : Nat) : Line :=
  BitVec.ofNat 512 ((if on then 1 else 0) + (if q.out then 2 else 0) + 4 * ctx + 2 ^ 8 * q.log2n + (if q.wide then 2 ^ 13 else 0)
    + 2 ^ 16 * package + 2 ^ 64 * q.ring)

def State.markEnd (s : State) (q : QEnd) (ctx : Nat) (on : Bool) : State :=
  if s.isLocal q.desc then s.markHere (lowOf q.desc) q.out ctx on
  else if s.reachable (pkgOf q.desc) then (s.sendReq .bind .other ctx q.desc 8 (bindWord q ctx on s.package.toNat)).2
  else s.linkLost ctx q.desc

/-- An end of the region's queues lies in a package whose new route mask waits: what its home is to be told is held (R442). -/
def State.endsHeld (s : State) (r : Region) : Bool := r.qends.any (fun p => !s.isLocal p.2.desc && s.maskHeld (pkgOf p.2.desc))

def markEnds (ctx : Nat) (on : Bool) : AMap QEnd → State → State
  | [], s => s
  | (_, q) :: t, s => markEnds ctx on t (s.markEnd q ctx on)

/-! ## What a load leaves -/

/-- Tokens held at the region's boundary, in the boundary buffers of its links, stay for a consumer that ties the link in their context; others are discarded with one
record for each link (R44, R238). `keep` is none where no configuration loads. -/
def State.heldTokens (s : State) (r : Region) (keep : Bool) : List (Nat × Dir) → State
  | [] => s
  | (e, d) :: t =>
    match neighbour (r.loc e) d with
    | none => State.heldTokens s r keep t
    | some m =>
      if r.holds m then State.heldTokens s r keep t
      else
        let k := wireKey m d.opposite
        let w := s.wire k
        let taken := keep && r.far e d == .tie m && w.bufferCtx == r.ctx && (r.elem e).consumer d != .none
        if w.buffer.isEmpty || taken then State.heldTokens s r keep t
        else
          State.heldTokens ((s.updWire k (fun x => { x with buffer := [] })).record
            { cause := Cause.warnTokenDiscard, cls := 3, mkind := 4, ctx := w.bufferCtx, loc := r.loc e }) r keep t

def Region.boundarySides (r : Region) : List (Nat × Dir) :=
  (List.range (4 * r.quads)).flatMap (fun e => (sides.filter (fun d => match r.far e d with
    | .mesh _ => false
    | _ => true)).map (fun d => (e, d)))

/-- An inbox that some trigger of the element names. -/
def Elem.namesBox (e : Elem) (k : Nat) : Bool := e.trigs.any (fun w => w.getLsbD (12 + k))

/-- Packets that wait at the region's landing queues (R251, R252). -/
def State.sortLandings (s : State) (r : Region) : List (Nat × List Landed) → State
  | [] => s
  | (k, l) :: t =>
    let loc := k / 4
    if !r.holds loc then State.sortLandings s r t
    else
      let keep := fun (x : Landed) => headerCtx x.pkt.header == r.ctx && (r.elem (loc - 4 * r.id)).namesBox (k % 4)
      let gone := l.filter (fun x => !keep x)
      let s1 := s.setLanding k (l.filter keep)
      State.sortLandings (gone.foldl (fun z x => (z.returnCredit x.flight).record (packetDiscard x.pkt.header loc)) s1) r t

/-- Quarters of quads that another context held last are zeroed (R284). -/
def State.freshQuads (s : State) (ctx : Nat) : List Nat → State
  | [] => s
  | q :: t =>
    let s1 := if AMap.getD s.lastCtx q ctx = ctx then s else s.scrZero q
    State.freshQuads { s1 with lastCtx := AMap.set s1.lastCtx q ctx } ctx t

/-- A checked region becomes resident. -/
def State.install (s : State) (r : Region) : State :=
  let s1 := s.freshQuads r.ctx (natsFrom r.id r.quads)
  let s2 := markEnds r.ctx true r.qends ({ s1 with nextId := s1.nextId + 1 }.setRegion { r with inst := s1.nextId })
  (s2.heldTokens r true r.boundarySides).sortLandings r s2.landings

/-- The checks made when a configuration loads; the queue ends it binds. -/
def loadChecksM (w : Who) (r : Region) : Mach Region := do
  let s ← get
  if r.boundTwice || s.boundElsewhere r then raiseM Cause.cfgBound 0
  if s.routeBad r then raiseM Cause.cfgRoute 0
  if s.creditBad r then raiseM Cause.cfgCredit 0
  if s.tieBad r then raiseM Cause.illegalOp 0
  let qs ← bindEndsM w r (r.binds.filter (fun v => bindEp v == 4 || bindEp v == 5))
  let r1 := { r with qends := qs }
  let s1 ← get
  if s1.queueWidthBad r1 then raiseM Cause.queueFormat 0
  if s1.tieBad r1 then raiseM Cause.illegalOp 0
  if r1.sharedArm then raiseM Cause.cfgSharedArm 0
  if r1.endTwice then raiseM Cause.cfgBound 0
  if s1.endsHeld r1 then waitM
  pure r1

end Sys2Proof.Machine
end

