-- ==== Sys2Proof/Machine/Matrix.lean ====
section
/-!
DEFINITION. Matrix.lean: the operation of a static element (R108), the steps of a matrix element (R265 to R269, R271, R272, R274,
R276), its arithmetic (R72 to R74), and the repeat node (R273).
-/
namespace Sys2Proof.Machine

/-! ## Static elements -/

/-- An operand of a static element: a channel's head or a constant. -/
def Elem.staticSrc (e : Elem) (now code : Nat) : Option Src :=
  if code = 0 then some ⟨0, dataTag, none⟩
  else if code ≤ 4 then (e.head now (code - 1)).map (fun t => ⟨t.val, t.tag, some (code - 1)⟩)
  else some ⟨scalarOf (e.const (code - 5)), dataTag, none⟩

/-- The value of a scalar operation on two words: that of the register form x2 = op(x0, x1). -/
def scalarOp (c : FireCtx) (op : Nat) (two : Bool) (a b : Word) : Word :=
  match wordFire (BitVec.ofNat 32 (op * 2 ^ 19 + 2 * 2 ^ 14 + (if two then 16 else 0))) with
  | none => 0
  | some f =>
    match f c ((({} : Elem).setX 0 a).setX 1 b) with
    | .done e _ => e.xr 2
    | _ => 0

/-- The result token (R108): poison first, then stops, then the value under the tag rule of R89 with the tag-pass flag. Of two poison
operands with different LEVELs operand A's is taken (DESIGN CHOICE, log entry 81: R108 names neither). -/
def staticResult (c : FireCtx) (op : Nat) (a b : Src) (two : Bool) : Token :=
  let bo := if two then some b else none
  match poisonLevel a bo with
  | some l => ⟨0, mkTag 3 l⟩
  | none =>
    if isStop a.tag then ⟨a.val, a.tag⟩
    else if two && isStop b.tag then ⟨b.val, b.tag⟩
    else ⟨scalarOf (scalarOp c op two (lane a.val 0) (lane b.val 0)), outTag true a bo⟩

def Elem.sendOn (e : Elem) (now src code : Nat) (t : Token) : Elem := if code = 0 then e else e.enq now src (code - 1) t
/-- The channel of a code has a free entry for every one of the listed routes that names it (R108; DEDUCED, log entry 65: a channel that
several of them name needs an entry for each, since it holds two tokens at most). -/
def Elem.roomOn (e : Elem) (now code : Nat) (routes : List Nat) : Bool :=
  code == 0 || decide (((e.outch (code - 1)).q.length + ((e.outch (code - 1)).freed.filter (fun d => decide (now ≤ d))).length)
    + (routes.filter (fun k => k == code)).length ≤ 2)

def Elem.staticDeq (e : Elem) (now : Nat) (a b : Src) : Elem :=
  let e1 := match a.chan with
    | some ch => e.deq now ch
    | none => e
  match b.chan with
  | some ch => if a.chan = some ch then e1 else e1.deq now ch
  | none => e1

/-- The operation of a static element, when it can take place. -/
def staticFire (c : FireCtx) (e : Elem) : FireRes :=
  let w := e.static
  match e.staticSrc c.now (stA w), e.staticSrc c.now (stB w) with
  | some a, some b =>
    let routes := [stPassA w, stPassB w, stRes w]
    if !routes.all (fun k => e.roomOn c.now k routes) then .notReady
    else
      let n := c.region.serial
      let res := staticResult c (stOp w) a b (stB w != 0)
      let e1 := (e.staticDeq c.now a b).sendOn c.now n (stPassA w) ⟨a.val, a.tag⟩
      .done ((e1.sendOn c.now n (stPassB w) ⟨b.val, b.tag⟩).sendOn c.now n (stRes w) res) []
  | _, _ => .notReady

/-- STATIC_OPERATION: counts as a firing of its region (R351). -/
def execStaticOperation (region elem : Nat) (s : State) : Host.Outcome State Fault Refusal :=
  match s.region? region with
  | none => .next s
  | some r =>
    let e := r.elem elem
    if e.isStatic && !e.isMatrix && s.elemFires r elem && decide (elem < 4 * r.quads) then
      .next (s.setRegion (r.applyFire s.cyc elem 0 true (staticFire (mkCtx s r elem 0 []) e)))
    else .next s

/-! ## Arithmetic of a beat -/

def fmtOf (fmt : Nat) : Fmt := if fmt = 0 then Fmt.f16 else if fmt = 1 then Fmt.bf16 else if fmt = 2 then Fmt.e4m3 else if fmt = 3 then Fmt.e5m2 else Fmt.e2m1
/-- Products per accumulator per beat (R72). -/
def beatK (fmt : Nat) : Nat := if fmt < 2 then 8 else if fmt = 4 then 32 else 16

/-- Item k of row r of an A tile, and of column c of a B tile (R263). -/
def aItem (fmt : Nat) (t : Tile) (r k : Nat) : Nat :=
  let d := t.data.toNat
  if fmt < 2 then bits d (8 * (16 * r + 2 * k) + 15) (8 * (16 * r + 2 * k))
  else if fmt = 4 then bits d (8 * (16 * r + k / 2) + 4 * (k % 2) + 3) (8 * (16 * r + k / 2) + 4 * (k % 2))
  else bits d (8 * (16 * r + k) + 7) (8 * (16 * r + k))
def bItem (fmt : Nat) (t : Tile) (k c : Nat) : Nat :=
  let d := t.data.toNat
  if fmt < 2 then bits d (8 * (16 * k + 2 * c) + 15) (8 * (16 * k + 2 * c))
  else if fmt = 4 then bits d (8 * (4 * k + c / 2) + 4 * (c % 2) + 3) (8 * (4 * k + c / 2) + 4 * (c % 2))
  else bits d (8 * (8 * k + c) + 7) (8 * (8 * k + c))
def tileScale (t : Tile) (i : Nat) : Nat := bits t.scales.toNat (8 * i + 7) (8 * i)

/-- The exact weight exponent of a nonzero term. -/
def topOf : FVal → Option Int
  | .fin _ m e => if m = 0 then none else some ((Nat.log2 m : Int) + e)
  | _ => none
def maxTop : List FVal → Option Int
  | [] => none
  | t :: ts =>
    match topOf t, maxTop ts with
    | some a, some b => some (if a < b then b else a)
    | some a, none => some a
    | none, b => b

/-- A term cut off below weight q, in units of 2^q. -/
def cutAt (q : Int) : FVal → Int
  | .fin neg m e =>
    let v : Nat := if q ≤ e then m * 2 ^ (e - q).toNat else m / 2 ^ (q - e).toNat
    if neg then -(v : Int) else v
  | _ => 0

def isInf (neg : Bool) : FVal → Bool
  | .inf n => n == neg
  | _ => false

/-- R73: the new accumulator from the beat terms. -/
def beatSum (terms : List FVal) : Word :=
  if terms.any FVal.isNan then 0x7FC00000
  else if terms.any (isInf false) && terms.any (isInf true) then 0x7FC00000
  else if terms.any (isInf false) then 0x7F800000
  else if terms.any (isInf true) then 0xFF800000
  else
    match maxTop terms with
    | none => if terms.all FVal.isNeg then 0x80000000 else 0
    | some top =>
      let q := top - 47
      let v := (terms.map (cutAt q)).foldl (fun a b => a + b) 0
      BitVec.ofNat 32 (Fmt.f32.round .rne false false (decide (v < 0)) v.natAbs q false)

def products (fmt : Nat) (a b : Tile) (r c : Nat) : List FVal :=
  (List.range (beatK fmt)).map (fun k => ((fmtOf fmt).dec (aItem fmt a r k)).mul ((fmtOf fmt).dec (bItem fmt b k c)))

/-- The one product term of an E2M1 beat: the exact sum, scaled (R60, R73). -/
def scaledSum (a b : Tile) (r c : Nat) : FVal :=
  let sa := tileScale a r
  let sb := tileScale b c
  if sa = 255 || sb = 255 then .nan
  else
    match products 4 a b r c with
    | [] => .fin false 0 0
    | p :: ps =>
      (match ps.foldl (FVal.add .rne) p with
      | .fin neg m e => .fin neg m (e + (sa : Int) - 127 + (sb : Int) - 127)
      | v => v)

def int8 (v : Nat) : Int := if v < 128 then (v : Int) else (v : Int) - 256

/-- beat_rule of R266. -/
def beatRule (fmt : Nat) (acc : Word) (a b : Tile) (r c : Nat) : Word :=
  if fmt = 5 then
    acc + BitVec.ofInt 32 (((List.range 16).map (fun k => int8 (aItem 5 a r k) * int8 (bItem 5 b k c))).foldl (fun x y => x + y) 0)
  else if fmt = 4 then beatSum [Fmt.f32.dec acc.toNat, scaledSum a b r c]
  else beatSum (Fmt.f32.dec acc.toNat :: products fmt a b r c)

def beatTile (fmt : Nat) (acc : Vector Word 64) (a b : Tile) : Vector Word 64 :=
  Vector.ofFn (fun i => beatRule fmt (acc.getD i.val 0) a b (i.val / 8) (i.val % 8))

/-! ## Results (R268) -/

def reluOf (fmt : Nat) (v : Word) : Word :=
  if fmt = 5 then (if v.msb then 0 else v)
  else if (Fmt.f32.dec v.toNat).isNan then 0x7FC00000
  else if v.msb then 0 else v

/-- The result tile of an element; `scales` keeps the number of tokens it leaves as (R264). -/
def resultTile (fmt : Nat) (c0 : Word) (m : Mat) : Tile :=
  let n : DWord := if mcOfmt c0 = 0 then 8 else 4
  if m.pz then ⟨mkTag 3 0, true, 0, n⟩
  else
    let v := m.accTile.toList.map (fun w => if mcAct c0 = 1 then reluOf fmt w else w)
    let bs := v.flatMap (fun w =>
      if mcOfmt c0 = 0 then leBytes w.toNat 4
      else leBytes (Fmt.convert Fmt.f32 (if mcOfmt c0 = 1 then Fmt.f16 else Fmt.bf16) .rne false false w.toNat) 2)
    ⟨dataTag, true, BitVec.ofNat 2048 (leNat bs), n⟩

/-- The end of a readout (R265). -/
def Mat.clearAcc (m : Mat) : Mat :=
  { m with accTile := Vector.replicate 64 0, accFull := false, pz := false, bc := 0, rb := 0, rtd := false, pcnt := 0 }

/-! ## Heads -/

/-- Column of an element in its array (R257). -/
def Region.column (r : Region) (e : Nat) : Nat :=
  let xs := ((List.range (4 * r.quads)).filter (fun k => (r.elem k).isMatrix)).map (fun k => locX (r.loc k))
  locX (r.loc e) - xs.foldl min 64

/-- Which operand code a repeat node repeats; 0 none. -/
def Elem.repCode (e : Elem) : Nat := if mcRep (e.const 0) = 1 then stA e.static else if mcRep (e.const 0) = 2 then stB e.static else 0

def poisoned (on : Bool) (t : Tile) : Tile := if on && !isStop t.tag then { t with tag := mkTag 3 (levelOf t.tag), data := 0, scales := 0 } else t

/-- The head of operand code c as the steps see it: for a repeat node what it presents (R273). -/
def State.opHead (s : State) (r : Region) (e c : Nat) : Option Tile :=
  let el := r.elem e
  let m := el.mat
  let h := s.headTile r e (c - 1)
  if el.repCode != c then h
  else
    let fathomAt := fun (t : Option Tile) => match t with
      | some x => isFathom x.tag
      | none => false
    if fathomAt h || fathomAt (s.headTile r e (mcCin (el.const 0) - 1)) then some fathomTile
    else if m.rtaking then none
    else if m.rcount != 0 then
      (if m.rpos.toNat < m.rlen.toNat then (m.rbuf[m.rpos.toNat]?).map (poisoned m.rpoison)
      else some ⟨mkTag 1 0, false, 0, 0⟩)
    else
      match h with
      | some t => if isStop t.tag && levelOf t.tag != 0 then some t else none
      | none => none

/-- Takes the head of operand code c. -/
def Elem.takeOp (e : Elem) (c : Nat) : Elem :=
  let m := e.mat
  if e.repCode != c || m.rcount == 0 then { e with mat := m.deq (c - 1) }
  else if m.rpos.toNat < m.rlen.toNat then { e with mat := { m with rpos := m.rpos + 1 } }
  else if m.rcount = 1 then { e with mat := { m with rcount := 0, rpos := 0, rlen := 0, rbuf := [], rpoison := false } }
  else { e with mat := { m with rcount := m.rcount - 1, rpos := 0 } }

/-- An operand tile: data or poison, not a result. -/
def isOperand (t : Tile) : Bool := !t.result && (isData t.tag || isPoison t.tag)
/-- Stops rank by level above every data or poison tile; a fathom does not rank. -/
def tileRank (t : Tile) : Option Nat :=
  if isFathom t.tag then none else if isStop t.tag then some (levelOf t.tag + 1) else some 0

/-! ## Reports (R272) -/

def State.matrixRecord (s : State) (r : Region) (e : Nat) (cause : Byte) : State :=
  s.record { cause := cause, cls := 2, mkind := 0, ctx := r.ctx, mid := midRegion r.word, loc := r.loc e }

def State.reportPoison (s : State) (id e : Nat) : State :=
  match s.region? id with
  | some r => if r.mp then s else (s.setRegion { r with mp := true }).matrixRecord r e Cause.matrixPoison
  | none => s
def State.reportShape (s : State) (id e : Nat) : State :=
  match s.region? id with
  | some r => if r.ms then s else (s.setRegion { r with ms := true }).matrixRecord r e Cause.matrixShape
  | none => s

/-! ## Steps -/

/-- An element of a matrix array that may step. -/
def State.matrixAt (s : State) (region e : Nat) : Option Region :=
  match s.region? region with
  | none => none
  | some r =>
    if decide (e < 4 * r.quads) && (r.elem e).isMatrix && !(r.elem e).mat.fathomed && s.sideLive r e && s.slotOpen (r.sector e) then some r
    else none

def Region.updMat (r : Region) (e : Nat) (f : Mat → Mat) : Region := r.updElem e (fun x => { x with mat := f x.mat })

/-- The conditions of the steps of R265. -/
structure Can where
  chain : Bool
  emit : Bool
  token : Bool
  beat : Bool
  close : Bool
  outer : Bool
  behind : Bool
  deriving DecidableEq, Repr

def isStopAt (l : Nat) (t : Option Tile) : Bool :=
  match t with
  | some x => isStop x.tag && levelOf x.tag == l
  | none => false

def State.canStep (s : State) (r : Region) (e : Nat) : Can :=
  let el := r.elem e
  let w := el.static
  let m := el.mat
  let ha := s.opHead r e (stA w)
  let hb := s.opHead r e (stB w)
  let resFree := el.codeFree (stRes w)
  let passFree := el.codeFree (stPassA w) && el.codeFree (stPassB w)
  let aResult := match ha with
    | some t => t.result
    | none => false
  let both := match ha, hb with
    | some a, some b => isOperand a && isOperand b
    | _, _ => false
  let level := match ha with
    | some a => levelOf a.tag
    | none => 0
  let stops := isStopAt level ha && isStopAt level hb
  let ranks := match ha, hb with
    | some a, some b => (match tileRank a, tileRank b with
      | some x, some y => x != y
      | _, _ => false)
    | _, _ => false
  let lowFree := match ha, hb with
    | some a, some b => if a.result then el.codeFree (stPassA w)
      else if (tileRank a).getD 0 < (tileRank b).getD 0 then el.codeFree (stPassA w) else el.codeFree (stPassB w)
    | _, _ => el.codeFree (stPassA w)
  { chain := m.accFull && !m.rtd && decide (m.rb.toNat < r.column e) && aResult && resFree
    emit := m.accFull && !m.rtd && m.rb.toNat == r.column e && resFree
    token := m.accFull && m.rtd && resFree
    beat := !m.accFull && both && passFree
    close := !m.accFull && stops && level == 0 && passFree
    outer := !m.accFull && stops && level != 0 && (m.bc != 0 || (passFree && (!mcRstop (el.const 0) || resFree)))
    behind := !m.accFull && (ranks || aResult) && lowFree }

/-- MATRIX_CHAIN. -/
def execMatrixChain (region elem : Nat) (s : State) : Host.Outcome State Fault Refusal :=
  match s.matrixAt region elem with
  | none => .next s
  | some r =>
    let w := (r.elem elem).static
    match s.opHead r elem (stA w) with
    | some t =>
      if (s.canStep r elem).chain then
        let r1 := (r.updElem elem (fun x => x.takeOp (stA w))).placeTile s.cyc elem (stRes w) t
        .next (s.setRegion (r1.updMat elem (fun m => { m with rb := m.rb + 1, pcnt := if isPoison t.tag then m.pcnt + 1 else m.pcnt })))
      else .next s
    | none => .next s

/-- MATRIX_EMIT. -/
def execMatrixEmit (region elem : Nat) (s : State) : Host.Outcome State Fault Refusal :=
  match s.matrixAt region elem with
  | none => .next s
  | some r =>
    let el := r.elem elem
    if (s.canStep r elem).emit then
      let r1 := r.placeTile s.cyc elem (stRes el.static) (resultTile el.fmt (el.const 0) el.mat)
      .next (s.setRegion (r1.updMat elem (fun m =>
        if mcRstop (el.const 0) then { m with rtd := true, pcnt := if m.pz then m.pcnt + 1 else m.pcnt } else m.clearAcc)))
    else .next s

/-- MATRIX_TOKEN: the completion token of R269. -/
def execMatrixToken (region elem : Nat) (s : State) : Host.Outcome State Fault Refusal :=
  match s.matrixAt region elem with
  | none => .next s
  | some r =>
    let el := r.elem elem
    if (s.canStep r elem).token then
      let t : Tile := ⟨mkTag 1 0, false, BitVec.ofNat 2048 (r.column elem + 1 + 2 ^ 16 * el.mat.pcnt.toNat), 0⟩
      .next (s.setRegion ((r.placeTile s.cyc elem (stRes el.static) t).updMat elem Mat.clearAcc))
    else .next s

/-- Both operands are taken and forwarded. -/
def Region.passBoth (r : Region) (now e : Nat) (a b : Tile) : Region :=
  let w := (r.elem e).static
  ((r.updElem e (fun x => (x.takeOp (stA w)).takeOp (stB w))).placeTile now e (stPassA w) a).placeTile now e (stPassB w) b

/-- MATRIX_BEAT (R266, R274). -/
def execMatrixBeat (region elem : Nat) (s : State) : Host.Outcome State Fault Refusal :=
  match s.matrixAt region elem with
  | none => .next s
  | some r =>
    let el := r.elem elem
    match s.opHead r elem (stA el.static), s.opHead r elem (stB el.static) with
    | some a, some b =>
      if (s.canStep r elem).beat then
        let bad := isPoison a.tag || isPoison b.tag
        let r1 := (r.passBoth s.cyc elem a b).updMat elem (fun m => { m with
          accTile := if bad then m.accTile else beatTile el.fmt m.accTile a b
          pz := m.pz || bad
          bc := if m.bc = 0xFFFF then m.bc else m.bc + 1 })
        .next (if bad then (s.setRegion r1).reportPoison region elem else s.setRegion r1)
      else .next s
    | _, _ => .next s

/-- MATRIX_CLOSE. -/
def execMatrixClose (region elem : Nat) (s : State) : Host.Outcome State Fault Refusal :=
  match s.matrixAt region elem with
  | none => .next s
  | some r =>
    let w := (r.elem elem).static
    match s.opHead r elem (stA w), s.opHead r elem (stB w) with
    | some a, some b =>
      if (s.canStep r elem).close then
        .next (s.setRegion ((r.passBoth s.cyc elem a b).updMat elem (fun m => { m with accFull := true })))
      else .next s
    | _, _ => .next s

/-- MATRIX_OUTER: with beats in the open round the round closes first, poisoned. -/
def execMatrixOuter (region elem : Nat) (s : State) : Host.Outcome State Fault Refusal :=
  match s.matrixAt region elem with
  | none => .next s
  | some r =>
    let el := r.elem elem
    match s.opHead r elem (stA el.static), s.opHead r elem (stB el.static) with
    | some a, some b =>
      if (s.canStep r elem).outer then
        if el.mat.bc != 0 then
          .next ((s.setRegion (r.updMat elem (fun m => { m with accFull := true, pz := true }))).reportShape region elem)
        else
          let r1 := r.passBoth s.cyc elem a b
          .next (s.setRegion (if mcRstop (el.const 0) then
            r1.placeTile s.cyc elem (stRes el.static) ⟨mkTag 1 (levelOf a.tag), false, 0, 0⟩ else r1))
      else .next s
    | _, _ => .next s

/-- MATRIX_BEHIND: the lower-ranked head, or a result tile at SEL_A, is shed (R271). -/
def execMatrixBehind (region elem : Nat) (s : State) : Host.Outcome State Fault Refusal :=
  match s.matrixAt region elem with
  | none => .next s
  | some r =>
    let w := (r.elem elem).static
    let ha := s.opHead r elem (stA w)
    let hb := s.opHead r elem (stB w)
    if (s.canStep r elem).behind then
      let shed := fun (c pass : Nat) (t : Tile) =>
        let r1 := (r.updElem elem (fun x => x.takeOp c)).placeTile s.cyc elem pass t
        (s.setRegion (r1.updMat elem (fun m => { m with pz := true }))).reportShape region elem
      match ha, hb with
      | some a, some b =>
        .next (if a.result || decide ((tileRank a).getD 0 < (tileRank b).getD 0) then shed (stA w) (stPassA w) a else shed (stB w) (stPassB w) b)
      | some a, none => .next (shed (stA w) (stPassA w) a)
      | none, _ => .next s
    else .next s

def isFathomHead (t : Option Tile) : Bool :=
  match t with
  | some x => isFathom x.tag
  | none => false

def Can.any (k : Can) : Bool := k.chain || k.emit || k.token || k.beat || k.close || k.outer || k.behind

/-- The fathom step can be performed: a fathom at every channel the element reads, no other step, every output it uses empty. -/
def State.canFathom (s : State) (r : Region) (e : Nat) : Bool :=
  let el := r.elem e
  let w := el.static
  let c0 := el.const 0
  isFathomHead (s.headTile r e (stA w - 1)) && isFathomHead (s.headTile r e (stB w - 1))
    && (mcRep c0 == 0 || isFathomHead (s.headTile r e (mcCin c0 - 1)))
    && el.codeFree (stPassA w) && el.codeFree (stPassB w) && el.codeFree (stRes w) && el.codeFree (mcCpass c0)
    && !(s.canStep r e).any

/-- MATRIX_FATHOM (R276). -/
def execMatrixFathom (region elem : Nat) (s : State) : Host.Outcome State Fault Refusal :=
  match s.matrixAt region elem with
  | none => .next s
  | some r =>
    let el := r.elem elem
    let w := el.static
    let c0 := el.const 0
    if s.canFathom r elem then
      let r1 := r.updMat elem (fun m =>
        let m1 := (m.deq (stA w - 1)).deq (stB w - 1)
        { (if mcRep c0 = 0 then m1 else m1.deq (mcCin c0 - 1)) with fathomed := true })
      let place := fun (q : Region) (c : Nat) => if c != 0 && (q.elem elem).outFree (c - 1) then q.placeTile s.cyc elem c fathomTile else q
      .next (s.setRegion (place (place (place (place r1 (stPassA w)) (stPassB w)) (stRes w)) (mcCpass c0)))
    else .next s

/-- A repeat node takes a tile of its fibre. A stop of LEVEL 0 ends the fibre; after eight tiles the rest is discarded. A stop of a higher
LEVEL inside the fibre is dropped, and the taking goes on (DESIGN CHOICE: R273 does not speak of it; log entry 33). -/
def State.takeFibre (s : State) (r : Region) (e x : Nat) (h : Tile) : State :=
  let m := (r.elem e).mat
  if isStop h.tag then
    s.setRegion (r.updMat e (fun m =>
      let m1 := m.deq (x - 1)
      if levelOf h.tag != 0 then m1
      else if m.rcount = 0 then { m1 with rtaking := false, rbuf := [], rlen := 0, rpos := 0, rpoison := false }
      else { m1 with rtaking := false, rlen := BitVec.ofNat 4 m.rbuf.length, rpos := 0 }))
  else if m.rbuf.length < 8 then
    s.setRegion (r.updMat e (fun m => { (m.deq (x - 1)) with rbuf := m.rbuf ++ [h] }))
  else (s.setRegion (r.updMat e (fun m => { (m.deq (x - 1)) with rpoison := true }))).reportShape r.id e

/-- What a repeat node takes next, if anything: behind a fathom on its operand or its count channel it takes nothing (R276). -/
def State.repeatStep (s : State) (r : Region) (e : Nat) : Option State :=
  let el := r.elem e
  let c0 := el.const 0
  let x := el.repCode
  let m := el.mat
  let cin := s.headTile r e (mcCin c0 - 1)
  if x = 0 then none
  else
    match s.headTile r e (x - 1) with
    | none => none
    | some h =>
      if isFathom h.tag || isFathomHead cin then none
      else if m.rtaking then some (s.takeFibre r e x h)
      else if m.rcount != 0 || (isStop h.tag && levelOf h.tag != 0) then none
      else
        match cin with
        | none => none
        | some t =>
          if !el.codeFree (mcCpass c0) then none
          else
            let r1 := (r.updMat e (fun m => m.deq (mcCin c0 - 1))).placeTile s.cyc e (mcCpass c0) t
            some (s.setRegion (if isStop t.tag then r1
              else r1.updMat e (fun m => { m with
                rtaking := true, rbuf := [], rlen := 0, rpos := 0, rpoison := isPoison t.tag
                rcount := if isPoison t.tag then 1 else t.data.extractLsb' 0 32 })))

/-- REPEAT_NODE: takes a count, then a fibre; what it then presents the other steps read (R273). -/
def execRepeatNode (region elem : Nat) (s : State) : Host.Outcome State Fault Refusal :=
  match s.matrixAt region elem with
  | none => .next s
  | some r => .next ((s.repeatStep r elem).getD s)

/-! ## The end of the drain (R277) -/

/-- Nothing of an element of the array can move any more, and its exits are empty: it has performed its fathom step, or it holds a tile
whose partner does not come before the fathom, which stays with it (DESIGN CHOICE: log entry 33). -/
def State.atRest (s : State) (r : Region) (e : Nat) : Bool :=
  let el := r.elem e
  (el.mat.fathomed || !((s.canStep r e).any || s.canFathom r e || (s.repeatStep r e).isSome))
    && (List.range 4).all (fun o => (el.outch o).q.isEmpty && (match el.mat.outT o, r.tileDest e o with
      | some _, some (m, i) => ((r.elem m).mat.inT i).isSome
      | some _, none => false
      | none, _ => true))

/-- The tokens that were on their way to an entry as the fathoms were placed have entered. -/
def State.entriesQuiet (s : State) (r : Region) (e : Nat) : Bool :=
  (List.range 4).all (fun i => !r.isEntry e i
    || (r.feeds e i).2.all (fun k => (s.wire k).flight.isEmpty && (s.wire k).bypass.isNone))

/-- The drain is complete. -/
def State.drained (s : State) (r : Region) : Bool :=
  (List.range (4 * r.quads)).all (fun e => !(r.elem e).isMatrix || (s.entriesQuiet r e && s.atRest r e))

end Sys2Proof.Machine
end

