-- ==== Sys2Proof/Machine/Crypto.lean ====
section
/-!
DEFINITION. Crypto.lean: SHA-256 and ECDSA over P-256 (R452, R453). Both are named by the spec, whose text for them is FIPS 180-4 and
FIPS 186-4 (log entry 8).
-/
namespace Sys2Proof.Machine

/-! ## SHA-256 -/

/-- The largest r below 2^b whose k-th power is at most n, found bit by bit from the highest. -/
def rootBelow (k n : Nat) : Nat → Nat → Nat
  | 0, r => r
  | b + 1, r => rootBelow k n b (if (r + 2 ^ b) ^ k ≤ n then r + 2 ^ b else r)

/-- The first 64 primes: 311 is the last, so a divisor up to 17 decides. -/
def shaPrimes : List Nat := (List.range 312).filter (fun p => decide (2 ≤ p) && [2, 3, 5, 7, 11, 13, 17].all (fun d => p == d || p % d != 0))
/-- The first 32 bits of the fraction of the k-th root of p, the form in which the standard defines its constants. -/
def rootFraction (k p : Nat) : Nat := rootBelow k (p * 2 ^ (32 * k)) 35 0 % 2 ^ 32
/-- The round constants: cube roots of the first 64 primes. -/
def shaK : List Nat := shaPrimes.map (rootFraction 3)

def rotr (x : Word) (n : Nat) : Word := x.rotateRight n

/-- The message schedule: 48 further words, each from the sixteen before it; the list holds the latest word first. -/
def shaExpand : Nat → List Word → List Word
  | 0, w => w
  | n + 1, w =>
    let a := w.getD 14 0
    let b := w.getD 1 0
    let s0 := rotr a 7 ^^^ rotr a 18 ^^^ (a >>> 3)
    let s1 := rotr b 17 ^^^ rotr b 19 ^^^ (b >>> 10)
    shaExpand n ((w.getD 15 0 + s0 + w.getD 6 0 + s1) :: w)

/-- The eight working words a to h, or a hash value. -/
structure Sha where
  a : Word
  b : Word
  c : Word
  d : Word
  e : Word
  f : Word
  g : Word
  h : Word
  deriving DecidableEq, Repr

/-- The initial hash: square roots of the first eight primes. -/
def shaInit : Sha :=
  let h := fun (p : Nat) => BitVec.ofNat 32 (rootFraction 2 p)
  ⟨h 2, h 3, h 5, h 7, h 11, h 13, h 17, h 19⟩

def Sha.round (x : Sha) (k w : Word) : Sha :=
  let t1 := x.h + (rotr x.e 6 ^^^ rotr x.e 11 ^^^ rotr x.e 25) + ((x.e &&& x.f) ^^^ (~~~x.e &&& x.g)) + k + w
  let t2 := (rotr x.a 2 ^^^ rotr x.a 13 ^^^ rotr x.a 22) + ((x.a &&& x.b) ^^^ (x.a &&& x.c) ^^^ (x.b &&& x.c))
  ⟨t1 + t2, x.a, x.b, x.c, x.d + t1, x.e, x.f, x.g⟩

def Sha.rounds : List Nat → List Word → Sha → Sha
  | k :: ks, w :: ws, x => Sha.rounds ks ws (x.round (BitVec.ofNat 32 k) w)
  | _, _, x => x

def Sha.add (x y : Sha) : Sha := ⟨x.a + y.a, x.b + y.b, x.c + y.c, x.d + y.d, x.e + y.e, x.f + y.f, x.g + y.g, x.h + y.h⟩

/-- A big-endian number. -/
def beNat : List Byte → Nat → Nat
  | [], v => v
  | b :: t, v => beNat t (256 * v + b.toNat)
def beBytes (v : Nat) : Nat → List Byte
  | 0 => []
  | n + 1 => BitVec.ofNat 8 (v / 256 ^ n) :: beBytes v n

def shaWords (block : List Byte) : List Word :=
  (List.range 16).map (fun i => BitVec.ofNat 32 (beNat ((block.drop (4 * i)).take 4) 0))

def Sha.block (x : Sha) (block : List Byte) : Sha := x.add (Sha.rounds shaK (shaExpand 48 (shaWords block).reverse).reverse x)

def Sha.blocks : Nat → List Byte → Sha → Sha
  | 0, _, x => x
  | n + 1, l, x => Sha.blocks n (l.drop 64) (x.block (l.take 64))

/-- One bit, zeros, and the length in bits. -/
def shaPad (l : List Byte) : List Byte :=
  l ++ [0x80] ++ List.replicate ((119 - l.length % 64) % 64) 0 ++ beBytes (8 * l.length) 8

def Sha.bytes (x : Sha) : List Byte := [x.a, x.b, x.c, x.d, x.e, x.f, x.g, x.h].flatMap (fun w => beBytes w.toNat 4)

/-- SHA-256 of a byte string: 32 bytes. -/
def sha256 (l : List Byte) : List Byte :=
  let m := shaPad l
  (Sha.blocks (m.length / 64) m shaInit).bytes

/-! ## P-256 -/

def p256P : Nat := 0xffffffff00000001000000000000000000000000ffffffffffffffffffffffff
def p256N : Nat := 0xffffffff00000000ffffffffffffffffbce6faada7179e84f3b9cac2fc632551
def p256B : Nat := 0x5ac635d8aa3a93e7b3ebbd55769886bc651d06b0cc53b0f63bce3c3e27d2604b
def p256G : Nat × Nat :=
  (0x6b17d1f2e12c4247f8bce6e563a440f277037d812deb33a0f4a13945d898c296,
   0x4fe342e2fe1a7f9b8ee7eb4a7c0f9e162bce33576b315ececbb6406837bf51f5)

/-- A power modulo m; the first argument bounds the bits of the exponent. -/
def powMod (m : Nat) : Nat → Nat → Nat → Nat
  | 0, _, _ => 1 % m
  | k + 1, b, e =>
    let h := powMod m k (b * b % m) (e / 2)
    if e % 2 = 1 then b * h % m else h
/-- An inverse modulo a prime. -/
def invMod (m a : Nat) : Nat := powMod m 256 (a % m) (m - 2)

/-- A point of the curve; none is the point at infinity. -/
abbrev Point := Option (Nat × Nat)

def onCurve (q : Nat × Nat) : Bool :=
  decide (q.1 < p256P) && decide (q.2 < p256P) && q.2 * q.2 % p256P == (q.1 * q.1 % p256P * q.1 + (p256P - 3) * q.1 + p256B) % p256P

def pointVia (l : Nat) (a b : Nat × Nat) : Point :=
  let x := (l * l + 2 * p256P - a.1 - b.1) % p256P
  some (x, (l * (a.1 + p256P - x) + p256P - a.2) % p256P)

def pointAdd (p q : Point) : Point :=
  match p, q with
  | none, r | r, none => r
  | some a, some b =>
    if a.1 = b.1 then
      (if (a.2 + b.2) % p256P = 0 then none
      else pointVia ((3 * a.1 * a.1 + p256P - 3) * invMod p256P (2 * a.2) % p256P) a b)
    else pointVia ((b.2 + p256P - a.2) * invMod p256P (b.1 + p256P - a.1) % p256P) a b

/-- k times a point; the first argument bounds the bits of k. -/
def pointMul : Nat → Nat → Point → Point
  | 0, _, _ => none
  | n + 1, k, p => if k % 2 = 1 then pointAdd p (pointMul n (k / 2) (pointAdd p p)) else pointMul n (k / 2) (pointAdd p p)

/-! ## ECDSA -/

def sigOf (r s : Nat) : BitVec 512 := BitVec.ofNat 512 (r * 2 ^ 256 + s)

/-- Whether r and s sign the hash of a message under a public key. -/
def ecdsaVerify (key : Nat × Nat) (msg : List Byte) (sig : BitVec 512) : Bool :=
  let r := sig.toNat / 2 ^ 256
  let s := sig.toNat % 2 ^ 256
  let z := beNat (sha256 msg) 0
  let w := invMod p256N s
  decide (0 < r) && decide (r < p256N) && decide (0 < s) && decide (s < p256N) && onCurve key
    && (match pointAdd (pointMul 256 (z * w % p256N) (some p256G)) (pointMul 256 (r * w % p256N) (some key)) with
      | some q => q.1 % p256N == r
      | none => false)

/-- The signature of a message with private scalar d and secret number k; none where k serves no signature. -/
def ecdsaSign (d k : Nat) (msg : List Byte) : Option (BitVec 512) :=
  match pointMul 256 k (some p256G) with
  | none => none
  | some q =>
    let r := q.1 % p256N
    let s := invMod p256N k * (beNat (sha256 msg) 0 + r * d) % p256N
    if r = 0 || s = 0 || k = 0 || p256N ≤ k then none else some (sigOf r s)

/-- The private scalar of the identity key, in its range, and the public key (R453). -/
def identityD : Nat := Config.identityScalar % (p256N - 1) + 1
def identityKey : Nat × Nat := (pointMul 256 identityD (some p256G)).getD (0, 0)

end Sys2Proof.Machine
end

