-- ==== Sys2Proof/Machine/Device.lean ====
section
/-!
DEFINITION. Device.lean: the device register space (R430 to R436, R442, R443, R447 to R454): every register with its access, and
what a write does; byte rings as brng.get, brng.rel and a host-queue fetch read them (R214, R215, R433).
-/
namespace Sys2Proof.Machine

/-! ## Reads -/

def State.hostQ (s : State) (q : Nat) : HostQ := AMap.getD s.hostQs q {}
def State.setHostQ (s : State) (q : Nat) (x : HostQ) : State := { s with hostQs := AMap.set s.hostQs q x }
def HostQ.word0 (h : HostQ) : Nat :=
  (if h.en then 1 else 0) + (if h.frz then 2 else 0) + 4 * (h.ctx % 64) + 256 * (h.sema % 2 ^ 14)
def State.hdmW (s : State) (w : Nat) : Hdm := AMap.getD s.hdm w {}
def Hdm.word1 (h : Hdm) : Nat :=
  h.size % 2 ^ 32 + 2 ^ 32 * (h.ctx % 64) + (if h.en then 2 ^ 38 else 0) + 2 ^ 39 * (h.tbay % 4)
def APort.word (p : APort) : Nat :=
  (if p.up then 1 else 0) + (if p.train then 2 else 0) + 256 * p.rpl.toNat + 2 ^ 16 * p.corr.toNat

/-- Doubleword k of a wider value. -/
def dwordAt (v k : Nat) : Nat := bits v (64 * k + 63) (64 * k)

/-- The four masks a doubleword of the mask table holds. -/
def State.maskWord (s : State) (p : Nat) : Nat :=
  (s.routeMask p).toNat + 2 ^ 16 * (s.routeMask (p + 1)).toNat + 2 ^ 32 * (s.routeMask (p + 2)).toNat
    + 2 ^ 48 * (s.routeMask (p + 3)).toNat

/-- Doubleword k of two numbers of 32 bytes, each big-endian: SIG holds r then s, IDPUB x then y (R454; the byte order of IDPUB is
DEDUCED: log entry 8). -/
def pairWord (v : Nat × Nat) (k : Nat) : Nat := leNat (((beBytes v.1 32 ++ beBytes v.2 32).drop (8 * k)).take 8)
def State.sigWord (s : State) (k : Nat) : Nat := pairWord (s.sig.toNat / 2 ^ 256, s.sig.toNat % 2 ^ 256) k
/-- Doubleword k of the hash of an image; zero while there is none. -/
def hashWord (image : Option (List Byte)) (k : Nat) : Nat :=
  match image with
  | some l => leNat (((sha256 l).drop (8 * k)).take 8)
  | none => 0

/-- The pending-bit array's doubleword k. -/
def State.pbaWord (s : State) (k : Nat) : Nat :=
  (List.range 64).foldl (fun v i => if s.msixPend.contains (64 * k + i) then v + 2 ^ i else v) 0

/-- The aligned doubleword at an offset of the device space; an address the table does not list reads zero (R430). -/
def State.devWord (s : State) (off : Nat) : Nat :=
  if off < 0x1000000 then
    if off = 0x000 then s.bootst.toNat
    else if off = 0x008 then s.rcvaddr.toNat
    else if 0x100 ≤ off && off < 0x120 then dwordAt s.nonce.toNat ((off - 0x100) / 8)
    else if off = 0x128 then s.attst.toNat
    else if 0x140 ≤ off && off < 0x180 then s.sigWord ((off - 0x140) / 8)
    else if 0x180 ≤ off && off < 0x1C0 then pairWord identityKey ((off - 0x180) / 8)
    else if 0x1C0 ≤ off && off < 0x1E0 then hashWord s.fwImage ((off - 0x1C0) / 8)
    else if 0x1E0 ≤ off && off < 0x200 then hashWord s.blobImage ((off - 0x1E0) / 8)
    else if 0x10000 ≤ off && off < 0x30000 then dwordAt (AMap.getD s.evlog ((off - 0x10000) / 32) 0).toNat (off % 32 / 8)
    else 0
  else if off < 0x2000000 then
    let h := s.hostQ ((off - 0x1000000) / 0x1000)
    let o := off % 0x1000
    if o = 0 then h.word0 else if o = 8 then h.qcb.toNat else if o = 0x18 then h.fetch.toNat else 0
  else if off < 0x2008000 then (s.msixWord ((off - 0x2000000) / 8)).toNat
  else if off < 0x2008100 then s.pbaWord ((off - 0x2008000) / 8)
  else if 0x4000000 ≤ off && off < 0x4000800 then
    let h := s.hdmW ((off - 0x4000000) / 0x20)
    let o := off % 0x20
    if o = 0 then h.hbase.toNat else if o = 8 then h.word1 else if o = 0x10 then h.vbase.toNat else 0
  else if 0x5000000 ≤ off && off < 0x5002000 then s.maskWord ((off - 0x5000000) / 2)
  else if 0x5002000 ≤ off && off < 0x5002080 then (AMap.getD s.aports ((off - 0x5002000) / 8) {}).word
  else 0

/-- A read of 4 or 8 bytes, aligned. -/
def State.devRead (s : State) (pa n : Nat) : Nat :=
  let off := pa - 0xF000000000
  let w := s.devWord (off / 8 * 8)
  if n = 8 then w else bits w (8 * (off % 8) + 31) (8 * (off % 8))

/-- A plain load of n bytes by a command, which a core may also make of a device page (R285). -/
def plainM (w : Who) (va : DWord) (n : Nat) : Mach Nat := do
  let x ← accessM w .load va n
  let s ← get
  if x.mt = 2 then pure (s.devRead (lowOf x.pa) n)
  else
    if s.coreWaits w va x n then waitM
    let (v, p) ← readAtM w x n
    if p then raiseM Cause.poisonConsumed va
    pure v

/-- n doublewords from va, by plain loads. -/
def plainWordsM (w : Who) (va : DWord) : Nat → Mach (List Nat)
  | 0 => pure []
  | n + 1 => do
    let v ← plainM w va 8
    let t ← plainWordsM w (va + 8) n
    pure (v :: t)

/-! ## Byte rings (R214, R215) -/

structure RingView where
  base : Nat
  size : Nat
  tail : Nat
  head : Nat
  deriving DecidableEq, Repr

/-- The control block at ga; a LOG2SIZE outside 12 to 30 or a misaligned BASE raises RING_FORMAT. -/
def ringView (w : Who) (ga : DWord) : Mach RingView := do
  let t ← loadM w (ga + 0x10) 8
  let h ← loadM w (ga + 0x18) 8
  let base ← loadM w ga 8
  let l ← loadM w (ga + 8) 8
  let n := l % 64
  if n < 12 || 30 < n || base % 2 ^ n != 0 then raiseM Cause.ringFormat ga
  pure ⟨base, 2 ^ n, t, h⟩

/-- The record at offset h: its address, its whole length and its KIND, validated as R215 has it. -/
def ringRecord (w : Who) (ga : DWord) (v : RingView) (h : Nat) : Mach (DWord × Nat × Nat) := do
  let a := BitVec.ofNat 64 (v.base + h % v.size)
  let hdr ← plainM w a 8
  let len := 8 + (hdr % 2 ^ 32 + 7) / 8 * 8
  if v.size - h % v.size < len || v.tail < h + len then raiseM Cause.ringFormat ga
  pure (a, len, bits hdr 39 32)

/-! ## Writes -/

/-- Who writes a device register: the host over CXL.io, the Sceip core, or a sector sequencer of a context. -/
inductive DevAgent where
  | host
  | sceip
  | sector (c ctx : Nat)
  deriving DecidableEq, Repr

/-- RW fields are written by the host or the Sceip core, M fields by the Sceip core alone (R430). -/
def DevAgent.rw : DevAgent → Bool
  | .host | .sceip => true
  | .sector _ _ => false
def DevAgent.m : DevAgent → Bool
  | .sceip => true
  | _ => false

/-- A host queue is stopped by a cause: EN clears, F stays, an error record is written (R433). -/
def State.queueError (s : State) (q : Nat) (cause : Byte) (addr : DWord) : State :=
  let h := s.hostQ q
  (s.setHostQ q { h with en := false, enabling := false, fetching := false, again := false }).record
    { cause := cause, cls := 2, mkind := 3, ctx := h.ctx, mid := midQueue q, addr := addr, srcIs := some (h.sema / 64 % 256) }

def whoQueue (s : State) (q : Nat) : Who := ⟨(s.hostQ q).ctx, 0, .part, 0, none, .island 9 q⟩

/-- EN from 0 to 1: F takes the ring's HEAD (R433). -/
def State.queueEnable (s : State) (q : Nat) : State :=
  match (loadM (whoQueue s q) ((s.hostQ q).qcb + 0x18) 8).exec s with
  | (.ok h, s1) => (s1.setHostQ q { s1.hostQ q with en := true, enabling := false, fetch := BitVec.ofNat 64 h }).endReads (.island 9 q)
  | (.error (.raise c a), s1) => (s1.queueError q c a).endReads (.island 9 q)
  | (.error _, s1) => s1.setHostQ q { s1.hostQ q with en := true, enabling := true }

/-- A DOORBELL write: starts a fetch, or is merged into one further fetch (R433). -/
def State.doorbell (s : State) (q : Nat) : State :=
  let h := s.hostQ q
  if !h.en || h.frz then s
  else if h.fetching then s.setHostQ q { h with again := true }
  else s.setHostQ q { h with fetching := true }

/-- A write to ATTGO: NONCE is captured, unless attestation is busy (R454). -/
def State.attgo (s : State) : State := if s.attst = 1 then s else { s with attst := 1, nonceHeld := s.nonce }

/-- A write to RCVGO in state 2 or 3 starts recovery (R454). -/
def State.rcvgo (s : State) : State := if s.bootst.toNat < 2 then s else { s with rcvRun := true }

/-- In-flight requests to a package (R442). -/
def State.inFlightTo (s : State) (p : Nat) : Bool := s.reqs.any (fun r => pkgOf r.addr == p)

/-- A new route mask is applied once every request to the package has completed (R442). -/
def State.writeMask (s : State) (p : Nat) (m : BitVec 16) : State :=
  if s.inFlightTo p then { s with newMasks := AMap.set s.newMasks p m }
  else { s with masks := if m = 0 then AMap.erase s.masks p else AMap.set s.masks p m, newMasks := AMap.erase s.newMasks p }

/-- Replaces the bytes of a doubleword that a write of n bytes at offset off covers. -/
def mergeWord (old off n v : Nat) : Nat :=
  if n = 8 then v % 2 ^ 64
  else if off % 8 = 0 then old / 2 ^ 32 * 2 ^ 32 + v % 2 ^ 32
  else old % 2 ^ 32 + 2 ^ 32 * (v % 2 ^ 32)

/-- The masks that a write covers, from that of package p on. A write of the mask in force takes back one that waits. -/
def writeMasks (s : State) (p w : Nat) : Nat → State
  | 0 => s
  | k + 1 =>
    let s1 := writeMasks s p w k
    let m := BitVec.ofNat 16 (bits w (16 * k + 15) (16 * k))
    if s1.routeMask (p + k) = m then { s1 with newMasks := AMap.erase s1.newMasks (p + k) } else s1.writeMask (p + k) m

/-- The fields of a host-queue block (R432). -/
def State.writeQueue (s : State) (a : DevAgent) (q o n off v : Nat) : State :=
  let h := s.hostQ q
  if o = 0 then
    let w := mergeWord h.word0 off n v
    let h1 := { h with
      ctx := if a.m then bits w 7 2 else h.ctx
      sema := if a.rw then bits w 21 8 else h.sema }
    if !a.rw then s
    else if bit w 0 && !h.en then (s.setHostQ q h1).queueEnable q
    else s.setHostQ q { h1 with en := bit w 0, enabling := h.enabling && bit w 0 }
  else if o = 8 then (if a.rw then s.setHostQ q { h with qcb := BitVec.ofNat 64 (mergeWord h.qcb.toNat off n v) } else s)
  else if o = 0x10 then s.doorbell q
  else s

/-- The fields of an HDM window (R436). -/
def State.writeHdm (s : State) (w o n off v : Nat) : State :=
  let h := s.hdmW w
  let x := fun old => mergeWord old off n v
  let h1 :=
    if o = 0 then { h with hbase := BitVec.ofNat 64 (x h.hbase.toNat / 2 ^ 28 * 2 ^ 28) }
    else if o = 8 then
      let y := x h.word1
      { h with size := y % 2 ^ 32, ctx := bits y 37 32, en := bit y 38, tbay := bits y 40 39 }
    else if o = 0x10 then { h with vbase := BitVec.ofNat 64 (x h.vbase.toNat / 2 ^ 28 * 2 ^ 28) }
    else h
  { s with hdm := AMap.set s.hdm w h1 }

/-- A pending message leaves as soon as nothing masks it. -/
def State.sendPending (s : State) (l : List Nat) : State :=
  l.foldl (fun u v => if u.msixPend.contains v && !u.msixMasked v then u.sendMsix v else u) s

/-- A write to an MSI-X table entry; unmasking sends a pending message. -/
def State.writeMsix (s : State) (k n off v : Nat) : State :=
  { s with msixTable := AMap.set s.msixTable k (BitVec.ofNat 64 (mergeWord (s.msixWord k).toNat off n v)) }.sendPending [k / 2]

/-! ## The MSI-X capability (R435). The spec gives no configuration space: its place there is the model's (log entry 12). -/

def msixCap : Nat := 0xB0
/-- Its first word: the capability's number, the table size less one, and Message Control. -/
def State.msixCapWord (s : State) : Nat := 0x11 + 2 ^ 16 * (2047 + (s.msixCtl.toNat / 2 ^ 14) * 2 ^ 14)
/-- A configuration write: enable and function mask change, and messages that nothing masks any more are sent. -/
def State.writeMsixCtl (s : State) (v : Nat) : State :=
  { s with msixCtl := BitVec.ofNat 16 (bits v 31 30 * 2 ^ 14) }.sendPending s.msixPend

/-- The kinds of outstanding result that are memory accesses. -/
def Pend.isAccess (p : Pend) : Bool :=
  match p.kind with
  | .load _ _ | .amo _ | .vld => true
  | _ => false

/-- An INTR store: a message of the storing context, sent after the core's earlier accesses (R434, R435). -/
def State.intrStore (s : State) (c ctx v : Nat) : State :=
  let k := v % 32
  let x := s.core c
  if k = 0 then s else { s with msgs := s.msgs ++ [⟨32 * ctx + k, c, x.remoteWrites.map (fun w => w.req) ++ x.held.map (fun h => h.id) ++ (x.pend.filter Pend.isAccess).map (fun p => p.id)⟩] }

/-- A write of 4 or 8 bytes; an address the table does not list, or a field the agent may not write, is ignored (R430). -/
def State.devWrite (s : State) (a : DevAgent) (pa n v : Nat) : State :=
  let off := pa - 0xF000000000
  let o8 := off / 8 * 8
  if o8 < 0x1000000 then
    if o8 = 0x008 then (if a.rw then { s with rcvaddr := BitVec.ofNat 64 (mergeWord s.rcvaddr.toNat off n v) } else s)
    else if o8 = 0x010 then s.rcvgo
    else if 0x100 ≤ o8 && o8 < 0x120 then
      if a.rw then
        let k := (o8 - 0x100) / 8
        let w := mergeWord (dwordAt s.nonce.toNat k) off n v
        { s with nonce := BitVec.ofNat 256 (s.nonce.toNat - dwordAt s.nonce.toNat k * 2 ^ (64 * k) + w * 2 ^ (64 * k)) }
      else s
    else if o8 = 0x120 then s.attgo
    else s
  else if o8 < 0x2000000 then s.writeQueue a ((o8 - 0x1000000) / 0x1000) (o8 % 0x1000) n off v
  else if o8 < 0x2008000 then (if a.rw then s.writeMsix ((o8 - 0x2000000) / 8) n off v else s)
  else if o8 = 0x3000000 then
    match a with
    | .sector c ctx => if n = 8 then s.intrStore c ctx v else s
    | .sceip => if n = 8 then s.intrStore Config.sceip 0 v else s
    | .host => s
  else if 0x4000000 ≤ o8 && o8 < 0x4000800 then
    (if a.m then s.writeHdm ((o8 - 0x4000000) / 0x20) (o8 % 0x20) n off v else s)
  else if 0x5000000 ≤ o8 && o8 < 0x5002000 then
    (if a.m then writeMasks s ((off - 0x5000000) / 2) v (n / 2) else s)
  else s

end Sys2Proof.Machine
end

