-- ==== Sys2Proof/Machine/SeqCore.lean ====
section
/-!
DEFINITION. SeqCore.lean: how one sequencer instruction executes (R166 to R169): reservations, poison marks, precise faults,
waits and the advance of pc.
-/
namespace Sys2Proof.Machine

/-- Where execution goes after an instruction. -/
inductive Flow where
  | next
  | to (pc : DWord)
  | stay
  deriving DecidableEq, Repr

/-- The instruction has executed: pc moves on, a wait ends. -/
def State.retire (s : State) (c len : Nat) (fl : Flow) : State :=
  let x := s.core c
  let pc := match fl with
    | .next => x.pc + BitVec.ofNat 64 len
    | .to t => t
    | .stay => x.pc
  (s.setCore c { x with pc := pc, waitFrom := none, woken := false }).endReads (.core c)

/-- An instruction of the core whose turn it is. A register whose result is outstanding makes it wait (R166); a marked register
it reads raises POISON_CONSUMED (R169); else `k` executes it. -/
def seqCtl (reads writes : List Reg) (s : State) (k : Nat → CoreSt → State) : Host.Outcome State Fault Refusal :=
  match s.act with
  | .core c =>
    let x := s.core c
    if (reads ++ writes).any (fun r => x.reserved r) then .next s
    else if reads.any (fun r => x.marked r) then .next (s.preciseFault c Cause.poisonConsumed 0)
    else .next (k c x)
  | _ => .next s

/-- An instruction that writes one register from registers alone. -/
def seqAlu (reads : List Reg) (d : Reg) (v : CoreSt → DWord) (s : State) : Host.Outcome State Fault Refusal :=
  seqCtl reads [d] s (fun c x => (s.setCore c (x.wr d (v x))).retire c 4 .next)

/-- What a command that may stop does to its core: its effect and pc, a precise fault, a freeze, or a wait. -/
def finishM (c len : Nat) : Except Stop Flow × State → State
  | (.ok fl, s) => s.retire c len fl
  | (.error (.raise cause a), s) => s.preciseFault c cause a
  | (.error (.isolate a), s) => s.isolateCore c a
  | (.error .wait, s) => s

/-- An instruction whose effect may stop. -/
def seqRun (reads writes : List Reg) (len : Nat) (s : State) (m : Nat → CoreSt → Mach Flow) : Host.Outcome State Fault Refusal :=
  seqCtl reads writes s (fun c x => finishM c len ((m c x).exec s))

/-- Writes a register of a core inside a command. -/
def putReg (c : Nat) (r : Reg) (v : DWord) : Mach Unit := modify (fun s => s.updCore c (fun x => x.wr r v))
def markReg (c : Nat) (r : Reg) : Mach Unit := modify (fun s => s.updCore c (fun x => x.mark r))

/-- The cycle in which the current wait began; recorded at its first turn. -/
def waitStart (c : Nat) : Mach Nat := do
  let s ← get
  match (s.core c).waitFrom with
  | some d => pure d
  | none => do
    modify (fun s => s.updCore c (fun x => { x with waitFrom := some s.cyc }))
    pure s.cyc

end Sys2Proof.Machine
end

