-- ==== Sys2Proof/Machine/SeqMem.lean ====
section
/-!
DEFINITION. SeqMem.lean: the sequencer's loads, stores, atomics, versioned accesses and fences (R173 to R179). An access is performed,
or sent to another package, as it issues, or is held and goes later (R174, R313, R325, R442, R446); what another package answers
arrives later (R166, R289).
-/
namespace Sys2Proof.Machine

/-- An acquire whose answer is outstanding holds back every later access (R326). -/
def orderGate (x : CoreSt) : Mach Unit := if x.pend.any (fun p => p.acq) then waitM else pure ()

/-- Earlier accesses of the core are performed: a release, a fence, and every vst waits for it, at whatever scope (R178, R326;
log entry 15). -/
def drained (x : CoreSt) : Bool := x.remoteWrites.isEmpty && x.held.isEmpty && !x.pend.any Pend.isAccess
def drainGate (x : CoreSt) (need : Bool) : Mach Unit := if need && !drained x then waitM else pure ()

/-- An access is not performed, or sent, as it issues: it meets a copy in the scoreboard (R313), or an earlier access of the core to one
of its bytes that is still held (R323), or a link on its way is not open (R442, R446), or the turn chooses so (R174, R325). Later
instructions go on (R166). -/
def State.mustHold (s : State) (c ctx : Nat) (va : DWord) (t : Xlat) (n : Nat) : Bool :=
  s.defer || !(s.coreHits c ctx va n).isEmpty || s.behindHeld c t n || s.linkHeld (coreBay c) t

/-- Holds an access; a register it fills is reserved (R166). -/
def holdM (c : Nat) (x : CoreSt) (kind : HeldKind) (d : Option (Reg × PendKind)) (va : DWord) (t : Xlat) (n op new : Nat) (acq : Bool) :
    Mach Unit := do
  let s ← get
  let ctx := s.coreCtx c
  let h : Held := ⟨s.nextId, kind, va, ctx, t.mt, t.pa, n, op, new, s.coreHits c ctx va n, x.pc⟩
  let p : List Pend := match d with
    | some (r, k) => [⟨s.nextId, r.toNat, k, va, none, false, none, x.pc, s.cyc, acq⟩]
    | none => []
  set ({ s with nextId := s.nextId + 1 }.updCore c (fun y => { y with held := y.held ++ [h], pend := y.pend ++ p }))

/-! ### A held access is performed (SEQ_RESULT_ARRIVAL) -/

def Held.at_ (h : Held) : Xlat := ⟨h.pa, h.mt, false⟩

/-- The copies it met have been freed, no earlier held access has one of its bytes, and the links on its way are open. -/
def State.heldReady (s : State) (c : Nat) (h : Held) (earlier : List Held) : Bool :=
  !s.score.any (fun e => h.score.contains e.stream) && !earlier.any (fun g => g.meets h.at_ h.size) && !s.linkHeld (coreBay c) h.at_

/-- What performing it does; the value it brings, and whether that is poison. -/
def heldM (w : Who) (h : Held) : Mach (Nat × Bool) :=
  match h.kind with
  | .load => readAtM w h.at_ h.size
  | .store => do
    writeAtM w h.at_ (leBytes h.op h.size) .other
    pure (0, false)
  | .amo k => amoAtM h.at_ k h.size h.op h.new

/-- A loaded value as it enters its register (R173). -/
def extend (size : Nat) (signed : Bool) (v : Nat) : DWord :=
  if signed then
    (if v < 2 ^ (8 * size - 1) then BitVec.ofNat 64 v else BitVec.ofNat 64 (v + 2 ^ 64 - 2 ^ (8 * size)))
  else BitVec.ofNat 64 v

/-- What a held access to another package asks. -/
def HeldKind.request : HeldKind → ReqKind
  | .load => .load
  | .store => .write
  | .amo _ => .atomic
def Held.line (h : Held) : Line :=
  match h.kind with
  | .load => 0
  | .store => BitVec.ofNat 512 h.op
  | .amo _ => BitVec.ofNat 512 (h.op + 2 ^ 64 * h.new)

/-- A request to another package whose answer fills register d. -/
def askRemote (c : Nat) (x : CoreSt) (kind : ReqKind) (pk : PendKind) (d : Reg) (va : DWord) (dpa n : Nat) (data : Line) (acq : Bool) :
    Mach Unit := do
  let s ← get
  let w := whoCore s c
  if s.maskHeld (pkgOf dpa) then waitM
  if !s.reachable (pkgOf dpa) then
    set (s.linkLost w.ctx dpa)
    markReg c d
  else
    let p : Pend := ⟨s.nextId, d.toNat, pk, va, none, true, none, x.pc, s.cyc, acq⟩
    let s1 := (s.sendReq kind (.core c s.nextId) w.ctx dpa n data).2
    set (s1.updCore c (fun y => { y with pend := y.pend ++ [p] }))

/-- A load of `size` bytes into d; an acquire load names its scope (R173, R175, R285). -/
def coreLoad (c : Nat) (x : CoreSt) (d : Reg) (va : DWord) (size : Nat) (signed : Bool) (acq : Option Nat) : Mach Flow := do
  orderGate x
  let w := whoCore (← get) c
  let t ← checkM w .load va size
  if t.mt = 2 then
    if acq.isSome || size < 4 then raiseM Cause.permFault va
    let s ← get
    putReg c d (extend size signed (s.devRead (lowOf t.pa) size))
  else
    let s ← get
    if s.mustHold c w.ctx va t size then holdM c x .load (some (d, .load size signed)) va t size 0 0 acq.isSome
    else if !s.isLocal t.pa then askRemote c x .load (.load size signed) d va t.pa size 0 acq.isSome
    else
      let (v, p) ← readAtM w t size
      if p then markReg c d else putReg c d (extend size signed v)
  pure .next

/-- A store; a release store names its scope. -/
def coreStore (c : Nat) (x : CoreSt) (va : DWord) (size : Nat) (v : DWord) (rel : Option Nat) : Mach Flow := do
  orderGate x
  drainGate x rel.isSome
  let w := whoCore (← get) c
  let t ← checkM w .store va size
  if t.mt = 2 then
    if rel.isSome || size < 4 then raiseM Cause.permFault va
    modify (fun s => s.devWrite (if c = Config.sceip then .sceip else .sector c w.ctx) (lowOf t.pa) size v.toNat)
  else
    let s ← get
    if s.mustHold c w.ctx va t size then holdM c x .store none va t size (v.toNat % 2 ^ (8 * size)) 0 false
    else
      writeAtM w t (leBytes v.toNat size) (.core c s.nextId)
      if !s.isLocal t.pa && s.reachable (pkgOf t.pa) then
        modify (fun s1 => s1.updCore c (fun y => { y with remoteWrites := y.remoteWrites ++ [⟨s.nextId, va, x.pc, false⟩] }))
  pure .next

/-- An atomic of the AMO group (R175, R176). -/
def coreAmo (k : AmoKind) (size : Nat) (d a b : Reg) (_scope : BitVec 3) (ord : BitVec 2) (c : Nat) (x : CoreSt) : Mach Flow := do
  let va := x.gr a
  orderGate x
  drainGate x (ord.getLsbD 1)
  let w := whoCore (← get) c
  let t ← checkM w .atomic va size
  if t.mt = 2 then raiseM Cause.permFault va
  let s ← get
  let m := 2 ^ (8 * size)
  let op := if k = .cas then (x.gr d).toNat % m else (x.gr b).toNat % m
  let new := (x.gr b).toNat % m
  if s.mustHold c w.ctx va t size then holdM c x (.amo k) (some (d, .amo size)) va t size op new (ord.getLsbD 0)
  else if !s.isLocal t.pa then
    askRemote c x .atomic (.amo size) d va t.pa size (BitVec.ofNat 512 (op + 2 ^ 64 * new)) (ord.getLsbD 0)
  else
    let (old, p) ← amoAtM t k size op new
    if p then markReg c d else putReg c d (BitVec.ofNat 64 old)
  pure .next

/-- SEQ_LD_U8 (R173). -/
def execSeqLdU8 (d a : Reg) (o : BitVec 12) (s : State) : Host.Outcome State Fault Refusal :=
  seqRun [a] [d] 4 s (fun c x => coreLoad c x d (x.gr a + sext12 o) 1 false none)
/-- LD_I8 (R173). -/
def execLdI8 (d a : Reg) (o : BitVec 12) (s : State) : Host.Outcome State Fault Refusal :=
  seqRun [a] [d] 4 s (fun c x => coreLoad c x d (x.gr a + sext12 o) 1 true none)
/-- LD_U16 (R173). -/
def execLdU16 (d a : Reg) (o : BitVec 12) (s : State) : Host.Outcome State Fault Refusal :=
  seqRun [a] [d] 4 s (fun c x => coreLoad c x d (x.gr a + sext12 o) 2 false none)
/-- LD_I16 (R173). -/
def execLdI16 (d a : Reg) (o : BitVec 12) (s : State) : Host.Outcome State Fault Refusal :=
  seqRun [a] [d] 4 s (fun c x => coreLoad c x d (x.gr a + sext12 o) 2 true none)
/-- LD_U32 (R173). -/
def execLdU32 (d a : Reg) (o : BitVec 12) (s : State) : Host.Outcome State Fault Refusal :=
  seqRun [a] [d] 4 s (fun c x => coreLoad c x d (x.gr a + sext12 o) 4 false none)
/-- LD_I32 (R173). -/
def execLdI32 (d a : Reg) (o : BitVec 12) (s : State) : Host.Outcome State Fault Refusal :=
  seqRun [a] [d] 4 s (fun c x => coreLoad c x d (x.gr a + sext12 o) 4 true none)
/-- LD_B64 (R173). -/
def execLdB64 (d a : Reg) (o : BitVec 12) (s : State) : Host.Outcome State Fault Refusal :=
  seqRun [a] [d] 4 s (fun c x => coreLoad c x d (x.gr a + sext12 o) 8 false none)
/-- SEQ_ST_B8 (R173): the first register is the data. -/
def execSeqStB8 (d a : Reg) (o : BitVec 12) (s : State) : Host.Outcome State Fault Refusal :=
  seqRun [d, a] [] 4 s (fun c x => coreStore c x (x.gr a + sext12 o) 1 (x.gr d) none)
/-- ST_B16 (R173): the first register is the data. -/
def execStB16 (d a : Reg) (o : BitVec 12) (s : State) : Host.Outcome State Fault Refusal :=
  seqRun [d, a] [] 4 s (fun c x => coreStore c x (x.gr a + sext12 o) 2 (x.gr d) none)
/-- SEQ_ST_B32 (R173): the first register is the data. -/
def execSeqStB32 (d a : Reg) (o : BitVec 12) (s : State) : Host.Outcome State Fault Refusal :=
  seqRun [d, a] [] 4 s (fun c x => coreStore c x (x.gr a + sext12 o) 4 (x.gr d) none)
/-- ST_B64 (R173): the first register is the data. -/
def execStB64 (d a : Reg) (o : BitVec 12) (s : State) : Host.Outcome State Fault Refusal :=
  seqRun [d, a] [] 4 s (fun c x => coreStore c x (x.gr a + sext12 o) 8 (x.gr d) none)
/-- SEQ_AMO_ADD32 (R175, R176). -/
def execSeqAmoAdd32 (d a b : Reg) (scope : BitVec 3) (ord : BitVec 2) (s : State) : Host.Outcome State Fault Refusal :=
  seqRun [a, b] [d] 4 s (coreAmo .add 4 d a b scope ord)
/-- SEQ_AMO_ADD64 (R175, R176). -/
def execSeqAmoAdd64 (d a b : Reg) (scope : BitVec 3) (ord : BitVec 2) (s : State) : Host.Outcome State Fault Refusal :=
  seqRun [a, b] [d] 4 s (coreAmo .add 8 d a b scope ord)
/-- AMO_AND64 (R175, R176). -/
def execAmoAnd64 (d a b : Reg) (scope : BitVec 3) (ord : BitVec 2) (s : State) : Host.Outcome State Fault Refusal :=
  seqRun [a, b] [d] 4 s (coreAmo .band 8 d a b scope ord)
/-- AMO_OR64 (R175, R176). -/
def execAmoOr64 (d a b : Reg) (scope : BitVec 3) (ord : BitVec 2) (s : State) : Host.Outcome State Fault Refusal :=
  seqRun [a, b] [d] 4 s (coreAmo .bor 8 d a b scope ord)
/-- AMO_XCHG64 (R175, R176). -/
def execAmoXchg64 (d a b : Reg) (scope : BitVec 3) (ord : BitVec 2) (s : State) : Host.Outcome State Fault Refusal :=
  seqRun [a, b] [d] 4 s (coreAmo .xchg 8 d a b scope ord)
/-- AMO_MIN_I64 (R175, R176). -/
def execAmoMinI64 (d a b : Reg) (scope : BitVec 3) (ord : BitVec 2) (s : State) : Host.Outcome State Fault Refusal :=
  seqRun [a, b] [d] 4 s (coreAmo .min 8 d a b scope ord)
/-- AMO_MAX_I64 (R175, R176). -/
def execAmoMaxI64 (d a b : Reg) (scope : BitVec 3) (ord : BitVec 2) (s : State) : Host.Outcome State Fault Refusal :=
  seqRun [a, b] [d] 4 s (coreAmo .max 8 d a b scope ord)
/-- SEQ_AMO_CAS32 (R175, R176). -/
def execSeqAmoCas32 (d a b : Reg) (scope : BitVec 3) (ord : BitVec 2) (s : State) : Host.Outcome State Fault Refusal :=
  seqRun [d, a, b] [d] 4 s (coreAmo .cas 4 d a b scope ord)
/-- SEQ_AMO_CAS64 (R175, R176). -/
def execSeqAmoCas64 (d a b : Reg) (scope : BitVec 3) (ord : BitVec 2) (s : State) : Host.Outcome State Fault Refusal :=
  seqRun [d, a, b] [d] 4 s (coreAmo .cas 8 d a b scope ord)
/-- SEQ_LD_B32_ACQ (R175). -/
def execSeqLdB32Acq (d a : Reg) (scope : BitVec 3) (s : State) : Host.Outcome State Fault Refusal :=
  seqRun [a] [d] 4 s (fun c x => coreLoad c x d (x.gr a) 4 false (some scope.toNat))
/-- LD_B64_ACQ (R175). -/
def execLdB64Acq (d a : Reg) (scope : BitVec 3) (s : State) : Host.Outcome State Fault Refusal :=
  seqRun [a] [d] 4 s (fun c x => coreLoad c x d (x.gr a) 8 false (some scope.toNat))
/-- SEQ_ST_B32_REL (R175). -/
def execSeqStB32Rel (a b : Reg) (scope : BitVec 3) (s : State) : Host.Outcome State Fault Refusal :=
  seqRun [a, b] [] 4 s (fun c x => coreStore c x (x.gr a) 4 (x.gr b) (some scope.toNat))
/-- ST_B64_REL (R175). -/
def execStB64Rel (a b : Reg) (scope : BitVec 3) (s : State) : Host.Outcome State Fault Refusal :=
  seqRun [a, b] [] 4 s (fun c x => coreStore c x (x.gr a) 8 (x.gr b) (some scope.toNat))

/-! ## Versioned accesses (R178) -/

/-- SEQ_VLD (R146, R178): judged at the home slice; a version not yet created is answered in the step that creates it. -/
def execSeqVld (d a b : Reg) (s : State) : Host.Outcome State Fault Refusal :=
  seqRun [a, b] [d] 4 s (fun c x => do
    orderGate x
    let va := x.gr a
    let v := (x.gr b).extractLsb' 0 32
    let w := whoCore (← get) c
    let t ← accessM w .vld va 8
    let s ← get
    if s.behindHeld c t 8 then waitM
    if s.isLocal t.pa then
      let pa := lowOf t.pa
      match s.judgeVld pa v with
      | .gone => raiseM Cause.versionGone va
      | .value y p => if p then markReg c d else putReg c d y
      | .notYet =>
        if s.vldListFull pa then waitM
        let p : Pend := ⟨s.nextId, d.toNat, .vld, va, none, false, some (pa / 8, v), x.pc, s.cyc, true⟩
        let s1 : State := { s with nextId := s.nextId + 1, vldWaits := s.vldWaits ++ [⟨pa / 8, v, .core c s.nextId⟩] }
        set (s1.updCore c (fun y => { y with pend := y.pend ++ [p] }))
    else askRemote c x .vld .vld d va t.pa 8 (v.zeroExtend 512) true
    pure .next)

/-- A vst to a word homed in another package: what its home has said so far. The home measures the wait for a free version, and says when
it has stalled (R178, R337). -/
inductive VstWord where
  | done | waits | stalled
  deriving DecidableEq, Repr

/-- The home's word on the vst of an instruction: it is asked once, and the instruction waits for the answer (R178, R294). -/
def remoteVstM (w : Who) (dpa : Nat) (v : DWord) : Mach VstWord := do
  let s ← get
  match s.remoteReads.find? (fun r => r.reader == w.reader && r.addr == dpa && r.size == doneSize 8) with
  | some r =>
    match r.answer with
    | none => waitM
    | some (n, bad) => pure (if n = vstWaits then .waits else if bad then .stalled else .done)
  | none =>
    if s.maskHeld (pkgOf dpa) then waitM
    if !s.reachable (pkgOf dpa) then
      set (s.linkLost w.ctx dpa)
      pure .done
    else
      let s1 := (s.sendReq .vst .other w.ctx dpa 8 (v.zeroExtend 512)).2
      let asked : RemRead := ⟨w.reader, dpa, doneSize 8, s.nextId, none⟩
      set { s1 with remoteReads := s1.remoteReads ++ [asked] }
      waitM

/-- A vst of a core waits for a free version, in the order of arrival, up to 2^20 cycles (R147, R178, R334); whether it has stalled. -/
def versionWaitM (c pa : Nat) : Mach Unit := do
  let d ← waitStart c
  if (← get).cyc ≤ d + 2 ^ 20 then
    modify (fun s => s.vstStay pa (.step c))
    waitM

/-- SEQ_VST (R147, R178): waits for the core's earlier accesses, then for a free version behind the vsts that arrived before. -/
def execSeqVst (a b : Reg) (s : State) : Host.Outcome State Fault Refusal :=
  seqRun [a, b] [] 4 s (fun c x => do
    orderGate x
    let va := x.gr a
    let w := whoCore (← get) c
    let t ← accessM w .vst va 8
    drainGate x true
    let s ← get
    if s.isLocal t.pa then
      let pa := lowOf t.pa
      if s.vstLost w pa then pure ()
      else if s.vstHeld pa (.step c) then
        versionWaitM c pa
        raiseM Cause.versionStall va
      else if s.writeHeld pa 8 false then waitM
      else set ((s.vstGone pa (.step c)).createVersion pa (x.gr b))
    else
      match ← remoteVstM w t.pa (x.gr b) with
      | .done => pure ()
      | .waits => do
        let _ ← waitStart c
        waitM
      | .stalled => raiseM Cause.versionStall va
    pure .next)

/-- SEQ_VRCL (R148, R178). -/
def execSeqVrcl (a b : Reg) (s : State) : Host.Outcome State Fault Refusal :=
  seqRun [a, b] [] 4 s (fun c x => do
    orderGate x
    let va := x.gr a
    let w := whoCore (← get) c
    let t ← accessM w .vst va 8
    let s ← get
    if s.behindHeld c t 8 then waitM
    if s.isLocal t.pa then set (s.vrcl (lowOf t.pa) ((x.gr b).extractLsb' 0 32))
    else if s.maskHeld (pkgOf t.pa) then waitM
    else if s.reachable (pkgOf t.pa) then
      let s1 := (s.sendReq .vrcl (.core c s.nextId) w.ctx t.pa 8 ((x.gr b).zeroExtend 512)).2
      set (s1.updCore c (fun y => { y with remoteWrites := y.remoteWrites ++ [⟨s.nextId, va, x.pc, false⟩] }))
    else set (s.linkLost w.ctx t.pa)
    pure .next)

/-- SEQ_FENCE (R150, R179): every earlier access is performed, whatever the scope. -/
def execSeqFence (_scope : BitVec 3) (s : State) : Host.Outcome State Fault Refusal :=
  seqRun [] [] 4 s (fun _ x => do
    orderGate x
    drainGate x true
    pure .next)

end Sys2Proof.Machine
end

