-- ==== Sys2Proof/Machine/SeqRing.lean ====
section
/-!
DEFINITION. SeqRing.lean: byte rings, multicast rings and bushel queues (R214 to R220, R318).
-/
namespace Sys2Proof.Machine

/-! ## Byte rings -/

/-- Skips skip records from h on: the offset of the first other record and its address, or none where the ring is empty. The
fuel bounds the records between HEAD and TAIL. -/
def skipRecords (w : Who) (ga : DWord) (v : RingView) : Nat → Nat → Mach (Nat × Option DWord)
  | 0, h => pure (h, none)
  | k + 1, h => do
    if h = v.tail then pure (h, none)
    else
      let (a, len, kind) ← ringRecord w ga v h
      if kind = 0xFF then skipRecords w ga v k (h + len) else pure (h, some a)

/-- The store of HEAD, a release at .sys. -/
def storeHead (c : Nat) (x : CoreSt) (ga : DWord) (h : Nat) : Mach Unit := do
  let _ ← coreStore c x (ga + 0x18) 8 (BitVec.ofNat 64 h) (some Config.scopeSys)
  pure ()

/-- BRNG_GET (R215): a raise leaves HEAD unchanged. -/
def execBrngGet (d a : Reg) (s : State) : Host.Outcome State Fault Refusal :=
  seqRun [a] [d] 4 s (fun c x => do
    orderGate x
    let ga := x.gr a
    let w := whoCore (← get) c
    let v ← ringView w ga
    let (h, at_) ← skipRecords w ga v ((v.tail - v.head) / 8 + 1) v.head
    if h != v.head then storeHead c x ga h
    putReg c d (at_.getD 0)
    pure .next)

/-- BRNG_REL (R215). -/
def execBrngRel (a : Reg) (s : State) : Host.Outcome State Fault Refusal :=
  seqRun [a] [] 4 s (fun c x => do
    orderGate x
    let ga := x.gr a
    let w := whoCore (← get) c
    let v ← ringView w ga
    let at_ := BitVec.ofNat 64 (v.base + v.head % v.size)
    let hdr ← plainM w at_ 8
    if v.head = v.tail || bits hdr 39 32 = 0xFF then raiseM Cause.ringFormat ga
    storeHead c x ga (v.head + 8 + (hdr % 2 ^ 32 + 7) / 8 * 8)
    pure .next)

/-! ## Multicast rings (R216, R217) -/

def State.mring (s : State) (q : Nat) : MRing := AMap.getD s.mrings q {}
/-- Slot k; at package reset SEQ(k) = (k − 16) mod 2^32. -/
def MRing.slot (m : MRing) (k : Nat) : MSlot := AMap.getD m.slots k ⟨BitVec.ofNat 32 (2 ^ 32 + k - 16), 0, 0, []⟩
/-- Bit of a core in the masks of its quadrant's ring; the Sceip core has none. -/
def ringBit (c : Nat) : Nat := if c = Config.sceip then 16 else c % 16

/-- MRH as software reads it (R160). -/
def CoreSt.mrh (x : CoreSt) : Bool := if x.slotHeld then !x.mrhClear else x.mrhSet

/-- Named sequencers that run a program in the producer's context. -/
def State.ringMask (s : State) (q ctx : Nat) (m : BitVec 16) : BitVec 16 :=
  BitVec.ofNat 16 ((List.range 16).foldl (fun v b =>
    let y := s.core (16 * q + b)
    if m.getLsbD b && y.run != .idle && y.ctx.toNat == ctx then v + 2 ^ b else v) 0)

def wakeAll (s : State) (q : Nat) (m : BitVec 16) : List Nat → State
  | [] => s
  | b :: bs => wakeAll (if m.getLsbD b then s.updCore (16 * q + b) (fun x => { x with woken := true }) else s) q m bs

/-- MRING_PUT: an empty M writes nothing and leaves P unchanged. -/
def execMringPut (a b : Reg) (s : State) : Host.Outcome State Fault Refusal :=
  seqRun [a, b] [] 4 s (fun c x => do
    orderGate x
    drainGate x true
    let w := whoCore (← get) c
    let q := coreQuadrant c
    let s1 ← get
    let r := s1.mring q
    let k := r.p.toNat % 16
    if (r.slot k).mask != 0 then waitM
    let va := x.gr a
    if canonical va && va.toNat % 64 != 0 then raiseM Cause.misaligned va
    let ws ← plainWordsM w va 8
    let s2 ← get
    let m := s2.ringMask q w.ctx ((x.gr b).extractLsb' 0 16)
    if m = 0 then pure .next
    else
      let data := BitVec.ofNat 512 (leNat (wordsBytes ws))
      let old := r.slot k
      let copies := (List.range 16).foldl (fun cs i => if m.getLsbD i then AMap.set cs i data else cs) old.copies
      let r1 : MRing := { p := r.p + 1, slots := AMap.set r.slots k ⟨r.p, m, w.ctx, copies⟩ }
      set (wakeAll { s2 with mrings := AMap.set s2.mrings q r1 } q m (List.range 16))
      pure .next)

/-- The loop of mring.get from index C: the index of the first slot addressed to this core, or none where it must wait. -/
def ringSeek (r : MRing) (bit_ ctx : Nat) : Nat → Word → Option Word
  | 0, _ => none
  | n + 1, cx =>
    let sl := r.slot (cx.toNat % 16)
    let d := (sl.seq - cx).toNat
    if d = 0 && sl.mask.getLsbD bit_ && sl.ctx == ctx then some cx
    else if d ≤ 2 ^ 31 - 1 then ringSeek r bit_ ctx n (cx + 1)
    else none

/-- Every slot's SEQ lies within 16 of P, so an index further behind steps over them all at once. -/
def ringFrom (r : MRing) (cx : Word) : Word :=
  let gap := (r.p - cx).toNat
  if 16 < gap && gap ≤ 2 ^ 31 then r.p - 16 else cx

/-- MRING_GET. -/
def execMringGet (d : Reg) (s : State) : Host.Outcome State Fault Refusal :=
  seqRun [] [d] 4 s (fun c x => do
    orderGate x
    if x.slotHeld || x.mrh then raiseM Cause.ringState 0
    let s1 ← get
    let r := s1.mring (coreQuadrant c)
    match ringSeek r (ringBit c) (s1.coreCtx c) 18 (ringFrom r x.mcix) with
    | some cx => do
      set (s1.setCore c ({ x with mcix := cx, slotHeld := true, mrhClear := false }.wr d (cx.zeroExtend 64)))
      pure .next
    | none => waitM)

/-- MRING_LD. -/
def execMringLd (d a : Reg) (s : State) : Host.Outcome State Fault Refusal :=
  seqRun [a] [d] 4 s (fun c x => do
    if !x.slotHeld then raiseM Cause.ringState 0
    let s1 ← get
    let sl := (s1.mring (coreQuadrant c)).slot (x.mcix.toNat % 16)
    putReg c d ((AMap.getD sl.copies (ringBit c) 0).extractLsb' (64 * ((x.gr a).toNat % 8)) 64)
    pure .next)

/-- Releases the slot a core holds (R157, R217). -/
def State.releaseSlot (s : State) (c : Nat) : State :=
  let x := s.core c
  let q := coreQuadrant c
  let r := s.mring q
  let k := x.mcix.toNat % 16
  let sl := r.slot k
  let r1 : MRing := { r with slots := AMap.set r.slots k { sl with mask := sl.mask &&& ~~~((1 : BitVec 16) <<< ringBit c) } }
  { s with mrings := AMap.set s.mrings q r1 }.setCore c { x with mcix := x.mcix + 1, slotHeld := false, mrhClear := false }

/-- MRING_REL. -/
def execMringRel (s : State) : Host.Outcome State Fault Refusal :=
  seqRun [] [] 4 s (fun c x => do
    if !x.slotHeld then raiseM Cause.ringState 0
    modify (fun s1 => s1.releaseSlot c)
    pure .next)

/-! ## Bushel queues (R218 to R220) -/

def bqIndex (c : Nat) (y : BitVec 1) (q : BitVec 4) : Nat := if y = 1 then q.toNat else coreQuadrant c
def State.bq (s : State) (i : Nat) : List BqEntry := AMap.getD s.bushels i []

/-- Entries of a context in rank order: by key, then oldest first. -/
def bqInsert (e : BqEntry) : List BqEntry → List BqEntry
  | [] => [e]
  | h :: t => if e.key.toNat < h.key.toNat then e :: h :: t else h :: bqInsert e t
def bqRanked (ctx : Nat) (l : List BqEntry) : List BqEntry := (l.filter (fun e => e.ctx == ctx)).foldl (fun acc e => bqInsert e acc) []

/-- The entry a pop removes: one of the four lowest-ranked, never before an older one of its key. -/
def bqChoose (free : Nat) (l : List BqEntry) : Option BqEntry :=
  match l.take 4 with
  | [] => none
  | [e] => some e
  | e :: t =>
    let pick := (e :: t).getD (free % (t.length + 1)) e
    (e :: t).find? (fun y => y.key == pick.key)

def eraseBq (e : BqEntry) : List BqEntry → List BqEntry
  | [] => []
  | h :: t => if h = e then t else h :: eraseBq e t

/-- BQ_PUSH: gs is 1 when the queue holds 4,096 entries. -/
def execBqPush (d a b : Reg) (y : BitVec 1) (q : BitVec 4) (s : State) : Host.Outcome State Fault Refusal :=
  seqRun [a, b] [d] 4 s (fun c x => do
    orderGate x
    drainGate x true
    let s1 ← get
    let i := bqIndex c y q
    if 4096 ≤ (s1.bq i).length then putReg c d 1
    else
      let e : BqEntry := ⟨x.gr a, x.gr b, s1.coreCtx c⟩
      set { s1 with bushels := AMap.set s1.bushels i (s1.bq i ++ [e]) }
      putReg c d 0
    pure .next)

/-- A pop into the pair 2d, 2d + 1 with its status in gs. -/
def bqPopM (d : BitVec 4) (b : Reg) (y : BitVec 1) (q : BitVec 4) (waits : Bool) (c : Nat) (x : CoreSt) : Mach Flow := do
  let lo : Reg := d.zeroExtend 5 <<< 1
  if d = 0 || b = lo || b = lo + 1 then raiseM Cause.illegalOp 0
  orderGate x
  let s ← get
  let i := bqIndex c y q
  match bqChoose (Config.freePop s.freeNo) (bqRanked (s.coreCtx c) (s.bq i)) with
  | some e => do
    set { s with bushels := AMap.set s.bushels i (eraseBq e (s.bq i)), freeNo := s.freeNo + 1 }
    putReg c lo e.key
    putReg c (lo + 1) e.value
    putReg c b 0
  | none => if waits then waitM else putReg c b 1
  pure .next

def pairRegs (d : BitVec 4) (b : Reg) : List Reg := [d.zeroExtend 5 <<< 1, (d.zeroExtend 5 <<< 1) + 1, b]

/-- BQ_POP. -/
def execBqPop (d : BitVec 4) (b : Reg) (y : BitVec 1) (q : BitVec 4) (s : State) : Host.Outcome State Fault Refusal :=
  seqRun [] (pairRegs d b) 4 s (bqPopM d b y q false)
/-- BQ_POP_W. -/
def execBqPopW (d : BitVec 4) (b : Reg) (y : BitVec 1) (q : BitVec 4) (s : State) : Host.Outcome State Fault Refusal :=
  seqRun [] (pairRegs d b) 4 s (bqPopM d b y q true)
/-- BQ_CNT. -/
def execBqCnt (d : Reg) (y : BitVec 1) (q : BitVec 4) (s : State) : Host.Outcome State Fault Refusal :=
  seqRun [] [d] 4 s (fun c _ => do
    let s1 ← get
    putReg c d (BitVec.ofNat 64 ((s1.bq (bqIndex c y q)).filter (fun e => e.ctx == s1.coreCtx c)).length)
    pure .next)

end Sys2Proof.Machine
end

