-- ==== Sys2Proof/Machine/SeqSys.lean ====
section
/-!
DEFINITION. SeqSys.lean: system registers (R159, R160, R447) and the SYS group (R221), the wait and its limit, traps and the return
from an event.
-/
namespace Sys2Proof.Machine

/-! ## System registers -/

/-- RPL as software reads it (R160). -/
def CoreSt.rpl (x : CoreSt) : Bool := if x.replay.isSome then !x.rplClear else x.rplSet

def bitAt (b : Bool) (i : Nat) : Nat := if b then 2 ^ i else 0

/-- sst: EVT, RPL, MRH, MGMT (R159). -/
def sstOf (c : Nat) (x : CoreSt) : DWord :=
  BitVec.ofNat 64 (bitAt x.evt 0 + bitAt x.rpl 1 + bitAt x.mrh 2 + bitAt (c == Config.sceip) 3)

/-- What a register number names for a core (R159, R160, R447). -/
inductive Csr where
  | ro (v : DWord)
  | rw (v : DWord)
  | illegal
  | privileged
  deriving DecidableEq, Repr

def csrOf (s : State) (c : Nat) (n : Nat) : Csr :=
  let x := s.core c
  if n = 0x000 then .ro (BitVec.ofNat 64 (s.coreCtx c))
  else if n = 0x001 then .ro (BitVec.ofNat 64 (coreSector c + 256 * s.package.toNat))
  else if n = 0x002 then .ro s.cycWord
  else if n = 0x003 then .rw (sstOf c x)
  else if n = 0x004 then .rw x.epc
  else if n = 0x005 then .rw x.ecause
  else if n = 0x006 then .rw x.eaddr
  else if n = 0x007 then .rw x.evec
  else if n = 0x008 then .rw x.erg
  else if n = 0x009 then .ro (BitVec.ofNat 64 (x.rplIdx.toNat + 65536 * x.rplLen.toNat))
  else if n = 0x00A then .ro (x.mcix.zeroExtend 64)
  else if 0x100 ≤ n && n < 0x200 then
    if c != Config.sceip then .privileged
    else if n = 0x100 then .rw (s.talert.zeroExtend 64)
    else if n = 0x101 then .rw (s.thyst.zeroExtend 64)
    else if n = 0x102 then .rw (s.tstress.zeroExtend 64)
    else if n = 0x103 then .rw (s.fqsel.zeroExtend 64)
    else if n = 0x104 then .rw (s.ctxOf s.fqsel.toNat).fqaddr
    else if n = 0x105 then .rw (BitVec.ofNat 64 (s.prstBay.toNat + bitAt (s.prstRun.contains s.prstBay.toNat) 2))
    else if n = 0x106 then .ro s.evlprod
    else if n = 0x107 then .ro (BitVec.ofNat 64 (s.package.toNat + bitAt s.recovery 12))
    else if n = 0x108 then .ro (s.bootst.zeroExtend 64)
    else .illegal
  else .illegal

/-- A write to sst changes only EVT, RPL and MRH (R160). While a replay is active or a slot is held, a write of 0 hides it and a later
write of 1 shows it again (DEDUCED: R160 says only that the bit reads 0 after a write that clears it; log entry 63). -/
def writeSst (x : CoreSt) (v : DWord) : CoreSt :=
  let x1 := { x with evt := v.getLsbD 0 }
  let x2 := if x.replay.isSome then { x1 with rplClear := !v.getLsbD 1 } else { x1 with rplSet := v.getLsbD 1 }
  if x.slotHeld then { x2 with mrhClear := !v.getLsbD 2 } else { x2 with mrhSet := v.getLsbD 2 }

/-- GO for a partition that is not down is ignored; resets of several bays may run at once, and GO reads the state of the bay that
[1:0] names (R447; log entry 49). -/
def State.writePrst (s : State) (v : DWord) : State :=
  let b := v.extractLsb' 0 2
  { s with
    prstBay := b
    prstRun := if v.getLsbD 2 && s.downBays.contains b.toNat then NSet.insert s.prstRun b.toNat else s.prstRun }

def State.setFqaddr (s : State) (v : DWord) : State :=
  let c := s.fqsel.toNat
  { s with ctxs := AMap.set s.ctxs c { s.ctxOf c with fqaddr := v } }

/-- The effect of a write to a register that may be written; reserved-zero bits stay zero (R4). -/
def State.csrWrite (s : State) (c n : Nat) (v : DWord) : State :=
  if n = 0x003 then s.updCore c (fun x => writeSst x v)
  else if n = 0x004 then s.updCore c (fun x => { x with epc := v })
  else if n = 0x005 then s.updCore c (fun x => { x with ecause := v &&& 0xFF })
  else if n = 0x006 then s.updCore c (fun x => { x with eaddr := v })
  else if n = 0x007 then s.updCore c (fun x => { x with evec := v &&& ~~~(3 : DWord) })
  else if n = 0x008 then s.updCore c (fun x => { x with erg := v &&& 0x3FFFFF })
  else if n = 0x100 then { s with talert := (v &&& 0xFFFF).extractLsb' 0 32 }
  else if n = 0x101 then { s with thyst := (v &&& 0xFFFF).extractLsb' 0 32 }
  else if n = 0x102 then { s with tstress := (v &&& 0xFFFF).extractLsb' 0 32 }
  else if n = 0x103 then { s with fqsel := v.extractLsb' 0 6 }
  else if n = 0x104 then s.setFqaddr v
  else if n = 0x105 then s.writePrst v
  else s

/-- CSRR. -/
def execCsrr (d : Reg) (i : BitVec 12) (s : State) : Host.Outcome State Fault Refusal :=
  seqRun [] [d] 4 s (fun c _ => do
    match csrOf (← get) c i.toNat with
    | .ro v | .rw v => do
      putReg c d v
      pure .next
    | .privileged => raiseM Cause.privFault 0
    | .illegal => raiseM Cause.illegalOp 0)

/-- A write of f(old) to a register; one that may not be written raises ILLEGAL_OP, and 0x100 to 0x1FF PRIV_FAULT outside the
Sceip core (R160). -/
def csrUpdate (f : DWord → DWord) (i : BitVec 12) (c : Nat) : Mach Flow := do
  match csrOf (← get) c i.toNat with
  | .rw v => do
    modify (fun s => s.csrWrite c i.toNat (f v))
    pure .next
  | .ro _ => raiseM Cause.illegalOp 0
  | .privileged => raiseM Cause.privFault 0
  | .illegal => raiseM Cause.illegalOp 0

/-- CSRW. -/
def execCsrw (a : Reg) (i : BitVec 12) (s : State) : Host.Outcome State Fault Refusal :=
  seqRun [a] [] 4 s (fun c x => csrUpdate (fun _ => x.gr a) i c)
/-- CSRS. -/
def execCsrs (a : Reg) (i : BitVec 12) (s : State) : Host.Outcome State Fault Refusal :=
  seqRun [a] [] 4 s (fun c x => csrUpdate (fun v => v ||| x.gr a) i c)
/-- CSRC. -/
def execCsrc (a : Reg) (i : BitVec 12) (s : State) : Host.Outcome State Fault Refusal :=
  seqRun [a] [] 4 s (fun c x => csrUpdate (fun v => v &&& ~~~(x.gr a)) i c)

/-! ## SYS -/

/-- Cycles after which a wait ends by itself (R221). -/
def waitLimit : Nat := 65536

/-- WAIT: its first turn begins the wait; a signal, a multicast slot, an event or the limit ends it. -/
def execWait (s : State) : Host.Outcome State Fault Refusal :=
  seqCtl [] [] s (fun c x =>
    match x.waitFrom with
    | none => s.setCore c { x with waitFrom := some s.cyc, woken := false }
    | some d => if x.woken || decide (d + waitLimit ≤ s.cyc) then s.retire c 4 .next else s)

/-- WAIT_TIMEOUT: the limit of a wait is reached. -/
def execWaitTimeout (core : Nat) (s : State) : Host.Outcome State Fault Refusal :=
  match (s.core core).waitFrom with
  | some d => .next (if d + waitLimit ≤ s.cyc then s.updCore core (fun x => { x with woken := true }) else s)
  | none => .next s

/-- HALT: the sequencer idles with pc at the halt. -/
def execHalt (s : State) : Host.Outcome State Fault Refusal :=
  seqCtl [] [] s (fun c x => s.setCore c { x with run := .idle, waitFrom := none, woken := false })

/-- TRAP: SW_TRAP with the code in eaddr, a precise fault. -/
def execTrap (i : BitVec 12) (s : State) : Host.Outcome State Fault Refusal :=
  seqCtl [] [] s (fun c _ => s.preciseFault c Cause.swTrap (i.zeroExtend 64))

/-- ERET: ILLEGAL_OP outside a handler. -/
def execEret (s : State) : Host.Outcome State Fault Refusal :=
  seqCtl [] [] s (fun c x => if x.evt then s.returnEvent c else s.preciseFault c Cause.illegalOp 0)

/-- SBAR: waits until every stream command of the core has retired (R188). -/
def execSbar (s : State) : Host.Outcome State Fault Refusal :=
  seqCtl [] [] s (fun c _ => if s.streams.any (fun t => t.core == c) then s else s.retire c 4 .next)

/-- EVENT_TAKE: at an instruction boundary or during a wait, when evec ≠ 0 and EVT = 0 (R222). An entry that frees lets a frozen
region that was held back post its event. -/
def State.eventReady (s : State) (c : Nat) : Option Event :=
  let x := s.core c
  if x.run == .running && x.evec != 0 && !x.evt then s.nextEvent c else none

def postHeld (c : Nat) : List Region → State → State
  | [], s => s
  | r :: rs, s =>
    match r.unposted with
    | some e =>
      if r.owner = c && (s.core c).events.length < Config.eventQueueSize then
        postHeld c rs ((s.postEvent c e).setRegion { r with unposted := none })
      else postHeld c rs s
    | none => postHeld c rs s

/-- EVENT_TAKE. -/
def execEventTake (core : Nat) (s : State) : Host.Outcome State Fault Refusal :=
  match s.eventReady core with
  | some e => .next (postHeld core s.regions (s.takeEvent core e))
  | none => .next s

end Sys2Proof.Machine
end

