-- ==== Sys2Proof/Machine/Cfg.lean ====
section
/-!
DEFINITION. Cfg.lean: region words (R208), the checks of the configuration commands (R210 to R212), the operations of the configuration network (R19, R21, R46), the
reconfiguration token (R40 to R44, R275), and how a configuration leaves.
-/
namespace Sys2Proof.Machine

/-! ## Region words (R208) -/

def wordBad (w : DWord) : Bool := decide (2 ^ 22 ≤ w.toNat) || decide (1023 < bits w.toNat 9 0 + bits w.toNat 19 10)
def wordId (w : DWord) : Nat := 1024 * bits w.toNat 21 20 + bits w.toNat 9 0
def wordQuads (w : DWord) : Nat := bits w.toNat 19 10 + 1

def overlaps (a n b m : Nat) : Bool := decide (a < b + m) && decide (b < a + n)

/-- Quads that a launch's load or the load of a swap is about to take hold no other configuration, though no region is resident there yet:
a load that names one of them is rejected with CFG_OVERLAP (DESIGN CHOICE: R18 speaks of resident regions; log entry 82). -/
def CfgOp.holds (o : CfgOp) : Bool := o.kind == .launchLoad || (o.kind == .swp && o.st == .acting)

/-- No resident region and no load in progress, but operation `id`, touches the quads. -/
def State.quadsFree (s : State) (id first n : Nat) : Bool :=
  !s.regions.any (fun r => overlaps r.id r.quads first n)
    && !s.cfgops.any (fun o => o.id != id && o.holds && overlaps (wordId o.word) (wordQuads o.word) first n)

/-- The region with exactly this word, resident in the context of a core; the Sceip core may name any (R22, R224). -/
def State.regionNamed (s : State) (w : DWord) (core ctx : Nat) : Option Region :=
  match s.region? (wordId w) with
  | some r => if r.quads = wordQuads w && (core = Config.sceip || r.ctx = ctx) then some r else none
  | none => none

/-! ## Operations -/

def whoCfg (o : CfgOp) : Who := ⟨o.ctx, coreBay o.core, .engine, 0, none, .cfgop o.id⟩
def State.cfgop? (s : State) (id : Nat) : Option CfgOp := s.cfgops.find? (fun o => o.id == id)
def State.setOp (s : State) (o : CfgOp) : State := { s with cfgops := s.cfgops.map (fun x => if x.id = o.id then o else x) }

/-- Operations of one region are performed in order (R19, R46). -/
def firstOf (o : CfgOp) : List CfgOp → Bool
  | [] => true
  | x :: t => if x.id = o.id then true else if x.word.toNat % 2 ^ 22 = o.word.toNat % 2 ^ 22 then false else firstOf o t

/-- The result of an asynchronous command reaches its reservation. -/
def State.putResult (s : State) (core pend : Nat) (v : DWord) (poison : Bool) : State :=
  s.updCore core (fun x => { x with pend := x.pend.map (fun p => if p.id = pend then { p with result := some (v, poison) } else p) })

/-- What a finished load or unload means for the launch that asked for it (R205, R341). -/
def placeLoaded (o : CfgOp) (cause : Byte) (l : Launch) : Launch :=
  let id := wordId o.word
  if o.kind = .launchUnload then
    { l with placements := l.placements.map (fun p => if p.region = id && p.st = .unloading then { p with st := .gone } else p) }
  else if cause = 0 then
    { l with placements := l.placements.map (fun p =>
        if p.region = id && p.st = .loading then { p with st := .idle } else p) }
  else
    { l with
      placements := l.placements.filter (fun p => !(p.region = id && p.st = .loading))
      dropped := if cause = Cause.cfgOverlap then l.dropped else l.dropped ++ [id] }

def State.launch? (s : State) (id : Nat) : Option Launch := s.launches.find? (fun l => l.id == id)
def State.updLaunch (s : State) (id : Nat) (f : Launch → Launch) : State :=
  { s with launches := s.launches.map (fun l => if l.id = id then f l else l) }

/-- An operation ends with a status (R210). -/
def State.cfgDone (s : State) (o : CfgOp) (cause : Byte) : State :=
  let s1 : State := { s with cfgops := s.cfgops.filter (fun x => x.id != o.id) }
  let s2 := s1.endReads (.cfgop o.id)
  match o.kind with
  | .launchLoad =>
    let s3 := s2.updLaunch o.launch (placeLoaded o cause)
    if cause = 0 || cause = Cause.cfgOverlap then s3
    else
      (match s.launch? o.launch with
      | some l => s3.coreError l.core l.ctx cause 0 l.pc
      | none => s3)
  | .launchUnload => s2.updLaunch o.launch (placeLoaded o cause)
  | _ => s2.putResult o.core o.pend (cause.zeroExtend 64) false

/-- The outcome of an attempt: a finished operation, or one that is tried again. -/
def State.cfgFinish (s : State) (o : CfgOp) (m : Mach Unit) : State :=
  match m.exec s with
  | (.ok _, s1) => s1.cfgDone o 0
  | (.error (.raise c _), s1) => s1.cfgDone o c
  | (.error _, s1) => s1

/-! ## Checks that every command makes -/

/-- R208 and R22; the Sceip core may command any region. -/
def nameOkM (o : CfgOp) : Mach Unit := do
  if wordBad o.word then raiseM Cause.cfgRange 0
  if o.core != Config.sceip && o.launch = 0 && wordId o.word / 16 != o.core then raiseM Cause.cfgNotOwner 0

def residentM (o : CfgOp) : Mach Region := do
  let s ← get
  match s.regionNamed o.word o.core o.ctx with
  | some r => pure r
  | none => raiseM Cause.cfgRegion 0

def freeM (o : CfgOp) : Mach Unit := do
  let s ← get
  if s.downBays.contains (wordId o.word / 1024) then waitM
  if !s.quadsFree o.id (wordId o.word) (wordQuads o.word) then raiseM Cause.cfgOverlap 0

/-- An image for a context's region and every check that its words and the region word decide (R212). -/
def checkedImageM (w : Who) (va word : DWord) (ctx : Nat) : Mach Image := do
  let im ← readImageM w va (wordQuads word)
  match (im.region (wordId word) ctx va false).staticFault with
  | some c => raiseM c va
  | none => pure im

/-- Loads a checked image into free quads. -/
def loadM' (o : CfgOp) (im : Image) (byCfg : Bool) : Mach Unit := do
  let r ← loadChecksM (whoCfg o) (im.region (wordId o.word) o.ctx o.addr byCfg)
  modify (fun s => s.install r)

/-! ## The token (R40, R275) -/

/-- A unit of a frozen region whose fin has not committed is abandoned as the token is injected (R358). -/
def abandon (cause : Byte) (u : UnitRun) (l : Launch) : Launch :=
  if l.id = u.launch then
    { l with
      abandoned := l.abandoned + 1
      cause := if l.abandoned = 0 then cause else l.cause
      placements := l.placements.map (fun p => if p.st = .running u.ident then { p with st := .gone } else p) }
  else l

/-- The elements that take part in a unit. -/
def Region.starters (r : Region) : List Nat := (List.range (4 * r.quads)).filter (fun e => (r.elem e).start)

/-- A unit has completed: the window of its last fin has committed, or its region has no START element (R142, R344). -/
def Region.unitOver (r : Region) (u : UnitRun) (now : Nat) : Bool :=
  match u.finAt with
  | some n => !r.uncommitted n
  | none => r.starters.isEmpty && decide (u.start + 1 ≤ now)

def State.abandonUnit (s : State) (r : Region) : State :=
  match r.unit with
  | none => s
  | some u =>
    if r.unitOver u s.cyc then s
    else { (s.setRegion { r with unit := none }) with launches := s.launches.map (abandon r.faultCause u) }

/-- Injects the token of an operation: the open window closes; on a frozen region the unit is abandoned, unless it is saved. -/
def State.inject (s : State) (r : Region) (o : CfgOp) : State :=
  let s1 := s.setRegion { r.closeWindow with token := some o.id }
  let s2 := if r.frozen.isSome && o.kind != .sv then
      (match s1.region? r.id with
      | some q => s1.abandonUnit q
      | none => s1)
    else s1
  s2.setOp { o with st := .token, frozen := r.frozen.isSome }

/-- The region binds a link of an island: kind 0 traversal, 1 raster, 2 intersect, 3 blend. -/
def Region.bindsIsland (r : Region) (kind idx : Nat) : Bool :=
  r.binds.any (fun w => bindEp w == 3 && islandKey (r.loc (bindElem w)) (bindOpnd w) / 8 == kind * 1024 + idx)
def Region.bindsPort (r : Region) (p : Nat) : Bool :=
  r.binds.any (fun w => bindEp w == 2 && portKey (r.loc (bindElem w)) (bindOpnd w) == p)

/-- The region that binds an island. -/
def State.binder (s : State) (kind idx : Nat) : Option Region := s.regions.find? (fun r => r.bindsIsland kind idx)
def State.portBinder (s : State) (p : Nat) : Option Region := s.regions.find? (fun r => r.bindsPort p)

/-- Who sent a fragment: a raster island or a blend unit. -/
def masterRaster (block : Nat) : Nat := block
def masterBlend (slice : Nat) : Nat := 1024 + slice

/-- What an island had to send on a link has been placed on it. Behind the fathom of an array's entry up to four tokens are held
(log entry 42). -/
def State.outPlaced (s : State) (r : Region) (k : Nat) : Bool :=
  let x := s.link k
  x.outq.isEmpty || (decide (x.outq.length + x.fly.length ≤ 4)
    && r.binds.any (fun w => bindEp w == 3 && islandKey (r.loc (bindElem w)) (bindOpnd w) == k && r.linkShut (bindElem w) (bindDir w)))

/-- Whether an island has nothing of the region's left to do (R371, R404, R406, R419). -/
def State.islandDone (s : State) (r : Region) (kind idx : Nat) : Bool :=
  match kind with
  | 0 => !s.rays.any (fun x => x.origin == idx || (x.here == idx && x.entered && x.ctx == r.ctx)) && (AMap.getD s.islands idx {}).drains.isEmpty
      && s.outPlaced r (linkKey 0 idx 0)
  | 1 => (AMap.getD s.rasters idx {}).jobs.isEmpty && s.outPlaced r (linkKey 1 idx 0)
  | 2 => (AMap.getD s.isects idx {}).cmd.isNone && (AMap.getD s.isects idx {}).response.isNone
      && s.outPlaced r (linkKey 2 idx 0) && s.outPlaced r (linkKey 2 idx 3)
  | _ => (s.link (linkKey 3 idx 0)).inq.isEmpty || r.engineFrozen

/-- Condition 3 of R40: streams on the region's ports have retired, its islands have nothing left to do. -/
def State.enginesDone (s : State) (r : Region) : Bool :=
  !s.streams.any (fun t => (t.kind == .ld || t.kind == .st) && (r.bindsPort t.port || (t.desc.esz == 5 && r.bindsPort (t.port + 1))))
    && r.binds.all (fun w => bindEp w != 3 ||
        s.islandDone r (islandKey (r.loc (bindElem w)) (bindOpnd w) / 8192) (islandKey (r.loc (bindElem w)) (bindOpnd w) / 8 % 1024))

/-- Condition 4: every token the region sent across its boundary has been delivered, a record into another package included, with the
count that tells of it (R40, R244, R441). -/
def State.outDone (s : State) (r : Region) : Bool :=
  r.boundarySides.all (fun p => (s.wire (wireKey (r.loc p.1) p.2)).flight.isEmpty)
    && !s.reqs.any (fun q => q.owner == .queue r.id r.inst) && r.qends.all (fun p => p.2.told == p.2.produced)

/-- Condition 2: no uncommitted window. Windows that a freeze discarded count (R358), but a fault that strikes while the token
waits is handled first (R43), except before a save (R359). -/
def Region.windowsDone (r : Region) (o : CfgOp) : Bool :=
  r.replay.isNone
    && (if r.frozen.isSome then o.frozen || o.kind == .sv || r.frozen != some .windowFault else r.wins.isEmpty && r.raised.isEmpty)

/-- An access whose response a save waits for (R359). -/
def Acc.savesNow (a : Acc) (frozen : Bool) : Bool :=
  a.isWaitingVld || (match a.st with
    | .refused _ => true
    | _ => false)
    || (a.performed && (a.halves == 0 || a.delivered == a.halves || (frozen && a.result.isSome)))

/-- Tokens that pass through the region to its boundary have gone: a save has no place for them (log entry 41). -/
def State.throughDone (s : State) (r : Region) : Bool :=
  (List.range (4 * r.quads)).all (fun e => sideList.all (fun d =>
    match r.far e d with
    | .mesh e2 => (r.chainEnd 128 e2 d.opposite).isSome
        || ((s.wire (wireKey (r.loc e) d)).flight.isEmpty && (s.wire (wireKey (r.loc e) d)).bypass.isNone)
    | _ => (s.wire (wireKey (r.loc e) d)).bypass.isNone))

def State.mayPass (s : State) (r : Region) (o : CfgOp) : Bool :=
  !s.endsHeld r && (r.unit.isNone || o.kind == .sv) && r.windowsDone o && s.enginesDone r && s.outDone r && s.drained r
    && (o.kind != .sv || (r.accs.all (fun a => a.savesNow r.frozen.isSome) && r.sweep.isNone && s.throughDone r))

/-! ## A configuration leaves -/

/-- Links of an endpoint that is unbound hold nothing any more (log entry 42). -/
def dropEnds (r : Region) : List DWord → State → State
  | [], s => s
  | w :: t, s =>
    dropEnds r t (match bindEp w with
      | 2 => { s with ports := AMap.erase s.ports (portKey (r.loc (bindElem w)) (bindOpnd w)) }
      | 3 =>
        let k := islandKey (r.loc (bindElem w)) (bindOpnd w)
        let n := k / 8 % 1024
        { s with
          links := AMap.erase s.links k
          remoteReads := s.remoteReads.filter (fun x => x.reader != Reader.island (k / 8192) n)
          islands := if k / 8192 = 0 then AMap.erase s.islands n else s.islands
          rasters := if k / 8192 = 1 then AMap.erase s.rasters n else s.rasters
          isects := if k / 8192 = 2 then AMap.erase s.isects n else s.isects }
      | _ => s)

/-- Wires between elements of the region, and its bypass buffers, are empty without it. -/
def Region.cleared (r : Region) : AMap Wire → AMap Wire
  | [] => []
  | (k, w) :: t =>
    (k, if r.ownsWire k then
        (match neighbour (k / 4) (Dir.ofCode k) with
          | some m => if r.holds m then {} else { w with bypass := none }
          | none => {})
      else w) :: Region.cleared r t

/-- What the package holds on behalf of a region that is gone. -/
def State.forget (s : State) (id : Nat) : State :=
  { s with
    vldWaits := s.vldWaits.filter (fun w => match w.owner with
      | .region i _ => i != id
      | _ => true)
    vstQueue := s.vstQueue.filter (fun w => match w.owner with
      | .region i _ => i != id
      | _ => true)
    remoteReads := s.remoteReads.filter (fun x => x.reader != Reader.region id)
    reqs := s.reqs.map (fun q => match q.owner with
      | .region i _ => if i = id then { q with owner := .other } else q
      | _ => q)
    launches := s.launches.map (fun l => { l with placements := l.placements.map (fun p =>
      if p.region = id && (p.st = .idle || p.st = .unloading) then { p with st := .gone } else p) }) }

/-- The quads become free: queue ends are unbound (R244). Packets in flight go on under the number of the configuration that sent
them, and return no credit to a later one. -/
def State.leave (s : State) (r : Region) : State :=
  let s1 := markEnds r.ctx false r.qends (dropEnds r r.binds s)
  ({ s1 with wires := r.cleared s1.wires }.dropRegion r.id).forget r.id

/-! ## CONFIGURATION_LOAD -/

/-- An operation injects its token after its checks, or is rejected. -/
def State.cfgInject (s : State) (o : CfgOp) (m : Mach (Region × CfgOp)) : State :=
  match m.exec s with
  | (.ok (r, o1), s1) => s1.inject r o1
  | (.error (.raise c _), s1) => s1.cfgDone o c
  | (.error _, s1) => s1

def ldM (o : CfgOp) : Mach Unit := do
  nameOkM o
  freeM o
  let im ← checkedImageM (whoCfg o) o.addr o.word o.ctx
  loadM' o im true

def launchLoadM (o : CfgOp) : Mach Unit := do
  freeM o
  match o.image with
  | some im =>
    match (im.region (wordId o.word) o.ctx o.addr false).staticFault with
    | some c => raiseM c o.addr
    | none => loadM' o im false
  | none => raiseM Cause.illegalOp o.addr

def swpM (o : CfgOp) : Mach (Region × CfgOp) := do
  nameOkM o
  let r0 ← residentM o
  let im ← checkedImageM (whoCfg o) o.addr o.word r0.ctx
  let r ← residentM o
  pure (r, { o with image := some im, ctx := r.ctx })

def unlM (o : CfgOp) : Mach (Region × CfgOp) := do
  nameOkM o
  let r ← residentM o
  pure (r, o)

/-- The load that follows the token of a cfg.swp: a failure leaves the quads free and discards held tokens (R212). -/
def State.swapIn (s : State) (o : CfgOp) (im : Image) : State :=
  match (loadM' o im false).exec s with
  | (.ok _, s1) => s1.cfgDone o 0
  | (.error (.raise c _), s1) =>
    let r := im.region (wordId o.word) o.ctx o.addr false
    (s1.heldTokens r false r.boundarySides).cfgDone o c
  | (.error _, s1) => s1

/-- CONFIGURATION_LOAD. -/
def execConfigurationLoad (op : Nat) (s : State) : Host.Outcome State Fault Refusal :=
  match s.cfgop? op with
  | none => .next s
  | some o =>
    if !firstOf o s.cfgops then .next s
    else
      match o.kind, o.st with
      | .ld, .queued => .next (s.cfgFinish o (ldM o))
      | .launchLoad, .queued => .next (s.cfgFinish o (launchLoadM o))
      | .swp, .queued => .next (s.cfgInject o (swpM o))
      | .unl, .queued => .next (s.cfgInject o (unlM o))
      | .launchUnload, .queued => .next (s.cfgInject o (unlM o))
      | .swp, .acting =>
        (match o.image with
        | some im => .next (s.swapIn o im)
        | none => .next s)
      | _, _ => .next s

end Sys2Proof.Machine
end

