-- ==== Sys2Proof/Machine/Rays.lean ====
section
/-!
DEFINITION. Rays.lean: what a traversal island computes: the scene as it reads it (R372 to R377), the test of a primitive (R380), keys of
candidates (R381), the search, the key of the chain table (R389 to R391) and the tokens it sends (R384, R394).
-/
namespace Sys2Proof.Machine

/-! ## Arithmetic (R380): each rounding is to FP32 under RNE -/

abbrev Vec3 := Nat × Nat × Nat

def rndF (v : FVal) : Nat := f32enc v
where f32enc (v : FVal) : Nat := Fmt.f32.enc .rne false false v
def decF (w : Nat) : FVal := Fmt.f32.dec w
def sub3 (a b : Vec3) : Vec3 := (Fmt.f32.subBits a.1 b.1, Fmt.f32.subBits a.2.1 b.2.1, Fmt.f32.subBits a.2.2 b.2.2)
/-- The exact value of x·y + z·w, or of a sum of three products, rounded once. -/
def dot3 (a b : Vec3) : Nat :=
  rndF ((((decF a.1).mul (decF b.1)).add .rne ((decF a.2.1).mul (decF b.2.1))).add .rne ((decF a.2.2).mul (decF b.2.2)))
def crossTerm (a b c d : Nat) : Nat := rndF (((decF a).mul (decF b)).add .rne ((decF c).mul (decF d)).neg)
def cross3 (a b : Vec3) : Vec3 :=
  (crossTerm a.2.1 b.2.2 a.2.2 b.2.1, crossTerm a.2.2 b.1 a.1 b.2.2, crossTerm a.1 b.2.1 a.2.1 b.1)
def nan3 (a : Vec3) : Bool := (decF a.1).isNan || (decF a.2.1).isNan || (decF a.2.2).isNan
def zeroF (w : Nat) : Bool := w % 2 ^ 31 == 0
def FVal.abs : FVal → FVal
  | .nan => .nan
  | .inf _ => .inf false
  | .fin _ m e => .fin false m e
def FVal.below0 (v : FVal) : Bool := v.cmp (.fin false 0 0) == some (-1)

/-- The test of R380: T, U and V of a hit. -/
def triangleHit (org dir : Vec3) (tmin tmax : Nat) (v0 v1 v2 : Vec3) : Option (Nat × Nat × Nat) :=
  let e1 := sub3 v1 v0
  let e2 := sub3 v2 v0
  let s := sub3 org v0
  let pv := cross3 dir e2
  let det := dot3 e1 pv
  let u := dot3 s pv
  let qv := cross3 s e1
  let v := dot3 dir qv
  let t := dot3 e2 qv
  if nan3 e1 || nan3 e2 || nan3 s || nan3 pv || nan3 qv || nan3 (det, u, v) || (decF t).isNan || zeroF det then none
  else
    let flip := fun (w : Nat) => if bit det 31 then w ^^^ 2 ^ 31 else w
    let d := flip det
    let u1 := flip u
    let v1 := flip v
    if (decF u1).below0 || (decF v1).below0 || ((decF d).cmp ((decF u1).add .rne (decF v1)) == some (-1)) then none
    else
      let tt := Fmt.f32.divBits (flip t) d
      if Fmt.f32.leBits tmin tt && Fmt.f32.leBits tt tmax then some (tt, Fmt.f32.divBits u1 d, Fmt.f32.divBits v1 d) else none

/-! ## Keys (R381) -/

def Cand.below (a b : Cand) : Bool :=
  match (decF a.t.toNat).cmp (decF b.t.toNat) with
  | some c =>
    if c = 0 then
      decide (a.inst < b.inst) || (a.inst == b.inst && (decide (a.prim < b.prim) || (a.prim == b.prim && decide (a.leaf < b.leaf))))
    else decide (c < 0)
  | none => false
def Cand.same (a b : Cand) : Bool := a.prim == b.prim && a.leaf == b.leaf

def insertCand (c : Cand) : List Cand → List Cand
  | [] => [c]
  | h :: t => if c.below h then c :: h :: t else h :: insertCand c t
def sortCands (l : List Cand) : List Cand := l.foldl (fun acc c => insertCand c acc) []
def addCand (l : List Cand) (c : Cand) : List Cand := if l.any (fun d => d.same c) then l else l ++ [c]

/-- R382: the best opaque candidate and the list below it. -/
def bestOf (l : List Cand) : Option Cand := (sortCands (l.filter Cand.opaq)).head?
def listOf (l : List Cand) : List Cand :=
  let q := sortCands (l.filter (fun c => !c.opaq))
  match bestOf l with
  | some b => q.filter (fun c => c.below b)
  | none => q

/-! ## Boxes: six words, low corner then high corner; the empty list stands for all of space -/

def FVal.finite : FVal → Bool
  | .fin _ _ _ => true
  | _ => false
def FVal.rat : FVal → Rat
  | .fin neg m e =>
    let v : Rat := if 0 ≤ e then ((m * 2 ^ e.toNat : Nat) : Rat) else mkRat m (2 ^ (-e).toNat)
    if neg then -v else v
  | _ => 0
def ratAbs (q : Rat) : Rat := if q < 0 then -q else q

/-- The interval of one axis intersected with (a, b). -/
def slab (o d lo hi : Rat) : Option (Rat × Rat) → Option (Rat × Rat)
  | none => none
  | some (a, b) =>
    if d = 0 then (if lo ≤ o && o ≤ hi then some (a, b) else none)
    else
      let t1 := (lo - o) / d
      let t2 := (hi - o) / d
      let near := if t1 ≤ t2 then t1 else t2
      let far := if t1 ≤ t2 then t2 else t1
      let a1 := if a ≤ near then near else a
      let b1 := if far ≤ b then far else b
      if a1 ≤ b1 then some (a1, b1) else none

def ratOf (w : Word) : Rat := (decF w.toNat).rat

/-- Where the ray enters a box, when it meets it; a box with a NaN or an infinity is met everywhere. -/
def Ray.near (x : Ray) (box : List Word) : Option Rat :=
  if box.isEmpty || box.any (fun w => !(decF w.toNat).finite) then some (ratOf x.tmin)
  else
    let axis := fun (k : Nat) (i : Option (Rat × Rat)) =>
      slab (ratOf (x.org.getD k 0)) (ratOf (x.dir.getD k 0)) (ratOf (box.getD k 0)) (ratOf (box.getD (k + 3) 0)) i
    (axis 2 (axis 1 (axis 0 (some (ratOf x.tmin, ratOf x.tmax))))).map Prod.fst

/-- The part of space in two boxes; a NaN stays. -/
def clipBox (a b : List Word) : List Word :=
  if a.isEmpty then b
  else
    (List.range 6).map (fun k =>
      let x := (a.getD k 0).toNat
      let y := (b.getD k 0).toNat
      if (decF x).isNan then a.getD k 0
      else if (decF y).isNan then b.getD k 0
      else BitVec.ofNat 32 (Fmt.f32.minmax (if k < 3 then 1 else -1) x y))
def inBox (box : List Word) (v : Vec3) : Bool :=
  box.isEmpty || ((List.range 3).all (fun k =>
    let c := if k = 0 then v.1 else if k = 1 then v.2.1 else v.2.2
    Fmt.f32.leBits (box.getD k 0).toNat c && Fmt.f32.leBits c (box.getD (k + 3) 0).toNat))

/-! ## The scene -/

/-- What a search has found so far. -/
structure Found where
  todo : List (Nat × Nat × List Word)
  errs : List RayErr
  cands : List Cand
  deriving DecidableEq, Repr, Inhabited

def Found.err (f : Found) (box : List Word) (status : Nat) (cause : Byte) (addr : DWord) : Found :=
  { f with errs := f.errs ++ [⟨box, status, cause, addr⟩] }
def Found.malformed (f : Found) (box : List Word) (addr : DWord) : Found := f.err box 4 Cause.islandFormat addr

/-- Numbers below 2^64 as one number. -/
def codeOf (l : List Nat) : Nat := l.foldl (fun a v => a * 2 ^ 64 + v % 2 ^ 64) l.length
def boxCode (box : List Word) : List Nat := box.length :: box.map BitVec.toNat
/-- What the spec leaves open about a ray and one thing it may or may not meet (R377, R383; log entry 6): a free value of the ray's own
token, record and descriptor, and of that thing. -/
def Ray.free (x : Ray) (what : List Nat) : Bool :=
  Config.freeTested (codeOf ([x.ctx, x.handle.toNat, x.state.toNat, x.tmin.toNat, x.tmax.toNat] ++ (x.org ++ x.dir).map BitVec.toNat ++ x.sd
    ++ what))

def whoIsland (sector ctx : Nat) (rd : Reader) : Who := ⟨ctx, sector / 64, .island, 0, none, rd⟩

/-- Doublewords of an entry at va, or the cause that their reads raise. -/
def entryM (w : Who) (va : DWord) (n : Nat) : Mach (Except Byte (List Nat)) := fun s =>
  match ((loadWordsM w va n).run).run s with
  | (.ok l, s1) => (.ok (.ok l), s1)
  | (.error (.raise c _), s1) => (.ok (.error c), s1)
  | (.error e, s1) => (.error e, s1)

def half (ws : List Nat) (k : Nat) : Nat := bits (ws.getD (k / 2) 0) (32 * (k % 2) + 31) (32 * (k % 2))
def vecAt (ws : List Nat) (k : Nat) : Vec3 := (half ws k, half ws (k + 1), half ws (k + 2))
def Ray.sdw (x : Ray) (k : Nat) : Nat := x.sd.getD k 0
def Ray.nodes (x : Ray) : Nat := x.sdw 4 % 2 ^ 32
def Ray.leaves (x : Ray) : Nat := bits (x.sdw 4) 63 32
def Ray.prims (x : Ray) : Nat := x.sdw 5 % 2 ^ 32
def Ray.parts (x : Ray) : Nat := bits (x.sdw 5) 43 32
def Ray.gen (x : Ray) : Nat := bits (x.sdw 5) 63 48
def Ray.addr (x : Ray) (k n : Nat) : DWord := BitVec.ofNat 64 (x.sdw k + n)
def vecWords (l : List Word) : Vec3 := ((l.getD 0 0).toNat, (l.getD 1 0).toNat, (l.getD 2 0).toNat)

/-- The primitives of a leaf: those that lie in the box for certain, the others freely (R377). -/
def leafPrimsM (w : Who) (x : Ray) (box : List Word) (leaf inst : Nat) (opaq : Bool) (first : Nat) : List Nat → Found → Mach Found
  | [], f => pure f
  | k :: t, f => do
    let va := x.addr 2 (48 * (first + k))
    match ← entryM w va 5 with
    | .error c => leafPrimsM w x box leaf inst opaq first t (f.err box 3 c va)
    | .ok ws =>
      let v0 := vecAt ws 0
      let v1 := vecAt ws 3
      let v2 := vecAt ws 6
      let tested := inBox box v0 && inBox box v1 && inBox box v2 || x.free (boxCode box ++ [leaf, first + k])
      match (if tested then triangleHit (vecWords x.org) (vecWords x.dir) x.tmin.toNat x.tmax.toNat v0 v1 v2 else none) with
      | some (tt, u, v) =>
        let c : Cand := ⟨BitVec.ofNat 32 tt, inst, first + k, leaf, BitVec.ofNat 32 u, BitVec.ofNat 32 v, opaq⟩
        leafPrimsM w x box leaf inst opaq first t { f with cands := addCand f.cands c }
      | none => leafPrimsM w x box leaf inst opaq first t f

/-- A leaf (R375, R377). -/
def leafM (w : Who) (x : Ray) (box : List Word) (leaf : Nat) (f : Found) : Mach Found := do
  let va := x.addr 1 (16 * leaf)
  match ← entryM w va 2 with
  | .error c => pure (f.err box 3 c va)
  | .ok ws =>
    let d0 := ws.getD 0 0
    let d1 := ws.getD 1 0
    let first := d0 % 2 ^ 32
    let count := bits d0 39 32
    if count = 0 || 16 < count || x.prims < first + count || bits d0 63 40 = 0xFFFFFF || 512 ≤ d1 then pure (f.malformed box va)
    else if (d1 % 256) &&& bits x.state.toNat 15 8 = 0 then pure f
    else leafPrimsM w x box leaf (bits d0 63 40) (bit d1 8 || x.state.getLsbD 0) first (List.range count) f

/-- A partition reference: its entry names the owner and the root (R374). -/
def partM (w : Who) (x : Ray) (box : List Word) (p : Nat) (f : Found) : Mach Found := do
  let va := x.addr 3 (8 * p)
  match ← entryM w va 1 with
  | .error c => pure (f.err box 3 c va)
  | .ok ws =>
    let e := ws.getD 0 0
    if bits e 31 30 != 0 || 2 ^ 40 ≤ e then pure (f.malformed box va)
    else pure { f with todo := f.todo ++ [(bits e 39 32, e % 2 ^ 30, box)] }

/-- A node and what its references reach, whichever boxes the ray misses (R377); `path` cuts cycles, `inPart`: a node of a partition. -/
def nodeM (w : Who) (x : Ray) (inPart : Bool) : Nat → List Nat → List Word → Nat → Found → Mach Found
  | 0, _, _, _, f => pure f
  | n + 1, path, box, k, f => do
    let va := x.addr 0 (128 * k)
    match ← entryM w va 16 with
    | .error c => pure (f.err box 3 c va)
    | .ok ws =>
      (List.range 4).foldlM (fun g i => do
        let ref := half ws (24 + i)
        let kind := ref / 2 ^ 30
        let idx := ref % 2 ^ 30
        let ra := va + BitVec.ofNat 64 (96 + 4 * i)
        if kind = 3 then pure (if idx = 0 then g else g.malformed box ra)
        else if (if kind = 0 then x.nodes else if kind = 1 then x.leaves else x.parts) ≤ idx || (kind = 2 && inPart) then
          pure (g.malformed box ra)
        else
          let child := clipBox box ((List.range 6).map (fun j => BitVec.ofNat 32 (half ws (6 * i + j))))
          if kind = 0 then (if path.contains idx then pure g else nodeM w x inPart n (idx :: path) child idx g)
          else if kind = 1 then leafM w x child idx g
          else partM w x child idx g) f

/-- The partitions that an island owns among those still to be entered. -/
def partsM (w : Who) (x : Ray) : List (Nat × Nat × List Word) → Found → Mach Found
  | [], f => pure f
  | (_, root, box) :: t, f => do
    let g ← nodeM w x true (x.nodes + 2) [root] box root f
    partsM w x t g

/-! ## The chain table's key (R389) -/

def floorClamp (hi : Int) (w : Nat) : Nat := ((decF w).toInt .rd 0 hi).toNat
def gridOf (o lo scale : Nat) : Nat := floorClamp 1023 (Fmt.f32.mulBits (Fmt.f32.subBits o lo) scale)
def absBits (w : Nat) : Nat := w % 2 ^ 31
def oneF : Nat := 0x3F800000
/-- rnd_f32(1 - abs(b)) × sgn(a), with sgn(0) = 1. -/
def foldDir (a b : Nat) : Nat :=
  let v := Fmt.f32.subBits oneF (absBits b)
  if (decF a).below0 then v ^^^ 2 ^ 31 else v
/-- rnd_f32((a + 1) × 32): one rounding. -/
def octOf (a : Nat) : Nat :=
  floorClamp 63 (rndF (((decF a).add .rne (decF oneF)).mul (.fin false 32 0)))

def Ray.makeKey (x : Ray) : BitVec 48 :=
  let o := vecWords x.org
  let d := vecWords x.dir
  let q := fun (k : Nat) => half x.sd k
  let n := rndF (((decF d.1).abs.add .rne (decF d.2.1).abs).add .rne (decF d.2.2).abs)
  let a := Fmt.f32.divBits d.1 n
  let b := Fmt.f32.divBits d.2.1 n
  let flip := (decF d.2.2).below0
  let a1 := if flip then foldDir a b else a
  let b1 := if flip then foldDir b a else b
  BitVec.ofNat 48 (octOf b1 + 2 ^ 6 * octOf a1 + 2 ^ 12 * gridOf o.2.2 (q 14) (q 17) + 2 ^ 22 * gridOf o.2.1 (q 13) (q 16)
    + 2 ^ 32 * gridOf o.1 (q 12) (q 15) + 2 ^ 42 * (x.ctx % 64))

def chainSet (k : BitVec 48) : Nat :=
  let v := k.toNat
  (bits v 13 0 ^^^ bits v 27 14) ^^^ (bits v 41 28 ^^^ bits v 47 42)
def chainIndex (die set way : Nat) : Nat := (die * 16384 + set) * 4 + way
def State.chainWays (s : State) (die : Nat) (k : BitVec 48) : List (Nat × Option Chain) :=
  (List.range 4).map (fun i => (chainIndex die (chainSet k) i, AMap.find? s.chain (chainIndex die (chainSet k) i)))

def wayHolds (k : BitVec 48) (p : Nat × Option Chain) : Bool :=
  match p.2 with
  | some e => e.key == k
  | none => false

/-- R391: a valid entry of the ray's key and generation. -/
def State.chainFind (s : State) (die : Nat) (k : BitVec 48) (gen : Nat) : Option Chain :=
  (s.chainWays die k).findSome? (fun p => match p.2 with
    | some e => if e.key = k && e.gen.toNat = gen then some e else none
    | none => none)

/-- R392: the entry of the same key, else a free way, else one that the schedule of the part displaces. -/
def State.chainWrite (s : State) (die : Nat) (k : BitVec 48) (e : Chain) : State :=
  let ways := s.chainWays die k
  match ways.find? (wayHolds k) with
  | some p => { s with chain := AMap.set s.chain p.1 e }
  | none =>
    match ways.find? (fun p => p.2.isNone) with
    | some p => { s with chain := AMap.set s.chain p.1 e }
    | none =>
      { s with chain := AMap.set s.chain (chainIndex die (chainSet k) (Config.freeWay s.freeNo % 4)) e, freeNo := s.freeNo + 1 }

/-- The hint test (R391); a malformed leaf or a read that faults abandons it. -/
def hintM (w : Who) (x : Ray) (e : Chain) : Mach Bool := do
  if x.leaves ≤ e.leaf.toNat then pure false
  else
    let f ← leafM w x [] e.leaf.toNat ⟨[], [], []⟩
    pure (f.errs.isEmpty && f.cands.any Cand.opaq)

/-! ## The end of a search -/

/-- A ray ends with a status. -/
def Ray.fail (x : Ray) (status : Nat) (cause : Byte) (addr : DWord) : Ray :=
  { x with st := .over, status := status, cause := cause, errAddr := addr, best := none, list := [], todo := [] }

def RayErr.code (e : RayErr) : List Nat := [e.status, e.cause.toNat, e.addr.toNat] ++ boxCode e.box

/-- Errors that the ray meets: those no farther than the best hit for certain, those behind it, or in a box that it misses, freely. -/
def Ray.meets (x : Ray) (limit : Rat) (e : RayErr) : Bool :=
  (match x.near e.box with
    | some d => decide (d ≤ limit)
    | none => false) || x.free e.code

def insertErr (e : RayErr) : List RayErr → List RayErr
  | [] => [e]
  | h :: t => if codeOf e.code ≤ codeOf h.code then e :: h :: t else h :: insertErr e t
/-- One of the errors met; which one ends the ray is open, and does not hang on the order they were found in (R383). -/
def Ray.pickErr (x : Ray) : List RayErr → Option RayErr
  | [] => none
  | e :: t => if t.isEmpty || x.free (1 :: e.code) then some e else Ray.pickErr x t

/-- Every partition has been entered: the ray has failed, or its candidates are known. -/
def Ray.conclude (x : Ray) : Ray :=
  let best := bestOf x.cands
  let limit := match best with
    | some b => ratOf b.t
    | none => ratOf x.tmax
  match x.pickErr ((x.errs.filter (x.meets limit)).foldr insertErr []) with
  | some e => x.fail e.status e.cause e.addr
  | none => { x with st := .invoke, best := best, list := listOf x.cands, status := 0 }

/-! ## Tokens (R384, R394) -/

/-- Bytes of a candidate or result token. -/
def rayToken (handle : DWord) (t prim u v inst b27 utag b30 b31 : Nat) (level : BitVec 6) : Token :=
  ⟨BitVec.ofNat 256 (handle.toNat + 2 ^ 64 * (t % 2 ^ 32) + 2 ^ 96 * (prim % 2 ^ 32) + 2 ^ 128 * (u % 2 ^ 32) + 2 ^ 160 * (v % 2 ^ 32)
    + 2 ^ 192 * (inst % 2 ^ 24) + 2 ^ 216 * (b27 % 256) + 2 ^ 224 * (utag % 65536) + 2 ^ 240 * (b30 % 256) + 2 ^ 248 * (b31 % 256)),
    mkTag 0 level.toNat⟩

def Ray.utag (x : Ray) : Nat := bits x.state.toNat 31 16
def Ray.candToken (x : Ray) (c : Cand) : Token :=
  rayToken x.handle c.t.toNat c.prim c.u.toNat c.v.toNat c.inst (min x.nany 255) x.utag 0 0 x.level
def Ray.resultToken (x : Ray) : Token :=
  let flags := (if x.hf then 16 else 0) + (if x.ho then 32 else 0)
  let nany := min x.nany 255
  if x.poisoned then ⟨0, mkTag 3 x.level.toNat⟩
  else if 2 ≤ x.status then
    rayToken x.handle 0x7F800000 0xFFFFFFFF 0 0 0xFFFFFF (x.status + flags) x.utag nany (if x.status = 3 then x.cause.toNat else 0) x.level
  else
    match x.best with
    | some c => rayToken x.handle c.t.toNat c.prim c.u.toNat c.v.toNat c.inst flags x.utag nany 0 x.level
    | none => rayToken x.handle 0x7F800000 0xFFFFFFFF 0 0 0xFFFFFF (1 + flags) x.utag nany 0 x.level

/-- OP, STATUS and COOKIE of a command (R394, R412, R421). -/
def cmdOp (t : Token) : Nat := (lane t.val 0).toNat % 256
def respToken (t : Token) (op status : Nat) : Token :=
  ⟨(BitVec.ofNat 256 (op + 256 * status)) ||| (((t.val >>> 128).extractLsb' 0 64).zeroExtend 256 <<< 128), t.tag⟩

/-! ## Links of an island -/

/-- The head of an input link, visible from the cycle after it came. -/
def State.linkHead (s : State) (key : Nat) : Option Token :=
  match (s.link key).inq with
  | e :: _ => if e.at_ < s.cyc then some e.tok else none
  | [] => none
/-- The island takes the head; its slot's credit goes back (R230). -/
def State.linkTake (s : State) (key : Nat) : State :=
  s.updLink key (fun l => { l with inq := l.inq.drop 1, freed := l.freed.filter (fun d => decide (s.cyc < d + 6)) ++ [s.cyc] })
def State.linkSend (s : State) (key : Nat) (t : Token) : State := s.updLink key (fun l => { l with outq := l.outq ++ [t] })

/-- An error record of an island or a blend unit: it names the engine's binding (R367). -/
def State.islandError (s : State) (r : Region) (cause : Byte) (addr : DWord) : State :=
  s.record { cause := cause, cls := 2, mkind := 2, ctx := r.ctx, mid := midEngine r.word, addr := addr, loc := r.loc 0 }

end Sys2Proof.Machine
end

