-- ==== Sys2Proof/Machine/Traversal.lean ====
section
/-!
DEFINITION. Traversal.lean: traversal islands (R369 to R394): taking of rays, migration, the any-hit exchange, results, the order of stop
tokens, and commands.
-/
namespace Sys2Proof.Machine

def State.island (s : State) (sector : Nat) : Island := AMap.getD s.islands sector {}
def State.updIsland (s : State) (sector : Nat) (f : Island → Island) : State :=
  { s with islands := AMap.set s.islands sector (f (s.island sector)) }
def State.ray? (s : State) (id : Nat) : Option Ray := s.rays.find? (fun x => x.id == id)
def State.setRay (s : State) (x : Ray) : State := { s with rays := s.rays.map (fun y => if y.id = x.id then x else y) }

/-- Ray entries in use at an island (R370). -/
def State.rayEntries (s : State) (sector : Nat) : Nat := (s.rays.filter (fun x => x.here == sector && x.entered)).length

/-- The region whose island takes work: its binding is not frozen (R363). -/
def State.islandRegion (s : State) (kind idx : Nat) : Option Region :=
  match s.binder kind idx with
  | some r => if r.engineFrozen then none else some r
  | none => none

/-- The part writes WORK (R378). -/
def freeWork (n : Nat) : Nat → List Byte
  | 0 => []
  | k + 1 => freeWork n k ++ [Config.freeWork (n + k)]
def State.writeWork (s : State) (w : Who) (handle : DWord) : State :=
  match (translateM w .load (handle + 0x40)).exec s with
  | (.ok x, s1) =>
    let bs := freeWork s1.freeNo 64
    let s2 : State := { s1 with freeNo := s1.freeNo + 64 }
    if x.mt != 0 || placeOf (lowOf x.pa) != .sram then s1
    else if s2.isLocal x.pa then s2.partWrite (lowOf x.pa) bs
    else if s2.maskHeld (pkgOf x.pa) then s1
    else if !s2.reachable (pkgOf x.pa) then s1.linkLost w.ctx x.pa
    else (s2.sendReq .write .other w.ctx x.pa 64 (BitVec.ofNat 512 (leNat bs))).2
  | (.error _, s1) => s1

/-! ## RAY_TAKE (R379) -/

/-- A ray as its token names it. -/
def newRay (s : State) (sector ctx : Nat) (t : Token) : Ray :=
  { id := s.nextId, origin := sector, here := sector, entered := true, ctx := ctx, handle := t.val.extractLsb' 0 64
    state := t.val.extractLsb' 64 64, level := BitVec.ofNat 6 (levelOf t.tag), st := .search, order := (s.island sector).taken }

/-- Whether the record stands in tile SRAM (R378), or the cause that its translation raises (R379). -/
def handleM (w : Who) (x : Ray) : Mach (Except Byte Bool) := fun s =>
  match ((translateM w .load x.handle).run).run s with
  | (.ok t, s1) => (.ok (.ok (t.mt == 0 && placeOf (lowOf t.pa) == .sram)), s1)
  | (.error (.raise c _), s1) => (.ok (.error c), s1)
  | (.error e, s1) => (.error e, s1)

/-- The fields of a record (R378); none where R379 calls it a format error. -/
def Ray.withRecord (x : Ray) (ws : List Nat) : Option Ray :=
  let f := (List.range 8).map (fun k => BitVec.ofNat 32 (half ws k))
  let y := { x with org := f.take 3, tmin := f.getD 3 0, dir := (f.drop 4).take 3, tmax := f.getD 7 0 }
  if f.any (fun v => !(decF v.toNat).finite) || y.dir.all (fun v => zeroF v.toNat) || (decF y.tmin.toNat).below0 then none else some y

/-- A malformed descriptor (R372, R377). -/
def badScene (ws : List Nat) : Bool :=
  let w := fun k => ws.getD k 0
  w 0 % 128 != 0 || w 1 % 16 != 0 || w 2 % 16 != 0 || w 3 % 8 != 0 || bits (w 5) 47 44 != 0 || (ws.drop 9).any (fun v => v != 0)

/-- The look-up of the chain table and the hint test (R389, R391). -/
def hintLookupM (w : Who) (x : Ray) : Mach Ray := do
  let noHint := x.state.getLsbD 1
  let y := if noHint && x.state.getLsbD 2 then x else { x with key := some x.makeKey }
  if noHint then pure y
  else
    match y.key with
    | none => pure y
    | some k =>
      match (← get).chainFind (x.origin / 64) k y.gen with
      | none => pure y
      | some e =>
        let ho ← hintM w y e
        pure { y with hf := true, ho := ho }

/-- Adds what a search found, and what is left to be entered elsewhere. -/
def Ray.found (x : Ray) (f : Found) : Ray := { x with todo := f.todo, errs := f.errs, cands := f.cands }

/-- The partitions that the island at hand owns are entered; the ray concludes once none is left. -/
def Ray.enterPartsM (w : Who) (x : Ray) : Mach Ray := do
  let mine := x.todo.filter (fun p => p.1 == x.here)
  let rest := x.todo.filter (fun p => p.1 != x.here)
  let f ← partsM w x mine ⟨rest, x.errs, x.cands⟩
  let y := x.found f
  pure (if y.todo.isEmpty then y.conclude else y)

/-- What the island does with a ray it has taken. -/
def Ray.startM (w : Who) (x : Ray) (dup : Bool) : Mach Ray := do
  if dup || x.handle.toNat % 128 != 0 then pure (x.fail 4 Cause.islandFormat x.handle)
  else
    match ← handleM w x with
    | .error c => pure (x.fail 3 c x.handle)
    | .ok false => pure (x.fail 4 Cause.islandFormat x.handle)
    | .ok true =>
      match ← entryM w x.handle 5 with
      | .error c => pure (x.fail 3 c x.handle)
      | .ok ws =>
        match x.withRecord ws with
        | none => pure (x.fail 4 Cause.islandFormat x.handle)
        | some y =>
          let scene := BitVec.ofNat 64 (ws.getD 4 0)
          if scene.toNat % 128 != 0 then pure (y.fail 4 Cause.islandFormat scene)
          else
            match ← entryM w scene 16 with
            | .error c => pure (y.fail 3 c scene)
            | .ok sd =>
              if badScene sd then pure (y.fail 4 Cause.islandFormat scene)
              else
                let z ← hintLookupM w { y with sd := sd }
                if Fmt.f32.ltBits z.tmax.toNat z.tmin.toNat then pure { z with st := .over, status := 1 }
                else
                  let f ← nodeM w z false (z.nodes + 2) [0] [] 0 ⟨[], [], []⟩
                  (z.found f).enterPartsM w

/-- A ray that concludes away from its origin returns there. -/
def Ray.settled (x : Ray) : Ray :=
  if x.st != .search && x.here != x.origin then { x with here := x.origin, entered := false } else x

/-- A ray that its island has taken and whose record and descriptor it is still reading (R388). -/
def Ray.fresh (x : Ray) : Bool := x.st == .search && x.sd.isEmpty

/-- The island goes on with a ray it has taken; reads of another package may still be on their way. -/
def State.rayStart (s : State) (x : Ray) (dup : Bool) : State :=
  let w := whoIsland x.here x.ctx (.ray x.id)
  match (x.startM w dup).exec s with
  | (.ok y, s1) =>
    let s2 := (s1.setRay y).endReads (.ray x.id)
    if y.status = 4 && y.errAddr = x.handle then s2 else s2.writeWork w x.handle
  | (.error _, s1) => s1

/-- RAY_TAKE. -/
def execRayTake (sector : Nat) (s : State) : Host.Outcome State Fault Refusal :=
  match s.islandRegion 0 sector, s.linkHead (linkKey 0 sector 0) with
  | some r, some t =>
    if !isData t.tag || r.token.isSome || 256 ≤ s.rayEntries sector then .next s
    else
      let x := newRay s sector r.ctx t
      let dup := s.rays.any (fun y => y.handle == x.handle && y.ctx == x.ctx && (y.origin == sector || (y.here == sector && y.entered)))
      let s1 := (s.linkTake (linkKey 0 sector 0)).updIsland sector (fun i => { i with taken := i.taken + 1 })
      .next ({ s1 with nextId := s1.nextId + 1, rays := s1.rays ++ [x] }.rayStart x dup)
  | _, _ => .next s

/-! ## RAY_MIGRATION (R386) -/

/-- Whether an island takes rays of a context: bound in it, with no reconfiguration token injected (R371, R386). -/
def State.takesRays (s : State) (sector ctx : Nat) : Bool :=
  match s.binder 0 sector with
  | some r => r.ctx == ctx && r.token.isNone
  | none => false

/-- Partitions of an island that does not take the ray: it ends with PART_ABSENT where it had to enter one. -/
def Ray.absent (x : Ray) (sector : Nat) : Ray :=
  { x with
    todo := x.todo.filter (fun p => p.1 != sector)
    errs := x.errs ++ (x.todo.filter (fun p => p.1 == sector)).map (fun p => ⟨p.2.2, 2, 0, 0⟩) }

/-- The ray goes on without the partitions that are absent. -/
def Ray.passM (x : Ray) : Mach Ray := pure (if x.todo.isEmpty then x.conclude else x)

/-- The outcome of a ray's step: the ray as it is then, or another attempt. -/
def State.rayStep (s : State) (x : Ray) (m : Mach Ray) : State :=
  match m.exec s with
  | (.ok y, s1) => (s1.setRay y.settled).endReads (.ray x.id)
  | (.error _, s1) => s1

/-- RAY_MIGRATION: `sector` is the island the ray goes to; it leaves, and enters when an entry is free. An island that holds a ray it is
still reading for goes on with it. -/
def execRayMigration (sector ray : Nat) (s : State) : Host.Outcome State Fault Refusal :=
  match s.ray? ray with
  | none => .next s
  | some x =>
    let w := whoIsland sector x.ctx (.ray x.id)
    if x.here != sector then
      if x.st != .search || !x.todo.any (fun p => p.1 == sector) then .next s
      else if s.takesRays sector x.ctx then
        .next ((s.setRay { x with here := sector, entered := false }).writeWork w x.handle)
      else .next (s.rayStep x (x.absent sector).passM)
    else if x.entered then .next (if x.fresh then s.rayStart x false else s)
    else if x.st = .search && !s.takesRays sector x.ctx then .next (s.rayStep x (x.absent sector).passM)
    else if 256 ≤ s.rayEntries sector then .next s
    else if x.st = .search then
      let y : Ray := { x with entered := true }
      .next (s.rayStep x (y.enterPartsM w))
    else .next (s.setRay { x with entered := true })

/-! ## The any-hit exchange (R384, R385) -/

/-- CANDIDATE_INVOKE: the ray goes to the end of the list, so that the first waiting ray has waited longest. -/
def execCandidateInvoke (sector ray : Nat) (s : State) : Host.Outcome State Fault Refusal :=
  match s.ray? ray with
  | none => .next s
  | some x =>
    match x.list with
    | [] => .next s
    | c :: _ =>
      if x.origin != sector || x.here != sector || !x.entered || x.st != .invoke then .next s
      else
        let s1 := s.linkSend (linkKey 0 sector 2) (x.candToken c)
        let y : Ray := { x with st := .verdict, nany := x.nany + 1 }
        .next { s1 with rays := s1.rays.filter (fun z => z.id != ray) ++ [y] }

def State.waitingRay (s : State) (sector : Nat) (p : Ray → Bool) : Option Ray :=
  s.rays.find? (fun x => x.origin == sector && x.st == .verdict && p x)

/-- A verdict on the candidate at the head of the list. -/
def Ray.verdict (x : Ray) (accept : Bool) : Ray :=
  match x.list with
  | [] => x
  | c :: t => if accept then { x with best := some c, list := [], st := .invoke } else { x with list := t, st := .invoke }

/-- VERDICT_TAKE. A poison verdict names no ray by its value: it is that of the ray that has waited longest. -/
def execVerdictTake (sector : Nat) (s : State) : Host.Outcome State Fault Refusal :=
  match s.binder 0 sector, s.linkHead (linkKey 0 sector 2) with
  | some r, some t =>
    let s1 := s.linkTake (linkKey 0 sector 2)
    let handle : DWord := t.val.extractLsb' 0 64
    let named := s.waitingRay sector (fun x => x.handle == handle)
    if isData t.tag then
      match named with
      | some x => .next (s1.setRay (x.verdict (t.val.getLsbD 248)))
      | none => .next (s1.islandError r Cause.islandFormat handle)
    else if isPoison t.tag then
      match (if named.isSome then named else s.waitingRay sector (fun _ => true)) with
      | some x => .next (s1.setRay { x with poisoned := true, st := .over, list := [] })
      | none => .next (s1.islandError r Cause.islandFormat 0)
    else .next (s1.islandError r Cause.islandFormat 0)
  | _, _ => .next s

/-! ## RAY_RESULT (R382, R386, R387, R392) -/

/-- The ray's search and exchange are over, and it holds its entry at its origin. -/
def Ray.ended (x : Ray) : Bool := x.here == x.origin && x.entered && (x.st == .over || (x.st == .invoke && x.list.isEmpty))

/-- The entry of an opaque closest hit. -/
def State.chainUpdate (s : State) (x : Ray) : State :=
  match x.key, x.best with
  | some k, some c =>
    if x.status = 0 && !x.poisoned && c.opaq && !x.state.getLsbD 2 then
      s.chainWrite (x.origin / 64) k ⟨k, BitVec.ofNat 32 c.leaf, BitVec.ofNat 16 x.gen⟩
    else s
  | _, _ => s

def State.rayRecord (s : State) (r : Region) (x : Ray) : State :=
  if x.poisoned then s
  else if x.status = 3 then s.islandError r x.cause x.errAddr
  else if x.status = 4 then s.islandError r Cause.islandFormat x.errAddr
  else s

/-- RAY_RESULT: not before a stop token that was taken before the ray. -/
def execRayResult (sector ray : Nat) (s : State) : Host.Outcome State Fault Refusal :=
  match s.ray? ray, s.binder 0 sector with
  | some x, some r =>
    if x.origin != sector || !x.ended || (s.island sector).stops.any (fun p => decide (p.1 < x.order)) then .next s
    else
      let s1 := ((s.rayRecord r x).chainUpdate x).linkSend (linkKey 0 sector 0) x.resultToken
      .next { s1 with rays := s1.rays.filter (fun y => y.id != ray) }
  | _, _ => .next s

/-! ## TRAVERSAL_STOP_PASS (R387) -/

/-- Rays taken at an island before a moment are still in flight. -/
def State.raysBefore (s : State) (sector n : Nat) : Bool := s.rays.any (fun x => x.origin == sector && decide (x.order < n))

/-- Stop and poison tokens whose turn has come leave, in order. -/
def State.passStops (s : State) (sector : Nat) : List (Nat × Token) → State
  | [] => s.updIsland sector (fun i => { i with stops := [] })
  | (n, t) :: rest =>
    if s.raysBefore sector n then s.updIsland sector (fun i => { i with stops := (n, t) :: rest })
    else State.passStops (s.linkSend (linkKey 0 sector 0) t) sector rest

/-- A token as it leaves: a stop unchanged, poison with its LEVEL. -/
def passedTok (t : Token) : Token := if isPoison t.tag then ⟨0, mkTag 3 (levelOf t.tag)⟩ else t

/-- TRAVERSAL_STOP_PASS. -/
def execTraversalStopPass (sector : Nat) (s : State) : Host.Outcome State Fault Refusal :=
  match s.binder 0 sector with
  | none => .next s
  | some _ =>
    let s1 := match s.linkHead (linkKey 0 sector 0) with
      | some t =>
        if isData t.tag then s
        else
          (s.linkTake (linkKey 0 sector 0)).updIsland sector (fun i =>
            { i with taken := i.taken + 1, stops := i.stops ++ [(i.taken, passedTok t)] })
      | none => s
    .next (s1.passStops sector (s1.island sector).stops)

/-! ## Commands (R394) -/

/-- The command at the head of link 1, once every earlier one has been answered. -/
def State.traversalCmd (s : State) (sector : Nat) : Option (Region × Token) :=
  match s.islandRegion 0 sector, s.linkHead (linkKey 0 sector 1) with
  | some r, some t => if (s.island sector).drains.isEmpty then some (r, t) else none
  | _, _ => none

def State.traversalAnswer (s : State) (sector : Nat) (t : Token) (status : Nat) : State :=
  s.linkSend (linkKey 0 sector 1) (respToken t (cmdOp t) status)

/-- DRAIN: taken, and answered once no ray taken before it is in flight. -/
def State.passDrain (s : State) (sector : Nat) : State :=
  match (s.island sector).drains with
  | (n, t) :: rest =>
    if s.raysBefore sector n then s
    else (s.updIsland sector (fun i => { i with drains := rest })).traversalAnswer sector t 0
  | [] => s

def execDrain (sector : Nat) (s : State) : Host.Outcome State Fault Refusal :=
  let s1 := match s.traversalCmd sector with
    | some (_, t) =>
      if isData t.tag && cmdOp t == 1 then
        (s.linkTake (linkKey 0 sector 1)).updIsland sector (fun i => { i with drains := [(i.taken, t)] })
      else s
    | none => s
  .next (s1.passDrain sector)

/-- CTINV: the entries of the context in the die's table. -/
def execCtinv (sector : Nat) (s : State) : Host.Outcome State Fault Refusal :=
  match s.traversalCmd sector with
  | some (r, t) =>
    if isData t.tag && cmdOp t == 2 then
      let s1 := s.linkTake (linkKey 0 sector 1)
      let s2 : State := { s1 with
        chain := s1.chain.filter (fun p => !(p.1 / 65536 == sector / 64 && p.2.key.toNat / 2 ^ 42 == r.ctx)) }
      .next (s2.traversalAnswer sector t 0)
    else .next s
  | none => .next s

/-- TRAVERSAL_UNKNOWN_COMMAND: STATUS 1; a stop or poison token is discarded. -/
def execTraversalUnknownCommand (sector : Nat) (s : State) : Host.Outcome State Fault Refusal :=
  match s.traversalCmd sector with
  | some (r, t) =>
    let s1 := (s.linkTake (linkKey 0 sector 1)).islandError r Cause.islandCmd 0
    if !isData t.tag then .next s1
    else if cmdOp t = 1 || cmdOp t = 2 then .next s
    else .next (s1.traversalAnswer sector t 1)
  | none => .next s

end Sys2Proof.Machine
end

