-- ==== Sys2Proof/Machine/Raster.lean ====
section
/-!
DEFINITION. Raster.lean: raster islands (R395 to R405): surfaces, coverage, fragments, tag closes, commands (R411, R412) and the order of
the tokens of link 0 (R404).
-/
namespace Sys2Proof.Machine

/-! ## Surfaces (R395, R396, R397) -/

structure Surface where
  va : DWord
  base : Nat
  tw : Nat
  th : Nat
  fmt : Nat
  comp : Bool
  deriving DecidableEq, Repr

def surfaceOf (va : DWord) (ws : List Nat) : Surface :=
  let w := ws.getD 1 0
  ⟨va, ws.getD 0 0, w % 65536, bits w 31 16, bits w 33 32, bit w 34⟩
/-- A tile lies within the surface, so that its closes have somewhere to go: BASE names screen tiles (R403; log entry 46). -/
def Surface.located (x : Surface) (tx ty : Nat) : Bool :=
  x.base % 4096 == 0 && decide (tx < x.tw) && decide (ty < x.th)
def badSurface (ws : List Nat) : Bool :=
  let x := surfaceOf 0 ws
  x.base % 4096 != 0 || x.tw == 0 || decide (2048 < x.tw) || x.th == 0 || decide (2048 < x.th) || decide (1 < x.fmt)
    || (x.comp && x.fmt != 0) || bits (ws.getD 1 0) 63 35 != 0 || (ws.drop 2).any (fun v => v != 0)
def Surface.tileVa (x : Surface) (tx ty : Nat) : DWord := BitVec.ofNat 64 (x.base + 4096 * (x.tw * ty + tx))
/-- Byte offset of a pixel within its screen tile. -/
def pixelOff (px py : Nat) : Nat := 256 * (4 * (py % 32 / 8) + px % 32 / 8) + 4 * (8 * (py % 8) + px % 8)

def whoRaster (block ctx : Nat) : Who := ⟨ctx, block / 16, .island, 0, none, .island 1 block⟩

/-- A tile's translation and, beside it, the cause that keeps the island from using it: a page that lacks the permission still says where
the tile lies (R403). -/
def tilePage (w : Who) (need : Need) (va : DWord) : Mach (Except Byte Xlat × Option Byte) := fun s =>
  match ((accessM w need va 4).run).run s with
  | (.ok x, s1) => (.ok (.ok x, none), s1)
  | (.error (.raise c _), s1) =>
    if c = Cause.permFault then
      (match s1.walk w.ctx va with
      | .leaf _ e => (.ok (.ok (leafTarget 0 e va), some c), s1)
      | .bad _ _ => (.ok (.error c, some c), s1))
    else (.ok (.error c, some c), s1)
  | (.error e, s1) => (.error e, s1)

/-- A tile lies in normal unversioned memory of a bay of this package. -/
def State.tileIn (s : State) (bay : Nat) (x : Xlat) : Bool :=
  x.mt == 0 && s.isLocal x.pa && isNormal (lowOf x.pa) && homeBay (lowOf x.pa) == bay

/-- A page of the surface that a leaf maps breaks R397: the surface is malformed wherever it is read. What no leaf maps is judged only
where it is read (log entry 71, DEDUCED). -/
def State.surfaceBroken (s : State) (w : Who) (bay : Nat) (x : Surface) : Bool :=
  (List.range (x.tw * x.th)).any (fun k =>
    let va := x.tileVa (k % x.tw) (k / x.tw)
    match s.walk w.ctx va with
    | .leaf _ e => e.getLsbD 9 || !s.tileIn bay (leafTarget 0 e va)
    | .bad _ _ => false)

/-- The home slices of a screen tile's lines. -/
def tileSlices (pa : Nat) : List Nat :=
  (List.range 32).foldl (fun l i => NSet.insert l (homeSlice (pa / 4096 * 4096 + 128 * i))) []

/-! ## Coverage (R401) -/

/-- A finite FP32 value in units of 2^-149. -/
def fixedF (w : Nat) : Int :=
  match decF w with
  | .fin neg m e => signedAt neg m e (-149)
  | _ => 0

def sum4 (m : Nat → Nat) (v : Nat → Nat) : Nat :=
  let p := fun k => (decF (m k)).mul (decF (v k))
  rndF ((((p 0).add .rne (p 1)).add .rne (p 2)).add .rne (p 3))

/-- The position of a vertex on the screen, or none where it covers nothing. -/
def project (m v : Nat → Nat) : Option (Int × Int) :=
  let row := fun (r : Nat) => sum4 (fun c => m (4 * r + c)) v
  let x := row 0
  let y := row 1
  let w := row 3
  if (decF x).isNan || (decF y).isNan || (decF w).isNan || Fmt.f32.leBits w 0 then none
  else
    let px := Fmt.f32.divBits x w
    let py := Fmt.f32.divBits y w
    if (decF px).finite && (decF py).finite then some (fixedF px, fixedF py) else none

def edgeFn (a b p : Int × Int) : Int := (b.1 - a.1) * (p.2 - a.2) - (b.2 - a.2) * (p.1 - a.1)
def ownedEdge (a b : Int × Int) : Bool := decide (b.2 - a.2 < 0) || (b.2 - a.2 == 0 && decide (0 < b.1 - a.1))

/-- The quotient of two whole numbers rounded to FP32. -/
def ratioF (num den : Int) : Nat :=
  if num = 0 || den = 0 then 0
  else
    let m := num.natAbs
    let n := den.natAbs
    let k := 64 + Nat.log2 n
    Fmt.f32.round .rne false false (decide (num < 0) != decide (den < 0)) (m * 2 ^ k / n) (-(k : Int)) (m * 2 ^ k % n != 0)

/-- A covered pixel: its coordinates and the weights of V1 and V2. -/
structure Pixel where
  px : Nat
  py : Nat
  u : Nat
  v : Nat
  deriving DecidableEq, Repr

def coverPixels (p0 p1 p2 : Int × Int) (tx ty : Nat) : List Pixel :=
  let a := edgeFn p0 p1 p2
  if a = 0 then []
  else
    let edges := if 0 < a then [(p0, p1), (p1, p2), (p2, p0)] else [(p0, p2), (p2, p1), (p1, p0)]
    (List.range 1024).filterMap (fun k =>
      let px := 32 * tx + k % 32
      let py := 32 * ty + k / 32
      let p : Int × Int := ((2 * px + 1 : Nat) * 2 ^ 148, (2 * py + 1 : Nat) * 2 ^ 148)
      let inside := edges.all (fun e =>
        let s := if 0 < a then edgeFn e.1 e.2 p else -edgeFn e.1 e.2 p
        decide (0 < s) || (s == 0 && ownedEdge e.1 e.2))
      if inside then some ⟨px, py, ratioF (edgeFn p2 p0 p) a, ratioF (edgeFn p0 p1 p) a⟩ else none)

/-- The pixels of tile (tx, ty) that the triangle covers in the view with matrix m; vertex k is at words 4k of the record. -/
def coverage (view vrec : List Nat) (tx ty : Nat) : List Pixel :=
  let m := half view
  match project m (fun c => half vrec c), project m (fun c => half vrec (4 + c)), project m (fun c => half vrec (8 + c)) with
  | some p0, some p1, some p2 => coverPixels p0 p1 p2 tx ty
  | _, _, _ => []

/-! ## Primitive tokens (R399, R403) -/

structure Prim where
  vrec : DWord
  mask : Nat
  tx : Nat
  ty : Nat
  seq : BitVec 16
  op : Nat
  flat : Bool
  bad : Bool
  prim : Nat
  deriving DecidableEq, Repr

def kindOfTok (t : Token) : Nat := bits (lane t.val 6).toNat 31 28

def primOf (t : Token) : Prim :=
  let l := fun (k : Nat) => (lane t.val k).toNat
  { vrec := t.val.extractLsb' 0 64, mask := l 2 + 2 ^ 32 * l 3 + 2 ^ 64 * l 4, tx := l 5 % 65536, ty := bits (l 5) 31 16
    seq := BitVec.ofNat 16 (l 6), op := bits (l 6) 18 16, flat := bit (l 6) 19, bad := bits (l 6) 27 20 != 0, prim := l 7 }

/-- R410: operations that a format has. -/
def opOk (fmt op : Nat) : Bool := if fmt = 0 then decide (op < 3) else op == 0 || op == 2 || op == 4 || op == 5

/-- The fragment token of R402. -/
def fragToken (x : Surface) (p : Prim) (view : Nat) (q : Pixel) : Token :=
  let va := BitVec.ofNat 64 (x.base + 4096 * (x.tw * (q.py / 32) + q.px / 32) + pixelOff q.px q.py)
  let l2 := p.seq.toNat + 2 ^ 16 * view + 2 ^ 23 * p.op + (if x.comp then 2 ^ 27 else 0) + 2 ^ 28 * (x.fmt % 2)
  ⟨BitVec.ofNat 256 (va.toNat + 2 ^ 64 * l2 + 2 ^ 96 * (q.px + 65536 * q.py) + 2 ^ 128 * q.u + 2 ^ 160 * q.v + 2 ^ 192 * p.prim), dataTag⟩

/-- A list with one more entry, where the part puts it. -/
def insertAt {α : Type} (x : α) : Nat → List α → List α
  | 0, l => x :: l
  | _ + 1, [] => [x]
  | n + 1, h :: t => h :: insertAt x n t
def shuffle {α : Type} (n : Nat) : List α → List α
  | [] => []
  | x :: t => let l := shuffle (n + 1) t; insertAt x (Config.freeFragment n % (l.length + 1)) l

/-- Items that travel to the home slices. -/
def State.addItems (s : State) (l : List BlendItem) : State :=
  { s with nextId := s.nextId + l.length, blendItems := s.blendItems ++ (l.zipIdx.map (fun p => { p.1 with id := s.nextId + p.2 })) }

/-- The item of a FLAT fragment, and that of a tag close. -/
def flatItem (r : Region) (block : Nat) (x : Surface) (p : Prim) (value : Word) (pa : Nat) (q : Pixel) : BlendItem :=
  let a := pa / 4096 * 4096 + pixelOff q.px q.py
  { id := 0, slice := homeSlice a, tile := pa / 4096, tag := p.seq, ctx := r.ctx, master := masterRaster block, mid := midEngine r.word
    loc := r.loc 0, pixel := some a, va := x.tileVa p.tx p.ty + BitVec.ofNat 64 (pixelOff q.px q.py), count := 0, value := value, op := p.op
    fmt := x.fmt, comp := x.comp, kill := false }
def closeItem (r : Region) (block : Nat) (x : Surface) (p : Prim) (pa slice count : Nat) : BlendItem :=
  { id := 0, slice := slice, tile := pa / 4096, tag := p.seq, ctx := r.ctx, master := masterRaster block, mid := midEngine r.word
    loc := r.loc 0, pixel := none, va := x.tileVa p.tx p.ty, count := count, value := 0, op := 0, fmt := 0, comp := false, kill := false }

/-- Fragments of the view whose lines are homed at a slice. -/
def countAt (pa slice : Nat) (l : List Pixel) : Nat :=
  (l.filter (fun q => homeSlice (pa / 4096 * 4096 + pixelOff q.px q.py) == slice)).length

/-- Why a located view produces no fragment: cause and address, or the words of the vertex record. -/
def viewCheckM (w : Who) (r : Region) (block : Nat) (p : Prim) (viewVa : DWord) (view sd : List Nat) (x : Surface) (perm : Option Byte) :
    Mach (Except (Byte × DWord) (List Nat)) := do
  let s ← get
  let link1 := r.binds.any (fun b => bindEp b == 3 && islandKey (r.loc (bindElem b)) (bindOpnd b) == linkKey 1 block 1)
  if (view.drop 9).any (fun v => v != 0) then pure (.error (Cause.islandFormat, viewVa))
  else if badSurface sd || s.surfaceBroken w (block / 16) x || !opOk x.fmt p.op then pure (.error (Cause.islandFormat, x.va))
  else if p.bad || (!p.flat && !link1) then pure (.error (Cause.islandFormat, 0))
  else
    match perm with
    | some c => pure (.error (c, x.tileVa p.tx p.ty))
    | none =>
      if p.vrec.toNat % 64 != 0 then pure (.error (Cause.islandFormat, p.vrec))
      else
        match ← entryM w p.vrec 8 with
        | .error c => pure (.error (c, p.vrec))
        | .ok ws => pure (if half ws 13 != 0 || ws.getD 7 0 != 0 then .error (Cause.islandFormat, p.vrec) else .ok ws)

/-- What the island does about a view once all of it is read: a record, or the tags it closes with its fragments and closes. -/
abbrev ViewOut := List (Nat × Nat × Nat) × (State → State)

/-- A view's fragments and closes. -/
def viewSend (r : Region) (block : Nat) (p : Prim) (v : Nat) (view : List Nat) (x : Surface) (pa : Nat)
    (got : Except (Byte × DWord) (List Nat)) : ViewOut :=
  let slices := tileSlices pa
  let closes := fun (l : List Pixel) => slices.map (fun h => closeItem r block x p pa h (countAt pa h l))
  (slices.map (fun h => (h, pa / 4096, p.seq.toNat)),
    match got with
    | .error (c, a) => fun s => (s.islandError r c a).addItems (closes [])
    | .ok vr =>
      let l := coverage view vr p.tx p.ty
      if p.flat then fun s => s.addItems (l.map (flatItem r block x p (BitVec.ofNat 32 (half vr 12)) pa) ++ closes l)
      else fun s =>
        let frags := shuffle s.freeNo (l.map (fragToken x p v))
        let s1 := s.updLink (linkKey 1 block 1) (fun k => { k with outq := k.outq ++ frags })
        { s1 with freeNo := s1.freeNo + l.length }.addItems (closes l))

/-- One view of a primitive (R403). -/
def viewM (w : Who) (r : Region) (block : Nat) (p : Prim) (v : Nat) : Mach ViewOut := do
  let s ← get
  let fail := fun (c : Byte) (a : DWord) => (([], fun s1 => s1.islandError r c a) : ViewOut)
  let viewVa := (AMap.getD s.rasters block {}).view + BitVec.ofNat 64 (128 * v)
  match ← entryM w viewVa 16 with
  | .error c => pure (fail c viewVa)
  | .ok view =>
    let surf := BitVec.ofNat 64 (view.getD 8 0)
    if surf.toNat % 64 != 0 then pure (fail Cause.islandFormat surf)
    else
      match ← entryM w surf 8 with
      | .error c => pure (fail c surf)
      | .ok sd =>
        let x := surfaceOf surf sd
        if !x.located p.tx p.ty then pure (fail Cause.islandFormat surf)
        else
          let (page, perm) ← tilePage w (if p.flat then .atomic else .load) (x.tileVa p.tx p.ty)
          match page with
          | .error c => pure (fail c (x.tileVa p.tx p.ty))
          | .ok t =>
            if !(← get).tileIn (block / 16) t then pure (fail Cause.islandFormat surf)
            else
              let got ← viewCheckM w r block p viewVa view sd x perm
              pure (viewSend r block p v view x (lowOf t.pa) got)

/-- Every view is read before any of them takes effect, so that a read of another package that is still awaited leaves no trace. -/
def viewsM (w : Who) (r : Region) (block : Nat) (p : Prim) : List Nat → Mach ViewOut
  | [] => pure ([], id)
  | v :: t => do
    let a ← viewM w r block p v
    let b ← viewsM w r block p t
    pure (a.1 ++ b.1, fun s => b.2 (a.2 s))

/-- The tags of a primitive that its island waits for. -/
def addJob (tags : List (Nat × Nat × Nat)) (x : Raster) : Raster := if tags.isEmpty then x else { x with jobs := x.jobs ++ [⟨tags⟩] }
def State.updRaster (s : State) (block : Nat) (f : Raster → Raster) : State :=
  { s with rasters := AMap.set s.rasters block (f (AMap.getD s.rasters block {})) }

/-- The island takes a token: its binding is not frozen, no reconfiguration token is injected. -/
def State.rasterHead (s : State) (block : Nat) : Option (Region × Token) :=
  match s.islandRegion 1 block, s.linkHead (linkKey 1 block 0) with
  | some r, some t => if r.token.isNone then some (r, t) else none
  | _, _ => none

/-- PRIMITIVE_TOKEN: every view of the mask, in increasing order (R401 to R403). -/
def execPrimitiveToken (block : Nat) (s : State) : Host.Outcome State Fault Refusal :=
  match s.rasterHead block with
  | some (r, t) =>
    if !isData t.tag || kindOfTok t != 0 then .next s
    else
      let p := primOf t
      match (viewsM (whoRaster block r.ctx) r block p ((List.range 96).filter (fun v => bit p.mask v))).exec s with
      | (.ok out, s1) =>
        .next ((((out.2 s1).linkTake (linkKey 1 block 0)).updRaster block (addJob out.1)).endReads (.island 1 block))
      | (.error _, s1) => .next s1
  | none => .next s

/-! ## Commands (R404, R411, R412) -/

def rasterCmdOf (t : Token) : Nat := (lane t.val 6).toNat % 256

/-- The command with a code at the head of link 0, once everything before it is complete. -/
def State.rasterCmd (s : State) (block : Nat) (p : Nat → Bool) : Option (Region × Token) :=
  match s.rasterHead block with
  | some (r, t) =>
    if isData t.tag && kindOfTok t == 1 && p (rasterCmdOf t) && (AMap.getD s.rasters block {}).jobs.isEmpty then some (r, t) else none
  | none => none

/-- A command ends: STATUS 0, or STATUS 2 with a record of its cause. -/
def rasterRun (block code : Nat) (s : State) (m : Region → Who → DWord → DWord → Mach Bool) : Host.Outcome State Fault Refusal :=
  match s.rasterCmd block (fun c => c == code) with
  | none => .next s
  | some (r, t) =>
    let answer := fun (s1 : State) (status : Nat) =>
      ((s1.linkTake (linkKey 1 block 0)).linkSend (linkKey 1 block 0) (respToken t code status)).endReads (.island 1 block)
    match (m r (whoRaster block r.ctx) (t.val.extractLsb' 0 64) (t.val.extractLsb' 64 64)).exec s with
    | (.ok good, s1) => .next (answer s1 (if good then 0 else 2))
    | (.error (.raise c a), s1) => .next (answer (s1.islandError r c a) 2)
    | (.error _, s1) => .next s1

/-- The descriptor at A. -/
def readSurfaceM (w : Who) (a : DWord) : Mach Surface := do
  if a.toNat % 64 != 0 then raiseM Cause.islandFormat a
  match ← entryM w a 8 with
  | .error c => raiseM c a
  | .ok ws =>
    if badSurface ws then raiseM Cause.islandFormat a
    pure (surfaceOf a ws)

/-- Every tile of a surface, as addresses of this package. -/
def tilesM (w : Who) (block : Nat) (need : Need) (x : Surface) : List Nat → Mach (List Nat)
  | [] => pure []
  | k :: t => do
    let p ← accessM w need (x.tileVa (k % x.tw) (k / x.tw)) 4
    let s ← get
    if p.ver || !s.tileIn (block / 16) p then raiseM Cause.islandFormat x.va
    let l ← tilesM w block need x t
    pure (lowOf p.pa :: l)
def surfaceTilesM (w : Who) (block : Nat) (need : Need) (x : Surface) : Mach (List Nat) :=
  tilesM w block need x (List.range (x.tw * x.th))

/-- A tag that an island waits for and that no slice will complete: its tile has been reset (R405). -/
def lostTag (gone : Nat → Bool) (q : Nat × Nat × Nat) : Nat × Nat × Nat := if gone q.2.1 then (q.1, q.2.1, q.2.2 % 65536 + 65536) else q

/-- Tag state of the tiles is reset (R407): what was held for them is discarded (log entry 46). An island that waits for one of their
tags goes on waiting (R405). -/
def State.resetTiles (s : State) (tiles : List Nat) : State :=
  let gone := fun (t : Nat) => tiles.contains (t * 4096)
  { s with
    tileTags := s.tileTags.filter (fun x => !gone x.tile)
    blendItems := s.blendItems.filter (fun b => !gone b.tile)
    rasters := s.rasters.map (fun p => (p.1, { p.2 with jobs := p.2.jobs.map (fun j => ⟨j.tags.map (lostTag gone)⟩) })) }

/-- A block becomes fast-clear (R413). -/
def State.fastClear (s : State) (v blk : Nat) : State :=
  let line := leBytes v 4 ++ List.replicate 124 0
  { s with mem := Mem.writeList s.mem (blk * 256) (line ++ line), modes := AMap.set s.modes blk 0x01 }.noteWrite (blk * 256) 256
/-- Every pixel of a block is written. -/
def State.fillBlock (s : State) (v blk : Nat) : State := s.fabWrite (blk * 256) ((List.range 64).flatMap (fun _ => leBytes v 4))
def tileBlocks (pa : Nat) : List Nat := natsFrom (pa / 256) 16

/-- Lines that the host holds are invalidated before they are written (R438). -/
def hostGate (l : List Nat) (n : Nat) : Mach Unit := do
  let s ← get
  if l.any (fun pa => s.hostHolds pa n) then waitM

/-- VIEW: A is 128-byte aligned. -/
def execView (block : Nat) (s : State) : Host.Outcome State Fault Refusal :=
  rasterRun block 1 s (fun _ _ a _ => do
    if a.toNat % 128 != 0 then raiseM Cause.islandFormat a
    modify (fun s1 => s1.updRaster block (fun x => { x with view := a }))
    pure true)

/-- CLR. -/
def execClr (block : Nat) (s : State) : Host.Outcome State Fault Refusal :=
  rasterRun block 2 s (fun _ w a b => do
    let x ← readSurfaceM w a
    let tiles ← surfaceTilesM w block .store x
    hostGate tiles 4096
    let v := b.toNat % 2 ^ 32
    modify (fun s1 => (tiles.flatMap tileBlocks).foldl (fun t k => if x.comp then t.fastClear v k else t.fillBlock v k) (s1.resetTiles tiles))
    pure true)

/-- FBEG. -/
def execFbeg (block : Nat) (s : State) : Host.Outcome State Fault Refusal :=
  rasterRun block 3 s (fun _ w a _ => do
    let x ← readSurfaceM w a
    let tiles ← surfaceTilesM w block .load x
    modify (fun s1 => s1.resetTiles tiles)
    pure true)

/-- RASTER_FENCE: every earlier token is complete, so the arrival releases its writes. -/
def execRasterFence (block : Nat) (s : State) : Host.Outcome State Fault Refusal :=
  rasterRun block 4 s (fun _ w a _ => do
    if a != 0 then
      let pa ← tbarMarked w .atomic a
      let s1 ← get
      if (s1.tbarAt pa).badArrival 1 0 then raiseM Cause.tbarRange a
      set (s1.tbarArrive pa 1 0)
    pure true)

/-- Places of the bytes at B + i, one a block. -/
def bytesM (w : Who) (need : Need) (b : DWord) : Nat → Mach (List Xlat)
  | 0 => pure []
  | n + 1 => do
    let l ← bytesM w need b n
    let x ← accessM w need (b + BitVec.ofNat 64 n) 1
    pure (l ++ [x])

def putBytesM (w : Who) (s0 : State) : List (Xlat × Nat) → Mach Unit
  | [] => pure ()
  | (x, blk) :: t => do
    let v := s0.modeOf (blk * 256)
    if s0.isLocal x.pa then modify (fun s => s.fabWrite (lowOf x.pa) [BitVec.ofNat 8 v])
    else
      let s ← get
      match s.remoteReads.find? (fun q => q.reader == w.reader && q.addr == x.pa && q.size == 65) with
      | some q =>
        (match q.answer with
        | none => waitM
        | some v => if v.1 = refusedMark then raiseM Cause.permFault (BitVec.ofNat 64 x.pa) else pure ())
      | none =>
        if s.maskHeld (pkgOf x.pa) then waitM
        if !s.reachable (pkgOf x.pa) then
          set (s.linkLost w.ctx x.pa)
        else
          let asked : RemRead := ⟨w.reader, x.pa, 65, s.nextId, none⟩
          let s1 := (s.sendReq .write .other w.ctx x.pa 1 (BitVec.ofNat 512 v)).2
          set { s1 with remoteReads := s1.remoteReads ++ [asked] }
          waitM
    putBytesM w s0 t

/-- A surface whose blocks have modes: FMT is 0. -/
def modedM (w : Who) (block : Nat) (need : Need) (a : DWord) : Mach (List Nat) := do
  let x ← readSurfaceM w a
  if x.fmt != 0 then raiseM Cause.islandFormat a
  surfaceTilesM w block need x

/-- MODES. -/
def execModes (block : Nat) (s : State) : Host.Outcome State Fault Refusal :=
  rasterRun block 5 s (fun _ w a b => do
    let tiles ← modedM w block .load a
    let blks := tiles.flatMap tileBlocks
    let xs ← bytesM w .store b blks.length
    let s1 ← get
    if xs.any (fun x => x.mt = 0 && s1.isLocal x.pa && s1.writeHeld (lowOf x.pa) 1 false) then waitM
    putBytesM w s1 (xs.zip blks)
    pure true)

/-- DCMP: what a compressed block holds is kept. -/
def State.dcmpBlock (s : State) (blk : Nat) : State :=
  if s.modeOf (blk * 256) = 0 then s
  else { s.uncompress blk with frames := NSet.insert s.frames (blk / 16) }

/-- DCMP. -/
def execDcmp (block : Nat) (s : State) : Host.Outcome State Fault Refusal :=
  rasterRun block 6 s (fun _ w a _ => do
    let tiles ← modedM w block .store a
    hostGate tiles 4096
    modify (fun s1 => (tiles.flatMap tileBlocks).foldl State.dcmpBlock s1)
    pure true)

/-- Mode bytes that R413 allocates. -/
def modeOk (v : Nat) : Bool := v == 0 || v == 1 || (decide (0x10 ≤ v) && decide (v ≤ 0x17))

/-- MLOAD over blocks: false where a byte is not allocated. -/
def loadModesM (w : Who) (r : Region) (b : DWord) : List (Nat × Nat) → Mach Bool
  | [] => pure true
  | (blk, i) :: t => do
    let va := b + BitVec.ofNat 64 i
    let v ← loadM w va 1
    let good := modeOk v
    if good then
      modify (fun s => { s with modes := if v = 0 then AMap.erase s.modes blk else AMap.set s.modes blk (BitVec.ofNat 8 v) })
    else modify (fun s => s.islandError r Cause.compressFormat va)
    let rest ← loadModesM w r b t
    pure (good && rest)

/-- Bytes are read before any mode is set, so that a read that fails leaves every mode. -/
def probeM (w : Who) (b : DWord) : Nat → Mach Unit
  | 0 => pure ()
  | n + 1 => do
    probeM w b n
    let _ ← loadM w (b + BitVec.ofNat 64 n) 1

/-- MLOAD. -/
def execMload (block : Nat) (s : State) : Host.Outcome State Fault Refusal :=
  rasterRun block 7 s (fun r w a b => do
    let tiles ← modedM w block .store a
    let blks := tiles.flatMap tileBlocks
    probeM w b blks.length
    loadModesM w r b blks.zipIdx)

/-- RASTER_UNKNOWN_COMMAND: STATUS 1 and an ISLAND_CMD record. -/
def execRasterUnknownCommand (block : Nat) (s : State) : Host.Outcome State Fault Refusal :=
  let answer := fun (r : Region) (t : Token) =>
    ((s.linkTake (linkKey 1 block 0)).islandError r Cause.islandCmd 0).linkSend (linkKey 1 block 0) (respToken t (rasterCmdOf t) 1)
  match s.rasterCmd block (fun c => c == 0 || decide (7 < c)) with
  | some (r, t) => .next (answer r t)
  | none =>
    match s.rasterHead block with
    | some (r, t) => if isData t.tag && decide (1 < kindOfTok t) then .next (answer r t) else .next s
    | none => .next s

/-- RASTER_STOP_PASS: once everything before it is complete. -/
def execRasterStopPass (block : Nat) (s : State) : Host.Outcome State Fault Refusal :=
  match s.rasterHead block with
  | some (_, t) =>
    if isData t.tag || !(AMap.getD s.rasters block {}).jobs.isEmpty then .next s
    else .next ((s.linkTake (linkKey 1 block 0)).linkSend (linkKey 1 block 0) (passedTok t))
  | none => .next s

end Sys2Proof.Machine
end

