-- ==== Sys2Proof/Machine/Blend.lean ====
section
/-!
DEFINITION. Blend.lean: blend units (R406), the tag state of screen tiles at home slices (R407, R408), and blend applications (R409, R410).
-/
namespace Sys2Proof.Machine

/-! ## Tag state (R407) -/

def State.tileTag (s : State) (slice tile : Nat) : TileTag :=
  (s.tileTags.find? (fun x => x.slice == slice && x.tile == tile)).getD ⟨slice, tile, 0, 0, none⟩
/-- The state of a tile at rest (E = 0, n = 0, no close) is not listed. -/
def putTag (x : TileTag) (l : List TileTag) : List TileTag :=
  let rest := l.filter (fun y => !(y.slice == x.slice && y.tile == x.tile))
  if x.e = 0 && x.n = 0 && x.close.isNone then rest else rest ++ [x]

/-- A tag has completed at a slice: primitives that wait for it wait no more (R404). -/
def completeTag (q : Nat × Nat × Nat) (x : Raster) : Raster :=
  { x with jobs := (x.jobs.map (fun j => (⟨j.tags.filter (fun p => p != q)⟩ : RasterJob))).filter (fun j => !j.tags.isEmpty) }
def State.tagOver (s : State) (slice tile tag : Nat) : State :=
  { s with rasters := s.rasters.map (fun p => (p.1, completeTag (slice, tile, tag) p.2)) }

/-- The last step of R408: whenever c is known and n = c, E moves on. -/
def State.settleTag (s : State) (x : TileTag) : State :=
  if x.close = some x.n then
    { s with tileTags := putTag { x with e := x.e + 1, n := 0, close := none } s.tileTags }.tagOver x.slice x.tile x.e.toNat
  else { s with tileTags := putTag x s.tileTags }

def State.dropItem (s : State) (id : Nat) : State := { s with blendItems := s.blendItems.filter (fun b => b.id != id) }
def State.blendError (s : State) (b : BlendItem) (cause : Byte) : State :=
  s.record { cause := cause, cls := 2, mkind := 2, ctx := b.ctx, mid := b.mid, addr := b.va, loc := b.loc }

/-- d of R408. -/
def State.tagAhead (s : State) (b : BlendItem) : Nat := (b.tag - (s.tileTag b.slice b.tile).e).toNat

/-! ## Applications (R409, R410) -/

def overlayByte (s t a : Nat) : Nat := min 255 (s + (t * (255 - a) + 127) / 255)
def channels (f : Nat → Nat → Nat) (s t : Nat) : Nat :=
  (List.range 4).foldl (fun v k => v + 2 ^ (8 * k) * f (bits s (8 * k + 7) (8 * k)) (bits t (8 * k + 7) (8 * k))) 0

/-- The new value of a pixel. -/
def blendValue (fmt op s t : Nat) : Nat :=
  if op = 0 then s
  else if fmt = 0 then (if op = 1 then channels (fun a b => overlayByte a b (bits s 31 24)) s t else channels (fun a b => min 255 (a + b)) s t)
  else if op = 2 then Fmt.f32.addBits t s
  else if op = 4 then Fmt.f32.minmax (-1) t s
  else Fmt.f32.minmax 1 t s

/-- A write with COMP = 1 gives the block its canonical mode (R414). -/
def State.blendWrite (s : State) (pa : Nat) (comp : Bool) (v : Nat) : State :=
  if comp then (s.writeInBlock pa (leBytes v 4) true).noteWrite pa 4 else s.fabWrite pa (leBytes v 4)

/-- One application: the pixel is read and written in one step. A code that the format does not have writes nothing. -/
def State.applyBlend (s : State) (b : BlendItem) (pa : Nat) : State :=
  if b.kill then s
  else if !opOk b.fmt b.op then s.blendError b Cause.islandFormat
  else if b.op != 0 && s.poisonedAt pa 4 then s.blendError b Cause.poisonConsumed
  else s.blendWrite pa b.comp (blendValue b.fmt b.op b.value.toNat (s.fabNat pa 4))

/-- BLEND_APPLICATION: a fragment whose tag is E is applied and counted; one outside the window is discarded. -/
def execBlendApplication (slice item : Nat) (s : State) : Host.Outcome State Fault Refusal :=
  match s.blendItems.find? (fun b => b.id == item && b.slice == slice) with
  | none => .next s
  | some b =>
    match b.pixel with
    | none => .next s
    | some pa =>
      let d := s.tagAhead b
      if 32768 ≤ d then .next ((s.dropItem item).blendError b Cause.blendWindow)
      else if d != 0 || (!b.kill && s.writeHeld pa 4 b.comp) then .next s
      else
        let s1 := (s.dropItem item).applyBlend b pa
        let x := s1.tileTag b.slice b.tile
        .next (s1.settleTag { x with n := x.n + 1 })

/-- TAG_CLOSE. -/
def execTagClose (slice item : Nat) (s : State) : Host.Outcome State Fault Refusal :=
  match s.blendItems.find? (fun b => b.id == item && b.slice == slice) with
  | none => .next s
  | some b =>
    if b.pixel.isSome then .next s
    else
      let d := s.tagAhead b
      if 32768 ≤ d then .next (((s.dropItem item).blendError b Cause.blendWindow).tagOver b.slice b.tile b.tag.toNat)
      else if d != 0 then .next s
      else .next ((s.dropItem item).settleTag { s.tileTag b.slice b.tile with close := some b.count })

/-! ## BLEND_FORWARD (R406) -/

def whoBlend (slice ctx : Nat) : Who := ⟨ctx, slice / 16, .island, 0, none, .island 3 slice⟩

/-- The fragment of a token, once its address is translated. -/
def fragItem (r : Region) (slice : Nat) (t : Token) (pa : Nat) : BlendItem :=
  let l2 := (lane t.val 2).toNat
  { id := 0, slice := homeSlice pa, tile := pa / 4096, tag := BitVec.ofNat 16 l2, ctx := r.ctx, master := masterBlend slice
    mid := midEngine r.word, loc := r.loc 0, pixel := some pa, va := t.val.extractLsb' 0 64, count := 0, value := lane t.val 7
    op := bits l2 25 23, fmt := bits l2 28 28, comp := bit l2 27, kill := bit l2 26 }

/-- Why a blend unit discards a token, or the pixel's place. -/
def forwardM (w : Who) (slice : Nat) (t : Token) : Mach Nat := do
  let va : DWord := t.val.extractLsb' 0 64
  if isPoison t.tag then raiseM Cause.poisonConsumed 0
  if !isData t.tag then raiseM Cause.islandFormat 0
  if va.toNat % 4 != 0 then raiseM Cause.islandFormat va
  let x ← accessM w .atomic va 4
  let s ← get
  if !s.tileIn (slice / 16) x then raiseM Cause.islandFormat va
  pure (lowOf x.pa)

/-- BLEND_FORWARD. -/
def execBlendForward (slice : Nat) (s : State) : Host.Outcome State Fault Refusal :=
  match s.islandRegion 3 slice, s.linkHead (linkKey 3 slice 0) with
  | some r, some t =>
    (match (forwardM (whoBlend slice r.ctx) slice t).exec s with
    | (.ok pa, s1) => .next ((s1.linkTake (linkKey 3 slice 0)).addItems [fragItem r slice t pa])
    | (.error (.raise c a), s1) => .next ((s1.linkTake (linkKey 3 slice 0)).islandError r c a)
    | (.error _, s1) => .next s1)
  | _, _ => .next s

end Sys2Proof.Machine
end

