-- ==== Sys2Proof/Machine/Save.lean ====
section
/-!
DEFINITION. Save.lean: the save area (R360), the scan of a stopped region into it (R359) and the write-back (R361).
-/
namespace Sys2Proof.Machine

/-! ## Bytes of the save area -/

def zeros (n : Nat) : List Byte := List.replicate n 0
/-- Exactly n bytes. -/
def fit (n : Nat) (l : List Byte) : List Byte := (l ++ zeros n).take n
def flagByte (a b c d : Bool) : Nat := bitAt a 0 + bitAt b 1 + bitAt c 2 + bitAt d 3

def tokSlot (wide : Bool) (t : Token) : List Byte :=
  fit 48 (leBytes t.val.toNat 32 ++ [t.tag] ++ leBytes (flagByte true wide false false) 1)
def resvSlot (wide : Bool) (tag : Byte) : List Byte := fit 48 (zeros 32 ++ [tag] ++ leBytes (flagByte false wide true false) 1)
def vldSlot (wide : Bool) (a : Acc) : List Byte :=
  fit 48 (fit 32 (leBytes a.va.toNat 8 ++ leBytes a.version.toNat 4) ++ [a.tag] ++ leBytes (flagByte false wide true true) 1)

def packetSlot (p : Packet) (gone : Nat) (header : Bool) : List Byte :=
  fit 24 (leBytes p.w0.toNat 8 ++ leBytes p.w1.toNat 8 ++ [p.tag] ++ leBytes (bitAt true 0 + bitAt p.two 1) 1 ++ leBytes gone 1)
    ++ (if header then leBytes p.header.toNat 8 else zeros 8)

def wordBytes (l : List Word) : List Byte := l.flatMap (fun w => leBytes w.toNat 4)

/-- The 512 configuration bytes (R209). -/
def Elem.cfgBytes (e : Elem) : List Byte :=
  fit 512 (wordBytes ([e.mode, e.route, e.static, 0, 0, 0, 0, 0] ++ e.consts.toList ++ e.trigs.toList ++ e.slots.toList))

/-- A reservation: the first of a waiting vld is marked for reissue. -/
def Region.inSlot (r : Region) (wide : Bool) : InEntry → List Byte
  | .tok t => tokSlot wide t.tok
  | .resv a h _ =>
    match r.acc? a with
    | some x => if h = 0 && x.kind = .vld && x.result.isNone then vldSlot wide x else resvSlot wide x.tag
    | none => resvSlot wide 0

/-- Finished covers an element that waits for its first unit (R343; log entry 43). -/
def Elem.held (e : Elem) : Bool := e.finished || (e.start && !e.started)

def stageSlot (e : Elem) : List Byte :=
  match e.stage with
  | some p => if p.suppressed then zeros 32 else packetSlot { p.pkt with header := BitVec.ofNat 64 (2 ^ 41 * (p.label % 128)) } 0 true
  | none => zeros 32

/-- The record of a triggered or static element. -/
def elemRecord (s : State) (r : Region) (e : Nat) : List Byte :=
  let x := r.elem e
  fit 4096 (x.cfgBytes ++ wordBytes x.x.toList
    ++ fit 8 ([x.p] ++ leBytes x.rr.toNat 1 ++ leBytes (bitAt x.held 0) 1) ++ wordBytes x.sb.toList
    ++ fit 8 [x.sbtag] ++ stageSlot x ++ x.w.toList.flatMap (fun w => leBytes w.toNat 32)
    ++ (List.range 4).flatMap (fun i => fit 192 ((x.inch i).q.flatMap (r.inSlot (x.inWide i))))
    ++ (List.range 4).flatMap (fun o => fit 96 ((x.outch o).q.flatMap (fun t => tokSlot (x.outWide o) t.tok)))
    ++ (List.range 4).flatMap (fun k => fit 64 ((x.box k).flatMap (fun b => packetSlot { b.pkt with header := 0 } b.gone true)))
    ++ (List.range 4).flatMap (fun k => fit 256 ((s.landing (landKey (r.loc e) k)).flatMap (fun l => packetSlot l.pkt 0 true))))

/-- The record of a matrix element. The fibre length of a repeat node that still takes its fibre is the number of tiles taken. -/
def matRecord (x : Elem) : List Byte :=
  let m := x.mat
  fit 4096 (x.cfgBytes ++ wordBytes m.accTile.toList
    ++ leBytes (bitAt m.accFull 0) 2 ++ leBytes (bitAt m.pz 0) 2 ++ leBytes m.bc.toNat 2 ++ leBytes m.rb.toNat 2
    ++ leBytes (bitAt m.rtd 0) 2 ++ leBytes m.pcnt.toNat 2 ++ leBytes m.rcount.toNat 4
    ++ leBytes (if m.rtaking then m.rbuf.length else m.rlen.toNat) 2
    ++ leBytes m.rpos.toNat 2 ++ zeros 108
    ++ m.rbuf.flatMap (fun t => leBytes (t.data.toNat % 2 ^ 1024) 128 ++ leBytes t.scales.toNat 8))

/-- The eight outer sides of a quad, in the order of the boundary section. -/
def quadSides : List (Nat × Dir) :=
  [(0, .north), (1, .north), (1, .east), (3, .east), (2, .south), (3, .south), (0, .west), (2, .west)]

/-- Tokens held at an end of the region, oldest first. -/
def State.heldAt (s : State) (r : Region) (e : Nat) (d : Dir) : List Token :=
  match r.far e d with
  | .tie m =>
    let w := s.wire (wireKey m d.opposite)
    if w.bufferCtx = r.ctx then w.buffer.map (fun b => b.tok) ++ w.flight.map (fun f => f.tok) else []
  | .port p => (s.port p).fly.map (fun f => f.tok) ++ (s.port p).toRegion
  | .island k => (s.link k).fly.map (fun f => f.tok) ++ (s.link k).outq
  | _ => []

def Region.endWide (r : Region) (e : Nat) (d : Dir) : Bool := r.endWidth 128 e d == some true

def sideRecord (s : State) (r : Region) (e : Nat) (d : Dir) : List Byte :=
  match r.far e d with
  | .mesh _ => zeros 256
  | _ => fit 256 (fit 192 ((s.heldAt r e d).flatMap (tokSlot (r.endWide e d))) ++ leBytes (AMap.getD r.wsup (wireKey (r.loc e) d) 0) 2)

/-! ## Arrivals still to come -/

/-- Tokens on the wires inside the region, nearest first; each stands before its input channel. -/
def State.onWires (s : State) (r : Region) : List LogEntry :=
  (List.range (4 * r.quads)).flatMap (fun e => (List.range 4).flatMap (fun i =>
    if (r.elem e).isMatrix then []
    else (r.feeds e i).2.flatMap (fun k =>
      (s.wire k).flight.map (fun f => ⟨4096, .chan e i f.tok⟩)
        ++ (match (s.wire k).bypass with
          | some b => [⟨4096, .chan e i b.tok⟩]
          | none => []))))

/-- Responses that a frozen region has not taken. -/
def Region.owedResponses (r : Region) : List LogEntry :=
  r.accs.flatMap (fun a => match a.result with
    | some (v, p) => (List.range a.halves).map (fun h => ⟨4096, .resv a.elem a.rsp a.serial h (responseTok a v p h)⟩)
    | none => [])

def State.stillPending (s : State) (r : Region) : List LogEntry := s.onWires r ++ r.pend ++ r.owedResponses

def arrivalBytes (r : Region) (p : LogEntry) : List Byte :=
  match p.what with
  | .chan e c t => fit 48 (tokSlot ((r.elem e).inWide c) t) ++ fit 16 (leBytes e 2 ++ leBytes c 1 ++ [0] ++ leBytes p.jidx 4)
  | .resv e c _ _ t =>
    fit 48 (leBytes t.val.toNat 32 ++ [t.tag] ++ leBytes (flagByte true ((r.elem e).inWide c) true false) 1)
      ++ fit 16 (leBytes e 2 ++ leBytes c 1 ++ [0] ++ leBytes p.jidx 4)
  | .inbox e k q => fit 48 (packetSlot { q with header := 0 } 0 true) ++ fit 16 (leBytes e 2 ++ leBytes (4 + k) 1 ++ [0] ++ leBytes p.jidx 4)
  | .unit => []

def isUnit (p : LogEntry) : Bool := p.what == .unit
/-- How many other entries stand before each unit start. -/
def unitPlaces : Nat → List LogEntry → List Nat
  | _, [] => []
  | n, p :: t => if isUnit p then n :: unitPlaces n t else unitPlaces (n + 1) t

/-- The header. -/
def saveHeader (r : Region) (rolled : Bool) (nlog : Nat) : List Byte :=
  let array := (List.range (4 * r.quads)).any (fun e => (r.elem e).isMatrix)
  fit 4096 (fit 64 (leBytes (1 + 2 ^ 32 * r.quads + 2 ^ 48 * (r.ctx % 64) + bitAt rolled 54 + bitAt array 55) 8 ++ leBytes nlog 8)
    ++ wordsBytes (r.rtab.toList.map (fun w => w.toNat))
    ++ (List.range 128).flatMap (fun k => leBytes (AMap.getD r.cred k 0) 1)
    ++ (List.range 128).flatMap (fun k => leBytes (AMap.getD r.rsup k 0) 2))

def saveBytes (s : State) (r : Region) : List Byte :=
  let pend := (s.stillPending r).filter (fun p => !isUnit p)
  let rolled := r.frozen.isSome || !pend.isEmpty || r.wsup.any (fun p => p.2 != 0) || r.rsup.any (fun p => p.2 != 0)
  saveHeader r rolled pend.length
    ++ (List.range (4 * r.quads)).flatMap (fun e => if (r.elem e).isMatrix then matRecord (r.elem e) else elemRecord s r e)
    ++ (List.range r.quads).flatMap (fun q => quadSides.flatMap (fun p => sideRecord s r (4 * q + p.1) p.2))
    ++ fit (0x20000) (pend.flatMap (arrivalBytes r))

/-! ## CONFIGURATION_SAVE -/

/-- A page of the save area: writable normal memory of this package (R211). -/
def saveAtM (w : Who) (va : DWord) : Mach Xlat := do
  let x ← accessM w .store va 8
  let s ← get
  if x.mt != 0 || !s.isLocal x.pa then raiseM Cause.addrUnmapped va
  pure x

def savePagesM (w : Who) (va : DWord) : Nat → Mach Unit
  | 0 => pure ()
  | n + 1 => do
    let _ ← saveAtM w va
    savePagesM w (va + 4096) n

def areaSize (qc : Nat) : Nat := 0x21000 + 0x4800 * qc

def saveBeginM (o : CfgOp) : Mach (Region × CfgOp) := do
  nameOkM o
  let r ← residentM o
  if o.addr.toNat % 4096 != 0 then raiseM Cause.misaligned o.addr
  if !canonical o.addr then raiseM Cause.addrNoncanonical o.addr
  savePagesM (whoCfg o) o.addr ((areaSize (wordQuads o.word) + 4095) / 4096)
  pure (r, o)

/-- Writes bytes from va, 64 at a time. -/
def saveWriteM (w : Who) (va : DWord) : Nat → List Byte → Mach Unit
  | 0, _ => pure ()
  | n + 1, bs => do
    let x ← saveAtM w va
    let s ← get
    if s.writeHeld (lowOf x.pa) 64 false then waitM
    set (s.fabWrite (lowOf x.pa) (bs.take 64))
    saveWriteM w (va + 64) n (bs.drop 64)

/-- Tokens at the ends, landing queues, wires and reservations are in the area now. -/
def clearSides (r : Region) : List (Nat × Dir) → State → State
  | [], s => s
  | (e, d) :: t, s =>
    clearSides r t (match r.far e d with
      | .tie m => if (s.wire (wireKey m d.opposite)).bufferCtx = r.ctx then
          s.updWire (wireKey m d.opposite) (fun w => { w with buffer := [], flight := [] }) else s
      | _ => s)

def clearLandings (r : Region) : List (Nat × List Landed) → State → State
  | [], s => s
  | (k, _) :: t, s => clearLandings r t (if r.holds (k / 4) then s.setLanding k [] else s)

def State.savedRecord (s : State) (r : Region) (pa : Nat) : SavedRegion where
  pa := pa
  ctx := r.ctx
  unit := r.unit
  mats := (r.elems.filter (fun p => p.2.isMatrix)).map (fun p => (p.1, p.2.mat))
  unitAt := unitPlaces 0 (s.stillPending r)
  wsup := (r.wsup.filter (fun p => match r.far (p.1 / 4 - 4 * r.id) (Dir.ofCode p.1) with
    | .mesh _ => true
    | _ => false)).map (fun p => (p.1 - 16 * r.id, p.2))
  applied := r.applied
  owed := (s.flights.filter (fun f => f.region == r.id && f.inst == r.inst)).map (fun f => (f.id, f.label))
  landed := (s.landings.filter (fun p => r.holds (p.1 / 4))).map (fun p => (p.1 - 16 * r.id, p.2.map (fun l => l.flight)))

def saveM (o : CfgOp) (r : Region) : Mach Unit := do
  let w := whoCfg o
  let s ← get
  let bytes := saveBytes s r
  let x ← saveAtM w o.addr
  saveWriteM w o.addr ((bytes.length + 63) / 64) bytes
  let s1 ← get
  let rec1 := s.savedRecord r (lowOf x.pa)
  let s2 := clearLandings r s1.landings (clearSides r r.boundarySides s1)
  let s3 : State := { s2 with saved := s2.saved.filter (fun v => v.pa != rec1.pa) ++ [rec1] }
  set (s3.leave r)

/-- CONFIGURATION_SAVE. The arrival log has room for 2,048 entries: the save waits for more to be taken (log entry 41). -/
def execConfigurationSave (op : Nat) (s : State) : Host.Outcome State Fault Refusal :=
  match s.cfgop? op with
  | none => .next s
  | some o =>
    if !firstOf o s.cfgops || o.kind != .sv then .next s
    else
      match o.st, s.regionNamed o.word o.core o.ctx with
      | .queued, _ => .next (s.cfgInject o (saveBeginM o))
      | .acting, some r => if s.mayPass r o && decide ((s.stillPending r).length ≤ 2048) then .next (s.cfgFinish o (saveM o r)) else .next s
      | _, _ => .next s

/-! ## Reading a save area -/

def fld (bs : List Byte) (o n : Nat) : Nat := leNat ((bs.drop o).take n)
def allZero (bs : List Byte) (o n : Nat) : Bool := ((bs.drop o).take n).all (fun b => b == 0)

def cfgBytesM (w : Who) (va : DWord) (n : Nat) : Mach (List Byte) := do
  let (l, p) ← cfgDwordsM w va (n / 8)
  if p then raiseM Cause.poisonConsumed va
  pure (wordsBytes (l.map (fun d => d.toNat)))

def wordsAt (bs : List Byte) (o n : Nat) : List Word := (List.range n).map (fun k => BitVec.ofNat 32 (fld bs (o + 4 * k) 4))
def tokAt (bs : List Byte) (o : Nat) : Token := ⟨BitVec.ofNat 256 (fld bs o 32), BitVec.ofNat 8 (fld bs (o + 32) 1)⟩
def flagsAt (bs : List Byte) (o : Nat) : Nat := fld bs (o + 33) 1
def packetAt (bs : List Byte) (o : Nat) : Packet :=
  ⟨BitVec.ofNat 64 (fld bs (o + 24) 8), BitVec.ofNat 64 (fld bs o 8), BitVec.ofNat 64 (fld bs (o + 8) 8),
    bit (fld bs (o + 17) 1) 1, BitVec.ofNat 8 (fld bs (o + 16) 1)⟩
def packetFull (bs : List Byte) (o : Nat) : Bool := bit (fld bs (o + 17) 1) 0

/-- The number of a reservation that no vld owns. -/
def oldResv (e ch k : Nat) : Nat := 2 ^ 40 + (4 * e + ch) * 4 + k

/-- One input channel: entries, and the vlds to reissue with their slots. `owner` is the vld whose second half comes next. -/
def readChan (bs : List Byte) (e ch : Nat) : Nat → Nat → Option Nat → List InEntry × List (Nat × DWord × Word × Byte)
  | 0, _, _ => ([], [])
  | n + 1, k, owner =>
    let o := 0x380 + 192 * ch + 48 * k
    let f := flagsAt bs o
    if bit f 2 then
      (if bit f 3 then
        let id := oldResv e ch k
        let t := readChan bs e ch n (k + 1) (some id)
        (.resv id 0 false :: t.1, (id, BitVec.ofNat 64 (fld bs o 8), BitVec.ofNat 32 (fld bs (o + 8) 4), BitVec.ofNat 8 (fld bs (o + 32) 1)) :: t.2)
      else
        let t := readChan bs e ch n (k + 1) none
        (.resv (owner.getD (oldResv e ch k)) (if owner.isSome then 1 else 0) false :: t.1, t.2))
    else if bit f 0 then
      let t := readChan bs e ch n (k + 1) none
      (.tok ⟨tokAt bs o, 0, 0⟩ :: t.1, t.2)
    else ([], [])

def vecMap {α : Type} (n : Nat) (f : Nat → α) : Vector α n := Vector.ofFn (fun i => f i.val)

def readOut (bs : List Byte) (o : Nat) : List Entry :=
  ((List.range 2).filter (fun k => bit (flagsAt bs (0x680 + 96 * o + 48 * k)) 0)).map (fun k => ⟨tokAt bs (0x680 + 96 * o + 48 * k), 0, 0⟩)
def readBox (bs : List Byte) (k : Nat) : List InboxEntry :=
  ((List.range 2).filter (fun j => packetFull bs (0x800 + 64 * k + 32 * j))).map (fun j =>
    ⟨packetAt bs (0x800 + 64 * k + 32 * j), fld bs (0x800 + 64 * k + 32 * j + 18) 1, 0⟩)
def readLanding (bs : List Byte) (k : Nat) : List Packet :=
  ((List.range 8).filter (fun j => packetFull bs (0x900 + 256 * k + 32 * j))).map (fun j => packetAt bs (0x900 + 256 * k + 32 * j))

/-- A triggered or static element from its record. -/
def readElem (bs : List Byte) (e : Nat) : Elem :=
  let c := elemOf (wordsAt bs 0 128)
  let st := packetAt bs 0x260
  { c with
    x := vecMap 16 (fun k => BitVec.ofNat 32 (fld bs (0x200 + 4 * k) 4))
    p := BitVec.ofNat 8 (fld bs 0x240 1)
    rr := BitVec.ofNat 5 (fld bs 0x241 1)
    finished := bit (fld bs 0x242 1) 0
    started := true
    sb := vecMap 4 (fun k => BitVec.ofNat 32 (fld bs (0x248 + 4 * k) 4))
    sbtag := BitVec.ofNat 8 (fld bs 0x258 1)
    stage := if packetFull bs 0x260 then some ⟨{ st with header := 0 }, bits st.header.toNat 47 41, 0, false⟩ else none
    w := vecMap 8 (fun k => BitVec.ofNat 256 (fld bs (0x280 + 32 * k) 32))
    inc := vecMap 4 (fun ch => { q := (readChan bs e ch 4 0 none).1 })
    outc := vecMap 4 (fun o => { q := readOut bs o })
    inbox := vecMap 4 (readBox bs) }

/-- The fathoms of a drain are gone with it. -/
def Mat.noFathom : Option Tile → Option Tile
  | some t => if isFathom t.tag then none else some t
  | none => none

/-- A matrix element; `keep` holds what the record has no place for. -/
def readMat (bs : List Byte) (keep : Mat) : Elem :=
  let c := elemOf (wordsAt bs 0 128)
  let n := fld bs 0x310 2
  let tile := fun (k : Nat) => (⟨(keep.rbuf.getD k default).tag, false, BitVec.ofNat 2048 (fld bs (0x380 + 136 * k) 128),
    BitVec.ofNat 64 (fld bs (0x380 + 136 * k + 128) 8)⟩ : Tile)
  let m : Mat := {
    accTile := vecMap 64 (fun k => BitVec.ofNat 32 (fld bs (0x200 + 4 * k) 4))
    accFull := bit (fld bs 0x300 2) 0
    pz := bit (fld bs 0x302 2) 0
    bc := BitVec.ofNat 16 (fld bs 0x304 2)
    rb := BitVec.ofNat 6 (fld bs 0x306 2)
    rtd := bit (fld bs 0x308 2) 0
    pcnt := BitVec.ofNat 7 (fld bs 0x30A 2)
    rcount := BitVec.ofNat 32 (fld bs 0x30C 4)
    rlen := if keep.rtaking then 0 else BitVec.ofNat 4 n
    rpos := BitVec.ofNat 4 (fld bs 0x312 2)
    rbuf := (List.range (min n 8)).map tile
    rpoison := keep.rpoison
    rtaking := keep.rtaking
    inTile := keep.inTile.map Mat.noFathom
    outTile := keep.outTile.map Mat.noFathom
    parts := keep.parts }
  { c with mat := m }

/-- The element's reissued vlds. -/
def readVlds (bs : List Byte) (e : Nat) : List Acc :=
  (List.range 4).flatMap (fun ch => (readChan bs e ch 4 0 none).2.map (fun v =>
    { serial := v.1, elem := e, slot := 0, kind := .vld, va := v.2.1, size := 8, data := 0, new := 0, version := v.2.2.1,
      tag := v.2.2.2, rsp := ch, scope := 0, ord := 0, itag := none, st := .port, result := none, delivered := 0, since := 0
      inPort := true, kept := none, behind := [] }))

/-- Reserved bits of the packet slots: none of an inbox's header, bits [10:0] of a landing queue's (R247, R360). -/
def slotsOk (bs : List Byte) : Bool :=
  (List.range 8).all (fun j => allZero bs (0x800 + 32 * j + 24) 8)
    && (List.range 32).all (fun j => fld bs (0x900 + 32 * j + 24) 8 % 2 ^ 11 == 0)

/-- A record's reserved-zero fields (R361). -/
def elemRecordOk (bs : List Byte) : Bool :=
  recordOk (wordsAt bs 0 128) && allZero bs 0xD00 0x300
    && (if (BitVec.ofNat 32 (fld bs 0 4)).getLsbD 31 && (BitVec.ofNat 32 (fld bs 0 4)).getLsbD 30 then allZero bs 0x314 108 else slotsOk bs)

/-- Responses pending fill the reservations of their channel in order. -/
def nthPlain : List InEntry → Nat → Option (Nat × Nat)
  | [], _ => none
  | .resv a h _ :: t, k => if k = 0 then some (a, h) else nthPlain t (k - 1)
  | _ :: t, k => nthPlain t k

/-- The pending arrivals. `seen` counts the responses read for each channel. -/
def readLog (els : AMap Elem) (bs : List Byte) : Nat → Nat → AMap Nat → List LogEntry
  | 0, _, _ => []
  | n + 1, k, seen =>
    let o := 64 * k
    let e := fld bs (o + 48) 2
    let ch := fld bs (o + 50) 1
    let j := fld bs (o + 52) 4
    if 4 ≤ ch then ⟨j, .inbox e (ch - 4) (packetAt bs o)⟩ :: readLog els bs n (k + 1) seen
    else if bit (flagsAt bs o) 2 then
      let c := AMap.getD seen (4 * e + ch) 0
      match nthPlain (((AMap.getD els e {}).inch ch).q) c with
      | some (a, h) => ⟨j, .resv e ch a h (tokAt bs o)⟩ :: readLog els bs n (k + 1) (AMap.set seen (4 * e + ch) (c + 1))
      | none => ⟨j, .chan e ch (tokAt bs o)⟩ :: readLog els bs n (k + 1) seen
    else ⟨j, .chan e ch (tokAt bs o)⟩ :: readLog els bs n (k + 1) seen

/-- Puts the unit starts back among the other entries. -/
def withUnits (places : List Nat) : Nat → List LogEntry → List LogEntry
  | k, [] => (places.filter (fun p => decide (k ≤ p))).map (fun _ => ⟨4096, .unit⟩)
  | k, e :: t => (places.filter (fun p => p == k)).map (fun _ => ⟨4096, .unit⟩) ++ e :: withUnits places (k + 1) t

/-! ## CONFIGURATION_RESTORE -/

/-- The records of the area's elements. -/
def recordsM (w : Who) (va : DWord) : Nat → Mach (List (List Byte))
  | 0 => pure []
  | n + 1 => do
    let b ← cfgBytesM w va 4096
    let t ← recordsM w (va + 4096) n
    pure (b :: t)

def sideSup (r : Region) (bs : List Byte) (q j : Nat) : Option (Nat × Nat) :=
  match quadSides[j]? with
  | none => none
  | some (e, d) =>
    let n := fld bs (0x800 * q + 0x100 * j + 0xC0) 2
    if n = 0 then none else some (wireKey (r.loc (4 * q + e)) d, n)

def sideToks (bs : List Byte) (q j : Nat) : List Token :=
  ((List.range 4).filter (fun k => bit (flagsAt bs (0x800 * q + 0x100 * j + 48 * k)) 0)).map (fun k => tokAt bs (0x800 * q + 0x100 * j + 48 * k))

/-- Held tokens go back to their ends (R361). -/
def State.giveBack (s : State) (r : Region) (e : Nat) (d : Dir) (ts : List Token) : State :=
  if ts.isEmpty then s
  else
    match r.far e d with
    | .tie m => s.updWire (wireKey m d.opposite) (fun w => { w with buffer := ts.map (fun t => ⟨t, 0, 0⟩) ++ w.buffer, bufferCtx := r.ctx })
    | .port p => s.updPort p (fun x => { x with toRegion := ts ++ x.toRegion })
    | .island k => s.updLink k (fun x => { x with outq := ts ++ x.outq })
    | _ => s

def giveBackAll (r : Region) (bs : List Byte) : List (Nat × Nat) → State → State
  | [], s => s
  | (q, j) :: t, s =>
    giveBackAll r bs t (match quadSides[j]? with
      | some (e, d) => s.giveBack r (4 * q + e) d (sideToks bs q j)
      | none => s)

/-- Landing queues go back, each packet to the flight that owes its credit. -/
def landBack (r : Region) (kept : AMap (List Nat)) : List (Nat × List Packet) → State → State
  | [], s => s
  | (k, ps) :: t, s =>
    let ids := AMap.getD kept k []
    let ls : List Landed := (List.range ps.length).map (fun i => ⟨ps.getD i default, ids.getD i 0, 0⟩)
    landBack r kept t (if ps.isEmpty then s else s.setLanding (16 * r.id + k) (ls ++ s.landing (16 * r.id + k)))

/-- Packets of the region still in the network pay their credits to it again; those that landed meanwhile have paid. -/
def State.creditsBack (s : State) (id inst : Nat) : List (Nat × Nat) → AMap Nat → State × AMap Nat
  | [], c => (s, c)
  | (f, label) :: t, c =>
    if s.flights.any (fun x => x.id == f) then
      State.creditsBack { s with flights := s.flights.map (fun x => if x.id = f then { x with region := id, inst := inst } else x) } id inst t c
    else State.creditsBack s id inst t (AMap.set c label (AMap.getD c label 0 + 1))

/-- The unit of a saved region runs on where the region is restored. -/
def moveUnit (u : UnitRun) (id : Nat) (l : Launch) : Launch :=
  { l with placements := l.placements.map (fun p => if p.st = .running u.ident then { p with region := id } else p) }

/-- The image and the element state that an area holds: its header, its element records, and what is kept beside it for the matrix elements
(R360, R361). -/
def areaImage (hd : List Byte) (recs : List (List Byte)) (mats : AMap Mat) (qc : Nat) : Image :=
  ⟨qc, vecMap 128 (fun k => BitVec.ofNat 64 (fld hd (0x40 + 8 * k) 8)),
    (List.range (4 * qc)).map (fun e =>
      let b := recs.getD e []
      (e, if (elemOf (wordsAt b 0 128)).isMatrix then readMat b (AMap.getD mats e {}) else readElem b e))⟩

def restoreM (o : CfgOp) : Mach Unit := do
  let w := whoCfg o
  nameOkM o
  freeM o
  if o.addr.toNat % 4096 != 0 then raiseM Cause.misaligned o.addr
  if !canonical o.addr then raiseM Cause.addrNoncanonical o.addr
  let x ← accessM w .load o.addr 8
  let hd ← cfgBytesM w o.addr 4096
  let h0 := fld hd 0 8
  let nlog := fld hd 8 8
  if bits h0 31 0 != 1 || bits h0 47 43 != 0 || bits h0 63 56 != 0 || 2048 < nlog || !allZero hd 0x5C0 0xA40 then
    raiseM Cause.illegalOp o.addr
  let qc := bits h0 42 32
  if qc != wordQuads o.word then raiseM Cause.cfgRange o.addr
  let recs ← recordsM w (o.addr + 0x1000) (4 * qc)
  if !recs.all elemRecordOk then raiseM Cause.illegalOp o.addr
  let base := o.addr + BitVec.ofNat 64 (0x1000 + 0x4000 * qc)
  let sides ← cfgBytesM w base (0x800 * qc)
  let log ← cfgBytesM w (base + BitVec.ofNat 64 (0x800 * qc)) (64 * nlog)
  let s ← get
  let ctx := if o.core = Config.sceip then bits h0 53 48 else o.ctx
  let kept := s.saved.find? (fun v => v.pa == lowOf x.pa && v.ctx == ctx)
  let keep : SavedRegion := kept.getD ⟨lowOf x.pa, ctx, none, [], [], [], [], [], []⟩
  let r0 := (areaImage hd recs keep.mats qc).region (wordId o.word) ctx 0 false
  match r0.staticFault with
  | some c => raiseM c o.addr
  | none => pure ()
  let r1 ← loadChecksM { w with ctx := ctx } r0
  let rolled := bit h0 54
  let pend := withUnits keep.unitAt 0 (readLog r1.elems log nlog 0 [])
  let ends := (List.range qc).flatMap (fun q => (List.range 8).map (fun j => (q, j)))
  let (s1, cred) := (← get).creditsBack r1.id (← get).nextId keep.owed
    (((List.range 128).filter (fun k => fld hd (0x440 + k) 1 % 16 != 0)).map (fun k => (k, fld hd (0x440 + k) 1 % 16)))
  let r2 : Region := { r1 with
    cred := cred
    applied := keep.applied
    pend := if rolled then pend else []
    rsup := if rolled then ((List.range 128).filter (fun k => fld hd (0x4C0 + 2 * k) 2 != 0)).map (fun k => (k, fld hd (0x4C0 + 2 * k) 2)) else []
    wsup := if rolled then ends.filterMap (fun p => sideSup r1 sides p.1 p.2) ++ keep.wsup.map (fun p => (16 * r1.id + p.1, p.2)) else []
    accs := (List.range (4 * qc)).flatMap (fun e => if (r1.elem e).isMatrix then [] else readVlds (recs.getD e []) e)
    serial := 2 ^ 41
    unit := keep.unit.map (fun u => { u with finAt := u.finAt.map (fun _ => 0) }) }
  let s1b : State := { s1 with saved := s1.saved.filter (fun v => v.pa != keep.pa) }
  let s2 := s1b.install r2
  let s3 := giveBackAll r2 sides ends s2
  let s4 := landBack r2 keep.landed ((List.range (4 * qc)).flatMap (fun e => (List.range 4).map (fun k => (4 * e + k, readLanding (recs.getD e []) k)))) s3
  set (match keep.unit with
    | some u => s4.updLaunch u.launch (moveUnit u r2.id)
    | none => s4)

/-- CONFIGURATION_RESTORE. -/
def execConfigurationRestore (op : Nat) (s : State) : Host.Outcome State Fault Refusal :=
  match s.cfgop? op with
  | none => .next s
  | some o => if firstOf o s.cfgops && o.kind == .rst then .next (s.cfgFinish o (restoreM o)) else .next s

end Sys2Proof.Machine
end

