-- ==== Sys2Proof/Machine/CfgIssue.lean ====
section
/-!
DEFINITION. CfgIssue.lean: the sequencer's configuration commands (R210 to R213), the injection of the reconfiguration token as they
reach the configuration network, and its passage (R40, R41, R46).
-/
namespace Sys2Proof.Machine

/-- An operation whose turn it is checks what it needs and injects its token (R40, R212, R275, R359). -/
def State.beginOp (s : State) (o : CfgOp) : State :=
  if !firstOf o s.cfgops || o.st != .queued then s
  else
    match o.kind with
    | .swp => s.cfgInject o (swpM o)
    | .unl | .launchUnload => s.cfgInject o (unlM o)
    | .sv => s.cfgInject o (saveBeginM o)
    | _ => s

/-- The operation that waited behind one of its region (R46). -/
def State.beginNext (s : State) (word : DWord) : State :=
  match s.cfgops.find? (fun o => o.word.toNat % 2 ^ 22 == word.toNat % 2 ^ 22) with
  | some o => s.beginOp o
  | none => s

/-! ## Issue (R210, R213) -/

/-- Earlier accesses of the sequencer come first; gd is reserved until the status is known. -/
def issueCfg (kind : CfgKind) (d : Reg) (addr word : DWord) (c : Nat) (x : CoreSt) : Mach Flow := do
  orderGate x
  drainGate x true
  let s ← get
  let o : CfgOp := ⟨s.nextId, kind, c, s.nextId + 1, s.coreCtx c, addr, word, 0, .queued, none, false⟩
  let p : Pend := ⟨s.nextId + 1, d.toNat, .cfg, addr, none, false, none, x.pc, s.cyc, false⟩
  let s1 : State := { s with nextId := s.nextId + 2, cfgops := s.cfgops ++ [o] }
  set ((s1.updCore c (fun y => { y with pend := y.pend ++ [p] })).beginOp o)
  pure .next

/-- CFG_LD. -/
def execCfgLd (ra rb rc : Reg) (s : State) : Host.Outcome State Fault Refusal :=
  seqRun [rb, rc] [ra] 8 s (fun c x => issueCfg .ld ra (x.gr rb) (x.gr rc) c x)
/-- CFG_SWP. -/
def execCfgSwp (ra rb rc : Reg) (s : State) : Host.Outcome State Fault Refusal :=
  seqRun [rb, rc] [ra] 8 s (fun c x => issueCfg .swp ra (x.gr rb) (x.gr rc) c x)
/-- CFG_UNL. -/
def execCfgUnl (ra rc : Reg) (s : State) : Host.Outcome State Fault Refusal :=
  seqRun [rc] [ra] 8 s (fun c x => issueCfg .unl ra 0 (x.gr rc) c x)
/-- CFG_SV. -/
def execCfgSv (ra rb rc : Reg) (s : State) : Host.Outcome State Fault Refusal :=
  seqRun [rb, rc] [ra] 8 s (fun c x => issueCfg .sv ra (x.gr rb) (x.gr rc) c x)
/-- CFG_RST. -/
def execCfgRst (ra rb rc : Reg) (s : State) : Host.Outcome State Fault Refusal :=
  seqRun [rb, rc] [ra] 8 s (fun c x => issueCfg .rst ra (x.gr rb) (x.gr rc) c x)

/-- With the token waiting and no unit left, the open window of a region closes, so that condition 2 of R40 can come to hold
(DEDUCED: log entry 62). -/
def State.closeForToken (s : State) (r : Region) : State :=
  if s.regionLive r && r.unit.isNone then s.setRegion r.closeWindow else s

/-- RECONFIGURATION_TOKEN_PASSAGE: once every condition of R40 holds. -/
def execReconfigurationTokenPassage (region : Nat) (s : State) : Host.Outcome State Fault Refusal :=
  match s.region? region with
  | none => .next s
  | some r =>
    match r.token with
    | none => .next s
    | some id =>
      match s.cfgop? id with
      | none => .next s
      | some o =>
        if o.st != .token then .next s
        else if !s.mayPass r o then .next (s.closeForToken r)
        else if o.kind = .sv then .next (s.setOp { o with st := .acting })
        else if o.kind = .swp then .next ((s.leave r).setOp { o with st := .acting })
        else .next (((s.leave r).cfgDone o 0).beginNext o.word)

end Sys2Proof.Machine
end

