-- ==== Sys2Proof/Machine/Fetch.lean ====
section
/-!
DEFINITION. Fetch.lean: the sequencer's instruction fetch (R158), the events FETCH_FAULT and SEQ_ILLEGAL_OP that a fetch or a word
raises against the instruction at pc (R158, R164), and whether a core executes in its turn.
-/
namespace Sys2Proof.Machine

/-- One word of an instruction. Device registers and the scratchpads hold no instructions (R158, R283). -/
def fetchWordM (w : Who) (pc : DWord) : Mach Word := do
  let x ← accessM w .fetch pc 4
  if x.mt = 2 then raiseM Cause.permFault pc
  let (v, p) ← readAtM w x 4
  if p then raiseM Cause.poisonConsumed pc
  pure (BitVec.ofNat 32 v)

/-- Whether a word is the first of two (R162). -/
def isXForm (w : Word) : Bool := 0x30 ≤ (majOf w).toNat && (majOf w).toNat ≤ 0x32

/-- The instruction at pc. The second word of the X form is fetched once the first is legal. -/
def fetchM (w : Who) (pc : DWord) : Mach Decoded := do
  let a ← fetchWordM w pc
  match decodeSeq a 0 with
  | .rejected r => pure (.rejected r)
  | .instr i n =>
    if isXForm a then do
      let b ← fetchWordM w (pc + 4)
      pure (decodeSeq a b)
    else pure (.instr i n)

/-- The fetch of a core at its pc. -/
def State.fetch (s : State) (c : Nat) : Except Stop Decoded × State := (fetchM (whoCore s c) (s.core c).pc).exec s

/-- A request of the core's instruction is on its way to another package, or a tlb.inv runs: the core is inside an instruction. So
it is when another package has performed a vst, a write or an atomic of it whose answer it has still to take (R154). One whose reads are
all answered, or whose vst waits for a version at its home, waits or has yet to begin (R167). -/
def State.inside (s : State) (c : Nat) : Bool :=
  s.remoteReads.any (fun r => r.reader == Reader.core c && (r.answer.isNone || r.performed)) || s.invals.any (fun v => v.core == c)

/-- A vld whose home lies in another package is not yet judged: no later instruction executes, so that VERSION_GONE is precise
(R178). -/
def CoreSt.unjudged (x : CoreSt) : Bool :=
  x.pend.any (fun p => p.kind == .vld && p.remote && p.vldWait.isNone && p.result.isNone)

/-- A core executes in its turn: it runs, its partition is up, its sector has an issue slot (R450), and it is not stopping. -/
def State.coreRuns (s : State) (c : Nat) : Bool :=
  let x := s.core c
  x.run == .running && x.starting.isNone && !x.unjudged && !s.downBays.contains (c / 64) && (c == Config.sceip || s.slotOpen c)
    && (!x.stopAsked || s.inside c)

/-- The instruction at pc is next: the core executes now, and no event is taken before it (R222, R450). -/
def State.fetchesNow (s : State) (c : Nat) : Bool := s.coreRuns c && ((s.eventReady c).isNone || s.inside c)

/-- FETCH_FAULT: the cause of a failed fetch as a precise fault of the instruction at pc. -/
def execFetchFault (core : Nat) (s : State) : Host.Outcome State Fault Refusal :=
  if !s.fetchesNow core then .next s
  else
  match s.fetch core with
  | (.error (.raise c a), s1) => .next (s1.preciseFault core c a)
  | (.error (.isolate a), s1) => .next (s1.isolateCore core a)
  | _ => .next s

/-- SEQ_ILLEGAL_OP: a word that decodes to nothing. -/
def execSeqIllegalOp (core : Nat) (s : State) : Host.Outcome State Fault Refusal :=
  if !s.fetchesNow core then .next s
  else
  match s.fetch core with
  | (.ok (.rejected _), s1) => .next (s1.preciseFault core Cause.illegalOp 0)
  | _ => .next s

/-- seq.stop takes effect at an instruction boundary or in a wait, with epc at the next instruction (R225). -/
def State.stopCore (s : State) (c : Nat) : State :=
  (s.leaveInstr c).updCore c (fun x =>
    if x.run = .running then { x with run := .stopped, epc := x.pc, stopAsked := false, waitFrom := none, woken := false }
    else { x with stopAsked := false })

end Sys2Proof.Machine
end

