-- ==== Sys2Proof/Machine/Intersect.lean ====
section
/-!
DEFINITION. Intersect.lean: intersect islands (R417 to R428): fibre sets, merge commands and their answers, and the sparse accumulator
tile (R429).
-/
namespace Sys2Proof.Machine

def State.isect (s : State) (cluster : Nat) : Isect := AMap.getD s.isects cluster {}
def State.updIsect (s : State) (cluster : Nat) (f : Isect → Isect) : State := { s with isects := AMap.set s.isects cluster (f (s.isect cluster)) }
def whoIsect (cluster ctx : Nat) : Who := ⟨ctx, cluster / 256, .island, 0, none, .island 2 cluster⟩

/-! ## Fibre sets (R420, R421) -/

/-- A fibre-set descriptor. -/
structure FibreSet where
  pos : Nat
  crd : Nat
  val : Nat
  nf : Nat
  fmt : Nat
  deriving DecidableEq, Repr

def FibreSet.width (d : FibreSet) : Nat := if d.fmt = 0 then 4 else 2

def badFibreSet (ws : List Nat) : Bool :=
  let w := ws.getD 3 0
  let f := bits w 33 32
  ws.getD 0 0 % 4 != 0 || ws.getD 1 0 % 4 != 0 || ws.getD 2 0 % (if f = 0 then 4 else 2) != 0 || f == 3 || bits w 63 34 != 0
    || w % 2 ^ 32 == 0 || decide (2 ^ 24 < w % 2 ^ 32) || (ws.drop 4).any (fun v => v != 0)

/-- A check that may fail is not the end of the command. -/
def tryM {α : Type} (m : Mach α) : Mach (Except (Byte × DWord) α) := fun s =>
  match (m.run).run s with
  | (.ok a, s1) => (.ok (.ok a), s1)
  | (.error (.raise c a), s1) => (.ok (.error (c, a)), s1)
  | (.error e, s1) => (.error e, s1)

/-- A descriptor: NF as far as it can be read, and the fibre set, or why no fibre of it can be read (R421, R427). -/
def fibreSetM (w : Who) (va : DWord) : Mach (Option Nat × Except (Byte × DWord) FibreSet) := do
  if va.toNat % 64 != 0 then pure (none, .error (Cause.islandFormat, va))
  else
    let nf := match ← tryM (loadM w (va + 0x18) 8) with
      | .ok v => some (v % 2 ^ 32)
      | .error _ => none
    match ← tryM (loadWordsM w va 8) with
    | .error e => pure (nf, .error e)
    | .ok ws =>
      if badFibreSet ws then pure (nf, .error (Cause.islandFormat, va))
      else pure (nf, .ok ⟨ws.getD 0 0, ws.getD 1 0, ws.getD 2 0, ws.getD 3 0 % 2 ^ 32, bits (ws.getD 3 0) 33 32⟩)

/-- A value widened to FP32; a NaN is canonical. -/
def widen (fmt v : Nat) : Nat :=
  if fmt = 0 then (if (decF v).isNan then 0x7FC00000 else v)
  else rndF ((if fmt = 1 then Fmt.f16 else Fmt.bf16).dec v)

/-- n entries of a fibre from entry e on; `low` bounds their coordinates from below. -/
def entriesM (w : Who) (d : FibreSet) (e low : Nat) : Nat → Mach (List (Nat × Nat))
  | 0 => pure []
  | n + 1 => do
    let ca := BitVec.ofNat 64 (d.crd + 4 * e)
    let c ← loadM w ca 4
    if c < low || c = 0xFFFFFFFF then raiseM Cause.islandFormat ca
    let v ← loadM w (BitVec.ofNat 64 (d.val + d.width * e)) d.width
    let t ← entriesM w d (e + 1) (c + 1) n
    pure ((c, widen d.fmt v) :: t)

/-- Fibre f, read and checked in full. -/
def fibreM (w : Who) (set : Except (Byte × DWord) FibreSet) (f : Nat) : Mach (List (Nat × Nat)) := do
  let d ← match set with
    | .ok d => pure d
    | .error (c, at_) => raiseM c at_
  let p0 ← loadM w (BitVec.ofNat 64 (d.pos + 4 * f)) 4
  let pa := BitVec.ofNat 64 (d.pos + 4 * f + 4)
  let p1 ← loadM w pa 4
  if p1 < p0 then raiseM Cause.islandFormat pa
  entriesM w d p0 0 (p1 - p0)

/-! ## Merging (R424, R425) -/

/-- An item: coordinate, value of A, value of B. -/
abbrev Item := Nat × Nat × Nat

/-- The items of a pair; `both`: those of a UNION. The first argument bounds the steps. -/
def mergeFibres (both : Bool) : Nat → List (Nat × Nat) → List (Nat × Nat) → List Item
  | 0, _, _ => []
  | _ + 1, [], [] => []
  | n + 1, a :: t, [] => if both then (a.1, a.2, 0) :: mergeFibres both n t [] else []
  | n + 1, [], b :: t => if both then (b.1, 0, b.2) :: mergeFibres both n [] t else []
  | n + 1, a :: ta, b :: tb =>
    if a.1 = b.1 then (a.1, a.2, b.2) :: mergeFibres both n ta tb
    else if a.1 < b.1 then (if both then (a.1, a.2, 0) :: mergeFibres both n ta (b :: tb) else mergeFibres both n ta (b :: tb))
    else if both then (b.1, 0, b.2) :: mergeFibres both n (a :: ta) tb
    else mergeFibres both n (a :: ta) tb

/-- Eight lanes; those that the list does not reach hold `fill`. -/
def laneTok (fill : Nat) (l : List Nat) : Token :=
  ⟨ofLanes ((List.range 8).map (fun k => BitVec.ofNat 32 (l.getD k fill))), dataTag⟩
def stopTok (level payload : Nat) : Token := ⟨scalarOf (BitVec.ofNat 32 payload), mkTag 1 level⟩
def poisonTok (level : Nat) : Token := ⟨0, mkTag 3 level⟩

/-- Tokens for links 1 and 2. -/
structure Streams2 where
  one : List Token := []
  two : List Token := []
  deriving DecidableEq, Repr, Inhabited

def Streams2.stop (x : Streams2) (level payload : Nat) : Streams2 :=
  ⟨x.one ++ [stopTok level payload], x.two ++ [stopTok level payload]⟩
def Streams2.poison (x : Streams2) : Streams2 := ⟨x.one ++ [poisonTok 0], x.two ++ [poisonTok 0]⟩

/-- Groups of eight items. -/
def Streams2.items (x : Streams2) : Nat → List Item → Streams2
  | 0, _ => x
  | _ + 1, [] => x
  | n + 1, l =>
    let g := l.take 8
    let y : Streams2 := ⟨x.one ++ [laneTok 0 (g.map (fun i => i.2.1)), laneTok 0 (g.map (fun i => i.2.2))],
      x.two ++ [laneTok 0xFFFFFFFF (g.map (fun i => i.1))]⟩
    Streams2.items y n (l.drop 8)

/-- How far a walk has come: its tokens, the items sent, and the check that ended it. -/
structure Walk where
  out : Streams2 := {}
  sent : Nat := 0
  bad : Option (Byte × DWord) := none
  deriving DecidableEq, Repr, Inhabited

/-- A merge command (R422). -/
structure MergeCmd where
  both : Bool
  a : Except (Byte × DWord) FibreSet
  b : Except (Byte × DWord) FibreSet
  afirst : Nat
  bfirst : Nat
  acnt : Nat
  bcnt : Nat

def Walk.pair (x : Walk) (both : Bool) (fa fb : List (Nat × Nat)) : Walk :=
  let l := mergeFibres both (fa.length + fb.length) fa fb
  { x with out := (x.out.items (l.length + 1) l).stop 0 l.length, sent := x.sent + l.length }

/-- The pairs of one fibre of A. -/
def walkRowM (w : Who) (c : MergeCmd) (a : Nat) : List Nat → Walk → Mach Walk
  | [], x => pure { x with out := x.out.stop 1 c.bcnt }
  | b :: t, x => do
    match ← tryM (do
        let fa ← fibreM w c.a a
        let fb ← fibreM w c.b b
        pure (fa, fb)) with
    | .error e => pure { x with out := x.out.poison, bad := some e }
    | .ok (fa, fb) => walkRowM w c a t (x.pair c.both fa fb)

def walkM (w : Who) (c : MergeCmd) : List Nat → Walk → Mach Walk
  | [], x => pure { x with out := x.out.stop 2 c.acnt }
  | a :: t, x => do
    let y ← walkRowM w c a (natsFrom c.bfirst c.bcnt) x
    if y.bad.isSome then pure y else walkM w c t y

/-! ## Commands (R422, R423, R426, R427) -/

def mergeOp (t : Token) : Nat := bits (lane t.val 4).toNat 31 24
def mergeResp (op status items : Nat) : Token := ⟨BitVec.ofNat 256 (op + 256 * status + 2 ^ 32 * (items % 2 ^ 32)), dataTag⟩

def Region.bindsLink (r : Region) (key : Nat) : Bool := r.binds.any (fun w => bindEp w == 3 && islandKey (r.loc (bindElem w)) (bindOpnd w) == key)

/-- The command as its token and its descriptors give it, or ISLAND_FORMAT (R423). An NF that cannot be read bounds nothing: the first pair
fails (R427; log entry 47). -/
def judgeMergeM (w : Who) (r : Region) (cluster : Nat) (t : Token) : Mach MergeCmd := do
  let l := fun (k : Nat) => (lane t.val k).toNat
  if bits (l 5) 31 25 != 0 || bits (l 6) 31 24 != 0 || bits (l 7) 31 24 != 0 || !r.bindsLink (linkKey 2 cluster 1)
      || (bit (l 5) 24 && !r.bindsLink (linkKey 2 cluster 2)) then raiseM Cause.islandFormat 0
  let (na, a) ← fibreSetM w (t.val.extractLsb' 0 64)
  let (nb, b) ← fibreSetM w (t.val.extractLsb' 64 64)
  let c : MergeCmd := ⟨mergeOp t == 2, a, b, l 4 % 2 ^ 24, l 5 % 2 ^ 24, l 6 % 2 ^ 24, l 7 % 2 ^ 24⟩
  if na.any (fun n => decide (n < c.afirst + c.acnt)) then raiseM Cause.islandFormat (t.val.extractLsb' 0 64)
  if nb.any (fun n => decide (n < c.bfirst + c.bcnt)) then raiseM Cause.islandFormat (t.val.extractLsb' 64 64)
  pure c

/-- A judged command's walk; one that is not accepted emits nothing. -/
def mergeM (w : Who) (r : Region) (cluster : Nat) (t : Token) : Mach Walk := do
  match ← tryM (judgeMergeM w r cluster t) with
  | .error e => pure { bad := some e }
  | .ok c => walkM w c (natsFrom c.afirst c.acnt) {}

/-- The wires that carry a link's tokens on, past bypasses and across ties, hold none, and neither do their boundary buffers. -/
def State.wayClear (s : State) : Nat → Region → Nat → Dir → Bool
  | 0, _, _, _ => true
  | n + 1, r, e, side =>
    match (r.elem e).consumer side with
    | .bypass =>
      let w := s.wire (wireKey (r.loc e) side.opposite)
      w.bypass.isNone && w.flight.isEmpty && w.buffer.isEmpty
        && (match r.far e side.opposite with
          | .mesh e2 => State.wayClear s n r e2 side
          | .tie m => match s.at? m with
            | some (q, e2) => State.wayClear s n q e2 side
            | none => true
          | _ => true)
    | _ => true

/-- Every token sent on a link has entered the channel that receives it (R426). -/
def State.linkEntered (s : State) (r : Region) (key : Nat) : Bool :=
  (s.link key).outq.isEmpty && (s.link key).fly.isEmpty
    && r.binds.all (fun w => bindEp w != 3 || islandKey (r.loc (bindElem w)) (bindOpnd w) != key
        || s.wayClear 256 r (bindElem w) (bindDir w))

/-- A response is placed, once every token of its command has entered its receiver. -/
def State.placeResponse (s : State) (cluster : Nat) : State :=
  match s.binder 2 cluster, (s.isect cluster).response with
  | some r, some t =>
    if s.linkEntered r (linkKey 2 cluster 1) && s.linkEntered r (linkKey 2 cluster 2) then
      (s.updIsect cluster (fun x => { x with response := none })).linkSend (linkKey 2 cluster 0) t
    else s
  | _, _ => s

/-- The head of an input link of the island, which takes nothing once the reconfiguration token is injected (R419). -/
def State.isectHead (s : State) (cluster link : Nat) : Option (Region × Token) :=
  match s.islandRegion 2 cluster, s.linkHead (linkKey 2 cluster link) with
  | some r, some t => if r.token.isNone then some (r, t) else none
  | _, _ => none

/-- The command at the head of link 0, once the one before it has been answered and that answer is on its wire (R423, R426). -/
def State.mergeHead (s : State) (cluster : Nat) : Option (Region × Token) :=
  if (s.isect cluster).response.isSome || (s.isect cluster).cmd.isSome || !(s.link (linkKey 2 cluster 0)).outq.isEmpty then none
  else s.isectHead cluster 0

/-- The island takes a command of one OP: its reads come after that (R428). -/
def State.mergeTake (s : State) (cluster op : Nat) : State :=
  match s.mergeHead cluster with
  | some (_, t) =>
    if !isData t.tag || mergeOp t != op then s
    else (s.linkTake (linkKey 2 cluster 0)).updIsect cluster (fun i => { i with cmd := some t })
  | none => s

def State.sendAll (s : State) (key : Nat) (l : List Token) : State := s.updLink key (fun k => { k with outq := k.outq ++ l })

/-- What a walk leaves: its tokens, its record and its response. -/
def State.mergeDone (s : State) (r : Region) (cluster : Nat) (t : Token) (x : Walk) : State :=
  let s1 := s.sendAll (linkKey 2 cluster 1) x.out.one
  let s2 := if bit (lane t.val 5).toNat 24 then s1.sendAll (linkKey 2 cluster 2) x.out.two else s1
  let s3 := match x.bad with
    | some (c, a) => s2.islandError r c a
    | none => s2
  (s3.updIsect cluster (fun i => { i with
    cmd := none, response := some (mergeResp (mergeOp t) (if x.bad.isSome then 2 else 0) x.sent) })).endReads (.island 2 cluster)

/-- A merge command of one OP: first the response of the command before it is placed, then a command is taken, then it is walked. -/
def mergeRun (cluster op : Nat) (s0 : State) : Host.Outcome State Fault Refusal :=
  let s := (s0.placeResponse cluster).mergeTake cluster op
  match s.islandRegion 2 cluster, (s.isect cluster).cmd with
  | some r, some t =>
    if mergeOp t != op then .next s
    else
      match (mergeM (whoIsect cluster r.ctx) r cluster t).exec s with
      | (.ok x, s1) => .next ((s1.mergeDone r cluster t x).placeResponse cluster)
      | (.error _, s1) => .next s1
  | _, _ => .next s

/-- ISECT. -/
def execIsect (cluster : Nat) (s : State) : Host.Outcome State Fault Refusal := mergeRun cluster 1 s
/-- UNION. -/
def execUnion (cluster : Nat) (s : State) : Host.Outcome State Fault Refusal := mergeRun cluster 2 s

/-- INTERSECT_UNKNOWN_COMMAND: STATUS 1, or for a stop or a poison token no response. -/
def execIntersectUnknownCommand (cluster : Nat) (s : State) : Host.Outcome State Fault Refusal :=
  match s.mergeHead cluster with
  | some (r, t) =>
    let s1 := (s.linkTake (linkKey 2 cluster 0)).islandError r Cause.islandCmd 0
    if !isData t.tag then .next s1
    else if mergeOp t = 1 || mergeOp t = 2 then .next s
    else .next (s1.linkSend (linkKey 2 cluster 0) (mergeResp (mergeOp t) 1 0))
  | none => .next s

/-! ## The sparse accumulator tile (R429) -/

/-- The head of link 3; a flush places its last token before the next is taken. -/
def State.accHead (s : State) (cluster : Nat) : Option (Region × Token) :=
  if !(s.link (linkKey 2 cluster 3)).outq.isEmpty then none else s.isectHead cluster 3

/-- One pair of a token: coordinate and value. -/
def accPair (r : Region) (cluster c v : Nat) (s : State) : State :=
  let x := if (decF v).isNan then 0x7FC00000 else v
  if c = 0xFFFFFFFF then s
  else if 4096 ≤ c then s.islandError r Cause.islandFormat (BitVec.ofNat 64 c)
  else
    s.updIsect cluster (fun i => { i with accVal := AMap.set i.accVal c (match AMap.find? i.accVal c with
      | some y => BitVec.ofNat 32 (Fmt.f32.addBits y.toNat x)
      | none => BitVec.ofNat 32 x) })

/-- ACCUMULATOR_PAIR. -/
def execAccumulatorPair (cluster : Nat) (s : State) : Host.Outcome State Fault Refusal :=
  match s.accHead cluster with
  | some (r, t) =>
    if !isData t.tag then .next s
    else
      let l := fun (k : Nat) => (lane t.val k).toNat
      .next ((List.range 4).foldl (fun s1 m => accPair r cluster (l (2 * m)) (l (2 * m + 1)) s1) (s.linkTake (linkKey 2 cluster 3)))
  | none => .next s

/-- ACCUMULATOR_POISON. -/
def execAccumulatorPoison (cluster : Nat) (s : State) : Host.Outcome State Fault Refusal :=
  match s.accHead cluster with
  | some (_, t) =>
    if !isPoison t.tag then .next s
    else
      .next ((s.linkTake (linkKey 2 cluster 3)).updIsect cluster (fun i =>
        { i with accVal := [], poisoned := true, lp := BitVec.ofNat 6 (levelOf t.tag) }))
  | none => .next s

/-- Entries in order, four pairs a token. -/
def accTokens : Nat → AMap Word → List Token
  | 0, _ => []
  | _ + 1, [] => []
  | n + 1, l =>
    let g := l.take 4
    let pair := fun (k : Nat) => match g[k]? with
      | some p => [BitVec.ofNat 32 p.1, p.2]
      | none => [0xFFFFFFFF, 0]
    ⟨ofLanes ((List.range 4).flatMap pair), dataTag⟩ :: accTokens n (l.drop 4)

/-- ACCUMULATOR_FLUSH. -/
def execAccumulatorFlush (cluster : Nat) (s : State) : Host.Outcome State Fault Refusal :=
  match s.accHead cluster with
  | some (_, t) =>
    if !isStop t.tag || levelOf t.tag != 0 then .next s
    else
      let i := s.isect cluster
      let out := if i.poisoned then [poisonTok i.lp.toNat, stopTok 0 0]
        else accTokens (i.accVal.length + 1) i.accVal ++ [stopTok 0 i.accVal.length]
      .next (((s.linkTake (linkKey 2 cluster 3)).sendAll (linkKey 2 cluster 3) out).updIsect cluster (fun j =>
        { j with accVal := [], poisoned := false }))
  | none => .next s

/-- ACCUMULATOR_STOP_PASS. -/
def execAccumulatorStopPass (cluster : Nat) (s : State) : Host.Outcome State Fault Refusal :=
  match s.accHead cluster with
  | some (_, t) =>
    if !isStop t.tag || levelOf t.tag = 0 then .next s
    else .next ((s.linkTake (linkKey 2 cluster 3)).linkSend (linkKey 2 cluster 3) t)
  | none => .next s

end Sys2Proof.Machine
end

