-- ==== Sys2Proof/Machine/Streams.lean ====
section
/-!
DEFINITION. Streams.lean: stream commands (R180 to R186), the engines that run them (R310, R311), item moves, pauses, failures and
retirement (R187 to R190), and the dirty harvest (R191, R308, R309).
-/
namespace Sys2Proof.Machine

/-! ## Descriptors (R180, R181) -/

def descOf (ws : List Nat) : Desc :=
  let w := fun k => ws.getD k 0
  { base := BitVec.ofNat 64 (w 0), n0 := w 1 % 2 ^ 32, n1 := bits (w 1) 63 32, n2 := w 2 % 2 ^ 32, n3 := bits (w 2) 63 32
    s1 := BitVec.ofNat 64 (w 3), s2 := BitVec.ofNat 64 (w 4), s3 := BitVec.ofNat 64 (w 5)
    esz := bits (w 6) 2 0, stopd := bits (w 6) 6 3, scope := bits (w 6) 18 16, semaEn := bit (w 6) 20, sema := bits (w 6) 34 21
    tbarEn := bit (w 6) 35, sbase := BitVec.ofNat 64 (w 7) }

def Desc.size (d : Desc) : Nat := if d.esz = 4 then 32 else if d.esz = 5 then 16 else 2 ^ d.esz
def Desc.total (d : Desc) : Nat := d.n0 * d.n1 * d.n2 * d.n3
/-- Data bytes, and scale bytes for E2M1 blocks (R187). A reserved ESZ has no item size: the count that the failed stream credits is a
free value (log entry 66, DESIGN CHOICE). -/
def Desc.bytes (d : Desc) : Nat :=
  if 5 < d.esz then Config.reservedBytes d.total d.esz else d.total * (d.size + (if d.esz = 5 then 1 else 0))
def Desc.bad (d : Desc) : Bool :=
  decide (5 < d.esz) || decide (4 < d.stopd) || decide (2 ^ 40 < d.total) || (d.tbarEn && decide (2 ^ 31 ≤ d.bytes))

/-- Where an item lies. R180 gives a sum and no modulus: addresses wrap at 2^64 (DESIGN CHOICE: log entry 76). -/
def Desc.itemAt (d : Desc) (k : Nat) : DWord :=
  let f := k / d.n0
  d.base + BitVec.ofNat 64 (k % d.n0 * d.size) + BitVec.ofNat 64 (f % d.n1) * d.s1 + BitVec.ofNat 64 (f / d.n1 % d.n2) * d.s2
    + BitVec.ofNat 64 (f / d.n1 / d.n2) * d.s3
/-- The scale of item k lies k bytes after SBASE. -/
def Desc.scaleAt (d : Desc) (k : Nat) : DWord := d.sbase + BitVec.ofNat 64 k

def readDescM (w : Who) (va : DWord) : Mach Desc := do
  if !canonical va then raiseM Cause.addrNoncanonical va
  if va.toNat % 8 != 0 then raiseM Cause.misaligned va
  let ws ← loadWordsM w va 8
  pure (descOf ws)

/-! ## Issue (R185, R186) -/

def newStream (s : State) (c : Nat) (x : CoreSt) (kind : StreamKind) (d dst : Desc) (tb hva hlen : DWord) (port : Nat) : Stream :=
  { id := s.nextId, core := c, ctx := s.coreCtx c, pc := x.pc, kind := kind, desc := d, dst := dst, tb := tb, port := port, hva := hva
    hlen := hlen, st := .queued, item := 0, stops := 0, sstops := 0, buf := [], sbuf := [], held := none, sheld := none, poison := false
    spoison := false, retry := false, reported := false }

/-- Earlier accesses first (R186); a full queue waits. -/
def streamGate (c : Nat) (x : CoreSt) : Mach Unit := do
  orderGate x
  drainGate x true
  let s ← get
  if Config.streamQueueSize ≤ (s.streams.filter (fun t => t.core == c)).length then waitM

def pushStream (t : Stream) : Mach Unit := modify (fun s => { s with nextId := s.nextId + 1, streams := s.streams ++ [t] })

/-- Sector port number to port (R185, R234). -/
def sectorPort (c p : Nat) : Nat := 16 * coreSector c + p

/-- A strm.ld or strm.st. RB is an operand of the command whether or not TBAR_EN is set: a marked RB raises, a reserved one waits
(log entry 67, DEDUCED). -/
def issuePort (kind : StreamKind) (a b : Reg) (p : BitVec 4) (c : Nat) (x : CoreSt) : Mach Flow := do
  streamGate c x
  let w := whoCore (← get) c
  let d ← readDescM w (x.gr a)
  let s ← get
  pushStream (newStream s c x kind d default (x.gr b) 0 0 (sectorPort c p.toNat))
  pure .next

/-- STRM_LD. -/
def execStrmLd (ra rb : Reg) (port : BitVec 4) (s : State) : Host.Outcome State Fault Refusal :=
  seqRun [ra, rb] [] 8 s (fun c x => issuePort .ld ra rb port c x)
/-- STRM_ST. -/
def execStrmSt (ra rb : Reg) (port : BitVec 4) (s : State) : Host.Outcome State Fault Refusal :=
  seqRun [ra, rb] [] 8 s (fun c x => issuePort .st ra rb port c x)

/-- The bytes of a range of exact addresses, below `hi`, as addresses modulo 2^64. A range that wraps there touches both ends of the space,
and covers it whole. -/
def wrapSpan (lo hi : Int) : Nat × Nat :=
  let m : Int := 2 ^ 64
  if lo / m = hi / m then ((lo % m).toNat, (hi % m).toNat) else (0, 2 ^ 64 - 1)

/-- Lowest and highest bytes of a descriptor's items (R184, R312): of the blocks at BASE, from the lowest and highest corner of each
dimension, and with ESZ = 5 of their scales at SBASE. No address lies between those of a copy without items. -/
def Desc.span (d : Desc) : Nat × Nat :=
  let far := fun (n : Nat) (st : DWord) => st.toInt * ((n : Int) - 1)
  let lo := fun (n : Nat) (st : DWord) => if far n st < 0 then far n st else 0
  let hi := fun (n : Nat) (st : DWord) => if far n st < 0 then 0 else far n st
  let b : Int := d.base.toNat
  let blocks := wrapSpan (b + lo d.n1 d.s1 + lo d.n2 d.s2 + lo d.n3 d.s3)
    (b + (d.n0 * d.size : Nat) - 1 + hi d.n1 d.s1 + hi d.n2 d.s2 + hi d.n3 d.s3)
  let scales := wrapSpan d.sbase.toNat (d.sbase.toNat + d.total - 1)
  if d.total = 0 then (2 ^ 64, 0)
  else if d.esz = 5 then (min blocks.1 scales.1, max blocks.2 scales.2)
  else blocks

/-- STRM_CP: takes a scoreboard entry of its sector, or waits (R184, R312); the Sceip core, which lies in no sector, one of sector 0
(DESIGN CHOICE: log entry 21). -/
def execStrmCp (ra rb rc : Reg) (s : State) : Host.Outcome State Fault Refusal :=
  seqRun [ra, rb, rc] [] 8 s (fun c x => do
    streamGate c x
    let s0 ← get
    if Config.scoreboardSize ≤ (s0.score.filter (fun e => e.sector == coreSector c)).length then waitM
    let w := whoCore s0 c
    let d ← readDescM w (x.gr ra)
    let e ← readDescM w (x.gr rc)
    let s1 ← get
    let t := newStream s1 c x .cp d e (x.gr rb) 0 0 0
    pushStream t
    modify (fun s2 => { s2 with score := s2.score ++ [⟨coreSector c, t.id, t.ctx, e.span.1, e.span.2⟩] })
    pure .next)

/-- MEM_HRV. -/
def execMemHrv (ra rb : Reg) (s : State) : Host.Outcome State Fault Refusal :=
  seqRun [ra, rb] [] 8 s (fun c x => do
    streamGate c x
    let s1 ← get
    pushStream (newStream s1 c x .hrv default default 0 (x.gr ra) (x.gr rb) 0)
    pure .next)

/-! ## Running streams -/

def State.stream? (s : State) (id : Nat) : Option Stream := s.streams.find? (fun t => t.id == id)
def State.setStream (s : State) (t : Stream) : State := { s with streams := s.streams.map (fun x => if x.id = t.id then t else x) }
def whoStream (t : Stream) : Who := ⟨t.ctx, coreBay t.core, .engine, 0, none, .island 10 t.id⟩

/-- What its layout and completion fields come from. -/
def Stream.desc1 (t : Stream) : Desc := if t.kind = .cp then t.dst else t.desc

def Stream.onLoad (t : Stream) : Bool := t.kind == .ld || t.kind == .cp
def Stream.onStore (t : Stream) : Bool := t.kind != .ld
def Stream.active (t : Stream) : Bool :=
  match t.st with
  | .running | .paused _ _ => true
  | _ => false

/-- A failed stream's error record names the sequencer that issued it (R189, R367). -/
def State.streamError (s : State) (t : Stream) (cause : Byte) (addr : DWord) : State := s.coreError t.core t.ctx cause addr t.pc

/-- The aligned 8 bytes that an item touches, n of them from va, where the part can translate them as writable: each by its own page
(R364). -/
def markUnitsM (w : Who) (va : DWord) : Nat → Mach (List Xlat)
  | 0 => pure []
  | n + 1 => do
    let x : Option Xlat ← fun s =>
      match (translateM w .store va).exec s with
      | (.ok x, s1) => (.ok (some x), s1)
      | (.error .wait, s1) => (.error .wait, s1)
      | (.error _, s1) => (.ok none, s1)
    let t ← markUnitsM w (va + 8) n
    pure (x.toList ++ t)

/-- Marks 8 bytes as R292 does; those of another package at their home, and the stream's retirement waits for that. -/
def State.markUnit (t : Stream) (s : State) (x : Xlat) : State :=
  if x.mt != 0 || !isNormal (lowOf x.pa) then s
  else if s.isLocal x.pa then s.markPoison (lowOf x.pa) 8
  else if s.reachable (pkgOf x.pa) then (s.sendReq .mark (.stream t.id) t.ctx x.pa 8 0).2
  else s.linkLost t.ctx x.pa

/-- Marks an item that is not written (R364). -/
def markItemM (t : Stream) (va : DWord) (n : Nat) : Mach Unit := do
  let lo := va.toNat / 8
  let xs ← markUnitsM (whoStream t) (BitVec.ofNat 64 (8 * lo)) ((va.toNat + n - 1) / 8 + 1 - lo)
  let s ← get
  if xs.any (fun x => !s.isLocal x.pa && s.maskHeld (pkgOf x.pa)) then waitM
  set (xs.foldl (State.markUnit t) s)

/-- Items of a failed stream that are still to be marked. -/
def Stream.marksLeft (t : Stream) : Bool :=
  (t.kind == .st || t.kind == .cp) && decide (t.desc1.esz ≤ 5) && decide (t.item < t.desc1.total)

/-- The next of them. -/
def Stream.markM (t : Stream) : Mach Stream := do
  let d := t.desc1
  markItemM t (d.itemAt t.item) d.size
  if d.esz = 5 then markItemM t (d.scaleAt t.item) 1
  pure { t with item := t.item + 1 }

/-- STREAM_FAIL. -/
def State.streamFail (s : State) (t : Stream) (cause : Byte) (addr : DWord) : State :=
  (s.setStream { t with st := .failed cause addr, held := none, sheld := none }).streamError t cause addr

/-- A port that the stream uses is bound in its context by a region whose engines are not frozen (R185, R363). -/
def State.portState (s : State) (t : Stream) (p : Nat) : Option Byte :=
  match s.portBinder p with
  | some r => if r.ctx != t.ctx then some Cause.streamPort else if r.engineFrozen then some Cause.isolationFreeze else none
  | none => some Cause.streamPort

def State.portsOk (s : State) (t : Stream) : Option Byte :=
  if t.kind = .ld || t.kind = .st then
    match s.portState t t.port with
    | some c => some c
    | none => if t.desc.esz = 5 then (if t.port % 2 = 1 then some Cause.streamPort else s.portState t (t.port + 1)) else none
  else none

/-- The checks an engine makes as it takes a stream (R181, R184, R185). The completion fields of a copy's source are ignored. -/
def State.streamCheck (s : State) (t : Stream) : Option Byte :=
  match t.kind with
  | .hrv => none
  | .cp => if { t.desc with tbarEn := false }.bad || t.dst.bad then some Cause.streamDesc
    else if t.desc.esz != t.dst.esz || t.desc.total != t.dst.total then some Cause.streamShape else none
  | _ => if t.desc.bad then some Cause.streamDesc else s.portsOk t

/-- A stream that moves nothing retires at once: it takes no place of an engine (R181, R191). -/
def Stream.empty (t : Stream) : Bool := if t.kind = .hrv then t.hlen == 0 else t.desc1.total == 0

/-- Each engine that the stream needs has a place. -/
def State.hasPlace (s : State) (t : Stream) : Bool :=
  let blk := s.streams.filter (fun x => coreBlock x.core == coreBlock t.core && x.active && !x.empty)
  (!t.onLoad || decide ((blk.filter Stream.onLoad).length < Config.engineStreams))
    && (!t.onStore || decide ((blk.filter Stream.onStore).length < Config.engineStreams))

/-- The head of a core's stream queue: the oldest that is queued and has something to move. -/
def State.headStream (s : State) (c : Nat) : Option Stream := s.streams.find? (fun x => x.core == c && x.st == .queued && !x.empty)

/-- The places of a block's rotation: its four sectors, and in block 0 the Sceip core last (R310; log entries 21 and 68). -/
def rotaCore (blk p : Nat) : Nat := if p = 4 then Config.sceip else 4 * blk + p
def rotaPlace (c : Nat) : Nat := if c = Config.sceip then 4 else c % 4
/-- The engine in whose rotation a stream is taken: a copy in that of its load engine. -/
def engineOf (t : Stream) : Nat := 2 * coreBlock t.core + (if t.onLoad then 0 else 1)

/-- The place whose stream an engine takes next: from the one after the last it took, the first whose head can start (R310). -/
def State.engineNext (s : State) (engine : Nat) : Option Nat :=
  let last := AMap.getD s.lastSector engine 4
  ((List.range 5).map (fun k => (last + 1 + k) % 5)).find? (fun p =>
    (p != 4 || engine < 2) && (match s.headStream (rotaCore (engine / 2) p) with
      | some t => engineOf t == engine && s.hasPlace t
      | none => false))

/-- STREAM_START (R310). -/
def execStreamStart (stream : Nat) (s : State) : Host.Outcome State Fault Refusal :=
  match s.stream? stream with
  | none => .next s
  | some t =>
    let turn := t.empty || ((s.headStream t.core).map (fun x => x.id) == some stream && s.engineNext (engineOf t) == some (rotaPlace t.core))
    if t.st != .queued || !turn then .next s
    else
      let s1 : State := if t.empty then s else { s with lastSector := AMap.set s.lastSector (engineOf t) (rotaPlace t.core) }
      match s.streamCheck t with
      | some c => .next (s1.streamFail t c 0)
      | none => .next (s1.setStream { t with st := .running })

/-! ## The layout of R182 -/

def Desc.per (d : Desc) : Nat := 32 / d.size

/-- Stops that follow item k - 1, where it ends a fibre. -/
def Desc.stopsAfter (d : Desc) (k : Nat) : Nat :=
  if k = 0 || k % d.n0 != 0 then 0
  else
    let f := k / d.n0
    let n := if f % d.n1 != 0 then 1 else if f / d.n1 % d.n2 != 0 then 2 else if f / d.n1 / d.n2 % d.n3 != 0 then 3 else 4
    min d.stopd n
def Desc.stopCount (d : Desc) (level : Nat) : Nat := if level = 0 then d.n0 else if level = 1 then d.n1 else if level = 2 then d.n2 else d.n3
def Desc.stopTok (d : Desc) (level : Nat) : Token := ⟨scalarOf (BitVec.ofNat 32 (d.stopCount level)), mkTag 1 level⟩

/-- An item ends its token, when `per` items fill one. -/
def endsTok (d : Desc) (per k : Nat) : Bool := (k + 1) % d.n0 == 0 || (k % d.n0 + 1) % per == 0
def packTok (bs : List Byte) (poison : Bool) : Token := if poison then ⟨0, mkTag 3 0⟩ else ⟨BitVec.ofNat 256 (leNat bs), dataTag⟩

/-- Every token of the layout has passed. -/
def Stream.moved (t : Stream) : Bool :=
  let d := t.desc1
  match t.kind with
  | .hrv => decide (t.hlen.toNat ≤ t.item)
  | .cp => decide (d.total ≤ t.item)
  | _ => decide (d.total = 0) || (decide (d.total ≤ t.item) && t.held.isNone && t.sheld.isNone && t.stops == d.stopsAfter d.total
      && (d.esz != 5 || t.sstops == d.stopsAfter d.total))

/-! ## Item moves -/

/-- Bytes an item, or its scale, is read as: a page fault stops the move. -/
def itemReadM (w : Who) (va : DWord) (n : Nat) : Mach (List Byte × Bool) := do
  let x ← accessM w .load va n
  let (v, p) ← readAtM w x n
  pure (leBytes v n, p)

def itemWriteM (t : Stream) (va : DWord) (bs : List Byte) : Mach Unit := do
  let x ← accessM (whoStream t) .store va bs.length
  writeAtM (whoStream t) x bs (.stream t.id)

/-- One step of a strm.ld. -/
def ldStepM (t : Stream) : Mach Stream := do
  let s ← get
  let d := t.desc
  -- what a port and its link hold fits the four tokens of a boundary link (R360)
  let room := fun (p : Nat) => decide ((s.port p).toRegion.length < portRoom ∧ (s.port p).toRegion.length + (s.port p).fly.length < 4)
  let push := fun (p : Nat) (k : Token) => s.updPort p (fun y => { y with toRegion := y.toRegion ++ [k] })
  let scaled := d.esz == 5
  match t.held, t.sheld with
  | some k, _ =>
    if room t.port then
      set (push t.port k)
      pure { t with held := none }
    else waitM
  | none, some k =>
    if room (t.port + 1) then
      set (push (t.port + 1) k)
      pure { t with sheld := none }
    else waitM
  | none, none =>
    if t.stops < d.stopsAfter t.item then
      (if room t.port then do
        set (push t.port (d.stopTok t.stops))
        pure { t with stops := t.stops + 1 }
      else waitM)
    else if scaled && decide (t.sstops < d.stopsAfter t.item) then
      (if room (t.port + 1) then do
        set (push (t.port + 1) (d.stopTok t.sstops))
        pure { t with sstops := t.sstops + 1 }
      else waitM)
    else if d.total ≤ t.item then waitM
    else
      let (bs, p) ← itemReadM (whoStream t) (d.itemAt t.item) d.size
      let (sc, sp) ← if scaled then itemReadM (whoStream t) (d.scaleAt t.item) 1 else pure ([], false)
      let buf := t.buf ++ bs
      let sbuf := t.sbuf ++ sc
      let full := endsTok d d.per t.item
      let sfull := scaled && endsTok d 32 t.item
      pure { t with
        item := t.item + 1, stops := 0, sstops := 0, reported := false
        buf := if full then [] else buf
        held := if full then some (packTok buf (t.poison || p)) else none
        poison := if full then false else t.poison || p
        sbuf := if sfull then [] else sbuf
        sheld := if sfull then some (packTok sbuf (t.spoison || sp)) else none
        spoison := if sfull then false else t.spoison || sp }

/-- A stop that the layout expects (R183): the token is taken, or the stream fails. -/
def takeStopM (p level : Nat) : Mach Bool := do
  let s ← get
  match (s.port p).toMem with
  | [] => waitM
  | k :: rest =>
    if isPoison k.tag || (isStop k.tag && levelOf k.tag == level) then
      set (s.updPort p (fun y => { y with toMem := rest }))
      pure (isPoison k.tag)
    else raiseM Cause.stopMismatch 0
/-- A data token that the layout expects; poison stands for it. -/
def takeDataM (p : Nat) : Mach Token := do
  let s ← get
  match (s.port p).toMem with
  | [] => waitM
  | k :: rest =>
    if isStop k.tag then raiseM Cause.stopMismatch 0
    else
      set (s.updPort p (fun y => { y with toMem := rest }))
      pure k

def tokBytes (k : Token) (i n : Nat) : List Byte := (leBytes (k.val.toNat / 256 ^ i) n)

/-- One step of a strm.st. Of an E2M1 block whose data token is poison neither part is written; where only its scale token is, the
data is (log entry 69, DEDUCED). -/
def stStepM (t : Stream) : Mach Stream := do
  let d := t.desc
  let scaled := d.esz == 5
  if t.stops < d.stopsAfter t.item then
    let p ← takeStopM t.port t.stops
    pure { t with stops := t.stops + 1, poison := t.poison || p }
  else if scaled && decide (t.sstops < d.stopsAfter t.item) then
    let p ← takeStopM (t.port + 1) t.sstops
    pure { t with sstops := t.sstops + 1, poison := t.poison || p }
  else if d.total ≤ t.item then waitM
  else
    match t.held, t.sheld with
    | none, _ =>
      let k ← takeDataM t.port
      pure { t with held := some k, poison := t.poison || isPoison k.tag }
    | some k, sk =>
      if scaled && sk.isNone then
        let j ← takeDataM (t.port + 1)
        pure { t with sheld := some j, poison := t.poison || isPoison j.tag }
      else
        let j := sk.getD default
        let va := d.itemAt t.item
        let bad := isPoison k.tag
        let sbad := bad || isPoison j.tag
        if !bad then itemWriteM t va (tokBytes k (t.item % d.n0 % d.per * d.size) d.size)
        else markItemM t va d.size
        if scaled then
          (if !sbad then itemWriteM t (d.scaleAt t.item) (tokBytes j (t.item % d.n0 % 32) 1)
          else markItemM t (d.scaleAt t.item) 1)
        pure { t with
          item := t.item + 1, stops := 0, sstops := 0, reported := false
          held := if endsTok d d.per t.item then none else some k
          sheld := if endsTok d 32 t.item then none else sk }

/-- One pair of items of a strm.cp. -/
def cpStepM (t : Stream) : Mach Stream := do
  let w := whoStream t
  if t.dst.total ≤ t.item then waitM
  let (bs, p) ← itemReadM w (t.desc.itemAt t.item) t.desc.size
  let (sc, sp) ← if t.desc.esz = 5 then itemReadM w (t.desc.scaleAt t.item) 1 else pure ([], false)
  let va := t.dst.itemAt t.item
  let x ← accessM w .store va t.dst.size
  if p || sp then markItemM t va t.dst.size
  else writeAtM w x bs (.stream t.id)
  if t.desc.esz = 5 then
    (if p || sp then markItemM t (t.dst.scaleAt t.item) 1 else itemWriteM t (t.dst.scaleAt t.item) sc)
  pure { t with item := t.item + 1, poison := t.poison || p || sp, reported := false }

def Stream.stepM (t : Stream) : Mach Stream :=
  match t.kind with
  | .ld => ldStepM t
  | .st => stStepM t
  | .cp => cpStepM t
  | .hrv => waitM

/-- The outcome of a step: a page fault pauses the stream with one record (R190), any other cause fails it. -/
def State.streamStep (s : State) (t : Stream) : State :=
  match t.stepM.exec s with
  | (.ok t1, s1) => (s1.setStream t1).endReads (.island 10 t.id)
  | (.error (.raise c a), s1) =>
    let s2 := s1.endReads (.island 10 t.id)
    if c = Cause.pageFault then
      (let s3 := s2.setStream { t with st := .paused a s.cyc, retry := false, reported := true }
      if t.reported then s3 else s3.streamError t Cause.pageFault a)
    else s2.streamFail t c a
  | (.error (.isolate a), s1) => s1.streamFail t Cause.isolationFreeze a
  | (.error .wait, s1) => s1

def Stream.isFailed (t : Stream) : Bool :=
  match t.st with
  | .failed _ _ => true
  | _ => false

/-- STREAM_ITEM_MOVE: the next step of a running stream; of a failed one, the next item that is marked. -/
def execStreamItemMove (stream : Nat) (reply : Reply) (s : State) : Host.Outcome State Fault Refusal :=
  let _ := reply
  match s.stream? stream with
  | none => .next s
  | some t =>
    if t.isFailed && t.marksLeft then
      match t.markM.exec s with
      | (.ok t1, s1) => .next (s1.setStream t1)
      | (.error _, _) => .next s
    else if t.st != .running || t.moved || t.kind = .hrv then .next s
    else
      match s.portsOk t with
      | some c => .next (s.streamFail t c 0)
      | none => .next (s.streamStep t)

/-- STREAM_RETRY: a tlb.inv of the context has completed, or 65,536 cycles have passed (R190). -/
def execStreamRetry (stream : Nat) (s : State) : Host.Outcome State Fault Refusal :=
  match s.stream? stream with
  | none => .next s
  | some t =>
    match t.st with
    | .paused _ d =>
      if t.retry || decide (d + 65536 ≤ s.cyc) then .next (s.streamStep { t with st := .running, retry := false }) else .next s
    | _ => .next s

/-! ## Retirement (R187, R189, R201) -/

/-- The barrier object of a stream at its retirement, or the cause that keeps the credit from landing: a cause of the translation, or
STREAM_DESC where no marked object of the package stands there (R201). -/
def streamObjM (t : Stream) : Mach Nat := do
  let x ← translateM (whoStream t) .atomic t.tb
  let s ← get
  let pa := lowOf x.pa
  if x.mt != 0 || !isNormal pa || !s.isLocal x.pa || !s.barriers.contains pa then raiseM Cause.streamDesc t.tb
  pure pa

/-- The barrier credit: the cause that keeps it from landing, if any. None while the translation waits. -/
def State.streamCredit (s : State) (t : Stream) (failed : Bool) : Option (State × Option Byte) :=
  let d := t.desc1
  if t.kind = .hrv || !d.tbarEn then some (s, none)
  else
    match (streamObjM t).exec s with
    | (.ok pa, s1) => some (s1.tbarCredit pa d.bytes t.ctx failed, none)
    | (.error (.raise c _), s1) => some (s1, some c)
    | (.error _, _) => none

/-- A frozen sender of a signal across contexts (R195): the binding of the stream's port in its context, or the core that issued it. -/
def State.freezeStreamMaster (s : State) (t : Stream) : State :=
  match (if t.kind = .cp then none else s.portBinder t.port) with
  | some r =>
    if r.ctx != t.ctx then s.isolateCore t.core 0
    else
      ((s.setRegion { r with engineFrozen := true }).record
        { cause := Cause.isolationFreeze, cls := 2, mkind := 2, ctx := r.ctx, mid := midEngine r.word, loc := r.loc 0 })
  | none => s.isolateCore t.core 0

def State.streamSignal (s : State) (t : Stream) (failed : Bool) : State :=
  let d := t.desc1
  if t.kind = .hrv || !d.semaEn then s
  else if t.core != Config.sceip && !s.semaReach t.ctx d.sema then s.freezeStreamMaster t
  else
    let s1 := s.semaNamed d.sema 1
    if failed then s1.semaErr (d.sema / 64 % 256) (d.sema % 64) else s1

def State.streamGone (s : State) (t : Stream) : State :=
  let s1 : State := { s with
    streams := s.streams.filter (fun x => x.id != t.id)
    score := s.score.filter (fun e => !(e.stream == t.id && e.sector == coreSector t.core)) }
  s1.endReads (.island 10 t.id)

/-- Writes and marks in another package that are not yet known to be performed. -/
def State.streamWrites (s : State) (id : Nat) : Bool :=
  s.reqs.any (fun q => q.kind.isWrite && q.owner == .stream id)

/-- A stream may retire: all of it has moved, or it has failed and what it did not write is marked. -/
def State.streamOver (s : State) (t : Stream) : Bool :=
  !s.streamWrites t.id && (if t.isFailed then !t.marksLeft else t.st == .running && t.moved)

/-- STREAM_RETIRE. -/
def execStreamRetire (stream : Nat) (s : State) : Host.Outcome State Fault Refusal :=
  match s.stream? stream with
  | none => .next s
  | some t =>
    if !s.streamOver t then .next s
    else
      let late := !t.isFailed && t.poison && t.kind != .ld
      let failed := t.isFailed || late
      match (if late then s.streamError t Cause.poisonConsumed 0 else s).streamCredit t failed with
      | none => .next s
      | some (s2, bad) =>
        let s3 := match bad with
          | some c => if failed then s2 else s2.streamError t c t.tb
          | none => s2
        .next ((s3.streamSignal t (failed || bad.isSome)).streamGone t)

/-! ## The dirty harvest (R308) -/

/-- What the walk of an address meets, and the bytes that share its fate. -/
inductive Harvest where
  | skip (size : Nat)
  | format (size : Nat)
  | page (pa0 : Nat) (leaf : DWord)
  deriving DecidableEq, Repr

/-- The walk of a harvest. A page whose walk ends in PT_FORMAT has no size of its own: one record is written for the whole reach of the
entry that is malformed (DESIGN CHOICE: log entry 77). -/
def State.harvestFrom (s : State) (va : DWord) : Nat → Nat → Harvest
  | 0, node =>
    let i := vaIndex va 0
    let e := s.fabNat (node + 8 * i) 8
    if s.poisonedAt (node + 8 * i) 8 || !bit e 0 then .skip 4096
    else if !bit e 1 then .format 4096
    else
      match s.walkLeaf va 0 node i e with
      | .leaf pa0 l => .page pa0 l
      | .bad c _ => if c = Cause.ptFormat then .format 4096 else .skip 4096
  | l + 1, node =>
    let i := vaIndex va (l + 1)
    let size := 2 ^ (12 + 8 * (l + 1))
    let e := s.fabNat (node + 8 * i) 8
    if s.poisonedAt (node + 8 * i) 8 || !bit e 0 then .skip size
    else if !bit e 1 then
      (if s.badPointer e then .format size else State.harvestFrom s va l (lowOf (bits e 51 11 * 2048)))
    else
      match s.walkLeaf va (l + 1) node i e with
      | .leaf pa0 lf => .page pa0 lf
      | .bad c _ => if c = Cause.ptFormat then .format size else .skip size

/-- The frame bits of n frames of a page of this package are read and cleared. -/
def State.takeFrames (s : State) (first n : Nat) : State × Bool :=
  ({ s with frames := s.frames.filter (fun f => decide (f < first) || decide (first + n ≤ f)) },
    s.frames.any (fun f => decide (first ≤ f) && decide (f < first + n)))

/-- The frame bit of a frame of another package, read and cleared at its home (R308). A package that no port reaches answers nothing:
its bits are not read (log entry 70, DESIGN CHOICE). -/
def remoteFrameM (t : Stream) (pa : Nat) : Mach Bool := do
  let s ← get
  match s.remoteReads.find? (fun r => r.reader == (whoStream t).reader && r.addr == pa) with
  | some r =>
    match r.answer with
    | some (v, bad) => pure (v != 0 && !bad)
    | none => waitM
  | none =>
    if s.maskHeld (pkgOf pa) then waitM
    if !s.reachable (pkgOf pa) then
      set (s.linkLost t.ctx pa)
      pure false
    else
      let asked : RemRead := ⟨(whoStream t).reader, pa, 4096, s.nextId, none⟩
      let s1 := (s.sendReq .harvest .other t.ctx pa 4096 0).2
      set { s1 with remoteReads := s1.remoteReads ++ [asked] }
      waitM

/-- Some frames of a page of `frames` frames at pa: those that this package holds next, or one of another package. `stops` counts the
frames read so far, `spoison` is what their bits have shown. A large page spans packages. -/
def framesM (t : Stream) (pa frames : Nat) : Mach Stream := do
  let s ← get
  let at_ := pa + 4096 * t.stops
  if s.isLocal at_ then
    let n := min (frames - t.stops) (2 ^ 28 - lowOf at_ / 4096)
    let (s1, b) := s.takeFrames (lowOf at_ / 4096) n
    set s1
    pure { t with stops := t.stops + n, spoison := t.spoison || b }
  else
    let b ← remoteFrameM t at_
    pure { t with stops := t.stops + 1, spoison := t.spoison || b }

/-- One page of the range, or a part of it. -/
def harvestM (t : Stream) (va : DWord) : Mach Stream := do
  let s ← get
  let past := fun (n : Nat) => { t with item := t.item + n, stops := 0, spoison := false }
  if !canonical va then pure (past (2 ^ 64 - 2 ^ 56 - va.toNat))
  else
    match (s.ctxOf t.ctx).root with
    | none => pure (past (2 ^ 56))
    | some root =>
      match s.harvestFrom va 5 root with
      | .skip n => pure (past (n - va.toNat % n))
      | .format n => do
        set (s.streamError t Cause.ptFormat va)
        pure (past (n - va.toNat % n))
      | .page pa0 leaf => do
        let size := pageBytes leaf
        let pa := leafPa leaf
        let frames := size / 4096
        if leafMt leaf != 0 then pure (past (size - va.toNat % size))
        else
          let t1 ← if t.stops < frames then framesM t pa frames else pure t
          if t1.stops < frames then pure t1
          else if s.writeHeld pa0 8 false then (if t.stops < frames then pure t1 else waitM)
          else
            if t1.spoison then modify (fun s2 => s2.fabWriteNat pa0 8 (s2.fabNat pa0 8 ||| 0x800))
            pure (past (size - va.toNat % size))

/-- DIRTY_HARVEST: the next page of the range. -/
def execDirtyHarvest (stream : Nat) (s : State) : Host.Outcome State Fault Refusal :=
  match s.stream? stream with
  | none => .next s
  | some t =>
    if t.kind != .hrv || t.st != .running || t.moved then .next s
    else
      match (harvestM t (t.hva + BitVec.ofNat 64 t.item)).exec s with
      | (.ok t1, s1) => .next ((s1.setStream t1).endReads (.island 10 t.id))
      | (.error _, s1) => .next s1

end Sys2Proof.Machine
end

