-- ==== Sys2Proof/Machine/Launches.lean ====
section
/-!
DEFINITION. Launches.lean: launches (R23 to R25, R203 to R207), placements and dispatch (R340 to R345), and the start and completion
of units (R79, R142, R344).
-/
namespace Sys2Proof.Machine

/-! ## Issue -/

def issueLaunch (ind : Bool) (d : Reg) (lpb : DWord) (c : Nat) (x : CoreSt) : Mach Flow := do
  orderGate x
  drainGate x true
  let s ← get
  if Config.launchQueueSize ≤ (s.launches.filter (fun l => l.core == c)).length then waitM
  let l : Launch := { id := s.nextId, core := c, ctx := s.coreCtx c, pc := x.pc, pend := s.nextId + 1, lpb := lpb, ind := ind }
  let p : Pend := ⟨s.nextId + 1, d.toNat, .launch, lpb, none, false, none, x.pc, s.cyc, false⟩
  let s1 : State := { s with nextId := s.nextId + 2, launches := s.launches ++ [l] }
  set (s1.updCore c (fun y => { y with pend := y.pend ++ [p] }))
  pure .next

/-- LNCH. -/
def execLnch (ra rb : Reg) (s : State) : Host.Outcome State Fault Refusal :=
  seqRun [rb] [ra] 8 s (fun c x => issueLaunch false ra (x.gr rb) c x)
/-- LNCH_IND. -/
def execLnchInd (ra rb : Reg) (s : State) : Host.Outcome State Fault Refusal :=
  seqRun [rb] [ra] 8 s (fun c x => issueLaunch true ra (x.gr rb) c x)

/-! ## Candidates (R340) -/

/-- Quads of a span group (R203). -/
def spanQuads (span : Nat) : Nat := if span = 6 then 4096 else 4 ^ span
def Launch.spanFirst (l : Launch) : Nat := l.spanAt / 4 - l.spanAt / 4 % spanQuads l.span
/-- The smallest power of two not below n. -/
def pow2Above (n : Nat) : Nat := if n ≤ 1 then 1 else 2 ^ (Nat.log2 (n - 1) + 1)
def Launch.candidates (l : Launch) : List Nat :=
  let p := pow2Above l.quads
  (List.range (spanQuads l.span / p)).map (fun k => l.spanFirst + k * p)

def Placement.live (p : Placement) : Bool := p.st != .gone
def Launch.holds (l : Launch) (id : Nat) : Bool := l.placements.any (fun p => p.region == id && p.live)

/-- A unit of the launch runs on the placement that starts at quad id. -/
def Launch.runsOn (l : Launch) (id : Nat) : Bool :=
  l.placements.any (fun p => p.region == id && (match p.st with
    | .running _ => true
    | _ => false))

/-- It is exactly the region of a resident configuration that cfg.ld loaded from IMAGE, and no other launch has units on it. -/
def State.residentFor (s : State) (l : Launch) (id : Nat) : Bool :=
  (match s.region? id with
    | some r => r.quads == l.quads && r.byCfg && r.image == l.image && r.ctx == l.ctx
    | none => false)
    && !s.launches.any (fun m => m.id != l.id && m.runsOn id)
def State.usable (s : State) (l : Launch) (id : Nat) : Bool := s.quadsFree 0 id l.quads || s.residentFor l id
def State.usableCount (s : State) (l : Launch) : Nat := (l.candidates.filter (fun id => s.usable l id)).length

/-! ## The placement controller (R345) -/

def State.placeCtl? (s : State) (ctx : Nat) (image : DWord) : Option PlaceCtl := s.placeCtl.find? (fun p => p.ctx == ctx && p.image == image)

/-- The next count; at least one placement, so that a launch without a usable candidate waits for one (log entry 44). -/
def State.nextCount (s : State) (l : Launch) : Nat :=
  let u := s.usableCount l
  max 1 (match s.placeCtl? l.ctx l.image with
    | none => min l.count u
    | some p =>
      if p.t < 8 * p.s then min (2 * p.prev) (min l.count u)
      else if p.prev * p.t < 2 * p.i then max 1 (p.prev / 2)
      else min p.prev (min l.count u))

/-- C is the lesser of N and PLMAX, or of N and the controller's count (R341). -/
def State.placeCount (s : State) (l : Launch) : Nat := min l.count (if l.plmax = 0 then s.nextCount l else l.plmax)

/-! ## LAUNCH_JUDGEMENT (R205, R207) -/

def whoLaunch (l : Launch) : Who := ⟨l.ctx, coreBay l.core, .engine, 0, none, .launch l.id⟩

/-- The parameter block (R203). -/
def lpbFields (l : Launch) (ws : List Nat) : Launch :=
  let w := fun k => ws.getD k 0
  { l with
    read := true, image := BitVec.ofNat 64 (w 0), count := w 1 % 2 ^ 32, span := bits (w 2) 2 0, spanAt := bits (w 2) 21 8
    csema := bits (w 2) 45 32, csemaEn := bit (w 2) 46, arg := BitVec.ofNat 64 (w 3), countAddr := BitVec.ofNat 64 (w 4)
    countVer := BitVec.ofNat 32 (w 5), quads := bits (w 6) 10 0, plmax := bits (w 6) 25 16 }

def readLpbM (l : Launch) : Mach Launch := do
  if l.read then pure l
  else
    if l.lpb.toNat % 64 != 0 then raiseM Cause.misaligned l.lpb
    if !canonical l.lpb then raiseM Cause.addrNoncanonical l.lpb
    let ws ← loadWordsM (whoLaunch l) l.lpb 8
    let l1 := lpbFields l ws
    modify (fun s => s.updLaunch l.id (fun _ => l1))
    pure l1

/-- The count of lnch.ind: exactly the named version (R24). -/
def countWordM (l : Launch) : Mach Nat := do
  let va := l.countAddr
  if va.toNat % 8 != 0 then raiseM Cause.misaligned va
  let x ← translateM (whoLaunch l) .vld va
  if !targetOk .engine x then raiseM Cause.addrUnmapped va
  let (v, p, _) ← homeVldM (whoLaunch l) (.launch l.id) va x l.countVer
  if p then raiseM Cause.poisonConsumed va
  pure v.toNat

/-- The launch as judged: rejected with a cause, complete at once (count 0), or accepted. -/
def judgeM (l0 : Launch) : Mach Launch := do
  let l ← readLpbM l0
  let n ← if l.ind then
      tryCatch (countWordM l) (fun e => match e with
        | .raise c a => raiseM (if c = Cause.notVersioned then Cause.launchUnversioned else c) a
        | e => throw e)
    else pure l.count
  let l1 : Launch := { l with count := n }
  if n = 0 then pure l1
  else
    if 2 ^ 24 < n then raiseM Cause.launchRange 0
    if l.span = 0 || l.span = 7 || l.quads = 0 || 1024 < l.quads || spanQuads l.span < l.quads then raiseM Cause.launchSpan 0
    let im ← readImageM (whoLaunch l) l.image l.quads
    match (im.region l1.spanFirst l.ctx l.image false).wordsFault with
    | some c => raiseM c l.image
    | none => pure { l1 with img := some im }

def State.dropLaunch (s : State) (id : Nat) : State :=
  let s1 : State := { s with
    launches := s.launches.filter (fun l => l.id != id)
    vldWaits := s.vldWaits.filter (fun v => v.owner != .launch id) }
  s1.endReads (.launch id)

/-- The completion signal (R206); across contexts its sender is frozen (R195). -/
def State.launchSignal (s : State) (l : Launch) (error : Bool) : State :=
  if !l.csemaEn then s
  else if l.core != Config.sceip && !s.semaReach l.ctx l.csema then s.isolateCore l.core 0
  else
    let s1 := s.semaNamed l.csema 1
    if error then s1.semaErr (l.csema / 64 % 256) (l.csema % 64) else s1

/-- LAUNCH_JUDGEMENT. -/
def execLaunchJudgement (launch : Nat) (reply : Reply) (s : State) : Host.Outcome State Fault Refusal :=
  let _ := reply
  match s.launch? launch with
  | none => .next s
  | some l =>
    if l.accepted then .next s
    else
      match (judgeM l).exec s with
      | (.ok l1, s1) =>
        let s2 := s1.endReads (.launch launch)
        if l1.count = 0 then .next (((s2.putResult l.core l.pend 0 false).launchSignal l1 false).dropLaunch launch)
        else
          let l2 : Launch := { l1 with accepted := true, places := s2.placeCount l1 }
          .next ((s2.updLaunch launch (fun _ => l2)).putResult l.core l.pend 0 false)
      | (.error (.raise c a), s1) =>
        .next (((s1.putResult l.core l.pend (c.zeroExtend 64) false).dropLaunch launch).coreError l.core l.ctx c a l.pc)
      | (.error _, s1) => .next s1

/-! ## PLACEMENT_TAKE (R341) -/

/-- Placements stand in candidate order. -/
def insertPlace : List Placement → Placement → List Placement
  | [], p => [p]
  | q :: t, p => if p.region < q.region then p :: q :: t else q :: insertPlace t p

def Launch.open (l : Launch) (id : Nat) : Bool := !l.dropped.contains id && !l.holds id

def State.nextCandidate (s : State) (l : Launch) : Option (Nat × Bool) :=
  match l.candidates.find? (fun id => l.open id && s.residentFor l id) with
  | some id => some (id, false)
  | none => (l.candidates.find? (fun id => l.open id && s.quadsFree 0 id l.quads)).map (fun id => (id, true))

def placeWord (id quads : Nat) : DWord := BitVec.ofNat 64 (id % 1024 + 1024 * (quads - 1) + 2 ^ 20 * (id / 1024))

/-- PLACEMENT_TAKE: a resident candidate as it stands, a free one by a load. -/
def execPlacementTake (launch : Nat) (s : State) : Host.Outcome State Fault Refusal :=
  match s.launch? launch with
  | none => .next s
  | some l =>
    if !l.accepted || l.count ≤ l.next || l.places ≤ (l.placements.filter Placement.live).length then .next s
    else
      match s.nextCandidate l with
      | none => .next s
      | some (id, own) =>
        let p : Placement := ⟨id, own, if own then .loading else .idle⟩
        let s1 := s.updLaunch launch (fun m => { m with placements := insertPlace (m.placements.filter Placement.live) p })
        if own then
          let o : CfgOp := ⟨s.nextId, .launchLoad, l.core, 0, l.ctx, l.image, placeWord id l.quads, launch, .queued, l.img, false⟩
          .next { s1 with nextId := s.nextId + 1, cfgops := s1.cfgops ++ [o] }
        else .next s1

/-! ## UNIT_START (R79, R342, R343) -/

/-- A sector is stressed while it reads above the threshold, or after a droop (R342). -/
def State.stressed (s : State) (sector : Nat) : Bool :=
  let x := AMap.getD s.sectors sector {}
  decide (s.tstress.toNat < x.temp) || (match x.lastDroop with
    | some d => decide (s.cyc < d + 4096)
    | none => false)
def State.placeStressed (s : State) (id quads : Nat) : Bool :=
  (natsFrom (id / 16) ((id + quads - 1) / 16 + 1 - id / 16)).any s.stressed

/-- The first idle placement at or after a position, cyclically, as its index; n positions are left to try. -/
def firstIdle (ps : List Placement) : Nat → Nat → Option Nat
  | 0, _ => none
  | n + 1, k =>
    match ps[k % ps.length]? with
    | some p => if p.st = .idle then some (k % ps.length) else firstIdle ps n (k + 1)
    | none => none

/-- The placements the launch holds, in candidate order; one on which another launch's unit runs is not idle (R340). -/
def State.heldPlaces (s : State) (l : Launch) : List Placement :=
  (l.placements.filter Placement.live).map (fun p =>
    if p.st = .idle && (match s.region? p.region with
      | some r => r.unit.isSome
      | none => true) then { p with st := .unloading } else p)

/-- R342: q0, or one of the next two that is idle and not stressed. -/
def State.choosePlace (s : State) (l : Launch) : Option Nat :=
  let ps := s.heldPlaces l
  match firstIdle ps ps.length l.ptr with
  | none => none
  | some q0 =>
    let fine := fun (k : Nat) => match ps[k % ps.length]? with
      | some p => p.st == .idle && !s.placeStressed p.region l.quads
      | none => false
    some ((([q0, q0 + 1, q0 + 2].find? fine).getD q0) % ps.length)

/-- Every START element has room for its start packet. -/
def Region.startRoom (r : Region) (now : Nat) : Bool :=
  r.starters.all (fun e => decide (0 < (r.elem e).boxRoom now 3) && !r.pendingBox e 3)

def putStarts (now ident : Nat) (arg : DWord) : List Nat → Region → Region
  | [], r => r
  | e :: t, r => putStarts now ident arg t (r.putPacket now e 3 (startPacket ident (r.loc e) (e / 4) r.ctx arg))

def Region.startUnit (r : Region) (now launch ident : Nat) (arg : DWord) : Region :=
  let r1 := (r.startElems now).logArrival .unit
  { (putStarts now ident arg r.starters r1) with unit := some ⟨launch, ident, now, none⟩ }

/-- The unit runs on the placement; ptr counts in the placements then held. -/
def runPlace (id ident now : Nat) (l : Launch) (at_ : Nat) : Launch :=
  { l with
    placements := (l.placements.filter Placement.live).map (fun p => if p.region = id then { p with st := .running ident } else p)
    firstStart := some (l.firstStart.getD now)
    next := l.next + 1
    ptr := at_ + 1 }

/-- UNIT_START. -/
def execUnitStart (launch : Nat) (s : State) : Host.Outcome State Fault Refusal :=
  match s.launch? launch with
  | none => .next s
  | some l =>
    if !l.accepted || l.count ≤ l.next then .next s
    else
      match s.choosePlace l with
      | none => .next s
      | some k =>
        match (s.heldPlaces l)[k]? with
        | none => .next s
        | some p =>
          match s.region? p.region with
          | none => .next s
          | some r =>
            if r.token.isSome || r.unit.isSome || !s.regionLive r || !r.startRoom s.cyc || (!r.wins.isEmpty && !decide (r.log.length + r.starters.length < 2048))
            then .next s
            else .next ((s.setRegion (r.startUnit s.cyc launch l.next l.arg)).updLaunch launch (fun m => runPlace p.region l.next s.cyc m k))

/-! ## UNIT_COMPLETION (R142, R344) -/

def idlePlace (ident : Nat) (l : Launch) : Launch :=
  { l with
    completed := l.completed + 1
    placements := l.placements.map (fun p => if p.st = .running ident then { p with st := .idle } else p) }

/-- UNIT_COMPLETION. -/
def execUnitCompletion (region : Nat) (s : State) : Host.Outcome State Fault Refusal :=
  match s.region? region with
  | none => .next s
  | some r =>
    match r.unit with
    | none => .next s
    | some u =>
      if r.unitOver u s.cyc then .next ((s.setRegion { r with unit := none }).updLaunch u.launch (idlePlace u.ident)) else .next s

/-! ## LAUNCH_COMPLETION (R206, R341) -/

/-- The placements that the launch loaded are given their reconfiguration token once the last unit is over: it closes a window that
elements without START have opened since, and passes, so that the unload is done, once every window has committed (R40, R351). -/
def unloadOps (l : Launch) : List Placement → State → State
  | [], s => s
  | p :: t, s =>
    unloadOps l t (if p.own && p.st = .idle then
        let o : CfgOp := ⟨s.nextId, .launchUnload, l.core, 0, l.ctx, 0, placeWord p.region l.quads, l.id, .queued, none, false⟩
        let s1 : State := { s with nextId := s.nextId + 1, cfgops := s.cfgops ++ [o] }
        (s1.updLaunch l.id (fun m => { m with placements := m.placements.map (fun q => if q.region = p.region then { q with st := .unloading } else q) })).beginOp o
      else s)

def setCtl (p : PlaceCtl) : List PlaceCtl → List PlaceCtl
  | [] => [p]
  | q :: t => if q.ctx = p.ctx && q.image = p.image then p :: t else q :: setCtl p t

/-- The launch leaves its queue: its counters are kept, its signal is sent, an abandoned unit is reported. -/
def State.endLaunch (s : State) (l : Launch) (error : Bool) : State :=
  let t := match l.firstStart with
    | some d => s.cyc - d
    | none => 0
  let c : PlaceCtl := ⟨l.ctx, l.image, l.places, t, l.heldBack, l.idleSum⟩
  let s1 : State := if l.plmax = 0 then { s with placeCtl := setCtl c s.placeCtl } else s
  let s2 := s1.launchSignal l (error || l.abandoned != 0)
  let s3 := if l.abandoned != 0 then s2.coreError l.core l.ctx l.cause 0 l.pc else s2
  s3.dropLaunch l.id

/-- LAUNCH_COMPLETION: a unit that has completed has committed its windows (R142, R344). Placements that the launch loaded are unloaded
before its signal; on a resident one, windows of other units and of elements that still run are none of the launch's. A launch without a
placement left to try ends with error (R205). -/
def execLaunchCompletion (launch : Nat) (s : State) : Host.Outcome State Fault Refusal :=
  match s.launch? launch with
  | none => .next s
  | some l =>
    if !l.accepted then .next s
    else if !l.placements.any Placement.live && l.candidates.all (fun id => l.dropped.contains id) then .next (s.endLaunch l true)
    else if l.completed + l.abandoned != l.count then .next s
    else if l.placements.any (fun p => p.own && p.st == .idle) then .next (unloadOps l l.placements s)
    else if l.placements.any (fun p => p.own && p.live) then .next s
    else .next (s.endLaunch l false)

/-! ## The counter S (R345) -/

/-- An element outside waits for a packet credit toward one of the regions. -/
def wantsSend (s : State) (ids : List Nat) (q : Region) (e : Nat) : Bool :=
  (List.range 32).any (fun n =>
    match wordFire ((q.elem e).slots.getD n 0) with
    | none => false
    | some f =>
      let c : FireCtx := { mkCtx s q e n [] with credits := fun _ => 1 }
      trigOk (q.elem e) s.cyc c.trig && (match f c (q.elem e) with
        | .done _ (.send k _ :: _) => AMap.getD q.cred k 0 == 0
            && (routeDests q (q.route k)).any (fun l => match s.at? l with
              | some (r, _) => ids.contains r.id
              | none => false)
        | _ => false))

/-- A sender outside the placements is held back at a boundary end of a placement. -/
def State.endHeld (s : State) (ids : List Nat) (r : Region) (e : Nat) (d : Dir) : Bool :=
  let full := !s.endCredit r e d
  match r.far e d with
  | .tie m =>
    (match s.at? m with
    | some (q, e2) => !ids.contains q.id && (s.outHead q e2 d.opposite).isSome && full
    | none => false)
  | .port p => !(s.port p).toRegion.isEmpty && full
  | .island k => !(s.link k).outq.isEmpty && full
  | .qin =>
    (match AMap.find? r.qends (qKey e d) with
    | some q => s.fabNat (lowOf q.desc + 0x10) 8 != s.fabNat (lowOf q.desc + 0x18) 8 && full
    | none => false)
  | _ => false

def State.launchHeld (s : State) (l : Launch) : Bool :=
  let ids := (l.placements.filter Placement.live).map (fun p => p.region)
  ids.any (fun id => match s.region? id with
    | some r => r.boundarySides.any (fun p => s.endHeld ids r p.1 p.2)
    | none => false)
    || s.regions.any (fun q => !ids.contains q.id && (List.range (4 * q.quads)).any (fun e => wantsSend s ids q e))

/-- Placements of a launch on which no unit runs. -/
def State.idlePlaces (s : State) (l : Launch) : Nat := ((s.heldPlaces l).filter (fun p => p.st == .idle)).length

/-- A launch whose counters the placement controller keeps. -/
def Launch.watched (l : Launch) : Bool := l.plmax = 0 && l.accepted

/-- The counters I and S of a launch after one more cycle. -/
def State.countCycle (s : State) (l : Launch) : Launch :=
  if !l.watched then l
  else
    { l with
      idleSum := l.idleSum + s.idlePlaces l
      heldBack := if l.firstStart.isSome && s.launchHeld l then l.heldBack + 1 else l.heldBack }

/-! ## Time passes -/

/-- The cycle by which the sensors are next refreshed (R448). -/
def State.sensorDue (s : State) : Nat := s.lastRefresh + 4096

/-- The cycles that may pass in one go of those a turn asks for: none once a refresh of the sensors is due, and one at a time while
counters of launches run (log entries 44, 51). -/
def State.mayWait (s : State) (n : Nat) : Nat :=
  min (if s.launches.any Launch.watched then min n 1 else n) (s.sensorDue - s.cyc)

/-- Everything that the passing of time brings has come: arrivals that waited for room, tokens that were due, and the discards of a
sweep. -/
def State.settleTime (s : State) (from_ : Nat) : State :=
  let s1 := (s.settleAll from_).arrivals from_
  (s1.regions.map (fun r => r.id)).foldl (State.sweepPass from_) s1

/-- Cycles pass: the counters of R345 run, and what is due by the last of the cycles arrives. -/
def State.passTime (s : State) (n : Nat) : State :=
  if s.mayWait n = 0 then s
  else State.settleTime { s with cyc := s.cyc + s.mayWait n, launches := s.launches.map s.countCycle } (s.cyc + 1)

end Sys2Proof.Machine
end

