-- ==== Sys2Proof/Machine/Replay.lean ====
section
/-!
DEFINITION. Replay.lean: replay of the firing journal (R93, R223, R356 to R358): what each replayed firing finds, its accesses, and the
return of the region to its frozen or to its running state.
-/
namespace Sys2Proof.Machine

/-! ## What a replayed firing finds -/

/-- Everything that stands in the region has been there for a cycle. -/
def agedEntry : InEntry → InEntry
  | .tok t => .tok { t with at_ := 0 }
  | y => y
def InCh.aged (c : InCh) : InCh := { q := c.q.map agedEntry, freed := [] }
def OutCh.aged (c : OutCh) : OutCh := { q := c.q.map (fun t => { t with at_ := 0 }), freed := [] }
def Elem.aged (e : Elem) : Elem :=
  { e with
    inc := e.inc.map InCh.aged
    outc := e.outc.map OutCh.aged
    inbox := e.inbox.map (fun l => l.map (fun b => { b with at_ := 0 }))
    boxFreed := Vector.replicate 4 [] }
def Region.aged (r : Region) : Region := { r with elems := r.elems.map (fun p => (p.1, p.2.aged)) }

/-- Logged arrivals whose journal index has come enter, in order (R357). -/
def Region.enterDue (r : Region) (idx : Nat) : Region :=
  let later := r.pend.filter (fun p => decide (idx < p.jidx))
  let r1 := r.settlePend 0 (r.pend.filter (fun p => decide (p.jidx ≤ idx))) []
  { r1 with pend := r1.pend ++ later }

/-- A token of one side moves on: inside the region without latency, or discarded at the boundary as a reproduced one. One that a
fence holds back stays (R330). -/
def State.replayMove (id : Nat) (s : State) (p : Nat × Dir) : State :=
  match s.region? id with
  | none => s
  | some r =>
    let e := p.1
    let side := p.2
    let key := wireKey (r.loc e) side
    if r.crosses e side then
      (match s.outFront r e side with
      | some t => if t.src != 0 && AMap.getD r.wsup key 0 != 0 && !s.fenced r e t.src then s.suppressTake r e side t.src else s
      | none => s)
    else
      match r.far e side with
      | .mesh e2 =>
        (match (s.wire key).flight with
        | f :: rest =>
          (match s.enterAny r e2 side.opposite f.tok 0 f.src with
          | some s1 => s1.updWire key (fun w => { w with flight := rest })
          | none => s)
        | [] =>
          match s.outFront r e side with
          | none => s
          | some t =>
            if s.fenced r e t.src then s
            else
              let s1 := s.dropHead r e side t.src
              match s1.region? id with
              | none => s
              | some r1 => (s1.enterAny r1 e2 side.opposite t.tok 0 t.src).getD s)
      | _ => s

def regionSides (r : Region) : List (Nat × Dir) :=
  r.elems.flatMap (fun p => if p.2.isMatrix then [] else [(p.1, Dir.north), (p.1, Dir.east), (p.1, Dir.south), (p.1, Dir.west)])

/-- Tokens move as far as they can. -/
def State.replaySettle (s : State) (id : Nat) (sides : List (Nat × Dir)) : Nat → State
  | 0 => s
  | n + 1 => State.replaySettle (sides.foldl (State.replayMove id) s) id sides n

/-- Responses that have come for accesses of replayed firings. -/
def deliverAll (id : Nat) : List Acc → State → State
  | [], s => s
  | a :: t, s => deliverAll id t (if a.result.isSome then s.deliver id a.serial else s)

def State.replayReady (s : State) (r : Region) (idx : Nat) : State :=
  let s1 := s.setRegion (r.aged.enterDue idx)
  (deliverAll r.id r.accs s1).replaySettle r.id (regionSides r) (4 * r.quads + 4)

/-- The journaled slot's firing in the replayed state. -/
def State.replayFire (s : State) (r : Region) (j : JEntry) : FireRes :=
  let s1 : State := { s with cyc := s.cyc + 1 }
  let el := r.elem j.elem
  if j.static then (if el.isStatic && !el.isMatrix then staticFire (mkCtx s1 r j.elem 0 []) el else .notReady)
  else if el.isStatic || el.finished || (el.start && !el.started) then .notReady
  else (slotFire s1 r j.elem j.slot []).getD .notReady

/-! ## Accesses of a replayed firing -/

/-- The oldest windows of a replay commit as far as they are closed and settled, as in normal running (R352); rpl.drop then returns
to what is left. At most two windows are uncommitted. -/
def State.replayCommit (s : State) (id : Nat) : Nat → State
  | 0 => s
  | n + 1 =>
    match s.region? id with
    | none => s
    | some r =>
      match r.wins with
      | [] => s
      | w :: _ =>
        if w.closed && (r.accs.filter (fun a => decide (a.serial < r.bound))).all (fun a => s.accSettled r a) then
          State.replayCommit ((s.commitWindow r).updRegion id (fun q =>
            { q with replay := q.replay.map (fun p => { p with committed := p.committed + (r.journal.length - q.journal.length) }) })) id n
        else s

/-- A write or an atomic of a replayed firing in another package is over before the firing is: what its home answered. The requests of a
command are told apart by their size. -/
def remoteDoneM (w : Who) (kind : ReqKind) (dpa n : Nat) (data : Line) : Mach (Nat × Bool) := do
  let s ← get
  match s.remoteReads.find? (fun r => r.reader == w.reader && r.addr == dpa && r.size == doneSize n) with
  | some r =>
    (match r.answer with
    | some v => pure v
    | none => waitM)
  | none =>
    if s.maskHeld (pkgOf dpa) then waitM
    if !s.reachable (pkgOf dpa) then
      set (s.linkLost w.ctx dpa)
      pure (0, !kind.isWrite)
    else
      let asked : RemRead := ⟨w.reader, dpa, doneSize n, s.nextId, none⟩
      let s1 := (s.sendReq kind .other w.ctx dpa n data).2
      set { s1 with remoteReads := s1.remoteReads ++ [asked] }
      waitM

/-- What the access of a replayed firing came to: its state and response, or a cause; `applied` marks REMOTE_APPLIED_ERR. -/
inductive ReplayAcc where
  | done (st : AccSt) (result : Option (Wide × Bool))
  | fails (cause : Byte) (addr : DWord)
  | applied (value : Wide) (poison : Bool)
  deriving DecidableEq, Repr

/-- The load's bytes, from the windows and from memory. One that the windows serve whole meets no entry of the scoreboard (R313). -/
def replayLoadM (w : Who) (r : Region) (a : Acc) (x : Xlat) : Mach ReplayAcc := do
  let s ← get
  let whole := r.covered a.serial x a.size
  if !whole && s.scored r a then waitM
  if x.mt = 0 && !s.isLocal x.pa && !whole then
    let (v, p) ← remoteReadM w x.pa a.size
    let y := r.withForward a x
    pure (.done .done (some (BitVec.ofNat 256 (leNat (overlay y (BitVec.ofNat 256 v) a.size)), p)))
  else
    let (bs, p) := s.loadBytes r a.serial x a.size 0
    pure (.done .done (some (BitVec.ofNat 256 (leNat bs), p)))

/-- A replayed vld is answered before its firing is over: rpl.step waits for the version (R223; log entry 36). One for another package
leaves after the windows that have closed are performed, so that its home reads it behind their stores (R323). -/
def replayVldM (c : Nat) (w : Who) (r : Region) (a : Acc) (x : Xlat) : Mach ReplayAcc := do
  let s ← get
  if !s.isLocal x.pa && r.wins.any (fun u => u.closed) then waitM
  let (v, p, newest) ← homeVldM w (.step c) a.va x a.version
  let y : Wide × Bool := if newest then r.throughWindows a x v p else (v.zeroExtend 256, p)
  pure (.done .done (some y))

/-- A replayed vst waits for a free version, up to 2^20 cycles; then it fails and nothing of it is left at its home (R357). -/
def replayStallM (c pa : Nat) (a : Acc) : Mach ReplayAcc := do
  versionWaitM c pa
  modify (fun s => s.leaveInstr c)
  pure (.fails Cause.versionStall a.va)

/-- The access is performed; `c` is the core that waits with it (R223, R357). -/
def replayPerformM (c : Nat) (w : Who) (r : Region) (a : Acc) (x : Xlat) : Mach ReplayAcc := do
  let s ← get
  let away := x.mt = 0 && !s.isLocal x.pa
  match a.kind with
  | .load | .acquire => replayLoadM w r a x
  | .store =>
    if s.scored r a then waitM
    pure (.done (.ready x) none)
  | .vld => replayVldM c w r a x
  | .release =>
    if s.scored r a || storeBlocked s x a.size then waitM
    if away then
      let (v, _) ← remoteDoneM w .write x.pa a.size (a.data.zeroExtend 512)
      if v = refusedMark then pure (.fails Cause.permFault a.va) else pure (.done .done none)
    else
      set (s.storeAt x (wideBytes a.data a.size))
      pure (.done .done none)
  | .vst =>
    if away then
      match ← remoteVstM w x.pa (a.data.extractLsb' 0 64) with
      | .done => pure (.done .done none)
      | .waits => do
        let _ ← waitStart c
        waitM
      | .stalled => pure (.fails Cause.versionStall a.va)
    else if s.vstLost w (lowOf x.pa) then pure (.done .done none)
    else if s.vstHeld (lowOf x.pa) (.step c) then replayStallM c (lowOf x.pa) a
    else if s.writeHeld (lowOf x.pa) 8 false then waitM
    else
      set ((s.vstGone (lowOf x.pa) (.step c)).createVersion (lowOf x.pa) (a.data.extractLsb' 0 64))
      pure (.done .done none)
  | .vrcl =>
    if away then
      let _ ← remoteDoneM w .vrcl x.pa a.size (a.version.zeroExtend 512)
    else set (s.vrcl (lowOf x.pa) a.version)
    pure (.done .done none)
  | .amo k =>
    if s.scored r a then waitM
    if away then
      let (v, p) ← remoteDoneM w .atomic x.pa a.size ((a.data ||| (a.new.zeroExtend 256 <<< 64)).zeroExtend 512)
      if v = refusedMark then pure (.fails Cause.permFault a.va)
      else if 2 ^ 256 ≤ v then pure (.applied (BitVec.ofNat 256 v) p) else pure (.done .done (some (BitVec.ofNat 256 v, p)))
    else
      let (old, p) ← amoAtM x k a.size (a.data.extractLsb' 0 64).toNat a.new.toNat
      pure (.done .done (some (BitVec.ofNat 256 old, p)))

/-! ## RPL_BEG, RPL_STEP, RPL_END, RPL_DROP -/

/-- The status of rpl.beg; 0 where the replay begins. -/
def State.rplStatus (s : State) (c : Nat) (x : CoreSt) (w : DWord) : Byte :=
  if x.replay.isSome || x.rpl then Cause.rplState
  else if wordBad w then Cause.cfgRegion
  else if wordId w / 16 != c then Cause.cfgNotOwner
  else
    match s.regionNamed w c (s.coreCtx c) with
    | some r => if r.frozen = some .windowFault then 0 else Cause.cfgRegion
    | none => Cause.cfgRegion

def Region.beginReplay (r : Region) (c : Nat) : Region :=
  { r with
    replay := some ⟨c, r.journal, 0⟩
    journal := []
    log := [] }

/-- RPL_BEG: a journal index is never above 2,048 (R353). -/
def execRplBeg (d a b : Reg) (s : State) : Host.Outcome State Fault Refusal :=
  let _ := b
  seqRun [a] [d] 4 s (fun c x => do
    let s1 ← get
    let st := s1.rplStatus c x (x.gr a)
    if st = 0 then
      let id := wordId (x.gr a)
      let n := match s1.region? id with
        | some r => r.journal.length
        | none => 0
      set ((s1.updRegion id (fun r => r.beginReplay c)).updCore c (fun y => { y with
        replay := some id, rplClear := false, rplIdx := 0, rplLen := BitVec.ofNat 16 n }))
    putReg c d (st.zeroExtend 64)
    pure .next)

/-- A replayed firing that faults: gd = 1 with its cause, and no effect. -/
def rplFault (c : Nat) (d : Reg) (cause : Byte) (addr : DWord) : Mach Flow := do
  modify (fun s => s.updCore c (fun y => { y with ecause := cause.zeroExtend 64, eaddr := addr }))
  putReg c d 1
  pure .next

/-- A packet that reproduces one already sent is discarded at once (R356). -/
def Region.dropSuppressed (r : Region) (now e : Nat) : Region :=
  match (r.elem e).stage with
  | some p => if p.suppressed then r.unstageElem now e p else r
  | none => r

/-- A sweep of an earlier cycle than that of the next replayed firing is over (R139): it has discarded what it names, also among the
logged arrivals that stand before that firing. -/
def State.replaySweep (s : State) (r : Region) (next : Nat) : State :=
  match r.sweep with
  | none => s
  | some _ =>
    let stays := fun (t : Token) => r.exits.all (fun x => sweepTok x t)
    s.endSweep { r with pend := r.pend.filter (fun p => match p.what with
      | .chan _ _ t => decide (next ≤ p.jidx) || stays t
      | .inbox _ _ k => decide (next ≤ p.jidx) || stays ⟨0, k.tag⟩
      | _ => true) } s.cyc

/-- The firing takes effect with what its access came to. It counts as of the cycle of the original run, so that what fired together
with a sweep is replayed before its discards. -/
def State.replayDone (s : State) (id : Nat) (j : JEntry) (el : Elem) (fx : List Fx) (acc : Option (AccSt × Option (Wide × Bool))) : State :=
  match s.region? id with
  | none => s
  | some r =>
    let n := r.serial
    let r1 := (r.firing j.cycle j.elem j.slot j.static el fx).dropSuppressed s.cyc j.elem
    let r2 : Region := match acc with
      | some (st, res) => { r1 with accs := r1.accs.map (fun a =>
          if a.serial = n then { a with st := st, result := res, inPort := false } else a) }
      | none => r1
    ((s.setRegion r2).deliver id n).replayCommit id 3

def fxAccess : List Fx → Option AccReq
  | [] => none
  | .access a :: _ => some a
  | _ :: t => fxAccess t

/-- The region whose replay goes on. -/
def replayRegionM (id : Nat) : Mach Region := do
  match (← get).region? id with
  | some r => pure r
  | none => raiseM Cause.rplState 0

/-- Before an unbuffered access every window of the replay has committed (R114, R152); any other access waits for its order: the fences,
acquires and vlds before it (R326, R335). A buffered store is ordered as its window commits. -/
def replayOrderM (id : Nat) (j : JEntry) (q : AccReq) : Mach Unit := do
  if q.kind.unbuffered then
    modify (fun s => (s.updRegion id Region.closeWindow).replayCommit id 3)
    if !(← replayRegionM id).wins.isEmpty then waitM
  let r ← replayRegionM id
  let s ← get
  if q.kind != .store && !s.ordered r (mkAcc r j.elem j.slot s.cyc q) then waitM

/-- A replayed firing that is ready. -/
def replayGoM (c : Nat) (d : Reg) (id idx : Nat) (j : JEntry) (el : Elem) (fx : List Fx) : Mach Flow := do
  let finish : Option (AccSt × Option (Wide × Bool)) → Mach Flow := fun acc => do
    modify (fun s1 => (s1.replayDone id j el fx acc).updCore c (fun y => { y with rplIdx := BitVec.ofNat 16 (idx + 1) }))
    putReg c d 0
    pure .next
  let r0 ← replayRegionM id
  match fxAccess fx with
  | none => finish none
  | some q =>
    if r0.applied.any (fun p => p.elem == j.elem && p.slot == j.slot) then finish none
    else
      replayOrderM id j q
      let s ← get
      let r ← replayRegionM id
      let a := mkAcc r j.elem j.slot s.cyc q
      let w : Who := { accWho r a with reader := .core c }
      match (accessM w a.kind.need a.va a.size).exec s with
      | (.error (.raise cause ad), s1) => do
        set s1
        rplFault c d cause ad
      | (.error (.isolate ad), s1) => do
        set s1
        rplFault c d Cause.isolationFreeze ad
      | (.error .wait, s1) => do
        set s1
        waitM
      | (.ok x, s1) => do
        set s1
        match (replayPerformM c w r a x).exec s1 with
        | (.ok (.done st res), s2) => do
          set s2
          finish (some (st, res))
        | (.ok (.fails cause ad), s2) => do
          set s2
          rplFault c d cause ad
        | (.ok (.applied v p), s2) => do
          set (s2.updRegion id (fun r4 => { r4 with applied := r4.applied ++ [⟨j.elem, j.slot, v, p⟩] }))
          rplFault c d Cause.remoteAppliedErr a.va
        | (.error (.raise cause ad), s2) => do
          set s2
          rplFault c d cause ad
        | (.error e, s2) => do
          set s2
          throw e

/-- RPL_STEP (R223, R357): the accesses of the core before it are performed first, as by fence.pkg. -/
def execRplStep (d a b : Reg) (s : State) : Host.Outcome State Fault Refusal :=
  let _ := (a, b)
  seqRun [] [d] 4 s (fun c x => do
    let some id := x.replay | raiseM Cause.rplState 0
    orderGate x
    drainGate x true
    let idx := x.rplIdx.toNat
    if x.rplLen.toNat ≤ idx then
      putReg c d 2
      pure .next
    else
      let todo := match (← replayRegionM id).replay with
        | some p => p.todo
        | none => []
      let j : JEntry := todo.getD idx ⟨0, 0, 0, false, 0⟩
      modify (fun s1 => s1.replayCommit id 3)
      let r0 ← replayRegionM id
      match r0.sweep with
      | some w => if w.start != j.cycle then modify (fun s1 => s1.replaySweep r0 idx)
      | none => pure ()
      let r1 ← replayRegionM id
      modify (fun s1 => s1.replayReady r1 idx)
      let r ← replayRegionM id
      -- a firing waits for an issue slot of its element's sector (R450)
      if !(← get).slotOpen (r.sector j.elem) then waitM
      match (← get).replayFire r.aged j with
      | .notReady =>
        -- a closing window that cannot commit yet holds the firing back (R351)
        if r.wins.any (fun w => w.closed) then waitM
        modify (fun s2 => s2.updCore c (fun y => { y with rplLen := y.rplIdx }))
        putReg c d 2
        pure .next
      | .raises cause => rplFault c d cause 0
      | .done el fx =>
        if r.windowsFull then waitM
        replayGoM c d id idx j el fx)

/-- The core's replay is over. -/
def CoreSt.noReplay (x : CoreSt) : CoreSt := { x with replay := none, rplClear := false }

/-- The region leaves the freeze as the last replayed firing left it: a sweep it fired is over, arrivals that it did not consume stay
pending. A save that waits for the region closes its window, so that it can commit (R358, R359). -/
def State.endReplay (s : State) (id : Nat) : State :=
  match s.region? id with
  | none => s
  | some r =>
    let s1 := s.replaySweep r 0
    s1.updRegion id (fun q =>
      let q1 : Region := { q with replay := none, frozen := none, log := if q.wins.isEmpty then [] else q.log }
      (if s.savePending r then q1.closeWindow else q1).settle s.cyc)

/-- RPL_END: the region fires from the state the last replayed firing left (R358). -/
def execRplEnd (d a b : Reg) (s : State) : Host.Outcome State Fault Refusal :=
  let _ := (d, a, b)
  seqRun [] [] 4 s (fun c x => do
    let some id := x.replay | raiseM Cause.rplState 0
    modify (fun s1 => (s1.endReplay id).updCore c CoreSt.noReplay)
    pure .next)

/-- Journal indices of arrivals count from the state that rpl.drop returns to. -/
def shiftPend (n : Nat) (l : List LogEntry) : List LogEntry :=
  l.map (fun p => if p.jidx = 4096 then p else { p with jidx := p.jidx - n })

/-- The windows of the replay are discarded as those of a freeze are. -/
def Region.dropReplay (r : Region) : Region :=
  match r.replay with
  | none => r
  | some p =>
    { r.rollback (r.frozen.getD .windowFault) with
      pend := r.log.drop r.firstSnap.logged ++ shiftPend p.committed r.pend
      journal := p.todo.drop p.committed
      replay := none }

/-- The region returns to its frozen state. -/
def State.dropReplay (s : State) (r : Region) : State :=
  match r.replay with
  | none => s
  | some p => ((s.withdraw r r.firstSnap.serial).setRegion r.dropReplay).updCore p.core CoreSt.noReplay

/-- RPL_DROP. -/
def execRplDrop (d a b : Reg) (s : State) : Host.Outcome State Fault Refusal :=
  let _ := (d, a, b)
  seqRun [] [] 4 s (fun _ x => do
    let some id := x.replay | raiseM Cause.rplState 0
    let s1 ← get
    let some r := s1.region? id | raiseM Cause.rplState 0
    set (s1.dropReplay r)
    pure .next)

end Sys2Proof.Machine
end

