-- ==== Sys2Proof/Machine/Mgmt.lean ====
section
/-!
DEFINITION. Mgmt.lean: the MGMT group of the Sceip core (R224, R225, R455), freeze and thaw of masters (R363), the termination of a
context (R43), tlb.inv (R307), the start of a sequencer program (R157), and results that arrive late (R154, R166, R177, R178).
-/
namespace Sys2Proof.Machine

/-- A MGMT instruction: a sector sequencer raises PRIV_FAULT. -/
def mgmtRun (reads writes : List Reg) (s : State) (m : Nat → CoreSt → Mach Flow) : Host.Outcome State Fault Refusal :=
  match s.act with
  | .core c =>
    if c != Config.sceip then .next (s.preciseFault c Cause.privFault 0)
    else seqRun reads writes 4 s m
  | _ => .next s

def mgmtArg {α : Type} : Mach α := raiseM Cause.mgmtArg 0

/-! ## Contexts -/

/-- Removes a context's entries from the chain tables of every die (R393): an entry's key names its context. -/
def State.chainDrop (s : State) (ctx : Nat) : State :=
  { s with chain := s.chain.filter (fun e => e.2.key.toNat / 2 ^ 42 != ctx) }

/-- CTX_TEN. -/
def execCtxTen (d a : Reg) (s : State) : Host.Outcome State Fault Refusal :=
  mgmtRun [d, a] [] s (fun _ x => do
    let n := (x.gr d).toNat
    let t := (x.gr a).toNat % 2 ^ 16
    if n = 0 || 63 < n || t = 0 then mgmtArg
    modify (fun s1 => ({ s1 with ctxs := AMap.set s1.ctxs n { s1.ctxOf n with tenant := t } }).chainDrop n)
    pure .next)

/-- CTX_ROOT. -/
def execCtxRoot (d a : Reg) (s : State) : Host.Outcome State Fault Refusal :=
  mgmtRun [d, a] [] s (fun _ x => do
    let n := (x.gr d).toNat
    let r := (x.gr a).toNat
    if 63 < n || r % 2048 != 0 || 2 ^ 40 ≤ r || !isNormal r then mgmtArg
    modify (fun s1 => { s1 with ctxs := AMap.set s1.ctxs n { s1.ctxOf n with root := some r } })
    pure .next)

/-! ## Termination of a context (R43, R225) -/

/-- Its islands and blend units forget what they held for a region. -/
def dropJobs (r : Region) : List DWord → State → State
  | [], s => s
  | w :: t, s =>
    dropJobs r t (if bindEp w = 3 then
        let k := islandKey (r.loc (bindElem w)) (bindOpnd w)
        let n := k / 8 % 1024
        if k / 8192 = 1 then { s with blendItems := s.blendItems.filter (fun b => b.master != masterRaster n) }
        else if k / 8192 = 3 then { s with blendItems := s.blendItems.filter (fun b => b.master != masterBlend n) }
        else s
      else s)

/-- The region is frozen and unloaded: its windows are discarded. -/
def State.killRegion (s : State) (r : Region) : State :=
  let s1 := match r.replay with
    | some p => s.updCore p.core CoreSt.noReplay
    | none => s
  let s2 := (dropJobs r r.binds s1).leave r
  { s2 with remoteReads := s2.remoteReads.filter (fun x => x.reader != .region r.id) }

/-- A core of the context stops for good; its outstanding commands and its accesses not yet performed are abandoned. -/
def CoreSt.kill (x : CoreSt) : CoreSt :=
  { x with
    run := .idle
    frozen := false
    pend := []
    held := []
    waitFrom := none
    woken := false
    stopAsked := false }

def CoreSt.leaveCtx (ctx : Nat) (x : CoreSt) : CoreSt :=
  { x with
    events := x.events.filter (fun e => e.ctx != ctx)
    starting := match x.starting with
      | some (n, _, _) => if n.toNat = ctx then none else x.starting
      | none => none }

def killCores (ctx : Nat) : AMap CoreSt → AMap CoreSt
  | [] => []
  | (c, x) :: t =>
    let y := x.leaveCtx ctx
    (c, if c != Config.sceip && y.ctx.toNat = ctx then y.kill else y) :: killCores ctx t

/-- The operation is the context's, or works on a region of it for the Sceip core. -/
def State.opOf (s : State) (ctx : Nat) (o : CfgOp) : Bool :=
  o.ctx == ctx || (o.st != .queued && (match s.region? (wordId o.word) with
    | some r => r.quads == wordQuads o.word && r.ctx == ctx
    | none => false))

def dropOps (ctx : Nat) : List CfgOp → State → State
  | [], s => s
  | o :: t, s =>
    dropOps ctx t (if s.opOf ctx o then
        let s1 : State := { s with cfgops := s.cfgops.filter (fun x => x.id != o.id) }
        let s2 := s1.endReads (.cfgop o.id)
        -- the Sceip core, which may command any region, learns that the region is gone (log entry 42)
        if o.core = Config.sceip then s2.putResult o.core o.pend (Cause.cfgRegion.zeroExtend 64) false else s2
      else s)

def killRays (ctx : Nat) : List Ray → State → State
  | [], s => s
  | x :: t, s => killRays ctx t (if x.ctx = ctx then s.endReads (.ray x.id) else s)

/-- The home of a queue end of the context cannot be told yet that the end goes (R442). -/
def State.ctxHeld (s : State) (ctx : Nat) : Bool := s.regions.any (fun r => r.ctx == ctx && s.endsHeld r)

/-- Termination: what the context had in flight is abandoned; what was performed stays performed. -/
def State.killCtx (s : State) (ctx : Nat) : State :=
  let s1 := (s.launches.filter (fun l => l.ctx == ctx)).foldl (fun t l => t.dropLaunch l.id) s
  let s2 := dropOps ctx s1.cfgops s1
  let s3 := (s2.streams.filter (fun t => t.ctx == ctx)).foldl (fun t x => t.streamGone x) s2
  let s4 := (s3.regions.filter (fun r => r.ctx == ctx)).foldl (fun t r => t.killRegion r) s3
  let s5 := killRays ctx s4.rays s4
  let gone := fun (c : Nat) => c != Config.sceip && (s5.core c).ctx.toNat == ctx && (s5.core c).run != .idle
  let s6 : State := { s5 with
    cores := killCores ctx s5.cores
    rays := s5.rays.filter (fun x => x.ctx != ctx)
    blendItems := s5.blendItems.filter (fun b => b.ctx != ctx)
    bushels := s5.bushels.map (fun p => (p.1, p.2.filter (fun e => e.ctx != ctx)))
    saved := s5.saved.filter (fun x => x.ctx != ctx)
    hostQs := s5.hostQs.map (fun p => (p.1, if p.2.ctx = ctx then { p.2 with frz := false } else p.2))
    remoteReads := s5.remoteReads.filter (fun x => match x.reader with
      | .core c => !gone c
      | _ => true)
    vldWaits := s5.vldWaits.filter (fun w => match w.owner with
      | .core c _ | .step c => !gone c
      | _ => true)
    vstQueue := s5.vstQueue.filter (fun w => match w.owner with
      | .core c _ | .step c => !gone c
      | _ => true) }
  -- entries that leave the cores' event queues make room for regions held back (R222)
  (s6.cores.foldl (fun t p => postHeld p.1 t.regions t) s6).chainDrop ctx

/-- CTX_KILL: gd is reserved until the context's outstanding requests to other packages are over. -/
def execCtxKill (d a : Reg) (s : State) : Host.Outcome State Fault Refusal :=
  mgmtRun [a] [d] s (fun c x => do
    let n := (x.gr a).toNat
    if n = 0 || 63 < n then mgmtArg
    let s1 ← get
    if s1.ctxHeld n then waitM
    let p : Pend := ⟨s1.nextId, d.toNat, .kill, 0, none, false, none, x.pc, s1.cyc, false⟩
    let k : Kill := ⟨n, c, s1.nextId⟩
    let s2 : State := { s1 with nextId := s1.nextId + 1, kills := s1.kills ++ [k] }
    set ((s2.killCtx n).updCore c (fun y => { y with pend := y.pend ++ [p] }))
    pure .next)

/-! ## Masters (R225, R363) -/

inductive Master where
  | region (r : Region)
  | core (c : Nat)
  | engine (r : Region)
  | queue (q : Nat)
  deriving DecidableEq, Repr

/-- The configuration a region word names exactly. -/
def State.wordRegion (s : State) (body : Nat) : Option Region := s.regions.find? (fun r => r.word.toNat == body)

def State.master (s : State) (w : DWord) : Option Master :=
  let v := w.toNat
  let body := v % 2 ^ 28
  let kind := v / 2 ^ 28
  if kind = 0 then (s.wordRegion body).map Master.region
  else if kind = 1 then (if body ≤ 255 then some (.core body) else none)
  else if kind = 2 then
    match s.wordRegion body with
    | some r => if r.binds.any (fun b => decide (2 ≤ bindEp b) && decide (bindEp b ≤ 5)) then some (.engine r) else none
    | none => none
  else if kind = 3 then (if body ≤ 4095 then some (.queue body) else none)
  else none

def frzRecord (mkind ctx mid loc : Nat) (pc : DWord) : FaultRec :=
  { cause := Cause.isolationFreeze, cls := 2, mkind := mkind, ctx := ctx, mid := mid, loc := loc, pc := pc }

/-- A region that is frozen already stays as it is, but a replay returns it to its frozen state. -/
def State.frzRegion (s : State) (r : Region) : State :=
  if r.frozen.isSome then
    ((s.dropReplay r).updRegion r.id (fun q => { q with frozen := some .mgmt })).record (frzRecord 0 r.ctx (midRegion r.word) (r.loc 0) 0)
  else s.freezeRegion r .mgmt ⟨r.serial, 0, 0, Cause.isolationFreeze, 0, s.cyc, false, false, none⟩ 2

/-- A core that runs stops before its instruction, which takes back what it waited for (R167, R363). -/
def State.frzCore (s : State) (c : Nat) : State :=
  let x := s.core c
  let y : CoreSt := if x.run = .running then
      { x with run := .stopped, frozen := true, epc := x.pc, waitFrom := none, woken := false }
    else { x with frozen := true }
  ((s.setCore c y).leaveInstr c).record (frzRecord 1 (s.coreCtx c) (midCore c) (coreSector c) x.pc)

/-- A host queue is frozen. The copy of its record in the event log names the sector that the queue signals (log entry 73). -/
def State.frzQueue (s : State) (q : Nat) : State :=
  let h := s.hostQ q
  (s.setHostQ q { h with frz := true, fetching := false, again := false }).record
    { frzRecord 3 h.ctx (midQueue q) 0 0 with srcIs := some (h.sema / 64 % 256) }

/-- The Sceip core waits while a region's unbuffered access is away, or while a core is inside a command. -/
def frzM (m : Master) : Mach Unit := do
  let s ← get
  match m with
  | .region r =>
    if r.frozen.isNone && r.awayUnbuffered then waitM
    set (s.frzRegion r)
  | .core c =>
    if s.inside c then waitM
    set (s.frzCore c)
  | .engine r => set ((s.setRegion { r with engineFrozen := true }).record (frzRecord 2 r.ctx (midEngine r.word) (r.loc 0) 0))
  | .queue q => set (s.frzQueue q)

/-- MST_FRZ. -/
def execMstFrz (d : Reg) (s : State) : Host.Outcome State Fault Refusal :=
  mgmtRun [d] [] s (fun _ x => do
    match (← get).master (x.gr d) with
    | some m => do
      frzM m
      pure .next
    | none => mgmtArg)

/-- A region runs from its rolled-back state (R358). -/
def State.thawRegion (s : State) (r : Region) : State :=
  if r.frozen.isNone then s
  else
    (s.dropReplay r).updRegion r.id (fun q => ({ q with frozen := none, journal := [], log := [] }).settle s.cyc)

def State.thawCore (s : State) (c : Nat) : State :=
  let x := s.core c
  if !x.frozen then s
  else if x.run = .stopped then s.setCore c { x with frozen := false, run := .running, pc := pcOf x.epc, stopAsked := false }
  else s.setCore c { x with frozen := false }

/-- COUNT becomes zero, F becomes HEAD, and a fetch follows (R433). -/
def State.thawQueue (s : State) (q : Nat) : State :=
  let h := s.hostQ q
  if !h.frz then s
  else
    let c := h.sema / 64 % 256
    let i := h.sema % 64
    let s1 := s.updCore c (fun x => { x with sema := x.sema.setIfInBounds i { x.sema.getD i {} with count := 0 } })
    let s2 := s1.setHostQ q { h with frz := false }
    if !h.en then s2
    else
      let s3 := s2.queueEnable q
      if (s3.hostQ q).en then s3.setHostQ q { s3.hostQ q with fetching := true } else s3

def State.thaw (s : State) (m : Master) : State :=
  match m with
  | .region r => s.thawRegion r
  | .core c => s.thawCore c
  | .engine r => s.setRegion { r with engineFrozen := false }
  | .queue q => s.thawQueue q

/-- MST_THAW: a master that is not frozen is left alone. -/
def execMstThaw (d : Reg) (s : State) : Host.Outcome State Fault Refusal :=
  mgmtRun [d] [] s (fun _ x => do
    match (← get).master (x.gr d) with
    | some m => do
      modify (fun s1 => s1.thaw m)
      pure .next
    | none => mgmtArg)

/-! ## Throttle, sensors, event log -/

def State.sector (s : State) (n : Nat) : SectorSt := AMap.getD s.sectors n {}
def State.updSector (s : State) (n : Nat) (f : SectorSt → SectorSt) : State := { s with sectors := AMap.set s.sectors n (f (s.sector n)) }
def throttleAll (k : Nat) : List Nat → State → State
  | [], s => s
  | n :: t, s => throttleAll k t (s.updSector n (fun x => { x with k := k }))

/-- THR_SET. -/
def execThrSet (d a : Reg) (s : State) : Host.Outcome State Fault Refusal :=
  mgmtRun [d, a] [] s (fun _ x => do
    let k := (x.gr a).toNat
    let v := (x.gr d).toNat
    if k = 0 || 8 < k then mgmtArg
    modify (throttleAll k (if v % 2 ^ 16 = 0xFFFF then List.range 256 else [v % 256]))
    pure .next)

/-- The reading of a sensor (R448). -/
def State.sensor (s : State) (n : Nat) : Option Nat :=
  if n < 0x100 then some (s.sector n).temp
  else if n < 0x200 then some (s.sector (n - 0x100)).droopsSeen.toNat
  else if n = 0x200 then some s.power
  else none

/-- SNSR_RD. -/
def execSnsrRd (d a : Reg) (s : State) : Host.Outcome State Fault Refusal :=
  mgmtRun [a] [d] s (fun c x => do
    match (← get).sensor (x.gr a).toNat with
    | some v => do
      putReg c d (BitVec.ofNat 64 v)
      pure .next
    | none => mgmtArg)

def wordsNat : List Nat → Nat
  | [] => 0
  | w :: ws => w % 2 ^ 64 + 2 ^ 64 * wordsNat ws

/-- EVL_PUT: the 32 bytes are copied, with the reserved-zero fields of the record zero (R4, R451; log entry 64). -/
def execEvlPut (d : Reg) (s : State) : Host.Outcome State Fault Refusal :=
  mgmtRun [d] [] s (fun c x => do
    let ws ← plainWordsM (whoCore (← get) c) (x.gr d) 4
    modify (fun s1 => s1.evlPut (BitVec.ofNat 256 (wordsNat ws)))
    pure .next)

/-! ## TLB_INV (R307) -/

/-- The page size with which an address is translated; one that no tile holds any more may have had any size. -/
def State.pageAt (s : State) (ctx : Nat) (va : DWord) : Nat :=
  match s.tlb.find? (fun e => e.ctx == ctx && decide (e.base ≤ va.toNat) && decide (va.toNat < e.base + e.size)) with
  | some e => e.size
  | none => 2 ^ 42

/-- Whether an access at `a` used one of the translations that tlb.inv names. -/
def State.invHits (s : State) (ctx : Nat) (va a : DWord) : Bool :=
  va == 0xFFFFFFFFFFFFFFFF || a.toNat / s.pageAt ctx a == va.toNat / s.pageAt ctx a

/-- Accesses translated before: of regions, of cores, writes on their way to other packages, and fragments that a blend unit still
holds. -/
def State.invWaits (s : State) (ctx : Nat) (va : DWord) : List (Nat × Nat) :=
  (s.regions.filter (fun r => r.ctx == ctx)).flatMap (fun r =>
    (r.accs.filter (fun a => a.xlat.isSome && s.invHits ctx va a.va)).map (fun a => (r.id, a.serial)))
  ++ s.cores.flatMap (fun p => if s.coreCtx p.1 == ctx then
      (p.2.pend.filter (fun q => q.isAccess && s.invHits ctx va q.addr)).map (fun q => (4096 + p.1, q.id))
      ++ (p.2.held.filter (fun h => s.invHits ctx va h.va)).map (fun h => (4096 + p.1, h.id)) else [])
  ++ (s.reqs.filter (fun q => q.kind.isWrite && q.ctx == ctx)).map (fun q => (8192, q.id))
  ++ (s.blendItems.filter (fun b => b.pixel.isSome && b.ctx == ctx && s.invHits ctx va b.va)).map (fun b => (8193, b.id))

def State.tlbInv (s : State) (ctx : Nat) (va : DWord) : State :=
  { s with tlb := s.tlb.filter (fun e => !(e.ctx == ctx && (va == 0xFFFFFFFFFFFFFFFF
      || (decide (e.base ≤ va.toNat) && decide (va.toNat < e.base + e.size))))) }

/-- TLB_INV: the first turn removes the translations; the core goes on at TLB_INVALIDATE_COMPLETE. -/
def execTlbInv (d a : Reg) (s : State) : Host.Outcome State Fault Refusal :=
  mgmtRun [d, a] [] s (fun c x => do
    let n := (x.gr d).toNat
    if 63 < n then mgmtArg
    let s1 ← get
    if !s1.invals.any (fun v => v.core == c) then
      let v : Inval := ⟨s1.nextId, n, x.gr a, c, s1.invWaits n (x.gr a)⟩
      set { (s1.tlbInv n (x.gr a)) with nextId := s1.nextId + 1, invals := s1.invals ++ [v] }
    waitM)

/-- An access is performed, or has faulted, or is gone. -/
def State.invDone (s : State) (p : Nat × Nat) : Bool :=
  if p.1 < 4096 then
    match s.region? p.1 with
    | none => true
    | some r =>
      match r.acc? p.2 with
      | none => true
      | some a => a.performed || (match a.st with
        | .failed _ _ => true
        | _ => false)
  else if p.1 < 8192 then
    !(s.core (p.1 - 4096)).pend.any (fun q => q.id == p.2 && q.result.isNone) && !(s.core (p.1 - 4096)).held.any (fun h => h.id == p.2)
      && !s.reqs.any (fun q => q.id == p.2)
  else if p.1 = 8193 then !s.blendItems.any (fun b => b.id == p.2)
  else !s.reqs.any (fun q => q.id == p.2)

/-- A tlb.inv of the context lets its paused streams retry (R190). -/
def retryStreams (ctx : Nat) (l : List Stream) : List Stream := l.map (fun t => if t.ctx = ctx then { t with retry := true } else t)

/-- TLB_INVALIDATE_COMPLETE. -/
def execTlbInvalidateComplete (inv : Nat) (s : State) : Host.Outcome State Fault Refusal :=
  match s.invals.find? (fun v => v.id == inv) with
  | none => .next s
  | some v =>
    if !v.waits.all s.invDone then .next s
    else
      let s1 : State := { s with
        invals := s.invals.filter (fun x => x.id != inv)
        streams := retryStreams v.ctx s.streams }
      .next (s1.retire v.core 4 .next)

/-! ## Starting and stopping sequencers -/

/-- SEQ_RUN: the old program ends; the new one starts once its streams and launches are over. -/
def execSeqRun (d a b : Reg) (s : State) : Host.Outcome State Fault Refusal :=
  mgmtRun [d, a, b] [] s (fun _ x => do
    if (x.gr b).toNat % 4 != 0 then mgmtArg
    let v := (x.gr a).toNat
    let k : BitVec 6 × DWord × DWord := (BitVec.ofNat 6 (v / 256), x.gr b, x.gr d)
    modify (fun s1 => (s1.updCore (v % 256) (fun y => { y with
      starting := some k, run := .idle, stopAsked := false, waitFrom := none, woken := false })).leaveInstr (v % 256))
    pure .next)

/-- The core right after the start of a program (R157). -/
def CoreSt.begin_ (x : CoreSt) (ctx : BitVec 6) (pc arg : DWord) (mcix : Word) : CoreSt :=
  { g := (Vector.replicate 32 0).set 1 arg
    ctx := ctx
    pc := pc
    mcix := mcix
    events := x.events
    stopAsked := x.stopAsked
    remoteWrites := x.remoteWrites.map (fun w => { w with past := true })
    held := x.held
    run := .running }

/-- SEQ_PROGRAM_START. -/
def execSeqProgramStart (core : Nat) (s : State) : Host.Outcome State Fault Refusal :=
  let x := s.core core
  match x.starting with
  | none => .next s
  | some (ctx, pc, arg) =>
    if x.frozen || s.downBays.contains (core / 64) || s.streams.any (fun t => t.core == core) || s.launches.any (fun l => l.core == core) then .next s
    else
      let s1 := match x.replay with
        | some id => (match s.region? id with
          | some r => s.dropReplay r
          | none => s)
        | none => s
      let s2 := if x.slotHeld then s1.releaseSlot core else s1
      .next (s2.updCore core (fun y => y.begin_ ctx pc arg (s2.mring (coreQuadrant core)).p))

/-- SEQ_STOP: takes effect at the sequencer's next boundary or in a wait. -/
def execSeqStop (d : Reg) (s : State) : Host.Outcome State Fault Refusal :=
  mgmtRun [d] [] s (fun _ x => do
    modify (fun s1 => s1.updCore ((x.gr d).toNat % 256) (fun y =>
      if y.run = .running || y.starting.isSome then { y with stopAsked := true } else y))
    pure .next)

/-- SEQ_RESUME: a frozen sequencer is released by mst.thaw alone. -/
def execSeqResume (d : Reg) (s : State) : Host.Outcome State Fault Refusal :=
  mgmtRun [d] [] s (fun _ x => do
    modify (fun s1 => s1.updCore ((x.gr d).toNat % 256) (fun y =>
      if y.run = .stopped && !y.frozen && y.starting.isNone then { y with run := .running, pc := pcOf y.epc, stopAsked := false } else y))
    pure .next)

/-! ## Results that arrive late (R166) -/

def CoreSt.unpend (x : CoreSt) (id : Nat) : CoreSt := { x with pend := x.pend.filter (fun p => p.id != id) }
def CoreSt.updPend (x : CoreSt) (id : Nat) (f : Pend → Pend) : CoreSt := { x with pend := x.pend.map (fun p => if p.id = id then f p else p) }

/-- The result enters its register, or marks it, and the reservation is cleared. -/
def State.giveResult (s : State) (c : Nat) (p : Pend) (v : DWord) (poison : Bool) : State :=
  s.updCore c (fun x =>
    let y := x.unpend p.id
    if poison then y.mark (BitVec.ofNat 5 p.reg) else y.wr (BitVec.ofNat 5 p.reg) v)

/-- A value as its kind of access delivers it. -/
def Pend.value (p : Pend) (v : Nat) : DWord :=
  match p.kind with
  | .load n sgn => extend n sgn (v % 2 ^ (8 * n))
  | .amo n => BitVec.ofNat 64 (v % 2 ^ (8 * n))
  | _ => BitVec.ofNat 64 v

/-- VERSION_GONE of a vld whose home lies in another package is precise: nothing was executed after it. -/
def State.vldGone (s : State) (c : Nat) (p : Pend) : State :=
  (s.updCore c (fun x => { x.unpend p.id with pc := p.pc })).preciseFault c Cause.versionGone p.addr

/-- REMOTE_APPLIED_ERR (R177): the sequencer stops; resumption does not perform the atomic again. -/
def State.appliedErr (s : State) (c : Nat) (p : Pend) (r : Reply) : State :=
  let s1 := s.giveResult c p (p.value r.data.toNat) (!r.oldSent)
  let x := s1.core c
  (s1.setCore c { x with
    run := .stopped, epc := x.pc, ecause := Cause.remoteAppliedErr.zeroExtend 64, eaddr := p.addr, waitFrom := none, woken := false }).record
    { cause := Cause.remoteAppliedErr, cls := 0, applied := true, oldv := r.oldSent, mkind := 1, ctx := s.coreCtx c, mid := midCore c
      addr := p.addr, loc := coreSector c, pc := p.pc, old := if r.oldSent then p.value r.data.toNat else 0 }

/-- A kill is done once no request of its context is under way to another package. -/
def State.killDone (s : State) (pend : Nat) : Bool :=
  s.kills.all (fun k => k.pend != pend || !s.reqs.any (fun q => q.ctx == k.ctx))

/-- A store or an atomic that another package refused raises PERM_FAULT (R201, R245) when its answer comes: the core stops before its
next instruction, and the record names the one that made the access. Where that program no longer runs an error record stands alone
(log entry 75). -/
def State.lateFault (s : State) (c ctx : Nat) (past : Bool) (va pc : DWord) : State :=
  let x := s.core c
  if past || x.run != .running then s.coreError c ctx Cause.permFault va pc
  else
    (s.setCore c { x with
      run := .stopped, epc := x.pc, ecause := Cause.permFault.zeroExtend 64, eaddr := va, waitFrom := none, woken := false }).record
      { cause := Cause.permFault, cls := 0, mkind := 1, ctx := s.coreCtx c, mid := midCore c, addr := va, loc := coreSector c, pc := pc }

def State.remoteResult (s : State) (c : Nat) (p : Pend) (q : Req) (reply : Reply) : State :=
  let s1 : State := { s with reqs := s.reqs.filter (fun x => x.id != q.id) }
  if p.kind = .vld && reply.version = 2 then
    (s.stillOpen q.id).updCore c (fun x => x.updPend p.id (fun y => { y with vldWait := some (q.addr / 8, q.data.extractLsb' 0 32) }))
  else if p.kind = .vld && reply.version = 1 then (if p.vldWait.isSome then s else s1.vldGone c p)
  else
    match p.kind with
    | .amo _ =>
      if reply.refused then (s1.updCore c (fun x => x.unpend p.id)).lateFault c q.ctx false p.addr p.pc
      else if reply.applied then s1.appliedErr c p reply else s1.giveResult c p (p.value reply.data.toNat) reply.poison
    | _ => s1.giveResult c p (p.value reply.data.toNat) reply.poison

/-- A held access leaves for another package under its own number; a package that no port reaches answers poison (R364, R442). -/
def State.askHeld (s : State) (c : Nat) (h : Held) : State :=
  let s1 := s.updCore c (fun x => { x with held := x.held.filter (fun g => g.id != h.id) })
  if !s.reachable (pkgOf h.pa) then
    let s2 := s1.linkLost h.ctx h.pa
    match (s.core c).pend.find? (fun q => q.id == h.id) with
    | some q => s2.giveResult c q 0 true
    | none => s2
  else
    (s1.sendAs h.id h.kind.request (.core c h.id) h.ctx h.pa h.size h.line).updCore c (fun x =>
      if h.kind = .store then { x with remoteWrites := x.remoteWrites ++ [⟨h.id, h.va, h.pc, false⟩] }
      else x.updPend h.id (fun p => { p with remote := true }))

/-- A held access is performed, or sent, once nothing it waits for is left; its value enters the register that waits for it. -/
def State.performHeld (s : State) (c : Nat) (h : Held) : State :=
  if !s.heldReady c h ((s.core c).held.takeWhile (fun g => g.id != h.id)) then s
  else if h.mt = 0 && !s.isLocal h.pa then s.askHeld c h
  else
    match (heldM (whoCore s c) h).exec s with
    | (.ok (v, p), s1) =>
      let s2 := s1.updCore c (fun x => { x with held := x.held.filter (fun g => g.id != h.id) })
      (match (s.core c).pend.find? (fun q => q.id == h.id) with
      | some q => s2.giveResult c q (q.value v) p
      | none => s2)
    | (.error _, _) => s

/-- SEQ_RESULT_ARRIVAL: a held access is performed, or a result that is known reaches its register. -/
def execSeqResultArrival (core id : Nat) (reply : Reply) (s : State) : Host.Outcome State Fault Refusal :=
  let mine := fun (q : Req) => q.completed && !q.kind.isWrite && q.owner == .core core id
  match (s.core core).held.find? (fun h => h.id == id) with
  | some h => .next (s.performHeld core h)
  | none =>
  match (s.core core).pend.find? (fun p => p.id == id) with
  | none => .next { s with reqs := s.reqs.filter (fun q => !mine q) }
  | some p =>
    match p.result with
    | some (v, poison) => .next (s.giveResult core p (p.value v.toNat) poison)
    | none =>
      if p.kind = .kill then
        .next (if s.killDone id then { s with kills := s.kills.filter (fun k => k.pend != id) }.giveResult core p 0 false else s)
      else
        match s.reqs.find? mine with
        | some q => .next (s.remoteResult core p q reply)
        | none => .next s

end Sys2Proof.Machine
end

