-- ==== Sys2Proof/Machine/Links.lean ====
section
/-!
DEFINITION. Links.lean: host queues, interrupts, CXL.mem and Agfel requests (R289, R430 to R443), and the links: answers, completions,
replays, failures and time-outs (R444 to R446, R364).
-/
namespace Sys2Proof.Machine

/-! ## Host queues (R432, R433) -/

/-- HOST_QUEUE_ENABLE: the host sets EN. -/
def execHostQueueEnable (queue : Nat) (s : State) : Host.Outcome State Fault Refusal :=
  if 4096 ≤ queue || (s.hostQ queue).en then .next s else .next (s.queueEnable queue)

/-- DOORBELL: the host writes DOORBELL. -/
def execDoorbell (queue : Nat) (s : State) : Host.Outcome State Fault Refusal :=
  .next (if queue < 4096 then s.doorbell queue else s)

/-- One record of a fetch: signalled from the queue's context, and F moves on. -/
def fetchRecordM (q : Nat) (v : RingView) : Mach Unit := do
  let s ← get
  let h := s.hostQ q
  let (_, len, kind) ← ringRecord (whoQueue s q) h.qcb v h.fetch.toNat
  if kind != 0xFF then
    if !s.semaReach h.ctx h.sema then throw (.isolate 0)
    modify (fun s1 => s1.semaNamed h.sema 1)
  modify (fun s1 => s1.setHostQ q { s1.hostQ q with fetch := h.fetch + BitVec.ofNat 64 len })

/-- The records from F to TAIL; F stays where a fetch ends or waits. -/
def fetchLoopM (q : Nat) (v : RingView) : Nat → Mach Unit
  | 0 => pure ()
  | n + 1 => do
    if ((← get).hostQ q).fetch.toNat != v.tail then
      fetchRecordM q v
      fetchLoopM q v n

def queueFetchM (q : Nat) : Mach Unit := do
  let s ← get
  let v ← ringView (whoQueue s q) (s.hostQ q).qcb
  fetchLoopM q v (v.tail - (s.hostQ q).fetch.toNat + 1)

/-- HOST_QUEUE_FETCH: a fetch, and with it the end of those that were merged into it. A signal into another context freezes the queue
(R195). -/
def execHostQueueFetch (queue : Nat) (s : State) : Host.Outcome State Fault Refusal :=
  let h := s.hostQ queue
  if !h.en then .next s
  else if h.enabling then .next (s.queueEnable queue)
  else if h.frz || !h.fetching then .next s
  else
    match (queueFetchM queue).exec s with
    | (.ok _, s1) => .next ((s1.setHostQ queue { s1.hostQ queue with fetching := h.again, again := false }).endReads (.island 9 queue))
    | (.error (.raise c a), s1) => .next ((s1.queueError queue c a).endReads (.island 9 queue))
    | (.error (.isolate _), s1) => .next ((s1.frzQueue queue).endReads (.island 9 queue))
    | (.error .wait, s1) => .next s1

/-! ## INTR (R434, R435) -/

/-- An earlier access of the storing sequencer is not yet performed at .sys. -/
def State.accessOpen (s : State) (core id : Nat) : Bool :=
  s.reqs.any (fun q => q.id == id) || (s.core core).held.any (fun h => h.id == id)
    || (s.core core).pend.any (fun p => p.id == id && p.result.isNone)

/-- INTR: the message is sent once the accesses before its store are performed. -/
def execIntr (msg : Nat) (s : State) : Host.Outcome State Fault Refusal :=
  match s.msgs[msg]? with
  | none => .next s
  | some m =>
    if m.waits.any (fun id => s.accessOpen m.core id) then .next s
    else .next ({ s with msgs := s.msgs.eraseIdx msg }.sendMsix m.vector)

/-! ## Requests from outside (R289, R436 to R438) -/

/-- A request of a size that the links carry, aligned to it. -/
def outerOk (q : OuterReq) : Bool := [1, 2, 4, 8, 16, 32, 64].contains q.size && q.addr % q.size == 0

/-- The enabled window that holds a host address: the lowest-numbered. -/
def State.windowOf (s : State) (a : Nat) : Option Hdm :=
  (List.range 64).findSome? (fun w =>
    let h := s.hdmW w
    if h.en && decide (h.hbase.toNat ≤ a) && decide (a < h.hbase.toNat + h.size * 2 ^ 28) then some h else none)

/-- Reads of a request that waits for another package are told apart from those of other commands by this reader. -/
def whoHost (h : Hdm) : Who := ⟨h.ctx, h.tbay, .host, 0, none, .island 8 0⟩

/-- A CXL.mem request: its data and whether they are poison. -/
def cxlM (h : Hdm) (va : DWord) (q : OuterReq) : Mach (Nat × Bool) := do
  let x ← accessM (whoHost h) (if q.write then .store else .load) va q.size
  let s ← get
  if !s.isLocal x.pa then
    if q.write then
      writeAtM (whoHost h) x (leBytes q.data.toNat q.size) .other
      pure (0, false)
    else remoteReadM (whoHost h) x.pa q.size
  else
    let pa := lowOf x.pa
    let s1 : State := if q.cache then { s with hostLines := NSet.insert s.hostLines (pa / 128) } else s
    if q.write then
      -- the host gives up the block's other line before the home rewrites it (R415, R438)
      if { s with hostLines := s.hostLines.filter (fun l => l != pa / 128) }.writeHeld pa q.size false then waitM
      set (s1.hostWrite pa (leBytes q.data.toNat q.size))
      pure (0, false)
    else
      set s1
      pure (leNat (s.hostRead pa q.size), s.poisonedAt pa q.size)

/-- CXL_MEM_REQUEST: while BOOTST is 1. -/
def execCxlMemRequest (req : OuterReq) (s : State) : Host.Outcome State Fault Refusal :=
  if s.bootst != 1 || !outerOk req then .next s
  else
    match s.windowOf req.addr with
    | none => .next (s.answer false req.addr .unsupported 0)
    | some h =>
      let va := h.vbase + BitVec.ofNat 64 (req.addr - h.hbase.toNat)
      match (cxlM h va req).exec s with
      | (.ok (v, p), s1) =>
        .next ((if p then s1.answer false req.addr .poison 0 else s1.answer false req.addr .value (BitVec.ofNat 512 v)).endReads (.island 8 0))
      | (.error (.raise c a), s1) =>
        let s2 := s1.record { cause := c, cls := 2, mkind := 4, ctx := h.ctx, addr := a }
        .next ((if req.write then s2.answer false req.addr .value 0 else s2.answer false req.addr .poison 0).endReads (.island 8 0))
      | (.error _, s1) => .next s1

/-! ### Requests of Agfel peers, through port n. None: the request cannot be performed yet, and stays outside. -/

def State.answerBytes (s : State) (n : Nat) (q : OuterReq) (v : Nat × Bool) : State :=
  if v.2 then s.answerPeer n q.addr .poison 0 else s.answerPeer n q.addr .value v.1

/-- A write of a peer: a block that is compressed is rewritten uncompressed first, and the host gives up the lines that changes (R415,
R438). -/
def State.peerWrite (s : State) (q : OuterReq) (v : Nat) : Option State :=
  if s.writeHeld q.addr q.size false then none else some (s.hostWrite q.addr (leBytes v q.size))

/-- A vld of a peer: the newest version is read as it is stored (R415). -/
def State.peerVld (s : State) (n pa : Nat) (v : Word) : Option State :=
  match s.judgeVld pa v with
  | .gone => some (s.answerPeer n pa .gone 0)
  | .value x p =>
    some (if p then s.answerPeer n pa .poison 0
      else if v = (s.vtag pa).newest then s.answerPeer n pa .newest (leNat (s.hostRead pa 8))
      else s.answerPeer n pa .value x.toNat)
  | .notYet =>
    if s.vldListFull pa then none
    else
      let w : VldWait := ⟨pa / 8, v, .peer n⟩
      some ({ s with vldWaits := s.vldWaits ++ [w] }.answerPeer n pa .waiting 0)

/-- A vst of a peer creates its version here, from an uncompressed block. -/
def State.peerCreate (s : State) (n pa : Nat) (v : DWord) : State :=
  ((s.uncompress (blockOf pa)).createVersion pa v).answerPeer n pa .value 0
/-- A vst of a peer that finds no free version, or finds another waiting, waits here, for 2^20 cycles (R147, R334, R337). -/
def State.peerVst (s : State) (n pa : Nat) (v : DWord) : Option State :=
  let w : PeerWait := ⟨s.nextId, n, pa, v, s.cyc⟩
  if s.vstHeld pa (.peer s.nextId) then
    some (({ s with nextId := s.nextId + 1, peerWaits := s.peerWaits ++ [w] }.vstJoin pa (.peer s.nextId)).answerPeer n pa .waiting 0)
  else if s.writeHeld pa 8 false then none
  else some (s.peerCreate n pa v)
/-- One that waits: its version is created, or it has stalled. -/
def State.peerVstAgain (s : State) (w : PeerWait) : State :=
  let s1 := { s with peerWaits := s.peerWaits.erase w }.vstGone w.addr (.peer w.id)
  if w.since + 2 ^ 20 < s.cyc then s1.answerPeer w.port w.addr .stall 0
  else if s.vstHeld w.addr (.peer w.id) || s.writeHeld w.addr 8 false then s
  else s1.peerCreate w.port w.addr w.value

/-- An atomic of a peer: operand in bits [63:0], new value of a compare-and-swap in bits [127:64]. A block is uncompressed only where the
atomic writes. -/
def State.peerAmo (s : State) (n : Nat) (k : AmoKind) (q : OuterReq) : Option State :=
  if s.poisonedAt q.addr q.size then some ((s.noteFrames q.addr q.size).answerPeer n q.addr .poison 0)
  else
    let old := s.fabNat q.addr q.size
    match amoResult k q.size old (q.data.toNat % 2 ^ 64) (q.data.toNat / 2 ^ 64 % 2 ^ 64) with
    | some v => (s.peerWrite q v).map (fun s1 => s1.answerPeer n q.addr .value old)
    | none => some ((s.noteFrames q.addr q.size).answerPeer n q.addr .value old)

/-- A peer binds or unbinds an end of a queue of this package (R242; the form of the message: log entry 61). -/
def State.peerBind (s : State) (n : Nat) (q : OuterReq) : State :=
  let w := q.data.toNat
  let out := bit w 1
  let rest := s.farEnds.filter (fun f => !(f.desc == q.addr && f.out == out))
  let new : FarEnd := ⟨q.addr, lowOf (bits w 127 64), 2 ^ bits w 12 8 * (if bit w 13 then 64 else 8), out, bits w 27 16⟩
  ({ s with farEnds := if bit w 0 then rest ++ [new] else rest }.markHere q.addr out (bits w 7 2) (bit w 0)).answerPeer n q.addr .value 0

/-- The line belongs to a barrier object or a bound queue: no plain store or atomic changes it (R201, R245). -/
def State.guarded (s : State) (q : OuterReq) : Bool :=
  s.touchesBarrier q.addr q.size || s.touchesQueue (q.addr + 2 ^ 40 * s.package.toNat) q.size

def State.peerRequest (s : State) (n : Nat) (op : PeerOp) (q : OuterReq) : Option State :=
  match op with
  | .load => some (s.answerBytes n q (leNat (s.hostRead q.addr q.size), s.poisonedAt q.addr q.size))
  | .store => if s.guarded q then some (s.answerPeer n q.addr .refused 0)
    else (s.peerWrite q q.data.toNat).map (fun s1 => s1.answerPeer n q.addr .value 0)
  | .record => (s.peerWrite q q.data.toNat).map (fun s1 => s1.answerPeer n q.addr .value 0)
  | .vld => s.peerVld n q.addr (q.data.extractLsb' 0 32)
  | .vst => s.peerVst n q.addr (q.data.extractLsb' 0 64)
  | .vrcl => some ((s.vrcl q.addr (q.data.extractLsb' 0 32)).answerPeer n q.addr .value 0)
  | .amo k => if s.guarded q then some (s.answerPeer n q.addr .refused 0) else s.peerAmo n k q
  | .harvest =>
    let (s1, b) := s.takeFrames (q.addr / 4096) 1
    some (s1.answerPeer n q.addr .value (if b then 1 else 0))
  | .mark => some ((s.markPoison q.addr q.size).answerPeer n q.addr .value 0)
  | .bind => some (s.peerBind n q)

/-- A request of a form that its operation has. -/
def peerOk (op : PeerOp) (q : OuterReq) : Bool :=
  match op with
  | .harvest => q.addr % 4096 == 0
  | .vld | .vst | .vrcl => q.size == 8 && q.addr % 8 == 0
  | .bind => q.size == 8 && q.addr % 64 == 0
  | .amo _ => (q.size == 4 || q.size == 8) && q.addr % q.size == 0
  | .load | .store | .record | .mark => outerOk q

/-- A vst of the same word and value that waits here already. -/
def State.peerWaiting (s : State) (op : PeerOp) (q : OuterReq) : Option PeerWait :=
  if op = .vst then s.peerWaits.find? (fun w => w.addr == q.addr && w.value == q.data.extractLsb' 0 64) else none

/-- AGFEL_PEER_REQUEST: `addr` is the package-physical address of a line of this package. An accepted flit has brought the request
(R444). A vst that waits here is looked at again. -/
def execAgfelPeerRequest (op : PeerOp) (req : OuterReq) (s : State) : Host.Outcome State Fault Refusal :=
  if s.bootst != 1 || !peerOk op req || !isNormal req.addr then .next s
  else
    match s.peerWaiting op req with
    | some w => .next (s.peerVstAgain w)
    | none =>
      match s.takePeer.bind (fun s1 => s1.peerRequest (s.peerPort.getD 0) op req) with
      | some s2 => .next s2
      | none => .next s

/-- BACK_INVALIDATE_RESPONSE: the host's copy of a line is gone (R438). -/
def execBackInvalidateResponse (line : Nat) (s : State) : Host.Outcome State Fault Refusal :=
  .next { s with hostLines := s.hostLines.filter (fun l => l != line) }

/-- AGFEL_ROUTE_MASK_WRITE: a mask that waited is applied once no request to the package is in flight (R442). -/
def execAgfelRouteMaskWrite (package : Nat) (mask : BitVec 16) (s : State) : Host.Outcome State Fault Refusal :=
  if AMap.find? s.newMasks package = some mask && !s.inFlightTo package then .next (s.writeMask package mask) else .next s

/-! ## Answers from other packages -/

/-- The record of a link that lost a request; its copy in the event log names the port (R451). -/
def State.linkRecord (s : State) (cause : Byte) (q : Req) : State :=
  s.record { cause := cause, cls := 2, mkind := 4, ctx := q.ctx, addr := BitVec.ofNat 64 q.addr, srcIs := some q.port }

/-- What a link that failed answers (R364). -/
def failedReply : Reply := ⟨0, true, 0, false, false, 0, false, 0⟩

/-- The answer as a command that reads again finds it: a version that is gone, the newest version, and an atomic that failed after its
effect, stand above every value. -/
def readAnswer (q : Req) (reply : Reply) : Nat × Bool :=
  let v := reply.data.toNat % 2 ^ (8 * q.size)
  if q.kind = .vld then
    (if reply.version = 1 then (goneMark, false) else if reply.version = 3 then (newestMark + v, reply.poison) else (v, reply.poison))
  else if q.kind = .atomic && reply.refused then (refusedMark, false)
  else if q.kind = .atomic && reply.applied then (2 ^ 256 + (if reply.oldSent then v else 0), !reply.oldSent)
  else if q.kind = .harvest then (reply.data.toNat % 2, reply.poison)
  else (v, reply.poison)

/-- The answer of a request that a command holds, by the request's number. -/
def State.tellRead (s : State) (q : Req) (v : Nat × Bool) : State :=
  { s with remoteReads := s.remoteReads.map (fun r => if r.req = q.id then { r with answer := some v } else r) }
def State.answerRead (s : State) (q : Req) (v : Nat × Bool) : State := (s.dropReq q.id).tellRead q v

/-- An answer reaches whoever asked. -/
def State.answerReq (s : State) (q : Req) (reply : Reply) : State :=
  match q.owner with
  | .region id n =>
    (match s.region? id with
    | some r => (match r.acc? n with
      | some a => s.answerAcc r a q reply
      | none => s.dropReq q.id)
    | none => s.dropReq q.id)
  | .core c id =>
    (match (s.core c).pend.find? (fun p => p.id == id && p.result.isNone) with
    | some p => s.remoteResult c p q reply
    | none => s.dropReq q.id)
  | _ => if q.kind = .vld && reply.version = 2 then s else s.answerRead q (readAnswer q reply)

/-- A write to another package is over: performed, or reported as not performed (R364, R446). -/
def State.writeOver (s : State) (q : Req) (done : Bool) : State :=
  let s0 := s.dropReq q.id
  let s1 := if done then s0 else s0.linkRecord Cause.linkReplay q
  match q.owner with
  | .core c _ => s1.updCore c (fun x => { x with remoteWrites := x.remoteWrites.filter (fun n => n.req != q.id) })
  | .region id n =>
    (match s1.region? id with
    | some r => (match r.acc? n with
      | some a => (match a.st with
        | .remote _ => s1.performed id a
        | _ => s1.pruneFences id)
      | none => s1.pruneFences id)
    | none => s1)
  | .stream _ => s1
  | .queue id inst => if done then s1.recordDone q id inst else s1
  | .other => s1.tellRead q (0, false)

/-- The home of a vst answers that its wait for a free version has exceeded 2^20 cycles: no version is created (R147, R178). -/
def State.vstStalled (s : State) (q : Req) : State :=
  if s.cyc ≤ q.since + 2 ^ 20 then s
  else
    match q.owner with
    | .region id n =>
      (match s.region? id with
      | some r => (match r.acc? n with
        | some a => s.stallVst r a
        | none => s.dropReq q.id)
      | none => s.dropReq q.id)
    | _ => s.answerRead q (0, true)

/-- The home did not perform a plain write, because its bytes are guarded there: it raises PERM_FAULT (R201, R245). Of a buffered store
whose window has committed an error record is left; it and a stream's record name the domain-physical address (log entry 75). -/
def State.writeRefused (s : State) (q : Req) : State :=
  let s1 := s.dropReq q.id
  let rec_ : FaultRec := { cause := Cause.permFault, cls := 2, mkind := 4, ctx := q.ctx, addr := BitVec.ofNat 64 q.addr }
  match q.owner with
  | .core c _ =>
    let s2 := s1.updCore c (fun x => { x with remoteWrites := x.remoteWrites.filter (fun n => n.req != q.id) })
    (match (s.core c).remoteWrites.find? (fun n => n.req == q.id) with
    | some n => s2.lateFault c q.ctx n.past n.va n.pc
    | none => s2.record rec_)
  | .region id n =>
    (match (s1.region? id).bind (fun r => (r.acc? n).map (fun a => (r, a))) with
    | some (r, a) => (match a.st with
      | .remote _ => s1.setRegion (r.setAcc { a with st := .failed Cause.permFault a.va })
      | _ => (s1.record rec_).pruneFences id)
    | none => (s1.record rec_).pruneFences id)
  | .stream id =>
    (match s1.stream? id with
    | some t => (match t.st with
      | .failed _ _ => s1
      | _ => s1.streamFail t Cause.permFault (BitVec.ofNat 64 q.addr))
    | none => s1.record rec_)
  | .queue _ _ => s1.record rec_
  | .other => if s1.remoteReads.any (fun r => r.req == q.id) then s1.tellRead q (refusedMark, false) else s1.record rec_

/-- WRITE_COMPLETION: what the accepted flit says of a write. -/
def execWriteCompletion (req : Nat) (performed : Bool) (s : State) : Host.Outcome State Fault Refusal :=
  match s.reqs.find? (fun q => q.id == req && q.completed && q.kind.isWrite) with
  | some q => .next (if performed then s.writeOver q true else if q.kind = .vst then s.vstStalled q else s.writeRefused q)
  | none => .next s

/-! ## Flits (R444 to R446): Agfel ports 0 to 15, and the die-to-die link of bay b as number 16 + b (log entry 49) -/

/-- A link carries flits. -/
def State.linkUp (s : State) (n : Nat) : Bool := if n < 16 then (s.aport n).up else decide (n < 20) && !(s.aport n).train

/-- A flit that is accepted acknowledges, in order, the flits sent before number `ack`: those that were replayed count in CORR (R443), and
what was acknowledged has its replays over (R446). -/
def APort.accept (p : APort) (ack : Nat) : APort :=
  let a := max p.acked (min ack p.sent)
  { p with
    accepted := p.accepted + 1
    acked := a
    corr := BitVec.ofNat 32 (min 0xFFFFFFFF (p.corr.toNat + (min p.replayTo a - p.acked)))
    replays := if p.acked < a then 0 else p.replays }

/-- A flit brings the answer to a request: that of an access or a write waits for the event that performs it. -/
def State.flitAnswer (s : State) (q : Req) (reply : Reply) : State :=
  let came : State := { s with reqs := s.reqs.map (fun x => if x.id = q.id then { x with completed := true } else x) }
  if q.kind = .vst && reply.version = 2 then s.tellRead q (vstWaits, false)
  else if q.kind.isWrite then came
  else
    match q.owner with
    | .region id n => if ((s.region? id).bind (fun r => r.acc? n)).isSome then came else s.dropReq q.id
    | .core c id => if (s.core c).pend.any (fun p => p.id == id && p.result.isNone) then came else s.dropReq q.id
    | _ => s.answerReq q reply

/-- FLIT_RECEIVE: in order; a sequence number accepted before is discarded. `reply.ack` is the acknowledgement that the flit carries. A flit of an
Agfel port that answers nothing brings a request of a peer. -/
def execFlitReceive (port seqno req : Nat) (reply : Reply) (s : State) : Host.Outcome State Fault Refusal :=
  let p := s.aport port
  if !s.linkUp port || seqno != p.accepted then .next s
  else if 16 ≤ port then .next (s.setAport port { p.accept reply.ack with replays := 0 })
  else
    let s1 := s.setAport port (p.accept reply.ack)
    match s1.reqs.find? (fun q => q.id == req && q.port == port) with
    | some q => .next (s1.flitAnswer q reply)
    | none => .next (s1.setAport port { p.accept reply.ack with peerIn := p.peerIn + 1 })

/-- R364 and R446 for the requests outstanding on a link. -/
def failReqs : List Req → State → State
  | [], s => s
  | q :: t, s =>
    failReqs t (if q.kind.isWrite then s.writeOver q false else (s.linkRecord Cause.linkReplay q).answerReq q failedReply)

/-! ### What is outstanding on a die-to-die link -/

/-- The bay of an agent that reads for a command. -/
def State.readerBay (s : State) : Reader → Nat
  | .core c => coreBay c
  | .launch id => match s.launches.find? (fun l => l.id == id) with
    | some l => coreBay l.core
    | none => 0
  | .ray id => match s.rays.find? (fun x => x.id == id) with
    | some x => x.here / 64
    | none => 0
  | .region id => id / 1024
  | .island kind n =>
    if kind = 0 then n / 64
    else if kind = 1 || kind = 3 then n / 16
    else if kind = 2 then n / 256
    else match s.streams.find? (fun t => t.id == n) with
      | some t => if kind = 10 then coreBay t.core else 0
      | none => 0
  | .cfgop _ | .part => 0

def State.reqBay (s : State) (q : Req) : Nat :=
  match q.owner with
  | .region id _ | .queue id _ => id / 1024
  | .core c _ => coreBay c
  | .stream id => s.readerBay (.island 10 id)
  | .other => match s.remoteReads.find? (fun r => r.req == q.id) with
    | some r => s.readerBay r.reader
    | none => 0

/-- Traffic between two bays passes the link of bay b. -/
def passes (b x y : Nat) : Bool := x != y && (x == b || y == b)

/-- The record of an access that a die-to-die link lost; its copy in the event log names the bay. -/
def State.dieRecord (s : State) (b ctx : Nat) (addr : Nat) : State :=
  s.record { cause := Cause.linkReplay, cls := 2, mkind := 4, ctx := ctx, addr := BitVec.ofNat 64 addr, srcIs := some b }

/-- The bay of an agent whose vld waits at a home slice. -/
def State.waiterBay (s : State) : VldOwner → Nat
  | .region id _ => id / 1024
  | .core c _ | .step c => coreBay c
  | .launch id => s.readerBay (.launch id)
  | .peer port => port / 4
def State.waitOn (s : State) (b : Nat) (w : VldWait) : Bool := passes b (s.waiterBay w.owner) (homeBay (w.word * 8))
/-- Of a vst, a peer is named by its number. -/
def State.vstOn (s : State) (b : Nat) (w : VstWait) : Bool :=
  passes b (match w.owner with
    | .peer n => ((s.peerWaits.find? (fun p => p.id == n)).map (fun p => p.port / 4)).getD b
    | o => s.waiterBay o) (homeBay (w.word * 8))
def State.heldOn (s : State) (b c : Nat) (h : Held) : Bool :=
  h.mt == 0 && s.isLocal h.pa && passes b (coreBay c) (homeBay (lowOf h.pa))
/-- An access of an element that has left its port: a load, or an unbuffered access whose turn has come (R114). -/
def State.accOn (s : State) (b : Nat) (r : Region) (a : Acc) : Bool :=
  let way := fun (x : Xlat) => x.mt == 0 && s.isLocal x.pa && passes b r.bay (homeBay (lowOf x.pa))
  match a.st with
  | .ready x => a.kind != .store && !a.inPort && way x
  | .waiting x | .refused x => way x
  | _ => false

/-- Something is outstanding on the die-to-die link of a bay: a flit of it is unacknowledged. -/
def State.dieBusy (s : State) (b : Nat) : Bool :=
  s.reqs.any (fun q => !q.completed && passes b (s.reqBay q) (q.port / 4)) || s.vldWaits.any (s.waitOn b) || s.vstQueue.any (s.vstOn b)
    || s.cores.any (fun p => p.2.held.any (s.heldOn b p.1)) || s.regions.any (fun r => r.accs.any (s.accOn b r))

/-- FLIT_REPLAY: from the oldest unacknowledged flit. -/
def execFlitReplay (port : Nat) (s : State) : Host.Outcome State Fault Refusal :=
  let p := s.aport port
  let open_ := if port < 16 then decide (p.acked < p.sent) else s.dieBusy (port - 16)
  if !s.linkUp port || !open_ || 8 ≤ p.replays then .next s
  else .next (s.setAport port { p with replays := p.replays + 1, replayTo := p.sent })

/-- A vld that waits at a home slice of another bay receives poison. -/
def State.vldLost (s : State) (b : Nat) (w : VldWait) : State :=
  let a := w.word * 8
  let s1 : State := { s with vldWaits := s.vldWaits.erase w }
  let asked := fun (r : Reader) => ({ s1 with remoteReads := s1.remoteReads ++ [⟨r, a, 0, 0, some (0, true)⟩] } : State)
  if !s.waitOn b w then s
  else
    match w.owner with
    | .region id n =>
      (match s.region? id with
      | some r => (s1.updRegion id (fun r1 => match r1.acc? n with
          | some x => r1.setAcc { x with st := .done, result := some (0, true) }
          | none => r1)).dieRecord b r.ctx a
      | none => s1)
    | .core c p =>
      (s1.updCore c (fun x => x.updPend p (fun y => { y with vldWait := none, result := some (0, true) }))).dieRecord b (s.coreCtx c) a
    | .step c => (asked (.core c)).dieRecord b (s.coreCtx c) a
    | .launch id => (asked (.launch id)).dieRecord b (((s.launch? id).map (fun l => l.ctx)).getD 0) a
    | .peer port => (s1.answerPeer port a .poison 0).evlWrite Cause.linkReplay 0 b (BitVec.ofNat 64 a) 0

/-- A vst of a core or a peer that waits at a home slice of another bay is not performed. -/
def State.vstFails (s : State) (b : Nat) (w : VstWait) : State :=
  let a := w.word * 8
  let s1 : State := { s with vstQueue := s.vstQueue.erase w }
  if !s.vstOn b w then s
  else
    match w.owner with
    | .step c => ({ s1 with remoteReads := s1.remoteReads ++ [⟨.core c, a, doneSize 8, 0, some (0, false)⟩] } : State).dieRecord b (s.coreCtx c) a
    | .peer n =>
      (match s.peerWaits.find? (fun p => p.id == n) with
      | some p => (({ s1 with peerWaits := s1.peerWaits.erase p } : State).answerPeer p.port a .poison 0).evlWrite Cause.linkReplay 0 b
          (BitVec.ofNat 64 a) 0
      | none => s1)
    | _ => s

/-- An atomic in flight may or may not have been applied at the home (R446): a free value says. -/
def State.maybeApply (s : State) (m : Mach (Nat × Bool)) : State :=
  let s1 : State := { s with freeNo := s.freeNo + 1 }
  if Config.lostApplied s.freeNo then (m.exec s1).2 else s1

/-- An access that a core holds: a load or an atomic receives poison, a store is not performed. -/
def State.heldLost (s : State) (b c : Nat) (h : Held) : State :=
  if !s.heldOn b c h then s
  else
    let s0 := match h.kind with
      | .amo _ => s.maybeApply (heldM (whoCore s c) h)
      | _ => s
    let s1 := (s0.updCore c (fun x => { x with held := x.held.filter (fun g => g.id != h.id) })).dieRecord b h.ctx h.pa
    match (s.core c).pend.find? (fun p => p.id == h.id) with
    | some p => s1.giveResult c p 0 true
    | none => s1

/-- An access of an element on its way: a load, a vld or an atomic receives poison, a write is reported as not performed. -/
def State.accLost (s : State) (b id : Nat) (a : Acc) : State :=
  match s.region? id, a.xlat with
  | some r, some x =>
    if !s.accOn b r a then s
    else
      let finish := fun (t : State) => (t.vstGone (lowOf x.pa) (.region id a.serial)).performed id
      match a.kind with
      | .load | .acquire | .vld => (s.setRegion (r.setAcc { a with st := .done, result := some (0, true) })).dieRecord b r.ctx x.pa
      | .amo k =>
        (finish (s.maybeApply (amoAtM x k a.size (a.data.extractLsb' 0 64).toNat a.new.toNat)) { a with result := some (0, true) }).dieRecord b r.ctx x.pa
      | _ => (finish s a).dieRecord b r.ctx x.pa
  | _, _ => s

/-- Everything outstanding on the die-to-die link of a bay fails as R364 has it. -/
def State.dieFails (s : State) (b : Nat) : State :=
  let s1 := failReqs (s.reqs.filter (fun q => !q.completed && passes b (s.reqBay q) (q.port / 4))) s
  let s2 := s1.vldWaits.foldl (fun t w => t.vldLost b w) s1
  let s3 := s2.vstQueue.foldl (fun t w => t.vstFails b w) s2
  let s4 := s3.cores.foldl (fun t p => p.2.held.foldl (fun u h => u.heldLost b p.1 h) t) s3
  s4.regions.foldl (fun t r => r.accs.foldl (fun u a => u.accLost b r.id a) t) s4

/-- LINK_DOWN: eight replays without acknowledgement. -/
def execLinkDown (port : Nat) (s : State) : Host.Outcome State Fault Refusal :=
  let p := s.aport port
  if !s.linkUp port || p.replays < 8 then .next s
  else
    let s1 := s.setAport port { p with up := false, train := true, rpl := 8, replays := 0, acked := p.sent }
    .next (if port < 16 then failReqs (s.reqs.filter (fun q => q.port == port && !q.completed)) s1 else s1.dieFails (port - 16))

/-- LINK_RETRAIN_COMPLETE: the link carries flits. -/
def execLinkRetrainComplete (port : Nat) (s : State) : Host.Outcome State Fault Refusal :=
  if port < 20 then .next (s.setAport port { s.aport port with up := true, train := false }) else .next s

/-- LINK_TIMEOUT: a load unanswered for 2^22 cycles. -/
def execLinkTimeout (req : Nat) (s : State) : Host.Outcome State Fault Refusal :=
  match s.reqs.find? (fun q => q.id == req && q.kind == .load && !q.completed) with
  | some q => .next (if s.cyc ≤ q.since + 2 ^ 22 then s else (s.linkRecord Cause.linkTimeout q).answerReq q failedReply)
  | none => .next s

end Sys2Proof.Machine
end

