-- ==== Sys2Proof/Machine/Manage.lean ====
section
/-!
DEFINITION. Manage.lean: errors that the part detects (R255, R256, R292), partition reset (R447), sensors and alerts (R448, R449), boot,
recovery and attestation (R452 to R454), and writes of the host to the device register space (R430).
-/
namespace Sys2Proof.Machine

/-! ## Uncorrectable errors in flight (R255, R256) -/

/-- The copies of a packet that wait in landing queues go with it. -/
def dropLanded (id : Nat) : AMap (List Landed) → State → State
  | [], s => s
  | (k, l) :: t, s =>
    dropLanded id t (if l.any (fun x => x.flight == id) then s.setLanding k (l.filter (fun x => x.flight != id)) else s)

/-- A packet in flight is discarded, in every copy; its credit returns once. -/
def State.dropFlight (s : State) (id : Nat) : State :=
  match s.flights.find? (fun f => f.id == id) with
  | none => s
  | some f => (dropLanded id s.landings { s with flights := s.flights.filter (fun x => x.id != id) }).payBack f

/-- Token n of a wire goes: those at its far end stand before those in flight. -/
def Wire.dropToken (w : Wire) (n : Nat) : Wire :=
  if n < w.buffer.length then { w with buffer := w.buffer.eraseIdx n } else { w with flight := w.flight.eraseIdx (n - w.buffer.length) }
def Wire.tokens (w : Wire) : Nat := w.buffer.length + w.flight.length

/-- The region of a context whose element has a link there. -/
def State.linkOwner (s : State) (ctx id e : Nat) : Option Region :=
  match s.region? id with
  | some r => if r.ctx = ctx && decide (e < 4 * r.quads) then some r else none
  | none => none
/-- What is bound at the far end of such a link. -/
def State.linkFar (s : State) (ctx id e : Nat) (side : Dir) : Option Far := (s.linkOwner ctx id e).map (fun r => r.far e side)

/-- Tokens on the link from a port or an island, and on the one out to it, as far as they have not been taken. -/
def State.inwardTokens (s : State) : Option Far → Nat
  | some (.port p) => (s.port p).fly.length
  | some (.island k) => (s.link k).fly.length
  | _ => 0
def State.outwardTokens (s : State) : Option Far → Nat
  | some (.port p) => (s.port p).toMem.length
  | some (.island k) => (s.link k).inq.length
  | _ => 0
def State.dropInward (s : State) (n : Nat) : Option Far → State
  | some (.port p) => s.updPort p (fun x => { x with fly := x.fly.eraseIdx n })
  | some (.island k) => s.updLink k (fun x => { x with fly := x.fly.eraseIdx n })
  | _ => s
def State.dropOutward (s : State) (n : Nat) : Option Far → State
  | some (.port p) => s.updPort p (fun x => { x with toMem := x.toMem.eraseIdx n })
  | some (.island k) => s.updLink k (fun x => { x with inq := x.inq.eraseIdx n })
  | _ => s

/-- What the error strikes is there, and belongs to the context. -/
def State.strikes (s : State) (ctx : Nat) : InFlight → Bool
  | .packet id => s.flights.any (fun f => f.id == id && headerCtx f.pkt.header == ctx)
  | .wire id e side n => (s.linkOwner ctx id e).any (fun r => decide (n < (s.wire (wireKey (r.loc e) side)).tokens))
  | .bypass id e side => (s.linkOwner ctx id e).any (fun r => (s.wire (wireKey (r.loc e) side)).bypass.isSome)
  | .inward id e side n => decide (n < s.inwardTokens (s.linkFar ctx id e side))
  | .outward id e side n => decide (n < s.outwardTokens (s.linkFar ctx id e side))
/-- It is discarded; the credit that a token held returns with it. -/
def State.discard (s : State) (ctx : Nat) : InFlight → State
  | .packet id => s.dropFlight id
  | .wire id e side n => match s.linkOwner ctx id e with
    | some r => s.updWire (wireKey (r.loc e) side) (fun w => w.dropToken n)
    | none => s
  | .bypass id e side => match s.linkOwner ctx id e with
    | some r => s.updWire (wireKey (r.loc e) side) (fun w => { w with bypass := none })
    | none => s
  | .inward id e side n => s.dropInward n (s.linkFar ctx id e side)
  | .outward id e side n => s.dropOutward n (s.linkFar ctx id e side)
/-- SRC of PAYLOAD_KILL: the sector of the element at whose link the error struck, or of the region that sent the packet (DEDUCED: R451
says only 'by cause'; log entry 73). -/
def State.strikeSector (s : State) : InFlight → Nat
  | .packet id => match s.flights.find? (fun f => f.id == id) with
    | some f => (match s.region? f.region with
      | some r => r.loc 0 / 64
      | none => 0)
    | none => 0
  | .wire id e _ _ | .bypass id e _ | .inward id e _ _ | .outward id e _ _ => match s.region? id with
    | some r => r.loc e / 64
    | none => 0

/-- PAYLOAD_KILL. -/
def execPayloadKill (ctx : Nat) (what : InFlight) (s : State) : Host.Outcome State Fault Refusal :=
  if !s.strikes ctx what || s.ctxHeld ctx then .next s
  else .next (((s.discard ctx what).killCtx ctx).record
    { cause := Cause.payloadKill, cls := 2, mkind := 4, ctx := ctx, srcIs := some (s.strikeSector what) })

/-- Contexts with a region or a program in a bay. -/
def State.ctxsIn (s : State) (bay : Nat) : List Nat :=
  (s.cores.filter (fun p => p.1 / 64 == bay && p.2.run != .idle)).foldl (fun l p => NSet.insert l p.2.ctx.toNat)
    ((s.regions.filter (fun r => r.bay == bay)).foldl (fun l r => NSet.insert l r.ctx) [])

/-- Landing queues of a bay are emptied; the packets' credits return. -/
def dropLandings (bay : Nat) : AMap (List Landed) → State → State
  | [], s => s
  | (k, l) :: t, s =>
    dropLandings bay t (if k / 16384 = bay then l.foldl (fun u x => u.returnCredit x.flight) (s.setLanding k []) else s)

/-- Copies on their way to a bay are discarded. -/
def dropCopies (bay : Nat) : List PacketFlight → State → State
  | [], s => s
  | f :: t, s =>
    let mine := f.dests.filter (fun d => d / 4096 == bay)
    let s1 : State := { s with flights := s.flights.map (fun x =>
      if x.id = f.id then { x with dests := x.dests.filter (fun d => d / 4096 != bay) } else x) }
    dropCopies bay t (mine.foldl (fun u _ => u.returnCredit f.id) s1)

/-- The element fabric, the switches and the packet network of a bay hold nothing; its chain table is invalid. Packets that the bay had
sent toward other bays go on, and are delivered (DESIGN CHOICE: R256 names those toward the bay alone; log entry 49). -/
def State.emptyBay (s : State) (bay : Nat) : State :=
  let s1 := dropCopies bay s.flights (dropLandings bay s.landings s)
  { s1 with
    wires := s1.wires.filter (fun p => p.1 / 16384 != bay)
    chain := s1.chain.filter (fun p => p.1 / 65536 != bay) }

def reportDown (bay : Nat) : List Nat → State → State
  | [], s => s
  | n :: t, s => reportDown bay t (s.record { cause := Cause.headerCorrupt, cls := 2, mkind := 4, ctx := n, srcIs := some bay })

/-- HEADER_CORRUPT. -/
def execHeaderCorrupt (bay : Nat) (s : State) : Host.Outcome State Fault Refusal :=
  if 4 ≤ bay || s.downBays.contains bay || (s.ctxsIn bay).any s.ctxHeld then .next s
  else
    let l := s.ctxsIn bay
    let s1 := (l.foldl (fun u n => u.killCtx n) s).emptyBay bay
    let s2 : State := { s1 with downBays := NSet.insert s1.downBays bay }
    .next (if l.isEmpty then s2.evlWrite Cause.headerCorrupt 0 bay 0 0 else reportDown bay l s2)

/-! ## Partition reset (R447) -/

def bayCores (bay : Nat) : List Nat := natsFrom (64 * bay) 64

/-- PRST_GO: the cores of the partition, and the multicast rings of their quadrants, take their reset state. -/
def execPrstGo (bay : Nat) (s : State) : Host.Outcome State Fault Refusal :=
  if !s.prstRun.contains bay then .next s
  else
    .next { s with
      cores := (bayCores bay).foldl AMap.erase s.cores
      mrings := s.mrings.filter (fun p => p.1 / 4 != bay)
      score := s.score.filter (fun e => e.sector / 64 != bay) }

/-- PARTITION_RESET_COMPLETE: the partition accepts configurations again; GO reads zero. -/
def execPartitionResetComplete (bay : Nat) (s : State) : Host.Outcome State Fault Refusal :=
  if !s.prstRun.contains bay || !(bayCores bay).all (fun c => s.core c == {}) then .next s
  else .next { s with prstRun := s.prstRun.filter (fun b => b != bay), downBays := s.downBays.filter (fun b => b != bay) }

/-! ## Errors in memory (R292) -/

/-- MEMORY_UNCORRECTABLE_ERROR: the 8 bytes are poisoned. Addresses from 2^40 on name scratchpads: cluster × 2^18 + offset. -/
def execMemoryUncorrectableError (addr : Nat) (s : State) : Host.Outcome State Fault Refusal :=
  if addr < 2 ^ 40 then .next (if isNormal addr then s.markPoison addr 1 else s)
  else if addr < 2 ^ 40 + 2 ^ 28 then .next { s with scratchPoison := NSet.insert s.scratchPoison ((addr - 2 ^ 40) / 8) }
  else .next s

/-- SOFT_CORRECTED: counted; every 4,096 of one source are logged (R451). -/
def execSoftCorrected (source : Nat) (s : State) : Host.Outcome State Fault Refusal :=
  let n := AMap.getD s.corrected source 0 + 1
  let s1 : State := { s with corrected := AMap.set s.corrected source n }
  .next (if n % 4096 = 0 then s1.evlWrite Cause.softCorrected 0 source (BitVec.ofNat 64 n) 0 else s1)

/-! ## Sensors (R448, R449) -/

def State.sceipSignal (s : State) (i : Nat) : State := s.semaAdd Config.sceip i 1

/-- The temperature of a sector: its reading, and the alert latch. -/
def State.readTemp (s : State) (n t : Nat) : State :=
  let x := s.sector n
  let hot := decide (s.talert.toNat % 2 ^ 16 < t)
  let cool := decide (t + s.thyst.toNat % 2 ^ 16 < s.talert.toNat % 2 ^ 16)
  let s1 := s.updSector n (fun y => { y with temp := t, armed := (x.armed && !hot) || (!x.armed && cool) })
  if x.armed && hot then (s1.evlWrite Cause.thermalAlert 0 n 0 (BitVec.ofNat 64 t)).sceipSignal 0 else s1

/-- New droop events of a sector. -/
def State.readDroops (s : State) (n : Nat) : State :=
  let x := s.sector n
  if x.droopsSeen = x.droops then s
  else
    ((s.updSector n (fun y => { y with droopsSeen := y.droops })).evlWrite Cause.droopAlert 0 n
      ((x.droops - x.droopsSeen).zeroExtend 64) (x.droops.zeroExtend 64)).sceipSignal 1

def refreshSectors (temps : List Nat) : List Nat → State → State
  | [], s => s
  | n :: t, s => refreshSectors temps t ((s.readTemp n (temps.getD n 0 % 2 ^ 16)).readDroops n)

/-- SENSOR_REFRESH: the first in one of the first 4,096 cycles, then every 4,096 cycles; time stops at a refresh that is due (log entry 51). -/
def execSensorRefresh (temps : List Nat) (power : Nat) (s : State) : Host.Outcome State Fault Refusal :=
  if s.lastRefresh = 0 && decide (1 ≤ s.cyc) || s.cyc = s.sensorDue then
    .next (refreshSectors temps (List.range 256) { s with power := power, lastRefresh := s.cyc })
  else .next s

/-- DROOP_EVENT. -/
def execDroopEvent (sector : Nat) (s : State) : Host.Outcome State Fault Refusal :=
  if 256 ≤ sector then .next s
  else .next (s.updSector sector (fun x =>
    { x with droops := if x.droops = 0xFFFFFFFF then x.droops else x.droops + 1, lastDroop := some s.cyc }))

/-! ## Boot (R452), attestation (R453, R454) and recovery -/

def setMasks : List (Nat × BitVec 16) → AMap (BitVec 16) → AMap (BitVec 16)
  | [], m => m
  | (p, v) :: t, m => setMasks t (if 4096 ≤ p then m else if v = 0 then AMap.erase m p else AMap.set m p v)

/-- The registers that a blob or a recovery image sets. -/
def State.bootRegs (s : State) (b : Settings) : State :=
  { s with
    talert := (b.talert.getD s.talert) &&& 0xFFFF
    thyst := (b.thyst.getD s.thyst) &&& 0xFFFF
    tstress := (b.tstress.getD s.tstress) &&& 0xFFFF
    masks := setMasks b.masks s.masks }

/-- The bytes that an image places, in normal memory. -/
def placeCells : List (Nat × Byte) → State → State
  | [], s => s
  | (a, b) :: t, s => placeCells t (if isNormal a then s.fabWrite a [b] else s)

/-- A firmware image runs: its bytes are in memory, ctx 0 has its root, and the Sceip core starts at its first pc (R452, R454; what the
bytes of an image mean is log entry 8). -/
def State.runImage (s : State) (image : List Byte) : State :=
  let f := Config.firmwareOf image
  let s1 := placeCells f.cells { s with
    fwImage := some image
    bootst := 1
    ctxs := AMap.set s.ctxs 0 { s.ctxOf 0 with root := f.root } }
  s1.setCore Config.sceip { CoreSt.sceipReset with pc := pcOf f.pc }

/-- PACKAGE_RESET: the state after reset, with the straps; the ROM verifies image and blob against the vendor key. Where both pass and
no recovery is strapped, the blob sets its registers and the image runs; otherwise the Sceip core stops in the recovery state (R452). The
schedule of the model goes on. -/
def execPackageReset (boot : BootInput) (s : State) : Host.Outcome State Fault Refusal :=
  let imageOk := ecdsaVerify Config.vendorKey boot.image boot.imageSig
  let blobOk := ecdsaVerify Config.vendorKey boot.blob boot.blobSig
  let t : State := { State.reset with
    turns := s.turns
    turnNo := s.turnNo
    freeNo := s.freeNo
    package := boot.package
    recovery := boot.recovery
    blobImage := if blobOk then some boot.blob else none }
  .next (if imageOk && blobOk && !boot.recovery then (t.bootRegs (Config.blobOf boot.blob)).runImage boot.image
    else { t with bootst := 2 }.setCore Config.sceip {})

/-- ATTGO: the host writes ATTGO. -/
def execAttgo (s : State) : Host.Outcome State Fault Refusal := .next s.attgo

/-- What an attestation signs: NONCE, FWHASH, BLOBHASH and the package number (R453); a hash reads as zeros where no image runs. -/
def hashBytes (image : Option (List Byte)) : List Byte :=
  match image with
  | some l => sha256 l
  | none => List.replicate 32 0
def State.attestBytes (s : State) : List Byte :=
  leBytes s.nonceHeld.toNat 32 ++ hashBytes s.fwImage ++ hashBytes s.blobImage ++ leBytes s.package.toNat 8

/-- ATTESTATION_COMPLETE: the signature of the captured nonce with the identity key. A secret number that gives no signature is
drawn again. -/
def execAttestationComplete (s : State) : Host.Outcome State Fault Refusal :=
  if s.attst != 1 then .next s
  else
    let t : State := { s with freeNo := s.freeNo + 1 }
    .next (match ecdsaSign identityD (Config.signNonce s.freeNo) s.attestBytes with
      | some v => { t with attst := 2, sig := v }
      | none => t)

/-- RCVGO: the host writes RCVGO. -/
def execRcvgo (s : State) : Host.Outcome State Fault Refusal := .next s.rcvgo

/-- The host lines that n bytes from an address lie in. -/
def linesOf (a n : Nat) : List Nat := (List.range ((a % 64 + n + 63) / 64)).map (fun i => a / 64 * 64 + 64 * i)

/-- RECOVERY_COMPLETE: the image at RCVADDR has been read in the host's memory, line by line (R439); one that passes its check runs, with
the registers it sets (R452), and one that fails is rejected (R454). -/
def execRecoveryComplete (boot : BootInput) (s : State) : Host.Outcome State Fault Refusal :=
  if !s.rcvRun then .next s
  else
    let s1 : State := { s with rcvRun := false, hostReads := s.hostReads ++ linesOf s.rcvaddr.toNat boot.image.length }
    .next (if ecdsaVerify Config.vendorKey boot.image boot.imageSig then
        (s1.bootRegs (Config.firmwareOf boot.image).settings).runImage boot.image
      else { s1 with bootst := 3 })

/-! ## The host's accesses of registers (R430) -/

/-- REGISTER_WRITE: an access of 4 or 8 bytes through BAR0, a read where no data comes with it, which is answered; or one of 4 bytes in the
part's configuration space, where this model has the MSI-X capability alone (R435; log entry 12). -/
def execRegisterWrite (addr size : Nat) (data : Option DWord) (s : State) : Host.Outcome State Fault Refusal :=
  if (size != 4 && size != 8) || addr % size != 0 then .next s
  else if addr = msixCap && size = 4 then
    .next (match data with
      | some v => s.writeMsixCtl v.toNat
      | none => s.answer false addr .register (BitVec.ofNat 512 s.msixCapWord))
  else if addr < 0xF000000000 || 0x10000000000 ≤ addr then .next s
  else
    .next (match data with
      | some v => s.devWrite .host addr size v.toNat
      | none => s.answer false addr .register (BitVec.ofNat 512 (s.devRead addr size)))

end Sys2Proof.Machine
end

