-- ==== Sys2Proof/Machine/SeqAlu.lean ====
section
/-!
DEFINITION. SeqAlu.lean: the integer instructions, immediates and branches of the sequencer (R170 to R172).
-/
namespace Sys2Proof.Machine

def flag64 (b : Bool) : DWord := if b then 1 else 0

/-- The result of ADD_I64 (R170). -/
def valAddI64 (a b : DWord) : DWord := a + b
/-- The result of SUB_I64 (R170). -/
def valSubI64 (a b : DWord) : DWord := a - b
/-- The result of MUL_I64 (R170). -/
def valMulI64 (a b : DWord) : DWord := a * b
/-- The result of MULH_I64 (R170). -/
def valMulhI64 (a b : DWord) : DWord := BitVec.ofInt 64 (a.toInt * b.toInt / 2 ^ 64)
/-- The result of MULH_U64 (R170). -/
def valMulhU64 (a b : DWord) : DWord := BitVec.ofNat 64 (a.toNat * b.toNat / 2 ^ 64)
/-- The result of DIV_I64 (R170). -/
def valDivI64 (a b : DWord) : DWord := if b = 0 then -1 else a.sdiv b
/-- The result of DIV_U64 (R170). -/
def valDivU64 (a b : DWord) : DWord := if b = 0 then -1 else a / b
/-- The result of REM_I64 (R170). -/
def valRemI64 (a b : DWord) : DWord := if b = 0 then a else a.srem b
/-- The result of REM_U64 (R170). -/
def valRemU64 (a b : DWord) : DWord := if b = 0 then a else a % b
/-- The result of SEQ_AND (R170). -/
def valSeqAnd (a b : DWord) : DWord := a &&& b
/-- The result of SEQ_OR (R170). -/
def valSeqOr (a b : DWord) : DWord := a ||| b
/-- The result of SEQ_XOR (R170). -/
def valSeqXor (a b : DWord) : DWord := a ^^^ b
/-- The result of SEQ_SHL (R170). -/
def valSeqShl (a b : DWord) : DWord := a <<< (b.toNat % 64)
/-- The result of SHR_U64 (R170). -/
def valShrU64 (a b : DWord) : DWord := a >>> (b.toNat % 64)
/-- The result of SHR_I64 (R170). -/
def valShrI64 (a b : DWord) : DWord := a.sshiftRight (b.toNat % 64)
/-- The result of SLT_I64 (R170). -/
def valSltI64 (a b : DWord) : DWord := flag64 (a.slt b)
/-- The result of SLT_U64 (R170). -/
def valSltU64 (a b : DWord) : DWord := flag64 (a.ult b)
/-- The result of MIN_I64 (R170). -/
def valMinI64 (a b : DWord) : DWord := if a.slt b then a else b
/-- The result of MAX_I64 (R170). -/
def valMaxI64 (a b : DWord) : DWord := if a.slt b then b else a
/-- The result of SEQ_ADD_I32 (R170). -/
def valSeqAddI32 (a b : DWord) : DWord := ((a + b).extractLsb' 0 32).signExtend 64
/-- ADD_I64 (R170). -/
def execAddI64 (d a b : Reg) (s : State) : Host.Outcome State Fault Refusal :=
  seqAlu [a, b] d (fun x => valAddI64 (x.gr a) (x.gr b)) s
/-- SUB_I64 (R170). -/
def execSubI64 (d a b : Reg) (s : State) : Host.Outcome State Fault Refusal :=
  seqAlu [a, b] d (fun x => valSubI64 (x.gr a) (x.gr b)) s
/-- MUL_I64 (R170). -/
def execMulI64 (d a b : Reg) (s : State) : Host.Outcome State Fault Refusal :=
  seqAlu [a, b] d (fun x => valMulI64 (x.gr a) (x.gr b)) s
/-- MULH_I64 (R170). -/
def execMulhI64 (d a b : Reg) (s : State) : Host.Outcome State Fault Refusal :=
  seqAlu [a, b] d (fun x => valMulhI64 (x.gr a) (x.gr b)) s
/-- MULH_U64 (R170). -/
def execMulhU64 (d a b : Reg) (s : State) : Host.Outcome State Fault Refusal :=
  seqAlu [a, b] d (fun x => valMulhU64 (x.gr a) (x.gr b)) s
/-- DIV_I64 (R170). -/
def execDivI64 (d a b : Reg) (s : State) : Host.Outcome State Fault Refusal :=
  seqAlu [a, b] d (fun x => valDivI64 (x.gr a) (x.gr b)) s
/-- DIV_U64 (R170). -/
def execDivU64 (d a b : Reg) (s : State) : Host.Outcome State Fault Refusal :=
  seqAlu [a, b] d (fun x => valDivU64 (x.gr a) (x.gr b)) s
/-- REM_I64 (R170). -/
def execRemI64 (d a b : Reg) (s : State) : Host.Outcome State Fault Refusal :=
  seqAlu [a, b] d (fun x => valRemI64 (x.gr a) (x.gr b)) s
/-- REM_U64 (R170). -/
def execRemU64 (d a b : Reg) (s : State) : Host.Outcome State Fault Refusal :=
  seqAlu [a, b] d (fun x => valRemU64 (x.gr a) (x.gr b)) s
/-- SEQ_AND (R170). -/
def execSeqAnd (d a b : Reg) (s : State) : Host.Outcome State Fault Refusal :=
  seqAlu [a, b] d (fun x => valSeqAnd (x.gr a) (x.gr b)) s
/-- SEQ_OR (R170). -/
def execSeqOr (d a b : Reg) (s : State) : Host.Outcome State Fault Refusal :=
  seqAlu [a, b] d (fun x => valSeqOr (x.gr a) (x.gr b)) s
/-- SEQ_XOR (R170). -/
def execSeqXor (d a b : Reg) (s : State) : Host.Outcome State Fault Refusal :=
  seqAlu [a, b] d (fun x => valSeqXor (x.gr a) (x.gr b)) s
/-- SEQ_SHL (R170). -/
def execSeqShl (d a b : Reg) (s : State) : Host.Outcome State Fault Refusal :=
  seqAlu [a, b] d (fun x => valSeqShl (x.gr a) (x.gr b)) s
/-- SHR_U64 (R170). -/
def execShrU64 (d a b : Reg) (s : State) : Host.Outcome State Fault Refusal :=
  seqAlu [a, b] d (fun x => valShrU64 (x.gr a) (x.gr b)) s
/-- SHR_I64 (R170). -/
def execShrI64 (d a b : Reg) (s : State) : Host.Outcome State Fault Refusal :=
  seqAlu [a, b] d (fun x => valShrI64 (x.gr a) (x.gr b)) s
/-- SLT_I64 (R170). -/
def execSltI64 (d a b : Reg) (s : State) : Host.Outcome State Fault Refusal :=
  seqAlu [a, b] d (fun x => valSltI64 (x.gr a) (x.gr b)) s
/-- SLT_U64 (R170). -/
def execSltU64 (d a b : Reg) (s : State) : Host.Outcome State Fault Refusal :=
  seqAlu [a, b] d (fun x => valSltU64 (x.gr a) (x.gr b)) s
/-- MIN_I64 (R170). -/
def execMinI64 (d a b : Reg) (s : State) : Host.Outcome State Fault Refusal :=
  seqAlu [a, b] d (fun x => valMinI64 (x.gr a) (x.gr b)) s
/-- MAX_I64 (R170). -/
def execMaxI64 (d a b : Reg) (s : State) : Host.Outcome State Fault Refusal :=
  seqAlu [a, b] d (fun x => valMaxI64 (x.gr a) (x.gr b)) s
/-- SEQ_ADD_I32 (R170). -/
def execSeqAddI32 (d a b : Reg) (s : State) : Host.Outcome State Fault Refusal :=
  seqAlu [a, b] d (fun x => valSeqAddI32 (x.gr a) (x.gr b)) s
/-- ADDI (R171). -/
def execAddi (d a : Reg) (i : BitVec 16) (s : State) : Host.Outcome State Fault Refusal :=
  seqAlu [a] d (fun x => x.gr a + sext16 i) s
/-- ANDI (R171). -/
def execAndi (d a : Reg) (i : BitVec 16) (s : State) : Host.Outcome State Fault Refusal :=
  seqAlu [a] d (fun x => x.gr a &&& zext16 i) s
/-- ORI (R171). -/
def execOri (d a : Reg) (i : BitVec 16) (s : State) : Host.Outcome State Fault Refusal :=
  seqAlu [a] d (fun x => x.gr a ||| zext16 i) s
/-- XORI (R171). -/
def execXori (d a : Reg) (i : BitVec 16) (s : State) : Host.Outcome State Fault Refusal :=
  seqAlu [a] d (fun x => x.gr a ^^^ zext16 i) s
/-- SLTI_I64 (R171). -/
def execSltiI64 (d a : Reg) (i : BitVec 16) (s : State) : Host.Outcome State Fault Refusal :=
  seqAlu [a] d (fun x => flag64 ((x.gr a).slt (sext16 i))) s
/-- SLTI_U64 (R171). -/
def execSltiU64 (d a : Reg) (i : BitVec 16) (s : State) : Host.Outcome State Fault Refusal :=
  seqAlu [a] d (fun x => flag64 ((x.gr a).ult (sext16 i))) s
/-- SHLI (R171). -/
def execShli (d a : Reg) (n : BitVec 6) (s : State) : Host.Outcome State Fault Refusal :=
  seqAlu [a] d (fun x => valSeqShl (x.gr a) (n.zeroExtend 64)) s
/-- SHRI_U64 (R171). -/
def execShriU64 (d a : Reg) (n : BitVec 6) (s : State) : Host.Outcome State Fault Refusal :=
  seqAlu [a] d (fun x => valShrU64 (x.gr a) (n.zeroExtend 64)) s
/-- SHRI_I64 (R171). -/
def execShriI64 (d a : Reg) (n : BitVec 6) (s : State) : Host.Outcome State Fault Refusal :=
  seqAlu [a] d (fun x => valShrI64 (x.gr a) (n.zeroExtend 64)) s
/-- MOVZ (R171). -/
def execMovz (d : Reg) (q : BitVec 2) (i : BitVec 16) (s : State) : Host.Outcome State Fault Refusal :=
  seqAlu [] d (fun _ => zext16 i <<< (16 * q.toNat)) s
/-- MOVK (R171): reads its destination. -/
def execMovk (d : Reg) (q : BitVec 2) (i : BitVec 16) (s : State) : Host.Outcome State Fault Refusal :=
  seqAlu [d] d (fun x => (x.gr d &&& ~~~((0xFFFF : DWord) <<< (16 * q.toNat))) ||| (zext16 i <<< (16 * q.toNat))) s
/-- JALR (R171): reads ga before it writes gd; a misaligned target raises MISALIGNED. -/
def execJalr (d a : Reg) (i : BitVec 16) (s : State) : Host.Outcome State Fault Refusal :=
  seqCtl [a] [d] s (fun c x =>
    let t := x.gr a + sext16 i
    if t.toNat % 4 != 0 then s.preciseFault c Cause.misaligned t
    else (s.setCore c (x.wr d (x.pc + 4))).retire c 4 (.to t))

/-! ## Branches (R172) -/

/-- A branch that is taken or falls through. -/
def seqBranch (reads : List Reg) (taken : CoreSt → Bool) (o : BitVec 21) (s : State) : Host.Outcome State Fault Refusal :=
  seqCtl reads [] s (fun c x => s.retire c 4 (if taken x then .to (branchTo x.pc o) else .next))

/-- BR. -/
def execBr (o : BitVec 21) (s : State) : Host.Outcome State Fault Refusal := seqBranch [] (fun _ => true) o s
/-- JAL. -/
def execJal (r : Reg) (o : BitVec 21) (s : State) : Host.Outcome State Fault Refusal :=
  seqCtl [] [r] s (fun c x => (s.setCore c (x.wr r (x.pc + 4))).retire c 4 (.to (branchTo x.pc o)))
/-- BZ. -/
def execBz (r : Reg) (o : BitVec 21) (s : State) : Host.Outcome State Fault Refusal := seqBranch [r] (fun x => x.gr r == 0) o s
/-- BNZ. -/
def execBnz (r : Reg) (o : BitVec 21) (s : State) : Host.Outcome State Fault Refusal := seqBranch [r] (fun x => x.gr r != 0) o s
/-- BLTZ. -/
def execBltz (r : Reg) (o : BitVec 21) (s : State) : Host.Outcome State Fault Refusal :=
  seqBranch [r] (fun x => (x.gr r).getLsbD 63) o s
/-- BGEZ. -/
def execBgez (r : Reg) (o : BitVec 21) (s : State) : Host.Outcome State Fault Refusal :=
  seqBranch [r] (fun x => !(x.gr r).getLsbD 63) o s

end Sys2Proof.Machine
end

