-- ==== Sys2Proof/Machine/SeqSync.lean ====
section
/-!
DEFINITION. SeqSync.lean: the sequencer's semaphores (R193 to R195) and transaction barriers (R197 to R202).
-/
namespace Sys2Proof.Machine

/-! ## Semaphores -/

/-- The count operand: g(RS)[31:0], or 1 when RS is g0 (R193). -/
def semaCount (x : CoreSt) (r : Reg) : Nat := if r = 0 then 1 else (x.gr r).toNat % 2 ^ 32

def CoreSt.sm (x : CoreSt) (i : BitVec 6) : Sema := x.sema.getD i.toNat {}
def CoreSt.setSm (x : CoreSt) (i : BitVec 6) (m : Sema) : CoreSt := { x with sema := x.sema.setIfInBounds i.toNat m }

/-- SEMA_SIG. -/
def execSemaSig (r : Reg) (_scope : BitVec 3) (i : BitVec 6) (s : State) : Host.Outcome State Fault Refusal :=
  seqRun [r] [] 4 s (fun c x => do
    orderGate x
    drainGate x true
    modify (fun s1 => s1.semaAdd c i.toNat (semaCount x r))
    pure .next)

/-- SEMA_SIG_R: a semaphore of a sequencer of another context freezes the sender (R195); the Sceip core may signal any. -/
def execSemaSigR (d r : Reg) (_scope : BitVec 3) (s : State) : Host.Outcome State Fault Refusal :=
  seqRun [d, r] [] 4 s (fun c x => do
    orderGate x
    drainGate x true
    let name := (x.gr d).toNat % 2 ^ 14
    let s1 ← get
    if c != Config.sceip && !s1.semaReach (s1.coreCtx c) name then throw (.isolate 0)
    set (s1.semaNamed name (semaCount x r))
    pure .next)

/-- Takes n from a semaphore: the core afterwards, or none while its count is lower. -/
def semaTake (x : CoreSt) (d : Reg) (i : BitVec 6) (n : Nat) : Option CoreSt :=
  let m := x.sm i
  if n ≤ m.count.toNat then
    some ((x.setSm i { m with count := m.count - BitVec.ofNat 32 n }).wr d (if m.e then 1 else 0))
  else none

/-- SEMA_ACQ. -/
def execSemaAcq (d r : Reg) (_scope : BitVec 3) (i : BitVec 6) (s : State) : Host.Outcome State Fault Refusal :=
  seqRun [r] [d] 4 s (fun c x => do
    orderGate x
    match semaTake x d i (semaCount x r) with
    | some y => do
      modify (fun s1 => s1.setCore c y)
      pure .next
    | none => waitM)

/-- SEMA_TRY. -/
def execSemaTry (d r : Reg) (_scope : BitVec 3) (i : BitVec 6) (s : State) : Host.Outcome State Fault Refusal :=
  seqRun [r] [d] 4 s (fun c x => do
    orderGate x
    modify (fun s1 => s1.setCore c ((semaTake x d i (semaCount x r)).getD (x.wr d 2)))
    pure .next)

/-- SEMA_SET: g0 gives 0. -/
def execSemaSet (r : Reg) (i : BitVec 6) (s : State) : Host.Outcome State Fault Refusal :=
  seqCtl [r] [] s (fun c x =>
    (s.setCore c (x.setSm i { count := (x.gr r).extractLsb' 0 32, e := false })).retire c 4 .next)

/-- SEMA_RD. -/
def execSemaRd (d : Reg) (i : BitVec 6) (s : State) : Host.Outcome State Fault Refusal :=
  seqAlu [] d (fun x => (x.sm i).count.zeroExtend 64 ||| (if (x.sm i).e then 0x100000000 else 0)) s

/-! ## Transaction barriers -/

/-- TBAR_INIT: GEN is kept and the object is marked (R197, R201). -/
def execTbarInit (a b : Reg) (_scope : BitVec 3) (s : State) : Host.Outcome State Fault Refusal :=
  seqRun [a, b] [] 4 s (fun c x => do
    orderGate x
    let n := (x.gr b).toNat
    let w := whoCore (← get) c
    let pa ← tbarObj w .atomic (x.gr a)
    if n % 2 ^ 16 = 0 || n / 2 ^ 31 != 0 then raiseM Cause.tbarRange (x.gr a)
    modify (fun s1 =>
      let t := s1.tbarAt pa
      let s2 := s1.putTbar pa { t with
        quota := n % 2 ^ 16, wsem := bits n 29 16, wen := bit n 30, arrv := 0, decl := 0, land := 0, poison := false, lastp := false
        ctx := w.ctx }
      { s2 with barriers := NSet.insert s2.barriers pa })
    pure .next)

/-- TBAR_ARR: gd is the phase arrived in. -/
def execTbarArr (d a b : Reg) (_scope : BitVec 3) (s : State) : Host.Outcome State Fault Refusal :=
  seqRun [a, b] [d] 4 s (fun c x => do
    orderGate x
    drainGate x true
    let n := (x.gr b).toNat
    let w := whoCore (← get) c
    let pa ← tbarMarked w .atomic (x.gr a)
    let s1 ← get
    let t := s1.tbarAt pa
    if n / 2 ^ 48 != 0 || t.badArrival (n % 2 ^ 16) (bits n 47 16) then raiseM Cause.tbarRange (x.gr a)
    set (s1.tbarArrive pa (n % 2 ^ 16) (bits n 47 16))
    putReg c d (BitVec.ofNat 64 t.gen)
    pure .next)

/-- TBAR_DECL. -/
def execTbarDecl (a b : Reg) (_scope : BitVec 3) (s : State) : Host.Outcome State Fault Refusal :=
  seqRun [a, b] [] 4 s (fun c x => do
    orderGate x
    let w := whoCore (← get) c
    let pa ← tbarMarked w .atomic (x.gr a)
    let s1 ← get
    if (s1.tbarAt pa).badArrival 0 (x.gr b).toNat && decide (2 ^ 64 ≤ (s1.tbarAt pa).decl + (x.gr b).toNat) then
      raiseM Cause.tbarRange (x.gr a)
    set (s1.tbarArrive pa 0 (x.gr b).toNat)
    pure .next)

/-- TBAR_WAIT. -/
def execTbarWait (d a b : Reg) (_scope : BitVec 3) (s : State) : Host.Outcome State Fault Refusal :=
  seqRun [a, b] [d] 4 s (fun c x => do
    orderGate x
    let w := whoCore (← get) c
    let pa ← tbarMarked w .load (x.gr a)
    match ((← get).tbarAt pa).status (x.gr b).toNat with
    | some v => do
      putReg c d (BitVec.ofNat 64 v)
      pure .next
    | none => waitM)

/-- TBAR_TEST. -/
def execTbarTest (d a b : Reg) (_scope : BitVec 3) (s : State) : Host.Outcome State Fault Refusal :=
  seqRun [a, b] [d] 4 s (fun c x => do
    orderGate x
    let w := whoCore (← get) c
    let pa ← tbarMarked w .load (x.gr a)
    putReg c d (BitVec.ofNat 64 ((((← get).tbarAt pa).status (x.gr b).toNat).getD 3))
    pure .next)

/-- TBAR_FINI. -/
def execTbarFini (a : Reg) (_scope : BitVec 3) (s : State) : Host.Outcome State Fault Refusal :=
  seqRun [a] [] 4 s (fun c x => do
    orderGate x
    let w := whoCore (← get) c
    let pa ← tbarMarked w .atomic (x.gr a)
    modify (fun s1 => { s1 with barriers := s1.barriers.filter (fun u => u != pa) })
    pure .next)

end Sys2Proof.Machine
end

