-- ==== Sys2Proof/Machine/Dispatch.lean ====
section
/-!
DEFINITION. Dispatch.lean: one arm per constructor of Instr, each a direct call of that instruction's meaning.
-/
namespace Sys2Proof.Machine

def exec (i : Instr) (s : State) : Host.Outcome State Fault Refusal :=
  match i with
  | .addI32 f => Sys2Proof.Machine.execAddI32 f s
  | .subI32 f => Sys2Proof.Machine.execSubI32 f s
  | .mulI32 f => Sys2Proof.Machine.execMulI32 f s
  | .mulhI32 f => Sys2Proof.Machine.execMulhI32 f s
  | .and f => Sys2Proof.Machine.execAnd f s
  | .or f => Sys2Proof.Machine.execOr f s
  | .xor f => Sys2Proof.Machine.execXor f s
  | .shl f => Sys2Proof.Machine.execShl f s
  | .shrU32 f => Sys2Proof.Machine.execShrU32 f s
  | .shrI32 f => Sys2Proof.Machine.execShrI32 f s
  | .minI32 f => Sys2Proof.Machine.execMinI32 f s
  | .maxI32 f => Sys2Proof.Machine.execMaxI32 f s
  | .mov f => Sys2Proof.Machine.execMov f s
  | .sel f => Sys2Proof.Machine.execSel f s
  | .addsatI32 f => Sys2Proof.Machine.execAddsatI32 f s
  | .subsatI32 f => Sys2Proof.Machine.execSubsatI32 f s
  | .absI32 f => Sys2Proof.Machine.execAbsI32 f s
  | .clz f => Sys2Proof.Machine.execClz f s
  | .popc f => Sys2Proof.Machine.execPopc f s
  | .cmpEq f => Sys2Proof.Machine.execCmpEq f s
  | .cmpLtI32 f => Sys2Proof.Machine.execCmpLtI32 f s
  | .cmpLtU32 f => Sys2Proof.Machine.execCmpLtU32 f s
  | .faddF32 f => Sys2Proof.Machine.execFaddF32 f s
  | .fsubF32 f => Sys2Proof.Machine.execFsubF32 f s
  | .fmulF32 f => Sys2Proof.Machine.execFmulF32 f s
  | .ffmaF32 f => Sys2Proof.Machine.execFfmaF32 f s
  | .fminF32 f => Sys2Proof.Machine.execFminF32 f s
  | .fmaxF32 f => Sys2Proof.Machine.execFmaxF32 f s
  | .fabsF32 f => Sys2Proof.Machine.execFabsF32 f s
  | .fnegF32 f => Sys2Proof.Machine.execFnegF32 f s
  | .fcmpEqF32 f => Sys2Proof.Machine.execFcmpEqF32 f s
  | .fcmpLtF32 f => Sys2Proof.Machine.execFcmpLtF32 f s
  | .fcmpLeF32 f => Sys2Proof.Machine.execFcmpLeF32 f s
  | .fdivF32 f => Sys2Proof.Machine.execFdivF32 f s
  | .fsqrtF32 f => Sys2Proof.Machine.execFsqrtF32 f s
  | .faddF16x2 f => Sys2Proof.Machine.execFaddF16x2 f s
  | .fmulF16x2 f => Sys2Proof.Machine.execFmulF16x2 f s
  | .ffmaF16x2 f => Sys2Proof.Machine.execFfmaF16x2 f s
  | .faddBf16x2 f => Sys2Proof.Machine.execFaddBf16x2 f s
  | .fmulBf16x2 f => Sys2Proof.Machine.execFmulBf16x2 f s
  | .ffmaBf16x2 f => Sys2Proof.Machine.execFfmaBf16x2 f s
  | .cvtF32I32 f => Sys2Proof.Machine.execCvtF32I32 f s
  | .cvtI32F32 f => Sys2Proof.Machine.execCvtI32F32 f s
  | .cvtF32F16 f => Sys2Proof.Machine.execCvtF32F16 f s
  | .cvtF32Bf16 f => Sys2Proof.Machine.execCvtF32Bf16 f s
  | .cvtF16F32 f => Sys2Proof.Machine.execCvtF16F32 f s
  | .cvtBf16F32 f => Sys2Proof.Machine.execCvtBf16F32 f s
  | .cvtE4m3F32 f => Sys2Proof.Machine.execCvtE4m3F32 f s
  | .cvtE5m2F32 f => Sys2Proof.Machine.execCvtE5m2F32 f s
  | .vaddI32 f => Sys2Proof.Machine.execVaddI32 f s
  | .vfaddF32 f => Sys2Proof.Machine.execVfaddF32 f s
  | .vfmulF32 f => Sys2Proof.Machine.execVfmulF32 f s
  | .vfmaF32 f => Sys2Proof.Machine.execVfmaF32 f s
  | .vfmaF16 f => Sys2Proof.Machine.execVfmaF16 f s
  | .vfmaBf16 f => Sys2Proof.Machine.execVfmaBf16 f s
  | .vbcast f => Sys2Proof.Machine.execVbcast f s
  | .vext f => Sys2Proof.Machine.execVext f s
  | .vins f => Sys2Proof.Machine.execVins f s
  | .vredsumF32 f => Sys2Proof.Machine.execVredsumF32 f s
  | .vredsumF16 f => Sys2Proof.Machine.execVredsumF16 f s
  | .vredmaxF32 f => Sys2Proof.Machine.execVredmaxF32 f s
  | .pwr f => Sys2Proof.Machine.execPwr f s
  | .prd f => Sys2Proof.Machine.execPrd f s
  | .steer f => Sys2Proof.Machine.execSteer f s
  | .merge f => Sys2Proof.Machine.execMerge f s
  | .rep f => Sys2Proof.Machine.execRep f s
  | .sweep f => Sys2Proof.Machine.execSweep f s
  | .stop f => Sys2Proof.Machine.execStop f s
  | .tagSet f => Sys2Proof.Machine.execTagSet f s
  | .tagGet f => Sys2Proof.Machine.execTagGet f s
  | .send f => Sys2Proof.Machine.execSend f s
  | .fin f => Sys2Proof.Machine.execFin f s
  | .ldB32 f => Sys2Proof.Machine.execLdB32 f s
  | .ldU8 f => Sys2Proof.Machine.execLdU8 f s
  | .ldW256 f => Sys2Proof.Machine.execLdW256 f s
  | .stB32 f => Sys2Proof.Machine.execStB32 f s
  | .stB8 f => Sys2Proof.Machine.execStB8 f s
  | .stW256 f => Sys2Proof.Machine.execStW256 f s
  | .vld f => Sys2Proof.Machine.execVld f s
  | .vst f => Sys2Proof.Machine.execVst f s
  | .vrcl f => Sys2Proof.Machine.execVrcl f s
  | .fence f => Sys2Proof.Machine.execFence f s
  | .amoAdd32 f => Sys2Proof.Machine.execAmoAdd32 f s
  | .amoAdd64 f => Sys2Proof.Machine.execAmoAdd64 f s
  | .amoMinI32 f => Sys2Proof.Machine.execAmoMinI32 f s
  | .amoMaxI32 f => Sys2Proof.Machine.execAmoMaxI32 f s
  | .amoAnd32 f => Sys2Proof.Machine.execAmoAnd32 f s
  | .amoOr32 f => Sys2Proof.Machine.execAmoOr32 f s
  | .amoXchg32 f => Sys2Proof.Machine.execAmoXchg32 f s
  | .amoCas32 f => Sys2Proof.Machine.execAmoCas32 f s
  | .amoCas64 f => Sys2Proof.Machine.execAmoCas64 f s
  | .amoFaddF32 f => Sys2Proof.Machine.execAmoFaddF32 f s
  | .staticOperation region elem => Sys2Proof.Machine.execStaticOperation region elem s
  | .addI64 d a b => Sys2Proof.Machine.execAddI64 d a b s
  | .subI64 d a b => Sys2Proof.Machine.execSubI64 d a b s
  | .mulI64 d a b => Sys2Proof.Machine.execMulI64 d a b s
  | .mulhI64 d a b => Sys2Proof.Machine.execMulhI64 d a b s
  | .mulhU64 d a b => Sys2Proof.Machine.execMulhU64 d a b s
  | .divI64 d a b => Sys2Proof.Machine.execDivI64 d a b s
  | .divU64 d a b => Sys2Proof.Machine.execDivU64 d a b s
  | .remI64 d a b => Sys2Proof.Machine.execRemI64 d a b s
  | .remU64 d a b => Sys2Proof.Machine.execRemU64 d a b s
  | .seqAnd d a b => Sys2Proof.Machine.execSeqAnd d a b s
  | .seqOr d a b => Sys2Proof.Machine.execSeqOr d a b s
  | .seqXor d a b => Sys2Proof.Machine.execSeqXor d a b s
  | .seqShl d a b => Sys2Proof.Machine.execSeqShl d a b s
  | .shrU64 d a b => Sys2Proof.Machine.execShrU64 d a b s
  | .shrI64 d a b => Sys2Proof.Machine.execShrI64 d a b s
  | .sltI64 d a b => Sys2Proof.Machine.execSltI64 d a b s
  | .sltU64 d a b => Sys2Proof.Machine.execSltU64 d a b s
  | .minI64 d a b => Sys2Proof.Machine.execMinI64 d a b s
  | .maxI64 d a b => Sys2Proof.Machine.execMaxI64 d a b s
  | .seqAddI32 d a b => Sys2Proof.Machine.execSeqAddI32 d a b s
  | .addi d a imm => Sys2Proof.Machine.execAddi d a imm s
  | .andi d a imm => Sys2Proof.Machine.execAndi d a imm s
  | .ori d a imm => Sys2Proof.Machine.execOri d a imm s
  | .xori d a imm => Sys2Proof.Machine.execXori d a imm s
  | .sltiI64 d a imm => Sys2Proof.Machine.execSltiI64 d a imm s
  | .sltiU64 d a imm => Sys2Proof.Machine.execSltiU64 d a imm s
  | .shli d a n => Sys2Proof.Machine.execShli d a n s
  | .shriU64 d a n => Sys2Proof.Machine.execShriU64 d a n s
  | .shriI64 d a n => Sys2Proof.Machine.execShriI64 d a n s
  | .movz d q imm => Sys2Proof.Machine.execMovz d q imm s
  | .movk d q imm => Sys2Proof.Machine.execMovk d q imm s
  | .jalr d a imm => Sys2Proof.Machine.execJalr d a imm s
  | .br o => Sys2Proof.Machine.execBr o s
  | .jal r o => Sys2Proof.Machine.execJal r o s
  | .bz r o => Sys2Proof.Machine.execBz r o s
  | .bnz r o => Sys2Proof.Machine.execBnz r o s
  | .bltz r o => Sys2Proof.Machine.execBltz r o s
  | .bgez r o => Sys2Proof.Machine.execBgez r o s
  | .seqLdU8 d a o => Sys2Proof.Machine.execSeqLdU8 d a o s
  | .ldI8 d a o => Sys2Proof.Machine.execLdI8 d a o s
  | .ldU16 d a o => Sys2Proof.Machine.execLdU16 d a o s
  | .ldI16 d a o => Sys2Proof.Machine.execLdI16 d a o s
  | .ldU32 d a o => Sys2Proof.Machine.execLdU32 d a o s
  | .ldI32 d a o => Sys2Proof.Machine.execLdI32 d a o s
  | .ldB64 d a o => Sys2Proof.Machine.execLdB64 d a o s
  | .seqStB8 d a o => Sys2Proof.Machine.execSeqStB8 d a o s
  | .stB16 d a o => Sys2Proof.Machine.execStB16 d a o s
  | .seqStB32 d a o => Sys2Proof.Machine.execSeqStB32 d a o s
  | .stB64 d a o => Sys2Proof.Machine.execStB64 d a o s
  | .seqAmoAdd32 d a b scope ord => Sys2Proof.Machine.execSeqAmoAdd32 d a b scope ord s
  | .seqAmoAdd64 d a b scope ord => Sys2Proof.Machine.execSeqAmoAdd64 d a b scope ord s
  | .amoAnd64 d a b scope ord => Sys2Proof.Machine.execAmoAnd64 d a b scope ord s
  | .amoOr64 d a b scope ord => Sys2Proof.Machine.execAmoOr64 d a b scope ord s
  | .amoXchg64 d a b scope ord => Sys2Proof.Machine.execAmoXchg64 d a b scope ord s
  | .amoMinI64 d a b scope ord => Sys2Proof.Machine.execAmoMinI64 d a b scope ord s
  | .amoMaxI64 d a b scope ord => Sys2Proof.Machine.execAmoMaxI64 d a b scope ord s
  | .seqAmoCas32 d a b scope ord => Sys2Proof.Machine.execSeqAmoCas32 d a b scope ord s
  | .seqAmoCas64 d a b scope ord => Sys2Proof.Machine.execSeqAmoCas64 d a b scope ord s
  | .seqLdB32Acq d a scope => Sys2Proof.Machine.execSeqLdB32Acq d a scope s
  | .ldB64Acq d a scope => Sys2Proof.Machine.execLdB64Acq d a scope s
  | .seqStB32Rel a b scope => Sys2Proof.Machine.execSeqStB32Rel a b scope s
  | .stB64Rel a b scope => Sys2Proof.Machine.execStB64Rel a b scope s
  | .seqVld d a b => Sys2Proof.Machine.execSeqVld d a b s
  | .seqVst a b => Sys2Proof.Machine.execSeqVst a b s
  | .seqVrcl a b => Sys2Proof.Machine.execSeqVrcl a b s
  | .seqFence scope => Sys2Proof.Machine.execSeqFence scope s
  | .strmLd ra rb port => Sys2Proof.Machine.execStrmLd ra rb port s
  | .strmSt ra rb port => Sys2Proof.Machine.execStrmSt ra rb port s
  | .strmCp ra rb rc => Sys2Proof.Machine.execStrmCp ra rb rc s
  | .memHrv ra rb => Sys2Proof.Machine.execMemHrv ra rb s
  | .semaSig r scope imm => Sys2Proof.Machine.execSemaSig r scope imm s
  | .semaSigR d r scope => Sys2Proof.Machine.execSemaSigR d r scope s
  | .semaAcq d r scope imm => Sys2Proof.Machine.execSemaAcq d r scope imm s
  | .semaTry d r scope imm => Sys2Proof.Machine.execSemaTry d r scope imm s
  | .semaSet r imm => Sys2Proof.Machine.execSemaSet r imm s
  | .semaRd d imm => Sys2Proof.Machine.execSemaRd d imm s
  | .tbarInit a b scope => Sys2Proof.Machine.execTbarInit a b scope s
  | .tbarArr d a b scope => Sys2Proof.Machine.execTbarArr d a b scope s
  | .tbarDecl a b scope => Sys2Proof.Machine.execTbarDecl a b scope s
  | .tbarWait d a b scope => Sys2Proof.Machine.execTbarWait d a b scope s
  | .tbarTest d a b scope => Sys2Proof.Machine.execTbarTest d a b scope s
  | .tbarFini a scope => Sys2Proof.Machine.execTbarFini a scope s
  | .lnch ra rb => Sys2Proof.Machine.execLnch ra rb s
  | .lnchInd ra rb => Sys2Proof.Machine.execLnchInd ra rb s
  | .cfgLd ra rb rc => Sys2Proof.Machine.execCfgLd ra rb rc s
  | .cfgSwp ra rb rc => Sys2Proof.Machine.execCfgSwp ra rb rc s
  | .cfgUnl ra rc => Sys2Proof.Machine.execCfgUnl ra rc s
  | .cfgSv ra rb rc => Sys2Proof.Machine.execCfgSv ra rb rc s
  | .cfgRst ra rb rc => Sys2Proof.Machine.execCfgRst ra rb rc s
  | .brngGet d a => Sys2Proof.Machine.execBrngGet d a s
  | .brngRel a => Sys2Proof.Machine.execBrngRel a s
  | .mringPut a b => Sys2Proof.Machine.execMringPut a b s
  | .mringGet d => Sys2Proof.Machine.execMringGet d s
  | .mringLd d a => Sys2Proof.Machine.execMringLd d a s
  | .mringRel => Sys2Proof.Machine.execMringRel s
  | .bqPush d a b y q => Sys2Proof.Machine.execBqPush d a b y q s
  | .bqPop d b y q => Sys2Proof.Machine.execBqPop d b y q s
  | .bqPopW d b y q => Sys2Proof.Machine.execBqPopW d b y q s
  | .bqCnt d y q => Sys2Proof.Machine.execBqCnt d y q s
  | .csrr d imm => Sys2Proof.Machine.execCsrr d imm s
  | .csrw a imm => Sys2Proof.Machine.execCsrw a imm s
  | .csrs a imm => Sys2Proof.Machine.execCsrs a imm s
  | .csrc a imm => Sys2Proof.Machine.execCsrc a imm s
  | .wait => Sys2Proof.Machine.execWait s
  | .halt => Sys2Proof.Machine.execHalt s
  | .trap imm => Sys2Proof.Machine.execTrap imm s
  | .eret => Sys2Proof.Machine.execEret s
  | .sbar => Sys2Proof.Machine.execSbar s
  | .rplBeg d a b => Sys2Proof.Machine.execRplBeg d a b s
  | .rplStep d a b => Sys2Proof.Machine.execRplStep d a b s
  | .rplEnd d a b => Sys2Proof.Machine.execRplEnd d a b s
  | .rplDrop d a b => Sys2Proof.Machine.execRplDrop d a b s
  | .ctxTen d a => Sys2Proof.Machine.execCtxTen d a s
  | .ctxRoot d a => Sys2Proof.Machine.execCtxRoot d a s
  | .ctxKill d a => Sys2Proof.Machine.execCtxKill d a s
  | .mstFrz d => Sys2Proof.Machine.execMstFrz d s
  | .mstThaw d => Sys2Proof.Machine.execMstThaw d s
  | .thrSet d a => Sys2Proof.Machine.execThrSet d a s
  | .snsrRd d a => Sys2Proof.Machine.execSnsrRd d a s
  | .evlPut d => Sys2Proof.Machine.execEvlPut d s
  | .tlbInv d a => Sys2Proof.Machine.execTlbInv d a s
  | .seqRun d a b => Sys2Proof.Machine.execSeqRun d a b s
  | .seqStop d => Sys2Proof.Machine.execSeqStop d s
  | .seqResume d => Sys2Proof.Machine.execSeqResume d s
  | .seqProgramStart core => Sys2Proof.Machine.execSeqProgramStart core s
  | .seqResultArrival core id reply => Sys2Proof.Machine.execSeqResultArrival core id reply s
  | .waitTimeout core => Sys2Proof.Machine.execWaitTimeout core s
  | .eventTake core => Sys2Proof.Machine.execEventTake core s
  | .configurationLoad op => Sys2Proof.Machine.execConfigurationLoad op s
  | .reconfigurationTokenPassage region => Sys2Proof.Machine.execReconfigurationTokenPassage region s
  | .configurationSave op => Sys2Proof.Machine.execConfigurationSave op s
  | .configurationRestore op => Sys2Proof.Machine.execConfigurationRestore op s
  | .launchJudgement launch reply => Sys2Proof.Machine.execLaunchJudgement launch reply s
  | .placementTake launch => Sys2Proof.Machine.execPlacementTake launch s
  | .unitStart launch => Sys2Proof.Machine.execUnitStart launch s
  | .unitCompletion region => Sys2Proof.Machine.execUnitCompletion region s
  | .launchCompletion launch => Sys2Proof.Machine.execLaunchCompletion launch s
  | .linkTokenArrival region elem side half => Sys2Proof.Machine.execLinkTokenArrival region elem side half s
  | .packetArrival move => Sys2Proof.Machine.execPacketArrival move s
  | .landingQueuePass loc inbox => Sys2Proof.Machine.execLandingQueuePass loc inbox s
  | .qoutRecordWrite region elem side reply => Sys2Proof.Machine.execQoutRecordWrite region elem side reply s
  | .qinRecordDeliver region elem side reply => Sys2Proof.Machine.execQinRecordDeliver region elem side reply s
  | .windowCommit region => Sys2Proof.Machine.execWindowCommit region s
  | .windowFaultDetect region => Sys2Proof.Machine.execWindowFaultDetect region s
  | .regionClockGate region => Sys2Proof.Machine.execRegionClockGate region s
  | .sweepComplete region => Sys2Proof.Machine.execSweepComplete region s
  | .tlbWalk region acc => Sys2Proof.Machine.execTlbWalk region acc s
  | .loadResponse region acc reply => Sys2Proof.Machine.execLoadResponse region acc reply s
  | .unbufferedAccessPerform region acc => Sys2Proof.Machine.execUnbufferedAccessPerform region acc s
  | .atomicPerform region acc reply => Sys2Proof.Machine.execAtomicPerform region acc reply s
  | .vldHomeJudge region acc reply => Sys2Proof.Machine.execVldHomeJudge region acc reply s
  | .vldResend region acc => Sys2Proof.Machine.execVldResend region acc s
  | .vstPerform region acc => Sys2Proof.Machine.execVstPerform region acc s
  | .versionStall region acc => Sys2Proof.Machine.execVersionStall region acc s
  | .vrclPerform region acc => Sys2Proof.Machine.execVrclPerform region acc s
  | .streamStart stream => Sys2Proof.Machine.execStreamStart stream s
  | .streamItemMove stream reply => Sys2Proof.Machine.execStreamItemMove stream reply s
  | .streamRetry stream => Sys2Proof.Machine.execStreamRetry stream s
  | .streamRetire stream => Sys2Proof.Machine.execStreamRetire stream s
  | .dirtyHarvest stream => Sys2Proof.Machine.execDirtyHarvest stream s
  | .tlbInvalidateComplete inv => Sys2Proof.Machine.execTlbInvalidateComplete inv s
  | .matrixChain region elem => Sys2Proof.Machine.execMatrixChain region elem s
  | .matrixEmit region elem => Sys2Proof.Machine.execMatrixEmit region elem s
  | .matrixToken region elem => Sys2Proof.Machine.execMatrixToken region elem s
  | .matrixBeat region elem => Sys2Proof.Machine.execMatrixBeat region elem s
  | .matrixClose region elem => Sys2Proof.Machine.execMatrixClose region elem s
  | .matrixOuter region elem => Sys2Proof.Machine.execMatrixOuter region elem s
  | .matrixBehind region elem => Sys2Proof.Machine.execMatrixBehind region elem s
  | .matrixFathom region elem => Sys2Proof.Machine.execMatrixFathom region elem s
  | .repeatNode region elem => Sys2Proof.Machine.execRepeatNode region elem s
  | .rayTake sector => Sys2Proof.Machine.execRayTake sector s
  | .candidateInvoke sector ray => Sys2Proof.Machine.execCandidateInvoke sector ray s
  | .verdictTake sector => Sys2Proof.Machine.execVerdictTake sector s
  | .rayMigration sector ray => Sys2Proof.Machine.execRayMigration sector ray s
  | .rayResult sector ray => Sys2Proof.Machine.execRayResult sector ray s
  | .traversalStopPass sector => Sys2Proof.Machine.execTraversalStopPass sector s
  | .drain sector => Sys2Proof.Machine.execDrain sector s
  | .ctinv sector => Sys2Proof.Machine.execCtinv sector s
  | .traversalUnknownCommand sector => Sys2Proof.Machine.execTraversalUnknownCommand sector s
  | .primitiveToken block => Sys2Proof.Machine.execPrimitiveToken block s
  | .tagClose slice item => Sys2Proof.Machine.execTagClose slice item s
  | .blendForward slice => Sys2Proof.Machine.execBlendForward slice s
  | .blendApplication slice item => Sys2Proof.Machine.execBlendApplication slice item s
  | .view block => Sys2Proof.Machine.execView block s
  | .clr block => Sys2Proof.Machine.execClr block s
  | .fbeg block => Sys2Proof.Machine.execFbeg block s
  | .rasterFence block => Sys2Proof.Machine.execRasterFence block s
  | .modes block => Sys2Proof.Machine.execModes block s
  | .dcmp block => Sys2Proof.Machine.execDcmp block s
  | .mload block => Sys2Proof.Machine.execMload block s
  | .rasterUnknownCommand block => Sys2Proof.Machine.execRasterUnknownCommand block s
  | .rasterStopPass block => Sys2Proof.Machine.execRasterStopPass block s
  | .isect cluster => Sys2Proof.Machine.execIsect cluster s
  | .union cluster => Sys2Proof.Machine.execUnion cluster s
  | .intersectUnknownCommand cluster => Sys2Proof.Machine.execIntersectUnknownCommand cluster s
  | .accumulatorPair cluster => Sys2Proof.Machine.execAccumulatorPair cluster s
  | .accumulatorPoison cluster => Sys2Proof.Machine.execAccumulatorPoison cluster s
  | .accumulatorFlush cluster => Sys2Proof.Machine.execAccumulatorFlush cluster s
  | .accumulatorStopPass cluster => Sys2Proof.Machine.execAccumulatorStopPass cluster s
  | .hostQueueEnable queue => Sys2Proof.Machine.execHostQueueEnable queue s
  | .doorbell queue => Sys2Proof.Machine.execDoorbell queue s
  | .hostQueueFetch queue => Sys2Proof.Machine.execHostQueueFetch queue s
  | .intr msg => Sys2Proof.Machine.execIntr msg s
  | .cxlMemRequest req => Sys2Proof.Machine.execCxlMemRequest req s
  | .agfelPeerRequest op req => Sys2Proof.Machine.execAgfelPeerRequest op req s
  | .agfelRouteMaskWrite package mask => Sys2Proof.Machine.execAgfelRouteMaskWrite package mask s
  | .flitReceive port seqno req reply => Sys2Proof.Machine.execFlitReceive port seqno req reply s
  | .flitReplay port => Sys2Proof.Machine.execFlitReplay port s
  | .linkDown port => Sys2Proof.Machine.execLinkDown port s
  | .linkRetrainComplete port => Sys2Proof.Machine.execLinkRetrainComplete port s
  | .linkTimeout req => Sys2Proof.Machine.execLinkTimeout req s
  | .payloadKill ctx what => Sys2Proof.Machine.execPayloadKill ctx what s
  | .headerCorrupt bay => Sys2Proof.Machine.execHeaderCorrupt bay s
  | .memoryUncorrectableError addr => Sys2Proof.Machine.execMemoryUncorrectableError addr s
  | .softCorrected source => Sys2Proof.Machine.execSoftCorrected source s
  | .sensorRefresh temps power => Sys2Proof.Machine.execSensorRefresh temps power s
  | .droopEvent sector => Sys2Proof.Machine.execDroopEvent sector s
  | .packageReset boot => Sys2Proof.Machine.execPackageReset boot s
  | .attgo => Sys2Proof.Machine.execAttgo s
  | .attestationComplete => Sys2Proof.Machine.execAttestationComplete s
  | .rcvgo => Sys2Proof.Machine.execRcvgo s
  | .recoveryComplete boot => Sys2Proof.Machine.execRecoveryComplete boot s
  | .prstGo bay => Sys2Proof.Machine.execPrstGo bay s
  | .partitionResetComplete bay => Sys2Proof.Machine.execPartitionResetComplete bay s
  | .registerWrite addr size data => Sys2Proof.Machine.execRegisterWrite addr size data s
  | .seqIllegalOp core => Sys2Proof.Machine.execSeqIllegalOp core s
  | .fetchFault core => Sys2Proof.Machine.execFetchFault core s
  | .writeCompletion req performed => Sys2Proof.Machine.execWriteCompletion req performed s
  | .consumedCopyUpdate region elem side reply => Sys2Proof.Machine.execConsumedCopyUpdate region elem side reply s
  | .backInvalidateResponse line => Sys2Proof.Machine.execBackInvalidateResponse line s

end Sys2Proof.Machine
end

