-- ==== Sys2Proof/Machine/Turn.lean ====
section
/-!
DEFINITION. Turn.lean: one turn of the part (R25, R93): which agent moves, what its turn executes, and the placing of a word where
the next step executes it.
-/
namespace Sys2Proof.Machine

/-! ## The schedule -/

/-- The next turn: the prescribed one, else a free one (log entry 1). -/
def State.nextTurn (s : State) : Turn :=
  match s.turns with
  | t :: _ => t
  | [] => Config.freeTurn s.turnNo

/-- Translations that the tiles still hold at a step (R299, log entry 2). -/
def keepTlb (no : Nat) : Nat → List TlbEntry → List TlbEntry
  | _, [] => []
  | k, e :: t => if Config.freeKeep no k then e :: keepTlb no (k + 1) t else keepTlb no (k + 1) t

/-- A turn begins: its cycles pass, a record that waited is tried again (R366), and its actor acts. -/
def State.begin_ (s : State) (t : Turn) (a : Acting) : State :=
  let s1 : State := { s with turns := s.turns.drop 1, turnNo := s.turnNo + 1, act := a, defer := t.defer, tlb := keepTlb s.turnNo 0 s.tlb }
  (s1.passTime t.wait).pumpRecord

/-! ## A core's turn (R156 to R168, R222, R225). The events that end a turn are called as exec calls them. -/

/-- The instruction at pc, or what stops its fetch. -/
def coreFetches (c : Nat) (s : State) : Host.Outcome State Fault Refusal :=
  match s.fetch c with
  | (.error .wait, s1) => .next s1
  | (.error _, _) => execFetchFault c s
  | (.ok (.rejected _), _) => execSeqIllegalOp c s
  | (.ok (.instr i _), s1) => exec i s1

/-- A core's turn. An event is taken at an instruction boundary or in a wait, not inside a command that waits for another package. -/
def coreTurn (c : Nat) (s : State) : Host.Outcome State Fault Refusal :=
  if Config.sceip < c then .fault .noSuchAgent
  else if (s.core c).starting.isSome then execSeqProgramStart c s
  else if (s.core c).stopAsked && !s.inside c then .next (s.stopCore c)
  else if !s.coreRuns c then .next s
  else if (s.eventReady c).isSome && !s.inside c then execEventTake c s
  else coreFetches c s

/-! ## An element's turn (R84, R85, R265) -/

/-- The slot that a turn of an element gives. -/
def elemSlot (s : State) (r : Region) (e : Nat) : Option Nat :=
  if s.triggeredFires r e then selectSlot s r e (claimsUpTo s r e) else none

def elemTurn (id e : Nat) (s : State) : Host.Outcome State Fault Refusal :=
  if 4096 ≤ id then .fault .noSuchAgent
  else
    match s.region? id with
    | none => .next s
    | some r =>
      if 4 * r.quads ≤ e then .fault .noSuchAgent
      else if (r.elem e).isMatrix then .next s
      else if (r.elem e).isStatic then execStaticOperation id e s
      else
        match elemSlot s r e with
        | none => .next s
        | some n =>
          match elemInstr ((r.elem e).slots.getD n 0) with
          | none => .next s
          | some i => exec i { s with act := .elem id e n }

/-! ## A turn -/

/-- Events of the part are the constructors that no instruction word encodes. -/
def isEvent (i : Instr) : Bool := (encode i).isEmpty

def takeTurn (s : State) : Host.Outcome State Fault Refusal :=
  let t := s.nextTurn
  match t.actor with
  | .core c => coreTurn c (s.begin_ t (.core c))
  | .element id e => elemTurn id e (s.begin_ t (.elem id e 0))
  | .event i => if isEvent i then exec i (s.begin_ t .nobody) else .fault .noSuchAgent

/-! ## Placing a word -/

/-- Root of the table that maps the first 64 GiB of ctx 0 onto themselves. -/
def placeRoot : Nat := 0x1000000

/-- Two pointer entries and one leaf of 64 GiB with R, W, X and A. -/
def placeTable (m : List Host.Cell) : List Host.Cell :=
  let m1 := Mem.writeList m placeRoot (leBytes (placeRoot + 0x800 + 1) 8)
  let m2 := Mem.writeList m1 (placeRoot + 0x800) (leBytes (placeRoot + 0x1000 + 1) 8)
  Mem.writeList m2 (placeRoot + 0x1000) (leBytes 0x5F3 8)

/-- A token that an operand of a placed element word may take, and a packet of two words. -/
def placeIn (now : Nat) : InCh := { q := [.tok ⟨⟨0, 0⟩, now, 0⟩, .tok ⟨⟨0, 0⟩, now, 0⟩] }
def placeBox (now : Nat) : List InboxEntry := [⟨⟨0, 0, 0, true, 0⟩, 0, now⟩]

/-- An element that holds the word in slot 0 with a free trigger, a token on every input channel and a packet in every inbox. -/
def placeElem (now : Nat) (w : Word) : Elem :=
  { slots := (Vector.replicate 32 0).set 0 w
    inc := Vector.replicate 4 (placeIn now)
    inbox := Vector.replicate 4 (placeBox now)
    started := true }

def placeRegion (now : Nat) (w : Word) : Region where
  id := 0
  quads := 1
  ctx := 0
  image := 0
  byCfg := true
  rtab := Vector.replicate 128 0
  elems := [(0, placeElem now w)]
  cred := []
  dead := []

/-- A sequencer word goes to pc of the Sceip core, whose turn is next. -/
def placeCoreWord (s : State) (w : Nat) : State :=
  { s with
    turns := { wait := 0, actor := .core Config.sceip } :: s.turns
    ctxs := AMap.set s.ctxs 0 { s.ctxOf 0 with root := some placeRoot }
    mem := placeTable (Mem.writeList s.mem (s.core Config.sceip).pc.toNat (leBytes w 8)) }

/-- A word of 32 bits that is an element word goes into a region of one quad, whose element's turn is next. -/
def placeFetchWord (s : State) (nbits w : Nat) : State :=
  let word := BitVec.ofNat 32 w
  match decodeElem word with
  | .instr _ _ =>
    if nbits = 32 then
      { s with
        turns := { wait := 1, actor := .element 0 0 } :: s.turns
        lastRefresh := max s.lastRefresh (s.cyc - 4095)
        regions := insertRegion s.regions (placeRegion s.cyc word) }
    else placeCoreWord s w
  | .rejected _ => placeCoreWord s w

end Sys2Proof.Machine
end

