-- ==== Sys2Proof/Machine/Step.lean ====
section
/-!
DEFINITION. Step.lean: one step of the machine is one turn; the placing of a word that the next step executes.
-/
namespace Sys2Proof.Machine

/-- One turn of the part. -/
def step (s : State) : Host.Outcome State Fault Refusal := takeTurn s

/-- The state whose next step executes the word w (log entry 32). -/
def State.withFetchWord (s : State) (nbits w : Nat) : State := placeFetchWord s nbits w

end Sys2Proof.Machine
end

