-- ==== Sys2Proof/Safety.lean ====
section
/-!
DEFINITION. Safety.lean: the terms in which claims are stated: which engine an instruction belongs to, that its words decode
to it, runs and reachable states, and that a run goes on.
-/
namespace Sys2Proof

/-- The engine whose words an instruction is written in: an element word (R94), a sequencer word (R161), or none: an event. -/
inductive WordKind where
  | element | sequencer | event
  deriving DecidableEq, Repr

def wordKind : Instr → WordKind
  | .addI32 _ => .element
  | .subI32 _ => .element
  | .mulI32 _ => .element
  | .mulhI32 _ => .element
  | .and _ => .element
  | .or _ => .element
  | .xor _ => .element
  | .shl _ => .element
  | .shrU32 _ => .element
  | .shrI32 _ => .element
  | .minI32 _ => .element
  | .maxI32 _ => .element
  | .mov _ => .element
  | .sel _ => .element
  | .addsatI32 _ => .element
  | .subsatI32 _ => .element
  | .absI32 _ => .element
  | .clz _ => .element
  | .popc _ => .element
  | .cmpEq _ => .element
  | .cmpLtI32 _ => .element
  | .cmpLtU32 _ => .element
  | .faddF32 _ => .element
  | .fsubF32 _ => .element
  | .fmulF32 _ => .element
  | .ffmaF32 _ => .element
  | .fminF32 _ => .element
  | .fmaxF32 _ => .element
  | .fabsF32 _ => .element
  | .fnegF32 _ => .element
  | .fcmpEqF32 _ => .element
  | .fcmpLtF32 _ => .element
  | .fcmpLeF32 _ => .element
  | .fdivF32 _ => .element
  | .fsqrtF32 _ => .element
  | .faddF16x2 _ => .element
  | .fmulF16x2 _ => .element
  | .ffmaF16x2 _ => .element
  | .faddBf16x2 _ => .element
  | .fmulBf16x2 _ => .element
  | .ffmaBf16x2 _ => .element
  | .cvtF32I32 _ => .element
  | .cvtI32F32 _ => .element
  | .cvtF32F16 _ => .element
  | .cvtF32Bf16 _ => .element
  | .cvtF16F32 _ => .element
  | .cvtBf16F32 _ => .element
  | .cvtE4m3F32 _ => .element
  | .cvtE5m2F32 _ => .element
  | .vaddI32 _ => .element
  | .vfaddF32 _ => .element
  | .vfmulF32 _ => .element
  | .vfmaF32 _ => .element
  | .vfmaF16 _ => .element
  | .vfmaBf16 _ => .element
  | .vbcast _ => .element
  | .vext _ => .element
  | .vins _ => .element
  | .vredsumF32 _ => .element
  | .vredsumF16 _ => .element
  | .vredmaxF32 _ => .element
  | .pwr _ => .element
  | .prd _ => .element
  | .steer _ => .element
  | .merge _ => .element
  | .rep _ => .element
  | .sweep _ => .element
  | .stop _ => .element
  | .tagSet _ => .element
  | .tagGet _ => .element
  | .send _ => .element
  | .fin _ => .element
  | .ldB32 _ => .element
  | .ldU8 _ => .element
  | .ldW256 _ => .element
  | .stB32 _ => .element
  | .stB8 _ => .element
  | .stW256 _ => .element
  | .vld _ => .element
  | .vst _ => .element
  | .vrcl _ => .element
  | .fence _ => .element
  | .amoAdd32 _ => .element
  | .amoAdd64 _ => .element
  | .amoMinI32 _ => .element
  | .amoMaxI32 _ => .element
  | .amoAnd32 _ => .element
  | .amoOr32 _ => .element
  | .amoXchg32 _ => .element
  | .amoCas32 _ => .element
  | .amoCas64 _ => .element
  | .amoFaddF32 _ => .element
  | .staticOperation _ _ => .event
  | .addI64 _ _ _ => .sequencer
  | .subI64 _ _ _ => .sequencer
  | .mulI64 _ _ _ => .sequencer
  | .mulhI64 _ _ _ => .sequencer
  | .mulhU64 _ _ _ => .sequencer
  | .divI64 _ _ _ => .sequencer
  | .divU64 _ _ _ => .sequencer
  | .remI64 _ _ _ => .sequencer
  | .remU64 _ _ _ => .sequencer
  | .seqAnd _ _ _ => .sequencer
  | .seqOr _ _ _ => .sequencer
  | .seqXor _ _ _ => .sequencer
  | .seqShl _ _ _ => .sequencer
  | .shrU64 _ _ _ => .sequencer
  | .shrI64 _ _ _ => .sequencer
  | .sltI64 _ _ _ => .sequencer
  | .sltU64 _ _ _ => .sequencer
  | .minI64 _ _ _ => .sequencer
  | .maxI64 _ _ _ => .sequencer
  | .seqAddI32 _ _ _ => .sequencer
  | .addi _ _ _ => .sequencer
  | .andi _ _ _ => .sequencer
  | .ori _ _ _ => .sequencer
  | .xori _ _ _ => .sequencer
  | .sltiI64 _ _ _ => .sequencer
  | .sltiU64 _ _ _ => .sequencer
  | .shli _ _ _ => .sequencer
  | .shriU64 _ _ _ => .sequencer
  | .shriI64 _ _ _ => .sequencer
  | .movz _ _ _ => .sequencer
  | .movk _ _ _ => .sequencer
  | .jalr _ _ _ => .sequencer
  | .br _ => .sequencer
  | .jal _ _ => .sequencer
  | .bz _ _ => .sequencer
  | .bnz _ _ => .sequencer
  | .bltz _ _ => .sequencer
  | .bgez _ _ => .sequencer
  | .seqLdU8 _ _ _ => .sequencer
  | .ldI8 _ _ _ => .sequencer
  | .ldU16 _ _ _ => .sequencer
  | .ldI16 _ _ _ => .sequencer
  | .ldU32 _ _ _ => .sequencer
  | .ldI32 _ _ _ => .sequencer
  | .ldB64 _ _ _ => .sequencer
  | .seqStB8 _ _ _ => .sequencer
  | .stB16 _ _ _ => .sequencer
  | .seqStB32 _ _ _ => .sequencer
  | .stB64 _ _ _ => .sequencer
  | .seqAmoAdd32 _ _ _ _ _ => .sequencer
  | .seqAmoAdd64 _ _ _ _ _ => .sequencer
  | .amoAnd64 _ _ _ _ _ => .sequencer
  | .amoOr64 _ _ _ _ _ => .sequencer
  | .amoXchg64 _ _ _ _ _ => .sequencer
  | .amoMinI64 _ _ _ _ _ => .sequencer
  | .amoMaxI64 _ _ _ _ _ => .sequencer
  | .seqAmoCas32 _ _ _ _ _ => .sequencer
  | .seqAmoCas64 _ _ _ _ _ => .sequencer
  | .seqLdB32Acq _ _ _ => .sequencer
  | .ldB64Acq _ _ _ => .sequencer
  | .seqStB32Rel _ _ _ => .sequencer
  | .stB64Rel _ _ _ => .sequencer
  | .seqVld _ _ _ => .sequencer
  | .seqVst _ _ => .sequencer
  | .seqVrcl _ _ => .sequencer
  | .seqFence _ => .sequencer
  | .strmLd _ _ _ => .sequencer
  | .strmSt _ _ _ => .sequencer
  | .strmCp _ _ _ => .sequencer
  | .memHrv _ _ => .sequencer
  | .semaSig _ _ _ => .sequencer
  | .semaSigR _ _ _ => .sequencer
  | .semaAcq _ _ _ _ => .sequencer
  | .semaTry _ _ _ _ => .sequencer
  | .semaSet _ _ => .sequencer
  | .semaRd _ _ => .sequencer
  | .tbarInit _ _ _ => .sequencer
  | .tbarArr _ _ _ _ => .sequencer
  | .tbarDecl _ _ _ => .sequencer
  | .tbarWait _ _ _ _ => .sequencer
  | .tbarTest _ _ _ _ => .sequencer
  | .tbarFini _ _ => .sequencer
  | .lnch _ _ => .sequencer
  | .lnchInd _ _ => .sequencer
  | .cfgLd _ _ _ => .sequencer
  | .cfgSwp _ _ _ => .sequencer
  | .cfgUnl _ _ => .sequencer
  | .cfgSv _ _ _ => .sequencer
  | .cfgRst _ _ _ => .sequencer
  | .brngGet _ _ => .sequencer
  | .brngRel _ => .sequencer
  | .mringPut _ _ => .sequencer
  | .mringGet _ => .sequencer
  | .mringLd _ _ => .sequencer
  | .mringRel => .sequencer
  | .bqPush _ _ _ _ _ => .sequencer
  | .bqPop _ _ _ _ => .sequencer
  | .bqPopW _ _ _ _ => .sequencer
  | .bqCnt _ _ _ => .sequencer
  | .csrr _ _ => .sequencer
  | .csrw _ _ => .sequencer
  | .csrs _ _ => .sequencer
  | .csrc _ _ => .sequencer
  | .wait => .sequencer
  | .halt => .sequencer
  | .trap _ => .sequencer
  | .eret => .sequencer
  | .sbar => .sequencer
  | .rplBeg _ _ _ => .sequencer
  | .rplStep _ _ _ => .sequencer
  | .rplEnd _ _ _ => .sequencer
  | .rplDrop _ _ _ => .sequencer
  | .ctxTen _ _ => .sequencer
  | .ctxRoot _ _ => .sequencer
  | .ctxKill _ _ => .sequencer
  | .mstFrz _ => .sequencer
  | .mstThaw _ => .sequencer
  | .thrSet _ _ => .sequencer
  | .snsrRd _ _ => .sequencer
  | .evlPut _ => .sequencer
  | .tlbInv _ _ => .sequencer
  | .seqRun _ _ _ => .sequencer
  | .seqStop _ => .sequencer
  | .seqResume _ => .sequencer
  | .seqProgramStart _ => .event
  | .seqResultArrival _ _ _ => .event
  | .waitTimeout _ => .event
  | .eventTake _ => .event
  | .configurationLoad _ => .event
  | .reconfigurationTokenPassage _ => .event
  | .configurationSave _ => .event
  | .configurationRestore _ => .event
  | .launchJudgement _ _ => .event
  | .placementTake _ => .event
  | .unitStart _ => .event
  | .unitCompletion _ => .event
  | .launchCompletion _ => .event
  | .linkTokenArrival _ _ _ _ => .event
  | .packetArrival _ => .event
  | .landingQueuePass _ _ => .event
  | .qoutRecordWrite _ _ _ _ => .event
  | .qinRecordDeliver _ _ _ _ => .event
  | .windowCommit _ => .event
  | .windowFaultDetect _ => .event
  | .regionClockGate _ => .event
  | .sweepComplete _ => .event
  | .tlbWalk _ _ => .event
  | .loadResponse _ _ _ => .event
  | .unbufferedAccessPerform _ _ => .event
  | .atomicPerform _ _ _ => .event
  | .vldHomeJudge _ _ _ => .event
  | .vldResend _ _ => .event
  | .vstPerform _ _ => .event
  | .versionStall _ _ => .event
  | .vrclPerform _ _ => .event
  | .streamStart _ => .event
  | .streamItemMove _ _ => .event
  | .streamRetry _ => .event
  | .streamRetire _ => .event
  | .dirtyHarvest _ => .event
  | .tlbInvalidateComplete _ => .event
  | .matrixChain _ _ => .event
  | .matrixEmit _ _ => .event
  | .matrixToken _ _ => .event
  | .matrixBeat _ _ => .event
  | .matrixClose _ _ => .event
  | .matrixOuter _ _ => .event
  | .matrixBehind _ _ => .event
  | .matrixFathom _ _ => .event
  | .repeatNode _ _ => .event
  | .rayTake _ => .event
  | .candidateInvoke _ _ => .event
  | .verdictTake _ => .event
  | .rayMigration _ _ => .event
  | .rayResult _ _ => .event
  | .traversalStopPass _ => .event
  | .drain _ => .event
  | .ctinv _ => .event
  | .traversalUnknownCommand _ => .event
  | .primitiveToken _ => .event
  | .tagClose _ _ => .event
  | .blendForward _ => .event
  | .blendApplication _ _ => .event
  | .view _ => .event
  | .clr _ => .event
  | .fbeg _ => .event
  | .rasterFence _ => .event
  | .modes _ => .event
  | .dcmp _ => .event
  | .mload _ => .event
  | .rasterUnknownCommand _ => .event
  | .rasterStopPass _ => .event
  | .isect _ => .event
  | .union _ => .event
  | .intersectUnknownCommand _ => .event
  | .accumulatorPair _ => .event
  | .accumulatorPoison _ => .event
  | .accumulatorFlush _ => .event
  | .accumulatorStopPass _ => .event
  | .hostQueueEnable _ => .event
  | .doorbell _ => .event
  | .hostQueueFetch _ => .event
  | .intr _ => .event
  | .cxlMemRequest _ => .event
  | .agfelPeerRequest _ _ => .event
  | .agfelRouteMaskWrite _ _ => .event
  | .flitReceive _ _ _ _ => .event
  | .flitReplay _ => .event
  | .linkDown _ => .event
  | .linkRetrainComplete _ => .event
  | .linkTimeout _ => .event
  | .payloadKill _ _ => .event
  | .headerCorrupt _ => .event
  | .memoryUncorrectableError _ => .event
  | .softCorrected _ => .event
  | .sensorRefresh _ _ => .event
  | .droopEvent _ => .event
  | .packageReset _ => .event
  | .attgo => .event
  | .attestationComplete => .event
  | .rcvgo => .event
  | .recoveryComplete _ => .event
  | .prstGo _ => .event
  | .partitionResetComplete _ => .event
  | .registerWrite _ _ _ => .event
  | .seqIllegalOp _ => .event
  | .fetchFault _ => .event
  | .writeCompletion _ _ => .event
  | .consumedCopyUpdate _ _ _ _ => .event
  | .backInvalidateResponse _ => .event

/-- The decoder of the instruction's engine reads it back from its words, with its length in bytes; an event has no words. -/
def kindRound (i : Instr) : Prop :=
  match wordKind i with
  | .element =>
    match encode i with
    | [w] => decodeElem w = .instr i 4
    | _ => False
  | .sequencer =>
    match encode i with
    | [w] => ∀ v, decodeSeq w v = .instr i 4
    | [w, v] => decodeSeq w v = .instr i 8
    | _ => False
  | .event => encode i = []

end Sys2Proof

namespace Sys2Proof.Machine

/-- A state that some number of steps leads to, each step answering a next state. -/
inductive Reaches : State → State → Prop where
  | refl (s : State) : Reaches s s
  | step {s t u : State} (h : step s = .next t) (r : Reaches t u) : Reaches s u

/-- A property that every step keeps. -/
def StepKeeps (p : State → Prop) : Prop := ∀ s t, p s → step s = .next t → p t

/-! ## Element firings (R84, R87) -/

/-- The trigger entry that the word in a slot names. -/
def slotTrig (r : Region) (e slot : Nat) : Word :=
  (r.elem e).trigs.getD ((((r.elem e).slots.getD slot 0).extractLsb' 26 6).toNat) 0

/-- It is the turn of element e of region r with this slot, the element may fire in this cycle, and the slot's trigger holds. -/
structure Fires (s : State) (r : Region) (e slot : Nat) : Prop where
  turn : s.act = .elem r.id e slot
  resident : s.region? r.id = some r
  may : s.triggeredFires r e = true
  trig : trigOk (r.elem e) s.cyc (slotTrig r e slot) = true

/-- What the firing of a slot reads of its surroundings. -/
def firing (s : State) (r : Region) (e slot : Nat) : FireCtx := mkCtx s r e slot (claimsUpTo s r e)

/-- The state after a firing that leaves `el` as the element and hands `fx` to its region. -/
def State.fired (s : State) (r : Region) (e slot : Nat) (el : Elem) (fx : List Fx) : State :=
  s.setRegion (r.firing s.cyc e slot false el fx)

/-- The state after a firing that raises a cause and changes no element (R92). -/
def State.raised (s : State) (r : Region) (e slot : Nat) (cause : Byte) : State :=
  s.setRegion (r.raising s.cyc e slot false cause)

/-- The set-predicate step of R87. -/
def State.flip (s : State) (r : Region) (e slot : Nat) (sp : Bool) (y : Elem) : Elem :=
  { y with p := spStep sp (firing s r e slot).trig y.p }

/-- The common part of R87 for two scalar sources: with heads, room and no poison the firing writes `v`, or the stop that R91
passes. -/
def ScalarFiring (i : Instr) (f : ElemRec) (v : Elem → Word → Word → Word) : Prop :=
  ∀ s r e slot a b, Fires s r e slot → (r.elem e).scalarSrc s.cyc f.a = some a → (r.elem e).scalarSrc s.cyc f.b = some b →
    (scalarDest f.d).room (r.elem e) s.cyc = true → poisonLevel a (some b) = none →
    exec i s = .next (s.fired r e slot (finishFire (firing s r e slot) (r.elem e) f.dqa f.dqb f.sp a.chan b.chan (scalarDest f.d)
      (if stopPasses f.tp (scalarDest f.d) a then ⟨a.val, a.tag⟩
       else ⟨scalarOf (v (r.elem e) (lane a.val 0) (lane b.val 0)), outTag f.tp a (some b)⟩)) [])

/-- The same for one source, which `read` reads, and one destination. -/
def UnaryFiring (read : Elem → Nat → Reg → Option Src) (dest : Reg → Dest) (i : Instr) (f : ElemRec) (v : Elem → Wide → Wide) : Prop :=
  ∀ s r e slot a, Fires s r e slot → read (r.elem e) s.cyc f.a = some a →
    (dest f.d).room (r.elem e) s.cyc = true → poisonLevel a none = none →
    exec i s = .next (s.fired r e slot (finishFire (firing s r e slot) (r.elem e) f.dqa false f.sp a.chan none (dest f.d)
      (if stopPasses f.tp (dest f.d) a then ⟨a.val, a.tag⟩ else ⟨v (r.elem e) a.val, outTag f.tp a none⟩)) [])

/-- The same for two vector sources. -/
def VectorFiring (i : Instr) (f : ElemRec) (v : Elem → Wide → Wide → Wide) : Prop :=
  ∀ s r e slot a b, Fires s r e slot → (r.elem e).vectorSrc s.cyc f.a = some a → (r.elem e).vectorSrc s.cyc f.b = some b →
    (vectorDest f.d).room (r.elem e) s.cyc = true → poisonLevel a (some b) = none →
    exec i s = .next (s.fired r e slot (finishFire (firing s r e slot) (r.elem e) f.dqa f.dqb f.sp a.chan b.chan (vectorDest f.d)
      (if stopPasses f.tp (vectorDest f.d) a then ⟨a.val, a.tag⟩ else ⟨v (r.elem e) a.val b.val, outTag f.tp a (some b)⟩)) [])

/-- Lane j of a wide value is `f j` (R76). -/
def ofLaneFn (f : Nat → Word) : Wide := ofLanes [f 0, f 1, f 2, f 3, f 4, f 5, f 6, f 7]

/-! Tables of R119 to R127: the instruction and its result. -/

def integerPairs : List ((ElemRec → Instr) × (Word → Word → Word)) :=
  [ (.addI32, fun a b => a + b), (.subI32, fun a b => a - b), (.mulI32, fun a b => a * b),
    (.mulhI32, fun a b => BitVec.ofInt 32 (a.toInt * b.toInt / 2 ^ 32)),
    (.and, fun a b => a &&& b), (.or, fun a b => a ||| b), (.xor, fun a b => a ^^^ b),
    (.shl, fun a b => a <<< (b.toNat % 32)), (.shrU32, fun a b => a >>> (b.toNat % 32)),
    (.shrI32, fun a b => a.sshiftRight (b.toNat % 32)),
    (.minI32, fun a b => if a.slt b then a else b), (.maxI32, fun a b => if a.slt b then b else a),
    (.addsatI32, fun a b => clamp32 (a.toInt + b.toInt)), (.subsatI32, fun a b => clamp32 (a.toInt - b.toInt)),
    (.cmpEq, fun a b => if a = b then 1 else 0), (.cmpLtI32, fun a b => if a.toInt < b.toInt then 1 else 0),
    (.cmpLtU32, fun a b => if a.toNat < b.toNat then 1 else 0) ]

def integerSingles : List ((ElemRec → Instr) × (Word → Word)) :=
  [ (.mov, fun a => a), (.absI32, fun a => BitVec.ofNat 32 a.toInt.natAbs),
    (.clz, fun a => BitVec.ofNat 32 (if a = 0 then 32 else 31 - Nat.log2 a.toNat)),
    (.popc, fun a => BitVec.ofNat 32 ((List.range 32).filter (fun k => a.getLsbD k)).length) ]

def floatPairs : List ((ElemRec → Instr) × (Nat → Nat → Nat)) :=
  [ (.faddF32, Fmt.f32.addBits), (.fsubF32, Fmt.f32.subBits), (.fmulF32, Fmt.f32.mulBits), (.fdivF32, Fmt.f32.divBits),
    (.fminF32, Fmt.f32.minmax (-1)), (.fmaxF32, Fmt.f32.minmax 1),
    (.fcmpEqF32, fun a b => if Fmt.f32.eqBits a b then 1 else 0), (.fcmpLtF32, fun a b => if Fmt.f32.ltBits a b then 1 else 0),
    (.fcmpLeF32, fun a b => if Fmt.f32.leBits a b then 1 else 0) ]

def packedPairs : List ((ElemRec → Instr) × (Nat → Nat → Nat)) :=
  [ (.faddF16x2, Fmt.f16.addBits), (.fmulF16x2, Fmt.f16.mulBits), (.faddBf16x2, Fmt.bf16.addBits), (.fmulBf16x2, Fmt.bf16.mulBits) ]

/-- Conversions, the square root, the absolute value and the negation: modifier field and bits of the source. -/
def floatSingles : List ((ElemRec → Instr) × (Nat → Word → Word)) :=
  [ (.fabsF32, fun _ a => if (Fmt.f32.dec a.toNat).isNan then 0x7FC00000 else a &&& 0x7FFFFFFF),
    (.fnegF32, fun _ a => if (Fmt.f32.dec a.toNat).isNan then 0x7FC00000 else a ^^^ 0x80000000),
    (.fsqrtF32, fun m a => BitVec.ofNat 32 (Fmt.f32.sqrtBits (rmOf m) (ftzOf m) a.toNat)),
    (.cvtF32I32, fun m a => BitVec.ofNat 32 (Fmt.f32.ofInt (rmOf m) a.toInt)),
    (.cvtI32F32, fun m a => BitVec.ofInt 32 ((Fmt.f32.dec a.toNat).toInt (rmOf m) (-2147483648) 2147483647)),
    (.cvtF32F16, fun _ a => BitVec.ofNat 32 (Fmt.f16.convert Fmt.f32 .rne false false (a.toNat % 65536))),
    (.cvtF32Bf16, fun _ a => BitVec.ofNat 32 (Fmt.bf16.convert Fmt.f32 .rne false false (a.toNat % 65536))),
    (.cvtF16F32, fun m a => BitVec.ofNat 32 (Fmt.f32.convert Fmt.f16 (rmOf m) (ftzOf m) false a.toNat)),
    (.cvtBf16F32, fun m a => BitVec.ofNat 32 (Fmt.f32.convert Fmt.bf16 (rmOf m) (ftzOf m) false a.toNat)),
    (.cvtE4m3F32, fun m a => BitVec.ofNat 32 (Fmt.f32.convert Fmt.e4m3 (rmOf m) (ftzOf m) (satOf m) a.toNat)),
    (.cvtE5m2F32, fun m a => BitVec.ofNat 32 (Fmt.f32.convert Fmt.e5m2 (rmOf m) (ftzOf m) (satOf m) a.toNat)) ]

/-- Two packed items, low and high (R61). -/
def packItems (lo hi : Nat) : Word := BitVec.ofNat 32 (lo + 65536 * hi)
def loItem (a : Word) : Nat := a.toNat % 65536
def hiItem (a : Word) : Nat := a.toNat / 65536

/-- The pairwise tree of R71 over eight values. -/
def tree8 (op : Nat → Nat → Nat) (v : Nat → Nat) : Nat :=
  op (op (op (v 0) (v 1)) (op (v 2) (v 3))) (op (op (v 4) (v 5)) (op (v 6) (v 7)))

/-- The opcode of an element instruction: bits [25:19] of its word (R94). -/
def opcodeOf (i : Instr) : Nat := bits ((encode i).headD 0).toNat 25 19

/-! The instructions of classes R, U and V by the operands they read. -/

def scalarPairs (f : ElemRec) : List Instr :=
  integerPairs.map (fun p => p.1 f) ++ floatPairs.map (fun p => p.1 f) ++ packedPairs.map (fun p => p.1 f)
    ++ [.sel f, .ffmaF32 f, .ffmaF16x2 f, .ffmaBf16x2 f]
def scalarSingles (f : ElemRec) : List Instr := integerSingles.map (fun p => p.1 f) ++ floatSingles.map (fun p => p.1 f)
def vectorPairs (f : ElemRec) : List Instr :=
  [.vaddI32 f, .vfaddF32 f, .vfmulF32 f, .vfmaF32 f, .vfmaF16 f, .vfmaBf16 f]
def scalarToVector (f : ElemRec) : List Instr := [.vbcast f, .vins f]
def vectorToScalar (f : ElemRec) : List Instr := [.vext f, .vredsumF32 f, .vredsumF16 f, .vredmaxF32 f]
/-- Every instruction of classes R, U and V, with its destination. -/
def aluForms (f : ElemRec) : List (Instr × Dest) :=
  (scalarPairs f ++ scalarSingles f ++ vectorToScalar f).map (fun i => (i, scalarDest f.d))
    ++ (vectorPairs f ++ scalarToVector f).map (fun i => (i, vectorDest f.d))

/-- R90: a poison head passes with its level where the destination takes a tag and the tag-pass flag is set; else the firing
raises POISON_CONSUMED. -/
def poisonOutcome (s : State) (r : Region) (e slot : Nat) (f : ElemRec) (dqb : Bool) (a : Src) (b : Option Nat) (d : Dest) (l : Nat) :
    State :=
  if f.tp && d.takesTag then
    s.fired r e slot (finishFire (firing s r e slot) (r.elem e) f.dqa dqb f.sp a.chan b d ⟨0, mkTag 3 l⟩) []
  else s.raised r e slot Cause.poisonConsumed

/-! ## Sequencer instructions (R166 to R169) -/

/-- It is the turn of core c, no register the instruction reads or writes is reserved, none it reads is marked. -/
structure CoreReady (s : State) (c : Nat) (reads writes : List Reg) : Prop where
  turn : s.act = .core c
  free : ∀ r ∈ reads ++ writes, (s.core c).reserved r = false
  clean : ∀ r ∈ reads, (s.core c).marked r = false

/-- The state after an instruction of `len` bytes that only writes `v` to d. -/
def State.wrote (s : State) (c : Nat) (d : Reg) (v : DWord) (len : Nat) : State :=
  (s.updCore c (fun x => x.wr d v)).retire c len .next

/-- What writing a fault record may change: memory and its marks, the translations and the host's lines that the fault queue needs, the
event log, the messages to the host, and the requests for a queue in another package. -/
def OnlyRecorded (s t : State) : Prop :=
  { t with mem := s.mem, poison := s.poison, frames := s.frames, modes := s.modes, hostLines := s.hostLines, tlb := s.tlb
           sentMsgs := s.sentMsgs, msixPend := s.msixPend, evlog := s.evlog, evlprod := s.evlprod, remoteReads := s.remoteReads
           reqs := s.reqs, nextId := s.nextId, aports := s.aports, recQueue := s.recQueue } = s

/-- What a core takes back as it leaves an instruction: the answers it held, the vlds that wait for it, and its waiting vst here or in
another package (R167, R178, R357). -/
structure LeftInstr (s u : State) (c : Nat) : Prop where
  answers : ∀ q ∈ s.remoteReads, q.reader ≠ .core c → q ∈ u.remoteReads
  waits : ∀ v ∈ s.vldWaits, v.owner ≠ .step c → v ∈ u.vldWaits
  queued : ∀ v ∈ s.vstQueue, v.owner ≠ .step c → v ∈ u.vstQueue
  asked : ∀ q ∈ s.reqs, (q.kind = .vst → ∀ r ∈ s.remoteReads, r.reader = .core c → r.req ≠ q.id) → q ∈ u.reqs
  rest : { u with cores := s.cores, remoteReads := s.remoteReads, vldWaits := s.vldWaits, vstQueue := s.vstQueue, reqs := s.reqs } = s

/-! Tables of R170 and R171. -/

def seqPairs : List ((Reg → Reg → Reg → Instr) × (DWord → DWord → DWord)) :=
  [ (.addI64, fun a b => a + b), (.subI64, fun a b => a - b), (.mulI64, fun a b => a * b),
    (.mulhI64, fun a b => BitVec.ofInt 64 (a.toInt * b.toInt / 2 ^ 64)),
    (.mulhU64, fun a b => BitVec.ofNat 64 (a.toNat * b.toNat / 2 ^ 64)),
    (.divI64, fun a b => if b = 0 then 0xFFFFFFFFFFFFFFFF else BitVec.ofInt 64 (a.toInt.tdiv b.toInt)),
    (.divU64, fun a b => if b = 0 then 0xFFFFFFFFFFFFFFFF else BitVec.ofNat 64 (a.toNat / b.toNat)),
    (.remI64, fun a b => if b = 0 then a else BitVec.ofInt 64 (a.toInt.tmod b.toInt)),
    (.remU64, fun a b => if b = 0 then a else BitVec.ofNat 64 (a.toNat % b.toNat)),
    (.seqAnd, fun a b => a &&& b), (.seqOr, fun a b => a ||| b), (.seqXor, fun a b => a ^^^ b),
    (.seqShl, fun a b => a <<< (b.toNat % 64)), (.shrU64, fun a b => a >>> (b.toNat % 64)),
    (.shrI64, fun a b => a.sshiftRight (b.toNat % 64)),
    (.sltI64, fun a b => if a.toInt < b.toInt then 1 else 0), (.sltU64, fun a b => if a.toNat < b.toNat then 1 else 0),
    (.minI64, fun a b => if a.slt b then a else b), (.maxI64, fun a b => if a.slt b then b else a),
    (.seqAddI32, fun a b => ((a + b).extractLsb' 0 32).signExtend 64) ]

def seqImmediates : List ((Reg → Reg → BitVec 16 → Instr) × (DWord → BitVec 16 → DWord)) :=
  [ (.addi, fun a i => a + i.signExtend 64), (.andi, fun a i => a &&& i.zeroExtend 64), (.ori, fun a i => a ||| i.zeroExtend 64),
    (.xori, fun a i => a ^^^ i.zeroExtend 64),
    (.sltiI64, fun a i => if a.toInt < (i.signExtend 64).toInt then 1 else 0),
    (.sltiU64, fun a i => if a.toNat < (i.signExtend 64).toNat then 1 else 0) ]

def seqShifts : List ((Reg → Reg → BitVec 6 → Instr) × (DWord → Nat → DWord)) :=
  [ (.shli, fun a n => a <<< n), (.shriU64, fun a n => a >>> n), (.shriI64, fun a n => a.sshiftRight n) ]

def seqBranches : List ((Reg → BitVec 21 → Instr) × (DWord → Bool)) :=
  [ (.bz, fun a => a == 0), (.bnz, fun a => a != 0), (.bltz, fun a => decide (a.toInt < 0)), (.bgez, fun a => decide (0 ≤ a.toInt)) ]

/-- The bytes [16q+15:16q] of a value. -/
def fieldMask (q : BitVec 2) : DWord := (0xFFFF : DWord) <<< (16 * q.toNat)

/-- The exception registers and the run state of a core that a precise fault stopped (R168). -/
def CoreSt.faulted (x : CoreSt) (cause : Byte) (addr : DWord) : CoreSt :=
  { x with run := .stopped, epc := x.pc, ecause := cause.zeroExtend 64, eaddr := addr, waitFrom := none, woken := false }

/-! ## Accesses of a sequencer (R173 to R179) -/

/-- The access that an instruction of core c makes to n bytes at va passes every check: its target and the state after its
translation; no acquire of the core is outstanding. -/
structure CoreAccess (s : State) (c : Nat) (need : Need) (va : DWord) (n : Nat) (t : Xlat) (s1 : State) : Prop where
  ok : (checkM (whoCore s c) need va n).exec s = (.ok t, s1)
  noAcquire : (s.core c).pend.any (fun p => p.acq) = false

/-- The target lies in this package's memory. -/
def Here (t : Xlat) (s : State) : Prop := t.mt = 0 ∧ s.isLocal t.pa = true
/-- The target lies in another package's memory, which some port reaches. -/
def Away (t : Xlat) (s : State) : Prop := t.mt = 0 ∧ s.isLocal t.pa = false ∧ s.reachable (pkgOf t.pa) = true

/-- The state after a request left for another package with register d reserved for its answer (R166, R289). -/
def State.asked (s : State) (c : Nat) (x : CoreSt) (kind : ReqKind) (pk : PendKind) (d : Reg) (va : DWord) (ctx dpa n : Nat) (data : Line)
    (acq : Bool) : State :=
  ((s.sendReq kind (.core c s.nextId) ctx dpa n data).2).updCore c (fun y => { y with
    pend := y.pend ++ [⟨s.nextId, d.toNat, pk, va, none, true, none, x.pc, s.cyc, acq⟩] })

/-- The state after an access was held, to be performed or sent later, and a register it fills was reserved (R166, R174, R313, R325, R442,
R446). -/
def State.holding (s : State) (c : Nat) (x : CoreSt) (kind : HeldKind) (d : Option (Reg × PendKind)) (va : DWord) (t : Xlat)
    (n op new : Nat) (acq : Bool) : State :=
  ({ s with nextId := s.nextId + 1 } : State).updCore c (fun y => { y with
    held := y.held ++ [⟨s.nextId, kind, va, s.coreCtx c, t.mt, t.pa, n, op, new, s.coreHits c (s.coreCtx c) va n, x.pc⟩]
    pend := y.pend ++ d.toList.map (fun k => ⟨s.nextId, k.1.toNat, k.2, va, none, false, none, x.pc, s.cyc, acq⟩) })

/-- The instruction, its register operands, its address, its size, sign-extension and scope: the loads of R173 and R175. -/
def coreLoads (d a : Reg) (o : BitVec 12) (scope : BitVec 3) (x : CoreSt) : List (Instr × DWord × Nat × Bool × Option Nat) :=
  let va := x.gr a + o.signExtend 64
  [ (.seqLdU8 d a o, va, 1, false, none), (.ldI8 d a o, va, 1, true, none), (.ldU16 d a o, va, 2, false, none),
    (.ldI16 d a o, va, 2, true, none), (.ldU32 d a o, va, 4, false, none), (.ldI32 d a o, va, 4, true, none),
    (.ldB64 d a o, va, 8, false, none),
    (.seqLdB32Acq d a scope, x.gr a, 4, false, some scope.toNat), (.ldB64Acq d a scope, x.gr a, 8, false, some scope.toNat) ]

/-- The stores of R173 and R175: instruction, registers it reads, address, size, data and scope. -/
def coreStores (d a : Reg) (o : BitVec 12) (scope : BitVec 3) (x : CoreSt) : List (Instr × DWord × Nat × Option Nat) :=
  let va := x.gr a + o.signExtend 64
  [ (.seqStB8 d a o, va, 1, none), (.stB16 d a o, va, 2, none), (.seqStB32 d a o, va, 4, none), (.stB64 d a o, va, 8, none),
    (.seqStB32Rel a d scope, x.gr a, 4, some scope.toNat), (.stB64Rel a d scope, x.gr a, 8, some scope.toNat) ]

/-- The atomics of R175 with their size, and whether they compare with gd. -/
def coreAtomics (d a b : Reg) (scope : BitVec 3) (ord : BitVec 2) : List (Instr × AmoKind × Nat) :=
  [ (.seqAmoAdd32 d a b scope ord, .add, 4), (.seqAmoAdd64 d a b scope ord, .add, 8), (.amoAnd64 d a b scope ord, .band, 8),
    (.amoOr64 d a b scope ord, .bor, 8), (.amoXchg64 d a b scope ord, .xchg, 8), (.amoMinI64 d a b scope ord, .min, 8),
    (.amoMaxI64 d a b scope ord, .max, 8), (.seqAmoCas32 d a b scope ord, .cas, 4), (.seqAmoCas64 d a b scope ord, .cas, 8) ]

/-- A loaded value of n bytes as it enters a 64-bit register: zero-extended or sign-extended (R173). -/
def widened (n : Nat) (signed : Bool) (v : Nat) : DWord :=
  if signed && decide (2 ^ (8 * n - 1) ≤ v) then BitVec.ofInt 64 ((v : Int) - 2 ^ (8 * n)) else BitVec.ofNat 64 v

/-- One byte of the package's memory as the fabric reads it (R286, R415). -/
def State.byteAt (s : State) (pa : Nat) : Byte := decompByte s.mem (s.modeOf pa) pa

/-! ## Asynchronous commands of a sequencer (R185, R203, R210) -/

/-- No acquire of the core is outstanding and its earlier accesses are performed. -/
structure CoreDrained (s : State) (c : Nat) : Prop where
  noAcquire : (s.core c).pend.any (fun p => p.acq) = false
  done : drained (s.core c) = true

/-- The state after a stream command entered its core's queue. -/
def State.pushed (s : State) (t : Stream) : State := { s with nextId := s.nextId + 1, streams := s.streams ++ [t] }

/-- The number of stream commands a core has queued. -/
def State.streamCount (s : State) (c : Nat) : Nat := (s.streams.filter (fun t => t.core == c)).length
def State.launchCount (s : State) (c : Nat) : Nat := (s.launches.filter (fun l => l.core == c)).length
def State.scoreCount (s : State) (c : Nat) : Nat := (s.score.filter (fun e => e.sector == coreSector c)).length

/-- A reservation of register d for the result of an asynchronous command (R166). -/
def reservation (id : Nat) (d : Reg) (kind : PendKind) (addr pc : DWord) (now : Nat) : Pend :=
  ⟨id, d.toNat, kind, addr, none, false, none, pc, now, false⟩

/-- The configuration commands with the operation each asks for, its addresses, its result register and the registers read. -/
def cfgCommands (a b r : Reg) : List (Instr × CfgKind × Bool × List Reg) :=
  [ (.cfgLd a b r, .ld, true, [b, r]), (.cfgSwp a b r, .swp, true, [b, r]), (.cfgUnl a r, .unl, false, [r]),
    (.cfgSv a b r, .sv, true, [b, r]), (.cfgRst a b r, .rst, true, [b, r]) ]

/-! ## Rings and queues (R214 to R219) -/

/-- A slot is addressed to a core: its record stands at index cx and names the core in its context. -/
def slotMine (r : MRing) (bit_ ctx : Nat) (cx : Word) : Bool :=
  let sl := r.slot (cx.toNat % 16)
  sl.seq == cx && sl.mask.getLsbD bit_ && sl.ctx == ctx
/-- The loop of R217 steps over an index: its slot holds a record of this index for others, or a later one. -/
def slotPassed (r : MRing) (bit_ ctx : Nat) (cx : Word) : Bool :=
  !slotMine r bit_ ctx cx && decide (((r.slot (cx.toNat % 16)).seq - cx).toNat < 2 ^ 31)

/-- The pair of registers a pop writes. -/
def popLow (d : BitVec 4) : Reg := d.zeroExtend 5 <<< 1

/-! ## System registers (R159, R447) -/

/-- The registers of every sequencer: number, value, and whether it may be written. -/
def coreRegisters (s : State) (c : Nat) : List (Nat × DWord × Bool) :=
  let x := s.core c
  [ (0x000, BitVec.ofNat 64 (s.coreCtx c), false), (0x001, BitVec.ofNat 64 (coreSector c + 2 ^ 8 * s.package.toNat), false),
    (0x002, BitVec.ofNat 64 s.cyc, false),
    (0x003, BitVec.ofNat 64 ((if x.evt then 1 else 0) + (if x.rpl then 2 else 0) + (if x.mrh then 4 else 0)
      + (if c = Config.sceip then 8 else 0)), true),
    (0x004, x.epc, true), (0x005, x.ecause, true), (0x006, x.eaddr, true), (0x007, x.evec, true), (0x008, x.erg, true),
    (0x009, BitVec.ofNat 64 (x.rplIdx.toNat + 2 ^ 16 * x.rplLen.toNat), false), (0x00A, x.mcix.zeroExtend 64, false) ]

/-- The management registers of the Sceip core. -/
def mgmtRegisters (s : State) : List (Nat × DWord × Bool) :=
  [ (0x100, s.talert.zeroExtend 64, true), (0x101, s.thyst.zeroExtend 64, true), (0x102, s.tstress.zeroExtend 64, true),
    (0x103, s.fqsel.zeroExtend 64, true), (0x104, (s.ctxOf s.fqsel.toNat).fqaddr, true),
    (0x105, BitVec.ofNat 64 (s.prstBay.toNat + (if s.prstRun.contains s.prstBay.toNat then 4 else 0)), true), (0x106, s.evlprod, false),
    (0x107, BitVec.ofNat 64 (s.package.toNat + (if s.recovery then 2 ^ 12 else 0)), false), (0x108, s.bootst.zeroExtend 64, false) ]

/-- The registers a core may access. -/
def registersOf (s : State) (c : Nat) : List (Nat × DWord × Bool) :=
  coreRegisters s c ++ (if c = Config.sceip then mgmtRegisters s else [])

/-- The state after a write of v to one of the registers that may be written: reserved-zero bits stay zero. -/
def regWritten (s : State) (c : Nat) (v : DWord) : List (Nat × State) :=
  [ (0x004, s.updCore c (fun x => { x with epc := v })), (0x005, s.updCore c (fun x => { x with ecause := v &&& 0xFF })),
    (0x006, s.updCore c (fun x => { x with eaddr := v })),
    (0x007, s.updCore c (fun x => { x with evec := v &&& 0xFFFFFFFFFFFFFFFC })),
    (0x008, s.updCore c (fun x => { x with erg := v &&& 0x3FFFFF })),
    (0x100, { s with talert := (v.extractLsb' 0 16).zeroExtend 32 }), (0x101, { s with thyst := (v.extractLsb' 0 16).zeroExtend 32 }),
    (0x102, { s with tstress := (v.extractLsb' 0 16).zeroExtend 32 }), (0x103, { s with fqsel := v.extractLsb' 0 6 }),
    (0x104, { s with ctxs := AMap.set s.ctxs s.fqsel.toNat { s.ctxOf s.fqsel.toNat with fqaddr := v } }) ]

/-- The operations of R225, written with every register field they use. -/
def mgmtCommands (d a b : Reg) : List Instr :=
  [.ctxTen d a, .ctxRoot d a, .ctxKill d a, .mstFrz d, .mstThaw d, .thrSet d a, .snsrRd d a, .evlPut d, .tlbInv d a, .seqRun d a b,
    .seqStop d, .seqResume d]

/-- The state after context n was given a tenant, and the chain tables forgot it. -/
def State.tenanted (s : State) (n t : Nat) : State :=
  { s with
    ctxs := AMap.set s.ctxs n { s.ctxOf n with tenant := t }
    chain := s.chain.filter (fun e => e.2.key.toNat / 2 ^ 42 != n) }

/-! ## Configuration operations and launches (R19, R40, R205, R340 to R344) -/

/-- Operation o of the configuration network is the first of its region, in the given stage. -/
structure Pending (s : State) (o : CfgOp) (st : CfgSt) : Prop where
  found : s.cfgop? o.id = some o
  first : firstOf o s.cfgops = true
  stage : o.st = st

/-- Its region word is well formed, and its core owns the region, is the Sceip core, or acts for a launch (R208, R22). -/
structure MayName (o : CfgOp) : Prop where
  word : wordBad o.word = false
  owner : o.core = Config.sceip ∨ o.launch ≠ 0 ∨ wordId o.word / 16 = o.core

/-- A launch that is accepted. -/
structure Accepted (s : State) (l : Launch) : Prop where
  found : s.launch? l.id = some l
  accepted : l.accepted = true

/-! ## Links, packets and queue ends (R228 to R254) -/

/-- A token stands at an element's outgoing wire and may leave in this cycle; it is no fathom and reproduces no token that left
before. -/
structure Leaving (s : State) (r : Region) (e : Nat) (side : Dir) (t : Entry) : Prop where
  resident : s.region? r.id = some r
  head : s.outHead r e side = some t
  idle : (s.wire (wireKey (r.loc e) side)).lastTake ≤ s.cyc
  live : s.sideLive r e = true
  unfenced : s.fenced r e t.src = false
  open_ : r.heldAtEntry e side = false
  token : r.crosses e side = true → isFathom t.tok.tag = false ∧ (t.src = 0 ∨ AMap.getD r.wsup (wireKey (r.loc e) side) 0 = 0)

/-- An access of a region in a given stage, whose region acts. -/
structure AccessAt (s : State) (r : Region) (a : Acc) (st : AccSt) : Prop where
  resident : s.region? r.id = some r
  access : r.acc? a.serial = some a
  stage : a.st = st
  live : s.regionLive r = true

/-- The region with an access replaced. -/
def State.accNow (s : State) (r : Region) (a : Acc) : State := s.updRegion r.id (fun q => q.setAcc a)

end Sys2Proof.Machine
end

