-- ==== Sys2Proof/Certificates/Slice0/Obligations.lean ====
section
/-!
DEFINITION. Certificates/Slice0/Obligations.lean: the statements for the provers.
-/
open Sys2Proof Sys2Proof.Machine

/-! ## Element: results of classes R, U and V -/

/-- R119 with R87, R89, R91: every integer instruction writes the result of the table; sel takes the source p7 chooses (R120).
R121 to R124: the FP32, packed and conversion instructions; a fused instruction adds its destination register. (That cvt.e4m3.f32 makes
NaN of an infinite source in every rounding mode without .satf is the model's choice: log entry 72.)
Rests on the model's choices too: log entry 72. -/
def Obligations.ArithmeticFiringsWriteResult : Prop :=
  ((∀ p ∈ integerPairs, ∀ f, ScalarFiring (p.1 f) f (fun _ => p.2)) ∧
  (∀ p ∈ integerSingles, ∀ f, UnaryFiring Elem.scalarSrc scalarDest (p.1 f) f (fun _ a => scalarOf (p.2 (lane a 0)))) ∧
  (∀ f s r e slot a b, Fires s r e slot → (r.elem e).scalarSrc s.cyc f.a = some a → (r.elem e).scalarSrc s.cyc f.b = some b →
    (scalarDest f.d).room (r.elem e) s.cyc = true → poisonLevel a (some b) = none →
    exec (.sel f) s = .next (s.fired r e slot (finishFire (firing s r e slot) (r.elem e) f.dqa f.dqb f.sp a.chan b.chan
      (scalarDest f.d)
      (let ch := if (r.elem e).p.getLsbD 7 then a else b
       if stopPasses f.tp (scalarDest f.d) ch then ⟨ch.val, ch.tag⟩
       else ⟨scalarOf (lane ch.val 0), if f.tp && ch.chan.isSome then ch.tag else dataTag⟩)) []))) ∧
  ((∀ p ∈ floatPairs, ∀ f, ScalarFiring (p.1 f) f (fun _ a b => BitVec.ofNat 32 (p.2 a.toNat b.toNat))) ∧
  (∀ p ∈ packedPairs, ∀ f, ScalarFiring (p.1 f) f
    (fun _ a b => packItems (p.2 (loItem a) (loItem b)) (p.2 (hiItem a) (hiItem b)))) ∧
  (∀ p ∈ floatSingles, ∀ f, UnaryFiring Elem.scalarSrc scalarDest (p.1 f) f (fun _ a => scalarOf (p.2 f.b.toNat (lane a 0)))) ∧
  (∀ f, ScalarFiring (.ffmaF32 f) f
    (fun el a b => BitVec.ofNat 32 (Fmt.f32.fmaBits a.toNat b.toNat (el.xr f.d.toNat).toNat))) ∧
  (∀ p ∈ [(Instr.ffmaF16x2, Fmt.f16), (Instr.ffmaBf16x2, Fmt.bf16)], ∀ f, ScalarFiring (p.1 f) f
    (fun el a b => packItems (p.2.fmaBits (loItem a) (loItem b) (loItem (el.xr f.d.toNat)))
      (p.2.fmaBits (hiItem a) (hiItem b) (hiItem (el.xr f.d.toNat))))))

/-- R125 to R127: lane j of the result depends on lane j alone; a lane moves; the reductions add or compare in the fixed tree of
R71, whose pairs are spelled out. -/
def Obligations.VectorFiringWritesLanes : Prop :=  (∀ p ∈ [(Instr.vaddI32, fun (a b : Word) => a + b), (Instr.vfaddF32, fun a b => BitVec.ofNat 32 (Fmt.f32.addBits a.toNat b.toNat)),
      (Instr.vfmulF32, fun a b => BitVec.ofNat 32 (Fmt.f32.mulBits a.toNat b.toNat))],
    ∀ f, VectorFiring (p.1 f) f (fun _ a b => ofLaneFn (fun j => p.2 (lane a j) (lane b j)))) ∧
  (∀ f, VectorFiring (.vfmaF32 f) f (fun el a b => ofLaneFn (fun j =>
    BitVec.ofNat 32 (Fmt.f32.fmaBits (lane a j).toNat (lane b j).toNat (lane (el.wr f.d.toNat) j).toNat)))) ∧
  (∀ p ∈ [(Instr.vfmaF16, Fmt.f16), (Instr.vfmaBf16, Fmt.bf16)], ∀ f, VectorFiring (p.1 f) f (fun el a b => ofLaneFn (fun j =>
    packItems (p.2.fmaBits (loItem (lane a j)) (loItem (lane b j)) (loItem (lane (el.wr f.d.toNat) j)))
      (p.2.fmaBits (hiItem (lane a j)) (hiItem (lane b j)) (hiItem (lane (el.wr f.d.toNat) j)))))) ∧
  (∀ f, UnaryFiring Elem.scalarSrc vectorDest (.vbcast f) f (fun _ a => ofLaneFn (fun _ => lane a 0))) ∧
  (∀ f, UnaryFiring Elem.vectorSrc scalarDest (.vext f) f (fun _ a => scalarOf (lane a f.b.toNat))) ∧
  (∀ f, UnaryFiring Elem.scalarSrc vectorDest (.vins f) f (fun el a => ofLaneFn (fun j =>
    if j = f.b.toNat then lane a 0 else lane (el.wr f.d.toNat) j))) ∧
  (∀ f, UnaryFiring Elem.vectorSrc scalarDest (.vredsumF32 f) f (fun _ a => scalarOf (redsumF32 a))) ∧
  (∀ f, UnaryFiring Elem.vectorSrc scalarDest (.vredsumF16 f) f (fun _ a => scalarOf (redsumF16 a))) ∧
  (∀ f, UnaryFiring Elem.vectorSrc scalarDest (.vredmaxF32 f) f (fun _ a => scalarOf (redmaxF32 a))) ∧
  (∀ a : Wide, redsumF32 a = BitVec.ofNat 32 (tree8 Fmt.f32.addBits (fun j => (lane a j).toNat)) ∧
    redmaxF32 a = BitVec.ofNat 32 (tree8 (Fmt.f32.minmax 1) (fun j => (lane a j).toNat)) ∧
    ∀ v, v = (fun k => if k % 2 = 0 then loItem (lane a (k / 2)) else hiItem (lane a (k / 2))) →
      redsumF16 a = BitVec.ofNat 32 (Fmt.f16.addBits (tree8 Fmt.f16.addBits v) (tree8 Fmt.f16.addBits (fun k => v (k + 8)))))

/-- R90 for every instruction of classes R, U and V, by the operands it reads. -/
def Obligations.PoisonHeadPassesOrRaises : Prop :=  (∀ f, ∀ i ∈ scalarPairs f, ∀ s r e slot a b l, Fires s r e slot →
    (r.elem e).scalarSrc s.cyc f.a = some a → (r.elem e).scalarSrc s.cyc f.b = some b →
    (scalarDest f.d).room (r.elem e) s.cyc = true → poisonLevel a (some b) = some l →
    exec i s = .next (poisonOutcome s r e slot f f.dqb a b.chan (scalarDest f.d) l)) ∧
  (∀ f, ∀ i ∈ scalarSingles f, ∀ s r e slot a l, Fires s r e slot → (r.elem e).scalarSrc s.cyc f.a = some a →
    (scalarDest f.d).room (r.elem e) s.cyc = true → poisonLevel a none = some l →
    exec i s = .next (poisonOutcome s r e slot f false a none (scalarDest f.d) l)) ∧
  (∀ f, ∀ i ∈ vectorPairs f, ∀ s r e slot a b l, Fires s r e slot →
    (r.elem e).vectorSrc s.cyc f.a = some a → (r.elem e).vectorSrc s.cyc f.b = some b →
    (vectorDest f.d).room (r.elem e) s.cyc = true → poisonLevel a (some b) = some l →
    exec i s = .next (poisonOutcome s r e slot f f.dqb a b.chan (vectorDest f.d) l)) ∧
  (∀ f, ∀ i ∈ scalarToVector f, ∀ s r e slot a l, Fires s r e slot → (r.elem e).scalarSrc s.cyc f.a = some a →
    (vectorDest f.d).room (r.elem e) s.cyc = true → poisonLevel a none = some l →
    exec i s = .next (poisonOutcome s r e slot f false a none (vectorDest f.d) l)) ∧
  (∀ f, ∀ i ∈ vectorToScalar f, ∀ s r e slot a l, Fires s r e slot → (r.elem e).vectorSrc s.cyc f.a = some a →
    (scalarDest f.d).room (r.elem e) s.cyc = true → poisonLevel a none = some l →
    exec i s = .next (poisonOutcome s r e slot f false a none (scalarDest f.d) l))

/-- R84: an element whose turn it is, but which may not fire or whose trigger does not hold, changes nothing; so does an
instruction of two scalar sources while a channel it names holds no head or its destination has no room.
The frame of every element instruction: nothing of the part changes but the element's own region.
The frame of classes R, U and V within the region: every scalar register, w register, constant, instruction slot, trigger
entry, mode word, route word, static word and send slot of every element keeps its value, but the destination of the instruction; no
memory access is issued and the route table and credits stay. Where no arrival is pending, every other element stays whole, and of the
element itself the predicates keep their value but for a predicate destination and the set-predicate step, the output channels but the
destination, and the input channels and inboxes where no dequeue flag is set. -/
def Obligations.ElementFiringFrame : Prop :=
  ((∀ i s id e slot, wordKind i = .element → s.act = .elem id e slot →
    (∀ r, s.region? id = some r → (s.triggeredFires r e && trigOk (r.elem e) s.cyc (slotTrig r e slot)) = false) →
    exec i s = .next s) ∧
  (∀ f, ∀ i ∈ scalarPairs f, ∀ s r e slot, Fires s r e slot →
    ((r.elem e).scalarSrc s.cyc f.a = none ∨ (r.elem e).scalarSrc s.cyc f.b = none ∨
      (scalarDest f.d).room (r.elem e) s.cyc = false) →
    exec i s = .next (s.setRegion r))) ∧
  (∀ i s t id e slot, wordKind i = .element → s.act = .elem id e slot → exec i s = .next t →
    { t with regions := s.regions } = s ∧ ∀ q, q ≠ id → t.region? q = s.region? q) ∧
  (∀ f, ∀ p ∈ aluForms f, ∀ s t r e slot, s.act = .elem r.id e slot → s.region? r.id = some r → exec p.1 s = .next t →
    ∃ r', t.region? r.id = some r' ∧ r'.accs = r.accs ∧ r'.rtab = r.rtab ∧ r'.cred = r.cred ∧ r'.ctx = r.ctx ∧
      (∀ k, (r'.elem k).consts = (r.elem k).consts ∧ (r'.elem k).slots = (r.elem k).slots ∧
        (r'.elem k).trigs = (r.elem k).trigs ∧ (r'.elem k).mode = (r.elem k).mode ∧
        (r'.elem k).route = (r.elem k).route ∧ (r'.elem k).static = (r.elem k).static ∧
        (∀ j, (k = e ∧ p.2 = .x j) ∨ (r'.elem k).xr j = (r.elem k).xr j) ∧
        (∀ j, (k = e ∧ p.2 = .w j) ∨ (r'.elem k).wr j = (r.elem k).wr j) ∧
        (∀ j, (k = e ∧ p.2 = .s j) ∨ (r'.elem k).sb.getD j 0 = (r.elem k).sb.getD j 0) ∧
        ((k = e ∧ p.2 = .s 0) ∨ (r'.elem k).sbtag = (r.elem k).sbtag)) ∧
      (r.pend = [] → (∀ k, k ≠ e → r'.elem k = r.elem k) ∧
        (∃ p0, (p0 = (r.elem e).p ∨ p0 = spStep f.sp (slotTrig r e slot) (r.elem e).p) ∧
          ∀ j, p.2 = .p j ∨ (r'.elem e).p.getLsbD j = p0.getLsbD j) ∧
        (∀ o, p.2 = .out o ∨ (r'.elem e).outch o = (r.elem e).outch o) ∧
        (f.dqa = false → f.dqb = false → (r'.elem e).inc = (r.elem e).inc ∧ (r'.elem e).inbox = (r.elem e).inbox)))

/-! ## Element: class C -/

/-- R130, R131: predicates written under a mask and read; a token's tag made and read.
R141: send stages the packet of the send buffer on the label's route, which must be a packet route; the buffer stays. (That
a poison label raises POISON_CONSUMED without a packet credit is the model's choice: log entry 58.)
Rests on the model's choices too: log entry 58. -/
def Obligations.PredicateTagAndSendFirings : Prop :=
  ((∀ f s r e slot a b, Fires s r e slot → (r.elem e).scalarSrc s.cyc f.a = some a → (r.elem e).scalarSrc s.cyc f.b = some b →
    exec (.pwr f) s = .next (if (poisonLevel a (some b)).isSome then s.raised r e slot Cause.poisonConsumed
      else s.fired r e slot
        (let y := deqFlagged (r.elem e) s.cyc f.dqa f.dqb a.chan b.chan
         { y with p := (y.p &&& ~~~(b.val.extractLsb' 0 8)) ||| (a.val.extractLsb' 0 8 &&& b.val.extractLsb' 0 8) }) [])) ∧
  (∀ f s r e slot, Fires s r e slot → (scalarDest f.d).room (r.elem e) s.cyc = true →
    exec (.prd f) s = .next (s.fired r e slot
      ((s.flip r e slot f.sp (r.elem e)).write s.cyc r.serial (scalarDest f.d) ⟨(r.elem e).p.zeroExtend 256, 0⟩) [])) ∧
  (∀ f s r e slot a b, Fires s r e slot → (r.elem e).scalarSrc s.cyc f.a = some a → (r.elem e).scalarSrc s.cyc f.b = some b →
    (scalarDest f.d).room (r.elem e) s.cyc = true →
    exec (.tagSet f) s = .next (if (poisonLevel a (some b)).isSome then s.raised r e slot Cause.poisonConsumed
      else s.fired r e slot (finishFire (firing s r e slot) (r.elem e) f.dqa f.dqb f.sp a.chan b.chan (scalarDest f.d)
        ⟨scalarOf (lane a.val 0), mkTag 0 (lane b.val 0).toNat⟩) [])) ∧
  (∀ f s r e slot a, Fires s r e slot → (r.elem e).scalarSrc s.cyc f.a = some a →
    (scalarDest f.d).room (r.elem e) s.cyc = true →
    exec (.tagGet f) s = .next (s.fired r e slot (finishFire (firing s r e slot) (r.elem e) f.dqa false f.sp a.chan none
      (scalarDest f.d) ⟨a.tag.zeroExtend 256, 0⟩) []))) ∧
  (∀ f s r e slot a, Fires s r e slot → (r.elem e).scalarSrc s.cyc f.a = some a → (r.elem e).stage = none →
    (r.elem e).stageFreed ≤ s.cyc → ∀ k, k = (lane a.val 0).toNat % 128 →
    (isPoison a.tag = true → exec (.send f) s = .next (s.raised r e slot Cause.poisonConsumed)) ∧
    (isPoison a.tag = false → routeType (r.route k) ≠ 1 → routeType (r.route k) ≠ 2 →
      exec (.send f) s = .next (s.raised r e slot Cause.routeInvalid)) ∧
    (isPoison a.tag = false → (routeType (r.route k) = 1 ∨ routeType (r.route k) = 2) →
      (0 < (firing s r e slot).credits k ∨ AMap.getD r.rsup k 0 ≠ 0) → s.routeLive r k = true →
      exec (.send f) s = .next (s.fired r e slot (s.flip r e slot f.sp (deqFlagged (r.elem e) s.cyc f.dqa false a.chan none))
        [.send k { header := headerOf r.ctx k (r.loc e) (r.elem e).sbtag (f.d == 31)
                   w0 := ((r.elem e).sb.getD 1 0).zeroExtend 64 <<< 32 ||| ((r.elem e).sb.getD 0 0).zeroExtend 64
                   w1 := if f.d == 31 then ((r.elem e).sb.getD 3 0).zeroExtend 64 <<< 32 ||| ((r.elem e).sb.getD 2 0).zeroExtend 64
                     else 0
                   two := f.d == 31
                   tag := (r.elem e).sbtag }])))

/-- R132, R134: steer moves the data token whole to the arm the control value selects; a stop closes both arms or mismatches.
(That a poison control head raises without room in an arm is the model's choice: log entry 58.)
R133, R134: merge moves the head of the arm the control value selects; a stop takes both arms' stops or mismatches.
Rests on the model's choices too: log entry 58. -/
def Obligations.SteerAndMergeMoveTokens : Prop :=
  (∀ f s r e slot ct d, Fires s r e slot → (r.elem e).scalarSrc s.cyc f.a = some ct → (r.elem e).scalarSrc s.cyc f.b = some d →
    (isPoison ct.tag = true → exec (.steer f) s = .next (s.raised r e slot Cause.poisonConsumed)) ∧
    (isPoison ct.tag = false → isStop ct.tag = false → ∀ o, o = (if lane ct.val 0 = 0 then f.d.toNat - 16 else f.d.toNat - 15) →
      (r.elem e).outRoom s.cyc o = true → 16 ≤ f.d.toNat →
      exec (.steer f) s = .next (s.fired r e slot (s.flip r e slot f.sp (deqFlagged ((r.elem e).enq s.cyc r.serial o ⟨d.val, d.tag⟩)
        s.cyc f.dqa true ct.chan d.chan)) [])) ∧
    (isStop ct.tag = true → (r.elem e).outRoom s.cyc (f.d.toNat - 16) = true → (r.elem e).outRoom s.cyc (f.d.toNat - 16 + 1) = true →
      exec (.steer f) s = .next (if isStop d.tag && levelOf d.tag == levelOf ct.tag then
          s.fired r e slot (s.flip r e slot f.sp (deqFlagged
            (((r.elem e).enq s.cyc r.serial (f.d.toNat - 16) ⟨d.val, d.tag⟩).enq s.cyc r.serial (f.d.toNat - 16 + 1) ⟨d.val, d.tag⟩)
            s.cyc f.dqa true ct.chan d.chan)) []
        else s.raised r e slot Cause.stopMismatch))) ∧
  (∀ f s r e slot ct, Fires s r e slot → (r.elem e).scalarSrc s.cyc f.a = some ct →
    (r.elem e).outRoom s.cyc (f.d.toNat - 16) = true → 16 ≤ f.b.toNat →
    (∀ m t, isStop ct.tag = false → m = (if lane ct.val 0 = 0 then f.b.toNat - 16 else f.b.toNat - 15) →
      (r.elem e).head s.cyc m = some t →
      exec (.merge f) s = .next (if isPoison ct.tag then s.raised r e slot Cause.poisonConsumed
        else s.fired r e slot (s.flip r e slot f.sp
          (mergeDeq ((r.elem e).enq s.cyc r.serial (f.d.toNat - 16) t) s.cyc [m] f.dqa ct.chan)) [])) ∧
    (∀ x y, isStop ct.tag = true → (r.elem e).head s.cyc (f.b.toNat - 16) = some x →
      (r.elem e).head s.cyc (f.b.toNat - 16 + 1) = some y →
      exec (.merge f) s = .next (if isStop x.tag && isStop y.tag && levelOf x.tag == levelOf ct.tag && levelOf y.tag == levelOf ct.tag
        then s.fired r e slot (s.flip r e slot f.sp
          (mergeDeq ((r.elem e).enq s.cyc r.serial (f.d.toNat - 16) x) s.cyc [f.b.toNat - 16, f.b.toNat - 16 + 1] f.dqa ct.chan)) []
        else s.raised r e slot Cause.stopMismatch)))

/-- R136: rep sends the token once per firing while the count register holds, and consumes it in the last.
R137, R139, R142: a stop token is made; a sweep starts with the head's level as its exit; fin finishes the element. -/
def Obligations.RepeatStopSweepFinFirings : Prop :=
  (∀ f s r e slot a, Fires s r e slot → (r.elem e).scalarSrc s.cyc f.a = some a →
    (scalarDest f.d).room (r.elem e) s.cyc = true →
    ∀ consume : Elem → Elem, consume = (fun x => s.flip r e slot f.sp (deqFlagged x s.cyc f.dqa false a.chan none)) →
    (isPoison a.tag = true → exec (.rep f) s = .next (if f.tp
      then s.fired r e slot ((consume (r.elem e)).write s.cyc r.serial (scalarDest f.d) ⟨0, mkTag 3 (levelOf a.tag)⟩) []
      else s.raised r e slot Cause.poisonConsumed)) ∧
    (isPoison a.tag = false → isStop a.tag = true → f.tp = true →
      exec (.rep f) s = .next (s.fired r e slot ((consume (r.elem e)).write s.cyc r.serial (scalarDest f.d) ⟨a.val, a.tag⟩) [])) ∧
    (isPoison a.tag = false → (isStop a.tag && f.tp) = false → (r.elem e).xr f.b.toNat = 0 →
      exec (.rep f) s = .next (s.fired r e slot (consume (r.elem e)) [])) ∧
    (isPoison a.tag = false → (isStop a.tag && f.tp) = false → (r.elem e).xr f.b.toNat ≠ 0 →
      ∀ y, y = ((r.elem e).write s.cyc r.serial (scalarDest f.d) ⟨scalarOf (lane a.val 0), outTag f.tp a none⟩).setX f.b.toNat
          ((r.elem e).xr f.b.toNat - 1) →
      exec (.rep f) s = .next (s.fired r e slot (if (r.elem e).xr f.b.toNat = 1 then consume y else y) []))) ∧
  ((∀ f s r e slot a b, Fires s r e slot → (r.elem e).scalarSrc s.cyc f.a = some a → (r.elem e).scalarSrc s.cyc f.b = some b →
    (scalarDest f.d).room (r.elem e) s.cyc = true →
    (poisonLevel a (some b) = none → exec (.stop f) s = .next (s.fired r e slot (finishFire (firing s r e slot) (r.elem e)
      f.dqa f.dqb f.sp a.chan b.chan (scalarDest f.d) ⟨scalarOf (lane a.val 0), mkTag 1 (lane b.val 0).toNat⟩) [])) ∧
    (∀ l, poisonLevel a (some b) = some l → exec (.stop f) s = .next (if f.tp
      then s.fired r e slot (finishFire (firing s r e slot) (r.elem e) f.dqa f.dqb f.sp a.chan b.chan (scalarDest f.d)
        ⟨0, mkTag 3 l⟩) []
      else s.raised r e slot Cause.poisonConsumed))) ∧
  (∀ f s r e slot a, Fires s r e slot → (r.elem e).scalarSrc s.cyc f.a = some a →
    exec (.sweep f) s = .next (if isPoison a.tag then s.raised r e slot Cause.poisonConsumed
      else s.fired r e slot (s.flip r e slot f.sp (deqFlagged (r.elem e) s.cyc f.dqa false a.chan none))
        [.sweep (BitVec.ofNat 6 (levelOf a.tag))])) ∧
  (∀ f s r e slot, Fires s r e slot →
    exec (.fin f) s = .next (s.fired r e slot (let y := s.flip r e slot f.sp (r.elem e); { y with finished := true }) [.fin])))

/-! ## Element: classes M and A, and the static element -/

/-- R143, R144, R146: a load's firing reads its offset, and hands its region an access of the instruction's size at pair plus
the sign-extended offset; vld names a version and the pair alone. A poison source raises.
R101, R118, R144, R353: what the firing of a load, a store or an atomic leaves in its region: the access stands last in the
list of accesses, with the serial of its firing, and an entry of its response channel is reserved for each half of the answer;
memory is not touched by the firing. -/
def Obligations.LoadFiringsIssueAccesses : Prop :=
  ((∀ p ∈ [(Instr.ldB32, 4), (Instr.ldU8, 1), (Instr.ldW256, 32)], ∀ f s r e slot b, Fires s r e slot →
    (r.elem e).scalarSrc s.cyc f.b = some b → r.portFree s.cyc e = true → (r.elem e).inRoom s.cyc f.rsp.toNat ≠ 0 →
    exec (p.1 f) s = .next (if isPoison b.tag then s.raised r e slot Cause.poisonConsumed
      else s.fired r e slot (s.flip r e slot f.sp (deqFlagged (r.elem e) s.cyc false f.dqb none b.chan))
        [.access { kind := if f.ord = 1 then .acquire else .load
                   va := (r.elem e).pair f.pair.toNat + (lane b.val 0).signExtend 64
                   size := p.2, tag := outTag f.tp b none, rsp := f.rsp.toNat, scope := f.scope.toNat, ord := f.ord.toNat }])) ∧
  (∀ f s r e slot b, Fires s r e slot → (r.elem e).scalarSrc s.cyc f.b = some b → r.portFree s.cyc e = true →
    2 ≤ (r.elem e).inRoom s.cyc f.rsp.toNat →
    exec (.vld f) s = .next (if isPoison b.tag then s.raised r e slot Cause.poisonConsumed
      else s.fired r e slot (s.flip r e slot f.sp (deqFlagged (r.elem e) s.cyc false f.dqb none b.chan))
        [.access { kind := .vld, va := (r.elem e).pair f.pair.toNat, size := 8, version := lane b.val 0
                   tag := outTag f.tp b none, rsp := f.rsp.toNat }]))) ∧
  (∀ (r : Region) now e slot (el : Elem) (a : AccReq),
    r.applied.find? (fun p => p.elem == e && p.slot == slot) = none → ∀ r', r' = r.firing now e slot false el [.access a] →
      r'.accs = r.accs ++ [mkAcc r e slot now a] ∧ r'.serial = r.serial + 1 ∧
      (r.pend = [] → (mkAcc r e slot now a).halves ≠ 0 → a.rsp < 4 → (r'.elem e).inch a.rsp = { el.inch a.rsp with
        q := (el.inch a.rsp).q ++ (List.range (mkAcc r e slot now a).halves).map (fun h => InEntry.resv r.serial h false) }))

/-- R143, R145, R147, R148, R150: a store's firing reads its data and hands its region an access at the pair; a release, vst and
vrcl also need that no closing window stands in their way; fence reads nothing.
R151, R152: an atomic's firing takes its operands from the pair of registers and hands its region the access. -/
def Obligations.StoreAndAtomicFiringsIssue : Prop :=
  ((∀ p ∈ [(Instr.stB32, 4, Elem.scalarSrc), (Instr.stB8, 1, Elem.scalarSrc), (Instr.stW256, 32, Elem.vectorSrc)],
    ∀ f s r e slot d, Fires s r e slot → p.2.2 (r.elem e) s.cyc f.b = some d → r.portFree s.cyc e = true →
    (f.ord = 2 → r.unbufOk s.cyc = true) →
    exec (p.1 f) s = .next (if isPoison d.tag then s.raised r e slot Cause.poisonConsumed
      else s.fired r e slot (s.flip r e slot f.sp (deqFlagged (r.elem e) s.cyc false f.dqb none d.chan))
        [.access { kind := if f.ord = 2 then .release else .store, va := (r.elem e).pair f.pair.toNat, size := p.2.1
                   data := d.val, scope := f.scope.toNat, ord := f.ord.toNat
                   itag := if d.chan.isSome then some (BitVec.ofNat 6 (levelOf d.tag)) else none }])) ∧
  (∀ f s r e slot, Fires s r e slot → r.portFree s.cyc e = true → r.unbufOk s.cyc = true →
    exec (.vst f) s = .next (s.fired r e slot (s.flip r e slot f.sp (r.elem e))
      [.access { kind := .vst, va := (r.elem e).pair f.pair.toNat, size := 8
                 data := ((r.elem e).pair (f.b.toNat / 4)).zeroExtend 256 }])) ∧
  (∀ f s r e slot b, Fires s r e slot → (r.elem e).scalarSrc s.cyc f.b = some b → r.portFree s.cyc e = true → r.unbufOk s.cyc = true →
    exec (.vrcl f) s = .next (if isPoison b.tag then s.raised r e slot Cause.poisonConsumed
      else s.fired r e slot (s.flip r e slot f.sp (deqFlagged (r.elem e) s.cyc false f.dqb none b.chan))
        [.access { kind := .vrcl, va := (r.elem e).pair f.pair.toNat, size := 8, version := lane b.val 0 }])) ∧
  (∀ f s r e slot, Fires s r e slot →
    exec (.fence f) s = .next (s.fired r e slot (s.flip r e slot f.sp (r.elem e)) [.fence]))) ∧
  (∀ p ∈ [(Instr.amoAdd32, AmoKind.add, 4), (Instr.amoAdd64, .add, 8), (Instr.amoMinI32, .min, 4), (Instr.amoMaxI32, .max, 4),
      (Instr.amoAnd32, .band, 4), (Instr.amoOr32, .bor, 4), (Instr.amoXchg32, .xchg, 4), (Instr.amoCas32, .cas, 4),
      (Instr.amoCas64, .cas, 8), (Instr.amoFaddF32, .fadd, 4)],
    ∀ f s r e slot, Fires s r e slot → r.portFree s.cyc e = true → r.unbufOk s.cyc = true → p.2.2 / 4 ≤ (r.elem e).inRoom s.cyc f.rsp.toNat →
    exec (p.1 f) s = .next (s.fired r e slot (s.flip r e slot f.sp (r.elem e))
      [.access { kind := .amo p.2.1, va := (r.elem e).pair f.addr.toNat, size := p.2.2
                 data := if p.2.2 = 8 then ((r.elem e).pair f.opnd.toNat).zeroExtend 256
                   else scalarOf ((r.elem e).xr (2 * f.opnd.toNat))
                 new := if p.2.2 = 8 then (r.elem e).pair (f.opnd.toNat + 1)
                   else ((r.elem e).xr (2 * f.opnd.toNat + 1)).zeroExtend 64
                 rsp := f.rsp.toNat, scope := f.scope.toNat, ord := f.ord.toNat }]))

/-- R107, R108: a static element that may operate takes its operands, passes them on and sends its result: poison of a poison operand, the
stop of a stop operand, operand A's of two, and else the value that R119 to R124 give its opcode, under the tag rule of R89. (Of two poison
operands with different LEVELs operand A's is the model's choice: log entry 81.)
Rests on the model's choices too: log entries 65, 81. -/
def Obligations.StaticElementOperates : Prop :=  (∀ s r e a b, s.region? r.id = some r → e < 4 * r.quads → (r.elem e).isStatic = true → (r.elem e).isMatrix = false →
    s.elemFires r e = true →
    (r.elem e).staticSrc s.cyc (stA (r.elem e).static) = some a → (r.elem e).staticSrc s.cyc (stB (r.elem e).static) = some b →
    (∀ k ∈ [stPassA (r.elem e).static, stPassB (r.elem e).static, stRes (r.elem e).static],
      (r.elem e).roomOn s.cyc k [stPassA (r.elem e).static, stPassB (r.elem e).static, stRes (r.elem e).static] = true) →
    exec (.staticOperation r.id e) s = .next (s.setRegion (r.firing s.cyc e 0 true
      (((((r.elem e).staticDeq s.cyc a b).sendOn s.cyc r.serial (stPassA (r.elem e).static) ⟨a.val, a.tag⟩).sendOn s.cyc r.serial
        (stPassB (r.elem e).static) ⟨b.val, b.tag⟩).sendOn s.cyc r.serial (stRes (r.elem e).static)
        (staticResult (mkCtx s r e 0 []) (stOp (r.elem e).static) a b (stB (r.elem e).static != 0))) []))) ∧
  ∀ (c : FireCtx) op (x y : Src) two,
    (∀ l, poisonLevel x (if two = true then some y else none) = some l → staticResult c op x y two = ⟨0, mkTag 3 l⟩) ∧
    (poisonLevel x (if two = true then some y else none) = none →
      (isStop x.tag = true → staticResult c op x y two = ⟨x.val, x.tag⟩) ∧
      (isStop x.tag = false → two = true → isStop y.tag = true → staticResult c op x y two = ⟨y.val, y.tag⟩) ∧
      (isStop x.tag = false → two = true → isStop y.tag = false → ∀ f,
        (∀ p ∈ integerPairs, op = opcodeOf (p.1 f) → staticResult c op x y two =
          ⟨scalarOf (p.2 (lane x.val 0) (lane y.val 0)), outTag true x (some y)⟩) ∧
        (∀ p ∈ floatPairs, op = opcodeOf (p.1 f) → staticResult c op x y two =
          ⟨scalarOf (BitVec.ofNat 32 (p.2 (lane x.val 0).toNat (lane y.val 0).toNat)), outTag true x (some y)⟩) ∧
        (∀ p ∈ packedPairs, op = opcodeOf (p.1 f) → staticResult c op x y two =
          ⟨scalarOf (packItems (p.2 (loItem (lane x.val 0)) (loItem (lane y.val 0)))
            (p.2 (hiItem (lane x.val 0)) (hiItem (lane y.val 0)))), outTag true x (some y)⟩)) ∧
      (isStop x.tag = false → two = false → ∀ f,
        (∀ p ∈ integerSingles, op = opcodeOf (p.1 f) → staticResult c op x y two = ⟨scalarOf (p.2 (lane x.val 0)), outTag true x none⟩) ∧
        (∀ p ∈ floatSingles, op = opcodeOf (p.1 f) → staticResult c op x y two =
          ⟨scalarOf (p.2 0 (lane x.val 0)), outTag true x none⟩)))

/-! ## Sequencer: integer instructions and branches -/

/-- R170 with R156: each ALU instruction writes the result of the table to gd and goes on at the next word.
R171: each I16 instruction but jalr. -/
def Obligations.SequencerArithmetic : Prop :=
  (∀ p ∈ seqPairs, ∀ d a b s c, CoreReady s c [a, b] [d] →
    exec (p.1 d a b) s = .next (s.wrote c d (p.2 ((s.core c).gr a) ((s.core c).gr b)) 4)) ∧
  ((∀ p ∈ seqImmediates, ∀ d a i s c, CoreReady s c [a] [d] → exec (p.1 d a i) s = .next (s.wrote c d (p.2 ((s.core c).gr a) i) 4)) ∧
  (∀ p ∈ seqShifts, ∀ d a n s c, CoreReady s c [a] [d] →
    exec (p.1 d a n) s = .next (s.wrote c d (p.2 ((s.core c).gr a) n.toNat) 4)) ∧
  (∀ d q i s c, CoreReady s c [] [d] → exec (.movz d q i) s = .next (s.wrote c d (i.zeroExtend 64 <<< (16 * q.toNat)) 4)) ∧
  (∀ d q i s c, CoreReady s c [d] [d] → exec (.movk d q i) s = .next (s.wrote c d
    (((s.core c).gr d &&& ~~~(fieldMask q)) ||| (i.zeroExtend 64 <<< (16 * q.toNat))) 4)))

/-- R171, R172: branches go to the branch's address plus four times the offset when taken; jal and jalr link; a jalr to an address
that is not a multiple of four raises MISALIGNED with nothing written. -/
def Obligations.BranchesAndLinksSetPc : Prop :=  (∀ o s c, CoreReady s c [] [] → exec (.br o) s = .next (s.retire c 4 (.to ((s.core c).pc + (o.signExtend 64 <<< 2))))) ∧
  (∀ p ∈ seqBranches, ∀ r o s c, CoreReady s c [r] [] → exec (p.1 r o) s = .next (s.retire c 4
    (if p.2 ((s.core c).gr r) then .to ((s.core c).pc + (o.signExtend 64 <<< 2)) else .next))) ∧
  (∀ r o s c, CoreReady s c [] [r] → exec (.jal r o) s = .next ((s.updCore c (fun x => x.wr r (x.pc + 4))).retire c 4
    (.to ((s.core c).pc + (o.signExtend 64 <<< 2))))) ∧
  (∀ d a i s c, CoreReady s c [a] [d] → ∀ t, t = (s.core c).gr a + i.signExtend 64 → exec (.jalr d a i) s = .next
    (if t.toNat % 4 = 0 then (s.updCore c (fun x => x.wr d (x.pc + 4))).retire c 4 (.to t) else s.preciseFault c Cause.misaligned t))

/-- R156, R169: g0 reads zero, ignores writes and is never marked; a write of another register sets it, clears its mark and leaves
every other register and mark.
What retiring an instruction does: pc moves, a wait in progress ends, the answers the command held are forgotten; every other
part of the core, every other core and the rest of the part stay.
The frame of the integer instructions, immediates, branches and links, jalr to an aligned address among them: in a next state every
general register but gd, every system register, semaphore and queue of the core, every other core, all of memory and the rest of the part
are as before. A precise fault, such as that of a jalr to a misaligned address, writes only the core's exception registers, its run
state and the fault queue's side, and takes back what the instruction waited for. -/
def Obligations.SequencerRegisterFrame : Prop :=
  (∀ (x : CoreSt) (d r : Reg) (v : DWord),
    x.gr 0 = 0 ∧ x.wr 0 v = x ∧ x.marked 0 = false ∧ x.mark 0 = x ∧ x.reserved 0 = false ∧
    (d ≠ 0 → (x.wr d v).gr d = v ∧ (x.wr d v).marked d = false ∧ (x.mark d).marked d = true ∧ (x.mark d).gr d = x.gr d) ∧
    (r ≠ d → (x.wr d v).gr r = x.gr r ∧ (x.wr d v).marked r = x.marked r ∧ (x.mark d).marked r = x.marked r) ∧
    { x.wr d v with g := x.g, marks := x.marks } = x) ∧
  (∀ (s : State) (c len : Nat) (fl : Flow),
    (s.retire c len fl).core c = { s.core c with
      pc := (match fl with
        | .next => (s.core c).pc + BitVec.ofNat 64 len
        | .to t => t
        | .stay => (s.core c).pc)
      waitFrom := none, woken := false } ∧
    (∀ k, k ≠ c → (s.retire c len fl).core k = s.core k) ∧
    (∀ q ∈ s.remoteReads, q.reader ≠ .core c → q ∈ (s.retire c len fl).remoteReads) ∧
    { s.retire c len fl with cores := s.cores, remoteReads := s.remoteReads } = s) ∧
  ((∀ (i : Instr) (d : Reg) (s : State) (c : Nat) (reads : List Reg),
    (((∃ p ∈ seqPairs, ∃ a b, i = p.1 d a b ∧ reads = [a, b]) ∨ (∃ p ∈ seqImmediates, ∃ a k, i = p.1 d a k ∧ reads = [a]) ∨
      (∃ p ∈ seqShifts, ∃ a n, i = p.1 d a n ∧ reads = [a]) ∨ (∃ q k, i = .movz d q k ∧ reads = []) ∨
      (∃ q k, i = .movk d q k ∧ reads = [d]) ∨ (∃ p ∈ seqBranches, ∃ r o, i = p.1 r o ∧ d = 0 ∧ reads = [r]) ∨
      (∃ o, i = .br o ∧ d = 0 ∧ reads = []) ∨ (∃ o, i = .jal d o ∧ reads = []) ∨
      (∃ a k, i = .jalr d a k ∧ reads = [a] ∧ ((s.core c).gr a + k.signExtend 64).toNat % 4 = 0))) →
    CoreReady s c reads [d] → ∀ t, exec i s = .next t →
      (∀ r, r ≠ d → (t.core c).gr r = (s.core c).gr r ∧ (t.core c).marked r = (s.core c).marked r) ∧
      (∀ k, k ≠ c → t.core k = s.core k) ∧
      { t.core c with g := (s.core c).g, marks := (s.core c).marks, pc := (s.core c).pc, waitFrom := (s.core c).waitFrom,
                      woken := (s.core c).woken } = s.core c ∧
      (∀ a, Mem.read t.mem a = Mem.read s.mem a) ∧ (∀ a, Mem.read t.scratch a = Mem.read s.scratch a) ∧
      { t with cores := s.cores, remoteReads := s.remoteReads } = s) ∧
  (∀ (s : State) (c : Nat) (cause : Byte) (addr : DWord) (t : State), t = s.preciseFault c cause addr →
    t.core c = (s.core c).faulted cause addr ∧ (∀ k, k ≠ c → t.core k = s.core k) ∧
    (∀ a, Mem.read t.scratch a = Mem.read s.scratch a) ∧
    OnlyRecorded s { t with cores := s.cores, vldWaits := s.vldWaits, vstQueue := s.vstQueue }) ∧
  (∀ d a k s c, CoreReady s c [a] [d] → ((s.core c).gr a + k.signExtend 64).toNat % 4 ≠ 0 →
    exec (.jalr d a k) s = .next (s.preciseFault c Cause.misaligned ((s.core c).gr a + k.signExtend 64))))

/-! ## Sequencer: memory -/

/-- R35, R144, R173, R201, R245, R283, R284, R299 to R304: which cause each check of an access raises, and the address that a leaf gives.
An address that is not canonical, then a misaligned one; the walk's causes; NOT_VERSIONED before PERM_FAULT; a target the agent may not use;
of a scratchpad, ISOLATION_FREEZE in a quarter of another context and PERM_FAULT in one that is free or of another region; PERM_FAULT of a
write to a marked barrier or a bound queue. A cached translation that fails its check is dropped and walked again; the walk sets A before
the check.
R173, R175, R169, R285: a load from this package's memory writes the widened value, or marks gd where a byte is poison; from a
device page a plain load of 4 or 8 bytes writes the register's value and any other raises PERM_FAULT; from another package the
request leaves and gd is reserved. A load that meets a copy of the scoreboard or a held access of its core, whose way is shut (R442, R446),
or that the turn defers, is held and gd is reserved, wherever it goes. A check that fails is a precise fault.
R173, R175, R326: a store writes its bytes, low byte first, at the translated address and nowhere else, or is held as a load is; a release waits
for the core's earlier accesses; a device page takes a plain store of 4 or 8 bytes.
Rests on the model's choices too: log entries 15, 56, 75. -/
def Obligations.SequencerLoadsAndStores : Prop :=
  ((∀ (s : State) w need va n,
    (canonical va = false → (checkM w need va n).exec s = (.error (.raise Cause.addrNoncanonical va), s)) ∧
    (canonical va = true → va.toNat % n ≠ 0 → (checkM w need va n).exec s = (.error (.raise Cause.misaligned va), s)) ∧
    (canonical va = true → va.toNat % n = 0 →
      (∀ e s1, (translateM w need va).exec s = (.error e, s1) → (checkM w need va n).exec s = (.error e, s1)) ∧
      (∀ x s1, (translateM w need va).exec s = (.ok x, s1) →
        (targetOk w.agent x = false → (checkM w need va n).exec s = (.error (.raise Cause.addrUnmapped va), s1)) ∧
        (targetOk w.agent x = true → x.mt = 0 → ∀ held, held = (need.writes &&
            (s1.isLocal x.pa && s1.touchesBarrier (lowOf x.pa) n || s1.touchesQueue x.pa n)) →
          (checkM w need va n).exec s = (if held = true then .error (.raise Cause.permFault va) else .ok x, s1)) ∧
        (targetOk w.agent x = true → x.mt = 1 → 0 < n →
          (s1.regionOfQuad (x.pa / 2 ^ 16) = none → (checkM w need va n).exec s = (.error (.raise Cause.permFault va), s1)) ∧
          (∀ r, s1.regionOfQuad (x.pa / 2 ^ 16) = some r →
            (r.ctx ≠ w.ctx → (checkM w need va n).exec s = (.error (.isolate va), s1)) ∧
            (r.ctx = w.ctx → some r.id ≠ w.region → (checkM w need va n).exec s = (.error (.raise Cause.permFault va), s1)) ∧
            (r.ctx = w.ctx → some r.id = w.region → x.pa / 2 ^ 16 = (x.pa + n - 1) / 2 ^ 16 →
              (checkM w need va n).exec s = (.ok x, s1))))))) ∧
  (∀ (a : Agent) (x : Xlat), (x.mt = 0 → targetOk a x = isNormal (lowOf x.pa)) ∧
    (x.mt = 1 → (targetOk a x = true ↔ a = .element)) ∧ (x.mt = 2 → (targetOk a x = true ↔ a = .core))) ∧
  (∀ (s : State) w need va, canonical va = true →
    (∀ e, s.tlbFind w.bay w.ctx va = some e → checkPerm e.leaf need = none →
      (translateM w need va).exec s = (.ok (leafTarget w.quad e.leaf va), s)) ∧
    (∀ e c, s.tlbFind w.bay w.ctx va = some e → checkPerm e.leaf need = some c →
      (translateM w need va).exec s = (translateM w need va).exec (s.tlbDrop w.bay w.ctx va)) ∧
    (s.tlbFind w.bay w.ctx va = none →
      (∀ c a, s.walk w.ctx va = .bad c a → (translateM w need va).exec s = (.error (.raise c a), s)) ∧
      (∀ pa0 leaf, s.walk w.ctx va = .leaf pa0 leaf → (leaf.getLsbD 10 = true ∨ s.writeHeld pa0 8 false = false) →
        ∀ s1, s1 = (if leaf.getLsbD 10 = true then s else s.fabWriteNat pa0 8 (leaf.toNat ||| 0x400)) →
        (∀ c, checkPerm (leaf ||| 0x400) need = some c → (translateM w need va).exec s = (.error (.raise c va), s1)) ∧
        (checkPerm (leaf ||| 0x400) need = none →
          (translateM w need va).exec s = (.ok (leafTarget w.quad leaf va), s1.tlbAdd w.bay w.ctx va (leaf ||| 0x400)))))) ∧
  (∀ (s : State) ctx va, (s.ctxOf ctx).root = none → s.walk ctx va = .bad Cause.pageFault va) ∧
  (∀ (s : State) ctx va root, (s.ctxOf ctx).root = some root → s.walk ctx va = s.walkFrom va 5 root) ∧
  (∀ (s : State) va level node, level ≤ 5 → ∀ i a e, i = vaIndex va level → a = node + 8 * i → e = s.fabNat a 8 →
    (s.poisonedAt a 8 = true → s.walkFrom va level node = .bad Cause.poisonConsumed (BitVec.ofNat 64 a)) ∧
    (s.poisonedAt a 8 = false →
      (bit e 0 = false → s.walkFrom va level node = .bad Cause.pageFault va) ∧
      (bit e 0 = true → bit e 1 = false →
        (level = 0 ∨ s.badPointer e = true → s.walkFrom va level node = .bad Cause.ptFormat va) ∧
        (∀ l, level = l + 1 → s.badPointer e = false → s.walkFrom va level node = s.walkFrom va l (lowOf (bits e 51 11 * 2048)))) ∧
      (bit e 0 = true → bit e 1 = true →
        (3 < level ∨ bits e 5 2 / 4 ≠ level → s.walkFrom va level node = .bad Cause.ptFormat va) ∧
        (level ≤ 3 → bits e 5 2 / 4 = level → ∀ pa0 e0, pa0 = node + 8 * (i - i % 4 ^ (bits e 5 2 % 4)) → e0 = s.fabNat pa0 8 →
          (s.poisonedAt pa0 8 = true → s.walkFrom va level node = .bad Cause.poisonConsumed (BitVec.ofNat 64 pa0)) ∧
          (s.poisonedAt pa0 8 = false →
            (bit e0 0 = false ∨ bit e0 1 = false ∨ bits e0 5 2 ≠ bits e 5 2 ∨ s.badLeaf (BitVec.ofNat 64 e0) = true →
              s.walkFrom va level node = .bad Cause.ptFormat va) ∧
            (bit e0 0 = true → bit e0 1 = true → bits e0 5 2 = bits e 5 2 → s.badLeaf (BitVec.ofNat 64 e0) = false →
              s.walkFrom va level node = .leaf pa0 (BitVec.ofNat 64 e0))))))) ∧
  (∀ quad (leaf va : DWord) off, off = bits leaf.toNat 51 12 * 4096 + va.toNat % 2 ^ (12 + 2 * bits leaf.toNat 5 2) →
    (leafTarget quad leaf va).mt = bits leaf.toNat 53 52 ∧ (leafTarget quad leaf va).ver = leaf.getLsbD 9 ∧
    (leafTarget quad leaf va).pa = if bits leaf.toNat 53 52 = 1 then quad / 4 * 2 ^ 18 + off % 2 ^ 18 else off) ∧
  (∀ (s : State) e, s.badPointer e = true ↔
    bits e 63 52 ≠ 0 ∨ bits e 10 2 ≠ 0 ∨ ¬ (s.isLocal (bits e 51 11 * 2048) = true ∧ isNormal (lowOf (bits e 51 11 * 2048)) = true)) ∧
  (∀ (leaf : DWord) rd wr ex ver, rd = leaf.getLsbD 6 → wr = leaf.getLsbD 7 → ex = leaf.getLsbD 8 → ver = leaf.getLsbD 9 →
    checkPerm leaf .load = (if rd = true then none else some Cause.permFault) ∧
    checkPerm leaf .store = (if wr = true then none else some Cause.permFault) ∧
    checkPerm leaf .atomic = (if rd = true ∧ wr = true then none else some Cause.permFault) ∧
    checkPerm leaf .fetch = (if ex = true ∧ rd = true then none else some Cause.permFault) ∧
    checkPerm leaf .vld = (if ver = false then some Cause.notVersioned else if rd = true then none else some Cause.permFault) ∧
    checkPerm leaf .vst = (if ver = false then some Cause.notVersioned else if rd = true ∧ wr = true then none else some Cause.permFault))) ∧
  (∀ d a o scope s c, CoreReady s c [a] [d] → ∀ p ∈ coreLoads d a o scope (s.core c),
    (∀ t s1, CoreAccess s c .load p.2.1 p.2.2.1 t s1 →
      (t.mt = 0 → s1.mustHold c (s.coreCtx c) p.2.1 t p.2.2.1 = true →
        exec p.1 s = .next ((s1.holding c (s.core c) .load (some (d, .load p.2.2.1 p.2.2.2.1)) p.2.1 t p.2.2.1 0 0
          p.2.2.2.2.isSome).retire c 4 .next)) ∧
      (Here t s1 → s1.mustHold c (s.coreCtx c) p.2.1 t p.2.2.1 = false → exec p.1 s = .next (if s1.poisonedAt (lowOf t.pa) p.2.2.1
        then (s1.updCore c (fun x => x.mark d)).retire c 4 .next
        else s1.wrote c d (widened p.2.2.1 p.2.2.2.1 (leNat (s1.fabRead (lowOf t.pa) p.2.2.1))) 4)) ∧
      (t.mt = 2 → exec p.1 s = .next (if p.2.2.2.2 = none ∧ 4 ≤ p.2.2.1
        then s1.wrote c d (widened p.2.2.1 p.2.2.2.1 (s1.devRead (lowOf t.pa) p.2.2.1)) 4
        else s1.preciseFault c Cause.permFault p.2.1)) ∧
      (Away t s1 → s1.mustHold c (s.coreCtx c) p.2.1 t p.2.2.1 = false →
        exec p.1 s = .next ((s1.asked c (s.core c) .load (.load p.2.2.1 p.2.2.2.1) d p.2.1 (s.coreCtx c) t.pa p.2.2.1 0
          p.2.2.2.2.isSome).retire c 4 .next))) ∧
    (∀ cause addr s1, (s.core c).pend.any (fun q => q.acq) = false →
      (checkM (whoCore s c) .load p.2.1 p.2.2.1).exec s = (.error (.raise cause addr), s1) →
      exec p.1 s = .next (s1.preciseFault c cause addr))) ∧
  (∀ d a o scope s c, CoreReady s c [d, a] [] → ∀ p ∈ coreStores d a o scope (s.core c),
    (p.2.2.2.isSome → drained (s.core c) = true) →
    (∀ t s1, CoreAccess s c .store p.2.1 p.2.2.1 t s1 →
      (t.mt = 0 → s1.mustHold c (s.coreCtx c) p.2.1 t p.2.2.1 = true →
        exec p.1 s = .next ((s1.holding c (s.core c) .store none p.2.1 t p.2.2.1 (((s.core c).gr d).toNat % 2 ^ (8 * p.2.2.1)) 0
          false).retire c 4 .next)) ∧
      (Here t s1 → s1.mustHold c (s.coreCtx c) p.2.1 t p.2.2.1 = false → s1.writeHeld (lowOf t.pa) p.2.2.1 false = false →
        exec p.1 s = .next ((s1.fabWrite (lowOf t.pa) (leBytes ((s.core c).gr d).toNat p.2.2.1)).retire c 4 .next)) ∧
      (t.mt = 2 → exec p.1 s = .next (if p.2.2.2 = none ∧ 4 ≤ p.2.2.1
        then (s1.devWrite (if c = Config.sceip then .sceip else .sector c (s.coreCtx c)) (lowOf t.pa) p.2.2.1
          ((s.core c).gr d).toNat).retire c 4 .next
        else s1.preciseFault c Cause.permFault p.2.1)) ∧
      (Away t s1 → s1.mustHold c (s.coreCtx c) p.2.1 t p.2.2.1 = false →
        exec p.1 s = .next ((((s1.sendReq .write (.core c s1.nextId) (s.coreCtx c) t.pa p.2.2.1
          (BitVec.ofNat 512 (leNat (leBytes ((s.core c).gr d).toNat p.2.2.1)))).2).updCore c (fun y => { y with
            remoteWrites := y.remoteWrites ++ [⟨s1.nextId, p.2.1, (s.core c).pc, false⟩] })).retire c 4 .next))) ∧
    (∀ cause addr s1, (s.core c).pend.any (fun q => q.acq) = false →
      (checkM (whoCore s c) .store p.2.1 p.2.2.1).exec s = (.error (.raise cause addr), s1) →
      exec p.1 s = .next (s1.preciseFault c cause addr)))

/-- R175, R176: an atomic writes the old value, zero-extended, to gd and the new value of the table to memory in one step; poisoned
bytes are not written and mark gd; one that is held, or that goes to another package, reserves gd.
R151, R175: the new value of each atomic: modulo sums, signed smaller and larger, bitwise, exchange, and compare-and-swap.
Rests on the model's choices too: log entries 15, 75. -/
def Obligations.SequencerAtomics : Prop :=
  (∀ d a b scope ord s c, ∀ p ∈ coreAtomics d a b scope ord, CoreReady s c (if p.2.1 = .cas then [d, a, b] else [a, b]) [d] →
    (ord.getLsbD 1 = true → drained (s.core c) = true) →
    ∀ t s1, CoreAccess s c .atomic ((s.core c).gr a) p.2.2 t s1 →
      ∀ op new, op = (if p.2.1 = .cas then ((s.core c).gr d).toNat else ((s.core c).gr b).toNat) % 2 ^ (8 * p.2.2) →
        new = ((s.core c).gr b).toNat % 2 ^ (8 * p.2.2) →
        (Here t s1 → s1.mustHold c (s.coreCtx c) ((s.core c).gr a) t p.2.2 = false → s1.writeHeld (lowOf t.pa) p.2.2 false = false →
          ∀ old, old = leNat (s1.fabRead (lowOf t.pa) p.2.2) →
          exec p.1 s = .next (if s1.poisonedAt (lowOf t.pa) p.2.2
            then ((s1.noteFrames (lowOf t.pa) p.2.2).updCore c (fun x => x.mark d)).retire c 4 .next
            else (match amoResult p.2.1 p.2.2 old op new with
              | some v => s1.fabWrite (lowOf t.pa) (leBytes v p.2.2)
              | none => s1.noteFrames (lowOf t.pa) p.2.2).wrote c d (BitVec.ofNat 64 old) 4)) ∧
        (t.mt = 0 → s1.mustHold c (s.coreCtx c) ((s.core c).gr a) t p.2.2 = true →
          exec p.1 s = .next ((s1.holding c (s.core c) (.amo p.2.1) (some (d, .amo p.2.2)) ((s.core c).gr a) t p.2.2 op new
            (ord.getLsbD 0)).retire c 4 .next)) ∧
        (Away t s1 → s1.mustHold c (s.coreCtx c) ((s.core c).gr a) t p.2.2 = false →
          exec p.1 s = .next ((s1.asked c (s.core c) .atomic (.amo p.2.2) d ((s.core c).gr a) (s.coreCtx c) t.pa p.2.2
          (BitVec.ofNat 512 (op + 2 ^ 64 * new)) (ord.getLsbD 0)).retire c 4 .next))) ∧
  (∀ (size old op new : Nat), (size = 4 ∨ size = 8) → old < 2 ^ (8 * size) → op < 2 ^ (8 * size) → new < 2 ^ (8 * size) →
    ∀ sgn : Nat → Int, (∀ v, sgn v = (if v < 2 ^ (8 * size - 1) then (v : Int) else (v : Int) - 2 ^ (8 * size))) →
      amoResult .add size old op new = some ((old + op) % 2 ^ (8 * size)) ∧
      amoResult .min size old op new = some (if sgn op < sgn old then op else old) ∧
      amoResult .max size old op new = some (if sgn old < sgn op then op else old) ∧
      amoResult .band size old op new = some (old &&& op) ∧
      amoResult .bor size old op new = some (old ||| op) ∧
      amoResult .xchg size old op new = some op ∧
      amoResult .cas size old op new = (if old = op then some new else none))

/-- R146 to R148, R178, R179, R337: versioned accesses of a sequencer to this package, and the fence; a vst waits for a free
version behind those that came before it, and raises VERSION_STALL once it has waited for more than 2^20 cycles.
R146 to R148, R294, R295, R333 to R335: the version store. A vld of a later version waits, one from the oldest retained to the newest has its value,
any other is gone; a vst gives the next version the value at once, the version before it its old value, and every other retained version
keeps its own; a vst waits while four versions are retained or 4,096 older values fill the slice's buffer; vrcl retires the versions older
than V, never the newest, and the vlds that wait for a version are answered in the step that creates it.
Rests on the model's choices too: log entries 15, 29, 56. -/
def Obligations.SequencerVersionedAccess : Prop :=
  ((∀ d a b s c, CoreReady s c [a, b] [d] → (s.core c).pend.any (fun p => p.acq) = false →
    ∀ t s1, (accessM (whoCore s c) .vld ((s.core c).gr a) 8).exec s = (.ok t, s1) → s1.behindHeld c t 8 = false →
      s1.isLocal t.pa = true → ∀ v : Word, v = ((s.core c).gr b).extractLsb' 0 32 →
      (∀ y bad, s1.judgeVld (lowOf t.pa) v = .value y bad →
        exec (.seqVld d a b) s = .next (if bad
          then (s1.updCore c (fun x => x.mark d)).retire c 4 .next else s1.wrote c d y 4)) ∧
      (s1.judgeVld (lowOf t.pa) v = .gone →
        exec (.seqVld d a b) s = .next (s1.preciseFault c Cause.versionGone ((s.core c).gr a))) ∧
      (s1.judgeVld (lowOf t.pa) v = .notYet → s1.vldListFull (lowOf t.pa) = false →
        exec (.seqVld d a b) s = .next ((({ s1 with
            nextId := s1.nextId + 1
            vldWaits := s1.vldWaits ++ [⟨lowOf t.pa / 8, v, .core c s1.nextId⟩] } : State).updCore c (fun y => { y with
              pend := y.pend ++ [⟨s1.nextId, d.toNat, .vld, (s.core c).gr a, none, false, some (lowOf t.pa / 8, v), (s.core c).pc,
                s1.cyc, true⟩] })).retire c 4 .next))) ∧
  (∀ a b s c, CoreReady s c [a, b] [] → (s.core c).pend.any (fun p => p.acq) = false → drained (s.core c) = true →
    ∀ t s1, (accessM (whoCore s c) .vst ((s.core c).gr a) 8).exec s = (.ok t, s1) → s1.isLocal t.pa = true →
      s1.vstLost (whoCore s1 c) (lowOf t.pa) = false →
      (s1.vstHeld (lowOf t.pa) (.step c) = false → s1.writeHeld (lowOf t.pa) 8 false = false →
        exec (.seqVst a b) s = .next (((s1.vstGone (lowOf t.pa) (.step c)).createVersion (lowOf t.pa) ((s.core c).gr b)).retire c 4
          .next)) ∧
      (∀ since, s1.vstHeld (lowOf t.pa) (.step c) = true → (s1.core c).waitFrom = some since →
        exec (.seqVst a b) s = .next (if since + 2 ^ 20 < s1.cyc then s1.preciseFault c Cause.versionStall ((s.core c).gr a)
          else s1.vstStay (lowOf t.pa) (.step c)))) ∧
  (∀ a b s c, CoreReady s c [a, b] [] → (s.core c).pend.any (fun p => p.acq) = false →
    ∀ t s1, (accessM (whoCore s c) .vst ((s.core c).gr a) 8).exec s = (.ok t, s1) → s1.behindHeld c t 8 = false →
      s1.isLocal t.pa = true → exec (.seqVrcl a b) s = .next ((s1.vrcl (lowOf t.pa) (((s.core c).gr b).extractLsb' 0 32)).retire c 4 .next)) ∧
  (∀ scope s c, CoreReady s c [] [] → (s.core c).pend.any (fun p => p.acq) = false → drained (s.core c) = true →
    exec (.seqFence scope) s = .next (s.retire c 4 .next))) ∧
  ((∀ (s : State) pa v, ∀ t, t = s.vtag pa →
    (1 ≤ (v - t.newest).toNat → (v - t.newest).toNat ≤ 2 ^ 31 - 1 → s.judgeVld pa v = .notYet) ∧
    (v = t.newest → s.judgeVld pa v = .value (BitVec.ofNat 64 (s.fabNat (pa - pa % 8) 8)) (s.poisonedAt pa 8)) ∧
    (¬ (1 ≤ (v - t.newest).toNat ∧ (v - t.newest).toNat ≤ 2 ^ 31 - 1) → ∀ k, k = (t.newest - v).toNat →
      (∀ y, 1 ≤ k → k ≤ t.older.length → t.older[t.older.length - k]? = some y → s.judgeVld pa v = .value y.1 y.2) ∧
      (t.older.length < k → s.judgeVld pa v = .gone))) ∧
  (∀ (s : State) pa v, pa % 8 = 0 → Mem.wf s.mem = true → (∀ a, modeOk (s.modeOf a) = true) → ∀ t, t = s.vtag pa → t.older.length < 4 →
    (s.vst pa v).judgeVld pa (t.newest + 1) = .value v false ∧
    (s.vst pa v).judgeVld pa t.newest = .value (BitVec.ofNat 64 (s.fabNat pa 8)) (s.poisonedAt pa 8) ∧
    (∀ w y p, w ≠ t.newest → s.judgeVld pa w = .value y p → (s.vst pa v).judgeVld pa w = .value y p) ∧
    (∀ pb, pb / 8 ≠ pa / 8 → (s.vst pa v).vtag pb = s.vtag pb)) ∧
  (∀ (s : State) pa, s.vstBlocked pa = true ↔ 4 ≤ 1 + (s.vtag pa).older.length ∨ 4096 ≤ olderAt (homeSlice pa) s.versions) ∧
  (∀ (s : State) pa v, ∀ t, t = s.vtag pa → ∀ later, later = (1 ≤ (v - t.newest).toNat ∧ (v - t.newest).toNat ≤ 2 ^ 31 - 1) →
    (later → (s.vrcl pa v).vtag pa = { t with older := [] }) ∧
    (¬ later → (t.newest - v).toNat < t.older.length →
      (s.vrcl pa v).vtag pa = { t with older := t.older.drop (t.older.length - (t.newest - v).toNat) }) ∧
    (¬ later → t.older.length ≤ (t.newest - v).toNat → (s.vrcl pa v).vtag pa = t) ∧
    (∀ pb, pb / 8 ≠ pa / 8 → (s.vrcl pa v).vtag pb = s.vtag pb) ∧
    { s.vrcl pa v with versions := s.versions } = s) ∧
  (∀ (s : State) pa v, (∀ w ∈ (s.createVersion pa v).vldWaits, ¬ (w.word = pa / 8 ∧ w.version = (s.vtag pa).newest + 1)) ∧
    (s.createVersion pa v).versions = (s.vst pa v).versions ∧ (s.createVersion pa v).mem = (s.vst pa v).mem))

/-! ## Sequencer: asynchronous commands -/

/-- R180, R181, R185, R186, R312: a stream command whose core's accesses are performed and whose queue has room reads its
descriptors and enters the queue; strm.cp also takes a scoreboard entry of its sector; a descriptor that cannot be read is a
precise fault and nothing is queued.
Rests on the model's choices too: log entries 18, 21, 67, 76. -/
def Obligations.StreamIssueQueuesCommand : Prop :=  (∀ a b p s c, CoreReady s c [a, b] [] → CoreDrained s c → s.streamCount c < 16 →
    ∀ k ∈ [(Instr.strmLd a b p, StreamKind.ld), (Instr.strmSt a b p, StreamKind.st)],
      (∀ d s1, (readDescM (whoCore s c) ((s.core c).gr a)).exec s = (.ok d, s1) →
        exec k.1 s = .next ((s1.pushed (newStream s1 c (s.core c) k.2 d default ((s.core c).gr b) 0 0
          (sectorPort c p.toNat))).retire c 8 .next)) ∧
      (∀ cause addr s1, (readDescM (whoCore s c) ((s.core c).gr a)).exec s = (.error (.raise cause addr), s1) →
        exec k.1 s = .next (s1.preciseFault c cause addr))) ∧
  (∀ a b r s c, CoreReady s c [a, b, r] [] → CoreDrained s c → s.streamCount c < 16 → s.scoreCount c < 32 →
    ∀ d e s1 s2, (readDescM (whoCore s c) ((s.core c).gr a)).exec s = (.ok d, s1) →
      (readDescM (whoCore s c) ((s.core c).gr r)).exec s1 = (.ok e, s2) →
      ∀ t, t = newStream s2 c (s.core c) .cp d e ((s.core c).gr b) 0 0 0 →
        exec (.strmCp a b r) s = .next (({ s2.pushed t with score := s2.score ++
          [⟨coreSector c, t.id, t.ctx, e.span.1, e.span.2⟩] } : State).retire c 8 .next)) ∧
  (∀ a b s c, CoreReady s c [a, b] [] → CoreDrained s c → s.streamCount c < 16 →
    exec (.memHrv a b) s = .next ((s.pushed (newStream s c (s.core c) .hrv default default 0 ((s.core c).gr a)
      ((s.core c).gr b) 0)).retire c 8 .next)) ∧
  (∀ a b p s c, CoreReady s c [a, b] [] → CoreDrained s c → 16 ≤ s.streamCount c →
    exec (.strmLd a b p) s = .next s ∧ exec (.strmSt a b p) s = .next s ∧ exec (.memHrv a b) s = .next s)

/-- R203, R205, R166: a launch enters its core's queue of eight and gd is reserved for its status.
R210, R213, R19: a configuration command enters the configuration network as an operation, gd is reserved for its status, and
an operation that is first for its region begins. -/
def Obligations.LaunchAndCfgIssue : Prop :=
  (∀ a b s c, CoreReady s c [b] [a] → CoreDrained s c →
    ∀ k ∈ [(Instr.lnch a b, false), (Instr.lnchInd a b, true)],
      (s.launchCount c < 8 → exec k.1 s = .next ((({ s with
          nextId := s.nextId + 2
          launches := s.launches ++ [{ id := s.nextId, core := c, ctx := s.coreCtx c, pc := (s.core c).pc, pend := s.nextId + 1
                                       lpb := (s.core c).gr b, ind := k.2 }] } : State).updCore c (fun y => { y with
            pend := y.pend ++ [reservation (s.nextId + 1) a .launch ((s.core c).gr b) (s.core c).pc s.cyc] })).retire c 8 .next)) ∧
      (8 ≤ s.launchCount c → exec k.1 s = .next s)) ∧
  (∀ a b r s c, ∀ k ∈ cfgCommands a b r, CoreReady s c k.2.2.2 [a] → CoreDrained s c →
    ∀ va o, va = (if k.2.2.1 then (s.core c).gr b else 0) →
      o = (⟨s.nextId, k.2.1, c, s.nextId + 1, s.coreCtx c, va, (s.core c).gr r, 0, .queued, none, false⟩ : CfgOp) →
      exec k.1 s = .next (((({ s with nextId := s.nextId + 2, cfgops := s.cfgops ++ [o] } : State).updCore c (fun y => { y with
        pend := y.pend ++ [reservation (s.nextId + 1) a .cfg va (s.core c).pc s.cyc] })).beginOp o).retire c 8 .next))

/-! ## Sequencer: semaphores and transaction barriers -/

/-- R192, R193, R195: what each SEMA operation does; a signal to a sequencer of another context freezes its sender.
R193: a signal adds to the count of the named semaphore, which saturates and then sets E; it wakes a wait; every other
semaphore, every register of the core and every other core stay.
Rests on the model's choices too: log entry 38. -/
def Obligations.Semaphores : Prop :=
  ((∀ r scope i s c, CoreReady s c [r] [] → (s.core c).pend.any (fun p => p.acq) = false →
    drained (s.core c) = true → exec (.semaSig r scope i) s = .next ((s.semaAdd c i.toNat
      (if r = 0 then 1 else ((s.core c).gr r).toNat % 2 ^ 32)).retire c 4 .next)) ∧
  (∀ d r scope s c, CoreReady s c [d, r] [] → (s.core c).pend.any (fun p => p.acq) = false →
    drained (s.core c) = true → ∀ name n, name = ((s.core c).gr d).toNat % 2 ^ 14 →
      n = (if r = 0 then 1 else ((s.core c).gr r).toNat % 2 ^ 32) →
      exec (.semaSigR d r scope) s = .next (if c = Config.sceip ∨ s.coreCtx (name / 64) = s.coreCtx c
        then (s.semaAdd (name / 64) (name % 64) n).retire c 4 .next else s.isolateCore c 0)) ∧
  (∀ d r scope i s c, CoreReady s c [r] [d] → (s.core c).pend.any (fun p => p.acq) = false →
    ∀ (m : Sema) (n : Nat) (y : CoreSt), m = (s.core c).sema.getD i.toNat {} →
      n = (if r = 0 then 1 else ((s.core c).gr r).toNat % 2 ^ 32) →
      y = ({ s.core c with sema := (s.core c).sema.setIfInBounds i.toNat { m with count := m.count - BitVec.ofNat 32 n } }.wr d
        (if m.e then 1 else 0)) →
      (n ≤ m.count.toNat → exec (.semaAcq d r scope i) s = .next ((s.setCore c y).retire c 4 .next) ∧
        exec (.semaTry d r scope i) s = .next ((s.setCore c y).retire c 4 .next)) ∧
      (m.count.toNat < n → exec (.semaAcq d r scope i) s = .next s ∧ exec (.semaTry d r scope i) s = .next (s.wrote c d 2 4))) ∧
  (∀ r i s c, CoreReady s c [r] [] → exec (.semaSet r i) s = .next ((s.updCore c (fun x => { x with
    sema := x.sema.setIfInBounds i.toNat ⟨(x.gr r).extractLsb' 0 32, false⟩ })).retire c 4 .next)) ∧
  (∀ d i s c, CoreReady s c [] [d] → ∀ (m : Sema), m = (s.core c).sema.getD i.toNat {} →
    exec (.semaRd d i) s = .next (s.wrote c d (m.count.zeroExtend 64 ||| (if m.e then (1 : DWord) <<< 32 else 0)) 4))) ∧
  (∀ (s : State) (c i n : Nat), i < 64 → ∀ (m : Sema), m = (s.core c).sema.getD i {} →
    ((s.semaAdd c i n).core c).sema.getD i {} = (if m.count.toNat + n ≤ 0xFFFFFFFF
      then ⟨m.count + BitVec.ofNat 32 n, m.e⟩ else ⟨0xFFFFFFFF, true⟩) ∧
    ((s.semaAdd c i n).core c).woken = true ∧
    (∀ j, j ≠ i → ((s.semaAdd c i n).core c).sema.getD j {} = (s.core c).sema.getD j {}) ∧
    { (s.semaAdd c i n).core c with sema := (s.core c).sema, woken := (s.core c).woken } = s.core c ∧
    (∀ k, k ≠ c → (s.semaAdd c i n).core k = s.core k) ∧ { s.semaAdd c i n with cores := s.cores } = s)

/-- R197, R199, R201: what each TBAR operation does to a marked object that its address names; on an unmarked object every one but
tbar.init raises TBAR_RANGE, and so does an operand out of range, with the object unchanged. An arrival is a release: it waits for the core's earlier accesses.
R197, R201, R283: where an object may lie. A misaligned address raises MISALIGNED; an object on a device page, or in another package,
raises TBAR_RANGE, and one on a scratchpad page ADDR_UNMAPPED; no object changes. The permission that each operation asks of the page is the
model's choice (log entry 83).
R198, R199: the completion step on an object, and the status of each phase.
Rests on the model's choices too: log entries 18, 75, 83. -/
def Obligations.TokenBarriers : Prop :=
  (∀ d a b scope s c, CoreReady s c [a, b] [d] → (s.core c).pend.any (fun p => p.acq) = false → ∀ va n, va = (s.core c).gr a → n = ((s.core c).gr b).toNat →
    (∀ pa s1, (tbarObj (whoCore s c) .atomic va).exec s = (.ok pa, s1) →
      exec (.tbarInit a b scope) s = .next (if n % 2 ^ 16 = 0 ∨ 2 ^ 31 ≤ n then s1.preciseFault c Cause.tbarRange va
        else { s1.putTbar pa { gen := (s1.tbarAt pa).gen, quota := n % 2 ^ 16, wsem := bits n 29 16, wen := bit n 30, arrv := 0, decl := 0
                               land := 0, poison := false, lastp := false, ctx := s.coreCtx c } with
               barriers := NSet.insert (s1.putTbar pa { gen := (s1.tbarAt pa).gen, quota := n % 2 ^ 16, wsem := bits n 29 16
                                                        wen := bit n 30, arrv := 0, decl := 0, land := 0, poison := false
                                                        lastp := false, ctx := s.coreCtx c }).barriers pa }.retire c 4 .next) ∧
      (s1.barriers.contains pa = true →
        (drained (s.core c) = true → exec (.tbarArr d a b scope) s = .next (if 2 ^ 48 ≤ n ∨ (s1.tbarAt pa).quota < (s1.tbarAt pa).arrv + n % 2 ^ 16 ∨
              2 ^ 64 ≤ (s1.tbarAt pa).decl + bits n 47 16
            then s1.preciseFault c Cause.tbarRange va
            else (s1.complete pa { s1.tbarAt pa with
              arrv := (s1.tbarAt pa).arrv + n % 2 ^ 16, decl := (s1.tbarAt pa).decl + bits n 47 16 }).wrote c d
                (BitVec.ofNat 64 (s1.tbarAt pa).gen) 4)) ∧
        exec (.tbarDecl a b scope) s = .next (if 2 ^ 64 ≤ (s1.tbarAt pa).decl + n then s1.preciseFault c Cause.tbarRange va
            else (s1.complete pa { s1.tbarAt pa with decl := (s1.tbarAt pa).decl + n }).retire c 4 .next) ∧
        exec (.tbarFini a scope) s = .next ({ s1 with barriers := s1.barriers.filter (fun u => u != pa) }.retire c 4 .next)) ∧
      (s1.barriers.contains pa = false → (∀ i ∈ [Instr.tbarDecl a b scope, .tbarFini a scope],
        exec i s = .next (s1.preciseFault c Cause.tbarRange va)) ∧
        (drained (s.core c) = true → exec (.tbarArr d a b scope) s = .next (s1.preciseFault c Cause.tbarRange va)))) ∧
    (∀ pa s1, (tbarObj (whoCore s c) .load va).exec s = (.ok pa, s1) → s1.barriers.contains pa = false →
      ∀ i ∈ [Instr.tbarWait d a b scope, .tbarTest d a b scope], exec i s = .next (s1.preciseFault c Cause.tbarRange va)) ∧
    (∀ pa s1, (tbarObj (whoCore s c) .load va).exec s = (.ok pa, s1) → s1.barriers.contains pa = true →
      (∀ v, (s1.tbarAt pa).status n = some v → exec (.tbarWait d a b scope) s = .next (s1.wrote c d (BitVec.ofNat 64 v) 4) ∧
        exec (.tbarTest d a b scope) s = .next (s1.wrote c d (BitVec.ofNat 64 v) 4)) ∧
      ((s1.tbarAt pa).status n = none → exec (.tbarWait d a b scope) s = .next s1 ∧
        exec (.tbarTest d a b scope) s = .next (s1.wrote c d 3 4)))) ∧
  (∀ d a b scope s c, CoreReady s c [a, b] [d] → (s.core c).pend.any (fun p => p.acq) = false → drained (s.core c) = true →
    ∀ va, va = (s.core c).gr a → canonical va = true →
    ∀ p ∈ [(Instr.tbarInit a b scope, Need.atomic), (.tbarArr d a b scope, .atomic), (.tbarDecl a b scope, .atomic),
        (.tbarFini a scope, .atomic), (.tbarWait d a b scope, .load), (.tbarTest d a b scope, .load)],
      (va.toNat % 32 ≠ 0 → exec p.1 s = .next (s.preciseFault c Cause.misaligned va)) ∧
      (va.toNat % 32 = 0 →
        (∀ cause addr s1, (translateM (whoCore s c) p.2 va).exec s = (.error (.raise cause addr), s1) →
          exec p.1 s = .next (s1.preciseFault c cause addr)) ∧
        (∀ x s1, (translateM (whoCore s c) p.2 va).exec s = (.ok x, s1) →
          (x.mt = 2 ∨ (x.mt = 0 ∧ isNormal (lowOf x.pa) = true ∧ s1.isLocal x.pa = false) →
            exec p.1 s = .next (s1.preciseFault c Cause.tbarRange va)) ∧
          (x.mt = 1 → exec p.1 s = .next (s1.preciseFault c Cause.addrUnmapped va))))) ∧
  ((∀ (s : State) (pa : Nat) (t : Tbar), (t.arrv = t.quota ∧ t.decl = t.land →
      ∀ u, u = s.putTbar pa { t with lastp := t.poison, poison := false, gen := (t.gen + 1) % 2 ^ 32, arrv := 0, decl := 0, land := 0 } →
        s.complete pa t = if t.wen = false then u else if u.coreCtx (t.wsem / 64) = t.ctx
          then u.semaAdd (t.wsem / 64 % 256) (t.wsem % 64) 1
          else u.record { cause := Cause.tbarRange, cls := 2, mkind := 4, ctx := t.ctx }) ∧
    (¬ (t.arrv = t.quota ∧ t.decl = t.land) → s.complete pa t = s.putTbar pa t)) ∧
  (∀ (t : Tbar) (g : Nat), t.gen < 2 ^ 32 → g < 2 ^ 32 →
    (t.gen = (g + 1) % 2 ^ 32 → t.status g = some (if t.lastp then 1 else 0)) ∧
    (∀ k, 2 ≤ k → k < 2 ^ 31 → t.gen = (g + k) % 2 ^ 32 → t.status g = some 2) ∧
    (∀ k, k < 2 ^ 31 → g = (t.gen + k) % 2 ^ 32 → t.status g = none)))

/-! ## Sequencer: rings and bushel queues -/

/-- R214, R215: brng.get on an empty ring gives 0, on a record its address, and stores HEAD past a skip record that ends the ring;
brng.rel stores HEAD past the record; a malformed control block, an empty ring or a skip record raises. -/
def Obligations.ByteRingOperations : Prop :=  ∀ d a s c, CoreReady s c [a] [d] → (s.core c).pend.any (fun p => p.acq) = false → ∀ ga w, ga = (s.core c).gr a → w = whoCore s c →
    (∀ cause addr s1, (ringView w ga).exec s = (.error (.raise cause addr), s1) →
      exec (.brngGet d a) s = .next (s1.preciseFault c cause addr) ∧ exec (.brngRel a) s = .next (s1.preciseFault c cause addr)) ∧
    (∀ v s1, (ringView w ga).exec s = (.ok v, s1) →
      (v.head = v.tail → exec (.brngGet d a) s = .next (s1.wrote c d 0 4)) ∧
      (∀ at_ len kind s2, v.head ≠ v.tail → (ringRecord w ga v v.head).exec s1 = (.ok (at_, len, kind), s2) →
        (kind ≠ 0xFF → exec (.brngGet d a) s = .next (s2.wrote c d at_ 4)) ∧
        (kind = 0xFF → v.head + len = v.tail → ∀ s3,
          (coreStore c (s.core c) (ga + 0x18) 8 (BitVec.ofNat 64 v.tail) (some 7)).exec s2 = (.ok .next, s3) →
          exec (.brngGet d a) s = .next (s3.wrote c d 0 4))) ∧
      (∀ cause addr s2, v.head ≠ v.tail → (ringRecord w ga v v.head).exec s1 = (.error (.raise cause addr), s2) →
        exec (.brngGet d a) s = .next (s2.preciseFault c cause addr)) ∧
      (∀ hdr s2, (plainM w (BitVec.ofNat 64 (v.base + v.head % v.size)) 8).exec s1 = (.ok hdr, s2) →
        (v.head = v.tail ∨ bits hdr 39 32 = 0xFF → exec (.brngRel a) s = .next (s2.preciseFault c Cause.ringFormat ga)) ∧
        (v.head ≠ v.tail → bits hdr 39 32 ≠ 0xFF → ∀ s3,
          (coreStore c (s.core c) (ga + 0x18) 8 (BitVec.ofNat 64 (v.head + 8 + (hdr % 2 ^ 32 + 7) / 8 * 8)) (some 7)).exec s2
            = (.ok .next, s3) →
          exec (.brngRel a) s = .next (s3.retire c 4 .next))))

/-- R216, R217: mring.put waits while the slot is still addressed, else writes the record for the sequencers named that run the
producer's context, and moves P on; with none named it writes nothing.
R217, R160: mring.get steps over the slots that are not addressed to it and takes the first that is, or waits; mring.ld reads a
doubleword of the held copy; mring.rel clears the core's bit and moves C on; each raises RING_STATE in the wrong state.
Rests on the model's choices too: log entry 52. -/
def Obligations.MulticastRings : Prop :=
  (∀ a b s c, CoreReady s c [a, b] [] → CoreDrained s c →
    ∀ q k, q = coreQuadrant c → k = (s.mring q).p.toNat % 16 →
    (((s.mring q).slot k).mask ≠ 0 → exec (.mringPut a b) s = .next s) ∧
    (((s.mring q).slot k).mask = 0 → canonical ((s.core c).gr a) = true → ((s.core c).gr a).toNat % 64 ≠ 0 →
      exec (.mringPut a b) s = .next (s.preciseFault c Cause.misaligned ((s.core c).gr a))) ∧
    (((s.mring q).slot k).mask = 0 → ((s.core c).gr a).toNat % 64 = 0 →
      ∀ ws s1 m, (plainWordsM (whoCore s c) ((s.core c).gr a) 8).exec s = (.ok ws, s1) → s1.mring q = s.mring q →
        m = s1.ringMask q (s.coreCtx c) (((s.core c).gr b).extractLsb' 0 16) →
        (m = 0 → exec (.mringPut a b) s = .next (s1.retire c 4 .next)) ∧
        (m ≠ 0 → ∃ t, exec (.mringPut a b) s = .next t ∧ (t.mring q).p = (s.mring q).p + 1 ∧
          ((t.mring q).slot k).seq = (s.mring q).p ∧ ((t.mring q).slot k).mask = m ∧ ((t.mring q).slot k).ctx = s.coreCtx c ∧
          (∀ i, i < 16 → m.getLsbD i = true →
            AMap.getD ((t.mring q).slot k).copies i 0 = BitVec.ofNat 512 (leNat (wordsBytes ws))) ∧
          (∀ j, j ≠ k → (t.mring q).slot j = (s.mring q).slot j) ∧ (∀ j, j ≠ q → t.mring j = s.mring j) ∧
          (t.core c).pc = (s1.core c).pc + 4 ∧ t.mem = s1.mem))) ∧
  ((∀ d s c, CoreReady s c [] [d] → (s.core c).pend.any (fun p => p.acq) = false →
    ((s.core c).slotHeld = true ∨ (s.core c).mrh = true → exec (.mringGet d) s = .next (s.preciseFault c Cause.ringState 0)) ∧
    ((s.core c).slotHeld = false → (s.core c).mrh = false → ∀ r, r = s.mring (coreQuadrant c) →
      (r.p - (s.core c).mcix).toNat ≤ 16 → ∀ n : Nat, n ≤ 16 →
        (∀ j, j < n → slotPassed r (ringBit c) (s.coreCtx c) ((s.core c).mcix + BitVec.ofNat 32 j) = true) →
        ∀ cx, cx = (s.core c).mcix + BitVec.ofNat 32 n →
          (slotMine r (ringBit c) (s.coreCtx c) cx = true → exec (.mringGet d) s = .next
            ((s.updCore c (fun x => { x with mcix := cx, slotHeld := true, mrhClear := false }.wr d (cx.zeroExtend 64))).retire c 4 .next)) ∧
          (slotMine r (ringBit c) (s.coreCtx c) cx = false → slotPassed r (ringBit c) (s.coreCtx c) cx = false →
            exec (.mringGet d) s = .next s))) ∧
  (∀ d a s c, CoreReady s c [a] [d] → exec (.mringLd d a) s = .next (if (s.core c).slotHeld = true
    then s.wrote c d ((AMap.getD ((s.mring (coreQuadrant c)).slot ((s.core c).mcix.toNat % 16)).copies (ringBit c) 0).extractLsb'
      (64 * (((s.core c).gr a).toNat % 8)) 64) 4
    else s.preciseFault c Cause.ringState 0)) ∧
  (∀ s c, CoreReady s c [] [] → ((s.core c).slotHeld = false → exec .mringRel s = .next (s.preciseFault c Cause.ringState 0)) ∧
    ((s.core c).slotHeld = true → ∃ t, exec .mringRel s = .next t ∧
      ∀ k r, k = (s.core c).mcix.toNat % 16 → r = s.mring (coreQuadrant c) →
        (t.mring (coreQuadrant c)).p = r.p ∧
        (t.mring (coreQuadrant c)).slot k = { r.slot k with mask := (r.slot k).mask &&& ~~~((1 : BitVec 16) <<< ringBit c) } ∧
        (∀ j, j ≠ k → (t.mring (coreQuadrant c)).slot j = r.slot j) ∧
        t.core c = { s.core c with mcix := (s.core c).mcix + 1, slotHeld := false, mrhClear := false, pc := (s.core c).pc + 4
                                   waitFrom := none, woken := false })))

/-- R218, R219: push appends an entry of the context unless the queue is full; a pop removes one of the four lowest-ranked entries of
the context, never before an older one of its key, or says that there is none, or waits; cnt counts the context's entries.
R219: the ranking holds exactly the entries of the context, by key and then by insertion. -/
def Obligations.BushelQueues : Prop :=
  ((∀ d a b y q s c, CoreReady s c [a, b] [d] → CoreDrained s c → ∀ i, i = bqIndex c y q →
    exec (.bqPush d a b y q) s = .next (if 4096 ≤ (s.bq i).length then s.wrote c d 1 4
      else ({ s with bushels := AMap.set s.bushels i (s.bq i ++ [⟨(s.core c).gr a, (s.core c).gr b, s.coreCtx c⟩]) } : State).wrote
        c d 0 4)) ∧
  (∀ d y q s c, CoreReady s c [] [d] → exec (.bqCnt d y q) s = .next (s.wrote c d
    (BitVec.ofNat 64 ((s.bq (bqIndex c y q)).filter (fun e => e.ctx == s.coreCtx c)).length) 4)) ∧
  (∀ d b y q s c, CoreReady s c [] [popLow d, popLow d + 1, b] →
    ((d = 0 ∨ b = popLow d ∨ b = popLow d + 1) →
      exec (.bqPop d b y q) s = .next (s.preciseFault c Cause.illegalOp 0) ∧
      exec (.bqPopW d b y q) s = .next (s.preciseFault c Cause.illegalOp 0)) ∧
    (d ≠ 0 → b ≠ popLow d → b ≠ popLow d + 1 → (s.core c).pend.any (fun p => p.acq) = false → ∀ i, i = bqIndex c y q →
      ((∀ e ∈ s.bq i, e.ctx ≠ s.coreCtx c) →
        exec (.bqPop d b y q) s = .next (s.wrote c b 1 4) ∧ exec (.bqPopW d b y q) s = .next s) ∧
      ((∃ e ∈ s.bq i, e.ctx = s.coreCtx c) →
        ∃ e, e ∈ (bqRanked (s.coreCtx c) (s.bq i)).take 4 ∧
          (bqRanked (s.coreCtx c) (s.bq i)).find? (fun x => x.key == e.key) = some e ∧
          ∀ t, t = ((({ s with bushels := AMap.set s.bushels i (eraseBq e (s.bq i)), freeNo := s.freeNo + 1 } : State).updCore c
              (fun x => ((x.wr (popLow d) e.key).wr (popLow d + 1) e.value).wr b 0)).retire c 4 .next) →
            exec (.bqPop d b y q) s = .next t ∧ exec (.bqPopW d b y q) s = .next t)))) ∧
  (∀ (ctx : Nat) (l : List BqEntry),
    (bqRanked ctx l).Perm (l.filter (fun e => e.ctx == ctx)) ∧
    (bqRanked ctx l).Pairwise (fun x y => x.key.toNat ≤ y.key.toNat) ∧
    ∀ k : DWord, (bqRanked ctx l).filter (fun e => e.key == k) = (l.filter (fun e => e.ctx == ctx)).filter (fun e => e.key == k))

/-! ## Sequencer: system registers, traps, events and replay -/

/-- R159, R160, R447: csrr reads each listed register; csrw, csrs and csrc write one that may be written with the new, the set or the
cleared value; a read-only register and an unlisted number raise ILLEGAL_OP, a management register outside the Sceip core
PRIV_FAULT.
R159, R160, R447: what a write to a register changes; a write to sst changes only EVT and what RPL and MRH read as; a write to prst
sets the bay, and GO begins the reset of a bay that is down alone.
R221, R168, R188: the SYS group.
Rests on the model's choices too: log entries 21, 25, 49, 63. -/
def Obligations.SystemRegistersAndInstructions : Prop :=
  (∀ (d a : Reg) (n : BitVec 12) (s : State) (c : Nat), CoreReady s c [a] [d] →
    (∀ p ∈ registersOf s c, p.1 = n.toNat →
      exec (.csrr d n) s = .next (s.wrote c d p.2.1 4) ∧
      (p.2.2 = true → exec (.csrw a n) s = .next ((s.csrWrite c n.toNat ((s.core c).gr a)).retire c 4 .next) ∧
        exec (.csrs a n) s = .next ((s.csrWrite c n.toNat (p.2.1 ||| (s.core c).gr a)).retire c 4 .next) ∧
        exec (.csrc a n) s = .next ((s.csrWrite c n.toNat (p.2.1 &&& ~~~((s.core c).gr a))).retire c 4 .next)) ∧
      (p.2.2 = false → ∀ i ∈ [Instr.csrw a n, .csrs a n, .csrc a n], exec i s = .next (s.preciseFault c Cause.illegalOp 0))) ∧
    ((∀ p ∈ registersOf s c, p.1 ≠ n.toNat) → ∀ i ∈ [Instr.csrr d n, .csrw a n, .csrs a n, .csrc a n], exec i s = .next
      (s.preciseFault c (if c ≠ Config.sceip ∧ 0x100 ≤ n.toNat ∧ n.toNat < 0x200 then Cause.privFault else Cause.illegalOp) 0))) ∧
  ((∀ (s : State) (c : Nat) (v : DWord), ∀ p ∈ regWritten s c v, s.csrWrite c p.1 v = p.2) ∧
  (∀ (s : State) (c : Nat) (v : DWord), ∀ y : CoreSt, y = (s.csrWrite c 0x003 v).core c →
    y.evt = v.getLsbD 0 ∧ y.rpl = v.getLsbD 1 ∧ y.mrh = v.getLsbD 2 ∧
    { y with evt := (s.core c).evt, rplSet := (s.core c).rplSet, rplClear := (s.core c).rplClear, mrhSet := (s.core c).mrhSet
             mrhClear := (s.core c).mrhClear } = s.core c ∧
    (∀ k, k ≠ c → (s.csrWrite c 0x003 v).core k = s.core k) ∧ { s.csrWrite c 0x003 v with cores := s.cores } = s) ∧
  (∀ (s : State) (c : Nat) (v : DWord), ∀ b, b = v.extractLsb' 0 2 → s.csrWrite c 0x105 v = { s with
    prstBay := b
    prstRun := if v.getLsbD 2 = true ∧ s.downBays.contains b.toNat = true then NSet.insert s.prstRun b.toNat else s.prstRun })) ∧
  (∀ s c, CoreReady s c [] [] →
    ((s.core c).waitFrom = none → exec .wait s = .next (s.updCore c (fun x => { x with waitFrom := some s.cyc, woken := false }))) ∧
    (∀ d, (s.core c).waitFrom = some d → exec .wait s = .next
      (if (s.core c).woken = true ∨ d + 65536 ≤ s.cyc then s.retire c 4 .next else s)) ∧
    exec .halt s = .next (s.updCore c (fun x => { x with run := .idle, waitFrom := none, woken := false })) ∧
    (∀ i, exec (.trap i) s = .next (s.preciseFault c 0x03 (i.zeroExtend 64))) ∧
    exec .eret s = .next (if (s.core c).evt = true
      then s.updCore c (fun x => { x with pc := x.epc &&& 0xFFFFFFFFFFFFFFFC, evt := false }) else s.preciseFault c 0x01 0) ∧
    exec .sbar s = .next (if s.streamCount c = 0 then s.retire c 4 .next else s))

/-- R168: a precise fault stops the core with epc at the instruction, ecause and eaddr set; of its core and of every other nothing else
changes but the wait in progress; what it does to the rest of the part is to withdraw what its instruction had asked for and to write the
fault record.
R221, R222: an event of the core's context is taken when evec is not 0 and no handler runs; a wait that has lasted 65,536 cycles
ends; R158, R164, R450: a failed fetch and a word that is no instruction are precise faults at pc, of a core that executes in this cycle: one
that does not run, or whose sector is throttled, does not fault.
Rests on the model's choices too: log entries 13, 19, 23, 56. -/
def Obligations.FaultsAndEventsEnter : Prop :=
  (∀ (s : State) (c : Nat) (cause : Byte) (addr : DWord), ∃ u : State,
    u.core c = (s.core c).faulted cause addr ∧ (∀ k, k ≠ c → u.core k = s.core k) ∧ LeftInstr s u c ∧
    s.preciseFault c cause addr = u.record { cause := cause, cls := 0, mkind := 1, ctx := s.coreCtx c, mid := midCore c, addr := addr
                                             loc := coreSector c, pc := (s.core c).pc }) ∧
  ((∀ s c e, s.nextEvent c = some e → (s.core c).run = .running → (s.core c).evec ≠ 0 → (s.core c).evt = false →
    exec (.eventTake c) s = .next (postHeld c s.regions (s.takeEvent c e)) ∧
    (s.takeEvent c e).core c = { s.core c with
      epc := (s.core c).pc, ecause := e.cause.zeroExtend 64, eaddr := e.addr, erg := e.word, evt := true, pc := (s.core c).evec
      events := eraseEvent (s.core c).events e, waitFrom := none, woken := false } ∧
    (∀ k, k ≠ c → (s.takeEvent c e).core k = s.core k) ∧ LeftInstr s (s.takeEvent c e) c) ∧
  (∀ s c, (s.nextEvent c = none ∨ (s.core c).evec = 0 ∨ (s.core c).evt = true) → exec (.eventTake c) s = .next s) ∧
  (∀ s c d, (s.core c).waitFrom = some d → d + 65536 ≤ s.cyc →
    exec (.waitTimeout c) s = .next (s.updCore c (fun x => { x with woken := true }))) ∧
  (∀ s s1 c cause addr, s.fetchesNow c = true → s.fetch c = (.error (.raise cause addr), s1) →
    exec (.fetchFault c) s = .next (s1.preciseFault c cause addr)) ∧
  (∀ s s1 c why, s.fetchesNow c = true → s.fetch c = (.ok (.rejected why), s1) →
    exec (.seqIllegalOp c) s = .next (s1.preciseFault c 0x01 0)) ∧
  (∀ s c, (s.coreRuns c = false ∨ (c ≠ 256 ∧ s.slotOpen c = false)) →
    exec (.fetchFault c) s = .next s ∧ exec (.seqIllegalOp c) s = .next s))

/-- R223, R160, R357, R358: rpl.beg begins the replay of an owned region frozen by a window fault and else names why not; rpl.step
commits what can commit, lets the arrivals that are due enter, and then performs the next journaled firing, or answers 1 with its cause, or
2 where it is not ready or the journal ends; rpl.end thaws the region; rpl.drop returns it to its frozen state; without a replay the last
three raise RPL_STATE.
R223, R357, R114: the access of a replayed firing. A firing with an access waits for its order, is checked, and is then performed before
the firing is over: gd = 0, the firing takes effect with what its access came to, and the journal index moves on; a cause, of the checks or
of the access, gives gd = 1 with the cause, and the firing takes no effect. A store goes into the window, a load reads the windows and
memory, and every other access is performed.
R223, R358: what rpl.beg makes of the region, and rpl.drop of the region and of its core: the elements stand again as at the opening of
the oldest window that the replay has not committed, the journal holds what is left of it, and the region is frozen as it was.
Rests on the model's choices too: log entry 36. -/
def Obligations.ReplayCommands : Prop :=
  ((∀ d a b s c, CoreReady s c [a] [d] →
    (∀ r, s.rplStatus c (s.core c) ((s.core c).gr a) = 0 → s.region? (wordId ((s.core c).gr a)) = some r →
      exec (.rplBeg d a b) s = .next (((s.setRegion (r.beginReplay c)).updCore c (fun y => { y with
        replay := some r.id, rplClear := false, rplIdx := 0, rplLen := BitVec.ofNat 16 r.journal.length })).wrote c d 0 4)) ∧
    (s.rplStatus c (s.core c) ((s.core c).gr a) ≠ 0 → exec (.rplBeg d a b) s = .next
      (s.wrote c d ((s.rplStatus c (s.core c) ((s.core c).gr a)).zeroExtend 64) 4)) ∧
    (∀ w : DWord, w = (s.core c).gr a → (s.core c).replay = none → (s.core c).rplSet = false → wordBad w = false →
      s.rplStatus c (s.core c) w = if wordId w / 16 ≠ c then Cause.cfgNotOwner
        else match s.regionNamed w c (s.coreCtx c) with
          | some r => if r.frozen = some .windowFault then 0 else Cause.cfgRegion
          | none => Cause.cfgRegion) ∧
    (∀ w : DWord, w = (s.core c).gr a → (s.core c).replay = none → (s.core c).rplSet = false → wordBad w = true →
      s.rplStatus c (s.core c) w = Cause.cfgRegion) ∧
    ((s.core c).replay ≠ none ∨ (s.core c).rplSet = true → s.rplStatus c (s.core c) ((s.core c).gr a) = Cause.rplState)) ∧
  (∀ d a b s c, CoreReady s c [] [d] → (s.core c).pend.any (fun p => p.acq) = false →
    ((s.core c).replay = none → ∀ i ∈ [Instr.rplStep d a b, .rplEnd d a b, .rplDrop d a b],
      exec i s = .next (s.preciseFault c Cause.rplState 0)) ∧
    (∀ id r, (s.core c).replay = some id → s.region? id = some r →
      (drained (s.core c) = true →
        ((s.core c).rplLen.toNat ≤ (s.core c).rplIdx.toNat → exec (.rplStep d a b) s = .next (s.wrote c d 2 4)) ∧
        ((s.core c).rplIdx.toNat < (s.core c).rplLen.toNat → ∀ p idx j s1 r1 s2 r2 s3 r3, r.replay = some p →
          idx = (s.core c).rplIdx.toNat → p.todo[idx]? = some j →
          s1 = s.replayCommit id 3 → s1.region? id = some r1 →
          s2 = (if r1.sweep.any (fun w => w.start != j.cycle) then s1.replaySweep r1 idx else s1) → s2.region? id = some r2 →
          s3 = s2.replayReady r2 idx → s3.region? id = some r3 → s3.slotOpen (r3.sector j.elem) = true →
          (∀ cause, s3.replayFire r3.aged j = .raises cause → exec (.rplStep d a b) s = .next ((s3.updCore c (fun y => { y with
            ecause := cause.zeroExtend 64, eaddr := 0 })).wrote c d 1 4)) ∧
          (∀ el fx, s3.replayFire r3.aged j = .done el fx → fxAccess fx = none → r3.windowsFull = false →
            exec (.rplStep d a b) s = .next (((s3.replayDone id j el fx none).updCore c (fun y => { y with
              rplIdx := BitVec.ofNat 16 (idx + 1) })).wrote c d 0 4)) ∧
          (s3.replayFire r3.aged j = .notReady → r3.wins.any (fun w => w.closed) = false → exec (.rplStep d a b) s = .next
            ((s3.updCore c (fun y => { y with rplLen := y.rplIdx })).wrote c d 2 4)))) ∧
      (r.sweep = none → exec (.rplEnd d a b) s = .next (((s.setRegion
        (let q : Region := { r with replay := none, frozen := none, log := if r.wins = [] then [] else r.log }
         (if s.savePending r then q.closeWindow else q).settle s.cyc)).updCore c (fun x => { x with
        replay := none, rplClear := false })).retire c 4 .next)) ∧
      exec (.rplDrop d a b) s = .next ((s.dropReplay r).retire c 4 .next)))) ∧
  ((∀ d a b s c, CoreReady s c [] [d] → (s.core c).pend.any (fun p => p.acq) = false → drained (s.core c) = true →
    ∀ id r p idx j s1 s2 r2 s3 r3 el fx q, (s.core c).replay = some id → s.region? id = some r → r.replay = some p →
      idx = (s.core c).rplIdx.toNat → idx < (s.core c).rplLen.toNat → p.todo[idx]? = some j →
      s1 = s.replayCommit id 3 → s1.region? id = some r2 → r2.sweep = none → s2 = s1.replayReady r2 idx →
      s2.region? id = some r3 → s2.slotOpen (r3.sector j.elem) = true → s2.replayFire r3.aged j = .done el fx → r3.windowsFull = false →
      fxAccess fx = some q → r3.applied.any (fun x => x.elem == j.elem && x.slot == j.slot) = false →
      (replayOrderM id j q).exec s2 = (.ok (), s3) → ∀ r4, s3.region? id = some r4 →
      ∀ acc w, acc = mkAcc r4 j.elem j.slot s3.cyc q → w = { accWho r4 acc with reader := .core c } →
      ∀ fails : State → Byte → DWord → State, (∀ t cause addr, fails t cause addr =
        (t.updCore c (fun y => { y with ecause := cause.zeroExtend 64, eaddr := addr })).wrote c d 1 4) →
      (∀ cause addr s4, (accessM w acc.kind.need acc.va acc.size).exec s3 = (.error (.raise cause addr), s4) →
        exec (.rplStep d a b) s = .next (fails s4 cause addr)) ∧
      (∀ x s4, (accessM w acc.kind.need acc.va acc.size).exec s3 = (.ok x, s4) →
        (∀ st res s5, (replayPerformM c w r4 acc x).exec s4 = (.ok (.done st res), s5) → exec (.rplStep d a b) s = .next
          (((s5.replayDone id j el fx (some (st, res))).updCore c (fun y => { y with rplIdx := BitVec.ofNat 16 (idx + 1) })).wrote
            c d 0 4)) ∧
        (∀ cause addr s5, (replayPerformM c w r4 acc x).exec s4 = (.ok (.fails cause addr), s5) →
          exec (.rplStep d a b) s = .next (fails s5 cause addr)))) ∧
  (∀ c w r acc x s,
    (acc.kind = .store → s.scored r acc = false → (replayPerformM c w r acc x).exec s = (.ok (.done (.ready x) none), s)) ∧
    ((x.mt = 1 ∨ s.isLocal x.pa = true) →
      (acc.kind = .load ∨ acc.kind = .acquire → (r.covered acc.serial x acc.size = true ∨ s.scored r acc = false) →
        ∀ bs p, s.loadBytes r acc.serial x acc.size 0 = (bs, p) →
        (replayPerformM c w r acc x).exec s = (.ok (.done .done (some (BitVec.ofNat 256 (leNat bs), p))), s)) ∧
      (acc.kind = .release → s.scored r acc = false → storeBlocked s x acc.size = false →
        (replayPerformM c w r acc x).exec s = (.ok (.done .done none), s.storeAt x (wideBytes acc.data acc.size))) ∧
      (acc.kind = .vst → s.vstLost w (lowOf x.pa) = false → s.vstHeld (lowOf x.pa) (.step c) = false →
        s.writeHeld (lowOf x.pa) 8 false = false → (replayPerformM c w r acc x).exec s = (.ok (.done .done none),
          (s.vstGone (lowOf x.pa) (.step c)).createVersion (lowOf x.pa) (acc.data.extractLsb' 0 64))) ∧
      (acc.kind = .vrcl → (replayPerformM c w r acc x).exec s = (.ok (.done .done none), s.vrcl (lowOf x.pa) acc.version)) ∧
      (∀ k old p s1, acc.kind = .amo k → s.scored r acc = false →
        (amoAtM x k acc.size (acc.data.extractLsb' 0 64).toNat acc.new.toNat).exec s = (.ok (old, p), s1) →
        (replayPerformM c w r acc x).exec s = (.ok (.done .done (some (BitVec.ofNat 256 old, p))), s1)) ∧
      (acc.kind = .vld → s.isLocal x.pa = true → s.remoteReads.any (fun q => q.reader == w.reader) = false →
        (s.judgeVld (lowOf x.pa) acc.version = .gone → (replayPerformM c w r acc x).exec s =
          (.error (.raise Cause.versionGone acc.va), s)) ∧
        (∀ v p, s.judgeVld (lowOf x.pa) acc.version = .value v p → (replayPerformM c w r acc x).exec s = (.ok (.done .done (some
          (if acc.version = (s.vtag (lowOf x.pa)).newest then r.throughWindows acc x v p else (v.zeroExtend 256, p)))), s)))))) ∧
  ((∀ (r : Region) (c : Nat), r.beginReplay c = { r with replay := some ⟨c, r.journal, 0⟩, journal := [], log := [] }) ∧
  (∀ (s : State) (r : Region) p, s.region? r.id = some r → r.replay = some p → ∃ q, (s.dropReplay r).region? r.id = some q ∧
    q.replay = none ∧ q.frozen = some (r.frozen.getD .windowFault) ∧ q.wins = [] ∧ q.journal = p.todo.drop p.committed ∧
    q.accs = r.accs.filter (fun a => decide (a.serial < r.firstSnap.serial)) ∧
    (∀ e y, AMap.find? r.elems e = some y → y.isMatrix = false → q.elem e = AMap.getD r.firstSnap.elems e y) ∧
    ((s.dropReplay r).core p.core).replay = none ∧ (∀ k, k ≠ p.core → (s.dropReplay r).core k = s.core k) ∧
    (s.dropReplay r).mem = s.mem))

/-! ## The Sceip core's management group -/

/-- R224, R160: a sector sequencer that executes the MGMT group raises PRIV_FAULT.
R225, R393, R451: contexts, throttle, sensors and the event log, into which evl.put copies 32 bytes with the record's reserved fields zero
(the model's reading, log entry 64); arguments outside their ranges raise MGMT_ARG.
Rests on the model's choices too: log entries 37, 51, 64, 73. -/
def Obligations.ManagementPrivilegeAndContexts : Prop :=
  (∀ (d a b : Reg) (s : State) (c : Nat), s.act = .core c → c ≠ Config.sceip → ∀ i ∈ mgmtCommands d a b,
    exec i s = .next (s.preciseFault c Cause.privFault 0)) ∧
  (∀ (d a : Reg) (s : State), ∀ x v, x = ((s.core 256).gr d).toNat → v = ((s.core 256).gr a).toNat →
    (CoreReady s 256 [d, a] [] →
      exec (.ctxTen d a) s = .next (if 1 ≤ x ∧ x ≤ 63 ∧ v % 2 ^ 16 ≠ 0 then (s.tenanted x (v % 2 ^ 16)).retire 256 4 .next
        else s.preciseFault 256 Cause.mgmtArg 0) ∧
      exec (.ctxRoot d a) s = .next (if x ≤ 63 ∧ v % 2048 = 0 ∧ v < 2 ^ 40 ∧ isNormal v = true
        then { s with ctxs := AMap.set s.ctxs x { s.ctxOf x with root := some v } }.retire 256 4 .next
        else s.preciseFault 256 Cause.mgmtArg 0) ∧
      (v = 0 ∨ 8 < v → exec (.thrSet d a) s = .next (s.preciseFault 256 Cause.mgmtArg 0)) ∧
      (1 ≤ v → v ≤ 8 → ∃ t, exec (.thrSet d a) s = .next t ∧
        (∀ n, n < 256 → ((t.sector n).k = if x % 2 ^ 16 = 0xFFFF ∨ x % 256 = n then v else (s.sector n).k)) ∧
        (∀ n, { t.sector n with k := (s.sector n).k } = s.sector n) ∧ (t.core 256).pc = (s.core 256).pc + 4 ∧
        { t with sectors := s.sectors, cores := s.cores, remoteReads := s.remoteReads } = s)) ∧
    (CoreReady s 256 [a] [d] → exec (.snsrRd d a) s = .next
      (if v < 0x100 then s.wrote 256 d (BitVec.ofNat 64 (s.sector v).temp) 4
       else if v < 0x200 then s.wrote 256 d (BitVec.ofNat 64 (s.sector (v - 0x100)).droopsSeen.toNat) 4
       else if v = 0x200 then s.wrote 256 d (BitVec.ofNat 64 s.power) 4
       else s.preciseFault 256 Cause.mgmtArg 0)) ∧
    (CoreReady s 256 [d] [] →
      (∀ w0 w1 w2 w3 s1, (plainWordsM (whoCore s 256) ((s.core 256).gr d) 4).exec s = (.ok [w0, w1, w2, w3], s1) →
        w0 < 2 ^ 64 → w1 < 2 ^ 64 → w2 < 2 ^ 64 → w3 < 2 ^ 64 → ∃ v : BitVec 256,
        exec (.evlPut d) s = .next (({ s1 with
          evlog := AMap.set s1.evlog (s1.evlprod.toNat % 4096) v, evlprod := s1.evlprod + 1 } : State).retire 256 4 .next) ∧
        ∀ k, v.getLsbD k = (!(k == 14 || k == 15 || (decide (32 ≤ k) && decide (k < 64))) &&
          (BitVec.ofNat 256 (w0 + 2 ^ 64 * w1 + 2 ^ 128 * w2 + 2 ^ 192 * w3)).getLsbD k)) ∧
      (∀ cause addr s1, (plainWordsM (whoCore s 256) ((s.core 256).gr d) 4).exec s = (.error (.raise cause addr), s1) →
        exec (.evlPut d) s = .next (s1.preciseFault 256 cause addr))))

/-- R225, R43, R363: ctx.kill abandons the context and reserves gd until it is done; mst.frz freezes a sequencer, a host queue, an
engine binding or a region with an ISOLATION_FREEZE record, mst.thaw releases one; a malformed identifier raises MGMT_ARG.
R363, R358, R43: what a freeze, a thaw and a termination change. A core that runs stops at its instruction, which takes back what it
waited for; a thawed core goes on at epc. A region is rolled back to the opening of its oldest window and frozen without an event, its record
of CLASS 2 with JIDX and SLOT zero; one that is frozen already stays as it is; a thawed region runs from that state with its journal and its
arrival log empty. A termination leaves no region, stream, launch, ray or blend item of the context, and its sequencers idle with nothing
outstanding.
R225, R157, R307: seq.run names a start that happens once the old program's streams and launches are over and then clears the core;
seq.stop and seq.resume; tlb.inv removes the named translations and ends once every access that used one is performed.
Rests on the model's choices too: log entry 37. -/
def Obligations.ManagementOfMasters : Prop :=
  ((∀ d a s, CoreReady s 256 [a] [d] → ∀ n, n = ((s.core 256).gr a).toNat →
    (n = 0 ∨ 63 < n → exec (.ctxKill d a) s = .next (s.preciseFault 256 Cause.mgmtArg 0)) ∧
    (1 ≤ n → n ≤ 63 → s.ctxHeld n = true → exec (.ctxKill d a) s = .next s) ∧
    (1 ≤ n → n ≤ 63 → s.ctxHeld n = false → exec (.ctxKill d a) s = .next (((({ s with
        nextId := s.nextId + 1, kills := s.kills ++ [⟨n, 256, s.nextId⟩] } : State).killCtx n).updCore 256 (fun y => { y with
          pend := y.pend ++ [reservation s.nextId d .kill 0 (s.core 256).pc s.cyc] })).retire 256 4 .next))) ∧
  (∀ d s, CoreReady s 256 [d] [] → ∀ v, v = (s.core 256).gr d →
    (s.master v = none → exec (.mstFrz d) s = .next (s.preciseFault 256 Cause.mgmtArg 0) ∧
      exec (.mstThaw d) s = .next (s.preciseFault 256 Cause.mgmtArg 0)) ∧
    (∀ k, s.master v = some (.core k) → s.inside k = false →
      exec (.mstFrz d) s = .next ((s.frzCore k).retire 256 4 .next) ∧ exec (.mstThaw d) s = .next ((s.thawCore k).retire 256 4 .next)) ∧
    (∀ r, s.master v = some (.region r) → (r.frozen ≠ none ∨ r.awayUnbuffered = false) →
      exec (.mstFrz d) s = .next ((s.frzRegion r).retire 256 4 .next) ∧ exec (.mstThaw d) s = .next ((s.thawRegion r).retire 256 4 .next)) ∧
    (∀ r, s.master v = some (.engine r) →
      exec (.mstFrz d) s = .next (((s.setRegion { r with engineFrozen := true }).record
        { cause := Cause.isolationFreeze, cls := 2, mkind := 2, ctx := r.ctx, mid := midEngine r.word, loc := r.loc 0 }).retire 256 4 .next) ∧
      exec (.mstThaw d) s = .next ((s.setRegion { r with engineFrozen := false }).retire 256 4 .next)) ∧
    (∀ q, s.master v = some (.queue q) →
      exec (.mstFrz d) s = .next (((s.setHostQ q { s.hostQ q with frz := true, fetching := false, again := false }).record
        { cause := Cause.isolationFreeze, cls := 2, mkind := 3, ctx := (s.hostQ q).ctx, mid := midQueue q
          srcIs := some ((s.hostQ q).sema / 64 % 256) }).retire 256 4 .next) ∧
      exec (.mstThaw d) s = .next ((s.thawQueue q).retire 256 4 .next))) ∧
  (∀ (s : State) (v : DWord) named, named = s.regions.find? (fun r => r.word.toNat == v.toNat % 2 ^ 28) →
    (v.toNat / 2 ^ 28 = 0 → s.master v = named.map Master.region) ∧
    (v.toNat / 2 ^ 28 = 2 → (named = none → s.master v = none) ∧ (∀ r, named = some r → s.master v =
      if ∃ w ∈ r.binds, 2 ≤ bindEp w ∧ bindEp w ≤ 5 then some (.engine r) else none)) ∧
    (v.toNat / 2 ^ 28 = 3 → s.master v = if v.toNat % 2 ^ 28 ≤ 4095 then some (.queue (v.toNat % 2 ^ 28)) else none)) ∧
  (∀ (s : State) (v : DWord), v.toNat / 2 ^ 28 = 1 → s.master v = if v.toNat % 2 ^ 28 ≤ 255 then some (.core (v.toNat % 2 ^ 28)) else none) ∧
  (∀ (s : State) (v : DWord), 4 ≤ v.toNat / 2 ^ 28 → s.master v = none)) ∧
  ((∀ (s : State) (c : Nat), ∃ u : State, (∀ k, k ≠ c → u.core k = s.core k) ∧ LeftInstr s u c ∧
    ((s.core c).run = .running → u.core c = { s.core c with
      run := .stopped, frozen := true, epc := (s.core c).pc, waitFrom := none, woken := false }) ∧
    ((s.core c).run ≠ .running → u.core c = { s.core c with frozen := true }) ∧
    s.frzCore c = u.record { cause := Cause.isolationFreeze, cls := 2, mkind := 1, ctx := s.coreCtx c, mid := midCore c
                             loc := coreSector c, pc := (s.core c).pc }) ∧
  (∀ (s : State) (c : Nat), ((s.core c).frozen = false → s.thawCore c = s) ∧
    ((s.core c).frozen = true → (s.core c).run = .stopped → s.thawCore c = s.setCore c { s.core c with
      frozen := false, run := .running, pc := (s.core c).epc &&& 0xFFFFFFFFFFFFFFFC, stopAsked := false }) ∧
    ((s.core c).frozen = true → (s.core c).run ≠ .stopped → s.thawCore c = s.setCore c { s.core c with frozen := false })) ∧
  (∀ (s : State) (r : Region), s.region? r.id = some r →
    (r.frozen = none → ∃ q, (s.frzRegion r).region? r.id = some q ∧ q.frozen = some .mgmt ∧ q.wins = [] ∧
      q.faultCause = Cause.isolationFreeze ∧ (s.frzRegion r).cores = s.cores ∧
      ∀ e y, AMap.find? r.elems e = some y → y.isMatrix = false → q.elem e = AMap.getD r.firstSnap.elems e y) ∧
    (∀ f, r.frozen = some f → r.replay = none → ∃ q, (s.frzRegion r).region? r.id = some q ∧ q = { r with frozen := some .mgmt } ∧
      (s.frzRegion r).cores = s.cores) ∧
    (r.frozen = none → s.thawRegion r = s) ∧
    (∀ f, r.frozen = some f → r.replay = none → s.thawRegion r = s.setRegion
      (({ r with frozen := none, journal := [], log := [] } : Region).settle s.cyc)) ∧
    (∀ now, r.pend = [] → r.settle now = r)) ∧
  (∀ (s : State) (n : Nat), 1 ≤ n → ∀ t, t = s.killCtx n → (∀ r ∈ t.regions, r.ctx ≠ n) ∧ (∀ x ∈ t.streams, x.ctx ≠ n) ∧
    (∀ x ∈ t.launches, x.ctx ≠ n) ∧ (∀ x ∈ t.rays, x.ctx ≠ n) ∧ (∀ x ∈ t.blendItems, x.ctx ≠ n) ∧ (∀ x ∈ t.saved, x.ctx ≠ n) ∧
    (∀ i, ∀ x ∈ t.bq i, x.ctx ≠ n) ∧
    (∀ c, c ≠ 256 → (s.core c).ctx.toNat = n → (t.core c).run = .idle ∧ (t.core c).pend = [] ∧ (t.core c).held = [] ∧
      (t.core c).frozen = false) ∧
    (∀ c, (t.core c).g = (s.core c).g ∧ (t.core c).ctx = (s.core c).ctx ∧ (t.core c).pc = (s.core c).pc) ∧
    (∀ r ∈ t.regions, ∃ q ∈ s.regions, q.id = r.id ∧ q.elems = r.elems))) ∧
  ((∀ d a b s, CoreReady s 256 [d, a, b] [] → ∀ v pc arg, v = ((s.core 256).gr a).toNat → pc = (s.core 256).gr b → arg = (s.core 256).gr d →
    exec (.seqRun d a b) s = .next (if pc.toNat % 4 = 0
      then ((s.updCore (v % 256) (fun y => { y with
        starting := some (BitVec.ofNat 6 (v / 256), pc, arg), run := .idle, stopAsked := false, waitFrom := none
        woken := false })).leaveInstr (v % 256)).retire 256 4 .next
      else s.preciseFault 256 Cause.mgmtArg 0)) ∧
  (∀ d s, CoreReady s 256 [d] [] → ∀ k, k = ((s.core 256).gr d).toNat % 256 →
    ((s.core k).run = .running → exec (.seqStop d) s = .next ((s.updCore k (fun y => { y with stopAsked := true })).retire 256 4 .next)) ∧
    ((s.core k).run = .stopped → (s.core k).frozen = false → (s.core k).starting = none →
      exec (.seqResume d) s = .next ((s.updCore k (fun y => { y with
        run := .running, pc := y.epc &&& 0xFFFFFFFFFFFFFFFC, stopAsked := false })).retire 256 4 .next)) ∧
    ((s.core k).run = .stopped → (s.core k).frozen = true → exec (.seqResume d) s = .next ((s.setCore k (s.core k)).retire 256 4 .next))) ∧
  (∀ s c x ctx pc arg, s.core c = x → x.starting = some (ctx, pc, arg) → x.frozen = false → x.replay = none → x.slotHeld = false →
    s.downBays.contains (c / 64) = false → s.streamCount c = 0 → s.launchCount c = 0 →
    exec (.seqProgramStart c) s = .next (s.updCore c (fun _ => {
      g := (Vector.replicate 32 0).set 1 arg, ctx := ctx, pc := pc, mcix := (s.mring (coreQuadrant c)).p, events := x.events
      stopAsked := x.stopAsked, remoteWrites := x.remoteWrites.map (fun w => { w with past := true }), held := x.held, run := .running }))) ∧
  (∀ s c, (0 < s.streamCount c ∨ 0 < s.launchCount c) → exec (.seqProgramStart c) s = .next s) ∧
  (∀ d a s, CoreReady s 256 [d, a] [] → ∀ n va, n = ((s.core 256).gr d).toNat → va = (s.core 256).gr a → n ≤ 63 →
    (∀ v ∈ s.invals, v.core ≠ 256) → ∃ t, exec (.tlbInv d a) s = .next t ∧
      (∀ e, e ∈ t.tlb ↔ e ∈ s.tlb ∧ ¬ (e.ctx = n ∧ (va = 0xFFFFFFFFFFFFFFFF ∨ (e.base ≤ va.toNat ∧ va.toNat < e.base + e.size)))) ∧
      t.invals = s.invals ++ [⟨s.nextId, n, va, 256, s.invWaits n va⟩] ∧ t.cores = s.cores) ∧
  (∀ s v id, s.invals.find? (fun x => x.id == id) = some v → (∀ p ∈ v.waits, s.invDone p = true) →
    exec (.tlbInvalidateComplete id) s = .next (({ s with
      invals := s.invals.filter (fun x => x.id != id)
      streams := s.streams.map (fun t => if t.ctx = v.ctx then { t with retry := true } else t) } : State).retire v.core 4 .next)))

/-- R166, R169, R177, R178, R313, R325, R442: a held access is performed, or leaves for another package, once the copies it met are over, no
earlier held access meets it and its way is open; an atomic that another package refused stops the core with PERM_FAULT (the moment is the
model's choice, log entry 75); a result enters its register, or marks it where it is poison, and its reservation goes; an atomic that another package applied stops the
core with REMOTE_APPLIED_ERR; a version that is gone is a precise fault of the vld, and one that is still open is waited for.
Rests on the model's choices too: log entries 15, 27. -/
def Obligations.SequencerResultArrives : Prop :=  (∀ s c h reply, (s.core c).held.find? (fun g => g.id == h.id) = some h →
    (s.heldReady c h ((s.core c).held.takeWhile (fun g => g.id != h.id)) = false → exec (.seqResultArrival c h.id reply) s = .next s) ∧
    (s.heldReady c h ((s.core c).held.takeWhile (fun g => g.id != h.id)) = true → h.mt = 0 → s.isLocal h.pa = false →
      ∀ s1, s1 = s.updCore c (fun x => { x with held := x.held.filter (fun g => g.id != h.id) }) →
      (s.reachable (pkgOf h.pa) = true → h.kind = .store → exec (.seqResultArrival c h.id reply) s = .next
        ((s1.sendAs h.id .write (.core c h.id) h.ctx h.pa h.size (BitVec.ofNat 512 h.op)).updCore c (fun x => { x with
          remoteWrites := x.remoteWrites ++ [⟨h.id, h.va, h.pc, false⟩] }))) ∧
      (s.reachable (pkgOf h.pa) = true → h.kind ≠ .store → exec (.seqResultArrival c h.id reply) s = .next
        ((s1.sendAs h.id (if h.kind = .load then .load else .atomic) (.core c h.id) h.ctx h.pa h.size
          (if h.kind = .load then 0 else BitVec.ofNat 512 (h.op + 2 ^ 64 * h.new))).updCore c (fun x => { x with
            pend := x.pend.map (fun p => if p.id = h.id then { p with remote := true } else p) }))) ∧
      (s.reachable (pkgOf h.pa) = false → exec (.seqResultArrival c h.id reply) s = .next
        (match (s.core c).pend.find? (fun q => q.id == h.id) with
        | some q => (s1.linkLost h.ctx h.pa).giveResult c q 0 true
        | none => s1.linkLost h.ctx h.pa))) ∧
    (s.heldReady c h ((s.core c).held.takeWhile (fun g => g.id != h.id)) = true → (h.mt ≠ 0 ∨ s.isLocal h.pa = true) →
      ∀ v poison s1 s2, (heldM (whoCore s c) h).exec s = (.ok (v, poison), s1) →
        s2 = s1.updCore c (fun x => { x with held := x.held.filter (fun g => g.id != h.id) }) →
        exec (.seqResultArrival c h.id reply) s = .next (match (s.core c).pend.find? (fun q => q.id == h.id) with
          | some q => s2.giveResult c q (q.value v) poison
          | none => s2))) ∧
  (∀ s c id p v poison reply, (s.core c).held.find? (fun g => g.id == id) = none → (s.core c).pend.find? (fun q => q.id == id) = some p → p.result = some (v, poison) →
    exec (.seqResultArrival c id reply) s = .next (s.giveResult c p (p.value v.toNat) poison)) ∧
  (∀ s c id p q reply, (s.core c).held.find? (fun g => g.id == id) = none → (s.core c).pend.find? (fun q => q.id == id) = some p →
    p.result = none → p.kind ≠ .kill →
    s.reqs.find? (fun q => q.completed && !q.kind.isWrite && q.owner == .core c id) = some q → ∀ s1 : State, s1 = { s with reqs := s.reqs.filter (fun x => x.id != q.id) } →
      ((p.kind = .vld → reply.version ≠ 1 ∧ reply.version ≠ 2) →
        ((∃ n, p.kind = .amo n) → reply.applied = false ∧ reply.refused = false) →
        exec (.seqResultArrival c id reply) s = .next (s1.giveResult c p (p.value reply.data.toNat) reply.poison)) ∧
      (∀ n, p.kind = .amo n → reply.refused = true → (s.core c).run = .running → ∃ t,
        exec (.seqResultArrival c id reply) s = .next t ∧
        ∃ u : State, u.core c = { s.core c with
            pend := (s.core c).pend.filter (fun y => y.id != p.id), run := .stopped, epc := (s.core c).pc
            ecause := Cause.permFault.zeroExtend 64, eaddr := p.addr, waitFrom := none, woken := false } ∧
          t = u.record { cause := Cause.permFault, cls := 0, mkind := 1, ctx := s.coreCtx c, mid := midCore c, addr := p.addr
                         loc := coreSector c, pc := p.pc }) ∧
      (∀ n, p.kind = .amo n → reply.refused = false → reply.applied = true → ∃ t, exec (.seqResultArrival c id reply) s = .next t ∧
        ∃ u : State, u.core c = { (s1.giveResult c p (p.value reply.data.toNat) (!reply.oldSent)).core c with
            run := .stopped, epc := (s.core c).pc, ecause := 0x41, eaddr := p.addr, waitFrom := none, woken := false } ∧
          t = u.record { cause := 0x41, cls := 0, applied := true, oldv := reply.oldSent, mkind := 1, ctx := s.coreCtx c, mid := midCore c
                         addr := p.addr, loc := coreSector c, pc := p.pc
                         old := if reply.oldSent then p.value reply.data.toNat else 0 }) ∧
      (p.kind = .vld → reply.version = 1 → p.vldWait = none → exec (.seqResultArrival c id reply) s = .next
        ((s1.updCore c (fun x => { x with pend := x.pend.filter (fun y => y.id != p.id), pc := p.pc })).preciseFault c
          Cause.versionGone p.addr)) ∧
      (p.kind = .vld → reply.version = 2 → exec (.seqResultArrival c id reply) s = .next ((s.stillOpen q.id).updCore c (fun x =>
        { x with pend := x.pend.map (fun y =>
          if y.id = p.id then { y with vldWait := some (q.addr / 8, q.data.extractLsb' 0 32) } else y) })))) ∧
  (∀ s c id p reply, (s.core c).held.find? (fun g => g.id == id) = none → (s.core c).pend.find? (fun q => q.id == id) = some p →
    p.result = none → p.kind = .kill → exec (.seqResultArrival c id reply) s = .next
      (if ∀ k ∈ s.kills, k.pend = id → ∀ q ∈ s.reqs, q.ctx ≠ k.ctx
      then ({ s with kills := s.kills.filter (fun k => k.pend != id) } : State).giveResult c p 0 false else s)) ∧
  (∀ (s : State) (c : Nat) (p : Pend) (v : DWord) (poison : Bool), (s.giveResult c p v poison).core c =
    (let y : CoreSt := { s.core c with pend := (s.core c).pend.filter (fun q => q.id != p.id) }
     if poison then y.mark (BitVec.ofNat 5 p.reg) else y.wr (BitVec.ofNat 5 p.reg) v)) ∧
  (∀ (p : Pend) (v : Nat), (∀ n sg, (n = 1 ∨ n = 2 ∨ n = 4 ∨ n = 8) → p.kind = .load n sg → p.value v = widened n sg (v % 2 ^ (8 * n))) ∧
    (∀ n, p.kind = .amo n → p.value v = BitVec.ofNat 64 (v % 2 ^ (8 * n))) ∧ (p.kind = .vld → p.value v = BitVec.ofNat 64 v))

/-! ## Configurations and launches -/

/-- R208, R210 to R212, R22: an operation whose region word, owner or quads are wrong ends with its status; one whose image passes its
checks is loaded into the free quads and ends with 0; a swap loads once its token has passed, or leaves the quads free and discards the tokens
held at their sides.
R205, R209, R211, R212, R20: which images are rejected, and what a load leaves. A misaligned address raises MISALIGNED; a header whose QC is
not the region's raises CFG_RANGE, and one whose version, reserved words or parts are wrong ILLEGAL_OP; an illegal word of an element or of
the route table rejects the image with ILLEGAL_OP, a shared arm with CFG_SHARED_ARM. A region that is installed holds the image's words, its
registers zero and its predicates at their reset values, every other region stays, and its quads are its context's.
Rests on the model's choices too: log entries 14, 57, 59, 60, 61, 82. -/
def Obligations.ConfigurationLoads : Prop :=
  ((∀ s o, Pending s o .queued → o.kind = .ld →
    (wordBad o.word = true → exec (.configurationLoad o.id) s = .next (s.cfgDone o Cause.cfgRange)) ∧
    (wordBad o.word = false → o.core ≠ Config.sceip → o.launch = 0 → wordId o.word / 16 ≠ o.core →
      exec (.configurationLoad o.id) s = .next (s.cfgDone o Cause.cfgNotOwner)) ∧
    (MayName o → s.downBays.contains (wordId o.word / 1024) = false →
      (s.quadsFree o.id (wordId o.word) (wordQuads o.word) = false →
        exec (.configurationLoad o.id) s = .next (s.cfgDone o Cause.cfgOverlap)) ∧
      (s.quadsFree o.id (wordId o.word) (wordQuads o.word) = true →
        exec (.configurationLoad o.id) s = .next (match (checkedImageM (whoCfg o) o.addr o.word o.ctx).exec s with
          | (.error (.raise cause _), s1) => s1.cfgDone o cause
          | (.error _, s1) => s1
          | (.ok im, s1) => match (loadChecksM (whoCfg o) (im.region (wordId o.word) o.ctx o.addr true)).exec s1 with
            | (.error (.raise cause _), s2) => s2.cfgDone o cause
            | (.error _, s2) => s2
            | (.ok r, s2) => (s2.install r).cfgDone o 0)))) ∧
  (∀ s o im r s1, Pending s o .acting → o.kind = .swp → o.image = some im →
    (loadChecksM (whoCfg o) (im.region (wordId o.word) o.ctx o.addr false)).exec s = (.ok r, s1) →
    exec (.configurationLoad o.id) s = .next ((s1.install r).cfgDone o 0)) ∧
  (∀ s o im q cause addr s1, Pending s o .acting → o.kind = .swp → o.image = some im →
    q = im.region (wordId o.word) o.ctx o.addr false → (loadChecksM (whoCfg o) q).exec s = (.error (.raise cause addr), s1) →
    exec (.configurationLoad o.id) s = .next ((s1.heldTokens q false q.boundarySides).cfgDone o cause))) ∧
  ((∀ rt el qc : Nat, partsPlaced rt el qc = true ↔ rt % 8 = 0 ∧ el % 64 = 0 ∧ 0x40 ≤ rt ∧ 0x40 ≤ el ∧
    (rt + 1024 ≤ el ∨ el + 2048 * qc ≤ rt) ∧ rt + 1024 ≤ 2 ^ 64 ∧ el + 2048 * qc ≤ 2 ^ 64) ∧
  (∀ w (va : DWord) quads s, va.toNat % 64 ≠ 0 → (readImageM w va quads).exec s = (.error (.raise Cause.misaligned va), s)) ∧
  (∀ w (va : DWord) quads s hd s1, va.toNat % 64 = 0 → canonical va = true → (cfgDwordsM w va 8).exec s = (.ok (hd, false), s1) →
    ∀ qc, qc = bits (hd.getD 0 0).toNat 47 32 →
    ¬ (1 ≤ qc ∧ qc ≤ 1024 ∧ partsPlaced (hd.getD 1 0).toNat (hd.getD 2 0).toNat qc = true) →
    (readImageM w va quads).exec s = (.error (.raise (if qc = quads then Cause.illegalOp else Cause.cfgRange) va), s1)) ∧
  (∀ w (va : DWord) quads s, match (readImageM w va quads).exec s with
    | (.ok im, _) => im.qc = quads ∧ 1 ≤ quads ∧ quads ≤ 1024 ∧ va.toNat % 64 = 0
    | _ => True) ∧
  (∀ w va word ctx s, (checkedImageM w va word ctx).exec s = match (readImageM w va (wordQuads word)).exec s with
    | (.error e, s1) => (.error e, s1)
    | (.ok im, s1) => match (im.region (wordId word) ctx va false).staticFault with
      | some cause => (.error (.raise cause va), s1)
      | none => (.ok im, s1)) ∧
  (∀ r : Region, (r.edgeTie = true → r.staticFault = some Cause.illegalOp) ∧ (r.edgeTie = false → r.staticFault = r.wordsFault) ∧
    (∀ e, e < 4 * r.quads → (r.elem e).wordsOk = false → r.wordsFault = some Cause.illegalOp) ∧
    (∀ k, k < 128 → routeEntryOk r.quads (r.rtab.getD k 0) = false → r.wordsFault = some Cause.illegalOp) ∧
    ((∀ e, e < 4 * r.quads → (r.elem e).wordsOk = true) → (∀ k, k < 128 → routeEntryOk r.quads (r.rtab.getD k 0) = true) →
      r.bindsOk = true → r.matrixOk = true → r.widthsOk = true →
      r.wordsFault = if r.sharedArm = true then some Cause.cfgSharedArm else none)) ∧
  (∀ e : Elem, (e.mode.extractLsb' 24 5 ≠ 0 ∨ e.mode.extractLsb' 0 8 ≠ 0 → e.wordsOk = false) ∧
    (e.isStatic = false → ∀ k, k < 32 → e.slots.getD k 0 ≠ 0 → (∃ why, decodeElem (e.slots.getD k 0) = .rejected why) →
      e.wordsOk = false)) ∧
  (∀ (im : Image) (id ctx : Nat) (image : DWord) (b : Bool), ∀ r, r = im.region id ctx image b → r.elems = im.elems ∧ r.rtab = im.rtab ∧
    r.quads = im.qc ∧ r.unit = none ∧ r.wins = [] ∧ r.accs = [] ∧ ∀ k, k < 128 → AMap.getD r.cred k 0 =
      if routeType (im.rtab.getD k 0) = 1 ∨ routeType (im.rtab.getD k 0) = 2 then routeCredits (im.rtab.getD k 0) else 0) ∧
  (∀ (ws : List Word), ∀ e, e = elemOf ws → e.mode = ws.getD 0 0 ∧ e.route = ws.getD 1 0 ∧ e.static = ws.getD 2 0 ∧ e.p = e.pReset ∧
    (∀ j, e.xr j = 0 ∧ e.wr j = 0) ∧ (∀ k, k < 8 → e.consts.getD k 0 = ws.getD (8 + k) 0) ∧
    (∀ k, k < 64 → e.trigs.getD k 0 = ws.getD (16 + k) 0) ∧ (∀ k, k < 32 → e.slots.getD k 0 = ws.getD (80 + k) 0)) ∧
  (∀ (s : State) (r : Region), s.landings = [] → ∀ t, t = s.install r → (∃ q, t.region? r.id = some q ∧ { q with inst := r.inst } = r) ∧
    (∀ i, i ≠ r.id → t.region? i = s.region? i) ∧
    (∀ k, r.id ≤ k → k < r.id + r.quads → AMap.getD t.lastCtx k 64 = r.ctx)))

/-- R40, R359, R361: a token passes only once nothing of the region is left to do, and an unloaded region is then gone; until then a
region without a unit closes its open window (the model's choice, log entry 62). A save writes its area and a restore reads one, each
ending with its status.
R359 to R361: the save area, and its round trip. An area is 0x21000 + 0x4800 QC bytes: the header, one record of 4,096 bytes for each
element, the boundary sides, and the pending arrivals; a save writes it 64 bytes at a time, each through its own page, and the region is
then gone. What is read back from the records of an area is the route table and, for each triggered or static element, its words, its
registers, its predicates, its pointer, its send buffer and the tokens of its output channels.
Rests on the model's choices too: log entries 34, 40, 41, 43, 62, 79. -/
def Obligations.TokenSaveAndRestore : Prop :=
  ((∀ s r o, s.region? r.id = some r → r.token = some o.id → s.cfgop? o.id = some o → o.st = .token →
    (s.mayPass r o = false → exec (.reconfigurationTokenPassage r.id) s = .next
      (if s.regionLive r = true ∧ r.unit = none then s.setRegion r.closeWindow else s)) ∧
    (s.mayPass r o = true →
      (o.kind = .unl → exec (.reconfigurationTokenPassage r.id) s = .next (((s.leave r).cfgDone o 0).beginNext o.word)) ∧
      (o.kind = .swp → exec (.reconfigurationTokenPassage r.id) s = .next ((s.leave r).setOp { o with st := .acting })) ∧
      (o.kind = .sv → exec (.reconfigurationTokenPassage r.id) s = .next (s.setOp { o with st := .acting })))) ∧
  (∀ (s : State) (r : Region) (o : CfgOp), s.mayPass r o = true → (o.kind = .sv ∨ r.unit = none) ∧ (r.frozen = none → r.wins = [] ∧ r.raised = []) ∧ r.replay = none ∧
    s.enginesDone r = true ∧ s.outDone r = true ∧ s.drained r = true) ∧
  (∀ (s : State) (r : Region), (s.leave r).regions = s.regions.filter (fun q => q.id != r.id)) ∧
  (∀ s r o, Pending s o .acting → o.kind = .sv → s.regionNamed o.word o.core o.ctx = some r →
    ((s.mayPass r o = false ∨ 2048 < (s.stillPending r).length) → exec (.configurationSave o.id) s = .next s) ∧
    (s.mayPass r o = true → (s.stillPending r).length ≤ 2048 →
      exec (.configurationSave o.id) s = .next (match (saveM o r).exec s with
        | (.ok _, s1) => s1.cfgDone o 0
        | (.error (.raise cause _), s1) => s1.cfgDone o cause
        | (.error _, s1) => s1))) ∧
  (∀ s o, Pending s o .queued → o.kind = .rst →
    exec (.configurationRestore o.id) s = .next (match (restoreM o).exec s with
      | (.ok _, s1) => s1.cfgDone o 0
      | (.error (.raise cause _), s1) => s1.cfgDone o cause
      | (.error _, s1) => s1)) ∧
  (∀ (s : State) (o : CfgOp) (cause : Byte), o.kind ≠ .launchLoad → o.kind ≠ .launchUnload →
    (s.cfgDone o cause).cfgops = s.cfgops.filter (fun x => x.id != o.id) ∧
    ((s.cfgDone o cause).core o.core).pend = (s.core o.core).pend.map (fun p =>
      if p.id = o.pend then { p with result := some (cause.zeroExtend 64, false) } else p) ∧
    (s.cfgDone o cause).regions = s.regions ∧ (s.cfgDone o cause).mem = s.mem)) ∧
  ((∀ (s : State) (r : Region), (saveBytes s r).length = areaSize r.quads ∧
    (∀ e, e < 4 * r.quads → ((saveBytes s r).drop (0x1000 + 0x1000 * e)).take 0x1000 =
      if (r.elem e).isMatrix = true then matRecord (r.elem e) else elemRecord s r e) ∧
    leNat ((saveBytes s r).take 4) = 1 ∧ (r.quads ≤ 1024 → leNat (((saveBytes s r).drop 4).take 2) % 2048 = r.quads)) ∧
  (∀ (s : State) (r : Region) (hd : List Byte) (mats : AMap Mat) (id ctx e : Nat), e < 4 * r.quads → (r.elem e).isMatrix = false →
    (∀ o, o < 4 → ((r.elem e).outch o).q.length ≤ 2) →
    ∀ recs, recs = (List.range (4 * r.quads)).map (fun k => if (r.elem k).isMatrix then matRecord (r.elem k) else elemRecord s r k) →
    ∀ y, y = ((areaImage hd recs mats r.quads).region id ctx 0 false).elem e →
      y.mode = (r.elem e).mode ∧ y.route = (r.elem e).route ∧ y.static = (r.elem e).static ∧ y.consts = (r.elem e).consts ∧
      y.trigs = (r.elem e).trigs ∧ y.slots = (r.elem e).slots ∧ y.x = (r.elem e).x ∧ y.w = (r.elem e).w ∧ y.p = (r.elem e).p ∧
      y.rr = (r.elem e).rr ∧ y.sb = (r.elem e).sb ∧ y.sbtag = (r.elem e).sbtag ∧ y.started = true ∧
      y.finished = ((r.elem e).finished || ((r.elem e).start && !(r.elem e).started)) ∧
      ∀ o, o < 4 → (y.outch o).q.map (fun t => t.tok) = ((r.elem e).outch o).q.map (fun t => t.tok)) ∧
  (∀ (r : Region) (rolled : Bool) (n : Nat) recs mats, (areaImage (saveHeader r rolled n) recs mats r.quads).rtab = r.rtab) ∧
  (∀ w va n bs s x s1, (saveAtM w va).exec s = (.ok x, s1) → s1.writeHeld (lowOf x.pa) 64 false = false →
    (saveWriteM w va (n + 1) bs).exec s = (saveWriteM w (va + 64) n (bs.drop 64)).exec (s1.fabWrite (lowOf x.pa) (bs.take 64))) ∧
  (∀ o (r : Region) s, match (saveAtM (whoCfg o) o.addr).exec s with
    | (.error e, s1) => (saveM o r).exec s = (.error e, s1)
    | (.ok _, s1) => match (saveWriteM (whoCfg o) o.addr ((areaSize r.quads + 63) / 64) (saveBytes s r)).exec s1 with
      | (.error e, s2) => (saveM o r).exec s = (.error e, s2)
      | (.ok _, s2) => ∃ t, (saveM o r).exec s = (.ok (), t) ∧ t.regions = s2.regions.filter (fun q => q.id != r.id)))

/-- R23, R24, R203, R205: the judgement of a launch. The parameter block is read first, at a 64-byte aligned address; lnch.ind takes its count
from the named version of the count word. A count of 0 completes at once; one above 2^24 is rejected with LAUNCH_RANGE; a span or a number of
quads out of range with LAUNCH_SPAN; an image with its own cause; otherwise the launch is accepted with its image.
R205, R206, R341, R344: a launch is judged accepted, complete at once or rejected with its cause; a placement is taken; a unit's end
frees its placement; once every unit is over the placements that the launch loaded are unloaded, and it then leaves its queue.
R76, R79, R342, R343: a unit starts on the chosen placement: every START element's k3 inbox takes the start packet of the unit,
every element's predicates and round-robin pointer take their start values, and the launch counts the unit.
Rests on the model's choices too: log entries 17, 35, 44. -/
def Obligations.LaunchesRunAndStartUnits : Prop :=
  ((∀ l s, l.read = false →
    (l.lpb.toNat % 64 ≠ 0 → (judgeM l).exec s = (.error (.raise Cause.misaligned l.lpb), s)) ∧
    (l.lpb.toNat % 64 = 0 → canonical l.lpb = true →
      (∀ cause addr s1, (loadWordsM (whoLaunch l) l.lpb 8).exec s = (.error (.raise cause addr), s1) →
        (judgeM l).exec s = (.error (.raise cause addr), s1)) ∧
      (∀ ws s1, (loadWordsM (whoLaunch l) l.lpb 8).exec s = (.ok ws, s1) → (judgeM l).exec s =
        (judgeM (lpbFields l ws)).exec (s1.updLaunch l.id (fun _ => lpbFields l ws))))) ∧
  (∀ l ws, ∀ m, m = lpbFields l ws → m.read = true ∧ m.image = BitVec.ofNat 64 (ws.getD 0 0) ∧ m.count = ws.getD 1 0 % 2 ^ 32 ∧
    m.span = ws.getD 2 0 % 8 ∧ m.csema = ws.getD 2 0 / 2 ^ 32 % 2 ^ 14 ∧ m.arg = BitVec.ofNat 64 (ws.getD 3 0) ∧
    m.quads = ws.getD 6 0 % 2 ^ 11 ∧ m.plmax = ws.getD 6 0 / 2 ^ 16 % 2 ^ 10 ∧ m.id = l.id ∧ m.ctx = l.ctx ∧ m.ind = l.ind) ∧
  (∀ l s, l.read = true → l.ind = false →
    (l.count = 0 → (judgeM l).exec s = (.ok l, s)) ∧
    (2 ^ 24 < l.count → (judgeM l).exec s = (.error (.raise Cause.launchRange 0), s)) ∧
    (1 ≤ l.count → l.count ≤ 2 ^ 24 →
      (l.span = 0 ∨ l.span = 7 ∨ l.quads = 0 ∨ 1024 < l.quads ∨ spanQuads l.span < l.quads →
        (judgeM l).exec s = (.error (.raise Cause.launchSpan 0), s)) ∧
      (1 ≤ l.span → l.span < 7 → 1 ≤ l.quads → l.quads ≤ 1024 → l.quads ≤ spanQuads l.span →
        (judgeM l).exec s = match (readImageM (whoLaunch l) l.image l.quads).exec s with
          | (.error e, s1) => (.error e, s1)
          | (.ok im, s1) => match (im.region l.spanFirst l.ctx l.image false).wordsFault with
            | some cause => (.error (.raise cause l.image), s1)
            | none => (.ok { l with img := some im }, s1)))) ∧
  (∀ l s, l.read = true → l.ind = true →
    (l.countAddr.toNat % 8 ≠ 0 → (judgeM l).exec s = (.error (.raise Cause.misaligned l.countAddr), s)) ∧
    (l.countAddr.toNat % 8 = 0 →
      (∀ cause addr s1, (translateM (whoLaunch l) .vld l.countAddr).exec s = (.error (.raise cause addr), s1) → (judgeM l).exec s =
        (.error (.raise (if cause = Cause.notVersioned then Cause.launchUnversioned else cause) addr), s1)) ∧
      (∀ x s1, (translateM (whoLaunch l) .vld l.countAddr).exec s = (.ok x, s1) → targetOk .engine x = true →
        (∀ cause addr s2, (homeVldM (whoLaunch l) (.launch l.id) l.countAddr x l.countVer).exec s1 = (.error (.raise cause addr), s2) →
          cause ≠ Cause.notVersioned → (judgeM l).exec s = (.error (.raise cause addr), s2)) ∧
        (∀ v p n s2, (homeVldM (whoLaunch l) (.launch l.id) l.countAddr x l.countVer).exec s1 = (.ok (v, p, n), s2) →
          (p = true → (judgeM l).exec s = (.error (.raise Cause.poisonConsumed l.countAddr), s2)) ∧
          (p = false → (v = 0 → (judgeM l).exec s = (.ok { l with count := 0 }, s2)) ∧
            (2 ^ 24 < v.toNat → (judgeM l).exec s = (.error (.raise Cause.launchRange 0), s2)))))))) ∧
  ((∀ s l reply, s.launch? l.id = some l → l.accepted = false →
    exec (.launchJudgement l.id reply) s = .next (match (judgeM l).exec s with
      | (.ok l1, s1) =>
        if l1.count = 0 then ((((s1.endReads (.launch l.id)).putResult l.core l.pend 0 false).launchSignal l1 false).dropLaunch l.id)
        else ((s1.endReads (.launch l.id)).updLaunch l.id (fun _ => { l1 with
          accepted := true, places := (s1.endReads (.launch l.id)).placeCount l1 })).putResult l.core l.pend 0 false
      | (.error (.raise cause addr), s1) =>
        ((s1.putResult l.core l.pend (cause.zeroExtend 64) false).dropLaunch l.id).coreError l.core l.ctx cause addr l.pc
      | (.error _, s1) => s1)) ∧
  (∀ s l id, Accepted s l → l.next < l.count → (l.placements.filter Placement.live).length < l.places →
    (s.nextCandidate l = some (id, false) → exec (.placementTake l.id) s = .next (s.updLaunch l.id (fun m => { m with
      placements := insertPlace (m.placements.filter Placement.live) ⟨id, false, .idle⟩ }))) ∧
    (s.nextCandidate l = some (id, true) → exec (.placementTake l.id) s = .next
      (let s1 := s.updLaunch l.id (fun m => { m with
         placements := insertPlace (m.placements.filter Placement.live) ⟨id, true, .loading⟩ })
       { s1 with
         nextId := s.nextId + 1
         cfgops := s.cfgops ++ [⟨s.nextId, .launchLoad, l.core, 0, l.ctx, l.image, placeWord id l.quads, l.id, .queued, l.img, false⟩] }))) ∧
  (∀ s r u n, s.region? r.id = some r → r.unit = some u → u.finAt = some n →
    exec (.unitCompletion r.id) s = .next (if r.uncommitted n = true then s
      else (s.setRegion { r with unit := none }).updLaunch u.launch (idlePlace u.ident))) ∧
  (∀ s r u, s.region? r.id = some r → r.unit = some u → u.finAt = none → r.starters = [] → u.start < s.cyc →
    exec (.unitCompletion r.id) s = .next ((s.setRegion { r with unit := none }).updLaunch u.launch (idlePlace u.ident))) ∧
  (∀ s l, Accepted s l → l.completed + l.abandoned = l.count → (∀ p ∈ l.placements, p.own = true → p.st = .gone) →
    (∃ p ∈ l.placements, p.st ≠ .gone) → exec (.launchCompletion l.id) s = .next (s.endLaunch l false)) ∧
  (∀ s l, Accepted s l → l.completed + l.abandoned = l.count → (∃ p ∈ l.placements, p.own = true ∧ p.st = .idle) →
    exec (.launchCompletion l.id) s = .next (unloadOps l l.placements s)) ∧
  (∀ s l, Accepted s l → l.completed + l.abandoned = l.count → (∃ p ∈ l.placements, p.own = true ∧ p.st ≠ .gone) →
    (∀ p ∈ l.placements, p.own = true → p.st ≠ .idle) → exec (.launchCompletion l.id) s = .next s) ∧
  (∀ s l, Accepted s l → (∀ p ∈ l.placements, p.st = .gone) → (∀ id ∈ l.candidates, l.dropped.contains id = true) →
    exec (.launchCompletion l.id) s = .next (s.endLaunch l true)) ∧
  (∀ s l, Accepted s l → l.completed + l.abandoned < l.count → (∃ p ∈ l.placements, p.st ≠ .gone) →
    exec (.launchCompletion l.id) s = .next s)) ∧
  ((∀ s l k p r, Accepted s l → l.next < l.count → s.choosePlace l = some k → (s.heldPlaces l)[k]? = some p → s.region? p.region = some r →
    r.token = none → r.unit = none → s.regionLive r = true → r.startRoom s.cyc = true →
    (r.wins = [] ∨ r.log.length + r.starters.length < 2048) →
    exec (.unitStart l.id) s = .next ((s.setRegion (r.startUnit s.cyc l.id l.next l.arg)).updLaunch l.id
      (fun m => runPlace p.region l.next s.cyc m k))) ∧
  (∀ (r : Region) (now launch ident : Nat) (arg : DWord), ∀ q, q = r.startUnit now launch ident arg → r.sweep = none →
    q.unit = some ⟨launch, ident, now, none⟩ ∧
    ∀ e, e < 4 * r.quads → (∃ y, AMap.find? r.elems e = some y) →
      q.startAt = now + 1 ∧ (q.elem e).box 3 = (r.elem e).box 3 ++ (if (r.elem e).start
        then [⟨startPacket ident (r.loc e) (e / 4) r.ctx arg, 0, now⟩] else []) ∧
      { q.elem e with inbox := (r.elem e).inbox } = { r.elem e with p := (r.elem e).pReset, rr := 31, started := true, finished := false }))

/-! ## Links, packets and queue ends -/

/-- R228, R230, R238, R234: a wire takes the token at its element when its consumer has a credit; the token arrives after the link's
latency, leaves to a port's or an island's queue, and disappears at a sink; with no credit it stays. While the arrival log that must record
what enters is full, no sender outside holds a credit.
R229, R230, R354: a token whose link latency has passed enters its input channel behind the others, where there is room, and is seen
from the next cycle; before that, or without room, it stays on the wire.
Rests on the model's choices too: log entries 16, 74, 79. -/
def Obligations.TokensTravelOnWires : Prop :=
  (∀ s r e side t, Leaving s r e side t → ∀ key, key = wireKey (r.loc e) side →
    (∀ e2 l, r.far e side = .mesh e2 → l = linkLatency (r.loc e) (r.loc e2) →
      exec (.linkTokenArrival r.id e side .take) s = .next
        (if s.hasCredit r e2 side.opposite (s.wire key).flight.length l = true ∧ (r.crosses e side = true → r.logShut = false)
         then (s.takeHead r e side t.src).fly key t (s.cyc + l) (if r.crosses e side then 0 else t.src) r.ctx else s)) ∧
    (r.far e side = .sink → exec (.linkTokenArrival r.id e side .take) s = .next (s.takeHead r e side t.src)) ∧
    (∀ p, r.far e side = .port p → exec (.linkTokenArrival r.id e side .take) s = .next
      (if (s.port p).toMem.length < portRoom
       then (s.takeHead r e side t.src).updPort p (fun x => { x with toMem := x.toMem ++ [t.tok] }) else s)) ∧
    (∀ k, r.far e side = .island k → exec (.linkTokenArrival r.id e side .take) s = .next
      (if (s.link k).inq.length + stamps s.cyc 2 (s.link k).freed < linkSlots k
       then (s.takeHead r e side t.src).updLink k (fun x => { x with inq := x.inq ++ [⟨t.tok, s.cyc + 2, 0⟩] }) else s)) ∧
    (∀ o, (r.elem e).driver side = .out o → o < 4 → (r.elem e).isMatrix = false → ∀ u, u = s.takeHead r e side t.src →
      ∃ r', u.region? r.id = some r' ∧ ((r'.elem e).outch o).q = ((r.elem e).outch o).q.drop 1 ∧
        (∀ k, k ≠ e → r'.elem k = r.elem k) ∧ (u.wire key).flight = (s.wire key).flight ∧ (∀ k, k ≠ key → u.wire k = s.wire k)) ∧
    (∀ (d : Dir), r.logShut = true → s.endCredit r e d = false) ∧
    (r.logShut = true ↔ (r.wins ≠ [] ∨ r.replay ≠ none) ∧ 2048 ≤ r.log.length)) ∧
  (∀ s r e e2 side f rest i, s.region? r.id = some r → r.far e side = .mesh e2 →
    ∀ k, k = wireKey (r.loc e2) side.opposite → (s.wire k).flight = f :: rest →
    (s.cyc < f.due → exec (.linkTokenArrival r.id e side .arrive) s = .next s) ∧
    (f.due ≤ s.cyc → (∀ g, rest.head? = some g → s.cyc < g.due) → s.regionLive r = true → (r.elem e).consumer side = .chan i → i < 4 → (r.elem e).isMatrix = false →
      (((r.elem e).inch i).q.length = 4 → exec (.linkTokenArrival r.id e side .arrive) s = .next s) ∧
      (((r.elem e).inch i).q.length < 4 → r.pendingChan e i = false → r.sweep = none → r.logShut = false →
        ∃ t r', exec (.linkTokenArrival r.id e side .arrive) s = .next t ∧ t.region? r.id = some r' ∧
          ((r'.elem e).inch i).q = ((r.elem e).inch i).q ++ [.tok ⟨f.tok, s.cyc, f.src⟩] ∧
          (∀ j, j ≠ i → (r'.elem e).inch j = (r.elem e).inch j) ∧ (∀ j, j ≠ e → r'.elem j = r.elem j) ∧
          (t.wire k).flight = rest ∧ (∀ j, j ≠ k → t.wire j = s.wire j) ∧ t.mem = s.mem)))

/-- R247, R250 to R254: the router accepts a staged packet with the header of its route, a copy reaches a landing queue with room, and
one packet a cycle passes into an inbox with room; one for another context is discarded with a record.
Rests on the model's choices too: log entry 16. -/
def Obligations.PacketsTravel : Prop :=  (∀ s r e p, s.region? r.id = some r → (r.elem e).stage = some p → s.regionLive r = true → s.fenced r e p.src = false →
    exec (.packetArrival (.accept r.id e)) s = .next (if p.suppressed = true then s.setRegion (r.unstageElem s.cyc e p)
      else { s.setRegion (r.unstageElem s.cyc e p) with
             nextId := s.nextId + 1
             flights := s.flights ++ [⟨s.nextId, { p.pkt with header := packetHeader r e p.label (routeInbox (r.route p.label))
                                                                         (routeType (r.route p.label) == 2) p.pkt },
               r.id, r.inst, p.label, routeDests r (r.route p.label), routeDests r (r.route p.label), routeInbox (r.route p.label),
               (routeDests r (r.route p.label)).length⟩] })) ∧
  (∀ s f d, s.flights.find? (fun x => x.id == f.id) = some f → f.dests.contains d = true → mayLand f d s.flights = true →
    f.pkt.header.getLsbD 48 = false → overtakes f s.flights = true → s.downBays.contains (d / 4096) = false → ∀ k h, k = landKey d f.inbox →
    h = f.pkt.header ||| BitVec.ofNat 64 (2 ^ 25 * (d % 2 ^ 14)) → ∀ s1 : State, s1 = { s with
      flights := s.flights.map (fun x => if x.id = f.id then { x with dests := x.dests.filter (fun y => y != d) } else x) } →
    ((∀ q e, s.at? d = some (q, e) → q.ctx = headerCtx f.pkt.header) → exec (.packetArrival (.deliver f.id d)) s = .next
      (if 8 ≤ (s.landing k).length then s
       else s1.setLanding k (s1.landing k ++ [⟨{ f.pkt with header := h }, f.id, s.cyc⟩]))) ∧
    (∀ q e, s.at? d = some (q, e) → q.ctx ≠ headerCtx f.pkt.header → exec (.packetArrival (.deliver f.id d)) s = .next
      ((s1.returnCredit f.id).record { cause := 0x59, cls := 3, mkind := 4, ctx := headerCtx h, loc := d }))) ∧
  (∀ s loc k l rest r e, s.landing (landKey loc k) = l :: rest → s.at? loc = some (r, e) →
    (r.ctx ≠ headerCtx l.pkt.header → exec (.landingQueuePass loc k) s = .next (((s.setLanding (landKey loc k) rest).returnCredit
      l.flight).record { cause := 0x59, cls := 3, mkind := 4, ctx := headerCtx l.pkt.header, loc := loc })) ∧
    (r.ctx = headerCtx l.pkt.header → s.regionLive r = true → 0 < (r.elem e).boxRoom s.cyc k → r.pendingBox e k = false →
      r.logShut = false → (∀ b ∈ (r.elem e).box k, b.at_ ≠ s.cyc) →
      exec (.landingQueuePass loc k) s = .next
        (((s.setLanding (landKey loc k) rest).setRegion (r.putPacket s.cyc e k l.pkt)).returnCredit l.flight)) ∧
    (r.ctx = headerCtx l.pkt.header → 2 ≤ ((r.elem e).box k).length → exec (.landingQueuePass loc k) s = .next s) ∧
    (k < 4 → (r.elem e).boxRoom s.cyc k = 2 - ((r.elem e).box k).length -
      (((r.elem e).boxFreed.getD k []).filter (fun d => decide (s.cyc ≤ d))).length))

/-- R240 to R243, R441: the token at a QOUT end becomes a record at PRODUCED of its ring, which then moves on, unless the ring is
full; a QIN end delivers the record at CONSUMED, or absorbs a fathom, and then moves it on, and a package that bound the ring's other
end hears of it; the copy of CONSUMED there takes what an accepted flit brings.
R241, R243, R441, R442: a QOUT end whose queue lies in another package. A record leaves when the ring, by the copy of CONSUMED here, has
room and no record is on its way; its home having it, PRODUCED counts it; and the end then tells the home of the new count before it sends the
next. A package whose new route mask waits is sent nothing, and what no port carries is lost with a record.
Rests on the model's choices too: log entries 49, 61, 78. -/
def Obligations.QueueEndsMoveRecords : Prop :=
  ((∀ s r e side t q reply, Leaving s r e side t → isFathom t.tok.tag = false →
    (t.src = 0 ∨ AMap.getD r.wsup (wireKey (r.loc e) side) 0 = 0) → AMap.find? r.qends (qKey e side) = some q → q.out = true →
    s.isLocal q.desc = true → ∀ prod cons, prod = s.fabNat (lowOf q.desc + 0x10) 8 → cons = s.fabNat (lowOf q.desc + 0x18) 8 →
    exec (.qoutRecordWrite r.id e side reply) s = .next (if 2 ^ q.log2n ≤ (prod + 2 ^ 64 - cons) % 2 ^ 64 then s
      else ((s.takeHead r e side t.src).partWrite (lowOf (q.ring + prod % 2 ^ q.log2n * q.recSize)) (recBytes q.wide t.tok)).partWrite
        (lowOf q.desc + 0x10) (leBytes (prod + 1) 8))) ∧
  (∀ s r e side q reply, s.region? r.id = some r → AMap.find? r.qends (qKey e side) = some q → q.out = false →
    ∀ prod cons, prod = s.fabNat (lowOf q.desc + 0x10) 8 → cons = s.fabNat (lowOf q.desc + 0x18) 8 →
    (prod = cons → exec (.qinRecordDeliver r.id e side reply) s = .next s) ∧
    (∀ t s1, prod ≠ cons → (s.wire (wireKey (r.loc e) side)).lastTake ≤ s.cyc → r.linkShut e side = false →
      s.farHeld q = false → s.endCredit r e side = true → t = s.recordTok q (lowOf (q.ring + cons % 2 ^ q.log2n * q.recSize)) →
      (isFathom t.tag = false → s.enterIn r e side t s.cyc 0 = some s1) → (isFathom t.tag = true → s1 = s) →
      exec (.qinRecordDeliver r.id e side reply) s = .next ((s1.setConsumed q r.ctx (cons + 1)).updWire
        (wireKey (r.loc e) side) (fun w => { w with lastTake := s.cyc + 1 })))) ∧
  (∀ (s : State) (q : QEnd) (ctx n : Nat) (s1 : State), s1 = s.partWrite (lowOf q.desc + 0x18) (leBytes n 8) →
    ((∀ f ∈ s.farEnds, ¬ (f.out = true ∧ f.desc = lowOf q.desc)) → s.setConsumed q ctx n = s1) ∧
    (∀ f, s.farEnds.find? (fun g => g.out && g.desc == lowOf q.desc) = some f → s.reachable f.package = true →
      s.setConsumed q ctx n = (s1.sendReq .consumed .other ctx (2 ^ 40 * f.package + lowOf q.desc + 0x18) 8 (BitVec.ofNat 512 n)).2)) ∧
  (∀ s r e side q s1 reply, s.region? r.id = some r → AMap.find? r.qends (qKey e side) = some q → q.out = true → s.isLocal q.desc = false →
    s.takePeer = some s1 → exec (.consumedCopyUpdate r.id e side reply) s = .next (s1.setRegion { r with
      qends := AMap.set r.qends (qKey e side) { q with consumedCopy := (reply.data.extractLsb' 0 64).toNat } }))) ∧
  ((∀ s r e side q reply, s.region? r.id = some r → AMap.find? r.qends (qKey e side) = some q → q.out = true → s.isLocal q.desc = false →
    q.told ≠ q.produced → exec (.qoutRecordWrite r.id e side reply) s = .next (if s.maskHeld (pkgOf q.desc) = true then s else
      let s1 := s.setRegion { r with qends := AMap.set r.qends (qKey e side) { q with told := q.produced } }
      if s.reachable (pkgOf q.desc) = true then
        (s1.sendReq .produced (.queue r.id r.inst) r.ctx (q.desc + 0x10) 8 (BitVec.ofNat 512 q.produced)).2
      else s1.linkLost r.ctx (q.desc + 0x10))) ∧
  (∀ s r e side t q reply, Leaving s r e side t → isFathom t.tok.tag = false →
    (t.src = 0 ∨ AMap.getD r.wsup (wireKey (r.loc e) side) 0 = 0) → AMap.find? r.qends (qKey e side) = some q → q.out = true →
    s.isLocal q.desc = false → q.told = q.produced → ∀ pa, pa = q.ring + q.produced % 2 ^ q.log2n * q.recSize →
    (2 ^ q.log2n ≤ (q.produced + 2 ^ 64 - q.consumedCopy) % 2 ^ 64 → exec (.qoutRecordWrite r.id e side reply) s = .next s) ∧
    ((q.produced + 2 ^ 64 - q.consumedCopy) % 2 ^ 64 < 2 ^ q.log2n →
      (s.maskHeld (pkgOf q.desc) = true ∨ (∃ x ∈ s.reqs, x.kind = .record ∧ x.owner = .queue r.id r.inst ∧ x.addr = pa) →
        exec (.qoutRecordWrite r.id e side reply) s = .next s) ∧
      (s.maskHeld (pkgOf q.desc) = false → (∀ x ∈ s.reqs, x.kind = .record → x.owner ≠ .queue r.id r.inst) →
        exec (.qoutRecordWrite r.id e side reply) s = .next (if s.reachable (pkgOf q.desc) = true
          then ((s.takeHead r e side t.src).sendReq .record (.queue r.id r.inst) r.ctx pa q.recSize
            (BitVec.ofNat 512 (leNat (recBytes q.wide t.tok)))).2
          else (s.takeHead r e side t.src).linkLost r.ctx pa)))) ∧
  (∀ s r k q req, s.region? r.id = some r → AMap.find? r.qends k = some q → q.out = true → q.produced < 2 ^ 64 - 1 →
    s.reqs.find? (fun x => x.id == req) = some ⟨req, .record, .queue r.id r.inst, r.ctx, q.ring + q.produced % 2 ^ q.log2n * q.recSize,
      0, 0, q.recSize, 0, true⟩ →
    ∃ t r', exec (.writeCompletion req true) s = .next t ∧ t.region? r.id = some r' ∧
      AMap.find? r'.qends k = some { q with produced := q.produced + 1 }))

/-! ## Commit windows and the accesses of elements -/

/-- R139, R351 to R358: the oldest window commits once it is closed, without a raised cause, and every access of it is settled; its
journal entries go. Raised causes set the fault flag; twelve cycles later the region freezes at the first of them, with the elements and
the accesses of the oldest window's opening; the sweeps of a cycle end in the cycle after they fired, and leave no token that one of them
names.
Rests on the model's choices too: log entries 53, 80. -/
def Obligations.WindowsCommitOrFreeze : Prop :=  (∀ s r, s.region? r.id = some r → exec (.windowCommit r.id) s = .next (if s.commitReady r = true then s.commitWindow r else s)) ∧
  (∀ (s : State) (r : Region) (w : Window) (t : List Window), r.wins = w :: t → (s.commitReady r = true ↔ w.closed = true ∧
    s.regionLive r = true ∧ (∀ x ∈ r.raised, r.bound ≤ x.serial) ∧
    ∀ a ∈ r.accs, a.serial < r.bound → s.accSettled r a = true)) ∧
  (∀ (r q : Region) now, q = r.dropWindow now → q.wins.length = r.wins.length - 1 ∧ q.elems = r.elems ∧ q.cred = r.cred ∧
    q.journal = r.journal.filter (fun j => decide (r.bound ≤ j.serial))) ∧
  (∀ s r, s.region? r.id = some r → s.regionLive r = true → ∀ new,
    new = (failures s.cyc r.accs).filter (fun x => !r.raised.any (fun y => y.serial == x.serial)) →
    exec (.windowFaultDetect r.id) s = .next (if new = [] then s
      else s.setRegion { r with raised := r.raised ++ new, flagAt := some (r.flagAt.getD s.cyc) })) ∧
  (∀ s r d x, s.region? r.id = some r → r.flagAt = some d → firstRaised r.raised = some x →
    (s.cyc < d + 12 → exec (.regionClockGate r.id) s = .next s) ∧
    (d + 12 ≤ s.cyc → r.frozen = none → r.awayUnbuffered = false → exec (.regionClockGate r.id) s = .next
      (s.freezeRegion r (if x.cause = Cause.isolationFreeze then .isolation else .windowFault) x 1))) ∧
  (∀ (l : List Raised) (x : Raised), firstRaised l = some x → x ∈ l ∧
    ∀ y ∈ l, x.cycle < y.cycle ∨ (x.cycle = y.cycle ∧ x.serial ≤ y.serial)) ∧
  (∀ (r : Region) (how : Freeze), (r.rollback how).frozen = some how ∧ (r.rollback how).wins = [] ∧ (r.rollback how).log = [] ∧
    (r.rollback how).journal = r.journal ∧ ∀ e y, AMap.find? r.elems e = some y → y.isMatrix = false →
      (r.rollback how).elem e = AMap.getD r.firstSnap.elems e y) ∧
  (∀ (s : State) (r : Region) how x cls w rest, s.region? r.id = some r → r.wins = w :: rest →
    ∃ q, (s.freezeRegion r how x cls).region? r.id = some q ∧ q.frozen = some how ∧ q.wins = [] ∧ q.journal = r.journal ∧
      q.faultCause = x.cause ∧ q.faultAddr = x.addr ∧ q.accs = r.accs.filter (fun a => decide (a.serial < w.snap.serial)) ∧
      ∀ e y, AMap.find? r.elems e = some y → y.isMatrix = false → q.elem e = AMap.getD w.snap.elems e y) ∧
  (∀ s r w, s.region? r.id = some r → r.sweep = some w → exec (.sweepComplete r.id) s = .next
    (if w.start + 1 ≤ s.cyc ∧ s.regionLive r = true then s.endSweep r s.cyc else s)) ∧
  (∀ (s : State) (r : Region) (w : Sweep), s.region? r.id = some r → r.sweep = some w → s.landings = [] → ∃ q, (s.endSweep r s.cyc).region? r.id = some q ∧
    q.sweep = none ∧ q.sweepDone = s.cyc + 1 ∧ ∀ e c, e < 4 * r.quads → c < 4 →
      (∀ t, t ∈ ((q.elem e).outch c).q → t ∈ ((r.elem e).outch c).q ∧ ∀ p ∈ w.exits, sweepTok p.1.toNat t.tok = true))

/-- R144, R303, R116, R101, R114, R313: an access that its tile accepts is translated and checked, an unbuffered one once its window is
the oldest; it leaves its port, but for a load behind an unperformed release or atomic, and notes the copies of the scoreboard it meets.
A load takes its bytes from the windows or from memory once its order allows and those copies are over, and its response enters its
reservation.
R114, R147, R148, R152, R146, R295, R331: an access that is performed on its own does its effect in this package's memory and its window
commits with it; an atomic keeps the old value as its response; a full version store makes a vst wait, and 2^20 cycles later it
fails without a version, here or as another package's home slice answers; a vld is judged at its home, and the newest version is read
through the region's windows.
Rests on the model's choices too: log entries 15, 75. -/
def Obligations.ElementAccessesPerform : Prop :=
  ((∀ s r a, AccessAt s r a .port →
    (a.kind.unbuffered = true → r.inOldest a = false → exec (.tlbWalk r.id a.serial) s = .next s) ∧
    ((a.kind.unbuffered = true → r.inOldest a = true) →
      (∀ x s1 b, (accessM (accWho r a) a.kind.need a.va a.size).exec s = (.ok x, s1) → b = { a with st := .ready x } →
        exec (.tlbWalk r.id a.serial) s = .next (s1.updRegion r.id (fun q =>
          if q.behindUnbuffered b then q.setAcc b
          else (q.freePort s.cyc (s1.checkedAcc q b)).setAcc { s1.checkedAcc q b with inPort := false }))) ∧
      (∀ cause addr s1, (accessM (accWho r a) a.kind.need a.va a.size).exec s = (.error (.raise cause addr), s1) →
        exec (.tlbWalk r.id a.serial) s = .next (s1.updRegion r.id (fun q =>
          (q.freePort s.cyc a).setAcc { a with st := .failed cause addr, inPort := false }))))) ∧
  (∀ (s : State) (r : Region) (a : Acc), { s.checkedAcc r a with behind := a.behind } = a ∧
    ((a.kind = .load ∨ a.kind = .acquire ∨ a.kind = .release ∨ ∃ k, a.kind = .amo k) →
      (s.checkedAcc r a).behind = s.scoreHits (r.sector a.elem) r.ctx a.va a.size)) ∧
  (∀ s r a x reply, AccessAt s r a (.ready x) → (a.kind = .load ∨ a.kind = .acquire) → s.mayRead r a = true →
    (x.mt = 1 ∨ s.isLocal x.pa = true) → ∀ b r1 s1, (a.inPort = false → b = a ∧ r1 = r ∧ s1 = s) →
      (a.inPort = true → b = { s.checkedAcc r a with inPort := false } ∧ r1 = (r.freePort s.cyc (s.checkedAcc r a)).setAcc b ∧
        s1 = s.setRegion r1) →
    (r1.covered a.serial x a.size = true ∨ s1.waitsScore b = false) → ∀ bs p, s1.loadBytes r1 a.serial x a.size 0 = (bs, p) →
    exec (.loadResponse r.id a.serial reply) s = .next
      ((s1.accNow r { b with st := .done, result := some (BitVec.ofNat 256 (leNat bs), p) }).deliver r.id a.serial)) ∧
  (∀ (s : State) (r : Region) (a : Acc) (v : Wide) (p : Bool), s.region? r.id = some r → r.acc? a.serial = some a →
    a.result = some (v, p) →
    (firstResv ((r.elem a.elem).inch a.rsp).q ≠ some (a.serial, 0) → s.deliver r.id a.serial = s) ∧
    (firstResv ((r.elem a.elem).inch a.rsp).q = some (a.serial, 0) → r.logs = false → (a.kind = .load ∨ a.kind = .acquire ∨ a.kind = .vld) →
      s.deliver r.id a.serial = s.setRegion { deliverHalves s.cyc a v p r a.halves with
        accs := (deliverHalves s.cyc a v p r a.halves).accs.filter (fun b => b.serial != a.serial) })) ∧
  (∀ (now acc : Nat) (t : Token) (pre post : List InEntry), (∀ e ∈ pre, ∃ k, e = .tok k) →
    fillResv now acc 0 t false (pre ++ .resv acc 0 false :: post) = pre ++ .tok ⟨t, now, 0⟩ :: post)) ∧
  ((∀ s r a x, AccessAt s r a (.ready x) → s.mayPerform r a = true → (x.mt = 1 ∨ s.isLocal x.pa = true) →
    (a.kind = .release → s.waitsScore a = false → storeBlocked s x a.size = false →
      exec (.unbufferedAccessPerform r.id a.serial) s = .next ((s.storeAt x (wideBytes a.data a.size)).performed r.id a)) ∧
    (a.kind = .vrcl → s.isLocal x.pa = true →
      exec (.vrclPerform r.id a.serial) s = .next ((s.vrcl (lowOf x.pa) a.version).performed r.id a)) ∧
    (a.kind = .vst → s.isLocal x.pa = true →
      (s.vstHeld (lowOf x.pa) (.region r.id a.serial) = true → exec (.vstPerform r.id a.serial) s = .next
        ((s.vstJoin (lowOf x.pa) (.region r.id a.serial)).setRegion (r.setAcc { a with st := .waiting x, since := s.cyc }))) ∧
      (s.vstHeld (lowOf x.pa) (.region r.id a.serial) = false → s.writeHeld (lowOf x.pa) 8 false = false → exec (.vstPerform r.id a.serial) s = .next
        ((s.createVersion (lowOf x.pa) (a.data.extractLsb' 0 64)).performed r.id a))) ∧
    (∀ k reply, a.kind = .amo k → s.waitsScore a = false → ∀ old p s1,
      (amoAtM x k a.size (a.data.extractLsb' 0 64).toNat a.new.toNat).exec s = (.ok (old, p), s1) →
      exec (.atomicPerform r.id a.serial reply) s = .next (s1.performed r.id { a with result := some (BitVec.ofNat 256 old, p) }))) ∧
  (∀ s r a x t, AccessAt s r a (.waiting x) → a.kind = .vst →
    t = ({ s with
        reqs := s.reqs.filter (fun q => !(q.kind == .vst && q.owner == .region r.id a.serial))
        vstQueue := s.vstQueue.filter (fun w => w.owner != .region r.id a.serial) } : State).setRegion (r.setAcc { a with st := .failed Cause.versionStall a.va }) →
    exec (.versionStall r.id a.serial) s = .next (if a.since + 2 ^ 20 < s.cyc then t else s) ∧
    (s.mayPerform r a = true → (a.since + 2 ^ 20 < s.cyc → exec (.vstPerform r.id a.serial) s = .next t) ∧
      (s.cyc ≤ a.since + 2 ^ 20 → s.vstHeld (lowOf x.pa) (.region r.id a.serial) = false → s.writeHeld (lowOf x.pa) 8 false = false →
        exec (.vstPerform r.id a.serial) s = .next (((s.vstGone (lowOf x.pa) (.region r.id a.serial)).createVersion (lowOf x.pa)
          (a.data.extractLsb' 0 64)).performed r.id a)))) ∧
  (∀ s r a x, AccessAt s r a (.remote x) → a.kind = .vst → a.since + 2 ^ 20 < s.cyc →
    (∃ q ∈ s.reqs, q.completed = true ∧ q.kind = .vst ∧ q.owner = .region r.id a.serial) →
    exec (.versionStall r.id a.serial) s = .next
      (({ s with
          reqs := s.reqs.filter (fun q => !(q.kind == .vst && q.owner == .region r.id a.serial))
          vstQueue := s.vstQueue.filter (fun w => w.owner != .region r.id a.serial) } : State).setRegion (r.setAcc { a with st := .failed Cause.versionStall a.va }))) ∧
  (∀ s r a x reply, AccessAt s r a (.ready x) → a.kind = .vld → s.isLocal x.pa = true → s.mayJudge r a = true →
    exec (.vldHomeJudge r.id a.serial reply) s = .next (s.judge r a x)) ∧
  (∀ s r a x, AccessAt s r a (.refused x) → a.kind = .vld → s.wayOpen r a = true → exec (.vldResend r.id a.serial) s = .next (s.judge r a x)) ∧
  (∀ (s : State) (r : Region) (a : Acc) (x : Xlat),
    (s.judgeVld (lowOf x.pa) a.version = .gone → s.judge r a x = s.accNow r { a with st := .failed Cause.versionGone a.va }) ∧
    (∀ v p, s.judgeVld (lowOf x.pa) a.version = .value v p → s.judge r a x = s.accNow r { a with
      st := .done, result := some (if a.version = (s.vtag (lowOf x.pa)).newest then r.throughWindows a x v p
        else (v.zeroExtend 256, p)) }) ∧
    (s.judgeVld (lowOf x.pa) a.version = .notYet → s.judge r a x = if s.vldListFull (lowOf x.pa) = true
      then s.accNow r { a with st := .refused x }
      else ({ s with vldWaits := s.vldWaits ++ [⟨lowOf x.pa / 8, a.version, .region r.id a.serial⟩] } : State).accNow r { a with
        st := .waiting x })) ∧
  (∀ (r : Region) (a : Acc) (x : Xlat) (v : DWord) (p : Bool), a.size = 8 → (∀ b ∈ r.accs, b.kind ≠ .store) →
    r.throughWindows a x v p = (v.zeroExtend 256, p)))

/-! ## Streams -/

/-- R181, R184, R185, R310: a queued stream with nothing to move runs at once; any other, oldest of its core, as the rotation of its
engine reaches its sector and its engines have a place; either fails at its checks. R182, R190, R364: an item move that completes moves
the stream on, a page fault pauses it with one record until a tlb.inv or 65,536 cycles, another cause fails it, and what a failed stream
did not write is marked item by item, each aligned 8 bytes by their own page; a copied item arrives as it was.
R180, R182, R183: where an item lies; strm.ld packs the items of a fibre into tokens of 32 bytes and ends each fibre with the stops of
the dimensions that end there, in rising LEVEL, each with its count; strm.st takes a token and the stops in the same layout, fails with
STOP_MISMATCH on another, and writes an item from its bytes of the token. (An item's address is taken modulo 2^64: the model's choice, log
entry 76.)
Rests on the model's choices too: log entries 39, 66, 68, 69, 76. -/
def Obligations.StreamsStartAndMove : Prop :=
  ((∀ s t s1, s.stream? t.id = some t → t.st = .queued → (t.empty = true → s1 = s) →
    (t.empty = false → s.headStream t.core = some t ∧ s.engineNext (engineOf t) = some (rotaPlace t.core) ∧
      s1 = { s with lastSector := AMap.set s.lastSector (engineOf t) (rotaPlace t.core) }) →
    (s.streamCheck t = none → exec (.streamStart t.id) s = .next (s1.setStream { t with st := .running })) ∧
    (∀ cause, s.streamCheck t = some cause → exec (.streamStart t.id) s = .next (s1.streamFail t cause 0))) ∧
  (∀ (s : State) (t : Stream) blk, blk = s.streams.filter (fun x => coreBlock x.core == coreBlock t.core && x.active && !x.empty) →
    (s.hasPlace t = true ↔ (t.onLoad = true → (blk.filter Stream.onLoad).length < 4) ∧
      (t.onStore = true → (blk.filter Stream.onStore).length < 4))) ∧
  (∀ (s : State) engine p at_, (at_ = fun k => (AMap.getD s.lastSector engine 4 + 1 + k) % 5) → s.engineNext engine = some p →
    ∃ k, k < 5 ∧ p = at_ k ∧ (∃ t, s.headStream (rotaCore (engine / 2) p) = some t ∧ engineOf t = engine ∧ s.hasPlace t = true) ∧
      ∀ j t, j < k → (at_ j = 4 → engine < 2) → s.headStream (rotaCore (engine / 2) (at_ j)) = some t →
        ¬ (engineOf t = engine ∧ s.hasPlace t = true)) ∧
  (∀ s t reply, s.stream? t.id = some t → t.st = .running → t.moved = false → t.kind ≠ .hrv → s.portsOk t = none →
    (∀ t1 s1, t.stepM.exec s = (.ok t1, s1) → exec (.streamItemMove t.id reply) s = .next ((s1.setStream t1).endReads (.island 10 t.id))) ∧
    (∀ cause addr s1, t.stepM.exec s = (.error (.raise cause addr), s1) → exec (.streamItemMove t.id reply) s = .next
      (if cause = Cause.pageFault
       then (let s2 := (s1.endReads (.island 10 t.id)).setStream { t with st := .paused addr s.cyc, retry := false, reported := true }
             if t.reported then s2 else s2.streamError t Cause.pageFault addr)
       else (s1.endReads (.island 10 t.id)).streamFail t cause addr)) ∧
    (∀ x y s1 s2, t.kind = .cp → t.desc.esz ≠ 5 → t.item < t.dst.total → t.dst.size = t.desc.size →
      (accessM (whoStream t) .load (t.desc.itemAt t.item) t.desc.size).exec s = (.ok x, s1) → x.mt = 0 → s1.isLocal x.pa = true →
      s1.poisonedAt (lowOf x.pa) t.desc.size = false →
      (accessM (whoStream t) .store (t.dst.itemAt t.item) t.dst.size).exec s1 = (.ok y, s2) → y.mt = 0 → s2.isLocal y.pa = true →
      s2.writeHeld (lowOf y.pa) t.dst.size false = false →
      exec (.streamItemMove t.id reply) s = .next (((s2.fabWrite (lowOf y.pa)
        (leBytes (s1.fabNat (lowOf x.pa) t.desc.size) t.desc.size)).setStream { t with item := t.item + 1, reported := false }).endReads
          (.island 10 t.id)))) ∧
  (∀ s t va d, s.stream? t.id = some t → t.st = .paused va d → exec (.streamRetry t.id) s = .next
    (if t.retry = true ∨ d + 65536 ≤ s.cyc then s.streamStep { t with st := .running, retry := false } else s)) ∧
  (∀ s t t1 s1 reply, s.stream? t.id = some t → t.isFailed = true → t.marksLeft = true → t.markM.exec s = (.ok t1, s1) →
    exec (.streamItemMove t.id reply) s = .next (s1.setStream t1) ∧ t1 = { t with item := t.item + 1 }) ∧
  (∀ (s : State) (t : Stream) (va : DWord) n xs s1, (markUnitsM (whoStream t) (BitVec.ofNat 64 (8 * (va.toNat / 8)))
      ((va.toNat + n - 1) / 8 + 1 - va.toNat / 8)).exec s = (.ok xs, s1) →
    (∀ x ∈ xs, x.mt = 0 ∧ isNormal (lowOf x.pa) = true ∧ s1.isLocal x.pa = true) →
    (markItemM t va n).exec s = (.ok (), xs.foldl (fun u x => u.markPoison (lowOf x.pa) 8) s1)) ∧
  (∀ (s : State) (w : Who) va n,
    (∀ x s1 xs s2, (translateM w .store va).exec s = (.ok x, s1) → (markUnitsM w (va + 8) n).exec s1 = (.ok xs, s2) →
      (markUnitsM w va (n + 1)).exec s = (.ok (x :: xs), s2)) ∧
    (∀ cause addr s1 xs s2, (translateM w .store va).exec s = (.error (.raise cause addr), s1) →
      (markUnitsM w (va + 8) n).exec s1 = (.ok xs, s2) → (markUnitsM w va (n + 1)).exec s = (.ok xs, s2))) ∧
  (∀ (s : State) (t : Stream), (t.kind = .ld ∨ t.kind = .st) → t.desc.bad = true → s.streamCheck t = some Cause.streamDesc)) ∧
  ((∀ (d : Desc) i0 i1 i2 i3, i0 < d.n0 → i1 < d.n1 → i2 < d.n2 → d.itemAt (((i3 * d.n2 + i2) * d.n1 + i1) * d.n0 + i0) =
    d.base + BitVec.ofNat 64 (i0 * d.size) + BitVec.ofNat 64 i1 * d.s1 + BitVec.ofNat 64 i2 * d.s2 + BitVec.ofNat 64 i3 * d.s3) ∧
  (∀ (d : Desc) k l, 0 < k → k ≤ d.total → l < 4 → (l < d.stopsAfter k ↔ l < d.stopd ∧
    ([d.n0, d.n1, d.n2, d.n3].take (l + 1)).prod ∣ k)) ∧
  (∀ (d : Desc) l n, l < 4 → [d.n0, d.n1, d.n2, d.n3][l]? = some n → d.stopTok l = ⟨scalarOf (BitVec.ofNat 32 n), mkTag 1 l⟩) ∧
  (∀ (s : State) (t : Stream), t.kind = .ld → t.desc.esz < 5 →
    (∀ k, t.held = some k → (s.port t.port).toRegion.length < portRoom →
      (s.port t.port).toRegion.length + (s.port t.port).fly.length < 4 → t.stepM.exec s = (.ok { t with held := none },
        s.updPort t.port (fun y => { y with toRegion := y.toRegion ++ [k] }))) ∧
    (t.held = none → t.sheld = none → t.stops < t.desc.stopsAfter t.item → (s.port t.port).toRegion.length < portRoom →
      (s.port t.port).toRegion.length + (s.port t.port).fly.length < 4 → t.stepM.exec s = (.ok { t with stops := t.stops + 1 },
        s.updPort t.port (fun y => { y with toRegion := y.toRegion ++ [t.desc.stopTok t.stops] }))) ∧
    (∀ bs p s1, t.held = none → t.sheld = none → t.desc.stopsAfter t.item ≤ t.stops → t.item < t.desc.total → t.poison = false →
      (itemReadM (whoStream t) (t.desc.itemAt t.item) t.desc.size).exec s = (.ok (bs, p), s1) →
      ((t.item + 1) % t.desc.n0 ≠ 0 → (t.item % t.desc.n0 + 1) % (32 / t.desc.size) ≠ 0 → ∃ t1, t.stepM.exec s = (.ok t1, s1) ∧
        t1.item = t.item + 1 ∧ t1.buf = t.buf ++ bs ∧ t1.poison = p ∧ t1.held = none ∧ t1.stops = 0) ∧
      ((t.item + 1) % t.desc.n0 = 0 ∨ (t.item % t.desc.n0 + 1) % (32 / t.desc.size) = 0 → ∃ t1, t.stepM.exec s = (.ok t1, s1) ∧
        t1.item = t.item + 1 ∧ t1.buf = [] ∧ t1.poison = false ∧ t1.stops = 0 ∧
        t1.held = some (if p = true then ⟨0, mkTag 3 0⟩ else ⟨BitVec.ofNat 256 (leNat (t.buf ++ bs)), dataTag⟩)))) ∧
  (∀ (s : State) (t : Stream) (k : Token) rest, t.kind = .st → t.desc.esz < 5 → (s.port t.port).toMem = k :: rest →
    ∀ s1, s1 = s.updPort t.port (fun y => { y with toMem := rest }) →
    (t.stops < t.desc.stopsAfter t.item →
      (isStop k.tag = true → levelOf k.tag = t.stops → t.stepM.exec s = (.ok { t with stops := t.stops + 1 }, s1)) ∧
      (isPoison k.tag = true → t.stepM.exec s = (.ok { t with stops := t.stops + 1, poison := true }, s1)) ∧
      (isPoison k.tag = false → ¬ (isStop k.tag = true ∧ levelOf k.tag = t.stops) →
        t.stepM.exec s = (.error (.raise Cause.stopMismatch 0), s))) ∧
    (t.desc.stopsAfter t.item ≤ t.stops → t.item < t.desc.total → t.held = none →
      (isStop k.tag = false → t.stepM.exec s = (.ok { t with held := some k, poison := t.poison || isPoison k.tag }, s1)) ∧
      (isStop k.tag = true → t.stepM.exec s = (.error (.raise Cause.stopMismatch 0), s)))) ∧
  (∀ (s : State) (t : Stream) (k : Token), t.kind = .st → t.desc.esz < 5 → t.held = some k → t.desc.stopsAfter t.item ≤ t.stops → t.item < t.desc.total → ∀ t1,
    t1 = { t with item := t.item + 1, stops := 0, sstops := 0, reported := false
                  held := if (t.item + 1) % t.desc.n0 = 0 ∨ (t.item % t.desc.n0 + 1) % (32 / t.desc.size) = 0 then none else some k
                  sheld := if (t.item + 1) % t.desc.n0 = 0 ∨ (t.item % t.desc.n0 + 1) % 32 = 0 then none else t.sheld } →
    (∀ s1, isPoison k.tag = false → (itemWriteM t (t.desc.itemAt t.item)
        (leBytes (k.val.toNat / 256 ^ (t.item % t.desc.n0 % (32 / t.desc.size) * t.desc.size)) t.desc.size)).exec s = (.ok (), s1) →
      t.stepM.exec s = (.ok t1, s1)) ∧
    (∀ s1, isPoison k.tag = true → (markItemM t (t.desc.itemAt t.item) t.desc.size).exec s = (.ok (), s1) →
      t.stepM.exec s = (.ok t1, s1))))

/-- R187, R189, R201, R308: a stream whose layout has passed, or which has failed and marked what it did not write, credits its barrier,
signals its semaphore, with the error bit if it failed, and leaves its queue and the scoreboard; a credit whose translation waits waits;
mem.hrv sets D of a page whose frames were written and clears the frames' bits, those of another package one frame at a time; a page that spans packages, package by
package.
Rests on the model's choices too: log entries 38, 39, 70, 77. -/
def Obligations.StreamsRetireAndHarvest : Prop :=  (∀ s t, s.stream? t.id = some t → s.streamWrites t.id = false → t.st = .running → t.moved = true → t.poison = false →
    (s.streamCredit t false = none → exec (.streamRetire t.id) s = .next s) ∧
    (∀ s1, s.streamCredit t false = some (s1, none) → exec (.streamRetire t.id) s = .next ((s1.streamSignal t false).streamGone t)) ∧
    (∀ s1 cause, s.streamCredit t false = some (s1, some cause) → exec (.streamRetire t.id) s = .next
      (((s1.streamError t cause t.tb).streamSignal t true).streamGone t))) ∧
  (∀ s t cause addr s1 o, s.stream? t.id = some t → s.streamWrites t.id = false → t.st = .failed cause addr →
    t.marksLeft = false → s.streamCredit t true = some (s1, o) → exec (.streamRetire t.id) s = .next ((s1.streamSignal t true).streamGone t)) ∧
  (∀ (s : State) (t : Stream) (failed : Bool), t.kind ≠ .hrv →
    (t.desc1.tbarEn = false → s.streamCredit t failed = some (s, none)) ∧
    (∀ x s1, t.desc1.tbarEn = true → (translateM (whoStream t) .atomic t.tb).exec s = (.ok x, s1) →
      s.streamCredit t failed = if x.mt = 0 ∧ isNormal (lowOf x.pa) = true ∧ s1.isLocal x.pa = true ∧ lowOf x.pa ∈ s1.barriers
        then some (s1.tbarCredit (lowOf x.pa) t.desc1.bytes t.ctx failed, none) else some (s1, some Cause.streamDesc)) ∧
    (∀ cause addr s1, t.desc1.tbarEn = true → (translateM (whoStream t) .atomic t.tb).exec s = (.error (.raise cause addr), s1) →
      s.streamCredit t failed = some (s1, some cause)) ∧
    (t.desc1.semaEn = true → (t.core = Config.sceip ∨ s.coreCtx (t.desc1.sema / 64) = t.ctx) → t.desc1.sema < 2 ^ 14 →
      s.streamSignal t failed = if failed then (s.semaAdd (t.desc1.sema / 64) (t.desc1.sema % 64) 1).semaErr (t.desc1.sema / 64)
        (t.desc1.sema % 64) else s.semaAdd (t.desc1.sema / 64) (t.desc1.sema % 64) 1) ∧
    (s.streamGone t).streams = s.streams.filter (fun x => x.id != t.id) ∧
    (∀ e ∈ (s.streamGone t).score, ¬ (e.stream = t.id ∧ e.sector = coreSector t.core))) ∧
  (∀ s t root va, s.stream? t.id = some t → t.kind = .hrv → t.st = .running → t.moved = false → va = t.hva + BitVec.ofNat 64 t.item →
    canonical va = true → (s.ctxOf t.ctx).root = some root →
    (∀ n, s.harvestFrom va 5 root = .skip n → exec (.dirtyHarvest t.id) s = .next
      ((s.setStream { t with item := t.item + (n - va.toNat % n), stops := 0, spoison := false }).endReads (.island 10 t.id))) ∧
    (∀ pa0 leaf first k, s.harvestFrom va 5 root = .page pa0 leaf → leafMt leaf = 0 → s.writeHeld pa0 8 false = false →
      s.isLocal (leafPa leaf) = true → first = lowOf (leafPa leaf) / 4096 → k = pageBytes leaf / 4096 → t.stops = 0 → t.spoison = false →
      0 < k → first + k ≤ 2 ^ 28 → ∀ s1 : State, s1 = { s with frames := s.frames.filter (fun f => decide (f < first) || decide (first + k ≤ f)) } →
      exec (.dirtyHarvest t.id) s = .next (((if s.frames.any (fun f => decide (first ≤ f) && decide (f < first + k)) = true
        then s1.fabWriteNat pa0 8 (s1.fabNat pa0 8 ||| 0x800) else s1).setStream { t with
          item := t.item + (pageBytes leaf - va.toNat % pageBytes leaf), stops := 0, spoison := false }).endReads (.island 10 t.id))) ∧
    (∀ pa0 leaf k, s.harvestFrom va 5 root = .page pa0 leaf → leafMt leaf = 0 → k = pageBytes leaf / 4096 → t.stops < k → ∀ at_,
      at_ = leafPa leaf + 4096 * t.stops →
      (∀ wrote s1, s.isLocal at_ = false → (remoteFrameM t at_).exec s = (.ok wrote, s1) →
        (t.stops + 1 < k → exec (.dirtyHarvest t.id) s = .next ((s1.setStream { t with
          stops := t.stops + 1, spoison := t.spoison || wrote }).endReads (.island 10 t.id))) ∧
        (t.stops + 1 = k → s.writeHeld pa0 8 false = false → exec (.dirtyHarvest t.id) s = .next (((if (t.spoison || wrote) = true
          then s1.fabWriteNat pa0 8 (s1.fabNat pa0 8 ||| 0x800) else s1).setStream { t with
            item := t.item + (pageBytes leaf - va.toNat % pageBytes leaf), stops := 0, spoison := false }).endReads (.island 10 t.id)))) ∧
      (∀ n, s.isLocal at_ = true → n = 2 ^ 28 - lowOf at_ / 4096 → t.stops + n < k → exec (.dirtyHarvest t.id) s = .next
        ((({ s with frames := s.frames.filter (fun f => decide (f < lowOf at_ / 4096) || decide (lowOf at_ / 4096 + n ≤ f)) } : State).setStream
          { t with stops := t.stops + n
                   spoison := t.spoison || s.frames.any (fun f => decide (lowOf at_ / 4096 ≤ f) && decide (f < lowOf at_ / 4096 + n))
            }).endReads (.island 10 t.id)))))

/-! ## The host and the links -/

/-- R432 to R435, R438, R442: enabling a queue takes F from HEAD; a doorbell starts a fetch or is merged; a fetch signals once for each
record; a message goes once the accesses before it are performed; a line the host gives up is gone; a new mask waits for requests.
Rests on the model's choices too: log entries 22, 48. -/
def Obligations.HostQueuesAndMessages : Prop :=  (∀ s q h s1, q < 4096 → (s.hostQ q).en = false → (loadM (whoQueue s q) ((s.hostQ q).qcb + 0x18) 8).exec s = (.ok h, s1) →
    exec (.hostQueueEnable q) s = .next ((s1.setHostQ q { s1.hostQ q with en := true, enabling := false, fetch := BitVec.ofNat 64 h }).endReads
      (.island 9 q))) ∧
  (∀ s q cause addr s1, q < 4096 → (s.hostQ q).en = false →
    (loadM (whoQueue s q) ((s.hostQ q).qcb + 0x18) 8).exec s = (.error (.raise cause addr), s1) →
    exec (.hostQueueEnable q) s = .next ((s1.queueError q cause addr).endReads (.island 9 q))) ∧
  (∀ s q, q < 4096 → exec (.doorbell q) s = .next (if (s.hostQ q).en = false ∨ (s.hostQ q).frz = true then s
    else if (s.hostQ q).fetching = true then s.setHostQ q { s.hostQ q with again := true }
    else s.setHostQ q { s.hostQ q with fetching := true })) ∧
  (∀ s q, (s.hostQ q).en = true → (s.hostQ q).enabling = false → (s.hostQ q).frz = false → (s.hostQ q).fetching = true →
    (∀ s1, (queueFetchM q).exec s = (.ok (), s1) → exec (.hostQueueFetch q) s = .next ((s1.setHostQ q { s1.hostQ q with
      fetching := (s.hostQ q).again, again := false }).endReads (.island 9 q))) ∧
    (∀ cause addr s1, (queueFetchM q).exec s = (.error (.raise cause addr), s1) →
      exec (.hostQueueFetch q) s = .next ((s1.queueError q cause addr).endReads (.island 9 q))) ∧
    (∀ v s1 at_ len kind s2, (ringView (whoQueue s q) (s.hostQ q).qcb).exec s = (.ok v, s1) → s1.hostQ q = s.hostQ q →
      (ringRecord (whoQueue s1 q) (s.hostQ q).qcb v (s.hostQ q).fetch.toNat).exec s1 = (.ok (at_, len, kind), s2) → s2.hostQ q = s.hostQ q →
      kind ≠ 0xFF → s1.semaReach (s.hostQ q).ctx (s.hostQ q).sema = true → (s.hostQ q).fetch.toNat + len = v.tail → v.tail < 2 ^ 64 →
      1 ≤ len → exec (.hostQueueFetch q) s = .next (((s2.semaNamed (s.hostQ q).sema 1).setHostQ q { s.hostQ q with
        fetch := BitVec.ofNat 64 v.tail, fetching := (s.hostQ q).again, again := false }).endReads (.island 9 q)))) ∧
  (∀ s k m, s.msgs[k]? = some m → exec (.intr k) s = .next (if m.waits.any (fun id => s.accessOpen m.core id) = true then s
    else ({ s with msgs := s.msgs.eraseIdx k } : State).sendMsix m.vector)) ∧
  (∀ (s : State) (v : Nat), s.sendMsix v = if s.msixMasked v = true
    then { s with msixPend := NSet.insert s.msixPend v }
    else { s with sentMsgs := s.sentMsgs ++ [⟨v, s.msixWord (2 * v), (s.msixWord (2 * v + 1)).extractLsb' 0 32⟩]
                  msixPend := s.msixPend.filter (fun x => x != v) }) ∧
  (∀ s l, exec (.backInvalidateResponse l) s = .next { s with hostLines := s.hostLines.filter (fun x => x != l) }) ∧
  (∀ s p m, AMap.find? s.newMasks p = some m → exec (.agfelRouteMaskWrite p m) s = .next (if s.inFlightTo p = true then s
    else { s with masks := if m = 0 then AMap.erase s.masks p else AMap.set s.masks p m, newMasks := AMap.erase s.newMasks p }))

/-- R289, R436, R437, R201: a CXL.mem request goes through its window's context, an address in no window is unsupported, a failed access
answers a read with poison and records the cause; a peer reads and writes memory of this package, but no marked barrier and no bound
queue; its vld gets the version, and its vst creates one here in the order of arrival, or has stalled after 2^20 cycles (R147, R334). The
answer to a peer is a flit of the port that the request came through.
Rests on the model's choices too: log entries 48, 61, 75. -/
def Obligations.OutsideRequestsAreServed : Prop :=  (∀ s q, s.bootst = 1 → outerOk q = true → s.windowOf q.addr = none →
    exec (.cxlMemRequest q) s = .next { s with answers := s.answers ++ [⟨false, q.addr, .unsupported, 0⟩] }) ∧
  (∀ s q h va x s1, s.bootst = 1 → outerOk q = true → s.windowOf q.addr = some h → va = h.vbase + BitVec.ofNat 64 (q.addr - h.hbase.toNat) →
    (accessM (whoHost h) (if q.write then .store else .load) va q.size).exec s = (.ok x, s1) → s1.isLocal x.pa = true →
    ∀ s2 : State, s2 = (if q.cache = true then { s1 with hostLines := NSet.insert s1.hostLines (lowOf x.pa / 128) } else s1) →
    (q.write = true → ({ s1 with hostLines := s1.hostLines.filter (fun l => l != lowOf x.pa / 128) } : State).writeHeld (lowOf x.pa)
      q.size false = false → exec (.cxlMemRequest q) s = .next (((s2.hostWrite (lowOf x.pa) (leBytes q.data.toNat q.size)).answer false q.addr .value
      0).endReads (.island 8 0))) ∧
    (q.write = false → exec (.cxlMemRequest q) s = .next ((if s1.poisonedAt (lowOf x.pa) q.size = true then s2.answer false q.addr .poison 0
      else s2.answer false q.addr .value (BitVec.ofNat 512 (leNat (s1.hostRead (lowOf x.pa) q.size)))).endReads (.island 8 0)))) ∧
  (∀ s q h va cause addr s1, s.bootst = 1 → outerOk q = true → s.windowOf q.addr = some h →
    va = h.vbase + BitVec.ofNat 64 (q.addr - h.hbase.toNat) →
    (accessM (whoHost h) (if q.write then .store else .load) va q.size).exec s = (.error (.raise cause addr), s1) →
    exec (.cxlMemRequest q) s = .next (((s1.record { cause := cause, cls := 2, mkind := 4, ctx := h.ctx, addr := addr }).answer false q.addr
      (if q.write then .value else .poison) 0).endReads (.island 8 0))) ∧
  (∀ s q n s1, s.bootst = 1 → isNormal q.addr = true → s.peerPort = some n → s.takePeer = some s1 →
    (outerOk q = true → exec (.agfelPeerRequest .load q) s = .next (if s1.poisonedAt q.addr q.size = true then s1.answerPeer n q.addr .poison 0
      else s1.answerPeer n q.addr .value (leNat (s1.hostRead q.addr q.size)))) ∧
    (outerOk q = true → s1.writeHeld q.addr q.size false = false → exec (.agfelPeerRequest .store q) s = .next
      (if s1.touchesBarrier q.addr q.size = true ∨ s1.touchesQueue (q.addr + 2 ^ 40 * s1.package.toNat) q.size = true
      then s1.answerPeer n q.addr .refused 0 else (s1.hostWrite q.addr (leBytes q.data.toNat q.size)).answerPeer n q.addr .value 0)) ∧
    (outerOk q = true → exec (.agfelPeerRequest .mark q) s = .next ((s1.markPoison q.addr q.size).answerPeer n q.addr .value 0)) ∧
    (q.size = 8 → q.addr % 8 = 0 → ∀ v : Word, v = q.data.extractLsb' 0 32 →
      (s1.judgeVld q.addr v = .gone → exec (.agfelPeerRequest .vld q) s = .next (s1.answerPeer n q.addr .gone 0)) ∧
      (∀ y, s1.judgeVld q.addr v = .value y true → exec (.agfelPeerRequest .vld q) s = .next (s1.answerPeer n q.addr .poison 0)) ∧
      (∀ y, s1.judgeVld q.addr v = .value y false → v = (s1.vtag q.addr).newest →
        exec (.agfelPeerRequest .vld q) s = .next (s1.answerPeer n q.addr .newest (leNat (s1.hostRead q.addr 8)))) ∧
      (∀ y, s1.judgeVld q.addr v = .value y false → v ≠ (s1.vtag q.addr).newest →
        exec (.agfelPeerRequest .vld q) s = .next (s1.answerPeer n q.addr .value y.toNat)) ∧
      (s1.judgeVld q.addr v = .notYet → s1.vldListFull q.addr = false → exec (.agfelPeerRequest .vld q) s = .next
        (({ s1 with vldWaits := s1.vldWaits ++ [⟨q.addr / 8, v, .peer n⟩] } : State).answerPeer n q.addr .waiting 0))) ∧
    (q.size = 8 → q.addr % 8 = 0 → ∀ v : DWord, v = q.data.extractLsb' 0 64 → (∀ w ∈ s.peerWaits, ¬ (w.addr = q.addr ∧ w.value = v)) →
      (s1.vstHeld q.addr (.peer s1.nextId) = true → exec (.agfelPeerRequest .vst q) s = .next
        (({ s1 with nextId := s1.nextId + 1
                    peerWaits := s1.peerWaits ++ [⟨s1.nextId, n, q.addr, v, s1.cyc⟩]
                    vstQueue := s1.vstQueue ++ [⟨q.addr / 8, .peer s1.nextId⟩] } : State).answerPeer n q.addr .waiting 0)) ∧
      (s1.vstHeld q.addr (.peer s1.nextId) = false → s1.writeHeld q.addr 8 false = false → exec (.agfelPeerRequest .vst q) s = .next
        (((s1.uncompress (blockOf q.addr)).createVersion q.addr v).answerPeer n q.addr .value 0)))) ∧
  (∀ s q w, s.bootst = 1 → isNormal q.addr = true → q.size = 8 → q.addr % 8 = 0 →
    s.peerWaits.find? (fun w => w.addr == q.addr && w.value == q.data.extractLsb' 0 64) = some w →
    ∀ s1 : State, s1 = { s with peerWaits := s.peerWaits.erase w, vstQueue := s.vstQueue.erase ⟨w.addr / 8, .peer w.id⟩ } →
    (w.since + 2 ^ 20 < s.cyc → exec (.agfelPeerRequest .vst q) s = .next (s1.answerPeer w.port w.addr .stall 0)) ∧
    (s.cyc ≤ w.since + 2 ^ 20 → s.vstHeld w.addr (.peer w.id) = true → exec (.agfelPeerRequest .vst q) s = .next s) ∧
    (s.cyc ≤ w.since + 2 ^ 20 → s.vstHeld w.addr (.peer w.id) = false → s.writeHeld w.addr 8 false = false →
      exec (.agfelPeerRequest .vst q) s = .next
        (((s1.uncompress (blockOf w.addr)).createVersion w.addr w.value).answerPeer w.port w.addr .value 0))) ∧
  (∀ (s : State) n addr kind data, s.answerPeer n addr kind data = { s with
    aports := AMap.set s.aports n { s.aport n with sent := (s.aport n).sent + 1 }
    answers := s.answers ++ [⟨true, addr, kind, BitVec.ofNat 512 data⟩] })

/-- R364, R443 to R446, R147: a flit is accepted in order alone, acknowledges those sent, and brings an answer or a peer's request; a
replay is counted, eight take the link down and every unanswered request on it is answered poison or reported; training brings it up; a
load unanswered for 2^22 cycles times out; a write's completion clears its sequencer's wait, a home that refuses a plain write has it
raise PERM_FAULT (R201, R245), and a home's word that a vst has stalled fails it.
Rests on the model's choices too: log entries 49, 73, 75. -/
def Obligations.LinksDeliverReplayAndFail : Prop :=  (∀ s n k id reply, n < 16 → s.linkUp n = true →
    (k ≠ (s.aport n).accepted → exec (.flitReceive n k id reply) s = .next s) ∧
    (k = (s.aport n).accepted → ∀ s1, s1 = s.setAport n ((s.aport n).accept reply.ack) →
      (∀ q, s.reqs.find? (fun q => q.id == id && q.port == n) = some q →
        ∀ s2 : State, s2 = { s1 with reqs := s1.reqs.map (fun x => if x.id = q.id then { x with completed := true } else x) } →
        (q.kind.isWrite = true → (q.kind = .vst → reply.version ≠ 2) → exec (.flitReceive n k id reply) s = .next s2) ∧
        (q.kind.isWrite = false →
          (∀ i m r a, q.owner = .region i m → s.region? i = some r → r.acc? m = some a → exec (.flitReceive n k id reply) s = .next s2) ∧
          (∀ c m p, q.owner = .core c m → p ∈ (s.core c).pend → p.id = m → p.result = none →
            exec (.flitReceive n k id reply) s = .next s2) ∧
          (q.owner = .other → exec (.flitReceive n k id reply) s = .next (s1.answerReq q reply)))) ∧
      (s.reqs.find? (fun q => q.id == id && q.port == n) = none → exec (.flitReceive n k id reply) s = .next
        (s1.setAport n { (s.aport n).accept reply.ack with peerIn := (s.aport n).peerIn + 1 })))) ∧
  (∀ (p : APort) ack a, a = max p.acked (min ack p.sent) → p.accept ack = { p with
    accepted := p.accepted + 1, acked := a, replays := if p.acked < a then 0 else p.replays
    corr := BitVec.ofNat 32 (min 0xFFFFFFFF (p.corr.toNat + (min p.replayTo a - p.acked))) }) ∧
  (∀ s n, n < 20 → s.linkUp n = true → (n < 16 → (s.aport n).acked < (s.aport n).sent) → (16 ≤ n → s.dieBusy (n - 16) = true) →
    (s.aport n).replays < 8 → exec (.flitReplay n) s = .next (s.setAport n { s.aport n with
      replays := (s.aport n).replays + 1, replayTo := (s.aport n).sent })) ∧
  (∀ s n, n < 20 → s.linkUp n = true →
    ((s.aport n).replays < 8 → exec (.linkDown n) s = .next s) ∧
    (8 ≤ (s.aport n).replays → ∀ s1, s1 = s.setAport n { s.aport n with
        up := false, train := true, rpl := 8, replays := 0, acked := (s.aport n).sent } →
      exec (.linkDown n) s = .next (if n < 16 then failReqs (s.reqs.filter (fun q => q.port == n && !q.completed)) s1
        else s1.dieFails (n - 16)))) ∧
  (∀ (s : State) q, failReqs [q] s = if q.kind.isWrite = true then s.writeOver q false
    else (s.linkRecord 0x44 q).answerReq q ⟨0, true, 0, false, false, 0, false, 0⟩) ∧
  (∀ (s : State) b (r : Region) (a : Acc) x, s.region? r.id = some r → a.xlat = some x → s.accOn b r a = true → (a.kind = .load ∨ a.kind = .acquire ∨ a.kind = .vld) →
    s.accLost b r.id a = (s.setRegion (r.setAcc { a with st := .done, result := some (0, true) })).dieRecord b r.ctx x.pa) ∧
  (∀ (s : State) b c (h : Held) p, h.kind = .load → s.heldOn b c h = true → (s.core c).pend.find? (fun p => p.id == h.id) = some p →
    s.heldLost b c h = ((s.updCore c (fun x => { x with held := x.held.filter (fun g => g.id != h.id) })).dieRecord b h.ctx h.pa).giveResult
      c p 0 true) ∧
  (∀ s n, n < 20 → exec (.linkRetrainComplete n) s = .next (s.setAport n { s.aport n with up := true, train := false })) ∧
  (∀ s q, s.reqs.find? (fun x => x.id == q.id && x.kind == .load && !x.completed) = some q → exec (.linkTimeout q.id) s = .next
    (if s.cyc ≤ q.since + 2 ^ 22 then s else (s.linkRecord 0x45 q).answerReq q ⟨0, true, 0, false, false, 0, false, 0⟩)) ∧
  (∀ s q c n, s.reqs.find? (fun x => x.id == q.id && x.completed && x.kind.isWrite) = some q → q.owner = .core c n →
    ∀ s1, s1 = (s.dropReq q.id).updCore c (fun x => { x with remoteWrites := x.remoteWrites.filter (fun k => k.req != q.id) }) →
    exec (.writeCompletion q.id true) s = .next s1 ∧
    (q.kind ≠ .vst → ∀ f, (s.core c).remoteWrites.find? (fun k => k.req == q.id) = some f →
      exec (.writeCompletion q.id false) s = .next (s1.lateFault c q.ctx f.past f.va f.pc)) ∧
    failReqs [q] s = ((s.dropReq q.id).linkRecord 0x44 q).updCore c (fun x => { x with
      remoteWrites := x.remoteWrites.filter (fun k => k.req != q.id) })) ∧
  (∀ s q i m r a x, s.reqs.find? (fun x => x.id == q.id && x.completed && x.kind.isWrite) = some q → q.kind = .write →
    q.owner = .region i m → s.region? i = some r → r.acc? m = some a → a.st = .remote x →
    exec (.writeCompletion q.id false) s = .next ((s.dropReq q.id).setRegion (r.setAcc { a with st := .failed Cause.permFault a.va }))) ∧
  (∀ s q i m r a, s.reqs.find? (fun x => x.id == q.id && x.completed && x.kind.isWrite) = some q → q.kind = .vst → q.owner = .region i m →
    s.region? i = some r → r.acc? m = some a → q.since + 2 ^ 20 < s.cyc →
    exec (.writeCompletion q.id false) s = .next
      (({ s with
          reqs := s.reqs.filter (fun x => !(x.kind == .vst && x.owner == .region r.id a.serial))
          vstQueue := s.vstQueue.filter (fun w => w.owner != .region r.id a.serial) } : State).setRegion
        (r.setAcc { a with st := .failed Cause.versionStall a.va })))

/-! ## Matrix arrays (R261 to R276) -/

/-- R265, R266, R271, R272: what the two heads of an element with an empty accumulator make of it. Operand tiles make a beat, which
computes nothing from poison; two stops close the round or are forwarded; heads of different rank shed the lower one. -/
def Obligations.MatrixRoundSteps : Prop :=  (∀ (s : State) (r : Region) e a b, s.matrixAt r.id e = some r →
    ∀ (el : Elem) m w, el = r.elem e → m = el.mat → w = el.static → m.accFull = false →
    s.opHead r e (stA w) = some a → s.opHead r e (stB w) = some b →
    el.codeFree (stPassA w) = true → el.codeFree (stPassB w) = true → ∀ (r1 : Region), r1 = r.passBoth s.cyc e a b →
    (isOperand a = true → isOperand b = true → isPoison a.tag = false → isPoison b.tag = false →
      exec (.matrixBeat r.id e) s = .next (s.setRegion (r1.updMat e (fun m => { m with
        accTile := beatTile el.fmt m.accTile a b, bc := if m.bc = 0xFFFF then m.bc else m.bc + 1 })))) ∧
    (isOperand a = true → isOperand b = true → (isPoison a.tag = true ∨ isPoison b.tag = true) →
      exec (.matrixBeat r.id e) s = .next ((s.setRegion (r1.updMat e (fun m => { m with
        pz := true, bc := if m.bc = 0xFFFF then m.bc else m.bc + 1 }))).reportPoison r.id e)) ∧
    (isStop a.tag = true → isStop b.tag = true → levelOf a.tag = 0 → levelOf b.tag = 0 →
      exec (.matrixClose r.id e) s = .next (s.setRegion (r1.updMat e (fun m => { m with accFull := true })))) ∧
    (isStop a.tag = true → isStop b.tag = true → levelOf a.tag = levelOf b.tag → levelOf a.tag ≠ 0 →
      (m.bc ≠ 0 → exec (.matrixOuter r.id e) s = .next
        ((s.setRegion (r.updMat e (fun m => { m with accFull := true, pz := true }))).reportShape r.id e)) ∧
      (m.bc = 0 → mcRstop (el.const 0) = false → exec (.matrixOuter r.id e) s = .next (s.setRegion r1)) ∧
      (m.bc = 0 → mcRstop (el.const 0) = true → el.codeFree (stRes w) = true → exec (.matrixOuter r.id e) s = .next
        (s.setRegion (r1.placeTile s.cyc e (stRes w) ⟨mkTag 1 (levelOf a.tag), false, 0, 0⟩)))) ∧
    (∀ x y, a.result = false → tileRank a = some x → tileRank b = some y → x ≠ y →
      ∀ c p (t : Tile), (c, p, t) = (if x < y then (stA w, stPassA w, a) else (stB w, stPassB w, b)) →
      exec (.matrixBehind r.id e) s = .next ((s.setRegion (((r.updElem e (fun q => q.takeOp c)).placeTile s.cyc e p t).updMat e
        (fun m => { m with pz := true }))).reportShape r.id e)) ∧
    (a.result = true → exec (.matrixBehind r.id e) s = .next ((s.setRegion (((r.updElem e (fun q => q.takeOp (stA w))).placeTile
      s.cyc e (stPassA w) a).updMat e (fun m => { m with pz := true }))).reportShape r.id e))) ∧
  (∀ fmt (acc : Vector Word 64) a b (i : Fin 64), (beatTile fmt acc a b)[i] = beatRule fmt acc[i] a b (i.val / 8) (i.val % 8)) ∧
  (∀ (s : State) (r : Region) e, s.region? r.id = some r →
    (r.mp = true → s.reportPoison r.id e = s) ∧ (r.ms = true → s.reportShape r.id e = s) ∧
    (r.mp = false → s.reportPoison r.id e = (s.setRegion { r with mp := true }).record
      { cause := Cause.matrixPoison, cls := 2, mkind := 0, ctx := r.ctx, mid := midRegion r.word, loc := r.loc e }) ∧
    (r.ms = false → s.reportShape r.id e = (s.setRegion { r with ms := true }).record
      { cause := Cause.matrixShape, cls := 2, mkind := 0, ctx := r.ctx, mid := midRegion r.word, loc := r.loc e }))

/-- R264, R265, R268, R269, R276: a full accumulator is read out: result tiles from the west pass, the element's own follows, then the
completion token; the fathom ends the element's steps; a placed tile stands in the output channel or leaves as tokens at an exit.
R273, R276: a repeat node takes a count and forwards it, takes its fibre to the LEVEL 0 stop, discards what exceeds eight tiles with a
report, and then presents the buffer as often as the count says; with a fathom at its operand or its count channel it takes nothing.
(A stop of a higher LEVEL inside a fibre is dropped: log entry 33.)
Rests on the model's choices too: log entry 33. -/
def Obligations.MatrixReadoutAndRepeat : Prop :=
  ((∀ (s : State) (r : Region) e, s.matrixAt r.id e = some r → ∀ (el : Elem) m w, el = r.elem e → m = el.mat → w = el.static →
    (m.accFull = true → el.codeFree (stRes w) = true →
      (∀ t, m.rtd = false → m.rb.toNat < r.column e → s.opHead r e (stA w) = some t → t.result = true →
        exec (.matrixChain r.id e) s = .next (s.setRegion
          (((r.updElem e (fun x => x.takeOp (stA w))).placeTile s.cyc e (stRes w) t).updMat e
            (fun m => { m with rb := m.rb + 1, pcnt := if isPoison t.tag = true then m.pcnt + 1 else m.pcnt })))) ∧
      (m.rtd = false → m.rb.toNat = r.column e → ∀ (r1 : Region), r1 = r.placeTile s.cyc e (stRes w) (resultTile el.fmt (el.const 0) m) →
        (mcRstop (el.const 0) = false → exec (.matrixEmit r.id e) s = .next (s.setRegion (r1.updMat e Mat.clearAcc))) ∧
        (mcRstop (el.const 0) = true → exec (.matrixEmit r.id e) s = .next (s.setRegion (r1.updMat e
          (fun m => { m with rtd := true, pcnt := if m.pz = true then m.pcnt + 1 else m.pcnt }))))) ∧
      (m.rtd = true → exec (.matrixToken r.id e) s = .next (s.setRegion ((r.placeTile s.cyc e (stRes w)
        ⟨mkTag 1 0, false, BitVec.ofNat 2048 (r.column e + 1 + 2 ^ 16 * m.pcnt.toNat), 0⟩).updMat e Mat.clearAcc)))) ∧
    (isFathomHead (s.headTile r e (stA w - 1)) = true → isFathomHead (s.headTile r e (stB w - 1)) = true →
      (mcRep (el.const 0) ≠ 0 → isFathomHead (s.headTile r e (mcCin (el.const 0) - 1)) = true) →
      el.codeFree (stPassA w) = true → el.codeFree (stPassB w) = true → el.codeFree (stRes w) = true →
      el.codeFree (mcCpass (el.const 0)) = true → s.canStep r e = ⟨false, false, false, false, false, false, false⟩ →
      ∃ t r', exec (.matrixFathom r.id e) s = .next t ∧ t.region? r.id = some r' ∧ (r'.elem e).mat.fathomed = true ∧
        (r'.elem e).mat.accTile = m.accTile ∧ (r'.elem e).mat.accFull = m.accFull ∧ (r'.elem e).mat.pcnt = m.pcnt ∧
        (∀ k, k ≠ e → r'.elem k = r.elem k) ∧ exec (.matrixBeat r.id e) t = .next t ∧ exec (.matrixEmit r.id e) t = .next t ∧
        exec (.matrixToken r.id e) t = .next t ∧ exec (.matrixFathom r.id e) t = .next t)) ∧
  (∀ m : Mat, m.clearAcc = { m with
    accTile := Vector.replicate 64 0, accFull := false, pz := false, bc := 0, rb := 0, rtd := false, pcnt := 0 }) ∧
  (∀ (r : Region) now e o t, o < 4 →
    (r.isExit e o = false → ((r.placeTile now e (o + 1) t).elem e).mat.outT o = some t) ∧
    (r.isExit e o = true → (((r.placeTile now e (o + 1) t).elem e).outch o).q =
      (tileToks (r.elem e).fmt (mcCpass ((r.elem e).const 0) == o + 1) t).map (fun k => ⟨k, now, 0⟩)))) ∧
  ((∀ (s : State) (r : Region) e h x, s.matrixAt r.id e = some r → ∀ (el : Elem) m, el = r.elem e → m = el.mat → x = el.repCode → x ≠ 0 →
    s.headTile r e (x - 1) = some h → isFathom h.tag = false →
    (∀ t, s.headTile r e (mcCin (el.const 0) - 1) = some t → isFathom t.tag = false) →
    (m.rtaking = true →
      (isStop h.tag = true → levelOf h.tag ≠ 0 → exec (.repeatNode r.id e) s = .next (s.setRegion (r.updMat e (fun m => m.deq (x - 1))))) ∧
      (isStop h.tag = false → m.rbuf.length < 8 → exec (.repeatNode r.id e) s = .next
        (s.setRegion (r.updMat e (fun m => { (m.deq (x - 1)) with rbuf := m.rbuf ++ [h] })))) ∧
      (isStop h.tag = false → 8 ≤ m.rbuf.length → exec (.repeatNode r.id e) s = .next
        ((s.setRegion (r.updMat e (fun m => { (m.deq (x - 1)) with rpoison := true }))).reportShape r.id e)) ∧
      (isStop h.tag = true → levelOf h.tag = 0 → m.rcount ≠ 0 → exec (.repeatNode r.id e) s = .next
        (s.setRegion (r.updMat e (fun m => { (m.deq (x - 1)) with rtaking := false, rlen := BitVec.ofNat 4 m.rbuf.length, rpos := 0 })))) ∧
      (isStop h.tag = true → levelOf h.tag = 0 → m.rcount = 0 → exec (.repeatNode r.id e) s = .next
        (s.setRegion (r.updMat e (fun m => { (m.deq (x - 1)) with rtaking := false, rbuf := [], rlen := 0, rpos := 0, rpoison := false }))))) ∧
    (∀ t (r1 : Region), m.rtaking = false → m.rcount = 0 → (isStop h.tag = false ∨ levelOf h.tag = 0) →
      s.headTile r e (mcCin (el.const 0) - 1) = some t → el.codeFree (mcCpass (el.const 0)) = true →
      r1 = (r.updMat e (fun m => m.deq (mcCin (el.const 0) - 1))).placeTile s.cyc e (mcCpass (el.const 0)) t →
      (isStop t.tag = true → exec (.repeatNode r.id e) s = .next (s.setRegion r1)) ∧
      (isStop t.tag = false → exec (.repeatNode r.id e) s = .next (s.setRegion (r1.updMat e (fun m => { m with
        rtaking := true, rbuf := [], rlen := 0, rpos := 0, rpoison := isPoison t.tag,
        rcount := if isPoison t.tag = true then 1 else t.data.extractLsb' 0 32 })))))) ∧
  (∀ (s : State) (r : Region) e c, c ≠ 0 → (r.elem e).repCode = c → ∀ m, m = (r.elem e).mat → m.rtaking = false → m.rcount ≠ 0 →
    (∀ t, s.headTile r e (c - 1) = some t → isFathom t.tag = false) →
    (∀ t, s.headTile r e (mcCin ((r.elem e).const 0) - 1) = some t → isFathom t.tag = false) →
    (∀ t, m.rpos.toNat < m.rlen.toNat → m.rbuf[m.rpos.toNat]? = some t → s.opHead r e c = some (poisoned m.rpoison t)) ∧
    (m.rlen.toNat ≤ m.rpos.toNat → s.opHead r e c = some ⟨mkTag 1 0, false, 0, 0⟩)) ∧
  (∀ (s : State) (r : Region) e h t, s.matrixAt r.id e = some r → ∀ (el : Elem), el = r.elem e → el.repCode ≠ 0 →
    s.headTile r e (el.repCode - 1) = some h → s.headTile r e (mcCin (el.const 0) - 1) = some t →
    (isFathom h.tag = true ∨ isFathom t.tag = true) → exec (.repeatNode r.id e) s = .next s))

/-! ## Intersect islands (R417 to R429) -/

/-- R421, R424: of two fibres with rising coordinates ISECT yields exactly the coordinates that both hold, with both values, and UNION
every coordinate that one holds, with +0 for the value that is absent; the items stand in increasing coordinate order. -/
def Obligations.MergedFibresHoldTheirItems : Prop :=  ∀ (fa fb : List (Nat × Nat)), fa.Pairwise (fun x y => x.1 < y.1) → fb.Pairwise (fun x y => x.1 < y.1) →
    ∀ n, n = fa.length + fb.length →
    (∀ c x y, (c, x, y) ∈ mergeFibres false n fa fb ↔ (c, x) ∈ fa ∧ (c, y) ∈ fb) ∧
    (∀ c x y, (c, x, y) ∈ mergeFibres true n fa fb ↔
      ((c, x) ∈ fa ∧ (c, y) ∈ fb) ∨ ((c, x) ∈ fa ∧ y = 0 ∧ ∀ v, (c, v) ∉ fb) ∨ ((c, y) ∈ fb ∧ x = 0 ∧ ∀ v, (c, v) ∉ fa)) ∧
    (∀ both, (mergeFibres both n fa fb).Pairwise (fun x y => x.1 < y.1))

/-- R422, R423, R424, R426 to R428: a merge command is taken, and then judged; one that is not accepted emits nothing and answers STATUS
2; one with ACNT 0 sends only the stop of LEVEL 2; the walk of an accepted one sends what the walk gives, which for a set that cannot be
read is a poison token. A command whose reads wait goes on later. The response waits until every token of the command has entered its
receiver. An unknown OP answers STATUS 1, a stop or poison token is discarded.
R421, R424, R425, R427: the walk of a merge command goes through its pairs in order. Of a pair whose fibres pass their checks it sends the
items that the merge of the two gives, in groups of eight, and a stop of LEVEL 0 with their number; after the pairs of a fibre of A a stop of
LEVEL 1, at the end one of LEVEL 2; at the first fibre that fails it sends poison and ends. The coordinates of a fibre that passes rise.
Rests on the model's choices too: log entry 47. -/
def Obligations.MergeCommandsAnswer : Prop :=
  ((∀ (s : State) cluster r t, s.mergeHead cluster = some (r, t) → ∀ w, w = whoIsect cluster r.ctx →
    (isData t.tag = true → ∀ i, (mergeOp t, i) ∈ [(1, Instr.isect cluster), (2, Instr.union cluster)] →
      ∀ s1, s1 = (s.linkTake (linkKey 2 cluster 0)).updIsect cluster (fun j => { j with cmd := some t }) →
      (∀ x s2, (mergeM w r cluster t).exec s1 = (.ok x, s2) →
        exec i s = .next ((s2.mergeDone r cluster t x).placeResponse cluster)) ∧
      (∀ s2, (mergeM w r cluster t).exec s1 = (.error .wait, s2) → exec i s = .next s2)) ∧
    (isData t.tag = true → mergeOp t ≠ 1 → mergeOp t ≠ 2 → exec (.intersectUnknownCommand cluster) s = .next
      (((s.linkTake (linkKey 2 cluster 0)).islandError r Cause.islandCmd 0).linkSend (linkKey 2 cluster 0) (mergeResp (mergeOp t) 1 0))) ∧
    (isData t.tag = false → exec (.intersectUnknownCommand cluster) s = .next
      ((s.linkTake (linkKey 2 cluster 0)).islandError r Cause.islandCmd 0))) ∧
  (∀ (s : State) cluster r t x s2, s.islandRegion 2 cluster = some r → (s.isect cluster).cmd = some t → (s.isect cluster).response = none →
    (mergeM (whoIsect cluster r.ctx) r cluster t).exec s = (.ok x, s2) →
    ∀ i, (mergeOp t, i) ∈ [(1, Instr.isect cluster), (2, Instr.union cluster)] →
      exec i s = .next ((s2.mergeDone r cluster t x).placeResponse cluster)) ∧
  (∀ (s : State) w r cluster t,
    (∀ c a s1, (judgeMergeM w r cluster t).exec s = (.error (.raise c a), s1) →
      (mergeM w r cluster t).exec s = (.ok { bad := some (c, a) }, s1)) ∧
    (∀ c s1, (judgeMergeM w r cluster t).exec s = (.ok c, s1) → c.acnt = 0 →
      (mergeM w r cluster t).exec s = (.ok { out := ⟨[stopTok 2 0], [stopTok 2 0]⟩ }, s1)) ∧
    (∀ c s1 x s2, (judgeMergeM w r cluster t).exec s = (.ok c, s1) →
      (walkM w c (natsFrom c.afirst c.acnt) {}).exec s1 = (.ok x, s2) → (mergeM w r cluster t).exec s = (.ok x, s2)) ∧
    (∀ (c : MergeCmd) e, c.a = .error e → 0 < c.acnt → 0 < c.bcnt → (walkM w c (natsFrom c.afirst c.acnt) {}).exec s =
      (.ok { out := ⟨[poisonTok 0], [poisonTok 0]⟩, bad := some e }, s))) ∧
  (∀ (s : State) cluster r t (x : Walk) s1, s1 = s.mergeDone r cluster t x →
    (s1.isect cluster).cmd = none ∧ (s1.isect cluster).response = some (mergeResp (mergeOp t) (if x.bad.isSome = true then 2 else 0) x.sent) ∧
    (s1.link (linkKey 2 cluster 1)).outq = (s.link (linkKey 2 cluster 1)).outq ++ x.out.one ∧
    (s1.link (linkKey 2 cluster 2)).outq = (s.link (linkKey 2 cluster 2)).outq ++ (if bit (lane t.val 5).toNat 24 = true then x.out.two else [])) ∧
  (∀ (s : State) cluster r t, s.binder 2 cluster = some r → (s.isect cluster).response = some t →
    ((s.linkEntered r (linkKey 2 cluster 1) && s.linkEntered r (linkKey 2 cluster 2)) = false → s.placeResponse cluster = s) ∧
    ((s.linkEntered r (linkKey 2 cluster 1) && s.linkEntered r (linkKey 2 cluster 2)) = true → s.placeResponse cluster =
      (s.updIsect cluster (fun x => { x with response := none })).linkSend (linkKey 2 cluster 0) t))) ∧
  ((∀ (s : State) w c x, (walkM w c [] x).exec s = (.ok { x with out := ⟨x.out.one ++ [stopTok 2 c.acnt], x.out.two ++ [stopTok 2 c.acnt]⟩ }, s)) ∧
  (∀ (s : State) w c a t x y s1, (walkRowM w c a (natsFrom c.bfirst c.bcnt) x).exec s = (.ok y, s1) →
    (y.bad ≠ none → (walkM w c (a :: t) x).exec s = (.ok y, s1)) ∧
    (y.bad = none → (walkM w c (a :: t) x).exec s = (walkM w c t y).exec s1)) ∧
  (∀ (s : State) w c a x, (walkRowM w c a [] x).exec s =
    (.ok { x with out := ⟨x.out.one ++ [stopTok 1 c.bcnt], x.out.two ++ [stopTok 1 c.bcnt]⟩ }, s)) ∧
  (∀ (s : State) w c a b t x,
    (∀ fa fb s1 s2 l g, (fibreM w c.a a).exec s = (.ok fa, s1) → (fibreM w c.b b).exec s1 = (.ok fb, s2) →
      l = mergeFibres c.both (fa.length + fb.length) fa fb → g = x.out.items (l.length + 1) l →
      (walkRowM w c a (b :: t) x).exec s = (walkRowM w c a t { x with
        out := ⟨g.one ++ [stopTok 0 l.length], g.two ++ [stopTok 0 l.length]⟩, sent := x.sent + l.length }).exec s2) ∧
    (∀ cause addr s1, (fibreM w c.a a).exec s = (.error (.raise cause addr), s1) → (walkRowM w c a (b :: t) x).exec s =
      (.ok { x with out := ⟨x.out.one ++ [poisonTok 0], x.out.two ++ [poisonTok 0]⟩, bad := some (cause, addr) }, s1)) ∧
    (∀ fa s1 cause addr s2, (fibreM w c.a a).exec s = (.ok fa, s1) → (fibreM w c.b b).exec s1 = (.error (.raise cause addr), s2) →
      (walkRowM w c a (b :: t) x).exec s =
        (.ok { x with out := ⟨x.out.one ++ [poisonTok 0], x.out.two ++ [poisonTok 0]⟩, bad := some (cause, addr) }, s2))) ∧
  (∀ (x : Streams2) n, x.items n [] = x) ∧
  (∀ (x : Streams2) n l, l ≠ [] → x.items (n + 1) l = (⟨x.one ++ [laneTok 0 ((l.take 8).map (fun i => i.2.1)),
      laneTok 0 ((l.take 8).map (fun i => i.2.2))], x.two ++ [laneTok 0xFFFFFFFF ((l.take 8).map (fun i => i.1))]⟩ : Streams2).items n
        (l.drop 8)) ∧
  (∀ fill l j, j < 8 → (laneTok fill l).tag = dataTag ∧ lane (laneTok fill l).val j = BitVec.ofNat 32 (l.getD j fill)) ∧
  (∀ (s : State) w set f l s1, (fibreM w set f).exec s = (.ok l, s1) → l.Pairwise (fun x y => x.1 < y.1) ∧ ∀ x ∈ l, x.1 ≠ 0xFFFFFFFF) ∧
  (∀ (s : State) w d e low n c s1, (loadM w (BitVec.ofNat 64 (d.crd + 4 * e)) 4).exec s = (.ok c, s1) → (c < low ∨ c = 0xFFFFFFFF) →
    (entriesM w d e low (n + 1)).exec s = (.error (.raise Cause.islandFormat (BitVec.ofNat 64 (d.crd + 4 * e))), s1)))

/-- R429: the sparse accumulator tile adds the pairs of a data token in order, forgets its entries on poison, sends them in increasing
coordinate with their number on a stop of LEVEL 0, and passes a stop of LEVEL 1 or above. Its entries stand in rising order, which
every pair keeps; a flush puts them into its tokens in that order, four to a token. -/
def Obligations.SparseAccumulatorTile : Prop :=  (∀ (s : State) cluster r t, s.accHead cluster = some (r, t) → ∀ s1 l, s1 = s.linkTake (linkKey 2 cluster 3) →
    l = (fun (k : Nat) => (lane t.val k).toNat) →
    (isData t.tag = true → exec (.accumulatorPair cluster) s = .next
      (accPair r cluster (l 6) (l 7) (accPair r cluster (l 4) (l 5) (accPair r cluster (l 2) (l 3) (accPair r cluster (l 0) (l 1) s1))))) ∧
    (isPoison t.tag = true → exec (.accumulatorPoison cluster) s = .next (s1.updIsect cluster (fun i =>
      { i with accVal := [], poisoned := true, lp := BitVec.ofNat 6 (levelOf t.tag) }))) ∧
    (isStop t.tag = true → levelOf t.tag = 0 → ∀ i, i = s.isect cluster →
      exec (.accumulatorFlush cluster) s = .next ((s1.sendAll (linkKey 2 cluster 3) (if i.poisoned = true
        then [poisonTok i.lp.toNat, stopTok 0 0] else accTokens (i.accVal.length + 1) i.accVal ++ [stopTok 0 i.accVal.length])).updIsect
          cluster (fun j => { j with accVal := [], poisoned := false }))) ∧
    (isStop t.tag = true → levelOf t.tag ≠ 0 →
      exec (.accumulatorStopPass cluster) s = .next (s1.linkSend (linkKey 2 cluster 3) t))) ∧
  (∀ (s : State) r cluster c v,
    (c = 0xFFFFFFFF → accPair r cluster c v s = s) ∧
    (4096 ≤ c → c ≠ 0xFFFFFFFF → accPair r cluster c v s = s.islandError r Cause.islandFormat (BitVec.ofNat 64 c)) ∧
    (c < 4096 → ∀ x, x = (if (decF v).isNan = true then 0x7FC00000 else v) → ∀ s1, s1 = accPair r cluster c v s →
      AMap.find? (s1.isect cluster).accVal c = some (match AMap.find? (s.isect cluster).accVal c with
        | some y => BitVec.ofNat 32 (Fmt.f32.addBits y.toNat x)
        | none => BitVec.ofNat 32 x) ∧
      (∀ k, k ≠ c → AMap.find? (s1.isect cluster).accVal k = AMap.find? (s.isect cluster).accVal k) ∧
      s1.mem = s.mem ∧ s1.regions = s.regions ∧ s1.links = s.links)) ∧
  (∀ (s : State) r cluster c v, (s.isect cluster).accVal.Pairwise (fun x y => x.1 < y.1) →
    ((accPair r cluster c v s).isect cluster).accVal.Pairwise (fun x y => x.1 < y.1)) ∧
  (∀ (l : AMap Word), (accTokens (l.length + 1) l).length = (l.length + 3) / 4 ∧
    ∀ k, k < 4 * ((l.length + 3) / 4) → ∃ t, (accTokens (l.length + 1) l)[k / 4]? = some t ∧ t.tag = dataTag ∧
      (∀ p, l[k]? = some p → lane t.val (2 * (k % 4)) = BitVec.ofNat 32 p.1 ∧ lane t.val (2 * (k % 4) + 1) = p.2) ∧
      (l[k]? = none → lane t.val (2 * (k % 4)) = 0xFFFFFFFF ∧ lane t.val (2 * (k % 4) + 1) = 0))

/-! ## Traversal islands (R369 to R394) -/

/-- R379, R382, R384, R385, R387: an island takes a ray token into a free entry; it invokes the candidates of a ray one at a time; a
verdict accepts or goes on; poison ends the ray; a result leaves, with its entry of the chain table, and not before a stop taken before.
R377, R379 to R383: what a ray is tested against. The test of a primitive rounds exact sums once, and hits where T lies between TMIN
and TMAX; of the candidates the result is the opaque one of least key, and those below it that are not opaque are offered in the order of
their keys; a leaf that its checks or its mask turn away offers none; every primitive that lies in its box is tested, whatever the chain
table holds; a ray enters a box where it first lies in it. (Of a primitive outside its box the model leaves it free: log entry 6.)
R386, R388: a ray whose partitions stand at another island migrates there, waits without an entry and enters where one is free; an island
that is unbound or bound in another context does not take it, and its partitions are absent; an island goes on with a ray whose record or
descriptor it still reads from another package.
Rests on the model's choices too: log entries 6, 45. -/
def Obligations.RaysAndMigration : Prop :=
  ((∀ (s : State) sector r t, s.islandRegion 0 sector = some r → s.linkHead (linkKey 0 sector 0) = some t → isData t.tag = true →
    r.token = none → s.rayEntries sector < 256 → ∀ x dup w, x = newRay s sector r.ctx t → w = whoIsland sector r.ctx (.ray x.id) →
    dup = s.rays.any (fun z => z.handle == x.handle && z.ctx == x.ctx && (z.origin == sector || (z.here == sector && z.entered))) →
    ∀ s1 : State, s1 = { (s.linkTake (linkKey 0 sector 0)).updIsland sector (fun i => { i with taken := i.taken + 1 }) with
      nextId := s.nextId + 1, rays := s.rays ++ [x] } →
    (∀ s2, (x.startM w dup).exec s1 = (.error .wait, s2) → exec (.rayTake sector) s = .next s2) ∧
    (∀ y s2 s3, (x.startM w dup).exec s1 = (.ok y, s2) → s3 = (s2.setRay y).endReads (.ray x.id) →
      (y.status = 4 → y.errAddr = x.handle → exec (.rayTake sector) s = .next s3) ∧
      (y.status ≠ 4 → exec (.rayTake sector) s = .next (s3.writeWork w x.handle)))) ∧
  (∀ (s : State) sector id x c rest, s.ray? id = some x → x.origin = sector → x.here = sector → x.entered = true →
    (x.st = .invoke → x.list = c :: rest → exec (.candidateInvoke sector id) s = .next { s.linkSend (linkKey 0 sector 2) (x.candToken c) with
      rays := s.rays.filter (fun z => z.id != id) ++ [{ x with st := .verdict, nany := x.nany + 1 }] }) ∧
    (∀ r, (x.st = .over ∨ (x.st = .invoke ∧ x.list = [])) → s.binder 0 sector = some r →
      (∀ p ∈ (s.island sector).stops, x.order ≤ p.1) → ∀ s1, s1 = ((s.rayRecord r x).chainUpdate x).linkSend (linkKey 0 sector 0)
        x.resultToken → exec (.rayResult sector id) s = .next { s1 with rays := s1.rays.filter (fun y => y.id != id) })) ∧
  (∀ (s : State) sector r t, s.binder 0 sector = some r → s.linkHead (linkKey 0 sector 2) = some t → ∀ s1 handle,
    s1 = s.linkTake (linkKey 0 sector 2) → handle = t.val.extractLsb' 0 64 →
    (∀ x, isData t.tag = true → s.waitingRay sector (fun y => y.handle == handle) = some x →
      exec (.verdictTake sector) s = .next (s1.setRay (x.verdict (t.val.getLsbD 248)))) ∧
    (isData t.tag = true → s.waitingRay sector (fun y => y.handle == handle) = none →
      exec (.verdictTake sector) s = .next (s1.islandError r Cause.islandFormat handle)) ∧
    (isStop t.tag = true → exec (.verdictTake sector) s = .next (s1.islandError r Cause.islandFormat 0)) ∧
    (∀ x, isPoison t.tag = true → s.waitingRay sector (fun y => y.handle == handle) = some x →
      exec (.verdictTake sector) s = .next (s1.setRay { x with poisoned := true, st := .over, list := [] }))) ∧
  (∀ (x : Ray) c rest, x.list = c :: rest →
    x.verdict true = { x with best := some c, list := [], st := .invoke } ∧ x.verdict false = { x with list := rest, st := .invoke }) ∧
  (∀ (x : Ray), (x.poisoned = true → x.resultToken = ⟨0, mkTag 3 x.level.toNat⟩) ∧
    (x.poisoned = false → x.status < 2 → ∀ c, x.best = some c → (lane x.resultToken.val 2) = c.t ∧
      (lane x.resultToken.val 3).toNat = c.prim % 2 ^ 32 ∧ (lane x.resultToken.val 4) = c.u ∧ (lane x.resultToken.val 5) = c.v ∧
      x.resultToken.val.extractLsb' 0 64 = x.handle ∧ x.resultToken.tag = mkTag 0 x.level.toNat) ∧
    (x.poisoned = false → x.status < 2 → x.best = none → (lane x.resultToken.val 2) = 0x7F800000 ∧
      (lane x.resultToken.val 3) = 0xFFFFFFFF ∧ x.resultToken.val.extractLsb' 0 64 = x.handle))) ∧
  ((∀ a b : FVal, a.finite = true → b.finite = true → (a.mul b).finite = true ∧ (a.mul b).rat = a.rat * b.rat ∧
    (a.add .rne b).finite = true ∧ (a.add .rne b).rat = a.rat + b.rat) ∧
  (∀ a b : Vec3, dot3 a b = Fmt.f32.enc .rne false false ((((decF a.1).mul (decF b.1)).add .rne ((decF a.2.1).mul (decF b.2.1))).add .rne
      ((decF a.2.2).mul (decF b.2.2))) ∧
    (cross3 a b).1 = Fmt.f32.enc .rne false false (((decF a.2.1).mul (decF b.2.2)).add .rne ((decF a.2.2).mul (decF b.2.1)).neg) ∧
    (cross3 a b).2.1 = Fmt.f32.enc .rne false false (((decF a.2.2).mul (decF b.1)).add .rne ((decF a.1).mul (decF b.2.2)).neg) ∧
    (cross3 a b).2.2 = Fmt.f32.enc .rne false false (((decF a.1).mul (decF b.2.1)).add .rne ((decF a.2.1).mul (decF b.1)).neg)) ∧
  (∀ (org dir : Vec3) tmin tmax v0 v1 v2, ∀ e1 e2 s pv qv det u v t, e1 = sub3 v1 v0 → e2 = sub3 v2 v0 → s = sub3 org v0 →
    pv = cross3 dir e2 → qv = cross3 s e1 → det = dot3 e1 pv → u = dot3 s pv → v = dot3 dir qv → t = dot3 e2 qv →
    ((nan3 e1 = true ∨ nan3 e2 = true ∨ nan3 s = true ∨ nan3 pv = true ∨ nan3 qv = true ∨ nan3 (det, u, v) = true ∨
      (decF t).isNan = true ∨ det % 2 ^ 31 = 0) → triangleHit org dir tmin tmax v0 v1 v2 = none) ∧
    (nan3 e1 = false → nan3 e2 = false → nan3 s = false → nan3 pv = false → nan3 qv = false → nan3 (det, u, v) = false →
      (decF t).isNan = false → det % 2 ^ 31 ≠ 0 → ∀ sg : Nat → Nat, sg = (fun w => if bit det 31 = true then w ^^^ 2 ^ 31 else w) →
      (((decF (sg u)).below0 = true ∨ (decF (sg v)).below0 = true ∨
        (decF (sg det)).cmp ((decF (sg u)).add .rne (decF (sg v))) = some (-1)) → triangleHit org dir tmin tmax v0 v1 v2 = none) ∧
      ((decF (sg u)).below0 = false → (decF (sg v)).below0 = false →
        (decF (sg det)).cmp ((decF (sg u)).add .rne (decF (sg v))) ≠ some (-1) → ∀ tt, tt = Fmt.f32.divBits (sg t) (sg det) →
        triangleHit org dir tmin tmax v0 v1 v2 = if (Fmt.f32.leBits tmin tt && Fmt.f32.leBits tt tmax) = true
          then some (tt, Fmt.f32.divBits (sg u) (sg det), Fmt.f32.divBits (sg v) (sg det)) else none))) ∧
  (∀ a b : Cand, (decF a.t.toNat).finite = true → (decF b.t.toNat).finite = true → (a.below b = true ↔
    ratOf a.t < ratOf b.t ∨ (ratOf a.t = ratOf b.t ∧ (a.inst < b.inst ∨ (a.inst = b.inst ∧ (a.prim < b.prim ∨
      (a.prim = b.prim ∧ a.leaf < b.leaf))))))) ∧
  (∀ l : List Cand, (∀ c ∈ l, (decF c.t.toNat).finite = true) →
    (bestOf l = none ↔ ∀ c ∈ l, c.opaq = false) ∧
    (∀ b, bestOf l = some b → b ∈ l ∧ b.opaq = true ∧ ∀ c ∈ l, c.opaq = true → c.below b = false) ∧
    (∀ c, c ∈ listOf l ↔ c ∈ l ∧ c.opaq = false ∧ ∀ b, bestOf l = some b → c.below b = true) ∧
    (listOf l).Pairwise (fun x y => y.below x = false)) ∧
  (∀ (s : State) w (x : Ray) box leaf f ws s1, (entryM w (x.addr 1 (16 * leaf)) 2).exec s = (.ok (.ok ws), s1) →
    ∀ first count inst d1, first = ws.getD 0 0 % 2 ^ 32 → count = bits (ws.getD 0 0) 39 32 → inst = bits (ws.getD 0 0) 63 40 → d1 = ws.getD 1 0 →
    ((count = 0 ∨ 16 < count ∨ x.prims < first + count ∨ inst = 0xFFFFFF ∨ 512 ≤ d1) →
      (leafM w x box leaf f).exec s = (.ok (f.malformed box (x.addr 1 (16 * leaf))), s1)) ∧
    (1 ≤ count → count ≤ 16 → first + count ≤ x.prims → inst ≠ 0xFFFFFF → d1 < 512 →
      ((d1 % 256) &&& bits x.state.toNat 15 8 = 0 → (leafM w x box leaf f).exec s = (.ok f, s1)) ∧
      ((d1 % 256) &&& bits x.state.toNat 15 8 ≠ 0 → (leafM w x box leaf f).exec s =
        (leafPrimsM w x box leaf inst (bit d1 8 || x.state.getLsbD 0) first (List.range count) f).exec s1))) ∧
  (∀ (s : State) w (x : Ray) box leaf inst opaq first k t f ws s1, (entryM w (x.addr 2 (48 * (first + k))) 5).exec s = (.ok (.ok ws), s1) →
    inBox box (vecAt ws 0) = true → inBox box (vecAt ws 3) = true → inBox box (vecAt ws 6) = true →
    (leafPrimsM w x box leaf inst opaq first (k :: t) f).exec s = (leafPrimsM w x box leaf inst opaq first t
      (match triangleHit (vecWords x.org) (vecWords x.dir) x.tmin.toNat x.tmax.toNat (vecAt ws 0) (vecAt ws 3) (vecAt ws 6) with
        | some h => { f with cands := addCand f.cands ⟨BitVec.ofNat 32 h.1, inst, first + k, leaf, BitVec.ofNat 32 h.2.1,
            BitVec.ofNat 32 h.2.2, opaq⟩ }
        | none => f)).exec s1) ∧
  (∀ (x : Ray) (box : List Word), box.length = 6 → (∀ w ∈ box, (decF w.toNat).finite = true) →
    (∀ k, k < 3 → ratOf (box.getD k 0) ≤ ratOf (box.getD (k + 3) 0)) → ratOf x.tmin ≤ ratOf x.tmax →
    ∀ lies : Rat → Prop, lies = (fun q => ratOf x.tmin ≤ q ∧ q ≤ ratOf x.tmax ∧ ∀ k, k < 3 →
      ratOf (box.getD k 0) ≤ ratOf (x.org.getD k 0) + q * ratOf (x.dir.getD k 0) ∧
      ratOf (x.org.getD k 0) + q * ratOf (x.dir.getD k 0) ≤ ratOf (box.getD (k + 3) 0)) →
    (x.near box = none → ∀ q, ¬ lies q) ∧ (∀ d, x.near box = some d → lies d ∧ ∀ q, lies q → d ≤ q)) ∧
  (∀ (x : Ray) hf ho key, ({ x with hf := hf, ho := ho, key := key } : Ray).conclude = { x.conclude with hf := hf, ho := ho, key := key }) ∧
  (∀ (x : Ray) ws, x.withRecord ws = none ↔ (∃ k, k < 8 ∧ (decF (half ws k)).finite = false) ∨
    (∀ k, k < 3 → half ws (4 + k) % 2 ^ 31 = 0) ∨ (decF (half ws 3)).below0 = true)) ∧
  (∀ (s : State) sector id x, s.ray? id = some x → x.st = .search →
    (x.here ≠ sector → x.todo.any (fun p => p.1 == sector) = true →
      (s.takesRays sector x.ctx = true → exec (.rayMigration sector id) s = .next
        ((s.setRay { x with here := sector, entered := false }).writeWork (whoIsland sector x.ctx (.ray x.id)) x.handle)) ∧
      (s.takesRays sector x.ctx = false → ∀ y s1, (x.absent sector).passM.exec s = (.ok y, s1) →
        exec (.rayMigration sector id) s = .next ((s1.setRay y.settled).endReads (.ray x.id)))) ∧
    (x.here = sector → x.entered = false → s.takesRays sector x.ctx = true →
      (256 ≤ s.rayEntries sector → exec (.rayMigration sector id) s = .next s) ∧
      (s.rayEntries sector < 256 → ∀ y s1, (({ x with entered := true } : Ray).enterPartsM (whoIsland sector x.ctx (.ray x.id))).exec s
        = (.ok y, s1) → exec (.rayMigration sector id) s = .next ((s1.setRay y.settled).endReads (.ray x.id)))) ∧
    (x.here = sector → x.entered = true → x.sd = [] → ∀ y s1 s2 w, w = whoIsland sector x.ctx (.ray x.id) →
      (x.startM w false).exec s = (.ok y, s1) → s2 = (s1.setRay y).endReads (.ray x.id) →
      (y.status = 4 → y.errAddr = x.handle → exec (.rayMigration sector id) s = .next s2) ∧
      (y.status ≠ 4 → exec (.rayMigration sector id) s = .next (s2.writeWork w x.handle))))

/-- R387, R393, R394: stop and poison tokens of link 0 leave after the results of the rays taken before them; DRAIN answers when none of
those rays is in flight, CTINV once the entries of the context are gone from the die's chain table, any other command at once.
Rests on the model's choices too: log entry 45. -/
def Obligations.TraversalCommandsAndStops : Prop :=  (∀ (s : State) sector r t, s.binder 0 sector = some r → s.linkHead (linkKey 0 sector 0) = some t → isData t.tag = false →
    (s.island sector).stops = [] → ∀ s1 n, n = (s.island sector).taken → s1 = (s.linkTake (linkKey 0 sector 0)).updIsland sector
      (fun i => { i with taken := n + 1, stops := [(n, passedTok t)] }) →
    (s.raysBefore sector n = true → exec (.traversalStopPass sector) s = .next
      (s1.updIsland sector (fun i => { i with stops := [(n, passedTok t)] }))) ∧
    (s.raysBefore sector n = false → exec (.traversalStopPass sector) s = .next
      ((s1.linkSend (linkKey 0 sector 0) (passedTok t)).updIsland sector (fun i => { i with stops := [] })))) ∧
  (∀ (t : Token), (isStop t.tag = true → passedTok t = t) ∧ (isPoison t.tag = true → passedTok t = ⟨0, mkTag 3 (levelOf t.tag)⟩)) ∧
  (∀ (s : State) sector r t, s.traversalCmd sector = some (r, t) → ∀ s1, s1 = s.linkTake (linkKey 0 sector 1) →
    (isData t.tag = true → cmdOp t = 1 → (∀ x ∈ s.rays, x.origin = sector → (s.island sector).taken ≤ x.order) →
      exec (.drain sector) s = .next (((s1.updIsland sector (fun i => { i with drains := [(i.taken, t)] })).updIsland sector
        (fun i => { i with drains := [] })).linkSend (linkKey 0 sector 1) (respToken t 1 0))) ∧
    (isData t.tag = true → cmdOp t = 2 → exec (.ctinv sector) s = .next (({ s1 with
      chain := s1.chain.filter (fun p => !(p.1 / 65536 == sector / 64 && p.2.key.toNat / 2 ^ 42 == r.ctx)) } : State).linkSend
        (linkKey 0 sector 1) (respToken t 2 0))) ∧
    (isData t.tag = true → cmdOp t ≠ 1 → cmdOp t ≠ 2 → exec (.traversalUnknownCommand sector) s = .next
      ((s1.islandError r Cause.islandCmd 0).linkSend (linkKey 0 sector 1) (respToken t (cmdOp t) 1))) ∧
    (isData t.tag = false → exec (.traversalUnknownCommand sector) s = .next (s1.islandError r Cause.islandCmd 0)))

/-! ## Raster islands, blend units and compressed surfaces (R395 to R414) -/

/-- R402, R403: a primitive token is taken when every view of its mask has been read, and then they take effect in order; R404, R411: commands and stop tokens wait
until every tag before them is complete; R412: an unknown command answers STATUS 1, a command that fails STATUS 2 with a record.
R396, R401 to R403: the pixels of a screen tile that a triangle covers, with their weights; two triangles on the two sides of an edge they
share, their vertices in either order, never both cover one pixel, not even where its centre lies on the edge; each covered pixel becomes one fragment, in no
defined order, with the fields of R402; every home slice of the tile's lines is sent one close with the number of the view's fragments
homed there, 0 where the view is malformed. (A triangle of negative area covers nothing, as R401's formula has it: log entry 46.)
R404, R407, R411, R413, R414: what the surface commands do, once their descriptor has been read and their tiles are located: CLR makes
the blocks fast-clear or fills them, FBEG resets the tags, DCMP uncompresses, MODES stores and MLOAD takes the modes of the blocks; FENCE
arrives at its barrier.
Rests on the model's choices too: log entries 46, 71. -/
def Obligations.RasterCommands : Prop :=
  ((∀ (s : State) block r t, s.rasterHead block = some (r, t) → ∀ x, x = AMap.getD s.rasters block {} →
    (isData t.tag = true → kindOfTok t = 0 → ∀ tags act s1, (viewsM (whoRaster block r.ctx) r block (primOf t)
        ((List.range 96).filter (fun v => bit (primOf t).mask v))).exec s = (.ok (tags, act), s1) →
      exec (.primitiveToken block) s = .next ((((act s1).linkTake (linkKey 1 block 0)).updRaster block (addJob tags)).endReads (.island 1 block))) ∧
    (isData t.tag = false → (x.jobs ≠ [] → exec (.rasterStopPass block) s = .next s) ∧
      (x.jobs = [] → exec (.rasterStopPass block) s = .next
        ((s.linkTake (linkKey 1 block 0)).linkSend (linkKey 1 block 0) (passedTok t)))) ∧
    (isData t.tag = true → kindOfTok t = 1 → x.jobs = [] → (rasterCmdOf t = 0 ∨ 7 < rasterCmdOf t) →
      exec (.rasterUnknownCommand block) s = .next (((s.linkTake (linkKey 1 block 0)).islandError r Cause.islandCmd 0).linkSend
        (linkKey 1 block 0) (respToken t (rasterCmdOf t) 1))) ∧
    (isData t.tag = true → kindOfTok t = 1 → x.jobs ≠ [] → ∀ i ∈ ([.view block, .clr block, .fbeg block, .rasterFence block,
      .modes block, .dcmp block, .mload block] : List Instr), exec i s = .next s)) ∧
  (∀ (s : State) block code r t, s.rasterCmd block (fun c => c == code) = some (r, t) → ∀ a, a = t.val.extractLsb' 0 64 →
    ∀ ans, ans = (fun (u : State) status =>
      ((u.linkTake (linkKey 1 block 0)).linkSend (linkKey 1 block 0) (respToken t code status)).endReads (.island 1 block)) →
    (code = 1 → a.toNat % 128 = 0 → exec (.view block) s = .next (ans (s.updRaster block (fun x => { x with view := a })) 0)) ∧
    (code = 1 → a.toNat % 128 ≠ 0 → exec (.view block) s = .next (ans (s.islandError r Cause.islandFormat a) 2)) ∧
    (∀ i, (code, i) ∈ [(2, Instr.clr block), (3, Instr.fbeg block), (5, Instr.modes block), (6, Instr.dcmp block), (7, Instr.mload block)] →
      a.toNat % 64 ≠ 0 → exec i s = .next (ans (s.islandError r Cause.islandFormat a) 2)))) ∧
  ((∀ p0 p1 p2 tx ty, (coverPixels p0 p1 p2 tx ty).Nodup ∧ ∀ q : Pixel, q ∈ coverPixels p0 p1 p2 tx ty ↔
    ∃ a i j k sg, a = edgeFn p0 p1 p2 ∧ a ≠ 0 ∧ q.px / 32 = tx ∧ q.py / 32 = ty ∧
      (i, j, k, sg) = (if 0 < a then (p1, p2, p0, (1 : Int)) else (p2, p1, p0, -1)) ∧
      ∀ c : Int × Int, c = (((2 * q.px + 1 : Nat) : Int) * 2 ^ 148, ((2 * q.py + 1 : Nat) : Int) * 2 ^ 148) →
      (∀ e ∈ [(k, i), (i, j), (j, k)], 0 < sg * edgeFn e.1 e.2 c ∨ (sg * edgeFn e.1 e.2 c = 0 ∧
        (e.2.2 - e.1.2 < 0 ∨ (e.2.2 - e.1.2 = 0 ∧ 0 < e.2.1 - e.1.1)))) ∧
      q.u = ratioF (edgeFn p2 p0 c) a ∧ q.v = ratioF (edgeFn p0 p1 c) a) ∧
  (∀ a b c d : Int × Int, edgeFn a b c * edgeFn a b d < 0 → ∀ tx ty q r,
    ∀ s ∈ [(a, b, c), (b, a, c), (a, c, b), (c, a, b), (b, c, a), (c, b, a)], ∀ t ∈ [(a, b, d), (b, a, d), (a, d, b), (d, a, b), (b, d, a), (d, b, a)],
      q ∈ coverPixels s.1 s.2.1 s.2.2 tx ty → r ∈ coverPixels t.1 t.2.1 t.2.2 tx ty → ¬ (q.px = r.px ∧ q.py = r.py)) ∧
  (∀ (x : Surface) (p : Prim) view (q : Pixel), view < 128 → p.op < 8 → q.px < 65536 → q.py < 65536 → q.u < 2 ^ 32 → q.v < 2 ^ 32 →
    p.prim < 2 ^ 32 → ∀ t, t = fragToken x p view q →
    t.tag = dataTag ∧ t.val.extractLsb' 0 64 = BitVec.ofNat 64 (x.base + 4096 * (x.tw * (q.py / 32) + q.px / 32)
      + 256 * (4 * (q.py % 32 / 8) + q.px % 32 / 8) + 4 * (8 * (q.py % 8) + q.px % 8)) ∧
    (lane t.val 2).toNat = p.seq.toNat + 2 ^ 16 * view + 2 ^ 23 * p.op + (if x.comp = true then 2 ^ 27 else 0) + 2 ^ 28 * (x.fmt % 2) ∧
    (lane t.val 3).toNat = q.px + 2 ^ 16 * q.py ∧ (lane t.val 4).toNat = q.u ∧ (lane t.val 5).toNat = q.v ∧
    (lane t.val 6).toNat = p.prim ∧ lane t.val 7 = 0) ∧
  (∀ pa h, h ∈ tileSlices pa ↔ ∃ i, i < 32 ∧ h = homeSlice (pa / 4096 * 4096 + 128 * i)) ∧
  (∀ (s : State) r block (p : Prim) v view (x : Surface) pa vr l, l = coverage view vr p.tx p.ty → ∀ plain : BlendItem → BlendItem,
    plain = (fun b => { b with id := 0 }) → ∀ closes : List Pixel → List BlendItem,
    closes = (fun l => (tileSlices pa).map (fun h => closeItem r block x p pa h
      (l.filter (fun q => homeSlice (pa / 4096 * 4096 + pixelOff q.px q.py) == h)).length)) →
    (p.flat = false → ∀ t, t = (viewSend r block p v view x pa (.ok vr)).2 s →
      (∃ frags, frags.Perm (l.map (fragToken x p v)) ∧ (t.link (linkKey 1 block 1)).outq = (s.link (linkKey 1 block 1)).outq ++ frags) ∧
      t.blendItems.map plain = s.blendItems.map plain ++ closes l) ∧
    (p.flat = true → ∀ t, t = (viewSend r block p v view x pa (.ok vr)).2 s → t.links = s.links ∧
      t.blendItems.map plain = s.blendItems.map plain ++ l.map (flatItem r block x p (BitVec.ofNat 32 (half vr 12)) pa) ++ closes l) ∧
    (∀ c a t, t = (viewSend r block p v view x pa (.error (c, a))).2 s → t.links = s.links ∧
      t.blendItems.map plain = s.blendItems.map plain ++ closes []))) ∧
  (∀ (s : State) block code r t, s.rasterCmd block (fun c => c == code) = some (r, t) → ∀ w a b, w = whoRaster block r.ctx →
    a = t.val.extractLsb' 0 64 → b = t.val.extractLsb' 64 64 →
    ∀ ans, ans = (fun (u : State) status =>
      ((u.linkTake (linkKey 1 block 0)).linkSend (linkKey 1 block 0) (respToken t code status)).endReads (.island 1 block)) →
    (∀ x s1 tiles s2, (readSurfaceM w a).exec s = (.ok x, s1) →
      (code = 2 → (surfaceTilesM w block .store x).exec s1 = (.ok tiles, s2) → (∀ p ∈ tiles, s2.hostHolds p 4096 = false) →
        exec (.clr block) s = .next (ans ((tiles.flatMap tileBlocks).foldl (fun u k => if x.comp = true then u.fastClear (b.toNat % 2 ^ 32) k
          else u.fillBlock (b.toNat % 2 ^ 32) k) (s2.resetTiles tiles)) 0)) ∧
      (code = 3 → (surfaceTilesM w block .load x).exec s1 = (.ok tiles, s2) →
        exec (.fbeg block) s = .next (ans (s2.resetTiles tiles) 0)) ∧
      (code = 6 → x.fmt = 0 → (surfaceTilesM w block .store x).exec s1 = (.ok tiles, s2) → (∀ p ∈ tiles, s2.hostHolds p 4096 = false) →
        exec (.dcmp block) s = .next (ans ((tiles.flatMap tileBlocks).foldl State.dcmpBlock s2) 0)) ∧
      (code = 5 → x.fmt = 0 → (surfaceTilesM w block .load x).exec s1 = (.ok tiles, s2) → ∀ xs s3,
        (bytesM w .store b (tiles.flatMap tileBlocks).length).exec s2 = (.ok xs, s3) →
        (∀ y ∈ xs, s3.isLocal y.pa = true ∧ s3.writeHeld (lowOf y.pa) 1 false = false) →
        exec (.modes block) s = .next (ans ((xs.zip (tiles.flatMap tileBlocks)).foldl
          (fun u p => u.fabWrite (lowOf p.1.pa) [BitVec.ofNat 8 (s3.modeOf (p.2 * 256))]) s3) 0)) ∧
      (code = 7 → x.fmt = 0 → (surfaceTilesM w block .store x).exec s1 = (.ok tiles, s2) → ∀ s3 good s4,
        (probeM w b (tiles.flatMap tileBlocks).length).exec s2 = (.ok (), s3) →
        (loadModesM w r b (tiles.flatMap tileBlocks).zipIdx).exec s3 = (.ok good, s4) →
        exec (.mload block) s = .next (ans s4 (if good = true then 0 else 2)))) ∧
    (code = 4 → a = 0 → exec (.rasterFence block) s = .next (ans s 0)) ∧
    (code = 4 → a ≠ 0 → ∀ pa s1, (tbarMarked w .atomic a).exec s = (.ok pa, s1) → (s1.tbarAt pa).badArrival 1 0 = false →
      exec (.rasterFence block) s = .next (ans (s1.tbarArrive pa 1 0) 0)) ∧
    (code = 4 → a ≠ 0 → ∀ c d s1, (tbarMarked w .atomic a).exec s = (.error (.raise c d), s1) →
      exec (.rasterFence block) s = .next (ans (s1.islandError r c d) 2)))

/-- R413: which modes MLOAD takes; R414: a block that CLR leaves fast-clear reads as its value in every word, and a filled block does.
R286, R290, R414, R415: what is written through the fabric, in a compressed block or not, reads back byte for byte, every other byte
reads as before, and the modes stay allocated ones. -/
def Obligations.CompressedBlocksReadBack : Prop :=
  ((∀ v, modeOk v = true ↔ (v = 0 ∨ v = 1 ∨ (0x10 ≤ v ∧ v ≤ 0x17))) ∧
  (∀ (s : State) v blk k, v < 2 ^ 32 → k < 64 → Mem.wf s.mem = true → ∀ i, i < 4 →
    (s.fastClear v blk).byteAt (blk * 256 + 4 * k + i) = BitVec.ofNat 8 (v / 2 ^ (8 * i))) ∧
  (∀ (s : State) v blk a, a / 256 ≠ blk → Mem.wf s.mem = true → modeOk (s.modeOf a) = true → (s.fastClear v blk).byteAt a = s.byteAt a)) ∧
  (∀ (s : State) pa bs, Mem.wf s.mem = true → (∀ a, modeOk (s.modeOf a) = true) → bs.length ≤ 256 → ∀ t, t = s.fabWrite pa bs →
    Mem.wf t.mem = true ∧ (∀ a, modeOk (t.modeOf a) = true) ∧
    (∀ a, t.byteAt a = if pa ≤ a then (bs[a - pa]?).getD (s.byteAt a) else s.byteAt a))

/-- R406 to R410: a blend unit forwards a fragment to the home slice of its pixel; the slice applies it when its tag is the expected one,
counts it, and moves to the next tag when the close's count is reached; an item outside the window is discarded with BLEND_WINDOW.
R410: the blend operations on the four 8-bit channels of FMT 0 and on the FP32 value of FMT 1.
Rests on the model's choices too: log entry 47. -/
def Obligations.BlendUnits : Prop :=
  ((∀ (s : State) slice r t, s.islandRegion 3 slice = some r → s.linkHead (linkKey 3 slice 0) = some t →
    (∀ pa s1, (forwardM (whoBlend slice r.ctx) slice t).exec s = (.ok pa, s1) → exec (.blendForward slice) s = .next
      ((s1.linkTake (linkKey 3 slice 0)).addItems [fragItem r slice t pa])) ∧
    (isPoison t.tag = true → exec (.blendForward slice) s = .next
      ((s.linkTake (linkKey 3 slice 0)).islandError r Cause.poisonConsumed 0)) ∧
    (isStop t.tag = true → exec (.blendForward slice) s = .next
      ((s.linkTake (linkKey 3 slice 0)).islandError r Cause.islandFormat 0))) ∧
  (∀ (s : State) slice id b, s.blendItems.find? (fun x => x.id == id && x.slice == slice) = some b →
    ∀ d, d = (b.tag - (s.tileTag b.slice b.tile).e).toNat →
    (∀ pa, b.pixel = some pa →
      (32768 ≤ d → exec (.blendApplication slice id) s = .next ((s.dropItem id).blendError b Cause.blendWindow)) ∧
      (0 < d → d < 32768 → exec (.blendApplication slice id) s = .next s) ∧
      (d = 0 → (b.kill = true ∨ s.writeHeld pa 4 b.comp = false) → ∀ s1, s1 = (s.dropItem id).applyBlend b pa → exec (.blendApplication slice id) s = .next
        (s1.settleTag { s1.tileTag b.slice b.tile with n := (s1.tileTag b.slice b.tile).n + 1 }))) ∧
    (b.pixel = none →
      (32768 ≤ d → exec (.tagClose slice id) s = .next
        (((s.dropItem id).blendError b Cause.blendWindow).tagOver b.slice b.tile b.tag.toNat)) ∧
      (0 < d → d < 32768 → exec (.tagClose slice id) s = .next s) ∧
      (d = 0 → exec (.tagClose slice id) s = .next ((s.dropItem id).settleTag { s.tileTag b.slice b.tile with close := some b.count })))) ∧
  (∀ (s : State) (b : BlendItem) pa, (b.kill = true → s.applyBlend b pa = s) ∧
    (b.kill = false → opOk b.fmt b.op = true → b.op = 0 → s.applyBlend b pa = s.blendWrite pa b.comp b.value.toNat) ∧
    (b.kill = false → opOk b.fmt b.op = true → b.op ≠ 0 → s.poisonedAt pa 4 = true →
      s.applyBlend b pa = s.blendError b Cause.poisonConsumed) ∧
    (b.kill = false → opOk b.fmt b.op = true → s.poisonedAt pa 4 = false → s.applyBlend b pa =
      s.blendWrite pa b.comp (blendValue b.fmt b.op b.value.toNat (s.fabNat pa 4)))) ∧
  (∀ (s : State) (x : TileTag), (x.close = some x.n → (s.settleTag x).tileTag x.slice x.tile = { x with e := x.e + 1, n := 0, close := none }) ∧
    (x.close ≠ some x.n → (s.settleTag x).tileTag x.slice x.tile = x))) ∧
  (∀ s t, s < 2 ^ 32 → t < 2 ^ 32 → (∀ fmt, blendValue fmt 0 s t = s) ∧
    (∀ k, k < 4 → ∀ sc tc sa, sc = s / 2 ^ (8 * k) % 256 → tc = t / 2 ^ (8 * k) % 256 → sa = s / 2 ^ 24 % 256 →
      blendValue 0 1 s t / 2 ^ (8 * k) % 256 = min 255 (sc + (tc * (255 - sa) + 127) / 255) ∧
      blendValue 0 2 s t / 2 ^ (8 * k) % 256 = min 255 (sc + tc)) ∧
    blendValue 1 2 s t = Fmt.f32.addBits t s ∧ blendValue 1 4 s t = Fmt.f32.minmax (-1) t s ∧ blendValue 1 5 s t = Fmt.f32.minmax 1 t s)

/-! ## Errors, partition reset, sensors, boot and the host's register writes (R255, R256, R292, R430, R447 to R454) -/

/-- R255, R256, R292, R451: an uncorrectable packet or token goes and its context with it; a corrupt header brings the bay's partition
down; an uncorrectable memory error poisons its 8 bytes; corrected errors are counted, and each 4,096 of one source logged.
R447, R256: a reset that GO started returns the cores, multicast rings and scoreboard of a partition to their reset state; when it
completes the partition accepts configurations again and GO reads zero; with no reset asked for nothing changes.
Rests on the model's choices too: log entries 49, 73. -/
def Obligations.ErrorsAndPartitionReset : Prop :=
  ((∀ (s : State) ctx what, (s.strikes ctx what = true → s.ctxHeld ctx = false → exec (.payloadKill ctx what) s = .next
      (((s.discard ctx what).killCtx ctx).record { cause := Cause.payloadKill, cls := 2, mkind := 4, ctx := ctx
                                                   srcIs := some (s.strikeSector what) })) ∧
    (s.strikes ctx what = false → exec (.payloadKill ctx what) s = .next s)) ∧
  (∀ (s : State) (r : Region) ctx e side n, s.linkOwner ctx r.id e = some r →
    (∀ w, w = s.wire (wireKey (r.loc e) side) → n < w.buffer.length + w.flight.length →
      (s.discard ctx (.wire r.id e side n)).wire (wireKey (r.loc e) side) = { w with
        buffer := w.buffer.eraseIdx n
        flight := if n < w.buffer.length then w.flight else w.flight.eraseIdx (n - w.buffer.length) }) ∧
    (∀ k, r.far e side = .island k →
      (s.discard ctx (.inward r.id e side n)).link k = { s.link k with fly := (s.link k).fly.eraseIdx n } ∧
      (s.discard ctx (.outward r.id e side n)).link k = { s.link k with inq := (s.link k).inq.eraseIdx n }) ∧
    (∀ p, r.far e side = .port p →
      (s.discard ctx (.inward r.id e side n)).port p = { s.port p with fly := (s.port p).fly.eraseIdx n } ∧
      (s.discard ctx (.outward r.id e side n)).port p = { s.port p with toMem := (s.port p).toMem.eraseIdx n })) ∧
  (∀ (s : State) bay, bay < 4 → s.downBays.contains bay = false → (∀ c ∈ s.ctxsIn bay, s.ctxHeld c = false) → ∀ s1, s1 = ((s.ctxsIn bay).foldl (fun u n => u.killCtx n) s).emptyBay bay →
    exec (.headerCorrupt bay) s = .next (if s.ctxsIn bay = [] then
      { s1 with downBays := NSet.insert s1.downBays bay }.evlWrite Cause.headerCorrupt 0 bay 0 0
      else reportDown bay (s.ctxsIn bay) { s1 with downBays := NSet.insert s1.downBays bay })) ∧
  (∀ (s : State) bay k, k / 16384 = bay → (s.emptyBay bay).wire k = {} ∧ AMap.find? (s.emptyBay bay).chain (4 * k) = none) ∧
  (∀ (s : State) a, a < 2 ^ 40 → isNormal a = true → exec (.memoryUncorrectableError a) s = .next (s.markPoison a 1) ∧
    (s.markPoison a 1).poisonedAt (a / 8 * 8) 8 = true) ∧
  (∀ (s : State) source n, n = AMap.getD s.corrected source 0 + 1 → ∀ s1 : State, s1 = { s with corrected := AMap.set s.corrected source n } →
    exec (.softCorrected source) s = .next (if n % 4096 = 0 then s1.evlWrite Cause.softCorrected 0 source (BitVec.ofNat 64 n) 0 else s1))) ∧
  (∀ (s : State) bay, bay < 4 →
    (s.prstRun.contains bay = false → exec (.prstGo bay) s = .next s ∧ exec (.partitionResetComplete bay) s = .next s) ∧
    (s.prstRun.contains bay = true →
      (∃ t, exec (.prstGo bay) s = .next t ∧ (∀ c, c / 64 = bay → c < 256 → t.core c = {}) ∧ (∀ c, c / 64 ≠ bay → t.core c = s.core c) ∧
        (∀ k, k / 4 = bay → AMap.find? t.mrings k = none) ∧ t.downBays = s.downBays ∧ t.mem = s.mem ∧ t.regions = s.regions) ∧
      ((∀ c, c / 64 = bay → c < 256 → s.core c = {}) → exec (.partitionResetComplete bay) s = .next
        { s with prstRun := s.prstRun.filter (fun b => b != bay), downBays := s.downBays.filter (fun b => b != bay) })))

/-- R448, R449: a droop event is counted, saturating, and stresses its sector from its cycle; a refresh comes 4,096 cycles after the one
before it, the first at a cycle the model leaves to its schedule (log entry 51); it brings every sector's reading,
reports a temperature above talert once and signals sm0, re-arms below talert less thyst, and reports new droop events on sm1.
Rests on the model's choices too: log entry 51. -/
def Obligations.SensorsAndAlerts : Prop :=  (∀ (s : State) n, n < 256 → exec (.droopEvent n) s = .next (s.updSector n (fun x => { x with
    droops := if x.droops = 0xFFFFFFFF then x.droops else x.droops + 1, lastDroop := some s.cyc }))) ∧
  (∀ (s : State) temps power, ((s.lastRefresh = 0 ∧ 1 ≤ s.cyc) ∨ s.cyc = s.lastRefresh + 4096) →
    exec (.sensorRefresh temps power) s = .next
      ((List.range 256).foldl (fun u n => (u.readTemp n (temps.getD n 0 % 2 ^ 16)).readDroops n)
        { s with power := power, lastRefresh := s.cyc })) ∧
  (∀ (s : State) temps power, (s.lastRefresh = 0 → s.cyc = 0) → s.cyc ≠ s.lastRefresh + 4096 →
    exec (.sensorRefresh temps power) s = .next s) ∧
  (∀ (s : State) n, s.cyc ≤ s.lastRefresh + 4096 → (s.passTime n).cyc ≤ s.lastRefresh + 4096) ∧
  (∀ (s : State) n t, ∀ u, u = s.readTemp n t → (u.sector n).temp = t ∧ (u.sector n).droops = (s.sector n).droops ∧
    ((s.sector n).armed = true → (u.sector n).armed = decide (t ≤ s.talert.toNat % 2 ^ 16)) ∧
    ((s.sector n).armed = false → (u.sector n).armed = decide (t + s.thyst.toNat % 2 ^ 16 < s.talert.toNat % 2 ^ 16)) ∧
    (((s.sector n).armed = false ∨ t ≤ s.talert.toNat % 2 ^ 16) → u.evlprod = s.evlprod) ∧
    ((s.sector n).armed = true → s.talert.toNat % 2 ^ 16 < t → u.evlprod = s.evlprod + 1 ∧
      u.core Config.sceip = (s.semaAdd Config.sceip 0 1).core Config.sceip)) ∧
  (∀ (s : State) n, ((s.sector n).droopsSeen = (s.sector n).droops → s.readDroops n = s) ∧
    ((s.sector n).droopsSeen ≠ (s.sector n).droops → ∀ u, u = s.readDroops n → (u.sector n).droopsSeen = (s.sector n).droops ∧
      u.evlprod = s.evlprod + 1 ∧ u.core Config.sceip = (s.semaAdd Config.sceip 1 1).core Config.sceip))

/-- R452, R453, R454: a package reset leaves the state after reset with the straps. Where image and blob carry signatures of the vendor
key and no recovery is strapped, the blob's registers stand and the image runs; else BOOTST is 2 with the defaults and the Sceip core is
idle. A recovery image with such a signature runs, and any other makes BOOTST 3. Attestation captures NONCE and signs it with the hashes
and the package number. What the bytes of an image or a blob mean is the model's (log entry 8).
R430, R454: a write of the host through BAR0, aligned and of 4 or 8 bytes, writes the register at its address, and a read answers it;
an access of another form changes nothing, and so does a write of an address that no register has, which reads zero.
Rests on the model's choices too: log entries 8, 12, 20, 26, 48, 50. -/
def Obligations.BootAndHostRegisters : Prop :=
  ((∀ (s : State) (b : BootInput), ∃ t, exec (.packageReset b) s = .next t ∧ t.package = b.package ∧ t.recovery = b.recovery ∧
    t.regions = State.reset.regions ∧ t.attst = State.reset.attst ∧ (∀ c, c < 256 → t.core c = State.reset.core c) ∧
    (∀ n, n ≠ 0 → t.ctxOf n = State.reset.ctxOf n) ∧
    t.blobImage = (if ecdsaVerify Config.vendorKey b.blob b.blobSig = true then some b.blob else none) ∧
    ∀ v, v = Config.blobOf b.blob →
      if (ecdsaVerify Config.vendorKey b.image b.imageSig && ecdsaVerify Config.vendorKey b.blob b.blobSig && !b.recovery) = true
      then t.bootst = 1 ∧ t.talert = (v.talert.getD 0x05F0) &&& 0xFFFF ∧
        t.thyst = (v.thyst.getD 0x0050) &&& 0xFFFF ∧ t.tstress = (v.tstress.getD 0x0550) &&& 0xFFFF ∧ t.masks = setMasks v.masks [] ∧
        t.fwImage = some b.image ∧ (t.core 256).run = .running ∧ (t.core 256).pc = pcOf (Config.firmwareOf b.image).pc ∧
        (t.ctxOf 0).root = (Config.firmwareOf b.image).root
      else t.bootst = 2 ∧ t.talert = 0x05F0 ∧ t.thyst = 0x0050 ∧ t.tstress = 0x0550 ∧ t.masks = [] ∧ t.fwImage = none ∧
        t.mem = State.reset.mem ∧ (t.core 256).run = .idle) ∧
  (∀ (s : State), (s.attst = 1 → exec .attgo s = .next s) ∧
    (s.attst ≠ 1 → exec .attgo s = .next { s with attst := 1, nonceHeld := s.nonce } ∧ exec .attestationComplete s = .next s)) ∧
  (∀ (s : State) f b, s.attst = 1 → s.fwImage = some f → s.blobImage = some b → ∀ m,
    m = leBytes s.nonceHeld.toNat 32 ++ sha256 f ++ sha256 b ++ leBytes s.package.toNat 8 →
    exec .attestationComplete s = .next (match ecdsaSign identityD (Config.signNonce s.freeNo) m with
      | some v => { s with freeNo := s.freeNo + 1, attst := 2, sig := v }
      | none => { s with freeNo := s.freeNo + 1 })) ∧
  (∀ (s : State), (s.bootst.toNat < 2 → exec .rcvgo s = .next s) ∧ (2 ≤ s.bootst.toNat → exec .rcvgo s = .next { s with rcvRun := true })) ∧
  (∀ (s : State) b, s.rcvRun = true → ∀ s1 : State, s1 = { s with
      rcvRun := false, hostReads := s.hostReads ++ linesOf s.rcvaddr.toNat b.image.length } →
    exec (.recoveryComplete b) s = .next (if ecdsaVerify Config.vendorKey b.image b.imageSig = true
      then (s1.bootRegs (Config.firmwareOf b.image).settings).runImage b.image else { s1 with bootst := 3 }))) ∧
  ((∀ (s : State) a n v, a ≠ msixCap → (a < 0xF000000000 ∨ 0x10000000000 ≤ a ∨ (n ≠ 4 ∧ n ≠ 8) ∨ a % n ≠ 0) →
    exec (.registerWrite a n v) s = .next s) ∧
  (∀ (s : State) (v : DWord),
    exec (.registerWrite 0xF000000008 8 (some v)) s = .next { s with rcvaddr := v } ∧
    (∃ t, exec (.registerWrite 0xF000000100 8 (some v)) s = .next t ∧ t.nonce.extractLsb' 0 64 = v ∧
      t.nonce.extractLsb' 64 192 = s.nonce.extractLsb' 64 192 ∧ t.regions = s.regions ∧ t.mem = s.mem) ∧
    exec (.registerWrite 0xF000000010 8 (some v)) s = exec .rcvgo s ∧ exec (.registerWrite 0xF000000120 8 (some v)) s = exec .attgo s ∧
    exec (.registerWrite 0xF000000000 8 (some v)) s = .next s ∧ exec (.registerWrite 0xF000000128 8 (some v)) s = .next s) ∧
  (∀ (s : State) n (v : DWord) a, a ≤ 0xF000FFFFF8 → 0xF000000200 ≤ a → (n = 4 ∨ n = 8) → a % n = 0 →
    exec (.registerWrite a n (some v)) s = .next s) ∧
  (∀ (s : State) n a, 0xF000000000 ≤ a → a < 0x10000000000 → (n = 4 ∨ n = 8) → a % n = 0 →
    exec (.registerWrite a n none) s = .next { s with answers := s.answers ++ [⟨false, a, .register, BitVec.ofNat 512 (s.devRead a n)⟩] }) ∧
  (∀ (s : State), s.devRead 0xF000000000 8 = s.bootst.toNat ∧ s.devRead 0xF000000008 8 = s.rcvaddr.toNat ∧
    s.devRead 0xF000000128 8 = s.attst.toNat ∧ s.devRead 0xF000000018 8 = 0 ∧
    ∀ f, s.fwImage = some f → s.devRead 0xF0000001C0 8 = leNat ((sha256 f).take 8)))

/-! ## The whole machine -/

/-- R25, R85, R93, R158: a step is one turn. A core's turn executes the instruction that its fetch gives at pc, an element's turn that of
the selected slot, an event's turn the event; nothing else of the state moves but what the turn's cycles bring.
Rests on the model's choices too: log entries 1, 13. -/
def Obligations.StepRunsDecodedInstruction : Prop :=  (∀ (s : State) t c i n s1 s2, s.nextTurn = t → t.actor = .core c → c ≤ Config.sceip → s1 = s.begin_ t (.core c) →
    s1.coreRuns c = true → (s1.inside c = true ∨ ((s1.core c).stopAsked = false ∧ s1.eventReady c = none)) →
    s1.fetch c = (.ok (.instr i n), s2) → step s = exec i s2) ∧
  (∀ (s : State) c x s1 w, (accessM (whoCore s c) .fetch (s.core c).pc 4).exec s = (.ok x, s1) → x.mt = 0 → s1.isLocal x.pa = true →
    s1.poisonedAt (lowOf x.pa) 4 = false → w = BitVec.ofNat 32 (s1.fabNat (lowOf x.pa) 4) →
    (∀ i, isXForm w = false → decodeSeq w 0 = .instr i 4 → s.fetch c = (.ok (.instr i 4), s1)) ∧
    (∀ y s2 v i, isXForm w = true → (accessM (whoCore s c) .fetch ((s.core c).pc + 4) 4).exec s1 = (.ok y, s2) → y.mt = 0 →
      s2.isLocal y.pa = true → s2.poisonedAt (lowOf y.pa) 4 = false → v = BitVec.ofNat 32 (s2.fabNat (lowOf y.pa) 4) →
      decodeSeq w v = .instr i 8 → s.fetch c = (.ok (.instr i 8), s2))) ∧
  (∀ (s : State) t id e r s1, s.nextTurn = t → t.actor = .element id e → s1 = s.begin_ t (.elem id e 0) → id < 4096 →
    s1.region? id = some r → e < 4 * r.quads → (r.elem e).isMatrix = false →
    ((r.elem e).isStatic = true → step s = exec (.staticOperation id e) s1) ∧
    ((r.elem e).isStatic = false → elemSlot s1 r e = none → step s = .next s1) ∧
    (∀ n i, (r.elem e).isStatic = false → elemSlot s1 r e = some n → elemInstr ((r.elem e).slots.getD n 0) = some i →
      step s = exec i { s1 with act := .elem id e n })) ∧
  (∀ (s : State) t i, s.nextTurn = t → t.actor = .event i → encode i = [] → step s = exec i (s.begin_ t .nobody)) ∧
  (∀ (s : State) t a, s.recQueue = [] → (s.begin_ t a).act = a ∧ (s.begin_ t a).cyc = s.cyc + s.mayWait t.wait ∧
    (s.begin_ t a).mem = s.mem ∧ (s.begin_ t a).cores = s.cores ∧ (s.begin_ t a).ctxs = s.ctxs ∧
    (s.mayWait t.wait = 0 → (s.begin_ t a).regions = s.regions ∧ (s.begin_ t a).wires = s.wires)) ∧
  (∀ (s : State) n, (∀ l ∈ s.launches, ¬ (l.plmax = 0 ∧ l.accepted = true)) → s.cyc + n ≤ s.lastRefresh + 4096 → s.mayWait n = n)

/-- The words that the spec's encoding tables print decode to the instructions they stand for. -/
def Obligations.DecodeSpecWords : Prop :=  decodeElem 0x1518E198 = .instr (.ffmaF32 ⟨5, 3, 16, 25, true, false, false, false⟩) 4 ∧
  decodeElem 0x0A28A058 = .instr (.vfmaBf16 ⟨2, 2, 16, 5, true, false, false, false⟩) 4 ∧
  decodeElem 0x12A42069 = .instr (.rep ⟨4, 16, 16, 6, true, false, false, true⟩) 4 ∧
  decodeElem 0x0294230C = .instr (.steer ⟨0, 16, 17, 16, true, true, false, false⟩) 4 ∧
  decodeElem 0x2B490000 = .instr (.fence ⟨10, 0, 4, 0, 0, 0, false, false, false⟩) 4 ∧
  decodeElem 0x32D00000 = .instr (.fin ⟨12, 0, 0, 0, false, false, false, false⟩) 4 ∧
  decodeSeq 0x08610040 0 = .instr (.addi 3 1 0x40) 4 ∧
  decodeSeq 0x84042800 0 = .instr (.tbarInit 4 5 0) 4 ∧
  decodeSeq 0x84E42E01 0 = .instr (.tbarArr 7 4 5 6) 4 ∧
  decodeSeq 0xC0241880 0 = .instr (.strmCp 1 4 3) 8 ∧
  decodeSeq 0xC5490040 0 = .instr (.lnchInd 10 9) 8 ∧
  decodeSeq 0x6D000007 0 = .instr (.bnz 8 7) 4 ∧
  decodeSeq 0x8000C80C 0 = .instr (.semaAcq 0 0 6 12) 4 ∧
  decodeSeq 0x90007001 0 = .instr (.trap 1) 4 ∧
  decodeSeq 0xFC000000 0 = .rejected .unallocated

/-- R94 to R102, R161, R162: for every well-formed instruction, with every operand at every value its encoding admits, the decoder of its
engine reads it back from its words; the events of the part have no words. -/
def Obligations.DecodeEncodeAgree : Prop := ∀ i : Instr, wellFormed i = true → kindRound i

/-- R3, R413: memory keeps its one canonical form under every write, reads back what was written, keeps every other byte, and two
memories in that form that read the same everywhere are the same data; a word's bytes stand lowest first.
Rests on the model's choices too: log entry 10. -/
def Obligations.MemoryReadsBackAndKeepsForm : Prop :=  (∀ m a bs, Mem.wf m = true → Mem.wf (Mem.writeList m a bs) = true) ∧
  (∀ m a (bs : List Byte) k, Mem.wf m = true → Mem.read (Mem.writeList m a bs) k = if a ≤ k then (bs[k - a]?).getD (Mem.read m k) else Mem.read m k) ∧
  (∀ m m', Mem.wf m = true → Mem.wf m' = true → (∀ a, Mem.read m a = Mem.read m' a) → m = m') ∧
  (∀ n v, v < 2 ^ (8 * n) → leNat (leBytes v n) = v) ∧
  (∀ m a n v, Mem.wf m = true → v < 2 ^ (8 * n) → leNat (Mem.readList (Mem.writeList m a (leBytes v n)) a n) = v)

/-- The state after reset has the values that the spec states: BOOTST, the management defaults, the counters, masks and latches at zero or
armed, version 0 of every word, mode 0x00 of every block, empty queues, expected tag 0, ctx 0 of a sequencer, and memory in its form.
Rests on the model's choices too: log entry 11. -/
def Obligations.ResetStateAsStated : Prop :=  Mem.wf State.reset.mem = true ∧ State.reset.bootst = 0 ∧ State.reset.talert = 0x05F0 ∧ State.reset.thyst = 0x0050 ∧
  State.reset.tstress = 0x0550 ∧ State.reset.fqsel = 0 ∧ State.reset.prstBay = 0 ∧ State.reset.prstRun = [] ∧
  State.reset.evlprod = 0 ∧ State.reset.rcvaddr = 0 ∧ State.reset.nonce = 0 ∧ State.reset.attst = 0 ∧ State.reset.sig = 0 ∧
  (∀ n, (State.reset.ctxOf n).fqaddr = 0) ∧ (∀ p, State.reset.routeMask p = 0) ∧
  (∀ n, (State.reset.sector n).temp = 0 ∧ (State.reset.sector n).droops = 0 ∧ (State.reset.sector n).armed = true) ∧
  (∀ a, State.reset.modeOf a = 0) ∧ (∀ slice tile, State.reset.tileTag slice tile = ⟨slice, tile, 0, 0, none⟩) ∧
  State.reset.bushels = [] ∧ State.reset.versions = [] ∧ State.reset.poison = [] ∧ State.reset.regions = [] ∧ State.reset.chain = [] ∧
  (∀ c, State.reset.coreCtx c = 0)
end

