-- ==== Sys2Proof/Laws/Codec.lean ====
section
/-!
SUPPORT. Laws/Codec.lean: each field of a packed word reads back (R94 to R102, R161, R162), the lemmas by which decode of encode is shown.
-/
namespace Sys2Proof.Laws

theorem getLsbD_high {n m i : Nat} {x : BitVec n} {y : BitVec m} (h : m ≤ i) : (x ++ y).getLsbD i = x.getLsbD (i - m) := by
  rw [BitVec.getLsbD_append, if_neg (by omega)]
theorem getLsbD_low {n m i : Nat} {x : BitVec n} {y : BitVec m} (h : i < m) : (x ++ y).getLsbD i = y.getLsbD i := by
  rw [BitVec.getLsbD_append, if_pos h]
/-- The high part of a joined pair, as a number. -/
theorem toNat_append_div {n m : Nat} (x : BitVec n) (y : BitVec m) : (x ++ y).toNat / 2 ^ m = x.toNat := by
  rw [BitVec.toNat_append, ← Nat.shiftLeft_add_eq_or_of_lt y.isLt, Nat.shiftLeft_eq,
    Nat.add_comm, Nat.add_mul_div_right _ _ (Nat.two_pow_pos m), Nat.div_eq_of_lt y.isLt, Nat.zero_add]
theorem opcOf_packR (c : BitVec 7) (f : ElemRec) : opcOf (packR c f) = c := by
  unfold opcOf packR
  iterate 7 rw [BitVec.extractLsb'_append_eq_of_le (by decide)]
  rw [BitVec.extractLsb'_append_eq_of_add_le (by decide)]
  exact BitVec.extractLsb'_eq_self
theorem packR_trig (c : BitVec 7) (f : ElemRec) : (packR c f).extractLsb' 26 6 = f.trig := by
  unfold packR
  iterate 8 rw [BitVec.extractLsb'_append_eq_of_le (by decide)]
  exact BitVec.extractLsb'_eq_self
theorem packR_d (c : BitVec 7) (f : ElemRec) : (packR c f).extractLsb' 14 5 = f.d := by
  unfold packR
  iterate 6 rw [BitVec.extractLsb'_append_eq_of_le (by decide)]
  rw [BitVec.extractLsb'_append_eq_of_add_le (by decide)]
  exact BitVec.extractLsb'_eq_self
theorem packR_a (c : BitVec 7) (f : ElemRec) : (packR c f).extractLsb' 9 5 = f.a := by
  unfold packR
  iterate 5 rw [BitVec.extractLsb'_append_eq_of_le (by decide)]
  rw [BitVec.extractLsb'_append_eq_of_add_le (by decide)]
  exact BitVec.extractLsb'_eq_self
theorem packR_b (c : BitVec 7) (f : ElemRec) : (packR c f).extractLsb' 4 5 = f.b := by
  unfold packR
  iterate 4 rw [BitVec.extractLsb'_append_eq_of_le (by decide)]
  rw [BitVec.extractLsb'_append_eq_of_add_le (by decide)]
  exact BitVec.extractLsb'_eq_self
theorem packR_dqa (c : BitVec 7) (f : ElemRec) : (packR c f).getLsbD 3 = f.dqa := by
  unfold packR
  iterate 3 rw [getLsbD_high (by decide)]
  rw [getLsbD_low (by decide)]
  simp
theorem packR_dqb (c : BitVec 7) (f : ElemRec) : (packR c f).getLsbD 2 = f.dqb := by
  unfold packR
  iterate 2 rw [getLsbD_high (by decide)]
  rw [getLsbD_low (by decide)]
  simp
theorem packR_sp (c : BitVec 7) (f : ElemRec) : (packR c f).getLsbD 1 = f.sp := by
  unfold packR
  iterate 1 rw [getLsbD_high (by decide)]
  rw [getLsbD_low (by decide)]
  simp
theorem packR_tp (c : BitVec 7) (f : ElemRec) : (packR c f).getLsbD 0 = f.tp := by
  unfold packR
  rw [getLsbD_low (by decide)]
  simp
theorem elemRec_packR (c : BitVec 7) (f : ElemRec) : elemRec (packR c f) = f := by
  simp only [elemRec, packR_trig, packR_d, packR_a, packR_b, packR_dqa, packR_dqb, packR_sp, packR_tp]
theorem opcOf_packM (c : BitVec 7) (f : MemRec) : opcOf (packM c f) = c := by
  unfold opcOf packM
  iterate 9 rw [BitVec.extractLsb'_append_eq_of_le (by decide)]
  rw [BitVec.extractLsb'_append_eq_of_add_le (by decide)]
  exact BitVec.extractLsb'_eq_self
theorem packM_trig (c : BitVec 7) (f : MemRec) : (packM c f).extractLsb' 26 6 = f.trig := by
  unfold packM
  iterate 10 rw [BitVec.extractLsb'_append_eq_of_le (by decide)]
  exact BitVec.extractLsb'_eq_self
theorem packM_rsp (c : BitVec 7) (f : MemRec) : (packM c f).extractLsb' 17 2 = f.rsp := by
  unfold packM
  iterate 8 rw [BitVec.extractLsb'_append_eq_of_le (by decide)]
  rw [BitVec.extractLsb'_append_eq_of_add_le (by decide)]
  exact BitVec.extractLsb'_eq_self
theorem packM_scope (c : BitVec 7) (f : MemRec) : (packM c f).extractLsb' 14 3 = f.scope := by
  unfold packM
  iterate 7 rw [BitVec.extractLsb'_append_eq_of_le (by decide)]
  rw [BitVec.extractLsb'_append_eq_of_add_le (by decide)]
  exact BitVec.extractLsb'_eq_self
theorem packM_pair (c : BitVec 7) (f : MemRec) : (packM c f).extractLsb' 11 3 = f.pair := by
  unfold packM
  iterate 6 rw [BitVec.extractLsb'_append_eq_of_le (by decide)]
  rw [BitVec.extractLsb'_append_eq_of_add_le (by decide)]
  exact BitVec.extractLsb'_eq_self
theorem packM_ord (c : BitVec 7) (f : MemRec) : (packM c f).extractLsb' 9 2 = f.ord := by
  unfold packM
  iterate 5 rw [BitVec.extractLsb'_append_eq_of_le (by decide)]
  rw [BitVec.extractLsb'_append_eq_of_add_le (by decide)]
  exact BitVec.extractLsb'_eq_self
theorem packM_b (c : BitVec 7) (f : MemRec) : (packM c f).extractLsb' 4 5 = f.b := by
  unfold packM
  iterate 4 rw [BitVec.extractLsb'_append_eq_of_le (by decide)]
  rw [BitVec.extractLsb'_append_eq_of_add_le (by decide)]
  exact BitVec.extractLsb'_eq_self
theorem packM_dqb (c : BitVec 7) (f : MemRec) : (packM c f).getLsbD 2 = f.dqb := by
  unfold packM
  iterate 2 rw [getLsbD_high (by decide)]
  rw [getLsbD_low (by decide)]
  simp
theorem packM_sp (c : BitVec 7) (f : MemRec) : (packM c f).getLsbD 1 = f.sp := by
  unfold packM
  iterate 1 rw [getLsbD_high (by decide)]
  rw [getLsbD_low (by decide)]
  simp
theorem packM_tp (c : BitVec 7) (f : MemRec) : (packM c f).getLsbD 0 = f.tp := by
  unfold packM
  rw [getLsbD_low (by decide)]
  simp
theorem packM_zero (c : BitVec 7) (f : MemRec) : (packM c f).getLsbD 3 = false := by
  unfold packM
  iterate 3 rw [getLsbD_high (by decide)]
  rw [getLsbD_low (by decide)]
  rfl
theorem memRec_packM (c : BitVec 7) (f : MemRec) : memRec (packM c f) = f := by
  simp only [memRec, packM_trig, packM_rsp, packM_scope, packM_pair, packM_ord, packM_b, packM_dqb, packM_sp, packM_tp]
theorem zeroM_packM (c : BitVec 7) (f : MemRec) : zeroM (packM c f) = true := by
  unfold zeroM
  rw [packM_zero]
  rfl
theorem opcOf_packA (c : BitVec 7) (f : AtomRec) : opcOf (packA c f) = c := by
  unfold opcOf packA
  iterate 9 rw [BitVec.extractLsb'_append_eq_of_le (by decide)]
  rw [BitVec.extractLsb'_append_eq_of_add_le (by decide)]
  exact BitVec.extractLsb'_eq_self
theorem packA_trig (c : BitVec 7) (f : AtomRec) : (packA c f).extractLsb' 26 6 = f.trig := by
  unfold packA
  iterate 10 rw [BitVec.extractLsb'_append_eq_of_le (by decide)]
  exact BitVec.extractLsb'_eq_self
theorem packA_rsp (c : BitVec 7) (f : AtomRec) : (packA c f).extractLsb' 17 2 = f.rsp := by
  unfold packA
  iterate 8 rw [BitVec.extractLsb'_append_eq_of_le (by decide)]
  rw [BitVec.extractLsb'_append_eq_of_add_le (by decide)]
  exact BitVec.extractLsb'_eq_self
theorem packA_scope (c : BitVec 7) (f : AtomRec) : (packA c f).extractLsb' 14 3 = f.scope := by
  unfold packA
  iterate 7 rw [BitVec.extractLsb'_append_eq_of_le (by decide)]
  rw [BitVec.extractLsb'_append_eq_of_add_le (by decide)]
  exact BitVec.extractLsb'_eq_self
theorem packA_addr (c : BitVec 7) (f : AtomRec) : (packA c f).extractLsb' 11 3 = f.addr := by
  unfold packA
  iterate 6 rw [BitVec.extractLsb'_append_eq_of_le (by decide)]
  rw [BitVec.extractLsb'_append_eq_of_add_le (by decide)]
  exact BitVec.extractLsb'_eq_self
theorem packA_opnd (c : BitVec 7) (f : AtomRec) : (packA c f).extractLsb' 6 3 = f.opnd := by
  unfold packA
  iterate 4 rw [BitVec.extractLsb'_append_eq_of_le (by decide)]
  rw [BitVec.extractLsb'_append_eq_of_add_le (by decide)]
  exact BitVec.extractLsb'_eq_self
theorem packA_ord (c : BitVec 7) (f : AtomRec) : (packA c f).extractLsb' 4 2 = f.ord := by
  unfold packA
  iterate 3 rw [BitVec.extractLsb'_append_eq_of_le (by decide)]
  rw [BitVec.extractLsb'_append_eq_of_add_le (by decide)]
  exact BitVec.extractLsb'_eq_self
theorem packA_sp (c : BitVec 7) (f : AtomRec) : (packA c f).getLsbD 1 = f.sp := by
  unfold packA
  iterate 1 rw [getLsbD_high (by decide)]
  rw [getLsbD_low (by decide)]
  simp
theorem packA_zero9 (c : BitVec 7) (f : AtomRec) : (packA c f).extractLsb' 9 2 = 0#2 := by
  unfold packA
  iterate 5 rw [BitVec.extractLsb'_append_eq_of_le (by decide)]
  rw [BitVec.extractLsb'_append_eq_of_add_le (by decide)]
  exact BitVec.extractLsb'_eq_self
theorem packA_zero2 (c : BitVec 7) (f : AtomRec) : (packA c f).extractLsb' 2 2 = 0#2 := by
  unfold packA
  iterate 2 rw [BitVec.extractLsb'_append_eq_of_le (by decide)]
  rw [BitVec.extractLsb'_append_eq_of_add_le (by decide)]
  exact BitVec.extractLsb'_eq_self
theorem packA_zero0 (c : BitVec 7) (f : AtomRec) : (packA c f).getLsbD 0 = false := by
  unfold packA
  rw [getLsbD_low (by decide)]
  rfl
theorem atomRec_packA (c : BitVec 7) (f : AtomRec) : atomRec (packA c f) = f := by
  simp only [atomRec, packA_trig, packA_rsp, packA_scope, packA_addr, packA_opnd, packA_ord, packA_sp]
theorem zeroA_packA (c : BitVec 7) (f : AtomRec) : zeroA (packA c f) = true := by
  unfold zeroA
  rw [packA_zero9, packA_zero2, packA_zero0]
  rfl
theorem majOf_packRR (m : BitVec 6) (d a b : Reg) (fn : BitVec 11) : majOf (packRR m d a b fn) = m := by
  unfold majOf packRR
  iterate 4 rw [BitVec.extractLsb'_append_eq_of_le (by decide)]
  exact BitVec.extractLsb'_eq_self
theorem rdOf_packRR (m : BitVec 6) (d a b : Reg) (fn : BitVec 11) : rdOf (packRR m d a b fn) = d := by
  unfold rdOf packRR
  iterate 3 rw [BitVec.extractLsb'_append_eq_of_le (by decide)]
  rw [BitVec.extractLsb'_append_eq_of_add_le (by decide)]
  exact BitVec.extractLsb'_eq_self
theorem rs1Of_packRR (m : BitVec 6) (d a b : Reg) (fn : BitVec 11) : rs1Of (packRR m d a b fn) = a := by
  unfold rs1Of packRR
  iterate 2 rw [BitVec.extractLsb'_append_eq_of_le (by decide)]
  rw [BitVec.extractLsb'_append_eq_of_add_le (by decide)]
  exact BitVec.extractLsb'_eq_self
theorem majOf_packI (m : BitVec 6) (d a : Reg) (i : BitVec 16) : majOf (packI m d a i) = m := by
  unfold majOf packI
  iterate 3 rw [BitVec.extractLsb'_append_eq_of_le (by decide)]
  exact BitVec.extractLsb'_eq_self
theorem rdOf_packI (m : BitVec 6) (d a : Reg) (i : BitVec 16) : rdOf (packI m d a i) = d := by
  unfold rdOf packI
  iterate 2 rw [BitVec.extractLsb'_append_eq_of_le (by decide)]
  rw [BitVec.extractLsb'_append_eq_of_add_le (by decide)]
  exact BitVec.extractLsb'_eq_self
theorem rs1Of_packI (m : BitVec 6) (d a : Reg) (i : BitVec 16) : rs1Of (packI m d a i) = a := by
  unfold rs1Of packI
  iterate 1 rw [BitVec.extractLsb'_append_eq_of_le (by decide)]
  rw [BitVec.extractLsb'_append_eq_of_add_le (by decide)]
  exact BitVec.extractLsb'_eq_self
theorem majOf_packO (m : BitVec 6) (d a : Reg) (o : BitVec 12) (fn : BitVec 4) : majOf (packO m d a o fn) = m := by
  unfold majOf packO
  iterate 4 rw [BitVec.extractLsb'_append_eq_of_le (by decide)]
  exact BitVec.extractLsb'_eq_self
theorem rdOf_packO (m : BitVec 6) (d a : Reg) (o : BitVec 12) (fn : BitVec 4) : rdOf (packO m d a o fn) = d := by
  unfold rdOf packO
  iterate 3 rw [BitVec.extractLsb'_append_eq_of_le (by decide)]
  rw [BitVec.extractLsb'_append_eq_of_add_le (by decide)]
  exact BitVec.extractLsb'_eq_self
theorem rs1Of_packO (m : BitVec 6) (d a : Reg) (o : BitVec 12) (fn : BitVec 4) : rs1Of (packO m d a o fn) = a := by
  unfold rs1Of packO
  iterate 2 rw [BitVec.extractLsb'_append_eq_of_le (by decide)]
  rw [BitVec.extractLsb'_append_eq_of_add_le (by decide)]
  exact BitVec.extractLsb'_eq_self
theorem majOf_packB (m : BitVec 6) (r : Reg) (o : BitVec 21) : majOf (packB m r o) = m := by
  unfold majOf packB
  iterate 2 rw [BitVec.extractLsb'_append_eq_of_le (by decide)]
  exact BitVec.extractLsb'_eq_self
theorem rdOf_packB (m : BitVec 6) (r : Reg) (o : BitVec 21) : rdOf (packB m r o) = r := by
  unfold rdOf packB
  iterate 1 rw [BitVec.extractLsb'_append_eq_of_le (by decide)]
  rw [BitVec.extractLsb'_append_eq_of_add_le (by decide)]
  exact BitVec.extractLsb'_eq_self
theorem majOf_packS (d r : Reg) (c op : BitVec 3) (i : BitVec 6) : majOf (packS d r c op i) = 0x20#6 := by
  unfold majOf packS
  iterate 6 rw [BitVec.extractLsb'_append_eq_of_le (by decide)]
  exact BitVec.extractLsb'_eq_self
theorem rdOf_packS (d r : Reg) (c op : BitVec 3) (i : BitVec 6) : rdOf (packS d r c op i) = d := by
  unfold rdOf packS
  iterate 5 rw [BitVec.extractLsb'_append_eq_of_le (by decide)]
  rw [BitVec.extractLsb'_append_eq_of_add_le (by decide)]
  exact BitVec.extractLsb'_eq_self
theorem rs1Of_packS (d r : Reg) (c op : BitVec 3) (i : BitVec 6) : rs1Of (packS d r c op i) = r := by
  unfold rs1Of packS
  iterate 4 rw [BitVec.extractLsb'_append_eq_of_le (by decide)]
  rw [BitVec.extractLsb'_append_eq_of_add_le (by decide)]
  exact BitVec.extractLsb'_eq_self
theorem majOf_packY (d a : Reg) (fn : BitVec 4) (i : BitVec 12) : majOf (packY d a fn i) = 0x24#6 := by
  unfold majOf packY
  iterate 4 rw [BitVec.extractLsb'_append_eq_of_le (by decide)]
  exact BitVec.extractLsb'_eq_self
theorem rdOf_packY (d a : Reg) (fn : BitVec 4) (i : BitVec 12) : rdOf (packY d a fn i) = d := by
  unfold rdOf packY
  iterate 3 rw [BitVec.extractLsb'_append_eq_of_le (by decide)]
  rw [BitVec.extractLsb'_append_eq_of_add_le (by decide)]
  exact BitVec.extractLsb'_eq_self
theorem rs1Of_packY (d a : Reg) (fn : BitVec 4) (i : BitVec 12) : rs1Of (packY d a fn i) = a := by
  unfold rs1Of packY
  iterate 2 rw [BitVec.extractLsb'_append_eq_of_le (by decide)]
  rw [BitVec.extractLsb'_append_eq_of_add_le (by decide)]
  exact BitVec.extractLsb'_eq_self
theorem majOf_packX (m : BitVec 6) (a b c : Reg) (fn : BitVec 5) : majOf (packX m a b c fn) = m := by
  unfold majOf packX
  iterate 5 rw [BitVec.extractLsb'_append_eq_of_le (by decide)]
  exact BitVec.extractLsb'_eq_self
theorem rdOf_packX (m : BitVec 6) (a b c : Reg) (fn : BitVec 5) : rdOf (packX m a b c fn) = a := by
  unfold rdOf packX
  iterate 4 rw [BitVec.extractLsb'_append_eq_of_le (by decide)]
  rw [BitVec.extractLsb'_append_eq_of_add_le (by decide)]
  exact BitVec.extractLsb'_eq_self
theorem rs1Of_packX (m : BitVec 6) (a b c : Reg) (fn : BitVec 5) : rs1Of (packX m a b c fn) = b := by
  unfold rs1Of packX
  iterate 3 rw [BitVec.extractLsb'_append_eq_of_le (by decide)]
  rw [BitVec.extractLsb'_append_eq_of_add_le (by decide)]
  exact BitVec.extractLsb'_eq_self
theorem rs2Of_packRR (m : BitVec 6) (d a b : Reg) (fn : BitVec 11) : rs2Of (packRR m d a b fn) = b := by
  unfold rs2Of packRR
  iterate 1 rw [BitVec.extractLsb'_append_eq_of_le (by decide)]
  rw [BitVec.extractLsb'_append_eq_of_add_le (by decide)]
  exact BitVec.extractLsb'_eq_self
theorem fnOf_packRR (m : BitVec 6) (d a b : Reg) (fn : BitVec 11) : fnOf (packRR m d a b fn) = fn := by
  unfold fnOf packRR
  rw [BitVec.extractLsb'_append_eq_of_add_le (by decide)]
  exact BitVec.extractLsb'_eq_self
theorem packRR_low (m : BitVec 6) (d a b : Reg) (fn : BitVec 11) (s l : Nat) (h : s + l ≤ 11) :
    (packRR m d a b fn).extractLsb' s l = fn.extractLsb' s l := by
  unfold packRR
  rw [BitVec.extractLsb'_append_eq_of_add_le h]
theorem amo_scope (c : BitVec 3) (o : BitVec 2) (k : BitVec 6) : (c ++ o ++ k).extractLsb' 8 3 = c := by
  iterate 2 rw [BitVec.extractLsb'_append_eq_of_le (by decide)]
  exact BitVec.extractLsb'_eq_self
theorem amo_order (c : BitVec 3) (o : BitVec 2) (k : BitVec 6) : (c ++ o ++ k).extractLsb' 6 2 = o := by
  rw [BitVec.extractLsb'_append_eq_of_le (by decide), BitVec.extractLsb'_append_eq_of_add_le (by decide)]
  exact BitVec.extractLsb'_eq_self
theorem amo_op (c : BitVec 3) (o : BitVec 2) (k : BitVec 6) : (c ++ o ++ k).extractLsb' 0 6 = k := by
  rw [BitVec.extractLsb'_append_eq_of_add_le (by decide)]
  exact BitVec.extractLsb'_eq_self
theorem low_scope (c : BitVec 3) (k : BitVec 8) : (c ++ k).extractLsb' 8 3 = c := by
  rw [BitVec.extractLsb'_append_eq_of_le (by decide)]
  exact BitVec.extractLsb'_eq_self
theorem low_part (c : BitVec 3) (k : BitVec 8) (s l : Nat) (h : s + l ≤ 8) : (c ++ k).extractLsb' s l = k.extractLsb' s l := by
  rw [BitVec.extractLsb'_append_eq_of_add_le h]
theorem packRR_low_8_3 (m : BitVec 6) (d x y : Reg) (fn : BitVec 11) :
    (packRR m d x y fn).extractLsb' 8 3 = fn.extractLsb' 8 3 := packRR_low m d x y fn 8 3 (by decide)
theorem packRR_low_6_2 (m : BitVec 6) (d x y : Reg) (fn : BitVec 11) :
    (packRR m d x y fn).extractLsb' 6 2 = fn.extractLsb' 6 2 := packRR_low m d x y fn 6 2 (by decide)
theorem packRR_low_0_6 (m : BitVec 6) (d x y : Reg) (fn : BitVec 11) :
    (packRR m d x y fn).extractLsb' 0 6 = fn.extractLsb' 0 6 := packRR_low m d x y fn 0 6 (by decide)
theorem packRR_low_3_5 (m : BitVec 6) (d x y : Reg) (fn : BitVec 11) :
    (packRR m d x y fn).extractLsb' 3 5 = fn.extractLsb' 3 5 := packRR_low m d x y fn 3 5 (by decide)
theorem packRR_low_0_3 (m : BitVec 6) (d x y : Reg) (fn : BitVec 11) :
    (packRR m d x y fn).extractLsb' 0 3 = fn.extractLsb' 0 3 := packRR_low m d x y fn 0 3 (by decide)
theorem packRR_low_0_8 (m : BitVec 6) (d x y : Reg) (fn : BitVec 11) :
    (packRR m d x y fn).extractLsb' 0 8 = fn.extractLsb' 0 8 := packRR_low m d x y fn 0 8 (by decide)
theorem packRR_low_5_3 (m : BitVec 6) (d x y : Reg) (fn : BitVec 11) :
    (packRR m d x y fn).extractLsb' 5 3 = fn.extractLsb' 5 3 := packRR_low m d x y fn 5 3 (by decide)
theorem packRR_low_4_1 (m : BitVec 6) (d x y : Reg) (fn : BitVec 11) :
    (packRR m d x y fn).extractLsb' 4 1 = fn.extractLsb' 4 1 := packRR_low m d x y fn 4 1 (by decide)
theorem packRR_low_0_4 (m : BitVec 6) (d x y : Reg) (fn : BitVec 11) :
    (packRR m d x y fn).extractLsb' 0 4 = fn.extractLsb' 0 4 := packRR_low m d x y fn 0 4 (by decide)
theorem low_part_3_5 (c : BitVec 3) (k : BitVec 8) : (c ++ k).extractLsb' 3 5 = k.extractLsb' 3 5 :=
  low_part c k 3 5 (by decide)
theorem low_part_0_3 (c : BitVec 3) (k : BitVec 8) : (c ++ k).extractLsb' 0 3 = k.extractLsb' 0 3 :=
  low_part c k 0 3 (by decide)
theorem low_part_0_8 (c : BitVec 3) (k : BitVec 8) : (c ++ k).extractLsb' 0 8 = k.extractLsb' 0 8 :=
  low_part c k 0 8 (by decide)
theorem bq_high (k : BitVec 6) (y : BitVec 1) (q : BitVec 4) : (k ++ y ++ q).extractLsb' 8 3 = k.extractLsb' 3 3 := by
  iterate 2 rw [BitVec.extractLsb'_append_eq_of_le (by decide)]
theorem bq_op (k : BitVec 6) (y : BitVec 1) (q : BitVec 4) : (k ++ y ++ q).extractLsb' 5 3 = k.extractLsb' 0 3 := by
  iterate 2 rw [BitVec.extractLsb'_append_eq_of_le (by decide)]
theorem bq_y (k : BitVec 6) (y : BitVec 1) (q : BitVec 4) : (k ++ y ++ q).extractLsb' 4 1 = y := by
  rw [BitVec.extractLsb'_append_eq_of_le (by decide), BitVec.extractLsb'_append_eq_of_add_le (by decide)]
  exact BitVec.extractLsb'_eq_self
theorem bq_q (k : BitVec 6) (y : BitVec 1) (q : BitVec 4) : (k ++ y ++ q).extractLsb' 0 4 = q := by
  rw [BitVec.extractLsb'_append_eq_of_add_le (by decide)]
  exact BitVec.extractLsb'_eq_self
theorem bq_pair (m : BitVec 6) (p : BitVec 4) (a b : Reg) (fn : BitVec 11) :
    (packRR m (p ++ 0#1) a b fn).extractLsb' 22 4 = p := by
  unfold packRR
  iterate 3 rw [BitVec.extractLsb'_append_eq_of_le (by decide)]
  rw [BitVec.extractLsb'_append_eq_of_add_le (by decide), BitVec.extractLsb'_append_eq_of_le (by decide)]
  exact BitVec.extractLsb'_eq_self
theorem bq_even (m : BitVec 6) (p : BitVec 4) (a b : Reg) (fn : BitVec 11) :
    (packRR m (p ++ 0#1) a b fn).getLsbD 21 = false := by
  unfold packRR
  iterate 3 rw [getLsbD_high (by decide)]
  rw [getLsbD_low (by decide), getLsbD_low (by decide)]
  rfl
theorem fence_zero (m : BitVec 6) (fn : BitVec 11) : (packRR m 0 0 0 fn).extractLsb' 11 15 = 0 := by
  unfold packRR
  rw [BitVec.extractLsb'_append_eq_of_le (by decide)]
  ext i hi
  rw [BitVec.getElem_extractLsb', BitVec.getLsbD_append, BitVec.getLsbD_append, BitVec.getLsbD_append]
  split
  · simp
  · split
    · simp
    · rw [if_pos (by omega)]
      simp
theorem immOf_packI (m : BitVec 6) (d a : Reg) (i : BitVec 16) : immOf (packI m d a i) = i := by
  unfold immOf packI
  rw [BitVec.extractLsb'_append_eq_of_add_le (by decide)]
  exact BitVec.extractLsb'_eq_self
theorem shift_amount (m : BitVec 6) (d a : Reg) (k : BitVec 10) (n : BitVec 6) : (packI m d a (k ++ n)).extractLsb' 0 6 = n := by
  unfold packI
  iterate 2 rw [BitVec.extractLsb'_append_eq_of_add_le (by decide)]
  exact BitVec.extractLsb'_eq_self
theorem shift_op (k : BitVec 10) (n : BitVec 6) : (k ++ n).toNat / 64 = k.toNat := toNat_append_div k n
theorem mov_zero (m : BitVec 6) (d : Reg) (q : BitVec 2) (i : BitVec 16) : (packI m d (0#3 ++ q) i).extractLsb' 18 3 = 0 := by
  unfold packI
  rw [BitVec.extractLsb'_append_eq_of_le (by decide), BitVec.extractLsb'_append_eq_of_add_le (by decide),
    BitVec.extractLsb'_append_eq_of_le (by decide)]
  exact BitVec.extractLsb'_eq_self
theorem mov_quarter (m : BitVec 6) (d : Reg) (q : BitVec 2) (i : BitVec 16) : (packI m d (0#3 ++ q) i).extractLsb' 16 2 = q := by
  unfold packI
  rw [BitVec.extractLsb'_append_eq_of_le (by decide)]
  iterate 2 rw [BitVec.extractLsb'_append_eq_of_add_le (by decide)]
  exact BitVec.extractLsb'_eq_self
theorem packO_offset (m : BitVec 6) (d a : Reg) (o : BitVec 12) (fn : BitVec 4) : (packO m d a o fn).extractLsb' 4 12 = o := by
  unfold packO
  iterate 1 rw [BitVec.extractLsb'_append_eq_of_le (by decide)]
  rw [BitVec.extractLsb'_append_eq_of_add_le (by decide)]
  exact BitVec.extractLsb'_eq_self
theorem packO_op (m : BitVec 6) (d a : Reg) (o : BitVec 12) (fn : BitVec 4) : (packO m d a o fn).extractLsb' 0 4 = fn := by
  unfold packO
  rw [BitVec.extractLsb'_append_eq_of_add_le (by decide)]
  exact BitVec.extractLsb'_eq_self
theorem offOf_packB (m : BitVec 6) (r : Reg) (o : BitVec 21) : offOf (packB m r o) = o := by
  unfold offOf packB
  rw [BitVec.extractLsb'_append_eq_of_add_le (by decide)]
  exact BitVec.extractLsb'_eq_self
theorem packS_scope (d r : Reg) (c op : BitVec 3) (i : BitVec 6) : (packS d r c op i).extractLsb' 13 3 = c := by
  unfold packS
  iterate 3 rw [BitVec.extractLsb'_append_eq_of_le (by decide)]
  rw [BitVec.extractLsb'_append_eq_of_add_le (by decide)]
  exact BitVec.extractLsb'_eq_self
theorem packS_op (d r : Reg) (c op : BitVec 3) (i : BitVec 6) : (packS d r c op i).extractLsb' 10 3 = op := by
  unfold packS
  iterate 2 rw [BitVec.extractLsb'_append_eq_of_le (by decide)]
  rw [BitVec.extractLsb'_append_eq_of_add_le (by decide)]
  exact BitVec.extractLsb'_eq_self
theorem packS_zero (d r : Reg) (c op : BitVec 3) (i : BitVec 6) : (packS d r c op i).extractLsb' 6 4 = 0#4 := by
  unfold packS
  iterate 1 rw [BitVec.extractLsb'_append_eq_of_le (by decide)]
  rw [BitVec.extractLsb'_append_eq_of_add_le (by decide)]
  exact BitVec.extractLsb'_eq_self
theorem packS_index (d r : Reg) (c op : BitVec 3) (i : BitVec 6) : (packS d r c op i).extractLsb' 0 6 = i := by
  unfold packS
  rw [BitVec.extractLsb'_append_eq_of_add_le (by decide)]
  exact BitVec.extractLsb'_eq_self
theorem packY_op (d a : Reg) (fn : BitVec 4) (i : BitVec 12) : (packY d a fn i).extractLsb' 12 4 = fn := by
  unfold packY
  iterate 1 rw [BitVec.extractLsb'_append_eq_of_le (by decide)]
  rw [BitVec.extractLsb'_append_eq_of_add_le (by decide)]
  exact BitVec.extractLsb'_eq_self
theorem packY_index (d a : Reg) (fn : BitVec 4) (i : BitVec 12) : (packY d a fn i).extractLsb' 0 12 = i := by
  unfold packY
  rw [BitVec.extractLsb'_append_eq_of_add_le (by decide)]
  exact BitVec.extractLsb'_eq_self
theorem rs2Of_packX (m : BitVec 6) (a b c : Reg) (fn : BitVec 5) : rs2Of (packX m a b c fn) = c := by
  unfold rs2Of packX
  iterate 2 rw [BitVec.extractLsb'_append_eq_of_le (by decide)]
  rw [BitVec.extractLsb'_append_eq_of_add_le (by decide)]
  exact BitVec.extractLsb'_eq_self
theorem packX_op (m : BitVec 6) (a b c : Reg) (fn : BitVec 5) : (packX m a b c fn).extractLsb' 6 5 = fn := by
  unfold packX
  iterate 1 rw [BitVec.extractLsb'_append_eq_of_le (by decide)]
  rw [BitVec.extractLsb'_append_eq_of_add_le (by decide)]
  exact BitVec.extractLsb'_eq_self
theorem packX_zero (m : BitVec 6) (a b c : Reg) (fn : BitVec 5) : (packX m a b c fn).extractLsb' 0 6 = 0#6 := by
  unfold packX
  rw [BitVec.extractLsb'_append_eq_of_add_le (by decide)]
  exact BitVec.extractLsb'_eq_self
theorem port_low (p : BitVec 4) : (0#28 ++ p).extractLsb' 0 4 = p := by
  rw [BitVec.extractLsb'_append_eq_of_add_le (by decide)]
  exact BitVec.extractLsb'_eq_self
theorem port_high (p : BitVec 4) : (0#28 ++ p).extractLsb' 4 28 = 0 := by
  rw [BitVec.extractLsb'_append_eq_of_le (by decide)]
  exact BitVec.extractLsb'_eq_self

end Sys2Proof.Laws
end

