-- ==== Sys2Proof/Laws/State.lean ====
section
/-!
SUPPORT. Laws/State.lean: the fields of the state that each plain update leaves as they were, and what a lookup gives after an update.
-/
namespace Sys2Proof.Machine

@[simp] theorem setRegion_cyc (s : State) (r : Region) : (s.setRegion r).cyc = s.cyc := rfl
@[simp] theorem setRegion_turns (s : State) (r : Region) : (s.setRegion r).turns = s.turns := rfl
@[simp] theorem setRegion_turnNo (s : State) (r : Region) : (s.setRegion r).turnNo = s.turnNo := rfl
@[simp] theorem setRegion_freeNo (s : State) (r : Region) : (s.setRegion r).freeNo = s.freeNo := rfl
@[simp] theorem setRegion_act (s : State) (r : Region) : (s.setRegion r).act = s.act := rfl
@[simp] theorem setRegion_defer (s : State) (r : Region) : (s.setRegion r).defer = s.defer := rfl
@[simp] theorem setRegion_package (s : State) (r : Region) : (s.setRegion r).package = s.package := rfl
@[simp] theorem setRegion_recovery (s : State) (r : Region) : (s.setRegion r).recovery = s.recovery := rfl
@[simp] theorem setRegion_mem (s : State) (r : Region) : (s.setRegion r).mem = s.mem := rfl
@[simp] theorem setRegion_scratch (s : State) (r : Region) : (s.setRegion r).scratch = s.scratch := rfl
@[simp] theorem setRegion_poison (s : State) (r : Region) : (s.setRegion r).poison = s.poison := rfl
@[simp] theorem setRegion_scratchPoison (s : State) (r : Region) : (s.setRegion r).scratchPoison = s.scratchPoison := rfl
@[simp] theorem setRegion_versions (s : State) (r : Region) : (s.setRegion r).versions = s.versions := rfl
@[simp] theorem setRegion_barriers (s : State) (r : Region) : (s.setRegion r).barriers = s.barriers := rfl
@[simp] theorem setRegion_frames (s : State) (r : Region) : (s.setRegion r).frames = s.frames := rfl
@[simp] theorem setRegion_modes (s : State) (r : Region) : (s.setRegion r).modes = s.modes := rfl
@[simp] theorem setRegion_hostLines (s : State) (r : Region) : (s.setRegion r).hostLines = s.hostLines := rfl
@[simp] theorem setRegion_vldWaits (s : State) (r : Region) : (s.setRegion r).vldWaits = s.vldWaits := rfl
@[simp] theorem setRegion_vstQueue (s : State) (r : Region) : (s.setRegion r).vstQueue = s.vstQueue := rfl
@[simp] theorem setRegion_tlb (s : State) (r : Region) : (s.setRegion r).tlb = s.tlb := rfl
@[simp] theorem setRegion_invals (s : State) (r : Region) : (s.setRegion r).invals = s.invals := rfl
@[simp] theorem setRegion_ctxs (s : State) (r : Region) : (s.setRegion r).ctxs = s.ctxs := rfl
@[simp] theorem setRegion_cores (s : State) (r : Region) : (s.setRegion r).cores = s.cores := rfl
@[simp] theorem setRegion_wires (s : State) (r : Region) : (s.setRegion r).wires = s.wires := rfl
@[simp] theorem setRegion_landings (s : State) (r : Region) : (s.setRegion r).landings = s.landings := rfl
@[simp] theorem setRegion_flights (s : State) (r : Region) : (s.setRegion r).flights = s.flights := rfl
@[simp] theorem setRegion_nextId (s : State) (r : Region) : (s.setRegion r).nextId = s.nextId := rfl
@[simp] theorem setRegion_ports (s : State) (r : Region) : (s.setRegion r).ports = s.ports := rfl
@[simp] theorem setRegion_cfgops (s : State) (r : Region) : (s.setRegion r).cfgops = s.cfgops := rfl
@[simp] theorem setRegion_saved (s : State) (r : Region) : (s.setRegion r).saved = s.saved := rfl
@[simp] theorem setRegion_launches (s : State) (r : Region) : (s.setRegion r).launches = s.launches := rfl
@[simp] theorem setRegion_placeCtl (s : State) (r : Region) : (s.setRegion r).placeCtl = s.placeCtl := rfl
@[simp] theorem setRegion_streams (s : State) (r : Region) : (s.setRegion r).streams = s.streams := rfl
@[simp] theorem setRegion_lastSector (s : State) (r : Region) : (s.setRegion r).lastSector = s.lastSector := rfl
@[simp] theorem setRegion_score (s : State) (r : Region) : (s.setRegion r).score = s.score := rfl
@[simp] theorem setRegion_lastCtx (s : State) (r : Region) : (s.setRegion r).lastCtx = s.lastCtx := rfl
@[simp] theorem setRegion_links (s : State) (r : Region) : (s.setRegion r).links = s.links := rfl
@[simp] theorem setRegion_rays (s : State) (r : Region) : (s.setRegion r).rays = s.rays := rfl
@[simp] theorem setRegion_islands (s : State) (r : Region) : (s.setRegion r).islands = s.islands := rfl
@[simp] theorem setRegion_chain (s : State) (r : Region) : (s.setRegion r).chain = s.chain := rfl
@[simp] theorem setRegion_rasters (s : State) (r : Region) : (s.setRegion r).rasters = s.rasters := rfl
@[simp] theorem setRegion_tileTags (s : State) (r : Region) : (s.setRegion r).tileTags = s.tileTags := rfl
@[simp] theorem setRegion_blendItems (s : State) (r : Region) : (s.setRegion r).blendItems = s.blendItems := rfl
@[simp] theorem setRegion_isects (s : State) (r : Region) : (s.setRegion r).isects = s.isects := rfl
@[simp] theorem setRegion_bushels (s : State) (r : Region) : (s.setRegion r).bushels = s.bushels := rfl
@[simp] theorem setRegion_mrings (s : State) (r : Region) : (s.setRegion r).mrings = s.mrings := rfl
@[simp] theorem setRegion_hostQs (s : State) (r : Region) : (s.setRegion r).hostQs = s.hostQs := rfl
@[simp] theorem setRegion_msixTable (s : State) (r : Region) : (s.setRegion r).msixTable = s.msixTable := rfl
@[simp] theorem setRegion_msixPend (s : State) (r : Region) : (s.setRegion r).msixPend = s.msixPend := rfl
@[simp] theorem setRegion_msgs (s : State) (r : Region) : (s.setRegion r).msgs = s.msgs := rfl
@[simp] theorem setRegion_sentMsgs (s : State) (r : Region) : (s.setRegion r).sentMsgs = s.sentMsgs := rfl
@[simp] theorem setRegion_msixCtl (s : State) (r : Region) : (s.setRegion r).msixCtl = s.msixCtl := rfl
@[simp] theorem setRegion_hdm (s : State) (r : Region) : (s.setRegion r).hdm = s.hdm := rfl
@[simp] theorem setRegion_masks (s : State) (r : Region) : (s.setRegion r).masks = s.masks := rfl
@[simp] theorem setRegion_newMasks (s : State) (r : Region) : (s.setRegion r).newMasks = s.newMasks := rfl
@[simp] theorem setRegion_aports (s : State) (r : Region) : (s.setRegion r).aports = s.aports := rfl
@[simp] theorem setRegion_reqs (s : State) (r : Region) : (s.setRegion r).reqs = s.reqs := rfl
@[simp] theorem setRegion_remoteReads (s : State) (r : Region) : (s.setRegion r).remoteReads = s.remoteReads := rfl
@[simp] theorem setRegion_answers (s : State) (r : Region) : (s.setRegion r).answers = s.answers := rfl
@[simp] theorem setRegion_farEnds (s : State) (r : Region) : (s.setRegion r).farEnds = s.farEnds := rfl
@[simp] theorem setRegion_peerWaits (s : State) (r : Region) : (s.setRegion r).peerWaits = s.peerWaits := rfl
@[simp] theorem setRegion_recQueue (s : State) (r : Region) : (s.setRegion r).recQueue = s.recQueue := rfl
@[simp] theorem setRegion_sectors (s : State) (r : Region) : (s.setRegion r).sectors = s.sectors := rfl
@[simp] theorem setRegion_power (s : State) (r : Region) : (s.setRegion r).power = s.power := rfl
@[simp] theorem setRegion_lastRefresh (s : State) (r : Region) : (s.setRegion r).lastRefresh = s.lastRefresh := rfl
@[simp] theorem setRegion_corrected (s : State) (r : Region) : (s.setRegion r).corrected = s.corrected := rfl
@[simp] theorem setRegion_talert (s : State) (r : Region) : (s.setRegion r).talert = s.talert := rfl
@[simp] theorem setRegion_thyst (s : State) (r : Region) : (s.setRegion r).thyst = s.thyst := rfl
@[simp] theorem setRegion_tstress (s : State) (r : Region) : (s.setRegion r).tstress = s.tstress := rfl
@[simp] theorem setRegion_fqsel (s : State) (r : Region) : (s.setRegion r).fqsel = s.fqsel := rfl
@[simp] theorem setRegion_prstBay (s : State) (r : Region) : (s.setRegion r).prstBay = s.prstBay := rfl
@[simp] theorem setRegion_prstRun (s : State) (r : Region) : (s.setRegion r).prstRun = s.prstRun := rfl
@[simp] theorem setRegion_downBays (s : State) (r : Region) : (s.setRegion r).downBays = s.downBays := rfl
@[simp] theorem setRegion_evlprod (s : State) (r : Region) : (s.setRegion r).evlprod = s.evlprod := rfl
@[simp] theorem setRegion_evlog (s : State) (r : Region) : (s.setRegion r).evlog = s.evlog := rfl
@[simp] theorem setRegion_bootst (s : State) (r : Region) : (s.setRegion r).bootst = s.bootst := rfl
@[simp] theorem setRegion_rcvaddr (s : State) (r : Region) : (s.setRegion r).rcvaddr = s.rcvaddr := rfl
@[simp] theorem setRegion_rcvRun (s : State) (r : Region) : (s.setRegion r).rcvRun = s.rcvRun := rfl
@[simp] theorem setRegion_fwImage (s : State) (r : Region) : (s.setRegion r).fwImage = s.fwImage := rfl
@[simp] theorem setRegion_blobImage (s : State) (r : Region) : (s.setRegion r).blobImage = s.blobImage := rfl
@[simp] theorem setRegion_hostReads (s : State) (r : Region) : (s.setRegion r).hostReads = s.hostReads := rfl
@[simp] theorem setRegion_nonce (s : State) (r : Region) : (s.setRegion r).nonce = s.nonce := rfl
@[simp] theorem setRegion_nonceHeld (s : State) (r : Region) : (s.setRegion r).nonceHeld = s.nonceHeld := rfl
@[simp] theorem setRegion_attst (s : State) (r : Region) : (s.setRegion r).attst = s.attst := rfl
@[simp] theorem setRegion_sig (s : State) (r : Region) : (s.setRegion r).sig = s.sig := rfl
@[simp] theorem setRegion_kills (s : State) (r : Region) : (s.setRegion r).kills = s.kills := rfl

@[simp] theorem dropRegion_cyc (s : State) (i : Nat) : (s.dropRegion i).cyc = s.cyc := rfl
@[simp] theorem dropRegion_turns (s : State) (i : Nat) : (s.dropRegion i).turns = s.turns := rfl
@[simp] theorem dropRegion_turnNo (s : State) (i : Nat) : (s.dropRegion i).turnNo = s.turnNo := rfl
@[simp] theorem dropRegion_freeNo (s : State) (i : Nat) : (s.dropRegion i).freeNo = s.freeNo := rfl
@[simp] theorem dropRegion_act (s : State) (i : Nat) : (s.dropRegion i).act = s.act := rfl
@[simp] theorem dropRegion_defer (s : State) (i : Nat) : (s.dropRegion i).defer = s.defer := rfl
@[simp] theorem dropRegion_package (s : State) (i : Nat) : (s.dropRegion i).package = s.package := rfl
@[simp] theorem dropRegion_recovery (s : State) (i : Nat) : (s.dropRegion i).recovery = s.recovery := rfl
@[simp] theorem dropRegion_mem (s : State) (i : Nat) : (s.dropRegion i).mem = s.mem := rfl
@[simp] theorem dropRegion_scratch (s : State) (i : Nat) : (s.dropRegion i).scratch = s.scratch := rfl
@[simp] theorem dropRegion_poison (s : State) (i : Nat) : (s.dropRegion i).poison = s.poison := rfl
@[simp] theorem dropRegion_scratchPoison (s : State) (i : Nat) : (s.dropRegion i).scratchPoison = s.scratchPoison := rfl
@[simp] theorem dropRegion_versions (s : State) (i : Nat) : (s.dropRegion i).versions = s.versions := rfl
@[simp] theorem dropRegion_barriers (s : State) (i : Nat) : (s.dropRegion i).barriers = s.barriers := rfl
@[simp] theorem dropRegion_frames (s : State) (i : Nat) : (s.dropRegion i).frames = s.frames := rfl
@[simp] theorem dropRegion_modes (s : State) (i : Nat) : (s.dropRegion i).modes = s.modes := rfl
@[simp] theorem dropRegion_hostLines (s : State) (i : Nat) : (s.dropRegion i).hostLines = s.hostLines := rfl
@[simp] theorem dropRegion_vldWaits (s : State) (i : Nat) : (s.dropRegion i).vldWaits = s.vldWaits := rfl
@[simp] theorem dropRegion_vstQueue (s : State) (i : Nat) : (s.dropRegion i).vstQueue = s.vstQueue := rfl
@[simp] theorem dropRegion_tlb (s : State) (i : Nat) : (s.dropRegion i).tlb = s.tlb := rfl
@[simp] theorem dropRegion_invals (s : State) (i : Nat) : (s.dropRegion i).invals = s.invals := rfl
@[simp] theorem dropRegion_ctxs (s : State) (i : Nat) : (s.dropRegion i).ctxs = s.ctxs := rfl
@[simp] theorem dropRegion_cores (s : State) (i : Nat) : (s.dropRegion i).cores = s.cores := rfl
@[simp] theorem dropRegion_wires (s : State) (i : Nat) : (s.dropRegion i).wires = s.wires := rfl
@[simp] theorem dropRegion_landings (s : State) (i : Nat) : (s.dropRegion i).landings = s.landings := rfl
@[simp] theorem dropRegion_flights (s : State) (i : Nat) : (s.dropRegion i).flights = s.flights := rfl
@[simp] theorem dropRegion_nextId (s : State) (i : Nat) : (s.dropRegion i).nextId = s.nextId := rfl
@[simp] theorem dropRegion_ports (s : State) (i : Nat) : (s.dropRegion i).ports = s.ports := rfl
@[simp] theorem dropRegion_cfgops (s : State) (i : Nat) : (s.dropRegion i).cfgops = s.cfgops := rfl
@[simp] theorem dropRegion_saved (s : State) (i : Nat) : (s.dropRegion i).saved = s.saved := rfl
@[simp] theorem dropRegion_launches (s : State) (i : Nat) : (s.dropRegion i).launches = s.launches := rfl
@[simp] theorem dropRegion_placeCtl (s : State) (i : Nat) : (s.dropRegion i).placeCtl = s.placeCtl := rfl
@[simp] theorem dropRegion_streams (s : State) (i : Nat) : (s.dropRegion i).streams = s.streams := rfl
@[simp] theorem dropRegion_lastSector (s : State) (i : Nat) : (s.dropRegion i).lastSector = s.lastSector := rfl
@[simp] theorem dropRegion_score (s : State) (i : Nat) : (s.dropRegion i).score = s.score := rfl
@[simp] theorem dropRegion_lastCtx (s : State) (i : Nat) : (s.dropRegion i).lastCtx = s.lastCtx := rfl
@[simp] theorem dropRegion_links (s : State) (i : Nat) : (s.dropRegion i).links = s.links := rfl
@[simp] theorem dropRegion_rays (s : State) (i : Nat) : (s.dropRegion i).rays = s.rays := rfl
@[simp] theorem dropRegion_islands (s : State) (i : Nat) : (s.dropRegion i).islands = s.islands := rfl
@[simp] theorem dropRegion_chain (s : State) (i : Nat) : (s.dropRegion i).chain = s.chain := rfl
@[simp] theorem dropRegion_rasters (s : State) (i : Nat) : (s.dropRegion i).rasters = s.rasters := rfl
@[simp] theorem dropRegion_tileTags (s : State) (i : Nat) : (s.dropRegion i).tileTags = s.tileTags := rfl
@[simp] theorem dropRegion_blendItems (s : State) (i : Nat) : (s.dropRegion i).blendItems = s.blendItems := rfl
@[simp] theorem dropRegion_isects (s : State) (i : Nat) : (s.dropRegion i).isects = s.isects := rfl
@[simp] theorem dropRegion_bushels (s : State) (i : Nat) : (s.dropRegion i).bushels = s.bushels := rfl
@[simp] theorem dropRegion_mrings (s : State) (i : Nat) : (s.dropRegion i).mrings = s.mrings := rfl
@[simp] theorem dropRegion_hostQs (s : State) (i : Nat) : (s.dropRegion i).hostQs = s.hostQs := rfl
@[simp] theorem dropRegion_msixTable (s : State) (i : Nat) : (s.dropRegion i).msixTable = s.msixTable := rfl
@[simp] theorem dropRegion_msixPend (s : State) (i : Nat) : (s.dropRegion i).msixPend = s.msixPend := rfl
@[simp] theorem dropRegion_msgs (s : State) (i : Nat) : (s.dropRegion i).msgs = s.msgs := rfl
@[simp] theorem dropRegion_sentMsgs (s : State) (i : Nat) : (s.dropRegion i).sentMsgs = s.sentMsgs := rfl
@[simp] theorem dropRegion_msixCtl (s : State) (i : Nat) : (s.dropRegion i).msixCtl = s.msixCtl := rfl
@[simp] theorem dropRegion_hdm (s : State) (i : Nat) : (s.dropRegion i).hdm = s.hdm := rfl
@[simp] theorem dropRegion_masks (s : State) (i : Nat) : (s.dropRegion i).masks = s.masks := rfl
@[simp] theorem dropRegion_newMasks (s : State) (i : Nat) : (s.dropRegion i).newMasks = s.newMasks := rfl
@[simp] theorem dropRegion_aports (s : State) (i : Nat) : (s.dropRegion i).aports = s.aports := rfl
@[simp] theorem dropRegion_reqs (s : State) (i : Nat) : (s.dropRegion i).reqs = s.reqs := rfl
@[simp] theorem dropRegion_remoteReads (s : State) (i : Nat) : (s.dropRegion i).remoteReads = s.remoteReads := rfl
@[simp] theorem dropRegion_answers (s : State) (i : Nat) : (s.dropRegion i).answers = s.answers := rfl
@[simp] theorem dropRegion_farEnds (s : State) (i : Nat) : (s.dropRegion i).farEnds = s.farEnds := rfl
@[simp] theorem dropRegion_peerWaits (s : State) (i : Nat) : (s.dropRegion i).peerWaits = s.peerWaits := rfl
@[simp] theorem dropRegion_recQueue (s : State) (i : Nat) : (s.dropRegion i).recQueue = s.recQueue := rfl
@[simp] theorem dropRegion_sectors (s : State) (i : Nat) : (s.dropRegion i).sectors = s.sectors := rfl
@[simp] theorem dropRegion_power (s : State) (i : Nat) : (s.dropRegion i).power = s.power := rfl
@[simp] theorem dropRegion_lastRefresh (s : State) (i : Nat) : (s.dropRegion i).lastRefresh = s.lastRefresh := rfl
@[simp] theorem dropRegion_corrected (s : State) (i : Nat) : (s.dropRegion i).corrected = s.corrected := rfl
@[simp] theorem dropRegion_talert (s : State) (i : Nat) : (s.dropRegion i).talert = s.talert := rfl
@[simp] theorem dropRegion_thyst (s : State) (i : Nat) : (s.dropRegion i).thyst = s.thyst := rfl
@[simp] theorem dropRegion_tstress (s : State) (i : Nat) : (s.dropRegion i).tstress = s.tstress := rfl
@[simp] theorem dropRegion_fqsel (s : State) (i : Nat) : (s.dropRegion i).fqsel = s.fqsel := rfl
@[simp] theorem dropRegion_prstBay (s : State) (i : Nat) : (s.dropRegion i).prstBay = s.prstBay := rfl
@[simp] theorem dropRegion_prstRun (s : State) (i : Nat) : (s.dropRegion i).prstRun = s.prstRun := rfl
@[simp] theorem dropRegion_downBays (s : State) (i : Nat) : (s.dropRegion i).downBays = s.downBays := rfl
@[simp] theorem dropRegion_evlprod (s : State) (i : Nat) : (s.dropRegion i).evlprod = s.evlprod := rfl
@[simp] theorem dropRegion_evlog (s : State) (i : Nat) : (s.dropRegion i).evlog = s.evlog := rfl
@[simp] theorem dropRegion_bootst (s : State) (i : Nat) : (s.dropRegion i).bootst = s.bootst := rfl
@[simp] theorem dropRegion_rcvaddr (s : State) (i : Nat) : (s.dropRegion i).rcvaddr = s.rcvaddr := rfl
@[simp] theorem dropRegion_rcvRun (s : State) (i : Nat) : (s.dropRegion i).rcvRun = s.rcvRun := rfl
@[simp] theorem dropRegion_fwImage (s : State) (i : Nat) : (s.dropRegion i).fwImage = s.fwImage := rfl
@[simp] theorem dropRegion_blobImage (s : State) (i : Nat) : (s.dropRegion i).blobImage = s.blobImage := rfl
@[simp] theorem dropRegion_hostReads (s : State) (i : Nat) : (s.dropRegion i).hostReads = s.hostReads := rfl
@[simp] theorem dropRegion_nonce (s : State) (i : Nat) : (s.dropRegion i).nonce = s.nonce := rfl
@[simp] theorem dropRegion_nonceHeld (s : State) (i : Nat) : (s.dropRegion i).nonceHeld = s.nonceHeld := rfl
@[simp] theorem dropRegion_attst (s : State) (i : Nat) : (s.dropRegion i).attst = s.attst := rfl
@[simp] theorem dropRegion_sig (s : State) (i : Nat) : (s.dropRegion i).sig = s.sig := rfl
@[simp] theorem dropRegion_kills (s : State) (i : Nat) : (s.dropRegion i).kills = s.kills := rfl

@[simp] theorem updCore_cyc (s : State) (c : Nat) (f : CoreSt → CoreSt) : (s.updCore c f).cyc = s.cyc := rfl
@[simp] theorem updCore_turns (s : State) (c : Nat) (f : CoreSt → CoreSt) : (s.updCore c f).turns = s.turns := rfl
@[simp] theorem updCore_turnNo (s : State) (c : Nat) (f : CoreSt → CoreSt) : (s.updCore c f).turnNo = s.turnNo := rfl
@[simp] theorem updCore_freeNo (s : State) (c : Nat) (f : CoreSt → CoreSt) : (s.updCore c f).freeNo = s.freeNo := rfl
@[simp] theorem updCore_act (s : State) (c : Nat) (f : CoreSt → CoreSt) : (s.updCore c f).act = s.act := rfl
@[simp] theorem updCore_defer (s : State) (c : Nat) (f : CoreSt → CoreSt) : (s.updCore c f).defer = s.defer := rfl
@[simp] theorem updCore_package (s : State) (c : Nat) (f : CoreSt → CoreSt) : (s.updCore c f).package = s.package := rfl
@[simp] theorem updCore_recovery (s : State) (c : Nat) (f : CoreSt → CoreSt) : (s.updCore c f).recovery = s.recovery := rfl
@[simp] theorem updCore_mem (s : State) (c : Nat) (f : CoreSt → CoreSt) : (s.updCore c f).mem = s.mem := rfl
@[simp] theorem updCore_scratch (s : State) (c : Nat) (f : CoreSt → CoreSt) : (s.updCore c f).scratch = s.scratch := rfl
@[simp] theorem updCore_poison (s : State) (c : Nat) (f : CoreSt → CoreSt) : (s.updCore c f).poison = s.poison := rfl
@[simp] theorem updCore_scratchPoison (s : State) (c : Nat) (f : CoreSt → CoreSt) : (s.updCore c f).scratchPoison = s.scratchPoison := rfl
@[simp] theorem updCore_versions (s : State) (c : Nat) (f : CoreSt → CoreSt) : (s.updCore c f).versions = s.versions := rfl
@[simp] theorem updCore_barriers (s : State) (c : Nat) (f : CoreSt → CoreSt) : (s.updCore c f).barriers = s.barriers := rfl
@[simp] theorem updCore_frames (s : State) (c : Nat) (f : CoreSt → CoreSt) : (s.updCore c f).frames = s.frames := rfl
@[simp] theorem updCore_modes (s : State) (c : Nat) (f : CoreSt → CoreSt) : (s.updCore c f).modes = s.modes := rfl
@[simp] theorem updCore_hostLines (s : State) (c : Nat) (f : CoreSt → CoreSt) : (s.updCore c f).hostLines = s.hostLines := rfl
@[simp] theorem updCore_vldWaits (s : State) (c : Nat) (f : CoreSt → CoreSt) : (s.updCore c f).vldWaits = s.vldWaits := rfl
@[simp] theorem updCore_vstQueue (s : State) (c : Nat) (f : CoreSt → CoreSt) : (s.updCore c f).vstQueue = s.vstQueue := rfl
@[simp] theorem updCore_tlb (s : State) (c : Nat) (f : CoreSt → CoreSt) : (s.updCore c f).tlb = s.tlb := rfl
@[simp] theorem updCore_invals (s : State) (c : Nat) (f : CoreSt → CoreSt) : (s.updCore c f).invals = s.invals := rfl
@[simp] theorem updCore_ctxs (s : State) (c : Nat) (f : CoreSt → CoreSt) : (s.updCore c f).ctxs = s.ctxs := rfl
@[simp] theorem updCore_regions (s : State) (c : Nat) (f : CoreSt → CoreSt) : (s.updCore c f).regions = s.regions := rfl
@[simp] theorem updCore_wires (s : State) (c : Nat) (f : CoreSt → CoreSt) : (s.updCore c f).wires = s.wires := rfl
@[simp] theorem updCore_landings (s : State) (c : Nat) (f : CoreSt → CoreSt) : (s.updCore c f).landings = s.landings := rfl
@[simp] theorem updCore_flights (s : State) (c : Nat) (f : CoreSt → CoreSt) : (s.updCore c f).flights = s.flights := rfl
@[simp] theorem updCore_nextId (s : State) (c : Nat) (f : CoreSt → CoreSt) : (s.updCore c f).nextId = s.nextId := rfl
@[simp] theorem updCore_ports (s : State) (c : Nat) (f : CoreSt → CoreSt) : (s.updCore c f).ports = s.ports := rfl
@[simp] theorem updCore_cfgops (s : State) (c : Nat) (f : CoreSt → CoreSt) : (s.updCore c f).cfgops = s.cfgops := rfl
@[simp] theorem updCore_saved (s : State) (c : Nat) (f : CoreSt → CoreSt) : (s.updCore c f).saved = s.saved := rfl
@[simp] theorem updCore_launches (s : State) (c : Nat) (f : CoreSt → CoreSt) : (s.updCore c f).launches = s.launches := rfl
@[simp] theorem updCore_placeCtl (s : State) (c : Nat) (f : CoreSt → CoreSt) : (s.updCore c f).placeCtl = s.placeCtl := rfl
@[simp] theorem updCore_streams (s : State) (c : Nat) (f : CoreSt → CoreSt) : (s.updCore c f).streams = s.streams := rfl
@[simp] theorem updCore_lastSector (s : State) (c : Nat) (f : CoreSt → CoreSt) : (s.updCore c f).lastSector = s.lastSector := rfl
@[simp] theorem updCore_score (s : State) (c : Nat) (f : CoreSt → CoreSt) : (s.updCore c f).score = s.score := rfl
@[simp] theorem updCore_lastCtx (s : State) (c : Nat) (f : CoreSt → CoreSt) : (s.updCore c f).lastCtx = s.lastCtx := rfl
@[simp] theorem updCore_links (s : State) (c : Nat) (f : CoreSt → CoreSt) : (s.updCore c f).links = s.links := rfl
@[simp] theorem updCore_rays (s : State) (c : Nat) (f : CoreSt → CoreSt) : (s.updCore c f).rays = s.rays := rfl
@[simp] theorem updCore_islands (s : State) (c : Nat) (f : CoreSt → CoreSt) : (s.updCore c f).islands = s.islands := rfl
@[simp] theorem updCore_chain (s : State) (c : Nat) (f : CoreSt → CoreSt) : (s.updCore c f).chain = s.chain := rfl
@[simp] theorem updCore_rasters (s : State) (c : Nat) (f : CoreSt → CoreSt) : (s.updCore c f).rasters = s.rasters := rfl
@[simp] theorem updCore_tileTags (s : State) (c : Nat) (f : CoreSt → CoreSt) : (s.updCore c f).tileTags = s.tileTags := rfl
@[simp] theorem updCore_blendItems (s : State) (c : Nat) (f : CoreSt → CoreSt) : (s.updCore c f).blendItems = s.blendItems := rfl
@[simp] theorem updCore_isects (s : State) (c : Nat) (f : CoreSt → CoreSt) : (s.updCore c f).isects = s.isects := rfl
@[simp] theorem updCore_bushels (s : State) (c : Nat) (f : CoreSt → CoreSt) : (s.updCore c f).bushels = s.bushels := rfl
@[simp] theorem updCore_mrings (s : State) (c : Nat) (f : CoreSt → CoreSt) : (s.updCore c f).mrings = s.mrings := rfl
@[simp] theorem updCore_hostQs (s : State) (c : Nat) (f : CoreSt → CoreSt) : (s.updCore c f).hostQs = s.hostQs := rfl
@[simp] theorem updCore_msixTable (s : State) (c : Nat) (f : CoreSt → CoreSt) : (s.updCore c f).msixTable = s.msixTable := rfl
@[simp] theorem updCore_msixPend (s : State) (c : Nat) (f : CoreSt → CoreSt) : (s.updCore c f).msixPend = s.msixPend := rfl
@[simp] theorem updCore_msgs (s : State) (c : Nat) (f : CoreSt → CoreSt) : (s.updCore c f).msgs = s.msgs := rfl
@[simp] theorem updCore_sentMsgs (s : State) (c : Nat) (f : CoreSt → CoreSt) : (s.updCore c f).sentMsgs = s.sentMsgs := rfl
@[simp] theorem updCore_msixCtl (s : State) (c : Nat) (f : CoreSt → CoreSt) : (s.updCore c f).msixCtl = s.msixCtl := rfl
@[simp] theorem updCore_hdm (s : State) (c : Nat) (f : CoreSt → CoreSt) : (s.updCore c f).hdm = s.hdm := rfl
@[simp] theorem updCore_masks (s : State) (c : Nat) (f : CoreSt → CoreSt) : (s.updCore c f).masks = s.masks := rfl
@[simp] theorem updCore_newMasks (s : State) (c : Nat) (f : CoreSt → CoreSt) : (s.updCore c f).newMasks = s.newMasks := rfl
@[simp] theorem updCore_aports (s : State) (c : Nat) (f : CoreSt → CoreSt) : (s.updCore c f).aports = s.aports := rfl
@[simp] theorem updCore_reqs (s : State) (c : Nat) (f : CoreSt → CoreSt) : (s.updCore c f).reqs = s.reqs := rfl
@[simp] theorem updCore_remoteReads (s : State) (c : Nat) (f : CoreSt → CoreSt) : (s.updCore c f).remoteReads = s.remoteReads := rfl
@[simp] theorem updCore_answers (s : State) (c : Nat) (f : CoreSt → CoreSt) : (s.updCore c f).answers = s.answers := rfl
@[simp] theorem updCore_farEnds (s : State) (c : Nat) (f : CoreSt → CoreSt) : (s.updCore c f).farEnds = s.farEnds := rfl
@[simp] theorem updCore_peerWaits (s : State) (c : Nat) (f : CoreSt → CoreSt) : (s.updCore c f).peerWaits = s.peerWaits := rfl
@[simp] theorem updCore_recQueue (s : State) (c : Nat) (f : CoreSt → CoreSt) : (s.updCore c f).recQueue = s.recQueue := rfl
@[simp] theorem updCore_sectors (s : State) (c : Nat) (f : CoreSt → CoreSt) : (s.updCore c f).sectors = s.sectors := rfl
@[simp] theorem updCore_power (s : State) (c : Nat) (f : CoreSt → CoreSt) : (s.updCore c f).power = s.power := rfl
@[simp] theorem updCore_lastRefresh (s : State) (c : Nat) (f : CoreSt → CoreSt) : (s.updCore c f).lastRefresh = s.lastRefresh := rfl
@[simp] theorem updCore_corrected (s : State) (c : Nat) (f : CoreSt → CoreSt) : (s.updCore c f).corrected = s.corrected := rfl
@[simp] theorem updCore_talert (s : State) (c : Nat) (f : CoreSt → CoreSt) : (s.updCore c f).talert = s.talert := rfl
@[simp] theorem updCore_thyst (s : State) (c : Nat) (f : CoreSt → CoreSt) : (s.updCore c f).thyst = s.thyst := rfl
@[simp] theorem updCore_tstress (s : State) (c : Nat) (f : CoreSt → CoreSt) : (s.updCore c f).tstress = s.tstress := rfl
@[simp] theorem updCore_fqsel (s : State) (c : Nat) (f : CoreSt → CoreSt) : (s.updCore c f).fqsel = s.fqsel := rfl
@[simp] theorem updCore_prstBay (s : State) (c : Nat) (f : CoreSt → CoreSt) : (s.updCore c f).prstBay = s.prstBay := rfl
@[simp] theorem updCore_prstRun (s : State) (c : Nat) (f : CoreSt → CoreSt) : (s.updCore c f).prstRun = s.prstRun := rfl
@[simp] theorem updCore_downBays (s : State) (c : Nat) (f : CoreSt → CoreSt) : (s.updCore c f).downBays = s.downBays := rfl
@[simp] theorem updCore_evlprod (s : State) (c : Nat) (f : CoreSt → CoreSt) : (s.updCore c f).evlprod = s.evlprod := rfl
@[simp] theorem updCore_evlog (s : State) (c : Nat) (f : CoreSt → CoreSt) : (s.updCore c f).evlog = s.evlog := rfl
@[simp] theorem updCore_bootst (s : State) (c : Nat) (f : CoreSt → CoreSt) : (s.updCore c f).bootst = s.bootst := rfl
@[simp] theorem updCore_rcvaddr (s : State) (c : Nat) (f : CoreSt → CoreSt) : (s.updCore c f).rcvaddr = s.rcvaddr := rfl
@[simp] theorem updCore_rcvRun (s : State) (c : Nat) (f : CoreSt → CoreSt) : (s.updCore c f).rcvRun = s.rcvRun := rfl
@[simp] theorem updCore_fwImage (s : State) (c : Nat) (f : CoreSt → CoreSt) : (s.updCore c f).fwImage = s.fwImage := rfl
@[simp] theorem updCore_blobImage (s : State) (c : Nat) (f : CoreSt → CoreSt) : (s.updCore c f).blobImage = s.blobImage := rfl
@[simp] theorem updCore_hostReads (s : State) (c : Nat) (f : CoreSt → CoreSt) : (s.updCore c f).hostReads = s.hostReads := rfl
@[simp] theorem updCore_nonce (s : State) (c : Nat) (f : CoreSt → CoreSt) : (s.updCore c f).nonce = s.nonce := rfl
@[simp] theorem updCore_nonceHeld (s : State) (c : Nat) (f : CoreSt → CoreSt) : (s.updCore c f).nonceHeld = s.nonceHeld := rfl
@[simp] theorem updCore_attst (s : State) (c : Nat) (f : CoreSt → CoreSt) : (s.updCore c f).attst = s.attst := rfl
@[simp] theorem updCore_sig (s : State) (c : Nat) (f : CoreSt → CoreSt) : (s.updCore c f).sig = s.sig := rfl
@[simp] theorem updCore_kills (s : State) (c : Nat) (f : CoreSt → CoreSt) : (s.updCore c f).kills = s.kills := rfl

@[simp] theorem setWire_cyc (s : State) (k : Nat) (w : Wire) : (s.setWire k w).cyc = s.cyc := rfl
@[simp] theorem setWire_turns (s : State) (k : Nat) (w : Wire) : (s.setWire k w).turns = s.turns := rfl
@[simp] theorem setWire_turnNo (s : State) (k : Nat) (w : Wire) : (s.setWire k w).turnNo = s.turnNo := rfl
@[simp] theorem setWire_freeNo (s : State) (k : Nat) (w : Wire) : (s.setWire k w).freeNo = s.freeNo := rfl
@[simp] theorem setWire_act (s : State) (k : Nat) (w : Wire) : (s.setWire k w).act = s.act := rfl
@[simp] theorem setWire_defer (s : State) (k : Nat) (w : Wire) : (s.setWire k w).defer = s.defer := rfl
@[simp] theorem setWire_package (s : State) (k : Nat) (w : Wire) : (s.setWire k w).package = s.package := rfl
@[simp] theorem setWire_recovery (s : State) (k : Nat) (w : Wire) : (s.setWire k w).recovery = s.recovery := rfl
@[simp] theorem setWire_mem (s : State) (k : Nat) (w : Wire) : (s.setWire k w).mem = s.mem := rfl
@[simp] theorem setWire_scratch (s : State) (k : Nat) (w : Wire) : (s.setWire k w).scratch = s.scratch := rfl
@[simp] theorem setWire_poison (s : State) (k : Nat) (w : Wire) : (s.setWire k w).poison = s.poison := rfl
@[simp] theorem setWire_scratchPoison (s : State) (k : Nat) (w : Wire) : (s.setWire k w).scratchPoison = s.scratchPoison := rfl
@[simp] theorem setWire_versions (s : State) (k : Nat) (w : Wire) : (s.setWire k w).versions = s.versions := rfl
@[simp] theorem setWire_barriers (s : State) (k : Nat) (w : Wire) : (s.setWire k w).barriers = s.barriers := rfl
@[simp] theorem setWire_frames (s : State) (k : Nat) (w : Wire) : (s.setWire k w).frames = s.frames := rfl
@[simp] theorem setWire_modes (s : State) (k : Nat) (w : Wire) : (s.setWire k w).modes = s.modes := rfl
@[simp] theorem setWire_hostLines (s : State) (k : Nat) (w : Wire) : (s.setWire k w).hostLines = s.hostLines := rfl
@[simp] theorem setWire_vldWaits (s : State) (k : Nat) (w : Wire) : (s.setWire k w).vldWaits = s.vldWaits := rfl
@[simp] theorem setWire_vstQueue (s : State) (k : Nat) (w : Wire) : (s.setWire k w).vstQueue = s.vstQueue := rfl
@[simp] theorem setWire_tlb (s : State) (k : Nat) (w : Wire) : (s.setWire k w).tlb = s.tlb := rfl
@[simp] theorem setWire_invals (s : State) (k : Nat) (w : Wire) : (s.setWire k w).invals = s.invals := rfl
@[simp] theorem setWire_ctxs (s : State) (k : Nat) (w : Wire) : (s.setWire k w).ctxs = s.ctxs := rfl
@[simp] theorem setWire_cores (s : State) (k : Nat) (w : Wire) : (s.setWire k w).cores = s.cores := rfl
@[simp] theorem setWire_regions (s : State) (k : Nat) (w : Wire) : (s.setWire k w).regions = s.regions := rfl
@[simp] theorem setWire_landings (s : State) (k : Nat) (w : Wire) : (s.setWire k w).landings = s.landings := rfl
@[simp] theorem setWire_flights (s : State) (k : Nat) (w : Wire) : (s.setWire k w).flights = s.flights := rfl
@[simp] theorem setWire_nextId (s : State) (k : Nat) (w : Wire) : (s.setWire k w).nextId = s.nextId := rfl
@[simp] theorem setWire_ports (s : State) (k : Nat) (w : Wire) : (s.setWire k w).ports = s.ports := rfl
@[simp] theorem setWire_cfgops (s : State) (k : Nat) (w : Wire) : (s.setWire k w).cfgops = s.cfgops := rfl
@[simp] theorem setWire_saved (s : State) (k : Nat) (w : Wire) : (s.setWire k w).saved = s.saved := rfl
@[simp] theorem setWire_launches (s : State) (k : Nat) (w : Wire) : (s.setWire k w).launches = s.launches := rfl
@[simp] theorem setWire_placeCtl (s : State) (k : Nat) (w : Wire) : (s.setWire k w).placeCtl = s.placeCtl := rfl
@[simp] theorem setWire_streams (s : State) (k : Nat) (w : Wire) : (s.setWire k w).streams = s.streams := rfl
@[simp] theorem setWire_lastSector (s : State) (k : Nat) (w : Wire) : (s.setWire k w).lastSector = s.lastSector := rfl
@[simp] theorem setWire_score (s : State) (k : Nat) (w : Wire) : (s.setWire k w).score = s.score := rfl
@[simp] theorem setWire_lastCtx (s : State) (k : Nat) (w : Wire) : (s.setWire k w).lastCtx = s.lastCtx := rfl
@[simp] theorem setWire_links (s : State) (k : Nat) (w : Wire) : (s.setWire k w).links = s.links := rfl
@[simp] theorem setWire_rays (s : State) (k : Nat) (w : Wire) : (s.setWire k w).rays = s.rays := rfl
@[simp] theorem setWire_islands (s : State) (k : Nat) (w : Wire) : (s.setWire k w).islands = s.islands := rfl
@[simp] theorem setWire_chain (s : State) (k : Nat) (w : Wire) : (s.setWire k w).chain = s.chain := rfl
@[simp] theorem setWire_rasters (s : State) (k : Nat) (w : Wire) : (s.setWire k w).rasters = s.rasters := rfl
@[simp] theorem setWire_tileTags (s : State) (k : Nat) (w : Wire) : (s.setWire k w).tileTags = s.tileTags := rfl
@[simp] theorem setWire_blendItems (s : State) (k : Nat) (w : Wire) : (s.setWire k w).blendItems = s.blendItems := rfl
@[simp] theorem setWire_isects (s : State) (k : Nat) (w : Wire) : (s.setWire k w).isects = s.isects := rfl
@[simp] theorem setWire_bushels (s : State) (k : Nat) (w : Wire) : (s.setWire k w).bushels = s.bushels := rfl
@[simp] theorem setWire_mrings (s : State) (k : Nat) (w : Wire) : (s.setWire k w).mrings = s.mrings := rfl
@[simp] theorem setWire_hostQs (s : State) (k : Nat) (w : Wire) : (s.setWire k w).hostQs = s.hostQs := rfl
@[simp] theorem setWire_msixTable (s : State) (k : Nat) (w : Wire) : (s.setWire k w).msixTable = s.msixTable := rfl
@[simp] theorem setWire_msixPend (s : State) (k : Nat) (w : Wire) : (s.setWire k w).msixPend = s.msixPend := rfl
@[simp] theorem setWire_msgs (s : State) (k : Nat) (w : Wire) : (s.setWire k w).msgs = s.msgs := rfl
@[simp] theorem setWire_sentMsgs (s : State) (k : Nat) (w : Wire) : (s.setWire k w).sentMsgs = s.sentMsgs := rfl
@[simp] theorem setWire_msixCtl (s : State) (k : Nat) (w : Wire) : (s.setWire k w).msixCtl = s.msixCtl := rfl
@[simp] theorem setWire_hdm (s : State) (k : Nat) (w : Wire) : (s.setWire k w).hdm = s.hdm := rfl
@[simp] theorem setWire_masks (s : State) (k : Nat) (w : Wire) : (s.setWire k w).masks = s.masks := rfl
@[simp] theorem setWire_newMasks (s : State) (k : Nat) (w : Wire) : (s.setWire k w).newMasks = s.newMasks := rfl
@[simp] theorem setWire_aports (s : State) (k : Nat) (w : Wire) : (s.setWire k w).aports = s.aports := rfl
@[simp] theorem setWire_reqs (s : State) (k : Nat) (w : Wire) : (s.setWire k w).reqs = s.reqs := rfl
@[simp] theorem setWire_remoteReads (s : State) (k : Nat) (w : Wire) : (s.setWire k w).remoteReads = s.remoteReads := rfl
@[simp] theorem setWire_answers (s : State) (k : Nat) (w : Wire) : (s.setWire k w).answers = s.answers := rfl
@[simp] theorem setWire_farEnds (s : State) (k : Nat) (w : Wire) : (s.setWire k w).farEnds = s.farEnds := rfl
@[simp] theorem setWire_peerWaits (s : State) (k : Nat) (w : Wire) : (s.setWire k w).peerWaits = s.peerWaits := rfl
@[simp] theorem setWire_recQueue (s : State) (k : Nat) (w : Wire) : (s.setWire k w).recQueue = s.recQueue := rfl
@[simp] theorem setWire_sectors (s : State) (k : Nat) (w : Wire) : (s.setWire k w).sectors = s.sectors := rfl
@[simp] theorem setWire_power (s : State) (k : Nat) (w : Wire) : (s.setWire k w).power = s.power := rfl
@[simp] theorem setWire_lastRefresh (s : State) (k : Nat) (w : Wire) : (s.setWire k w).lastRefresh = s.lastRefresh := rfl
@[simp] theorem setWire_corrected (s : State) (k : Nat) (w : Wire) : (s.setWire k w).corrected = s.corrected := rfl
@[simp] theorem setWire_talert (s : State) (k : Nat) (w : Wire) : (s.setWire k w).talert = s.talert := rfl
@[simp] theorem setWire_thyst (s : State) (k : Nat) (w : Wire) : (s.setWire k w).thyst = s.thyst := rfl
@[simp] theorem setWire_tstress (s : State) (k : Nat) (w : Wire) : (s.setWire k w).tstress = s.tstress := rfl
@[simp] theorem setWire_fqsel (s : State) (k : Nat) (w : Wire) : (s.setWire k w).fqsel = s.fqsel := rfl
@[simp] theorem setWire_prstBay (s : State) (k : Nat) (w : Wire) : (s.setWire k w).prstBay = s.prstBay := rfl
@[simp] theorem setWire_prstRun (s : State) (k : Nat) (w : Wire) : (s.setWire k w).prstRun = s.prstRun := rfl
@[simp] theorem setWire_downBays (s : State) (k : Nat) (w : Wire) : (s.setWire k w).downBays = s.downBays := rfl
@[simp] theorem setWire_evlprod (s : State) (k : Nat) (w : Wire) : (s.setWire k w).evlprod = s.evlprod := rfl
@[simp] theorem setWire_evlog (s : State) (k : Nat) (w : Wire) : (s.setWire k w).evlog = s.evlog := rfl
@[simp] theorem setWire_bootst (s : State) (k : Nat) (w : Wire) : (s.setWire k w).bootst = s.bootst := rfl
@[simp] theorem setWire_rcvaddr (s : State) (k : Nat) (w : Wire) : (s.setWire k w).rcvaddr = s.rcvaddr := rfl
@[simp] theorem setWire_rcvRun (s : State) (k : Nat) (w : Wire) : (s.setWire k w).rcvRun = s.rcvRun := rfl
@[simp] theorem setWire_fwImage (s : State) (k : Nat) (w : Wire) : (s.setWire k w).fwImage = s.fwImage := rfl
@[simp] theorem setWire_blobImage (s : State) (k : Nat) (w : Wire) : (s.setWire k w).blobImage = s.blobImage := rfl
@[simp] theorem setWire_hostReads (s : State) (k : Nat) (w : Wire) : (s.setWire k w).hostReads = s.hostReads := rfl
@[simp] theorem setWire_nonce (s : State) (k : Nat) (w : Wire) : (s.setWire k w).nonce = s.nonce := rfl
@[simp] theorem setWire_nonceHeld (s : State) (k : Nat) (w : Wire) : (s.setWire k w).nonceHeld = s.nonceHeld := rfl
@[simp] theorem setWire_attst (s : State) (k : Nat) (w : Wire) : (s.setWire k w).attst = s.attst := rfl
@[simp] theorem setWire_sig (s : State) (k : Nat) (w : Wire) : (s.setWire k w).sig = s.sig := rfl
@[simp] theorem setWire_kills (s : State) (k : Nat) (w : Wire) : (s.setWire k w).kills = s.kills := rfl

@[simp] theorem updWire_cyc (s : State) (k : Nat) (f : Wire → Wire) : (s.updWire k f).cyc = s.cyc := rfl
@[simp] theorem updWire_turns (s : State) (k : Nat) (f : Wire → Wire) : (s.updWire k f).turns = s.turns := rfl
@[simp] theorem updWire_turnNo (s : State) (k : Nat) (f : Wire → Wire) : (s.updWire k f).turnNo = s.turnNo := rfl
@[simp] theorem updWire_freeNo (s : State) (k : Nat) (f : Wire → Wire) : (s.updWire k f).freeNo = s.freeNo := rfl
@[simp] theorem updWire_act (s : State) (k : Nat) (f : Wire → Wire) : (s.updWire k f).act = s.act := rfl
@[simp] theorem updWire_defer (s : State) (k : Nat) (f : Wire → Wire) : (s.updWire k f).defer = s.defer := rfl
@[simp] theorem updWire_package (s : State) (k : Nat) (f : Wire → Wire) : (s.updWire k f).package = s.package := rfl
@[simp] theorem updWire_recovery (s : State) (k : Nat) (f : Wire → Wire) : (s.updWire k f).recovery = s.recovery := rfl
@[simp] theorem updWire_mem (s : State) (k : Nat) (f : Wire → Wire) : (s.updWire k f).mem = s.mem := rfl
@[simp] theorem updWire_scratch (s : State) (k : Nat) (f : Wire → Wire) : (s.updWire k f).scratch = s.scratch := rfl
@[simp] theorem updWire_poison (s : State) (k : Nat) (f : Wire → Wire) : (s.updWire k f).poison = s.poison := rfl
@[simp] theorem updWire_scratchPoison (s : State) (k : Nat) (f : Wire → Wire) : (s.updWire k f).scratchPoison = s.scratchPoison := rfl
@[simp] theorem updWire_versions (s : State) (k : Nat) (f : Wire → Wire) : (s.updWire k f).versions = s.versions := rfl
@[simp] theorem updWire_barriers (s : State) (k : Nat) (f : Wire → Wire) : (s.updWire k f).barriers = s.barriers := rfl
@[simp] theorem updWire_frames (s : State) (k : Nat) (f : Wire → Wire) : (s.updWire k f).frames = s.frames := rfl
@[simp] theorem updWire_modes (s : State) (k : Nat) (f : Wire → Wire) : (s.updWire k f).modes = s.modes := rfl
@[simp] theorem updWire_hostLines (s : State) (k : Nat) (f : Wire → Wire) : (s.updWire k f).hostLines = s.hostLines := rfl
@[simp] theorem updWire_vldWaits (s : State) (k : Nat) (f : Wire → Wire) : (s.updWire k f).vldWaits = s.vldWaits := rfl
@[simp] theorem updWire_vstQueue (s : State) (k : Nat) (f : Wire → Wire) : (s.updWire k f).vstQueue = s.vstQueue := rfl
@[simp] theorem updWire_tlb (s : State) (k : Nat) (f : Wire → Wire) : (s.updWire k f).tlb = s.tlb := rfl
@[simp] theorem updWire_invals (s : State) (k : Nat) (f : Wire → Wire) : (s.updWire k f).invals = s.invals := rfl
@[simp] theorem updWire_ctxs (s : State) (k : Nat) (f : Wire → Wire) : (s.updWire k f).ctxs = s.ctxs := rfl
@[simp] theorem updWire_cores (s : State) (k : Nat) (f : Wire → Wire) : (s.updWire k f).cores = s.cores := rfl
@[simp] theorem updWire_regions (s : State) (k : Nat) (f : Wire → Wire) : (s.updWire k f).regions = s.regions := rfl
@[simp] theorem updWire_landings (s : State) (k : Nat) (f : Wire → Wire) : (s.updWire k f).landings = s.landings := rfl
@[simp] theorem updWire_flights (s : State) (k : Nat) (f : Wire → Wire) : (s.updWire k f).flights = s.flights := rfl
@[simp] theorem updWire_nextId (s : State) (k : Nat) (f : Wire → Wire) : (s.updWire k f).nextId = s.nextId := rfl
@[simp] theorem updWire_ports (s : State) (k : Nat) (f : Wire → Wire) : (s.updWire k f).ports = s.ports := rfl
@[simp] theorem updWire_cfgops (s : State) (k : Nat) (f : Wire → Wire) : (s.updWire k f).cfgops = s.cfgops := rfl
@[simp] theorem updWire_saved (s : State) (k : Nat) (f : Wire → Wire) : (s.updWire k f).saved = s.saved := rfl
@[simp] theorem updWire_launches (s : State) (k : Nat) (f : Wire → Wire) : (s.updWire k f).launches = s.launches := rfl
@[simp] theorem updWire_placeCtl (s : State) (k : Nat) (f : Wire → Wire) : (s.updWire k f).placeCtl = s.placeCtl := rfl
@[simp] theorem updWire_streams (s : State) (k : Nat) (f : Wire → Wire) : (s.updWire k f).streams = s.streams := rfl
@[simp] theorem updWire_lastSector (s : State) (k : Nat) (f : Wire → Wire) : (s.updWire k f).lastSector = s.lastSector := rfl
@[simp] theorem updWire_score (s : State) (k : Nat) (f : Wire → Wire) : (s.updWire k f).score = s.score := rfl
@[simp] theorem updWire_lastCtx (s : State) (k : Nat) (f : Wire → Wire) : (s.updWire k f).lastCtx = s.lastCtx := rfl
@[simp] theorem updWire_links (s : State) (k : Nat) (f : Wire → Wire) : (s.updWire k f).links = s.links := rfl
@[simp] theorem updWire_rays (s : State) (k : Nat) (f : Wire → Wire) : (s.updWire k f).rays = s.rays := rfl
@[simp] theorem updWire_islands (s : State) (k : Nat) (f : Wire → Wire) : (s.updWire k f).islands = s.islands := rfl
@[simp] theorem updWire_chain (s : State) (k : Nat) (f : Wire → Wire) : (s.updWire k f).chain = s.chain := rfl
@[simp] theorem updWire_rasters (s : State) (k : Nat) (f : Wire → Wire) : (s.updWire k f).rasters = s.rasters := rfl
@[simp] theorem updWire_tileTags (s : State) (k : Nat) (f : Wire → Wire) : (s.updWire k f).tileTags = s.tileTags := rfl
@[simp] theorem updWire_blendItems (s : State) (k : Nat) (f : Wire → Wire) : (s.updWire k f).blendItems = s.blendItems := rfl
@[simp] theorem updWire_isects (s : State) (k : Nat) (f : Wire → Wire) : (s.updWire k f).isects = s.isects := rfl
@[simp] theorem updWire_bushels (s : State) (k : Nat) (f : Wire → Wire) : (s.updWire k f).bushels = s.bushels := rfl
@[simp] theorem updWire_mrings (s : State) (k : Nat) (f : Wire → Wire) : (s.updWire k f).mrings = s.mrings := rfl
@[simp] theorem updWire_hostQs (s : State) (k : Nat) (f : Wire → Wire) : (s.updWire k f).hostQs = s.hostQs := rfl
@[simp] theorem updWire_msixTable (s : State) (k : Nat) (f : Wire → Wire) : (s.updWire k f).msixTable = s.msixTable := rfl
@[simp] theorem updWire_msixPend (s : State) (k : Nat) (f : Wire → Wire) : (s.updWire k f).msixPend = s.msixPend := rfl
@[simp] theorem updWire_msgs (s : State) (k : Nat) (f : Wire → Wire) : (s.updWire k f).msgs = s.msgs := rfl
@[simp] theorem updWire_sentMsgs (s : State) (k : Nat) (f : Wire → Wire) : (s.updWire k f).sentMsgs = s.sentMsgs := rfl
@[simp] theorem updWire_msixCtl (s : State) (k : Nat) (f : Wire → Wire) : (s.updWire k f).msixCtl = s.msixCtl := rfl
@[simp] theorem updWire_hdm (s : State) (k : Nat) (f : Wire → Wire) : (s.updWire k f).hdm = s.hdm := rfl
@[simp] theorem updWire_masks (s : State) (k : Nat) (f : Wire → Wire) : (s.updWire k f).masks = s.masks := rfl
@[simp] theorem updWire_newMasks (s : State) (k : Nat) (f : Wire → Wire) : (s.updWire k f).newMasks = s.newMasks := rfl
@[simp] theorem updWire_aports (s : State) (k : Nat) (f : Wire → Wire) : (s.updWire k f).aports = s.aports := rfl
@[simp] theorem updWire_reqs (s : State) (k : Nat) (f : Wire → Wire) : (s.updWire k f).reqs = s.reqs := rfl
@[simp] theorem updWire_remoteReads (s : State) (k : Nat) (f : Wire → Wire) : (s.updWire k f).remoteReads = s.remoteReads := rfl
@[simp] theorem updWire_answers (s : State) (k : Nat) (f : Wire → Wire) : (s.updWire k f).answers = s.answers := rfl
@[simp] theorem updWire_farEnds (s : State) (k : Nat) (f : Wire → Wire) : (s.updWire k f).farEnds = s.farEnds := rfl
@[simp] theorem updWire_peerWaits (s : State) (k : Nat) (f : Wire → Wire) : (s.updWire k f).peerWaits = s.peerWaits := rfl
@[simp] theorem updWire_recQueue (s : State) (k : Nat) (f : Wire → Wire) : (s.updWire k f).recQueue = s.recQueue := rfl
@[simp] theorem updWire_sectors (s : State) (k : Nat) (f : Wire → Wire) : (s.updWire k f).sectors = s.sectors := rfl
@[simp] theorem updWire_power (s : State) (k : Nat) (f : Wire → Wire) : (s.updWire k f).power = s.power := rfl
@[simp] theorem updWire_lastRefresh (s : State) (k : Nat) (f : Wire → Wire) : (s.updWire k f).lastRefresh = s.lastRefresh := rfl
@[simp] theorem updWire_corrected (s : State) (k : Nat) (f : Wire → Wire) : (s.updWire k f).corrected = s.corrected := rfl
@[simp] theorem updWire_talert (s : State) (k : Nat) (f : Wire → Wire) : (s.updWire k f).talert = s.talert := rfl
@[simp] theorem updWire_thyst (s : State) (k : Nat) (f : Wire → Wire) : (s.updWire k f).thyst = s.thyst := rfl
@[simp] theorem updWire_tstress (s : State) (k : Nat) (f : Wire → Wire) : (s.updWire k f).tstress = s.tstress := rfl
@[simp] theorem updWire_fqsel (s : State) (k : Nat) (f : Wire → Wire) : (s.updWire k f).fqsel = s.fqsel := rfl
@[simp] theorem updWire_prstBay (s : State) (k : Nat) (f : Wire → Wire) : (s.updWire k f).prstBay = s.prstBay := rfl
@[simp] theorem updWire_prstRun (s : State) (k : Nat) (f : Wire → Wire) : (s.updWire k f).prstRun = s.prstRun := rfl
@[simp] theorem updWire_downBays (s : State) (k : Nat) (f : Wire → Wire) : (s.updWire k f).downBays = s.downBays := rfl
@[simp] theorem updWire_evlprod (s : State) (k : Nat) (f : Wire → Wire) : (s.updWire k f).evlprod = s.evlprod := rfl
@[simp] theorem updWire_evlog (s : State) (k : Nat) (f : Wire → Wire) : (s.updWire k f).evlog = s.evlog := rfl
@[simp] theorem updWire_bootst (s : State) (k : Nat) (f : Wire → Wire) : (s.updWire k f).bootst = s.bootst := rfl
@[simp] theorem updWire_rcvaddr (s : State) (k : Nat) (f : Wire → Wire) : (s.updWire k f).rcvaddr = s.rcvaddr := rfl
@[simp] theorem updWire_rcvRun (s : State) (k : Nat) (f : Wire → Wire) : (s.updWire k f).rcvRun = s.rcvRun := rfl
@[simp] theorem updWire_fwImage (s : State) (k : Nat) (f : Wire → Wire) : (s.updWire k f).fwImage = s.fwImage := rfl
@[simp] theorem updWire_blobImage (s : State) (k : Nat) (f : Wire → Wire) : (s.updWire k f).blobImage = s.blobImage := rfl
@[simp] theorem updWire_hostReads (s : State) (k : Nat) (f : Wire → Wire) : (s.updWire k f).hostReads = s.hostReads := rfl
@[simp] theorem updWire_nonce (s : State) (k : Nat) (f : Wire → Wire) : (s.updWire k f).nonce = s.nonce := rfl
@[simp] theorem updWire_nonceHeld (s : State) (k : Nat) (f : Wire → Wire) : (s.updWire k f).nonceHeld = s.nonceHeld := rfl
@[simp] theorem updWire_attst (s : State) (k : Nat) (f : Wire → Wire) : (s.updWire k f).attst = s.attst := rfl
@[simp] theorem updWire_sig (s : State) (k : Nat) (f : Wire → Wire) : (s.updWire k f).sig = s.sig := rfl
@[simp] theorem updWire_kills (s : State) (k : Nat) (f : Wire → Wire) : (s.updWire k f).kills = s.kills := rfl

@[simp] theorem updLink_cyc (s : State) (k : Nat) (f : Link → Link) : (s.updLink k f).cyc = s.cyc := rfl
@[simp] theorem updLink_turns (s : State) (k : Nat) (f : Link → Link) : (s.updLink k f).turns = s.turns := rfl
@[simp] theorem updLink_turnNo (s : State) (k : Nat) (f : Link → Link) : (s.updLink k f).turnNo = s.turnNo := rfl
@[simp] theorem updLink_freeNo (s : State) (k : Nat) (f : Link → Link) : (s.updLink k f).freeNo = s.freeNo := rfl
@[simp] theorem updLink_act (s : State) (k : Nat) (f : Link → Link) : (s.updLink k f).act = s.act := rfl
@[simp] theorem updLink_defer (s : State) (k : Nat) (f : Link → Link) : (s.updLink k f).defer = s.defer := rfl
@[simp] theorem updLink_package (s : State) (k : Nat) (f : Link → Link) : (s.updLink k f).package = s.package := rfl
@[simp] theorem updLink_recovery (s : State) (k : Nat) (f : Link → Link) : (s.updLink k f).recovery = s.recovery := rfl
@[simp] theorem updLink_mem (s : State) (k : Nat) (f : Link → Link) : (s.updLink k f).mem = s.mem := rfl
@[simp] theorem updLink_scratch (s : State) (k : Nat) (f : Link → Link) : (s.updLink k f).scratch = s.scratch := rfl
@[simp] theorem updLink_poison (s : State) (k : Nat) (f : Link → Link) : (s.updLink k f).poison = s.poison := rfl
@[simp] theorem updLink_scratchPoison (s : State) (k : Nat) (f : Link → Link) : (s.updLink k f).scratchPoison = s.scratchPoison := rfl
@[simp] theorem updLink_versions (s : State) (k : Nat) (f : Link → Link) : (s.updLink k f).versions = s.versions := rfl
@[simp] theorem updLink_barriers (s : State) (k : Nat) (f : Link → Link) : (s.updLink k f).barriers = s.barriers := rfl
@[simp] theorem updLink_frames (s : State) (k : Nat) (f : Link → Link) : (s.updLink k f).frames = s.frames := rfl
@[simp] theorem updLink_modes (s : State) (k : Nat) (f : Link → Link) : (s.updLink k f).modes = s.modes := rfl
@[simp] theorem updLink_hostLines (s : State) (k : Nat) (f : Link → Link) : (s.updLink k f).hostLines = s.hostLines := rfl
@[simp] theorem updLink_vldWaits (s : State) (k : Nat) (f : Link → Link) : (s.updLink k f).vldWaits = s.vldWaits := rfl
@[simp] theorem updLink_vstQueue (s : State) (k : Nat) (f : Link → Link) : (s.updLink k f).vstQueue = s.vstQueue := rfl
@[simp] theorem updLink_tlb (s : State) (k : Nat) (f : Link → Link) : (s.updLink k f).tlb = s.tlb := rfl
@[simp] theorem updLink_invals (s : State) (k : Nat) (f : Link → Link) : (s.updLink k f).invals = s.invals := rfl
@[simp] theorem updLink_ctxs (s : State) (k : Nat) (f : Link → Link) : (s.updLink k f).ctxs = s.ctxs := rfl
@[simp] theorem updLink_cores (s : State) (k : Nat) (f : Link → Link) : (s.updLink k f).cores = s.cores := rfl
@[simp] theorem updLink_regions (s : State) (k : Nat) (f : Link → Link) : (s.updLink k f).regions = s.regions := rfl
@[simp] theorem updLink_wires (s : State) (k : Nat) (f : Link → Link) : (s.updLink k f).wires = s.wires := rfl
@[simp] theorem updLink_landings (s : State) (k : Nat) (f : Link → Link) : (s.updLink k f).landings = s.landings := rfl
@[simp] theorem updLink_flights (s : State) (k : Nat) (f : Link → Link) : (s.updLink k f).flights = s.flights := rfl
@[simp] theorem updLink_nextId (s : State) (k : Nat) (f : Link → Link) : (s.updLink k f).nextId = s.nextId := rfl
@[simp] theorem updLink_ports (s : State) (k : Nat) (f : Link → Link) : (s.updLink k f).ports = s.ports := rfl
@[simp] theorem updLink_cfgops (s : State) (k : Nat) (f : Link → Link) : (s.updLink k f).cfgops = s.cfgops := rfl
@[simp] theorem updLink_saved (s : State) (k : Nat) (f : Link → Link) : (s.updLink k f).saved = s.saved := rfl
@[simp] theorem updLink_launches (s : State) (k : Nat) (f : Link → Link) : (s.updLink k f).launches = s.launches := rfl
@[simp] theorem updLink_placeCtl (s : State) (k : Nat) (f : Link → Link) : (s.updLink k f).placeCtl = s.placeCtl := rfl
@[simp] theorem updLink_streams (s : State) (k : Nat) (f : Link → Link) : (s.updLink k f).streams = s.streams := rfl
@[simp] theorem updLink_lastSector (s : State) (k : Nat) (f : Link → Link) : (s.updLink k f).lastSector = s.lastSector := rfl
@[simp] theorem updLink_score (s : State) (k : Nat) (f : Link → Link) : (s.updLink k f).score = s.score := rfl
@[simp] theorem updLink_lastCtx (s : State) (k : Nat) (f : Link → Link) : (s.updLink k f).lastCtx = s.lastCtx := rfl
@[simp] theorem updLink_rays (s : State) (k : Nat) (f : Link → Link) : (s.updLink k f).rays = s.rays := rfl
@[simp] theorem updLink_islands (s : State) (k : Nat) (f : Link → Link) : (s.updLink k f).islands = s.islands := rfl
@[simp] theorem updLink_chain (s : State) (k : Nat) (f : Link → Link) : (s.updLink k f).chain = s.chain := rfl
@[simp] theorem updLink_rasters (s : State) (k : Nat) (f : Link → Link) : (s.updLink k f).rasters = s.rasters := rfl
@[simp] theorem updLink_tileTags (s : State) (k : Nat) (f : Link → Link) : (s.updLink k f).tileTags = s.tileTags := rfl
@[simp] theorem updLink_blendItems (s : State) (k : Nat) (f : Link → Link) : (s.updLink k f).blendItems = s.blendItems := rfl
@[simp] theorem updLink_isects (s : State) (k : Nat) (f : Link → Link) : (s.updLink k f).isects = s.isects := rfl
@[simp] theorem updLink_bushels (s : State) (k : Nat) (f : Link → Link) : (s.updLink k f).bushels = s.bushels := rfl
@[simp] theorem updLink_mrings (s : State) (k : Nat) (f : Link → Link) : (s.updLink k f).mrings = s.mrings := rfl
@[simp] theorem updLink_hostQs (s : State) (k : Nat) (f : Link → Link) : (s.updLink k f).hostQs = s.hostQs := rfl
@[simp] theorem updLink_msixTable (s : State) (k : Nat) (f : Link → Link) : (s.updLink k f).msixTable = s.msixTable := rfl
@[simp] theorem updLink_msixPend (s : State) (k : Nat) (f : Link → Link) : (s.updLink k f).msixPend = s.msixPend := rfl
@[simp] theorem updLink_msgs (s : State) (k : Nat) (f : Link → Link) : (s.updLink k f).msgs = s.msgs := rfl
@[simp] theorem updLink_sentMsgs (s : State) (k : Nat) (f : Link → Link) : (s.updLink k f).sentMsgs = s.sentMsgs := rfl
@[simp] theorem updLink_msixCtl (s : State) (k : Nat) (f : Link → Link) : (s.updLink k f).msixCtl = s.msixCtl := rfl
@[simp] theorem updLink_hdm (s : State) (k : Nat) (f : Link → Link) : (s.updLink k f).hdm = s.hdm := rfl
@[simp] theorem updLink_masks (s : State) (k : Nat) (f : Link → Link) : (s.updLink k f).masks = s.masks := rfl
@[simp] theorem updLink_newMasks (s : State) (k : Nat) (f : Link → Link) : (s.updLink k f).newMasks = s.newMasks := rfl
@[simp] theorem updLink_aports (s : State) (k : Nat) (f : Link → Link) : (s.updLink k f).aports = s.aports := rfl
@[simp] theorem updLink_reqs (s : State) (k : Nat) (f : Link → Link) : (s.updLink k f).reqs = s.reqs := rfl
@[simp] theorem updLink_remoteReads (s : State) (k : Nat) (f : Link → Link) : (s.updLink k f).remoteReads = s.remoteReads := rfl
@[simp] theorem updLink_answers (s : State) (k : Nat) (f : Link → Link) : (s.updLink k f).answers = s.answers := rfl
@[simp] theorem updLink_farEnds (s : State) (k : Nat) (f : Link → Link) : (s.updLink k f).farEnds = s.farEnds := rfl
@[simp] theorem updLink_peerWaits (s : State) (k : Nat) (f : Link → Link) : (s.updLink k f).peerWaits = s.peerWaits := rfl
@[simp] theorem updLink_recQueue (s : State) (k : Nat) (f : Link → Link) : (s.updLink k f).recQueue = s.recQueue := rfl
@[simp] theorem updLink_sectors (s : State) (k : Nat) (f : Link → Link) : (s.updLink k f).sectors = s.sectors := rfl
@[simp] theorem updLink_power (s : State) (k : Nat) (f : Link → Link) : (s.updLink k f).power = s.power := rfl
@[simp] theorem updLink_lastRefresh (s : State) (k : Nat) (f : Link → Link) : (s.updLink k f).lastRefresh = s.lastRefresh := rfl
@[simp] theorem updLink_corrected (s : State) (k : Nat) (f : Link → Link) : (s.updLink k f).corrected = s.corrected := rfl
@[simp] theorem updLink_talert (s : State) (k : Nat) (f : Link → Link) : (s.updLink k f).talert = s.talert := rfl
@[simp] theorem updLink_thyst (s : State) (k : Nat) (f : Link → Link) : (s.updLink k f).thyst = s.thyst := rfl
@[simp] theorem updLink_tstress (s : State) (k : Nat) (f : Link → Link) : (s.updLink k f).tstress = s.tstress := rfl
@[simp] theorem updLink_fqsel (s : State) (k : Nat) (f : Link → Link) : (s.updLink k f).fqsel = s.fqsel := rfl
@[simp] theorem updLink_prstBay (s : State) (k : Nat) (f : Link → Link) : (s.updLink k f).prstBay = s.prstBay := rfl
@[simp] theorem updLink_prstRun (s : State) (k : Nat) (f : Link → Link) : (s.updLink k f).prstRun = s.prstRun := rfl
@[simp] theorem updLink_downBays (s : State) (k : Nat) (f : Link → Link) : (s.updLink k f).downBays = s.downBays := rfl
@[simp] theorem updLink_evlprod (s : State) (k : Nat) (f : Link → Link) : (s.updLink k f).evlprod = s.evlprod := rfl
@[simp] theorem updLink_evlog (s : State) (k : Nat) (f : Link → Link) : (s.updLink k f).evlog = s.evlog := rfl
@[simp] theorem updLink_bootst (s : State) (k : Nat) (f : Link → Link) : (s.updLink k f).bootst = s.bootst := rfl
@[simp] theorem updLink_rcvaddr (s : State) (k : Nat) (f : Link → Link) : (s.updLink k f).rcvaddr = s.rcvaddr := rfl
@[simp] theorem updLink_rcvRun (s : State) (k : Nat) (f : Link → Link) : (s.updLink k f).rcvRun = s.rcvRun := rfl
@[simp] theorem updLink_fwImage (s : State) (k : Nat) (f : Link → Link) : (s.updLink k f).fwImage = s.fwImage := rfl
@[simp] theorem updLink_blobImage (s : State) (k : Nat) (f : Link → Link) : (s.updLink k f).blobImage = s.blobImage := rfl
@[simp] theorem updLink_hostReads (s : State) (k : Nat) (f : Link → Link) : (s.updLink k f).hostReads = s.hostReads := rfl
@[simp] theorem updLink_nonce (s : State) (k : Nat) (f : Link → Link) : (s.updLink k f).nonce = s.nonce := rfl
@[simp] theorem updLink_nonceHeld (s : State) (k : Nat) (f : Link → Link) : (s.updLink k f).nonceHeld = s.nonceHeld := rfl
@[simp] theorem updLink_attst (s : State) (k : Nat) (f : Link → Link) : (s.updLink k f).attst = s.attst := rfl
@[simp] theorem updLink_sig (s : State) (k : Nat) (f : Link → Link) : (s.updLink k f).sig = s.sig := rfl
@[simp] theorem updLink_kills (s : State) (k : Nat) (f : Link → Link) : (s.updLink k f).kills = s.kills := rfl

@[simp] theorem linkTake_cyc (s : State) (k : Nat) : (s.linkTake k).cyc = s.cyc := rfl
@[simp] theorem linkTake_turns (s : State) (k : Nat) : (s.linkTake k).turns = s.turns := rfl
@[simp] theorem linkTake_turnNo (s : State) (k : Nat) : (s.linkTake k).turnNo = s.turnNo := rfl
@[simp] theorem linkTake_freeNo (s : State) (k : Nat) : (s.linkTake k).freeNo = s.freeNo := rfl
@[simp] theorem linkTake_act (s : State) (k : Nat) : (s.linkTake k).act = s.act := rfl
@[simp] theorem linkTake_defer (s : State) (k : Nat) : (s.linkTake k).defer = s.defer := rfl
@[simp] theorem linkTake_package (s : State) (k : Nat) : (s.linkTake k).package = s.package := rfl
@[simp] theorem linkTake_recovery (s : State) (k : Nat) : (s.linkTake k).recovery = s.recovery := rfl
@[simp] theorem linkTake_mem (s : State) (k : Nat) : (s.linkTake k).mem = s.mem := rfl
@[simp] theorem linkTake_scratch (s : State) (k : Nat) : (s.linkTake k).scratch = s.scratch := rfl
@[simp] theorem linkTake_poison (s : State) (k : Nat) : (s.linkTake k).poison = s.poison := rfl
@[simp] theorem linkTake_scratchPoison (s : State) (k : Nat) : (s.linkTake k).scratchPoison = s.scratchPoison := rfl
@[simp] theorem linkTake_versions (s : State) (k : Nat) : (s.linkTake k).versions = s.versions := rfl
@[simp] theorem linkTake_barriers (s : State) (k : Nat) : (s.linkTake k).barriers = s.barriers := rfl
@[simp] theorem linkTake_frames (s : State) (k : Nat) : (s.linkTake k).frames = s.frames := rfl
@[simp] theorem linkTake_modes (s : State) (k : Nat) : (s.linkTake k).modes = s.modes := rfl
@[simp] theorem linkTake_hostLines (s : State) (k : Nat) : (s.linkTake k).hostLines = s.hostLines := rfl
@[simp] theorem linkTake_vldWaits (s : State) (k : Nat) : (s.linkTake k).vldWaits = s.vldWaits := rfl
@[simp] theorem linkTake_vstQueue (s : State) (k : Nat) : (s.linkTake k).vstQueue = s.vstQueue := rfl
@[simp] theorem linkTake_tlb (s : State) (k : Nat) : (s.linkTake k).tlb = s.tlb := rfl
@[simp] theorem linkTake_invals (s : State) (k : Nat) : (s.linkTake k).invals = s.invals := rfl
@[simp] theorem linkTake_ctxs (s : State) (k : Nat) : (s.linkTake k).ctxs = s.ctxs := rfl
@[simp] theorem linkTake_cores (s : State) (k : Nat) : (s.linkTake k).cores = s.cores := rfl
@[simp] theorem linkTake_regions (s : State) (k : Nat) : (s.linkTake k).regions = s.regions := rfl
@[simp] theorem linkTake_wires (s : State) (k : Nat) : (s.linkTake k).wires = s.wires := rfl
@[simp] theorem linkTake_landings (s : State) (k : Nat) : (s.linkTake k).landings = s.landings := rfl
@[simp] theorem linkTake_flights (s : State) (k : Nat) : (s.linkTake k).flights = s.flights := rfl
@[simp] theorem linkTake_nextId (s : State) (k : Nat) : (s.linkTake k).nextId = s.nextId := rfl
@[simp] theorem linkTake_ports (s : State) (k : Nat) : (s.linkTake k).ports = s.ports := rfl
@[simp] theorem linkTake_cfgops (s : State) (k : Nat) : (s.linkTake k).cfgops = s.cfgops := rfl
@[simp] theorem linkTake_saved (s : State) (k : Nat) : (s.linkTake k).saved = s.saved := rfl
@[simp] theorem linkTake_launches (s : State) (k : Nat) : (s.linkTake k).launches = s.launches := rfl
@[simp] theorem linkTake_placeCtl (s : State) (k : Nat) : (s.linkTake k).placeCtl = s.placeCtl := rfl
@[simp] theorem linkTake_streams (s : State) (k : Nat) : (s.linkTake k).streams = s.streams := rfl
@[simp] theorem linkTake_lastSector (s : State) (k : Nat) : (s.linkTake k).lastSector = s.lastSector := rfl
@[simp] theorem linkTake_score (s : State) (k : Nat) : (s.linkTake k).score = s.score := rfl
@[simp] theorem linkTake_lastCtx (s : State) (k : Nat) : (s.linkTake k).lastCtx = s.lastCtx := rfl
@[simp] theorem linkTake_rays (s : State) (k : Nat) : (s.linkTake k).rays = s.rays := rfl
@[simp] theorem linkTake_islands (s : State) (k : Nat) : (s.linkTake k).islands = s.islands := rfl
@[simp] theorem linkTake_chain (s : State) (k : Nat) : (s.linkTake k).chain = s.chain := rfl
@[simp] theorem linkTake_rasters (s : State) (k : Nat) : (s.linkTake k).rasters = s.rasters := rfl
@[simp] theorem linkTake_tileTags (s : State) (k : Nat) : (s.linkTake k).tileTags = s.tileTags := rfl
@[simp] theorem linkTake_blendItems (s : State) (k : Nat) : (s.linkTake k).blendItems = s.blendItems := rfl
@[simp] theorem linkTake_isects (s : State) (k : Nat) : (s.linkTake k).isects = s.isects := rfl
@[simp] theorem linkTake_bushels (s : State) (k : Nat) : (s.linkTake k).bushels = s.bushels := rfl
@[simp] theorem linkTake_mrings (s : State) (k : Nat) : (s.linkTake k).mrings = s.mrings := rfl
@[simp] theorem linkTake_hostQs (s : State) (k : Nat) : (s.linkTake k).hostQs = s.hostQs := rfl
@[simp] theorem linkTake_msixTable (s : State) (k : Nat) : (s.linkTake k).msixTable = s.msixTable := rfl
@[simp] theorem linkTake_msixPend (s : State) (k : Nat) : (s.linkTake k).msixPend = s.msixPend := rfl
@[simp] theorem linkTake_msgs (s : State) (k : Nat) : (s.linkTake k).msgs = s.msgs := rfl
@[simp] theorem linkTake_sentMsgs (s : State) (k : Nat) : (s.linkTake k).sentMsgs = s.sentMsgs := rfl
@[simp] theorem linkTake_msixCtl (s : State) (k : Nat) : (s.linkTake k).msixCtl = s.msixCtl := rfl
@[simp] theorem linkTake_hdm (s : State) (k : Nat) : (s.linkTake k).hdm = s.hdm := rfl
@[simp] theorem linkTake_masks (s : State) (k : Nat) : (s.linkTake k).masks = s.masks := rfl
@[simp] theorem linkTake_newMasks (s : State) (k : Nat) : (s.linkTake k).newMasks = s.newMasks := rfl
@[simp] theorem linkTake_aports (s : State) (k : Nat) : (s.linkTake k).aports = s.aports := rfl
@[simp] theorem linkTake_reqs (s : State) (k : Nat) : (s.linkTake k).reqs = s.reqs := rfl
@[simp] theorem linkTake_remoteReads (s : State) (k : Nat) : (s.linkTake k).remoteReads = s.remoteReads := rfl
@[simp] theorem linkTake_answers (s : State) (k : Nat) : (s.linkTake k).answers = s.answers := rfl
@[simp] theorem linkTake_farEnds (s : State) (k : Nat) : (s.linkTake k).farEnds = s.farEnds := rfl
@[simp] theorem linkTake_peerWaits (s : State) (k : Nat) : (s.linkTake k).peerWaits = s.peerWaits := rfl
@[simp] theorem linkTake_recQueue (s : State) (k : Nat) : (s.linkTake k).recQueue = s.recQueue := rfl
@[simp] theorem linkTake_sectors (s : State) (k : Nat) : (s.linkTake k).sectors = s.sectors := rfl
@[simp] theorem linkTake_power (s : State) (k : Nat) : (s.linkTake k).power = s.power := rfl
@[simp] theorem linkTake_lastRefresh (s : State) (k : Nat) : (s.linkTake k).lastRefresh = s.lastRefresh := rfl
@[simp] theorem linkTake_corrected (s : State) (k : Nat) : (s.linkTake k).corrected = s.corrected := rfl
@[simp] theorem linkTake_talert (s : State) (k : Nat) : (s.linkTake k).talert = s.talert := rfl
@[simp] theorem linkTake_thyst (s : State) (k : Nat) : (s.linkTake k).thyst = s.thyst := rfl
@[simp] theorem linkTake_tstress (s : State) (k : Nat) : (s.linkTake k).tstress = s.tstress := rfl
@[simp] theorem linkTake_fqsel (s : State) (k : Nat) : (s.linkTake k).fqsel = s.fqsel := rfl
@[simp] theorem linkTake_prstBay (s : State) (k : Nat) : (s.linkTake k).prstBay = s.prstBay := rfl
@[simp] theorem linkTake_prstRun (s : State) (k : Nat) : (s.linkTake k).prstRun = s.prstRun := rfl
@[simp] theorem linkTake_downBays (s : State) (k : Nat) : (s.linkTake k).downBays = s.downBays := rfl
@[simp] theorem linkTake_evlprod (s : State) (k : Nat) : (s.linkTake k).evlprod = s.evlprod := rfl
@[simp] theorem linkTake_evlog (s : State) (k : Nat) : (s.linkTake k).evlog = s.evlog := rfl
@[simp] theorem linkTake_bootst (s : State) (k : Nat) : (s.linkTake k).bootst = s.bootst := rfl
@[simp] theorem linkTake_rcvaddr (s : State) (k : Nat) : (s.linkTake k).rcvaddr = s.rcvaddr := rfl
@[simp] theorem linkTake_rcvRun (s : State) (k : Nat) : (s.linkTake k).rcvRun = s.rcvRun := rfl
@[simp] theorem linkTake_fwImage (s : State) (k : Nat) : (s.linkTake k).fwImage = s.fwImage := rfl
@[simp] theorem linkTake_blobImage (s : State) (k : Nat) : (s.linkTake k).blobImage = s.blobImage := rfl
@[simp] theorem linkTake_hostReads (s : State) (k : Nat) : (s.linkTake k).hostReads = s.hostReads := rfl
@[simp] theorem linkTake_nonce (s : State) (k : Nat) : (s.linkTake k).nonce = s.nonce := rfl
@[simp] theorem linkTake_nonceHeld (s : State) (k : Nat) : (s.linkTake k).nonceHeld = s.nonceHeld := rfl
@[simp] theorem linkTake_attst (s : State) (k : Nat) : (s.linkTake k).attst = s.attst := rfl
@[simp] theorem linkTake_sig (s : State) (k : Nat) : (s.linkTake k).sig = s.sig := rfl
@[simp] theorem linkTake_kills (s : State) (k : Nat) : (s.linkTake k).kills = s.kills := rfl

@[simp] theorem linkSend_cyc (s : State) (k : Nat) (t : Token) : (s.linkSend k t).cyc = s.cyc := rfl
@[simp] theorem linkSend_turns (s : State) (k : Nat) (t : Token) : (s.linkSend k t).turns = s.turns := rfl
@[simp] theorem linkSend_turnNo (s : State) (k : Nat) (t : Token) : (s.linkSend k t).turnNo = s.turnNo := rfl
@[simp] theorem linkSend_freeNo (s : State) (k : Nat) (t : Token) : (s.linkSend k t).freeNo = s.freeNo := rfl
@[simp] theorem linkSend_act (s : State) (k : Nat) (t : Token) : (s.linkSend k t).act = s.act := rfl
@[simp] theorem linkSend_defer (s : State) (k : Nat) (t : Token) : (s.linkSend k t).defer = s.defer := rfl
@[simp] theorem linkSend_package (s : State) (k : Nat) (t : Token) : (s.linkSend k t).package = s.package := rfl
@[simp] theorem linkSend_recovery (s : State) (k : Nat) (t : Token) : (s.linkSend k t).recovery = s.recovery := rfl
@[simp] theorem linkSend_mem (s : State) (k : Nat) (t : Token) : (s.linkSend k t).mem = s.mem := rfl
@[simp] theorem linkSend_scratch (s : State) (k : Nat) (t : Token) : (s.linkSend k t).scratch = s.scratch := rfl
@[simp] theorem linkSend_poison (s : State) (k : Nat) (t : Token) : (s.linkSend k t).poison = s.poison := rfl
@[simp] theorem linkSend_scratchPoison (s : State) (k : Nat) (t : Token) : (s.linkSend k t).scratchPoison = s.scratchPoison := rfl
@[simp] theorem linkSend_versions (s : State) (k : Nat) (t : Token) : (s.linkSend k t).versions = s.versions := rfl
@[simp] theorem linkSend_barriers (s : State) (k : Nat) (t : Token) : (s.linkSend k t).barriers = s.barriers := rfl
@[simp] theorem linkSend_frames (s : State) (k : Nat) (t : Token) : (s.linkSend k t).frames = s.frames := rfl
@[simp] theorem linkSend_modes (s : State) (k : Nat) (t : Token) : (s.linkSend k t).modes = s.modes := rfl
@[simp] theorem linkSend_hostLines (s : State) (k : Nat) (t : Token) : (s.linkSend k t).hostLines = s.hostLines := rfl
@[simp] theorem linkSend_vldWaits (s : State) (k : Nat) (t : Token) : (s.linkSend k t).vldWaits = s.vldWaits := rfl
@[simp] theorem linkSend_vstQueue (s : State) (k : Nat) (t : Token) : (s.linkSend k t).vstQueue = s.vstQueue := rfl
@[simp] theorem linkSend_tlb (s : State) (k : Nat) (t : Token) : (s.linkSend k t).tlb = s.tlb := rfl
@[simp] theorem linkSend_invals (s : State) (k : Nat) (t : Token) : (s.linkSend k t).invals = s.invals := rfl
@[simp] theorem linkSend_ctxs (s : State) (k : Nat) (t : Token) : (s.linkSend k t).ctxs = s.ctxs := rfl
@[simp] theorem linkSend_cores (s : State) (k : Nat) (t : Token) : (s.linkSend k t).cores = s.cores := rfl
@[simp] theorem linkSend_regions (s : State) (k : Nat) (t : Token) : (s.linkSend k t).regions = s.regions := rfl
@[simp] theorem linkSend_wires (s : State) (k : Nat) (t : Token) : (s.linkSend k t).wires = s.wires := rfl
@[simp] theorem linkSend_landings (s : State) (k : Nat) (t : Token) : (s.linkSend k t).landings = s.landings := rfl
@[simp] theorem linkSend_flights (s : State) (k : Nat) (t : Token) : (s.linkSend k t).flights = s.flights := rfl
@[simp] theorem linkSend_nextId (s : State) (k : Nat) (t : Token) : (s.linkSend k t).nextId = s.nextId := rfl
@[simp] theorem linkSend_ports (s : State) (k : Nat) (t : Token) : (s.linkSend k t).ports = s.ports := rfl
@[simp] theorem linkSend_cfgops (s : State) (k : Nat) (t : Token) : (s.linkSend k t).cfgops = s.cfgops := rfl
@[simp] theorem linkSend_saved (s : State) (k : Nat) (t : Token) : (s.linkSend k t).saved = s.saved := rfl
@[simp] theorem linkSend_launches (s : State) (k : Nat) (t : Token) : (s.linkSend k t).launches = s.launches := rfl
@[simp] theorem linkSend_placeCtl (s : State) (k : Nat) (t : Token) : (s.linkSend k t).placeCtl = s.placeCtl := rfl
@[simp] theorem linkSend_streams (s : State) (k : Nat) (t : Token) : (s.linkSend k t).streams = s.streams := rfl
@[simp] theorem linkSend_lastSector (s : State) (k : Nat) (t : Token) : (s.linkSend k t).lastSector = s.lastSector := rfl
@[simp] theorem linkSend_score (s : State) (k : Nat) (t : Token) : (s.linkSend k t).score = s.score := rfl
@[simp] theorem linkSend_lastCtx (s : State) (k : Nat) (t : Token) : (s.linkSend k t).lastCtx = s.lastCtx := rfl
@[simp] theorem linkSend_rays (s : State) (k : Nat) (t : Token) : (s.linkSend k t).rays = s.rays := rfl
@[simp] theorem linkSend_islands (s : State) (k : Nat) (t : Token) : (s.linkSend k t).islands = s.islands := rfl
@[simp] theorem linkSend_chain (s : State) (k : Nat) (t : Token) : (s.linkSend k t).chain = s.chain := rfl
@[simp] theorem linkSend_rasters (s : State) (k : Nat) (t : Token) : (s.linkSend k t).rasters = s.rasters := rfl
@[simp] theorem linkSend_tileTags (s : State) (k : Nat) (t : Token) : (s.linkSend k t).tileTags = s.tileTags := rfl
@[simp] theorem linkSend_blendItems (s : State) (k : Nat) (t : Token) : (s.linkSend k t).blendItems = s.blendItems := rfl
@[simp] theorem linkSend_isects (s : State) (k : Nat) (t : Token) : (s.linkSend k t).isects = s.isects := rfl
@[simp] theorem linkSend_bushels (s : State) (k : Nat) (t : Token) : (s.linkSend k t).bushels = s.bushels := rfl
@[simp] theorem linkSend_mrings (s : State) (k : Nat) (t : Token) : (s.linkSend k t).mrings = s.mrings := rfl
@[simp] theorem linkSend_hostQs (s : State) (k : Nat) (t : Token) : (s.linkSend k t).hostQs = s.hostQs := rfl
@[simp] theorem linkSend_msixTable (s : State) (k : Nat) (t : Token) : (s.linkSend k t).msixTable = s.msixTable := rfl
@[simp] theorem linkSend_msixPend (s : State) (k : Nat) (t : Token) : (s.linkSend k t).msixPend = s.msixPend := rfl
@[simp] theorem linkSend_msgs (s : State) (k : Nat) (t : Token) : (s.linkSend k t).msgs = s.msgs := rfl
@[simp] theorem linkSend_sentMsgs (s : State) (k : Nat) (t : Token) : (s.linkSend k t).sentMsgs = s.sentMsgs := rfl
@[simp] theorem linkSend_msixCtl (s : State) (k : Nat) (t : Token) : (s.linkSend k t).msixCtl = s.msixCtl := rfl
@[simp] theorem linkSend_hdm (s : State) (k : Nat) (t : Token) : (s.linkSend k t).hdm = s.hdm := rfl
@[simp] theorem linkSend_masks (s : State) (k : Nat) (t : Token) : (s.linkSend k t).masks = s.masks := rfl
@[simp] theorem linkSend_newMasks (s : State) (k : Nat) (t : Token) : (s.linkSend k t).newMasks = s.newMasks := rfl
@[simp] theorem linkSend_aports (s : State) (k : Nat) (t : Token) : (s.linkSend k t).aports = s.aports := rfl
@[simp] theorem linkSend_reqs (s : State) (k : Nat) (t : Token) : (s.linkSend k t).reqs = s.reqs := rfl
@[simp] theorem linkSend_remoteReads (s : State) (k : Nat) (t : Token) : (s.linkSend k t).remoteReads = s.remoteReads := rfl
@[simp] theorem linkSend_answers (s : State) (k : Nat) (t : Token) : (s.linkSend k t).answers = s.answers := rfl
@[simp] theorem linkSend_farEnds (s : State) (k : Nat) (t : Token) : (s.linkSend k t).farEnds = s.farEnds := rfl
@[simp] theorem linkSend_peerWaits (s : State) (k : Nat) (t : Token) : (s.linkSend k t).peerWaits = s.peerWaits := rfl
@[simp] theorem linkSend_recQueue (s : State) (k : Nat) (t : Token) : (s.linkSend k t).recQueue = s.recQueue := rfl
@[simp] theorem linkSend_sectors (s : State) (k : Nat) (t : Token) : (s.linkSend k t).sectors = s.sectors := rfl
@[simp] theorem linkSend_power (s : State) (k : Nat) (t : Token) : (s.linkSend k t).power = s.power := rfl
@[simp] theorem linkSend_lastRefresh (s : State) (k : Nat) (t : Token) : (s.linkSend k t).lastRefresh = s.lastRefresh := rfl
@[simp] theorem linkSend_corrected (s : State) (k : Nat) (t : Token) : (s.linkSend k t).corrected = s.corrected := rfl
@[simp] theorem linkSend_talert (s : State) (k : Nat) (t : Token) : (s.linkSend k t).talert = s.talert := rfl
@[simp] theorem linkSend_thyst (s : State) (k : Nat) (t : Token) : (s.linkSend k t).thyst = s.thyst := rfl
@[simp] theorem linkSend_tstress (s : State) (k : Nat) (t : Token) : (s.linkSend k t).tstress = s.tstress := rfl
@[simp] theorem linkSend_fqsel (s : State) (k : Nat) (t : Token) : (s.linkSend k t).fqsel = s.fqsel := rfl
@[simp] theorem linkSend_prstBay (s : State) (k : Nat) (t : Token) : (s.linkSend k t).prstBay = s.prstBay := rfl
@[simp] theorem linkSend_prstRun (s : State) (k : Nat) (t : Token) : (s.linkSend k t).prstRun = s.prstRun := rfl
@[simp] theorem linkSend_downBays (s : State) (k : Nat) (t : Token) : (s.linkSend k t).downBays = s.downBays := rfl
@[simp] theorem linkSend_evlprod (s : State) (k : Nat) (t : Token) : (s.linkSend k t).evlprod = s.evlprod := rfl
@[simp] theorem linkSend_evlog (s : State) (k : Nat) (t : Token) : (s.linkSend k t).evlog = s.evlog := rfl
@[simp] theorem linkSend_bootst (s : State) (k : Nat) (t : Token) : (s.linkSend k t).bootst = s.bootst := rfl
@[simp] theorem linkSend_rcvaddr (s : State) (k : Nat) (t : Token) : (s.linkSend k t).rcvaddr = s.rcvaddr := rfl
@[simp] theorem linkSend_rcvRun (s : State) (k : Nat) (t : Token) : (s.linkSend k t).rcvRun = s.rcvRun := rfl
@[simp] theorem linkSend_fwImage (s : State) (k : Nat) (t : Token) : (s.linkSend k t).fwImage = s.fwImage := rfl
@[simp] theorem linkSend_blobImage (s : State) (k : Nat) (t : Token) : (s.linkSend k t).blobImage = s.blobImage := rfl
@[simp] theorem linkSend_hostReads (s : State) (k : Nat) (t : Token) : (s.linkSend k t).hostReads = s.hostReads := rfl
@[simp] theorem linkSend_nonce (s : State) (k : Nat) (t : Token) : (s.linkSend k t).nonce = s.nonce := rfl
@[simp] theorem linkSend_nonceHeld (s : State) (k : Nat) (t : Token) : (s.linkSend k t).nonceHeld = s.nonceHeld := rfl
@[simp] theorem linkSend_attst (s : State) (k : Nat) (t : Token) : (s.linkSend k t).attst = s.attst := rfl
@[simp] theorem linkSend_sig (s : State) (k : Nat) (t : Token) : (s.linkSend k t).sig = s.sig := rfl
@[simp] theorem linkSend_kills (s : State) (k : Nat) (t : Token) : (s.linkSend k t).kills = s.kills := rfl

@[simp] theorem updPort_cyc (s : State) (k : Nat) (f : Port → Port) : (s.updPort k f).cyc = s.cyc := rfl
@[simp] theorem updPort_turns (s : State) (k : Nat) (f : Port → Port) : (s.updPort k f).turns = s.turns := rfl
@[simp] theorem updPort_turnNo (s : State) (k : Nat) (f : Port → Port) : (s.updPort k f).turnNo = s.turnNo := rfl
@[simp] theorem updPort_freeNo (s : State) (k : Nat) (f : Port → Port) : (s.updPort k f).freeNo = s.freeNo := rfl
@[simp] theorem updPort_act (s : State) (k : Nat) (f : Port → Port) : (s.updPort k f).act = s.act := rfl
@[simp] theorem updPort_defer (s : State) (k : Nat) (f : Port → Port) : (s.updPort k f).defer = s.defer := rfl
@[simp] theorem updPort_package (s : State) (k : Nat) (f : Port → Port) : (s.updPort k f).package = s.package := rfl
@[simp] theorem updPort_recovery (s : State) (k : Nat) (f : Port → Port) : (s.updPort k f).recovery = s.recovery := rfl
@[simp] theorem updPort_mem (s : State) (k : Nat) (f : Port → Port) : (s.updPort k f).mem = s.mem := rfl
@[simp] theorem updPort_scratch (s : State) (k : Nat) (f : Port → Port) : (s.updPort k f).scratch = s.scratch := rfl
@[simp] theorem updPort_poison (s : State) (k : Nat) (f : Port → Port) : (s.updPort k f).poison = s.poison := rfl
@[simp] theorem updPort_scratchPoison (s : State) (k : Nat) (f : Port → Port) : (s.updPort k f).scratchPoison = s.scratchPoison := rfl
@[simp] theorem updPort_versions (s : State) (k : Nat) (f : Port → Port) : (s.updPort k f).versions = s.versions := rfl
@[simp] theorem updPort_barriers (s : State) (k : Nat) (f : Port → Port) : (s.updPort k f).barriers = s.barriers := rfl
@[simp] theorem updPort_frames (s : State) (k : Nat) (f : Port → Port) : (s.updPort k f).frames = s.frames := rfl
@[simp] theorem updPort_modes (s : State) (k : Nat) (f : Port → Port) : (s.updPort k f).modes = s.modes := rfl
@[simp] theorem updPort_hostLines (s : State) (k : Nat) (f : Port → Port) : (s.updPort k f).hostLines = s.hostLines := rfl
@[simp] theorem updPort_vldWaits (s : State) (k : Nat) (f : Port → Port) : (s.updPort k f).vldWaits = s.vldWaits := rfl
@[simp] theorem updPort_vstQueue (s : State) (k : Nat) (f : Port → Port) : (s.updPort k f).vstQueue = s.vstQueue := rfl
@[simp] theorem updPort_tlb (s : State) (k : Nat) (f : Port → Port) : (s.updPort k f).tlb = s.tlb := rfl
@[simp] theorem updPort_invals (s : State) (k : Nat) (f : Port → Port) : (s.updPort k f).invals = s.invals := rfl
@[simp] theorem updPort_ctxs (s : State) (k : Nat) (f : Port → Port) : (s.updPort k f).ctxs = s.ctxs := rfl
@[simp] theorem updPort_cores (s : State) (k : Nat) (f : Port → Port) : (s.updPort k f).cores = s.cores := rfl
@[simp] theorem updPort_regions (s : State) (k : Nat) (f : Port → Port) : (s.updPort k f).regions = s.regions := rfl
@[simp] theorem updPort_wires (s : State) (k : Nat) (f : Port → Port) : (s.updPort k f).wires = s.wires := rfl
@[simp] theorem updPort_landings (s : State) (k : Nat) (f : Port → Port) : (s.updPort k f).landings = s.landings := rfl
@[simp] theorem updPort_flights (s : State) (k : Nat) (f : Port → Port) : (s.updPort k f).flights = s.flights := rfl
@[simp] theorem updPort_nextId (s : State) (k : Nat) (f : Port → Port) : (s.updPort k f).nextId = s.nextId := rfl
@[simp] theorem updPort_cfgops (s : State) (k : Nat) (f : Port → Port) : (s.updPort k f).cfgops = s.cfgops := rfl
@[simp] theorem updPort_saved (s : State) (k : Nat) (f : Port → Port) : (s.updPort k f).saved = s.saved := rfl
@[simp] theorem updPort_launches (s : State) (k : Nat) (f : Port → Port) : (s.updPort k f).launches = s.launches := rfl
@[simp] theorem updPort_placeCtl (s : State) (k : Nat) (f : Port → Port) : (s.updPort k f).placeCtl = s.placeCtl := rfl
@[simp] theorem updPort_streams (s : State) (k : Nat) (f : Port → Port) : (s.updPort k f).streams = s.streams := rfl
@[simp] theorem updPort_lastSector (s : State) (k : Nat) (f : Port → Port) : (s.updPort k f).lastSector = s.lastSector := rfl
@[simp] theorem updPort_score (s : State) (k : Nat) (f : Port → Port) : (s.updPort k f).score = s.score := rfl
@[simp] theorem updPort_lastCtx (s : State) (k : Nat) (f : Port → Port) : (s.updPort k f).lastCtx = s.lastCtx := rfl
@[simp] theorem updPort_links (s : State) (k : Nat) (f : Port → Port) : (s.updPort k f).links = s.links := rfl
@[simp] theorem updPort_rays (s : State) (k : Nat) (f : Port → Port) : (s.updPort k f).rays = s.rays := rfl
@[simp] theorem updPort_islands (s : State) (k : Nat) (f : Port → Port) : (s.updPort k f).islands = s.islands := rfl
@[simp] theorem updPort_chain (s : State) (k : Nat) (f : Port → Port) : (s.updPort k f).chain = s.chain := rfl
@[simp] theorem updPort_rasters (s : State) (k : Nat) (f : Port → Port) : (s.updPort k f).rasters = s.rasters := rfl
@[simp] theorem updPort_tileTags (s : State) (k : Nat) (f : Port → Port) : (s.updPort k f).tileTags = s.tileTags := rfl
@[simp] theorem updPort_blendItems (s : State) (k : Nat) (f : Port → Port) : (s.updPort k f).blendItems = s.blendItems := rfl
@[simp] theorem updPort_isects (s : State) (k : Nat) (f : Port → Port) : (s.updPort k f).isects = s.isects := rfl
@[simp] theorem updPort_bushels (s : State) (k : Nat) (f : Port → Port) : (s.updPort k f).bushels = s.bushels := rfl
@[simp] theorem updPort_mrings (s : State) (k : Nat) (f : Port → Port) : (s.updPort k f).mrings = s.mrings := rfl
@[simp] theorem updPort_hostQs (s : State) (k : Nat) (f : Port → Port) : (s.updPort k f).hostQs = s.hostQs := rfl
@[simp] theorem updPort_msixTable (s : State) (k : Nat) (f : Port → Port) : (s.updPort k f).msixTable = s.msixTable := rfl
@[simp] theorem updPort_msixPend (s : State) (k : Nat) (f : Port → Port) : (s.updPort k f).msixPend = s.msixPend := rfl
@[simp] theorem updPort_msgs (s : State) (k : Nat) (f : Port → Port) : (s.updPort k f).msgs = s.msgs := rfl
@[simp] theorem updPort_sentMsgs (s : State) (k : Nat) (f : Port → Port) : (s.updPort k f).sentMsgs = s.sentMsgs := rfl
@[simp] theorem updPort_msixCtl (s : State) (k : Nat) (f : Port → Port) : (s.updPort k f).msixCtl = s.msixCtl := rfl
@[simp] theorem updPort_hdm (s : State) (k : Nat) (f : Port → Port) : (s.updPort k f).hdm = s.hdm := rfl
@[simp] theorem updPort_masks (s : State) (k : Nat) (f : Port → Port) : (s.updPort k f).masks = s.masks := rfl
@[simp] theorem updPort_newMasks (s : State) (k : Nat) (f : Port → Port) : (s.updPort k f).newMasks = s.newMasks := rfl
@[simp] theorem updPort_aports (s : State) (k : Nat) (f : Port → Port) : (s.updPort k f).aports = s.aports := rfl
@[simp] theorem updPort_reqs (s : State) (k : Nat) (f : Port → Port) : (s.updPort k f).reqs = s.reqs := rfl
@[simp] theorem updPort_remoteReads (s : State) (k : Nat) (f : Port → Port) : (s.updPort k f).remoteReads = s.remoteReads := rfl
@[simp] theorem updPort_answers (s : State) (k : Nat) (f : Port → Port) : (s.updPort k f).answers = s.answers := rfl
@[simp] theorem updPort_farEnds (s : State) (k : Nat) (f : Port → Port) : (s.updPort k f).farEnds = s.farEnds := rfl
@[simp] theorem updPort_peerWaits (s : State) (k : Nat) (f : Port → Port) : (s.updPort k f).peerWaits = s.peerWaits := rfl
@[simp] theorem updPort_recQueue (s : State) (k : Nat) (f : Port → Port) : (s.updPort k f).recQueue = s.recQueue := rfl
@[simp] theorem updPort_sectors (s : State) (k : Nat) (f : Port → Port) : (s.updPort k f).sectors = s.sectors := rfl
@[simp] theorem updPort_power (s : State) (k : Nat) (f : Port → Port) : (s.updPort k f).power = s.power := rfl
@[simp] theorem updPort_lastRefresh (s : State) (k : Nat) (f : Port → Port) : (s.updPort k f).lastRefresh = s.lastRefresh := rfl
@[simp] theorem updPort_corrected (s : State) (k : Nat) (f : Port → Port) : (s.updPort k f).corrected = s.corrected := rfl
@[simp] theorem updPort_talert (s : State) (k : Nat) (f : Port → Port) : (s.updPort k f).talert = s.talert := rfl
@[simp] theorem updPort_thyst (s : State) (k : Nat) (f : Port → Port) : (s.updPort k f).thyst = s.thyst := rfl
@[simp] theorem updPort_tstress (s : State) (k : Nat) (f : Port → Port) : (s.updPort k f).tstress = s.tstress := rfl
@[simp] theorem updPort_fqsel (s : State) (k : Nat) (f : Port → Port) : (s.updPort k f).fqsel = s.fqsel := rfl
@[simp] theorem updPort_prstBay (s : State) (k : Nat) (f : Port → Port) : (s.updPort k f).prstBay = s.prstBay := rfl
@[simp] theorem updPort_prstRun (s : State) (k : Nat) (f : Port → Port) : (s.updPort k f).prstRun = s.prstRun := rfl
@[simp] theorem updPort_downBays (s : State) (k : Nat) (f : Port → Port) : (s.updPort k f).downBays = s.downBays := rfl
@[simp] theorem updPort_evlprod (s : State) (k : Nat) (f : Port → Port) : (s.updPort k f).evlprod = s.evlprod := rfl
@[simp] theorem updPort_evlog (s : State) (k : Nat) (f : Port → Port) : (s.updPort k f).evlog = s.evlog := rfl
@[simp] theorem updPort_bootst (s : State) (k : Nat) (f : Port → Port) : (s.updPort k f).bootst = s.bootst := rfl
@[simp] theorem updPort_rcvaddr (s : State) (k : Nat) (f : Port → Port) : (s.updPort k f).rcvaddr = s.rcvaddr := rfl
@[simp] theorem updPort_rcvRun (s : State) (k : Nat) (f : Port → Port) : (s.updPort k f).rcvRun = s.rcvRun := rfl
@[simp] theorem updPort_fwImage (s : State) (k : Nat) (f : Port → Port) : (s.updPort k f).fwImage = s.fwImage := rfl
@[simp] theorem updPort_blobImage (s : State) (k : Nat) (f : Port → Port) : (s.updPort k f).blobImage = s.blobImage := rfl
@[simp] theorem updPort_hostReads (s : State) (k : Nat) (f : Port → Port) : (s.updPort k f).hostReads = s.hostReads := rfl
@[simp] theorem updPort_nonce (s : State) (k : Nat) (f : Port → Port) : (s.updPort k f).nonce = s.nonce := rfl
@[simp] theorem updPort_nonceHeld (s : State) (k : Nat) (f : Port → Port) : (s.updPort k f).nonceHeld = s.nonceHeld := rfl
@[simp] theorem updPort_attst (s : State) (k : Nat) (f : Port → Port) : (s.updPort k f).attst = s.attst := rfl
@[simp] theorem updPort_sig (s : State) (k : Nat) (f : Port → Port) : (s.updPort k f).sig = s.sig := rfl
@[simp] theorem updPort_kills (s : State) (k : Nat) (f : Port → Port) : (s.updPort k f).kills = s.kills := rfl

@[simp] theorem setLanding_cyc (s : State) (k : Nat) (l : List Landed) : (s.setLanding k l).cyc = s.cyc := rfl
@[simp] theorem setLanding_turns (s : State) (k : Nat) (l : List Landed) : (s.setLanding k l).turns = s.turns := rfl
@[simp] theorem setLanding_turnNo (s : State) (k : Nat) (l : List Landed) : (s.setLanding k l).turnNo = s.turnNo := rfl
@[simp] theorem setLanding_freeNo (s : State) (k : Nat) (l : List Landed) : (s.setLanding k l).freeNo = s.freeNo := rfl
@[simp] theorem setLanding_act (s : State) (k : Nat) (l : List Landed) : (s.setLanding k l).act = s.act := rfl
@[simp] theorem setLanding_defer (s : State) (k : Nat) (l : List Landed) : (s.setLanding k l).defer = s.defer := rfl
@[simp] theorem setLanding_package (s : State) (k : Nat) (l : List Landed) : (s.setLanding k l).package = s.package := rfl
@[simp] theorem setLanding_recovery (s : State) (k : Nat) (l : List Landed) : (s.setLanding k l).recovery = s.recovery := rfl
@[simp] theorem setLanding_mem (s : State) (k : Nat) (l : List Landed) : (s.setLanding k l).mem = s.mem := rfl
@[simp] theorem setLanding_scratch (s : State) (k : Nat) (l : List Landed) : (s.setLanding k l).scratch = s.scratch := rfl
@[simp] theorem setLanding_poison (s : State) (k : Nat) (l : List Landed) : (s.setLanding k l).poison = s.poison := rfl
@[simp] theorem setLanding_scratchPoison (s : State) (k : Nat) (l : List Landed) : (s.setLanding k l).scratchPoison = s.scratchPoison := rfl
@[simp] theorem setLanding_versions (s : State) (k : Nat) (l : List Landed) : (s.setLanding k l).versions = s.versions := rfl
@[simp] theorem setLanding_barriers (s : State) (k : Nat) (l : List Landed) : (s.setLanding k l).barriers = s.barriers := rfl
@[simp] theorem setLanding_frames (s : State) (k : Nat) (l : List Landed) : (s.setLanding k l).frames = s.frames := rfl
@[simp] theorem setLanding_modes (s : State) (k : Nat) (l : List Landed) : (s.setLanding k l).modes = s.modes := rfl
@[simp] theorem setLanding_hostLines (s : State) (k : Nat) (l : List Landed) : (s.setLanding k l).hostLines = s.hostLines := rfl
@[simp] theorem setLanding_vldWaits (s : State) (k : Nat) (l : List Landed) : (s.setLanding k l).vldWaits = s.vldWaits := rfl
@[simp] theorem setLanding_vstQueue (s : State) (k : Nat) (l : List Landed) : (s.setLanding k l).vstQueue = s.vstQueue := rfl
@[simp] theorem setLanding_tlb (s : State) (k : Nat) (l : List Landed) : (s.setLanding k l).tlb = s.tlb := rfl
@[simp] theorem setLanding_invals (s : State) (k : Nat) (l : List Landed) : (s.setLanding k l).invals = s.invals := rfl
@[simp] theorem setLanding_ctxs (s : State) (k : Nat) (l : List Landed) : (s.setLanding k l).ctxs = s.ctxs := rfl
@[simp] theorem setLanding_cores (s : State) (k : Nat) (l : List Landed) : (s.setLanding k l).cores = s.cores := rfl
@[simp] theorem setLanding_regions (s : State) (k : Nat) (l : List Landed) : (s.setLanding k l).regions = s.regions := rfl
@[simp] theorem setLanding_wires (s : State) (k : Nat) (l : List Landed) : (s.setLanding k l).wires = s.wires := rfl
@[simp] theorem setLanding_flights (s : State) (k : Nat) (l : List Landed) : (s.setLanding k l).flights = s.flights := rfl
@[simp] theorem setLanding_nextId (s : State) (k : Nat) (l : List Landed) : (s.setLanding k l).nextId = s.nextId := rfl
@[simp] theorem setLanding_ports (s : State) (k : Nat) (l : List Landed) : (s.setLanding k l).ports = s.ports := rfl
@[simp] theorem setLanding_cfgops (s : State) (k : Nat) (l : List Landed) : (s.setLanding k l).cfgops = s.cfgops := rfl
@[simp] theorem setLanding_saved (s : State) (k : Nat) (l : List Landed) : (s.setLanding k l).saved = s.saved := rfl
@[simp] theorem setLanding_launches (s : State) (k : Nat) (l : List Landed) : (s.setLanding k l).launches = s.launches := rfl
@[simp] theorem setLanding_placeCtl (s : State) (k : Nat) (l : List Landed) : (s.setLanding k l).placeCtl = s.placeCtl := rfl
@[simp] theorem setLanding_streams (s : State) (k : Nat) (l : List Landed) : (s.setLanding k l).streams = s.streams := rfl
@[simp] theorem setLanding_lastSector (s : State) (k : Nat) (l : List Landed) : (s.setLanding k l).lastSector = s.lastSector := rfl
@[simp] theorem setLanding_score (s : State) (k : Nat) (l : List Landed) : (s.setLanding k l).score = s.score := rfl
@[simp] theorem setLanding_lastCtx (s : State) (k : Nat) (l : List Landed) : (s.setLanding k l).lastCtx = s.lastCtx := rfl
@[simp] theorem setLanding_links (s : State) (k : Nat) (l : List Landed) : (s.setLanding k l).links = s.links := rfl
@[simp] theorem setLanding_rays (s : State) (k : Nat) (l : List Landed) : (s.setLanding k l).rays = s.rays := rfl
@[simp] theorem setLanding_islands (s : State) (k : Nat) (l : List Landed) : (s.setLanding k l).islands = s.islands := rfl
@[simp] theorem setLanding_chain (s : State) (k : Nat) (l : List Landed) : (s.setLanding k l).chain = s.chain := rfl
@[simp] theorem setLanding_rasters (s : State) (k : Nat) (l : List Landed) : (s.setLanding k l).rasters = s.rasters := rfl
@[simp] theorem setLanding_tileTags (s : State) (k : Nat) (l : List Landed) : (s.setLanding k l).tileTags = s.tileTags := rfl
@[simp] theorem setLanding_blendItems (s : State) (k : Nat) (l : List Landed) : (s.setLanding k l).blendItems = s.blendItems := rfl
@[simp] theorem setLanding_isects (s : State) (k : Nat) (l : List Landed) : (s.setLanding k l).isects = s.isects := rfl
@[simp] theorem setLanding_bushels (s : State) (k : Nat) (l : List Landed) : (s.setLanding k l).bushels = s.bushels := rfl
@[simp] theorem setLanding_mrings (s : State) (k : Nat) (l : List Landed) : (s.setLanding k l).mrings = s.mrings := rfl
@[simp] theorem setLanding_hostQs (s : State) (k : Nat) (l : List Landed) : (s.setLanding k l).hostQs = s.hostQs := rfl
@[simp] theorem setLanding_msixTable (s : State) (k : Nat) (l : List Landed) : (s.setLanding k l).msixTable = s.msixTable := rfl
@[simp] theorem setLanding_msixPend (s : State) (k : Nat) (l : List Landed) : (s.setLanding k l).msixPend = s.msixPend := rfl
@[simp] theorem setLanding_msgs (s : State) (k : Nat) (l : List Landed) : (s.setLanding k l).msgs = s.msgs := rfl
@[simp] theorem setLanding_sentMsgs (s : State) (k : Nat) (l : List Landed) : (s.setLanding k l).sentMsgs = s.sentMsgs := rfl
@[simp] theorem setLanding_msixCtl (s : State) (k : Nat) (l : List Landed) : (s.setLanding k l).msixCtl = s.msixCtl := rfl
@[simp] theorem setLanding_hdm (s : State) (k : Nat) (l : List Landed) : (s.setLanding k l).hdm = s.hdm := rfl
@[simp] theorem setLanding_masks (s : State) (k : Nat) (l : List Landed) : (s.setLanding k l).masks = s.masks := rfl
@[simp] theorem setLanding_newMasks (s : State) (k : Nat) (l : List Landed) : (s.setLanding k l).newMasks = s.newMasks := rfl
@[simp] theorem setLanding_aports (s : State) (k : Nat) (l : List Landed) : (s.setLanding k l).aports = s.aports := rfl
@[simp] theorem setLanding_reqs (s : State) (k : Nat) (l : List Landed) : (s.setLanding k l).reqs = s.reqs := rfl
@[simp] theorem setLanding_remoteReads (s : State) (k : Nat) (l : List Landed) : (s.setLanding k l).remoteReads = s.remoteReads := rfl
@[simp] theorem setLanding_answers (s : State) (k : Nat) (l : List Landed) : (s.setLanding k l).answers = s.answers := rfl
@[simp] theorem setLanding_farEnds (s : State) (k : Nat) (l : List Landed) : (s.setLanding k l).farEnds = s.farEnds := rfl
@[simp] theorem setLanding_peerWaits (s : State) (k : Nat) (l : List Landed) : (s.setLanding k l).peerWaits = s.peerWaits := rfl
@[simp] theorem setLanding_recQueue (s : State) (k : Nat) (l : List Landed) : (s.setLanding k l).recQueue = s.recQueue := rfl
@[simp] theorem setLanding_sectors (s : State) (k : Nat) (l : List Landed) : (s.setLanding k l).sectors = s.sectors := rfl
@[simp] theorem setLanding_power (s : State) (k : Nat) (l : List Landed) : (s.setLanding k l).power = s.power := rfl
@[simp] theorem setLanding_lastRefresh (s : State) (k : Nat) (l : List Landed) : (s.setLanding k l).lastRefresh = s.lastRefresh := rfl
@[simp] theorem setLanding_corrected (s : State) (k : Nat) (l : List Landed) : (s.setLanding k l).corrected = s.corrected := rfl
@[simp] theorem setLanding_talert (s : State) (k : Nat) (l : List Landed) : (s.setLanding k l).talert = s.talert := rfl
@[simp] theorem setLanding_thyst (s : State) (k : Nat) (l : List Landed) : (s.setLanding k l).thyst = s.thyst := rfl
@[simp] theorem setLanding_tstress (s : State) (k : Nat) (l : List Landed) : (s.setLanding k l).tstress = s.tstress := rfl
@[simp] theorem setLanding_fqsel (s : State) (k : Nat) (l : List Landed) : (s.setLanding k l).fqsel = s.fqsel := rfl
@[simp] theorem setLanding_prstBay (s : State) (k : Nat) (l : List Landed) : (s.setLanding k l).prstBay = s.prstBay := rfl
@[simp] theorem setLanding_prstRun (s : State) (k : Nat) (l : List Landed) : (s.setLanding k l).prstRun = s.prstRun := rfl
@[simp] theorem setLanding_downBays (s : State) (k : Nat) (l : List Landed) : (s.setLanding k l).downBays = s.downBays := rfl
@[simp] theorem setLanding_evlprod (s : State) (k : Nat) (l : List Landed) : (s.setLanding k l).evlprod = s.evlprod := rfl
@[simp] theorem setLanding_evlog (s : State) (k : Nat) (l : List Landed) : (s.setLanding k l).evlog = s.evlog := rfl
@[simp] theorem setLanding_bootst (s : State) (k : Nat) (l : List Landed) : (s.setLanding k l).bootst = s.bootst := rfl
@[simp] theorem setLanding_rcvaddr (s : State) (k : Nat) (l : List Landed) : (s.setLanding k l).rcvaddr = s.rcvaddr := rfl
@[simp] theorem setLanding_rcvRun (s : State) (k : Nat) (l : List Landed) : (s.setLanding k l).rcvRun = s.rcvRun := rfl
@[simp] theorem setLanding_fwImage (s : State) (k : Nat) (l : List Landed) : (s.setLanding k l).fwImage = s.fwImage := rfl
@[simp] theorem setLanding_blobImage (s : State) (k : Nat) (l : List Landed) : (s.setLanding k l).blobImage = s.blobImage := rfl
@[simp] theorem setLanding_hostReads (s : State) (k : Nat) (l : List Landed) : (s.setLanding k l).hostReads = s.hostReads := rfl
@[simp] theorem setLanding_nonce (s : State) (k : Nat) (l : List Landed) : (s.setLanding k l).nonce = s.nonce := rfl
@[simp] theorem setLanding_nonceHeld (s : State) (k : Nat) (l : List Landed) : (s.setLanding k l).nonceHeld = s.nonceHeld := rfl
@[simp] theorem setLanding_attst (s : State) (k : Nat) (l : List Landed) : (s.setLanding k l).attst = s.attst := rfl
@[simp] theorem setLanding_sig (s : State) (k : Nat) (l : List Landed) : (s.setLanding k l).sig = s.sig := rfl
@[simp] theorem setLanding_kills (s : State) (k : Nat) (l : List Landed) : (s.setLanding k l).kills = s.kills := rfl

@[simp] theorem updIsland_cyc (s : State) (k : Nat) (f : Island → Island) : (s.updIsland k f).cyc = s.cyc := rfl
@[simp] theorem updIsland_turns (s : State) (k : Nat) (f : Island → Island) : (s.updIsland k f).turns = s.turns := rfl
@[simp] theorem updIsland_turnNo (s : State) (k : Nat) (f : Island → Island) : (s.updIsland k f).turnNo = s.turnNo := rfl
@[simp] theorem updIsland_freeNo (s : State) (k : Nat) (f : Island → Island) : (s.updIsland k f).freeNo = s.freeNo := rfl
@[simp] theorem updIsland_act (s : State) (k : Nat) (f : Island → Island) : (s.updIsland k f).act = s.act := rfl
@[simp] theorem updIsland_defer (s : State) (k : Nat) (f : Island → Island) : (s.updIsland k f).defer = s.defer := rfl
@[simp] theorem updIsland_package (s : State) (k : Nat) (f : Island → Island) : (s.updIsland k f).package = s.package := rfl
@[simp] theorem updIsland_recovery (s : State) (k : Nat) (f : Island → Island) : (s.updIsland k f).recovery = s.recovery := rfl
@[simp] theorem updIsland_mem (s : State) (k : Nat) (f : Island → Island) : (s.updIsland k f).mem = s.mem := rfl
@[simp] theorem updIsland_scratch (s : State) (k : Nat) (f : Island → Island) : (s.updIsland k f).scratch = s.scratch := rfl
@[simp] theorem updIsland_poison (s : State) (k : Nat) (f : Island → Island) : (s.updIsland k f).poison = s.poison := rfl
@[simp] theorem updIsland_scratchPoison (s : State) (k : Nat) (f : Island → Island) : (s.updIsland k f).scratchPoison = s.scratchPoison := rfl
@[simp] theorem updIsland_versions (s : State) (k : Nat) (f : Island → Island) : (s.updIsland k f).versions = s.versions := rfl
@[simp] theorem updIsland_barriers (s : State) (k : Nat) (f : Island → Island) : (s.updIsland k f).barriers = s.barriers := rfl
@[simp] theorem updIsland_frames (s : State) (k : Nat) (f : Island → Island) : (s.updIsland k f).frames = s.frames := rfl
@[simp] theorem updIsland_modes (s : State) (k : Nat) (f : Island → Island) : (s.updIsland k f).modes = s.modes := rfl
@[simp] theorem updIsland_hostLines (s : State) (k : Nat) (f : Island → Island) : (s.updIsland k f).hostLines = s.hostLines := rfl
@[simp] theorem updIsland_vldWaits (s : State) (k : Nat) (f : Island → Island) : (s.updIsland k f).vldWaits = s.vldWaits := rfl
@[simp] theorem updIsland_vstQueue (s : State) (k : Nat) (f : Island → Island) : (s.updIsland k f).vstQueue = s.vstQueue := rfl
@[simp] theorem updIsland_tlb (s : State) (k : Nat) (f : Island → Island) : (s.updIsland k f).tlb = s.tlb := rfl
@[simp] theorem updIsland_invals (s : State) (k : Nat) (f : Island → Island) : (s.updIsland k f).invals = s.invals := rfl
@[simp] theorem updIsland_ctxs (s : State) (k : Nat) (f : Island → Island) : (s.updIsland k f).ctxs = s.ctxs := rfl
@[simp] theorem updIsland_cores (s : State) (k : Nat) (f : Island → Island) : (s.updIsland k f).cores = s.cores := rfl
@[simp] theorem updIsland_regions (s : State) (k : Nat) (f : Island → Island) : (s.updIsland k f).regions = s.regions := rfl
@[simp] theorem updIsland_wires (s : State) (k : Nat) (f : Island → Island) : (s.updIsland k f).wires = s.wires := rfl
@[simp] theorem updIsland_landings (s : State) (k : Nat) (f : Island → Island) : (s.updIsland k f).landings = s.landings := rfl
@[simp] theorem updIsland_flights (s : State) (k : Nat) (f : Island → Island) : (s.updIsland k f).flights = s.flights := rfl
@[simp] theorem updIsland_nextId (s : State) (k : Nat) (f : Island → Island) : (s.updIsland k f).nextId = s.nextId := rfl
@[simp] theorem updIsland_ports (s : State) (k : Nat) (f : Island → Island) : (s.updIsland k f).ports = s.ports := rfl
@[simp] theorem updIsland_cfgops (s : State) (k : Nat) (f : Island → Island) : (s.updIsland k f).cfgops = s.cfgops := rfl
@[simp] theorem updIsland_saved (s : State) (k : Nat) (f : Island → Island) : (s.updIsland k f).saved = s.saved := rfl
@[simp] theorem updIsland_launches (s : State) (k : Nat) (f : Island → Island) : (s.updIsland k f).launches = s.launches := rfl
@[simp] theorem updIsland_placeCtl (s : State) (k : Nat) (f : Island → Island) : (s.updIsland k f).placeCtl = s.placeCtl := rfl
@[simp] theorem updIsland_streams (s : State) (k : Nat) (f : Island → Island) : (s.updIsland k f).streams = s.streams := rfl
@[simp] theorem updIsland_lastSector (s : State) (k : Nat) (f : Island → Island) : (s.updIsland k f).lastSector = s.lastSector := rfl
@[simp] theorem updIsland_score (s : State) (k : Nat) (f : Island → Island) : (s.updIsland k f).score = s.score := rfl
@[simp] theorem updIsland_lastCtx (s : State) (k : Nat) (f : Island → Island) : (s.updIsland k f).lastCtx = s.lastCtx := rfl
@[simp] theorem updIsland_links (s : State) (k : Nat) (f : Island → Island) : (s.updIsland k f).links = s.links := rfl
@[simp] theorem updIsland_rays (s : State) (k : Nat) (f : Island → Island) : (s.updIsland k f).rays = s.rays := rfl
@[simp] theorem updIsland_chain (s : State) (k : Nat) (f : Island → Island) : (s.updIsland k f).chain = s.chain := rfl
@[simp] theorem updIsland_rasters (s : State) (k : Nat) (f : Island → Island) : (s.updIsland k f).rasters = s.rasters := rfl
@[simp] theorem updIsland_tileTags (s : State) (k : Nat) (f : Island → Island) : (s.updIsland k f).tileTags = s.tileTags := rfl
@[simp] theorem updIsland_blendItems (s : State) (k : Nat) (f : Island → Island) : (s.updIsland k f).blendItems = s.blendItems := rfl
@[simp] theorem updIsland_isects (s : State) (k : Nat) (f : Island → Island) : (s.updIsland k f).isects = s.isects := rfl
@[simp] theorem updIsland_bushels (s : State) (k : Nat) (f : Island → Island) : (s.updIsland k f).bushels = s.bushels := rfl
@[simp] theorem updIsland_mrings (s : State) (k : Nat) (f : Island → Island) : (s.updIsland k f).mrings = s.mrings := rfl
@[simp] theorem updIsland_hostQs (s : State) (k : Nat) (f : Island → Island) : (s.updIsland k f).hostQs = s.hostQs := rfl
@[simp] theorem updIsland_msixTable (s : State) (k : Nat) (f : Island → Island) : (s.updIsland k f).msixTable = s.msixTable := rfl
@[simp] theorem updIsland_msixPend (s : State) (k : Nat) (f : Island → Island) : (s.updIsland k f).msixPend = s.msixPend := rfl
@[simp] theorem updIsland_msgs (s : State) (k : Nat) (f : Island → Island) : (s.updIsland k f).msgs = s.msgs := rfl
@[simp] theorem updIsland_sentMsgs (s : State) (k : Nat) (f : Island → Island) : (s.updIsland k f).sentMsgs = s.sentMsgs := rfl
@[simp] theorem updIsland_msixCtl (s : State) (k : Nat) (f : Island → Island) : (s.updIsland k f).msixCtl = s.msixCtl := rfl
@[simp] theorem updIsland_hdm (s : State) (k : Nat) (f : Island → Island) : (s.updIsland k f).hdm = s.hdm := rfl
@[simp] theorem updIsland_masks (s : State) (k : Nat) (f : Island → Island) : (s.updIsland k f).masks = s.masks := rfl
@[simp] theorem updIsland_newMasks (s : State) (k : Nat) (f : Island → Island) : (s.updIsland k f).newMasks = s.newMasks := rfl
@[simp] theorem updIsland_aports (s : State) (k : Nat) (f : Island → Island) : (s.updIsland k f).aports = s.aports := rfl
@[simp] theorem updIsland_reqs (s : State) (k : Nat) (f : Island → Island) : (s.updIsland k f).reqs = s.reqs := rfl
@[simp] theorem updIsland_remoteReads (s : State) (k : Nat) (f : Island → Island) : (s.updIsland k f).remoteReads = s.remoteReads := rfl
@[simp] theorem updIsland_answers (s : State) (k : Nat) (f : Island → Island) : (s.updIsland k f).answers = s.answers := rfl
@[simp] theorem updIsland_farEnds (s : State) (k : Nat) (f : Island → Island) : (s.updIsland k f).farEnds = s.farEnds := rfl
@[simp] theorem updIsland_peerWaits (s : State) (k : Nat) (f : Island → Island) : (s.updIsland k f).peerWaits = s.peerWaits := rfl
@[simp] theorem updIsland_recQueue (s : State) (k : Nat) (f : Island → Island) : (s.updIsland k f).recQueue = s.recQueue := rfl
@[simp] theorem updIsland_sectors (s : State) (k : Nat) (f : Island → Island) : (s.updIsland k f).sectors = s.sectors := rfl
@[simp] theorem updIsland_power (s : State) (k : Nat) (f : Island → Island) : (s.updIsland k f).power = s.power := rfl
@[simp] theorem updIsland_lastRefresh (s : State) (k : Nat) (f : Island → Island) : (s.updIsland k f).lastRefresh = s.lastRefresh := rfl
@[simp] theorem updIsland_corrected (s : State) (k : Nat) (f : Island → Island) : (s.updIsland k f).corrected = s.corrected := rfl
@[simp] theorem updIsland_talert (s : State) (k : Nat) (f : Island → Island) : (s.updIsland k f).talert = s.talert := rfl
@[simp] theorem updIsland_thyst (s : State) (k : Nat) (f : Island → Island) : (s.updIsland k f).thyst = s.thyst := rfl
@[simp] theorem updIsland_tstress (s : State) (k : Nat) (f : Island → Island) : (s.updIsland k f).tstress = s.tstress := rfl
@[simp] theorem updIsland_fqsel (s : State) (k : Nat) (f : Island → Island) : (s.updIsland k f).fqsel = s.fqsel := rfl
@[simp] theorem updIsland_prstBay (s : State) (k : Nat) (f : Island → Island) : (s.updIsland k f).prstBay = s.prstBay := rfl
@[simp] theorem updIsland_prstRun (s : State) (k : Nat) (f : Island → Island) : (s.updIsland k f).prstRun = s.prstRun := rfl
@[simp] theorem updIsland_downBays (s : State) (k : Nat) (f : Island → Island) : (s.updIsland k f).downBays = s.downBays := rfl
@[simp] theorem updIsland_evlprod (s : State) (k : Nat) (f : Island → Island) : (s.updIsland k f).evlprod = s.evlprod := rfl
@[simp] theorem updIsland_evlog (s : State) (k : Nat) (f : Island → Island) : (s.updIsland k f).evlog = s.evlog := rfl
@[simp] theorem updIsland_bootst (s : State) (k : Nat) (f : Island → Island) : (s.updIsland k f).bootst = s.bootst := rfl
@[simp] theorem updIsland_rcvaddr (s : State) (k : Nat) (f : Island → Island) : (s.updIsland k f).rcvaddr = s.rcvaddr := rfl
@[simp] theorem updIsland_rcvRun (s : State) (k : Nat) (f : Island → Island) : (s.updIsland k f).rcvRun = s.rcvRun := rfl
@[simp] theorem updIsland_fwImage (s : State) (k : Nat) (f : Island → Island) : (s.updIsland k f).fwImage = s.fwImage := rfl
@[simp] theorem updIsland_blobImage (s : State) (k : Nat) (f : Island → Island) : (s.updIsland k f).blobImage = s.blobImage := rfl
@[simp] theorem updIsland_hostReads (s : State) (k : Nat) (f : Island → Island) : (s.updIsland k f).hostReads = s.hostReads := rfl
@[simp] theorem updIsland_nonce (s : State) (k : Nat) (f : Island → Island) : (s.updIsland k f).nonce = s.nonce := rfl
@[simp] theorem updIsland_nonceHeld (s : State) (k : Nat) (f : Island → Island) : (s.updIsland k f).nonceHeld = s.nonceHeld := rfl
@[simp] theorem updIsland_attst (s : State) (k : Nat) (f : Island → Island) : (s.updIsland k f).attst = s.attst := rfl
@[simp] theorem updIsland_sig (s : State) (k : Nat) (f : Island → Island) : (s.updIsland k f).sig = s.sig := rfl
@[simp] theorem updIsland_kills (s : State) (k : Nat) (f : Island → Island) : (s.updIsland k f).kills = s.kills := rfl

@[simp] theorem setRay_cyc (s : State) (x : Ray) : (s.setRay x).cyc = s.cyc := rfl
@[simp] theorem setRay_turns (s : State) (x : Ray) : (s.setRay x).turns = s.turns := rfl
@[simp] theorem setRay_turnNo (s : State) (x : Ray) : (s.setRay x).turnNo = s.turnNo := rfl
@[simp] theorem setRay_freeNo (s : State) (x : Ray) : (s.setRay x).freeNo = s.freeNo := rfl
@[simp] theorem setRay_act (s : State) (x : Ray) : (s.setRay x).act = s.act := rfl
@[simp] theorem setRay_defer (s : State) (x : Ray) : (s.setRay x).defer = s.defer := rfl
@[simp] theorem setRay_package (s : State) (x : Ray) : (s.setRay x).package = s.package := rfl
@[simp] theorem setRay_recovery (s : State) (x : Ray) : (s.setRay x).recovery = s.recovery := rfl
@[simp] theorem setRay_mem (s : State) (x : Ray) : (s.setRay x).mem = s.mem := rfl
@[simp] theorem setRay_scratch (s : State) (x : Ray) : (s.setRay x).scratch = s.scratch := rfl
@[simp] theorem setRay_poison (s : State) (x : Ray) : (s.setRay x).poison = s.poison := rfl
@[simp] theorem setRay_scratchPoison (s : State) (x : Ray) : (s.setRay x).scratchPoison = s.scratchPoison := rfl
@[simp] theorem setRay_versions (s : State) (x : Ray) : (s.setRay x).versions = s.versions := rfl
@[simp] theorem setRay_barriers (s : State) (x : Ray) : (s.setRay x).barriers = s.barriers := rfl
@[simp] theorem setRay_frames (s : State) (x : Ray) : (s.setRay x).frames = s.frames := rfl
@[simp] theorem setRay_modes (s : State) (x : Ray) : (s.setRay x).modes = s.modes := rfl
@[simp] theorem setRay_hostLines (s : State) (x : Ray) : (s.setRay x).hostLines = s.hostLines := rfl
@[simp] theorem setRay_vldWaits (s : State) (x : Ray) : (s.setRay x).vldWaits = s.vldWaits := rfl
@[simp] theorem setRay_vstQueue (s : State) (x : Ray) : (s.setRay x).vstQueue = s.vstQueue := rfl
@[simp] theorem setRay_tlb (s : State) (x : Ray) : (s.setRay x).tlb = s.tlb := rfl
@[simp] theorem setRay_invals (s : State) (x : Ray) : (s.setRay x).invals = s.invals := rfl
@[simp] theorem setRay_ctxs (s : State) (x : Ray) : (s.setRay x).ctxs = s.ctxs := rfl
@[simp] theorem setRay_cores (s : State) (x : Ray) : (s.setRay x).cores = s.cores := rfl
@[simp] theorem setRay_regions (s : State) (x : Ray) : (s.setRay x).regions = s.regions := rfl
@[simp] theorem setRay_wires (s : State) (x : Ray) : (s.setRay x).wires = s.wires := rfl
@[simp] theorem setRay_landings (s : State) (x : Ray) : (s.setRay x).landings = s.landings := rfl
@[simp] theorem setRay_flights (s : State) (x : Ray) : (s.setRay x).flights = s.flights := rfl
@[simp] theorem setRay_nextId (s : State) (x : Ray) : (s.setRay x).nextId = s.nextId := rfl
@[simp] theorem setRay_ports (s : State) (x : Ray) : (s.setRay x).ports = s.ports := rfl
@[simp] theorem setRay_cfgops (s : State) (x : Ray) : (s.setRay x).cfgops = s.cfgops := rfl
@[simp] theorem setRay_saved (s : State) (x : Ray) : (s.setRay x).saved = s.saved := rfl
@[simp] theorem setRay_launches (s : State) (x : Ray) : (s.setRay x).launches = s.launches := rfl
@[simp] theorem setRay_placeCtl (s : State) (x : Ray) : (s.setRay x).placeCtl = s.placeCtl := rfl
@[simp] theorem setRay_streams (s : State) (x : Ray) : (s.setRay x).streams = s.streams := rfl
@[simp] theorem setRay_lastSector (s : State) (x : Ray) : (s.setRay x).lastSector = s.lastSector := rfl
@[simp] theorem setRay_score (s : State) (x : Ray) : (s.setRay x).score = s.score := rfl
@[simp] theorem setRay_lastCtx (s : State) (x : Ray) : (s.setRay x).lastCtx = s.lastCtx := rfl
@[simp] theorem setRay_links (s : State) (x : Ray) : (s.setRay x).links = s.links := rfl
@[simp] theorem setRay_islands (s : State) (x : Ray) : (s.setRay x).islands = s.islands := rfl
@[simp] theorem setRay_chain (s : State) (x : Ray) : (s.setRay x).chain = s.chain := rfl
@[simp] theorem setRay_rasters (s : State) (x : Ray) : (s.setRay x).rasters = s.rasters := rfl
@[simp] theorem setRay_tileTags (s : State) (x : Ray) : (s.setRay x).tileTags = s.tileTags := rfl
@[simp] theorem setRay_blendItems (s : State) (x : Ray) : (s.setRay x).blendItems = s.blendItems := rfl
@[simp] theorem setRay_isects (s : State) (x : Ray) : (s.setRay x).isects = s.isects := rfl
@[simp] theorem setRay_bushels (s : State) (x : Ray) : (s.setRay x).bushels = s.bushels := rfl
@[simp] theorem setRay_mrings (s : State) (x : Ray) : (s.setRay x).mrings = s.mrings := rfl
@[simp] theorem setRay_hostQs (s : State) (x : Ray) : (s.setRay x).hostQs = s.hostQs := rfl
@[simp] theorem setRay_msixTable (s : State) (x : Ray) : (s.setRay x).msixTable = s.msixTable := rfl
@[simp] theorem setRay_msixPend (s : State) (x : Ray) : (s.setRay x).msixPend = s.msixPend := rfl
@[simp] theorem setRay_msgs (s : State) (x : Ray) : (s.setRay x).msgs = s.msgs := rfl
@[simp] theorem setRay_sentMsgs (s : State) (x : Ray) : (s.setRay x).sentMsgs = s.sentMsgs := rfl
@[simp] theorem setRay_msixCtl (s : State) (x : Ray) : (s.setRay x).msixCtl = s.msixCtl := rfl
@[simp] theorem setRay_hdm (s : State) (x : Ray) : (s.setRay x).hdm = s.hdm := rfl
@[simp] theorem setRay_masks (s : State) (x : Ray) : (s.setRay x).masks = s.masks := rfl
@[simp] theorem setRay_newMasks (s : State) (x : Ray) : (s.setRay x).newMasks = s.newMasks := rfl
@[simp] theorem setRay_aports (s : State) (x : Ray) : (s.setRay x).aports = s.aports := rfl
@[simp] theorem setRay_reqs (s : State) (x : Ray) : (s.setRay x).reqs = s.reqs := rfl
@[simp] theorem setRay_remoteReads (s : State) (x : Ray) : (s.setRay x).remoteReads = s.remoteReads := rfl
@[simp] theorem setRay_answers (s : State) (x : Ray) : (s.setRay x).answers = s.answers := rfl
@[simp] theorem setRay_farEnds (s : State) (x : Ray) : (s.setRay x).farEnds = s.farEnds := rfl
@[simp] theorem setRay_peerWaits (s : State) (x : Ray) : (s.setRay x).peerWaits = s.peerWaits := rfl
@[simp] theorem setRay_recQueue (s : State) (x : Ray) : (s.setRay x).recQueue = s.recQueue := rfl
@[simp] theorem setRay_sectors (s : State) (x : Ray) : (s.setRay x).sectors = s.sectors := rfl
@[simp] theorem setRay_power (s : State) (x : Ray) : (s.setRay x).power = s.power := rfl
@[simp] theorem setRay_lastRefresh (s : State) (x : Ray) : (s.setRay x).lastRefresh = s.lastRefresh := rfl
@[simp] theorem setRay_corrected (s : State) (x : Ray) : (s.setRay x).corrected = s.corrected := rfl
@[simp] theorem setRay_talert (s : State) (x : Ray) : (s.setRay x).talert = s.talert := rfl
@[simp] theorem setRay_thyst (s : State) (x : Ray) : (s.setRay x).thyst = s.thyst := rfl
@[simp] theorem setRay_tstress (s : State) (x : Ray) : (s.setRay x).tstress = s.tstress := rfl
@[simp] theorem setRay_fqsel (s : State) (x : Ray) : (s.setRay x).fqsel = s.fqsel := rfl
@[simp] theorem setRay_prstBay (s : State) (x : Ray) : (s.setRay x).prstBay = s.prstBay := rfl
@[simp] theorem setRay_prstRun (s : State) (x : Ray) : (s.setRay x).prstRun = s.prstRun := rfl
@[simp] theorem setRay_downBays (s : State) (x : Ray) : (s.setRay x).downBays = s.downBays := rfl
@[simp] theorem setRay_evlprod (s : State) (x : Ray) : (s.setRay x).evlprod = s.evlprod := rfl
@[simp] theorem setRay_evlog (s : State) (x : Ray) : (s.setRay x).evlog = s.evlog := rfl
@[simp] theorem setRay_bootst (s : State) (x : Ray) : (s.setRay x).bootst = s.bootst := rfl
@[simp] theorem setRay_rcvaddr (s : State) (x : Ray) : (s.setRay x).rcvaddr = s.rcvaddr := rfl
@[simp] theorem setRay_rcvRun (s : State) (x : Ray) : (s.setRay x).rcvRun = s.rcvRun := rfl
@[simp] theorem setRay_fwImage (s : State) (x : Ray) : (s.setRay x).fwImage = s.fwImage := rfl
@[simp] theorem setRay_blobImage (s : State) (x : Ray) : (s.setRay x).blobImage = s.blobImage := rfl
@[simp] theorem setRay_hostReads (s : State) (x : Ray) : (s.setRay x).hostReads = s.hostReads := rfl
@[simp] theorem setRay_nonce (s : State) (x : Ray) : (s.setRay x).nonce = s.nonce := rfl
@[simp] theorem setRay_nonceHeld (s : State) (x : Ray) : (s.setRay x).nonceHeld = s.nonceHeld := rfl
@[simp] theorem setRay_attst (s : State) (x : Ray) : (s.setRay x).attst = s.attst := rfl
@[simp] theorem setRay_sig (s : State) (x : Ray) : (s.setRay x).sig = s.sig := rfl
@[simp] theorem setRay_kills (s : State) (x : Ray) : (s.setRay x).kills = s.kills := rfl

@[simp] theorem updIsect_cyc (s : State) (k : Nat) (f : Isect → Isect) : (s.updIsect k f).cyc = s.cyc := rfl
@[simp] theorem updIsect_turns (s : State) (k : Nat) (f : Isect → Isect) : (s.updIsect k f).turns = s.turns := rfl
@[simp] theorem updIsect_turnNo (s : State) (k : Nat) (f : Isect → Isect) : (s.updIsect k f).turnNo = s.turnNo := rfl
@[simp] theorem updIsect_freeNo (s : State) (k : Nat) (f : Isect → Isect) : (s.updIsect k f).freeNo = s.freeNo := rfl
@[simp] theorem updIsect_act (s : State) (k : Nat) (f : Isect → Isect) : (s.updIsect k f).act = s.act := rfl
@[simp] theorem updIsect_defer (s : State) (k : Nat) (f : Isect → Isect) : (s.updIsect k f).defer = s.defer := rfl
@[simp] theorem updIsect_package (s : State) (k : Nat) (f : Isect → Isect) : (s.updIsect k f).package = s.package := rfl
@[simp] theorem updIsect_recovery (s : State) (k : Nat) (f : Isect → Isect) : (s.updIsect k f).recovery = s.recovery := rfl
@[simp] theorem updIsect_mem (s : State) (k : Nat) (f : Isect → Isect) : (s.updIsect k f).mem = s.mem := rfl
@[simp] theorem updIsect_scratch (s : State) (k : Nat) (f : Isect → Isect) : (s.updIsect k f).scratch = s.scratch := rfl
@[simp] theorem updIsect_poison (s : State) (k : Nat) (f : Isect → Isect) : (s.updIsect k f).poison = s.poison := rfl
@[simp] theorem updIsect_scratchPoison (s : State) (k : Nat) (f : Isect → Isect) : (s.updIsect k f).scratchPoison = s.scratchPoison := rfl
@[simp] theorem updIsect_versions (s : State) (k : Nat) (f : Isect → Isect) : (s.updIsect k f).versions = s.versions := rfl
@[simp] theorem updIsect_barriers (s : State) (k : Nat) (f : Isect → Isect) : (s.updIsect k f).barriers = s.barriers := rfl
@[simp] theorem updIsect_frames (s : State) (k : Nat) (f : Isect → Isect) : (s.updIsect k f).frames = s.frames := rfl
@[simp] theorem updIsect_modes (s : State) (k : Nat) (f : Isect → Isect) : (s.updIsect k f).modes = s.modes := rfl
@[simp] theorem updIsect_hostLines (s : State) (k : Nat) (f : Isect → Isect) : (s.updIsect k f).hostLines = s.hostLines := rfl
@[simp] theorem updIsect_vldWaits (s : State) (k : Nat) (f : Isect → Isect) : (s.updIsect k f).vldWaits = s.vldWaits := rfl
@[simp] theorem updIsect_vstQueue (s : State) (k : Nat) (f : Isect → Isect) : (s.updIsect k f).vstQueue = s.vstQueue := rfl
@[simp] theorem updIsect_tlb (s : State) (k : Nat) (f : Isect → Isect) : (s.updIsect k f).tlb = s.tlb := rfl
@[simp] theorem updIsect_invals (s : State) (k : Nat) (f : Isect → Isect) : (s.updIsect k f).invals = s.invals := rfl
@[simp] theorem updIsect_ctxs (s : State) (k : Nat) (f : Isect → Isect) : (s.updIsect k f).ctxs = s.ctxs := rfl
@[simp] theorem updIsect_cores (s : State) (k : Nat) (f : Isect → Isect) : (s.updIsect k f).cores = s.cores := rfl
@[simp] theorem updIsect_regions (s : State) (k : Nat) (f : Isect → Isect) : (s.updIsect k f).regions = s.regions := rfl
@[simp] theorem updIsect_wires (s : State) (k : Nat) (f : Isect → Isect) : (s.updIsect k f).wires = s.wires := rfl
@[simp] theorem updIsect_landings (s : State) (k : Nat) (f : Isect → Isect) : (s.updIsect k f).landings = s.landings := rfl
@[simp] theorem updIsect_flights (s : State) (k : Nat) (f : Isect → Isect) : (s.updIsect k f).flights = s.flights := rfl
@[simp] theorem updIsect_nextId (s : State) (k : Nat) (f : Isect → Isect) : (s.updIsect k f).nextId = s.nextId := rfl
@[simp] theorem updIsect_ports (s : State) (k : Nat) (f : Isect → Isect) : (s.updIsect k f).ports = s.ports := rfl
@[simp] theorem updIsect_cfgops (s : State) (k : Nat) (f : Isect → Isect) : (s.updIsect k f).cfgops = s.cfgops := rfl
@[simp] theorem updIsect_saved (s : State) (k : Nat) (f : Isect → Isect) : (s.updIsect k f).saved = s.saved := rfl
@[simp] theorem updIsect_launches (s : State) (k : Nat) (f : Isect → Isect) : (s.updIsect k f).launches = s.launches := rfl
@[simp] theorem updIsect_placeCtl (s : State) (k : Nat) (f : Isect → Isect) : (s.updIsect k f).placeCtl = s.placeCtl := rfl
@[simp] theorem updIsect_streams (s : State) (k : Nat) (f : Isect → Isect) : (s.updIsect k f).streams = s.streams := rfl
@[simp] theorem updIsect_lastSector (s : State) (k : Nat) (f : Isect → Isect) : (s.updIsect k f).lastSector = s.lastSector := rfl
@[simp] theorem updIsect_score (s : State) (k : Nat) (f : Isect → Isect) : (s.updIsect k f).score = s.score := rfl
@[simp] theorem updIsect_lastCtx (s : State) (k : Nat) (f : Isect → Isect) : (s.updIsect k f).lastCtx = s.lastCtx := rfl
@[simp] theorem updIsect_links (s : State) (k : Nat) (f : Isect → Isect) : (s.updIsect k f).links = s.links := rfl
@[simp] theorem updIsect_rays (s : State) (k : Nat) (f : Isect → Isect) : (s.updIsect k f).rays = s.rays := rfl
@[simp] theorem updIsect_islands (s : State) (k : Nat) (f : Isect → Isect) : (s.updIsect k f).islands = s.islands := rfl
@[simp] theorem updIsect_chain (s : State) (k : Nat) (f : Isect → Isect) : (s.updIsect k f).chain = s.chain := rfl
@[simp] theorem updIsect_rasters (s : State) (k : Nat) (f : Isect → Isect) : (s.updIsect k f).rasters = s.rasters := rfl
@[simp] theorem updIsect_tileTags (s : State) (k : Nat) (f : Isect → Isect) : (s.updIsect k f).tileTags = s.tileTags := rfl
@[simp] theorem updIsect_blendItems (s : State) (k : Nat) (f : Isect → Isect) : (s.updIsect k f).blendItems = s.blendItems := rfl
@[simp] theorem updIsect_bushels (s : State) (k : Nat) (f : Isect → Isect) : (s.updIsect k f).bushels = s.bushels := rfl
@[simp] theorem updIsect_mrings (s : State) (k : Nat) (f : Isect → Isect) : (s.updIsect k f).mrings = s.mrings := rfl
@[simp] theorem updIsect_hostQs (s : State) (k : Nat) (f : Isect → Isect) : (s.updIsect k f).hostQs = s.hostQs := rfl
@[simp] theorem updIsect_msixTable (s : State) (k : Nat) (f : Isect → Isect) : (s.updIsect k f).msixTable = s.msixTable := rfl
@[simp] theorem updIsect_msixPend (s : State) (k : Nat) (f : Isect → Isect) : (s.updIsect k f).msixPend = s.msixPend := rfl
@[simp] theorem updIsect_msgs (s : State) (k : Nat) (f : Isect → Isect) : (s.updIsect k f).msgs = s.msgs := rfl
@[simp] theorem updIsect_sentMsgs (s : State) (k : Nat) (f : Isect → Isect) : (s.updIsect k f).sentMsgs = s.sentMsgs := rfl
@[simp] theorem updIsect_msixCtl (s : State) (k : Nat) (f : Isect → Isect) : (s.updIsect k f).msixCtl = s.msixCtl := rfl
@[simp] theorem updIsect_hdm (s : State) (k : Nat) (f : Isect → Isect) : (s.updIsect k f).hdm = s.hdm := rfl
@[simp] theorem updIsect_masks (s : State) (k : Nat) (f : Isect → Isect) : (s.updIsect k f).masks = s.masks := rfl
@[simp] theorem updIsect_newMasks (s : State) (k : Nat) (f : Isect → Isect) : (s.updIsect k f).newMasks = s.newMasks := rfl
@[simp] theorem updIsect_aports (s : State) (k : Nat) (f : Isect → Isect) : (s.updIsect k f).aports = s.aports := rfl
@[simp] theorem updIsect_reqs (s : State) (k : Nat) (f : Isect → Isect) : (s.updIsect k f).reqs = s.reqs := rfl
@[simp] theorem updIsect_remoteReads (s : State) (k : Nat) (f : Isect → Isect) : (s.updIsect k f).remoteReads = s.remoteReads := rfl
@[simp] theorem updIsect_answers (s : State) (k : Nat) (f : Isect → Isect) : (s.updIsect k f).answers = s.answers := rfl
@[simp] theorem updIsect_farEnds (s : State) (k : Nat) (f : Isect → Isect) : (s.updIsect k f).farEnds = s.farEnds := rfl
@[simp] theorem updIsect_peerWaits (s : State) (k : Nat) (f : Isect → Isect) : (s.updIsect k f).peerWaits = s.peerWaits := rfl
@[simp] theorem updIsect_recQueue (s : State) (k : Nat) (f : Isect → Isect) : (s.updIsect k f).recQueue = s.recQueue := rfl
@[simp] theorem updIsect_sectors (s : State) (k : Nat) (f : Isect → Isect) : (s.updIsect k f).sectors = s.sectors := rfl
@[simp] theorem updIsect_power (s : State) (k : Nat) (f : Isect → Isect) : (s.updIsect k f).power = s.power := rfl
@[simp] theorem updIsect_lastRefresh (s : State) (k : Nat) (f : Isect → Isect) : (s.updIsect k f).lastRefresh = s.lastRefresh := rfl
@[simp] theorem updIsect_corrected (s : State) (k : Nat) (f : Isect → Isect) : (s.updIsect k f).corrected = s.corrected := rfl
@[simp] theorem updIsect_talert (s : State) (k : Nat) (f : Isect → Isect) : (s.updIsect k f).talert = s.talert := rfl
@[simp] theorem updIsect_thyst (s : State) (k : Nat) (f : Isect → Isect) : (s.updIsect k f).thyst = s.thyst := rfl
@[simp] theorem updIsect_tstress (s : State) (k : Nat) (f : Isect → Isect) : (s.updIsect k f).tstress = s.tstress := rfl
@[simp] theorem updIsect_fqsel (s : State) (k : Nat) (f : Isect → Isect) : (s.updIsect k f).fqsel = s.fqsel := rfl
@[simp] theorem updIsect_prstBay (s : State) (k : Nat) (f : Isect → Isect) : (s.updIsect k f).prstBay = s.prstBay := rfl
@[simp] theorem updIsect_prstRun (s : State) (k : Nat) (f : Isect → Isect) : (s.updIsect k f).prstRun = s.prstRun := rfl
@[simp] theorem updIsect_downBays (s : State) (k : Nat) (f : Isect → Isect) : (s.updIsect k f).downBays = s.downBays := rfl
@[simp] theorem updIsect_evlprod (s : State) (k : Nat) (f : Isect → Isect) : (s.updIsect k f).evlprod = s.evlprod := rfl
@[simp] theorem updIsect_evlog (s : State) (k : Nat) (f : Isect → Isect) : (s.updIsect k f).evlog = s.evlog := rfl
@[simp] theorem updIsect_bootst (s : State) (k : Nat) (f : Isect → Isect) : (s.updIsect k f).bootst = s.bootst := rfl
@[simp] theorem updIsect_rcvaddr (s : State) (k : Nat) (f : Isect → Isect) : (s.updIsect k f).rcvaddr = s.rcvaddr := rfl
@[simp] theorem updIsect_rcvRun (s : State) (k : Nat) (f : Isect → Isect) : (s.updIsect k f).rcvRun = s.rcvRun := rfl
@[simp] theorem updIsect_fwImage (s : State) (k : Nat) (f : Isect → Isect) : (s.updIsect k f).fwImage = s.fwImage := rfl
@[simp] theorem updIsect_blobImage (s : State) (k : Nat) (f : Isect → Isect) : (s.updIsect k f).blobImage = s.blobImage := rfl
@[simp] theorem updIsect_hostReads (s : State) (k : Nat) (f : Isect → Isect) : (s.updIsect k f).hostReads = s.hostReads := rfl
@[simp] theorem updIsect_nonce (s : State) (k : Nat) (f : Isect → Isect) : (s.updIsect k f).nonce = s.nonce := rfl
@[simp] theorem updIsect_nonceHeld (s : State) (k : Nat) (f : Isect → Isect) : (s.updIsect k f).nonceHeld = s.nonceHeld := rfl
@[simp] theorem updIsect_attst (s : State) (k : Nat) (f : Isect → Isect) : (s.updIsect k f).attst = s.attst := rfl
@[simp] theorem updIsect_sig (s : State) (k : Nat) (f : Isect → Isect) : (s.updIsect k f).sig = s.sig := rfl
@[simp] theorem updIsect_kills (s : State) (k : Nat) (f : Isect → Isect) : (s.updIsect k f).kills = s.kills := rfl

@[simp] theorem updRaster_cyc (s : State) (k : Nat) (f : Raster → Raster) : (s.updRaster k f).cyc = s.cyc := rfl
@[simp] theorem updRaster_turns (s : State) (k : Nat) (f : Raster → Raster) : (s.updRaster k f).turns = s.turns := rfl
@[simp] theorem updRaster_turnNo (s : State) (k : Nat) (f : Raster → Raster) : (s.updRaster k f).turnNo = s.turnNo := rfl
@[simp] theorem updRaster_freeNo (s : State) (k : Nat) (f : Raster → Raster) : (s.updRaster k f).freeNo = s.freeNo := rfl
@[simp] theorem updRaster_act (s : State) (k : Nat) (f : Raster → Raster) : (s.updRaster k f).act = s.act := rfl
@[simp] theorem updRaster_defer (s : State) (k : Nat) (f : Raster → Raster) : (s.updRaster k f).defer = s.defer := rfl
@[simp] theorem updRaster_package (s : State) (k : Nat) (f : Raster → Raster) : (s.updRaster k f).package = s.package := rfl
@[simp] theorem updRaster_recovery (s : State) (k : Nat) (f : Raster → Raster) : (s.updRaster k f).recovery = s.recovery := rfl
@[simp] theorem updRaster_mem (s : State) (k : Nat) (f : Raster → Raster) : (s.updRaster k f).mem = s.mem := rfl
@[simp] theorem updRaster_scratch (s : State) (k : Nat) (f : Raster → Raster) : (s.updRaster k f).scratch = s.scratch := rfl
@[simp] theorem updRaster_poison (s : State) (k : Nat) (f : Raster → Raster) : (s.updRaster k f).poison = s.poison := rfl
@[simp] theorem updRaster_scratchPoison (s : State) (k : Nat) (f : Raster → Raster) : (s.updRaster k f).scratchPoison = s.scratchPoison := rfl
@[simp] theorem updRaster_versions (s : State) (k : Nat) (f : Raster → Raster) : (s.updRaster k f).versions = s.versions := rfl
@[simp] theorem updRaster_barriers (s : State) (k : Nat) (f : Raster → Raster) : (s.updRaster k f).barriers = s.barriers := rfl
@[simp] theorem updRaster_frames (s : State) (k : Nat) (f : Raster → Raster) : (s.updRaster k f).frames = s.frames := rfl
@[simp] theorem updRaster_modes (s : State) (k : Nat) (f : Raster → Raster) : (s.updRaster k f).modes = s.modes := rfl
@[simp] theorem updRaster_hostLines (s : State) (k : Nat) (f : Raster → Raster) : (s.updRaster k f).hostLines = s.hostLines := rfl
@[simp] theorem updRaster_vldWaits (s : State) (k : Nat) (f : Raster → Raster) : (s.updRaster k f).vldWaits = s.vldWaits := rfl
@[simp] theorem updRaster_vstQueue (s : State) (k : Nat) (f : Raster → Raster) : (s.updRaster k f).vstQueue = s.vstQueue := rfl
@[simp] theorem updRaster_tlb (s : State) (k : Nat) (f : Raster → Raster) : (s.updRaster k f).tlb = s.tlb := rfl
@[simp] theorem updRaster_invals (s : State) (k : Nat) (f : Raster → Raster) : (s.updRaster k f).invals = s.invals := rfl
@[simp] theorem updRaster_ctxs (s : State) (k : Nat) (f : Raster → Raster) : (s.updRaster k f).ctxs = s.ctxs := rfl
@[simp] theorem updRaster_cores (s : State) (k : Nat) (f : Raster → Raster) : (s.updRaster k f).cores = s.cores := rfl
@[simp] theorem updRaster_regions (s : State) (k : Nat) (f : Raster → Raster) : (s.updRaster k f).regions = s.regions := rfl
@[simp] theorem updRaster_wires (s : State) (k : Nat) (f : Raster → Raster) : (s.updRaster k f).wires = s.wires := rfl
@[simp] theorem updRaster_landings (s : State) (k : Nat) (f : Raster → Raster) : (s.updRaster k f).landings = s.landings := rfl
@[simp] theorem updRaster_flights (s : State) (k : Nat) (f : Raster → Raster) : (s.updRaster k f).flights = s.flights := rfl
@[simp] theorem updRaster_nextId (s : State) (k : Nat) (f : Raster → Raster) : (s.updRaster k f).nextId = s.nextId := rfl
@[simp] theorem updRaster_ports (s : State) (k : Nat) (f : Raster → Raster) : (s.updRaster k f).ports = s.ports := rfl
@[simp] theorem updRaster_cfgops (s : State) (k : Nat) (f : Raster → Raster) : (s.updRaster k f).cfgops = s.cfgops := rfl
@[simp] theorem updRaster_saved (s : State) (k : Nat) (f : Raster → Raster) : (s.updRaster k f).saved = s.saved := rfl
@[simp] theorem updRaster_launches (s : State) (k : Nat) (f : Raster → Raster) : (s.updRaster k f).launches = s.launches := rfl
@[simp] theorem updRaster_placeCtl (s : State) (k : Nat) (f : Raster → Raster) : (s.updRaster k f).placeCtl = s.placeCtl := rfl
@[simp] theorem updRaster_streams (s : State) (k : Nat) (f : Raster → Raster) : (s.updRaster k f).streams = s.streams := rfl
@[simp] theorem updRaster_lastSector (s : State) (k : Nat) (f : Raster → Raster) : (s.updRaster k f).lastSector = s.lastSector := rfl
@[simp] theorem updRaster_score (s : State) (k : Nat) (f : Raster → Raster) : (s.updRaster k f).score = s.score := rfl
@[simp] theorem updRaster_lastCtx (s : State) (k : Nat) (f : Raster → Raster) : (s.updRaster k f).lastCtx = s.lastCtx := rfl
@[simp] theorem updRaster_links (s : State) (k : Nat) (f : Raster → Raster) : (s.updRaster k f).links = s.links := rfl
@[simp] theorem updRaster_rays (s : State) (k : Nat) (f : Raster → Raster) : (s.updRaster k f).rays = s.rays := rfl
@[simp] theorem updRaster_islands (s : State) (k : Nat) (f : Raster → Raster) : (s.updRaster k f).islands = s.islands := rfl
@[simp] theorem updRaster_chain (s : State) (k : Nat) (f : Raster → Raster) : (s.updRaster k f).chain = s.chain := rfl
@[simp] theorem updRaster_tileTags (s : State) (k : Nat) (f : Raster → Raster) : (s.updRaster k f).tileTags = s.tileTags := rfl
@[simp] theorem updRaster_blendItems (s : State) (k : Nat) (f : Raster → Raster) : (s.updRaster k f).blendItems = s.blendItems := rfl
@[simp] theorem updRaster_isects (s : State) (k : Nat) (f : Raster → Raster) : (s.updRaster k f).isects = s.isects := rfl
@[simp] theorem updRaster_bushels (s : State) (k : Nat) (f : Raster → Raster) : (s.updRaster k f).bushels = s.bushels := rfl
@[simp] theorem updRaster_mrings (s : State) (k : Nat) (f : Raster → Raster) : (s.updRaster k f).mrings = s.mrings := rfl
@[simp] theorem updRaster_hostQs (s : State) (k : Nat) (f : Raster → Raster) : (s.updRaster k f).hostQs = s.hostQs := rfl
@[simp] theorem updRaster_msixTable (s : State) (k : Nat) (f : Raster → Raster) : (s.updRaster k f).msixTable = s.msixTable := rfl
@[simp] theorem updRaster_msixPend (s : State) (k : Nat) (f : Raster → Raster) : (s.updRaster k f).msixPend = s.msixPend := rfl
@[simp] theorem updRaster_msgs (s : State) (k : Nat) (f : Raster → Raster) : (s.updRaster k f).msgs = s.msgs := rfl
@[simp] theorem updRaster_sentMsgs (s : State) (k : Nat) (f : Raster → Raster) : (s.updRaster k f).sentMsgs = s.sentMsgs := rfl
@[simp] theorem updRaster_msixCtl (s : State) (k : Nat) (f : Raster → Raster) : (s.updRaster k f).msixCtl = s.msixCtl := rfl
@[simp] theorem updRaster_hdm (s : State) (k : Nat) (f : Raster → Raster) : (s.updRaster k f).hdm = s.hdm := rfl
@[simp] theorem updRaster_masks (s : State) (k : Nat) (f : Raster → Raster) : (s.updRaster k f).masks = s.masks := rfl
@[simp] theorem updRaster_newMasks (s : State) (k : Nat) (f : Raster → Raster) : (s.updRaster k f).newMasks = s.newMasks := rfl
@[simp] theorem updRaster_aports (s : State) (k : Nat) (f : Raster → Raster) : (s.updRaster k f).aports = s.aports := rfl
@[simp] theorem updRaster_reqs (s : State) (k : Nat) (f : Raster → Raster) : (s.updRaster k f).reqs = s.reqs := rfl
@[simp] theorem updRaster_remoteReads (s : State) (k : Nat) (f : Raster → Raster) : (s.updRaster k f).remoteReads = s.remoteReads := rfl
@[simp] theorem updRaster_answers (s : State) (k : Nat) (f : Raster → Raster) : (s.updRaster k f).answers = s.answers := rfl
@[simp] theorem updRaster_farEnds (s : State) (k : Nat) (f : Raster → Raster) : (s.updRaster k f).farEnds = s.farEnds := rfl
@[simp] theorem updRaster_peerWaits (s : State) (k : Nat) (f : Raster → Raster) : (s.updRaster k f).peerWaits = s.peerWaits := rfl
@[simp] theorem updRaster_recQueue (s : State) (k : Nat) (f : Raster → Raster) : (s.updRaster k f).recQueue = s.recQueue := rfl
@[simp] theorem updRaster_sectors (s : State) (k : Nat) (f : Raster → Raster) : (s.updRaster k f).sectors = s.sectors := rfl
@[simp] theorem updRaster_power (s : State) (k : Nat) (f : Raster → Raster) : (s.updRaster k f).power = s.power := rfl
@[simp] theorem updRaster_lastRefresh (s : State) (k : Nat) (f : Raster → Raster) : (s.updRaster k f).lastRefresh = s.lastRefresh := rfl
@[simp] theorem updRaster_corrected (s : State) (k : Nat) (f : Raster → Raster) : (s.updRaster k f).corrected = s.corrected := rfl
@[simp] theorem updRaster_talert (s : State) (k : Nat) (f : Raster → Raster) : (s.updRaster k f).talert = s.talert := rfl
@[simp] theorem updRaster_thyst (s : State) (k : Nat) (f : Raster → Raster) : (s.updRaster k f).thyst = s.thyst := rfl
@[simp] theorem updRaster_tstress (s : State) (k : Nat) (f : Raster → Raster) : (s.updRaster k f).tstress = s.tstress := rfl
@[simp] theorem updRaster_fqsel (s : State) (k : Nat) (f : Raster → Raster) : (s.updRaster k f).fqsel = s.fqsel := rfl
@[simp] theorem updRaster_prstBay (s : State) (k : Nat) (f : Raster → Raster) : (s.updRaster k f).prstBay = s.prstBay := rfl
@[simp] theorem updRaster_prstRun (s : State) (k : Nat) (f : Raster → Raster) : (s.updRaster k f).prstRun = s.prstRun := rfl
@[simp] theorem updRaster_downBays (s : State) (k : Nat) (f : Raster → Raster) : (s.updRaster k f).downBays = s.downBays := rfl
@[simp] theorem updRaster_evlprod (s : State) (k : Nat) (f : Raster → Raster) : (s.updRaster k f).evlprod = s.evlprod := rfl
@[simp] theorem updRaster_evlog (s : State) (k : Nat) (f : Raster → Raster) : (s.updRaster k f).evlog = s.evlog := rfl
@[simp] theorem updRaster_bootst (s : State) (k : Nat) (f : Raster → Raster) : (s.updRaster k f).bootst = s.bootst := rfl
@[simp] theorem updRaster_rcvaddr (s : State) (k : Nat) (f : Raster → Raster) : (s.updRaster k f).rcvaddr = s.rcvaddr := rfl
@[simp] theorem updRaster_rcvRun (s : State) (k : Nat) (f : Raster → Raster) : (s.updRaster k f).rcvRun = s.rcvRun := rfl
@[simp] theorem updRaster_fwImage (s : State) (k : Nat) (f : Raster → Raster) : (s.updRaster k f).fwImage = s.fwImage := rfl
@[simp] theorem updRaster_blobImage (s : State) (k : Nat) (f : Raster → Raster) : (s.updRaster k f).blobImage = s.blobImage := rfl
@[simp] theorem updRaster_hostReads (s : State) (k : Nat) (f : Raster → Raster) : (s.updRaster k f).hostReads = s.hostReads := rfl
@[simp] theorem updRaster_nonce (s : State) (k : Nat) (f : Raster → Raster) : (s.updRaster k f).nonce = s.nonce := rfl
@[simp] theorem updRaster_nonceHeld (s : State) (k : Nat) (f : Raster → Raster) : (s.updRaster k f).nonceHeld = s.nonceHeld := rfl
@[simp] theorem updRaster_attst (s : State) (k : Nat) (f : Raster → Raster) : (s.updRaster k f).attst = s.attst := rfl
@[simp] theorem updRaster_sig (s : State) (k : Nat) (f : Raster → Raster) : (s.updRaster k f).sig = s.sig := rfl
@[simp] theorem updRaster_kills (s : State) (k : Nat) (f : Raster → Raster) : (s.updRaster k f).kills = s.kills := rfl

@[simp] theorem updSector_cyc (s : State) (k : Nat) (f : SectorSt → SectorSt) : (s.updSector k f).cyc = s.cyc := rfl
@[simp] theorem updSector_turns (s : State) (k : Nat) (f : SectorSt → SectorSt) : (s.updSector k f).turns = s.turns := rfl
@[simp] theorem updSector_turnNo (s : State) (k : Nat) (f : SectorSt → SectorSt) : (s.updSector k f).turnNo = s.turnNo := rfl
@[simp] theorem updSector_freeNo (s : State) (k : Nat) (f : SectorSt → SectorSt) : (s.updSector k f).freeNo = s.freeNo := rfl
@[simp] theorem updSector_act (s : State) (k : Nat) (f : SectorSt → SectorSt) : (s.updSector k f).act = s.act := rfl
@[simp] theorem updSector_defer (s : State) (k : Nat) (f : SectorSt → SectorSt) : (s.updSector k f).defer = s.defer := rfl
@[simp] theorem updSector_package (s : State) (k : Nat) (f : SectorSt → SectorSt) : (s.updSector k f).package = s.package := rfl
@[simp] theorem updSector_recovery (s : State) (k : Nat) (f : SectorSt → SectorSt) : (s.updSector k f).recovery = s.recovery := rfl
@[simp] theorem updSector_mem (s : State) (k : Nat) (f : SectorSt → SectorSt) : (s.updSector k f).mem = s.mem := rfl
@[simp] theorem updSector_scratch (s : State) (k : Nat) (f : SectorSt → SectorSt) : (s.updSector k f).scratch = s.scratch := rfl
@[simp] theorem updSector_poison (s : State) (k : Nat) (f : SectorSt → SectorSt) : (s.updSector k f).poison = s.poison := rfl
@[simp] theorem updSector_scratchPoison (s : State) (k : Nat) (f : SectorSt → SectorSt) : (s.updSector k f).scratchPoison = s.scratchPoison := rfl
@[simp] theorem updSector_versions (s : State) (k : Nat) (f : SectorSt → SectorSt) : (s.updSector k f).versions = s.versions := rfl
@[simp] theorem updSector_barriers (s : State) (k : Nat) (f : SectorSt → SectorSt) : (s.updSector k f).barriers = s.barriers := rfl
@[simp] theorem updSector_frames (s : State) (k : Nat) (f : SectorSt → SectorSt) : (s.updSector k f).frames = s.frames := rfl
@[simp] theorem updSector_modes (s : State) (k : Nat) (f : SectorSt → SectorSt) : (s.updSector k f).modes = s.modes := rfl
@[simp] theorem updSector_hostLines (s : State) (k : Nat) (f : SectorSt → SectorSt) : (s.updSector k f).hostLines = s.hostLines := rfl
@[simp] theorem updSector_vldWaits (s : State) (k : Nat) (f : SectorSt → SectorSt) : (s.updSector k f).vldWaits = s.vldWaits := rfl
@[simp] theorem updSector_vstQueue (s : State) (k : Nat) (f : SectorSt → SectorSt) : (s.updSector k f).vstQueue = s.vstQueue := rfl
@[simp] theorem updSector_tlb (s : State) (k : Nat) (f : SectorSt → SectorSt) : (s.updSector k f).tlb = s.tlb := rfl
@[simp] theorem updSector_invals (s : State) (k : Nat) (f : SectorSt → SectorSt) : (s.updSector k f).invals = s.invals := rfl
@[simp] theorem updSector_ctxs (s : State) (k : Nat) (f : SectorSt → SectorSt) : (s.updSector k f).ctxs = s.ctxs := rfl
@[simp] theorem updSector_cores (s : State) (k : Nat) (f : SectorSt → SectorSt) : (s.updSector k f).cores = s.cores := rfl
@[simp] theorem updSector_regions (s : State) (k : Nat) (f : SectorSt → SectorSt) : (s.updSector k f).regions = s.regions := rfl
@[simp] theorem updSector_wires (s : State) (k : Nat) (f : SectorSt → SectorSt) : (s.updSector k f).wires = s.wires := rfl
@[simp] theorem updSector_landings (s : State) (k : Nat) (f : SectorSt → SectorSt) : (s.updSector k f).landings = s.landings := rfl
@[simp] theorem updSector_flights (s : State) (k : Nat) (f : SectorSt → SectorSt) : (s.updSector k f).flights = s.flights := rfl
@[simp] theorem updSector_nextId (s : State) (k : Nat) (f : SectorSt → SectorSt) : (s.updSector k f).nextId = s.nextId := rfl
@[simp] theorem updSector_ports (s : State) (k : Nat) (f : SectorSt → SectorSt) : (s.updSector k f).ports = s.ports := rfl
@[simp] theorem updSector_cfgops (s : State) (k : Nat) (f : SectorSt → SectorSt) : (s.updSector k f).cfgops = s.cfgops := rfl
@[simp] theorem updSector_saved (s : State) (k : Nat) (f : SectorSt → SectorSt) : (s.updSector k f).saved = s.saved := rfl
@[simp] theorem updSector_launches (s : State) (k : Nat) (f : SectorSt → SectorSt) : (s.updSector k f).launches = s.launches := rfl
@[simp] theorem updSector_placeCtl (s : State) (k : Nat) (f : SectorSt → SectorSt) : (s.updSector k f).placeCtl = s.placeCtl := rfl
@[simp] theorem updSector_streams (s : State) (k : Nat) (f : SectorSt → SectorSt) : (s.updSector k f).streams = s.streams := rfl
@[simp] theorem updSector_lastSector (s : State) (k : Nat) (f : SectorSt → SectorSt) : (s.updSector k f).lastSector = s.lastSector := rfl
@[simp] theorem updSector_score (s : State) (k : Nat) (f : SectorSt → SectorSt) : (s.updSector k f).score = s.score := rfl
@[simp] theorem updSector_lastCtx (s : State) (k : Nat) (f : SectorSt → SectorSt) : (s.updSector k f).lastCtx = s.lastCtx := rfl
@[simp] theorem updSector_links (s : State) (k : Nat) (f : SectorSt → SectorSt) : (s.updSector k f).links = s.links := rfl
@[simp] theorem updSector_rays (s : State) (k : Nat) (f : SectorSt → SectorSt) : (s.updSector k f).rays = s.rays := rfl
@[simp] theorem updSector_islands (s : State) (k : Nat) (f : SectorSt → SectorSt) : (s.updSector k f).islands = s.islands := rfl
@[simp] theorem updSector_chain (s : State) (k : Nat) (f : SectorSt → SectorSt) : (s.updSector k f).chain = s.chain := rfl
@[simp] theorem updSector_rasters (s : State) (k : Nat) (f : SectorSt → SectorSt) : (s.updSector k f).rasters = s.rasters := rfl
@[simp] theorem updSector_tileTags (s : State) (k : Nat) (f : SectorSt → SectorSt) : (s.updSector k f).tileTags = s.tileTags := rfl
@[simp] theorem updSector_blendItems (s : State) (k : Nat) (f : SectorSt → SectorSt) : (s.updSector k f).blendItems = s.blendItems := rfl
@[simp] theorem updSector_isects (s : State) (k : Nat) (f : SectorSt → SectorSt) : (s.updSector k f).isects = s.isects := rfl
@[simp] theorem updSector_bushels (s : State) (k : Nat) (f : SectorSt → SectorSt) : (s.updSector k f).bushels = s.bushels := rfl
@[simp] theorem updSector_mrings (s : State) (k : Nat) (f : SectorSt → SectorSt) : (s.updSector k f).mrings = s.mrings := rfl
@[simp] theorem updSector_hostQs (s : State) (k : Nat) (f : SectorSt → SectorSt) : (s.updSector k f).hostQs = s.hostQs := rfl
@[simp] theorem updSector_msixTable (s : State) (k : Nat) (f : SectorSt → SectorSt) : (s.updSector k f).msixTable = s.msixTable := rfl
@[simp] theorem updSector_msixPend (s : State) (k : Nat) (f : SectorSt → SectorSt) : (s.updSector k f).msixPend = s.msixPend := rfl
@[simp] theorem updSector_msgs (s : State) (k : Nat) (f : SectorSt → SectorSt) : (s.updSector k f).msgs = s.msgs := rfl
@[simp] theorem updSector_sentMsgs (s : State) (k : Nat) (f : SectorSt → SectorSt) : (s.updSector k f).sentMsgs = s.sentMsgs := rfl
@[simp] theorem updSector_msixCtl (s : State) (k : Nat) (f : SectorSt → SectorSt) : (s.updSector k f).msixCtl = s.msixCtl := rfl
@[simp] theorem updSector_hdm (s : State) (k : Nat) (f : SectorSt → SectorSt) : (s.updSector k f).hdm = s.hdm := rfl
@[simp] theorem updSector_masks (s : State) (k : Nat) (f : SectorSt → SectorSt) : (s.updSector k f).masks = s.masks := rfl
@[simp] theorem updSector_newMasks (s : State) (k : Nat) (f : SectorSt → SectorSt) : (s.updSector k f).newMasks = s.newMasks := rfl
@[simp] theorem updSector_aports (s : State) (k : Nat) (f : SectorSt → SectorSt) : (s.updSector k f).aports = s.aports := rfl
@[simp] theorem updSector_reqs (s : State) (k : Nat) (f : SectorSt → SectorSt) : (s.updSector k f).reqs = s.reqs := rfl
@[simp] theorem updSector_remoteReads (s : State) (k : Nat) (f : SectorSt → SectorSt) : (s.updSector k f).remoteReads = s.remoteReads := rfl
@[simp] theorem updSector_answers (s : State) (k : Nat) (f : SectorSt → SectorSt) : (s.updSector k f).answers = s.answers := rfl
@[simp] theorem updSector_farEnds (s : State) (k : Nat) (f : SectorSt → SectorSt) : (s.updSector k f).farEnds = s.farEnds := rfl
@[simp] theorem updSector_peerWaits (s : State) (k : Nat) (f : SectorSt → SectorSt) : (s.updSector k f).peerWaits = s.peerWaits := rfl
@[simp] theorem updSector_recQueue (s : State) (k : Nat) (f : SectorSt → SectorSt) : (s.updSector k f).recQueue = s.recQueue := rfl
@[simp] theorem updSector_power (s : State) (k : Nat) (f : SectorSt → SectorSt) : (s.updSector k f).power = s.power := rfl
@[simp] theorem updSector_lastRefresh (s : State) (k : Nat) (f : SectorSt → SectorSt) : (s.updSector k f).lastRefresh = s.lastRefresh := rfl
@[simp] theorem updSector_corrected (s : State) (k : Nat) (f : SectorSt → SectorSt) : (s.updSector k f).corrected = s.corrected := rfl
@[simp] theorem updSector_talert (s : State) (k : Nat) (f : SectorSt → SectorSt) : (s.updSector k f).talert = s.talert := rfl
@[simp] theorem updSector_thyst (s : State) (k : Nat) (f : SectorSt → SectorSt) : (s.updSector k f).thyst = s.thyst := rfl
@[simp] theorem updSector_tstress (s : State) (k : Nat) (f : SectorSt → SectorSt) : (s.updSector k f).tstress = s.tstress := rfl
@[simp] theorem updSector_fqsel (s : State) (k : Nat) (f : SectorSt → SectorSt) : (s.updSector k f).fqsel = s.fqsel := rfl
@[simp] theorem updSector_prstBay (s : State) (k : Nat) (f : SectorSt → SectorSt) : (s.updSector k f).prstBay = s.prstBay := rfl
@[simp] theorem updSector_prstRun (s : State) (k : Nat) (f : SectorSt → SectorSt) : (s.updSector k f).prstRun = s.prstRun := rfl
@[simp] theorem updSector_downBays (s : State) (k : Nat) (f : SectorSt → SectorSt) : (s.updSector k f).downBays = s.downBays := rfl
@[simp] theorem updSector_evlprod (s : State) (k : Nat) (f : SectorSt → SectorSt) : (s.updSector k f).evlprod = s.evlprod := rfl
@[simp] theorem updSector_evlog (s : State) (k : Nat) (f : SectorSt → SectorSt) : (s.updSector k f).evlog = s.evlog := rfl
@[simp] theorem updSector_bootst (s : State) (k : Nat) (f : SectorSt → SectorSt) : (s.updSector k f).bootst = s.bootst := rfl
@[simp] theorem updSector_rcvaddr (s : State) (k : Nat) (f : SectorSt → SectorSt) : (s.updSector k f).rcvaddr = s.rcvaddr := rfl
@[simp] theorem updSector_rcvRun (s : State) (k : Nat) (f : SectorSt → SectorSt) : (s.updSector k f).rcvRun = s.rcvRun := rfl
@[simp] theorem updSector_fwImage (s : State) (k : Nat) (f : SectorSt → SectorSt) : (s.updSector k f).fwImage = s.fwImage := rfl
@[simp] theorem updSector_blobImage (s : State) (k : Nat) (f : SectorSt → SectorSt) : (s.updSector k f).blobImage = s.blobImage := rfl
@[simp] theorem updSector_hostReads (s : State) (k : Nat) (f : SectorSt → SectorSt) : (s.updSector k f).hostReads = s.hostReads := rfl
@[simp] theorem updSector_nonce (s : State) (k : Nat) (f : SectorSt → SectorSt) : (s.updSector k f).nonce = s.nonce := rfl
@[simp] theorem updSector_nonceHeld (s : State) (k : Nat) (f : SectorSt → SectorSt) : (s.updSector k f).nonceHeld = s.nonceHeld := rfl
@[simp] theorem updSector_attst (s : State) (k : Nat) (f : SectorSt → SectorSt) : (s.updSector k f).attst = s.attst := rfl
@[simp] theorem updSector_sig (s : State) (k : Nat) (f : SectorSt → SectorSt) : (s.updSector k f).sig = s.sig := rfl
@[simp] theorem updSector_kills (s : State) (k : Nat) (f : SectorSt → SectorSt) : (s.updSector k f).kills = s.kills := rfl

@[simp] theorem endReads_cyc (s : State) (r : Reader) : (s.endReads r).cyc = s.cyc := rfl
@[simp] theorem endReads_turns (s : State) (r : Reader) : (s.endReads r).turns = s.turns := rfl
@[simp] theorem endReads_turnNo (s : State) (r : Reader) : (s.endReads r).turnNo = s.turnNo := rfl
@[simp] theorem endReads_freeNo (s : State) (r : Reader) : (s.endReads r).freeNo = s.freeNo := rfl
@[simp] theorem endReads_act (s : State) (r : Reader) : (s.endReads r).act = s.act := rfl
@[simp] theorem endReads_defer (s : State) (r : Reader) : (s.endReads r).defer = s.defer := rfl
@[simp] theorem endReads_package (s : State) (r : Reader) : (s.endReads r).package = s.package := rfl
@[simp] theorem endReads_recovery (s : State) (r : Reader) : (s.endReads r).recovery = s.recovery := rfl
@[simp] theorem endReads_mem (s : State) (r : Reader) : (s.endReads r).mem = s.mem := rfl
@[simp] theorem endReads_scratch (s : State) (r : Reader) : (s.endReads r).scratch = s.scratch := rfl
@[simp] theorem endReads_poison (s : State) (r : Reader) : (s.endReads r).poison = s.poison := rfl
@[simp] theorem endReads_scratchPoison (s : State) (r : Reader) : (s.endReads r).scratchPoison = s.scratchPoison := rfl
@[simp] theorem endReads_versions (s : State) (r : Reader) : (s.endReads r).versions = s.versions := rfl
@[simp] theorem endReads_barriers (s : State) (r : Reader) : (s.endReads r).barriers = s.barriers := rfl
@[simp] theorem endReads_frames (s : State) (r : Reader) : (s.endReads r).frames = s.frames := rfl
@[simp] theorem endReads_modes (s : State) (r : Reader) : (s.endReads r).modes = s.modes := rfl
@[simp] theorem endReads_hostLines (s : State) (r : Reader) : (s.endReads r).hostLines = s.hostLines := rfl
@[simp] theorem endReads_vldWaits (s : State) (r : Reader) : (s.endReads r).vldWaits = s.vldWaits := rfl
@[simp] theorem endReads_vstQueue (s : State) (r : Reader) : (s.endReads r).vstQueue = s.vstQueue := rfl
@[simp] theorem endReads_tlb (s : State) (r : Reader) : (s.endReads r).tlb = s.tlb := rfl
@[simp] theorem endReads_invals (s : State) (r : Reader) : (s.endReads r).invals = s.invals := rfl
@[simp] theorem endReads_ctxs (s : State) (r : Reader) : (s.endReads r).ctxs = s.ctxs := rfl
@[simp] theorem endReads_cores (s : State) (r : Reader) : (s.endReads r).cores = s.cores := rfl
@[simp] theorem endReads_regions (s : State) (r : Reader) : (s.endReads r).regions = s.regions := rfl
@[simp] theorem endReads_wires (s : State) (r : Reader) : (s.endReads r).wires = s.wires := rfl
@[simp] theorem endReads_landings (s : State) (r : Reader) : (s.endReads r).landings = s.landings := rfl
@[simp] theorem endReads_flights (s : State) (r : Reader) : (s.endReads r).flights = s.flights := rfl
@[simp] theorem endReads_nextId (s : State) (r : Reader) : (s.endReads r).nextId = s.nextId := rfl
@[simp] theorem endReads_ports (s : State) (r : Reader) : (s.endReads r).ports = s.ports := rfl
@[simp] theorem endReads_cfgops (s : State) (r : Reader) : (s.endReads r).cfgops = s.cfgops := rfl
@[simp] theorem endReads_saved (s : State) (r : Reader) : (s.endReads r).saved = s.saved := rfl
@[simp] theorem endReads_launches (s : State) (r : Reader) : (s.endReads r).launches = s.launches := rfl
@[simp] theorem endReads_placeCtl (s : State) (r : Reader) : (s.endReads r).placeCtl = s.placeCtl := rfl
@[simp] theorem endReads_streams (s : State) (r : Reader) : (s.endReads r).streams = s.streams := rfl
@[simp] theorem endReads_lastSector (s : State) (r : Reader) : (s.endReads r).lastSector = s.lastSector := rfl
@[simp] theorem endReads_score (s : State) (r : Reader) : (s.endReads r).score = s.score := rfl
@[simp] theorem endReads_lastCtx (s : State) (r : Reader) : (s.endReads r).lastCtx = s.lastCtx := rfl
@[simp] theorem endReads_links (s : State) (r : Reader) : (s.endReads r).links = s.links := rfl
@[simp] theorem endReads_rays (s : State) (r : Reader) : (s.endReads r).rays = s.rays := rfl
@[simp] theorem endReads_islands (s : State) (r : Reader) : (s.endReads r).islands = s.islands := rfl
@[simp] theorem endReads_chain (s : State) (r : Reader) : (s.endReads r).chain = s.chain := rfl
@[simp] theorem endReads_rasters (s : State) (r : Reader) : (s.endReads r).rasters = s.rasters := rfl
@[simp] theorem endReads_tileTags (s : State) (r : Reader) : (s.endReads r).tileTags = s.tileTags := rfl
@[simp] theorem endReads_blendItems (s : State) (r : Reader) : (s.endReads r).blendItems = s.blendItems := rfl
@[simp] theorem endReads_isects (s : State) (r : Reader) : (s.endReads r).isects = s.isects := rfl
@[simp] theorem endReads_bushels (s : State) (r : Reader) : (s.endReads r).bushels = s.bushels := rfl
@[simp] theorem endReads_mrings (s : State) (r : Reader) : (s.endReads r).mrings = s.mrings := rfl
@[simp] theorem endReads_hostQs (s : State) (r : Reader) : (s.endReads r).hostQs = s.hostQs := rfl
@[simp] theorem endReads_msixTable (s : State) (r : Reader) : (s.endReads r).msixTable = s.msixTable := rfl
@[simp] theorem endReads_msixPend (s : State) (r : Reader) : (s.endReads r).msixPend = s.msixPend := rfl
@[simp] theorem endReads_msgs (s : State) (r : Reader) : (s.endReads r).msgs = s.msgs := rfl
@[simp] theorem endReads_sentMsgs (s : State) (r : Reader) : (s.endReads r).sentMsgs = s.sentMsgs := rfl
@[simp] theorem endReads_msixCtl (s : State) (r : Reader) : (s.endReads r).msixCtl = s.msixCtl := rfl
@[simp] theorem endReads_hdm (s : State) (r : Reader) : (s.endReads r).hdm = s.hdm := rfl
@[simp] theorem endReads_masks (s : State) (r : Reader) : (s.endReads r).masks = s.masks := rfl
@[simp] theorem endReads_newMasks (s : State) (r : Reader) : (s.endReads r).newMasks = s.newMasks := rfl
@[simp] theorem endReads_aports (s : State) (r : Reader) : (s.endReads r).aports = s.aports := rfl
@[simp] theorem endReads_reqs (s : State) (r : Reader) : (s.endReads r).reqs = s.reqs := rfl
@[simp] theorem endReads_answers (s : State) (r : Reader) : (s.endReads r).answers = s.answers := rfl
@[simp] theorem endReads_farEnds (s : State) (r : Reader) : (s.endReads r).farEnds = s.farEnds := rfl
@[simp] theorem endReads_peerWaits (s : State) (r : Reader) : (s.endReads r).peerWaits = s.peerWaits := rfl
@[simp] theorem endReads_recQueue (s : State) (r : Reader) : (s.endReads r).recQueue = s.recQueue := rfl
@[simp] theorem endReads_sectors (s : State) (r : Reader) : (s.endReads r).sectors = s.sectors := rfl
@[simp] theorem endReads_power (s : State) (r : Reader) : (s.endReads r).power = s.power := rfl
@[simp] theorem endReads_lastRefresh (s : State) (r : Reader) : (s.endReads r).lastRefresh = s.lastRefresh := rfl
@[simp] theorem endReads_corrected (s : State) (r : Reader) : (s.endReads r).corrected = s.corrected := rfl
@[simp] theorem endReads_talert (s : State) (r : Reader) : (s.endReads r).talert = s.talert := rfl
@[simp] theorem endReads_thyst (s : State) (r : Reader) : (s.endReads r).thyst = s.thyst := rfl
@[simp] theorem endReads_tstress (s : State) (r : Reader) : (s.endReads r).tstress = s.tstress := rfl
@[simp] theorem endReads_fqsel (s : State) (r : Reader) : (s.endReads r).fqsel = s.fqsel := rfl
@[simp] theorem endReads_prstBay (s : State) (r : Reader) : (s.endReads r).prstBay = s.prstBay := rfl
@[simp] theorem endReads_prstRun (s : State) (r : Reader) : (s.endReads r).prstRun = s.prstRun := rfl
@[simp] theorem endReads_downBays (s : State) (r : Reader) : (s.endReads r).downBays = s.downBays := rfl
@[simp] theorem endReads_evlprod (s : State) (r : Reader) : (s.endReads r).evlprod = s.evlprod := rfl
@[simp] theorem endReads_evlog (s : State) (r : Reader) : (s.endReads r).evlog = s.evlog := rfl
@[simp] theorem endReads_bootst (s : State) (r : Reader) : (s.endReads r).bootst = s.bootst := rfl
@[simp] theorem endReads_rcvaddr (s : State) (r : Reader) : (s.endReads r).rcvaddr = s.rcvaddr := rfl
@[simp] theorem endReads_rcvRun (s : State) (r : Reader) : (s.endReads r).rcvRun = s.rcvRun := rfl
@[simp] theorem endReads_fwImage (s : State) (r : Reader) : (s.endReads r).fwImage = s.fwImage := rfl
@[simp] theorem endReads_blobImage (s : State) (r : Reader) : (s.endReads r).blobImage = s.blobImage := rfl
@[simp] theorem endReads_hostReads (s : State) (r : Reader) : (s.endReads r).hostReads = s.hostReads := rfl
@[simp] theorem endReads_nonce (s : State) (r : Reader) : (s.endReads r).nonce = s.nonce := rfl
@[simp] theorem endReads_nonceHeld (s : State) (r : Reader) : (s.endReads r).nonceHeld = s.nonceHeld := rfl
@[simp] theorem endReads_attst (s : State) (r : Reader) : (s.endReads r).attst = s.attst := rfl
@[simp] theorem endReads_sig (s : State) (r : Reader) : (s.endReads r).sig = s.sig := rfl
@[simp] theorem endReads_kills (s : State) (r : Reader) : (s.endReads r).kills = s.kills := rfl

@[simp] theorem noteWrite_cyc (s : State) (a n : Nat) : (s.noteWrite a n).cyc = s.cyc := rfl
@[simp] theorem noteWrite_turns (s : State) (a n : Nat) : (s.noteWrite a n).turns = s.turns := rfl
@[simp] theorem noteWrite_turnNo (s : State) (a n : Nat) : (s.noteWrite a n).turnNo = s.turnNo := rfl
@[simp] theorem noteWrite_freeNo (s : State) (a n : Nat) : (s.noteWrite a n).freeNo = s.freeNo := rfl
@[simp] theorem noteWrite_act (s : State) (a n : Nat) : (s.noteWrite a n).act = s.act := rfl
@[simp] theorem noteWrite_defer (s : State) (a n : Nat) : (s.noteWrite a n).defer = s.defer := rfl
@[simp] theorem noteWrite_package (s : State) (a n : Nat) : (s.noteWrite a n).package = s.package := rfl
@[simp] theorem noteWrite_recovery (s : State) (a n : Nat) : (s.noteWrite a n).recovery = s.recovery := rfl
@[simp] theorem noteWrite_mem (s : State) (a n : Nat) : (s.noteWrite a n).mem = s.mem := rfl
@[simp] theorem noteWrite_scratch (s : State) (a n : Nat) : (s.noteWrite a n).scratch = s.scratch := rfl
@[simp] theorem noteWrite_scratchPoison (s : State) (a n : Nat) : (s.noteWrite a n).scratchPoison = s.scratchPoison := rfl
@[simp] theorem noteWrite_versions (s : State) (a n : Nat) : (s.noteWrite a n).versions = s.versions := rfl
@[simp] theorem noteWrite_barriers (s : State) (a n : Nat) : (s.noteWrite a n).barriers = s.barriers := rfl
@[simp] theorem noteWrite_modes (s : State) (a n : Nat) : (s.noteWrite a n).modes = s.modes := rfl
@[simp] theorem noteWrite_hostLines (s : State) (a n : Nat) : (s.noteWrite a n).hostLines = s.hostLines := rfl
@[simp] theorem noteWrite_vldWaits (s : State) (a n : Nat) : (s.noteWrite a n).vldWaits = s.vldWaits := rfl
@[simp] theorem noteWrite_vstQueue (s : State) (a n : Nat) : (s.noteWrite a n).vstQueue = s.vstQueue := rfl
@[simp] theorem noteWrite_tlb (s : State) (a n : Nat) : (s.noteWrite a n).tlb = s.tlb := rfl
@[simp] theorem noteWrite_invals (s : State) (a n : Nat) : (s.noteWrite a n).invals = s.invals := rfl
@[simp] theorem noteWrite_ctxs (s : State) (a n : Nat) : (s.noteWrite a n).ctxs = s.ctxs := rfl
@[simp] theorem noteWrite_cores (s : State) (a n : Nat) : (s.noteWrite a n).cores = s.cores := rfl
@[simp] theorem noteWrite_regions (s : State) (a n : Nat) : (s.noteWrite a n).regions = s.regions := rfl
@[simp] theorem noteWrite_wires (s : State) (a n : Nat) : (s.noteWrite a n).wires = s.wires := rfl
@[simp] theorem noteWrite_landings (s : State) (a n : Nat) : (s.noteWrite a n).landings = s.landings := rfl
@[simp] theorem noteWrite_flights (s : State) (a n : Nat) : (s.noteWrite a n).flights = s.flights := rfl
@[simp] theorem noteWrite_nextId (s : State) (a n : Nat) : (s.noteWrite a n).nextId = s.nextId := rfl
@[simp] theorem noteWrite_ports (s : State) (a n : Nat) : (s.noteWrite a n).ports = s.ports := rfl
@[simp] theorem noteWrite_cfgops (s : State) (a n : Nat) : (s.noteWrite a n).cfgops = s.cfgops := rfl
@[simp] theorem noteWrite_saved (s : State) (a n : Nat) : (s.noteWrite a n).saved = s.saved := rfl
@[simp] theorem noteWrite_launches (s : State) (a n : Nat) : (s.noteWrite a n).launches = s.launches := rfl
@[simp] theorem noteWrite_placeCtl (s : State) (a n : Nat) : (s.noteWrite a n).placeCtl = s.placeCtl := rfl
@[simp] theorem noteWrite_streams (s : State) (a n : Nat) : (s.noteWrite a n).streams = s.streams := rfl
@[simp] theorem noteWrite_lastSector (s : State) (a n : Nat) : (s.noteWrite a n).lastSector = s.lastSector := rfl
@[simp] theorem noteWrite_score (s : State) (a n : Nat) : (s.noteWrite a n).score = s.score := rfl
@[simp] theorem noteWrite_lastCtx (s : State) (a n : Nat) : (s.noteWrite a n).lastCtx = s.lastCtx := rfl
@[simp] theorem noteWrite_links (s : State) (a n : Nat) : (s.noteWrite a n).links = s.links := rfl
@[simp] theorem noteWrite_rays (s : State) (a n : Nat) : (s.noteWrite a n).rays = s.rays := rfl
@[simp] theorem noteWrite_islands (s : State) (a n : Nat) : (s.noteWrite a n).islands = s.islands := rfl
@[simp] theorem noteWrite_chain (s : State) (a n : Nat) : (s.noteWrite a n).chain = s.chain := rfl
@[simp] theorem noteWrite_rasters (s : State) (a n : Nat) : (s.noteWrite a n).rasters = s.rasters := rfl
@[simp] theorem noteWrite_tileTags (s : State) (a n : Nat) : (s.noteWrite a n).tileTags = s.tileTags := rfl
@[simp] theorem noteWrite_blendItems (s : State) (a n : Nat) : (s.noteWrite a n).blendItems = s.blendItems := rfl
@[simp] theorem noteWrite_isects (s : State) (a n : Nat) : (s.noteWrite a n).isects = s.isects := rfl
@[simp] theorem noteWrite_bushels (s : State) (a n : Nat) : (s.noteWrite a n).bushels = s.bushels := rfl
@[simp] theorem noteWrite_mrings (s : State) (a n : Nat) : (s.noteWrite a n).mrings = s.mrings := rfl
@[simp] theorem noteWrite_hostQs (s : State) (a n : Nat) : (s.noteWrite a n).hostQs = s.hostQs := rfl
@[simp] theorem noteWrite_msixTable (s : State) (a n : Nat) : (s.noteWrite a n).msixTable = s.msixTable := rfl
@[simp] theorem noteWrite_msixPend (s : State) (a n : Nat) : (s.noteWrite a n).msixPend = s.msixPend := rfl
@[simp] theorem noteWrite_msgs (s : State) (a n : Nat) : (s.noteWrite a n).msgs = s.msgs := rfl
@[simp] theorem noteWrite_sentMsgs (s : State) (a n : Nat) : (s.noteWrite a n).sentMsgs = s.sentMsgs := rfl
@[simp] theorem noteWrite_msixCtl (s : State) (a n : Nat) : (s.noteWrite a n).msixCtl = s.msixCtl := rfl
@[simp] theorem noteWrite_hdm (s : State) (a n : Nat) : (s.noteWrite a n).hdm = s.hdm := rfl
@[simp] theorem noteWrite_masks (s : State) (a n : Nat) : (s.noteWrite a n).masks = s.masks := rfl
@[simp] theorem noteWrite_newMasks (s : State) (a n : Nat) : (s.noteWrite a n).newMasks = s.newMasks := rfl
@[simp] theorem noteWrite_aports (s : State) (a n : Nat) : (s.noteWrite a n).aports = s.aports := rfl
@[simp] theorem noteWrite_reqs (s : State) (a n : Nat) : (s.noteWrite a n).reqs = s.reqs := rfl
@[simp] theorem noteWrite_remoteReads (s : State) (a n : Nat) : (s.noteWrite a n).remoteReads = s.remoteReads := rfl
@[simp] theorem noteWrite_answers (s : State) (a n : Nat) : (s.noteWrite a n).answers = s.answers := rfl
@[simp] theorem noteWrite_farEnds (s : State) (a n : Nat) : (s.noteWrite a n).farEnds = s.farEnds := rfl
@[simp] theorem noteWrite_peerWaits (s : State) (a n : Nat) : (s.noteWrite a n).peerWaits = s.peerWaits := rfl
@[simp] theorem noteWrite_recQueue (s : State) (a n : Nat) : (s.noteWrite a n).recQueue = s.recQueue := rfl
@[simp] theorem noteWrite_sectors (s : State) (a n : Nat) : (s.noteWrite a n).sectors = s.sectors := rfl
@[simp] theorem noteWrite_power (s : State) (a n : Nat) : (s.noteWrite a n).power = s.power := rfl
@[simp] theorem noteWrite_lastRefresh (s : State) (a n : Nat) : (s.noteWrite a n).lastRefresh = s.lastRefresh := rfl
@[simp] theorem noteWrite_corrected (s : State) (a n : Nat) : (s.noteWrite a n).corrected = s.corrected := rfl
@[simp] theorem noteWrite_talert (s : State) (a n : Nat) : (s.noteWrite a n).talert = s.talert := rfl
@[simp] theorem noteWrite_thyst (s : State) (a n : Nat) : (s.noteWrite a n).thyst = s.thyst := rfl
@[simp] theorem noteWrite_tstress (s : State) (a n : Nat) : (s.noteWrite a n).tstress = s.tstress := rfl
@[simp] theorem noteWrite_fqsel (s : State) (a n : Nat) : (s.noteWrite a n).fqsel = s.fqsel := rfl
@[simp] theorem noteWrite_prstBay (s : State) (a n : Nat) : (s.noteWrite a n).prstBay = s.prstBay := rfl
@[simp] theorem noteWrite_prstRun (s : State) (a n : Nat) : (s.noteWrite a n).prstRun = s.prstRun := rfl
@[simp] theorem noteWrite_downBays (s : State) (a n : Nat) : (s.noteWrite a n).downBays = s.downBays := rfl
@[simp] theorem noteWrite_evlprod (s : State) (a n : Nat) : (s.noteWrite a n).evlprod = s.evlprod := rfl
@[simp] theorem noteWrite_evlog (s : State) (a n : Nat) : (s.noteWrite a n).evlog = s.evlog := rfl
@[simp] theorem noteWrite_bootst (s : State) (a n : Nat) : (s.noteWrite a n).bootst = s.bootst := rfl
@[simp] theorem noteWrite_rcvaddr (s : State) (a n : Nat) : (s.noteWrite a n).rcvaddr = s.rcvaddr := rfl
@[simp] theorem noteWrite_rcvRun (s : State) (a n : Nat) : (s.noteWrite a n).rcvRun = s.rcvRun := rfl
@[simp] theorem noteWrite_fwImage (s : State) (a n : Nat) : (s.noteWrite a n).fwImage = s.fwImage := rfl
@[simp] theorem noteWrite_blobImage (s : State) (a n : Nat) : (s.noteWrite a n).blobImage = s.blobImage := rfl
@[simp] theorem noteWrite_hostReads (s : State) (a n : Nat) : (s.noteWrite a n).hostReads = s.hostReads := rfl
@[simp] theorem noteWrite_nonce (s : State) (a n : Nat) : (s.noteWrite a n).nonce = s.nonce := rfl
@[simp] theorem noteWrite_nonceHeld (s : State) (a n : Nat) : (s.noteWrite a n).nonceHeld = s.nonceHeld := rfl
@[simp] theorem noteWrite_attst (s : State) (a n : Nat) : (s.noteWrite a n).attst = s.attst := rfl
@[simp] theorem noteWrite_sig (s : State) (a n : Nat) : (s.noteWrite a n).sig = s.sig := rfl
@[simp] theorem noteWrite_kills (s : State) (a n : Nat) : (s.noteWrite a n).kills = s.kills := rfl

@[simp] theorem markPoison_cyc (s : State) (a n : Nat) : (s.markPoison a n).cyc = s.cyc := rfl
@[simp] theorem markPoison_turns (s : State) (a n : Nat) : (s.markPoison a n).turns = s.turns := rfl
@[simp] theorem markPoison_turnNo (s : State) (a n : Nat) : (s.markPoison a n).turnNo = s.turnNo := rfl
@[simp] theorem markPoison_freeNo (s : State) (a n : Nat) : (s.markPoison a n).freeNo = s.freeNo := rfl
@[simp] theorem markPoison_act (s : State) (a n : Nat) : (s.markPoison a n).act = s.act := rfl
@[simp] theorem markPoison_defer (s : State) (a n : Nat) : (s.markPoison a n).defer = s.defer := rfl
@[simp] theorem markPoison_package (s : State) (a n : Nat) : (s.markPoison a n).package = s.package := rfl
@[simp] theorem markPoison_recovery (s : State) (a n : Nat) : (s.markPoison a n).recovery = s.recovery := rfl
@[simp] theorem markPoison_mem (s : State) (a n : Nat) : (s.markPoison a n).mem = s.mem := rfl
@[simp] theorem markPoison_scratch (s : State) (a n : Nat) : (s.markPoison a n).scratch = s.scratch := rfl
@[simp] theorem markPoison_scratchPoison (s : State) (a n : Nat) : (s.markPoison a n).scratchPoison = s.scratchPoison := rfl
@[simp] theorem markPoison_versions (s : State) (a n : Nat) : (s.markPoison a n).versions = s.versions := rfl
@[simp] theorem markPoison_barriers (s : State) (a n : Nat) : (s.markPoison a n).barriers = s.barriers := rfl
@[simp] theorem markPoison_frames (s : State) (a n : Nat) : (s.markPoison a n).frames = s.frames := rfl
@[simp] theorem markPoison_modes (s : State) (a n : Nat) : (s.markPoison a n).modes = s.modes := rfl
@[simp] theorem markPoison_hostLines (s : State) (a n : Nat) : (s.markPoison a n).hostLines = s.hostLines := rfl
@[simp] theorem markPoison_vldWaits (s : State) (a n : Nat) : (s.markPoison a n).vldWaits = s.vldWaits := rfl
@[simp] theorem markPoison_vstQueue (s : State) (a n : Nat) : (s.markPoison a n).vstQueue = s.vstQueue := rfl
@[simp] theorem markPoison_tlb (s : State) (a n : Nat) : (s.markPoison a n).tlb = s.tlb := rfl
@[simp] theorem markPoison_invals (s : State) (a n : Nat) : (s.markPoison a n).invals = s.invals := rfl
@[simp] theorem markPoison_ctxs (s : State) (a n : Nat) : (s.markPoison a n).ctxs = s.ctxs := rfl
@[simp] theorem markPoison_cores (s : State) (a n : Nat) : (s.markPoison a n).cores = s.cores := rfl
@[simp] theorem markPoison_regions (s : State) (a n : Nat) : (s.markPoison a n).regions = s.regions := rfl
@[simp] theorem markPoison_wires (s : State) (a n : Nat) : (s.markPoison a n).wires = s.wires := rfl
@[simp] theorem markPoison_landings (s : State) (a n : Nat) : (s.markPoison a n).landings = s.landings := rfl
@[simp] theorem markPoison_flights (s : State) (a n : Nat) : (s.markPoison a n).flights = s.flights := rfl
@[simp] theorem markPoison_nextId (s : State) (a n : Nat) : (s.markPoison a n).nextId = s.nextId := rfl
@[simp] theorem markPoison_ports (s : State) (a n : Nat) : (s.markPoison a n).ports = s.ports := rfl
@[simp] theorem markPoison_cfgops (s : State) (a n : Nat) : (s.markPoison a n).cfgops = s.cfgops := rfl
@[simp] theorem markPoison_saved (s : State) (a n : Nat) : (s.markPoison a n).saved = s.saved := rfl
@[simp] theorem markPoison_launches (s : State) (a n : Nat) : (s.markPoison a n).launches = s.launches := rfl
@[simp] theorem markPoison_placeCtl (s : State) (a n : Nat) : (s.markPoison a n).placeCtl = s.placeCtl := rfl
@[simp] theorem markPoison_streams (s : State) (a n : Nat) : (s.markPoison a n).streams = s.streams := rfl
@[simp] theorem markPoison_lastSector (s : State) (a n : Nat) : (s.markPoison a n).lastSector = s.lastSector := rfl
@[simp] theorem markPoison_score (s : State) (a n : Nat) : (s.markPoison a n).score = s.score := rfl
@[simp] theorem markPoison_lastCtx (s : State) (a n : Nat) : (s.markPoison a n).lastCtx = s.lastCtx := rfl
@[simp] theorem markPoison_links (s : State) (a n : Nat) : (s.markPoison a n).links = s.links := rfl
@[simp] theorem markPoison_rays (s : State) (a n : Nat) : (s.markPoison a n).rays = s.rays := rfl
@[simp] theorem markPoison_islands (s : State) (a n : Nat) : (s.markPoison a n).islands = s.islands := rfl
@[simp] theorem markPoison_chain (s : State) (a n : Nat) : (s.markPoison a n).chain = s.chain := rfl
@[simp] theorem markPoison_rasters (s : State) (a n : Nat) : (s.markPoison a n).rasters = s.rasters := rfl
@[simp] theorem markPoison_tileTags (s : State) (a n : Nat) : (s.markPoison a n).tileTags = s.tileTags := rfl
@[simp] theorem markPoison_blendItems (s : State) (a n : Nat) : (s.markPoison a n).blendItems = s.blendItems := rfl
@[simp] theorem markPoison_isects (s : State) (a n : Nat) : (s.markPoison a n).isects = s.isects := rfl
@[simp] theorem markPoison_bushels (s : State) (a n : Nat) : (s.markPoison a n).bushels = s.bushels := rfl
@[simp] theorem markPoison_mrings (s : State) (a n : Nat) : (s.markPoison a n).mrings = s.mrings := rfl
@[simp] theorem markPoison_hostQs (s : State) (a n : Nat) : (s.markPoison a n).hostQs = s.hostQs := rfl
@[simp] theorem markPoison_msixTable (s : State) (a n : Nat) : (s.markPoison a n).msixTable = s.msixTable := rfl
@[simp] theorem markPoison_msixPend (s : State) (a n : Nat) : (s.markPoison a n).msixPend = s.msixPend := rfl
@[simp] theorem markPoison_msgs (s : State) (a n : Nat) : (s.markPoison a n).msgs = s.msgs := rfl
@[simp] theorem markPoison_sentMsgs (s : State) (a n : Nat) : (s.markPoison a n).sentMsgs = s.sentMsgs := rfl
@[simp] theorem markPoison_msixCtl (s : State) (a n : Nat) : (s.markPoison a n).msixCtl = s.msixCtl := rfl
@[simp] theorem markPoison_hdm (s : State) (a n : Nat) : (s.markPoison a n).hdm = s.hdm := rfl
@[simp] theorem markPoison_masks (s : State) (a n : Nat) : (s.markPoison a n).masks = s.masks := rfl
@[simp] theorem markPoison_newMasks (s : State) (a n : Nat) : (s.markPoison a n).newMasks = s.newMasks := rfl
@[simp] theorem markPoison_aports (s : State) (a n : Nat) : (s.markPoison a n).aports = s.aports := rfl
@[simp] theorem markPoison_reqs (s : State) (a n : Nat) : (s.markPoison a n).reqs = s.reqs := rfl
@[simp] theorem markPoison_remoteReads (s : State) (a n : Nat) : (s.markPoison a n).remoteReads = s.remoteReads := rfl
@[simp] theorem markPoison_answers (s : State) (a n : Nat) : (s.markPoison a n).answers = s.answers := rfl
@[simp] theorem markPoison_farEnds (s : State) (a n : Nat) : (s.markPoison a n).farEnds = s.farEnds := rfl
@[simp] theorem markPoison_peerWaits (s : State) (a n : Nat) : (s.markPoison a n).peerWaits = s.peerWaits := rfl
@[simp] theorem markPoison_recQueue (s : State) (a n : Nat) : (s.markPoison a n).recQueue = s.recQueue := rfl
@[simp] theorem markPoison_sectors (s : State) (a n : Nat) : (s.markPoison a n).sectors = s.sectors := rfl
@[simp] theorem markPoison_power (s : State) (a n : Nat) : (s.markPoison a n).power = s.power := rfl
@[simp] theorem markPoison_lastRefresh (s : State) (a n : Nat) : (s.markPoison a n).lastRefresh = s.lastRefresh := rfl
@[simp] theorem markPoison_corrected (s : State) (a n : Nat) : (s.markPoison a n).corrected = s.corrected := rfl
@[simp] theorem markPoison_talert (s : State) (a n : Nat) : (s.markPoison a n).talert = s.talert := rfl
@[simp] theorem markPoison_thyst (s : State) (a n : Nat) : (s.markPoison a n).thyst = s.thyst := rfl
@[simp] theorem markPoison_tstress (s : State) (a n : Nat) : (s.markPoison a n).tstress = s.tstress := rfl
@[simp] theorem markPoison_fqsel (s : State) (a n : Nat) : (s.markPoison a n).fqsel = s.fqsel := rfl
@[simp] theorem markPoison_prstBay (s : State) (a n : Nat) : (s.markPoison a n).prstBay = s.prstBay := rfl
@[simp] theorem markPoison_prstRun (s : State) (a n : Nat) : (s.markPoison a n).prstRun = s.prstRun := rfl
@[simp] theorem markPoison_downBays (s : State) (a n : Nat) : (s.markPoison a n).downBays = s.downBays := rfl
@[simp] theorem markPoison_evlprod (s : State) (a n : Nat) : (s.markPoison a n).evlprod = s.evlprod := rfl
@[simp] theorem markPoison_evlog (s : State) (a n : Nat) : (s.markPoison a n).evlog = s.evlog := rfl
@[simp] theorem markPoison_bootst (s : State) (a n : Nat) : (s.markPoison a n).bootst = s.bootst := rfl
@[simp] theorem markPoison_rcvaddr (s : State) (a n : Nat) : (s.markPoison a n).rcvaddr = s.rcvaddr := rfl
@[simp] theorem markPoison_rcvRun (s : State) (a n : Nat) : (s.markPoison a n).rcvRun = s.rcvRun := rfl
@[simp] theorem markPoison_fwImage (s : State) (a n : Nat) : (s.markPoison a n).fwImage = s.fwImage := rfl
@[simp] theorem markPoison_blobImage (s : State) (a n : Nat) : (s.markPoison a n).blobImage = s.blobImage := rfl
@[simp] theorem markPoison_hostReads (s : State) (a n : Nat) : (s.markPoison a n).hostReads = s.hostReads := rfl
@[simp] theorem markPoison_nonce (s : State) (a n : Nat) : (s.markPoison a n).nonce = s.nonce := rfl
@[simp] theorem markPoison_nonceHeld (s : State) (a n : Nat) : (s.markPoison a n).nonceHeld = s.nonceHeld := rfl
@[simp] theorem markPoison_attst (s : State) (a n : Nat) : (s.markPoison a n).attst = s.attst := rfl
@[simp] theorem markPoison_sig (s : State) (a n : Nat) : (s.markPoison a n).sig = s.sig := rfl
@[simp] theorem markPoison_kills (s : State) (a n : Nat) : (s.markPoison a n).kills = s.kills := rfl

@[simp] theorem evlPut_cyc (s : State) (v : BitVec 256) : (s.evlPut v).cyc = s.cyc := rfl
@[simp] theorem evlPut_turns (s : State) (v : BitVec 256) : (s.evlPut v).turns = s.turns := rfl
@[simp] theorem evlPut_turnNo (s : State) (v : BitVec 256) : (s.evlPut v).turnNo = s.turnNo := rfl
@[simp] theorem evlPut_freeNo (s : State) (v : BitVec 256) : (s.evlPut v).freeNo = s.freeNo := rfl
@[simp] theorem evlPut_act (s : State) (v : BitVec 256) : (s.evlPut v).act = s.act := rfl
@[simp] theorem evlPut_defer (s : State) (v : BitVec 256) : (s.evlPut v).defer = s.defer := rfl
@[simp] theorem evlPut_package (s : State) (v : BitVec 256) : (s.evlPut v).package = s.package := rfl
@[simp] theorem evlPut_recovery (s : State) (v : BitVec 256) : (s.evlPut v).recovery = s.recovery := rfl
@[simp] theorem evlPut_mem (s : State) (v : BitVec 256) : (s.evlPut v).mem = s.mem := rfl
@[simp] theorem evlPut_scratch (s : State) (v : BitVec 256) : (s.evlPut v).scratch = s.scratch := rfl
@[simp] theorem evlPut_poison (s : State) (v : BitVec 256) : (s.evlPut v).poison = s.poison := rfl
@[simp] theorem evlPut_scratchPoison (s : State) (v : BitVec 256) : (s.evlPut v).scratchPoison = s.scratchPoison := rfl
@[simp] theorem evlPut_versions (s : State) (v : BitVec 256) : (s.evlPut v).versions = s.versions := rfl
@[simp] theorem evlPut_barriers (s : State) (v : BitVec 256) : (s.evlPut v).barriers = s.barriers := rfl
@[simp] theorem evlPut_frames (s : State) (v : BitVec 256) : (s.evlPut v).frames = s.frames := rfl
@[simp] theorem evlPut_modes (s : State) (v : BitVec 256) : (s.evlPut v).modes = s.modes := rfl
@[simp] theorem evlPut_hostLines (s : State) (v : BitVec 256) : (s.evlPut v).hostLines = s.hostLines := rfl
@[simp] theorem evlPut_vldWaits (s : State) (v : BitVec 256) : (s.evlPut v).vldWaits = s.vldWaits := rfl
@[simp] theorem evlPut_vstQueue (s : State) (v : BitVec 256) : (s.evlPut v).vstQueue = s.vstQueue := rfl
@[simp] theorem evlPut_tlb (s : State) (v : BitVec 256) : (s.evlPut v).tlb = s.tlb := rfl
@[simp] theorem evlPut_invals (s : State) (v : BitVec 256) : (s.evlPut v).invals = s.invals := rfl
@[simp] theorem evlPut_ctxs (s : State) (v : BitVec 256) : (s.evlPut v).ctxs = s.ctxs := rfl
@[simp] theorem evlPut_cores (s : State) (v : BitVec 256) : (s.evlPut v).cores = s.cores := rfl
@[simp] theorem evlPut_regions (s : State) (v : BitVec 256) : (s.evlPut v).regions = s.regions := rfl
@[simp] theorem evlPut_wires (s : State) (v : BitVec 256) : (s.evlPut v).wires = s.wires := rfl
@[simp] theorem evlPut_landings (s : State) (v : BitVec 256) : (s.evlPut v).landings = s.landings := rfl
@[simp] theorem evlPut_flights (s : State) (v : BitVec 256) : (s.evlPut v).flights = s.flights := rfl
@[simp] theorem evlPut_nextId (s : State) (v : BitVec 256) : (s.evlPut v).nextId = s.nextId := rfl
@[simp] theorem evlPut_ports (s : State) (v : BitVec 256) : (s.evlPut v).ports = s.ports := rfl
@[simp] theorem evlPut_cfgops (s : State) (v : BitVec 256) : (s.evlPut v).cfgops = s.cfgops := rfl
@[simp] theorem evlPut_saved (s : State) (v : BitVec 256) : (s.evlPut v).saved = s.saved := rfl
@[simp] theorem evlPut_launches (s : State) (v : BitVec 256) : (s.evlPut v).launches = s.launches := rfl
@[simp] theorem evlPut_placeCtl (s : State) (v : BitVec 256) : (s.evlPut v).placeCtl = s.placeCtl := rfl
@[simp] theorem evlPut_streams (s : State) (v : BitVec 256) : (s.evlPut v).streams = s.streams := rfl
@[simp] theorem evlPut_lastSector (s : State) (v : BitVec 256) : (s.evlPut v).lastSector = s.lastSector := rfl
@[simp] theorem evlPut_score (s : State) (v : BitVec 256) : (s.evlPut v).score = s.score := rfl
@[simp] theorem evlPut_lastCtx (s : State) (v : BitVec 256) : (s.evlPut v).lastCtx = s.lastCtx := rfl
@[simp] theorem evlPut_links (s : State) (v : BitVec 256) : (s.evlPut v).links = s.links := rfl
@[simp] theorem evlPut_rays (s : State) (v : BitVec 256) : (s.evlPut v).rays = s.rays := rfl
@[simp] theorem evlPut_islands (s : State) (v : BitVec 256) : (s.evlPut v).islands = s.islands := rfl
@[simp] theorem evlPut_chain (s : State) (v : BitVec 256) : (s.evlPut v).chain = s.chain := rfl
@[simp] theorem evlPut_rasters (s : State) (v : BitVec 256) : (s.evlPut v).rasters = s.rasters := rfl
@[simp] theorem evlPut_tileTags (s : State) (v : BitVec 256) : (s.evlPut v).tileTags = s.tileTags := rfl
@[simp] theorem evlPut_blendItems (s : State) (v : BitVec 256) : (s.evlPut v).blendItems = s.blendItems := rfl
@[simp] theorem evlPut_isects (s : State) (v : BitVec 256) : (s.evlPut v).isects = s.isects := rfl
@[simp] theorem evlPut_bushels (s : State) (v : BitVec 256) : (s.evlPut v).bushels = s.bushels := rfl
@[simp] theorem evlPut_mrings (s : State) (v : BitVec 256) : (s.evlPut v).mrings = s.mrings := rfl
@[simp] theorem evlPut_hostQs (s : State) (v : BitVec 256) : (s.evlPut v).hostQs = s.hostQs := rfl
@[simp] theorem evlPut_msixTable (s : State) (v : BitVec 256) : (s.evlPut v).msixTable = s.msixTable := rfl
@[simp] theorem evlPut_msixPend (s : State) (v : BitVec 256) : (s.evlPut v).msixPend = s.msixPend := rfl
@[simp] theorem evlPut_msgs (s : State) (v : BitVec 256) : (s.evlPut v).msgs = s.msgs := rfl
@[simp] theorem evlPut_sentMsgs (s : State) (v : BitVec 256) : (s.evlPut v).sentMsgs = s.sentMsgs := rfl
@[simp] theorem evlPut_msixCtl (s : State) (v : BitVec 256) : (s.evlPut v).msixCtl = s.msixCtl := rfl
@[simp] theorem evlPut_hdm (s : State) (v : BitVec 256) : (s.evlPut v).hdm = s.hdm := rfl
@[simp] theorem evlPut_masks (s : State) (v : BitVec 256) : (s.evlPut v).masks = s.masks := rfl
@[simp] theorem evlPut_newMasks (s : State) (v : BitVec 256) : (s.evlPut v).newMasks = s.newMasks := rfl
@[simp] theorem evlPut_aports (s : State) (v : BitVec 256) : (s.evlPut v).aports = s.aports := rfl
@[simp] theorem evlPut_reqs (s : State) (v : BitVec 256) : (s.evlPut v).reqs = s.reqs := rfl
@[simp] theorem evlPut_remoteReads (s : State) (v : BitVec 256) : (s.evlPut v).remoteReads = s.remoteReads := rfl
@[simp] theorem evlPut_answers (s : State) (v : BitVec 256) : (s.evlPut v).answers = s.answers := rfl
@[simp] theorem evlPut_farEnds (s : State) (v : BitVec 256) : (s.evlPut v).farEnds = s.farEnds := rfl
@[simp] theorem evlPut_peerWaits (s : State) (v : BitVec 256) : (s.evlPut v).peerWaits = s.peerWaits := rfl
@[simp] theorem evlPut_recQueue (s : State) (v : BitVec 256) : (s.evlPut v).recQueue = s.recQueue := rfl
@[simp] theorem evlPut_sectors (s : State) (v : BitVec 256) : (s.evlPut v).sectors = s.sectors := rfl
@[simp] theorem evlPut_power (s : State) (v : BitVec 256) : (s.evlPut v).power = s.power := rfl
@[simp] theorem evlPut_lastRefresh (s : State) (v : BitVec 256) : (s.evlPut v).lastRefresh = s.lastRefresh := rfl
@[simp] theorem evlPut_corrected (s : State) (v : BitVec 256) : (s.evlPut v).corrected = s.corrected := rfl
@[simp] theorem evlPut_talert (s : State) (v : BitVec 256) : (s.evlPut v).talert = s.talert := rfl
@[simp] theorem evlPut_thyst (s : State) (v : BitVec 256) : (s.evlPut v).thyst = s.thyst := rfl
@[simp] theorem evlPut_tstress (s : State) (v : BitVec 256) : (s.evlPut v).tstress = s.tstress := rfl
@[simp] theorem evlPut_fqsel (s : State) (v : BitVec 256) : (s.evlPut v).fqsel = s.fqsel := rfl
@[simp] theorem evlPut_prstBay (s : State) (v : BitVec 256) : (s.evlPut v).prstBay = s.prstBay := rfl
@[simp] theorem evlPut_prstRun (s : State) (v : BitVec 256) : (s.evlPut v).prstRun = s.prstRun := rfl
@[simp] theorem evlPut_downBays (s : State) (v : BitVec 256) : (s.evlPut v).downBays = s.downBays := rfl
@[simp] theorem evlPut_bootst (s : State) (v : BitVec 256) : (s.evlPut v).bootst = s.bootst := rfl
@[simp] theorem evlPut_rcvaddr (s : State) (v : BitVec 256) : (s.evlPut v).rcvaddr = s.rcvaddr := rfl
@[simp] theorem evlPut_rcvRun (s : State) (v : BitVec 256) : (s.evlPut v).rcvRun = s.rcvRun := rfl
@[simp] theorem evlPut_fwImage (s : State) (v : BitVec 256) : (s.evlPut v).fwImage = s.fwImage := rfl
@[simp] theorem evlPut_blobImage (s : State) (v : BitVec 256) : (s.evlPut v).blobImage = s.blobImage := rfl
@[simp] theorem evlPut_hostReads (s : State) (v : BitVec 256) : (s.evlPut v).hostReads = s.hostReads := rfl
@[simp] theorem evlPut_nonce (s : State) (v : BitVec 256) : (s.evlPut v).nonce = s.nonce := rfl
@[simp] theorem evlPut_nonceHeld (s : State) (v : BitVec 256) : (s.evlPut v).nonceHeld = s.nonceHeld := rfl
@[simp] theorem evlPut_attst (s : State) (v : BitVec 256) : (s.evlPut v).attst = s.attst := rfl
@[simp] theorem evlPut_sig (s : State) (v : BitVec 256) : (s.evlPut v).sig = s.sig := rfl
@[simp] theorem evlPut_kills (s : State) (v : BitVec 256) : (s.evlPut v).kills = s.kills := rfl

@[simp] theorem evlWrite_cyc (s : State) (c : Byte) (n m : Nat) (x y : DWord) : (s.evlWrite c n m x y).cyc = s.cyc := rfl
@[simp] theorem evlWrite_turns (s : State) (c : Byte) (n m : Nat) (x y : DWord) : (s.evlWrite c n m x y).turns = s.turns := rfl
@[simp] theorem evlWrite_turnNo (s : State) (c : Byte) (n m : Nat) (x y : DWord) : (s.evlWrite c n m x y).turnNo = s.turnNo := rfl
@[simp] theorem evlWrite_freeNo (s : State) (c : Byte) (n m : Nat) (x y : DWord) : (s.evlWrite c n m x y).freeNo = s.freeNo := rfl
@[simp] theorem evlWrite_act (s : State) (c : Byte) (n m : Nat) (x y : DWord) : (s.evlWrite c n m x y).act = s.act := rfl
@[simp] theorem evlWrite_defer (s : State) (c : Byte) (n m : Nat) (x y : DWord) : (s.evlWrite c n m x y).defer = s.defer := rfl
@[simp] theorem evlWrite_package (s : State) (c : Byte) (n m : Nat) (x y : DWord) : (s.evlWrite c n m x y).package = s.package := rfl
@[simp] theorem evlWrite_recovery (s : State) (c : Byte) (n m : Nat) (x y : DWord) : (s.evlWrite c n m x y).recovery = s.recovery := rfl
@[simp] theorem evlWrite_mem (s : State) (c : Byte) (n m : Nat) (x y : DWord) : (s.evlWrite c n m x y).mem = s.mem := rfl
@[simp] theorem evlWrite_scratch (s : State) (c : Byte) (n m : Nat) (x y : DWord) : (s.evlWrite c n m x y).scratch = s.scratch := rfl
@[simp] theorem evlWrite_poison (s : State) (c : Byte) (n m : Nat) (x y : DWord) : (s.evlWrite c n m x y).poison = s.poison := rfl
@[simp] theorem evlWrite_scratchPoison (s : State) (c : Byte) (n m : Nat) (x y : DWord) : (s.evlWrite c n m x y).scratchPoison = s.scratchPoison := rfl
@[simp] theorem evlWrite_versions (s : State) (c : Byte) (n m : Nat) (x y : DWord) : (s.evlWrite c n m x y).versions = s.versions := rfl
@[simp] theorem evlWrite_barriers (s : State) (c : Byte) (n m : Nat) (x y : DWord) : (s.evlWrite c n m x y).barriers = s.barriers := rfl
@[simp] theorem evlWrite_frames (s : State) (c : Byte) (n m : Nat) (x y : DWord) : (s.evlWrite c n m x y).frames = s.frames := rfl
@[simp] theorem evlWrite_modes (s : State) (c : Byte) (n m : Nat) (x y : DWord) : (s.evlWrite c n m x y).modes = s.modes := rfl
@[simp] theorem evlWrite_hostLines (s : State) (c : Byte) (n m : Nat) (x y : DWord) : (s.evlWrite c n m x y).hostLines = s.hostLines := rfl
@[simp] theorem evlWrite_vldWaits (s : State) (c : Byte) (n m : Nat) (x y : DWord) : (s.evlWrite c n m x y).vldWaits = s.vldWaits := rfl
@[simp] theorem evlWrite_vstQueue (s : State) (c : Byte) (n m : Nat) (x y : DWord) : (s.evlWrite c n m x y).vstQueue = s.vstQueue := rfl
@[simp] theorem evlWrite_tlb (s : State) (c : Byte) (n m : Nat) (x y : DWord) : (s.evlWrite c n m x y).tlb = s.tlb := rfl
@[simp] theorem evlWrite_invals (s : State) (c : Byte) (n m : Nat) (x y : DWord) : (s.evlWrite c n m x y).invals = s.invals := rfl
@[simp] theorem evlWrite_ctxs (s : State) (c : Byte) (n m : Nat) (x y : DWord) : (s.evlWrite c n m x y).ctxs = s.ctxs := rfl
@[simp] theorem evlWrite_cores (s : State) (c : Byte) (n m : Nat) (x y : DWord) : (s.evlWrite c n m x y).cores = s.cores := rfl
@[simp] theorem evlWrite_regions (s : State) (c : Byte) (n m : Nat) (x y : DWord) : (s.evlWrite c n m x y).regions = s.regions := rfl
@[simp] theorem evlWrite_wires (s : State) (c : Byte) (n m : Nat) (x y : DWord) : (s.evlWrite c n m x y).wires = s.wires := rfl
@[simp] theorem evlWrite_landings (s : State) (c : Byte) (n m : Nat) (x y : DWord) : (s.evlWrite c n m x y).landings = s.landings := rfl
@[simp] theorem evlWrite_flights (s : State) (c : Byte) (n m : Nat) (x y : DWord) : (s.evlWrite c n m x y).flights = s.flights := rfl
@[simp] theorem evlWrite_nextId (s : State) (c : Byte) (n m : Nat) (x y : DWord) : (s.evlWrite c n m x y).nextId = s.nextId := rfl
@[simp] theorem evlWrite_ports (s : State) (c : Byte) (n m : Nat) (x y : DWord) : (s.evlWrite c n m x y).ports = s.ports := rfl
@[simp] theorem evlWrite_cfgops (s : State) (c : Byte) (n m : Nat) (x y : DWord) : (s.evlWrite c n m x y).cfgops = s.cfgops := rfl
@[simp] theorem evlWrite_saved (s : State) (c : Byte) (n m : Nat) (x y : DWord) : (s.evlWrite c n m x y).saved = s.saved := rfl
@[simp] theorem evlWrite_launches (s : State) (c : Byte) (n m : Nat) (x y : DWord) : (s.evlWrite c n m x y).launches = s.launches := rfl
@[simp] theorem evlWrite_placeCtl (s : State) (c : Byte) (n m : Nat) (x y : DWord) : (s.evlWrite c n m x y).placeCtl = s.placeCtl := rfl
@[simp] theorem evlWrite_streams (s : State) (c : Byte) (n m : Nat) (x y : DWord) : (s.evlWrite c n m x y).streams = s.streams := rfl
@[simp] theorem evlWrite_lastSector (s : State) (c : Byte) (n m : Nat) (x y : DWord) : (s.evlWrite c n m x y).lastSector = s.lastSector := rfl
@[simp] theorem evlWrite_score (s : State) (c : Byte) (n m : Nat) (x y : DWord) : (s.evlWrite c n m x y).score = s.score := rfl
@[simp] theorem evlWrite_lastCtx (s : State) (c : Byte) (n m : Nat) (x y : DWord) : (s.evlWrite c n m x y).lastCtx = s.lastCtx := rfl
@[simp] theorem evlWrite_links (s : State) (c : Byte) (n m : Nat) (x y : DWord) : (s.evlWrite c n m x y).links = s.links := rfl
@[simp] theorem evlWrite_rays (s : State) (c : Byte) (n m : Nat) (x y : DWord) : (s.evlWrite c n m x y).rays = s.rays := rfl
@[simp] theorem evlWrite_islands (s : State) (c : Byte) (n m : Nat) (x y : DWord) : (s.evlWrite c n m x y).islands = s.islands := rfl
@[simp] theorem evlWrite_chain (s : State) (c : Byte) (n m : Nat) (x y : DWord) : (s.evlWrite c n m x y).chain = s.chain := rfl
@[simp] theorem evlWrite_rasters (s : State) (c : Byte) (n m : Nat) (x y : DWord) : (s.evlWrite c n m x y).rasters = s.rasters := rfl
@[simp] theorem evlWrite_tileTags (s : State) (c : Byte) (n m : Nat) (x y : DWord) : (s.evlWrite c n m x y).tileTags = s.tileTags := rfl
@[simp] theorem evlWrite_blendItems (s : State) (c : Byte) (n m : Nat) (x y : DWord) : (s.evlWrite c n m x y).blendItems = s.blendItems := rfl
@[simp] theorem evlWrite_isects (s : State) (c : Byte) (n m : Nat) (x y : DWord) : (s.evlWrite c n m x y).isects = s.isects := rfl
@[simp] theorem evlWrite_bushels (s : State) (c : Byte) (n m : Nat) (x y : DWord) : (s.evlWrite c n m x y).bushels = s.bushels := rfl
@[simp] theorem evlWrite_mrings (s : State) (c : Byte) (n m : Nat) (x y : DWord) : (s.evlWrite c n m x y).mrings = s.mrings := rfl
@[simp] theorem evlWrite_hostQs (s : State) (c : Byte) (n m : Nat) (x y : DWord) : (s.evlWrite c n m x y).hostQs = s.hostQs := rfl
@[simp] theorem evlWrite_msixTable (s : State) (c : Byte) (n m : Nat) (x y : DWord) : (s.evlWrite c n m x y).msixTable = s.msixTable := rfl
@[simp] theorem evlWrite_msixPend (s : State) (c : Byte) (n m : Nat) (x y : DWord) : (s.evlWrite c n m x y).msixPend = s.msixPend := rfl
@[simp] theorem evlWrite_msgs (s : State) (c : Byte) (n m : Nat) (x y : DWord) : (s.evlWrite c n m x y).msgs = s.msgs := rfl
@[simp] theorem evlWrite_sentMsgs (s : State) (c : Byte) (n m : Nat) (x y : DWord) : (s.evlWrite c n m x y).sentMsgs = s.sentMsgs := rfl
@[simp] theorem evlWrite_msixCtl (s : State) (c : Byte) (n m : Nat) (x y : DWord) : (s.evlWrite c n m x y).msixCtl = s.msixCtl := rfl
@[simp] theorem evlWrite_hdm (s : State) (c : Byte) (n m : Nat) (x y : DWord) : (s.evlWrite c n m x y).hdm = s.hdm := rfl
@[simp] theorem evlWrite_masks (s : State) (c : Byte) (n m : Nat) (x y : DWord) : (s.evlWrite c n m x y).masks = s.masks := rfl
@[simp] theorem evlWrite_newMasks (s : State) (c : Byte) (n m : Nat) (x y : DWord) : (s.evlWrite c n m x y).newMasks = s.newMasks := rfl
@[simp] theorem evlWrite_aports (s : State) (c : Byte) (n m : Nat) (x y : DWord) : (s.evlWrite c n m x y).aports = s.aports := rfl
@[simp] theorem evlWrite_reqs (s : State) (c : Byte) (n m : Nat) (x y : DWord) : (s.evlWrite c n m x y).reqs = s.reqs := rfl
@[simp] theorem evlWrite_remoteReads (s : State) (c : Byte) (n m : Nat) (x y : DWord) : (s.evlWrite c n m x y).remoteReads = s.remoteReads := rfl
@[simp] theorem evlWrite_answers (s : State) (c : Byte) (n m : Nat) (x y : DWord) : (s.evlWrite c n m x y).answers = s.answers := rfl
@[simp] theorem evlWrite_farEnds (s : State) (c : Byte) (n m : Nat) (x y : DWord) : (s.evlWrite c n m x y).farEnds = s.farEnds := rfl
@[simp] theorem evlWrite_peerWaits (s : State) (c : Byte) (n m : Nat) (x y : DWord) : (s.evlWrite c n m x y).peerWaits = s.peerWaits := rfl
@[simp] theorem evlWrite_recQueue (s : State) (c : Byte) (n m : Nat) (x y : DWord) : (s.evlWrite c n m x y).recQueue = s.recQueue := rfl
@[simp] theorem evlWrite_sectors (s : State) (c : Byte) (n m : Nat) (x y : DWord) : (s.evlWrite c n m x y).sectors = s.sectors := rfl
@[simp] theorem evlWrite_power (s : State) (c : Byte) (n m : Nat) (x y : DWord) : (s.evlWrite c n m x y).power = s.power := rfl
@[simp] theorem evlWrite_lastRefresh (s : State) (c : Byte) (n m : Nat) (x y : DWord) : (s.evlWrite c n m x y).lastRefresh = s.lastRefresh := rfl
@[simp] theorem evlWrite_corrected (s : State) (c : Byte) (n m : Nat) (x y : DWord) : (s.evlWrite c n m x y).corrected = s.corrected := rfl
@[simp] theorem evlWrite_talert (s : State) (c : Byte) (n m : Nat) (x y : DWord) : (s.evlWrite c n m x y).talert = s.talert := rfl
@[simp] theorem evlWrite_thyst (s : State) (c : Byte) (n m : Nat) (x y : DWord) : (s.evlWrite c n m x y).thyst = s.thyst := rfl
@[simp] theorem evlWrite_tstress (s : State) (c : Byte) (n m : Nat) (x y : DWord) : (s.evlWrite c n m x y).tstress = s.tstress := rfl
@[simp] theorem evlWrite_fqsel (s : State) (c : Byte) (n m : Nat) (x y : DWord) : (s.evlWrite c n m x y).fqsel = s.fqsel := rfl
@[simp] theorem evlWrite_prstBay (s : State) (c : Byte) (n m : Nat) (x y : DWord) : (s.evlWrite c n m x y).prstBay = s.prstBay := rfl
@[simp] theorem evlWrite_prstRun (s : State) (c : Byte) (n m : Nat) (x y : DWord) : (s.evlWrite c n m x y).prstRun = s.prstRun := rfl
@[simp] theorem evlWrite_downBays (s : State) (c : Byte) (n m : Nat) (x y : DWord) : (s.evlWrite c n m x y).downBays = s.downBays := rfl
@[simp] theorem evlWrite_bootst (s : State) (c : Byte) (n m : Nat) (x y : DWord) : (s.evlWrite c n m x y).bootst = s.bootst := rfl
@[simp] theorem evlWrite_rcvaddr (s : State) (c : Byte) (n m : Nat) (x y : DWord) : (s.evlWrite c n m x y).rcvaddr = s.rcvaddr := rfl
@[simp] theorem evlWrite_rcvRun (s : State) (c : Byte) (n m : Nat) (x y : DWord) : (s.evlWrite c n m x y).rcvRun = s.rcvRun := rfl
@[simp] theorem evlWrite_fwImage (s : State) (c : Byte) (n m : Nat) (x y : DWord) : (s.evlWrite c n m x y).fwImage = s.fwImage := rfl
@[simp] theorem evlWrite_blobImage (s : State) (c : Byte) (n m : Nat) (x y : DWord) : (s.evlWrite c n m x y).blobImage = s.blobImage := rfl
@[simp] theorem evlWrite_hostReads (s : State) (c : Byte) (n m : Nat) (x y : DWord) : (s.evlWrite c n m x y).hostReads = s.hostReads := rfl
@[simp] theorem evlWrite_nonce (s : State) (c : Byte) (n m : Nat) (x y : DWord) : (s.evlWrite c n m x y).nonce = s.nonce := rfl
@[simp] theorem evlWrite_nonceHeld (s : State) (c : Byte) (n m : Nat) (x y : DWord) : (s.evlWrite c n m x y).nonceHeld = s.nonceHeld := rfl
@[simp] theorem evlWrite_attst (s : State) (c : Byte) (n m : Nat) (x y : DWord) : (s.evlWrite c n m x y).attst = s.attst := rfl
@[simp] theorem evlWrite_sig (s : State) (c : Byte) (n m : Nat) (x y : DWord) : (s.evlWrite c n m x y).sig = s.sig := rfl
@[simp] theorem evlWrite_kills (s : State) (c : Byte) (n m : Nat) (x y : DWord) : (s.evlWrite c n m x y).kills = s.kills := rfl

/-! ## Lookups -/

theorem find_set_self {α : Type} (m : AMap α) (k : Nat) (v : α) : AMap.find? (AMap.set m k v) k = some v := by
  induction m with
  | nil => simp [AMap.set, AMap.find?]
  | cons p t ih =>
    obtain ⟨j, w⟩ := p
    simp only [AMap.set]
    split
    · simp [AMap.find?]
    · split
      · simp [AMap.find?]
      · rename_i h1 h2
        simp only [AMap.find?]
        rw [if_neg (fun h => h2 h.symm)]
        exact ih

theorem find_set_ne {α : Type} (m : AMap α) {j k : Nat} (v : α) (h : k ≠ j) : AMap.find? (AMap.set m k v) j = AMap.find? m j := by
  induction m with
  | nil => simp [AMap.set, AMap.find?, h]
  | cons p t ih =>
    obtain ⟨i, w⟩ := p
    simp only [AMap.set]
    split
    · simp [AMap.find?, h]
    · split
      · rename_i h1 h2
        subst h2
        simp [AMap.find?, h]
      · simp only [AMap.find?]
        rw [ih]

@[simp] theorem getD_set_self {α : Type} (m : AMap α) (k : Nat) (v d : α) : AMap.getD (AMap.set m k v) k d = v := by
  simp [AMap.getD, find_set_self]
theorem getD_set_ne {α : Type} (m : AMap α) {j k : Nat} (v d : α) (h : k ≠ j) : AMap.getD (AMap.set m k v) j d = AMap.getD m j d := by
  simp [AMap.getD, find_set_ne m v h]

@[simp] theorem core_updCore_self (s : State) (c : Nat) (f : CoreSt → CoreSt) : (s.updCore c f).core c = f (s.core c) := by
  simp [State.updCore, State.setCore, State.core]
theorem core_updCore_ne (s : State) {c d : Nat} (f : CoreSt → CoreSt) (h : c ≠ d) : (s.updCore c f).core d = s.core d := by
  simp [State.updCore, State.setCore, State.core, getD_set_ne _ _ _ h]

@[simp] theorem elem_setElem_self (r : Region) (e : Nat) (x : Elem) : (r.setElem e x).elem e = x := by simp [Region.setElem, Region.elem]
theorem elem_setElem_ne (r : Region) {e k : Nat} (x : Elem) (h : e ≠ k) : (r.setElem e x).elem k = r.elem k := by
  simp [Region.setElem, Region.elem, getD_set_ne _ _ _ h]
@[simp] theorem elem_updElem_self (r : Region) (e : Nat) (f : Elem → Elem) : (r.updElem e f).elem e = f (r.elem e) := by
  simp [Region.updElem]
theorem elem_updElem_ne (r : Region) {e k : Nat} (f : Elem → Elem) (h : e ≠ k) : (r.updElem e f).elem k = r.elem k := by
  simp [Region.updElem, elem_setElem_ne r _ h]

/-- A region that was put in is the one of its number. -/
theorem find_insertRegion (l : List Region) (r : Region) : (insertRegion l r).find? (fun x => x.id == r.id) = some r := by
  induction l with
  | nil => simp [insertRegion]
  | cons h t ih =>
    simp only [insertRegion]
    split
    · simp
    · split
      · simp
      · rename_i h1 h2
        have hne : (h.id == r.id) = false := by simpa using fun e => h2 e.symm
        rw [List.find?_cons, hne]
        exact ih
@[simp] theorem region_setRegion (s : State) (r : Region) : (s.setRegion r).region? r.id = some r := find_insertRegion _ _
theorem find_insertRegion_ne (l : List Region) (r : Region) {i : Nat} (h : i ≠ r.id) :
    (insertRegion l r).find? (fun x => x.id == i) = l.find? (fun x => x.id == i) := by
  induction l with
  | nil => simpa [insertRegion] using fun e => h e.symm
  | cons a t ih =>
    simp only [insertRegion]
    split
    · have hne : (r.id == i) = false := by simpa using fun e => h e.symm
      rw [List.find?_cons, hne]
    · split
      · rename_i h1 h2
        have hne : (r.id == i) = false := by simpa using fun e => h e.symm
        have hne2 : (a.id == i) = false := by rw [← h2]; exact hne
        rw [List.find?_cons, hne, List.find?_cons, hne2]
      · rw [List.find?_cons, List.find?_cons, ih]
theorem region_setRegion_ne (s : State) (r : Region) {i : Nat} (h : i ≠ r.id) : (s.setRegion r).region? i = s.region? i :=
  find_insertRegion_ne _ _ h

end Sys2Proof.Machine
end

