-- ==== Sys2Proof/Laws/Fire.lean ====
section
/-!
SUPPORT. Laws/Fire.lean: what the firing of an element instruction can do, and what a firing with ready operands comes to.
-/
namespace Sys2Proof.Machine

theorem firing_trig (s : State) (r : Region) (e slot : Nat) : (firing s r e slot).trig = slotTrig r e slot := rfl

/-- A firing whose element, slot and trigger are ready is applied to its region. -/
theorem fireAs_fires {s : State} {r : Region} {e slot : Nat} (g : FireCtx → Elem → FireRes) (h : Fires s r e slot) :
    fireAs g s = .next (s.setRegion (r.applyFire s.cyc e slot false (g (firing s r e slot) (r.elem e)))) := by
  unfold fireAs
  rw [h.turn]
  simp only [h.resident]
  have h1 : (mkCtx s r e slot (claimsUpTo s r e)).trig = slotTrig r e slot := rfl
  rw [h1, h.may, h.trig]
  rfl

/-- A firing whose answer is a new element. -/
theorem fireAs_done {s : State} {r : Region} {e slot : Nat} {g : FireCtx → Elem → FireRes} {x : Elem} {fx : List Fx}
    (h : Fires s r e slot) (hg : g (firing s r e slot) (r.elem e) = .done x fx) : fireAs g s = .next (s.fired r e slot x fx) := by
  rw [fireAs_fires g h, hg]; rfl

/-- A firing that raises a cause. -/
theorem fireAs_raises {s : State} {r : Region} {e slot : Nat} {g : FireCtx → Elem → FireRes} {c : Byte}
    (h : Fires s r e slot) (hg : g (firing s r e slot) (r.elem e) = .raises c) : fireAs g s = .next (s.raised r e slot c) := by
  rw [fireAs_fires g h, hg]; rfl

/-- Everything a firing can do: nothing, or put a new region in the place of the one whose turn it is. -/
theorem fireAs_cases (g : FireCtx → Elem → FireRes) (s : State) :
    fireAs g s = .next s ∨ ∃ r e slot, s.act = .elem r.id e slot ∧ s.region? r.id = some r ∧
      fireAs g s = .next (s.setRegion (r.applyFire s.cyc e slot false (g (firing s r e slot) (r.elem e)))) := by
  unfold fireAs
  split
  · rename_i id e slot ha
    split
    · exact .inl rfl
    · rename_i r hr
      have hid : r.id = id := by simpa using List.find?_some hr
      subst hid
      dsimp only
      split
      · exact .inr ⟨r, e, slot, ha, hr, rfl⟩
      · exact .inl rfl
  · exact .inl rfl

/-- Class R with both operands and room, neither poison. -/
theorem fireR_ready {op : Elem → Word → Word → Word} {f : ElemRec} {c : FireCtx} {e : Elem} {a b : Src}
    (ha : e.scalarSrc c.now f.a = some a) (hb : e.scalarSrc c.now f.b = some b) (hd : (scalarDest f.d).room e c.now = true)
    (hp : poisonLevel a (some b) = none) :
    fireR op f c e = .done (finishFire c e f.dqa f.dqb f.sp a.chan b.chan (scalarDest f.d)
      (if stopPasses f.tp (scalarDest f.d) a then ⟨a.val, a.tag⟩
       else ⟨scalarOf (op e (lane a.val 0) (lane b.val 0)), outTag f.tp a (some b)⟩)) [] := by
  unfold fireR fireSrc
  simp only [ha, hb, hd, hp]
  cases h : stopPasses f.tp (scalarDest f.d) a <;> simp

/-- Class U with its operand and room, not poison. -/
theorem fireU_ready {op : Nat → Word → Word} {f : ElemRec} {c : FireCtx} {e : Elem} {a : Src}
    (ha : e.scalarSrc c.now f.a = some a) (hd : (scalarDest f.d).room e c.now = true) (hp : poisonLevel a none = none) :
    fireU op f c e = .done (finishFire c e f.dqa false f.sp a.chan none (scalarDest f.d)
      (if stopPasses f.tp (scalarDest f.d) a then ⟨a.val, a.tag⟩
       else ⟨scalarOf (op f.b.toNat (lane a.val 0)), outTag f.tp a none⟩)) [] := by
  unfold fireU fireSrc
  simp only [ha, hd, hp]
  cases h : stopPasses f.tp (scalarDest f.d) a <;> simp

/-- Class V with two vector operands and room, neither poison. -/
theorem fireV_ready {op : Elem → Wide → Wide → Wide} {f : ElemRec} {c : FireCtx} {e : Elem} {a b : Src}
    (ha : e.vectorSrc c.now f.a = some a) (hb : e.vectorSrc c.now f.b = some b) (hd : (vectorDest f.d).room e c.now = true)
    (hp : poisonLevel a (some b) = none) :
    fireV op f c e = .done (finishFire c e f.dqa f.dqb f.sp a.chan b.chan (vectorDest f.d)
      (if stopPasses f.tp (vectorDest f.d) a then ⟨a.val, a.tag⟩ else ⟨op e a.val b.val, outTag f.tp a (some b)⟩)) [] := by
  unfold fireV fireSrc
  simp only [ha, hb, hd, hp]
  cases h : stopPasses f.tp (vectorDest f.d) a <;> simp

end Sys2Proof.Machine
end

