-- ==== Sys2Proof/Laws/Mach.lean ====
section
/-!
SUPPORT. Laws/Mach.lean: what the steps of a command that may stop do to the state, and what a ready sequencer instruction comes to.
-/
namespace Sys2Proof.Machine

theorem exec_bind {α β : Type} (m : Mach α) (f : α → Mach β) (s : State) :
    (m >>= f).exec s = match m.exec s with
      | (.ok a, t) => (f a).exec t
      | (.error e, t) => (.error e, t) := by
  simp only [Mach.exec, bind, ExceptT.bind, ExceptT.mk, ExceptT.run, StateT.bind, StateT.run, Id.run]
  cases h : m s with
  | mk a t => cases a <;> simp [ExceptT.bindCont, h] <;> rfl

@[simp] theorem exec_pure {α : Type} (a : α) (s : State) : (pure a : Mach α).exec s = (.ok a, s) := rfl
@[simp] theorem exec_get (s : State) : (get : Mach State).exec s = (.ok s, s) := rfl
@[simp] theorem exec_set (t s : State) : (set t : Mach PUnit).exec s = (.ok ⟨⟩, t) := rfl
@[simp] theorem exec_modify (f : State → State) (s : State) : (modify f : Mach PUnit).exec s = (.ok ⟨⟩, f s) := rfl
@[simp] theorem exec_raiseM {α : Type} (c : Byte) (a : DWord) (s : State) :
    (raiseM c a : Mach α).exec s = (.error (.raise c a), s) := rfl
@[simp] theorem exec_waitM {α : Type} (s : State) : (waitM : Mach α).exec s = (.error .wait, s) := rfl
@[simp] theorem exec_throw {α : Type} (e : Stop) (s : State) : (throw e : Mach α).exec s = (.error e, s) := rfl
theorem exec_ite {α : Type} (p : Prop) [Decidable p] (a b : Mach α) (s : State) :
    (if p then a else b).exec s = if p then a.exec s else b.exec s := by split <;> rfl
@[simp] theorem exec_putReg (c : Nat) (r : Reg) (v : DWord) (s : State) :
    (putReg c r v).exec s = (.ok ⟨⟩, s.updCore c (fun x => x.wr r v)) := rfl
@[simp] theorem exec_markReg (c : Nat) (r : Reg) (s : State) :
    (markReg c r).exec s = (.ok ⟨⟩, s.updCore c (fun x => x.mark r)) := rfl

theorem exec_orderGate {x : CoreSt} (h : x.pend.any (fun p => p.acq) = false) (s : State) :
    (orderGate x).exec s = (.ok (), s) := by simp [orderGate, h]
theorem exec_drainGate {x : CoreSt} {b : Bool} (h : b = true → drained x = true) (s : State) :
    (drainGate x b).exec s = (.ok (), s) := by
  cases b
  · simp [drainGate]
  · simp [drainGate, h rfl]

/-- Fewer registers are ready too. -/
theorem CoreReady.weaken {s : State} {c : Nat} {reads writes reads' writes' : List Reg} (h : CoreReady s c reads writes)
    (h1 : ∀ x ∈ reads', x ∈ reads) (h2 : ∀ x ∈ writes', x ∈ reads ++ writes) : CoreReady s c reads' writes' :=
  ⟨h.turn, fun x hx => by
    rcases List.mem_append.1 hx with hx | hx
    · exact h.free x (List.mem_append.2 (.inl (h1 x hx)))
    · exact h.free x (h2 x hx), fun x hx => h.clean x (h1 x hx)⟩

/-- A ready instruction executes. -/
theorem seqCtl_ready {s : State} {c : Nat} {reads writes : List Reg} (h : CoreReady s c reads writes) (k : Nat → CoreSt → State) :
    seqCtl reads writes s k = .next (k c (s.core c)) := by
  unfold seqCtl
  rw [h.turn]
  have h1 : (reads ++ writes).any (fun r => (s.core c).reserved r) = false := by
    rw [List.any_eq_false]; intro r hr; simp [h.free r hr]
  have h2 : reads.any (fun r => (s.core c).marked r) = false := by
    rw [List.any_eq_false]; intro r hr; simp [h.clean r hr]
  simp only [h1, h2]; rfl

theorem seqRun_ready {s : State} {c len : Nat} {reads writes : List Reg} (h : CoreReady s c reads writes)
    (m : Nat → CoreSt → Mach Flow) : seqRun reads writes len s m = .next (finishM c len ((m c (s.core c)).exec s)) := by
  unfold seqRun; rw [seqCtl_ready h]

theorem seqAlu_ready {s : State} {c : Nat} {reads : List Reg} {d : Reg} (h : CoreReady s c reads [d]) (v : CoreSt → DWord) :
    seqAlu reads d v s = .next (s.wrote c d (v (s.core c)) 4) := by
  unfold seqAlu; rw [seqCtl_ready h]; rfl

end Sys2Proof.Machine
end

