-- ==== Sys2Proof/Laws/Mem.lean ====
section
/-!
SUPPORT. Laws/Mem.lean: memory's canonical form is kept by every operation that writes memory, and holds after reset.
-/
namespace Sys2Proof.Machine

theorem risingFrom_mono {m : List Host.Cell} {a b : Nat} (h : Mem.risingFrom b m = true) (hab : a ≤ b) : Mem.risingFrom a m = true := by
  cases m with
  | nil => rfl
  | cons p t =>
    obtain ⟨j, w⟩ := p
    simp only [Mem.risingFrom, Bool.and_eq_true, decide_eq_true_eq] at h ⊢
    exact ⟨⟨by omega, h.1.2⟩, h.2⟩

theorem risingFrom_write {m : List Host.Cell} {n a : Nat} {b : Byte} (h : Mem.risingFrom n m = true) (hn : n ≤ a) :
    Mem.risingFrom n (Mem.write m a b) = true := by
  induction m generalizing n with
  | nil =>
    simp only [Mem.write]
    split
    · rfl
    · simp_all [Mem.risingFrom]
  | cons p t ih =>
    obtain ⟨j, w⟩ := p
    simp only [Mem.risingFrom, Bool.and_eq_true, decide_eq_true_eq] at h
    obtain ⟨⟨h1, h2⟩, h3⟩ := h
    simp only [Mem.write]
    split
    · split
      · simp only [Mem.risingFrom, Bool.and_eq_true, decide_eq_true_eq]
        exact ⟨⟨h1, h2⟩, h3⟩
      · rename_i hb
        simp only [Mem.risingFrom, Bool.and_eq_true, decide_eq_true_eq]
        exact ⟨⟨hn, by simpa using hb⟩, ⟨by omega, h2⟩, h3⟩
    · split
      · rename_i haj
        split
        · exact risingFrom_mono h3 (by omega)
        · rename_i hb
          simp only [Mem.risingFrom, Bool.and_eq_true, decide_eq_true_eq]
          exact ⟨⟨hn, by simpa using hb⟩, by subst haj; exact h3⟩
      · simp only [Mem.risingFrom, Bool.and_eq_true, decide_eq_true_eq]
        exact ⟨⟨h1, h2⟩, ih h3 (by omega)⟩

/-- A write of one byte keeps the form. -/
theorem wf_write {m : List Host.Cell} {a : Nat} {b : Byte} (h : Mem.wf m = true) : Mem.wf (Mem.write m a b) = true :=
  risingFrom_write h (Nat.zero_le _)

/-- A write of a list of bytes keeps the form. -/
theorem wf_writeList {m : List Host.Cell} (bs : List Byte) {a : Nat} (h : Mem.wf m = true) : Mem.wf (Mem.writeList m a bs) = true := by
  induction bs generalizing m a with
  | nil => exact h
  | cons b t ih => exact ih (wf_write h)

/-- The operations that write memory: a block in canonical form, part of a block, the fabric, the host, a block made plain. -/
theorem wf_storeBlock {s : State} (blk : Nat) (bs : List Byte) (h : Mem.wf s.mem = true) : Mem.wf (s.storeBlock blk bs).mem = true :=
  wf_writeList _ h
theorem wf_uncompress {s : State} (blk : Nat) (h : Mem.wf s.mem = true) : Mem.wf (s.uncompress blk).mem = true := by
  unfold State.uncompress
  split
  · exact h
  · generalize s.decompList (blk * 256) 256 = l
    exact wf_writeList l h
theorem wf_writeInBlock {s : State} (a : Nat) (bs : List Byte) (comp : Bool) (h : Mem.wf s.mem = true) :
    Mem.wf (s.writeInBlock a bs comp).mem = true := by
  unfold State.writeInBlock
  split
  · exact h
  · split
    · exact wf_writeList _ h
    · exact wf_storeBlock _ _ h
theorem mem_noteWrite (s : State) (a n : Nat) : (s.noteWrite a n).mem = s.mem := rfl
theorem wf_fabWrite {s : State} (a : Nat) (bs : List Byte) (h : Mem.wf s.mem = true) : Mem.wf (s.fabWrite a bs).mem = true := by
  unfold State.fabWrite
  rw [mem_noteWrite]
  exact wf_writeInBlock _ _ _ (wf_writeInBlock _ _ _ h)
theorem wf_hostWrite {s : State} (a : Nat) (bs : List Byte) (h : Mem.wf s.mem = true) : Mem.wf (s.hostWrite a bs).mem = true := by
  unfold State.hostWrite
  rw [mem_noteWrite]
  exact wf_writeList _ (wf_uncompress _ (wf_uncompress _ h))
theorem wf_fastClear {s : State} (v blk : Nat) (h : Mem.wf s.mem = true) : Mem.wf (s.fastClear v blk).mem = true := by
  unfold State.fastClear
  rw [mem_noteWrite]
  generalize leBytes v 4 ++ List.replicate 124 0 = l
  exact wf_writeList (l ++ l) h

/-- Memory after reset has the form. -/
theorem wf_reset : Mem.wf State.reset.mem = true := rfl

/-- Below the first listed address everything reads as the unlisted value. -/
theorem read_below {m : List Host.Cell} {n a : Nat} (h : Mem.risingFrom n m = true) (ha : a < n) : Mem.read m a = 0 := by
  induction m generalizing n with
  | nil => rfl
  | cons p t ih =>
    obtain ⟨j, w⟩ := p
    simp only [Mem.risingFrom, Bool.and_eq_true, decide_eq_true_eq] at h
    simp only [Mem.read]
    rw [if_neg (by omega)]
    exact ih h.2 (by omega)

/-- A byte reads back; every other byte reads as before. -/
theorem read_write {m : List Host.Cell} {a k : Nat} {b : Byte} (h : Mem.wf m = true) :
    Mem.read (Mem.write m a b) k = if k = a then b else Mem.read m k := by
  suffices H : ∀ n, Mem.risingFrom n m = true → Mem.read (Mem.write m a b) k = if k = a then b else Mem.read m k from H 0 h
  clear h
  induction m with
  | nil =>
    intro n _
    simp only [Mem.write]
    split
    · simp_all [Mem.read]
    · simp only [Mem.read, eq_comm]
  | cons p t ih =>
    obtain ⟨j, w⟩ := p
    intro n h
    simp only [Mem.risingFrom, Bool.and_eq_true, decide_eq_true_eq] at h
    obtain ⟨⟨h1, h2⟩, h3⟩ := h
    simp only [Mem.write]
    by_cases hk : k = a
    · subst hk
      rw [if_pos rfl]
      split
      · rename_i hlt
        split
        · rename_i hb
          simp only [Mem.read]
          rw [if_neg (by omega), read_below h3 (by omega), hb]
        · simp [Mem.read]
      · split
        · rename_i haj
          split
          · rename_i hb
            rw [read_below h3 (by omega), hb]
          · simp [Mem.read]
        · rename_i hlt hne
          simp only [Mem.read]
          rw [if_neg (fun e => hne e.symm), ih _ h3, if_pos rfl]
    · rw [if_neg hk]
      split
      · split
        · rfl
        · simp only [Mem.read]
          rw [if_neg (fun e => hk e.symm)]
      · split
        · rename_i haj
          split
          · simp only [Mem.read]
            rw [if_neg (by omega)]
          · simp only [Mem.read]
            rw [if_neg (fun e => hk e.symm), if_neg (by omega)]
        · simp only [Mem.read]
          rw [ih _ h3, if_neg hk]

end Sys2Proof.Machine
end

