-- ==== Sys2Proof/Laws/PerInstr.lean ====
section
/-!
SUPPORT. Laws/PerInstr.lean: the family Codec: for each constructor, its words decode to it (an event has no words).
-/
set_option linter.unusedSimpArgs false

namespace Sys2Proof.Laws.Codec

/-- Decode of encode is the instruction, for every well-formed term. -/
def Statement (i : Instr) : Prop := wellFormed i = true → kindRound i

theorem roundElem {i : Instr} {w : Word} (hk : wordKind i = .element) (he : encode i = [w]) (h : decodeElem w = .instr i 4) :
    kindRound i := by
  unfold kindRound; rw [hk, he]; exact h
theorem roundOne {i : Instr} {w : Word} (hk : wordKind i = .sequencer) (he : encode i = [w])
    (h : ∀ v, decodeSeq w v = .instr i 4) : kindRound i := by
  unfold kindRound; rw [hk, he]; exact h
theorem roundTwo {i : Instr} {w v : Word} (hk : wordKind i = .sequencer) (he : encode i = [w, v])
    (h : decodeSeq w v = .instr i 8) : kindRound i := by
  unfold kindRound; rw [hk, he]; exact h

theorem seq00 {w v : Word} (h : majOf w = 0x00) : decodeSeq w v = decodeAlu w := by unfold decodeSeq; rw [h]; rfl
theorem seq08 {w v : Word} (h : majOf w = 0x08) : decodeSeq w v = decodeShift w := by unfold decodeSeq; rw [h]; rfl
theorem seq10 {w v : Word} (h : majOf w = 0x10) : decodeSeq w v = decodeLoad w := by unfold decodeSeq; rw [h]; rfl
theorem seq11 {w v : Word} (h : majOf w = 0x11) : decodeSeq w v = decodeStore w := by unfold decodeSeq; rw [h]; rfl
theorem seq12 {w v : Word} (h : majOf w = 0x12) : decodeSeq w v = decodeAmo w := by unfold decodeSeq; rw [h]; rfl
theorem seq13 {w v : Word} (h : majOf w = 0x13) : decodeSeq w v = decodeVer w := by unfold decodeSeq; rw [h]; rfl
theorem seq20 {w v : Word} (h : majOf w = 0x20) : decodeSeq w v = decodeSema w := by unfold decodeSeq; rw [h]; rfl
theorem seq21 {w v : Word} (h : majOf w = 0x21) : decodeSeq w v = decodeTbar w := by unfold decodeSeq; rw [h]; rfl
theorem seq22 {w v : Word} (h : majOf w = 0x22) : decodeSeq w v = decodeRing w := by unfold decodeSeq; rw [h]; rfl
theorem seq23 {w v : Word} (h : majOf w = 0x23) : decodeSeq w v = decodeBq w := by unfold decodeSeq; rw [h]; rfl
theorem seq24 {w v : Word} (h : majOf w = 0x24) : decodeSeq w v = decodeSys w := by unfold decodeSeq; rw [h]; rfl
theorem seq25 {w v : Word} (h : majOf w = 0x25) : decodeSeq w v = decodeRpl w := by unfold decodeSeq; rw [h]; rfl
theorem seq26 {w v : Word} (h : majOf w = 0x26) : decodeSeq w v = decodeMgmt w := by unfold decodeSeq; rw [h]; rfl
theorem seq30 {w v : Word} (h : majOf w = 0x30) : decodeSeq w v = decodeX w v := by unfold decodeSeq; rw [h]; rfl
theorem seq31 {w v : Word} (h : majOf w = 0x31) : decodeSeq w v = decodeX w v := by unfold decodeSeq; rw [h]; rfl
theorem seq32 {w v : Word} (h : majOf w = 0x32) : decodeSeq w v = decodeX w v := by unfold decodeSeq; rw [h]; rfl

theorem roundR (c : BitVec 7) (f : ElemRec) {i : Instr} (hc : c.toNat < 0x60) (hi : elemInstr (packR c f) = some i)
    (hw : wellFormed i = true) : decodeElem (packR c f) = .instr i 4 := by
  unfold decodeElem
  rw [hi]
  simp [elemZero, opcOf_packR, hc, hw]

theorem roundM (c : BitVec 7) (f : MemRec) {i : Instr} (hc : 0x60 ≤ c.toNat ∧ c.toNat < 0x70)
    (hi : elemInstr (packM c f) = some i) (hw : wellFormed i = true) : decodeElem (packM c f) = .instr i 4 := by
  unfold decodeElem
  rw [hi]
  simp [elemZero, opcOf_packM, hc.1, hc.2, hw, zeroM_packM]

theorem roundA (c : BitVec 7) (f : AtomRec) {i : Instr} (hc : 0x70 ≤ c.toNat) (hi : elemInstr (packA c f) = some i)
    (hw : wellFormed i = true) : decodeElem (packA c f) = .instr i 4 := by
  unfold decodeElem
  rw [hi]
  have h1 : ¬ c.toNat < 0x60 := by omega
  have h2 : ¬ c.toNat < 0x70 := by omega
  simp [elemZero, opcOf_packA, h1, h2, hw, zeroA_packA]

theorem addI32 (f : ElemRec) : Statement (.addI32 f) := fun h => roundElem rfl rfl (roundR 0x01 f (by decide) (by unfold elemInstr; rw [opcOf_packR, elemRec_packR]; rfl) h)
theorem subI32 (f : ElemRec) : Statement (.subI32 f) := fun h => roundElem rfl rfl (roundR 0x02 f (by decide) (by unfold elemInstr; rw [opcOf_packR, elemRec_packR]; rfl) h)
theorem mulI32 (f : ElemRec) : Statement (.mulI32 f) := fun h => roundElem rfl rfl (roundR 0x03 f (by decide) (by unfold elemInstr; rw [opcOf_packR, elemRec_packR]; rfl) h)
theorem mulhI32 (f : ElemRec) : Statement (.mulhI32 f) := fun h => roundElem rfl rfl (roundR 0x04 f (by decide) (by unfold elemInstr; rw [opcOf_packR, elemRec_packR]; rfl) h)
theorem and (f : ElemRec) : Statement (.and f) := fun h => roundElem rfl rfl (roundR 0x05 f (by decide) (by unfold elemInstr; rw [opcOf_packR, elemRec_packR]; rfl) h)
theorem or (f : ElemRec) : Statement (.or f) := fun h => roundElem rfl rfl (roundR 0x06 f (by decide) (by unfold elemInstr; rw [opcOf_packR, elemRec_packR]; rfl) h)
theorem xor (f : ElemRec) : Statement (.xor f) := fun h => roundElem rfl rfl (roundR 0x07 f (by decide) (by unfold elemInstr; rw [opcOf_packR, elemRec_packR]; rfl) h)
theorem shl (f : ElemRec) : Statement (.shl f) := fun h => roundElem rfl rfl (roundR 0x08 f (by decide) (by unfold elemInstr; rw [opcOf_packR, elemRec_packR]; rfl) h)
theorem shrU32 (f : ElemRec) : Statement (.shrU32 f) := fun h => roundElem rfl rfl (roundR 0x09 f (by decide) (by unfold elemInstr; rw [opcOf_packR, elemRec_packR]; rfl) h)
theorem shrI32 (f : ElemRec) : Statement (.shrI32 f) := fun h => roundElem rfl rfl (roundR 0x0A f (by decide) (by unfold elemInstr; rw [opcOf_packR, elemRec_packR]; rfl) h)
theorem minI32 (f : ElemRec) : Statement (.minI32 f) := fun h => roundElem rfl rfl (roundR 0x0B f (by decide) (by unfold elemInstr; rw [opcOf_packR, elemRec_packR]; rfl) h)
theorem maxI32 (f : ElemRec) : Statement (.maxI32 f) := fun h => roundElem rfl rfl (roundR 0x0C f (by decide) (by unfold elemInstr; rw [opcOf_packR, elemRec_packR]; rfl) h)
theorem mov (f : ElemRec) : Statement (.mov f) := fun h => roundElem rfl rfl (roundR 0x10 f (by decide) (by unfold elemInstr; rw [opcOf_packR, elemRec_packR]; rfl) h)
theorem sel (f : ElemRec) : Statement (.sel f) := fun h => roundElem rfl rfl (roundR 0x11 f (by decide) (by unfold elemInstr; rw [opcOf_packR, elemRec_packR]; rfl) h)
theorem addsatI32 (f : ElemRec) : Statement (.addsatI32 f) := fun h => roundElem rfl rfl (roundR 0x12 f (by decide) (by unfold elemInstr; rw [opcOf_packR, elemRec_packR]; rfl) h)
theorem subsatI32 (f : ElemRec) : Statement (.subsatI32 f) := fun h => roundElem rfl rfl (roundR 0x13 f (by decide) (by unfold elemInstr; rw [opcOf_packR, elemRec_packR]; rfl) h)
theorem absI32 (f : ElemRec) : Statement (.absI32 f) := fun h => roundElem rfl rfl (roundR 0x14 f (by decide) (by unfold elemInstr; rw [opcOf_packR, elemRec_packR]; rfl) h)
theorem clz (f : ElemRec) : Statement (.clz f) := fun h => roundElem rfl rfl (roundR 0x15 f (by decide) (by unfold elemInstr; rw [opcOf_packR, elemRec_packR]; rfl) h)
theorem popc (f : ElemRec) : Statement (.popc f) := fun h => roundElem rfl rfl (roundR 0x16 f (by decide) (by unfold elemInstr; rw [opcOf_packR, elemRec_packR]; rfl) h)
theorem cmpEq (f : ElemRec) : Statement (.cmpEq f) := fun h => roundElem rfl rfl (roundR 0x17 f (by decide) (by unfold elemInstr; rw [opcOf_packR, elemRec_packR]; rfl) h)
theorem cmpLtI32 (f : ElemRec) : Statement (.cmpLtI32 f) := fun h => roundElem rfl rfl (roundR 0x18 f (by decide) (by unfold elemInstr; rw [opcOf_packR, elemRec_packR]; rfl) h)
theorem cmpLtU32 (f : ElemRec) : Statement (.cmpLtU32 f) := fun h => roundElem rfl rfl (roundR 0x19 f (by decide) (by unfold elemInstr; rw [opcOf_packR, elemRec_packR]; rfl) h)
theorem faddF32 (f : ElemRec) : Statement (.faddF32 f) := fun h => roundElem rfl rfl (roundR 0x20 f (by decide) (by unfold elemInstr; rw [opcOf_packR, elemRec_packR]; rfl) h)
theorem fsubF32 (f : ElemRec) : Statement (.fsubF32 f) := fun h => roundElem rfl rfl (roundR 0x21 f (by decide) (by unfold elemInstr; rw [opcOf_packR, elemRec_packR]; rfl) h)
theorem fmulF32 (f : ElemRec) : Statement (.fmulF32 f) := fun h => roundElem rfl rfl (roundR 0x22 f (by decide) (by unfold elemInstr; rw [opcOf_packR, elemRec_packR]; rfl) h)
theorem ffmaF32 (f : ElemRec) : Statement (.ffmaF32 f) := fun h => roundElem rfl rfl (roundR 0x23 f (by decide) (by unfold elemInstr; rw [opcOf_packR, elemRec_packR]; rfl) h)
theorem fminF32 (f : ElemRec) : Statement (.fminF32 f) := fun h => roundElem rfl rfl (roundR 0x24 f (by decide) (by unfold elemInstr; rw [opcOf_packR, elemRec_packR]; rfl) h)
theorem fmaxF32 (f : ElemRec) : Statement (.fmaxF32 f) := fun h => roundElem rfl rfl (roundR 0x25 f (by decide) (by unfold elemInstr; rw [opcOf_packR, elemRec_packR]; rfl) h)
theorem fabsF32 (f : ElemRec) : Statement (.fabsF32 f) := fun h => roundElem rfl rfl (roundR 0x26 f (by decide) (by unfold elemInstr; rw [opcOf_packR, elemRec_packR]; rfl) h)
theorem fnegF32 (f : ElemRec) : Statement (.fnegF32 f) := fun h => roundElem rfl rfl (roundR 0x27 f (by decide) (by unfold elemInstr; rw [opcOf_packR, elemRec_packR]; rfl) h)
theorem fcmpEqF32 (f : ElemRec) : Statement (.fcmpEqF32 f) := fun h => roundElem rfl rfl (roundR 0x28 f (by decide) (by unfold elemInstr; rw [opcOf_packR, elemRec_packR]; rfl) h)
theorem fcmpLtF32 (f : ElemRec) : Statement (.fcmpLtF32 f) := fun h => roundElem rfl rfl (roundR 0x29 f (by decide) (by unfold elemInstr; rw [opcOf_packR, elemRec_packR]; rfl) h)
theorem fcmpLeF32 (f : ElemRec) : Statement (.fcmpLeF32 f) := fun h => roundElem rfl rfl (roundR 0x2A f (by decide) (by unfold elemInstr; rw [opcOf_packR, elemRec_packR]; rfl) h)
theorem fdivF32 (f : ElemRec) : Statement (.fdivF32 f) := fun h => roundElem rfl rfl (roundR 0x2B f (by decide) (by unfold elemInstr; rw [opcOf_packR, elemRec_packR]; rfl) h)
theorem fsqrtF32 (f : ElemRec) : Statement (.fsqrtF32 f) := fun h => roundElem rfl rfl (roundR 0x2C f (by decide) (by unfold elemInstr; rw [opcOf_packR, elemRec_packR]; rfl) h)
theorem faddF16x2 (f : ElemRec) : Statement (.faddF16x2 f) := fun h => roundElem rfl rfl (roundR 0x30 f (by decide) (by unfold elemInstr; rw [opcOf_packR, elemRec_packR]; rfl) h)
theorem fmulF16x2 (f : ElemRec) : Statement (.fmulF16x2 f) := fun h => roundElem rfl rfl (roundR 0x31 f (by decide) (by unfold elemInstr; rw [opcOf_packR, elemRec_packR]; rfl) h)
theorem ffmaF16x2 (f : ElemRec) : Statement (.ffmaF16x2 f) := fun h => roundElem rfl rfl (roundR 0x32 f (by decide) (by unfold elemInstr; rw [opcOf_packR, elemRec_packR]; rfl) h)
theorem faddBf16x2 (f : ElemRec) : Statement (.faddBf16x2 f) := fun h => roundElem rfl rfl (roundR 0x33 f (by decide) (by unfold elemInstr; rw [opcOf_packR, elemRec_packR]; rfl) h)
theorem fmulBf16x2 (f : ElemRec) : Statement (.fmulBf16x2 f) := fun h => roundElem rfl rfl (roundR 0x34 f (by decide) (by unfold elemInstr; rw [opcOf_packR, elemRec_packR]; rfl) h)
theorem ffmaBf16x2 (f : ElemRec) : Statement (.ffmaBf16x2 f) := fun h => roundElem rfl rfl (roundR 0x35 f (by decide) (by unfold elemInstr; rw [opcOf_packR, elemRec_packR]; rfl) h)
theorem cvtF32I32 (f : ElemRec) : Statement (.cvtF32I32 f) := fun h => roundElem rfl rfl (roundR 0x38 f (by decide) (by unfold elemInstr; rw [opcOf_packR, elemRec_packR]; rfl) h)
theorem cvtI32F32 (f : ElemRec) : Statement (.cvtI32F32 f) := fun h => roundElem rfl rfl (roundR 0x39 f (by decide) (by unfold elemInstr; rw [opcOf_packR, elemRec_packR]; rfl) h)
theorem cvtF32F16 (f : ElemRec) : Statement (.cvtF32F16 f) := fun h => roundElem rfl rfl (roundR 0x3A f (by decide) (by unfold elemInstr; rw [opcOf_packR, elemRec_packR]; rfl) h)
theorem cvtF32Bf16 (f : ElemRec) : Statement (.cvtF32Bf16 f) := fun h => roundElem rfl rfl (roundR 0x3B f (by decide) (by unfold elemInstr; rw [opcOf_packR, elemRec_packR]; rfl) h)
theorem cvtF16F32 (f : ElemRec) : Statement (.cvtF16F32 f) := fun h => roundElem rfl rfl (roundR 0x3C f (by decide) (by unfold elemInstr; rw [opcOf_packR, elemRec_packR]; rfl) h)
theorem cvtBf16F32 (f : ElemRec) : Statement (.cvtBf16F32 f) := fun h => roundElem rfl rfl (roundR 0x3D f (by decide) (by unfold elemInstr; rw [opcOf_packR, elemRec_packR]; rfl) h)
theorem cvtE4m3F32 (f : ElemRec) : Statement (.cvtE4m3F32 f) := fun h => roundElem rfl rfl (roundR 0x3E f (by decide) (by unfold elemInstr; rw [opcOf_packR, elemRec_packR]; rfl) h)
theorem cvtE5m2F32 (f : ElemRec) : Statement (.cvtE5m2F32 f) := fun h => roundElem rfl rfl (roundR 0x3F f (by decide) (by unfold elemInstr; rw [opcOf_packR, elemRec_packR]; rfl) h)
theorem vaddI32 (f : ElemRec) : Statement (.vaddI32 f) := fun h => roundElem rfl rfl (roundR 0x40 f (by decide) (by unfold elemInstr; rw [opcOf_packR, elemRec_packR]; rfl) h)
theorem vfaddF32 (f : ElemRec) : Statement (.vfaddF32 f) := fun h => roundElem rfl rfl (roundR 0x41 f (by decide) (by unfold elemInstr; rw [opcOf_packR, elemRec_packR]; rfl) h)
theorem vfmulF32 (f : ElemRec) : Statement (.vfmulF32 f) := fun h => roundElem rfl rfl (roundR 0x42 f (by decide) (by unfold elemInstr; rw [opcOf_packR, elemRec_packR]; rfl) h)
theorem vfmaF32 (f : ElemRec) : Statement (.vfmaF32 f) := fun h => roundElem rfl rfl (roundR 0x43 f (by decide) (by unfold elemInstr; rw [opcOf_packR, elemRec_packR]; rfl) h)
theorem vfmaF16 (f : ElemRec) : Statement (.vfmaF16 f) := fun h => roundElem rfl rfl (roundR 0x44 f (by decide) (by unfold elemInstr; rw [opcOf_packR, elemRec_packR]; rfl) h)
theorem vfmaBf16 (f : ElemRec) : Statement (.vfmaBf16 f) := fun h => roundElem rfl rfl (roundR 0x45 f (by decide) (by unfold elemInstr; rw [opcOf_packR, elemRec_packR]; rfl) h)
theorem vbcast (f : ElemRec) : Statement (.vbcast f) := fun h => roundElem rfl rfl (roundR 0x46 f (by decide) (by unfold elemInstr; rw [opcOf_packR, elemRec_packR]; rfl) h)
theorem vext (f : ElemRec) : Statement (.vext f) := fun h => roundElem rfl rfl (roundR 0x47 f (by decide) (by unfold elemInstr; rw [opcOf_packR, elemRec_packR]; rfl) h)
theorem vins (f : ElemRec) : Statement (.vins f) := fun h => roundElem rfl rfl (roundR 0x48 f (by decide) (by unfold elemInstr; rw [opcOf_packR, elemRec_packR]; rfl) h)
theorem vredsumF32 (f : ElemRec) : Statement (.vredsumF32 f) := fun h => roundElem rfl rfl (roundR 0x49 f (by decide) (by unfold elemInstr; rw [opcOf_packR, elemRec_packR]; rfl) h)
theorem vredsumF16 (f : ElemRec) : Statement (.vredsumF16 f) := fun h => roundElem rfl rfl (roundR 0x4A f (by decide) (by unfold elemInstr; rw [opcOf_packR, elemRec_packR]; rfl) h)
theorem vredmaxF32 (f : ElemRec) : Statement (.vredmaxF32 f) := fun h => roundElem rfl rfl (roundR 0x4B f (by decide) (by unfold elemInstr; rw [opcOf_packR, elemRec_packR]; rfl) h)
theorem pwr (f : ElemRec) : Statement (.pwr f) := fun h => roundElem rfl rfl (roundR 0x50 f (by decide) (by unfold elemInstr; rw [opcOf_packR, elemRec_packR]; rfl) h)
theorem prd (f : ElemRec) : Statement (.prd f) := fun h => roundElem rfl rfl (roundR 0x51 f (by decide) (by unfold elemInstr; rw [opcOf_packR, elemRec_packR]; rfl) h)
theorem steer (f : ElemRec) : Statement (.steer f) := fun h => roundElem rfl rfl (roundR 0x52 f (by decide) (by unfold elemInstr; rw [opcOf_packR, elemRec_packR]; rfl) h)
theorem merge (f : ElemRec) : Statement (.merge f) := fun h => roundElem rfl rfl (roundR 0x53 f (by decide) (by unfold elemInstr; rw [opcOf_packR, elemRec_packR]; rfl) h)
theorem rep (f : ElemRec) : Statement (.rep f) := fun h => roundElem rfl rfl (roundR 0x54 f (by decide) (by unfold elemInstr; rw [opcOf_packR, elemRec_packR]; rfl) h)
theorem sweep (f : ElemRec) : Statement (.sweep f) := fun h => roundElem rfl rfl (roundR 0x55 f (by decide) (by unfold elemInstr; rw [opcOf_packR, elemRec_packR]; rfl) h)
theorem stop (f : ElemRec) : Statement (.stop f) := fun h => roundElem rfl rfl (roundR 0x56 f (by decide) (by unfold elemInstr; rw [opcOf_packR, elemRec_packR]; rfl) h)
theorem tagSet (f : ElemRec) : Statement (.tagSet f) := fun h => roundElem rfl rfl (roundR 0x57 f (by decide) (by unfold elemInstr; rw [opcOf_packR, elemRec_packR]; rfl) h)
theorem tagGet (f : ElemRec) : Statement (.tagGet f) := fun h => roundElem rfl rfl (roundR 0x58 f (by decide) (by unfold elemInstr; rw [opcOf_packR, elemRec_packR]; rfl) h)
theorem send (f : ElemRec) : Statement (.send f) := fun h => roundElem rfl rfl (roundR 0x59 f (by decide) (by unfold elemInstr; rw [opcOf_packR, elemRec_packR]; rfl) h)
theorem fin (f : ElemRec) : Statement (.fin f) := fun h => roundElem rfl rfl (roundR 0x5A f (by decide) (by unfold elemInstr; rw [opcOf_packR, elemRec_packR]; rfl) h)
theorem ldB32 (f : MemRec) : Statement (.ldB32 f) := fun h => roundElem rfl rfl (roundM 0x60 f (by decide) (by unfold elemInstr; rw [opcOf_packM, memRec_packM]; rfl) h)
theorem ldU8 (f : MemRec) : Statement (.ldU8 f) := fun h => roundElem rfl rfl (roundM 0x61 f (by decide) (by unfold elemInstr; rw [opcOf_packM, memRec_packM]; rfl) h)
theorem ldW256 (f : MemRec) : Statement (.ldW256 f) := fun h => roundElem rfl rfl (roundM 0x62 f (by decide) (by unfold elemInstr; rw [opcOf_packM, memRec_packM]; rfl) h)
theorem stB32 (f : MemRec) : Statement (.stB32 f) := fun h => roundElem rfl rfl (roundM 0x63 f (by decide) (by unfold elemInstr; rw [opcOf_packM, memRec_packM]; rfl) h)
theorem stB8 (f : MemRec) : Statement (.stB8 f) := fun h => roundElem rfl rfl (roundM 0x64 f (by decide) (by unfold elemInstr; rw [opcOf_packM, memRec_packM]; rfl) h)
theorem stW256 (f : MemRec) : Statement (.stW256 f) := fun h => roundElem rfl rfl (roundM 0x65 f (by decide) (by unfold elemInstr; rw [opcOf_packM, memRec_packM]; rfl) h)
theorem vld (f : MemRec) : Statement (.vld f) := fun h => roundElem rfl rfl (roundM 0x66 f (by decide) (by unfold elemInstr; rw [opcOf_packM, memRec_packM]; rfl) h)
theorem vst (f : MemRec) : Statement (.vst f) := fun h => roundElem rfl rfl (roundM 0x67 f (by decide) (by unfold elemInstr; rw [opcOf_packM, memRec_packM]; rfl) h)
theorem vrcl (f : MemRec) : Statement (.vrcl f) := fun h => roundElem rfl rfl (roundM 0x68 f (by decide) (by unfold elemInstr; rw [opcOf_packM, memRec_packM]; rfl) h)
theorem fence (f : MemRec) : Statement (.fence f) := fun h => roundElem rfl rfl (roundM 0x69 f (by decide) (by unfold elemInstr; rw [opcOf_packM, memRec_packM]; rfl) h)
theorem amoAdd32 (f : AtomRec) : Statement (.amoAdd32 f) := fun h => roundElem rfl rfl (roundA 0x70 f (by decide) (by unfold elemInstr; rw [opcOf_packA, atomRec_packA]; rfl) h)
theorem amoAdd64 (f : AtomRec) : Statement (.amoAdd64 f) := fun h => roundElem rfl rfl (roundA 0x71 f (by decide) (by unfold elemInstr; rw [opcOf_packA, atomRec_packA]; rfl) h)
theorem amoMinI32 (f : AtomRec) : Statement (.amoMinI32 f) := fun h => roundElem rfl rfl (roundA 0x72 f (by decide) (by unfold elemInstr; rw [opcOf_packA, atomRec_packA]; rfl) h)
theorem amoMaxI32 (f : AtomRec) : Statement (.amoMaxI32 f) := fun h => roundElem rfl rfl (roundA 0x73 f (by decide) (by unfold elemInstr; rw [opcOf_packA, atomRec_packA]; rfl) h)
theorem amoAnd32 (f : AtomRec) : Statement (.amoAnd32 f) := fun h => roundElem rfl rfl (roundA 0x74 f (by decide) (by unfold elemInstr; rw [opcOf_packA, atomRec_packA]; rfl) h)
theorem amoOr32 (f : AtomRec) : Statement (.amoOr32 f) := fun h => roundElem rfl rfl (roundA 0x75 f (by decide) (by unfold elemInstr; rw [opcOf_packA, atomRec_packA]; rfl) h)
theorem amoXchg32 (f : AtomRec) : Statement (.amoXchg32 f) := fun h => roundElem rfl rfl (roundA 0x76 f (by decide) (by unfold elemInstr; rw [opcOf_packA, atomRec_packA]; rfl) h)
theorem amoCas32 (f : AtomRec) : Statement (.amoCas32 f) := fun h => roundElem rfl rfl (roundA 0x77 f (by decide) (by unfold elemInstr; rw [opcOf_packA, atomRec_packA]; rfl) h)
theorem amoCas64 (f : AtomRec) : Statement (.amoCas64 f) := fun h => roundElem rfl rfl (roundA 0x78 f (by decide) (by unfold elemInstr; rw [opcOf_packA, atomRec_packA]; rfl) h)
theorem amoFaddF32 (f : AtomRec) : Statement (.amoFaddF32 f) := fun h => roundElem rfl rfl (roundA 0x79 f (by decide) (by unfold elemInstr; rw [opcOf_packA, atomRec_packA]; rfl) h)
theorem staticOperation (region elem : Nat) : Statement (.staticOperation region elem) := fun _ => rfl
theorem addI64 (d a b : Reg) : Statement (.addI64 d a b) := fun _ => roundOne rfl rfl fun _ => (by rw [seq00 (majOf_packRR ..)]; unfold decodeAlu; simp only [rdOf_packRR, rs1Of_packRR, rs2Of_packRR, fnOf_packRR]; rfl)
theorem subI64 (d a b : Reg) : Statement (.subI64 d a b) := fun _ => roundOne rfl rfl fun _ => (by rw [seq00 (majOf_packRR ..)]; unfold decodeAlu; simp only [rdOf_packRR, rs1Of_packRR, rs2Of_packRR, fnOf_packRR]; rfl)
theorem mulI64 (d a b : Reg) : Statement (.mulI64 d a b) := fun _ => roundOne rfl rfl fun _ => (by rw [seq00 (majOf_packRR ..)]; unfold decodeAlu; simp only [rdOf_packRR, rs1Of_packRR, rs2Of_packRR, fnOf_packRR]; rfl)
theorem mulhI64 (d a b : Reg) : Statement (.mulhI64 d a b) := fun _ => roundOne rfl rfl fun _ => (by rw [seq00 (majOf_packRR ..)]; unfold decodeAlu; simp only [rdOf_packRR, rs1Of_packRR, rs2Of_packRR, fnOf_packRR]; rfl)
theorem mulhU64 (d a b : Reg) : Statement (.mulhU64 d a b) := fun _ => roundOne rfl rfl fun _ => (by rw [seq00 (majOf_packRR ..)]; unfold decodeAlu; simp only [rdOf_packRR, rs1Of_packRR, rs2Of_packRR, fnOf_packRR]; rfl)
theorem divI64 (d a b : Reg) : Statement (.divI64 d a b) := fun _ => roundOne rfl rfl fun _ => (by rw [seq00 (majOf_packRR ..)]; unfold decodeAlu; simp only [rdOf_packRR, rs1Of_packRR, rs2Of_packRR, fnOf_packRR]; rfl)
theorem divU64 (d a b : Reg) : Statement (.divU64 d a b) := fun _ => roundOne rfl rfl fun _ => (by rw [seq00 (majOf_packRR ..)]; unfold decodeAlu; simp only [rdOf_packRR, rs1Of_packRR, rs2Of_packRR, fnOf_packRR]; rfl)
theorem remI64 (d a b : Reg) : Statement (.remI64 d a b) := fun _ => roundOne rfl rfl fun _ => (by rw [seq00 (majOf_packRR ..)]; unfold decodeAlu; simp only [rdOf_packRR, rs1Of_packRR, rs2Of_packRR, fnOf_packRR]; rfl)
theorem remU64 (d a b : Reg) : Statement (.remU64 d a b) := fun _ => roundOne rfl rfl fun _ => (by rw [seq00 (majOf_packRR ..)]; unfold decodeAlu; simp only [rdOf_packRR, rs1Of_packRR, rs2Of_packRR, fnOf_packRR]; rfl)
theorem seqAnd (d a b : Reg) : Statement (.seqAnd d a b) := fun _ => roundOne rfl rfl fun _ => (by rw [seq00 (majOf_packRR ..)]; unfold decodeAlu; simp only [rdOf_packRR, rs1Of_packRR, rs2Of_packRR, fnOf_packRR]; rfl)
theorem seqOr (d a b : Reg) : Statement (.seqOr d a b) := fun _ => roundOne rfl rfl fun _ => (by rw [seq00 (majOf_packRR ..)]; unfold decodeAlu; simp only [rdOf_packRR, rs1Of_packRR, rs2Of_packRR, fnOf_packRR]; rfl)
theorem seqXor (d a b : Reg) : Statement (.seqXor d a b) := fun _ => roundOne rfl rfl fun _ => (by rw [seq00 (majOf_packRR ..)]; unfold decodeAlu; simp only [rdOf_packRR, rs1Of_packRR, rs2Of_packRR, fnOf_packRR]; rfl)
theorem seqShl (d a b : Reg) : Statement (.seqShl d a b) := fun _ => roundOne rfl rfl fun _ => (by rw [seq00 (majOf_packRR ..)]; unfold decodeAlu; simp only [rdOf_packRR, rs1Of_packRR, rs2Of_packRR, fnOf_packRR]; rfl)
theorem shrU64 (d a b : Reg) : Statement (.shrU64 d a b) := fun _ => roundOne rfl rfl fun _ => (by rw [seq00 (majOf_packRR ..)]; unfold decodeAlu; simp only [rdOf_packRR, rs1Of_packRR, rs2Of_packRR, fnOf_packRR]; rfl)
theorem shrI64 (d a b : Reg) : Statement (.shrI64 d a b) := fun _ => roundOne rfl rfl fun _ => (by rw [seq00 (majOf_packRR ..)]; unfold decodeAlu; simp only [rdOf_packRR, rs1Of_packRR, rs2Of_packRR, fnOf_packRR]; rfl)
theorem sltI64 (d a b : Reg) : Statement (.sltI64 d a b) := fun _ => roundOne rfl rfl fun _ => (by rw [seq00 (majOf_packRR ..)]; unfold decodeAlu; simp only [rdOf_packRR, rs1Of_packRR, rs2Of_packRR, fnOf_packRR]; rfl)
theorem sltU64 (d a b : Reg) : Statement (.sltU64 d a b) := fun _ => roundOne rfl rfl fun _ => (by rw [seq00 (majOf_packRR ..)]; unfold decodeAlu; simp only [rdOf_packRR, rs1Of_packRR, rs2Of_packRR, fnOf_packRR]; rfl)
theorem minI64 (d a b : Reg) : Statement (.minI64 d a b) := fun _ => roundOne rfl rfl fun _ => (by rw [seq00 (majOf_packRR ..)]; unfold decodeAlu; simp only [rdOf_packRR, rs1Of_packRR, rs2Of_packRR, fnOf_packRR]; rfl)
theorem maxI64 (d a b : Reg) : Statement (.maxI64 d a b) := fun _ => roundOne rfl rfl fun _ => (by rw [seq00 (majOf_packRR ..)]; unfold decodeAlu; simp only [rdOf_packRR, rs1Of_packRR, rs2Of_packRR, fnOf_packRR]; rfl)
theorem seqAddI32 (d a b : Reg) : Statement (.seqAddI32 d a b) := fun _ => roundOne rfl rfl fun _ => (by rw [seq00 (majOf_packRR ..)]; unfold decodeAlu; simp only [rdOf_packRR, rs1Of_packRR, rs2Of_packRR, fnOf_packRR]; rfl)
theorem addi (d a : Reg) (i : BitVec 16) : Statement (.addi d a i) := fun _ => roundOne rfl rfl fun _ => (by unfold decodeSeq; simp only [majOf_packI, rdOf_packI, rs1Of_packI, immOf_packI, shift_amount, shift_op, mov_zero, mov_quarter]; rfl)
theorem andi (d a : Reg) (i : BitVec 16) : Statement (.andi d a i) := fun _ => roundOne rfl rfl fun _ => (by unfold decodeSeq; simp only [majOf_packI, rdOf_packI, rs1Of_packI, immOf_packI, shift_amount, shift_op, mov_zero, mov_quarter]; rfl)
theorem ori (d a : Reg) (i : BitVec 16) : Statement (.ori d a i) := fun _ => roundOne rfl rfl fun _ => (by unfold decodeSeq; simp only [majOf_packI, rdOf_packI, rs1Of_packI, immOf_packI, shift_amount, shift_op, mov_zero, mov_quarter]; rfl)
theorem xori (d a : Reg) (i : BitVec 16) : Statement (.xori d a i) := fun _ => roundOne rfl rfl fun _ => (by unfold decodeSeq; simp only [majOf_packI, rdOf_packI, rs1Of_packI, immOf_packI, shift_amount, shift_op, mov_zero, mov_quarter]; rfl)
theorem sltiI64 (d a : Reg) (i : BitVec 16) : Statement (.sltiI64 d a i) := fun _ => roundOne rfl rfl fun _ => (by unfold decodeSeq; simp only [majOf_packI, rdOf_packI, rs1Of_packI, immOf_packI, shift_amount, shift_op, mov_zero, mov_quarter]; rfl)
theorem sltiU64 (d a : Reg) (i : BitVec 16) : Statement (.sltiU64 d a i) := fun _ => roundOne rfl rfl fun _ => (by unfold decodeSeq; simp only [majOf_packI, rdOf_packI, rs1Of_packI, immOf_packI, shift_amount, shift_op, mov_zero, mov_quarter]; rfl)
theorem shli (d a : Reg) (n : BitVec 6) : Statement (.shli d a n) := fun _ => roundOne rfl rfl fun _ => (by rw [seq08 (majOf_packI ..)]; unfold decodeShift; simp only [rdOf_packI, rs1Of_packI, immOf_packI, shift_amount, shift_op, mov_zero, mov_quarter]; rfl)
theorem shriU64 (d a : Reg) (n : BitVec 6) : Statement (.shriU64 d a n) := fun _ => roundOne rfl rfl fun _ => (by rw [seq08 (majOf_packI ..)]; unfold decodeShift; simp only [rdOf_packI, rs1Of_packI, immOf_packI, shift_amount, shift_op, mov_zero, mov_quarter]; rfl)
theorem shriI64 (d a : Reg) (n : BitVec 6) : Statement (.shriI64 d a n) := fun _ => roundOne rfl rfl fun _ => (by rw [seq08 (majOf_packI ..)]; unfold decodeShift; simp only [rdOf_packI, rs1Of_packI, immOf_packI, shift_amount, shift_op, mov_zero, mov_quarter]; rfl)
theorem movz (d : Reg) (q : BitVec 2) (i : BitVec 16) : Statement (.movz d q i) := fun _ => roundOne rfl rfl fun _ => (by unfold decodeSeq; simp only [majOf_packI, rdOf_packI, rs1Of_packI, immOf_packI, shift_amount, shift_op, mov_zero, mov_quarter]; rfl)
theorem movk (d : Reg) (q : BitVec 2) (i : BitVec 16) : Statement (.movk d q i) := fun _ => roundOne rfl rfl fun _ => (by unfold decodeSeq; simp only [majOf_packI, rdOf_packI, rs1Of_packI, immOf_packI, shift_amount, shift_op, mov_zero, mov_quarter]; rfl)
theorem jalr (d a : Reg) (i : BitVec 16) : Statement (.jalr d a i) := fun _ => roundOne rfl rfl fun _ => (by unfold decodeSeq; simp only [majOf_packI, rdOf_packI, rs1Of_packI, immOf_packI, shift_amount, shift_op, mov_zero, mov_quarter]; rfl)
theorem br (o : BitVec 21) : Statement (.br o) := fun _ => roundOne rfl rfl fun _ => (by unfold decodeSeq; simp only [majOf_packB, rdOf_packB, offOf_packB]; rfl)
theorem jal (r : Reg) (o : BitVec 21) : Statement (.jal r o) := fun _ => roundOne rfl rfl fun _ => (by unfold decodeSeq; simp only [majOf_packB, rdOf_packB, offOf_packB]; rfl)
theorem bz (r : Reg) (o : BitVec 21) : Statement (.bz r o) := fun _ => roundOne rfl rfl fun _ => (by unfold decodeSeq; simp only [majOf_packB, rdOf_packB, offOf_packB]; rfl)
theorem bnz (r : Reg) (o : BitVec 21) : Statement (.bnz r o) := fun _ => roundOne rfl rfl fun _ => (by unfold decodeSeq; simp only [majOf_packB, rdOf_packB, offOf_packB]; rfl)
theorem bltz (r : Reg) (o : BitVec 21) : Statement (.bltz r o) := fun _ => roundOne rfl rfl fun _ => (by unfold decodeSeq; simp only [majOf_packB, rdOf_packB, offOf_packB]; rfl)
theorem bgez (r : Reg) (o : BitVec 21) : Statement (.bgez r o) := fun _ => roundOne rfl rfl fun _ => (by unfold decodeSeq; simp only [majOf_packB, rdOf_packB, offOf_packB]; rfl)
theorem seqLdU8 (d a : Reg) (o : BitVec 12) : Statement (.seqLdU8 d a o) := fun _ => roundOne rfl rfl fun _ => (by rw [seq10 (majOf_packO ..)]; unfold decodeLoad; simp only [rdOf_packO, rs1Of_packO, packO_offset, packO_op]; rfl)
theorem ldI8 (d a : Reg) (o : BitVec 12) : Statement (.ldI8 d a o) := fun _ => roundOne rfl rfl fun _ => (by rw [seq10 (majOf_packO ..)]; unfold decodeLoad; simp only [rdOf_packO, rs1Of_packO, packO_offset, packO_op]; rfl)
theorem ldU16 (d a : Reg) (o : BitVec 12) : Statement (.ldU16 d a o) := fun _ => roundOne rfl rfl fun _ => (by rw [seq10 (majOf_packO ..)]; unfold decodeLoad; simp only [rdOf_packO, rs1Of_packO, packO_offset, packO_op]; rfl)
theorem ldI16 (d a : Reg) (o : BitVec 12) : Statement (.ldI16 d a o) := fun _ => roundOne rfl rfl fun _ => (by rw [seq10 (majOf_packO ..)]; unfold decodeLoad; simp only [rdOf_packO, rs1Of_packO, packO_offset, packO_op]; rfl)
theorem ldU32 (d a : Reg) (o : BitVec 12) : Statement (.ldU32 d a o) := fun _ => roundOne rfl rfl fun _ => (by rw [seq10 (majOf_packO ..)]; unfold decodeLoad; simp only [rdOf_packO, rs1Of_packO, packO_offset, packO_op]; rfl)
theorem ldI32 (d a : Reg) (o : BitVec 12) : Statement (.ldI32 d a o) := fun _ => roundOne rfl rfl fun _ => (by rw [seq10 (majOf_packO ..)]; unfold decodeLoad; simp only [rdOf_packO, rs1Of_packO, packO_offset, packO_op]; rfl)
theorem ldB64 (d a : Reg) (o : BitVec 12) : Statement (.ldB64 d a o) := fun _ => roundOne rfl rfl fun _ => (by rw [seq10 (majOf_packO ..)]; unfold decodeLoad; simp only [rdOf_packO, rs1Of_packO, packO_offset, packO_op]; rfl)
theorem seqStB8 (d a : Reg) (o : BitVec 12) : Statement (.seqStB8 d a o) := fun _ => roundOne rfl rfl fun _ => (by rw [seq11 (majOf_packO ..)]; unfold decodeStore; simp only [rdOf_packO, rs1Of_packO, packO_offset, packO_op]; rfl)
theorem stB16 (d a : Reg) (o : BitVec 12) : Statement (.stB16 d a o) := fun _ => roundOne rfl rfl fun _ => (by rw [seq11 (majOf_packO ..)]; unfold decodeStore; simp only [rdOf_packO, rs1Of_packO, packO_offset, packO_op]; rfl)
theorem seqStB32 (d a : Reg) (o : BitVec 12) : Statement (.seqStB32 d a o) := fun _ => roundOne rfl rfl fun _ => (by rw [seq11 (majOf_packO ..)]; unfold decodeStore; simp only [rdOf_packO, rs1Of_packO, packO_offset, packO_op]; rfl)
theorem stB64 (d a : Reg) (o : BitVec 12) : Statement (.stB64 d a o) := fun _ => roundOne rfl rfl fun _ => (by rw [seq11 (majOf_packO ..)]; unfold decodeStore; simp only [rdOf_packO, rs1Of_packO, packO_offset, packO_op]; rfl)
theorem seqAmoAdd32 (d a b : Reg) (scope : BitVec 3) (ord : BitVec 2) : Statement (.seqAmoAdd32 d a b scope ord) := fun _ => roundOne rfl rfl fun _ => (by rw [seq12 (majOf_packRR ..)]; unfold decodeAmo; simp only [rdOf_packRR, rs1Of_packRR, rs2Of_packRR, fnOf_packRR, packRR_low_8_3, packRR_low_6_2, packRR_low_0_6, amo_scope, amo_order, amo_op]; rfl)
theorem seqAmoAdd64 (d a b : Reg) (scope : BitVec 3) (ord : BitVec 2) : Statement (.seqAmoAdd64 d a b scope ord) := fun _ => roundOne rfl rfl fun _ => (by rw [seq12 (majOf_packRR ..)]; unfold decodeAmo; simp only [rdOf_packRR, rs1Of_packRR, rs2Of_packRR, fnOf_packRR, packRR_low_8_3, packRR_low_6_2, packRR_low_0_6, amo_scope, amo_order, amo_op]; rfl)
theorem amoAnd64 (d a b : Reg) (scope : BitVec 3) (ord : BitVec 2) : Statement (.amoAnd64 d a b scope ord) := fun _ => roundOne rfl rfl fun _ => (by rw [seq12 (majOf_packRR ..)]; unfold decodeAmo; simp only [rdOf_packRR, rs1Of_packRR, rs2Of_packRR, fnOf_packRR, packRR_low_8_3, packRR_low_6_2, packRR_low_0_6, amo_scope, amo_order, amo_op]; rfl)
theorem amoOr64 (d a b : Reg) (scope : BitVec 3) (ord : BitVec 2) : Statement (.amoOr64 d a b scope ord) := fun _ => roundOne rfl rfl fun _ => (by rw [seq12 (majOf_packRR ..)]; unfold decodeAmo; simp only [rdOf_packRR, rs1Of_packRR, rs2Of_packRR, fnOf_packRR, packRR_low_8_3, packRR_low_6_2, packRR_low_0_6, amo_scope, amo_order, amo_op]; rfl)
theorem amoXchg64 (d a b : Reg) (scope : BitVec 3) (ord : BitVec 2) : Statement (.amoXchg64 d a b scope ord) := fun _ => roundOne rfl rfl fun _ => (by rw [seq12 (majOf_packRR ..)]; unfold decodeAmo; simp only [rdOf_packRR, rs1Of_packRR, rs2Of_packRR, fnOf_packRR, packRR_low_8_3, packRR_low_6_2, packRR_low_0_6, amo_scope, amo_order, amo_op]; rfl)
theorem amoMinI64 (d a b : Reg) (scope : BitVec 3) (ord : BitVec 2) : Statement (.amoMinI64 d a b scope ord) := fun _ => roundOne rfl rfl fun _ => (by rw [seq12 (majOf_packRR ..)]; unfold decodeAmo; simp only [rdOf_packRR, rs1Of_packRR, rs2Of_packRR, fnOf_packRR, packRR_low_8_3, packRR_low_6_2, packRR_low_0_6, amo_scope, amo_order, amo_op]; rfl)
theorem amoMaxI64 (d a b : Reg) (scope : BitVec 3) (ord : BitVec 2) : Statement (.amoMaxI64 d a b scope ord) := fun _ => roundOne rfl rfl fun _ => (by rw [seq12 (majOf_packRR ..)]; unfold decodeAmo; simp only [rdOf_packRR, rs1Of_packRR, rs2Of_packRR, fnOf_packRR, packRR_low_8_3, packRR_low_6_2, packRR_low_0_6, amo_scope, amo_order, amo_op]; rfl)
theorem seqAmoCas32 (d a b : Reg) (scope : BitVec 3) (ord : BitVec 2) : Statement (.seqAmoCas32 d a b scope ord) := fun _ => roundOne rfl rfl fun _ => (by rw [seq12 (majOf_packRR ..)]; unfold decodeAmo; simp only [rdOf_packRR, rs1Of_packRR, rs2Of_packRR, fnOf_packRR, packRR_low_8_3, packRR_low_6_2, packRR_low_0_6, amo_scope, amo_order, amo_op]; rfl)
theorem seqAmoCas64 (d a b : Reg) (scope : BitVec 3) (ord : BitVec 2) : Statement (.seqAmoCas64 d a b scope ord) := fun _ => roundOne rfl rfl fun _ => (by rw [seq12 (majOf_packRR ..)]; unfold decodeAmo; simp only [rdOf_packRR, rs1Of_packRR, rs2Of_packRR, fnOf_packRR, packRR_low_8_3, packRR_low_6_2, packRR_low_0_6, amo_scope, amo_order, amo_op]; rfl)
theorem seqLdB32Acq (d a : Reg) (scope : BitVec 3) : Statement (.seqLdB32Acq d a scope) := fun _ => roundOne rfl rfl fun _ => (by rw [seq12 (majOf_packRR ..)]; unfold decodeAmo; simp only [rdOf_packRR, rs1Of_packRR, rs2Of_packRR, fnOf_packRR, packRR_low_8_3, packRR_low_6_2, packRR_low_0_6, amo_scope, amo_order, amo_op]; rfl)
theorem ldB64Acq (d a : Reg) (scope : BitVec 3) : Statement (.ldB64Acq d a scope) := fun _ => roundOne rfl rfl fun _ => (by rw [seq12 (majOf_packRR ..)]; unfold decodeAmo; simp only [rdOf_packRR, rs1Of_packRR, rs2Of_packRR, fnOf_packRR, packRR_low_8_3, packRR_low_6_2, packRR_low_0_6, amo_scope, amo_order, amo_op]; rfl)
theorem seqStB32Rel (a b : Reg) (scope : BitVec 3) : Statement (.seqStB32Rel a b scope) := fun _ => roundOne rfl rfl fun _ => (by rw [seq12 (majOf_packRR ..)]; unfold decodeAmo; simp only [rdOf_packRR, rs1Of_packRR, rs2Of_packRR, fnOf_packRR, packRR_low_8_3, packRR_low_6_2, packRR_low_0_6, amo_scope, amo_order, amo_op]; rfl)
theorem stB64Rel (a b : Reg) (scope : BitVec 3) : Statement (.stB64Rel a b scope) := fun _ => roundOne rfl rfl fun _ => (by rw [seq12 (majOf_packRR ..)]; unfold decodeAmo; simp only [rdOf_packRR, rs1Of_packRR, rs2Of_packRR, fnOf_packRR, packRR_low_8_3, packRR_low_6_2, packRR_low_0_6, amo_scope, amo_order, amo_op]; rfl)
theorem seqVld (d a b : Reg) : Statement (.seqVld d a b) := fun _ => roundOne rfl rfl fun _ => (by rw [seq13 (majOf_packRR ..)]; unfold decodeVer; simp only [rdOf_packRR, rs1Of_packRR, rs2Of_packRR, fnOf_packRR]; rfl)
theorem seqVst (a b : Reg) : Statement (.seqVst a b) := fun _ => roundOne rfl rfl fun _ => (by rw [seq13 (majOf_packRR ..)]; unfold decodeVer; simp only [rdOf_packRR, rs1Of_packRR, rs2Of_packRR, fnOf_packRR]; rfl)
theorem seqVrcl (a b : Reg) : Statement (.seqVrcl a b) := fun _ => roundOne rfl rfl fun _ => (by rw [seq13 (majOf_packRR ..)]; unfold decodeVer; simp only [rdOf_packRR, rs1Of_packRR, rs2Of_packRR, fnOf_packRR]; rfl)
theorem seqFence (scope : BitVec 3) : Statement (.seqFence scope) := fun _ => roundOne rfl rfl fun _ => (by unfold decodeSeq; simp only [majOf_packRR, rdOf_packRR, rs1Of_packRR, rs2Of_packRR, fnOf_packRR, packRR_low_8_3, packRR_low_3_5, packRR_low_0_3, packRR_low_0_8, low_scope, low_part_3_5, low_part_0_3, low_part_0_8, fence_zero]; rfl)
theorem strmLd (ra rb : Reg) (port : BitVec 4) : Statement (.strmLd ra rb port) := fun _ => roundTwo rfl rfl (by rw [seq30 (majOf_packX ..)]; unfold decodeX; simp only [majOf_packX, rdOf_packX, rs1Of_packX, rs2Of_packX, packX_op, packX_zero, port_low, port_high]; rfl)
theorem strmSt (ra rb : Reg) (port : BitVec 4) : Statement (.strmSt ra rb port) := fun _ => roundTwo rfl rfl (by rw [seq30 (majOf_packX ..)]; unfold decodeX; simp only [majOf_packX, rdOf_packX, rs1Of_packX, rs2Of_packX, packX_op, packX_zero, port_low, port_high]; rfl)
theorem strmCp (ra rb rc : Reg) : Statement (.strmCp ra rb rc) := fun _ => roundTwo rfl rfl (by rw [seq30 (majOf_packX ..)]; unfold decodeX; simp only [majOf_packX, rdOf_packX, rs1Of_packX, rs2Of_packX, packX_op, packX_zero, port_low, port_high]; rfl)
theorem memHrv (ra rb : Reg) : Statement (.memHrv ra rb) := fun _ => roundTwo rfl rfl (by rw [seq30 (majOf_packX ..)]; unfold decodeX; simp only [majOf_packX, rdOf_packX, rs1Of_packX, rs2Of_packX, packX_op, packX_zero, port_low, port_high]; rfl)
theorem semaSig (r : Reg) (scope : BitVec 3) (i : BitVec 6) : Statement (.semaSig r scope i) := fun _ => roundOne rfl rfl fun _ => (by rw [seq20 (majOf_packS ..)]; unfold decodeSema; simp only [rdOf_packS, rs1Of_packS, packS_scope, packS_op, packS_zero, packS_index]; rfl)
theorem semaSigR (d r : Reg) (scope : BitVec 3) : Statement (.semaSigR d r scope) := fun _ => roundOne rfl rfl fun _ => (by rw [seq20 (majOf_packS ..)]; unfold decodeSema; simp only [rdOf_packS, rs1Of_packS, packS_scope, packS_op, packS_zero, packS_index]; rfl)
theorem semaAcq (d r : Reg) (scope : BitVec 3) (i : BitVec 6) : Statement (.semaAcq d r scope i) := fun _ => roundOne rfl rfl fun _ => (by rw [seq20 (majOf_packS ..)]; unfold decodeSema; simp only [rdOf_packS, rs1Of_packS, packS_scope, packS_op, packS_zero, packS_index]; rfl)
theorem semaTry (d r : Reg) (scope : BitVec 3) (i : BitVec 6) : Statement (.semaTry d r scope i) := fun _ => roundOne rfl rfl fun _ => (by rw [seq20 (majOf_packS ..)]; unfold decodeSema; simp only [rdOf_packS, rs1Of_packS, packS_scope, packS_op, packS_zero, packS_index]; rfl)
theorem semaSet (r : Reg) (i : BitVec 6) : Statement (.semaSet r i) := fun _ => roundOne rfl rfl fun _ => (by rw [seq20 (majOf_packS ..)]; unfold decodeSema; simp only [rdOf_packS, rs1Of_packS, packS_scope, packS_op, packS_zero, packS_index]; rfl)
theorem semaRd (d : Reg) (i : BitVec 6) : Statement (.semaRd d i) := fun _ => roundOne rfl rfl fun _ => (by rw [seq20 (majOf_packS ..)]; unfold decodeSema; simp only [rdOf_packS, rs1Of_packS, packS_scope, packS_op, packS_zero, packS_index]; rfl)
theorem tbarInit (a b : Reg) (scope : BitVec 3) : Statement (.tbarInit a b scope) := fun _ => roundOne rfl rfl fun _ => (by rw [seq21 (majOf_packRR ..)]; unfold decodeTbar; simp only [rdOf_packRR, rs1Of_packRR, rs2Of_packRR, fnOf_packRR, packRR_low_8_3, packRR_low_3_5, packRR_low_0_3, packRR_low_0_8, low_scope, low_part_3_5, low_part_0_3, low_part_0_8, fence_zero]; rfl)
theorem tbarArr (d a b : Reg) (scope : BitVec 3) : Statement (.tbarArr d a b scope) := fun _ => roundOne rfl rfl fun _ => (by rw [seq21 (majOf_packRR ..)]; unfold decodeTbar; simp only [rdOf_packRR, rs1Of_packRR, rs2Of_packRR, fnOf_packRR, packRR_low_8_3, packRR_low_3_5, packRR_low_0_3, packRR_low_0_8, low_scope, low_part_3_5, low_part_0_3, low_part_0_8, fence_zero]; rfl)
theorem tbarDecl (a b : Reg) (scope : BitVec 3) : Statement (.tbarDecl a b scope) := fun _ => roundOne rfl rfl fun _ => (by rw [seq21 (majOf_packRR ..)]; unfold decodeTbar; simp only [rdOf_packRR, rs1Of_packRR, rs2Of_packRR, fnOf_packRR, packRR_low_8_3, packRR_low_3_5, packRR_low_0_3, packRR_low_0_8, low_scope, low_part_3_5, low_part_0_3, low_part_0_8, fence_zero]; rfl)
theorem tbarWait (d a b : Reg) (scope : BitVec 3) : Statement (.tbarWait d a b scope) := fun _ => roundOne rfl rfl fun _ => (by rw [seq21 (majOf_packRR ..)]; unfold decodeTbar; simp only [rdOf_packRR, rs1Of_packRR, rs2Of_packRR, fnOf_packRR, packRR_low_8_3, packRR_low_3_5, packRR_low_0_3, packRR_low_0_8, low_scope, low_part_3_5, low_part_0_3, low_part_0_8, fence_zero]; rfl)
theorem tbarTest (d a b : Reg) (scope : BitVec 3) : Statement (.tbarTest d a b scope) := fun _ => roundOne rfl rfl fun _ => (by rw [seq21 (majOf_packRR ..)]; unfold decodeTbar; simp only [rdOf_packRR, rs1Of_packRR, rs2Of_packRR, fnOf_packRR, packRR_low_8_3, packRR_low_3_5, packRR_low_0_3, packRR_low_0_8, low_scope, low_part_3_5, low_part_0_3, low_part_0_8, fence_zero]; rfl)
theorem tbarFini (a : Reg) (scope : BitVec 3) : Statement (.tbarFini a scope) := fun _ => roundOne rfl rfl fun _ => (by rw [seq21 (majOf_packRR ..)]; unfold decodeTbar; simp only [rdOf_packRR, rs1Of_packRR, rs2Of_packRR, fnOf_packRR, packRR_low_8_3, packRR_low_3_5, packRR_low_0_3, packRR_low_0_8, low_scope, low_part_3_5, low_part_0_3, low_part_0_8, fence_zero]; rfl)
theorem lnch (ra rb : Reg) : Statement (.lnch ra rb) := fun _ => roundTwo rfl rfl (by rw [seq31 (majOf_packX ..)]; unfold decodeX; simp only [majOf_packX, rdOf_packX, rs1Of_packX, rs2Of_packX, packX_op, packX_zero, port_low, port_high]; rfl)
theorem lnchInd (ra rb : Reg) : Statement (.lnchInd ra rb) := fun _ => roundTwo rfl rfl (by rw [seq31 (majOf_packX ..)]; unfold decodeX; simp only [majOf_packX, rdOf_packX, rs1Of_packX, rs2Of_packX, packX_op, packX_zero, port_low, port_high]; rfl)
theorem cfgLd (ra rb rc : Reg) : Statement (.cfgLd ra rb rc) := fun _ => roundTwo rfl rfl (by rw [seq32 (majOf_packX ..)]; unfold decodeX; simp only [majOf_packX, rdOf_packX, rs1Of_packX, rs2Of_packX, packX_op, packX_zero, port_low, port_high]; rfl)
theorem cfgSwp (ra rb rc : Reg) : Statement (.cfgSwp ra rb rc) := fun _ => roundTwo rfl rfl (by rw [seq32 (majOf_packX ..)]; unfold decodeX; simp only [majOf_packX, rdOf_packX, rs1Of_packX, rs2Of_packX, packX_op, packX_zero, port_low, port_high]; rfl)
theorem cfgUnl (ra rc : Reg) : Statement (.cfgUnl ra rc) := fun _ => roundTwo rfl rfl (by rw [seq32 (majOf_packX ..)]; unfold decodeX; simp only [majOf_packX, rdOf_packX, rs1Of_packX, rs2Of_packX, packX_op, packX_zero, port_low, port_high]; rfl)
theorem cfgSv (ra rb rc : Reg) : Statement (.cfgSv ra rb rc) := fun _ => roundTwo rfl rfl (by rw [seq32 (majOf_packX ..)]; unfold decodeX; simp only [majOf_packX, rdOf_packX, rs1Of_packX, rs2Of_packX, packX_op, packX_zero, port_low, port_high]; rfl)
theorem cfgRst (ra rb rc : Reg) : Statement (.cfgRst ra rb rc) := fun _ => roundTwo rfl rfl (by rw [seq32 (majOf_packX ..)]; unfold decodeX; simp only [majOf_packX, rdOf_packX, rs1Of_packX, rs2Of_packX, packX_op, packX_zero, port_low, port_high]; rfl)
theorem brngGet (d a : Reg) : Statement (.brngGet d a) := fun _ => roundOne rfl rfl fun _ => (by rw [seq22 (majOf_packRR ..)]; unfold decodeRing; simp only [rdOf_packRR, rs1Of_packRR, rs2Of_packRR, fnOf_packRR]; rfl)
theorem brngRel (a : Reg) : Statement (.brngRel a) := fun _ => roundOne rfl rfl fun _ => (by rw [seq22 (majOf_packRR ..)]; unfold decodeRing; simp only [rdOf_packRR, rs1Of_packRR, rs2Of_packRR, fnOf_packRR]; rfl)
theorem mringPut (a b : Reg) : Statement (.mringPut a b) := fun _ => roundOne rfl rfl fun _ => (by rw [seq22 (majOf_packRR ..)]; unfold decodeRing; simp only [rdOf_packRR, rs1Of_packRR, rs2Of_packRR, fnOf_packRR]; rfl)
theorem mringGet (d : Reg) : Statement (.mringGet d) := fun _ => roundOne rfl rfl fun _ => (by rw [seq22 (majOf_packRR ..)]; unfold decodeRing; simp only [rdOf_packRR, rs1Of_packRR, rs2Of_packRR, fnOf_packRR]; rfl)
theorem mringLd (d a : Reg) : Statement (.mringLd d a) := fun _ => roundOne rfl rfl fun _ => (by rw [seq22 (majOf_packRR ..)]; unfold decodeRing; simp only [rdOf_packRR, rs1Of_packRR, rs2Of_packRR, fnOf_packRR]; rfl)
theorem mringRel : Statement (.mringRel) := fun _ => roundOne rfl rfl fun _ => (by rw [seq22 (majOf_packRR ..)]; unfold decodeRing; simp only [rdOf_packRR, rs1Of_packRR, rs2Of_packRR, fnOf_packRR]; rfl)
theorem bqPush (d a b : Reg) (y : BitVec 1) (q : BitVec 4) : Statement (.bqPush d a b y q) := fun h => roundOne rfl rfl fun _ => (by rw [seq23 (majOf_packRR ..)]; unfold decodeBq; simp only [rdOf_packRR, rs1Of_packRR, rs2Of_packRR, fnOf_packRR, packRR_low_8_3, packRR_low_5_3, packRR_low_4_1, packRR_low_0_4, bq_high, bq_op, bq_y, bq_q, bq_pair, bq_even]; rw [show okQuadrant y q = true from h]; rfl)
theorem bqPop (d : BitVec 4) (b : Reg) (y : BitVec 1) (q : BitVec 4) : Statement (.bqPop d b y q) := fun h => roundOne rfl rfl fun _ => (by rw [seq23 (majOf_packRR ..)]; unfold decodeBq; simp only [rdOf_packRR, rs1Of_packRR, rs2Of_packRR, fnOf_packRR, packRR_low_8_3, packRR_low_5_3, packRR_low_4_1, packRR_low_0_4, bq_high, bq_op, bq_y, bq_q, bq_pair, bq_even]; rw [show okQuadrant y q = true from h]; rfl)
theorem bqPopW (d : BitVec 4) (b : Reg) (y : BitVec 1) (q : BitVec 4) : Statement (.bqPopW d b y q) := fun h => roundOne rfl rfl fun _ => (by rw [seq23 (majOf_packRR ..)]; unfold decodeBq; simp only [rdOf_packRR, rs1Of_packRR, rs2Of_packRR, fnOf_packRR, packRR_low_8_3, packRR_low_5_3, packRR_low_4_1, packRR_low_0_4, bq_high, bq_op, bq_y, bq_q, bq_pair, bq_even]; rw [show okQuadrant y q = true from h]; rfl)
theorem bqCnt (d : Reg) (y : BitVec 1) (q : BitVec 4) : Statement (.bqCnt d y q) := fun h => roundOne rfl rfl fun _ => (by rw [seq23 (majOf_packRR ..)]; unfold decodeBq; simp only [rdOf_packRR, rs1Of_packRR, rs2Of_packRR, fnOf_packRR, packRR_low_8_3, packRR_low_5_3, packRR_low_4_1, packRR_low_0_4, bq_high, bq_op, bq_y, bq_q, bq_pair, bq_even]; rw [show okQuadrant y q = true from h]; rfl)
theorem csrr (d : Reg) (i : BitVec 12) : Statement (.csrr d i) := fun _ => roundOne rfl rfl fun _ => (by rw [seq24 (majOf_packY ..)]; unfold decodeSys; simp only [rdOf_packY, rs1Of_packY, packY_op, packY_index]; rfl)
theorem csrw (a : Reg) (i : BitVec 12) : Statement (.csrw a i) := fun _ => roundOne rfl rfl fun _ => (by rw [seq24 (majOf_packY ..)]; unfold decodeSys; simp only [rdOf_packY, rs1Of_packY, packY_op, packY_index]; rfl)
theorem csrs (a : Reg) (i : BitVec 12) : Statement (.csrs a i) := fun _ => roundOne rfl rfl fun _ => (by rw [seq24 (majOf_packY ..)]; unfold decodeSys; simp only [rdOf_packY, rs1Of_packY, packY_op, packY_index]; rfl)
theorem csrc (a : Reg) (i : BitVec 12) : Statement (.csrc a i) := fun _ => roundOne rfl rfl fun _ => (by rw [seq24 (majOf_packY ..)]; unfold decodeSys; simp only [rdOf_packY, rs1Of_packY, packY_op, packY_index]; rfl)
theorem wait : Statement (.wait) := fun _ => roundOne rfl rfl fun _ => (by rw [seq24 (majOf_packY ..)]; unfold decodeSys; simp only [rdOf_packY, rs1Of_packY, packY_op, packY_index]; rfl)
theorem halt : Statement (.halt) := fun _ => roundOne rfl rfl fun _ => (by rw [seq24 (majOf_packY ..)]; unfold decodeSys; simp only [rdOf_packY, rs1Of_packY, packY_op, packY_index]; rfl)
theorem trap (i : BitVec 12) : Statement (.trap i) := fun _ => roundOne rfl rfl fun _ => (by rw [seq24 (majOf_packY ..)]; unfold decodeSys; simp only [rdOf_packY, rs1Of_packY, packY_op, packY_index]; rfl)
theorem eret : Statement (.eret) := fun _ => roundOne rfl rfl fun _ => (by rw [seq24 (majOf_packY ..)]; unfold decodeSys; simp only [rdOf_packY, rs1Of_packY, packY_op, packY_index]; rfl)
theorem sbar : Statement (.sbar) := fun _ => roundOne rfl rfl fun _ => (by rw [seq24 (majOf_packY ..)]; unfold decodeSys; simp only [rdOf_packY, rs1Of_packY, packY_op, packY_index]; rfl)
theorem rplBeg (d a b : Reg) : Statement (.rplBeg d a b) := fun _ => roundOne rfl rfl fun _ => (by rw [seq25 (majOf_packRR ..)]; unfold decodeRpl; simp only [rdOf_packRR, rs1Of_packRR, rs2Of_packRR, fnOf_packRR]; rfl)
theorem rplStep (d a b : Reg) : Statement (.rplStep d a b) := fun _ => roundOne rfl rfl fun _ => (by rw [seq25 (majOf_packRR ..)]; unfold decodeRpl; simp only [rdOf_packRR, rs1Of_packRR, rs2Of_packRR, fnOf_packRR]; rfl)
theorem rplEnd (d a b : Reg) : Statement (.rplEnd d a b) := fun _ => roundOne rfl rfl fun _ => (by rw [seq25 (majOf_packRR ..)]; unfold decodeRpl; simp only [rdOf_packRR, rs1Of_packRR, rs2Of_packRR, fnOf_packRR]; rfl)
theorem rplDrop (d a b : Reg) : Statement (.rplDrop d a b) := fun _ => roundOne rfl rfl fun _ => (by rw [seq25 (majOf_packRR ..)]; unfold decodeRpl; simp only [rdOf_packRR, rs1Of_packRR, rs2Of_packRR, fnOf_packRR]; rfl)
theorem ctxTen (d a : Reg) : Statement (.ctxTen d a) := fun _ => roundOne rfl rfl fun _ => (by rw [seq26 (majOf_packRR ..)]; unfold decodeMgmt; simp only [rdOf_packRR, rs1Of_packRR, rs2Of_packRR, fnOf_packRR]; rfl)
theorem ctxRoot (d a : Reg) : Statement (.ctxRoot d a) := fun _ => roundOne rfl rfl fun _ => (by rw [seq26 (majOf_packRR ..)]; unfold decodeMgmt; simp only [rdOf_packRR, rs1Of_packRR, rs2Of_packRR, fnOf_packRR]; rfl)
theorem ctxKill (d a : Reg) : Statement (.ctxKill d a) := fun _ => roundOne rfl rfl fun _ => (by rw [seq26 (majOf_packRR ..)]; unfold decodeMgmt; simp only [rdOf_packRR, rs1Of_packRR, rs2Of_packRR, fnOf_packRR]; rfl)
theorem mstFrz (d : Reg) : Statement (.mstFrz d) := fun _ => roundOne rfl rfl fun _ => (by rw [seq26 (majOf_packRR ..)]; unfold decodeMgmt; simp only [rdOf_packRR, rs1Of_packRR, rs2Of_packRR, fnOf_packRR]; rfl)
theorem mstThaw (d : Reg) : Statement (.mstThaw d) := fun _ => roundOne rfl rfl fun _ => (by rw [seq26 (majOf_packRR ..)]; unfold decodeMgmt; simp only [rdOf_packRR, rs1Of_packRR, rs2Of_packRR, fnOf_packRR]; rfl)
theorem thrSet (d a : Reg) : Statement (.thrSet d a) := fun _ => roundOne rfl rfl fun _ => (by rw [seq26 (majOf_packRR ..)]; unfold decodeMgmt; simp only [rdOf_packRR, rs1Of_packRR, rs2Of_packRR, fnOf_packRR]; rfl)
theorem snsrRd (d a : Reg) : Statement (.snsrRd d a) := fun _ => roundOne rfl rfl fun _ => (by rw [seq26 (majOf_packRR ..)]; unfold decodeMgmt; simp only [rdOf_packRR, rs1Of_packRR, rs2Of_packRR, fnOf_packRR]; rfl)
theorem evlPut (d : Reg) : Statement (.evlPut d) := fun _ => roundOne rfl rfl fun _ => (by rw [seq26 (majOf_packRR ..)]; unfold decodeMgmt; simp only [rdOf_packRR, rs1Of_packRR, rs2Of_packRR, fnOf_packRR]; rfl)
theorem tlbInv (d a : Reg) : Statement (.tlbInv d a) := fun _ => roundOne rfl rfl fun _ => (by rw [seq26 (majOf_packRR ..)]; unfold decodeMgmt; simp only [rdOf_packRR, rs1Of_packRR, rs2Of_packRR, fnOf_packRR]; rfl)
theorem seqRun (d a b : Reg) : Statement (.seqRun d a b) := fun _ => roundOne rfl rfl fun _ => (by rw [seq26 (majOf_packRR ..)]; unfold decodeMgmt; simp only [rdOf_packRR, rs1Of_packRR, rs2Of_packRR, fnOf_packRR]; rfl)
theorem seqStop (d : Reg) : Statement (.seqStop d) := fun _ => roundOne rfl rfl fun _ => (by rw [seq26 (majOf_packRR ..)]; unfold decodeMgmt; simp only [rdOf_packRR, rs1Of_packRR, rs2Of_packRR, fnOf_packRR]; rfl)
theorem seqResume (d : Reg) : Statement (.seqResume d) := fun _ => roundOne rfl rfl fun _ => (by rw [seq26 (majOf_packRR ..)]; unfold decodeMgmt; simp only [rdOf_packRR, rs1Of_packRR, rs2Of_packRR, fnOf_packRR]; rfl)
theorem seqProgramStart (core : Nat) : Statement (.seqProgramStart core) := fun _ => rfl
theorem seqResultArrival (core id : Nat) (reply : Reply) : Statement (.seqResultArrival core id reply) := fun _ => rfl
theorem waitTimeout (core : Nat) : Statement (.waitTimeout core) := fun _ => rfl
theorem eventTake (core : Nat) : Statement (.eventTake core) := fun _ => rfl
theorem configurationLoad (op : Nat) : Statement (.configurationLoad op) := fun _ => rfl
theorem reconfigurationTokenPassage (region : Nat) : Statement (.reconfigurationTokenPassage region) := fun _ => rfl
theorem configurationSave (op : Nat) : Statement (.configurationSave op) := fun _ => rfl
theorem configurationRestore (op : Nat) : Statement (.configurationRestore op) := fun _ => rfl
theorem launchJudgement (launch : Nat) (reply : Reply) : Statement (.launchJudgement launch reply) := fun _ => rfl
theorem placementTake (launch : Nat) : Statement (.placementTake launch) := fun _ => rfl
theorem unitStart (launch : Nat) : Statement (.unitStart launch) := fun _ => rfl
theorem unitCompletion (region : Nat) : Statement (.unitCompletion region) := fun _ => rfl
theorem launchCompletion (launch : Nat) : Statement (.launchCompletion launch) := fun _ => rfl
theorem linkTokenArrival (region elem : Nat) (side : Dir) (half : WireStep) : Statement (.linkTokenArrival region elem side half) := fun _ => rfl
theorem packetArrival (move : PacketStep) : Statement (.packetArrival move) := fun _ => rfl
theorem landingQueuePass (loc inbox : Nat) : Statement (.landingQueuePass loc inbox) := fun _ => rfl
theorem qoutRecordWrite (region elem : Nat) (side : Dir) (reply : Reply) : Statement (.qoutRecordWrite region elem side reply) := fun _ => rfl
theorem qinRecordDeliver (region elem : Nat) (side : Dir) (reply : Reply) : Statement (.qinRecordDeliver region elem side reply) := fun _ => rfl
theorem windowCommit (region : Nat) : Statement (.windowCommit region) := fun _ => rfl
theorem windowFaultDetect (region : Nat) : Statement (.windowFaultDetect region) := fun _ => rfl
theorem regionClockGate (region : Nat) : Statement (.regionClockGate region) := fun _ => rfl
theorem sweepComplete (region : Nat) : Statement (.sweepComplete region) := fun _ => rfl
theorem tlbWalk (region acc : Nat) : Statement (.tlbWalk region acc) := fun _ => rfl
theorem loadResponse (region acc : Nat) (reply : Reply) : Statement (.loadResponse region acc reply) := fun _ => rfl
theorem unbufferedAccessPerform (region acc : Nat) : Statement (.unbufferedAccessPerform region acc) := fun _ => rfl
theorem atomicPerform (region acc : Nat) (reply : Reply) : Statement (.atomicPerform region acc reply) := fun _ => rfl
theorem vldHomeJudge (region acc : Nat) (reply : Reply) : Statement (.vldHomeJudge region acc reply) := fun _ => rfl
theorem vldResend (region acc : Nat) : Statement (.vldResend region acc) := fun _ => rfl
theorem vstPerform (region acc : Nat) : Statement (.vstPerform region acc) := fun _ => rfl
theorem versionStall (region acc : Nat) : Statement (.versionStall region acc) := fun _ => rfl
theorem vrclPerform (region acc : Nat) : Statement (.vrclPerform region acc) := fun _ => rfl
theorem streamStart (stream : Nat) : Statement (.streamStart stream) := fun _ => rfl
theorem streamItemMove (stream : Nat) (reply : Reply) : Statement (.streamItemMove stream reply) := fun _ => rfl
theorem streamRetry (stream : Nat) : Statement (.streamRetry stream) := fun _ => rfl
theorem streamRetire (stream : Nat) : Statement (.streamRetire stream) := fun _ => rfl
theorem dirtyHarvest (stream : Nat) : Statement (.dirtyHarvest stream) := fun _ => rfl
theorem tlbInvalidateComplete (inv : Nat) : Statement (.tlbInvalidateComplete inv) := fun _ => rfl
theorem matrixChain (region elem : Nat) : Statement (.matrixChain region elem) := fun _ => rfl
theorem matrixEmit (region elem : Nat) : Statement (.matrixEmit region elem) := fun _ => rfl
theorem matrixToken (region elem : Nat) : Statement (.matrixToken region elem) := fun _ => rfl
theorem matrixBeat (region elem : Nat) : Statement (.matrixBeat region elem) := fun _ => rfl
theorem matrixClose (region elem : Nat) : Statement (.matrixClose region elem) := fun _ => rfl
theorem matrixOuter (region elem : Nat) : Statement (.matrixOuter region elem) := fun _ => rfl
theorem matrixBehind (region elem : Nat) : Statement (.matrixBehind region elem) := fun _ => rfl
theorem matrixFathom (region elem : Nat) : Statement (.matrixFathom region elem) := fun _ => rfl
theorem repeatNode (region elem : Nat) : Statement (.repeatNode region elem) := fun _ => rfl
theorem rayTake (sector : Nat) : Statement (.rayTake sector) := fun _ => rfl
theorem candidateInvoke (sector ray : Nat) : Statement (.candidateInvoke sector ray) := fun _ => rfl
theorem verdictTake (sector : Nat) : Statement (.verdictTake sector) := fun _ => rfl
theorem rayMigration (sector ray : Nat) : Statement (.rayMigration sector ray) := fun _ => rfl
theorem rayResult (sector ray : Nat) : Statement (.rayResult sector ray) := fun _ => rfl
theorem traversalStopPass (sector : Nat) : Statement (.traversalStopPass sector) := fun _ => rfl
theorem drain (sector : Nat) : Statement (.drain sector) := fun _ => rfl
theorem ctinv (sector : Nat) : Statement (.ctinv sector) := fun _ => rfl
theorem traversalUnknownCommand (sector : Nat) : Statement (.traversalUnknownCommand sector) := fun _ => rfl
theorem primitiveToken (block : Nat) : Statement (.primitiveToken block) := fun _ => rfl
theorem tagClose (slice item : Nat) : Statement (.tagClose slice item) := fun _ => rfl
theorem blendForward (slice : Nat) : Statement (.blendForward slice) := fun _ => rfl
theorem blendApplication (slice item : Nat) : Statement (.blendApplication slice item) := fun _ => rfl
theorem view (block : Nat) : Statement (.view block) := fun _ => rfl
theorem clr (block : Nat) : Statement (.clr block) := fun _ => rfl
theorem fbeg (block : Nat) : Statement (.fbeg block) := fun _ => rfl
theorem rasterFence (block : Nat) : Statement (.rasterFence block) := fun _ => rfl
theorem modes (block : Nat) : Statement (.modes block) := fun _ => rfl
theorem dcmp (block : Nat) : Statement (.dcmp block) := fun _ => rfl
theorem mload (block : Nat) : Statement (.mload block) := fun _ => rfl
theorem rasterUnknownCommand (block : Nat) : Statement (.rasterUnknownCommand block) := fun _ => rfl
theorem rasterStopPass (block : Nat) : Statement (.rasterStopPass block) := fun _ => rfl
theorem isect (cluster : Nat) : Statement (.isect cluster) := fun _ => rfl
theorem union (cluster : Nat) : Statement (.union cluster) := fun _ => rfl
theorem intersectUnknownCommand (cluster : Nat) : Statement (.intersectUnknownCommand cluster) := fun _ => rfl
theorem accumulatorPair (cluster : Nat) : Statement (.accumulatorPair cluster) := fun _ => rfl
theorem accumulatorPoison (cluster : Nat) : Statement (.accumulatorPoison cluster) := fun _ => rfl
theorem accumulatorFlush (cluster : Nat) : Statement (.accumulatorFlush cluster) := fun _ => rfl
theorem accumulatorStopPass (cluster : Nat) : Statement (.accumulatorStopPass cluster) := fun _ => rfl
theorem hostQueueEnable (queue : Nat) : Statement (.hostQueueEnable queue) := fun _ => rfl
theorem doorbell (queue : Nat) : Statement (.doorbell queue) := fun _ => rfl
theorem hostQueueFetch (queue : Nat) : Statement (.hostQueueFetch queue) := fun _ => rfl
theorem intr (msg : Nat) : Statement (.intr msg) := fun _ => rfl
theorem cxlMemRequest (req : OuterReq) : Statement (.cxlMemRequest req) := fun _ => rfl
theorem agfelPeerRequest (op : PeerOp) (req : OuterReq) : Statement (.agfelPeerRequest op req) := fun _ => rfl
theorem agfelRouteMaskWrite (package : Nat) (mask : BitVec 16) : Statement (.agfelRouteMaskWrite package mask) := fun _ => rfl
theorem flitReceive (port : Nat) (seqno : Nat) (req : Nat) (reply : Reply) : Statement (.flitReceive port seqno req reply) := fun _ => rfl
theorem flitReplay (port : Nat) : Statement (.flitReplay port) := fun _ => rfl
theorem linkDown (port : Nat) : Statement (.linkDown port) := fun _ => rfl
theorem linkRetrainComplete (port : Nat) : Statement (.linkRetrainComplete port) := fun _ => rfl
theorem linkTimeout (req : Nat) : Statement (.linkTimeout req) := fun _ => rfl
theorem payloadKill (ctx : Nat) (what : InFlight) : Statement (.payloadKill ctx what) := fun _ => rfl
theorem headerCorrupt (bay : Nat) : Statement (.headerCorrupt bay) := fun _ => rfl
theorem memoryUncorrectableError (addr : Nat) : Statement (.memoryUncorrectableError addr) := fun _ => rfl
theorem softCorrected (source : Nat) : Statement (.softCorrected source) := fun _ => rfl
theorem sensorRefresh (temps : List Nat) (power : Nat) : Statement (.sensorRefresh temps power) := fun _ => rfl
theorem droopEvent (sector : Nat) : Statement (.droopEvent sector) := fun _ => rfl
theorem packageReset (boot : BootInput) : Statement (.packageReset boot) := fun _ => rfl
theorem attgo : Statement (.attgo) := fun _ => rfl
theorem attestationComplete : Statement (.attestationComplete) := fun _ => rfl
theorem rcvgo : Statement (.rcvgo) := fun _ => rfl
theorem recoveryComplete (boot : BootInput) : Statement (.recoveryComplete boot) := fun _ => rfl
theorem prstGo (bay : Nat) : Statement (.prstGo bay) := fun _ => rfl
theorem partitionResetComplete (bay : Nat) : Statement (.partitionResetComplete bay) := fun _ => rfl
theorem registerWrite (addr : Nat) (size : Nat) (data : Option DWord) : Statement (.registerWrite addr size data) := fun _ => rfl
theorem seqIllegalOp (core : Nat) : Statement (.seqIllegalOp core) := fun _ => rfl
theorem fetchFault (core : Nat) : Statement (.fetchFault core) := fun _ => rfl
theorem writeCompletion (req : Nat) (performed : Bool) : Statement (.writeCompletion req performed) := fun _ => rfl
theorem consumedCopyUpdate (region elem : Nat) (side : Dir) (reply : Reply) : Statement (.consumedCopyUpdate region elem side reply) := fun _ => rfl
theorem backInvalidateResponse (line : Nat) : Statement (.backInvalidateResponse line) := fun _ => rfl

end Sys2Proof.Laws.Codec
end

