-- ==== Sys2Proof/Tests/Slice0.lean ====
section
/-!
SUPPORT. Tests/Slice0.lean: words that decode as the spec's encodings say, ill-formed terms that the checks refuse, and for every
statement small states that meet its hypotheses.
-/
namespace Sys2Proof.Tests
open Sys2Proof Sys2Proof.Machine
set_option Elab.async false
set_option maxRecDepth 4000

/-! ## Words written out from the encoding tables of the spec (R94 to R102, R104, R161 to R163), one for every instruction -/

theorem test_decode_element_integer :
    ([ (0x1408622B, .addI32 ⟨5, 1, 17, 2, true, false, true, true⟩), (0x1410622B, .subI32 ⟨5, 1, 17, 2, true, false, true, true⟩),
      (0x1418622B, .mulI32 ⟨5, 1, 17, 2, true, false, true, true⟩), (0x1420622B, .mulhI32 ⟨5, 1, 17, 2, true, false, true, true⟩),
      (0x1428622B, .and ⟨5, 1, 17, 2, true, false, true, true⟩), (0x1430622B, .or ⟨5, 1, 17, 2, true, false, true, true⟩),
      (0x1438622B, .xor ⟨5, 1, 17, 2, true, false, true, true⟩), (0x1440622B, .shl ⟨5, 1, 17, 2, true, false, true, true⟩),
      (0x1448622B, .shrU32 ⟨5, 1, 17, 2, true, false, true, true⟩), (0x1450622B, .shrI32 ⟨5, 1, 17, 2, true, false, true, true⟩),
      (0x1458622B, .minI32 ⟨5, 1, 17, 2, true, false, true, true⟩), (0x1460622B, .maxI32 ⟨5, 1, 17, 2, true, false, true, true⟩),
      (0x1480620B, .mov ⟨5, 1, 17, 0, true, false, true, true⟩), (0x1488622B, .sel ⟨5, 1, 17, 2, true, false, true, true⟩),
      (0x1490622B, .addsatI32 ⟨5, 1, 17, 2, true, false, true, true⟩), (0x1498622B, .subsatI32 ⟨5, 1, 17, 2, true, false, true, true⟩),
      (0x14A0620B, .absI32 ⟨5, 1, 17, 0, true, false, true, true⟩), (0x14A8620B, .clz ⟨5, 1, 17, 0, true, false, true, true⟩),
      (0x14B0620B, .popc ⟨5, 1, 17, 0, true, false, true, true⟩), (0x14B8622B, .cmpEq ⟨5, 1, 17, 2, true, false, true, true⟩),
      (0x14C0622B, .cmpLtI32 ⟨5, 1, 17, 2, true, false, true, true⟩), (0x14C8622B, .cmpLtU32 ⟨5, 1, 17, 2, true, false, true, true⟩) ] : List (Word × Instr)).all (fun p => decodeElem p.1 == .instr p.2 4) = true := by
  decide

theorem test_decode_element_float_1 :
    ([ (0x1500622B, .faddF32 ⟨5, 1, 17, 2, true, false, true, true⟩), (0x1508622B, .fsubF32 ⟨5, 1, 17, 2, true, false, true, true⟩),
      (0x1510622B, .fmulF32 ⟨5, 1, 17, 2, true, false, true, true⟩), (0x1518622B, .ffmaF32 ⟨5, 1, 17, 2, true, false, true, true⟩),
      (0x1520622B, .fminF32 ⟨5, 1, 17, 2, true, false, true, true⟩), (0x1528622B, .fmaxF32 ⟨5, 1, 17, 2, true, false, true, true⟩),
      (0x1530620B, .fabsF32 ⟨5, 1, 17, 0, true, false, true, true⟩), (0x1538620B, .fnegF32 ⟨5, 1, 17, 0, true, false, true, true⟩),
      (0x1540622B, .fcmpEqF32 ⟨5, 1, 17, 2, true, false, true, true⟩), (0x1548622B, .fcmpLtF32 ⟨5, 1, 17, 2, true, false, true, true⟩),
      (0x1550622B, .fcmpLeF32 ⟨5, 1, 17, 2, true, false, true, true⟩), (0x1558622B, .fdivF32 ⟨5, 1, 17, 2, true, false, true, true⟩),
      (0x1560620B, .fsqrtF32 ⟨5, 1, 17, 0, true, false, true, true⟩), (0x1580622B, .faddF16x2 ⟨5, 1, 17, 2, true, false, true, true⟩),
      (0x1588622B, .fmulF16x2 ⟨5, 1, 17, 2, true, false, true, true⟩), (0x1590622B, .ffmaF16x2 ⟨5, 1, 17, 2, true, false, true, true⟩),
      (0x1598622B, .faddBf16x2 ⟨5, 1, 17, 2, true, false, true, true⟩), (0x15A0622B, .fmulBf16x2 ⟨5, 1, 17, 2, true, false, true, true⟩),
      (0x15A8622B, .ffmaBf16x2 ⟨5, 1, 17, 2, true, false, true, true⟩), (0x15C0620B, .cvtF32I32 ⟨5, 1, 17, 0, true, false, true, true⟩),
      (0x15C8620B, .cvtI32F32 ⟨5, 1, 17, 0, true, false, true, true⟩), (0x15D0620B, .cvtF32F16 ⟨5, 1, 17, 0, true, false, true, true⟩),
      (0x15D8620B, .cvtF32Bf16 ⟨5, 1, 17, 0, true, false, true, true⟩), (0x15E0620B, .cvtF16F32 ⟨5, 1, 17, 0, true, false, true, true⟩) ] : List (Word × Instr)).all (fun p => decodeElem p.1 == .instr p.2 4) = true := by
  decide

theorem test_decode_element_float_2 :
    ([ (0x15E8620B, .cvtBf16F32 ⟨5, 1, 17, 0, true, false, true, true⟩), (0x15F0620B, .cvtE4m3F32 ⟨5, 1, 17, 0, true, false, true, true⟩),
      (0x15F8620B, .cvtE5m2F32 ⟨5, 1, 17, 0, true, false, true, true⟩) ] : List (Word × Instr)).all (fun p => decodeElem p.1 == .instr p.2 4) = true := by
  decide

theorem test_decode_element_vector :
    ([ (0x1600622B, .vaddI32 ⟨5, 1, 17, 2, true, false, true, true⟩), (0x1608622B, .vfaddF32 ⟨5, 1, 17, 2, true, false, true, true⟩),
      (0x1610622B, .vfmulF32 ⟨5, 1, 17, 2, true, false, true, true⟩), (0x1618622B, .vfmaF32 ⟨5, 1, 17, 2, true, false, true, true⟩),
      (0x1620622B, .vfmaF16 ⟨5, 1, 17, 2, true, false, true, true⟩), (0x1628622B, .vfmaBf16 ⟨5, 1, 17, 2, true, false, true, true⟩),
      (0x1630620B, .vbcast ⟨5, 1, 17, 0, true, false, true, true⟩), (0x1638625B, .vext ⟨5, 1, 17, 5, true, false, true, true⟩),
      (0x1640625B, .vins ⟨5, 1, 17, 5, true, false, true, true⟩), (0x1648620B, .vredsumF32 ⟨5, 1, 17, 0, true, false, true, true⟩),
      (0x1650620B, .vredsumF16 ⟨5, 1, 17, 0, true, false, true, true⟩), (0x1658620B, .vredmaxF32 ⟨5, 1, 17, 0, true, false, true, true⟩) ] : List (Word × Instr)).all (fun p => decodeElem p.1 == .instr p.2 4) = true := by
  decide

theorem test_decode_element_control :
    ([ (0x16802228, .pwr ⟨5, 0, 17, 2, true, false, false, false⟩), (0x16884002, .prd ⟨5, 1, 0, 0, false, false, true, false⟩),
      (0x1694232E, .steer ⟨5, 16, 17, 18, true, true, true, false⟩), (0x169C670E, .merge ⟨5, 17, 19, 16, true, true, true, false⟩),
      (0x16A4226B, .rep ⟨5, 16, 17, 6, true, false, true, true⟩), (0x16A8220A, .sweep ⟨5, 0, 17, 0, true, false, true, false⟩),
      (0x16B4222B, .stop ⟨5, 16, 17, 2, true, false, true, true⟩), (0x16BC222A, .tagSet ⟨5, 16, 17, 2, true, false, true, false⟩),
      (0x16C0620A, .tagGet ⟨5, 1, 17, 0, true, false, true, false⟩), (0x16CF7402, .send ⟨5, 29, 26, 0, false, false, true, false⟩),
      (0x16D00002, .fin ⟨5, 0, 0, 0, false, false, true, false⟩) ] : List (Word × Instr)).all (fun p => decodeElem p.1 == .instr p.2 4) = true := by
  decide

theorem test_decode_element_memory :
    ([ (0x1B029B83, .ldB32 ⟨6, 1, 2, 3, 1, 24, false, true, true⟩), (0x1B0A9B83, .ldU8 ⟨6, 1, 2, 3, 1, 24, false, true, true⟩),
      (0x1B129B83, .ldW256 ⟨6, 1, 2, 3, 1, 24, false, true, true⟩), (0x1B189D27, .stB32 ⟨6, 0, 2, 3, 2, 18, true, true, true⟩),
      (0x1B209D27, .stB8 ⟨6, 0, 2, 3, 2, 18, true, true, true⟩), (0x1B289D27, .stW256 ⟨6, 0, 2, 3, 2, 18, true, true, true⟩),
      (0x1B321983, .vld ⟨6, 1, 0, 3, 0, 24, false, true, true⟩), (0x1B381883, .vst ⟨6, 0, 0, 3, 0, 8, false, true, true⟩),
      (0x1B401983, .vrcl ⟨6, 0, 0, 3, 0, 24, false, true, true⟩), (0x1B488003, .fence ⟨6, 0, 2, 0, 0, 0, false, true, true⟩) ] : List (Word × Instr)).all (fun p => decodeElem p.1 == .instr p.2 4) = true := by
  decide

theorem test_decode_element_atomic :
    ([ (0x27839132, .amoAdd32 ⟨9, 1, 6, 2, 4, 3, true⟩), (0x278B9132, .amoAdd64 ⟨9, 1, 6, 2, 4, 3, true⟩),
      (0x27939132, .amoMinI32 ⟨9, 1, 6, 2, 4, 3, true⟩), (0x279B9132, .amoMaxI32 ⟨9, 1, 6, 2, 4, 3, true⟩),
      (0x27A39132, .amoAnd32 ⟨9, 1, 6, 2, 4, 3, true⟩), (0x27AB9132, .amoOr32 ⟨9, 1, 6, 2, 4, 3, true⟩),
      (0x27B39132, .amoXchg32 ⟨9, 1, 6, 2, 4, 3, true⟩), (0x27BB9132, .amoCas32 ⟨9, 1, 6, 2, 4, 3, true⟩),
      (0x27C39132, .amoCas64 ⟨9, 1, 6, 2, 4, 3, true⟩), (0x27CB9132, .amoFaddF32 ⟨9, 1, 6, 2, 4, 3, true⟩) ] : List (Word × Instr)).all (fun p => decodeElem p.1 == .instr p.2 4) = true := by
  decide

theorem test_decode_core_arithmetic :
    ([ (0x00E95800, 0x00000000, .addI64 7 9 11), (0x00E95801, 0x00000000, .subI64 7 9 11),
      (0x00E95802, 0x00000000, .mulI64 7 9 11), (0x00E95803, 0x00000000, .mulhI64 7 9 11),
      (0x00E95804, 0x00000000, .mulhU64 7 9 11), (0x00E95805, 0x00000000, .divI64 7 9 11),
      (0x00E95806, 0x00000000, .divU64 7 9 11), (0x00E95807, 0x00000000, .remI64 7 9 11),
      (0x00E95808, 0x00000000, .remU64 7 9 11), (0x00E95809, 0x00000000, .seqAnd 7 9 11),
      (0x00E9580A, 0x00000000, .seqOr 7 9 11), (0x00E9580B, 0x00000000, .seqXor 7 9 11),
      (0x00E9580C, 0x00000000, .seqShl 7 9 11), (0x00E9580D, 0x00000000, .shrU64 7 9 11),
      (0x00E9580E, 0x00000000, .shrI64 7 9 11), (0x00E9580F, 0x00000000, .sltI64 7 9 11),
      (0x00E95810, 0x00000000, .sltU64 7 9 11), (0x00E95811, 0x00000000, .minI64 7 9 11),
      (0x00E95812, 0x00000000, .maxI64 7 9 11), (0x00E95813, 0x00000000, .seqAddI32 7 9 11) ] : List (Word × Word × Instr)).all (fun p => decodeSeq p.1 p.2.1 == .instr p.2.2 4) = true := by
  decide

theorem test_decode_core_immediate :
    ([ (0x08E900BE, 0x00000000, .addi 7 9 190), (0x0CE900BE, 0x00000000, .andi 7 9 190),
      (0x10E900BE, 0x00000000, .ori 7 9 190), (0x14E900BE, 0x00000000, .xori 7 9 190),
      (0x18E900BE, 0x00000000, .sltiI64 7 9 190), (0x1CE900BE, 0x00000000, .sltiU64 7 9 190),
      (0x20E9003E, 0x00000000, .shli 7 9 62), (0x20E9007E, 0x00000000, .shriU64 7 9 62),
      (0x20E900BE, 0x00000000, .shriI64 7 9 62), (0x24E100BE, 0x00000000, .movz 7 1 190),
      (0x28E100BE, 0x00000000, .movk 7 1 190), (0x2CE900BE, 0x00000000, .jalr 7 9 190),
      (0x60000074, 0x00000000, .br 116), (0x64E00099, 0x00000000, .jal 7 153),
      (0x68E00099, 0x00000000, .bz 7 153), (0x6CE00099, 0x00000000, .bnz 7 153),
      (0x70E00099, 0x00000000, .bltz 7 153), (0x74E00099, 0x00000000, .bgez 7 153) ] : List (Word × Word × Instr)).all (fun p => decodeSeq p.1 p.2.1 == .instr p.2.2 4) = true := by
  decide

theorem test_decode_core_memory_1 :
    ([ (0x40E90BE0, 0x00000000, .seqLdU8 7 9 190), (0x40E90BE2, 0x00000000, .ldI8 7 9 190),
      (0x40E90BE4, 0x00000000, .ldU16 7 9 190), (0x40E90BE6, 0x00000000, .ldI16 7 9 190),
      (0x40E90BE8, 0x00000000, .ldU32 7 9 190), (0x40E90BEA, 0x00000000, .ldI32 7 9 190),
      (0x40E90BEC, 0x00000000, .ldB64 7 9 190), (0x44E90BE0, 0x00000000, .seqStB8 7 9 190),
      (0x44E90BE4, 0x00000000, .stB16 7 9 190), (0x44E90BE8, 0x00000000, .seqStB32 7 9 190),
      (0x44E90BEC, 0x00000000, .stB64 7 9 190), (0x48E95DC0, 0x00000000, .seqAmoAdd32 7 9 11 5 3),
      (0x48E95DC1, 0x00000000, .seqAmoAdd64 7 9 11 5 3), (0x48E95DC2, 0x00000000, .amoAnd64 7 9 11 5 3),
      (0x48E95DC3, 0x00000000, .amoOr64 7 9 11 5 3), (0x48E95DC4, 0x00000000, .amoXchg64 7 9 11 5 3),
      (0x48E95DC5, 0x00000000, .amoMinI64 7 9 11 5 3), (0x48E95DC6, 0x00000000, .amoMaxI64 7 9 11 5 3),
      (0x48E95DC7, 0x00000000, .seqAmoCas32 7 9 11 5 3), (0x48E95DC8, 0x00000000, .seqAmoCas64 7 9 11 5 3),
      (0x48E90350, 0x00000000, .seqLdB32Acq 7 9 3), (0x48E90351, 0x00000000, .ldB64Acq 7 9 3),
      (0x48074B92, 0x00000000, .seqStB32Rel 7 9 3), (0x48074B93, 0x00000000, .stB64Rel 7 9 3) ] : List (Word × Word × Instr)).all (fun p => decodeSeq p.1 p.2.1 == .instr p.2.2 4) = true := by
  decide

theorem test_decode_core_memory_2 :
    ([ (0x4CE95800, 0x00000000, .seqVld 7 9 11), (0x4C074801, 0x00000000, .seqVst 7 9),
      (0x4C074802, 0x00000000, .seqVrcl 7 9), (0x50000700, 0x00000000, .seqFence 7) ] : List (Word × Word × Instr)).all (fun p => decodeSeq p.1 p.2.1 == .instr p.2.2 4) = true := by
  decide

theorem test_decode_core_sync :
    ([ (0x8007203E, 0x00000000, .semaSig 7 1 62), (0x80E96400, 0x00000000, .semaSigR 7 9 3),
      (0x80E96823, 0x00000000, .semaAcq 7 9 3 35), (0x80E96C23, 0x00000000, .semaTry 7 9 3 35),
      (0x80071019, 0x00000000, .semaSet 7 25), (0x80E01419, 0x00000000, .semaRd 7 25),
      (0x84074B00, 0x00000000, .tbarInit 7 9 3), (0x84E95D01, 0x00000000, .tbarArr 7 9 11 5),
      (0x84074B02, 0x00000000, .tbarDecl 7 9 3), (0x84E95D03, 0x00000000, .tbarWait 7 9 11 5),
      (0x84E95D04, 0x00000000, .tbarTest 7 9 11 5), (0x84070105, 0x00000000, .tbarFini 7 1) ] : List (Word × Word × Instr)).all (fun p => decodeSeq p.1 p.2.1 == .instr p.2.2 4) = true := by
  decide

theorem test_decode_core_queue :
    ([ (0x88E90000, 0x00000000, .brngGet 7 9), (0x88070001, 0x00000000, .brngRel 7),
      (0x88074802, 0x00000000, .mringPut 7 9), (0x88E00003, 0x00000000, .mringGet 7),
      (0x88E90004, 0x00000000, .mringLd 7 9), (0x88000005, 0x00000000, .mringRel),
      (0x8CE9581F, 0x00000000, .bqPush 7 9 11 1 15), (0x8DC0483D, 0x00000000, .bqPop 7 9 1 13),
      (0x8DC0485D, 0x00000000, .bqPopW 7 9 1 13), (0x8CE0007B, 0x00000000, .bqCnt 7 1 11) ] : List (Word × Word × Instr)).all (fun p => decodeSeq p.1 p.2.1 == .instr p.2.2 4) = true := by
  decide

theorem test_decode_core_system :
    ([ (0x90E00099, 0x00000000, .csrr 7 153), (0x90071099, 0x00000000, .csrw 7 153),
      (0x90072099, 0x00000000, .csrs 7 153), (0x90073099, 0x00000000, .csrc 7 153),
      (0x90004000, 0x00000000, .wait), (0x90005000, 0x00000000, .halt),
      (0x90007074, 0x00000000, .trap 116), (0x90008000, 0x00000000, .eret),
      (0x90009000, 0x00000000, .sbar), (0x94E95800, 0x00000000, .rplBeg 7 9 11),
      (0x94E95801, 0x00000000, .rplStep 7 9 11), (0x94E95802, 0x00000000, .rplEnd 7 9 11),
      (0x94E95803, 0x00000000, .rplDrop 7 9 11) ] : List (Word × Word × Instr)).all (fun p => decodeSeq p.1 p.2.1 == .instr p.2.2 4) = true := by
  decide

theorem test_decode_core_management :
    ([ (0x98E90000, 0x00000000, .ctxTen 7 9), (0x98E90001, 0x00000000, .ctxRoot 7 9),
      (0x98E90002, 0x00000000, .ctxKill 7 9), (0x98E00003, 0x00000000, .mstFrz 7),
      (0x98E00004, 0x00000000, .mstThaw 7), (0x98E90005, 0x00000000, .thrSet 7 9),
      (0x98E90006, 0x00000000, .snsrRd 7 9), (0x98E00007, 0x00000000, .evlPut 7),
      (0x98E90008, 0x00000000, .tlbInv 7 9), (0x98E95809, 0x00000000, .seqRun 7 9 11),
      (0x98E0000A, 0x00000000, .seqStop 7), (0x98E0000B, 0x00000000, .seqResume 7) ] : List (Word × Word × Instr)).all (fun p => decodeSeq p.1 p.2.1 == .instr p.2.2 4) = true := by
  decide

theorem test_decode_core_command :
    ([ (0xC0690000, 0x0000000B, .strmLd 3 9 11), (0xC08A0040, 0x0000000F, .strmSt 4 10 15),
      (0xC0241880, 0x00000000, .strmCp 1 4 3), (0xC0A600C0, 0x00000000, .memHrv 5 6),
      (0xC5070000, 0x00000000, .lnch 8 7), (0xC5490040, 0x00000000, .lnchInd 10 9),
      (0xC8221800, 0x00000000, .cfgLd 1 2 3), (0xC8853040, 0x00000000, .cfgSwp 4 5 6),
      (0xC8E04080, 0x00000000, .cfgUnl 7 8), (0xC92A58C0, 0x00000000, .cfgSv 9 10 11),
      (0xC98D7100, 0x00000000, .cfgRst 12 13 14) ] : List (Word × Word × Instr)).all (fun p => decodeSeq p.1 p.2.1 == .instr p.2.2 8) = true := by
  decide

/-- A row of the opcode table as the host asks for it: an element word first, else a sequencer word, else one of two words. -/
theorem test_decode_table_words :
    decodeTableWord 32 0x1518E198 = some (.ffmaF32 ⟨5, 3, 16, 25, true, false, false, false⟩) ∧
    decodeTableWord 32 0x90005000 = some .halt ∧ decodeTableWord 64 0x00000000C0241880 = some (.strmCp 1 4 3) ∧
    decodeTableWord 32 0xFC000000 = none := by
  decide

/-! ## Terms that no encoding holds: one for each check of WellFormed.lean. Their words are refused. -/

/-- Ill-formed terms, by the check that refuses them: flags on sources that are no channels (R88), a fused destination that is no
register, modifier bits outside the mask (R98), vector selectors (R96), lanes, and the limits of class C (R129). -/
def illElem : List Instr :=
  [ .addI32 ⟨0, 0, 3, 0, true, false, false, false⟩, .subI32 ⟨0, 0, 0, 9, false, true, false, false⟩,
    .ffmaF32 ⟨0, 16, 0, 0, false, false, false, false⟩, .mov ⟨0, 0, 0, 1, false, false, false, false⟩,
    .cvtF16F32 ⟨0, 0, 0, 16, false, false, false, false⟩, .clz ⟨0, 0, 16, 0, true, true, false, false⟩,
    .vaddI32 ⟨0, 8, 0, 0, false, false, false, false⟩, .vfmulF32 ⟨0, 0, 20, 0, false, false, false, false⟩,
    .vfmaF32 ⟨0, 16, 0, 0, false, false, false, false⟩, .vbcast ⟨0, 0, 0, 2, false, false, false, false⟩,
    .vext ⟨0, 0, 0, 8, false, false, false, false⟩, .vins ⟨0, 9, 0, 0, false, false, false, false⟩,
    .vredsumF32 ⟨0, 0, 22, 0, false, false, false, false⟩, .pwr ⟨0, 1, 0, 0, false, false, false, false⟩,
    .prd ⟨0, 24, 0, 0, false, false, false, false⟩, .steer ⟨0, 17, 0, 16, false, true, false, false⟩,
    .merge ⟨0, 16, 0, 17, false, true, false, false⟩, .rep ⟨0, 16, 0, 16, false, false, false, false⟩,
    .sweep ⟨0, 0, 3, 0, false, false, false, false⟩, .stop ⟨0, 20, 0, 0, false, false, false, false⟩,
    .tagSet ⟨0, 16, 0, 0, false, false, false, true⟩, .tagGet ⟨0, 0, 2, 0, false, false, false, false⟩,
    .send ⟨0, 28, 0, 0, false, false, false, false⟩, .fin ⟨0, 0, 0, 0, false, false, false, true⟩,
    .ldB32 ⟨0, 0, 0, 0, 2, 0, false, false, false⟩, .stB32 ⟨0, 1, 0, 0, 0, 0, false, false, false⟩,
    .stW256 ⟨0, 0, 0, 0, 0, 9, false, false, false⟩, .vld ⟨0, 0, 1, 0, 0, 0, false, false, false⟩,
    .vst ⟨0, 0, 0, 0, 0, 3, false, false, false⟩, .vrcl ⟨0, 0, 0, 0, 1, 0, false, false, false⟩,
    .fence ⟨0, 0, 0, 1, 0, 0, false, false, false⟩, .amoCas64 ⟨0, 0, 0, 0, 7, 0, false⟩ ]

theorem test_ill_formed_elements :
    illElem.all (fun i => !wellFormed i && (encode i).all (fun w => decodeElem w == .rejected .reservedField)) = true := by
  decide

/-- BQ: without the quadrant bit the quadrant is zero (R218). -/
theorem test_ill_formed_bushel :
    wellFormed (.bqPush 1 2 3 0 5) = false ∧ (encode (.bqPush 1 2 3 0 5)).all (fun w => decodeSeq w 0 == .rejected .reservedField) = true := by
  decide

/-- Reserved fields and unallocated codes: nil, an unallocated OPC, MAJ and FN, a nonzero reserved bit of an X form, of halt and of sema.rd. -/
theorem test_reserved_words :
    decodeElem 0 = .rejected .unallocated ∧ decodeElem 0x00680000 = .rejected .unallocated ∧
    decodeSeq 0x04000000 0 = .rejected .unallocated ∧ decodeSeq 0x00000014 0 = .rejected .unallocated ∧
    decodeSeq 0xC0241881 0 = .rejected .reservedField ∧ decodeSeq 0xC0241880 1 = .rejected .reservedField ∧
    decodeSeq 0x90005001 0 = .rejected .reservedField ∧ decodeSeq 0x80203400 0 = .rejected .reservedField := by
  decide

/-! ## Helpers -/

def nextSt : Host.Outcome State Fault Refusal → State
  | .next s => s
  | _ => State.reset
def isNext : Host.Outcome State Fault Refusal → Bool
  | .next _ => true
  | _ => false
def regGet (o : Option Region) : Region := o.getD (placeRegion 0 0)
theorem nextOk {o : Host.Outcome State Fault Refusal} (h : isNext o = true) : o = .next (nextSt o) := by
  cases o with
  | next s => rfl
  | _ => simp [isNext] at h
def okIs {α : Type} [DecidableEq α] (x : Except Stop α) (v : α) : Bool :=
  match x with
  | .ok w => decide (w = v)
  | .error _ => false
def errIs {α : Type} (x : Except Stop α) (c : Byte) (a : DWord) : Bool :=
  match x with
  | .error (.raise d b) => decide (d = c) && decide (b = a)
  | _ => false
theorem pairOk {α : Type} [DecidableEq α] {x : Except Stop α × State} {v : α} {s : State} (h : okIs x.1 v = true) (hs : x.2 = s) :
    x = (.ok v, s) := by
  obtain ⟨y, t⟩ := x
  cases y with
  | ok w => simp only [okIs, decide_eq_true_eq] at h; subst h; subst hs; rfl
  | error e => simp [okIs] at h
theorem pairErr {α : Type} {x : Except Stop α × State} {c : Byte} {a : DWord} {s : State} (h : errIs x.1 c a = true) (hs : x.2 = s) :
    x = (.error (.raise c a), s) := by
  obtain ⟨y, t⟩ := x
  cases y with
  | ok w => simp [errIs] at h
  | error e =>
    cases e with
    | raise d b => simp only [errIs, Bool.and_eq_true, decide_eq_true_eq] at h; obtain ⟨rfl, rfl⟩ := h; subst hs; rfl
    | _ => simp [errIs] at h

/-! ## Small states -/

/-- A table for every context of the tests: page 0 maps the first 64 GiB onto themselves, page 1 the first of package 1, page 2 the same
memory as page 0 with VER, page 3 without permissions, page 15 the device registers. Nothing else is mapped. -/
def baseMem : List Host.Cell :=
  [(16777216, 1), (16777217, 8), (16777219, 1), (16779264, 1), (16779265, 16), (16779267, 1), (16781312, 243), (16781313, 5), (16781320, 243),
   (16781321, 5), (16781325, 1), (16781328, 243), (16781329, 7), (16781336, 51), (16781337, 4), (16781432, 243), (16781433, 5), (16781436, 240),
   (16781438, 32)]

/-- A running part: cycle 10, contexts 1 and 2 in the same tree as ctx 0, package 0. -/
def base : State :=
  { State.reset with
    cyc := 10
    bootst := 1
    mem := baseMem
    ctxs := [(0, { root := some placeRoot }), (1, { tenant := 1, root := some placeRoot }), (2, { tenant := 2, root := some placeRoot })] }

/-! ### One element -/

def tok (v tag : Nat) : InEntry := .tok ⟨⟨BitVec.ofNat 256 v, BitVec.ofNat 8 tag⟩, 0, 0⟩

/-- Registers that differ; in0 a datum of level 2, in1 a stop of level 1, in2 a poison of level 3, in3 a datum; trigger 0 asks p0 = 0. -/
def elT : Elem :=
  { placeElem 0 0 with
    x := #v[1, 2, 3, 0x80000000, 0xFFFFFFFF, 0x3F800000, 0x40000000, 7, 0x2000, 0, 0x2000, 0, 5, 0, 0x1000, 0]
    w := #v[1, 2, 3, 4, 5, 6, 7, 8]
    consts := #v[9, 0, 1, 0xFF, 0x3C00, 6, 7, 8]
    trigs := (Vector.replicate 64 0).set 0 0x01000000
    mode := 0x00080000
    p := 0x80
    inc := #v[⟨[tok 7 2], []⟩, ⟨[tok 1 0x41], []⟩, ⟨[tok 9 0xC3], []⟩, ⟨[tok 0 0], []⟩] }

def regionOf (el : Elem) : Region := { placeRegion 0 0 with ctx := 1, elems := [(0, el)] }
def stateOf (r : Region) : State := { base with act := .elem r.id 0 0, regions := [r] }

def rE : Region := regionOf elT
def sE : State := stateOf rE

/-! ### One sequencer -/

/-- Registers: numbers, then addresses of this package, of package 1, of a device register, of the page with VER, of no page, odd. -/
def coreT : CoreSt :=
  { run := .running
    ctx := 1
    pc := 0x1000
    g := #v[0, 5, 3, 0x2000, 0x1000000040, 0xF000000008, 0x2000002000, 0x4000000000, 0xFFFFFFFFFFFFFFFF, 0x2001, 0x3000, 0x3040, 0, 0x8000000000000000,
      0x5000, 0x30, 1, 0x6000, 2, 0x7000, 0, 0, 0, 0, 0, 0, 0, 0, 0, 0, 0, 0] }

/-- A store of doublewords in the memory of a state. -/
def poke (s : State) (l : List (Nat × Nat)) : State := { s with mem := l.foldl (fun m p => Mem.writeList m p.1 (leBytes p.2 8)) s.mem }

/-- The same memory with 0x8877665544332281 at 0x2000. -/
def coreMem : List Host.Cell :=
  [(8192, 129), (8193, 34), (8194, 51), (8195, 68), (8196, 85), (8197, 102), (8198, 119), (8199, 136), (16777216, 1), (16777217, 8), (16777219, 1),
   (16779264, 1), (16779265, 16), (16779267, 1), (16781312, 243), (16781313, 5), (16781320, 243), (16781321, 5), (16781325, 1), (16781328, 243),
   (16781329, 7), (16781336, 51), (16781337, 4), (16781432, 243), (16781433, 5), (16781436, 240), (16781438, 32)]
/-- Core 5 of ctx 1, whose turn it is; port 0 reaches package 1. -/
def coreState (x : CoreSt) : State :=
  { base with
    mem := coreMem
    act := .core 5
    cores := [(5, x), (256, CoreSt.sceipReset)]
    masks := [(1, 1)]
    aports := [(0, { up := true })] }

def sC : State := coreState coreT
/-- The Sceip core in its turn with the same registers. -/
def sM : State := { coreState coreT with act := .core 256, cores := [(5, coreT), (256, { coreT with ctx := 0 })] }

/-- The state after the checks of an access of core c. -/
def accS (s : State) (c : Nat) (need : Need) (va : DWord) (n : Nat) : State := ((checkM (whoCore s c) need va n).exec s).2
def normal (pa : Nat) : Xlat := ⟨pa, 0, false⟩
def version (pa : Nat) : Xlat := ⟨pa, 0, true⟩
def device (pa : Nat) : Xlat := ⟨pa, 2, false⟩
/-- The doubleword at 0x2000 is poison. -/
def sPz : State := { sC with poison := [0x400] }

/-- A descriptor of n doublewords from a base, with a semaphore (sector 5, 3) and a barrier. -/
def descWords (at_ base n : Nat) : List (Nat × Nat) :=
  [(at_, base), (at_ + 8, n + 2 ^ 32), (at_ + 16, 1 + 2 ^ 32), (at_ + 48, 3 + 2 ^ 20 + (5 * 64 + 3) * 2 ^ 21 + 2 ^ 35)]
/-- Two descriptors at 0x3000 and 0x3040, a token barrier at 0x5000, a ring at 0x6000 with its header at 0x10000, words at 0x7000. -/
def sDMem : List Host.Cell :=
  [(8192, 129), (8193, 34), (8194, 51), (8195, 68), (8196, 85), (8197, 102), (8198, 119), (8199, 136), (12289, 32), (12296, 2), (12300, 1),
   (12304, 1), (12308, 1), (12336, 3), (12338, 112), (12339, 40), (12340, 8), (12353, 128), (12360, 2), (12364, 1), (12368, 1), (12372, 1),
   (12400, 3), (12402, 112), (12403, 40), (12404, 8), (20480, 4), (20484, 2), (20486, 1), (20506, 67), (20507, 65), (20508, 1), (24578, 1),
   (24584, 12), (24592, 16), (28672, 17), (28673, 17), (28728, 34), (28729, 34), (65536, 8), (65540, 1), (16777216, 1), (16777217, 8),
   (16777219, 1), (16779264, 1), (16779265, 16), (16779267, 1), (16781312, 243), (16781313, 5), (16781320, 243), (16781321, 5), (16781325, 1),
   (16781328, 243), (16781329, 7), (16781336, 51), (16781337, 4), (16781432, 243), (16781433, 5), (16781436, 240), (16781438, 32)]
/-- Two descriptors, a barrier object of two arrivals of which one is in, and a byte ring with one record. -/
def sD : State := { sC with mem := sDMem, barriers := [0x5000] }
/-- The same with core state x. -/
def sDx (f : CoreSt → CoreSt) : State := sD.updCore 5 f
def streamsFull : State := { sC with streams := List.replicate 16 (newStream sC 5 coreT .ld default default 0 0 0 0) }
def okOr {α : Type} (x : Except Stop α) (d : α) : α :=
  match x with
  | .ok v => v
  | .error _ => d
def stateOfM {α : Type} (m : Mach α) (s : State) : State := (m.exec s).2
/-- The Sceip core in its turn, with numbers in its registers. -/
def sMx (l : List (Nat × DWord)) (s : State := sM) : State :=
  s.updCore 256 (fun x => { x with g := l.foldl (fun g p => g.setIfInBounds p.1 p.2) x.g })

/-- A region of core 5: its first quad is 80. -/
def at80 (r : Region) : Region := { r with id := 80 }
def wordOf (i : Instr) : Word := (encode i).headD 0
def withCore (f : CoreSt → CoreSt) (s : State) : State := s.updCore 5 f

/-- The table for page 0 alone, and the header of an image of one quad at 0x20000. -/
def sImgMem : List Host.Cell :=
  [(131072, 1), (131076, 1), (131080, 64), (131088, 64), (131089, 4), (16777216, 1), (16777217, 8), (16777219, 1), (16779264, 1), (16779265, 16),
   (16779267, 1), (16781312, 243), (16781313, 5)]
/-- An empty image of one quad at 0x20000, and one whose header is wrong at 0x30000. -/
def sImg : State := { sC with mem := sImgMem }
def op (kind : CfgKind) (st : CfgSt) (addr word : DWord) (im : Option Image := none) : CfgOp := ⟨30, kind, 5, 31, 1, addr, word, 0, st, im, false⟩
def withOp (o : CfgOp) (s : State) : State := { s with cfgops := [o] }
def emptyImage : Image := ⟨1, Vector.replicate 128 0, [(0, {}), (1, {}), (2, {}), (3, {})]⟩
def rep : Reply := ⟨0, false, 0, false, false, 0, false, 0⟩
theorem regionFound {s : State} {r : Region} {id : Nat} (h : s.regions = [r]) (hi : r.id = id) : s.region? id = some r := by
  simp [State.region?, h, hi]
theorem oneOf {o : Option Region} {s : State} {r : Region} (hm : ∀ x, o = some x → x ∈ s.regions) (h : s.regions = [r])
    (ho : o.isSome = true) : o = some r := by
  obtain ⟨x, hx⟩ := Option.isSome_iff_exists.mp ho
  have := hm x hx
  rw [h, List.mem_singleton] at this
  rw [hx, this]
theorem pairOf {β : Type} {o : Option (Region × β)} {s : State} {r : Region} {t : β} (hm : ∀ x, o = some x → x.1 ∈ s.regions)
    (h : s.regions = [r]) (ho : o.map Prod.snd = some t) : o = some (r, t) := by
  cases o with
  | none => simp at ho
  | some x =>
    have := hm x rfl
    rw [h, List.mem_singleton] at this
    simp only [Option.map_some, Option.some.injEq] at ho
    rw [← this, ← ho]
theorem region_mem {s : State} {k : Nat} (x : Region) (h : s.region? k = some x) : x ∈ s.regions := List.mem_of_find?_eq_some h
theorem binder_mem {s : State} {k i : Nat} (x : Region) (h : s.binder k i = some x) : x ∈ s.regions := List.mem_of_find?_eq_some h
theorem islandRegion_mem {s : State} {k i : Nat} (x : Region) (h : s.islandRegion k i = some x) : x ∈ s.regions := by
  simp only [State.islandRegion] at h
  split at h
  · rename_i r hr
    split at h
    · simp at h
    · cases h; exact binder_mem _ hr
  · simp at h
theorem matrixAt_mem {s : State} {k i : Nat} (x : Region) (h : s.matrixAt k i = some x) : x ∈ s.regions := by
  simp only [State.matrixAt] at h
  split at h
  · simp at h
  · rename_i r hr
    split at h
    · cases h; exact region_mem _ hr
    · simp at h
theorem regionNamed_mem {s : State} {w : DWord} {c k : Nat} (x : Region) (h : s.regionNamed w c k = some x) : x ∈ s.regions := by
  simp only [State.regionNamed] at h
  split at h
  · rename_i r hr
    split at h
    · cases h; exact region_mem _ hr
    · simp at h
  · simp at h
theorem rasterHead_mem {s : State} {b : Nat} (x : Region × Token) (h : s.rasterHead b = some x) : x.1 ∈ s.regions := by
  simp only [State.rasterHead] at h
  split at h
  · rename_i r t hr ht
    split at h
    · cases h; exact islandRegion_mem _ hr
    · simp at h
  · simp at h
theorem rasterCmd_mem {s : State} {b : Nat} {p : Nat → Bool} (x : Region × Token) (h : s.rasterCmd b p = some x) : x.1 ∈ s.regions := by
  simp only [State.rasterCmd] at h
  split at h
  · rename_i r t hr
    split at h
    · cases h; exact rasterHead_mem _ hr
    · simp at h
  · simp at h
theorem traversalCmd_mem {s : State} {b : Nat} (x : Region × Token) (h : s.traversalCmd b = some x) : x.1 ∈ s.regions := by
  simp only [State.traversalCmd] at h
  split at h
  · rename_i r t hr ht
    split at h
    · cases h; exact islandRegion_mem _ hr
    · simp at h
  · simp at h
theorem at_mem {s : State} {k : Nat} (x : Region × Nat) (h : s.at? k = some x) : x.1 ∈ s.regions := by
  simp only [State.at?, Option.map_eq_some_iff] at h
  obtain ⟨r, hr, rfl⟩ := h
  exact List.mem_of_find?_eq_some hr
theorem isectHead_mem {s : State} {b l : Nat} (x : Region × Token) (h : s.isectHead b l = some x) : x.1 ∈ s.regions := by
  simp only [State.isectHead] at h
  split at h
  · rename_i r t hr ht
    split at h
    · cases h; exact islandRegion_mem _ hr
    · simp at h
  · simp at h
theorem mergeHead_mem {s : State} {b : Nat} (x : Region × Token) (h : s.mergeHead b = some x) : x.1 ∈ s.regions := by
  simp only [State.mergeHead] at h
  split at h
  · simp at h
  · exact isectHead_mem _ h
theorem accHead_mem {s : State} {b : Nat} (x : Region × Token) (h : s.accHead b = some x) : x.1 ∈ s.regions := by
  simp only [State.accHead] at h
  split at h
  · simp at h
  · exact isectHead_mem _ h
theorem pairOkM {α : Type} [DecidableEq α] {m : Mach α} {v : α} {s : State} (h : okIs (m.exec s).1 v = true) :
    m.exec s = (.ok v, stateOfM m s) := pairOk h rfl
theorem pairErrM {α : Type} {m : Mach α} {c : Byte} {a : DWord} {s : State} (h : errIs (m.exec s).1 c a = true) :
    m.exec s = (.error (.raise c a), stateOfM m s) := pairErr h rfl
def isOk {α : Type} (x : Except Stop α) : Bool :=
  match x with
  | .ok _ => true
  | .error _ => false
def isWait {α : Type} (x : Except Stop α) : Bool :=
  match x with
  | .error .wait => true
  | _ => false
def errOf {ε α : Type} (x : Except ε α) : Option ε :=
  match x with
  | .error e => some e
  | .ok _ => none
theorem pairGet {α : Type} {m : Mach α} {s : State} (d : α) (h : isOk (m.exec s).1 = true) :
    m.exec s = (.ok (okOr (m.exec s).1 d), stateOfM m s) := by
  unfold stateOfM
  generalize m.exec s = x at h ⊢
  obtain ⟨y, t⟩ := x
  cases y with
  | ok w => rfl
  | error e => simp [isOk] at h
theorem pairWait {α : Type} {m : Mach α} {s : State} (h : isWait (m.exec s).1 = true) : m.exec s = (.error .wait, stateOfM m s) := by
  unfold stateOfM
  generalize m.exec s = x at h ⊢
  obtain ⟨y, t⟩ := x
  cases y with
  | ok w => simp [isWait] at h
  | error e => cases e <;> simp_all [isWait]
theorem errIn {ε α : Type} {x : Except ε α} {e : ε} (h : errOf x = some e) : x = .error e := by
  cases x <;> simp_all [errOf]
def fXX : ElemRec := ⟨0, 0, 1, 2, false, false, true, false⟩
def fCh : ElemRec := ⟨0, 16, 16, 19, true, true, true, true⟩
def fSt : ElemRec := ⟨0, 17, 17, 0, true, false, false, true⟩
def fPo : ElemRec := ⟨0, 17, 18, 0, true, false, false, true⟩
def src (el : Elem) (r : Reg) : Src := (el.scalarSrc 10 r).getD ⟨0, 0, none⟩
def vsrc (el : Elem) (r : Reg) : Src := (el.vectorSrc 10 r).getD ⟨0, 0, none⟩
def fV : ElemRec := ⟨0, 1, 2, 3, false, false, true, false⟩
def fVc : ElemRec := ⟨0, 19, 16, 25, true, false, true, true⟩
def fVs : ElemRec := ⟨0, 28, 16, 7, true, false, true, true⟩
def rNo : Region := regionOf { elT with trigs := (Vector.replicate 64 0).set 0 0x01010000 }
def sNo : State := stateOf rNo
def rFull : Region := regionOf { elT with outc := #v[⟨[⟨⟨1, 0⟩, 0, 0⟩, ⟨⟨2, 0⟩, 0, 0⟩], []⟩, ⟨[], []⟩, ⟨[], []⟩, ⟨[], []⟩] }
def sFull : State := stateOf rFull
def rSend (w : DWord) : Region := { regionOf { elT with sb := #v[1, 2, 3, 4], sbtag := 0x45 } with rtab := (Vector.replicate 128 0).set 7 w, cred := [(7, 2)] }
def unicast : DWord := 0x2000000000000000 + 0x400000000000 + 0x20000000000
def sSend (w : DWord) : State := stateOf (rSend w)
def fSend (d a : Reg) : ElemRec := ⟨0, d, a, 0, true, false, true, false⟩
def tk (v tag : Nat) : Token := ⟨BitVec.ofNat 256 v, BitVec.ofNat 8 tag⟩
def rMerge : Region := regionOf { elT with inc := #v[⟨[tok 7 0x41], []⟩, ⟨[tok 1 0x41], []⟩, ⟨[tok 9 0x41], []⟩, ⟨[tok 0 0], []⟩] }
def sMerge : State := stateOf rMerge
def fRep (a b : Reg) (tp : Bool) : ElemRec := ⟨0, 17, a, b, true, false, true, tp⟩
def fLd (b : Reg) (ord : BitVec 2) : MemRec := ⟨0, 0, 7, 4, ord, b, true, true, true⟩
def rLd : Region := regionOf { elT with inc := #v[⟨[], []⟩, ⟨[], []⟩, ⟨[tok 9 0xC3], []⟩, ⟨[tok 8 5], []⟩] }
def sLd : State := stateOf rLd
def accR : AccReq := { kind := .load, va := 0x2000, size := 4, rsp := 0 }
def fAt : AtomRec := ⟨0, 0, 7, 4, 5, 0, true⟩
def rSta : Region := regionOf { elT with mode := 0x80000000, static := 0 }
def elSta : Elem := { elT with mode := 0x80000000, static := BitVec.ofNat 32 (1 * 2^25 + 1 * 2^22 + 5 * 2^19 + 1 * 2^16 + 2 * 2^13 + 3 * 2^10) }
def rStat : Region := regionOf elSta
def sStat : State := stateOf rStat
def cSta : FireCtx := mkCtx sStat rStat 0 0 []
def sv (v tag : Nat) : Src := ⟨BitVec.ofNat 256 v, BitVec.ofNat 8 tag, none⟩
def sRr : State := { sC with remoteReads := [⟨.core 6, 1, 2, 8, none⟩], vldWaits := [⟨3, 4, .step 5⟩] }
def sDef : State := { sC with defer := true }
def sV (l : AMap VTag) : State := { sC with versions := l }
def tagsV : AMap VTag := [(0x400, ⟨3, [(0x22, false), (0x33, true)]⟩)]
def tags4 : AMap VTag := [(0x400, ⟨5, [(1, false), (2, false), (3, false)]⟩)]
def sBlk : State := withCore (fun x => { x with waitFrom := some 7 }) { sC with versions := tags4 }
def sBlkOld : State := { sBlk with cyc := 2 ^ 20 + 8 }
def sWk : State := { sE with mem := coreMem }
def wE : Who := ⟨1, 0, .element, 0, some 0, .region 0⟩
def wC : Who := whoCore sWk 5
def leafQ : DWord := 0x1000000004CF
def tlbQ : TlbEntry := ⟨0, tileOf 1 0x40000000, 1, 0x40000000, 0x40000, 0x100000000004CF⟩
def sTq : State := { sWk with tlb := [tlbQ] }
def sTq2 (c : Nat) : State := { sTq with regions := [rE, { rE with id := 1, ctx := c }] }
def sWkB : State := { sWk with barriers := [0x2000] }
def rE1 (c : Nat) : Region := { rE with id := 1, ctx := c }
def sTqr : State := { sWk with tlb := [{ tlbQ with leaf := 0x1000000000048F }] }
def tlbR : TlbEntry := { tlbQ with leaf := 0x1000000000048F }
def sPt (l : List (Nat × Nat)) : State := poke sWk l
def sWkP : State := { sWk with poison := [0x602] }
def sPtP : State := { sPt [(0x3010, 7)] with poison := [0x600] }
def sVw : State := { sV tagsV with vldWaits := [⟨0x400, 9, .core 5 4⟩] }
def launchesFull : State := { sC with launches := List.replicate 8 { id := 1, core := 5, ctx := 1, pc := 0, pend := 2, lpb := 0, ind := false } }
def sSem : State := { sD with cores := [(5, { coreT with sema := (Vector.replicate 64 {}).set 3 ⟨4, true⟩ }), (256, {})] }
def sMine : State := sDx (fun x => { x with g := x.g.set 7 (5 * 64 + 63) })
def sOther : State := sDx (fun x => { x with g := x.g.set 7 (6 * 64 + 63) })
def tbS (need : Need) : State := stateOfM (tbarObj (whoCore sD 5) need 0x5000) sD
def sDd : State := sDx (fun x => { x with g := x.g.set 12 0xF000000000 })
def sDt : State := { sDx (fun x => { x with g := x.g.set 12 0x40000000 }) with tlb := [⟨0, tileOf 1 0x40000000, 1, 0x40000000, 0x40000, 0x100000000004CF⟩] }
def rv : RingView := ⟨0x10000, 4096, 16, 0⟩
def rvS (s : State) : State := stateOfM (ringView (whoCore s 5) 0x6000) s
def rcS (s : State) (v : RingView) (h : Nat) : State := stateOfM (ringRecord (whoCore s 5) 0x6000 v h) (rvS s)
def sEmp : State := poke sD [(0x6018, 16)]
def sSkip : State := poke sD [(0x10000, 8 + 0xFF * 2 ^ 32)]
def sShort : State := poke sD [(0x10000, 80 + 2 ^ 32)]
def hdS (s : State) : State := stateOfM (plainM (whoCore s 5) 0x10000 8) (rvS s)
def ringOf (mask : BitVec 16) (ctx : Nat) : MRing := ⟨1, [(0, ⟨0, mask, ctx, [(5, 0x1234)]⟩)]⟩
def withSlot (x : CoreSt) : CoreSt := { x with slotHeld := true }
def farBehind (x : CoreSt) : CoreSt := { x with mcix := 0xFFFFFFF1 }
def sMr (mask : BitVec 16) (ctx : Nat) (f : CoreSt → CoreSt) : State := { sDx f with mrings := [(0, ringOf mask ctx)] }
def alt4_1 := { sMr 0x20 1 id with mrings := [(0, ⟨0, [(0, ⟨0, 0x20, 1, []⟩)]⟩)] }
def sBq : State := { sD with bushels := [(0, [⟨5, 1, 1⟩, ⟨5, 2, 1⟩, ⟨3, 9, 2⟩, ⟨4, 7, 1⟩])] }
def sBqFull : State := { sD with bushels := [(0, [⟨5, 1, 2⟩])] }
def alt5_1 := {sC with downBays := [3]}
def sWait : State := { sC with cores := [(5, { coreT with waitFrom := some 5 })], cyc := 65541 }
def alt5_2 := {sWait with cyc := 65540}
def evT : Event := ⟨80, 0x50, 1, 0x18, 0x1234⟩
def coreEv : CoreSt := { coreT with evec := 0x100, events := [⟨81, 0x51, 2, 0, 0⟩, evT] }
def sEv : State := { sC with cores := [(5, coreEv)] }
def sBadPc (pc : DWord) : State := { sC with cores := [(5, { coreT with pc := pc })] }
def sIll : State := poke sC [(0x1000, 0xFC000000)]
def alt5_3 := {sC with remoteReads := []}
def alt5_4 := { sC.core 5 with run := .stopped, epc := (sC.core 5).pc, ecause := 0x18, eaddr := 0x77, waitFrom := none, woken := false }
def elJ (i : Instr) : Elem := { elT with slots := (Vector.replicate 32 0).set 0 (wordOf i) }
def rFz (i : Instr) : Region := { at80 (regionOf (elJ i)) with frozen := some .windowFault, journal := [⟨1, 0, 0, false, 5⟩] }
def sFz : State := withCore (fun x => { x with g := x.g.set 20 0x50 }) { sD with regions := [rFz (.addI32 ⟨0, 0, 1, 2, false, false, true, false⟩)] }
def inReplay (i : Instr) : State := nextSt (exec (.rplBeg 9 20 0) ({sFz with regions := [rFz i]}))
def iAdd : Instr := .addI32 ⟨0, 0, 1, 2, false, false, true, false⟩
def iBad : Instr := .tagSet ⟨0, 16, 18, 2, true, false, false, false⟩
def iNo : Instr := .addI32 ⟨1, 0, 1, 2, false, false, true, false⟩
def rIn (i : Instr) : Region := ((inReplay i).region? 80).getD rE
def pIn (i : Instr) : Replay := (rIn i).replay.getD ⟨5, [], 0⟩
def elOf : FireRes → Elem
  | .done e _ => e
  | _ => {}
def jOne : JEntry := ⟨1, 0, 0, false, 5⟩
/-- The stages of rpl.step for index 0: the commits, then the arrivals. -/
def stepC (s : State) : State := s.replayCommit 80 3
def regC (s : State) : Region := ((stepC s).region? 80).getD rE
def sweepC (s : State) : State := if (regC s).sweep.any (fun w => w.start != jOne.cycle) then (stepC s).replaySweep (regC s) 0 else stepC s
def regSw (s : State) : Region := ((sweepC s).region? 80).getD rE
def readyC (s : State) : State := (sweepC s).replayReady (regSw s) 0
def regR (s : State) : Region := ((readyC s).region? 80).getD rE
def elNo : Elem := { elJ iNo with trigs := (Vector.replicate 64 0).set 1 0x01010000 }
def sNo6 : State := nextSt (exec (.rplBeg 9 20 0) ({sFz with regions := [{ rFz iNo with elems := [(0, elNo)] }]}))
def rNo6 : Region := (sNo6.region? 80).getD rE
def pNo6 : Replay := rNo6.replay.getD ⟨5, [], 0⟩
def inRd : State := withCore (fun x => { x with rplIdx := 1 }) (inReplay iAdd)
def iLd (b : Reg) : Instr := .ldB32 (fLd b 0)
def iSt : Instr := .stB32 (fLd 3 0)
def accOf (s : State) (r : Region) (q : AccReq) : Acc := mkAcc r 0 0 s.cyc q
def fxOf : FireRes → List Fx
  | .done _ fx => fx
  | _ => []
def reqOf (i : Instr) : AccReq := (fxAccess (fxOf ((readyC (inReplay i)).replayFire (regR (inReplay i)).aged jOne))).getD ⟨.load, 0, 0, 0, 0, 0, 0, 0, 0, 0, none⟩
def ordS (i : Instr) : State := stateOfM (replayOrderM 80 jOne (reqOf i)) (readyC (inReplay i))
def ordR (i : Instr) : Region := ((ordS i).region? 80).getD rE
def whoOf (i : Instr) : Who := { accWho (ordR i) (accOf (ordS i) (ordR i) (reqOf i)) with reader := .core 5 }
def failsD (t : State) (cause : Byte) (addr : DWord) : State :=
  (t.updCore 5 (fun y => { y with ecause := cause.zeroExtend 64, eaddr := addr })).wrote 5 9 1 4
def accsS (i : Instr) : State := stateOfM (accessM (whoOf i) (reqOf i).kind.need (reqOf i).va (reqOf i).size) (ordS i)
/-- A VST of the journal that has waited 2^20 cycles and more for a free version. -/
def iVst : Instr := .vst (fLd 0 0)
def elVst : Elem := { elJ iVst with x := elT.x.set 9 0x20 }
def sVst : State := withCore (fun x => { x with waitFrom := some 7 }) { nextSt (exec (.rplBeg 9 20 0) ({sFz with regions := [{ rFz iVst with elems := [(0, elVst)] }]})) with
  versions := tags4, cyc := 2 ^ 20 + 8 }
def rVst : Region := (sVst.region? 80).getD rE
def pVst : Replay := rVst.replay.getD ⟨5, [], 0⟩
def fireVst : FireRes := (readyC sVst).replayFire (regR sVst).aged jOne
def qVst : AccReq := (fxAccess (fxOf fireVst)).getD ⟨.load, 0, 0, 0, 0, 0, 0, 0, 0, 0, none⟩
def ordVst : State := stateOfM (replayOrderM 80 jOne qVst) (readyC sVst)
def r4Vst : Region := (ordVst.region? 80).getD rE
def wVst : Who := { accWho r4Vst (accOf ordVst r4Vst qVst) with reader := .core 5 }
def accVst : State := stateOfM (accessM wVst qVst.kind.need qVst.va qVst.size) ordVst
def rpA (k : AccKind) (va : DWord) : Acc := mkAcc (ordR (iLd 9)) 0 0 10 { kind := k, va := va, size := 8, data := 0x77, version := 0 }
def rpS : State := sV tagsV
def rpW : Who := whoOf (iLd 9)
def rpS0 : State := sV [(0x400, ⟨2, [(0x22, false), (0x33, true)]⟩)]
def sKill : State := { sMx [(2, 1)] with regions := [rE], streams := [newStream sC 5 coreT .ld default default 0 0 0 0] }
def sRM : State := { sMx [(1, 0)] with regions := [rE] }
def rEng : Region := { rE with rtab := rE.rtab }
def stopped (fz : Bool) : State := withCore (fun x => { x with run := .stopped, epc := 0x1233, frozen := fz }) (sMx [(1, 5)])
def xSt : CoreSt := { coreT with run := .idle, starting := some (2, 0x400, 0x99) }
def sSt : State := { sC with cores := [(5, xSt)] }
def e1 : TlbEntry := ⟨0, 3, 1, 0, 2 ^ 36, 0x5F3⟩
def e2 : TlbEntry := ⟨0, 3, 2, 0, 2 ^ 36, 0x5F3⟩
def sTlb : State := { sMx [(1, 1), (2, 0x2000)] with tlb := [e1, e2] }
def inv1 : Inval := ⟨9, 1, 0x2000, 256, [(0, 1)]⟩
def alt7_1 := { sMx [] with invals := [inv1] }
def pd (k : PendKind) (r : Option (DWord × Bool)) : Pend := ⟨7, 9, k, 0x1000000040, r, true, none, 0x0FF8, 3, false⟩
def sPd (k : PendKind) (r : Option (DWord × Bool)) (rk : ReqKind) : State :=
  { withCore (fun x => { x with pend := [pd k r] }) sC with reqs := [⟨20, rk, .core 5 7, 1, 0x10000000040, 0, 2, 8, 0, true⟩] }
def rq (rk : ReqKind) : Req := ⟨20, rk, .core 5 7, 1, 0x10000000040, 0, 2, 8, 0, true⟩
def rep7 : Reply := ⟨0x1234567890, false, 0, false, false, 0, false, 0⟩
def repP : Reply := ⟨0x1234567890, true, 0, false, false, 0, false, 0⟩
def hLd : Held := ⟨7, .load, 0x2000, 1, 0, 0x2000, 8, 0, 0, [], 0x0FF8⟩
def hSt : Held := ⟨8, .store, 0x2000, 1, 0, 0x2000, 8, 0x77, 0, [], 0x0FF8⟩
def pdH : Pend := ⟨7, 9, .load 8 false, 0x2000, none, false, none, 0x0FF8, 3, false⟩
def sHl : State := withCore (fun x => { x with pend := [pdH], held := [hLd, hSt] }) sC
def sHs : State := withCore (fun x => { x with held := [hSt] }) sC
def heldS (s : State) (h : Held) : State := stateOfM (heldM (whoCore s 5) h) s
def repA (old : Bool) : Reply := ⟨0x1234567890, false, 0, true, old, 0, false, 0⟩
def sAp : State := sPd (.amo 8) none .atomic
def u0 (old : Bool) : State := (({sAp with reqs := []}).giveResult 5 (pd (.amo 8) none) (0x1234567890) (!old)).updCore 5 (fun x => { x with run := .stopped, epc := 0x1000, ecause := 0x41, eaddr := 0x1000000040, waitFrom := none, woken := false })
def farH (k : HeldKind) : Held := ⟨7, k, 0x1000000040, 1, 0, 0x10000000040, 8, 0x77, 0, [], 0x0FF8⟩
def sFarH (k : HeldKind) : State := withCore (fun x => { x with pend := if k = .store then [] else [pd (.load 8 false) none], held := [farH k] }) sC
def sFarNo : State := { sFarH .load with masks := [] }
def repR : Reply := ⟨0, false, 0, false, false, 0, true, 0⟩
def uR : State := ({ sAp with reqs := [] }).updCore 5 (fun x => { x with pend := [], run := .stopped, epc := 0x1000, ecause := 0x0C, eaddr := 0x1000000040, waitFrom := none, woken := false })
def rQe : Region := { rE with qends := [(0, ⟨false, 0x10000000040, 0, 4, false, 0, 0, 0⟩)] }
def sKh : State := { sMx [(2, 1)] with regions := [rQe], newMasks := [(1, 3)] }
def rFzm (f : Option Freeze) : Region := { rE with frozen := f }
def sFzm (f : Option Freeze) : State := { sC with regions := [rFzm f] }
def oLd : CfgOp := op .ld .queued 0x20000 0x50
def alt8_1 := {withOp oLd sImg with regions := [at80 rE]}
def oSw : CfgOp := op .swp .acting 0x20000 0x50 (some emptyImage)
def ldR2 : Region := emptyImage.region 80 1 0x20000 false
def imFar : Image := { emptyImage with rtab := (emptyImage.rtab.set 0 (BitVec.ofNat 64 (3 * 2 ^ 61 + 2 * 2 ^ 44))).set 1 (BitVec.ofNat 64 (3 * 2 ^ 61 + 2 ^ 47 + 2 * 2 ^ 44)) }
def oSwBad : CfgOp := op .swp .acting 0x20000 0x50 (some imFar)
def imR : Region := emptyImage.region 80 1 0x20000 false
def imBad : Region := { imR with elems := [(0, { mode := 0x01000001 }), (1, {}), (2, {}), (3, {})] }
def imRt : Region := { imR with rtab := imR.rtab.set 127 0xFFFFFFFFFFFFFFFF }
def elRej : Elem := { slots := (Vector.replicate 32 0).set 31 0xFFFFFFFF }
def imTie : Region := (({ emptyImage with rtab := emptyImage.rtab.set 0 (BitVec.ofNat 64 (3 * 2 ^ 61 + 2 ^ 44)) } : Image).region 0 1 0x20000 false)
def rTk (_ : CfgKind) : Region := { at80 (regionOf {}) with token := some 30 }
def sTk (k : CfgKind) : State := { withOp (op k .token 0x40000 0x50) sImg with regions := [rTk k] }
def rTkU : Region := { rTk .unl with unit := some ⟨1, 0, 3, none⟩ }
def alt9_1 := {sTk .unl with regions := [rTkU]}
def alt9_2 := {sTk .unl with wires := [(wireKey ((rTk .unl).loc 0) .north, { flight := [⟨⟨7, 2⟩, 12, 0⟩] })]}
def oSv : CfgOp := op .sv .acting 0x40000 0x50
def rSv : Region := { rTk .sv with elems := [(0, {}), (1, {}), (2, {}), (3, {})] }
def sSv : State := { withOp oSv sImg with regions := [rSv] }
/-- The memory after the save of an empty region at 0x40000. -/
def savedMem : List Host.Cell :=
  [(131072, 1), (131076, 1), (131080, 64), (131088, 64), (131089, 4), (262144, 1), (262148, 1), (262150, 1), (266817, 31), (270913, 31),
   (275009, 31), (279105, 31), (16777216, 1), (16777217, 8), (16777219, 1), (16779264, 1), (16779265, 16), (16779267, 1), (16781312, 243),
   (16781313, 5)]
def oRs : CfgOp := op .rst .queued 0x40000 0x50
def sRs : State := { withOp oRs sImg with mem := savedMem, saved := [⟨0x40000, 1, none, [], [], [], [], [], []⟩] }
def sDone : State := withCore (fun x => { x with pend := [⟨31, 9, .cfg, 0, none, false, none, 0, 0, false⟩, ⟨32, 8, .cfg, 0, none, false, none, 0, 0, false⟩] }) (sTk .unl)
def rSvU : Region := { rSv with frozen := none, wins := [⟨⟨[], 0, 0⟩, 1, false⟩] }
def sSvU : State := { withOp oSv sImg with regions := [rSvU] }
/-- A parameter block at 0x21000: image 0x20000, three units, a span of 16 quads at quad 80, a completion semaphore. -/
def lpbWords (count qd : Nat) : List (Nat × Nat) :=
  [(0x21000, 0x20000), (0x21008, count), (0x21010, 2 + 320 * 2 ^ 8 + (5 * 64 + 3) * 2 ^ 32 + 2 ^ 46), (0x21018, 0x77), (0x21030, qd)]
def la : Launch := { id := 40, core := 5, ctx := 1, pc := 0x1000, pend := 31, lpb := 0x21000, ind := false }
/-- The memory with such a block of three units. -/
def laMem : List Host.Cell :=
  [(131072, 1), (131076, 1), (131080, 64), (131088, 64), (131089, 4), (135170, 2), (135176, 3), (135184, 2), (135185, 64), (135186, 1),
   (135188, 67), (135189, 65), (135192, 119), (135216, 1), (16777216, 1), (16777217, 8), (16777219, 1), (16779264, 1), (16779265, 16),
   (16779267, 1), (16781312, 243), (16781313, 5)]
def sLa (count qd : Nat) (l : Launch := la) : State :=
  { sImg with mem := if count = 3 ∧ qd = 1 then laMem else (poke sImg (lpbWords count qd)).mem, launches := [l], nextId := 50 }
/-- The launch once its block and its image are read. -/
def lj (count : Nat) : Launch :=
  { la with read := true, count := count, image := 0x20000, span := 2, spanAt := 320, quads := 1, csema := 323, csemaEn := true, arg := 0x77 }
def lb : Launch := { lj 3 with img := some emptyImage, accepted := true, places := 2 }
def sLb : State := sLa 3 1 lb
def rB : Region := { emptyImage.region 80 1 0x20000 true with elems := [(0, { mode := 0x20000000 }), (1, {})] }
def sLbR : State := { sLb with regions := [rB] }
def rU : Region := { rB with unit := some ⟨40, 0, 5, some 3⟩ }
def alt10_1 := { sLb with regions := [rU] }
def lc : Launch := { lb with completed := 3, next := 3, placements := [⟨80, false, .idle⟩] }
def rNs : Region := { emptyImage.region 80 1 0x20000 true with elems := [(0, {})], unit := some ⟨40, 0, 5, none⟩ }
def alt10_3 := { sLb with regions := [rNs] }
def ld_ : Launch := { lb with next := 1, dropped := lb.candidates }
def le_ : Launch := { lb with placements := [⟨80, false, .idle⟩] }
def sUs : State := { sLa 3 1 le_ with regions := [rB] }
/-- Element 0 sends east to element 1 and north over a bound end. -/
def wireEl : Elem := { outc := #v[⟨[⟨⟨7, 2⟩, 3, 0⟩], []⟩, ⟨[⟨⟨8, 2⟩, 3, 0⟩], []⟩, ⟨[], []⟩, ⟨[], []⟩], route := 1 * 2 ^ 14 + 2 * 2 ^ 17 + 1 * 2 ^ 29 }
def bindWord (ep opnd : Nat) : DWord := BitVec.ofNat 64 (3 * 2 ^ 61 + ep * 2 ^ 44 + opnd)
def rW (ep : Nat) : Region := { placeRegion 0 0 with
  ctx := 1, elems := [(0, wireEl), (1, { route := 4 * 2 ^ 29 }), (2, {}), (3, {})], rtab := (Vector.replicate 128 0).set 0 (bindWord ep 0) }
def sW (ep : Nat) : State := { base with regions := [rW ep] }
def sFl (due : Nat) : State := { sW 0 with wires := [(wireKey 0 .east, { flight := [⟨⟨7, 2⟩, due, 0⟩] })] }
def fullW : Region := { rW 0 with elems := [(0, wireEl), (1, { route := 4 * 2 ^ 29, inc := #v[⟨[tok 1 0, tok 1 0, tok 1 0, tok 1 0], []⟩, default, default, default] })] }
def alt10_2 := { sFl 9 with regions := [fullW] }
def arT : State := nextSt (exec (.linkTokenArrival 0 1 .west .arrive) (sFl 9))
def sRE : State := { sMx [(1, 0x20000000)] with regions := [rW 2] }
def laOff : Launch := { la with lpb := 0x21008 }
def laBad : Launch := { la with lpb := 0x4000000000 }
def ljSpan : Launch := { lj 0x1000000 with span := 7 }
def lInd (va : DWord) (v : Nat) : Launch := { lj 3 with ind := true, countAddr := va, countVer := BitVec.ofNat 32 v }
def sInd (v : Nat) : State := { sC with versions := [(0x400, ⟨3, [(0x22, false), (0x33, true), (0, false)]⟩)], launches := [lInd 0x2000002000 v] }
def indS (v : Nat) : State := stateOfM (translateM (whoLaunch (lInd 0x2000002000 v)) .vld 0x2000002000) (sInd v)
def indV (v : Nat) : State := stateOfM (homeVldM (whoLaunch (lInd 0x2000002000 v)) (.launch 40) 0x2000002000 (version 0x2000) (BitVec.ofNat 32 v)) (indS v)
def indGone : State := stateOfM (homeVldM (whoLaunch (lInd 0x2000002000 0x80000003)) (.launch 40) 0x2000002000 (version 0x2000) (0x80000003)) (indS 0x80000003)
def rShut : Region := { rW 0 with wins := [⟨⟨[], 0, 0⟩, 1, false⟩], log := List.replicate 2048 default }
def sShut : State := { base with regions := [rShut] }
def lown (st : PlaceSt) : Launch := { lc with placements := [⟨80, true, st⟩] }
def uniRoute (dst inbox : Nat) : DWord := BitVec.ofNat 64 (1 * 2 ^ 61 + dst * 2 ^ 46 + inbox * 2 ^ 44 + 4 * 2 ^ 40)
def pkt0 : Packet := ⟨0, 0x11, 0x22, true, 5⟩
def stg (sup : Bool) : Staged := ⟨pkt0, 3, 0, sup⟩
def rP (sup : Bool) : Region := { placeRegion 0 0 with
  ctx := 1, elems := [(0, { stage := some (stg sup) }), (1, {}), (2, {}), (3, {})], rtab := (Vector.replicate 128 0).set 3 (uniRoute 2 1) }
def sP (sup : Bool) : State := { base with regions := [rP sup] }
def fl (ctx : Nat) : PacketFlight := ⟨60, { pkt0 with header := BitVec.ofNat 64 (2 ^ 58 * ctx) }, 0, 0, 3, [2, 100], [2, 100], 1, 2⟩
def sF (ctx : Nat) : State := { sP false with flights := [fl ctx] }
def ld1 (ctx : Nat) : Landed := ⟨{ pkt0 with header := BitVec.ofNat 64 (2 ^ 58 * ctx) }, 60, 5⟩
def sL1 (ctx : Nat) : State := { sF ctx with landings := [(landKey 2 1, [ld1 ctx])] }
def rFull11 : Region := { rP false with elems := [(0, {}), (2, { inbox := #v[[], [⟨pkt0, 0, 1⟩, ⟨pkt0, 0, 2⟩], [], []] })] }
def alt11_1 := { sL1 1 with regions := [rFull11] }
/-- A queue of four records at 0x9000 with its ring at 0x9100. -/
def qe (out : Bool) : QEnd := ⟨out, 0x9000, 0x9100, 2, false, 0, 0, 0⟩
def rQ (ep : Nat) (q : QEnd) : Region := { rW ep with qends := [(0, q)] }
def sQ (ep : Nat) (q : QEnd) (prod cons : Nat) : State := poke { base with regions := [rQ ep q] } [(0x9010, prod), (0x9018, cons), (0x9108, 0x2_00000055)]
def rQi : Region := { rQ 5 (qe false) with elems := [(0, { wireEl with route := 1 * 2 ^ 29 })] }
def sQi (p c : Nat) : State := { sQ 5 (qe false) p c with regions := [rQi] }
def qa : QEnd := { qe true with desc := 0x10000009000, ring := 0x10000009100 }
def alt11_2 := { rep with data := 77 }
def sQa : State := { sQ 4 qa 5 4 with masks := [(1, 1)], aports := [(0, { up := true, peerIn := 1 })] }
def sQf : State := { sQi 6 5 with masks := [(1, 1)], aports := [(0, { up := true })], farEnds := [⟨0x9000, 0x9100, 128, true, 1⟩] }
/-- The record at the ring's head is a fathom. -/
def sQk : State := poke (sQi 6 5) [(0x9108, 0x82_00000055)]
/-- An end in package 1 of which five records are written, two of them taken. -/
def qt (told cons : Nat) : QEnd := { qa with produced := 5, consumedCopy := cons, told := told }
def rQt (told cons : Nat) : Region := rQ 4 (qt told cons)
def sQt (told cons : Nat) : State := { base with regions := [rQt told cons], masks := [(1, 1)], aports := [(0, { up := true })] }
def qtReq : Req := ⟨60, .record, .queue 0 0, 1, 0x10000009108, 0, 0, 8, 0, true⟩
def sQr (r : Region) : State := { base with regions := [r], reqs := [qtReq] }
def sQm : State := { sQt 5 2 with newMasks := [(1, 3)] }
def acc0 (kind : AccKind) (st : AccSt) : Acc := ⟨3, 0, 2, kind, 0x2000, 8, 0x1234, 5, 7, 2, 1, 2, 0, none, st, none, 0, 4, decide (st = .port), none, []⟩
def snap0 : Snap := ⟨[(0, elT)], 1, 0⟩
def rA (a : Acc) (wins : List Window := []) : Region := { rE with accs := [a], serial := 5, wins := wins }
def sA (r : Region) : State := { poke base [(0x2000, 0x8877665544332281)] with regions := [r] }
def win (closed : Bool) : Window := ⟨snap0, 2, closed⟩
def rF : Region := rA (acc0 .load (.failed 0x0A 0x2000)) [win false]
def raised0 : Raised := ⟨3, 0, 2, 0x0A, 0x2000, 1, false, false, none⟩
def rG (at_ : Nat) (fz : Option Freeze) (cause : Byte) : Region := { rF with raised := [{ raised0 with cause := cause }], flagAt := some at_, frozen := fz }
def alt12_1 := { sA (rG 5 none 0x0A) with cyc := 16 }
def alt12_2 := { raised0 with cause := 0x0A }
def alt12_3 := { sA (rG 5 none 0x0A) with cyc := 17 }
def alt12_4 := { sA (rG 5 none Cause.isolationFreeze) with cyc := 17 }
def alt12_5 := { raised0 with cause := Cause.isolationFreeze }
def alt12_6 := { raised0 with cycle := 4 }
def alt12_7 := { raised0 with serial := 2 }
def rSw (at_ : Nat) : Region := { rE with sweep := some ⟨[(2, 3)], at_⟩ }
def rSwT : Region := { rSw 9 with elems := [(0, { elT with outc := #v[⟨[], []⟩, ⟨[], []⟩, ⟨[], []⟩, ⟨[⟨⟨7, 0⟩, 3, 0⟩], []⟩] })] }
def sSwT : State := { sE with regions := [rSwT] }
def alt12_8 := { sE with regions := [rSw 9] }
def alt12_9 := { sE with regions := [rSw 10] }
def rAk (k : AccKind) (st : AccSt) (wins : List Window := []) : Region := rA (acc0 k st) wins
def rUnb : Region := rAk .release .port [win true, win false]
def accBad : Acc := { acc0 .load .port with va := 0x2001 }
def lbs (s : State) (r : Region) : List Byte × Bool := s.loadBytes r 3 (normal 0x2000) 8 0
def rRdy : Region := rAk .load (.ready (normal 0x2000))
def accIn : Acc := { acc0 .load (.ready (normal 0x2000)) with inPort := true }
def rIn12 : Region := rA accIn
def accOut : Acc := { (sA rIn12).checkedAcc rIn12 accIn with inPort := false }
def rOut12 : Region := (rIn12.freePort 10 ((sA rIn12).checkedAcc rIn12 accIn)).setAcc accOut
def sOut12 : State := (sA rIn12).setRegion rOut12
def accR12 : Acc := { acc0 .load .done with result := some (0x77, false) }
def rRs : Region := { rA accR12 with elems := [(0, { elT with inc := #v[⟨[tok 7 2], []⟩, ⟨[tok 1 0x41, .resv 3 0 false, .resv 4 0 false], []⟩, ⟨[], []⟩, ⟨[], []⟩] })] }
def rdy (k : AccKind) (v : Bool) : Region := rAk k (.ready ⟨0x2000, 0, v⟩) [win true]
def rdyA (k : AccKind) (v : Bool) : Acc := acc0 k (.ready ⟨0x2000, 0, v⟩)
def withV (n : Word) (older : List (DWord × Bool)) (s : State) : State := { s with versions := [(0x400, ⟨n, older⟩)] }
def amoS : State := sA (rdy (.amo .add) false)
def aWt (since : Nat) : Acc := { acc0 .vst (.waiting (version 0x2000)) with since := since }
def rWt (since : Nat) : Region := rA (aWt since) [win true]
def alt12_11 := { sA (rWt 4) with cyc := 2 ^ 20 + 5 }
def aRm : Acc := { acc0 .vst (.remote (version 0x10000002000)) with since := 4 }
def sRm : State := { sA (rA aRm) with cyc := 2 ^ 20 + 5, reqs := [⟨20, .vst, .region (rA aRm).id 3, 1, 0x10000002000, 0, 4, 8, 0, true⟩] }
def d0 : Desc := descOf ((List.range 8).map (fun k => sD.fabNat (0x3000 + 8 * k) 8))
def d1 : Desc := { descOf ((List.range 8).map (fun k => sD.fabNat (0x3040 + 8 * k) 8)) with }
def st0 (kind : StreamKind) (st : StreamSt) (tb : DWord := 0) : Stream := { newStream sC 5 coreT kind d0 d1 tb 0x2000 0x1000 0 with id := 30, st := st }
def sS (t : Stream) : State := { sD with streams := [t], score := [⟨5, 30, 1, 0, 9⟩, ⟨5, 31, 1, 0, 9⟩] }
def stBad (t : Stream) : Stream := { t with desc := { d0 with esz := 9 } }
def started (s : State) (t : Stream) : State := if t.empty then s else { s with lastSector := AMap.set s.lastSector (engineOf t) (rotaPlace t.core) }
def stepT (t : Stream) (s : State) : Stream := match (t.stepM.exec s).1 with
  | .ok t => t
  | _ => t
def stUn (t : Stream) (a : DWord) : Stream := { t with desc := { d0 with base := a } }
def cpS : State := sS (st0 .cp .running)
def alt13_1 := { sS (st0 .cp (.paused 0x2000 5)) with cyc := 65541 }
def sTwo : State := { sS (st0 .ld .queued) with streams := [st0 .ld .queued, { st0 .ld .queued with id := 32, core := 6 }], lastSector := [(engineOf (st0 .ld .queued), rotaPlace 5)] }
def hvNone : Stream := { st0 .hrv .queued with hlen := 0 }
def flM : Stream := { st0 .ld (.failed 0x0A 0x2000) with kind := .cp, item := 1 }
def flM2 : Stream := { flM with item := 2 }
def mkS : State := sS flM
def dL : Desc := { d0 with stopd := 1 }
def stmT (kind : StreamKind) (item : Nat) (held : Option Token) : Stream := { st0 kind .running with desc := dL, item := item, held := held }
def sPt1 (l r : List Token) : State := { sS (stmT .ld 0 none) with ports := [((stmT .ld 0 none).port, { toMem := l, toRegion := r })] }
def mv (t : Stream) : Stream := { t with item := 2 }
def fin_ (tb : DWord) : Stream := mv (st0 .cp .running tb)
def credit (t : Stream) (f : Bool) (s : State) : State := match s.streamCredit t f with
  | some p => p.1
  | none => s
/-- The leaf of page 0 without A, in a line the host holds. -/
def sHeld : State := { poke (sS (fin_ 0x5000)) [(placeRoot + 0x1000, 0x1F3)] with hostLines := [(placeRoot + 0x1000) / 128] }
def fl_ : Stream := { st0 .cp (.failed 0x0A 0x2000) 0x5000 with item := 2 }
def noTb : Stream := { fin_ 0 with dst := { d1 with tbarEn := false } }
def atTb (a : DWord) : State := stateOfM (translateM (whoStream (fin_ a)) .atomic a) (sS (fin_ a))
def hv : Stream := { st0 .hrv .running with hlen := 0x2000000000, hva := 0x2000 }
def sHv : State := { sS hv with frames := [0, 5, 2 ^ 24] }
def hv2 : Stream := { hv with hva := 0x4000000000 }
def sHv2 : State := { sHv with streams := [hv2] }
def hv3 : Stream := { hv with hva := 0x1000000000 }
def sHv3 : State := { sHv with streams := [hv3], aports := [] }
def hv4 : Stream := { hv3 with stops := 2 ^ 24 - 1 }
def sHv4 : State := { sHv3 with streams := [hv4] }
/-- A page of 4 TiB at page 0, of which this package holds the first quarter. -/
def sHv5 : State := poke sHv [(placeRoot + 0x1000, 0x5FF)]
def hq (q : HostQ) (s : State := sD) : State := { s with hostQs := [(7, q)] }
def q0 : HostQ := { ctx := 1, sema := 5 * 64 + 3, qcb := 0x6000 }
def qBad : HostQ := { q0 with qcb := 0x4000000000 }
def alt14_1 := { q0 with en := true }
def alt14_2 := { q0 with en := true, fetching := true }
def qF : HostQ := { q0 with en := true, fetching := true }
def qFB : HostQ := { qF with qcb := 0x4000000000 }
def fv : RingView := match ((ringView (whoQueue (hq qF) 7) 0x6000).exec (hq qF)).1 with
  | .ok v => v
  | _ => ⟨0, 0, 0, 0⟩
def fS1 : State := stateOfM (ringView (whoQueue (hq qF) 7) 0x6000) (hq qF)
def msgS (w : List Nat) : State := { sD with msgs := [⟨3, 5, []⟩, ⟨7, 5, w⟩], msixTable := [(15, 0)] }
def alt14_3 := { sD with hostLines := [64, 65] }
def nm (m : Nat) : State := { sD with newMasks := [(2, m)], masks := [(1, 1), (2, 3)] }
def hw : Hdm := { hbase := 0x100000000, size := 1, ctx := 1, en := true, vbase := 0 }
def sH : State := { poke base [(0x2000, 0x8877665544332281)] with hdm := [(0, hw)], aports := [(0, { up := true, sent := 3, acked := 1 })] }
def orq (a n : Nat) (w : Bool) (cache : Bool := false) : OuterReq := ⟨a, n, w, 0x1122334455667788, cache⟩
def hostT (w : Bool) (a : Nat) : State := stateOfM (accessM (whoHost hw) (if w then .store else .load) (BitVec.ofNat 64 (a - 0x100000000)) 8) sH
def hw2 : Hdm := { hw with vbase := 0x4000000000 }
def sH2 : State := { sH with hdm := [(0, hw2)] }
/-- The part with a peer's request brought by a flit. -/
def sHp : State := { sH with aports := [(0, { up := true, sent := 3, acked := 1, peerIn := 1 })] }
def took (s : State) : State := s.takePeer.getD base
def alt14_4 := { sHp with barriers := [0x2000] }
def sHv14 (n : Word) (o : List (DWord × Bool)) : State := withV n o sHp
def sHb14 : State := withV 9 [(1, false), (2, false), (3, false)] sHp
def pw14 : PeerWait := ⟨9, 0, 0x2000, 0x1122334455667788, 3⟩
def sHw14 (full late : Bool) : State :=
  { (if full then sHb14 else sHp) with peerWaits := [pw14], vstQueue := [⟨0x400, .peer 9⟩], cyc := if late then 2 ^ 20 + 4 else 10 }
def rq14 (kind : ReqKind) (owner : ReqOwner) (done : Bool := false) : Req := ⟨60, kind, owner, 1, 0x10000002000, 0, 1, 8, 0, done⟩
def sRq (q : Req) (p : APort := { up := true, sent := 3, acked := 1, accepted := 4 }) : State := { sH with reqs := [q], aports := [(0, p)] }
def rep14 : Reply := { rep with ack := 2 }
def sLd14 : State := sRq (rq14 .load .other)
def aRem : Acc := acc0 .load (.remote (version 0x10000002000))
def rRem : Region := rA aRem [win true]
def sRem : State := { sRq (rq14 .load (.region rRem.id 3)) with regions := [rRem] }
def pd14 : Pend := ⟨7, 9, .load 8 false, 0x1000000040, none, true, none, 0x0FF8, 3, false⟩
def sPd14 : State := { sRq (rq14 .load (.core 5 7)) with cores := [(5, { coreT with pend := [pd14] })] }
/-- A load of an element of bay 0 and one of its core, on their way to a word of bay 1. -/
def aDie : Acc := acc0 .load (.ready (normal 0x1800002000))
def rDie : Region := rA aDie
def hDie : Held := ⟨7, .load, 0x1800002000, 1, 0, 0x1800002000, 8, 0, 0, [], 0x0FF8⟩
def pDie : Pend := ⟨7, 9, .load 8 false, 0x1800002000, none, false, none, 0x0FF8, 3, false⟩
def sDie : State := { sLd14 with regions := [rDie], cores := [(5, { coreT with held := [hDie], pend := [pDie] })], aports := [(0, { up := true, sent := 3, acked := 1, accepted := 4 }), (17, { up := true })] }
def wq11 : Req := rq14 .write (.region (rA aRm).id 3) true
def aRw : Acc := acc0 .release (.remote (normal 0x10000002000))
def sRw : State := { sRq wq11 with regions := [rA aRw] }
def sTired : State := sRq (rq14 .load .other) { up := true, replays := 8 }
def sTiredDie : State := { sLd14 with aports := [(0, { up := true }), (17, { replays := 8 })] }
def alt14_5 := { sLd14 with cyc := 2 ^ 22 + 2 }
def wq : Req := rq14 .write (.core 5 60) true
def sWq : State := { sRq wq with cores := [(5, { coreT with remoteWrites := [⟨60, 0x1000000040, 0x0FF8, false⟩, ⟨61, 0x1000000048, 0x0FFC, true⟩] })] }
def vq14 : Req := rq14 .vst (.region (rA aRm).id 3) true
def sVq : State := { sRq vq14 with regions := [rA aRm], cyc := 2 ^ 20 + 5 }
def tl (tag : Byte) (result : Bool := false) (data : Nat := 0x3C003C003C00) : Tile := ⟨tag, result, BitVec.ofNat 2048 data, 8⟩
/-- A matrix element with heads at in0 and in1: passes A to out0, B to out1, results to out2. -/
def matEl (a b : Option Tile) (m : Mat := {}) (c0 : Word := 0) : Elem :=
  { mode := 0xC0000000, static := BitVec.ofNat 32 (1 * 2 ^ 22 + 2 * 2 ^ 19 + 1 * 2 ^ 16 + 2 * 2 ^ 13 + 3 * 2 ^ 10), consts := (Vector.replicate 8 0).set 0 c0
    mat := { m with inTile := #v[a, b, none, none] } }
def rMt (a b : Option Tile) (m : Mat := {}) (c0 : Word := 0) : Region := { placeRegion 0 0 with ctx := 1, elems := [(0, matEl a b m c0), (1, {})] }
def sMt (a b : Option Tile) (m : Mat := {}) (c0 : Word := 0) : State := { base with regions := [rMt a b m c0] }
def dT : Tile := tl 0
def pT : Tile := tl 0xC2
def stT (l : Nat) : Tile := tl (mkTag 1 l)
def rT : Tile := tl 0 true
def alt15_1 := { rMt dT dT with mp := true }
def alt15_2 := { sMt dT dT with regions := [alt15_1] }
/-- Two columns: element 1 stands in column 1. -/
def rM2 (a : Option Tile) (m : Mat) (c0 : Word := 0) : Region := { placeRegion 0 0 with ctx := 1, elems := [(0, matEl none none), (1, matEl a none m c0)] }
def sM2 (a : Option Tile) (m : Mat) (c0 : Word := 0) : State := { base with regions := [rM2 a m c0] }
def fT : Tile := fathomTile
def fathT : State := nextSt (execMatrixFathom (rMt fT fT).id 0 (sMt fT fT))
def rEx : Region := { rMt fT fT with elems := [(0, { matEl fT fT with route := 2 * 2 ^ 14 }), (1, {})] }
/-- A repeat node of operand A whose counts come at in2. -/
def c0R : Word := BitVec.ofNat 32 (1 * 2 ^ 25 + 3 * 2 ^ 22 + 4 * 2 ^ 19)
def cnt (tag : Byte) : Tile := tl tag false 3
def repEl (a c : Option Tile) (m : Mat) : Elem := { matEl a none m c0R with mat := { m with inTile := #v[a, none, c, none] } }
def rRp (a c : Option Tile) (m : Mat) : Region := { placeRegion 0 0 with ctx := 1, elems := [(0, repEl a c m), (1, {})] }
def sRp (a c : Option Tile) (m : Mat) : State := { base with regions := [rRp a c m] }
def tk15 (n k : Nat) : Mat := { rtaking := true, rcount := BitVec.ofNat 32 n, rbuf := List.replicate k dT }
def pr (pos : BitVec 4) : Mat := { rcount := 2, rlen := 1, rpos := pos, rbuf := [dT], rpoison := true }
def rMs : Region := { rMt dT dT with ms := true }
def sMs : State := { sMt dT dT with regions := [rMs] }
/-- A region whose ends are bound to the links of an island kind. -/
def bindW (e dir ep opnd : Nat) : DWord := BitVec.ofNat 64 (3 * 2 ^ 61 + dir * 2 ^ 59 + e * 2 ^ 47 + ep * 2 ^ 44 + opnd)
def rI (kind : Nat) : Region := { placeRegion 0 0 with
  ctx := 1, elems := [(0, {}), (1, {}), (2, {}), (3, {})]
  rtab := (((Vector.replicate 128 0).set 0 (bindW 0 0 3 kind)).set 1 (bindW 1 0 3 (kind + 16))).set 2 (bindW 0 3 3 (kind + 32)) |>.set 3 (bindW 2 3 3 (kind + 48)) }
def inq (l : List (Nat × Token)) (s : State) : State := { s with links := l.map (fun p => (p.1, { inq := [⟨p.2, 3, 0⟩] })) }
def isA (m : List (Nat × Nat)) (key : Nat) (t : Token) : State := inq [(key, t)] { poke base m with regions := [rI 2] }
/-- Two fibre sets of one fibre: coordinates 1 and 3, and 3 and 4. -/
def fib : List (Nat × Nat) :=
  [(0x2000, 0x2100), (0x2008, 0x2108), (0x2010, 0x2110), (0x2018, 1), (0x2040, 0x2120), (0x2048, 0x2128), (0x2050, 0x2130), (0x2058, 1),
   (0x2100, 2 * 2 ^ 32), (0x2108, 1 + 3 * 2 ^ 32), (0x2110, 0x3F800000 + 0x40000000 * 2 ^ 32), (0x2120, 2 * 2 ^ 32), (0x2128, 3 + 4 * 2 ^ 32),
   (0x2130, 0x40400000 + 0x40800000 * 2 ^ 32)]
def lanes (l : List Nat) : Wide := ofLanes (l.map (BitVec.ofNat 32))
def mcmd (op acnt : Nat) (a : Nat := 0x2000) : Token := ⟨lanes [a, a / 2 ^ 32, 0x2040, 0, op * 2 ^ 24, 2 ^ 24, acnt, 1], 0⟩
def k0 : Nat := linkKey 2 0 0
def sM1 (op acnt : Nat) (a : Nat := 0x2000) : State := isA fib k0 (mcmd op acnt a)
def wI : Who := whoIsect 0 1
/-- The command is taken. -/
def cmdS (s : State) (t : Token) : State := (s.linkTake k0).updIsect 0 (fun j => { j with cmd := some t })
def noCmd : MergeCmd := ⟨false, .error (0, 0), .error (0, 0), 0, 0, 0, 0⟩
def jm (op acnt : Nat) (a : Nat := 0x2000) : MergeCmd := okOr ((judgeMergeM wI (rI 2) 0 (mcmd op acnt a)).exec (sM1 op acnt a)).1 noCmd
def jS (op acnt : Nat) (a : Nat := 0x2000) : State := stateOfM (judgeMergeM wI (rI 2) 0 (mcmd op acnt a)) (sM1 op acnt a)
def wkM (s : State) (t : Token) : Walk := match ((mergeM wI (rI 2) 0 t).exec s).1 with
  | .ok c => c
  | _ => {}
def wkS (s : State) (t : Token) : State := stateOfM (mergeM wI (rI 2) 0 t) s
def sCm (op acnt : Nat) (a : Nat := 0x2000) : State := cmdS (sM1 op acnt a) (mcmd op acnt a)
/-- A set in another package. -/
def sFar : State := { isA fib k0 (mcmd 1 1 0x1000000040) with masks := [(1, 1)], aports := [(0, { up := true })] }
def mBad : Token := ⟨lanes [0x2000, 0, 0x2040, 0, 2 ^ 24, 2 ^ 25, 1, 1], 0⟩
def wkJ (op acnt : Nat) : Walk := match ((walkM wI (jm op acnt) (natsFrom (jm op acnt).afirst (jm op acnt).acnt) {}).exec (jS op acnt)).1 with
  | .ok c => c
  | _ => {}
def rs (out : List Token) : State := { sM1 1 1 with isects := [(0, { response := some (mergeResp 1 0 3) })], links := [(linkKey 2 0 1, { outq := out })] }
/-- A command whose first set could not be read. -/
def jmBad (o : Bool) : MergeCmd := if o then { jm 1 1 with a := .error (Cause.islandFormat, 0x2001) } else { jm 1 1 with b := .error (Cause.islandFormat, 0x2041) }
def rowM (c : MergeCmd) (l : List Nat) : Mach Walk := walkRowM wI c 0 l {}
def okW (m : Mach Walk) (s : State) : Walk := okOr (m.exec s).1 {}
def fsA : FibreSet := ⟨0x2100, 0x2108, 0x2110, 1, 0⟩
def okF (m : Mach (List (Nat × Nat))) (s : State) : List (Nat × Nat) := okOr (m.exec s).1 []
def ac (t : Token) (i : Isect := { accVal := [(3, 0x3F800000), (5, 0x40000000)] }) : State := { isA [] (linkKey 2 0 3) t with isects := [(0, i)] }
def acD : Token := ⟨lanes [3, 0x3F800000, 0xFFFFFFFF, 1, 5000, 1, 4, 0x7F800001], 0⟩
def accS3 : State := ac acD { accVal := [(3, 0x3F800000), (4, 0x40000000)] }
def k00 : Nat := linkKey 0 0 0
def rayTok (h : Nat) : Token := ⟨BitVec.ofNat 256 h, 2⟩
def sRy (l : List (Nat × Token)) (rays : List Ray := []) : State := { inq l base with regions := [rI 0], rays := rays, nextId := 70 }
def wRay : Who := whoIsland 0 1 (.ray 70)
def rS (h : Nat) (m : State → State := id) : State := m (sRy [(k00, rayTok h)])
def newR (h : Nat) (m : State → State := id) : Ray := newRay (rS h m) 0 1 (rayTok h)
/-- The ray is taken. -/
def rS1 (h : Nat) (m : State → State := id) : State :=
  { ((rS h m).linkTake k00).updIsland 0 (fun i => { i with taken := i.taken + 1 }) with nextId := (rS h m).nextId + 1, rays := (rS h m).rays ++ [newR h m] }
def stR (h : Nat) : Ray := match (((newR h).startM wRay false).exec (rS1 h)).1 with
  | .ok y => y
  | _ => newR h
def stS (h : Nat) (m : State → State := id) : State := stateOfM ((newR h m).startM wRay false) (rS1 h m)
/-- Page 12 is the tile SRAM of package 1. -/
def farM (s : State) : State := { poke s [(placeRoot + 0x1060, 0x1C0000005F3)] with masks := [(1, 1)], aports := [(0, { up := true })] }
def cd (t : Word) : Cand := ⟨t, 1, 2, 3, 4, 5, false⟩
def ray0 (st : RaySt) (list : List Cand) : Ray := { id := 8, origin := 0, here := 0, entered := true, ctx := 1, handle := 0x2000, state := 0, level := 2, st := st, list := list, order := 0 }
def vd (acc : Bool) (tag : Byte) : Token := ⟨BitVec.ofNat 256 (0x2000 + (if acc then 2 ^ 248 else 0)), tag⟩
def sVd (t : Token) (x : Ray) : State := sRy [(linkKey 0 0 2, t)] [x]
def rV : Ray := ray0 .verdict [cd 1, cd 2]
def alt17_1 := { rV with handle := 0x3000 }
def alt17_2 := { rV with poisoned := true }
def alt17_3 := { rV with best := some (cd 7) }
/-- A ray from (0.25, 0.25, 0) along z with TMIN 0 and TMAX 8; its leaves stand at 0x2000, its primitives at 0x2100. -/
def xPrim (mask : Nat) : Ray := { ray0 .search [] with
  sd := [0x2200, 0x2000, 0x2100, 0x2200, 1 + 2 ^ 32, 2, 0], state := BitVec.ofNat 64 (256 * mask), tmax := 0x41000000
  org := [0x3E800000, 0x3E800000, 0], dir := [0, 0, 0x3F800000] }
/-- Leaf 0 holds one primitive in mask 1, leaf 1 none. -/
def mPrim : State := poke base [(0x2000, 2 ^ 32 + 3 * 2 ^ 40), (0x2008, 0x101), (0x2010, 0), (0x2018, 1), (0x2100, 0), (0x2108, 0x3F800000 + 0x3F800000 * 2 ^ 32),
  (0x2110, 0x3F800000 * 2 ^ 32), (0x2118, 0), (0x2120, 0x3F800000 + 0x3F800000 * 2 ^ 32)]
def sPrim : State := { mPrim with regions := [rI 0] }
def enW (a : DWord) (n : Nat) : List Nat :=
  match ((entryM wRay a n).exec sPrim).1 with
  | .ok (.ok l) => l
  | _ => []
def enT (a : DWord) (n : Nat) : State := stateOfM (entryM wRay a n) sPrim
def bx2 : List Word := [0, 0, 0, 0x40000000, 0x40000000, 0x40000000]
def f0 : Found := ⟨[], [], []⟩
def flV (n : Nat) : FVal := decF n
def vOrg : Vec3 := (0x3E800000, 0x3E800000, 0)
def vDir : Vec3 := (0, 0, 0x3F800000)
def vA : Vec3 := (0, 0, 0x3F800000)
def vB : Vec3 := (0x3F800000, 0, 0x3F800000)
def vC : Vec3 := (0x40000000, 0, 0x3F800000)
def vD : Vec3 := (0, 0x3F800000, 0x3F800000)
def vOut : Vec3 := (0xBF800000, 0, 0)
def cO (t : Word) : Cand := { cd t with opaq := true, leaf := 9 }
def mg (here : Nat) (ent : Bool) : Ray := { ray0 .search [] with here := here, entered := ent, todo := [(0, 1, [])] }
def sMg (ctx : Nat) (x : Ray) (l : List Ray := []) : State := { sRy [] (x :: l) with regions := [{ rI 0 with ctx := ctx }] }
def abs_ (x : Ray) (s : State) : Ray := match ((x.absent 0).passM.exec s).1 with
  | .ok y => y
  | _ => x
def alt17_4 := { mg 3 true with todo := [(0, 1, []), (5, 1, [])] }
def mgF : Ray := { mg 0 false with sd := [0x4000000000] }
def enS : State := sMg 1 mgF
def enR : Ray := match ((({ mgF with entered := true } : Ray).enterPartsM (whoIsland 0 1 (.ray 8))).exec enS).1 with
  | .ok y => y
  | _ => mgF
def alt17_5 := { mgF with entered := true }
def tS (t : Token) (l : List Ray := []) : State := { sRy [(k00, t)] l with islands := [(0, { taken := 4 })] }
/-- A ray whose scene is not read yet. -/
def xSd (h : DWord) : Ray := { mg 0 true with handle := h }
def sSd (h : DWord) : State := sMg 1 (xSd h)
def ySd (h : DWord) : Ray := match (((xSd h).startM (whoIsland 0 1 (.ray 8)) false).exec (sSd h)).1 with
  | .ok y => y
  | _ => xSd h
def tC (op : Nat) (tag : Byte) : Token := ⟨BitVec.ofNat 256 (op + 0x77 * 2 ^ 128), tag⟩
def sTC (op : Nat) (tag : Byte) (l : List Ray := []) : State := { sRy [(linkKey 0 0 1, tC op tag)] l with chain := [(5, ⟨BitVec.ofNat 48 (2 ^ 42), 1, 2⟩), (6, ⟨0, 1, 2⟩)] }
def alt17_6 := { ray0 .search [] with order := 9 }
def rk : Nat := linkKey 1 0 0
/-- A surface of one tile at 0x40000: format and compression. -/
def surf (fmt comp : Nat) : List (Nat × Nat) := [(0x3000, 0x40000), (0x3008, 1 + 2 ^ 16 + fmt * 2 ^ 32 + comp * 2 ^ 34)]
def sRa (t : Token) (m : List (Nat × Nat) := surf 0 0) (x : Raster := {}) : State :=
  inq [(rk, t)] { poke base m with regions := [rI 1], rasters := [(0, x)] }
def rc (code a b : Nat) : Token := ⟨BitVec.ofNat 256 (a + b * 2 ^ 64 + (code + 2 ^ 28) * 2 ^ 192), 2⟩
def primT (mask : Nat) : Token := ⟨lanes [0x4000, 0, mask, 0, 0, 0, 2 ^ 19, 9], 2⟩
def wR : Who := whoRaster 0 1
def bu : Raster := { jobs := [⟨[(1, 2, 3)]⟩] }
/-- Corners in units of a pixel: two triangles that share the edge from (0, 4) to (4, 4). -/
def cor (x y : Int) : Int × Int := (x * 2 ^ 149, y * 2 ^ 149)
def pixS : Pixel := (coverPixels (cor 0 4) (cor 4 4) (cor 0 8) 0 0).headD ⟨0, 0, 0, 0⟩
def pixT : Pixel := (coverPixels (cor 4 4) (cor 0 4) (cor 0 0) 0 0).headD ⟨0, 0, 0, 0⟩
def surfC : Surface := ⟨0x3000, 0x40000, 1, 1, 1, true⟩
def priC (flat : Bool) : Prim := ⟨0x4000, 8, 0, 0, 5, 2, flat, false, 9⟩
def viewC : List Nat := List.replicate 16 0
def sf (fmt : Nat) (comp : Bool) : Surface := ⟨0x3000, 0x40000, 1, 1, fmt, comp⟩
def sfS1 (s : State) : State := stateOfM (readSurfaceM wR 0x3000) s
def sfS2 (need : Need) (x : Surface) (s : State) : State := stateOfM (surfaceTilesM wR 0 need x) (sfS1 s)
def cS (code : Nat) (comp : Nat := 0) (b : Nat := 0x5000) : State := sRa (rc code 0x3000 b) (surf 0 comp)
def blks : List Nat := [0x40000].flatMap tileBlocks
def mS2 : State := sfS2 .load (sf 0 true) (cS 5 1)
def mXs : List Xlat := match ((bytesM wR .store 0x5000 16).exec mS2).1 with
  | .ok l => l
  | _ => []
def lS2 : State := sfS2 .store (sf 0 true) (cS 7 1)
def lS3 : State := stateOfM (probeM wR 0x5000 16) lS2
def sFe (a : Nat) : State := { sRa (rc 4 a 0) [(0x5000, 4 + 2 * 2 ^ 32 + 1 * 2 ^ 48), (0x5018, (5 * 64 + 3) * 2 ^ 16 + 2 ^ 30 + 2 ^ 32)] with barriers := [0x5000] }
def bk : Nat := linkKey 3 0 0
def frag (va : Nat) (l2 : Nat) (tag : Byte := 2) : Token := ⟨BitVec.ofNat 256 (va + l2 * 2 ^ 64 + 0x3F800000 * 2 ^ 224), tag⟩
def sBl (t : Token) : State := inq [(bk, t)] { base with regions := [rI 3] }
def wB : Who := whoBlend 0 1
def bi (tag : Nat) (pixel : Option Nat) (count : Nat := 3) : BlendItem := ⟨9, 4, 64, BitVec.ofNat 16 tag, 1, 2, 3, 4, pixel, 0x40004, count, 0x01020304, 1, 0, false, false⟩
def sBi (b : BlendItem) : State := { sBl (frag 0 0) with blendItems := [b], tileTags := [⟨4, 64, 7, 2, some 3⟩], rasters := [(0, { jobs := [⟨[(4, 64, 7)]⟩] })] }
def biK (op : Nat) (kill : Bool) : BlendItem := { bi 7 (some 0x40004) with op := op, kill := kill }
def alt19_1 := { sBi (biK 1 false) with poison := [0x8000] }
def sPk (ctx : Nat) : State := { base with regions := [{ placeRegion 0 0 with ctx := 1 }], flights := [⟨60, ⟨BitVec.ofNat 64 (2 ^ 58 * ctx), 0, 0, false, 0⟩, 0, 0, 3, [2], [2], 1, 1⟩] }
/-- Tokens at the three kinds of link: a wire, an island's, a port's. -/
def rStrike (ep opnd : Nat) : Region := { rI 0 with rtab := (Vector.replicate 128 0).set 0 (bindW 0 0 ep opnd) }
def sStrike (ep opnd : Nat) : State := { base with
  regions := [rStrike ep opnd]
  wires := [(0, { buffer := [⟨⟨7, 0⟩, 3, 0⟩], flight := [⟨⟨8, 0⟩, 12, 0⟩] })]
  links := [(0, { inq := [⟨⟨7, 0⟩, 3, 0⟩], fly := [⟨⟨8, 0⟩, 12, 0⟩] })], ports := [(0, { toMem := [⟨7, 0⟩], fly := [⟨⟨8, 0⟩, 12, 0⟩] })] }
def linkNo (ep opnd : Nat) : Nat := match (rStrike ep opnd).far 0 .north with
  | .island k => k
  | .port p => p
  | _ => 0
def alt19_2 := { sPk 1 with corrected := [(9, 4095)] }
def sDn : State := { sC with downBays := [0], prstRun := [0] }
def alt19_3 := { sDn with cores := [(256, CoreSt.sceipReset)] }
def sSec : State := { base with sectors := [(0, { armed := false, droops := 3 }), (1, { armed := true, droops := 3 })] }
def alt19_4 := { base with cyc := 5000, lastRefresh := 904 }
def alt19_5 := { base with cyc := 5000, lastRefresh := 905 }
def bt : BootInput := ⟨5, false, [1, 2, 3], 0, [4], 0⟩
def alt19_6 := { base with attst := 1 }
def sAtt : State := { base with attst := 1, fwImage := some [1, 2, 3], blobImage := some [4] }
def alt19_7 := { base with bootst := 2 }
def alt19_8 := { base with bootst := 2, rcvRun := true }
/-- A word at the pc of core 5, whose turn it is, that waits two cycles before. -/
def sT (words : List (Nat × Nat)) (a : Actor := .core 5) : State := { poke (withCore (fun x => { x with pc := 0x1000 }) sC) words with turns := [⟨2, a, false⟩] }
def tC1 : State := sT [(0x1000, 0x08610040)]
def bC1 : State := tC1.begin_ ⟨2, .core 5, false⟩ (.core 5)
def tX : State := sT [(0x1000, 0xC0241880)]
def bX : State := tX.begin_ ⟨2, .core 5, false⟩ (.core 5)
def fx (s : State) (n : Nat) (s0 : State) : State := stateOfM (accessM (whoCore s 5) .fetch ((s.core 5).pc + BitVec.ofNat 64 n) 4) s0
def rSt (static : Bool) : Region := { rE with elems := [(0, { elT with slots := (Vector.replicate 32 0).set 3 (wordOf (.addI32 ⟨0, 1, 2, 3, false, false, false, false⟩)), mode := if static then 0x80000000 else elT.mode })] }
def tE (r : Region) : State := { base with regions := [r], turns := [⟨1, .element 0 0, false⟩] }
def bE (r : Region) : State := (tE r).begin_ ⟨1, .element 0 0, false⟩ (.elem 0 0 0)
def rNo20 : Region := { rSt false with elems := [(0, { mode := 0, started := true, trigs := Vector.replicate 64 0xFF00FF00 })] }
def tV : State := { base with turns := [⟨1, .event (.windowCommit 3), false⟩] }

/-! ## The hypotheses of the statements -/

theorem test_meets_ArithmeticFiringsWriteResult :
    ((Fires sE rE 0 0) ∧ ((rE.elem 0).scalarSrc sE.cyc fXX.a = some (src elT 1)) ∧ ((rE.elem 0).scalarSrc sE.cyc fXX.b = some (src elT 2)) ∧
      ((scalarDest fXX.d).room (rE.elem 0) sE.cyc = true) ∧ (poisonLevel (src elT 1) (some (src elT 2)) = none)) ∧
    ((Fires sE rE 0 0) ∧ ((rE.elem 0).scalarSrc sE.cyc fSt.a = some (src elT 17)) ∧ ((scalarDest fSt.d).room (rE.elem 0) sE.cyc = true) ∧ (poisonLevel
      (src elT 17) none = none)) ∧
    ((Fires sE rE 0 0) ∧ ((rE.elem 0).scalarSrc sE.cyc fCh.a = some (src elT 16)) ∧ ((rE.elem 0).scalarSrc sE.cyc fCh.b = some (src elT 19)) ∧
      ((scalarDest fCh.d).room (rE.elem 0) sE.cyc = true) ∧ (poisonLevel (src elT 16) (some (src elT 19)) = none)) ∧
    ((Fires sE rE 0 0) ∧ ((rE.elem 0).scalarSrc sE.cyc fXX.a = some (src elT 1)) ∧ ((scalarDest fXX.d).room (rE.elem 0) sE.cyc = true) ∧ (poisonLevel
      (src elT 1) none = none)) :=
  ⟨⟨(by constructor <;> first | exact regionFound rfl rfl | decide +kernel), by decide +kernel⟩,
   ⟨(by constructor <;> first | exact regionFound rfl rfl | decide +kernel), by decide +kernel⟩,
   ⟨(by constructor <;> first | exact regionFound rfl rfl | decide +kernel), by decide +kernel⟩,
   ⟨(by constructor <;> first | exact regionFound rfl rfl | decide +kernel), by decide +kernel⟩⟩

theorem test_meets_VectorFiringWritesLanes :
    ((Fires sE rE 0 0) ∧ ((rE.elem 0).vectorSrc sE.cyc fV.a = some (vsrc elT 2)) ∧ ((rE.elem 0).vectorSrc sE.cyc fV.b = some (vsrc elT 3)) ∧
      ((vectorDest fV.d).room (rE.elem 0) sE.cyc = true) ∧ (poisonLevel (vsrc elT 2) (some (vsrc elT 3)) = none)) ∧
    ((Fires sE rE 0 0) ∧ ((rE.elem 0).scalarSrc sE.cyc fVc.a = some (src elT 16)) ∧ ((vectorDest fVc.d).room (rE.elem 0) sE.cyc = true) ∧ (poisonLevel
      (src elT 16) none = none)) ∧
    ((Fires sE rE 0 0) ∧ ((rE.elem 0).vectorSrc sE.cyc fVs.a = some (vsrc elT 16)) ∧ ((scalarDest fVs.d).room (rE.elem 0) sE.cyc = true) ∧
      (poisonLevel (vsrc elT 16) none = none)) ∧
    ((Fires sE rE 0 0) ∧ ((rE.elem 0).scalarSrc sE.cyc fV.a = some (src elT 2)) ∧ ((vectorDest fV.d).room (rE.elem 0) sE.cyc = true) ∧ (poisonLevel
      (src elT 2) none = none)) :=
  ⟨⟨(by constructor <;> first | exact regionFound rfl rfl | decide +kernel), by decide +kernel⟩,
   ⟨(by constructor <;> first | exact regionFound rfl rfl | decide +kernel), by decide +kernel⟩,
   ⟨(by constructor <;> first | exact regionFound rfl rfl | decide +kernel), by decide +kernel⟩,
   ⟨(by constructor <;> first | exact regionFound rfl rfl | decide +kernel), by decide +kernel⟩⟩

theorem test_meets_PoisonHeadPassesOrRaises :
    ((Fires sE rE 0 0) ∧ (Instr.addI32 fPo ∈ scalarPairs fPo) ∧ ((rE.elem 0).scalarSrc sE.cyc fPo.a = some (src elT 18)) ∧ ((rE.elem 0).scalarSrc
      sE.cyc fPo.b = some (src elT 0)) ∧ ((scalarDest fPo.d).room (rE.elem 0) sE.cyc = true) ∧ (poisonLevel (src elT 18) (some (src elT 0)) = some 3)) ∧
    ((Fires sE rE 0 0) ∧ (Instr.cvtE5m2F32 fPo ∈ scalarSingles fPo) ∧ ((rE.elem 0).scalarSrc sE.cyc fPo.a = some (src elT 18)) ∧ ((scalarDest
      fPo.d).room (rE.elem 0) sE.cyc = true) ∧ (poisonLevel (src elT 18) none = some 3)) ∧
    ((Fires sE rE 0 0) ∧ (Instr.vfmaF32 fPo ∈ vectorPairs fPo) ∧ ((rE.elem 0).vectorSrc sE.cyc fPo.a = some (vsrc elT 18)) ∧ ((rE.elem 0).vectorSrc
      sE.cyc fPo.b = some (vsrc elT 0)) ∧ ((vectorDest fPo.d).room (rE.elem 0) sE.cyc = true) ∧ (poisonLevel (vsrc elT 18) (some (vsrc elT 0)) = some
      3)) ∧
    ((Fires sE rE 0 0) ∧ (Instr.vins fPo ∈ scalarToVector fPo) ∧ ((rE.elem 0).scalarSrc sE.cyc fPo.a = some (src elT 18)) ∧ ((vectorDest fPo.d).room
      (rE.elem 0) sE.cyc = true) ∧ (poisonLevel (src elT 18) none = some 3)) ∧
    ((Fires sE rE 0 0) ∧ (Instr.vredsumF32 fPo ∈ vectorToScalar fPo) ∧ ((rE.elem 0).vectorSrc sE.cyc fPo.a = some (vsrc elT 18)) ∧ ((scalarDest
      fPo.d).room (rE.elem 0) sE.cyc = true) ∧ (poisonLevel (vsrc elT 18) none = some 3)) :=
  ⟨⟨(by constructor <;> first | exact regionFound rfl rfl | decide +kernel), by decide +kernel⟩,
   ⟨(by constructor <;> first | exact regionFound rfl rfl | decide +kernel), by decide +kernel⟩,
   ⟨(by constructor <;> first | exact regionFound rfl rfl | decide +kernel), by decide +kernel⟩,
   ⟨(by constructor <;> first | exact regionFound rfl rfl | decide +kernel), by decide +kernel⟩,
   ⟨(by constructor <;> first | exact regionFound rfl rfl | decide +kernel), by decide +kernel⟩⟩

theorem test_meets_ElementFiringFrame :
    ((∀ (r : Region), sNo.region? 0 = some r → (sNo.triggeredFires r 0 && trigOk (r.elem 0) sNo.cyc (slotTrig r 0 0)) = false) ∧ (wordKind
      (Instr.addI32 fXX) = WordKind.element) ∧ (sNo.act = Acting.elem 0 0 0)) ∧
    ((Fires sFull rFull 0 0) ∧ (Instr.addI32 fCh ∈ scalarPairs fCh) ∧ ((rFull.elem 0).scalarSrc sFull.cyc fCh.a = none ∨ (rFull.elem 0).scalarSrc
      sFull.cyc fCh.b = none ∨ (scalarDest fCh.d).room (rFull.elem 0) sFull.cyc = false)) ∧
    ((exec (Instr.addI32 fXX) sE = Host.Outcome.next (nextSt (exec (Instr.addI32 fXX) sE))) ∧ (wordKind (Instr.addI32 fXX) = WordKind.element) ∧
      (sE.act = Acting.elem 0 0 0)) ∧
    ((sE.region? rE.id = some rE) ∧ (exec (Instr.addI32 fXX) sE = Host.Outcome.next (nextSt (exec (Instr.addI32 fXX) sE))) ∧ (sE.act = Acting.elem
      rE.id 0 0)) ∧
    ((sE.region? rE.id = some rE) ∧ (exec (Instr.addI32 fXX) sE = Host.Outcome.next (nextSt (exec (Instr.addI32 fXX) sE))) ∧ (sE.act = Acting.elem
      rE.id 0 0) ∧ (rE.pend = []) ∧ (1 ≠ 0)) ∧
    ((sE.region? rE.id = some rE) ∧ (exec (Instr.addI32 fXX) sE = Host.Outcome.next (nextSt (exec (Instr.addI32 fXX) sE))) ∧ (sE.act = Acting.elem
      rE.id 0 0) ∧ (rE.pend = []) ∧ (fXX.dqa = false) ∧ (fXX.dqb = false)) ∧
    ((exec (Instr.addI32 fXX) sE = Host.Outcome.next (nextSt (exec (Instr.addI32 fXX) sE))) ∧ (wordKind (Instr.addI32 fXX) = WordKind.element) ∧
      (sE.act = Acting.elem 0 0 0) ∧ (7 ≠ 0)) :=
  ⟨⟨(by first | exact regionFound rfl rfl | decide +kernel), by decide +kernel⟩,
   ⟨(by constructor <;> first | exact regionFound rfl rfl | decide +kernel), by decide +kernel⟩,
   ⟨nextOk (by decide +kernel), by decide +kernel⟩,
   ⟨(by first | exact regionFound rfl rfl | decide +kernel), nextOk (by decide +kernel), by decide +kernel⟩,
   ⟨(by first | exact regionFound rfl rfl | decide +kernel), nextOk (by decide +kernel), by decide +kernel⟩,
   ⟨(by first | exact regionFound rfl rfl | decide +kernel), nextOk (by decide +kernel), by decide +kernel⟩,
   ⟨nextOk (by decide +kernel), by decide +kernel⟩⟩

theorem test_meets_PredicateTagAndSendFirings :
    ((Fires sE rE 0 0) ∧ ((rE.elem 0).scalarSrc sE.cyc
      { trig := 0, d := 0, a := 16, b := 27, dqa := true, dqb := false, sp := false, tp := false : ElemRec }.a = some (src elT 16)) ∧ ((rE.elem
      0).scalarSrc sE.cyc { trig := 0, d := 0, a := 16, b := 27, dqa := true, dqb := false, sp := false, tp := false : ElemRec }.b = some (src elT
      27))) ∧
    ((Fires sE rE 0 0) ∧ ((scalarDest { trig := 0, d := 28, a := 0, b := 0, dqa := false, dqb := false, sp := true, tp := false : ElemRec }.d).room
      (rE.elem 0) sE.cyc = true)) ∧
    ((Fires sE rE 0 0) ∧ ((rE.elem 0).scalarSrc sE.cyc
      { trig := 0, d := 16, a := 16, b := 19, dqa := true, dqb := true, sp := true, tp := false : ElemRec }.a = some (src elT 16)) ∧ ((rE.elem
      0).scalarSrc sE.cyc { trig := 0, d := 16, a := 16, b := 19, dqa := true, dqb := true, sp := true, tp := false : ElemRec }.b = some (src elT 19))
      ∧ ((scalarDest { trig := 0, d := 16, a := 16, b := 19, dqa := true, dqb := true, sp := true, tp := false : ElemRec }.d).room (rE.elem 0) sE.cyc
      = true)) ∧
    ((Fires sE rE 0 0) ∧ ((rE.elem 0).scalarSrc sE.cyc
      { trig := 0, d := 4, a := 18, b := 0, dqa := true, dqb := false, sp := true, tp := false : ElemRec }.a = some (src elT 18)) ∧ ((scalarDest
      { trig := 0, d := 4, a := 18, b := 0, dqa := true, dqb := false, sp := true, tp := false : ElemRec }.d).room (rE.elem 0) sE.cyc = true)) ∧
    ((Fires (sSend unicast) (rSend unicast) 0 0) ∧ (((rSend unicast).elem 0).scalarSrc (sSend unicast).cyc (fSend 31 18).a = some (src elT 18)) ∧
      (((rSend unicast).elem 0).stage = none) ∧ (((rSend unicast).elem 0).stageFreed ≤ (sSend unicast).cyc) ∧ (isPoison (src elT 18).tag = true)) ∧
    ((Fires (sSend 0) (rSend 0) 0 0) ∧ (((rSend 0).elem 0).scalarSrc (sSend 0).cyc (fSend 31 16).a = some (src elT 16)) ∧ (((rSend 0).elem 0).stage =
      none) ∧ (((rSend 0).elem 0).stageFreed ≤ (sSend 0).cyc) ∧ (isPoison (src elT 16).tag = false) ∧ (routeType ((rSend 0).route (BitVec.toNat (lane
      (src elT 16).val 0) % 128)) ≠ 1) ∧ (routeType ((rSend 0).route (BitVec.toNat (lane (src elT 16).val 0) % 128)) ≠ 2)) ∧
    ((Fires (sSend unicast) (rSend unicast) 0 0) ∧ (((rSend unicast).elem 0).scalarSrc (sSend unicast).cyc (fSend 31 16).a = some (src elT 16)) ∧
      (((rSend unicast).elem 0).stage = none) ∧ (((rSend unicast).elem 0).stageFreed ≤ (sSend unicast).cyc) ∧ (isPoison (src elT 16).tag = false) ∧
      (routeType ((rSend unicast).route (BitVec.toNat (lane (src elT 16).val 0) % 128)) = 1 ∨ routeType ((rSend unicast).route (BitVec.toNat (lane
      (src elT 16).val 0) % 128)) = 2) ∧ (0 < (firing (sSend unicast) (rSend unicast) 0 0).credits (BitVec.toNat (lane (src elT 16).val 0) % 128) ∨
      (rSend unicast).rsup.getD (BitVec.toNat (lane (src elT 16).val 0) % 128) 0 ≠ 0) ∧ ((sSend unicast).routeLive (rSend unicast) (BitVec.toNat (lane
      (src elT 16).val 0) % 128) = true)) :=
  ⟨⟨(by constructor <;> first | exact regionFound rfl rfl | decide +kernel), by decide +kernel⟩,
   ⟨(by constructor <;> first | exact regionFound rfl rfl | decide +kernel), by decide +kernel⟩,
   ⟨(by constructor <;> first | exact regionFound rfl rfl | decide +kernel), by decide +kernel⟩,
   ⟨(by constructor <;> first | exact regionFound rfl rfl | decide +kernel), by decide +kernel⟩,
   ⟨(by constructor <;> first | exact regionFound rfl rfl | decide +kernel), by decide +kernel⟩,
   ⟨(by constructor <;> first | exact regionFound rfl rfl | decide +kernel), by decide +kernel⟩,
   ⟨(by constructor <;> first | exact regionFound rfl rfl | decide +kernel), by decide +kernel⟩⟩

theorem test_meets_SteerAndMergeMoveTokens :
    ((Fires sE rE 0 0) ∧ ((rE.elem 0).scalarSrc sE.cyc
      { trig := 0, d := 17, a := 18, b := 16, dqa := true, dqb := true, sp := true, tp := false : ElemRec }.a = some (src elT 18)) ∧ ((rE.elem
      0).scalarSrc sE.cyc { trig := 0, d := 17, a := 18, b := 16, dqa := true, dqb := true, sp := true, tp := false : ElemRec }.b = some (src elT 16))
      ∧ (isPoison (src elT 18).tag = true)) ∧
    ((Fires sE rE 0 0) ∧ ((rE.elem 0).scalarSrc sE.cyc
      { trig := 0, d := 17, a := 19, b := 16, dqa := true, dqb := true, sp := true, tp := false : ElemRec }.a = some (src elT 19)) ∧ ((rE.elem
      0).scalarSrc sE.cyc { trig := 0, d := 17, a := 19, b := 16, dqa := true, dqb := true, sp := true, tp := false : ElemRec }.b = some (src elT 16))
      ∧ (isPoison (src elT 19).tag = false) ∧ (isStop (src elT 19).tag = false) ∧ ((rE.elem 0).outRoom sE.cyc (if lane (src elT 19).val 0 = 0 then
      BitVec.toNat { trig := 0, d := 17, a := 19, b := 16, dqa := true, dqb := true, sp := true, tp := false : ElemRec }.d - 16 else BitVec.toNat
      { trig := 0, d := 17, a := 19, b := 16, dqa := true, dqb := true, sp := true, tp := false : ElemRec }.d - 15) = true) ∧ (16 ≤ BitVec.toNat
      { trig := 0, d := 17, a := 19, b := 16, dqa := true, dqb := true, sp := true, tp := false : ElemRec }.d)) ∧
    ((Fires sE rE 0 0) ∧ ((rE.elem 0).scalarSrc sE.cyc
      { trig := 0, d := 17, a := 17, b := 17, dqa := true, dqb := true, sp := true, tp := false : ElemRec }.a = some (src elT 17)) ∧ ((rE.elem
      0).scalarSrc sE.cyc { trig := 0, d := 17, a := 17, b := 17, dqa := true, dqb := true, sp := true, tp := false : ElemRec }.b = some (src elT 17))
      ∧ (isStop (src elT 17).tag = true) ∧ ((rE.elem 0).outRoom sE.cyc (BitVec.toNat
      { trig := 0, d := 17, a := 17, b := 17, dqa := true, dqb := true, sp := true, tp := false : ElemRec }.d - 16) = true) ∧ ((rE.elem 0).outRoom
      sE.cyc (BitVec.toNat { trig := 0, d := 17, a := 17, b := 17, dqa := true, dqb := true, sp := true, tp := false : ElemRec }.d - 16 + 1) = true)) ∧
    ((Fires sE rE 0 0) ∧ ((rE.elem 0).scalarSrc sE.cyc
      { trig := 0, d := 16, a := 19, b := 16, dqa := true, dqb := true, sp := true, tp := false : ElemRec }.a = some (src elT 19)) ∧ ((rE.elem
      0).outRoom sE.cyc (BitVec.toNat { trig := 0, d := 16, a := 19, b := 16, dqa := true, dqb := true, sp := true, tp := false : ElemRec }.d - 16) =
      true) ∧ (16 ≤ BitVec.toNat { trig := 0, d := 16, a := 19, b := 16, dqa := true, dqb := true, sp := true, tp := false : ElemRec }.b) ∧ (isStop
      (src elT 19).tag = false) ∧ ((rE.elem 0).head sE.cyc (if lane (src elT 19).val 0 = 0 then BitVec.toNat
      { trig := 0, d := 16, a := 19, b := 16, dqa := true, dqb := true, sp := true, tp := false : ElemRec }.b - 16 else BitVec.toNat
      { trig := 0, d := 16, a := 19, b := 16, dqa := true, dqb := true, sp := true, tp := false : ElemRec }.b - 15) = some (tk 7 2))) ∧
    ((Fires sMerge rMerge 0 0) ∧ ((rMerge.elem 0).scalarSrc sMerge.cyc
      { trig := 0, d := 16, a := 18, b := 16, dqa := true, dqb := true, sp := true, tp := false : ElemRec }.a = some
      { val := 9, tag := 65, chan := some 2 : Src }) ∧ ((rMerge.elem 0).outRoom sMerge.cyc (BitVec.toNat
      { trig := 0, d := 16, a := 18, b := 16, dqa := true, dqb := true, sp := true, tp := false : ElemRec }.d - 16) = true) ∧ (16 ≤ BitVec.toNat
      { trig := 0, d := 16, a := 18, b := 16, dqa := true, dqb := true, sp := true, tp := false : ElemRec }.b) ∧ (isStop
      { val := 9, tag := 65, chan := some 2 : Src }.tag = true) ∧ ((rMerge.elem 0).head sMerge.cyc (BitVec.toNat
      { trig := 0, d := 16, a := 18, b := 16, dqa := true, dqb := true, sp := true, tp := false : ElemRec }.b - 16) = some (tk 7 65)) ∧ ((rMerge.elem
      0).head sMerge.cyc (BitVec.toNat { trig := 0, d := 16, a := 18, b := 16, dqa := true, dqb := true, sp := true, tp := false : ElemRec }.b - 16 +
      1) = some (tk 1 65))) :=
  ⟨⟨(by constructor <;> first | exact regionFound rfl rfl | decide +kernel), by decide +kernel⟩,
   ⟨(by constructor <;> first | exact regionFound rfl rfl | decide +kernel), by decide +kernel⟩,
   ⟨(by constructor <;> first | exact regionFound rfl rfl | decide +kernel), by decide +kernel⟩,
   ⟨(by constructor <;> first | exact regionFound rfl rfl | decide +kernel), by decide +kernel⟩,
   ⟨(by constructor <;> first | exact regionFound rfl rfl | decide +kernel), by decide +kernel⟩⟩

theorem test_meets_RepeatStopSweepFinFirings :
    ((Fires sE rE 0 0) ∧ ((rE.elem 0).scalarSrc sE.cyc (fRep 18 1 true).a = some (src elT 18)) ∧ ((scalarDest (fRep 18 1 true).d).room (rE.elem 0)
      sE.cyc = true) ∧ (isPoison (src elT 18).tag = true)) ∧
    ((Fires sE rE 0 0) ∧ ((rE.elem 0).scalarSrc sE.cyc (fRep 17 1 true).a = some (src elT 17)) ∧ ((scalarDest (fRep 17 1 true).d).room (rE.elem 0)
      sE.cyc = true) ∧ (isPoison (src elT 17).tag = false) ∧ (isStop (src elT 17).tag = true) ∧ ((fRep 17 1 true).tp = true)) ∧
    ((Fires sE rE 0 0) ∧ ((rE.elem 0).scalarSrc sE.cyc (fRep 16 9 true).a = some (src elT 16)) ∧ ((scalarDest (fRep 16 9 true).d).room (rE.elem 0)
      sE.cyc = true) ∧ (isPoison (src elT 16).tag = false) ∧ ((isStop (src elT 16).tag && (fRep 16 9 true).tp) = false) ∧ ((rE.elem 0).xr
      (BitVec.toNat (fRep 16 9 true).b) = 0)) ∧
    ((Fires sE rE 0 0) ∧ ((rE.elem 0).scalarSrc sE.cyc (fRep 16 1 true).a = some (src elT 16)) ∧ ((scalarDest (fRep 16 1 true).d).room (rE.elem 0)
      sE.cyc = true) ∧ (isPoison (src elT 16).tag = false) ∧ ((isStop (src elT 16).tag && (fRep 16 1 true).tp) = false) ∧ ((rE.elem 0).xr
      (BitVec.toNat (fRep 16 1 true).b) ≠ 0)) ∧
    ((Fires sE rE 0 0) ∧ ((rE.elem 0).scalarSrc sE.cyc
      { trig := 0, d := 16, a := 16, b := 3, dqa := true, dqb := false, sp := true, tp := false : ElemRec }.a = some (src elT 16)) ∧ ((rE.elem
      0).scalarSrc sE.cyc { trig := 0, d := 16, a := 16, b := 3, dqa := true, dqb := false, sp := true, tp := false : ElemRec }.b = some (src elT 3))
      ∧ ((scalarDest { trig := 0, d := 16, a := 16, b := 3, dqa := true, dqb := false, sp := true, tp := false : ElemRec }.d).room (rE.elem 0) sE.cyc
      = true) ∧ (poisonLevel (src elT 16) (some (src elT 3)) = none)) ∧
    ((Fires sE rE 0 0) ∧ ((rE.elem 0).scalarSrc sE.cyc
      { trig := 0, d := 16, a := 18, b := 3, dqa := true, dqb := false, sp := true, tp := true : ElemRec }.a = some (src elT 18)) ∧ ((rE.elem
      0).scalarSrc sE.cyc { trig := 0, d := 16, a := 18, b := 3, dqa := true, dqb := false, sp := true, tp := true : ElemRec }.b = some (src elT 3)) ∧
      ((scalarDest { trig := 0, d := 16, a := 18, b := 3, dqa := true, dqb := false, sp := true, tp := true : ElemRec }.d).room (rE.elem 0) sE.cyc =
      true) ∧ (poisonLevel (src elT 18) (some (src elT 3)) = some 3)) ∧
    ((Fires sE rE 0 0) ∧ ((rE.elem 0).scalarSrc sE.cyc
      { trig := 0, d := 0, a := 16, b := 0, dqa := true, dqb := false, sp := true, tp := false : ElemRec }.a = some (src elT 16))) ∧
    (Fires sE rE 0 0) :=
  ⟨⟨(by constructor <;> first | exact regionFound rfl rfl | decide +kernel), by decide +kernel⟩,
   ⟨(by constructor <;> first | exact regionFound rfl rfl | decide +kernel), by decide +kernel⟩,
   ⟨(by constructor <;> first | exact regionFound rfl rfl | decide +kernel), by decide +kernel⟩,
   ⟨(by constructor <;> first | exact regionFound rfl rfl | decide +kernel), by decide +kernel⟩,
   ⟨(by constructor <;> first | exact regionFound rfl rfl | decide +kernel), by decide +kernel⟩,
   ⟨(by constructor <;> first | exact regionFound rfl rfl | decide +kernel), by decide +kernel⟩,
   ⟨(by constructor <;> first | exact regionFound rfl rfl | decide +kernel), by decide +kernel⟩,
   (by constructor <;> first | exact regionFound rfl rfl | decide +kernel)⟩

theorem test_meets_LoadFiringsIssueAccesses :
    ((Fires sLd rLd 0 0) ∧ ((rLd.elem 0).scalarSrc sLd.cyc (fLd 19 0).b = some { val := 8, tag := 5, chan := some 3 }) ∧ (rLd.portFree sLd.cyc 0 =
      true) ∧ ((rLd.elem 0).inRoom sLd.cyc (fLd 19 0).rsp.toNat ≠ 0)) ∧
    ((Fires sLd rLd 0 0) ∧ ((rLd.elem 0).scalarSrc sLd.cyc (fLd 19 0).b = some { val := 8, tag := 5, chan := some 3 }) ∧ (rLd.portFree sLd.cyc 0 =
      true) ∧ (2 ≤ (rLd.elem 0).inRoom sLd.cyc (fLd 19 0).rsp.toNat)) ∧
    ((List.find? (fun p => p.elem == 0 && p.slot == 0) rLd.applied = none) ∧ ((List.find? (fun p => p.elem == 0 && p.slot == 0) rLd.applied = none) ∧
      (rLd.pend = []) ∧ ((mkAcc rLd 0 0 10 accR).halves ≠ 0) ∧ (accR.rsp < 4))) :=
  ⟨⟨(by constructor <;> first | exact regionFound rfl rfl | decide +kernel), by decide +kernel⟩,
   ⟨(by constructor <;> first | exact regionFound rfl rfl | decide +kernel), by decide +kernel⟩,
   by decide +kernel⟩

theorem test_meets_StoreAndAtomicFiringsIssue :
    ((Fires sLd rLd 0 0) ∧ ((rLd.elem 0).scalarSrc sLd.cyc (fLd 19 2).b = some { val := 8, tag := 5, chan := some 3 }) ∧ (rLd.portFree sLd.cyc 0 =
      true) ∧ ((fLd 19 2).ord = 2 → rLd.unbufOk sLd.cyc = true)) ∧
    ((Fires sLd rLd 0 0) ∧ (rLd.portFree sLd.cyc 0 = true) ∧ (rLd.unbufOk sLd.cyc = true)) ∧
    ((Fires sLd rLd 0 0) ∧ ((rLd.elem 0).scalarSrc sLd.cyc (fLd 19 0).b = some { val := 8, tag := 5, chan := some 3 }) ∧ (rLd.portFree sLd.cyc 0 =
      true) ∧ (rLd.unbufOk sLd.cyc = true)) ∧
    (Fires sLd rLd 0 0) ∧
    ((Fires sLd rLd 0 0) ∧ (rLd.portFree sLd.cyc 0 = true) ∧ (rLd.unbufOk sLd.cyc = true) ∧ (4 / 4 ≤ (rLd.elem 0).inRoom sLd.cyc fAt.rsp.toNat)) :=
  ⟨⟨(by constructor <;> first | exact regionFound rfl rfl | decide +kernel), by decide +kernel⟩,
   ⟨(by constructor <;> first | exact regionFound rfl rfl | decide +kernel), by decide +kernel⟩,
   ⟨(by constructor <;> first | exact regionFound rfl rfl | decide +kernel), by decide +kernel⟩,
   (by constructor <;> first | exact regionFound rfl rfl | decide +kernel),
   ⟨(by constructor <;> first | exact regionFound rfl rfl | decide +kernel), by decide +kernel⟩⟩

theorem test_meets_StaticElementOperates :
    ((sStat.region? rStat.id = some rStat) ∧ (0 < 4 * rStat.quads) ∧ ((rStat.elem 0).isStatic = true) ∧ ((rStat.elem 0).isMatrix = false) ∧
      (sStat.elemFires rStat 0 = true) ∧ ((rStat.elem 0).staticSrc sStat.cyc (stA (rStat.elem 0).static) = some ((elSta.staticSrc 10 1).getD
      { val := 0, tag := 0, chan := none })) ∧ ((rStat.elem 0).staticSrc sStat.cyc (stB (rStat.elem 0).static) = some ((elSta.staticSrc 10 5).getD
      { val := 0, tag := 0, chan := none })) ∧ (∀ k ∈ [stPassA (rStat.elem 0).static, stPassB (rStat.elem 0).static, stRes (rStat.elem 0).static],
      (rStat.elem 0).roomOn sStat.cyc k [stPassA (rStat.elem 0).static, stPassB (rStat.elem 0).static, stRes (rStat.elem 0).static] = true)) ∧
    ((poisonLevel (sv 9 195) (if true = true then some (sv 8 193) else none) = some 3) ∧ ((poisonLevel (sv 9 65) (if true = true then some (sv 8 66)
      else none) = none) ∧ (isStop (sv 9 65).tag = true)) ∧ ((poisonLevel (sv 9 2) (if true = true then some (sv 8 66) else none) = none) ∧ (isStop
      (sv 9 2).tag = false) ∧ (isStop (sv 8 66).tag = true)) ∧ ((poisonLevel (sv 9 2) (if true = true then some (sv 4294967295 1) else none) = none) ∧
      (isStop (sv 9 2).tag = false) ∧ (isStop (sv 4294967295 1).tag = false))) ∧
    (((poisonLevel (sv 1065353216 2) (if true = true then some (sv 1065353216 1) else none) = none) ∧ (isStop (sv 1065353216 2).tag = false) ∧ (isStop
      (sv 1065353216 1).tag = false)) ∧ ((poisonLevel (sv 1006648320 2) (if true = true then some (sv 1006648320 1) else none) = none) ∧ (isStop (sv
      1006648320 2).tag = false) ∧ (isStop (sv 1006648320 1).tag = false) ∧ (opcodeOf (packedPairs[0].1 fXX) = opcodeOf (Instr.faddF16x2 fXX))) ∧
      ((poisonLevel (sv 9 2) (if false = true then some (sv 8 1) else none) = none) ∧ (isStop (sv 9 2).tag = false) ∧ (opcodeOf (integerSingles[0].1
      fXX) = opcodeOf (Instr.mov fXX))) ∧ ((poisonLevel (sv 1065353216 2) (if false = true then some (sv 8 1) else none) = none) ∧ (isStop (sv
      1065353216 2).tag = false) ∧ (opcodeOf (floatSingles[0].1 fXX) = opcodeOf (Instr.fabsF32 fXX)))) :=
  ⟨⟨(by first | exact regionFound rfl rfl | decide +kernel), by decide +kernel⟩,
   by decide +kernel,
   by decide +kernel⟩

theorem test_meets_SequencerArithmetic :
    (CoreReady sC 5 [8, 1] [9]) ∧
    (CoreReady sC 5 [1] [9]) ∧
    (CoreReady sC 5 [8] [9]) ∧
    (CoreReady sC 5 [] [9]) ∧
    (CoreReady sC 5 [9] [9]) :=
  ⟨(by constructor <;> first | exact regionFound rfl rfl | decide +kernel),
   (by constructor <;> first | exact regionFound rfl rfl | decide +kernel),
   (by constructor <;> first | exact regionFound rfl rfl | decide +kernel),
   (by constructor <;> first | exact regionFound rfl rfl | decide +kernel),
   (by constructor <;> first | exact regionFound rfl rfl | decide +kernel)⟩

theorem test_meets_BranchesAndLinksSetPc :
    (CoreReady sC 5 [] []) ∧
    (CoreReady sC 5 [7] []) ∧
    (CoreReady sC 5 [] [9]) ∧
    (CoreReady sC 5 [3] [9]) :=
  ⟨(by constructor <;> first | exact regionFound rfl rfl | decide +kernel),
   (by constructor <;> first | exact regionFound rfl rfl | decide +kernel),
   (by constructor <;> first | exact regionFound rfl rfl | decide +kernel),
   (by constructor <;> first | exact regionFound rfl rfl | decide +kernel)⟩

theorem test_meets_SequencerRegisterFrame :
    ((CoreReady sC 5 [8, 1] [9]) ∧ (exec (Instr.addI64 9 8 1) sC = Host.Outcome.next (nextSt (exec (Instr.addI64 9 8 1) sC))) ∧ ((∃ p ∈ seqPairs, ∃ a
      b, Instr.addI64 (9 : Reg) (8 : Reg) (1 : Reg) = p.1 (9 : Reg) a b ∧ [(8 : Reg), (1 : Reg)] = [a, b]) ∨ (∃ p ∈ seqImmediates, ∃ a k, Instr.addI64
      (9 : Reg) (8 : Reg) (1 : Reg) = p.1 (9 : Reg) a k ∧ [(8 : Reg), (1 : Reg)] = [a]) ∨ (∃ p ∈ seqShifts, ∃ a n, Instr.addI64 (9 : Reg) (8 : Reg) (1
      : Reg) = p.1 (9 : Reg) a n ∧ [(8 : Reg), (1 : Reg)] = [a]) ∨ (∃ q k, Instr.addI64 (9 : Reg) (8 : Reg) (1 : Reg) = Instr.movz (9 : Reg) q k ∧ [(8
      : Reg), (1 : Reg)] = []) ∨ (∃ q k, Instr.addI64 (9 : Reg) (8 : Reg) (1 : Reg) = Instr.movk (9 : Reg) q k ∧ [(8 : Reg), (1 : Reg)] = [(9 : Reg)])
      ∨ (∃ p ∈ seqBranches, ∃ r o, Instr.addI64 (9 : Reg) (8 : Reg) (1 : Reg) = p.1 r o ∧ (9 : Reg) = (0 : Reg) ∧ [(8 : Reg), (1 : Reg)] = [r]) ∨ (∃
      o, Instr.addI64 (9 : Reg) (8 : Reg) (1 : Reg) = Instr.br o ∧ (9 : Reg) = (0 : Reg) ∧ [(8 : Reg), (1 : Reg)] = []) ∨ (∃ o, Instr.addI64 (9 : Reg)
      (8 : Reg) (1 : Reg) = Instr.jal (9 : Reg) o ∧ [(8 : Reg), (1 : Reg)] = []) ∨ ∃ a k, Instr.addI64 (9 : Reg) (8 : Reg) (1 : Reg) = Instr.jalr (9 :
      Reg) a k ∧ [(8 : Reg), (1 : Reg)] = [a] ∧ BitVec.toNat ((sC.core (5 : ℕ)).gr a + BitVec.signExtend (64 : ℕ) k) % (4 : ℕ) = (0 : ℕ)) ∧ ((8 : Reg)
      ≠ (9 : Reg))) ∧
    ((CoreReady sC 5 [8, 1] [9]) ∧ (exec (Instr.addI64 9 8 1) sC = Host.Outcome.next (nextSt (exec (Instr.addI64 9 8 1) sC))) ∧ ((∃ p ∈ seqPairs, ∃ a
      b, Instr.addI64 (9 : Reg) (8 : Reg) (1 : Reg) = p.1 (9 : Reg) a b ∧ [(8 : Reg), (1 : Reg)] = [a, b]) ∨ (∃ p ∈ seqImmediates, ∃ a k, Instr.addI64
      (9 : Reg) (8 : Reg) (1 : Reg) = p.1 (9 : Reg) a k ∧ [(8 : Reg), (1 : Reg)] = [a]) ∨ (∃ p ∈ seqShifts, ∃ a n, Instr.addI64 (9 : Reg) (8 : Reg) (1
      : Reg) = p.1 (9 : Reg) a n ∧ [(8 : Reg), (1 : Reg)] = [a]) ∨ (∃ q k, Instr.addI64 (9 : Reg) (8 : Reg) (1 : Reg) = Instr.movz (9 : Reg) q k ∧ [(8
      : Reg), (1 : Reg)] = []) ∨ (∃ q k, Instr.addI64 (9 : Reg) (8 : Reg) (1 : Reg) = Instr.movk (9 : Reg) q k ∧ [(8 : Reg), (1 : Reg)] = [(9 : Reg)])
      ∨ (∃ p ∈ seqBranches, ∃ r o, Instr.addI64 (9 : Reg) (8 : Reg) (1 : Reg) = p.1 r o ∧ (9 : Reg) = (0 : Reg) ∧ [(8 : Reg), (1 : Reg)] = [r]) ∨ (∃
      o, Instr.addI64 (9 : Reg) (8 : Reg) (1 : Reg) = Instr.br o ∧ (9 : Reg) = (0 : Reg) ∧ [(8 : Reg), (1 : Reg)] = []) ∨ (∃ o, Instr.addI64 (9 : Reg)
      (8 : Reg) (1 : Reg) = Instr.jal (9 : Reg) o ∧ [(8 : Reg), (1 : Reg)] = []) ∨ ∃ a k, Instr.addI64 (9 : Reg) (8 : Reg) (1 : Reg) = Instr.jalr (9 :
      Reg) a k ∧ [(8 : Reg), (1 : Reg)] = [a] ∧ BitVec.toNat ((sC.core (5 : ℕ)).gr a + BitVec.signExtend (64 : ℕ) k) % (4 : ℕ) = (0 : ℕ)) ∧ (256 ≠ 5)) ∧
    ((CoreReady sC 5 [8, 1] [9]) ∧ (exec (Instr.addI64 9 8 1) sC = Host.Outcome.next (nextSt (exec (Instr.addI64 9 8 1) sC))) ∧ ((∃ p ∈ seqPairs, ∃ a
      b, Instr.addI64 (9 : Reg) (8 : Reg) (1 : Reg) = p.1 (9 : Reg) a b ∧ [(8 : Reg), (1 : Reg)] = [a, b]) ∨ (∃ p ∈ seqImmediates, ∃ a k, Instr.addI64
      (9 : Reg) (8 : Reg) (1 : Reg) = p.1 (9 : Reg) a k ∧ [(8 : Reg), (1 : Reg)] = [a]) ∨ (∃ p ∈ seqShifts, ∃ a n, Instr.addI64 (9 : Reg) (8 : Reg) (1
      : Reg) = p.1 (9 : Reg) a n ∧ [(8 : Reg), (1 : Reg)] = [a]) ∨ (∃ q k, Instr.addI64 (9 : Reg) (8 : Reg) (1 : Reg) = Instr.movz (9 : Reg) q k ∧ [(8
      : Reg), (1 : Reg)] = []) ∨ (∃ q k, Instr.addI64 (9 : Reg) (8 : Reg) (1 : Reg) = Instr.movk (9 : Reg) q k ∧ [(8 : Reg), (1 : Reg)] = [(9 : Reg)])
      ∨ (∃ p ∈ seqBranches, ∃ r o, Instr.addI64 (9 : Reg) (8 : Reg) (1 : Reg) = p.1 r o ∧ (9 : Reg) = (0 : Reg) ∧ [(8 : Reg), (1 : Reg)] = [r]) ∨ (∃
      o, Instr.addI64 (9 : Reg) (8 : Reg) (1 : Reg) = Instr.br o ∧ (9 : Reg) = (0 : Reg) ∧ [(8 : Reg), (1 : Reg)] = []) ∨ (∃ o, Instr.addI64 (9 : Reg)
      (8 : Reg) (1 : Reg) = Instr.jal (9 : Reg) o ∧ [(8 : Reg), (1 : Reg)] = []) ∨ ∃ a k, Instr.addI64 (9 : Reg) (8 : Reg) (1 : Reg) = Instr.jalr (9 :
      Reg) a k ∧ [(8 : Reg), (1 : Reg)] = [a] ∧ BitVec.toNat ((sC.core (5 : ℕ)).gr a + BitVec.signExtend (64 : ℕ) k) % (4 : ℕ) = (0 : ℕ))) ∧
    ((CoreReady sC 5 [9] [9]) ∧ (BitVec.toNat ((sC.core (5 : ℕ)).gr (9 : Reg) + BitVec.signExtend (64 : ℕ) (0 : BitVec (16 : ℕ))) % (4 : ℕ) ≠ (0 :
      ℕ))) ∧
    ((256 ≠ 5) ∧ (({ reader := Reader.core 6, addr := 1, size := 2, req := 8, answer := none } ∈ sRr.remoteReads) ∧
      ({ reader := Reader.core 6, addr := 1, size := 2, req := 8, answer := none : RemRead }.reader ≠ Reader.core 5))) :=
  ⟨⟨(by constructor <;> first | exact regionFound rfl rfl | decide +kernel), nextOk (by decide +kernel), by decide +kernel⟩,
   ⟨(by constructor <;> first | exact regionFound rfl rfl | decide +kernel), nextOk (by decide +kernel), by decide +kernel⟩,
   ⟨(by constructor <;> first | exact regionFound rfl rfl | decide +kernel), nextOk (by decide +kernel), by decide +kernel⟩,
   ⟨(by constructor <;> first | exact regionFound rfl rfl | decide +kernel), by decide +kernel⟩,
   by decide +kernel⟩

theorem test_meets_SequencerLoadsAndStores :
    ((CoreReady sDef 5 [3] [9]) ∧ (CoreAccess sDef 5 Need.load ((sDef.core 5).gr 3) 8 (normal 8192) (accS sDef 5 Need.load 8192 8)) ∧ ((normal
      8192).mt = 0) ∧ ((accS sDef 5 Need.load 8192 8).mustHold 5 (sDef.coreCtx 5) ((sDef.core 5).gr 3) (normal 8192) 8 = true)) ∧
    ((CoreReady sDef 5 [8, 3] []) ∧ (CoreAccess sDef (5 : ℕ) Need.store ((sDef.core (5 : ℕ)).gr (3 : Reg) + BitVec.signExtend (64 : ℕ) (0 : BitVec (12
      : ℕ))) (2 : ℕ) (normal (8192 : ℕ)) (accS sDef (5 : ℕ) Need.store (8192 : DWord) (2 : ℕ))) ∧ (Option.isSome (α := ℕ) none = true → drained
      (sDef.core (5 : ℕ)) = true) ∧ ((normal 8192).mt = 0) ∧ ((accS sDef (5 : ℕ) Need.store (8192 : DWord) (2 : ℕ)).mustHold (5 : ℕ) (sDef.coreCtx (5
      : ℕ)) ((sDef.core (5 : ℕ)).gr (3 : Reg) + BitVec.signExtend (64 : ℕ) (0 : BitVec (12 : ℕ))) (normal (8192 : ℕ)) (2 : ℕ) = true)) ∧
    ((CoreReady sC 5 [3] [9]) ∧ (CoreAccess sC (5 : ℕ) Need.load ((sC.core (5 : ℕ)).gr (3 : Reg) + BitVec.signExtend (64 : ℕ) (0 : BitVec (12 : ℕ)))
      (1 : ℕ) (normal (8192 : ℕ)) (accS sC (5 : ℕ) Need.load (8192 : DWord) (1 : ℕ))) ∧ (Here (normal 8192) (accS sC 5 Need.load 8192 1)) ∧ ((accS sC
      (5 : ℕ) Need.load (8192 : DWord) (1 : ℕ)).mustHold (5 : ℕ) (sC.coreCtx (5 : ℕ)) ((sC.core (5 : ℕ)).gr (3 : Reg) + BitVec.signExtend (64 : ℕ) (0
      : BitVec (12 : ℕ))) (normal (8192 : ℕ)) (1 : ℕ) = false)) ∧
    ((CoreReady sC 5 [5] [9]) ∧ (CoreAccess sC (5 : ℕ) Need.load ((sC.core (5 : ℕ)).gr (5 : Reg) + BitVec.signExtend (64 : ℕ) (0 : BitVec (12 : ℕ)))
      (8 : ℕ) (device (1030792151048 : ℕ)) (accS sC (5 : ℕ) Need.load (1030792151048 : DWord) (8 : ℕ))) ∧ ((device 1030792151048).mt = 2)) ∧
    ((CoreReady sC 5 [4] [9]) ∧ (CoreAccess sC (5 : ℕ) Need.load ((sC.core (5 : ℕ)).gr (4 : Reg) + BitVec.signExtend (64 : ℕ) (0 : BitVec (12 : ℕ)))
      (8 : ℕ) (normal (1099511627840 : ℕ)) (accS sC (5 : ℕ) Need.load (68719476800 : DWord) (8 : ℕ))) ∧ (Away (normal 1099511627840) (accS sC 5
      Need.load 68719476800 8)) ∧ ((accS sC (5 : ℕ) Need.load (68719476800 : DWord) (8 : ℕ)).mustHold (5 : ℕ) (sC.coreCtx (5 : ℕ)) ((sC.core (5 :
      ℕ)).gr (4 : Reg) + BitVec.signExtend (64 : ℕ) (0 : BitVec (12 : ℕ))) (normal (1099511627840 : ℕ)) (8 : ℕ) = false)) ∧
    ((CoreReady sC 5 [9] [9]) ∧ ((checkM (whoCore sC (5 : ℕ)) Need.load ((sC.core (5 : ℕ)).gr (9 : Reg) + BitVec.signExtend (64 : ℕ) (0 : BitVec (12 :
      ℕ))) (8 : ℕ)).exec sC = (Except.error (Stop.raise (10 : Byte) (8193 : DWord)), sC)) ∧ (((sC.core 5).pend.any fun q => q.acq) = false)) ∧
    ((CoreReady sC 5 [8, 3] []) ∧ (CoreAccess sC (5 : ℕ) Need.store ((sC.core (5 : ℕ)).gr (3 : Reg) + BitVec.signExtend (64 : ℕ) (0 : BitVec (12 :
      ℕ))) (2 : ℕ) (normal (8192 : ℕ)) (accS sC (5 : ℕ) Need.store (8192 : DWord) (2 : ℕ))) ∧ (Here (normal 8192) (accS sC 5 Need.store 8192 2)) ∧
      (Option.isSome (α := ℕ) none = true → drained (sC.core (5 : ℕ)) = true) ∧ ((accS sC (5 : ℕ) Need.store (8192 : DWord) (2 : ℕ)).mustHold (5 : ℕ)
      (sC.coreCtx (5 : ℕ)) ((sC.core (5 : ℕ)).gr (3 : Reg) + BitVec.signExtend (64 : ℕ) (0 : BitVec (12 : ℕ))) (normal (8192 : ℕ)) (2 : ℕ) = false) ∧
      ((accS sC 5 Need.store 8192 2).writeHeld (lowOf (normal 8192).pa) 2 false = false)) ∧
    ((CoreReady sC 5 [8, 5] []) ∧ (CoreAccess sC (5 : ℕ) Need.store ((sC.core (5 : ℕ)).gr (5 : Reg) + BitVec.signExtend (64 : ℕ) (0 : BitVec (12 :
      ℕ))) (4 : ℕ) (device (1030792151048 : ℕ)) (accS sC (5 : ℕ) Need.store (1030792151048 : DWord) (4 : ℕ))) ∧ (Option.isSome (α := ℕ) none = true →
      drained (sC.core (5 : ℕ)) = true) ∧ ((device 1030792151048).mt = 2)) ∧
    ((CoreReady sC 5 [8, 4] []) ∧ (CoreAccess sC (5 : ℕ) Need.store ((sC.core (5 : ℕ)).gr (4 : Reg) + BitVec.signExtend (64 : ℕ) (0 : BitVec (12 :
      ℕ))) (8 : ℕ) (normal (1099511627840 : ℕ)) (accS sC (5 : ℕ) Need.store (68719476800 : DWord) (8 : ℕ))) ∧ (Away (normal 1099511627840) (accS sC 5
      Need.store 68719476800 8)) ∧ (Option.isSome (α := ℕ) none = true → drained (sC.core (5 : ℕ)) = true) ∧ ((accS sC (5 : ℕ) Need.store (68719476800
      : DWord) (8 : ℕ)).mustHold (5 : ℕ) (sC.coreCtx (5 : ℕ)) ((sC.core (5 : ℕ)).gr (4 : Reg) + BitVec.signExtend (64 : ℕ) (0 : BitVec (12 : ℕ)))
      (normal (1099511627840 : ℕ)) (8 : ℕ) = false)) ∧
    ((CoreReady sC 5 [8, 9] []) ∧ ((checkM (whoCore sC (5 : ℕ)) Need.store ((sC.core (5 : ℕ)).gr (9 : Reg) + BitVec.signExtend (64 : ℕ) (0 : BitVec
      (12 : ℕ))) (8 : ℕ)).exec sC = (Except.error (Stop.raise (10 : Byte) (8193 : DWord)), sC)) ∧ (Option.isSome (α := ℕ) none = true → drained
      (sC.core (5 : ℕ)) = true) ∧ (((sC.core 5).pend.any fun q => q.acq) = false)) ∧
    (((translateM wE Need.load 274877906944).exec sWk = (Except.error (Stop.raise 11 274877906944), sWk)) ∧ (canonical 274877906944 = true) ∧
      (BitVec.toNat (274877906944 : DWord) % (8 : ℕ) = (0 : ℕ))) ∧
    (((translateM wE Need.load 1030792151048).exec sWk = (Except.ok (device 1030792151048), stateOfM (translateM wE Need.load 1030792151048) sWk)) ∧
      (canonical 1030792151048 = true) ∧ (BitVec.toNat (1030792151048 : DWord) % (8 : ℕ) = (0 : ℕ)) ∧ (targetOk wE.agent (device 1030792151048) =
      false)) ∧
    (((translateM wE Need.store 8192).exec sWk = (Except.ok (normal 8192), stateOfM (translateM wE Need.store 8192) sWk)) ∧ (canonical 8192 = true) ∧
      (BitVec.toNat (8192 : DWord) % (8 : ℕ) = (0 : ℕ)) ∧ (targetOk wE.agent (normal 8192) = true) ∧ ((normal 8192).mt = 0)) ∧
    (((translateM wE Need.load 1073807360).exec sTq = (Except.ok { pa := 65536, mt := 1, ver := false }, sTq)) ∧ (canonical 1073807360 = true) ∧
      (BitVec.toNat (1073807360 : DWord) % (8 : ℕ) = (0 : ℕ)) ∧ (targetOk wE.agent { pa := 65536, mt := 1, ver := false } = true) ∧
      ({ pa := 65536, mt := 1, ver := false : Xlat }.mt = 1) ∧ (0 < 8) ∧ (sTq.regionOfQuad ({ pa := 65536, mt := 1, ver := false : Xlat }.pa / 2 ^ 16)
      = none)) ∧
    (((translateM wE Need.load 1073807360).exec (sTq2 2) = (Except.ok { pa := 65536, mt := 1, ver := false }, sTq2 2)) ∧ (canonical 1073807360 = true)
      ∧ (BitVec.toNat (1073807360 : DWord) % (8 : ℕ) = (0 : ℕ)) ∧ (targetOk wE.agent { pa := 65536, mt := 1, ver := false } = true) ∧
      ({ pa := 65536, mt := 1, ver := false : Xlat }.mt = 1) ∧ (0 < 8) ∧ ((sTq2 2).regionOfQuad ({ pa := 65536, mt := 1, ver := false : Xlat }.pa / 2
      ^ 16) = some (rE1 2)) ∧ ((rE1 2).ctx ≠ wE.ctx)) ∧
    (((translateM wE Need.load 1073807360).exec (sTq2 1) = (Except.ok { pa := 65536, mt := 1, ver := false }, sTq2 1)) ∧ (canonical 1073807360 = true)
      ∧ (BitVec.toNat (1073807360 : DWord) % (8 : ℕ) = (0 : ℕ)) ∧ (targetOk wE.agent { pa := 65536, mt := 1, ver := false } = true) ∧
      ({ pa := 65536, mt := 1, ver := false : Xlat }.mt = 1) ∧ (0 < 8) ∧ ((sTq2 1).regionOfQuad ({ pa := 65536, mt := 1, ver := false : Xlat }.pa / 2
      ^ 16) = some (rE1 1)) ∧ ((rE1 1).ctx = wE.ctx) ∧ (some (rE1 1).id ≠ wE.region)) ∧
    (((translateM wE Need.load 1073807352).exec sTq = (Except.ok { pa := 65528, mt := 1, ver := false }, sTq)) ∧ (canonical 1073807352 = true) ∧
      (BitVec.toNat (1073807352 : DWord) % (8 : ℕ) = (0 : ℕ)) ∧ (targetOk wE.agent { pa := 65528, mt := 1, ver := false } = true) ∧
      ({ pa := 65528, mt := 1, ver := false : Xlat }.mt = 1) ∧ (0 < 8) ∧ (sTq.regionOfQuad ({ pa := 65528, mt := 1, ver := false : Xlat }.pa / 2 ^ 16)
      = some rE) ∧ (rE.ctx = wE.ctx) ∧ (some rE.id = wE.region) ∧ ({ pa := 65528, mt := 1, ver := false : Xlat }.pa / 2 ^ 16 =
      ({ pa := 65528, mt := 1, ver := false : Xlat }.pa + 8 - 1) / 2 ^ 16)) ∧
    ((canonical 9223372036854775808 = false) ∧ ((canonical 8193 = true) ∧ (BitVec.toNat (8193 : DWord) % (8 : ℕ) ≠ (0 : ℕ))) ∧ ((normal 8192).mt = 0)
      ∧ ({ pa := 65528, mt := 1, ver := false : Xlat }.mt = 1)) ∧
    (((device 1030792151048).mt = 2) ∧ ((canonical 1073807352 = true) ∧ (sTq.tlbFind wE.bay wE.ctx 1073807352 = some tlbQ) ∧ (checkPerm tlbQ.leaf
      Need.load = none)) ∧ ((canonical 1073807352 = true) ∧ (sTqr.tlbFind wE.bay wE.ctx 1073807352 = some tlbR) ∧ (checkPerm tlbR.leaf Need.load =
      some Cause.permFault)) ∧ ((canonical 274877906944 = true) ∧ (sWk.tlbFind wE.bay wE.ctx 274877906944 = none) ∧ (sWk.walk wE.ctx 274877906944 =
      Walked.bad Cause.pageFault 274877906944))) ∧
    (((canonical 8192 = true) ∧ (sWk.tlbFind wE.bay wE.ctx 8192 = none) ∧ (sWk.walk wE.ctx 8192 = Walked.leaf 16781312 1523) ∧ (BitVec.getLsbD (1523 :
      DWord) (10 : ℕ) = true ∨ sWk.writeHeld (16781312 : ℕ) (8 : ℕ) false = false) ∧ (checkPerm (1523 ||| 1024) Need.load = none)) ∧ ((canonical 8192
      = true) ∧ (sWk.tlbFind wE.bay wE.ctx 8192 = none) ∧ (sWk.walk wE.ctx 8192 = Walked.leaf 16781312 1523) ∧ (BitVec.getLsbD (1523 : DWord) (10 : ℕ)
      = true ∨ sWk.writeHeld (16781312 : ℕ) (8 : ℕ) false = false) ∧ (checkPerm (1523 ||| 1024) Need.vld = some Cause.notVersioned)) ∧ ((sWk.ctxOf
      9).root = none) ∧ ((sWk.ctxOf 1).root = some placeRoot)) ∧
    (((0 ≤ 5) ∧ (sWkP.poisonedAt (12288 + 8 * vaIndex 8192 0) 8 = true)) ∧ ((0 ≤ 5) ∧ (sWk.poisonedAt (12288 + 8 * vaIndex 8192 0) 8 = false) ∧ (bit
      (sWk.fabNat (12288 + 8 * vaIndex 8192 0) 8) 0 = false)) ∧ ((0 ≤ 5) ∧ ((sPt [(12304, 1)]).poisonedAt (12288 + 8 * vaIndex 8192 0) 8 = false) ∧
      (bit ((sPt [(12304, 1)]).fabNat (12288 + 8 * vaIndex 8192 0) 8) 0 = true) ∧ (bit ((sPt [(12304, 1)]).fabNat (12288 + 8 * vaIndex 8192 0) 8) 1 =
      false) ∧ (0 = 0 ∨ (sPt [(12304, 1)]).badPointer ((sPt [(12304, 1)]).fabNat (12288 + 8 * vaIndex 8192 0) 8) = true)) ∧ ((1 ≤ 5) ∧ ((sPt [(12288,
      16385)]).poisonedAt (12288 + 8 * vaIndex 8192 1) 8 = false) ∧ (bit ((sPt [(12288, 16385)]).fabNat (12288 + 8 * vaIndex 8192 1) 8) 0 = true) ∧
      (bit ((sPt [(12288, 16385)]).fabNat (12288 + 8 * vaIndex 8192 1) 8) 1 = false) ∧ (1 = 0 + 1) ∧ ((sPt [(12288, 16385)]).badPointer ((sPt [(12288,
      16385)]).fabNat (12288 + 8 * vaIndex 8192 1) 8) = false))) ∧
    (((0 ≤ 5) ∧ ((sPt [(12304, 19)]).poisonedAt (12288 + 8 * vaIndex 8192 0) 8 = false) ∧ (bit ((sPt [(12304, 19)]).fabNat (12288 + 8 * vaIndex 8192
      0) 8) 0 = true) ∧ (bit ((sPt [(12304, 19)]).fabNat (12288 + 8 * vaIndex 8192 0) 8) 1 = true) ∧ (3 < 0 ∨ bits ((sPt [(12304, 19)]).fabNat (12288
      + 8 * vaIndex 8192 0) 8) 5 2 / 4 ≠ 0)) ∧ ((0 ≤ 5) ∧ ((sPt [(12304, 3)]).poisonedAt (12288 + 8 * vaIndex 8192 0) 8 = false) ∧ (bit ((sPt [(12304,
      3)]).fabNat (12288 + 8 * vaIndex 8192 0) 8) 0 = true) ∧ (bit ((sPt [(12304, 3)]).fabNat (12288 + 8 * vaIndex 8192 0) 8) 1 = true) ∧ (0 ≤ 3) ∧
      (bits ((sPt [(12304, 3)]).fabNat (12288 + 8 * vaIndex 8192 0) 8) 5 2 / 4 = 0) ∧ ((sPt [(12304, 3)]).poisonedAt (12288 + 8 * (vaIndex 8192 0 -
      vaIndex 8192 0 % 4 ^ (bits ((sPt [(12304, 3)]).fabNat (12288 + 8 * vaIndex 8192 0) 8) 5 2 % 4))) 8 = false) ∧ (bit ((sPt [(12304, 3)]).fabNat
      (12288 + 8 * (vaIndex 8192 0 - vaIndex 8192 0 % 4 ^ (bits ((sPt [(12304, 3)]).fabNat (12288 + 8 * vaIndex 8192 0) 8) 5 2 % 4))) 8) 0 = true) ∧
      (bit ((sPt [(12304, 3)]).fabNat (12288 + 8 * (vaIndex 8192 0 - vaIndex 8192 0 % 4 ^ (bits ((sPt [(12304, 3)]).fabNat (12288 + 8 * vaIndex 8192
      0) 8) 5 2 % 4))) 8) 1 = true) ∧ (bits ((sPt [(12304, 3)]).fabNat (12288 + 8 * (vaIndex 8192 0 - vaIndex 8192 0 % 4 ^ (bits ((sPt [(12304,
      3)]).fabNat (12288 + 8 * vaIndex 8192 0) 8) 5 2 % 4))) 8) 5 2 = bits ((sPt [(12304, 3)]).fabNat (12288 + 8 * vaIndex 8192 0) 8) 5 2) ∧ ((sPt
      [(12304, 3)]).badLeaf (BitVec.ofNat 64 ((sPt [(12304, 3)]).fabNat (12288 + 8 * (vaIndex 8192 0 - vaIndex 8192 0 % 4 ^ (bits ((sPt [(12304,
      3)]).fabNat (12288 + 8 * vaIndex 8192 0) 8) 5 2 % 4))) 8)) = false)) ∧ ((0 ≤ 5) ∧ ((sPt [(12304, 7)]).poisonedAt (12288 + 8 * vaIndex 8192 0) 8
      = false) ∧ (bit ((sPt [(12304, 7)]).fabNat (12288 + 8 * vaIndex 8192 0) 8) 0 = true) ∧ (bit ((sPt [(12304, 7)]).fabNat (12288 + 8 * vaIndex 8192
      0) 8) 1 = true) ∧ (0 ≤ 3) ∧ (bits ((sPt [(12304, 7)]).fabNat (12288 + 8 * vaIndex 8192 0) 8) 5 2 / 4 = 0) ∧ ((sPt [(12304, 7)]).poisonedAt
      (12288 + 8 * (vaIndex 8192 0 - vaIndex 8192 0 % 4 ^ (bits ((sPt [(12304, 7)]).fabNat (12288 + 8 * vaIndex 8192 0) 8) 5 2 % 4))) 8 = false) ∧
      (bit ((sPt [(12304, 7)]).fabNat (12288 + 8 * (vaIndex 8192 0 - vaIndex 8192 0 % 4 ^ (bits ((sPt [(12304, 7)]).fabNat (12288 + 8 * vaIndex 8192
      0) 8) 5 2 % 4))) 8) 0 = false ∨ bit ((sPt [(12304, 7)]).fabNat (12288 + 8 * (vaIndex 8192 0 - vaIndex 8192 0 % 4 ^ (bits ((sPt [(12304,
      7)]).fabNat (12288 + 8 * vaIndex 8192 0) 8) 5 2 % 4))) 8) 1 = false ∨ bits ((sPt [(12304, 7)]).fabNat (12288 + 8 * (vaIndex 8192 0 - vaIndex
      8192 0 % 4 ^ (bits ((sPt [(12304, 7)]).fabNat (12288 + 8 * vaIndex 8192 0) 8) 5 2 % 4))) 8) 5 2 ≠ bits ((sPt [(12304, 7)]).fabNat (12288 + 8 *
      vaIndex 8192 0) 8) 5 2 ∨ (sPt [(12304, 7)]).badLeaf (BitVec.ofNat 64 ((sPt [(12304, 7)]).fabNat (12288 + 8 * (vaIndex 8192 0 - vaIndex 8192 0 %
      4 ^ (bits ((sPt [(12304, 7)]).fabNat (12288 + 8 * vaIndex 8192 0) 8) 5 2 % 4))) 8)) = true)) ∧ ((0 ≤ 5) ∧ (sPtP.poisonedAt (12288 + 8 * vaIndex
      8192 0) 8 = false) ∧ (bit (sPtP.fabNat (12288 + 8 * vaIndex 8192 0) 8) 0 = true) ∧ (bit (sPtP.fabNat (12288 + 8 * vaIndex 8192 0) 8) 1 = true) ∧
      (0 ≤ 3) ∧ (bits (sPtP.fabNat (12288 + 8 * vaIndex 8192 0) 8) 5 2 / 4 = 0) ∧ (sPtP.poisonedAt (12288 + 8 * (vaIndex 8192 0 - vaIndex 8192 0 % 4 ^
      (bits (sPtP.fabNat (12288 + 8 * vaIndex 8192 0) 8) 5 2 % 4))) 8 = true))) :=
  ⟨⟨(by constructor <;> first | exact regionFound rfl rfl | decide +kernel), ⟨pairOk (by decide +kernel) (by decide +kernel), by decide +kernel⟩,
     by decide +kernel⟩,
   ⟨(by constructor <;> first | exact regionFound rfl rfl | decide +kernel), ⟨pairOk (by decide +kernel) (by decide +kernel), by decide +kernel⟩,
     by decide +kernel⟩,
   ⟨(by constructor <;> first | exact regionFound rfl rfl | decide +kernel), ⟨pairOk (by decide +kernel) (by decide +kernel), by decide +kernel⟩,
     (by constructor <;> first | exact regionFound rfl rfl | decide +kernel), by decide +kernel⟩,
   ⟨(by constructor <;> first | exact regionFound rfl rfl | decide +kernel), ⟨pairOk (by decide +kernel) (by decide +kernel), by decide +kernel⟩,
     by decide +kernel⟩,
   ⟨(by constructor <;> first | exact regionFound rfl rfl | decide +kernel), ⟨pairOk (by decide +kernel) (by decide +kernel), by decide +kernel⟩,
     (by constructor <;> first | exact regionFound rfl rfl | decide +kernel), by decide +kernel⟩,
   ⟨(by constructor <;> first | exact regionFound rfl rfl | decide +kernel), pairErrM (by decide +kernel), by decide +kernel⟩,
   ⟨(by constructor <;> first | exact regionFound rfl rfl | decide +kernel), ⟨pairOk (by decide +kernel) (by decide +kernel), by decide +kernel⟩,
     (by constructor <;> first | exact regionFound rfl rfl | decide +kernel), by decide +kernel⟩,
   ⟨(by constructor <;> first | exact regionFound rfl rfl | decide +kernel), ⟨pairOk (by decide +kernel) (by decide +kernel), by decide +kernel⟩,
     by decide +kernel⟩,
   ⟨(by constructor <;> first | exact regionFound rfl rfl | decide +kernel), ⟨pairOk (by decide +kernel) (by decide +kernel), by decide +kernel⟩,
     (by constructor <;> first | exact regionFound rfl rfl | decide +kernel), by decide +kernel⟩,
   ⟨(by constructor <;> first | exact regionFound rfl rfl | decide +kernel), pairErrM (by decide +kernel), by decide +kernel⟩,
   ⟨pairErrM (by decide +kernel), by decide +kernel⟩,
   ⟨pairOkM (by decide +kernel), by decide +kernel⟩,
   ⟨pairOkM (by decide +kernel), by decide +kernel⟩,
   ⟨pairOkM (by decide +kernel), by decide +kernel⟩,
   ⟨pairOkM (by decide +kernel), by decide +kernel⟩,
   ⟨pairOkM (by decide +kernel), by decide +kernel⟩,
   ⟨pairOkM (by decide +kernel), by decide +kernel⟩,
   by decide +kernel,
   by decide +kernel,
   by decide +kernel,
   by decide +kernel,
   by decide +kernel⟩

theorem test_meets_SequencerAtomics :
    ((CoreReady sC 5 (if AmoKind.add = AmoKind.cas then [8, 3, 1] else [3, 1]) [8]) ∧ (CoreAccess sC 5 Need.atomic ((sC.core 5).gr 3) 4 (normal 8192)
      (accS sC 5 Need.atomic 8192 4)) ∧ (Here (normal 8192) (accS sC 5 Need.atomic 8192 4)) ∧ (BitVec.getLsbD (3 : BitVec (2 : ℕ)) (1 : ℕ) = true →
      drained (sC.core (5 : ℕ)) = true) ∧ ((accS sC 5 Need.atomic 8192 4).mustHold 5 (sC.coreCtx 5) ((sC.core 5).gr 3) (normal 8192) 4 = false) ∧
      ((accS sC 5 Need.atomic 8192 4).writeHeld (lowOf (normal 8192).pa) 4 false = false)) ∧
    ((CoreReady sDef 5 (if AmoKind.cas = AmoKind.cas then [8, 3, 1] else [3, 1]) [8]) ∧ (CoreAccess sDef 5 Need.atomic ((sDef.core 5).gr 3) 8 (normal
      8192) (accS sDef 5 Need.atomic 8192 8)) ∧ (BitVec.getLsbD (3 : BitVec (2 : ℕ)) (1 : ℕ) = true → drained (sDef.core (5 : ℕ)) = true) ∧ ((normal
      8192).mt = 0) ∧ ((accS sDef 5 Need.atomic 8192 8).mustHold 5 (sDef.coreCtx 5) ((sDef.core 5).gr 3) (normal 8192) 8 = true)) ∧
    ((CoreReady sC 5 (if AmoKind.cas = AmoKind.cas then [8, 4, 1] else [4, 1]) [8]) ∧ (CoreAccess sC 5 Need.atomic ((sC.core 5).gr 4) 4 (normal
      1099511627840) (accS sC 5 Need.atomic 68719476800 4)) ∧ (Away (normal 1099511627840) (accS sC 5 Need.atomic 68719476800 4)) ∧ (BitVec.getLsbD (3
      : BitVec (2 : ℕ)) (1 : ℕ) = true → drained (sC.core (5 : ℕ)) = true) ∧ ((accS sC 5 Need.atomic 68719476800 4).mustHold 5 (sC.coreCtx 5)
      ((sC.core 5).gr 4) (normal 1099511627840) 4 = false)) ∧
    ((∀ (v : ℕ), (fun v => if v < (2 : ℕ) ^ (31 : ℕ) then ↑v else ↑v - (2 : ℤ) ^ (32 : ℕ)) v = if v < (2 : ℕ) ^ ((8 : ℕ) * (4 : ℕ) - (1 : ℕ)) then ↑v
      else ↑v - (2 : ℤ) ^ ((8 : ℕ) * (4 : ℕ))) ∧ (4 = 4 ∨ 4 = 8) ∧ (2147483648 < 2 ^ (8 * 4)) ∧ (1 < 2 ^ (8 * 4))) :=
  ⟨⟨(by constructor <;> first | exact regionFound rfl rfl | decide +kernel), ⟨pairOk (by decide +kernel) (by decide +kernel), by decide +kernel⟩,
     (by constructor <;> first | exact regionFound rfl rfl | decide +kernel), by decide +kernel⟩,
   ⟨(by constructor <;> first | exact regionFound rfl rfl | decide +kernel), ⟨pairOk (by decide +kernel) (by decide +kernel), by decide +kernel⟩,
     by decide +kernel⟩,
   ⟨(by constructor <;> first | exact regionFound rfl rfl | decide +kernel), ⟨pairOk (by decide +kernel) (by decide +kernel), by decide +kernel⟩,
     (by constructor <;> first | exact regionFound rfl rfl | decide +kernel), by decide +kernel⟩,
   ⟨(fun _ => rfl), by decide +kernel⟩⟩

theorem test_meets_SequencerVersionedAccess :
    ((CoreReady (sV tagsV) 5 [6, 2] [9]) ∧ ((accessM (whoCore (sV tagsV) 5) Need.vld (((sV tagsV).core 5).gr 6) 8).exec (sV tagsV) = (Except.ok
      (version 8192), accS (sV tagsV) 5 Need.vld 137438961664 8)) ∧ ((((sV tagsV).core 5).pend.any fun p => p.acq) = false) ∧ ((accS (sV tagsV) 5
      Need.vld 137438961664 8).behindHeld 5 (version 8192) 8 = false) ∧ ((accS (sV tagsV) 5 Need.vld 137438961664 8).isLocal (version 8192).pa = true)
      ∧ ((accS (sV tagsV) 5 Need.vld 137438961664 8).judgeVld (lowOf (version 8192).pa) (BitVec.extractLsb' 0 32 (((sV tagsV).core 5).gr 2)) =
      VldAnswer.value 9833440827789222529 false)) ∧
    ((CoreReady (sV tagsV) 5 [6, 12] [9]) ∧ ((accessM (whoCore (sV tagsV) 5) Need.vld (((sV tagsV).core 5).gr 6) 8).exec (sV tagsV) = (Except.ok
      (version 8192), accS (sV tagsV) 5 Need.vld 137438961664 8)) ∧ ((((sV tagsV).core 5).pend.any fun p => p.acq) = false) ∧ ((accS (sV tagsV) 5
      Need.vld 137438961664 8).behindHeld 5 (version 8192) 8 = false) ∧ ((accS (sV tagsV) 5 Need.vld 137438961664 8).isLocal (version 8192).pa = true)
      ∧ ((accS (sV tagsV) 5 Need.vld 137438961664 8).judgeVld (lowOf (version 8192).pa) (BitVec.extractLsb' 0 32 (((sV tagsV).core 5).gr 12)) =
      VldAnswer.gone)) ∧
    ((CoreReady (sV tagsV) 5 [6, 1] [9]) ∧ ((accessM (whoCore (sV tagsV) 5) Need.vld (((sV tagsV).core 5).gr 6) 8).exec (sV tagsV) = (Except.ok
      (version 8192), accS (sV tagsV) 5 Need.vld 137438961664 8)) ∧ ((((sV tagsV).core 5).pend.any fun p => p.acq) = false) ∧ ((accS (sV tagsV) 5
      Need.vld 137438961664 8).behindHeld 5 (version 8192) 8 = false) ∧ ((accS (sV tagsV) 5 Need.vld 137438961664 8).isLocal (version 8192).pa = true)
      ∧ ((accS (sV tagsV) 5 Need.vld 137438961664 8).judgeVld (lowOf (version 8192).pa) (BitVec.extractLsb' 0 32 (((sV tagsV).core 5).gr 1)) =
      VldAnswer.notYet) ∧ ((accS (sV tagsV) 5 Need.vld 137438961664 8).vldListFull (lowOf (version 8192).pa) = false)) ∧
    ((CoreReady (sV tagsV) 5 [6, 8] []) ∧ ((accessM (whoCore (sV tagsV) 5) Need.vst (((sV tagsV).core 5).gr 6) 8).exec (sV tagsV) = (Except.ok
      (version 8192), accS (sV tagsV) 5 Need.vst 137438961664 8)) ∧ ((((sV tagsV).core 5).pend.any fun p => p.acq) = false) ∧ (drained ((sV
      tagsV).core 5) = true) ∧ ((accS (sV tagsV) 5 Need.vst 137438961664 8).isLocal (version 8192).pa = true) ∧ ((accS (sV tagsV) 5 Need.vst
      137438961664 8).vstLost (whoCore (accS (sV tagsV) 5 Need.vst 137438961664 8) 5) (lowOf (version 8192).pa) = false) ∧ ((accS (sV tagsV) 5
      Need.vst 137438961664 8).vstHeld (lowOf (version 8192).pa) (VldOwner.step 5) = false) ∧ ((accS (sV tagsV) 5 Need.vst 137438961664 8).writeHeld
      (lowOf (version 8192).pa) 8 false = false)) ∧
    ((CoreReady sBlk 5 [6, 8] []) ∧ ((accessM (whoCore sBlk 5) Need.vst ((sBlk.core 5).gr 6) 8).exec sBlk = (Except.ok (version 8192), accS sBlk 5
      Need.vst 137438961664 8)) ∧ (((sBlk.core 5).pend.any fun p => p.acq) = false) ∧ (drained (sBlk.core 5) = true) ∧ ((accS sBlk 5 Need.vst
      137438961664 8).isLocal (version 8192).pa = true) ∧ ((accS sBlk 5 Need.vst 137438961664 8).vstLost (whoCore (accS sBlk 5 Need.vst 137438961664
      8) 5) (lowOf (version 8192).pa) = false) ∧ ((accS sBlk 5 Need.vst 137438961664 8).vstHeld (lowOf (version 8192).pa) (VldOwner.step 5) = true) ∧
      (((accS sBlk 5 Need.vst 137438961664 8).core 5).waitFrom = some 7)) ∧
    ((CoreReady (sV tagsV) 5 [6, 2] []) ∧ ((accessM (whoCore (sV tagsV) 5) Need.vst (((sV tagsV).core 5).gr 6) 8).exec (sV tagsV) = (Except.ok
      (version 8192), accS (sV tagsV) 5 Need.vst 137438961664 8)) ∧ ((((sV tagsV).core 5).pend.any fun p => p.acq) = false) ∧ ((accS (sV tagsV) 5
      Need.vst 137438961664 8).behindHeld 5 (version 8192) 8 = false) ∧ ((accS (sV tagsV) 5 Need.vst 137438961664 8).isLocal (version 8192).pa =
      true)) ∧
    ((CoreReady sC 5 [] []) ∧ (((sC.core 5).pend.any fun p => p.acq) = false) ∧ (drained (sC.core 5) = true)) ∧
    (((1 ≤ BitVec.toNat (4 - ((sV tagsV).vtag 8192).newest)) ∧ (BitVec.toNat (4 - ((sV tagsV).vtag 8192).newest) ≤ 2 ^ 31 - 1)) ∧ (3 = ((sV
      tagsV).vtag 8192).newest) ∧ ((¬(1 ≤ BitVec.toNat (1 - ((sV tagsV).vtag 8192).newest) ∧ BitVec.toNat (1 - ((sV tagsV).vtag 8192).newest) ≤ 2 ^ 31
      - 1)) ∧ (1 ≤ BitVec.toNat (((sV tagsV).vtag 8192).newest - 1)) ∧ (BitVec.toNat (((sV tagsV).vtag 8192).newest - 1) ≤ ((sV tagsV).vtag
      8192).older.length) ∧ (((sV tagsV).vtag 8192).older[((sV tagsV).vtag 8192).older.length - BitVec.toNat (((sV tagsV).vtag 8192).newest - 1)]? =
      some (34, false))) ∧ ((¬(1 ≤ BitVec.toNat (0 - ((sV tagsV).vtag 8192).newest) ∧ BitVec.toNat (0 - ((sV tagsV).vtag 8192).newest) ≤ 2 ^ 31 - 1))
      ∧ (((sV tagsV).vtag 8192).older.length < BitVec.toNat (((sV tagsV).vtag 8192).newest - 0)))) ∧
    ((1 ≤ BitVec.toNat (4 - ((sV tagsV).vtag 8192).newest) ∧ BitVec.toNat (4 - ((sV tagsV).vtag 8192).newest) ≤ 2 ^ 31 - 1) ∧ ((¬(1 ≤ BitVec.toNat (2
      - ((sV tagsV).vtag 8192).newest) ∧ BitVec.toNat (2 - ((sV tagsV).vtag 8192).newest) ≤ 2 ^ 31 - 1)) ∧ (BitVec.toNat (((sV tagsV).vtag
      8192).newest - 2) < ((sV tagsV).vtag 8192).older.length)) ∧ ((¬(1 ≤ BitVec.toNat (0 - ((sV tagsV).vtag 8192).newest) ∧ BitVec.toNat (0 - ((sV
      tagsV).vtag 8192).newest) ≤ 2 ^ 31 - 1)) ∧ (((sV tagsV).vtag 8192).older.length ≤ BitVec.toNat (((sV tagsV).vtag 8192).newest - 0))) ∧ (8200 / 8
      ≠ 8192 / 8)) ∧
    ({ word := 1024, version := 9, owner := VldOwner.core 5 4 } ∈ (sVw.createVersion 8192 4).vldWaits) :=
  ⟨⟨(by constructor <;> first | exact regionFound rfl rfl | decide +kernel), pairOkM (by decide +kernel), by decide +kernel⟩,
   ⟨(by constructor <;> first | exact regionFound rfl rfl | decide +kernel), pairOkM (by decide +kernel), by decide +kernel⟩,
   ⟨(by constructor <;> first | exact regionFound rfl rfl | decide +kernel), pairOkM (by decide +kernel), by decide +kernel⟩,
   ⟨(by constructor <;> first | exact regionFound rfl rfl | decide +kernel), pairOkM (by decide +kernel), by decide +kernel⟩,
   ⟨(by constructor <;> first | exact regionFound rfl rfl | decide +kernel), pairOkM (by decide +kernel), by decide +kernel⟩,
   ⟨(by constructor <;> first | exact regionFound rfl rfl | decide +kernel), pairOkM (by decide +kernel), by decide +kernel⟩,
   ⟨(by constructor <;> first | exact regionFound rfl rfl | decide +kernel), by decide +kernel⟩,
   by decide +kernel,
   by decide +kernel,
   by decide +kernel⟩

theorem test_meets_StreamIssueQueuesCommand :
    ((CoreReady sD 5 [10, 14] []) ∧ (CoreDrained sD 5) ∧ ((readDescM (whoCore sD 5) ((sD.core 5).gr 10)).exec sD = (Except.ok (descOf (List.map (fun k
      => sD.fabNat (12288 + 8 * k) 8) (List.range 8))), stateOfM (readDescM (whoCore sD 5) 12288) sD)) ∧ (sD.streamCount 5 < 16)) ∧
    ((CoreReady sD 5 [9, 14] []) ∧ (CoreDrained sD 5) ∧ ((readDescM (whoCore sD 5) ((sD.core 5).gr 9)).exec sD = (Except.error (Stop.raise 10 8193),
      sD)) ∧ (sD.streamCount 5 < 16)) ∧
    ((CoreReady sD 5 [10, 14, 11] []) ∧ (CoreDrained sD 5) ∧ ((readDescM (whoCore sD 5) ((sD.core 5).gr 10)).exec sD = (Except.ok (descOf (List.map
      (fun k => sD.fabNat (12288 + 8 * k) 8) (List.range 8))), stateOfM (readDescM (whoCore sD 5) 12288) sD)) ∧ ((readDescM (whoCore sD 5) ((sD.core
      5).gr 11)).exec (stateOfM (readDescM (whoCore sD 5) 12288) sD) = (Except.ok (descOf (List.map (fun k => sD.fabNat (12352 + 8 * k) 8) (List.range
      8))), stateOfM (readDescM (whoCore sD 5) 12352) (stateOfM (readDescM (whoCore sD 5) 12288) sD))) ∧ (sD.streamCount 5 < 16) ∧ (sD.scoreCount 5 <
      32)) ∧
    ((CoreReady sD 5 [3, 14] []) ∧ (CoreDrained sD 5) ∧ (sD.streamCount 5 < 16)) ∧
    ((CoreReady streamsFull 5 [10, 14] []) ∧ (CoreDrained streamsFull 5) ∧ (16 ≤ streamsFull.streamCount 5)) :=
  ⟨⟨(by constructor <;> first | exact regionFound rfl rfl | decide +kernel), (by constructor <;> first | exact regionFound rfl rfl | decide +kernel),
     pairOkM (by decide +kernel), by decide +kernel⟩,
   ⟨(by constructor <;> first | exact regionFound rfl rfl | decide +kernel), (by constructor <;> first | exact regionFound rfl rfl | decide +kernel),
     pairErrM (by decide +kernel), by decide +kernel⟩,
   ⟨(by constructor <;> first | exact regionFound rfl rfl | decide +kernel), (by constructor <;> first | exact regionFound rfl rfl | decide +kernel),
     pairOkM (by decide +kernel), pairOkM (by decide +kernel), by decide +kernel⟩,
   ⟨(by constructor <;> first | exact regionFound rfl rfl | decide +kernel), (by constructor <;> first | exact regionFound rfl rfl | decide +kernel),
     by decide +kernel⟩,
   ⟨(by constructor <;> first | exact regionFound rfl rfl | decide +kernel), (by constructor <;> first | exact regionFound rfl rfl | decide +kernel),
     by decide +kernel⟩⟩

theorem test_meets_LaunchAndCfgIssue :
    ((CoreReady sC 5 [10] [9]) ∧ (CoreDrained sC 5) ∧ (sC.launchCount 5 < 8)) ∧
    ((CoreReady launchesFull 5 [10] [9]) ∧ (CoreDrained launchesFull 5) ∧ (8 ≤ launchesFull.launchCount 5)) ∧
    ((CoreReady sC 5 [10, 15] [9]) ∧ (CoreDrained sC 5)) :=
  ⟨⟨(by constructor <;> first | exact regionFound rfl rfl | decide +kernel), (by constructor <;> first | exact regionFound rfl rfl | decide +kernel),
     by decide +kernel⟩,
   ⟨(by constructor <;> first | exact regionFound rfl rfl | decide +kernel), (by constructor <;> first | exact regionFound rfl rfl | decide +kernel),
     by decide +kernel⟩,
   ⟨(by constructor <;> first | exact regionFound rfl rfl | decide +kernel), (by constructor <;> first | exact regionFound rfl rfl | decide +kernel)⟩⟩

theorem test_meets_Semaphores :
    ((CoreReady sSem 5 [2] []) ∧ (((sSem.core 5).pend.any fun p => p.acq) = false) ∧ (drained (sSem.core 5) = true)) ∧
    ((CoreReady sMine 5 [7, 2] []) ∧ (((sMine.core 5).pend.any fun p => p.acq) = false) ∧ (drained (sMine.core 5) = true)) ∧
    ((CoreReady sSem 5 [2] [9]) ∧ (((sSem.core 5).pend.any fun p => p.acq) = false) ∧ ((if (2 : Reg) = (0 : Reg) then (1 : ℕ) else BitVec.toNat
      ((sSem.core (5 : ℕ)).gr (2 : Reg)) % (2 : ℕ) ^ (32 : ℕ)) ≤ BitVec.toNat ((sSem.core (5 : ℕ)).sema.getD (BitVec.toNat (3 : BitVec (6 : ℕ)))
      { : Sema }).count)) ∧
    ((CoreReady sSem 5 [1] [9]) ∧ (((sSem.core 5).pend.any fun p => p.acq) = false) ∧ (BitVec.toNat ((sSem.core (5 : ℕ)).sema.getD (BitVec.toNat (3 :
      BitVec (6 : ℕ))) { : Sema }).count < if (1 : Reg) = (0 : Reg) then (1 : ℕ) else BitVec.toNat ((sSem.core (5 : ℕ)).gr (1 : Reg)) % (2 : ℕ) ^ (32
      : ℕ))) ∧
    (CoreReady sSem 5 [8] []) ∧
    (CoreReady sSem 5 [] [9]) ∧
    ((3 < 64) ∧ ((3 < 64) ∧ (4 ≠ 3)) ∧ ((3 < 64) ∧ (256 ≠ 5))) :=
  ⟨⟨(by constructor <;> first | exact regionFound rfl rfl | decide +kernel), by decide +kernel⟩,
   ⟨(by constructor <;> first | exact regionFound rfl rfl | decide +kernel), by decide +kernel⟩,
   ⟨(by constructor <;> first | exact regionFound rfl rfl | decide +kernel), by decide +kernel⟩,
   ⟨(by constructor <;> first | exact regionFound rfl rfl | decide +kernel), by decide +kernel⟩,
   (by constructor <;> first | exact regionFound rfl rfl | decide +kernel),
   (by constructor <;> first | exact regionFound rfl rfl | decide +kernel),
   by decide +kernel⟩

theorem test_meets_TokenBarriers :
    ((CoreReady sD 5 [14, 2] [9]) ∧ ((tbarObj (whoCore sD 5) Need.atomic ((sD.core 5).gr 14)).exec sD = (Except.ok 20480, tbS Need.atomic)) ∧
      (((sD.core 5).pend.any fun p => p.acq) = false)) ∧
    ((CoreReady sD 5 [14, 16] [9]) ∧ ((tbarObj (whoCore sD 5) Need.atomic ((sD.core 5).gr 14)).exec sD = (Except.ok 20480, tbS Need.atomic)) ∧
      (((sD.core 5).pend.any fun p => p.acq) = false) ∧ ((tbS Need.atomic).barriers.contains 20480 = true)) ∧
    ((CoreReady sD 5 [3, 2] [9]) ∧ ((tbarObj (whoCore sD 5) Need.atomic ((sD.core 5).gr 3)).exec sD = (Except.ok 8192, stateOfM (tbarObj (whoCore sD
      5) Need.atomic 8192) sD)) ∧ (((sD.core 5).pend.any fun p => p.acq) = false) ∧ ((stateOfM (tbarObj (whoCore sD 5) Need.atomic 8192)
      sD).barriers.contains 8192 = false) ∧ (Instr.tbarDecl 3 2 7 ∈ [Instr.tbarDecl 3 2 7, Instr.tbarFini 3 7])) ∧
    ((CoreReady sD 5 [3, 2] [9]) ∧ ((tbarObj (whoCore sD 5) Need.atomic ((sD.core 5).gr 3)).exec sD = (Except.ok 8192, stateOfM (tbarObj (whoCore sD
      5) Need.atomic 8192) sD)) ∧ (((sD.core 5).pend.any fun p => p.acq) = false) ∧ ((stateOfM (tbarObj (whoCore sD 5) Need.atomic 8192)
      sD).barriers.contains 8192 = false) ∧ (drained (sD.core 5) = true)) ∧
    ((CoreReady sD 5 [14, 2] [9]) ∧ ((tbarObj (whoCore sD 5) Need.load ((sD.core 5).gr 14)).exec sD = (Except.ok 20480, tbS Need.load)) ∧ (((sD.core
      5).pend.any fun p => p.acq) = false) ∧ ((tbS Need.load).barriers.contains 20480 = true) ∧ (((tbS Need.load).tbarAt 20480).status (BitVec.toNat
      ((sD.core 5).gr 2)) = some 0)) ∧
    ((CoreReady sD 5 [14, 1] [9]) ∧ ((tbarObj (whoCore sD 5) Need.load ((sD.core 5).gr 14)).exec sD = (Except.ok 20480, tbS Need.load)) ∧ (((sD.core
      5).pend.any fun p => p.acq) = false) ∧ ((tbS Need.load).barriers.contains 20480 = true) ∧ (((tbS Need.load).tbarAt 20480).status (BitVec.toNat
      ((sD.core 5).gr 1)) = none)) ∧
    ((CoreReady sD 5 [3, 2] [9]) ∧ ((tbarObj (whoCore sD 5) Need.load ((sD.core 5).gr 3)).exec sD = (Except.ok 8192, stateOfM (tbarObj (whoCore sD 5)
      Need.load 8192) sD)) ∧ (((sD.core 5).pend.any fun p => p.acq) = false) ∧ ((stateOfM (tbarObj (whoCore sD 5) Need.load 8192)
      sD).barriers.contains 8192 = false) ∧ (Instr.tbarWait 9 3 2 7 ∈ [Instr.tbarWait 9 3 2 7, Instr.tbarTest 9 3 2 7])) ∧
    ((CoreReady sD 5 [9, 2] [9]) ∧ (((sD.core 5).pend.any fun p => p.acq) = false) ∧ (drained (sD.core 5) = true) ∧ (canonical ((sD.core 5).gr 9) =
      true) ∧ (BitVec.toNat ((sD.core 5).gr 9) % 32 ≠ 0)) ∧
    ((CoreReady sD 5 [7, 2] [9]) ∧ ((translateM (whoCore sD 5) Need.atomic ((sD.core 5).gr 7)).exec sD = (Except.error (Stop.raise Cause.pageFault
      274877906944), sD)) ∧ (((sD.core 5).pend.any fun p => p.acq) = false) ∧ (drained (sD.core 5) = true) ∧ (canonical ((sD.core 5).gr 7) = true) ∧
      (BitVec.toNat ((sD.core 5).gr 7) % 32 = 0)) ∧
    ((CoreReady sDd 5 [12, 2] [9]) ∧ ((translateM (whoCore sDd 5) Need.load ((sDd.core 5).gr 12)).exec sDd = (Except.ok (device 1030792151040),
      stateOfM (translateM (whoCore sDd 5) Need.load 1030792151040) sDd)) ∧ (((sDd.core 5).pend.any fun p => p.acq) = false) ∧ (drained (sDd.core 5) =
      true) ∧ (canonical ((sDd.core 5).gr 12) = true) ∧ (BitVec.toNat ((sDd.core 5).gr 12) % 32 = 0) ∧ ((device 1030792151040).mt = 2 ∨ (device
      1030792151040).mt = 0 ∧ isNormal (lowOf (device 1030792151040).pa) = true ∧ (stateOfM (translateM (whoCore sDd 5) Need.load 1030792151040)
      sDd).isLocal (device 1030792151040).pa = false)) ∧
    ((CoreReady sDt 5 [12, 2] [9]) ∧ ((translateM (whoCore sDt 5) Need.atomic ((sDt.core 5).gr 12)).exec sDt = (Except.ok
      { pa := 0, mt := 1, ver := false }, sDt)) ∧ (((sDt.core 5).pend.any fun p => p.acq) = false) ∧ (drained (sDt.core 5) = true) ∧ (canonical
      ((sDt.core 5).gr 12) = true) ∧ (BitVec.toNat ((sDt.core 5).gr 12) % 32 = 0) ∧ ({ pa := 0, mt := 1, ver := false : Xlat }.mt = 1)) ∧
    (({ gen := 4, quota := 2, arrv := 2, decl := 7, land := 7, poison := true, lastp := false, wsem := 5 * 64 + 3, wen := true, ctx := 1 : Tbar }.arrv
      =
      { gen := 4, quota := 2, arrv := 2, decl := 7, land := 7, poison := true, lastp := false, wsem := 5 * 64 + 3, wen := true, ctx := 1 : Tbar }.quota
      ∧
      { gen := 4, quota := 2, arrv := 2, decl := 7, land := 7, poison := true, lastp := false, wsem := 5 * 64 + 3, wen := true, ctx := 1 : Tbar }.decl
      =
      { gen := 4, quota := 2, arrv := 2, decl := 7, land := 7, poison := true, lastp := false, wsem := 5 * 64 + 3, wen := true, ctx := 1 : Tbar }.land)
      ∧
      (¬({ gen := 4, quota := 2, arrv := 1, decl := 7, land := 7, poison := true, lastp := false, wsem := 6 * 64 + 3, wen := true, ctx := 1 : Tbar }.arrv
      =
      { gen := 4, quota := 2, arrv := 1, decl := 7, land := 7, poison := true, lastp := false, wsem := 6 * 64 + 3, wen := true, ctx := 1 : Tbar }.quota
      ∧
      { gen := 4, quota := 2, arrv := 1, decl := 7, land := 7, poison := true, lastp := false, wsem := 6 * 64 + 3, wen := true, ctx := 1 : Tbar }.decl
      =
      { gen := 4, quota := 2, arrv := 1, decl := 7, land := 7, poison := true, lastp := false, wsem := 6 * 64 + 3, wen := true, ctx := 1 : Tbar }.land))
      ∧ (({ gen := 0, quota := 2, arrv := 1, decl := 7, land := 7, poison := true, lastp := true, wsem := 0, wen := true, ctx := 1 : Tbar }.gen < 2 ^
      32) ∧ (4294967295 < 2 ^ 32) ∧
      ({ gen := 0, quota := 2, arrv := 1, decl := 7, land := 7, poison := true, lastp := true, wsem := 0, wen := true, ctx := 1 : Tbar }.gen =
      (4294967295 + 1) % 2 ^ 32)) ∧
      (({ gen := 1, quota := 2, arrv := 1, decl := 7, land := 7, poison := true, lastp := true, wsem := 0, wen := true, ctx := 1 : Tbar }.gen < 2 ^
      32) ∧ (4294967295 < 2 ^ 32) ∧ (2 ≤ 2) ∧ (2 < 2 ^ 31) ∧
      ({ gen := 1, quota := 2, arrv := 1, decl := 7, land := 7, poison := true, lastp := true, wsem := 0, wen := true, ctx := 1 : Tbar }.gen =
      (4294967295 + 2) % 2 ^ 32))) ∧
    (({ gen := 1, quota := 2, arrv := 1, decl := 7, land := 7, poison := true, lastp := true, wsem := 0, wen := true, ctx := 1 : Tbar }.gen < 2 ^ 32)
      ∧ (2147483648 < 2 ^ 32) ∧ (2147483647 < 2 ^ 31) ∧ (2147483648 =
      ({ gen := 1, quota := 2, arrv := 1, decl := 7, land := 7, poison := true, lastp := true, wsem := 0, wen := true, ctx := 1 : Tbar }.gen +
      2147483647) % 2 ^ 32)) :=
  ⟨⟨(by constructor <;> first | exact regionFound rfl rfl | decide +kernel), pairOkM (by decide +kernel), by decide +kernel⟩,
   ⟨(by constructor <;> first | exact regionFound rfl rfl | decide +kernel), pairOkM (by decide +kernel), by decide +kernel⟩,
   ⟨(by constructor <;> first | exact regionFound rfl rfl | decide +kernel), pairOkM (by decide +kernel), by decide +kernel⟩,
   ⟨(by constructor <;> first | exact regionFound rfl rfl | decide +kernel), pairOkM (by decide +kernel), by decide +kernel⟩,
   ⟨(by constructor <;> first | exact regionFound rfl rfl | decide +kernel), pairOkM (by decide +kernel), by decide +kernel⟩,
   ⟨(by constructor <;> first | exact regionFound rfl rfl | decide +kernel), pairOkM (by decide +kernel), by decide +kernel⟩,
   ⟨(by constructor <;> first | exact regionFound rfl rfl | decide +kernel), pairOkM (by decide +kernel), by decide +kernel⟩,
   ⟨(by constructor <;> first | exact regionFound rfl rfl | decide +kernel), by decide +kernel⟩,
   ⟨(by constructor <;> first | exact regionFound rfl rfl | decide +kernel), pairErrM (by decide +kernel), by decide +kernel⟩,
   ⟨(by constructor <;> first | exact regionFound rfl rfl | decide +kernel), pairOkM (by decide +kernel), by decide +kernel⟩,
   ⟨(by constructor <;> first | exact regionFound rfl rfl | decide +kernel), pairOkM (by decide +kernel), by decide +kernel⟩,
   by decide +kernel,
   by decide +kernel⟩

theorem test_meets_ByteRingOperations :
    ((CoreReady sD 5 [17] [9]) ∧ ((ringView (whoCore sD 5) ((sD.core 5).gr 17)).exec sD = (Except.ok rv, rvS sD)) ∧ ((ringRecord (whoCore sD 5)
      ((sD.core 5).gr 17) rv rv.head).exec (rvS sD) = (Except.ok (65536, 16, 1), rcS sD rv 0)) ∧ (((sD.core 5).pend.any fun p => p.acq) = false) ∧
      (rv.head ≠ rv.tail) ∧ (1 ≠ 255)) ∧
    ((CoreReady sD 5 [3] [9]) ∧ ((ringView (whoCore sD 5) ((sD.core 5).gr 3)).exec sD = (Except.error (Stop.raise 33 8192), stateOfM (ringView
      (whoCore sD 5) 8192) sD)) ∧ (((sD.core 5).pend.any fun p => p.acq) = false)) ∧
    ((CoreReady sEmp 5 [17] [9]) ∧ ((ringView (whoCore sEmp 5) ((sEmp.core 5).gr 17)).exec sEmp = (Except.ok
      { base := 65536, size := 4096, tail := 16, head := 16 }, rvS sEmp)) ∧ (((sEmp.core 5).pend.any fun p => p.acq) = false) ∧
      ({ base := 65536, size := 4096, tail := 16, head := 16 : RingView }.head =
      { base := 65536, size := 4096, tail := 16, head := 16 : RingView }.tail)) ∧
    ((CoreReady sSkip 5 [17] [9]) ∧ ((ringView (whoCore sSkip 5) ((sSkip.core 5).gr 17)).exec sSkip = (Except.ok rv, rvS sSkip)) ∧ ((ringRecord
      (whoCore sSkip 5) ((sSkip.core 5).gr 17) rv rv.head).exec (rvS sSkip) = (Except.ok (65536, 16, 255), rcS sSkip rv 0)) ∧ ((coreStore 5
      (sSkip.core 5) ((sSkip.core 5).gr 17 + 24) 8 (BitVec.ofNat 64 rv.tail) (some 7)).exec (rcS sSkip rv 0) = (Except.ok Flow.next, stateOfM
      (coreStore 5 (sSkip.core 5) (24576 + 24) 8 (BitVec.ofNat 64 rv.tail) (some 7)) (rcS sSkip rv 0))) ∧ (((sSkip.core 5).pend.any fun p => p.acq) =
      false) ∧ (rv.head ≠ rv.tail) ∧ (rv.head + 16 = rv.tail)) ∧
    ((CoreReady sShort 5 [17] [9]) ∧ ((ringView (whoCore sShort 5) ((sShort.core 5).gr 17)).exec sShort = (Except.ok rv, rvS sShort)) ∧ ((ringRecord
      (whoCore sShort 5) ((sShort.core 5).gr 17) rv rv.head).exec (rvS sShort) = (Except.error (Stop.raise 33 24576), rcS sShort rv 0)) ∧
      (((sShort.core 5).pend.any fun p => p.acq) = false) ∧ (rv.head ≠ rv.tail)) ∧
    ((CoreReady sD 5 [17] [9]) ∧ ((ringView (whoCore sD 5) ((sD.core 5).gr 17)).exec sD = (Except.ok rv, rvS sD)) ∧ ((plainM (whoCore sD 5)
      (BitVec.ofNat 64 (rv.base + rv.head % rv.size)) 8).exec (rvS sD) = (Except.ok (8 + 2 ^ 32), hdS sD)) ∧ ((coreStore 5 (sD.core 5) ((sD.core 5).gr
      17 + 24) 8 (BitVec.ofNat 64 (rv.head + 8 + ((8 + 2 ^ 32) % 2 ^ 32 + 7) / 8 * 8)) (some 7)).exec (hdS sD) = (Except.ok Flow.next, stateOfM
      (coreStore 5 (sD.core 5) (24576 + 24) 8 16 (some 7)) (hdS sD))) ∧ (((sD.core 5).pend.any fun p => p.acq) = false) ∧ (rv.head ≠ rv.tail) ∧ (bits
      (8 + 2 ^ 32) 39 32 ≠ 255)) ∧
    ((CoreReady sSkip 5 [17] [9]) ∧ ((ringView (whoCore sSkip 5) ((sSkip.core 5).gr 17)).exec sSkip = (Except.ok rv, rvS sSkip)) ∧ ((plainM (whoCore
      sSkip 5) (BitVec.ofNat 64 (rv.base + rv.head % rv.size)) 8).exec (rvS sSkip) = (Except.ok (8 + 255 * 2 ^ 32), hdS sSkip)) ∧ (((sSkip.core
      5).pend.any fun p => p.acq) = false) ∧ (rv.head = rv.tail ∨ bits (8 + 255 * 2 ^ 32) 39 32 = 255)) :=
  ⟨⟨(by constructor <;> first | exact regionFound rfl rfl | decide +kernel), pairOkM (by decide +kernel), pairOkM (by decide +kernel),
     by decide +kernel⟩,
   ⟨(by constructor <;> first | exact regionFound rfl rfl | decide +kernel), pairErrM (by decide +kernel), by decide +kernel⟩,
   ⟨(by constructor <;> first | exact regionFound rfl rfl | decide +kernel), pairOkM (by decide +kernel), by decide +kernel⟩,
   ⟨(by constructor <;> first | exact regionFound rfl rfl | decide +kernel), pairOkM (by decide +kernel), pairOkM (by decide +kernel), pairOkM
     (by decide +kernel), by decide +kernel⟩,
   ⟨(by constructor <;> first | exact regionFound rfl rfl | decide +kernel), pairOkM (by decide +kernel), pairErrM (by decide +kernel),
     by decide +kernel⟩,
   ⟨(by constructor <;> first | exact regionFound rfl rfl | decide +kernel), pairOkM (by decide +kernel), pairOkM (by decide +kernel), pairOkM
     (by decide +kernel), by decide +kernel⟩,
   ⟨(by constructor <;> first | exact regionFound rfl rfl | decide +kernel), pairOkM (by decide +kernel), pairOkM (by decide +kernel),
     by decide +kernel⟩⟩

theorem test_meets_MulticastRings :
    ((CoreReady sD 5 [19, 8] []) ∧ (CoreDrained sD 5) ∧ ((plainWordsM (whoCore sD 5) ((sD.core 5).gr 19) 8).exec sD = (Except.ok (List.map (fun k =>
      sD.fabNat (28672 + 8 * k) 8) (List.range 8)), stateOfM (plainWordsM (whoCore sD 5) 28672 8) sD)) ∧ (((sD.mring (coreQuadrant 5)).slot
      (BitVec.toNat (sD.mring (coreQuadrant 5)).p % 16)).mask = 0) ∧ (BitVec.toNat ((sD.core 5).gr 19) % 64 = 0) ∧ ((stateOfM (plainWordsM (whoCore sD
      5) 28672 8) sD).mring (coreQuadrant 5) = sD.mring (coreQuadrant 5)) ∧ ((stateOfM (plainWordsM (whoCore sD 5) 28672 8) sD).ringMask (coreQuadrant
      5) (sD.coreCtx 5) (BitVec.extractLsb' 0 16 ((sD.core 5).gr 8)) ≠ 0) ∧ (5 < 16) ∧ (((stateOfM (plainWordsM (whoCore sD 5) 28672 8) sD).ringMask
      (coreQuadrant 5) (sD.coreCtx 5) (BitVec.extractLsb' 0 16 ((sD.core 5).gr 8))).getLsbD 5 = true)) ∧
    ((CoreReady sD 5 [19, 8] []) ∧ (CoreDrained sD 5) ∧ ((plainWordsM (whoCore sD 5) ((sD.core 5).gr 19) 8).exec sD = (Except.ok (List.map (fun k =>
      sD.fabNat (28672 + 8 * k) 8) (List.range 8)), stateOfM (plainWordsM (whoCore sD 5) 28672 8) sD)) ∧ (((sD.mring (coreQuadrant 5)).slot
      (BitVec.toNat (sD.mring (coreQuadrant 5)).p % 16)).mask = 0) ∧ (BitVec.toNat ((sD.core 5).gr 19) % 64 = 0) ∧ ((stateOfM (plainWordsM (whoCore sD
      5) 28672 8) sD).mring (coreQuadrant 5) = sD.mring (coreQuadrant 5)) ∧ ((stateOfM (plainWordsM (whoCore sD 5) 28672 8) sD).ringMask (coreQuadrant
      5) (sD.coreCtx 5) (BitVec.extractLsb' 0 16 ((sD.core 5).gr 8)) ≠ 0)) ∧
    ((CoreReady sD 5 [19, 7] []) ∧ (CoreDrained sD 5) ∧ ((plainWordsM (whoCore sD 5) ((sD.core 5).gr 19) 8).exec sD = (Except.ok (List.map (fun k =>
      sD.fabNat (28672 + 8 * k) 8) (List.range 8)), stateOfM (plainWordsM (whoCore sD 5) 28672 8) sD)) ∧ (((sD.mring (coreQuadrant 5)).slot
      (BitVec.toNat (sD.mring (coreQuadrant 5)).p % 16)).mask = 0) ∧ (BitVec.toNat ((sD.core 5).gr 19) % 64 = 0) ∧ ((stateOfM (plainWordsM (whoCore sD
      5) 28672 8) sD).mring (coreQuadrant 5) = sD.mring (coreQuadrant 5)) ∧ ((stateOfM (plainWordsM (whoCore sD 5) 28672 8) sD).ringMask (coreQuadrant
      5) (sD.coreCtx 5) (BitVec.extractLsb' 0 16 ((sD.core 5).gr 7)) = 0)) ∧
    ((CoreReady sD 5 [9, 7] []) ∧ (CoreDrained sD 5) ∧ (((sD.mring (coreQuadrant 5)).slot (BitVec.toNat (sD.mring (coreQuadrant 5)).p % 16)).mask = 0)
      ∧ (canonical ((sD.core 5).gr 9) = true) ∧ (BitVec.toNat ((sD.core 5).gr 9) % 64 ≠ 0)) ∧
    ((CoreReady alt4_1 5 [19, 8] []) ∧ (CoreDrained alt4_1 5) ∧ (((alt4_1.mring (coreQuadrant 5)).slot (BitVec.toNat (alt4_1.mring (coreQuadrant 5)).p
      % 16)).mask ≠ 0)) ∧
    ((CoreReady (sMr 32 1 withSlot) 5 [] [9]) ∧ ((((sMr 32 1 withSlot).core 5).pend.any fun p => p.acq) = false) ∧ (((sMr 32 1 withSlot).core
      5).slotHeld = true ∨ ((sMr 32 1 withSlot).core 5).mrh = true)) ∧
    ((CoreReady (sMr 32 1 id) 5 [] [9]) ∧ ((((sMr 32 1 id).core 5).pend.any fun p => p.acq) = false) ∧ (((sMr 32 1 id).core 5).slotHeld = false) ∧
      (((sMr 32 1 id).core 5).mrh = false) ∧ (BitVec.toNat (((sMr 32 1 id).mring (coreQuadrant 5)).p - ((sMr 32 1 id).core 5).mcix) ≤ 16) ∧ (0 ≤ 16) ∧
      (∀ j < 0, slotPassed ((sMr 32 1 id).mring (coreQuadrant 5)) (ringBit 5) ((sMr 32 1 id).coreCtx 5) (((sMr 32 1 id).core 5).mcix + BitVec.ofNat 32
      j) = true) ∧ (slotMine ((sMr 32 1 id).mring (coreQuadrant 5)) (ringBit 5) ((sMr 32 1 id).coreCtx 5) (((sMr 32 1 id).core 5).mcix + 0#32) =
      true)) ∧
    ((CoreReady (sMr 16 1 id) 5 [] [9]) ∧ ((((sMr 16 1 id).core 5).pend.any fun p => p.acq) = false) ∧ (((sMr 16 1 id).core 5).slotHeld = false) ∧
      (((sMr 16 1 id).core 5).mrh = false) ∧ (BitVec.toNat (((sMr 16 1 id).mring (coreQuadrant 5)).p - ((sMr 16 1 id).core 5).mcix) ≤ 16) ∧ (1 ≤ 16) ∧
      (∀ j < 1, slotPassed ((sMr 16 1 id).mring (coreQuadrant 5)) (ringBit 5) ((sMr 16 1 id).coreCtx 5) (((sMr 16 1 id).core 5).mcix + BitVec.ofNat 32
      j) = true) ∧ (slotMine ((sMr 16 1 id).mring (coreQuadrant 5)) (ringBit 5) ((sMr 16 1 id).coreCtx 5) (((sMr 16 1 id).core 5).mcix + 1#32) =
      false) ∧ (slotPassed ((sMr 16 1 id).mring (coreQuadrant 5)) (ringBit 5) ((sMr 16 1 id).coreCtx 5) (((sMr 16 1 id).core 5).mcix + 1#32) = false)) ∧
    (CoreReady (sMr 32 1 withSlot) 5 [0] [9]) ∧
    ((CoreReady (sMr 32 1 id) 5 [] []) ∧ (((sMr 32 1 id).core 5).slotHeld = false)) ∧
    ((CoreReady (sMr 32 1 withSlot) 5 [] []) ∧ (((sMr 32 1 withSlot).core 5).slotHeld = true)) :=
  ⟨⟨(by constructor <;> first | exact regionFound rfl rfl | decide +kernel), (by constructor <;> first | exact regionFound rfl rfl | decide +kernel),
     pairOkM (by decide +kernel), by decide +kernel⟩,
   ⟨(by constructor <;> first | exact regionFound rfl rfl | decide +kernel), (by constructor <;> first | exact regionFound rfl rfl | decide +kernel),
     pairOkM (by decide +kernel), by decide +kernel⟩,
   ⟨(by constructor <;> first | exact regionFound rfl rfl | decide +kernel), (by constructor <;> first | exact regionFound rfl rfl | decide +kernel),
     pairOkM (by decide +kernel), by decide +kernel⟩,
   ⟨(by constructor <;> first | exact regionFound rfl rfl | decide +kernel), (by constructor <;> first | exact regionFound rfl rfl | decide +kernel),
     by decide +kernel⟩,
   ⟨(by constructor <;> first | exact regionFound rfl rfl | decide +kernel), (by constructor <;> first | exact regionFound rfl rfl | decide +kernel),
     by decide +kernel⟩,
   ⟨(by constructor <;> first | exact regionFound rfl rfl | decide +kernel), by decide +kernel⟩,
   ⟨(by constructor <;> first | exact regionFound rfl rfl | decide +kernel), by decide +kernel⟩,
   ⟨(by constructor <;> first | exact regionFound rfl rfl | decide +kernel), by decide +kernel⟩,
   (by constructor <;> first | exact regionFound rfl rfl | decide +kernel),
   ⟨(by constructor <;> first | exact regionFound rfl rfl | decide +kernel), by decide +kernel⟩,
   ⟨(by constructor <;> first | exact regionFound rfl rfl | decide +kernel), by decide +kernel⟩⟩

theorem test_meets_BushelQueues :
    ((CoreReady sBq 5 [1, 2] [9]) ∧ (CoreDrained sBq 5)) ∧
    (CoreReady sBq 5 [] [9]) ∧
    ((CoreReady sBq 5 [] [popLow 4, popLow 4 + 1, 8]) ∧ ((4 : BitVec (4 : ℕ)) = (0 : BitVec (4 : ℕ)) ∨ (8 : Reg) = popLow (4 : BitVec (4 : ℕ)) ∨ (8 :
      Reg) = popLow (4 : BitVec (4 : ℕ)) + (1 : Reg))) ∧
    ((CoreReady sBqFull 5 [] [popLow 4, popLow 4 + 1, 12]) ∧ ((4 : BitVec (4 : ℕ)) ≠ (0 : BitVec (4 : ℕ))) ∧ (12 ≠ popLow 4) ∧ (12 ≠ popLow 4 + 1) ∧
      (((sBqFull.core 5).pend.any fun p => p.acq) = false) ∧ (∀ e ∈ sBqFull.bq (bqIndex 5 0 0), e.ctx ≠ sBqFull.coreCtx 5)) ∧
    ((CoreReady sBq 5 [] [popLow 4, popLow 4 + 1, 12]) ∧ ((4 : BitVec (4 : ℕ)) ≠ (0 : BitVec (4 : ℕ))) ∧ (12 ≠ popLow 4) ∧ (12 ≠ popLow 4 + 1) ∧
      (((sBq.core 5).pend.any fun p => p.acq) = false) ∧ (∃ e ∈ sBq.bq (bqIndex 5 0 0), e.ctx = sBq.coreCtx 5)) :=
  ⟨⟨(by constructor <;> first | exact regionFound rfl rfl | decide +kernel), (by constructor <;> first | exact regionFound rfl rfl | decide +kernel)⟩,
   (by constructor <;> first | exact regionFound rfl rfl | decide +kernel),
   ⟨(by constructor <;> first | exact regionFound rfl rfl | decide +kernel), by decide +kernel⟩,
   ⟨(by constructor <;> first | exact regionFound rfl rfl | decide +kernel), by decide +kernel⟩,
   ⟨(by constructor <;> first | exact regionFound rfl rfl | decide +kernel), by decide +kernel⟩⟩

theorem test_meets_SystemRegistersAndInstructions :
    ((CoreReady sC 5 [8] [9]) ∧ ((5 : ℕ) = BitVec.toNat (5 : BitVec (12 : ℕ)))) ∧
    ((CoreReady sC 5 [8] [9]) ∧ ((5 : ℕ) = BitVec.toNat (5 : BitVec (12 : ℕ))) ∧ (true = true)) ∧
    ((CoreReady sC 5 [8] [9]) ∧ ((10 : ℕ) = BitVec.toNat (10 : BitVec (12 : ℕ))) ∧ (false = false) ∧ (Instr.csrw 8 10 ∈ [Instr.csrw 8 10, Instr.csrs 8
      10, Instr.csrc 8 10])) ∧
    ((CoreReady sC 5 [8] [9]) ∧ (∀ p ∈ registersOf sC (5 : ℕ), p.1 ≠ BitVec.toNat (260 : BitVec (12 : ℕ))) ∧ (Instr.csrw 8 260 ∈ [Instr.csrr 9 260,
      Instr.csrw 8 260, Instr.csrs 8 260, Instr.csrc 8 260])) ∧
    ((CoreReady sC 5 [] []) ∧ ((sC.core 5).waitFrom = none)) ∧
    ((CoreReady sWait 5 [] []) ∧ ((sWait.core 5).waitFrom = some 5)) ∧
    (CoreReady sC 5 [] []) ∧
    (256 ≠ 5) :=
  ⟨⟨(by constructor <;> first | exact regionFound rfl rfl | decide +kernel), by decide +kernel⟩,
   ⟨(by constructor <;> first | exact regionFound rfl rfl | decide +kernel), by decide +kernel⟩,
   ⟨(by constructor <;> first | exact regionFound rfl rfl | decide +kernel), by decide +kernel⟩,
   ⟨(by constructor <;> first | exact regionFound rfl rfl | decide +kernel), by decide +kernel⟩,
   ⟨(by constructor <;> first | exact regionFound rfl rfl | decide +kernel), by decide +kernel⟩,
   ⟨(by constructor <;> first | exact regionFound rfl rfl | decide +kernel), by decide +kernel⟩,
   (by constructor <;> first | exact regionFound rfl rfl | decide +kernel),
   by decide +kernel⟩

theorem test_meets_FaultsAndEventsEnter :
    (((sBadPc 274877906944).fetch 5 = (Except.error (Stop.raise 11 274877906944), stateOfM (fetchM (whoCore (sBadPc 274877906944) 5) 274877906944)
      (sBadPc 274877906944))) ∧ ((sBadPc 274877906944).fetchesNow 5 = true)) ∧
    ((sIll.fetch 5 = (Except.ok (Decoded.rejected Reject.unallocated), stateOfM (fetchM (whoCore sIll 5) 4096) sIll)) ∧ (sIll.fetchesNow 5 = true)) ∧
    (((sEv.nextEvent 5 = some evT) ∧ ((sEv.core 5).run = RunSt.running) ∧ ((sEv.core 5).evec ≠ 0) ∧ ((sEv.core 5).evt = false)) ∧ (sC.nextEvent 5 =
      none ∨ (sC.core 5).evec = 0 ∨ (sC.core 5).evt = true) ∧ (((sWait.core 5).waitFrom = some 5) ∧ (5 + 65536 ≤ sWait.cyc)) ∧ (256 ≠ 5)) ∧
    (((sEv.nextEvent 5 = some evT) ∧ ((sEv.core 5).run = RunSt.running) ∧ ((sEv.core 5).evec ≠ 0) ∧ ((sEv.core 5).evt = false) ∧ (256 ≠ 5)) ∧
      (sC.coreRuns 6 = false ∨ 6 ≠ 256 ∧ sC.slotOpen 6 = false)) :=
  ⟨⟨pairErr (by decide +kernel) (by decide +kernel), by decide +kernel⟩,
   ⟨pairOk (by decide +kernel) (by decide +kernel), by decide +kernel⟩,
   by decide +kernel,
   by decide +kernel⟩

theorem test_meets_ReplayCommands :
    ((CoreReady sFz 5 [20] [9]) ∧ (sFz.region? (wordId ((sFz.core 5).gr 20)) = some (rFz (Instr.addI32
      { trig := 0, d := 0, a := 1, b := 2, dqa := false, dqb := false, sp := true, tp := false }))) ∧ (sFz.rplStatus 5 (sFz.core 5) ((sFz.core 5).gr
      20) = 0)) ∧
    ((CoreReady sFz 5 [3] [9]) ∧ (sFz.rplStatus 5 (sFz.core 5) ((sFz.core 5).gr 3) ≠ 0)) ∧
    ((CoreReady sFz 5 [20] [9]) ∧ ((sFz.core 5).replay = none) ∧ ((sFz.core 5).rplSet = false) ∧ (wordBad ((sFz.core 5).gr 20) = false)) ∧
    ((CoreReady (inReplay (Instr.addI32 { trig := 0, d := 0, a := 1, b := 2, dqa := false, dqb := false, sp := true, tp := false })) 5 [20] [9]) ∧
      (((inReplay (Instr.addI32 { trig := 0, d := 0, a := 1, b := 2, dqa := false, dqb := false, sp := true, tp := false })).core 5).replay ≠ none ∨
      ((inReplay (Instr.addI32 { trig := 0, d := 0, a := 1, b := 2, dqa := false, dqb := false, sp := true, tp := false })).core 5).rplSet = true)) ∧
    ((CoreReady sFz 5 [8] [9]) ∧ ((sFz.core 5).replay = none) ∧ ((sFz.core 5).rplSet = false) ∧ (wordBad ((sFz.core 5).gr 8) = true)) ∧
    ((CoreReady sFz 5 [] [9]) ∧ (((sFz.core 5).pend.any fun p => p.acq) = false) ∧ ((sFz.core 5).replay = none) ∧ (Instr.rplStep 9 0 0 ∈
      [Instr.rplStep 9 0 0, Instr.rplEnd 9 0 0, Instr.rplDrop 9 0 0])) ∧
    ((CoreReady (inReplay iAdd) 5 [] [9]) ∧ ((inReplay iAdd).region? 80 = some (rIn iAdd)) ∧ (((inReplay iAdd).replayCommit 80 3).region? 80 = some
      (regC (inReplay iAdd))) ∧ ((((inReplay iAdd).core 5).pend.any fun p => p.acq) = false) ∧ (((inReplay iAdd).core 5).replay = some 80) ∧ (drained
      ((inReplay iAdd).core 5) = true) ∧ (((inReplay iAdd).core 5).rplIdx.toNat < ((inReplay iAdd).core 5).rplLen.toNat) ∧ ((rIn iAdd).replay = some
      (pIn iAdd)) ∧ ((pIn iAdd).todo[((inReplay iAdd).core 5).rplIdx.toNat]? = some jOne) ∧ ((if Option.any (fun w => w.start != jOne.cycle) (regC
      (inReplay iAdd)).sweep = true then ((inReplay iAdd).replayCommit 80 3).replaySweep (regC (inReplay iAdd)) ((inReplay iAdd).core 5).rplIdx.toNat
      else (inReplay iAdd).replayCommit 80 3).region? 80 = some (regSw (inReplay iAdd))) ∧ (((if Option.any (fun w => w.start != jOne.cycle) (regC
      (inReplay iAdd)).sweep = true then ((inReplay iAdd).replayCommit 80 3).replaySweep (regC (inReplay iAdd)) ((inReplay iAdd).core 5).rplIdx.toNat
      else (inReplay iAdd).replayCommit 80 3).replayReady (regSw (inReplay iAdd)) ((inReplay iAdd).core 5).rplIdx.toNat).region? 80 = some (regR
      (inReplay iAdd))) ∧ (((if Option.any (fun w => w.start != jOne.cycle) (regC (inReplay iAdd)).sweep = true then ((inReplay iAdd).replayCommit 80
      3).replaySweep (regC (inReplay iAdd)) ((inReplay iAdd).core 5).rplIdx.toNat else (inReplay iAdd).replayCommit 80 3).replayReady (regSw (inReplay
      iAdd)) ((inReplay iAdd).core 5).rplIdx.toNat).slotOpen ((regR (inReplay iAdd)).sector jOne.elem) = true) ∧ (((if Option.any (fun w => w.start !=
      jOne.cycle) (regC (inReplay iAdd)).sweep = true then ((inReplay iAdd).replayCommit 80 3).replaySweep (regC (inReplay iAdd)) ((inReplay
      iAdd).core 5).rplIdx.toNat else (inReplay iAdd).replayCommit 80 3).replayReady (regSw (inReplay iAdd)) ((inReplay iAdd).core
      5).rplIdx.toNat).replayFire (regR (inReplay iAdd)).aged jOne = FireRes.done (elOf ((readyC (inReplay iAdd)).replayFire (regR (inReplay
      iAdd)).aged jOne)) []) ∧ (fxAccess [] = none) ∧ ((regR (inReplay iAdd)).windowsFull = false)) ∧
    ((CoreReady (inReplay iBad) 5 [] [9]) ∧ ((inReplay iBad).region? 80 = some (rIn iBad)) ∧ (((inReplay iBad).replayCommit 80 3).region? 80 = some
      (regC (inReplay iBad))) ∧ ((((inReplay iBad).core 5).pend.any fun p => p.acq) = false) ∧ (((inReplay iBad).core 5).replay = some 80) ∧ (drained
      ((inReplay iBad).core 5) = true) ∧ (((inReplay iBad).core 5).rplIdx.toNat < ((inReplay iBad).core 5).rplLen.toNat) ∧ ((rIn iBad).replay = some
      (pIn iBad)) ∧ ((pIn iBad).todo[((inReplay iBad).core 5).rplIdx.toNat]? = some jOne) ∧ ((if Option.any (fun w => w.start != jOne.cycle) (regC
      (inReplay iBad)).sweep = true then ((inReplay iBad).replayCommit 80 3).replaySweep (regC (inReplay iBad)) ((inReplay iBad).core 5).rplIdx.toNat
      else (inReplay iBad).replayCommit 80 3).region? 80 = some (regSw (inReplay iBad))) ∧ (((if Option.any (fun w => w.start != jOne.cycle) (regC
      (inReplay iBad)).sweep = true then ((inReplay iBad).replayCommit 80 3).replaySweep (regC (inReplay iBad)) ((inReplay iBad).core 5).rplIdx.toNat
      else (inReplay iBad).replayCommit 80 3).replayReady (regSw (inReplay iBad)) ((inReplay iBad).core 5).rplIdx.toNat).region? 80 = some (regR
      (inReplay iBad))) ∧ (((if Option.any (fun w => w.start != jOne.cycle) (regC (inReplay iBad)).sweep = true then ((inReplay iBad).replayCommit 80
      3).replaySweep (regC (inReplay iBad)) ((inReplay iBad).core 5).rplIdx.toNat else (inReplay iBad).replayCommit 80 3).replayReady (regSw (inReplay
      iBad)) ((inReplay iBad).core 5).rplIdx.toNat).slotOpen ((regR (inReplay iBad)).sector jOne.elem) = true) ∧ (((if Option.any (fun w => w.start !=
      jOne.cycle) (regC (inReplay iBad)).sweep = true then ((inReplay iBad).replayCommit 80 3).replaySweep (regC (inReplay iBad)) ((inReplay
      iBad).core 5).rplIdx.toNat else (inReplay iBad).replayCommit 80 3).replayReady (regSw (inReplay iBad)) ((inReplay iBad).core
      5).rplIdx.toNat).replayFire (regR (inReplay iBad)).aged jOne = FireRes.raises 24)) ∧
    ((CoreReady sNo6 5 [] [9]) ∧ (sNo6.region? 80 = some rNo6) ∧ ((sNo6.replayCommit 80 3).region? 80 = some (regC sNo6)) ∧ (((sNo6.core 5).pend.any
      fun p => p.acq) = false) ∧ ((sNo6.core 5).replay = some 80) ∧ (drained (sNo6.core 5) = true) ∧ ((sNo6.core 5).rplIdx.toNat < (sNo6.core
      5).rplLen.toNat) ∧ (rNo6.replay = some pNo6) ∧ (pNo6.todo[(sNo6.core 5).rplIdx.toNat]? = some jOne) ∧ ((if Option.any (fun w => w.start !=
      jOne.cycle) (regC sNo6).sweep = true then (sNo6.replayCommit 80 3).replaySweep (regC sNo6) (sNo6.core 5).rplIdx.toNat else sNo6.replayCommit 80
      3).region? 80 = some (regSw sNo6)) ∧ (((if Option.any (fun w => w.start != jOne.cycle) (regC sNo6).sweep = true then (sNo6.replayCommit 80
      3).replaySweep (regC sNo6) (sNo6.core 5).rplIdx.toNat else sNo6.replayCommit 80 3).replayReady (regSw sNo6) (sNo6.core 5).rplIdx.toNat).region?
      80 = some (regR sNo6)) ∧ (((if Option.any (fun w => w.start != jOne.cycle) (regC sNo6).sweep = true then (sNo6.replayCommit 80 3).replaySweep
      (regC sNo6) (sNo6.core 5).rplIdx.toNat else sNo6.replayCommit 80 3).replayReady (regSw sNo6) (sNo6.core 5).rplIdx.toNat).slotOpen ((regR
      sNo6).sector jOne.elem) = true) ∧ (((if Option.any (fun w => w.start != jOne.cycle) (regC sNo6).sweep = true then (sNo6.replayCommit 80
      3).replaySweep (regC sNo6) (sNo6.core 5).rplIdx.toNat else sNo6.replayCommit 80 3).replayReady (regSw sNo6) (sNo6.core
      5).rplIdx.toNat).replayFire (regR sNo6).aged jOne = FireRes.notReady) ∧ (((regR sNo6).wins.any fun w => w.closed) = false)) ∧
    ((CoreReady inRd 5 [] [9]) ∧ (inRd.region? 80 = some (rIn iAdd)) ∧ (((inRd.core 5).pend.any fun p => p.acq) = false) ∧ ((inRd.core 5).replay =
      some 80) ∧ (drained (inRd.core 5) = true) ∧ ((inRd.core 5).rplLen.toNat ≤ (inRd.core 5).rplIdx.toNat)) ∧
    ((CoreReady inRd 5 [] [9]) ∧ (inRd.region? 80 = some (rIn iAdd)) ∧ (((inRd.core 5).pend.any fun p => p.acq) = false) ∧ ((inRd.core 5).replay =
      some 80) ∧ ((rIn iAdd).sweep = none)) ∧
    ((CoreReady inRd 5 [] [9]) ∧ (inRd.region? 80 = some (rIn iAdd)) ∧ (((inRd.core 5).pend.any fun p => p.acq) = false) ∧ ((inRd.core 5).replay =
      some 80)) ∧
    ((CoreReady (inReplay (iLd 0)) 5 [] [9]) ∧ ((inReplay (iLd 0)).region? 80 = some (rIn (iLd 0))) ∧ (((inReplay (iLd 0)).replayCommit 80 3).region?
      80 = some (regC (inReplay (iLd 0)))) ∧ ((readyC (inReplay (iLd 0))).region? 80 = some (regR (inReplay (iLd 0)))) ∧ ((replayOrderM 80 jOne (reqOf
      (iLd 0))).exec (readyC (inReplay (iLd 0))) = (Except.ok (), ordS (iLd 0))) ∧ ((ordS (iLd 0)).region? 80 = some (ordR (iLd 0))) ∧ (∀ (t : State)
      (cause : Byte) (addr : DWord), failsD t cause addr = (t.updCore 5 fun y => { y with ecause := BitVec.zeroExtend 64 cause, eaddr := addr }).wrote
      5 9 1 4) ∧ ((accessM
      ({ accWho (ordR (iLd 0)) (mkAcc (ordR (iLd 0)) jOne.elem jOne.slot (ordS (iLd 0)).cyc (reqOf (iLd 0))) with reader := Reader.core 5 }) (mkAcc
      (ordR (iLd 0)) jOne.elem jOne.slot (ordS (iLd 0)).cyc (reqOf (iLd 0))).kind.need (mkAcc (ordR (iLd 0)) jOne.elem jOne.slot (ordS (iLd 0)).cyc
      (reqOf (iLd 0))).va (mkAcc (ordR (iLd 0)) jOne.elem jOne.slot (ordS (iLd 0)).cyc (reqOf (iLd 0))).size).exec (ordS (iLd 0)) = (Except.error
      (Stop.raise Cause.misaligned 8193), ordS (iLd 0))) ∧ ((((inReplay (iLd 0)).core 5).pend.any fun p => p.acq) = false) ∧ (drained ((inReplay (iLd
      0)).core 5) = true) ∧ (((inReplay (iLd 0)).core 5).replay = some 80) ∧ ((rIn (iLd 0)).replay = some (pIn (iLd 0))) ∧ (((inReplay (iLd 0)).core
      5).rplIdx.toNat < ((inReplay (iLd 0)).core 5).rplLen.toNat) ∧ ((pIn (iLd 0)).todo[((inReplay (iLd 0)).core 5).rplIdx.toNat]? = some jOne) ∧
      ((regC (inReplay (iLd 0))).sweep = none) ∧ (readyC (inReplay (iLd 0)) = ((inReplay (iLd 0)).replayCommit 80 3).replayReady (regC (inReplay (iLd
      0))) ((inReplay (iLd 0)).core 5).rplIdx.toNat) ∧ ((readyC (inReplay (iLd 0))).slotOpen ((regR (inReplay (iLd 0))).sector jOne.elem) = true) ∧
      ((readyC (inReplay (iLd 0))).replayFire (regR (inReplay (iLd 0))).aged jOne = FireRes.done (elOf ((readyC (inReplay (iLd 0))).replayFire (regR
      (inReplay (iLd 0))).aged jOne)) (fxOf ((readyC (inReplay (iLd 0))).replayFire (regR (inReplay (iLd 0))).aged jOne))) ∧ ((regR (inReplay (iLd
      0))).windowsFull = false) ∧ (fxAccess (fxOf ((readyC (inReplay (iLd 0))).replayFire (regR (inReplay (iLd 0))).aged jOne)) = some (reqOf (iLd
      0))) ∧ (((regR (inReplay (iLd 0))).applied.any fun x => x.elem == jOne.elem && x.slot == jOne.slot) = false)) ∧
    ((CoreReady (inReplay (iLd 9)) 5 [] [9]) ∧ ((inReplay (iLd 9)).region? 80 = some (rIn (iLd 9))) ∧ (((inReplay (iLd 9)).replayCommit 80 3).region?
      80 = some (regC (inReplay (iLd 9)))) ∧ ((readyC (inReplay (iLd 9))).region? 80 = some (regR (inReplay (iLd 9)))) ∧ ((replayOrderM 80 jOne (reqOf
      (iLd 9))).exec (readyC (inReplay (iLd 9))) = (Except.ok (), ordS (iLd 9))) ∧ ((ordS (iLd 9)).region? 80 = some (ordR (iLd 9))) ∧ (∀ (t : State)
      (cause : Byte) (addr : DWord), failsD t cause addr = (t.updCore 5 fun y => { y with ecause := BitVec.zeroExtend 64 cause, eaddr := addr }).wrote
      5 9 1 4) ∧ ((accessM
      ({ accWho (ordR (iLd 9)) (mkAcc (ordR (iLd 9)) jOne.elem jOne.slot (ordS (iLd 9)).cyc (reqOf (iLd 9))) with reader := Reader.core 5 }) (mkAcc
      (ordR (iLd 9)) jOne.elem jOne.slot (ordS (iLd 9)).cyc (reqOf (iLd 9))).kind.need (mkAcc (ordR (iLd 9)) jOne.elem jOne.slot (ordS (iLd 9)).cyc
      (reqOf (iLd 9))).va (mkAcc (ordR (iLd 9)) jOne.elem jOne.slot (ordS (iLd 9)).cyc (reqOf (iLd 9))).size).exec (ordS (iLd 9)) = (Except.ok (normal
      8192), accsS (iLd 9))) ∧ ((replayPerformM 5
      ({ accWho (ordR (iLd 9)) (mkAcc (ordR (iLd 9)) jOne.elem jOne.slot (ordS (iLd 9)).cyc (reqOf (iLd 9))) with reader := Reader.core 5 }) (ordR
      (iLd 9)) (mkAcc (ordR (iLd 9)) jOne.elem jOne.slot (ordS (iLd 9)).cyc (reqOf (iLd 9))) (normal 8192)).exec (accsS (iLd 9)) = (Except.ok
      (ReplayAcc.done AccSt.done (some (1144201857, false))), accsS (iLd 9))) ∧ ((((inReplay (iLd 9)).core 5).pend.any fun p => p.acq) = false) ∧
      (drained ((inReplay (iLd 9)).core 5) = true) ∧ (((inReplay (iLd 9)).core 5).replay = some 80) ∧ ((rIn (iLd 9)).replay = some (pIn (iLd 9))) ∧
      (((inReplay (iLd 9)).core 5).rplIdx.toNat < ((inReplay (iLd 9)).core 5).rplLen.toNat) ∧ ((pIn (iLd 9)).todo[((inReplay (iLd 9)).core
      5).rplIdx.toNat]? = some jOne) ∧ ((regC (inReplay (iLd 9))).sweep = none) ∧ (readyC (inReplay (iLd 9)) = ((inReplay (iLd 9)).replayCommit 80
      3).replayReady (regC (inReplay (iLd 9))) ((inReplay (iLd 9)).core 5).rplIdx.toNat) ∧ ((readyC (inReplay (iLd 9))).slotOpen ((regR (inReplay (iLd
      9))).sector jOne.elem) = true) ∧ ((readyC (inReplay (iLd 9))).replayFire (regR (inReplay (iLd 9))).aged jOne = FireRes.done (elOf ((readyC
      (inReplay (iLd 9))).replayFire (regR (inReplay (iLd 9))).aged jOne)) (fxOf ((readyC (inReplay (iLd 9))).replayFire (regR (inReplay (iLd
      9))).aged jOne))) ∧ ((regR (inReplay (iLd 9))).windowsFull = false) ∧ (fxAccess (fxOf ((readyC (inReplay (iLd 9))).replayFire (regR (inReplay
      (iLd 9))).aged jOne)) = some (reqOf (iLd 9))) ∧ (((regR (inReplay (iLd 9))).applied.any fun x => x.elem == jOne.elem && x.slot == jOne.slot) =
      false)) ∧
    ((CoreReady sVst 5 [] [9]) ∧ (sVst.region? 80 = some rVst) ∧ ((sVst.replayCommit 80 3).region? 80 = some (regC sVst)) ∧ ((readyC sVst).region? 80
      = some (regR sVst)) ∧ ((replayOrderM 80 jOne qVst).exec (readyC sVst) = (Except.ok (), ordVst)) ∧ (ordVst.region? 80 = some r4Vst) ∧ (∀ (t :
      State) (cause : Byte) (addr : DWord), failsD t cause addr = (t.updCore 5 fun y =>
      { y with ecause := BitVec.zeroExtend 64 cause, eaddr := addr }).wrote 5 9 1 4) ∧ ((accessM
      ({ accWho r4Vst (mkAcc r4Vst jOne.elem jOne.slot ordVst.cyc qVst) with reader := Reader.core 5 }) (mkAcc r4Vst jOne.elem jOne.slot ordVst.cyc
      qVst).kind.need (mkAcc r4Vst jOne.elem jOne.slot ordVst.cyc qVst).va (mkAcc r4Vst jOne.elem jOne.slot ordVst.cyc qVst).size).exec ordVst =
      (Except.ok (version 8192), accVst)) ∧ ((replayPerformM 5
      ({ accWho r4Vst (mkAcc r4Vst jOne.elem jOne.slot ordVst.cyc qVst) with reader := Reader.core 5 }) r4Vst (mkAcc r4Vst jOne.elem jOne.slot
      ordVst.cyc qVst) (version 8192)).exec accVst = (Except.ok (ReplayAcc.fails Cause.versionStall 137438961664), stateOfM (replayPerformM 5 wVst
      r4Vst (accOf ordVst r4Vst qVst) (version 8192)) accVst)) ∧ (((sVst.core 5).pend.any fun p => p.acq) = false) ∧ (drained (sVst.core 5) = true) ∧
      ((sVst.core 5).replay = some 80) ∧ (rVst.replay = some pVst) ∧ ((sVst.core 5).rplIdx.toNat < (sVst.core 5).rplLen.toNat) ∧ (pVst.todo[(sVst.core
      5).rplIdx.toNat]? = some jOne) ∧ ((regC sVst).sweep = none) ∧ (readyC sVst = (sVst.replayCommit 80 3).replayReady (regC sVst) (sVst.core
      5).rplIdx.toNat) ∧ ((readyC sVst).slotOpen ((regR sVst).sector jOne.elem) = true) ∧ ((readyC sVst).replayFire (regR sVst).aged jOne =
      FireRes.done (elOf fireVst) (fxOf fireVst)) ∧ ((regR sVst).windowsFull = false) ∧ (fxAccess (fxOf fireVst) = some qVst) ∧ (((regR
      sVst).applied.any fun x => x.elem == jOne.elem && x.slot == jOne.slot) = false)) ∧
    (((amoAtM (normal 8192) AmoKind.add (rpA (AccKind.amo AmoKind.add) 8192).size (BitVec.extractLsb' 0 64 (rpA (AccKind.amo AmoKind.add)
      8192).data).toNat (BitVec.toNat (rpA (AccKind.amo AmoKind.add) 8192).new)).exec rpS = (Except.ok (9833440827789222529, false), stateOfM (amoAtM
      (normal 8192) AmoKind.add 8 119 0) rpS)) ∧ ((normal 8192).mt = 1 ∨ rpS.isLocal (normal 8192).pa = true) ∧ ((rpA (AccKind.amo AmoKind.add)
      8192).kind = AccKind.amo AmoKind.add) ∧ (rpS.scored (ordR (iLd 9)) (rpA (AccKind.amo AmoKind.add) 8192) = false)) ∧
    (((inReplay iAdd).region? (rIn iAdd).id = some (rIn iAdd)) ∧ ((rIn iAdd).replay = some (pIn iAdd))) ∧
    ((((rpA AccKind.store 8192).kind = AccKind.store) ∧ (rpS.scored (ordR (iLd 9)) (rpA AccKind.store 8192) = false)) ∧ (((normal 8192).mt = 1 ∨
      rpS.isLocal (normal 8192).pa = true) ∧ ((rpA AccKind.load 8192).kind = AccKind.load ∨ (rpA AccKind.load 8192).kind = AccKind.acquire) ∧ ((ordR
      (iLd 9)).covered (rpA AccKind.load 8192).serial (normal 8192) (rpA AccKind.load 8192).size = true ∨ rpS.scored (ordR (iLd 9)) (rpA AccKind.load
      8192) = false) ∧ (rpS.loadBytes (ordR (iLd 9)) (rpA AccKind.load 8192).serial (normal 8192) (rpA AccKind.load 8192).size 0 = ((rpS.loadBytes
      (ordR (iLd 9)) (rpA AccKind.load 8192).serial (normal 8192) 8 0).1, (rpS.loadBytes (ordR (iLd 9)) (rpA AccKind.load 8192).serial (normal 8192) 8
      0).2))) ∧ (((normal 8192).mt = 1 ∨ rpS.isLocal (normal 8192).pa = true) ∧ ((rpA AccKind.release 8192).kind = AccKind.release) ∧ (rpS.scored
      (ordR (iLd 9)) (rpA AccKind.release 8192) = false) ∧ (storeBlocked rpS (normal 8192) (rpA AccKind.release 8192).size = false)) ∧ (((normal
      8192).mt = 1 ∨ rpS.isLocal (normal 8192).pa = true) ∧ ((rpA AccKind.vst 8192).kind = AccKind.vst) ∧ (rpS.vstLost rpW (lowOf (normal 8192).pa) =
      false) ∧ (rpS.vstHeld (lowOf (normal 8192).pa) (VldOwner.step 5) = false) ∧ (rpS.writeHeld (lowOf (normal 8192).pa) 8 false = false))) ∧
    ((((normal 8192).mt = 1 ∨ rpS.isLocal (normal 8192).pa = true) ∧ ((rpA AccKind.vrcl 8192).kind = AccKind.vrcl)) ∧ (((normal 8192).mt = 1 ∨
      rpS.isLocal (normal 8192).pa = true) ∧ ((rpA AccKind.vld 8192).kind = AccKind.vld) ∧ (rpS.isLocal (normal 8192).pa = true) ∧
      ((rpS.remoteReads.any fun q => q.reader == rpW.reader) = false) ∧ (rpS.judgeVld (lowOf (normal 8192).pa) (rpA AccKind.vld 8192).version =
      VldAnswer.gone)) ∧ (((normal 8192).mt = 1 ∨ rpS0.isLocal (normal 8192).pa = true) ∧ ((rpA AccKind.vld 8192).kind = AccKind.vld) ∧ (rpS0.isLocal
      (normal 8192).pa = true) ∧ ((rpS0.remoteReads.any fun q => q.reader == rpW.reader) = false) ∧ (rpS0.judgeVld (lowOf (normal 8192).pa) (rpA
      AccKind.vld 8192).version = VldAnswer.value 34 false))) :=
  ⟨⟨(by constructor <;> first | exact regionFound rfl rfl | decide +kernel), (by first | exact regionFound rfl rfl | decide +kernel),
     by decide +kernel⟩,
   ⟨(by constructor <;> first | exact regionFound rfl rfl | decide +kernel), by decide +kernel⟩,
   ⟨(by constructor <;> first | exact regionFound rfl rfl | decide +kernel), by decide +kernel⟩,
   ⟨(by constructor <;> first | exact regionFound rfl rfl | decide +kernel), by decide +kernel⟩,
   ⟨(by constructor <;> first | exact regionFound rfl rfl | decide +kernel), by decide +kernel⟩,
   ⟨(by constructor <;> first | exact regionFound rfl rfl | decide +kernel), by decide +kernel⟩,
   ⟨(by constructor <;> first | exact regionFound rfl rfl | decide +kernel), (by first | exact regionFound rfl rfl | decide +kernel),
     (by first | exact regionFound rfl rfl | decide +kernel), by decide +kernel⟩,
   ⟨(by constructor <;> first | exact regionFound rfl rfl | decide +kernel), (by first | exact regionFound rfl rfl | decide +kernel),
     (by first | exact regionFound rfl rfl | decide +kernel), by decide +kernel⟩,
   ⟨(by constructor <;> first | exact regionFound rfl rfl | decide +kernel), (by first | exact regionFound rfl rfl | decide +kernel),
     (by first | exact regionFound rfl rfl | decide +kernel), by decide +kernel⟩,
   ⟨(by constructor <;> first | exact regionFound rfl rfl | decide +kernel), (by first | exact regionFound rfl rfl | decide +kernel),
     by decide +kernel⟩,
   ⟨(by constructor <;> first | exact regionFound rfl rfl | decide +kernel), (by first | exact regionFound rfl rfl | decide +kernel),
     by decide +kernel⟩,
   ⟨(by constructor <;> first | exact regionFound rfl rfl | decide +kernel), (by first | exact regionFound rfl rfl | decide +kernel),
     by decide +kernel⟩,
   ⟨(by constructor <;> first | exact regionFound rfl rfl | decide +kernel), (by first | exact regionFound rfl rfl | decide +kernel),
     (by first | exact regionFound rfl rfl | decide +kernel), (by first | exact regionFound rfl rfl | decide +kernel), pairOkM (by decide +kernel),
     (by first | exact regionFound rfl rfl | decide +kernel), (fun _ _ _ => rfl), pairErr (by decide +kernel) (by decide +kernel), by decide +kernel⟩,
   ⟨(by constructor <;> first | exact regionFound rfl rfl | decide +kernel), (by first | exact regionFound rfl rfl | decide +kernel),
     (by first | exact regionFound rfl rfl | decide +kernel), (by first | exact regionFound rfl rfl | decide +kernel), pairOkM (by decide +kernel),
     (by first | exact regionFound rfl rfl | decide +kernel), (fun _ _ _ => rfl), pairOkM (by decide +kernel), pairOk (by decide +kernel)
     (by decide +kernel), by decide +kernel⟩,
   ⟨(by constructor <;> first | exact regionFound rfl rfl | decide +kernel), (by first | exact regionFound rfl rfl | decide +kernel),
     (by first | exact regionFound rfl rfl | decide +kernel), (by first | exact regionFound rfl rfl | decide +kernel), pairOkM (by decide +kernel),
     (by first | exact regionFound rfl rfl | decide +kernel), (fun _ _ _ => rfl), pairOkM (by decide +kernel), pairOkM (by decide +kernel),
     by decide +kernel⟩,
   ⟨pairOkM (by decide +kernel), by decide +kernel⟩,
   ⟨(by first | exact regionFound rfl rfl | decide +kernel), by decide +kernel⟩,
   by decide +kernel,
   by decide +kernel⟩

theorem test_meets_ManagementPrivilegeAndContexts :
    (CoreReady (sMx [(1, 63), (2, 65541)]) 256 [1, 2] []) ∧
    (CoreReady (sMx [(1, 0), (2, 67584)]) 256 [1, 2] []) ∧
    ((CoreReady (sMx [(1, 0), (2, 9)]) 256 [1, 2] []) ∧ (BitVec.toNat (((sMx [(1, 0), (2, 9)]).core 256).gr 2) = 0 ∨ 8 < BitVec.toNat (((sMx [(1, 0),
      (2, 9)]).core 256).gr 2))) ∧
    ((CoreReady (sMx [(1, 65535), (2, 8)]) 256 [1, 2] []) ∧ (1 ≤ BitVec.toNat (((sMx [(1, 65535), (2, 8)]).core 256).gr 2)) ∧ (BitVec.toNat (((sMx
      [(1, 65535), (2, 8)]).core 256).gr 2) ≤ 8) ∧ (255 < 256)) ∧
    ((CoreReady (sMx [(1, 261), (2, 1)]) 256 [1, 2] []) ∧ (1 ≤ BitVec.toNat (((sMx [(1, 261), (2, 1)]).core 256).gr 2)) ∧ (BitVec.toNat (((sMx [(1,
      261), (2, 1)]).core 256).gr 2) ≤ 8)) ∧
    (CoreReady (sMx [(2, 512)]) 256 [2] [1]) ∧
    ((CoreReady (sMx [(1, 8192)]) 256 [1] []) ∧ ((plainWordsM (whoCore (sMx [(1, 8192)]) 256) (((sMx [(1, 8192)]).core 256).gr 1) 4).exec (sMx [(1,
      8192)]) = (Except.ok [9833440827789222529, 0, 0, 0], stateOfM (plainWordsM (whoCore (sMx [(1, 8192)]) 256) 8192 4) (sMx [(1, 8192)]))) ∧
      (9833440827789222529 < 2 ^ 64) ∧ (0 < 2 ^ 64)) ∧
    ((CoreReady (sMx [(1, 274877906944)]) 256 [1] []) ∧ ((plainWordsM (whoCore (sMx [(1, 274877906944)]) 256) (((sMx [(1, 274877906944)]).core 256).gr
      1) 4).exec (sMx [(1, 274877906944)]) = (Except.error (Stop.raise 11 274877906944), sMx [(1, 274877906944)]))) ∧
    ((sC.act = Acting.core 5) ∧ (5 ≠ Config.sceip) ∧ (Instr.mstThaw 9 ∈ mgmtCommands 9 8 3)) :=
  ⟨(by constructor <;> first | exact regionFound rfl rfl | decide +kernel),
   (by constructor <;> first | exact regionFound rfl rfl | decide +kernel),
   ⟨(by constructor <;> first | exact regionFound rfl rfl | decide +kernel), by decide +kernel⟩,
   ⟨(by constructor <;> first | exact regionFound rfl rfl | decide +kernel), by decide +kernel⟩,
   ⟨(by constructor <;> first | exact regionFound rfl rfl | decide +kernel), by decide +kernel⟩,
   (by constructor <;> first | exact regionFound rfl rfl | decide +kernel),
   ⟨(by constructor <;> first | exact regionFound rfl rfl | decide +kernel), pairOkM (by decide +kernel), by decide +kernel⟩,
   ⟨(by constructor <;> first | exact regionFound rfl rfl | decide +kernel), pairErrM (by decide +kernel)⟩,
   by decide +kernel⟩

theorem test_meets_ManagementOfMasters :
    ((CoreReady (sMx [(2, 64)]) 256 [2] [9]) ∧ (BitVec.toNat (((sMx [(2, 64)]).core 256).gr 2) = 0 ∨ 63 < BitVec.toNat (((sMx [(2, 64)]).core 256).gr
      2))) ∧
    ((CoreReady sKill 256 [2] [9]) ∧ (1 ≤ BitVec.toNat ((sKill.core 256).gr 2)) ∧ (BitVec.toNat ((sKill.core 256).gr 2) ≤ 63) ∧ (sKill.ctxHeld
      (BitVec.toNat ((sKill.core 256).gr 2)) = false)) ∧
    ((CoreReady (sMx [(1, 268435712)]) 256 [1] []) ∧ ((sMx [(1, 268435712)]).master (((sMx [(1, 268435712)]).core 256).gr 1) = none)) ∧
    ((CoreReady (sMx [(1, 268435461)]) 256 [1] []) ∧ ((sMx [(1, 268435461)]).master (((sMx [(1, 268435461)]).core 256).gr 1) = some (Master.core 5)) ∧
      ((sMx [(1, 268435461)]).inside 5 = false)) ∧
    ((CoreReady sRM 256 [1] []) ∧ (sRM.master ((sRM.core 256).gr 1) = some (Master.region rE)) ∧ (rE.frozen ≠ none ∨ rE.awayUnbuffered = false)) ∧
    ((CoreReady (sMx [(1, 805306375)]) 256 [1] []) ∧ ((sMx [(1, 805306375)]).master (((sMx [(1, 805306375)]).core 256).gr 1) = some (Master.queue 7))) ∧
    (CoreReady (sMx [(1, 119), (2, 261), (3, 8192)]) 256 [1, 2, 3] []) ∧
    ((CoreReady (sMx [(1, 5)]) 256 [1] []) ∧ (((sMx [(1, 5)]).core (BitVec.toNat (((sMx [(1, 5)]).core 256).gr 1) % 256)).run = RunSt.running)) ∧
    ((CoreReady (stopped false) 256 [1] []) ∧ (((stopped false).core (BitVec.toNat (((stopped false).core 256).gr 1) % 256)).run = RunSt.stopped) ∧
      (((stopped false).core (BitVec.toNat (((stopped false).core 256).gr 1) % 256)).frozen = false) ∧ (((stopped false).core (BitVec.toNat (((stopped
      false).core 256).gr 1) % 256)).starting = none)) ∧
    ((CoreReady (stopped true) 256 [1] []) ∧ (((stopped true).core (BitVec.toNat (((stopped true).core 256).gr 1) % 256)).run = RunSt.stopped) ∧
      (((stopped true).core (BitVec.toNat (((stopped true).core 256).gr 1) % 256)).frozen = true)) ∧
    ((CoreReady sTlb 256 [1, 2] []) ∧ (BitVec.toNat ((sTlb.core 256).gr 1) ≤ 63) ∧ (∀ v ∈ sTlb.invals, v.core ≠ 256)) ∧
    ((CoreReady sKh 256 [2] [9]) ∧ (1 ≤ BitVec.toNat ((sKh.core 256).gr 2)) ∧ (BitVec.toNat ((sKh.core 256).gr 2) ≤ 63) ∧ (sKh.ctxHeld (BitVec.toNat
      ((sKh.core 256).gr 2)) = true)) ∧
    (((sFzm none).region? (rFzm none).id = some (rFzm none)) ∧ ((rFzm none).frozen = none)) ∧
    (((sFzm none).region? (rFzm none).id = some (rFzm none)) ∧ ((rFzm none).frozen = none) ∧ ((rFzm none).elems.find? 0 = some elT) ∧ (elT.isMatrix =
      false)) ∧
    (((sFzm (some Freeze.windowFault)).region? (rFzm (some Freeze.windowFault)).id = some (rFzm (some Freeze.windowFault))) ∧ ((rFzm (some
      Freeze.windowFault)).frozen = some Freeze.windowFault) ∧ ((rFzm (some Freeze.windowFault)).replay = none)) ∧
    (((sFzm (some Freeze.mgmt)).region? (rFzm (some Freeze.mgmt)).id = some (rFzm (some Freeze.mgmt))) ∧ ((rFzm (some Freeze.mgmt)).frozen = some
      Freeze.mgmt) ∧ ((rFzm (some Freeze.mgmt)).replay = none)) ∧
    (((sFzm none).region? (rFzm none).id = some (rFzm none)) ∧ ((rFzm none).pend = [])) ∧
    ((CoreReady sRE 256 [1] []) ∧ (sRE.master ((sRE.core 256).gr 1) = some (Master.engine (rW 2)))) ∧
    ((BitVec.toNat (268435711 : DWord) / (2 : ℕ) ^ (28 : ℕ) = (1 : ℕ)) ∧ ((4 : ℕ) ≤ BitVec.toNat (1073741824 : DWord) / (2 : ℕ) ^ (28 : ℕ)) ∧
      ((sSt.core 5 = xSt) ∧ (xSt.starting = some (2, 1024, 153)) ∧ (xSt.frozen = false) ∧ (xSt.replay = none) ∧ (xSt.slotHeld = false) ∧
      (sSt.downBays.contains (5 / 64) = false) ∧ (sSt.streamCount 5 = 0) ∧ (sSt.launchCount 5 = 0)) ∧ (0 < (withCore (fun x => xSt)
      streamsFull).streamCount 5 ∨ 0 < (withCore (fun x => xSt) streamsFull).launchCount 5)) ∧
    (((List.find? (fun x => x.id == 9) alt7_1.invals = some inv1) ∧ (∀ p ∈ inv1.waits, alt7_1.invDone p = true)) ∧ (BitVec.toNat (0 : DWord) / (2 : ℕ)
      ^ (28 : ℕ) = (0 : ℕ)) ∧ ((BitVec.toNat (536870913 : DWord) / (2 : ℕ) ^ (28 : ℕ) = (2 : ℕ)) ∧ (List.find? (fun r => BitVec.toNat r.word ==
      BitVec.toNat (536870913 : DWord) % (2 : ℕ) ^ (28 : ℕ)) sRM.regions = none)) ∧ ((BitVec.toNat (536870912 : DWord) / (2 : ℕ) ^ (28 : ℕ) = (2 : ℕ))
      ∧ (List.find? (fun r => BitVec.toNat r.word == BitVec.toNat (536870912 : DWord) % (2 : ℕ) ^ (28 : ℕ)) sRM.regions = some rE))) ∧
    ((BitVec.toNat (805310464 : DWord) / (2 : ℕ) ^ (28 : ℕ) = (3 : ℕ)) ∧ ((sC.core 5).run = RunSt.running) ∧ ((sC.core 6).run ≠ RunSt.running) ∧
      ((sC.core 5).frozen = false)) ∧
    (((((stopped true).core 5).frozen = true) ∧ (((stopped true).core 5).run = RunSt.stopped)) ∧ ((((withCore (fun x => { x with frozen := true })
      sC).core 5).frozen = true) ∧ (((withCore (fun x => { x with frozen := true }) sC).core 5).run ≠ RunSt.stopped)) ∧ ((1 ≤ 1) ∧ (5 ≠ 256) ∧
      ((sC.core 5).ctx.toNat = 1)) ∧ (1 ≤ 1)) :=
  ⟨⟨(by constructor <;> first | exact regionFound rfl rfl | decide +kernel), by decide +kernel⟩,
   ⟨(by constructor <;> first | exact regionFound rfl rfl | decide +kernel), by decide +kernel⟩,
   ⟨(by constructor <;> first | exact regionFound rfl rfl | decide +kernel), by decide +kernel⟩,
   ⟨(by constructor <;> first | exact regionFound rfl rfl | decide +kernel), by decide +kernel⟩,
   ⟨(by constructor <;> first | exact regionFound rfl rfl | decide +kernel), by decide +kernel⟩,
   ⟨(by constructor <;> first | exact regionFound rfl rfl | decide +kernel), by decide +kernel⟩,
   (by constructor <;> first | exact regionFound rfl rfl | decide +kernel),
   ⟨(by constructor <;> first | exact regionFound rfl rfl | decide +kernel), by decide +kernel⟩,
   ⟨(by constructor <;> first | exact regionFound rfl rfl | decide +kernel), by decide +kernel⟩,
   ⟨(by constructor <;> first | exact regionFound rfl rfl | decide +kernel), by decide +kernel⟩,
   ⟨(by constructor <;> first | exact regionFound rfl rfl | decide +kernel), by decide +kernel⟩,
   ⟨(by constructor <;> first | exact regionFound rfl rfl | decide +kernel), by decide +kernel⟩,
   ⟨(by first | exact regionFound rfl rfl | decide +kernel), by decide +kernel⟩,
   ⟨(by first | exact regionFound rfl rfl | decide +kernel), by decide +kernel⟩,
   ⟨(by first | exact regionFound rfl rfl | decide +kernel), by decide +kernel⟩,
   ⟨(by first | exact regionFound rfl rfl | decide +kernel), by decide +kernel⟩,
   ⟨(by first | exact regionFound rfl rfl | decide +kernel), by decide +kernel⟩,
   ⟨(by constructor <;> first | exact regionFound rfl rfl | decide +kernel), by decide +kernel⟩,
   by decide +kernel,
   by decide +kernel,
   by decide +kernel,
   by decide +kernel⟩

theorem test_meets_SequencerResultArrives :
    (((heldM (whoCore sHl 5) hLd).exec sHl = (Except.ok (9833440827789222529, false), heldS sHl hLd)) ∧ (List.find? (fun g => g.id == hLd.id)
      (sHl.core 5).held = some hLd) ∧ (sHl.heldReady 5 hLd (List.takeWhile (fun g => g.id != hLd.id) (sHl.core 5).held) = true) ∧ (hLd.mt ≠ 0 ∨
      sHl.isLocal hLd.pa = true)) ∧
    (((∃ n, (pd (PendKind.load 4 true) none).kind = PendKind.amo n) → rep7.applied = false ∧ rep7.refused = false) ∧ (List.find? (fun g => g.id == 7)
      ((sPd (PendKind.load 4 true) none ReqKind.load).core 5).held = none) ∧ (List.find? (fun q => q.id == 7) ((sPd (PendKind.load 4 true) none
      ReqKind.load).core 5).pend = some (pd (PendKind.load 4 true) none)) ∧ ((pd (PendKind.load 4 true) none).result = none) ∧ ((pd (PendKind.load 4
      true) none).kind ≠ PendKind.kill) ∧ (List.find? (fun q => q.completed && !q.kind.isWrite && q.owner == ReqOwner.core 5 7) (sPd (PendKind.load 4
      true) none ReqKind.load).reqs = some (rq ReqKind.load)) ∧ ((pd (PendKind.load 4 true) none).kind = PendKind.vld → rep7.version ≠ 1 ∧
      rep7.version ≠ 2)) ∧
    (((List.find? (fun g => g.id == hSt.id) (sHl.core 5).held = some hSt) ∧ (sHl.heldReady 5 hSt (List.takeWhile (fun g => g.id != hSt.id) (sHl.core
      5).held) = false)) ∧ ((List.find? (fun g => g.id == 7) ((sPd PendKind.launch (some (48, false)) ReqKind.load).core 5).held = none) ∧ (List.find?
      (fun q => q.id == 7) ((sPd PendKind.launch (some (48, false)) ReqKind.load).core 5).pend = some (pd PendKind.launch (some (48, false)))) ∧ ((pd
      PendKind.launch (some (48, false))).result = some (48, false))) ∧ ((List.find? (fun g => g.id == 7) ((sPd PendKind.kill none ReqKind.load).core
      5).held = none) ∧ (List.find? (fun q => q.id == 7) ((sPd PendKind.kill none ReqKind.load).core 5).pend = some (pd PendKind.kill none)) ∧ ((pd
      PendKind.kill none).result = none) ∧ ((pd PendKind.kill none).kind = PendKind.kill)) ∧ ((List.find? (fun g => g.id == 7) (sAp.core 5).held =
      none) ∧ (List.find? (fun q => q.id == 7) (sAp.core 5).pend = some (pd (PendKind.amo 8) none)) ∧ ((pd (PendKind.amo 8) none).result = none) ∧
      ((pd (PendKind.amo 8) none).kind ≠ PendKind.kill) ∧ (List.find? (fun q => q.completed && !q.kind.isWrite && q.owner == ReqOwner.core 5 7)
      sAp.reqs = some (rq ReqKind.atomic)) ∧ ((pd (PendKind.amo 8) none).kind = PendKind.amo 8) ∧ ((repA true).refused = false) ∧ ((repA true).applied
      = true))) ∧
    (((List.find? (fun g => g.id == 7) ((sPd PendKind.vld none ReqKind.vld).core 5).held = none) ∧ (List.find? (fun q => q.id == 7) ((sPd PendKind.vld
      none ReqKind.vld).core 5).pend = some (pd PendKind.vld none)) ∧ ((pd PendKind.vld none).result = none) ∧ ((pd PendKind.vld none).kind ≠
      PendKind.kill) ∧ (List.find? (fun q => q.completed && !q.kind.isWrite && q.owner == ReqOwner.core 5 7) (sPd PendKind.vld none ReqKind.vld).reqs
      = some (rq ReqKind.vld)) ∧ ((pd PendKind.vld none).kind = PendKind.vld) ∧
      ({ data := 0, poison := false, version := 1, applied := false, oldSent := false, early := 0, refused := false, ack := 0 : Reply }.version = 1) ∧
      ((pd PendKind.vld none).vldWait = none)) ∧ ((List.find? (fun g => g.id == 7) ((sPd PendKind.vld none ReqKind.vld).core 5).held = none) ∧
      (List.find? (fun q => q.id == 7) ((sPd PendKind.vld none ReqKind.vld).core 5).pend = some (pd PendKind.vld none)) ∧ ((pd PendKind.vld
      none).result = none) ∧ ((pd PendKind.vld none).kind ≠ PendKind.kill) ∧ (List.find? (fun q => q.completed && !q.kind.isWrite && q.owner ==
      ReqOwner.core 5 7) (sPd PendKind.vld none ReqKind.vld).reqs = some (rq ReqKind.vld)) ∧ ((pd PendKind.vld none).kind = PendKind.vld) ∧
      ({ data := 0, poison := false, version := 2, applied := false, oldSent := false, early := 0, refused := false, ack := 0 : Reply }.version = 2))
      ∧ ((4 = 1 ∨ 4 = 2 ∨ 4 = 4 ∨ 4 = 8) ∧ ((pd (PendKind.load 4 true) none).kind = PendKind.load 4 true)) ∧ ((pd (PendKind.amo 4) none).kind =
      PendKind.amo 4)) ∧
    (((pd PendKind.vld none).kind = PendKind.vld) ∧ ((List.find? (fun g => g.id == (farH HeldKind.store).id) ((sFarH HeldKind.store).core 5).held =
      some (farH HeldKind.store)) ∧ ((sFarH HeldKind.store).heldReady 5 (farH HeldKind.store) (List.takeWhile (fun g => g.id != (farH
      HeldKind.store).id) ((sFarH HeldKind.store).core 5).held) = true) ∧ ((farH HeldKind.store).mt = 0) ∧ ((sFarH HeldKind.store).isLocal (farH
      HeldKind.store).pa = false) ∧ ((sFarH HeldKind.store).reachable (pkgOf (farH HeldKind.store).pa) = true) ∧ ((farH HeldKind.store).kind =
      HeldKind.store)) ∧ ((List.find? (fun g => g.id == (farH HeldKind.load).id) ((sFarH HeldKind.load).core 5).held = some (farH HeldKind.load)) ∧
      ((sFarH HeldKind.load).heldReady 5 (farH HeldKind.load) (List.takeWhile (fun g => g.id != (farH HeldKind.load).id) ((sFarH HeldKind.load).core
      5).held) = true) ∧ ((farH HeldKind.load).mt = 0) ∧ ((sFarH HeldKind.load).isLocal (farH HeldKind.load).pa = false) ∧ ((sFarH
      HeldKind.load).reachable (pkgOf (farH HeldKind.load).pa) = true) ∧ ((farH HeldKind.load).kind ≠ HeldKind.store)) ∧ ((List.find? (fun g => g.id
      == (farH HeldKind.load).id) (sFarNo.core 5).held = some (farH HeldKind.load)) ∧ (sFarNo.heldReady 5 (farH HeldKind.load) (List.takeWhile (fun g
      => g.id != (farH HeldKind.load).id) (sFarNo.core 5).held) = true) ∧ ((farH HeldKind.load).mt = 0) ∧ (sFarNo.isLocal (farH HeldKind.load).pa =
      false) ∧ (sFarNo.reachable (pkgOf (farH HeldKind.load).pa) = false))) ∧
    ((List.find? (fun g => g.id == 7) (sAp.core 5).held = none) ∧ (List.find? (fun q => q.id == 7) (sAp.core 5).pend = some (pd (PendKind.amo 8)
      none)) ∧ ((pd (PendKind.amo 8) none).result = none) ∧ ((pd (PendKind.amo 8) none).kind ≠ PendKind.kill) ∧ (List.find? (fun q => q.completed &&
      !q.kind.isWrite && q.owner == ReqOwner.core 5 7) sAp.reqs = some (rq ReqKind.atomic)) ∧ ((pd (PendKind.amo 8) none).kind = PendKind.amo 8) ∧
      (repR.refused = true) ∧ ((sAp.core 5).run = RunSt.running)) :=
  ⟨⟨pairOkM (by decide +kernel), by decide +kernel⟩,
   ⟨(by rintro ⟨_, h⟩; cases h), by decide +kernel⟩,
   by decide +kernel,
   by decide +kernel,
   by decide +kernel,
   by decide +kernel⟩

theorem test_meets_ConfigurationLoads :
    ((Pending (withOp (op CfgKind.ld CfgSt.queued 131072 4194304) sImg) (op CfgKind.ld CfgSt.queued 131072 4194304) CfgSt.queued) ∧ ((op CfgKind.ld
      CfgSt.queued 131072 4194304).kind = CfgKind.ld) ∧ (wordBad (op CfgKind.ld CfgSt.queued 131072 4194304).word = true)) ∧
    ((Pending (withOp (op CfgKind.ld CfgSt.queued 131072 96) sImg) (op CfgKind.ld CfgSt.queued 131072 96) CfgSt.queued) ∧ ((op CfgKind.ld CfgSt.queued
      131072 96).kind = CfgKind.ld) ∧ (wordBad (op CfgKind.ld CfgSt.queued 131072 96).word = false) ∧ ((op CfgKind.ld CfgSt.queued 131072 96).core ≠
      Config.sceip) ∧ ((op CfgKind.ld CfgSt.queued 131072 96).launch = 0) ∧ (wordId (op CfgKind.ld CfgSt.queued 131072 96).word / 16 ≠ (op CfgKind.ld
      CfgSt.queued 131072 96).core)) ∧
    ((Pending alt8_1 oLd CfgSt.queued) ∧ (MayName oLd) ∧ (oLd.kind = CfgKind.ld) ∧ (alt8_1.downBays.contains (wordId oLd.word / 1024) = false) ∧
      (alt8_1.quadsFree oLd.id (wordId oLd.word) (wordQuads oLd.word) = false)) ∧
    ((Pending (withOp (op CfgKind.ld CfgSt.queued 196608 80) sImg) (op CfgKind.ld CfgSt.queued 196608 80) CfgSt.queued) ∧ (MayName (op CfgKind.ld
      CfgSt.queued 196608 80)) ∧ ((op CfgKind.ld CfgSt.queued 196608 80).kind = CfgKind.ld) ∧ ((withOp (op CfgKind.ld CfgSt.queued 196608 80)
      sImg).downBays.contains (wordId (op CfgKind.ld CfgSt.queued 196608 80).word / 1024) = false) ∧ ((withOp (op CfgKind.ld CfgSt.queued 196608 80)
      sImg).quadsFree (op CfgKind.ld CfgSt.queued 196608 80).id (wordId (op CfgKind.ld CfgSt.queued 196608 80).word) (wordQuads (op CfgKind.ld
      CfgSt.queued 196608 80).word) = true)) ∧
    ((Pending (withOp oSw sImg) oSw CfgSt.acting) ∧ ((loadChecksM (whoCfg oSw) (emptyImage.region (wordId oSw.word) oSw.ctx oSw.addr false)).exec
      (withOp oSw sImg) = (Except.ok ldR2, stateOfM (loadChecksM (whoCfg oSw) (emptyImage.region 80 1 131072 false)) (withOp oSw sImg))) ∧ (oSw.kind =
      CfgKind.swp) ∧ (oSw.image = some emptyImage)) ∧
    ((Pending (withOp oSwBad sImg) oSwBad CfgSt.acting) ∧ ((loadChecksM (whoCfg oSwBad) (imFar.region (wordId oSwBad.word) oSwBad.ctx oSwBad.addr
      false)).exec (withOp oSwBad sImg) = (Except.error (Stop.raise Cause.cfgBound 0), stateOfM (loadChecksM (whoCfg oSwBad) (imFar.region 80 1 131072
      false)) (withOp oSwBad sImg))) ∧ (oSwBad.kind = CfgKind.swp) ∧ (oSwBad.image = some imFar)) ∧
    (((cfgDwordsM (whoCfg oLd) 196608 8).exec sImg = (Except.ok ([0, 0, 0, 0, 0, 0, 0, 0], false), stateOfM (cfgDwordsM (whoCfg oLd) 196608 8) sImg))
      ∧ (BitVec.toNat (196608 : DWord) % (64 : ℕ) = (0 : ℕ)) ∧ (canonical 196608 = true) ∧ (¬((1 : ℕ) ≤ bits (BitVec.toNat ([(0 : DWord), (0 : DWord),
      (0 : DWord), (0 : DWord), (0 : DWord), (0 : DWord), (0 : DWord), (0 : DWord)].getD (0 : ℕ) (0 : DWord))) (47 : ℕ) (32 : ℕ) ∧ bits (BitVec.toNat
      ([(0 : DWord), (0 : DWord), (0 : DWord), (0 : DWord), (0 : DWord), (0 : DWord), (0 : DWord), (0 : DWord)].getD (0 : ℕ) (0 : DWord))) (47 : ℕ)
      (32 : ℕ) ≤ (1024 : ℕ) ∧ partsPlaced (BitVec.toNat ([(0 : DWord), (0 : DWord), (0 : DWord), (0 : DWord), (0 : DWord), (0 : DWord), (0 : DWord),
      (0 : DWord)].getD (1 : ℕ) (0 : DWord))) (BitVec.toNat ([(0 : DWord), (0 : DWord), (0 : DWord), (0 : DWord), (0 : DWord), (0 : DWord), (0 :
      DWord), (0 : DWord)].getD (2 : ℕ) (0 : DWord))) (bits (BitVec.toNat ([(0 : DWord), (0 : DWord), (0 : DWord), (0 : DWord), (0 : DWord), (0 :
      DWord), (0 : DWord), (0 : DWord)].getD (0 : ℕ) (0 : DWord))) (47 : ℕ) (32 : ℕ)) = true))) ∧
    ((∃ why, decodeElem (elRej.slots.getD 31 0) = Decoded.rejected why) ∧ (elRej.isStatic = false) ∧ (31 < 32) ∧ (elRej.slots.getD 31 0 ≠ 0)) ∧
    ((BitVec.toNat (131076 : DWord) % (64 : ℕ) ≠ (0 : ℕ)) ∧ (imR.edgeTie = false) ∧ ((0 < 4 * imBad.quads) ∧ ((imBad.elem 0).wordsOk = false)) ∧ ((127
      < 128) ∧ (routeEntryOk imRt.quads (imRt.rtab.getD 127 0) = false))) ∧
    (((∀ e < 4 * imR.quads, (imR.elem e).wordsOk = true) ∧ (∀ k < 128, routeEntryOk imR.quads (imR.rtab.getD k 0) = true) ∧ (imR.bindsOk = true) ∧
      (imR.matrixOk = true) ∧ (imR.widthsOk = true)) ∧ (BitVec.extractLsb' 24 5 { mode := 1 : Elem }.mode ≠ 0 ∨ BitVec.extractLsb' 0 8
      { mode := 1 : Elem }.mode ≠ 0) ∧ (127 < 128) ∧ (7 < 8)) ∧
    ((63 < 64) ∧ (31 < 32) ∧ (sImg.landings = []) ∧ ((sImg.landings = []) ∧ (81 ≠ imR.id))) ∧
    (((sImg.landings = []) ∧ (imR.id ≤ 80) ∧ (80 < imR.id + imR.quads)) ∧ (imTie.edgeTie = true)) :=
  ⟨⟨(by constructor <;> first | exact regionFound rfl rfl | decide +kernel), by decide +kernel⟩,
   ⟨(by constructor <;> first | exact regionFound rfl rfl | decide +kernel), by decide +kernel⟩,
   ⟨(by constructor <;> first | exact regionFound rfl rfl | decide +kernel), (by constructor <;> first | exact regionFound rfl rfl | decide +kernel),
     by decide +kernel⟩,
   ⟨(by constructor <;> first | exact regionFound rfl rfl | decide +kernel), (by constructor <;> first | exact regionFound rfl rfl | decide +kernel),
     by decide +kernel⟩,
   ⟨(by constructor <;> first | exact regionFound rfl rfl | decide +kernel), pairOkM (by decide +kernel), by decide +kernel⟩,
   ⟨(by constructor <;> first | exact regionFound rfl rfl | decide +kernel), pairErrM (by decide +kernel), by decide +kernel⟩,
   ⟨pairOkM (by decide +kernel), by decide +kernel⟩,
   ⟨⟨_, rfl⟩, by decide +kernel⟩,
   by decide +kernel,
   by decide +kernel,
   by decide +kernel,
   by decide +kernel⟩

theorem test_meets_TokenSaveAndRestore :
    (((sTk CfgKind.unl).region? (rTk CfgKind.unl).id = some (rTk CfgKind.unl)) ∧ ((rTk CfgKind.unl).token = some (op CfgKind.unl CfgSt.token 262144
      80).id) ∧ ((sTk CfgKind.unl).cfgop? (op CfgKind.unl CfgSt.token 262144 80).id = some (op CfgKind.unl CfgSt.token 262144 80)) ∧ ((op CfgKind.unl
      CfgSt.token 262144 80).st = CfgSt.token) ∧ ((sTk CfgKind.unl).mayPass (rTk CfgKind.unl) (op CfgKind.unl CfgSt.token 262144 80) = true) ∧ ((op
      CfgKind.unl CfgSt.token 262144 80).kind = CfgKind.unl)) ∧
    (((sTk CfgKind.swp).region? (rTk CfgKind.unl).id = some (rTk CfgKind.unl)) ∧ ((rTk CfgKind.unl).token = some (op CfgKind.swp CfgSt.token 262144
      80).id) ∧ ((sTk CfgKind.swp).cfgop? (op CfgKind.swp CfgSt.token 262144 80).id = some (op CfgKind.swp CfgSt.token 262144 80)) ∧ ((op CfgKind.swp
      CfgSt.token 262144 80).st = CfgSt.token) ∧ ((sTk CfgKind.swp).mayPass (rTk CfgKind.unl) (op CfgKind.swp CfgSt.token 262144 80) = true) ∧ ((op
      CfgKind.swp CfgSt.token 262144 80).kind = CfgKind.swp)) ∧
    (((sTk CfgKind.sv).region? (rTk CfgKind.unl).id = some (rTk CfgKind.unl)) ∧ ((rTk CfgKind.unl).token = some (op CfgKind.sv CfgSt.token 262144
      80).id) ∧ ((sTk CfgKind.sv).cfgop? (op CfgKind.sv CfgSt.token 262144 80).id = some (op CfgKind.sv CfgSt.token 262144 80)) ∧ ((op CfgKind.sv
      CfgSt.token 262144 80).st = CfgSt.token) ∧ ((sTk CfgKind.sv).mayPass (rTk CfgKind.unl) (op CfgKind.sv CfgSt.token 262144 80) = true) ∧ ((op
      CfgKind.sv CfgSt.token 262144 80).kind = CfgKind.sv)) ∧
    ((alt9_1.region? rTkU.id = some rTkU) ∧ (rTkU.token = some (op CfgKind.unl CfgSt.token 262144 80).id) ∧ (alt9_1.cfgop? (op CfgKind.unl CfgSt.token
      262144 80).id = some (op CfgKind.unl CfgSt.token 262144 80)) ∧ ((op CfgKind.unl CfgSt.token 262144 80).st = CfgSt.token) ∧ (alt9_1.mayPass rTkU
      (op CfgKind.unl CfgSt.token 262144 80) = false)) ∧
    ((Pending sSv oSv CfgSt.acting) ∧ (sSv.regionNamed oSv.word oSv.core oSv.ctx = some rSv) ∧ (oSv.kind = CfgKind.sv) ∧ (sSv.mayPass rSv oSv = true)
      ∧ ((sSv.stillPending rSv).length ≤ 2048)) ∧
    ((Pending sRs oRs CfgSt.queued) ∧ (oRs.kind = CfgKind.rst)) ∧
    (((saveAtM (whoCfg oSv) 262144).exec sSv = (Except.ok (normal 262144), stateOfM (saveAtM (whoCfg oSv) 262144) sSv)) ∧ ((stateOfM (saveAtM (whoCfg
      oSv) 262144) sSv).writeHeld (lowOf (normal 262144).pa) 64 false = false)) ∧
    ((Pending sSvU oSv CfgSt.acting) ∧ (sSvU.regionNamed oSv.word oSv.core oSv.ctx = some rSvU) ∧ (oSv.kind = CfgKind.sv) ∧ (sSvU.mayPass rSvU oSv =
      false ∨ 2048 < (sSvU.stillPending rSvU).length)) ∧
    (((sTk CfgKind.unl).mayPass (rTk CfgKind.unl) (op CfgKind.unl CfgSt.token 262144 80) = true) ∧ (((op CfgKind.unl CfgSt.token 262144 80).kind ≠
      CfgKind.launchLoad) ∧ ((op CfgKind.unl CfgSt.token 262144 80).kind ≠ CfgKind.launchUnload)) ∧ (3 < 4 * rSv.quads) ∧ (rSv.quads ≤ 1024)) ∧
    (((0 < 4 * rE.quads) ∧ ((rE.elem 0).isMatrix = false) ∧ (∀ o < 4, ((rE.elem 0).outch o).q.length ≤ 2)) ∧ ((0 < 4 * rE.quads) ∧ ((rE.elem
      0).isMatrix = false) ∧ (∀ o < 4, ((rE.elem 0).outch o).q.length ≤ 2) ∧ (1 < 4))) :=
  ⟨⟨(by first | exact regionFound rfl rfl | decide +kernel), by decide +kernel⟩,
   ⟨(by first | exact regionFound rfl rfl | decide +kernel), by decide +kernel⟩,
   ⟨(by first | exact regionFound rfl rfl | decide +kernel), by decide +kernel⟩,
   ⟨(by first | exact regionFound rfl rfl | decide +kernel), by decide +kernel⟩,
   ⟨(by constructor <;> first | exact regionFound rfl rfl | decide +kernel),
     (by first | exact oneOf regionNamed_mem rfl (by decide +kernel) | decide +kernel), by decide +kernel⟩,
   ⟨(by constructor <;> first | exact regionFound rfl rfl | decide +kernel), by decide +kernel⟩,
   ⟨pairOkM (by decide +kernel), by decide +kernel⟩,
   ⟨(by constructor <;> first | exact regionFound rfl rfl | decide +kernel),
     (by first | exact oneOf regionNamed_mem rfl (by decide +kernel) | decide +kernel), by decide +kernel⟩,
   by decide +kernel,
   by decide +kernel⟩

theorem test_meets_LaunchesRunAndStartUnits :
    ((Accepted sLbR lb) ∧ (lb.next < lb.count) ∧ ((List.filter Placement.live lb.placements).length < lb.places) ∧ (sLbR.nextCandidate lb = some (80,
      false))) ∧
    ((Accepted sLb lb) ∧ (lb.next < lb.count) ∧ ((List.filter Placement.live lb.placements).length < lb.places) ∧ (sLb.nextCandidate lb = some (80,
      true))) ∧
    ((alt10_1.region? rU.id = some rU) ∧ (rU.unit = some { launch := 40, ident := 0, start := 5, finAt := some 3 }) ∧
      ({ launch := 40, ident := 0, start := 5, finAt := some 3 : UnitRun }.finAt = some 3)) ∧
    ((alt10_3.region? rNs.id = some rNs) ∧ (rNs.unit = some { launch := 40, ident := 0, start := 5, finAt := none }) ∧
      ({ launch := 40, ident := 0, start := 5, finAt := none : UnitRun }.finAt = none) ∧ (rNs.starters = []) ∧
      ({ launch := 40, ident := 0, start := 5, finAt := none : UnitRun }.start < alt10_3.cyc)) ∧
    ((Accepted (sLa 3 1 lc) lc) ∧ (lc.completed + lc.abandoned = lc.count) ∧ (∀ p ∈ lc.placements, p.own = true → p.st = PlaceSt.gone) ∧ (∃ p ∈
      lc.placements, p.st ≠ PlaceSt.gone)) ∧
    ((Accepted (sLa 3 1 ld_) ld_) ∧ (∀ p ∈ ld_.placements, p.st = PlaceSt.gone) ∧ (∀ id ∈ ld_.candidates, ld_.dropped.contains id = true)) ∧
    ((Accepted (sLa 3 1 le_) le_) ∧ (le_.completed + le_.abandoned < le_.count) ∧ (∃ p ∈ le_.placements, p.st ≠ PlaceSt.gone)) ∧
    ((Accepted sUs le_) ∧ (le_.next < le_.count) ∧ (sUs.choosePlace le_ = some 0) ∧ ((sUs.heldPlaces le_)[0]? = some
      { region := 80, own := false, st := PlaceSt.idle }) ∧ (sUs.region? { region := 80, own := false, st := PlaceSt.idle : Placement }.region = some
      rB) ∧ (rB.token = none) ∧ (rB.unit = none) ∧ (sUs.regionLive rB = true) ∧ (rB.startRoom sUs.cyc = true) ∧ (rB.wins = [] ∨ rB.log.length +
      rB.starters.length < 2048)) ∧
    ((∃ y, rB.elems.find? 0 = some y) ∧ (rB.sweep = none) ∧ (0 < 4 * rB.quads)) ∧
    (((loadWordsM (whoLaunch laBad) laBad.lpb 8).exec (sLa 3 1) = (Except.error (Stop.raise Cause.pageFault 274877906944), sLa 3 1)) ∧ (laBad.read =
      false) ∧ (BitVec.toNat laBad.lpb % 64 = 0) ∧ (canonical laBad.lpb = true)) ∧
    (((loadWordsM (whoLaunch la) la.lpb 8).exec (sLa 3 1) = (Except.ok [131072, 3, 2 + 320 * 2 ^ 8 + (5 * 64 + 3) * 2 ^ 32 + 2 ^ 46, 119, 0, 0, 1, 0],
      stateOfM (loadWordsM (whoLaunch la) la.lpb 8) (sLa 3 1))) ∧ (la.read = false) ∧ (BitVec.toNat la.lpb % 64 = 0) ∧ (canonical la.lpb = true)) ∧
    (((translateM (whoLaunch (lInd 8192 3)) Need.vld (lInd 8192 3).countAddr).exec (sInd 3) = (Except.error (Stop.raise Cause.notVersioned 8192),
      stateOfM (translateM (whoLaunch (lInd 8192 3)) Need.vld 8192) (sInd 3))) ∧ ((lInd 8192 3).read = true) ∧ ((lInd 8192 3).ind = true) ∧
      (BitVec.toNat (lInd 8192 3).countAddr % 8 = 0)) ∧
    (((translateM (whoLaunch (lInd 137438961664 2147483651)) Need.vld (lInd 137438961664 2147483651).countAddr).exec (sInd 2147483651) = (Except.ok
      (version 8192), indS 2147483651)) ∧ ((homeVldM (whoLaunch (lInd 137438961664 2147483651)) (VldOwner.launch (lInd 137438961664 2147483651).id)
      (lInd 137438961664 2147483651).countAddr (version 8192) (lInd 137438961664 2147483651).countVer).exec (indS 2147483651) = (Except.error
      (Stop.raise Cause.versionGone 137438961664), indGone)) ∧ ((lInd 137438961664 2147483651).read = true) ∧ ((lInd 137438961664 2147483651).ind =
      true) ∧ (BitVec.toNat (lInd 137438961664 2147483651).countAddr % 8 = 0) ∧ (targetOk Agent.engine (version 8192) = true) ∧ (Cause.versionGone ≠
      Cause.notVersioned)) ∧
    (((translateM (whoLaunch (lInd 137438961664 1)) Need.vld (lInd 137438961664 1).countAddr).exec (sInd 1) = (Except.ok (version 8192), indS 1)) ∧
      ((homeVldM (whoLaunch (lInd 137438961664 1)) (VldOwner.launch (lInd 137438961664 1).id) (lInd 137438961664 1).countAddr (version 8192) (lInd
      137438961664 1).countVer).exec (indS 1) = (Except.ok (51, true, false), indV 1)) ∧ ((lInd 137438961664 1).read = true) ∧ ((lInd 137438961664
      1).ind = true) ∧ (BitVec.toNat (lInd 137438961664 1).countAddr % 8 = 0) ∧ (targetOk Agent.engine (version 8192) = true)) ∧
    (((translateM (whoLaunch (lInd 137438961664 2)) Need.vld (lInd 137438961664 2).countAddr).exec (sInd 2) = (Except.ok (version 8192), indS 2)) ∧
      ((homeVldM (whoLaunch (lInd 137438961664 2)) (VldOwner.launch (lInd 137438961664 2).id) (lInd 137438961664 2).countAddr (version 8192) (lInd
      137438961664 2).countVer).exec (indS 2) = (Except.ok (0, false, false), indV 2)) ∧ ((lInd 137438961664 2).read = true) ∧ ((lInd 137438961664
      2).ind = true) ∧ (BitVec.toNat (lInd 137438961664 2).countAddr % 8 = 0) ∧ (targetOk Agent.engine (version 8192) = true)) ∧
    (((translateM (whoLaunch (lInd 137438961664 3)) Need.vld (lInd 137438961664 3).countAddr).exec (sInd 3) = (Except.ok (version 8192), indS 3)) ∧
      ((homeVldM (whoLaunch (lInd 137438961664 3)) (VldOwner.launch (lInd 137438961664 3).id) (lInd 137438961664 3).countAddr (version 8192) (lInd
      137438961664 3).countVer).exec (indS 3) = (Except.ok (9833440827789222529, false, true), indV 3)) ∧ ((lInd 137438961664 3).read = true) ∧ ((lInd
      137438961664 3).ind = true) ∧ (BitVec.toNat (lInd 137438961664 3).countAddr % 8 = 0) ∧ (targetOk Agent.engine (version 8192) = true) ∧ ((2 : ℕ)
      ^ (24 : ℕ) < BitVec.toNat (9833440827789222529 : DWord))) ∧
    ((Accepted (sLa 3 1 (lown PlaceSt.idle)) (lown PlaceSt.idle)) ∧ ((lown PlaceSt.idle).completed + (lown PlaceSt.idle).abandoned = (lown
      PlaceSt.idle).count) ∧ (∃ p ∈ (lown PlaceSt.idle).placements, p.own = true ∧ p.st = PlaceSt.idle)) ∧
    ((Accepted (sLa 3 1 (lown PlaceSt.loading)) (lown PlaceSt.loading)) ∧ ((lown PlaceSt.loading).completed + (lown PlaceSt.loading).abandoned = (lown
      PlaceSt.loading).count) ∧ (∃ p ∈ (lown PlaceSt.loading).placements, p.own = true ∧ p.st ≠ PlaceSt.gone) ∧ (∀ p ∈ (lown
      PlaceSt.loading).placements, p.own = true → p.st ≠ PlaceSt.idle)) ∧
    ((((sLa 0 1).launch? la.id = some la) ∧ (la.accepted = false)) ∧ (rB.sweep = none) ∧ ((laOff.read = false) ∧ (BitVec.toNat laOff.lpb % 64 ≠ 0)) ∧
      (((lj 0).read = true) ∧ ((lj 0).ind = false) ∧ ((lj 0).count = 0))) ∧
    ((((lj 16777217).read = true) ∧ ((lj 16777217).ind = false) ∧ (2 ^ 24 < (lj 16777217).count)) ∧ ((ljSpan.read = true) ∧ (ljSpan.ind = false) ∧ (1
      ≤ ljSpan.count) ∧ (ljSpan.count ≤ 2 ^ 24) ∧ (ljSpan.span = 0 ∨ ljSpan.span = 7 ∨ ljSpan.quads = 0 ∨ 1024 < ljSpan.quads ∨ spanQuads ljSpan.span
      < ljSpan.quads)) ∧ (((lj 16777216).read = true) ∧ ((lj 16777216).ind = false) ∧ (1 ≤ (lj 16777216).count) ∧ ((lj 16777216).count ≤ 2 ^ 24) ∧ (1
      ≤ (lj 16777216).span) ∧ ((lj 16777216).span < 7) ∧ (1 ≤ (lj 16777216).quads) ∧ ((lj 16777216).quads ≤ 1024) ∧ ((lj 16777216).quads ≤ spanQuads
      (lj 16777216).span)) ∧ (((lInd 137438961665 3).read = true) ∧ ((lInd 137438961665 3).ind = true) ∧ (BitVec.toNat (lInd 137438961665 3).countAddr
      % 8 ≠ 0))) :=
  ⟨⟨(by constructor <;> first | exact regionFound rfl rfl | decide +kernel), by decide +kernel⟩,
   ⟨(by constructor <;> first | exact regionFound rfl rfl | decide +kernel), by decide +kernel⟩,
   ⟨(by first | exact regionFound rfl rfl | decide +kernel), by decide +kernel⟩,
   ⟨(by first | exact regionFound rfl rfl | decide +kernel), by decide +kernel⟩,
   ⟨(by constructor <;> first | exact regionFound rfl rfl | decide +kernel), by decide +kernel⟩,
   ⟨(by constructor <;> first | exact regionFound rfl rfl | decide +kernel), by decide +kernel⟩,
   ⟨(by constructor <;> first | exact regionFound rfl rfl | decide +kernel), by decide +kernel⟩,
   ⟨(by constructor <;> first | exact regionFound rfl rfl | decide +kernel), by decide +kernel⟩,
   ⟨⟨_, rfl⟩, by decide +kernel⟩,
   ⟨pairErrM (by decide +kernel), by decide +kernel⟩,
   ⟨pairOkM (by decide +kernel), by decide +kernel⟩,
   ⟨pairErrM (by decide +kernel), by decide +kernel⟩,
   ⟨pairOkM (by decide +kernel), pairErrM (by decide +kernel), by decide +kernel⟩,
   ⟨pairOkM (by decide +kernel), pairOkM (by decide +kernel), by decide +kernel⟩,
   ⟨pairOkM (by decide +kernel), pairOkM (by decide +kernel), by decide +kernel⟩,
   ⟨pairOkM (by decide +kernel), pairOkM (by decide +kernel), by decide +kernel⟩,
   ⟨(by constructor <;> first | exact regionFound rfl rfl | decide +kernel), by decide +kernel⟩,
   ⟨(by constructor <;> first | exact regionFound rfl rfl | decide +kernel), by decide +kernel⟩,
   by decide +kernel,
   by decide +kernel⟩

theorem test_meets_TokensTravelOnWires :
    ((Leaving (sW 0) (rW 0) 0 Dir.east { tok := { val := 7, tag := 2 }, at_ := 3, src := 0 }) ∧ ((rW 0).far 0 Dir.east = Far.mesh 1)) ∧
    ((Leaving (sW 0) (rW 0) 0 Dir.north { tok := { val := 8, tag := 2 }, at_ := 3, src := 0 }) ∧ ((rW 0).far 0 Dir.north = Far.sink)) ∧
    ((Leaving (sW 2) (rW 2) 0 Dir.north { tok := { val := 8, tag := 2 }, at_ := 3, src := 0 }) ∧ ((rW 2).far 0 Dir.north = Far.port 0)) ∧
    ((Leaving (sW 3) (rW 3) 0 Dir.north { tok := { val := 8, tag := 2 }, at_ := 3, src := 0 }) ∧ ((rW 3).far 0 Dir.north = Far.island 0)) ∧
    ((Leaving (sW 0) (rW 0) 0 Dir.east { tok := { val := 7, tag := 2 }, at_ := 3, src := 0 }) ∧ (((rW 0).elem 0).driver Dir.east = Driver.out 0) ∧ (0
      < 4) ∧ (((rW 0).elem 0).isMatrix = false)) ∧
    (((sFl 12).region? (rW 0).id = some (rW 0)) ∧ ((rW 0).far 1 Dir.west = Far.mesh 0) ∧ (((sFl 12).wire (wireKey ((rW 0).loc 0)
      Dir.west.opposite)).flight = [{ tok := { val := 7, tag := 2 }, due := 12, src := 0 }]) ∧ ((sFl 12).cyc <
      { tok := { val := 7, tag := 2 : Token }, due := 12, src := 0 : Flight }.due)) ∧
    ((alt10_2.region? fullW.id = some fullW) ∧ (fullW.far 1 Dir.west = Far.mesh 0) ∧ ((alt10_2.wire (wireKey (fullW.loc 0) Dir.west.opposite)).flight
      = [{ tok := { val := 7, tag := 2 }, due := 9, src := 0 }]) ∧ ({ tok := { val := 7, tag := 2 : Token }, due := 9, src := 0 : Flight }.due ≤
      alt10_2.cyc) ∧ (∀ (g : Flight), [].head? = some g → alt10_2.cyc < g.due) ∧ (alt10_2.regionLive fullW = true) ∧ ((fullW.elem 1).consumer Dir.west
      = Consumer.chan 0) ∧ (0 < 4) ∧ ((fullW.elem 1).isMatrix = false) ∧ (((fullW.elem 1).inch 0).q.length = 4)) ∧
    (((sFl 9).region? (rW 0).id = some (rW 0)) ∧ ((rW 0).far 1 Dir.west = Far.mesh 0) ∧ (((sFl 9).wire (wireKey ((rW 0).loc 0)
      Dir.west.opposite)).flight = [{ tok := { val := 7, tag := 2 }, due := 9, src := 0 }]) ∧
      ({ tok := { val := 7, tag := 2 : Token }, due := 9, src := 0 : Flight }.due ≤ (sFl 9).cyc) ∧ (∀ (g : Flight), [].head? = some g → (sFl 9).cyc <
      g.due) ∧ ((sFl 9).regionLive (rW 0) = true) ∧ (((rW 0).elem 1).consumer Dir.west = Consumer.chan 0) ∧ (0 < 4) ∧ (((rW 0).elem 1).isMatrix =
      false) ∧ ((((rW 0).elem 1).inch 0).q.length < 4) ∧ ((rW 0).pendingChan 1 0 = false) ∧ ((rW 0).sweep = none) ∧ ((rW 0).logShut = false)) ∧
    ((Leaving sShut rShut 0 Dir.east { tok := { val := 7, tag := 2 }, at_ := 3, src := 0 }) ∧ (rShut.logShut = true)) ∧
    (Leaving (sW 0) (rW 0) 0 Dir.east { tok := { val := 7, tag := 2 }, at_ := 3, src := 0 }) :=
  ⟨⟨(by constructor <;> first | exact regionFound rfl rfl | decide +kernel), by decide +kernel⟩,
   ⟨(by constructor <;> first | exact regionFound rfl rfl | decide +kernel), by decide +kernel⟩,
   ⟨(by constructor <;> first | exact regionFound rfl rfl | decide +kernel), by decide +kernel⟩,
   ⟨(by constructor <;> first | exact regionFound rfl rfl | decide +kernel), by decide +kernel⟩,
   ⟨(by constructor <;> first | exact regionFound rfl rfl | decide +kernel), by decide +kernel⟩,
   ⟨(by first | exact regionFound rfl rfl | decide +kernel), by decide +kernel⟩,
   ⟨(by first | exact regionFound rfl rfl | decide +kernel), by decide +kernel⟩,
   ⟨(by first | exact regionFound rfl rfl | decide +kernel), by decide +kernel⟩,
   ⟨(by constructor <;> first | exact regionFound rfl rfl | decide +kernel), by decide +kernel⟩,
   (by constructor <;> first | exact regionFound rfl rfl | decide +kernel)⟩

theorem test_meets_PacketsTravel :
    (((sP false).region? (rP false).id = some (rP false)) ∧ (((rP false).elem 0).stage = some (stg false)) ∧ ((sP false).regionLive (rP false) = true)
      ∧ ((sP false).fenced (rP false) 0 (stg false).src = false)) ∧
    ((∀ (q : Region) (e : ℕ), (sF 1).at? 2 = some (q, e) → q.ctx = headerCtx (fl 1).pkt.header) ∧ (List.find? (fun x => x.id == (fl 1).id) (sF
      1).flights = some (fl 1)) ∧ ((fl 1).dests.contains 2 = true) ∧ (mayLand (fl 1) 2 (sF 1).flights = true) ∧ (BitVec.getLsbD (fl 1).pkt.header 48 =
      false) ∧ (overtakes (fl 1) (sF 1).flights = true) ∧ ((sF 1).downBays.contains (2 / 4096) = false)) ∧
    (((sF 2).at? 2 = some (rP false, 2)) ∧ (List.find? (fun x => x.id == (fl 2).id) (sF 2).flights = some (fl 2)) ∧ ((fl 2).dests.contains 2 = true) ∧
      (mayLand (fl 2) 2 (sF 2).flights = true) ∧ (BitVec.getLsbD (fl 2).pkt.header 48 = false) ∧ (overtakes (fl 2) (sF 2).flights = true) ∧ ((sF
      2).downBays.contains (2 / 4096) = false) ∧ ((rP false).ctx ≠ headerCtx (fl 2).pkt.header)) ∧
    (((sL1 2).at? 2 = some (rP false, 2)) ∧ ((sL1 2).landing (landKey 2 1) = [ld1 2]) ∧ ((rP false).ctx ≠ headerCtx (ld1 2).pkt.header)) ∧
    (((sL1 1).at? 2 = some (rP false, 2)) ∧ ((sL1 1).landing (landKey 2 1) = [ld1 1]) ∧ ((rP false).ctx = headerCtx (ld1 1).pkt.header) ∧ ((sL1
      1).regionLive (rP false) = true) ∧ (0 < ((rP false).elem 2).boxRoom (sL1 1).cyc 1) ∧ ((rP false).pendingBox 2 1 = false) ∧ ((rP false).logShut =
      false) ∧ (∀ b ∈ ((rP false).elem 2).box 1, b.at_ ≠ (sL1 1).cyc)) ∧
    ((alt11_1.at? 2 = some (rFull11, 2)) ∧ (alt11_1.landing (landKey 2 1) = [ld1 1]) ∧ (rFull11.ctx = headerCtx (ld1 1).pkt.header) ∧ (2 ≤
      ((rFull11.elem 2).box 1).length)) ∧
    (((sL1 1).at? 2 = some (rP false, 2)) ∧ ((sL1 1).landing (landKey 2 1) = [ld1 1]) ∧ (1 < 4)) :=
  ⟨⟨(by first | exact regionFound rfl rfl | decide +kernel), by decide +kernel⟩,
   ⟨(fun q e h => by
    have hq : q ∈ (sF 1).regions := at_mem _ h
    rw [show (sF 1).regions = [rP false] from rfl, List.mem_singleton] at hq
    subst hq; decide +kernel),
     by decide +kernel⟩,
   ⟨(by first | exact pairOf at_mem rfl (by decide +kernel) | decide +kernel), by decide +kernel⟩,
   ⟨(by first | exact pairOf at_mem rfl (by decide +kernel) | decide +kernel), by decide +kernel⟩,
   ⟨(by first | exact pairOf at_mem rfl (by decide +kernel) | decide +kernel), by decide +kernel⟩,
   ⟨(by first | exact pairOf at_mem rfl (by decide +kernel) | decide +kernel), by decide +kernel⟩,
   ⟨(by first | exact pairOf at_mem rfl (by decide +kernel) | decide +kernel), by decide +kernel⟩⟩

theorem test_meets_QueueEndsMoveRecords :
    ((Leaving (sQ 4 (qe true) 5 4) (rQ 4 (qe true)) 0 Dir.north { tok := { val := 8, tag := 2 }, at_ := 3, src := 0 }) ∧ (isFathom
      { tok := { val := 8, tag := 2 : Token }, at_ := 3, src := 0 : Entry }.tok.tag = false) ∧
      ({ tok := { val := 8, tag := 2 : Token }, at_ := 3, src := 0 : Entry }.src = 0 ∨ (rQ 4 (qe true)).wsup.getD (wireKey ((rQ 4 (qe true)).loc 0)
      Dir.north) 0 = 0) ∧ ((rQ 4 (qe true)).qends.find? (qKey 0 Dir.north) = some (qe true)) ∧ ((qe true).out = true) ∧ ((sQ 4 (qe true) 5 4).isLocal
      (qe true).desc = true)) ∧
    (((sQi 5 5).region? rQi.id = some rQi) ∧ (rQi.qends.find? (qKey 0 Dir.north) = some (qe false)) ∧ ((qe false).out = false) ∧ ((sQi 5 5).fabNat
      (lowOf (qe false).desc + 16) 8 = (sQi 5 5).fabNat (lowOf (qe false).desc + 24) 8)) ∧
    (((sQi 6 5).region? rQi.id = some rQi) ∧ (rQi.qends.find? (qKey 0 Dir.north) = some (qe false)) ∧ ((qe false).out = false) ∧ ((sQi 6 5).fabNat
      (lowOf (qe false).desc + 16) 8 ≠ (sQi 6 5).fabNat (lowOf (qe false).desc + 24) 8) ∧ (((sQi 6 5).wire (wireKey (rQi.loc 0) Dir.north)).lastTake ≤
      (sQi 6 5).cyc) ∧ (rQi.linkShut 0 Dir.north = false) ∧ ((sQi 6 5).farHeld (qe false) = false) ∧ ((sQi 6 5).endCredit rQi 0 Dir.north = true) ∧
      (isFathom ((sQi 6 5).recordTok (qe false) (lowOf ((qe false).ring + (sQi 6 5).fabNat (lowOf (qe false).desc + 24) 8 % 2 ^ (qe false).log2n * (qe
      false).recSize))).tag = false → (sQi 6 5).enterIn rQi 0 Dir.north ((sQi 6 5).recordTok (qe false) (lowOf ((qe false).ring + (sQi 6 5).fabNat
      (lowOf (qe false).desc + 24) 8 % 2 ^ (qe false).log2n * (qe false).recSize))) (sQi 6 5).cyc 0 = some (((sQi 6 5).enterIn rQi 0 Dir.north ((sQi 6
      5).recordTok (qe false) 37128) 10 0).getD base)) ∧ (isFathom ((sQi 6 5).recordTok (qe false) (lowOf ((qe false).ring + (sQi 6 5).fabNat (lowOf
      (qe false).desc + 24) 8 % 2 ^ (qe false).log2n * (qe false).recSize))).tag = true → ((sQi 6 5).enterIn rQi 0 Dir.north ((sQi 6 5).recordTok (qe
      false) 37128) 10 0).getD base = sQi 6 5)) ∧
    ((sQa.region? (rQ 4 qa).id = some (rQ 4 qa)) ∧ ((rQ 4 qa).qends.find? (qKey 0 Dir.north) = some qa) ∧ (qa.out = true) ∧ (sQa.isLocal qa.desc =
      false) ∧ (sQa.takePeer = some (sQa.takePeer.getD base))) ∧
    (((sQt 4 2).region? (rQt 4 2).id = some (rQt 4 2)) ∧ ((rQt 4 2).qends.find? (qKey 0 Dir.north) = some (qt 4 2)) ∧ ((qt 4 2).out = true) ∧ ((sQt 4
      2).isLocal (qt 4 2).desc = false) ∧ ((qt 4 2).told ≠ (qt 4 2).produced)) ∧
    ((Leaving (sQt 5 1) (rQt 5 1) 0 Dir.north { tok := { val := 8, tag := 2 }, at_ := 3, src := 0 }) ∧ (isFathom
      { tok := { val := 8, tag := 2 : Token }, at_ := 3, src := 0 : Entry }.tok.tag = false) ∧
      ({ tok := { val := 8, tag := 2 : Token }, at_ := 3, src := 0 : Entry }.src = 0 ∨ (rQt 5 1).wsup.getD (wireKey ((rQt 5 1).loc 0) Dir.north) 0 =
      0) ∧ ((rQt 5 1).qends.find? (qKey 0 Dir.north) = some (qt 5 1)) ∧ ((qt 5 1).out = true) ∧ ((sQt 5 1).isLocal (qt 5 1).desc = false) ∧ ((qt 5
      1).told = (qt 5 1).produced) ∧ (2 ^ (qt 5 1).log2n ≤ ((qt 5 1).produced + 2 ^ 64 - (qt 5 1).consumedCopy) % 2 ^ 64)) ∧
    ((Leaving (sQt 5 2) (rQt 5 2) 0 Dir.north { tok := { val := 8, tag := 2 }, at_ := 3, src := 0 }) ∧ (isFathom
      { tok := { val := 8, tag := 2 : Token }, at_ := 3, src := 0 : Entry }.tok.tag = false) ∧
      ({ tok := { val := 8, tag := 2 : Token }, at_ := 3, src := 0 : Entry }.src = 0 ∨ (rQt 5 2).wsup.getD (wireKey ((rQt 5 2).loc 0) Dir.north) 0 =
      0) ∧ ((rQt 5 2).qends.find? (qKey 0 Dir.north) = some (qt 5 2)) ∧ ((qt 5 2).out = true) ∧ ((sQt 5 2).isLocal (qt 5 2).desc = false) ∧ ((qt 5
      2).told = (qt 5 2).produced) ∧ (((qt 5 2).produced + 2 ^ 64 - (qt 5 2).consumedCopy) % 2 ^ 64 < 2 ^ (qt 5 2).log2n) ∧ ((sQt 5 2).maskHeld (pkgOf
      (qt 5 2).desc) = false) ∧ (∀ x ∈ (sQt 5 2).reqs, x.kind = ReqKind.record → x.owner ≠ ReqOwner.queue (rQt 5 2).id (rQt 5 2).inst)) ∧
    ((Leaving sQm (rQt 5 2) 0 Dir.north { tok := { val := 8, tag := 2 }, at_ := 3, src := 0 }) ∧ (isFathom
      { tok := { val := 8, tag := 2 : Token }, at_ := 3, src := 0 : Entry }.tok.tag = false) ∧
      ({ tok := { val := 8, tag := 2 : Token }, at_ := 3, src := 0 : Entry }.src = 0 ∨ (rQt 5 2).wsup.getD (wireKey ((rQt 5 2).loc 0) Dir.north) 0 =
      0) ∧ ((rQt 5 2).qends.find? (qKey 0 Dir.north) = some (qt 5 2)) ∧ ((qt 5 2).out = true) ∧ (sQm.isLocal (qt 5 2).desc = false) ∧ ((qt 5 2).told =
      (qt 5 2).produced) ∧ (((qt 5 2).produced + 2 ^ 64 - (qt 5 2).consumedCopy) % 2 ^ 64 < 2 ^ (qt 5 2).log2n) ∧ (sQm.maskHeld (pkgOf (qt 5 2).desc)
      = true ∨ ∃ x ∈ sQm.reqs, x.kind = ReqKind.record ∧ x.owner = ReqOwner.queue (rQt 5 2).id (rQt 5 2).inst ∧ x.addr = (qt 5 2).ring + (qt 5
      2).produced % 2 ^ (qt 5 2).log2n * (qt 5 2).recSize)) ∧
    (((sQr (rQt 5 2)).region? (rQt 5 2).id = some (rQt 5 2)) ∧ ((rQt 5 2).qends.find? 0 = some (qt 5 2)) ∧ ((qt 5 2).out = true) ∧ ((qt 5 2).produced
      < 2 ^ 64 - 1) ∧ (List.find? (fun x => x.id == 60) (sQr (rQt 5 2)).reqs = some
      { id := 60, kind := ReqKind.record, owner := ReqOwner.queue (rQt 5 2).id (rQt 5 2).inst, ctx := (rQt 5 2).ctx, addr := (qt 5 2).ring + (qt 5 2).produced % 2 ^ (qt 5 2).log2n * (qt 5 2).recSize, port := 0, since := 0, size := (qt 5 2).recSize, data := 0, completed := true })) ∧
    ((∀ f ∈ (sQi 6 5).farEnds, ¬(f.out = true ∧ f.desc = lowOf (qe false).desc)) ∧ ((List.find? (fun g => g.out && g.desc == lowOf (qe false).desc)
      sQf.farEnds = some { desc := 36864, ring := 37120, bytes := 128, out := true, package := 1 }) ∧ (sQf.reachable
      { desc := 36864, ring := 37120, bytes := 128, out := true, package := 1 : FarEnd }.package = true))) :=
  ⟨⟨(by constructor <;> first | exact regionFound rfl rfl | decide +kernel), by decide +kernel⟩,
   ⟨(by first | exact regionFound rfl rfl | decide +kernel), by decide +kernel⟩,
   ⟨(by first | exact regionFound rfl rfl | decide +kernel), by decide +kernel⟩,
   ⟨(by first | exact regionFound rfl rfl | decide +kernel), by decide +kernel⟩,
   ⟨(by first | exact regionFound rfl rfl | decide +kernel), by decide +kernel⟩,
   ⟨(by constructor <;> first | exact regionFound rfl rfl | decide +kernel), by decide +kernel⟩,
   ⟨(by constructor <;> first | exact regionFound rfl rfl | decide +kernel), by decide +kernel⟩,
   ⟨(by constructor <;> first | exact regionFound rfl rfl | decide +kernel), by decide +kernel⟩,
   ⟨(by first | exact regionFound rfl rfl | decide +kernel), by decide +kernel⟩,
   by decide +kernel⟩

theorem test_meets_WindowsCommitOrFreeze :
    ((sA (rA (acc0 AccKind.store (AccSt.ready (normal 8192))) [win true])).region? (rA (acc0 AccKind.store (AccSt.ready (normal 8192))) [win true]).id
      = some (rA (acc0 AccKind.store (AccSt.ready (normal 8192))) [win true])) ∧
    (((sA rF).region? rF.id = some rF) ∧ ((sA rF).regionLive rF = true)) ∧
    ((alt12_1.region? (rG 5 none 10).id = some (rG 5 none 10)) ∧ ((rG 5 none 10).flagAt = some 5) ∧ (firstRaised (rG 5 none 10).raised = some alt12_2)
      ∧ (alt12_1.cyc < 5 + 12)) ∧
    ((alt12_3.region? (rG 5 none 10).id = some (rG 5 none 10)) ∧ ((rG 5 none 10).flagAt = some 5) ∧ (firstRaised (rG 5 none 10).raised = some alt12_2)
      ∧ (5 + 12 ≤ alt12_3.cyc) ∧ ((rG 5 none 10).frozen = none) ∧ ((rG 5 none 10).awayUnbuffered = false)) ∧
    ((alt12_8.region? (rSw 9).id = some (rSw 9)) ∧ ((rSw 9).sweep = some { exits := [(2, 3)], start := 9 })) ∧
    ((sSwT.region? rSwT.id = some rSwT) ∧ (rSwT.sweep = some { exits := [(2, 3)], start := 9 }) ∧ (sSwT.landings = []) ∧ (0 < 4 * rSwT.quads) ∧ (3 <
      4) ∧ ({ tok := { val := 7, tag := 0 }, at_ := 3, src := 0 } ∈ (((regGet ((sSwT.endSweep rSwT sSwT.cyc).region? rSwT.id)).elem 0).outch 3).q)) ∧
    (((sA rF).region? rF.id = some rF) ∧ (rF.wins = [win false]) ∧ (rF.elems.find? 0 = some elT) ∧ (elT.isMatrix = false)) ∧
    (((rA (acc0 AccKind.store (AccSt.ready (normal 8192))) [win true]).wins = [win true]) ∧ (firstRaised [alt12_6, raised0, alt12_7] = some alt12_7) ∧
      (((rG 5 none 10).elems.find? 0 = some elT) ∧ (elT.isMatrix = false))) :=
  ⟨(by first | exact regionFound rfl rfl | decide +kernel),
   ⟨(by first | exact regionFound rfl rfl | decide +kernel), by decide +kernel⟩,
   ⟨(by first | exact regionFound rfl rfl | decide +kernel), by decide +kernel⟩,
   ⟨(by first | exact regionFound rfl rfl | decide +kernel), by decide +kernel⟩,
   ⟨(by first | exact regionFound rfl rfl | decide +kernel), by decide +kernel⟩,
   ⟨(by first | exact regionFound rfl rfl | decide +kernel), by decide +kernel⟩,
   ⟨(by first | exact regionFound rfl rfl | decide +kernel), by decide +kernel⟩,
   by decide +kernel⟩

theorem test_meets_ElementAccessesPerform :
    ((AccessAt (sA (rAk AccKind.load AccSt.port)) (rAk AccKind.load AccSt.port) (acc0 AccKind.load AccSt.port) AccSt.port) ∧ ((accessM (accWho (rAk
      AccKind.load AccSt.port) (acc0 AccKind.load AccSt.port)) (acc0 AccKind.load AccSt.port).kind.need (acc0 AccKind.load AccSt.port).va (acc0
      AccKind.load AccSt.port).size).exec (sA (rAk AccKind.load AccSt.port)) = (Except.ok (normal 8192), stateOfM (accessM (accWho (rAk AccKind.load
      AccSt.port) (acc0 AccKind.load AccSt.port)) Need.load 8192 8) (sA (rAk AccKind.load AccSt.port)))) ∧ ((acc0 AccKind.load
      AccSt.port).kind.unbuffered = true → (rAk AccKind.load AccSt.port).inOldest (acc0 AccKind.load AccSt.port) = true)) ∧
    ((AccessAt (sA rUnb) rUnb (acc0 AccKind.release AccSt.port) AccSt.port) ∧ ((acc0 AccKind.release AccSt.port).kind.unbuffered = true) ∧
      (rUnb.inOldest (acc0 AccKind.release AccSt.port) = false)) ∧
    ((AccessAt (sA (rA accBad)) (rA accBad) accBad AccSt.port) ∧ ((accessM (accWho (rA accBad) accBad) accBad.kind.need accBad.va accBad.size).exec
      (sA (rA accBad)) = (Except.error (Stop.raise Cause.misaligned 8193), stateOfM (accessM (accWho (rA accBad) accBad) Need.load 8193 8) (sA (rA
      accBad)))) ∧ (accBad.kind.unbuffered = true → (rA accBad).inOldest accBad = true)) ∧
    ((acc0 AccKind.load AccSt.port).kind = AccKind.load ∨ (acc0 AccKind.load AccSt.port).kind = AccKind.acquire ∨ (acc0 AccKind.load AccSt.port).kind
      = AccKind.release ∨ ∃ k, (acc0 AccKind.load AccSt.port).kind = AccKind.amo k) ∧
    ((AccessAt (sA rRdy) rRdy (acc0 AccKind.load (AccSt.ready (normal 8192))) (AccSt.ready (normal 8192))) ∧ ((acc0 AccKind.load (AccSt.ready (normal
      8192))).kind = AccKind.load ∨ (acc0 AccKind.load (AccSt.ready (normal 8192))).kind = AccKind.acquire) ∧ ((sA rRdy).mayRead rRdy (acc0
      AccKind.load (AccSt.ready (normal 8192))) = true) ∧ ((normal 8192).mt = 1 ∨ (sA rRdy).isLocal (normal 8192).pa = true) ∧ ((acc0 AccKind.load
      (AccSt.ready (normal 8192))).inPort = false → acc0 AccKind.load (AccSt.ready (normal 8192)) = acc0 AccKind.load (AccSt.ready (normal 8192)) ∧
      rRdy = rRdy ∧ sA rRdy = sA rRdy) ∧ ((acc0 AccKind.load (AccSt.ready (normal 8192))).inPort = true → (acc0 AccKind.load (AccSt.ready (normal
      8192)) = { (sA rRdy).checkedAcc rRdy (acc0 AccKind.load (AccSt.ready (normal 8192))) with inPort := false }) ∧ rRdy = (rRdy.freePort (sA
      rRdy).cyc ((sA rRdy).checkedAcc rRdy (acc0 AccKind.load (AccSt.ready (normal 8192))))).setAcc (acc0 AccKind.load (AccSt.ready (normal 8192))) ∧
      sA rRdy = (sA rRdy).setRegion rRdy) ∧ (rRdy.covered (acc0 AccKind.load (AccSt.ready (normal 8192))).serial (normal 8192) (acc0 AccKind.load
      (AccSt.ready (normal 8192))).size = true ∨ (sA rRdy).waitsScore (acc0 AccKind.load (AccSt.ready (normal 8192))) = false) ∧ ((sA rRdy).loadBytes
      rRdy (acc0 AccKind.load (AccSt.ready (normal 8192))).serial (normal 8192) (acc0 AccKind.load (AccSt.ready (normal 8192))).size 0 = ((lbs (sA
      rRdy) rRdy).1, false))) ∧
    (((sA (rA accR12)).region? (rA accR12).id = some (rA accR12)) ∧ ((rA accR12).acc? accR12.serial = some accR12) ∧ (accR12.result = some (119,
      false)) ∧ (firstResv (((rA accR12).elem accR12.elem).inch accR12.rsp).q ≠ some (accR12.serial, 0))) ∧
    (((sA rRs).region? rRs.id = some rRs) ∧ (rRs.acc? accR12.serial = some accR12) ∧ (accR12.result = some (119, false)) ∧ (firstResv ((rRs.elem
      accR12.elem).inch accR12.rsp).q = some (accR12.serial, 0)) ∧ (rRs.logs = false) ∧ (accR12.kind = AccKind.load ∨ accR12.kind = AccKind.acquire ∨
      accR12.kind = AccKind.vld)) ∧
    (∀ e ∈ [tok 1 2], ∃ k, e = InEntry.tok k) ∧
    ((AccessAt (sA (rdy AccKind.release false)) (rdy AccKind.release false) (rdyA AccKind.release false) (AccSt.ready (normal 8192))) ∧ ((sA (rdy
      AccKind.release false)).mayPerform (rdy AccKind.release false) (rdyA AccKind.release false) = true) ∧ ((normal 8192).mt = 1 ∨ (sA (rdy
      AccKind.release false)).isLocal (normal 8192).pa = true) ∧ ((rdyA AccKind.release false).kind = AccKind.release) ∧ ((sA (rdy AccKind.release
      false)).waitsScore (rdyA AccKind.release false) = false) ∧ (storeBlocked (sA (rdy AccKind.release false)) (normal 8192) (rdyA AccKind.release
      false).size = false)) ∧
    ((AccessAt (sA (rdy AccKind.vrcl true)) (rdy AccKind.vrcl true) (rdyA AccKind.vrcl true) (AccSt.ready (version 8192))) ∧ ((sA (rdy AccKind.vrcl
      true)).mayPerform (rdy AccKind.vrcl true) (rdyA AccKind.vrcl true) = true) ∧ ((version 8192).mt = 1 ∨ (sA (rdy AccKind.vrcl true)).isLocal
      (version 8192).pa = true) ∧ ((rdyA AccKind.vrcl true).kind = AccKind.vrcl) ∧ ((sA (rdy AccKind.vrcl true)).isLocal (version 8192).pa = true)) ∧
    ((AccessAt (sA (rdy AccKind.vst true)) (rdy AccKind.vst true) (rdyA AccKind.vst true) (AccSt.ready (version 8192))) ∧ ((sA (rdy AccKind.vst
      true)).mayPerform (rdy AccKind.vst true) (rdyA AccKind.vst true) = true) ∧ ((version 8192).mt = 1 ∨ (sA (rdy AccKind.vst true)).isLocal (version
      8192).pa = true) ∧ ((rdyA AccKind.vst true).kind = AccKind.vst) ∧ ((sA (rdy AccKind.vst true)).isLocal (version 8192).pa = true) ∧ ((sA (rdy
      AccKind.vst true)).vstHeld (lowOf (version 8192).pa) (VldOwner.region (rdy AccKind.vst true).id (rdyA AccKind.vst true).serial) = false) ∧ ((sA
      (rdy AccKind.vst true)).writeHeld (lowOf (version 8192).pa) 8 false = false)) ∧
    ((AccessAt (withV 9 [(1, false), (2, false), (3, true)] (sA (rdy AccKind.vst true))) (rdy AccKind.vst true) (rdyA AccKind.vst true) (AccSt.ready
      (version 8192))) ∧ ((withV 9 [(1, false), (2, false), (3, true)] (sA (rdy AccKind.vst true))).mayPerform (rdy AccKind.vst true) (rdyA
      AccKind.vst true) = true) ∧ ((version 8192).mt = 1 ∨ (withV 9 [(1, false), (2, false), (3, true)] (sA (rdy AccKind.vst true))).isLocal (version
      8192).pa = true) ∧ ((rdyA AccKind.vst true).kind = AccKind.vst) ∧ ((withV 9 [(1, false), (2, false), (3, true)] (sA (rdy AccKind.vst
      true))).isLocal (version 8192).pa = true) ∧ ((withV 9 [(1, false), (2, false), (3, true)] (sA (rdy AccKind.vst true))).vstHeld (lowOf (version
      8192).pa) (VldOwner.region (rdy AccKind.vst true).id (rdyA AccKind.vst true).serial) = true)) ∧
    ((AccessAt amoS (rdy (AccKind.amo AmoKind.add) false) (rdyA (AccKind.amo AmoKind.add) false) (AccSt.ready (normal 8192))) ∧ ((amoAtM (normal 8192)
      AmoKind.add (rdyA (AccKind.amo AmoKind.add) false).size (BitVec.extractLsb' 0 64 (rdyA (AccKind.amo AmoKind.add) false).data).toNat
      (BitVec.toNat (rdyA (AccKind.amo AmoKind.add) false).new)).exec amoS = (Except.ok (9833440827789222529, false), stateOfM (amoAtM (normal 8192)
      AmoKind.add 8 4660 5) amoS)) ∧ (amoS.mayPerform (rdy (AccKind.amo AmoKind.add) false) (rdyA (AccKind.amo AmoKind.add) false) = true) ∧ ((normal
      8192).mt = 1 ∨ amoS.isLocal (normal 8192).pa = true) ∧ ((rdyA (AccKind.amo AmoKind.add) false).kind = AccKind.amo AmoKind.add) ∧
      (amoS.waitsScore (rdyA (AccKind.amo AmoKind.add) false) = false)) ∧
    ((AccessAt (sA (rWt 4)) (rWt 4) (aWt 4) (AccSt.waiting (version 8192))) ∧ ((aWt 4).kind = AccKind.vst)) ∧
    ((AccessAt alt12_11 (rWt 4) (aWt 4) (AccSt.waiting (version 8192))) ∧ ((aWt 4).kind = AccKind.vst) ∧ (alt12_11.mayPerform (rWt 4) (aWt 4) = true)
      ∧ ((aWt 4).since + 2 ^ 20 < alt12_11.cyc)) ∧
    ((AccessAt (sA (rWt 4)) (rWt 4) (aWt 4) (AccSt.waiting (version 8192))) ∧ ((aWt 4).kind = AccKind.vst) ∧ ((sA (rWt 4)).mayPerform (rWt 4) (aWt 4)
      = true) ∧ ((sA (rWt 4)).cyc ≤ (aWt 4).since + 2 ^ 20) ∧ ((sA (rWt 4)).vstHeld (lowOf (version 8192).pa) (VldOwner.region (rWt 4).id (aWt
      4).serial) = false) ∧ ((sA (rWt 4)).writeHeld (lowOf (version 8192).pa) 8 false = false)) ∧
    ((AccessAt sRm (rA aRm) aRm (AccSt.remote (version 1099511635968))) ∧ (aRm.kind = AccKind.vst) ∧ (aRm.since + 2 ^ 20 < sRm.cyc) ∧ (∃ q ∈ sRm.reqs,
      q.completed = true ∧ q.kind = ReqKind.vst ∧ q.owner = ReqOwner.region (rA aRm).id aRm.serial)) ∧
    ((AccessAt (sA (rdy AccKind.vld true)) (rdy AccKind.vld true) (rdyA AccKind.vld true) (AccSt.ready (version 8192))) ∧ ((rdyA AccKind.vld
      true).kind = AccKind.vld) ∧ ((sA (rdy AccKind.vld true)).isLocal (version 8192).pa = true) ∧ ((sA (rdy AccKind.vld true)).mayJudge (rdy
      AccKind.vld true) (rdyA AccKind.vld true) = true)) ∧
    ((AccessAt (sA (rAk AccKind.vld (AccSt.refused (version 8192)))) (rAk AccKind.vld (AccSt.refused (version 8192))) (acc0 AccKind.vld (AccSt.refused
      (version 8192))) (AccSt.refused (version 8192))) ∧ ((acc0 AccKind.vld (AccSt.refused (version 8192))).kind = AccKind.vld) ∧ ((sA (rAk
      AccKind.vld (AccSt.refused (version 8192)))).wayOpen (rAk AccKind.vld (AccSt.refused (version 8192))) (acc0 AccKind.vld (AccSt.refused (version
      8192))) = true)) ∧
    (((withV 9 [] (sA (rdy AccKind.vld true))).judgeVld (lowOf (version 8192).pa) (rdyA AccKind.vld true).version = VldAnswer.gone) ∧ ((withV 8 [(44,
      false)] (sA (rdy AccKind.vld true))).judgeVld (lowOf (version 8192).pa) (rdyA AccKind.vld true).version = VldAnswer.value 44 false) ∧ ((withV 6
      [] (sA (rdy AccKind.vld true))).judgeVld (lowOf (version 8192).pa) (rdyA AccKind.vld true).version = VldAnswer.notYet) ∧ (((rdyA AccKind.vld
      true).size = 8) ∧ (∀ b ∈ (rdy AccKind.vld true).accs, b.kind ≠ AccKind.store))) :=
  ⟨⟨(by constructor <;> first | exact regionFound rfl rfl | decide +kernel), pairOkM (by decide +kernel), by decide +kernel⟩,
   ⟨(by constructor <;> first | exact regionFound rfl rfl | decide +kernel), by decide +kernel⟩,
   ⟨(by constructor <;> first | exact regionFound rfl rfl | decide +kernel), pairErrM (by decide +kernel), by decide +kernel⟩,
   (.inl rfl),
   ⟨(by constructor <;> first | exact regionFound rfl rfl | decide +kernel), by decide +kernel⟩,
   ⟨(by first | exact regionFound rfl rfl | decide +kernel), by decide +kernel⟩,
   ⟨(by first | exact regionFound rfl rfl | decide +kernel), by decide +kernel⟩,
   (fun e h => ⟨_, List.mem_singleton.mp h⟩),
   ⟨(by constructor <;> first | exact regionFound rfl rfl | decide +kernel), by decide +kernel⟩,
   ⟨(by constructor <;> first | exact regionFound rfl rfl | decide +kernel), by decide +kernel⟩,
   ⟨(by constructor <;> first | exact regionFound rfl rfl | decide +kernel), by decide +kernel⟩,
   ⟨(by constructor <;> first | exact regionFound rfl rfl | decide +kernel), by decide +kernel⟩,
   ⟨(by constructor <;> first | exact regionFound rfl rfl | decide +kernel), pairOkM (by decide +kernel), by decide +kernel⟩,
   ⟨(by constructor <;> first | exact regionFound rfl rfl | decide +kernel), by decide +kernel⟩,
   ⟨(by constructor <;> first | exact regionFound rfl rfl | decide +kernel), by decide +kernel⟩,
   ⟨(by constructor <;> first | exact regionFound rfl rfl | decide +kernel), by decide +kernel⟩,
   ⟨(by constructor <;> first | exact regionFound rfl rfl | decide +kernel), by decide +kernel⟩,
   ⟨(by constructor <;> first | exact regionFound rfl rfl | decide +kernel), by decide +kernel⟩,
   ⟨(by constructor <;> first | exact regionFound rfl rfl | decide +kernel), by decide +kernel⟩,
   by decide +kernel⟩

theorem test_meets_StreamsStartAndMove :
    (((st0 StreamKind.cp StreamSt.running).stepM.exec (sS (st0 StreamKind.cp StreamSt.running)) = (Except.ok (stepT (st0 StreamKind.cp
      StreamSt.running) (sS (st0 StreamKind.cp StreamSt.running))), stateOfM (st0 StreamKind.cp StreamSt.running).stepM (sS (st0 StreamKind.cp
      StreamSt.running)))) ∧ ((sS (st0 StreamKind.cp StreamSt.running)).stream? (st0 StreamKind.cp StreamSt.running).id = some (st0 StreamKind.cp
      StreamSt.running)) ∧ ((st0 StreamKind.cp StreamSt.running).st = StreamSt.running) ∧ ((st0 StreamKind.cp StreamSt.running).moved = false) ∧ ((st0
      StreamKind.cp StreamSt.running).kind ≠ StreamKind.hrv) ∧ ((sS (st0 StreamKind.cp StreamSt.running)).portsOk (st0 StreamKind.cp StreamSt.running)
      = none)) ∧
    (((stUn (st0 StreamKind.cp StreamSt.running) 274877906944).stepM.exec (sS (stUn (st0 StreamKind.cp StreamSt.running) 274877906944)) =
      (Except.error (Stop.raise Cause.pageFault 274877906944), stateOfM (stUn (st0 StreamKind.cp StreamSt.running) 274877906944).stepM (sS (stUn (st0
      StreamKind.cp StreamSt.running) 274877906944)))) ∧ ((sS (stUn (st0 StreamKind.cp StreamSt.running) 274877906944)).stream? (stUn (st0
      StreamKind.cp StreamSt.running) 274877906944).id = some (stUn (st0 StreamKind.cp StreamSt.running) 274877906944)) ∧ ((stUn (st0 StreamKind.cp
      StreamSt.running) 274877906944).st = StreamSt.running) ∧ ((stUn (st0 StreamKind.cp StreamSt.running) 274877906944).moved = false) ∧ ((stUn (st0
      StreamKind.cp StreamSt.running) 274877906944).kind ≠ StreamKind.hrv) ∧ ((sS (stUn (st0 StreamKind.cp StreamSt.running) 274877906944)).portsOk
      (stUn (st0 StreamKind.cp StreamSt.running) 274877906944) = none)) ∧
    (((accessM (whoStream (st0 StreamKind.cp StreamSt.running)) Need.load ((st0 StreamKind.cp StreamSt.running).desc.itemAt (st0 StreamKind.cp
      StreamSt.running).item) (st0 StreamKind.cp StreamSt.running).desc.size).exec cpS = (Except.ok (normal 8192), stateOfM (accessM (whoStream (st0
      StreamKind.cp StreamSt.running)) Need.load ((st0 StreamKind.cp StreamSt.running).desc.itemAt (st0 StreamKind.cp StreamSt.running).item) (st0
      StreamKind.cp StreamSt.running).desc.size) cpS)) ∧ ((accessM (whoStream (st0 StreamKind.cp StreamSt.running)) Need.store ((st0 StreamKind.cp
      StreamSt.running).dst.itemAt (st0 StreamKind.cp StreamSt.running).item) (st0 StreamKind.cp StreamSt.running).dst.size).exec (stateOfM (accessM
      (whoStream (st0 StreamKind.cp StreamSt.running)) Need.load ((st0 StreamKind.cp StreamSt.running).desc.itemAt (st0 StreamKind.cp
      StreamSt.running).item) (st0 StreamKind.cp StreamSt.running).desc.size) cpS) = (Except.ok (normal 32768), stateOfM (accessM (whoStream (st0
      StreamKind.cp StreamSt.running)) Need.store ((st0 StreamKind.cp StreamSt.running).dst.itemAt (st0 StreamKind.cp StreamSt.running).item) (st0
      StreamKind.cp StreamSt.running).dst.size) (stateOfM (accessM (whoStream (st0 StreamKind.cp StreamSt.running)) Need.load ((st0 StreamKind.cp
      StreamSt.running).desc.itemAt (st0 StreamKind.cp StreamSt.running).item) (st0 StreamKind.cp StreamSt.running).desc.size) cpS))) ∧ (cpS.stream?
      (st0 StreamKind.cp StreamSt.running).id = some (st0 StreamKind.cp StreamSt.running)) ∧ ((st0 StreamKind.cp StreamSt.running).st =
      StreamSt.running) ∧ ((st0 StreamKind.cp StreamSt.running).moved = false) ∧ ((st0 StreamKind.cp StreamSt.running).kind ≠ StreamKind.hrv) ∧
      (cpS.portsOk (st0 StreamKind.cp StreamSt.running) = none) ∧ ((st0 StreamKind.cp StreamSt.running).kind = StreamKind.cp) ∧ ((st0 StreamKind.cp
      StreamSt.running).desc.esz ≠ 5) ∧ ((st0 StreamKind.cp StreamSt.running).item < (st0 StreamKind.cp StreamSt.running).dst.total) ∧ ((st0
      StreamKind.cp StreamSt.running).dst.size = (st0 StreamKind.cp StreamSt.running).desc.size) ∧ ((normal 8192).mt = 0) ∧ ((stateOfM (accessM
      (whoStream (st0 StreamKind.cp StreamSt.running)) Need.load ((st0 StreamKind.cp StreamSt.running).desc.itemAt (st0 StreamKind.cp
      StreamSt.running).item) (st0 StreamKind.cp StreamSt.running).desc.size) cpS).isLocal (normal 8192).pa = true) ∧ ((stateOfM (accessM (whoStream
      (st0 StreamKind.cp StreamSt.running)) Need.load ((st0 StreamKind.cp StreamSt.running).desc.itemAt (st0 StreamKind.cp StreamSt.running).item)
      (st0 StreamKind.cp StreamSt.running).desc.size) cpS).poisonedAt (lowOf (normal 8192).pa) (st0 StreamKind.cp StreamSt.running).desc.size = false)
      ∧ ((normal 32768).mt = 0) ∧ ((stateOfM (accessM (whoStream (st0 StreamKind.cp StreamSt.running)) Need.store ((st0 StreamKind.cp
      StreamSt.running).dst.itemAt (st0 StreamKind.cp StreamSt.running).item) (st0 StreamKind.cp StreamSt.running).dst.size) (stateOfM (accessM
      (whoStream (st0 StreamKind.cp StreamSt.running)) Need.load ((st0 StreamKind.cp StreamSt.running).desc.itemAt (st0 StreamKind.cp
      StreamSt.running).item) (st0 StreamKind.cp StreamSt.running).desc.size) cpS)).isLocal (normal 32768).pa = true) ∧ ((stateOfM (accessM (whoStream
      (st0 StreamKind.cp StreamSt.running)) Need.store ((st0 StreamKind.cp StreamSt.running).dst.itemAt (st0 StreamKind.cp StreamSt.running).item)
      (st0 StreamKind.cp StreamSt.running).dst.size) (stateOfM (accessM (whoStream (st0 StreamKind.cp StreamSt.running)) Need.load ((st0 StreamKind.cp
      StreamSt.running).desc.itemAt (st0 StreamKind.cp StreamSt.running).item) (st0 StreamKind.cp StreamSt.running).desc.size) cpS)).writeHeld (lowOf
      (normal 32768).pa) (st0 StreamKind.cp StreamSt.running).dst.size false = false)) ∧
    ((flM.markM.exec (sS flM) = (Except.ok flM2, stateOfM flM.markM (sS flM))) ∧ ((sS flM).stream? flM.id = some flM) ∧ (flM.isFailed = true) ∧
      (flM.marksLeft = true)) ∧
    (((markUnitsM (whoStream flM) (BitVec.ofNat (64 : ℕ) ((8 : ℕ) * (BitVec.toNat (8192 : DWord) / (8 : ℕ)))) ((BitVec.toNat (8192 : DWord) + (8 : ℕ)
      - (1 : ℕ)) / (8 : ℕ) + (1 : ℕ) - BitVec.toNat (8192 : DWord) / (8 : ℕ))).exec mkS = (Except.ok [normal (8192 : ℕ)], stateOfM (markUnitsM
      (whoStream flM) (8192 : DWord) (1 : ℕ)) mkS)) ∧ (∀ x ∈ [normal 8192], x.mt = 0 ∧ isNormal (lowOf x.pa) = true ∧ (stateOfM (markUnitsM (whoStream
      flM) 8192 1) mkS).isLocal x.pa = true)) ∧
    (((translateM (whoStream flM) Need.store 8192).exec mkS = (Except.ok (normal 8192), stateOfM (translateM (whoStream flM) Need.store 8192) mkS)) ∧
      ((markUnitsM (whoStream flM) (8192 + 8) 1).exec (stateOfM (translateM (whoStream flM) Need.store 8192) mkS) = (Except.ok [normal 8200], stateOfM
      (markUnitsM (whoStream flM) 8200 1) (stateOfM (translateM (whoStream flM) Need.store 8192) mkS)))) ∧
    (((translateM (whoStream flM) Need.store 274877906944).exec mkS = (Except.error (Stop.raise Cause.pageFault 274877906944), mkS)) ∧ ((markUnitsM
      (whoStream flM) (274877906944 + 8) 0).exec mkS = (Except.ok [], mkS))) ∧
    ((((sPt1 [] []).port (stmT StreamKind.ld 0 (some { val := 7, tag := 0 })).port).toRegion.length < portRoom) ∧ ((stmT StreamKind.ld 0 (some
      { val := 7, tag := 0 })).kind = StreamKind.ld) ∧ ((stmT StreamKind.ld 0 (some { val := 7, tag := 0 })).desc.esz < 5) ∧ ((stmT StreamKind.ld 0
      (some { val := 7, tag := 0 })).held = some { val := 7, tag := 0 }) ∧ (((sPt1 [] []).port (stmT StreamKind.ld 0 (some
      { val := 7, tag := 0 })).port).toRegion.length + ((sPt1 [] []).port (stmT StreamKind.ld 0 (some { val := 7, tag := 0 })).port).fly.length < 4)) ∧
    ((((sPt1 [] []).port (stmT StreamKind.ld 2 none).port).toRegion.length < portRoom) ∧ ((stmT StreamKind.ld 2 none).kind = StreamKind.ld) ∧ ((stmT
      StreamKind.ld 2 none).desc.esz < 5) ∧ ((stmT StreamKind.ld 2 none).held = none) ∧ ((stmT StreamKind.ld 2 none).sheld = none) ∧ ((stmT
      StreamKind.ld 2 none).stops < (stmT StreamKind.ld 2 none).desc.stopsAfter (stmT StreamKind.ld 2 none).item) ∧ (((sPt1 [] []).port (stmT
      StreamKind.ld 2 none).port).toRegion.length + ((sPt1 [] []).port (stmT StreamKind.ld 2 none).port).fly.length < 4)) ∧
    (((itemReadM (whoStream (stmT StreamKind.ld 0 none)) ((stmT StreamKind.ld 0 none).desc.itemAt (stmT StreamKind.ld 0 none).item) (stmT
      StreamKind.ld 0 none).desc.size).exec (sPt1 [] []) = (Except.ok ((okOr ((itemReadM (whoStream (stmT StreamKind.ld 0 none)) 8192 8).exec (sPt1 []
      [])).1 ([], false)).1, false), stateOfM (itemReadM (whoStream (stmT StreamKind.ld 0 none)) 8192 8) (sPt1 [] []))) ∧ ((stmT StreamKind.ld 0
      none).kind = StreamKind.ld) ∧ ((stmT StreamKind.ld 0 none).desc.esz < 5) ∧ ((stmT StreamKind.ld 0 none).held = none) ∧ ((stmT StreamKind.ld 0
      none).sheld = none) ∧ ((stmT StreamKind.ld 0 none).desc.stopsAfter (stmT StreamKind.ld 0 none).item ≤ (stmT StreamKind.ld 0 none).stops) ∧
      ((stmT StreamKind.ld 0 none).item < (stmT StreamKind.ld 0 none).desc.total) ∧ ((stmT StreamKind.ld 0 none).poison = false) ∧ (((stmT
      StreamKind.ld 0 none).item + 1) % (stmT StreamKind.ld 0 none).desc.n0 ≠ 0) ∧ (((stmT StreamKind.ld 0 none).item % (stmT StreamKind.ld 0
      none).desc.n0 + 1) % (32 / (stmT StreamKind.ld 0 none).desc.size) ≠ 0)) ∧
    (((itemReadM (whoStream (stmT StreamKind.ld 1 none)) ((stmT StreamKind.ld 1 none).desc.itemAt (stmT StreamKind.ld 1 none).item) (stmT
      StreamKind.ld 1 none).desc.size).exec (sPt1 [] []) = (Except.ok ((okOr ((itemReadM (whoStream (stmT StreamKind.ld 1 none)) 8200 8).exec (sPt1 []
      [])).1 ([], false)).1, false), stateOfM (itemReadM (whoStream (stmT StreamKind.ld 1 none)) 8200 8) (sPt1 [] []))) ∧ ((stmT StreamKind.ld 1
      none).kind = StreamKind.ld) ∧ ((stmT StreamKind.ld 1 none).desc.esz < 5) ∧ ((stmT StreamKind.ld 1 none).held = none) ∧ ((stmT StreamKind.ld 1
      none).sheld = none) ∧ ((stmT StreamKind.ld 1 none).desc.stopsAfter (stmT StreamKind.ld 1 none).item ≤ (stmT StreamKind.ld 1 none).stops) ∧
      ((stmT StreamKind.ld 1 none).item < (stmT StreamKind.ld 1 none).desc.total) ∧ ((stmT StreamKind.ld 1 none).poison = false) ∧ (((stmT
      StreamKind.ld 1 none).item + 1) % (stmT StreamKind.ld 1 none).desc.n0 = 0 ∨ ((stmT StreamKind.ld 1 none).item % (stmT StreamKind.ld 1
      none).desc.n0 + 1) % (32 / (stmT StreamKind.ld 1 none).desc.size) = 0)) ∧
    (((itemWriteM (stmT StreamKind.st 1 (some { val := 2, tag := 0 : Token })) ((stmT StreamKind.st 1 (some
      { val := 2, tag := 0 : Token })).desc.itemAt (stmT StreamKind.st 1 (some { val := 2, tag := 0 : Token })).item) (leBytes (BitVec.toNat
      { val := 2, tag := 0 : Token }.val / 256 ^ ((stmT StreamKind.st 1 (some { val := 2, tag := 0 : Token })).item % (stmT StreamKind.st 1 (some
      { val := 2, tag := 0 : Token })).desc.n0 % (32 / (stmT StreamKind.st 1 (some { val := 2, tag := 0 : Token })).desc.size) * (stmT StreamKind.st 1
      (some { val := 2, tag := 0 : Token })).desc.size)) (stmT StreamKind.st 1 (some { val := 2, tag := 0 : Token })).desc.size)).exec (sPt1 [] []) =
      (Except.ok (), stateOfM (itemWriteM (stmT StreamKind.st 1 (some { val := 2, tag := 0 : Token })) 8200 (leBytes 0 8)) (sPt1 [] []))) ∧ ((stmT
      StreamKind.st 1 (some { val := 2, tag := 0 })).kind = StreamKind.st) ∧ ((stmT StreamKind.st 1 (some { val := 2, tag := 0 })).desc.esz < 5) ∧
      ((stmT StreamKind.st 1 (some { val := 2, tag := 0 })).held = some { val := 2, tag := 0 }) ∧ ((stmT StreamKind.st 1 (some
      { val := 2, tag := 0 })).desc.stopsAfter (stmT StreamKind.st 1 (some { val := 2, tag := 0 })).item ≤ (stmT StreamKind.st 1 (some
      { val := 2, tag := 0 })).stops) ∧ ((stmT StreamKind.st 1 (some { val := 2, tag := 0 })).item < (stmT StreamKind.st 1 (some
      { val := 2, tag := 0 })).desc.total) ∧ (isPoison { val := 2, tag := 0 : Token }.tag = false)) ∧
    (((markItemM (stmT StreamKind.st 1 (some { val := 2, tag := 192 })) ((stmT StreamKind.st 1 (some { val := 2, tag := 192 })).desc.itemAt (stmT
      StreamKind.st 1 (some { val := 2, tag := 192 })).item) (stmT StreamKind.st 1 (some { val := 2, tag := 192 })).desc.size).exec (sPt1 [] []) =
      (Except.ok (), stateOfM (markItemM (stmT StreamKind.st 1 (some { val := 2, tag := 192 })) 8200 8) (sPt1 [] []))) ∧ ((stmT StreamKind.st 1 (some
      { val := 2, tag := 192 })).kind = StreamKind.st) ∧ ((stmT StreamKind.st 1 (some { val := 2, tag := 192 })).desc.esz < 5) ∧ ((stmT StreamKind.st
      1 (some { val := 2, tag := 192 })).held = some { val := 2, tag := 192 }) ∧ ((stmT StreamKind.st 1 (some
      { val := 2, tag := 192 })).desc.stopsAfter (stmT StreamKind.st 1 (some { val := 2, tag := 192 })).item ≤ (stmT StreamKind.st 1 (some
      { val := 2, tag := 192 })).stops) ∧ ((stmT StreamKind.st 1 (some { val := 2, tag := 192 })).item < (stmT StreamKind.st 1 (some
      { val := 2, tag := 192 })).desc.total) ∧ (isPoison { val := 2, tag := 192 : Token }.tag = true)) ∧
    ((((sS (st0 StreamKind.cp StreamSt.queued)).stream? (st0 StreamKind.cp StreamSt.queued).id = some (st0 StreamKind.cp StreamSt.queued)) ∧ ((st0
      StreamKind.cp StreamSt.queued).st = StreamSt.queued) ∧ ((st0 StreamKind.cp StreamSt.queued).empty = true → started (sS (st0 StreamKind.cp
      StreamSt.queued)) (st0 StreamKind.cp StreamSt.queued) = sS (st0 StreamKind.cp StreamSt.queued)) ∧ ((st0 StreamKind.cp StreamSt.queued).empty =
      false → (sS (st0 StreamKind.cp StreamSt.queued)).headStream (st0 StreamKind.cp StreamSt.queued).core = some (st0 StreamKind.cp StreamSt.queued)
      ∧ (sS (st0 StreamKind.cp StreamSt.queued)).engineNext (engineOf (st0 StreamKind.cp StreamSt.queued)) = some (rotaPlace (st0 StreamKind.cp
      StreamSt.queued).core) ∧ started (sS (st0 StreamKind.cp StreamSt.queued)) (st0 StreamKind.cp StreamSt.queued) =
      { (sS (st0 StreamKind.cp StreamSt.queued)) with lastSector := (sS (st0 StreamKind.cp StreamSt.queued)).lastSector.set (engineOf (st0 StreamKind.cp StreamSt.queued)) (rotaPlace (st0 StreamKind.cp StreamSt.queued).core) })
      ∧ ((sS (st0 StreamKind.cp StreamSt.queued)).streamCheck (st0 StreamKind.cp StreamSt.queued) = none)) ∧ (((sS (st0 StreamKind.ld
      StreamSt.queued)).stream? (st0 StreamKind.ld StreamSt.queued).id = some (st0 StreamKind.ld StreamSt.queued)) ∧ ((st0 StreamKind.ld
      StreamSt.queued).st = StreamSt.queued) ∧ ((st0 StreamKind.ld StreamSt.queued).empty = true → started (sS (st0 StreamKind.ld StreamSt.queued))
      (st0 StreamKind.ld StreamSt.queued) = sS (st0 StreamKind.ld StreamSt.queued)) ∧ ((st0 StreamKind.ld StreamSt.queued).empty = false → (sS (st0
      StreamKind.ld StreamSt.queued)).headStream (st0 StreamKind.ld StreamSt.queued).core = some (st0 StreamKind.ld StreamSt.queued) ∧ (sS (st0
      StreamKind.ld StreamSt.queued)).engineNext (engineOf (st0 StreamKind.ld StreamSt.queued)) = some (rotaPlace (st0 StreamKind.ld
      StreamSt.queued).core) ∧ started (sS (st0 StreamKind.ld StreamSt.queued)) (st0 StreamKind.ld StreamSt.queued) =
      { (sS (st0 StreamKind.ld StreamSt.queued)) with lastSector := (sS (st0 StreamKind.ld StreamSt.queued)).lastSector.set (engineOf (st0 StreamKind.ld StreamSt.queued)) (rotaPlace (st0 StreamKind.ld StreamSt.queued).core) })
      ∧ ((sS (st0 StreamKind.ld StreamSt.queued)).streamCheck (st0 StreamKind.ld StreamSt.queued) = some 42)) ∧ (((sS (st0 StreamKind.cp
      (StreamSt.paused 8192 5))).stream? (st0 StreamKind.cp (StreamSt.paused 8192 5)).id = some (st0 StreamKind.cp (StreamSt.paused 8192 5))) ∧ ((st0
      StreamKind.cp (StreamSt.paused 8192 5)).st = StreamSt.paused 8192 5)) ∧ (sTwo.engineNext (engineOf (st0 StreamKind.ld StreamSt.queued)) = some
      (rotaPlace 6))) ∧
    (((1 < d0.n0) ∧ (0 < d0.n1) ∧ (0 < d0.n2)) ∧ ((0 < 2) ∧ (2 ≤ dL.total) ∧ (3 < 4)) ∧ ((3 < 4) ∧ ([dL.n0, dL.n1, dL.n2, dL.n3][3]? = some 1)) ∧
      (((stmT StreamKind.st 2 none).kind = StreamKind.st) ∧ ((stmT StreamKind.st 2 none).desc.esz < 5) ∧ (((sPt1 [{ val := 2, tag := 64 }] []).port
      (stmT StreamKind.st 2 none).port).toMem = [{ val := 2, tag := 64 }]) ∧ ((stmT StreamKind.st 2 none).stops < (stmT StreamKind.st 2
      none).desc.stopsAfter (stmT StreamKind.st 2 none).item) ∧ (isStop { val := 2, tag := 64 : Token }.tag = true) ∧ (levelOf
      { val := 2, tag := 64 : Token }.tag = (stmT StreamKind.st 2 none).stops))) ∧
    ((((stmT StreamKind.st 2 none).kind = StreamKind.st) ∧ ((stmT StreamKind.st 2 none).desc.esz < 5) ∧ (((sPt1 [{ val := 2, tag := 192 }] []).port
      (stmT StreamKind.st 2 none).port).toMem = [{ val := 2, tag := 192 }]) ∧ ((stmT StreamKind.st 2 none).stops < (stmT StreamKind.st 2
      none).desc.stopsAfter (stmT StreamKind.st 2 none).item) ∧ (isPoison { val := 2, tag := 192 : Token }.tag = true)) ∧ (((stmT StreamKind.st 2
      none).kind = StreamKind.st) ∧ ((stmT StreamKind.st 2 none).desc.esz < 5) ∧ (((sPt1 [{ val := 2, tag := 65 }] []).port (stmT StreamKind.st 2
      none).port).toMem = [{ val := 2, tag := 65 }]) ∧ ((stmT StreamKind.st 2 none).stops < (stmT StreamKind.st 2 none).desc.stopsAfter (stmT
      StreamKind.st 2 none).item) ∧ (isPoison { val := 2, tag := 65 : Token }.tag = false) ∧ (¬(isStop { val := 2, tag := 65 : Token }.tag = true ∧
      levelOf { val := 2, tag := 65 : Token }.tag = (stmT StreamKind.st 2 none).stops))) ∧ (((stmT StreamKind.st 0 none).kind = StreamKind.st) ∧
      ((stmT StreamKind.st 0 none).desc.esz < 5) ∧ (((sPt1 [{ val := 2, tag := 0 }] []).port (stmT StreamKind.st 0 none).port).toMem =
      [{ val := 2, tag := 0 }]) ∧ ((stmT StreamKind.st 0 none).desc.stopsAfter (stmT StreamKind.st 0 none).item ≤ (stmT StreamKind.st 0 none).stops) ∧
      ((stmT StreamKind.st 0 none).item < (stmT StreamKind.st 0 none).desc.total) ∧ ((stmT StreamKind.st 0 none).held = none) ∧ (isStop
      { val := 2, tag := 0 : Token }.tag = false)) ∧ (((stmT StreamKind.st 0 none).kind = StreamKind.st) ∧ ((stmT StreamKind.st 0 none).desc.esz < 5)
      ∧ (((sPt1 [{ val := 2, tag := 64 }] []).port (stmT StreamKind.st 0 none).port).toMem = [{ val := 2, tag := 64 }]) ∧ ((stmT StreamKind.st 0
      none).desc.stopsAfter (stmT StreamKind.st 0 none).item ≤ (stmT StreamKind.st 0 none).stops) ∧ ((stmT StreamKind.st 0 none).item < (stmT
      StreamKind.st 0 none).desc.total) ∧ ((stmT StreamKind.st 0 none).held = none) ∧ (isStop { val := 2, tag := 64 : Token }.tag = true))) ∧
    (((stBad (st0 StreamKind.ld StreamSt.queued)).kind = StreamKind.ld ∨ (stBad (st0 StreamKind.ld StreamSt.queued)).kind = StreamKind.st) ∧ ((stBad
      (st0 StreamKind.ld StreamSt.queued)).desc.bad = true)) :=
  ⟨⟨pairOkM (by decide +kernel), by decide +kernel⟩,
   ⟨pairErrM (by decide +kernel), by decide +kernel⟩,
   ⟨pairOkM (by decide +kernel), pairOkM (by decide +kernel), by decide +kernel⟩,
   ⟨pairOkM (by decide +kernel), by decide +kernel⟩,
   ⟨pairOkM (by decide +kernel), by decide +kernel⟩,
   ⟨pairOkM (by decide +kernel), pairOkM (by decide +kernel)⟩,
   ⟨pairErrM (by decide +kernel), pairOkM (by decide +kernel)⟩,
   ⟨(Nat.lt_of_lt_of_le (by decide +kernel : _ < 1) (Nat.le_add_right 1 _)), by decide +kernel⟩,
   ⟨(Nat.lt_of_lt_of_le (by decide +kernel : _ < 1) (Nat.le_add_right 1 _)), by decide +kernel⟩,
   ⟨pairOkM (by decide +kernel), by decide +kernel⟩,
   ⟨pairOkM (by decide +kernel), by decide +kernel⟩,
   ⟨pairOkM (by decide +kernel), by decide +kernel⟩,
   ⟨pairOkM (by decide +kernel), by decide +kernel⟩,
   by decide +kernel,
   by decide +kernel,
   by decide +kernel,
   by decide +kernel⟩

theorem test_meets_StreamsRetireAndHarvest :
    (((translateM (whoStream (fin_ 20480)) Need.atomic (fin_ 20480).tb).exec (sS (fin_ 20480)) = (Except.ok (normal 20480), atTb 20480)) ∧ ((fin_
      20480).kind ≠ StreamKind.hrv) ∧ ((fin_ 20480).desc1.tbarEn = true)) ∧
    (((translateM (whoStream (fin_ 274877906944)) Need.atomic (fin_ 274877906944).tb).exec (sS (fin_ 274877906944)) = (Except.error (Stop.raise
      Cause.pageFault 274877906944), atTb 274877906944)) ∧ ((fin_ 274877906944).kind ≠ StreamKind.hrv) ∧ ((fin_ 274877906944).desc1.tbarEn = true)) ∧
    (((remoteFrameM hv3 (leafPa 1099511629299 + 4096 * hv3.stops)).exec sHv3 = (Except.ok false, stateOfM (remoteFrameM hv3 1099511627776) sHv3)) ∧
      (sHv3.stream? hv3.id = some hv3) ∧ (hv3.kind = StreamKind.hrv) ∧ (hv3.st = StreamSt.running) ∧ (hv3.moved = false) ∧ (canonical (hv3.hva +
      BitVec.ofNat 64 hv3.item) = true) ∧ ((sHv3.ctxOf hv3.ctx).root = some placeRoot) ∧ (sHv3.harvestFrom (hv3.hva + BitVec.ofNat 64 hv3.item) 5
      placeRoot = Harvest.page (placeRoot + 4104) 1099511629299) ∧ (leafMt 1099511629299 = 0) ∧ (hv3.stops < pageBytes 1099511629299 / 4096) ∧
      (sHv3.isLocal (leafPa 1099511629299 + 4096 * hv3.stops) = false) ∧ (hv3.stops + 1 < pageBytes 1099511629299 / 4096)) ∧
    (((remoteFrameM hv4 (leafPa 1099511629299 + 4096 * hv4.stops)).exec sHv4 = (Except.ok false, stateOfM (remoteFrameM hv4 (1099511627776 + 4096 * (2
      ^ 24 - 1))) sHv4)) ∧ (sHv4.stream? hv4.id = some hv4) ∧ (hv4.kind = StreamKind.hrv) ∧ (hv4.st = StreamSt.running) ∧ (hv4.moved = false) ∧
      (canonical (hv4.hva + BitVec.ofNat 64 hv4.item) = true) ∧ ((sHv4.ctxOf hv4.ctx).root = some placeRoot) ∧ (sHv4.harvestFrom (hv4.hva +
      BitVec.ofNat 64 hv4.item) 5 placeRoot = Harvest.page (placeRoot + 4104) 1099511629299) ∧ (leafMt 1099511629299 = 0) ∧ (hv4.stops < pageBytes
      1099511629299 / 4096) ∧ (sHv4.isLocal (leafPa 1099511629299 + 4096 * hv4.stops) = false) ∧ (hv4.stops + 1 = pageBytes 1099511629299 / 4096) ∧
      (sHv4.writeHeld (placeRoot + 4104) 8 false = false)) ∧
    ((((sS (fin_ 20480)).stream? (fin_ 20480).id = some (fin_ 20480)) ∧ ((sS (fin_ 20480)).streamWrites (fin_ 20480).id = false) ∧ ((fin_ 20480).st =
      StreamSt.running) ∧ ((fin_ 20480).moved = true) ∧ ((fin_ 20480).poison = false) ∧ ((sS (fin_ 20480)).streamCredit (fin_ 20480) false = some
      (credit (fin_ 20480) false (sS (fin_ 20480)), none))) ∧ (((sS (fin_ 8192)).stream? (fin_ 8192).id = some (fin_ 8192)) ∧ ((sS (fin_
      8192)).streamWrites (fin_ 8192).id = false) ∧ ((fin_ 8192).st = StreamSt.running) ∧ ((fin_ 8192).moved = true) ∧ ((fin_ 8192).poison = false) ∧
      ((sS (fin_ 8192)).streamCredit (fin_ 8192) false = some (credit (fin_ 8192) false (sS (fin_ 8192)), some Cause.streamDesc))) ∧ ((sHeld.stream?
      (fin_ 20480).id = some (fin_ 20480)) ∧ (sHeld.streamWrites (fin_ 20480).id = false) ∧ ((fin_ 20480).st = StreamSt.running) ∧ ((fin_ 20480).moved
      = true) ∧ ((fin_ 20480).poison = false) ∧ (sHeld.streamCredit (fin_ 20480) false = none)) ∧ (((sS fl_).stream? fl_.id = some fl_) ∧ ((sS
      fl_).streamWrites fl_.id = false) ∧ (fl_.st = StreamSt.failed 10 8192) ∧ (fl_.marksLeft = false) ∧ ((sS fl_).streamCredit fl_ true = some
      (credit fl_ true (sS fl_), none)))) ∧
    (((noTb.kind ≠ StreamKind.hrv) ∧ (noTb.desc1.tbarEn = false)) ∧ (((fin_ 20480).kind ≠ StreamKind.hrv) ∧ ((fin_ 20480).desc1.semaEn = true) ∧
      ((fin_ 20480).core = Config.sceip ∨ (sS (fin_ 20480)).coreCtx ((fin_ 20480).desc1.sema / 64) = (fin_ 20480).ctx) ∧ ((fin_ 20480).desc1.sema < 2
      ^ 14)) ∧ ((fin_ 20480).kind ≠ StreamKind.hrv) ∧ (((fin_ 20480).kind ≠ StreamKind.hrv) ∧
      ({ sector := 5, stream := 31, ctx := 1, lo := 0, hi := 9 } ∈ ((sS (fin_ 20480)).streamGone (fin_ 20480)).score))) ∧
    (((sHv.stream? hv.id = some hv) ∧ (hv.kind = StreamKind.hrv) ∧ (hv.st = StreamSt.running) ∧ (hv.moved = false) ∧ (canonical (hv.hva + BitVec.ofNat
      64 hv.item) = true) ∧ ((sHv.ctxOf hv.ctx).root = some placeRoot) ∧ (sHv.harvestFrom (hv.hva + BitVec.ofNat 64 hv.item) 5 placeRoot =
      Harvest.page (placeRoot + 4096) 1523) ∧ (leafMt 1523 = 0) ∧ (sHv.writeHeld (placeRoot + 4096) 8 false = false) ∧ (sHv.isLocal (leafPa 1523) =
      true) ∧ (hv.stops = 0) ∧ (hv.spoison = false) ∧ (0 < pageBytes 1523 / 4096) ∧ (lowOf (leafPa 1523) / 4096 + pageBytes 1523 / 4096 ≤ 2 ^ 28)) ∧
      ((sHv2.stream? hv2.id = some hv2) ∧ (hv2.kind = StreamKind.hrv) ∧ (hv2.st = StreamSt.running) ∧ (hv2.moved = false) ∧ (canonical (hv2.hva +
      BitVec.ofNat 64 hv2.item) = true) ∧ ((sHv2.ctxOf hv2.ctx).root = some placeRoot) ∧ (sHv2.harvestFrom (hv2.hva + BitVec.ofNat 64 hv2.item) 5
      placeRoot = Harvest.skip (2 ^ 36))) ∧ ((sHv5.stream? hv.id = some hv) ∧ (hv.kind = StreamKind.hrv) ∧ (hv.st = StreamSt.running) ∧ (hv.moved =
      false) ∧ (canonical (hv.hva + BitVec.ofNat 64 hv.item) = true) ∧ ((sHv5.ctxOf hv.ctx).root = some placeRoot) ∧ (sHv5.harvestFrom (hv.hva +
      BitVec.ofNat 64 hv.item) 5 placeRoot = Harvest.page (placeRoot + 4096) 1535) ∧ (leafMt 1535 = 0) ∧ (hv.stops < pageBytes 1535 / 4096) ∧
      (sHv5.isLocal (leafPa 1535 + 4096 * hv.stops) = true) ∧ (hv.stops + (2 ^ 28 - lowOf (leafPa 1535 + 4096 * hv.stops) / 4096) < pageBytes 1535 /
      4096))) :=
  ⟨⟨pairOkM (by decide +kernel), by decide +kernel⟩,
   ⟨pairErrM (by decide +kernel), by decide +kernel⟩,
   ⟨pairOkM (by decide +kernel), by decide +kernel⟩,
   ⟨pairOkM (by decide +kernel), by decide +kernel⟩,
   by decide +kernel,
   by decide +kernel,
   by decide +kernel⟩

theorem test_meets_HostQueuesAndMessages :
    (((loadM (whoQueue (hq q0) 7) (((hq q0).hostQ 7).qcb + 24) 8).exec (hq q0) = (Except.ok 0, stateOfM (loadM (whoQueue (hq q0) 7) 24600 8) (hq q0)))
      ∧ (7 < 4096) ∧ (((hq q0).hostQ 7).en = false)) ∧
    (((loadM (whoQueue (hq qBad) 7) (((hq qBad).hostQ 7).qcb + 24) 8).exec (hq qBad) = (Except.error (Stop.raise Cause.pageFault 274877906968),
      stateOfM (loadM (whoQueue (hq qBad) 7) 274877906968 8) (hq qBad))) ∧ (7 < 4096) ∧ (((hq qBad).hostQ 7).en = false)) ∧
    (((queueFetchM 7).exec (hq qF) = (Except.ok (), stateOfM (queueFetchM 7) (hq qF))) ∧ (((hq qF).hostQ 7).en = true) ∧ (((hq qF).hostQ 7).enabling =
      false) ∧ (((hq qF).hostQ 7).frz = false) ∧ (((hq qF).hostQ 7).fetching = true)) ∧
    (((queueFetchM 7).exec (hq qFB) = (Except.error (Stop.raise Cause.pageFault 274877906960), stateOfM (queueFetchM 7) (hq qFB))) ∧ (((hq qFB).hostQ
      7).en = true) ∧ (((hq qFB).hostQ 7).enabling = false) ∧ (((hq qFB).hostQ 7).frz = false) ∧ (((hq qFB).hostQ 7).fetching = true)) ∧
    (((ringView (whoQueue (hq qF) 7) ((hq qF).hostQ 7).qcb).exec (hq qF) = (Except.ok fv, fS1)) ∧ ((ringRecord (whoQueue fS1 7) ((hq qF).hostQ 7).qcb
      fv (BitVec.toNat ((hq qF).hostQ 7).fetch)).exec fS1 = (Except.ok (65536, 16, 1), stateOfM (ringRecord (whoQueue fS1 7) 24576 fv 0) fS1)) ∧ (((hq
      qF).hostQ 7).en = true) ∧ (((hq qF).hostQ 7).enabling = false) ∧ (((hq qF).hostQ 7).frz = false) ∧ (((hq qF).hostQ 7).fetching = true) ∧
      (fS1.hostQ 7 = (hq qF).hostQ 7) ∧ ((stateOfM (ringRecord (whoQueue fS1 7) 24576 fv 0) fS1).hostQ 7 = (hq qF).hostQ 7) ∧ (1 ≠ 255) ∧
      (fS1.semaReach ((hq qF).hostQ 7).ctx ((hq qF).hostQ 7).sema = true) ∧ (BitVec.toNat ((hq qF).hostQ 7).fetch + 16 = fv.tail) ∧ (fv.tail < 2 ^ 64)
      ∧ (1 ≤ 16)) ∧
    ((7 < 4096) ∧ ((msgS []).msgs[1]? = some { vector := 7, core := 5, waits := [] }) ∧ ((nm 4).newMasks.find? 2 = some 4)) :=
  ⟨⟨pairOkM (by decide +kernel), by decide +kernel⟩,
   ⟨pairErrM (by decide +kernel), by decide +kernel⟩,
   ⟨pairOkM (by decide +kernel), by decide +kernel⟩,
   ⟨pairErrM (by decide +kernel), by decide +kernel⟩,
   ⟨pairOkM (by decide +kernel), pairOkM (by decide +kernel), by decide +kernel⟩,
   by decide +kernel⟩

theorem test_meets_OutsideRequestsAreServed :
    (((accessM (whoHost hw) (if (orq 4294975488 8 true).write = true then Need.store else Need.load) (hw.vbase + BitVec.ofNat 64 ((orq 4294975488 8
      true).addr - BitVec.toNat hw.hbase)) (orq 4294975488 8 true).size).exec sH = (Except.ok (normal 8192), hostT true 4294975488)) ∧ (sH.bootst = 1)
      ∧ (outerOk (orq 4294975488 8 true) = true) ∧ (sH.windowOf (orq 4294975488 8 true).addr = some hw) ∧ ((hostT true 4294975488).isLocal (normal
      8192).pa = true) ∧ ((orq 4294975488 8 true).write = true) ∧
      ({ (hostT true 4294975488) with hostLines := List.filter (fun l => l != lowOf (normal 8192).pa / 128) (hostT true 4294975488).hostLines, kills := (hostT true 4294975488).kills : State }.writeHeld
      (lowOf (normal 8192).pa) (orq 4294975488 8 true).size false = false)) ∧
    (((accessM (whoHost hw) (if (orq 4294975488 8 false true).write = true then Need.store else Need.load) (hw.vbase + BitVec.ofNat 64 ((orq
      4294975488 8 false true).addr - BitVec.toNat hw.hbase)) (orq 4294975488 8 false true).size).exec sH = (Except.ok (normal 8192), hostT false
      4294975488)) ∧ (sH.bootst = 1) ∧ (outerOk (orq 4294975488 8 false true) = true) ∧ (sH.windowOf (orq 4294975488 8 false true).addr = some hw) ∧
      ((hostT false 4294975488).isLocal (normal 8192).pa = true) ∧ ((orq 4294975488 8 false true).write = false)) ∧
    (((accessM (whoHost hw2) (if (orq 4294975488 8 false).write = true then Need.store else Need.load) (hw2.vbase + BitVec.ofNat 64 ((orq 4294975488 8
      false).addr - BitVec.toNat hw2.hbase)) (orq 4294975488 8 false).size).exec sH2 = (Except.error (Stop.raise Cause.pageFault 274877915136),
      stateOfM (accessM (whoHost hw2) Need.load 274877915136 8) sH2)) ∧ (sH2.bootst = 1) ∧ (outerOk (orq 4294975488 8 false) = true) ∧ (sH2.windowOf
      (orq 4294975488 8 false).addr = some hw2)) ∧
    (((sH.bootst = 1) ∧ (outerOk (orq 8192 8 false) = true) ∧ (sH.windowOf (orq 8192 8 false).addr = none)) ∧ ((sHp.bootst = 1) ∧ (isNormal (orq 8192
      8 false).addr = true) ∧ (sHp.peerPort = some 0) ∧ (sHp.takePeer = some (took sHp)) ∧ (outerOk (orq 8192 8 false) = true)) ∧ ((sHp.bootst = 1) ∧
      (isNormal (orq 8192 8 true).addr = true) ∧ (sHp.peerPort = some 0) ∧ (sHp.takePeer = some (took sHp)) ∧ (outerOk (orq 8192 8 true) = true) ∧
      ((took sHp).writeHeld (orq 8192 8 true).addr (orq 8192 8 true).size false = false)) ∧ ((sHp.bootst = 1) ∧ (isNormal (orq 8192 8 true).addr =
      true) ∧ (sHp.peerPort = some 0) ∧ (sHp.takePeer = some (took sHp)) ∧ (outerOk (orq 8192 8 true) = true))) ∧
    ((((sHv14 1432778633 []).bootst = 1) ∧ (isNormal (orq 8192 8 true).addr = true) ∧ ((sHv14 1432778633 []).peerPort = some 0) ∧ ((sHv14 1432778633
      []).takePeer = some (took (sHv14 1432778633 []))) ∧ ((orq 8192 8 true).size = 8) ∧ ((orq 8192 8 true).addr % 8 = 0) ∧ ((took (sHv14 1432778633
      [])).judgeVld (orq 8192 8 true).addr (BitVec.extractLsb' 0 32 (orq 8192 8 true).data) = VldAnswer.gone)) ∧ (((sHv14 1432778633 [(7,
      true)]).bootst = 1) ∧ (isNormal (orq 8192 8 true).addr = true) ∧ ((sHv14 1432778633 [(7, true)]).peerPort = some 0) ∧ ((sHv14 1432778633 [(7,
      true)]).takePeer = some (took (sHv14 1432778633 [(7, true)]))) ∧ ((orq 8192 8 true).size = 8) ∧ ((orq 8192 8 true).addr % 8 = 0) ∧ ((took (sHv14
      1432778633 [(7, true)])).judgeVld (orq 8192 8 true).addr (BitVec.extractLsb' 0 32 (orq 8192 8 true).data) = VldAnswer.value 7 true)) ∧ (((sHv14
      1432778632 []).bootst = 1) ∧ (isNormal (orq 8192 8 true).addr = true) ∧ ((sHv14 1432778632 []).peerPort = some 0) ∧ ((sHv14 1432778632
      []).takePeer = some (took (sHv14 1432778632 []))) ∧ ((orq 8192 8 true).size = 8) ∧ ((orq 8192 8 true).addr % 8 = 0) ∧ ((took (sHv14 1432778632
      [])).judgeVld (orq 8192 8 true).addr (BitVec.extractLsb' 0 32 (orq 8192 8 true).data) = VldAnswer.value 9833440827789222529 false) ∧
      (BitVec.extractLsb' 0 32 (orq 8192 8 true).data = ((took (sHv14 1432778632 [])).vtag (orq 8192 8 true).addr).newest)) ∧ (((sHv14 1432778633 [(7,
      false)]).bootst = 1) ∧ (isNormal (orq 8192 8 true).addr = true) ∧ ((sHv14 1432778633 [(7, false)]).peerPort = some 0) ∧ ((sHv14 1432778633 [(7,
      false)]).takePeer = some (took (sHv14 1432778633 [(7, false)]))) ∧ ((orq 8192 8 true).size = 8) ∧ ((orq 8192 8 true).addr % 8 = 0) ∧ ((took
      (sHv14 1432778633 [(7, false)])).judgeVld (orq 8192 8 true).addr (BitVec.extractLsb' 0 32 (orq 8192 8 true).data) = VldAnswer.value 7 false) ∧
      (BitVec.extractLsb' 0 32 (orq 8192 8 true).data ≠ ((took (sHv14 1432778633 [(7, false)])).vtag (orq 8192 8 true).addr).newest))) ∧
    (((sHp.bootst = 1) ∧ (isNormal (orq 8192 8 true).addr = true) ∧ (sHp.peerPort = some 0) ∧ (sHp.takePeer = some (took sHp)) ∧ ((orq 8192 8
      true).size = 8) ∧ ((orq 8192 8 true).addr % 8 = 0) ∧ ((took sHp).judgeVld (orq 8192 8 true).addr (BitVec.extractLsb' 0 32 (orq 8192 8
      true).data) = VldAnswer.notYet) ∧ ((took sHp).vldListFull (orq 8192 8 true).addr = false)) ∧ ((sHp.bootst = 1) ∧ (isNormal (orq 8192 8
      true).addr = true) ∧ (sHp.peerPort = some 0) ∧ (sHp.takePeer = some (took sHp)) ∧ ((orq 8192 8 true).size = 8) ∧ ((orq 8192 8 true).addr % 8 =
      0) ∧ (∀ w ∈ sHp.peerWaits, ¬(w.addr = (orq 8192 8 true).addr ∧ w.value = BitVec.extractLsb' 0 64 (orq 8192 8 true).data)) ∧ ((took sHp).vstHeld
      (orq 8192 8 true).addr (VldOwner.peer (took sHp).nextId) = false) ∧ ((took sHp).writeHeld (orq 8192 8 true).addr 8 false = false)) ∧
      ((sHb14.bootst = 1) ∧ (isNormal (orq 8192 8 true).addr = true) ∧ (sHb14.peerPort = some 0) ∧ (sHb14.takePeer = some (took sHb14)) ∧ ((orq 8192 8
      true).size = 8) ∧ ((orq 8192 8 true).addr % 8 = 0) ∧ (∀ w ∈ sHb14.peerWaits, ¬(w.addr = (orq 8192 8 true).addr ∧ w.value = BitVec.extractLsb' 0
      64 (orq 8192 8 true).data)) ∧ ((took sHb14).vstHeld (orq 8192 8 true).addr (VldOwner.peer (took sHb14).nextId) = true)) ∧ (((sHw14 true
      true).bootst = 1) ∧ (isNormal (orq 8192 8 true).addr = true) ∧ ((orq 8192 8 true).size = 8) ∧ ((orq 8192 8 true).addr % 8 = 0) ∧ (List.find?
      (fun w => w.addr == (orq 8192 8 true).addr && w.value == BitVec.extractLsb' 0 64 (orq 8192 8 true).data) (sHw14 true true).peerWaits = some
      pw14) ∧ (pw14.since + 2 ^ 20 < (sHw14 true true).cyc))) ∧
    ((((sHw14 true false).bootst = 1) ∧ (isNormal (orq 8192 8 true).addr = true) ∧ ((orq 8192 8 true).size = 8) ∧ ((orq 8192 8 true).addr % 8 = 0) ∧
      (List.find? (fun w => w.addr == (orq 8192 8 true).addr && w.value == BitVec.extractLsb' 0 64 (orq 8192 8 true).data) (sHw14 true
      false).peerWaits = some pw14) ∧ ((sHw14 true false).cyc ≤ pw14.since + 2 ^ 20) ∧ ((sHw14 true false).vstHeld pw14.addr (VldOwner.peer pw14.id) =
      true)) ∧ (((sHw14 false false).bootst = 1) ∧ (isNormal (orq 8192 8 true).addr = true) ∧ ((orq 8192 8 true).size = 8) ∧ ((orq 8192 8 true).addr %
      8 = 0) ∧ (List.find? (fun w => w.addr == (orq 8192 8 true).addr && w.value == BitVec.extractLsb' 0 64 (orq 8192 8 true).data) (sHw14 false
      false).peerWaits = some pw14) ∧ ((sHw14 false false).cyc ≤ pw14.since + 2 ^ 20) ∧ ((sHw14 false false).vstHeld pw14.addr (VldOwner.peer pw14.id)
      = false) ∧ ((sHw14 false false).writeHeld pw14.addr 8 false = false))) :=
  ⟨⟨pairOkM (by decide +kernel), by decide +kernel⟩,
   ⟨pairOkM (by decide +kernel), by decide +kernel⟩,
   ⟨pairErrM (by decide +kernel), by decide +kernel⟩,
   by decide +kernel,
   by decide +kernel,
   by decide +kernel,
   by decide +kernel⟩

theorem test_meets_LinksDeliverReplayAndFail :
    ((sRem.region? rRem.id = some rRem) ∧ (0 < 16) ∧ (sRem.linkUp 0 = true) ∧ (4 = (sRem.aport 0).accepted) ∧ (List.find? (fun q => q.id == 60 &&
      q.port == 0) sRem.reqs = some (rq14 ReqKind.load (ReqOwner.region rRem.id 3))) ∧ ((rq14 ReqKind.load (ReqOwner.region rRem.id 3)).kind.isWrite =
      false) ∧ ((rq14 ReqKind.load (ReqOwner.region rRem.id 3)).owner = ReqOwner.region rRem.id 3) ∧ (rRem.acc? 3 = some aRem)) ∧
    ((sDie.region? rDie.id = some rDie) ∧ (aDie.xlat = some (normal 103079223296)) ∧ (sDie.accOn 1 rDie aDie = true) ∧ (aDie.kind = AccKind.load ∨
      aDie.kind = AccKind.acquire ∨ aDie.kind = AccKind.vld)) ∧
    ((sRw.region? (rA aRw).id = some (rA aRw)) ∧ (List.find? (fun x => x.id == wq11.id && x.completed && x.kind.isWrite) sRw.reqs = some wq11) ∧
      (wq11.kind = ReqKind.write) ∧ (wq11.owner = ReqOwner.region (rA aRw).id 3) ∧ ((rA aRw).acc? 3 = some aRw) ∧ (aRw.st = AccSt.remote (normal
      1099511635968))) ∧
    ((sVq.region? (rA aRm).id = some (rA aRm)) ∧ (List.find? (fun x => x.id == vq14.id && x.completed && x.kind.isWrite) sVq.reqs = some vq14) ∧
      (vq14.kind = ReqKind.vst) ∧ (vq14.owner = ReqOwner.region (rA aRm).id 3) ∧ ((rA aRm).acc? 3 = some aRm) ∧ (vq14.since + 2 ^ 20 < sVq.cyc)) ∧
    (((0 < 16) ∧ (sLd14.linkUp 0 = true) ∧ (5 ≠ (sLd14.aport 0).accepted)) ∧ ((0 < 16) ∧ (sLd14.linkUp 0 = true) ∧ (4 = (sLd14.aport 0).accepted) ∧
      (List.find? (fun q => q.id == 60 && q.port == 0) sLd14.reqs = some (rq14 ReqKind.load ReqOwner.other)) ∧ ((rq14 ReqKind.load
      ReqOwner.other).kind.isWrite = false) ∧ ((rq14 ReqKind.load ReqOwner.other).owner = ReqOwner.other)) ∧ ((0 < 16) ∧ ((sRq (rq14 ReqKind.write
      ReqOwner.other)).linkUp 0 = true) ∧ (4 = ((sRq (rq14 ReqKind.write ReqOwner.other)).aport 0).accepted) ∧ (List.find? (fun q => q.id == 60 &&
      q.port == 0) (sRq (rq14 ReqKind.write ReqOwner.other)).reqs = some (rq14 ReqKind.write ReqOwner.other)) ∧ ((rq14 ReqKind.write
      ReqOwner.other).kind.isWrite = true) ∧ ((rq14 ReqKind.write ReqOwner.other).kind = ReqKind.vst → rep14.version ≠ 2)) ∧ ((0 < 16) ∧ (sPd14.linkUp
      0 = true) ∧ (4 = (sPd14.aport 0).accepted) ∧ (List.find? (fun q => q.id == 60 && q.port == 0) sPd14.reqs = some (rq14 ReqKind.load
      (ReqOwner.core 5 7))) ∧ ((rq14 ReqKind.load (ReqOwner.core 5 7)).kind.isWrite = false) ∧ ((rq14 ReqKind.load (ReqOwner.core 5 7)).owner =
      ReqOwner.core 5 7) ∧ (pd14 ∈ (sPd14.core 5).pend) ∧ (pd14.id = 7) ∧ (pd14.result = none))) ∧
    (((0 < 16) ∧ (sLd14.linkUp 0 = true) ∧ (4 = (sLd14.aport 0).accepted) ∧ (List.find? (fun q => q.id == 61 && q.port == 0) sLd14.reqs = none)) ∧ ((0
      < 20) ∧ (sLd14.linkUp 0 = true) ∧ (0 < 16 → (sLd14.aport 0).acked < (sLd14.aport 0).sent) ∧ (16 ≤ 0 → sLd14.dieBusy (0 - 16) = true) ∧
      ((sLd14.aport 0).replays < 8)) ∧ ((hDie.kind = HeldKind.load) ∧ (sDie.heldOn 1 5 hDie = true) ∧ (List.find? (fun p => p.id == hDie.id)
      (sDie.core 5).pend = some pDie)) ∧ ((0 < 20) ∧ (sLd14.linkUp 0 = true) ∧ ((sLd14.aport 0).replays < 8))) ∧
    (((0 < 20) ∧ (sTired.linkUp 0 = true) ∧ (8 ≤ (sTired.aport 0).replays)) ∧ (15 < 20) ∧ (List.find? (fun x => x.id == (rq14 ReqKind.load
      ReqOwner.other).id && x.kind == ReqKind.load && !x.completed) sLd14.reqs = some (rq14 ReqKind.load ReqOwner.other)) ∧ ((List.find? (fun x =>
      x.id == wq.id && x.completed && x.kind.isWrite) sWq.reqs = some wq) ∧ (wq.owner = ReqOwner.core 5 60))) ∧
    ((List.find? (fun x => x.id == wq.id && x.completed && x.kind.isWrite) sWq.reqs = some wq) ∧ (wq.owner = ReqOwner.core 5 60) ∧ (wq.kind ≠
      ReqKind.vst) ∧ (List.find? (fun k => k.req == wq.id) (sWq.core 5).remoteWrites = some
      { req := 60, va := 68719476800, pc := 4088, past := false })) :=
  ⟨⟨(by first | exact regionFound rfl rfl | decide +kernel), by decide +kernel⟩,
   ⟨(by first | exact regionFound rfl rfl | decide +kernel), by decide +kernel⟩,
   ⟨(by first | exact regionFound rfl rfl | decide +kernel), by decide +kernel⟩,
   ⟨(by first | exact regionFound rfl rfl | decide +kernel), by decide +kernel⟩,
   by decide +kernel,
   by decide +kernel,
   by decide +kernel,
   by decide +kernel⟩

theorem test_meets_MatrixRoundSteps :
    (((sMt (some dT) (some dT)).matrixAt (rMt (some dT) (some dT)).id 0 = some (rMt (some dT) (some dT))) ∧ (((rMt (some dT) (some dT)).elem
      0).mat.accFull = false) ∧ ((sMt (some dT) (some dT)).opHead (rMt (some dT) (some dT)) 0 (stA ((rMt (some dT) (some dT)).elem 0).static) = some
      dT) ∧ ((sMt (some dT) (some dT)).opHead (rMt (some dT) (some dT)) 0 (stB ((rMt (some dT) (some dT)).elem 0).static) = some dT) ∧ (((rMt (some
      dT) (some dT)).elem 0).codeFree (stPassA ((rMt (some dT) (some dT)).elem 0).static) = true) ∧ (((rMt (some dT) (some dT)).elem 0).codeFree
      (stPassB ((rMt (some dT) (some dT)).elem 0).static) = true) ∧ (isOperand dT = true) ∧ (isPoison dT.tag = false)) ∧
    (((sMt (some dT) (some pT)).matrixAt (rMt (some dT) (some pT)).id 0 = some (rMt (some dT) (some pT))) ∧ (((rMt (some dT) (some pT)).elem
      0).mat.accFull = false) ∧ ((sMt (some dT) (some pT)).opHead (rMt (some dT) (some pT)) 0 (stA ((rMt (some dT) (some pT)).elem 0).static) = some
      dT) ∧ ((sMt (some dT) (some pT)).opHead (rMt (some dT) (some pT)) 0 (stB ((rMt (some dT) (some pT)).elem 0).static) = some pT) ∧ (((rMt (some
      dT) (some pT)).elem 0).codeFree (stPassA ((rMt (some dT) (some pT)).elem 0).static) = true) ∧ (((rMt (some dT) (some pT)).elem 0).codeFree
      (stPassB ((rMt (some dT) (some pT)).elem 0).static) = true) ∧ (isOperand dT = true) ∧ (isOperand pT = true) ∧ (isPoison dT.tag = true ∨ isPoison
      pT.tag = true)) ∧
    (((sMt (some (stT 0)) (some (stT 0))).matrixAt (rMt (some (stT 0)) (some (stT 0))).id 0 = some (rMt (some (stT 0)) (some (stT 0)))) ∧ (((rMt (some
      (stT 0)) (some (stT 0))).elem 0).mat.accFull = false) ∧ ((sMt (some (stT 0)) (some (stT 0))).opHead (rMt (some (stT 0)) (some (stT 0))) 0 (stA
      ((rMt (some (stT 0)) (some (stT 0))).elem 0).static) = some (stT 0)) ∧ ((sMt (some (stT 0)) (some (stT 0))).opHead (rMt (some (stT 0)) (some
      (stT 0))) 0 (stB ((rMt (some (stT 0)) (some (stT 0))).elem 0).static) = some (stT 0)) ∧ (((rMt (some (stT 0)) (some (stT 0))).elem 0).codeFree
      (stPassA ((rMt (some (stT 0)) (some (stT 0))).elem 0).static) = true) ∧ (((rMt (some (stT 0)) (some (stT 0))).elem 0).codeFree (stPassB ((rMt
      (some (stT 0)) (some (stT 0))).elem 0).static) = true) ∧ (isStop (stT 0).tag = true) ∧ (levelOf (stT 0).tag = 0)) ∧
    (((sMt (some (stT 1)) (some (stT 1)) { bc := 3 }).matrixAt (rMt (some (stT 1)) (some (stT 1)) { bc := 3 }).id 0 = some (rMt (some (stT 1)) (some
      (stT 1)) { bc := 3 })) ∧ (((rMt (some (stT 1)) (some (stT 1)) { bc := 3 }).elem 0).mat.accFull = false) ∧ ((sMt (some (stT 1)) (some (stT 1))
      { bc := 3 }).opHead (rMt (some (stT 1)) (some (stT 1)) { bc := 3 }) 0 (stA ((rMt (some (stT 1)) (some (stT 1)) { bc := 3 }).elem 0).static) =
      some (stT 1)) ∧ ((sMt (some (stT 1)) (some (stT 1)) { bc := 3 }).opHead (rMt (some (stT 1)) (some (stT 1)) { bc := 3 }) 0 (stB ((rMt (some (stT
      1)) (some (stT 1)) { bc := 3 }).elem 0).static) = some (stT 1)) ∧ (((rMt (some (stT 1)) (some (stT 1)) { bc := 3 }).elem 0).codeFree (stPassA
      ((rMt (some (stT 1)) (some (stT 1)) { bc := 3 }).elem 0).static) = true) ∧ (((rMt (some (stT 1)) (some (stT 1)) { bc := 3 }).elem 0).codeFree
      (stPassB ((rMt (some (stT 1)) (some (stT 1)) { bc := 3 }).elem 0).static) = true) ∧ (isStop (stT 1).tag = true) ∧ (levelOf (stT 1).tag ≠ 0) ∧
      (((rMt (some (stT 1)) (some (stT 1)) { bc := 3 }).elem 0).mat.bc ≠ 0)) ∧
    (((sMt (some (stT 1)) (some (stT 1))).matrixAt (rMt (some (stT 1)) (some (stT 1))).id 0 = some (rMt (some (stT 1)) (some (stT 1)))) ∧ (((rMt (some
      (stT 1)) (some (stT 1))).elem 0).mat.accFull = false) ∧ ((sMt (some (stT 1)) (some (stT 1))).opHead (rMt (some (stT 1)) (some (stT 1))) 0 (stA
      ((rMt (some (stT 1)) (some (stT 1))).elem 0).static) = some (stT 1)) ∧ ((sMt (some (stT 1)) (some (stT 1))).opHead (rMt (some (stT 1)) (some
      (stT 1))) 0 (stB ((rMt (some (stT 1)) (some (stT 1))).elem 0).static) = some (stT 1)) ∧ (((rMt (some (stT 1)) (some (stT 1))).elem 0).codeFree
      (stPassA ((rMt (some (stT 1)) (some (stT 1))).elem 0).static) = true) ∧ (((rMt (some (stT 1)) (some (stT 1))).elem 0).codeFree (stPassB ((rMt
      (some (stT 1)) (some (stT 1))).elem 0).static) = true) ∧ (isStop (stT 1).tag = true) ∧ (levelOf (stT 1).tag ≠ 0) ∧ (((rMt (some (stT 1)) (some
      (stT 1))).elem 0).mat.bc = 0) ∧ (mcRstop (((rMt (some (stT 1)) (some (stT 1))).elem 0).const 0) = false)) ∧
    (((sMt (some (stT 1)) (some (stT 1)) { } 134217728).matrixAt (rMt (some (stT 1)) (some (stT 1)) { } 134217728).id 0 = some (rMt (some (stT 1))
      (some (stT 1)) { } 134217728)) ∧ (((rMt (some (stT 1)) (some (stT 1)) { } 134217728).elem 0).mat.accFull = false) ∧ ((sMt (some (stT 1)) (some
      (stT 1)) { } 134217728).opHead (rMt (some (stT 1)) (some (stT 1)) { } 134217728) 0 (stA ((rMt (some (stT 1)) (some (stT 1)) { } 134217728).elem
      0).static) = some (stT 1)) ∧ ((sMt (some (stT 1)) (some (stT 1)) { } 134217728).opHead (rMt (some (stT 1)) (some (stT 1)) { } 134217728) 0 (stB
      ((rMt (some (stT 1)) (some (stT 1)) { } 134217728).elem 0).static) = some (stT 1)) ∧ (((rMt (some (stT 1)) (some (stT 1)) { } 134217728).elem
      0).codeFree (stPassA ((rMt (some (stT 1)) (some (stT 1)) { } 134217728).elem 0).static) = true) ∧ (((rMt (some (stT 1)) (some (stT 1)) { }
      134217728).elem 0).codeFree (stPassB ((rMt (some (stT 1)) (some (stT 1)) { } 134217728).elem 0).static) = true) ∧ (isStop (stT 1).tag = true) ∧
      (levelOf (stT 1).tag ≠ 0) ∧ (((rMt (some (stT 1)) (some (stT 1)) { } 134217728).elem 0).mat.bc = 0) ∧ (mcRstop (((rMt (some (stT 1)) (some (stT
      1)) { } 134217728).elem 0).const 0) = true) ∧ (((rMt (some (stT 1)) (some (stT 1)) { } 134217728).elem 0).codeFree (stRes ((rMt (some (stT 1))
      (some (stT 1)) { } 134217728).elem 0).static) = true)) ∧
    (((sMt (some dT) (some (stT 1))).matrixAt (rMt (some dT) (some (stT 1))).id 0 = some (rMt (some dT) (some (stT 1)))) ∧ (((rMt (some dT) (some (stT
      1))).elem 0).mat.accFull = false) ∧ ((sMt (some dT) (some (stT 1))).opHead (rMt (some dT) (some (stT 1))) 0 (stA ((rMt (some dT) (some (stT
      1))).elem 0).static) = some dT) ∧ ((sMt (some dT) (some (stT 1))).opHead (rMt (some dT) (some (stT 1))) 0 (stB ((rMt (some dT) (some (stT
      1))).elem 0).static) = some (stT 1)) ∧ (((rMt (some dT) (some (stT 1))).elem 0).codeFree (stPassA ((rMt (some dT) (some (stT 1))).elem
      0).static) = true) ∧ (((rMt (some dT) (some (stT 1))).elem 0).codeFree (stPassB ((rMt (some dT) (some (stT 1))).elem 0).static) = true) ∧
      (dT.result = false) ∧ (tileRank dT = some 0) ∧ (tileRank (stT 1) = some 2) ∧ (0 ≠ 2) ∧ ((1, 1, dT) = if 0 < 2 then (stA ((rMt (some dT) (some
      (stT 1))).elem 0).static, stPassA ((rMt (some dT) (some (stT 1))).elem 0).static, dT) else (stB ((rMt (some dT) (some (stT 1))).elem 0).static,
      stPassB ((rMt (some dT) (some (stT 1))).elem 0).static, stT 1))) ∧
    (((sMt (some rT) (some dT)).matrixAt (rMt (some rT) (some dT)).id 0 = some (rMt (some rT) (some dT))) ∧ (((rMt (some rT) (some dT)).elem
      0).mat.accFull = false) ∧ ((sMt (some rT) (some dT)).opHead (rMt (some rT) (some dT)) 0 (stA ((rMt (some rT) (some dT)).elem 0).static) = some
      rT) ∧ ((sMt (some rT) (some dT)).opHead (rMt (some rT) (some dT)) 0 (stB ((rMt (some rT) (some dT)).elem 0).static) = some dT) ∧ (((rMt (some
      rT) (some dT)).elem 0).codeFree (stPassA ((rMt (some rT) (some dT)).elem 0).static) = true) ∧ (((rMt (some rT) (some dT)).elem 0).codeFree
      (stPassB ((rMt (some rT) (some dT)).elem 0).static) = true) ∧ (rT.result = true)) ∧
    ((alt15_2.region? alt15_1.id = some alt15_1) ∧ (alt15_1.mp = true)) ∧
    (((sMt (some dT) (some dT)).region? (rMt (some dT) (some dT)).id = some (rMt (some dT) (some dT))) ∧ ((rMt (some dT) (some dT)).mp = false)) ∧
    (((sMt (some dT) (some dT)).region? (rMt (some dT) (some dT)).id = some (rMt (some dT) (some dT))) ∧ ((rMt (some dT) (some dT)).ms = false)) ∧
    ((sMs.region? rMs.id = some rMs) ∧ (rMs.ms = true)) :=
  ⟨⟨(by first | exact oneOf matrixAt_mem rfl (by decide +kernel) | decide +kernel), by decide +kernel⟩,
   ⟨(by first | exact oneOf matrixAt_mem rfl (by decide +kernel) | decide +kernel), by decide +kernel⟩,
   ⟨(by first | exact oneOf matrixAt_mem rfl (by decide +kernel) | decide +kernel), by decide +kernel⟩,
   ⟨(by first | exact oneOf matrixAt_mem rfl (by decide +kernel) | decide +kernel), by decide +kernel⟩,
   ⟨(by first | exact oneOf matrixAt_mem rfl (by decide +kernel) | decide +kernel), by decide +kernel⟩,
   ⟨(by first | exact oneOf matrixAt_mem rfl (by decide +kernel) | decide +kernel), by decide +kernel⟩,
   ⟨(by first | exact oneOf matrixAt_mem rfl (by decide +kernel) | decide +kernel), by decide +kernel⟩,
   ⟨(by first | exact oneOf matrixAt_mem rfl (by decide +kernel) | decide +kernel), by decide +kernel⟩,
   ⟨(by first | exact regionFound rfl rfl | decide +kernel), by decide +kernel⟩,
   ⟨(by first | exact regionFound rfl rfl | decide +kernel), by decide +kernel⟩,
   ⟨(by first | exact regionFound rfl rfl | decide +kernel), by decide +kernel⟩,
   ⟨(by first | exact regionFound rfl rfl | decide +kernel), by decide +kernel⟩⟩

theorem test_meets_MatrixReadoutAndRepeat :
    (((sM2 (some rT) { accFull := true }).matrixAt (rM2 (some rT) { accFull := true }).id 1 = some (rM2 (some rT) { accFull := true })) ∧ (((rM2 (some
      rT) { accFull := true }).elem 1).mat.accFull = true) ∧ (((rM2 (some rT) { accFull := true }).elem 1).codeFree (stRes ((rM2 (some rT)
      { accFull := true }).elem 1).static) = true) ∧ (((rM2 (some rT) { accFull := true }).elem 1).mat.rtd = false) ∧ (((rM2 (some rT)
      { accFull := true }).elem 1).mat.rb.toNat < (rM2 (some rT) { accFull := true }).column 1) ∧ ((sM2 (some rT) { accFull := true }).opHead (rM2
      (some rT) { accFull := true }) 1 (stA ((rM2 (some rT) { accFull := true }).elem 1).static) = some rT) ∧ (rT.result = true)) ∧
    (((sM2 none { accFull := true, rb := 1 }).matrixAt (rM2 none { accFull := true, rb := 1 }).id 1 = some (rM2 none { accFull := true, rb := 1 })) ∧
      (((rM2 none { accFull := true, rb := 1 }).elem 1).mat.accFull = true) ∧ (((rM2 none { accFull := true, rb := 1 }).elem 1).codeFree (stRes ((rM2
      none { accFull := true, rb := 1 }).elem 1).static) = true) ∧ (((rM2 none { accFull := true, rb := 1 }).elem 1).mat.rtd = false) ∧ (((rM2 none
      { accFull := true, rb := 1 }).elem 1).mat.rb.toNat = (rM2 none { accFull := true, rb := 1 }).column 1) ∧ (mcRstop (((rM2 none
      { accFull := true, rb := 1 }).elem 1).const 0) = false)) ∧
    (((sM2 none { accFull := true, pz := true, rb := 1 } 134217728).matrixAt (rM2 none { accFull := true, pz := true, rb := 1 } 134217728).id 1 = some
      (rM2 none { accFull := true, pz := true, rb := 1 } 134217728)) ∧ (((rM2 none { accFull := true, pz := true, rb := 1 } 134217728).elem
      1).mat.accFull = true) ∧ (((rM2 none { accFull := true, pz := true, rb := 1 } 134217728).elem 1).codeFree (stRes ((rM2 none
      { accFull := true, pz := true, rb := 1 } 134217728).elem 1).static) = true) ∧ (((rM2 none { accFull := true, pz := true, rb := 1 }
      134217728).elem 1).mat.rtd = false) ∧ (((rM2 none { accFull := true, pz := true, rb := 1 } 134217728).elem 1).mat.rb.toNat = (rM2 none
      { accFull := true, pz := true, rb := 1 } 134217728).column 1) ∧ (mcRstop (((rM2 none { accFull := true, pz := true, rb := 1 } 134217728).elem
      1).const 0) = true)) ∧
    (((sM2 none { accFull := true, rb := 1, rtd := true, pcnt := 1 } 134217728).matrixAt (rM2 none
      { accFull := true, rb := 1, rtd := true, pcnt := 1 } 134217728).id 1 = some (rM2 none { accFull := true, rb := 1, rtd := true, pcnt := 1 }
      134217728)) ∧ (((rM2 none { accFull := true, rb := 1, rtd := true, pcnt := 1 } 134217728).elem 1).mat.accFull = true) ∧ (((rM2 none
      { accFull := true, rb := 1, rtd := true, pcnt := 1 } 134217728).elem 1).codeFree (stRes ((rM2 none
      { accFull := true, rb := 1, rtd := true, pcnt := 1 } 134217728).elem 1).static) = true) ∧ (((rM2 none
      { accFull := true, rb := 1, rtd := true, pcnt := 1 } 134217728).elem 1).mat.rtd = true)) ∧
    (((sMt (some fT) (some fT)).matrixAt (rMt (some fT) (some fT)).id 0 = some (rMt (some fT) (some fT))) ∧ (isFathomHead ((sMt (some fT) (some
      fT)).headTile (rMt (some fT) (some fT)) 0 (stA ((rMt (some fT) (some fT)).elem 0).static - 1)) = true) ∧ (isFathomHead ((sMt (some fT) (some
      fT)).headTile (rMt (some fT) (some fT)) 0 (stB ((rMt (some fT) (some fT)).elem 0).static - 1)) = true) ∧ (mcRep (((rMt (some fT) (some fT)).elem
      0).const 0) ≠ 0 → isFathomHead ((sMt (some fT) (some fT)).headTile (rMt (some fT) (some fT)) 0 (mcCin (((rMt (some fT) (some fT)).elem 0).const
      0) - 1)) = true) ∧ (((rMt (some fT) (some fT)).elem 0).codeFree (stPassA ((rMt (some fT) (some fT)).elem 0).static) = true) ∧ (((rMt (some fT)
      (some fT)).elem 0).codeFree (stPassB ((rMt (some fT) (some fT)).elem 0).static) = true) ∧ (((rMt (some fT) (some fT)).elem 0).codeFree (stRes
      ((rMt (some fT) (some fT)).elem 0).static) = true) ∧ (((rMt (some fT) (some fT)).elem 0).codeFree (mcCpass (((rMt (some fT) (some fT)).elem
      0).const 0)) = true) ∧ ((sMt (some fT) (some fT)).canStep (rMt (some fT) (some fT)) 0 =
      { chain := false, emit := false, token := false, beat := false, close := false, outer := false, behind := false })) ∧
    (((sRp (some dT) none (tk15 3 1)).matrixAt (rRp (some dT) none (tk15 3 1)).id 0 = some (rRp (some dT) none (tk15 3 1))) ∧ (1 = ((rRp (some dT)
      none (tk15 3 1)).elem 0).repCode) ∧ (1 ≠ 0) ∧ ((sRp (some dT) none (tk15 3 1)).headTile (rRp (some dT) none (tk15 3 1)) 0 (1 - 1) = some dT) ∧
      (isFathom dT.tag = false) ∧ (∀ (t : Tile), (sRp (some dT) none (tk15 3 1)).headTile (rRp (some dT) none (tk15 3 1)) 0 (mcCin (((rRp (some dT)
      none (tk15 3 1)).elem 0).const 0) - 1) = some t → isFathom t.tag = false) ∧ (((rRp (some dT) none (tk15 3 1)).elem 0).mat.rtaking = true) ∧
      (isStop dT.tag = false) ∧ (((rRp (some dT) none (tk15 3 1)).elem 0).mat.rbuf.length < 8)) ∧
    (((sRp (some dT) none (tk15 3 8)).matrixAt (rRp (some dT) none (tk15 3 8)).id 0 = some (rRp (some dT) none (tk15 3 8))) ∧ (1 = ((rRp (some dT)
      none (tk15 3 8)).elem 0).repCode) ∧ (1 ≠ 0) ∧ ((sRp (some dT) none (tk15 3 8)).headTile (rRp (some dT) none (tk15 3 8)) 0 (1 - 1) = some dT) ∧
      (isFathom dT.tag = false) ∧ (∀ (t : Tile), (sRp (some dT) none (tk15 3 8)).headTile (rRp (some dT) none (tk15 3 8)) 0 (mcCin (((rRp (some dT)
      none (tk15 3 8)).elem 0).const 0) - 1) = some t → isFathom t.tag = false) ∧ (((rRp (some dT) none (tk15 3 8)).elem 0).mat.rtaking = true) ∧
      (isStop dT.tag = false) ∧ (8 ≤ ((rRp (some dT) none (tk15 3 8)).elem 0).mat.rbuf.length)) ∧
    (((sRp (some (stT 0)) none (tk15 3 2)).matrixAt (rRp (some (stT 0)) none (tk15 3 2)).id 0 = some (rRp (some (stT 0)) none (tk15 3 2))) ∧ (1 =
      ((rRp (some (stT 0)) none (tk15 3 2)).elem 0).repCode) ∧ (1 ≠ 0) ∧ ((sRp (some (stT 0)) none (tk15 3 2)).headTile (rRp (some (stT 0)) none (tk15
      3 2)) 0 (1 - 1) = some (stT 0)) ∧ (isFathom (stT 0).tag = false) ∧ (∀ (t : Tile), (sRp (some (stT 0)) none (tk15 3 2)).headTile (rRp (some (stT
      0)) none (tk15 3 2)) 0 (mcCin (((rRp (some (stT 0)) none (tk15 3 2)).elem 0).const 0) - 1) = some t → isFathom t.tag = false) ∧ (((rRp (some
      (stT 0)) none (tk15 3 2)).elem 0).mat.rtaking = true) ∧ (isStop (stT 0).tag = true) ∧ (levelOf (stT 0).tag = 0) ∧ (((rRp (some (stT 0)) none
      (tk15 3 2)).elem 0).mat.rcount ≠ 0)) ∧
    (((sRp (some (stT 0)) none (tk15 0 2)).matrixAt (rRp (some (stT 0)) none (tk15 0 2)).id 0 = some (rRp (some (stT 0)) none (tk15 0 2))) ∧ (1 =
      ((rRp (some (stT 0)) none (tk15 0 2)).elem 0).repCode) ∧ (1 ≠ 0) ∧ ((sRp (some (stT 0)) none (tk15 0 2)).headTile (rRp (some (stT 0)) none (tk15
      0 2)) 0 (1 - 1) = some (stT 0)) ∧ (isFathom (stT 0).tag = false) ∧ (∀ (t : Tile), (sRp (some (stT 0)) none (tk15 0 2)).headTile (rRp (some (stT
      0)) none (tk15 0 2)) 0 (mcCin (((rRp (some (stT 0)) none (tk15 0 2)).elem 0).const 0) - 1) = some t → isFathom t.tag = false) ∧ (((rRp (some
      (stT 0)) none (tk15 0 2)).elem 0).mat.rtaking = true) ∧ (isStop (stT 0).tag = true) ∧ (levelOf (stT 0).tag = 0) ∧ (((rRp (some (stT 0)) none
      (tk15 0 2)).elem 0).mat.rcount = 0)) ∧
    (((sRp (some dT) (some (cnt 0)) { }).matrixAt (rRp (some dT) (some (cnt 0)) { }).id 0 = some (rRp (some dT) (some (cnt 0)) { })) ∧ (1 = ((rRp
      (some dT) (some (cnt 0)) { }).elem 0).repCode) ∧ (1 ≠ 0) ∧ ((sRp (some dT) (some (cnt 0)) { }).headTile (rRp (some dT) (some (cnt 0)) { }) 0 (1
      - 1) = some dT) ∧ (isFathom dT.tag = false) ∧ (∀ (t : Tile), (sRp (some dT) (some (cnt 0)) { }).headTile (rRp (some dT) (some (cnt 0)) { }) 0
      (mcCin (((rRp (some dT) (some (cnt 0)) { }).elem 0).const 0) - 1) = some t → isFathom t.tag = false) ∧ (((rRp (some dT) (some (cnt 0)) { }).elem
      0).mat.rtaking = false) ∧ (((rRp (some dT) (some (cnt 0)) { }).elem 0).mat.rcount = 0) ∧ (isStop dT.tag = false ∨ levelOf dT.tag = 0) ∧ ((sRp
      (some dT) (some (cnt 0)) { }).headTile (rRp (some dT) (some (cnt 0)) { }) 0 (mcCin (((rRp (some dT) (some (cnt 0)) { }).elem 0).const 0) - 1) =
      some (cnt 0)) ∧ (((rRp (some dT) (some (cnt 0)) { }).elem 0).codeFree (mcCpass (((rRp (some dT) (some (cnt 0)) { }).elem 0).const 0)) = true) ∧
      (isStop (cnt 0).tag = false)) ∧
    (((sRp (some dT) (some (cnt 65)) { }).matrixAt (rRp (some dT) (some (cnt 65)) { }).id 0 = some (rRp (some dT) (some (cnt 65)) { })) ∧ (1 = ((rRp
      (some dT) (some (cnt 65)) { }).elem 0).repCode) ∧ (1 ≠ 0) ∧ ((sRp (some dT) (some (cnt 65)) { }).headTile (rRp (some dT) (some (cnt 65)) { }) 0
      (1 - 1) = some dT) ∧ (isFathom dT.tag = false) ∧ (∀ (t : Tile), (sRp (some dT) (some (cnt 65)) { }).headTile (rRp (some dT) (some (cnt 65)) { })
      0 (mcCin (((rRp (some dT) (some (cnt 65)) { }).elem 0).const 0) - 1) = some t → isFathom t.tag = false) ∧ (((rRp (some dT) (some (cnt 65))
      { }).elem 0).mat.rtaking = false) ∧ (((rRp (some dT) (some (cnt 65)) { }).elem 0).mat.rcount = 0) ∧ (isStop dT.tag = false ∨ levelOf dT.tag = 0)
      ∧ ((sRp (some dT) (some (cnt 65)) { }).headTile (rRp (some dT) (some (cnt 65)) { }) 0 (mcCin (((rRp (some dT) (some (cnt 65)) { }).elem 0).const
      0) - 1) = some (cnt 65)) ∧ (((rRp (some dT) (some (cnt 65)) { }).elem 0).codeFree (mcCpass (((rRp (some dT) (some (cnt 65)) { }).elem 0).const
      0)) = true) ∧ (isStop (cnt 65).tag = true)) ∧
    (((sRp (some fT) (some (cnt 0)) (tk15 3 1)).matrixAt (rRp (some fT) (some (cnt 0)) (tk15 3 1)).id 0 = some (rRp (some fT) (some (cnt 0)) (tk15 3
      1))) ∧ (((rRp (some fT) (some (cnt 0)) (tk15 3 1)).elem 0).repCode ≠ 0) ∧ ((sRp (some fT) (some (cnt 0)) (tk15 3 1)).headTile (rRp (some fT)
      (some (cnt 0)) (tk15 3 1)) 0 (((rRp (some fT) (some (cnt 0)) (tk15 3 1)).elem 0).repCode - 1) = some fT) ∧ ((sRp (some fT) (some (cnt 0)) (tk15
      3 1)).headTile (rRp (some fT) (some (cnt 0)) (tk15 3 1)) 0 (mcCin (((rRp (some fT) (some (cnt 0)) (tk15 3 1)).elem 0).const 0) - 1) = some (cnt
      0)) ∧ (isFathom fT.tag = true ∨ isFathom (cnt 0).tag = true)) ∧
    (((sRp (some (stT 1)) none (tk15 3 1)).matrixAt (rRp (some (stT 1)) none (tk15 3 1)).id 0 = some (rRp (some (stT 1)) none (tk15 3 1))) ∧ (1 =
      ((rRp (some (stT 1)) none (tk15 3 1)).elem 0).repCode) ∧ (1 ≠ 0) ∧ ((sRp (some (stT 1)) none (tk15 3 1)).headTile (rRp (some (stT 1)) none (tk15
      3 1)) 0 (1 - 1) = some (stT 1)) ∧ (isFathom (stT 1).tag = false) ∧ (∀ (t : Tile), (sRp (some (stT 1)) none (tk15 3 1)).headTile (rRp (some (stT
      1)) none (tk15 3 1)) 0 (mcCin (((rRp (some (stT 1)) none (tk15 3 1)).elem 0).const 0) - 1) = some t → isFathom t.tag = false) ∧ (((rRp (some
      (stT 1)) none (tk15 3 1)).elem 0).mat.rtaking = true) ∧ (isStop (stT 1).tag = true) ∧ (levelOf (stT 1).tag ≠ 0)) ∧
    (((1 < 4) ∧ ((rMt (some fT) (some fT)).isExit 0 1 = false)) ∧ ((1 < 4) ∧ (rEx.isExit 0 1 = true)) ∧ ((1 ≠ 0) ∧ (((rRp none none (pr 0)).elem
      0).repCode = 1) ∧ (((rRp none none (pr 0)).elem 0).mat.rtaking = false) ∧ (((rRp none none (pr 0)).elem 0).mat.rcount ≠ 0) ∧ (∀ (t : Tile), (sRp
      none none (pr 0)).headTile (rRp none none (pr 0)) 0 (1 - 1) = some t → isFathom t.tag = false) ∧ (∀ (t : Tile), (sRp none none (pr 0)).headTile
      (rRp none none (pr 0)) 0 (mcCin (((rRp none none (pr 0)).elem 0).const 0) - 1) = some t → isFathom t.tag = false) ∧ (((rRp none none (pr
      0)).elem 0).mat.rpos.toNat < ((rRp none none (pr 0)).elem 0).mat.rlen.toNat) ∧ (((rRp none none (pr 0)).elem 0).mat.rbuf[((rRp none none (pr
      0)).elem 0).mat.rpos.toNat]? = some dT)) ∧ ((1 ≠ 0) ∧ (((rRp none none (pr 1)).elem 0).repCode = 1) ∧ (((rRp none none (pr 1)).elem
      0).mat.rtaking = false) ∧ (((rRp none none (pr 1)).elem 0).mat.rcount ≠ 0) ∧ (∀ (t : Tile), (sRp none none (pr 1)).headTile (rRp none none (pr
      1)) 0 (1 - 1) = some t → isFathom t.tag = false) ∧ (∀ (t : Tile), (sRp none none (pr 1)).headTile (rRp none none (pr 1)) 0 (mcCin (((rRp none
      none (pr 1)).elem 0).const 0) - 1) = some t → isFathom t.tag = false) ∧ (((rRp none none (pr 1)).elem 0).mat.rlen.toNat ≤ ((rRp none none (pr
      1)).elem 0).mat.rpos.toNat))) :=
  ⟨⟨(by first | exact oneOf matrixAt_mem rfl (by decide +kernel) | decide +kernel), by decide +kernel⟩,
   ⟨(by first | exact oneOf matrixAt_mem rfl (by decide +kernel) | decide +kernel), by decide +kernel⟩,
   ⟨(by first | exact oneOf matrixAt_mem rfl (by decide +kernel) | decide +kernel), by decide +kernel⟩,
   ⟨(by first | exact oneOf matrixAt_mem rfl (by decide +kernel) | decide +kernel), by decide +kernel⟩,
   ⟨(by first | exact oneOf matrixAt_mem rfl (by decide +kernel) | decide +kernel), by decide +kernel⟩,
   ⟨(by first | exact oneOf matrixAt_mem rfl (by decide +kernel) | decide +kernel), by decide +kernel⟩,
   ⟨(by first | exact oneOf matrixAt_mem rfl (by decide +kernel) | decide +kernel), by decide +kernel⟩,
   ⟨(by first | exact oneOf matrixAt_mem rfl (by decide +kernel) | decide +kernel), by decide +kernel⟩,
   ⟨(by first | exact oneOf matrixAt_mem rfl (by decide +kernel) | decide +kernel), by decide +kernel⟩,
   ⟨(by first | exact oneOf matrixAt_mem rfl (by decide +kernel) | decide +kernel), by decide +kernel⟩,
   ⟨(by first | exact oneOf matrixAt_mem rfl (by decide +kernel) | decide +kernel), by decide +kernel⟩,
   ⟨(by first | exact oneOf matrixAt_mem rfl (by decide +kernel) | decide +kernel), by decide +kernel⟩,
   ⟨(by first | exact oneOf matrixAt_mem rfl (by decide +kernel) | decide +kernel), by decide +kernel⟩,
   by decide +kernel⟩

theorem test_meets_MergeCommandsAnswer :
    (((sM1 1 1 8193).mergeHead 0 = some (rI 2, mcmd 1 1 8193)) ∧ ((mergeM (whoIsect 0 (rI 2).ctx) (rI 2) 0 (mcmd 1 1 8193)).exec (((sM1 1 1
      8193).linkTake (linkKey 2 0 0)).updIsect 0 fun j => { j with cmd := some (mcmd 1 1 8193) }) = (Except.ok (wkM (sCm 1 1 8193) (mcmd 1 1 8193)),
      wkS (sCm 1 1 8193) (mcmd 1 1 8193))) ∧ (isData (mcmd 1 1 8193).tag = true)) ∧
    ((sFar.mergeHead 0 = some (rI 2, mcmd 1 1 68719476800)) ∧ ((mergeM (whoIsect 0 (rI 2).ctx) (rI 2) 0 (mcmd 1 1 68719476800)).exec ((sFar.linkTake
      (linkKey 2 0 0)).updIsect 0 fun j => { j with cmd := some (mcmd 1 1 68719476800) }) = (Except.error Stop.wait, wkS (cmdS sFar (mcmd 1 1
      68719476800)) (mcmd 1 1 68719476800))) ∧ (isData (mcmd 1 1 68719476800).tag = true)) ∧
    (((sM1 5 1).mergeHead 0 = some (rI 2, mcmd 5 1)) ∧ (isData (mcmd 5 1).tag = true) ∧ (mergeOp (mcmd 5 1) ≠ 1) ∧ (mergeOp (mcmd 5 1) ≠ 2)) ∧
    (((isA [] k0 { val := 0, tag := 65 }).mergeHead 0 = some (rI 2, { val := 0, tag := 65 })) ∧ (isData { val := 0, tag := 65 : Token }.tag = false)) ∧
    (((sCm 1 1).islandRegion 2 0 = some (rI 2)) ∧ ((mergeM (whoIsect 0 (rI 2).ctx) (rI 2) 0 (mcmd 1 1)).exec (sCm 1 1) = (Except.ok (wkM (sCm 1 1)
      (mcmd 1 1)), wkS (sCm 1 1) (mcmd 1 1))) ∧ (((sCm 1 1).isect 0).cmd = some (mcmd 1 1)) ∧ (((sCm 1 1).isect 0).response = none)) ∧
    ((judgeMergeM wI (rI 2) 0 mBad).exec (sM1 1 1) = (Except.error (Stop.raise Cause.islandFormat 0), sM1 1 1)) ∧
    (((judgeMergeM wI (rI 2) 0 (mcmd 1 0)).exec (sM1 1 0) = (Except.ok (jm 1 0), jS 1 0)) ∧ ((jm 1 0).acnt = 0)) ∧
    (((judgeMergeM wI (rI 2) 0 (mcmd 1 1)).exec (sM1 1 1) = (Except.ok (jm 1 1), jS 1 1)) ∧ ((walkM wI (jm 1 1) (natsFrom (jm 1 1).afirst (jm 1
      1).acnt) { }).exec (jS 1 1) = (Except.ok (wkJ 1 1), stateOfM (walkM wI (jm 1 1) (natsFrom (jm 1 1).afirst (jm 1 1).acnt) { }) (jS 1 1)))) ∧
    (((jm 1 1 8193).a = Except.error (Cause.islandFormat, 8193)) ∧ (0 < (jm 1 1 8193).acnt) ∧ (0 < (jm 1 1 8193).bcnt)) ∧
    (((rs []).binder 2 0 = some (rI 2)) ∧ (((rs []).isect 0).response = some (mergeResp 1 0 3)) ∧ (((rs []).linkEntered (rI 2) (linkKey 2 0 1) && (rs
      []).linkEntered (rI 2) (linkKey 2 0 2)) = true)) ∧
    (((rs [mcmd 1 1]).binder 2 0 = some (rI 2)) ∧ (((rs [mcmd 1 1]).isect 0).response = some (mergeResp 1 0 3)) ∧ (((rs [mcmd 1 1]).linkEntered (rI 2)
      (linkKey 2 0 1) && (rs [mcmd 1 1]).linkEntered (rI 2) (linkKey 2 0 2)) = false)) ∧
    (((walkRowM wI (jmBad true) 0 (natsFrom (jmBad true).bfirst (jmBad true).bcnt) { }).exec (jS 1 1) = (Except.ok (okW (rowM (jmBad true) [0]) (jS 1
      1)), stateOfM (rowM (jmBad true) [0]) (jS 1 1))) ∧ ((okW (rowM (jmBad true) [0]) (jS 1 1)).bad ≠ none)) ∧
    (((walkRowM wI (jm 1 1) 0 (natsFrom (jm 1 1).bfirst (jm 1 1).bcnt) { }).exec (jS 1 1) = (Except.ok (okW (rowM (jm 1 1) [0]) (jS 1 1)), stateOfM
      (rowM (jm 1 1) [0]) (jS 1 1))) ∧ ((okW (rowM (jm 1 1) [0]) (jS 1 1)).bad = none)) ∧
    (((fibreM wI (jm 1 1).a 0).exec (jS 1 1) = (Except.ok (okF (fibreM wI (jm 1 1).a 0) (jS 1 1)), stateOfM (fibreM wI (jm 1 1).a 0) (jS 1 1))) ∧
      ((fibreM wI (jm 1 1).b 0).exec (stateOfM (fibreM wI (jm 1 1).a 0) (jS 1 1)) = (Except.ok (okF (fibreM wI (jm 1 1).b 0) (jS 1 1)), stateOfM
      (fibreM wI (jm 1 1).b 0) (jS 1 1)))) ∧
    ((fibreM wI (jmBad true).a 0).exec (jS 1 1) = (Except.error (Stop.raise Cause.islandFormat 8193), jS 1 1)) ∧
    (((fibreM wI (jmBad false).a 0).exec (jS 1 1) = (Except.ok (okF (fibreM wI (jm 1 1).a 0) (jS 1 1)), stateOfM (fibreM wI (jm 1 1).a 0) (jS 1 1))) ∧
      ((fibreM wI (jmBad false).b 0).exec (stateOfM (fibreM wI (jm 1 1).a 0) (jS 1 1)) = (Except.error (Stop.raise Cause.islandFormat 8257), stateOfM
      (fibreM wI (jm 1 1).a 0) (jS 1 1)))) ∧
    ((fibreM wI (Except.ok fsA) 0).exec (jS 1 1) = (Except.ok (okF (fibreM wI (Except.ok fsA) 0) (jS 1 1)), stateOfM (fibreM wI (Except.ok fsA) 0) (jS
      1 1))) ∧
    (((loadM wI (BitVec.ofNat 64 (fsA.crd + 4 * 0)) 4).exec (jS 1 1) = (Except.ok 1, stateOfM (loadM wI (BitVec.ofNat 64 (fsA.crd + 4 * 0)) 4) (jS 1
      1))) ∧ (1 < 2 ∨ 1 = 4294967295)) ∧
    (([(1, 2, 3)] ≠ []) ∧ (1 < 8) ∧ (7 < 8)) :=
  ⟨⟨(by first | exact pairOf mergeHead_mem rfl (by decide +kernel) | decide +kernel), pairOkM (by decide +kernel), by decide +kernel⟩,
   ⟨(by first | exact pairOf mergeHead_mem rfl (by decide +kernel) | decide +kernel), pairWait (by decide +kernel), by decide +kernel⟩,
   ⟨(by first | exact pairOf mergeHead_mem rfl (by decide +kernel) | decide +kernel), by decide +kernel⟩,
   ⟨(by first | exact pairOf mergeHead_mem rfl (by decide +kernel) | decide +kernel), by decide +kernel⟩,
   ⟨(by first | exact oneOf islandRegion_mem rfl (by decide +kernel) | decide +kernel), pairOkM (by decide +kernel), by decide +kernel⟩,
   pairErrM (by decide +kernel),
   ⟨pairGet noCmd (by decide +kernel), by decide +kernel⟩,
   ⟨pairGet noCmd (by decide +kernel), pairOkM (by decide +kernel)⟩,
   ⟨errIn (by decide +kernel), by decide +kernel⟩,
   ⟨(by first | exact oneOf binder_mem rfl (by decide +kernel) | decide +kernel), by decide +kernel⟩,
   ⟨(by first | exact oneOf binder_mem rfl (by decide +kernel) | decide +kernel), by decide +kernel⟩,
   ⟨pairOkM (by decide +kernel), by decide +kernel⟩,
   ⟨pairOkM (by decide +kernel), by decide +kernel⟩,
   ⟨pairOkM (by decide +kernel), pairOkM (by decide +kernel)⟩,
   pairErrM (by decide +kernel),
   ⟨pairOkM (by decide +kernel), pairErrM (by decide +kernel)⟩,
   pairOkM (by decide +kernel),
   ⟨pairOkM (by decide +kernel), by decide +kernel⟩,
   by decide +kernel⟩

theorem test_meets_SparseAccumulatorTile :
    (((ac acD).accHead 0 = some (rI 2, acD)) ∧ (isData acD.tag = true)) ∧
    (((ac { val := 0, tag := 195 }).accHead 0 = some (rI 2, { val := 0, tag := 195 })) ∧ (isPoison { val := 0, tag := 195 : Token }.tag = true)) ∧
    (((ac { val := 0, tag := mkTag 1 0 }).accHead 0 = some (rI 2, { val := 0, tag := mkTag 1 0 })) ∧ (isStop
      { val := 0, tag := mkTag 1 0 : Token }.tag = true) ∧ (levelOf { val := 0, tag := mkTag 1 0 : Token }.tag = 0)) ∧
    (((ac { val := 0, tag := mkTag 1 2 }).accHead 0 = some (rI 2, { val := 0, tag := mkTag 1 2 })) ∧ (isStop
      { val := 0, tag := mkTag 1 2 : Token }.tag = true) ∧ (levelOf { val := 0, tag := mkTag 1 2 : Token }.tag ≠ 0)) ∧
    (((4096 ≤ 5000) ∧ (5000 ≠ 4294967295)) ∧ (5 < 4096) ∧ ((6 < 4096) ∧ (5 ≠ 6)) ∧ (List.Pairwise (fun x y => x.1 < y.1) (accS3.isect 0).accVal)) ∧
    ((3 : ℕ) < (4 : ℕ) * (([((3 : ℕ), (1065353216 : Word)), ((4 : ℕ), (1073741824 : Word))].length + (3 : ℕ)) / (4 : ℕ))) :=
  ⟨⟨(by first | exact pairOf accHead_mem rfl (by decide +kernel) | decide +kernel), by decide +kernel⟩,
   ⟨(by first | exact pairOf accHead_mem rfl (by decide +kernel) | decide +kernel), by decide +kernel⟩,
   ⟨(by first | exact pairOf accHead_mem rfl (by decide +kernel) | decide +kernel), by decide +kernel⟩,
   ⟨(by first | exact pairOf accHead_mem rfl (by decide +kernel) | decide +kernel), by decide +kernel⟩,
   by decide +kernel,
   by decide +kernel⟩

theorem test_meets_RaysAndMigration :
    (((rS 8193).islandRegion 0 0 = some (rI 0)) ∧ ((Ray.startM (whoIsland 0 (rI 0).ctx (Reader.ray (newRay (rS 8193) 0 (rI 0).ctx (rayTok 8193)).id))
      (newRay (rS 8193) 0 (rI 0).ctx (rayTok 8193)) ((rS 8193).rays.any fun z => z.handle == (newRay (rS 8193) 0 (rI 0).ctx (rayTok 8193)).handle &&
      z.ctx == (newRay (rS 8193) 0 (rI 0).ctx (rayTok 8193)).ctx && (z.origin == 0 || z.here == 0 && z.entered))).exec
      ({ ((rS 8193).linkTake (linkKey 0 0 0)).updIsland 0 fun i => { taken := i.taken + 1, stops := i.stops, drains := i.drains } with nextId := (rS 8193).nextId + 1, rays := (rS 8193).rays ++ [newRay (rS 8193) 0 (rI 0).ctx (rayTok 8193)] })
      = (Except.ok (stR 8193), stS 8193)) ∧ ((rS 8193).linkHead (linkKey 0 0 0) = some (rayTok 8193)) ∧ (isData (rayTok 8193).tag = true) ∧ ((rI
      0).token = none) ∧ ((rS 8193).rayEntries 0 < 256) ∧ ((stR 8193).status = 4) ∧ ((stR 8193).errAddr = (newRay (rS 8193) 0 (rI 0).ctx (rayTok
      8193)).handle)) ∧
    (((rS 274877906944).islandRegion 0 0 = some (rI 0)) ∧ ((Ray.startM (whoIsland 0 (rI 0).ctx (Reader.ray (newRay (rS 274877906944) 0 (rI 0).ctx
      (rayTok 274877906944)).id)) (newRay (rS 274877906944) 0 (rI 0).ctx (rayTok 274877906944)) ((rS 274877906944).rays.any fun z => z.handle ==
      (newRay (rS 274877906944) 0 (rI 0).ctx (rayTok 274877906944)).handle && z.ctx == (newRay (rS 274877906944) 0 (rI 0).ctx (rayTok
      274877906944)).ctx && (z.origin == 0 || z.here == 0 && z.entered))).exec
      ({ ((rS 274877906944).linkTake (linkKey 0 0 0)).updIsland 0 fun i => { taken := i.taken + 1, stops := i.stops, drains := i.drains } with nextId := (rS 274877906944).nextId + 1, rays := (rS 274877906944).rays ++ [newRay (rS 274877906944) 0 (rI 0).ctx (rayTok 274877906944)] })
      = (Except.ok (stR 274877906944), stS 274877906944)) ∧ ((rS 274877906944).linkHead (linkKey 0 0 0) = some (rayTok 274877906944)) ∧ (isData
      (rayTok 274877906944).tag = true) ∧ ((rI 0).token = none) ∧ ((rS 274877906944).rayEntries 0 < 256) ∧ ((stR 274877906944).status ≠ 4)) ∧
    (((rS 824633720832 farM).islandRegion 0 0 = some (rI 0)) ∧ ((Ray.startM (whoIsland 0 (rI 0).ctx (Reader.ray (newRay (rS 824633720832 farM) 0 (rI
      0).ctx (rayTok 824633720832)).id)) (newRay (rS 824633720832 farM) 0 (rI 0).ctx (rayTok 824633720832)) ((rS 824633720832 farM).rays.any fun z =>
      z.handle == (newRay (rS 824633720832 farM) 0 (rI 0).ctx (rayTok 824633720832)).handle && z.ctx == (newRay (rS 824633720832 farM) 0 (rI 0).ctx
      (rayTok 824633720832)).ctx && (z.origin == 0 || z.here == 0 && z.entered))).exec
      ({ ((rS 824633720832 farM).linkTake (linkKey 0 0 0)).updIsland 0 fun i => { taken := i.taken + 1, stops := i.stops, drains := i.drains } with nextId := (rS 824633720832 farM).nextId + 1, rays := (rS 824633720832 farM).rays ++ [newRay (rS 824633720832 farM) 0 (rI 0).ctx (rayTok 824633720832)] })
      = (Except.error Stop.wait, stS 824633720832 farM)) ∧ ((rS 824633720832 farM).linkHead (linkKey 0 0 0) = some (rayTok 824633720832)) ∧ (isData
      (rayTok 824633720832).tag = true) ∧ ((rI 0).token = none) ∧ ((rS 824633720832 farM).rayEntries 0 < 256)) ∧
    (((sRy [] [ray0 RaySt.over [cd 1]]).binder 0 0 = some (rI 0)) ∧ ((sRy [] [ray0 RaySt.over [cd 1]]).ray? 8 = some (ray0 RaySt.over [cd 1])) ∧
      ((ray0 RaySt.over [cd 1]).origin = 0) ∧ ((ray0 RaySt.over [cd 1]).here = 0) ∧ ((ray0 RaySt.over [cd 1]).entered = true) ∧ ((ray0 RaySt.over [cd
      1]).st = RaySt.over ∨ (ray0 RaySt.over [cd 1]).st = RaySt.invoke ∧ (ray0 RaySt.over [cd 1]).list = []) ∧ (∀ p ∈ ((sRy [] [ray0 RaySt.over [cd
      1]]).island 0).stops, (ray0 RaySt.over [cd 1]).order ≤ p.1)) ∧
    (((sVd (vd true 2) rV).binder 0 0 = some (rI 0)) ∧ ((sVd (vd true 2) rV).linkHead (linkKey 0 0 2) = some (vd true 2)) ∧ (isData (vd true 2).tag =
      true) ∧ (((sVd (vd true 2) rV).waitingRay 0 fun y => y.handle == BitVec.extractLsb' 0 64 (vd true 2).val) = some rV)) ∧
    (((sVd (vd false 2) alt17_1).binder 0 0 = some (rI 0)) ∧ ((sVd (vd false 2) alt17_1).linkHead (linkKey 0 0 2) = some (vd false 2)) ∧ (isData (vd
      false 2).tag = true) ∧ (((sVd (vd false 2) alt17_1).waitingRay 0 fun y => y.handle == BitVec.extractLsb' 0 64 (vd false 2).val) = none)) ∧
    (((sVd (vd false 66) rV).binder 0 0 = some (rI 0)) ∧ ((sVd (vd false 66) rV).linkHead (linkKey 0 0 2) = some (vd false 66)) ∧ (isStop (vd false
      66).tag = true)) ∧
    (((sVd (vd false 194) rV).binder 0 0 = some (rI 0)) ∧ ((sVd (vd false 194) rV).linkHead (linkKey 0 0 2) = some (vd false 194)) ∧ (isPoison (vd
      false 194).tag = true) ∧ (((sVd (vd false 194) rV).waitingRay 0 fun y => y.handle == BitVec.extractLsb' 0 64 (vd false 194).val) = some rV)) ∧
    (((entryM wRay ((xPrim 1).addr 1 (16 * 1)) 2).exec sPrim = (Except.ok (Except.ok (enW 8208 2)), enT 8208 2)) ∧ (bits ((enW 8208 2).getD 0 0) 39 32
      = 0 ∨ 16 < bits ((enW 8208 2).getD 0 0) 39 32 ∨ (xPrim 1).prims < (enW 8208 2).getD 0 0 % 2 ^ 32 + bits ((enW 8208 2).getD 0 0) 39 32 ∨ bits
      ((enW 8208 2).getD 0 0) 63 40 = 16777215 ∨ 512 ≤ (enW 8208 2).getD 1 0)) ∧
    (((entryM wRay ((xPrim 2).addr 1 (16 * 0)) 2).exec sPrim = (Except.ok (Except.ok (enW 8192 2)), enT 8192 2)) ∧ (1 ≤ bits ((enW 8192 2).getD 0 0)
      39 32) ∧ (bits ((enW 8192 2).getD 0 0) 39 32 ≤ 16) ∧ ((enW 8192 2).getD 0 0 % 2 ^ 32 + bits ((enW 8192 2).getD 0 0) 39 32 ≤ (xPrim 2).prims) ∧
      (bits ((enW 8192 2).getD 0 0) 63 40 ≠ 16777215) ∧ ((enW 8192 2).getD 1 0 < 512) ∧ ((enW 8192 2).getD 1 0 % 256 &&& bits (BitVec.toNat (xPrim
      2).state) 15 8 = 0)) ∧
    (((entryM wRay ((xPrim 1).addr 1 (16 * 0)) 2).exec sPrim = (Except.ok (Except.ok (enW 8192 2)), enT 8192 2)) ∧ (1 ≤ bits ((enW 8192 2).getD 0 0)
      39 32) ∧ (bits ((enW 8192 2).getD 0 0) 39 32 ≤ 16) ∧ ((enW 8192 2).getD 0 0 % 2 ^ 32 + bits ((enW 8192 2).getD 0 0) 39 32 ≤ (xPrim 1).prims) ∧
      (bits ((enW 8192 2).getD 0 0) 63 40 ≠ 16777215) ∧ ((enW 8192 2).getD 1 0 < 512) ∧ ((enW 8192 2).getD 1 0 % 256 &&& bits (BitVec.toNat (xPrim
      1).state) 15 8 ≠ 0)) ∧
    (((entryM wRay ((xPrim 1).addr 2 (48 * (0 + 0))) 5).exec sPrim = (Except.ok (Except.ok (enW 8448 5)), enT 8448 5)) ∧ (inBox bx2 (vecAt (enW 8448
      5) 0) = true) ∧ (inBox bx2 (vecAt (enW 8448 5) 3) = true) ∧ (inBox bx2 (vecAt (enW 8448 5) 6) = true)) ∧
    ((∀ w ∈ [(1065353216 : Word), (1065353216 : Word), (0 : Word), (1073741824 : Word), (1073741824 : Word), (1073741824 : Word)], (decF (BitVec.toNat
      w)).finite = true) ∧ ([(1065353216 : Word), (1065353216 : Word), (0 : Word), (1073741824 : Word), (1073741824 : Word), (1073741824 :
      Word)].length = (6 : ℕ)) ∧ (∀ k < 3, ratOf ([1065353216, 1065353216, 0, 1073741824, 1073741824, 1073741824].getD k 0) ≤ ratOf ([1065353216,
      1065353216, 0, 1073741824, 1073741824, 1073741824].getD (k + 3) 0)) ∧ (ratOf (xPrim 1).tmin ≤ ratOf (xPrim 1).tmax) ∧ ((xPrim 1).near
      [1065353216, 1065353216, 0, 1073741824, 1073741824, 1073741824] = none)) ∧
    ((∀ w ∈ bx2, (decF (BitVec.toNat w)).finite = true) ∧ (bx2.length = 6) ∧ (∀ k < 3, ratOf (bx2.getD k 0) ≤ ratOf (bx2.getD (k + 3) 0)) ∧ (ratOf
      (xPrim 1).tmin ≤ ratOf (xPrim 1).tmax) ∧ ((xPrim 1).near bx2 = some 0)) ∧
    ((∀ w ∈ bx2, (decF (BitVec.toNat w)).finite = true) ∧ (bx2.length = 6) ∧ (∀ k < 3, ratOf (bx2.getD k 0) ≤ ratOf (bx2.getD (k + 3) 0)) ∧ (ratOf
      (xPrim 1).tmin ≤ ratOf (xPrim 1).tmax) ∧ ((xPrim 1).near bx2 = some 0) ∧ ((fun q => ratOf (xPrim 1).tmin ≤ q ∧ q ≤ ratOf (xPrim 1).tmax ∧ ∀ k <
      3, ratOf (bx2.getD k 0) ≤ ratOf ((xPrim 1).org.getD k 0) + q * ratOf ((xPrim 1).dir.getD k 0) ∧ ratOf ((xPrim 1).org.getD k 0) + q * ratOf
      ((xPrim 1).dir.getD k 0) ≤ ratOf (bx2.getD (k + 3) 0)) 1)) ∧
    (((alt17_4.absent 0).passM.exec (sMg 2 alt17_4) = (Except.ok (abs_ alt17_4 (sMg 2 alt17_4)), stateOfM (alt17_4.absent 0).passM (sMg 2 alt17_4))) ∧
      ((sMg 2 alt17_4).ray? 8 = some alt17_4) ∧ (alt17_4.st = RaySt.search) ∧ (alt17_4.here ≠ 0) ∧ ((alt17_4.todo.any fun p => p.1 == 0) = true) ∧
      ((sMg 2 alt17_4).takesRays 0 alt17_4.ctx = false)) ∧
    (((Ray.enterPartsM (whoIsland 0 mgF.ctx (Reader.ray mgF.id)) { mgF with entered := true }).exec enS = (Except.ok enR, stateOfM (Ray.enterPartsM
      (whoIsland 0 1 (Reader.ray 8)) alt17_5) enS)) ∧ (enS.ray? 8 = some mgF) ∧ (mgF.st = RaySt.search) ∧ (mgF.here = 0) ∧ (mgF.entered = false) ∧
      (enS.takesRays 0 mgF.ctx = true) ∧ (enS.rayEntries 0 < 256)) ∧
    (((Ray.startM (whoIsland 0 (xSd 8193).ctx (Reader.ray (xSd 8193).id)) (xSd 8193) false).exec (sSd 8193) = (Except.ok (ySd 8193), stateOfM
      (Ray.startM (whoIsland 0 1 (Reader.ray 8)) (xSd 8193) false) (sSd 8193))) ∧ ((sSd 8193).ray? 8 = some (xSd 8193)) ∧ ((xSd 8193).st =
      RaySt.search) ∧ ((xSd 8193).here = 0) ∧ ((xSd 8193).entered = true) ∧ ((xSd 8193).sd = []) ∧ ((ySd 8193).status = 4) ∧ ((ySd 8193).errAddr =
      (xSd 8193).handle)) ∧
    (((Ray.startM (whoIsland 0 (xSd 274877906944).ctx (Reader.ray (xSd 274877906944).id)) (xSd 274877906944) false).exec (sSd 274877906944) =
      (Except.ok (ySd 274877906944), stateOfM (Ray.startM (whoIsland 0 1 (Reader.ray 8)) (xSd 274877906944) false) (sSd 274877906944))) ∧ ((sSd
      274877906944).ray? 8 = some (xSd 274877906944)) ∧ ((xSd 274877906944).st = RaySt.search) ∧ ((xSd 274877906944).here = 0) ∧ ((xSd
      274877906944).entered = true) ∧ ((xSd 274877906944).sd = []) ∧ ((ySd 274877906944).status ≠ 4)) ∧
    ((((sRy [] [ray0 RaySt.invoke [cd 1, cd 2]]).ray? 8 = some (ray0 RaySt.invoke [cd 1, cd 2])) ∧ ((ray0 RaySt.invoke [cd 1, cd 2]).origin = 0) ∧
      ((ray0 RaySt.invoke [cd 1, cd 2]).here = 0) ∧ ((ray0 RaySt.invoke [cd 1, cd 2]).entered = true) ∧ ((ray0 RaySt.invoke [cd 1, cd 2]).st =
      RaySt.invoke) ∧ ((ray0 RaySt.invoke [cd 1, cd 2]).list = [cd 1, cd 2])) ∧ (rV.list = [cd 1, cd 2]) ∧ (alt17_2.poisoned = true) ∧
      ((alt17_3.poisoned = false) ∧ (alt17_3.status < 2) ∧ (alt17_3.best = some (cd 7)))) ∧
    (((rV.poisoned = false) ∧ (rV.status < 2) ∧ (rV.best = none)) ∧ (((flV 1065353216).finite = true) ∧ ((flV 3225419776).finite = true)) ∧ (nan3
      (sub3 vB vA) = true ∨ nan3 (sub3 vC vA) = true ∨ nan3 (sub3 vOrg vA) = true ∨ nan3 (cross3 vDir (sub3 vC vA)) = true ∨ nan3 (cross3 (sub3 vOrg
      vA) (sub3 vB vA)) = true ∨ nan3 (dot3 (sub3 vB vA) (cross3 vDir (sub3 vC vA)), dot3 (sub3 vOrg vA) (cross3 vDir (sub3 vC vA)), dot3 vDir (cross3
      (sub3 vOrg vA) (sub3 vB vA))) = true ∨ (decF (dot3 (sub3 vC vA) (cross3 (sub3 vOrg vA) (sub3 vB vA)))).isNan = true ∨ dot3 (sub3 vB vA) (cross3
      vDir (sub3 vC vA)) % 2 ^ 31 = 0) ∧ ((nan3 (sub3 vB vA) = false) ∧ (nan3 (sub3 vD vA) = false) ∧ (nan3 (sub3 vOut vA) = false) ∧ (nan3 (cross3
      vDir (sub3 vD vA)) = false) ∧ (nan3 (cross3 (sub3 vOut vA) (sub3 vB vA)) = false) ∧ (nan3 (dot3 (sub3 vB vA) (cross3 vDir (sub3 vD vA)), dot3
      (sub3 vOut vA) (cross3 vDir (sub3 vD vA)), dot3 vDir (cross3 (sub3 vOut vA) (sub3 vB vA))) = false) ∧ ((decF (dot3 (sub3 vD vA) (cross3 (sub3
      vOut vA) (sub3 vB vA)))).isNan = false) ∧ (dot3 (sub3 vB vA) (cross3 vDir (sub3 vD vA)) % 2 ^ 31 ≠ 0) ∧ ((decF ((fun w => if bit (dot3 (sub3 vB
      vA) (cross3 vDir (sub3 vD vA))) 31 = true then w ^^^ 2 ^ 31 else w) (dot3 (sub3 vOut vA) (cross3 vDir (sub3 vD vA))))).below0 = true ∨ (decF
      ((fun w => if bit (dot3 (sub3 vB vA) (cross3 vDir (sub3 vD vA))) 31 = true then w ^^^ 2 ^ 31 else w) (dot3 vDir (cross3 (sub3 vOut vA) (sub3 vB
      vA))))).below0 = true ∨ (decF ((fun w => if bit (dot3 (sub3 vB vA) (cross3 vDir (sub3 vD vA))) 31 = true then w ^^^ 2 ^ 31 else w) (dot3 (sub3
      vB vA) (cross3 vDir (sub3 vD vA))))).cmp (FVal.add Rm.rne (decF ((fun w => if bit (dot3 (sub3 vB vA) (cross3 vDir (sub3 vD vA))) 31 = true then
      w ^^^ 2 ^ 31 else w) (dot3 (sub3 vOut vA) (cross3 vDir (sub3 vD vA))))) (decF ((fun w => if bit (dot3 (sub3 vB vA) (cross3 vDir (sub3 vD vA)))
      31 = true then w ^^^ 2 ^ 31 else w) (dot3 vDir (cross3 (sub3 vOut vA) (sub3 vB vA)))))) = some (-1)))) ∧
    (((nan3 (sub3 vB vA) = false) ∧ (nan3 (sub3 vD vA) = false) ∧ (nan3 (sub3 vOrg vA) = false) ∧ (nan3 (cross3 vDir (sub3 vD vA)) = false) ∧ (nan3
      (cross3 (sub3 vOrg vA) (sub3 vB vA)) = false) ∧ (nan3 (dot3 (sub3 vB vA) (cross3 vDir (sub3 vD vA)), dot3 (sub3 vOrg vA) (cross3 vDir (sub3 vD
      vA)), dot3 vDir (cross3 (sub3 vOrg vA) (sub3 vB vA))) = false) ∧ ((decF (dot3 (sub3 vD vA) (cross3 (sub3 vOrg vA) (sub3 vB vA)))).isNan = false)
      ∧ (dot3 (sub3 vB vA) (cross3 vDir (sub3 vD vA)) % 2 ^ 31 ≠ 0) ∧ ((decF ((fun w => if bit (dot3 (sub3 vB vA) (cross3 vDir (sub3 vD vA))) 31 =
      true then w ^^^ 2 ^ 31 else w) (dot3 (sub3 vOrg vA) (cross3 vDir (sub3 vD vA))))).below0 = false) ∧ ((decF ((fun w => if bit (dot3 (sub3 vB vA)
      (cross3 vDir (sub3 vD vA))) 31 = true then w ^^^ 2 ^ 31 else w) (dot3 vDir (cross3 (sub3 vOrg vA) (sub3 vB vA))))).below0 = false) ∧ ((decF
      ((fun w => if bit (dot3 (sub3 vB vA) (cross3 vDir (sub3 vD vA))) 31 = true then w ^^^ 2 ^ 31 else w) (dot3 (sub3 vB vA) (cross3 vDir (sub3 vD
      vA))))).cmp (FVal.add Rm.rne (decF ((fun w => if bit (dot3 (sub3 vB vA) (cross3 vDir (sub3 vD vA))) 31 = true then w ^^^ 2 ^ 31 else w) (dot3
      (sub3 vOrg vA) (cross3 vDir (sub3 vD vA))))) (decF ((fun w => if bit (dot3 (sub3 vB vA) (cross3 vDir (sub3 vD vA))) 31 = true then w ^^^ 2 ^ 31
      else w) (dot3 vDir (cross3 (sub3 vOrg vA) (sub3 vB vA)))))) ≠ some (-1))) ∧ (((decF (BitVec.toNat (cd 1065353216).t)).finite = true) ∧ ((decF
      (BitVec.toNat (cd 1073741824).t)).finite = true)) ∧ (∀ c ∈ [cd 1065353216, cO 1073741824], (decF (BitVec.toNat c.t)).finite = true) ∧ ((∀ c ∈
      [cd 1065353216, cO 1073741824], (decF (BitVec.toNat c.t)).finite = true) ∧ (bestOf [cd 1065353216, cO 1073741824] = some (cO 1073741824)))) ∧
    ((((sMg 1 (mg 3 true)).ray? 8 = some (mg 3 true)) ∧ ((mg 3 true).st = RaySt.search) ∧ ((mg 3 true).here ≠ 0) ∧ (((mg 3 true).todo.any fun p => p.1
      == 0) = true) ∧ ((sMg 1 (mg 3 true)).takesRays 0 (mg 3 true).ctx = true)) ∧ (((sMg 1 (mg 0 false) (List.replicate 256 (ray0 RaySt.search
      []))).ray? 8 = some (mg 0 false)) ∧ ((mg 0 false).st = RaySt.search) ∧ ((mg 0 false).here = 0) ∧ ((mg 0 false).entered = false) ∧ ((sMg 1 (mg 0
      false) (List.replicate 256 (ray0 RaySt.search []))).takesRays 0 (mg 0 false).ctx = true) ∧ (256 ≤ (sMg 1 (mg 0 false) (List.replicate 256 (ray0
      RaySt.search []))).rayEntries 0))) :=
  ⟨⟨(by first | exact oneOf islandRegion_mem rfl (by decide +kernel) | decide +kernel), pairOkM (by decide +kernel), by decide +kernel⟩,
   ⟨(by first | exact oneOf islandRegion_mem rfl (by decide +kernel) | decide +kernel), pairOkM (by decide +kernel), by decide +kernel⟩,
   ⟨(by first | exact oneOf islandRegion_mem rfl (by decide +kernel) | decide +kernel), pairWait (by decide +kernel), by decide +kernel⟩,
   ⟨(by first | exact oneOf binder_mem rfl (by decide +kernel) | decide +kernel), by decide +kernel⟩,
   ⟨(by first | exact oneOf binder_mem rfl (by decide +kernel) | decide +kernel), by decide +kernel⟩,
   ⟨(by first | exact oneOf binder_mem rfl (by decide +kernel) | decide +kernel), by decide +kernel⟩,
   ⟨(by first | exact oneOf binder_mem rfl (by decide +kernel) | decide +kernel), by decide +kernel⟩,
   ⟨(by first | exact oneOf binder_mem rfl (by decide +kernel) | decide +kernel), by decide +kernel⟩,
   ⟨pairOkM (by decide +kernel), by decide +kernel⟩,
   ⟨pairOkM (by decide +kernel), by decide +kernel⟩,
   ⟨pairOkM (by decide +kernel), by decide +kernel⟩,
   ⟨pairOkM (by decide +kernel), by decide +kernel⟩,
   ⟨(List.all_eq_true.mp (by decide +kernel)), by decide +kernel⟩,
   ⟨(List.all_eq_true.mp (by decide +kernel)), by decide +kernel⟩,
   ⟨(List.all_eq_true.mp (by decide +kernel)), by decide +kernel⟩,
   ⟨pairOkM (by decide +kernel), by decide +kernel⟩,
   ⟨pairOkM (by decide +kernel), by decide +kernel⟩,
   ⟨pairOkM (by decide +kernel), by decide +kernel⟩,
   ⟨pairOkM (by decide +kernel), by decide +kernel⟩,
   by decide +kernel,
   by decide +kernel,
   by decide +kernel,
   by decide +kernel⟩

theorem test_meets_TraversalCommandsAndStops :
    (((tS { val := 7, tag := 65 } [ray0 RaySt.search []]).binder 0 0 = some (rI 0)) ∧ ((tS { val := 7, tag := 65 } [ray0 RaySt.search []]).linkHead
      (linkKey 0 0 0) = some { val := 7, tag := 65 }) ∧ (isData { val := 7, tag := 65 : Token }.tag = false) ∧ (((tS { val := 7, tag := 65 } [ray0
      RaySt.search []]).island 0).stops = []) ∧ ((((tS { val := 7, tag := 65 } [ray0 RaySt.search []]).linkTake k00).updIsland 0 fun i =>
      { taken := 5, stops := [(4, passedTok { val := 7, tag := 65 })], drains := i.drains }) = ((tS { val := 7, tag := 65 } [ray0 RaySt.search
      []]).linkTake (linkKey 0 0 0)).updIsland 0 fun i =>
      { taken := ((tS { val := 7, tag := 65 } [ray0 RaySt.search []]).island 0).taken + 1, stops := [(((tS { val := 7, tag := 65 } [ray0 RaySt.search []]).island 0).taken, passedTok { val := 7, tag := 65 })], drains := i.drains })
      ∧ ((tS { val := 7, tag := 65 } [ray0 RaySt.search []]).raysBefore 0 ((tS { val := 7, tag := 65 } [ray0 RaySt.search []]).island 0).taken =
      true)) ∧
    (((tS { val := 7, tag := 65 }).binder 0 0 = some (rI 0)) ∧ ((tS { val := 7, tag := 65 }).linkHead (linkKey 0 0 0) = some { val := 7, tag := 65 })
      ∧ (isData { val := 7, tag := 65 : Token }.tag = false) ∧ (((tS { val := 7, tag := 65 }).island 0).stops = []) ∧ ((((tS
      { val := 7, tag := 65 }).linkTake k00).updIsland 0 fun i =>
      { taken := 5, stops := [(4, passedTok { val := 7, tag := 65 })], drains := i.drains }) = ((tS { val := 7, tag := 65 }).linkTake (linkKey 0 0
      0)).updIsland 0 fun i =>
      { taken := ((tS { val := 7, tag := 65 }).island 0).taken + 1, stops := [(((tS { val := 7, tag := 65 }).island 0).taken, passedTok { val := 7, tag := 65 })], drains := i.drains })
      ∧ ((tS { val := 7, tag := 65 }).raysBefore 0 ((tS { val := 7, tag := 65 }).island 0).taken = false)) ∧
    (((sTC 1 2 [alt17_6]).traversalCmd 0 = some (rI 0, tC 1 2)) ∧ (isData (tC 1 2).tag = true) ∧ (cmdOp (tC 1 2) = 1) ∧ (∀ x ∈ (sTC 1 2
      [alt17_6]).rays, x.origin = 0 → ((sTC 1 2 [alt17_6]).island 0).taken ≤ x.order)) ∧
    (((sTC 2 2).traversalCmd 0 = some (rI 0, tC 2 2)) ∧ (isData (tC 2 2).tag = true) ∧ (cmdOp (tC 2 2) = 2)) ∧
    (((sTC 5 2).traversalCmd 0 = some (rI 0, tC 5 2)) ∧ (isData (tC 5 2).tag = true) ∧ (cmdOp (tC 5 2) ≠ 1) ∧ (cmdOp (tC 5 2) ≠ 2)) ∧
    (((sTC 5 66).traversalCmd 0 = some (rI 0, tC 5 66)) ∧ (isData (tC 5 66).tag = false)) ∧
    ((isStop { val := 7, tag := 65 : Token }.tag = true) ∧ (isPoison { val := 7, tag := 195 : Token }.tag = true)) :=
  ⟨⟨(by first | exact oneOf binder_mem rfl (by decide +kernel) | decide +kernel), by decide +kernel⟩,
   ⟨(by first | exact oneOf binder_mem rfl (by decide +kernel) | decide +kernel), by decide +kernel⟩,
   ⟨(by first | exact pairOf traversalCmd_mem rfl (by decide +kernel) | decide +kernel), by decide +kernel⟩,
   ⟨(by first | exact pairOf traversalCmd_mem rfl (by decide +kernel) | decide +kernel), by decide +kernel⟩,
   ⟨(by first | exact pairOf traversalCmd_mem rfl (by decide +kernel) | decide +kernel), by decide +kernel⟩,
   ⟨(by first | exact pairOf traversalCmd_mem rfl (by decide +kernel) | decide +kernel), by decide +kernel⟩,
   by decide +kernel⟩

theorem test_meets_RasterCommands :
    (((sRa (primT 0)).rasterHead 0 = some (rI 1, primT 0)) ∧ ((viewsM (whoRaster 0 (rI 1).ctx) (rI 1) 0 (primOf (primT 0)) (List.filter (fun v => bit
      (primOf (primT 0)).mask v) (List.range 96))).exec (sRa (primT 0)) = (Except.ok ([], id), stateOfM (viewsM wR (rI 1) 0 (primOf (primT 0)) [])
      (sRa (primT 0)))) ∧ (isData (primT 0).tag = true) ∧ (kindOfTok (primT 0) = 0)) ∧
    (((sRa { val := 7, tag := 65 } [] bu).rasterHead 0 = some (rI 1, { val := 7, tag := 65 })) ∧ (isData { val := 7, tag := 65 : Token }.tag = false)
      ∧ (((sRa { val := 7, tag := 65 } [] bu).rasters.getD 0 { }).jobs ≠ [])) ∧
    (((sRa { val := 7, tag := 65 } []).rasterHead 0 = some (rI 1, { val := 7, tag := 65 })) ∧ (isData { val := 7, tag := 65 : Token }.tag = false) ∧
      (((sRa { val := 7, tag := 65 } []).rasters.getD 0 { }).jobs = [])) ∧
    (((sRa (rc 9 0 0)).rasterHead 0 = some (rI 1, rc 9 0 0)) ∧ (isData (rc 9 0 0).tag = true) ∧ (kindOfTok (rc 9 0 0) = 1) ∧ (((sRa (rc 9 0
      0)).rasters.getD 0 { }).jobs = []) ∧ (rasterCmdOf (rc 9 0 0) = 0 ∨ 7 < rasterCmdOf (rc 9 0 0))) ∧
    (((sRa (rc 2 0 0) [] bu).rasterHead 0 = some (rI 1, rc 2 0 0)) ∧ (isData (rc 2 0 0).tag = true) ∧ (kindOfTok (rc 2 0 0) = 1) ∧ (((sRa (rc 2 0 0)
      [] bu).rasters.getD 0 { }).jobs ≠ []) ∧ (Instr.clr 0 ∈ [Instr.view 0, Instr.clr 0, Instr.fbeg 0, Instr.rasterFence 0, Instr.modes 0, Instr.dcmp
      0, Instr.mload 0])) ∧
    ((((sRa (rc 1 12288 0)).rasterCmd 0 fun c => c == 1) = some (rI 1, rc 1 12288 0)) ∧ ((BitVec.extractLsb' 0 64 (rc 1 12288 0).val).toNat % 128 =
      0)) ∧
    ((((sRa (rc 1 12289 0)).rasterCmd 0 fun c => c == 1) = some (rI 1, rc 1 12289 0)) ∧ ((BitVec.extractLsb' 0 64 (rc 1 12289 0).val).toNat % 128 ≠
      0)) ∧
    ((((sRa (rc 6 12289 0)).rasterCmd 0 fun c => c == 6) = some (rI 1, rc 6 12289 0)) ∧ ((BitVec.extractLsb' 0 64 (rc 6 12289 0).val).toNat % 64 ≠ 0)) ∧
    ((((cS 2).rasterCmd 0 fun c => c == 2) = some (rI 1, rc 2 12288 20480)) ∧ ((readSurfaceM (whoRaster 0 (rI 1).ctx) (BitVec.extractLsb' 0 64 (rc 2
      12288 20480).val)).exec (cS 2) = (Except.ok (sf 0 false), sfS1 (cS 2))) ∧ ((surfaceTilesM (whoRaster 0 (rI 1).ctx) 0 Need.store (sf 0
      false)).exec (sfS1 (cS 2)) = (Except.ok [262144], sfS2 Need.store (sf 0 false) (cS 2))) ∧ (∀ p ∈ [262144], (sfS2 Need.store (sf 0 false) (cS
      2)).hostHolds p 4096 = false)) ∧
    ((((cS 3).rasterCmd 0 fun c => c == 3) = some (rI 1, rc 3 12288 20480)) ∧ ((readSurfaceM (whoRaster 0 (rI 1).ctx) (BitVec.extractLsb' 0 64 (rc 3
      12288 20480).val)).exec (cS 3) = (Except.ok (sf 0 false), sfS1 (cS 3))) ∧ ((surfaceTilesM (whoRaster 0 (rI 1).ctx) 0 Need.load (sf 0
      false)).exec (sfS1 (cS 3)) = (Except.ok [262144], sfS2 Need.load (sf 0 false) (cS 3)))) ∧
    ((((cS 6 1).rasterCmd 0 fun c => c == 6) = some (rI 1, rc 6 12288 20480)) ∧ ((readSurfaceM (whoRaster 0 (rI 1).ctx) (BitVec.extractLsb' 0 64 (rc 6
      12288 20480).val)).exec (cS 6 1) = (Except.ok (sf 0 true), sfS1 (cS 6 1))) ∧ ((surfaceTilesM (whoRaster 0 (rI 1).ctx) 0 Need.store (sf 0
      true)).exec (sfS1 (cS 6 1)) = (Except.ok [262144], sfS2 Need.store (sf 0 true) (cS 6 1))) ∧ ((sf 0 true).fmt = 0) ∧ (∀ p ∈ [262144], (sfS2
      Need.store (sf 0 true) (cS 6 1)).hostHolds p 4096 = false)) ∧
    ((((cS 5 1).rasterCmd 0 fun c => c == 5) = some (rI 1, rc 5 12288 20480)) ∧ ((readSurfaceM (whoRaster 0 (rI 1).ctx) (BitVec.extractLsb' 0 64 (rc 5
      12288 20480).val)).exec (cS 5 1) = (Except.ok (sf 0 true), sfS1 (cS 5 1))) ∧ ((surfaceTilesM (whoRaster 0 (rI 1).ctx) 0 Need.load (sf 0
      true)).exec (sfS1 (cS 5 1)) = (Except.ok [262144], mS2)) ∧ ((bytesM (whoRaster 0 (rI 1).ctx) Need.store (BitVec.extractLsb' 64 64 (rc 5 12288
      20480).val) (List.flatMap tileBlocks [262144]).length).exec mS2 = (Except.ok mXs, stateOfM (bytesM wR Need.store 20480 16) mS2)) ∧ ((sf 0
      true).fmt = 0) ∧ (∀ y ∈ mXs, (stateOfM (bytesM wR Need.store 20480 16) mS2).isLocal y.pa = true ∧ (stateOfM (bytesM wR Need.store 20480 16)
      mS2).writeHeld (lowOf y.pa) 1 false = false)) ∧
    ((((cS 7 1).rasterCmd 0 fun c => c == 7) = some (rI 1, rc 7 12288 20480)) ∧ ((readSurfaceM (whoRaster 0 (rI 1).ctx) (BitVec.extractLsb' 0 64 (rc 7
      12288 20480).val)).exec (cS 7 1) = (Except.ok (sf 0 true), sfS1 (cS 7 1))) ∧ ((surfaceTilesM (whoRaster 0 (rI 1).ctx) 0 Need.store (sf 0
      true)).exec (sfS1 (cS 7 1)) = (Except.ok [262144], lS2)) ∧ ((probeM (whoRaster 0 (rI 1).ctx) (BitVec.extractLsb' 64 64 (rc 7 12288 20480).val)
      (List.flatMap tileBlocks [262144]).length).exec lS2 = (Except.ok (), lS3)) ∧ ((loadModesM (whoRaster 0 (rI 1).ctx) (rI 1) (BitVec.extractLsb' 64
      64 (rc 7 12288 20480).val) (List.flatMap tileBlocks [262144]).zipIdx).exec lS3 = (Except.ok true, stateOfM (loadModesM wR (rI 1) 20480
      blks.zipIdx) lS3)) ∧ ((sf 0 true).fmt = 0)) ∧
    ((((sRa (rc 4 0 0)).rasterCmd 0 fun c => c == 4) = some (rI 1, rc 4 0 0)) ∧ (BitVec.extractLsb' 0 64 (rc 4 0 0).val = 0)) ∧
    ((((sFe 20480).rasterCmd 0 fun c => c == 4) = some (rI 1, rc 4 20480 0)) ∧ ((tbarMarked (whoRaster 0 (rI 1).ctx) Need.atomic (BitVec.extractLsb' 0
      64 (rc 4 20480 0).val)).exec (sFe 20480) = (Except.ok 20480, stateOfM (tbarMarked wR Need.atomic 20480) (sFe 20480))) ∧ (BitVec.extractLsb' 0 64
      (rc 4 20480 0).val ≠ 0) ∧ (((stateOfM (tbarMarked wR Need.atomic 20480) (sFe 20480)).tbarAt 20480).badArrival 1 0 = false)) ∧
    ((((sFe 8192).rasterCmd 0 fun c => c == 4) = some (rI 1, rc 4 8192 0)) ∧ ((tbarMarked (whoRaster 0 (rI 1).ctx) Need.atomic (BitVec.extractLsb' 0
      64 (rc 4 8192 0).val)).exec (sFe 8192) = (Except.error (Stop.raise 32 8192), stateOfM (tbarMarked wR Need.atomic 8192) (sFe 8192))) ∧
      (BitVec.extractLsb' 0 64 (rc 4 8192 0).val ≠ 0)) ∧
    (((edgeFn (cor 0 4) (cor 4 4) (cor 0 8) * edgeFn (cor 0 4) (cor 4 4) (cor 0 0) < 0) ∧ (pixS ∈ coverPixels (cor 0 4) (cor 4 4) (cor 0 8) 0 0) ∧
      (pixT ∈ coverPixels (cor 4 4) (cor 0 4) (cor 0 0) 0 0)) ∧ ((3 < 128) ∧ ((priC false).op < 8) ∧ (pixS.px < 65536) ∧ (pixS.py < 65536) ∧ (pixS.u <
      2 ^ 32) ∧ (pixS.v < 2 ^ 32) ∧ ((priC false).prim < 2 ^ 32)) ∧ ((priC false).flat = false) ∧ ((priC true).flat = true)) :=
  ⟨⟨(by first | exact pairOf rasterHead_mem rfl (by decide +kernel) | decide +kernel),
     (by rw [show (List.filter (fun v => bit (primOf (primT 0)).mask v) (List.range 96)) = [] by decide +kernel]; rfl), by decide +kernel⟩,
   ⟨(by first | exact pairOf rasterHead_mem rfl (by decide +kernel) | decide +kernel), by decide +kernel⟩,
   ⟨(by first | exact pairOf rasterHead_mem rfl (by decide +kernel) | decide +kernel), by decide +kernel⟩,
   ⟨(by first | exact pairOf rasterHead_mem rfl (by decide +kernel) | decide +kernel), by decide +kernel⟩,
   ⟨(by first | exact pairOf rasterHead_mem rfl (by decide +kernel) | decide +kernel), by decide +kernel⟩,
   ⟨(by first | exact pairOf rasterCmd_mem rfl (by decide +kernel) | decide +kernel), by decide +kernel⟩,
   ⟨(by first | exact pairOf rasterCmd_mem rfl (by decide +kernel) | decide +kernel), by decide +kernel⟩,
   ⟨(by first | exact pairOf rasterCmd_mem rfl (by decide +kernel) | decide +kernel), by decide +kernel⟩,
   ⟨(by first | exact pairOf rasterCmd_mem rfl (by decide +kernel) | decide +kernel), pairOkM (by decide +kernel), pairOkM (by decide +kernel),
     by decide +kernel⟩,
   ⟨(by first | exact pairOf rasterCmd_mem rfl (by decide +kernel) | decide +kernel), pairOkM (by decide +kernel), pairOkM (by decide +kernel)⟩,
   ⟨(by first | exact pairOf rasterCmd_mem rfl (by decide +kernel) | decide +kernel), pairOkM (by decide +kernel), pairOkM (by decide +kernel),
     by decide +kernel⟩,
   ⟨(by first | exact pairOf rasterCmd_mem rfl (by decide +kernel) | decide +kernel), pairOkM (by decide +kernel), pairOkM (by decide +kernel),
     pairOkM (by decide +kernel), by decide +kernel⟩,
   ⟨(by first | exact pairOf rasterCmd_mem rfl (by decide +kernel) | decide +kernel), pairOkM (by decide +kernel), pairOkM (by decide +kernel),
     pairOkM (by decide +kernel), pairOkM (by decide +kernel), by decide +kernel⟩,
   ⟨(by first | exact pairOf rasterCmd_mem rfl (by decide +kernel) | decide +kernel), by decide +kernel⟩,
   ⟨(by first | exact pairOf rasterCmd_mem rfl (by decide +kernel) | decide +kernel), pairOkM (by decide +kernel), by decide +kernel⟩,
   ⟨(by first | exact pairOf rasterCmd_mem rfl (by decide +kernel) | decide +kernel), pairErrM (by decide +kernel), by decide +kernel⟩,
   by decide +kernel⟩

theorem test_meets_CompressedBlocksReadBack :
    ((287454020 < 2 ^ 32) ∧ (63 < 64) ∧ (Mem.wf (poke base []).mem = true) ∧ (3 < 4)) ∧ ((8192 / 256 ≠ 7) ∧ (Mem.wf (poke base []).mem = true) ∧
      (modeOk ((poke base []).modeOf 8192) = true)) :=
  by decide +kernel

theorem test_meets_BlendUnits :
    (((sBl (frag 262148 5)).islandRegion 3 0 = some (rI 3)) ∧ ((forwardM (whoBlend 0 (rI 3).ctx) 0 (frag 262148 5)).exec (sBl (frag 262148 5)) =
      (Except.ok 262148, stateOfM (forwardM wB 0 (frag 262148 5)) (sBl (frag 262148 5)))) ∧ ((sBl (frag 262148 5)).linkHead (linkKey 3 0 0) = some
      (frag 262148 5))) ∧
    (((sBl (frag 262148 5 193)).islandRegion 3 0 = some (rI 3)) ∧ ((sBl (frag 262148 5 193)).linkHead (linkKey 3 0 0) = some (frag 262148 5 193)) ∧
      (isPoison (frag 262148 5 193).tag = true)) ∧
    (((sBl (frag 262148 5 65)).islandRegion 3 0 = some (rI 3)) ∧ ((sBl (frag 262148 5 65)).linkHead (linkKey 3 0 0) = some (frag 262148 5 65)) ∧
      (isStop (frag 262148 5 65).tag = true)) ∧
    (((List.find? (fun x => x.id == 9 && x.slice == 4) (sBi (bi 5 (some 262148))).blendItems = some (bi 5 (some 262148))) ∧ ((bi 5 (some
      262148)).pixel = some 262148) ∧ (32768 ≤ ((bi 5 (some 262148)).tag - ((sBi (bi 5 (some 262148))).tileTag (bi 5 (some 262148)).slice (bi 5 (some
      262148)).tile).e).toNat)) ∧ ((List.find? (fun x => x.id == 9 && x.slice == 4) (sBi (bi 8 (some 262148))).blendItems = some (bi 8 (some 262148)))
      ∧ ((bi 8 (some 262148)).pixel = some 262148) ∧ (0 < ((bi 8 (some 262148)).tag - ((sBi (bi 8 (some 262148))).tileTag (bi 8 (some 262148)).slice
      (bi 8 (some 262148)).tile).e).toNat) ∧ (((bi 8 (some 262148)).tag - ((sBi (bi 8 (some 262148))).tileTag (bi 8 (some 262148)).slice (bi 8 (some
      262148)).tile).e).toNat < 32768)) ∧ ((List.find? (fun x => x.id == 9 && x.slice == 4) (sBi (bi 7 (some 262148))).blendItems = some (bi 7 (some
      262148))) ∧ ((bi 7 (some 262148)).pixel = some 262148) ∧ (((bi 7 (some 262148)).tag - ((sBi (bi 7 (some 262148))).tileTag (bi 7 (some
      262148)).slice (bi 7 (some 262148)).tile).e).toNat = 0) ∧ ((bi 7 (some 262148)).kill = true ∨ (sBi (bi 7 (some 262148))).writeHeld 262148 4 (bi
      7 (some 262148)).comp = false)) ∧ ((List.find? (fun x => x.id == 9 && x.slice == 4) (sBi (bi 5 none)).blendItems = some (bi 5 none)) ∧ ((bi 5
      none).pixel = none) ∧ (32768 ≤ ((bi 5 none).tag - ((sBi (bi 5 none)).tileTag (bi 5 none).slice (bi 5 none).tile).e).toNat))) ∧
    (((List.find? (fun x => x.id == 9 && x.slice == 4) (sBi (bi 8 none)).blendItems = some (bi 8 none)) ∧ ((bi 8 none).pixel = none) ∧ (0 < ((bi 8
      none).tag - ((sBi (bi 8 none)).tileTag (bi 8 none).slice (bi 8 none).tile).e).toNat) ∧ (((bi 8 none).tag - ((sBi (bi 8 none)).tileTag (bi 8
      none).slice (bi 8 none).tile).e).toNat < 32768)) ∧ ((List.find? (fun x => x.id == 9 && x.slice == 4) (sBi (bi 7 none)).blendItems = some (bi 7
      none)) ∧ ((bi 7 none).pixel = none) ∧ (((bi 7 none).tag - ((sBi (bi 7 none)).tileTag (bi 7 none).slice (bi 7 none).tile).e).toNat = 0)) ∧ ((biK
      1 true).kill = true) ∧ (((biK 0 false).kill = false) ∧ (opOk (biK 0 false).fmt (biK 0 false).op = true) ∧ ((biK 0 false).op = 0))) ∧
    ((((biK 1 false).kill = false) ∧ (opOk (biK 1 false).fmt (biK 1 false).op = true) ∧ ((biK 1 false).op ≠ 0) ∧ (alt19_1.poisonedAt 262148 4 = true))
      ∧ (((biK 2 false).kill = false) ∧ (opOk (biK 2 false).fmt (biK 2 false).op = true) ∧ ((sBi (biK 2 false)).poisonedAt 262148 4 = false)) ∧
      ({ slice := 4, tile := 64, e := 7, n := 3, close := some 3 : TileTag }.close = some
      { slice := 4, tile := 64, e := 7, n := 3, close := some 3 : TileTag }.n) ∧
      ({ slice := 4, tile := 64, e := 7, n := 2, close := some 3 : TileTag }.close ≠ some
      { slice := 4, tile := 64, e := 7, n := 2, close := some 3 : TileTag }.n)) ∧
    (((2164211728 < 2 ^ 32) ∧ (553615424 < 2 ^ 32)) ∧ ((2164211728 < 2 ^ 32) ∧ (553615424 < 2 ^ 32) ∧ (0 < 4))) :=
  ⟨⟨(by first | exact oneOf islandRegion_mem rfl (by decide +kernel) | decide +kernel), pairOkM (by decide +kernel), by decide +kernel⟩,
   ⟨(by first | exact oneOf islandRegion_mem rfl (by decide +kernel) | decide +kernel), by decide +kernel⟩,
   ⟨(by first | exact oneOf islandRegion_mem rfl (by decide +kernel) | decide +kernel), by decide +kernel⟩,
   by decide +kernel,
   by decide +kernel,
   by decide +kernel,
   by decide +kernel⟩

theorem test_meets_ErrorsAndPartitionReset :
    ((∀ (c : ℕ), c / 64 = 0 → c < 256 → alt19_3.core c = { }) ∧ (0 < 4) ∧ (alt19_3.prstRun.contains 0 = true)) ∧
    ((((sPk 1).strikes 1 (InFlight.packet 60) = true) ∧ ((sPk 1).ctxHeld 1 = false)) ∧ ((sPk 2).strikes 1 (InFlight.packet 60) = false) ∧ (((sStrike 3
      0).linkOwner 1 (rStrike 3 0).id 0 = some (rStrike 3 0)) ∧ (0 < ((sStrike 3 0).wire (wireKey ((rStrike 3 0).loc 0) Dir.north)).buffer.length +
      ((sStrike 3 0).wire (wireKey ((rStrike 3 0).loc 0) Dir.north)).flight.length)) ∧ (((sStrike 3 0).linkOwner 1 (rStrike 3 0).id 0 = some (rStrike
      3 0)) ∧ ((rStrike 3 0).far 0 Dir.north = Far.island (linkNo 3 0)))) ∧
    ((((sStrike 2 0).linkOwner 1 (rStrike 2 0).id 0 = some (rStrike 2 0)) ∧ ((rStrike 2 0).far 0 Dir.north = Far.port (linkNo 2 0))) ∧ ((0 < 4) ∧
      ((sPk 1).downBays.contains 0 = false) ∧ (∀ c ∈ (sPk 1).ctxsIn 0, (sPk 1).ctxHeld c = false)) ∧ (7 / 16384 = 0) ∧ ((8195 < 2 ^ 40) ∧ (isNormal
      8195 = true))) ∧
    (((0 < 4) ∧ ((sPk 1).prstRun.contains 0 = false)) ∧ ((0 < 4) ∧ (sDn.prstRun.contains 0 = true) ∧ (5 / 64 = 0) ∧ (5 < 256)) ∧ ((0 < 4) ∧
      (sDn.prstRun.contains 0 = true) ∧ (256 / 64 ≠ 0)) ∧ ((0 < 4) ∧ (sDn.prstRun.contains 0 = true) ∧ (3 / 4 = 0))) ∧
    ((0 < 4) ∧ (sDn.prstRun.contains 0 = true)) :=
  ⟨⟨(fun c h _ => (by decide +kernel : ∀ c < 64, alt19_3.core c = {}) c (by omega)), by decide +kernel⟩,
   by decide +kernel,
   by decide +kernel,
   by decide +kernel,
   by decide +kernel⟩

theorem test_meets_SensorsAndAlerts :
    ((255 < 256) ∧ (base.lastRefresh = 0 ∧ 1 ≤ base.cyc ∨ base.cyc = base.lastRefresh + 4096) ∧ ((alt19_5.lastRefresh = 0 → alt19_5.cyc = 0) ∧
      (alt19_5.cyc ≠ alt19_5.lastRefresh + 4096)) ∧ (alt19_5.cyc ≤ alt19_5.lastRefresh + 4096)) ∧
    (((base.sector 0).armed = true) ∧ (((base.sector 0).armed = true) ∧ (BitVec.toNat base.talert % 2 ^ 16 < 1536)) ∧ ((sSec.sector 0).armed = false)
      ∧ ((sSec.sector 0).armed = false ∨ 256 ≤ BitVec.toNat sSec.talert % 2 ^ 16)) ∧
    (((sSec.sector 0).droopsSeen ≠ (sSec.sector 0).droops) ∧ ((base.sector 0).droopsSeen = (base.sector 0).droops)) :=
  ⟨by decide +kernel,
   by decide +kernel,
   by decide +kernel⟩

theorem test_meets_BootAndHostRegisters :
    ((5 < 256) ∧ (alt19_6.attst = 1) ∧ (base.attst ≠ 1) ∧ ((sAtt.attst = 1) ∧ (sAtt.fwImage = some [1, 2, 3]) ∧ (sAtt.blobImage = some [4]))) ∧
    ((base.bootst.toNat < 2) ∧ (2 ≤ alt19_7.bootst.toNat) ∧ (alt19_8.rcvRun = true) ∧ ((1030792151041 ≠ msixCap) ∧ (1030792151041 < 1030792151040 ∨
      1099511627776 ≤ 1030792151041 ∨ 8 ≠ 4 ∧ 8 ≠ 8 ∨ 1030792151041 % 8 ≠ 0))) ∧
    (((1030808928248 ≤ 1030808928248) ∧ (1030792151552 ≤ 1030808928248) ∧ (8 = 4 ∨ 8 = 8) ∧ (1030808928248 % 8 = 0)) ∧ ((1030792151040 ≤
      1030792151048) ∧ (1030792151048 < 1099511627776) ∧ (8 = 4 ∨ 8 = 8) ∧ (1030792151048 % 8 = 0)) ∧ (sAtt.fwImage = some [1, 2, 3])) :=
  ⟨by decide +kernel,
   by decide +kernel,
   by decide +kernel⟩

theorem test_meets_StepRunsDecodedInstruction :
    (((tC1.begin_ { wait := 2, actor := Actor.core 5 } (Acting.core 5)).fetch 5 = (Except.ok (Decoded.instr (Instr.addi 3 1 64) 4), (bC1.fetch 5).2))
      ∧ (tC1.nextTurn = { wait := 2, actor := Actor.core 5 }) ∧ ({ wait := 2, actor := Actor.core 5 : Turn }.actor = Actor.core 5) ∧ (5 ≤
      Config.sceip) ∧ ((tC1.begin_ { wait := 2, actor := Actor.core 5 } (Acting.core 5)).coreRuns 5 = true) ∧ ((tC1.begin_
      { wait := 2, actor := Actor.core 5 } (Acting.core 5)).inside 5 = true ∨ ((tC1.begin_ { wait := 2, actor := Actor.core 5 } (Acting.core 5)).core
      5).stopAsked = false ∧ (tC1.begin_ { wait := 2, actor := Actor.core 5 } (Acting.core 5)).eventReady 5 = none)) ∧
    (((accessM (whoCore bC1 5) Need.fetch (bC1.core 5).pc 4).exec bC1 = (Except.ok (normal 4096), fx bC1 0 bC1)) ∧ ((normal 4096).mt = 0) ∧ ((fx bC1 0
      bC1).isLocal (normal 4096).pa = true) ∧ ((fx bC1 0 bC1).poisonedAt (lowOf (normal 4096).pa) 4 = false) ∧ (isXForm (BitVec.ofNat 32 ((fx bC1 0
      bC1).fabNat (lowOf (normal 4096).pa) 4)) = false) ∧ (decodeSeq (BitVec.ofNat 32 ((fx bC1 0 bC1).fabNat (lowOf (normal 4096).pa) 4)) 0 =
      Decoded.instr (Instr.addi 3 1 64) 4)) ∧
    (((accessM (whoCore bX 5) Need.fetch (bX.core 5).pc 4).exec bX = (Except.ok (normal 4096), fx bX 0 bX)) ∧ ((accessM (whoCore bX 5) Need.fetch
      ((bX.core 5).pc + 4) 4).exec (fx bX 0 bX) = (Except.ok (normal 4100), fx bX 4 (fx bX 0 bX))) ∧ ((normal 4096).mt = 0) ∧ ((fx bX 0 bX).isLocal
      (normal 4096).pa = true) ∧ ((fx bX 0 bX).poisonedAt (lowOf (normal 4096).pa) 4 = false) ∧ (isXForm (BitVec.ofNat 32 ((fx bX 0 bX).fabNat (lowOf
      (normal 4096).pa) 4)) = true) ∧ ((normal 4100).mt = 0) ∧ ((fx bX 4 (fx bX 0 bX)).isLocal (normal 4100).pa = true) ∧ ((fx bX 4 (fx bX 0
      bX)).poisonedAt (lowOf (normal 4100).pa) 4 = false) ∧ (decodeSeq (BitVec.ofNat 32 ((fx bX 0 bX).fabNat (lowOf (normal 4096).pa) 4))
      (BitVec.ofNat 32 ((fx bX 4 (fx bX 0 bX)).fabNat (lowOf (normal 4100).pa) 4)) = Decoded.instr (Instr.strmCp 1 4 3) 8)) ∧
    ((((tE (rSt true)).nextTurn = { wait := 1, actor := Actor.element 0 0 }) ∧ ({ wait := 1, actor := Actor.element 0 0 : Turn }.actor = Actor.element
      0 0) ∧ (0 < 4096) ∧ (((tE (rSt true)).begin_ { wait := 1, actor := Actor.element 0 0 } (Acting.elem 0 0 0)).region? 0 = some (rSt true)) ∧ (0 <
      4 * (rSt true).quads) ∧ (((rSt true).elem 0).isMatrix = false) ∧ (((rSt true).elem 0).isStatic = true)) ∧ (((tE (rSt false)).nextTurn =
      { wait := 1, actor := Actor.element 0 0 }) ∧ ({ wait := 1, actor := Actor.element 0 0 : Turn }.actor = Actor.element 0 0) ∧ (0 < 4096) ∧ (((tE
      (rSt false)).begin_ { wait := 1, actor := Actor.element 0 0 } (Acting.elem 0 0 0)).region? 0 = some (rSt false)) ∧ (0 < 4 * (rSt false).quads) ∧
      (((rSt false).elem 0).isMatrix = false) ∧ (((rSt false).elem 0).isStatic = false) ∧ (elemSlot ((tE (rSt false)).begin_
      { wait := 1, actor := Actor.element 0 0 } (Acting.elem 0 0 0)) (rSt false) 0 = some 3) ∧ (elemInstr (((rSt false).elem 0).slots.getD 3 0) = some
      (Instr.addI32 { trig := 0, d := 1, a := 2, b := 3, dqa := false, dqb := false, sp := false, tp := false }))) ∧ (((tE rNo20).nextTurn =
      { wait := 1, actor := Actor.element 0 0 }) ∧ ({ wait := 1, actor := Actor.element 0 0 : Turn }.actor = Actor.element 0 0) ∧ (0 < 4096) ∧ (((tE
      rNo20).begin_ { wait := 1, actor := Actor.element 0 0 } (Acting.elem 0 0 0)).region? 0 = some rNo20) ∧ (0 < 4 * rNo20.quads) ∧ ((rNo20.elem
      0).isMatrix = false) ∧ ((rNo20.elem 0).isStatic = false) ∧ (elemSlot ((tE rNo20).begin_ { wait := 1, actor := Actor.element 0 0 } (Acting.elem 0
      0 0)) rNo20 0 = none)) ∧ ((tV.nextTurn = { wait := 1, actor := Actor.event (Instr.windowCommit 3) }) ∧
      ({ wait := 1, actor := Actor.event (Instr.windowCommit 3) : Turn }.actor = Actor.event (Instr.windowCommit 3)) ∧ (encode (Instr.windowCommit 3)
      = []))) ∧
    ((tV.recQueue = []) ∧ ((∀ l ∈ tV.launches, ¬(l.plmax = 0 ∧ l.accepted = true)) ∧ (tV.cyc + 0 ≤ tV.lastRefresh + 4096))) :=
  ⟨⟨pairOk (by decide +kernel) (by decide +kernel), by decide +kernel⟩,
   ⟨pairOkM (by decide +kernel), by decide +kernel⟩,
   ⟨pairOkM (by decide +kernel), pairOkM (by decide +kernel), by decide +kernel⟩,
   by decide +kernel,
   by decide +kernel⟩

theorem test_meets_MergedFibresHoldTheirItems :
    ([(1, 5), (4, 6)] : List (Nat × Nat)).Pairwise (fun x y => x.1 < y.1) ∧ ([(1, 7), (9, 8)] : List (Nat × Nat)).Pairwise (fun x y => x.1 < y.1) ∧
    4 = ([(1, 5), (4, 6)] : List (Nat × Nat)).length + ([(1, 7), (9, 8)] : List (Nat × Nat)).length := by decide

theorem test_meets_MemoryReadsBackAndKeepsForm :
    Mem.wf coreMem = true ∧ Mem.wf sDMem = true ∧ (∀ a, Mem.read (Mem.writeList coreMem 0x2000 []) a = Mem.read coreMem a) ∧
    0xFFFF < 2 ^ (8 * 2) ∧ (0 : Nat) < 2 ^ (8 * 0) := by
  refine ⟨?_, ?_, fun _ => rfl, ?_, ?_⟩ <;> decide +kernel

theorem test_meets_DecodeEncodeAgree :
    wellFormed (.ffmaF32 ⟨5, 3, 16, 25, true, false, false, false⟩) = true ∧ wellFormed (.addi 31 0 0xFFF) = true ∧
    wellFormed (.lnchInd 10 9) = true ∧ wellFormed (.bnz 8 0xFFFF) = true ∧ wellFormed (.trap 0) = true := by decide

theorem modes_at (n a : Nat) (v : Byte) (h : modeOk v.toNat = true) (h0 : modeOk 0 = true) :
    modeOk (({ base with modes := [(n, v)] } : State).modeOf a) = true := by
  by_cases hn : n = blockOf a <;> simp_all [State.modeOf, AMap.getD, AMap.find?]

theorem test_meets_CompressedBlocksReadBack_writes :
    Mem.wf ({ base with modes := [(0x400, 0x12)] } : State).mem = true ∧
    (∀ a, modeOk (({ base with modes := [(0x400, 0x12)] } : State).modeOf a) = true) ∧ (List.replicate 256 (0 : Byte)).length ≤ 256 :=
  ⟨by decide +kernel, fun a => modes_at _ a _ (by decide) (by decide), by rw [List.length_replicate]⟩


theorem test_meets_SequencerVersionedAccess_values :
    0x2000 % 8 = 0 ∧ Mem.wf (sV tagsV).mem = true ∧ (∀ a, modeOk ((sV tagsV).modeOf a) = true) ∧ ((sV tagsV).vtag 0x2000).older.length < 4 ∧
    (2 : Word) ≠ ((sV tagsV).vtag 0x2000).newest ∧ (sV tagsV).judgeVld 0x2000 2 = .value 0x33 true ∧ 0x2008 / 8 ≠ 0x2000 / 8 :=
  ⟨by decide, by decide +kernel, fun _ => rfl, by decide, by decide, by decide +kernel, by decide⟩

/-- Something of ctx 1 and of ctx 2 of every kind that a termination abandons. -/
def sKilled : State := { sMx [(2, 1)] with regions := [rE, { rE with id := 1, ctx := 2 }], streams := [newStream sC 5 coreT .ld default default 0 0 0 0, { newStream sC 5 coreT .ld default default 0 0 0 0 with id := 9, ctx := 2 }] }
theorem test_meets_ManagementOfMasters_kill :
    1 ≤ 1 ∧ (sKilled.killCtx 1).regions.map (fun r => r.ctx) = [2] ∧ (sKilled.killCtx 1).streams.map (fun t => t.ctx) = [2] := by decide +kernel

end Sys2Proof.Tests
end

section
/-!
PROOFS. Memory as data: what a written list of bytes reads as, the canonical form as the one form of its contents (R3, R413; log entry 10),
and the byte order of a word (R3).
-/
namespace Sys2Proof.Machine

/-! ## Reading after a write of a list of bytes -/

/-- Each written byte reads back from its place; every other byte reads as before. -/
theorem read_writeList {m : List Host.Cell} {a : Nat} (bs : List Byte) (k : Nat) (h : Mem.wf m = true) :
    Mem.read (Mem.writeList m a bs) k = if a ≤ k then (bs[k - a]?).getD (Mem.read m k) else Mem.read m k := by
  induction bs generalizing m a with
  | nil => simp [Mem.writeList]
  | cons b bs ih =>
    rw [Mem.writeList, ih (wf_write h), read_write h]
    rcases Nat.lt_trichotomy k a with hlt | rfl | hgt
    · rw [if_neg (by omega), if_neg (by omega), if_neg (by omega)]
    · simp
    · obtain ⟨i, rfl⟩ : ∃ i, k = a + 1 + i := ⟨k - (a + 1), by omega⟩
      rw [if_pos (by omega), if_neg (by omega), if_pos (by omega), Nat.add_sub_cancel_left,
        show a + 1 + i - a = i + 1 by omega, List.getElem?_cons_succ]

/-- A list of bytes reads back whole from where it was written. -/
theorem readList_writeList {m : List Host.Cell} {a : Nat} (bs : List Byte) (h : Mem.wf m = true) :
    Mem.readList (Mem.writeList m a bs) a bs.length = bs := by
  induction bs generalizing m a with
  | nil => rfl
  | cons b bs ih =>
    have hhead : Mem.read (Mem.writeList m a (b :: bs)) a = b := by simp [read_writeList _ _ h]
    rw [List.length_cons, Mem.readList, hhead, Mem.writeList, ih (wf_write h)]

/-! ## The canonical form is the one form of its contents -/

theorem risingFrom_cons {n j : Nat} {w : Byte} {t : List Host.Cell} :
    Mem.risingFrom n ((j, w) :: t) = true ↔ n ≤ j ∧ w ≠ 0 ∧ Mem.risingFrom (j + 1) t = true := by
  simp [Mem.risingFrom, and_assoc]

theorem read_cons_same (j : Nat) (w : Byte) (t : List Host.Cell) : Mem.read ((j, w) :: t) j = w := if_pos rfl

theorem read_cons_of_ne {j k : Nat} (w : Byte) (t : List Host.Cell) (h : j ≠ k) : Mem.read ((j, w) :: t) k = Mem.read t k := if_neg h

/-- A listed byte is not zero, so a memory in the form that lists its first byte at j reads differently at j from every memory whose
first listed address lies above j. -/
theorem read_head_ne_of_above {j : Nat} {w : Byte} {t m : List Host.Cell} (hw : w ≠ 0) (hm : Mem.risingFrom (j + 1) m = true) :
    Mem.read ((j, w) :: t) j ≠ Mem.read m j := by
  rw [read_cons_same, read_below hm (Nat.lt_succ_self j)]
  exact hw

/-- Two memories in the form that read the same everywhere are the same data: the first listed addresses agree, since the lower of two
different ones would read zero in one memory only. -/
theorem eq_of_risingFrom_of_read_eq {m m' : List Host.Cell} {n n' : Nat} (h : Mem.risingFrom n m = true) (h' : Mem.risingFrom n' m' = true)
    (hread : ∀ a, Mem.read m a = Mem.read m' a) : m = m' := by
  induction m generalizing m' n n' with
  | nil =>
    cases m' with
    | nil => rfl
    | cons p' t' =>
      obtain ⟨-, hw', -⟩ := risingFrom_cons.mp h'
      exact absurd (hread p'.1).symm (read_head_ne_of_above hw' rfl)
  | cons p t ih =>
    obtain ⟨j, w⟩ := p
    obtain ⟨-, hw, ht⟩ := risingFrom_cons.mp h
    cases m' with
    | nil => exact absurd (hread j) (read_head_ne_of_above hw rfl)
    | cons p' t' =>
      obtain ⟨j', w'⟩ := p'
      obtain ⟨-, hw', ht'⟩ := risingFrom_cons.mp h'
      rcases Nat.lt_trichotomy j j' with hlt | rfl | hgt
      · exact absurd (hread j) (read_head_ne_of_above hw (risingFrom_cons.mpr ⟨hlt, hw', ht'⟩))
      · have hword : w = w' := by simpa only [read_cons_same] using hread j
        have htail : ∀ a, Mem.read t a = Mem.read t' a := by
          intro a
          by_cases ha : j = a
          · rw [read_below ht (by omega), read_below ht' (by omega)]
          · simpa only [read_cons_of_ne _ _ ha] using hread a
        rw [hword, ih ht ht' htail]
      · exact absurd (hread j').symm (read_head_ne_of_above hw' (risingFrom_cons.mpr ⟨hgt, hw, ht⟩))

/-! ## The bytes of a word, lowest first -/

@[simp] theorem length_leBytes (v n : Nat) : (leBytes v n).length = n := by
  induction n generalizing v with
  | zero => rfl
  | succ n ih => rw [leBytes, List.length_cons, ih]

/-- n bytes hold a number modulo 256 to the n. -/
theorem leNat_leBytes (v n : Nat) : leNat (leBytes v n) = v % 256 ^ n := by
  induction n generalizing v with
  | zero => simp [leBytes, leNat, Nat.mod_one]
  | succ n ih => rw [leBytes, leNat, ih, Nat.pow_succ', Nat.mod_mul, BitVec.toNat_ofNat]

/-- A number that fits in n bytes is what its bytes hold. -/
theorem leNat_leBytes_of_lt {v n : Nat} (h : v < 2 ^ (8 * n)) : leNat (leBytes v n) = v := by
  rw [Nat.pow_mul] at h
  rw [leNat_leBytes, Nat.mod_eq_of_lt h]

/-- A number written to n bytes of memory reads back. -/
theorem leNat_readList_writeList {m : List Host.Cell} {n v : Nat} (a : Nat) (h : Mem.wf m = true) (hv : v < 2 ^ (8 * n)) :
    leNat (Mem.readList (Mem.writeList m a (leBytes v n)) a n) = v := by
  have hback := readList_writeList (a := a) (leBytes v n) h
  rw [length_leBytes] at hback
  rw [hback, leNat_leBytes_of_lt hv]

/-- Settles O59: the form is kept by each write, and each clause is the law of the operations it names. -/
theorem memoryReadsBackAndKeepsForm : Obligations.MemoryReadsBackAndKeepsForm :=
  ⟨fun _ _ bs h => wf_writeList bs h,
   fun _ _ bs k h => read_writeList bs k h,
   fun _ _ h h' hread => eq_of_risingFrom_of_read_eq h h' hread,
   fun _ _ hv => leNat_leBytes_of_lt hv,
   fun _ a _ _ h hv => leNat_readList_writeList a h hv⟩

end Sys2Proof.Machine
end

section
/-!
PROOFS. The passing of time (R25, R229, R139): what the cycles of a turn may move, and what they leave as it was.
-/
namespace Sys2Proof.Machine

/-- The state without the parts that the passing of time moves: the regions with what stands in their elements, the wires, the packets in
the network, and the links of ports and islands. -/
def State.still (s : State) : State :=
  { s with regions := [], wires := [], landings := [], flights := [], ports := [], links := [] }

@[simp] theorem still_setRegion (s : State) (r : Region) : (s.setRegion r).still = s.still := rfl
@[simp] theorem still_updWire (s : State) (k : Nat) (f : Wire → Wire) : (s.updWire k f).still = s.still := rfl
@[simp] theorem still_updPort (s : State) (k : Nat) (f : Port → Port) : (s.updPort k f).still = s.still := rfl
@[simp] theorem still_updLink (s : State) (k : Nat) (f : Link → Link) : (s.updLink k f).still = s.still := rfl
@[simp] theorem still_setLanding (s : State) (k : Nat) (l : List Landed) : (s.setLanding k l).still = s.still := rfl
@[simp] theorem still_landAt (s : State) (k : Nat) : (s.landAt k).still = s.still := rfl
@[simp] theorem still_settleAll (s : State) (now : Nat) : (s.settleAll now).still = s.still := rfl

@[simp] theorem still_updRegion (s : State) (id : Nat) (f : Region → Region) : (s.updRegion id f).still = s.still := by
  unfold State.updRegion
  split <;> rfl

/-- A fold of steps that keep the rest of the state keeps it. -/
theorem still_foldl {α : Type} {f : State → α → State} (h : ∀ s a, (f s a).still = s.still) (l : List α) (s : State) :
    (l.foldl f s).still = s.still := by
  induction l generalizing s with
  | nil => rfl
  | cons a l ih => rw [List.foldl_cons, ih, h]

/-! ## Arrivals -/

theorem still_enterAny {s s1 : State} {r : Region} {e at_ src : Nat} {side : Dir} {t : Token}
    (h : s.enterAny r e side t at_ src = some s1) : s1.still = s.still := by
  unfold State.enterAny at h
  split at h
  · dsimp only at h
    split at h
    · obtain ⟨x, -, rfl⟩ := Option.map_eq_some_iff.mp h
      rfl
    · split at h
      · cases h
      · cases h
        rfl
  · dsimp only at h
    split at h
    · cases h
    · split at h <;> cases h <;> rfl
  · cases h

theorem still_enterIn {s s1 : State} {r : Region} {e at_ src : Nat} {side : Dir} {t : Token}
    (h : s.enterIn r e side t at_ src = some s1) : s1.still = s.still := by
  unfold State.enterIn at h
  split at h
  · exact still_enterAny h
  · cases h

@[simp] theorem still_drainBuffer (id e : Nat) (side : Dir) (key from_ n : Nat) (s : State) :
    (s.drainBuffer id e side key from_ n).still = s.still := by
  induction n generalizing s with
  | zero => rfl
  | succ n ih =>
    unfold State.drainBuffer
    split
    · split
      · rfl
      · split
        · next hin => rw [ih, still_updWire, still_enterIn hin]
        · rfl
    · rfl

@[simp] theorem still_arriveMesh (id e : Nat) (side : Dir) (k from_ : Nat) (l : List Flight) (s : State) :
    (arriveMesh id e side k from_ l s).still = s.still := by
  induction l generalizing s with
  | nil => rfl
  | cons f l ih =>
    unfold arriveMesh
    split
    · rfl
    · split
      · rfl
      · split
        · next hin => rw [ih, still_updWire, still_enterIn hin]
        · rfl

theorem still_arriveEnd {drop : List Flight → State → State} (h : ∀ l s, (drop l s).still = s.still) (id e : Nat) (side : Dir)
    (from_ : Nat) (l : List Flight) (s : State) : (arriveEnd id e side from_ drop l s).still = s.still := by
  induction l generalizing s with
  | nil => rfl
  | cons f l ih =>
    unfold arriveEnd
    split
    · rfl
    · split
      · rfl
      · split
        · next hin => rw [ih, h, still_enterIn hin]
        · rfl

@[simp] theorem still_arriveSide (s : State) (r : Region) (e : Nat) (side : Dir) (from_ : Nat) :
    (s.arriveSide r e side from_).still = s.still := by
  unfold State.arriveSide
  split
  · exact still_arriveMesh ..
  · rw [still_drainBuffer, still_updWire]
  · exact still_arriveEnd (fun _ _ => still_updPort _ _ _) ..
  · exact still_arriveEnd (fun _ _ => still_updLink _ _ _) ..
  · rfl

@[simp] theorem still_arriveKey (from_ : Nat) (s : State) (k : Nat) : (s.arriveKey from_ k).still = s.still := by
  unfold State.arriveKey
  split
  · rfl
  · split
    · rfl
    · split
      · rfl
      · split <;> simp

@[simp] theorem still_arriveEnds (from_ : Nat) (s : State) (id : Nat) : (s.arriveEnds from_ id).still = s.still := by
  unfold State.arriveEnds
  split
  · rfl
  · exact still_foldl (fun u p => by split <;> simp) _ s

@[simp] theorem still_arrivals (s : State) (from_ : Nat) : (s.arrivals from_).still = s.still := by
  unfold State.arrivals
  rw [still_foldl (still_arriveEnds from_), still_foldl (still_arriveKey from_)]

/-! ## Sweeps -/

@[simp] theorem still_returnCredit (s : State) (id : Nat) : (s.returnCredit id).still = s.still := by
  unfold State.returnCredit
  split
  · rfl
  · split
    · rw [State.payBack, still_updRegion]
      rfl
    · rfl

@[simp] theorem still_returnAll (l : List Landed) (s : State) : (returnAll l s).still = s.still := by
  induction l generalizing s with
  | nil => rfl
  | cons x l ih => rw [returnAll, ih, still_returnCredit]

@[simp] theorem still_sweepLandings (r : Region) (exit : Nat) (l : List (Nat × List Landed)) (s : State) :
    (sweepLandings r exit l s).still = s.still := by
  induction l generalizing s with
  | nil => rfl
  | cons p l ih =>
    unfold sweepLandings
    dsimp only
    split
    · rw [ih, still_returnAll, still_setLanding]
    · exact ih s

@[simp] theorem still_discardAll (id : Nat) (xs : List Nat) (s : State) : (s.discardAll id xs).still = s.still := by
  induction xs generalizing s with
  | nil => rfl
  | cons x xs ih =>
    unfold State.discardAll
    split
    · rw [ih, State.discardSwept, still_sweepLandings]
      rfl
    · rfl

@[simp] theorem still_sweepPass (from_ : Nat) (s : State) (id : Nat) : (s.sweepPass from_ id).still = s.still := by
  unfold State.sweepPass
  split
  · rfl
  · split
    · rfl
    · simp only [State.endSweep]
      split
      · rfl
      · split
        · rw [still_discardAll, still_setRegion]
        · split
          · exact still_discardAll ..
          · rfl

/-! ## Time passes -/

@[simp] theorem still_settleTime (s : State) (from_ : Nat) : (s.settleTime from_).still = s.still := by
  unfold State.settleTime
  rw [still_foldl (still_sweepPass from_), still_arrivals, still_settleAll]

/-- When no cycle may pass, nothing moves. -/
theorem passTime_of_mayWait_zero {s : State} {n : Nat} (h : s.mayWait n = 0) : s.passTime n = s := if_pos h

/-- Cycles that pass move the clock, the counters of the launches (R345) and what arrives; nothing else. -/
theorem still_passTime (s : State) (n : Nat) :
    ∃ ls, (s.passTime n).still = { s.still with cyc := s.cyc + s.mayWait n, launches := ls } := by
  unfold State.passTime
  split
  · next h => exact ⟨s.launches, by rw [h]; rfl⟩
  · exact ⟨s.launches.map s.countCycle, by rw [still_settleTime]; rfl⟩

/-- Where no launch's counters run and no refresh of the sensors comes due, all the cycles a turn asks for pass. -/
theorem mayWait_eq_self {s : State} {n : Nat} (hl : ∀ l ∈ s.launches, ¬ (l.plmax = 0 ∧ l.accepted = true))
    (hn : s.cyc + n ≤ s.lastRefresh + 4096) : s.mayWait n = n := by
  have hw : s.launches.any Launch.watched = false := by
    simpa [Launch.watched] using hl
  rw [State.mayWait, hw, State.sensorDue]
  simp only [Bool.false_eq_true, if_false]
  omega

end Sys2Proof.Machine
end

section
/-!
PROOFS. A step as one turn (R25, R85, R93, R158): the beginning of a turn, the turns of a core, an element and an event, and the fetch.
-/
namespace Sys2Proof.Machine

/-! ## Commands that may stop: one step of a chain -/

theorem exec_bind_ok {α β : Type} {m : Mach α} {a : α} {s t : State} (h : m.exec s = (.ok a, t)) (f : α → Mach β) :
    (m >>= f).exec s = (f a).exec t := by rw [exec_bind, h]

theorem exec_bind_error {α β : Type} {m : Mach α} {e : Stop} {s t : State} (h : m.exec s = (.error e, t)) (f : α → Mach β) :
    (m >>= f).exec s = (.error e, t) := by rw [exec_bind, h]

/-! ## The beginning of a turn -/

/-- The state in which the cycles of a turn begin to pass. -/
def State.turned (s : State) (t : Turn) (a : Acting) : State :=
  { s with turns := s.turns.drop 1, turnNo := s.turnNo + 1, act := a, defer := t.defer, tlb := keepTlb s.turnNo 0 s.tlb }

/-- With no record that waits for its queue, a turn begins with the passing of its cycles alone. -/
theorem begin_eq_passTime {s : State} (h : s.recQueue = []) (t : Turn) (a : Acting) :
    s.begin_ t a = (s.turned t a).passTime t.wait := by
  have hq : ((s.turned t a).passTime t.wait).recQueue = [] := by
    obtain ⟨ls, hst⟩ := still_passTime (s.turned t a) t.wait
    exact (congrArg State.recQueue hst).trans h
  show ((s.turned t a).passTime t.wait).pumpRecord = _
  unfold State.pumpRecord
  rw [hq]

/-- What the beginning of a turn moves, and what it leaves. -/
theorem begin_frame {s : State} (h : s.recQueue = []) (t : Turn) (a : Acting) :
    (s.begin_ t a).act = a ∧ (s.begin_ t a).cyc = s.cyc + s.mayWait t.wait ∧ (s.begin_ t a).mem = s.mem ∧
      (s.begin_ t a).cores = s.cores ∧ (s.begin_ t a).ctxs = s.ctxs := by
  obtain ⟨ls, hst⟩ := still_passTime (s.turned t a) t.wait
  rw [begin_eq_passTime h]
  exact ⟨(congrArg State.act hst :), (congrArg State.cyc hst :), (congrArg State.mem hst :), (congrArg State.cores hst :),
    (congrArg State.ctxs hst :)⟩

/-- A turn in which no cycle passes leaves regions and wires as they are. -/
theorem begin_frame_of_no_wait {s : State} (h : s.recQueue = []) {t : Turn} (hw : s.mayWait t.wait = 0) (a : Acting) :
    (s.begin_ t a).regions = s.regions ∧ (s.begin_ t a).wires = s.wires := by
  rw [begin_eq_passTime h, passTime_of_mayWait_zero (s := s.turned t a) hw]
  exact ⟨rfl, rfl⟩

/-! ## A core's turn -/

/-- A core that executes fetches, unless an event comes before the instruction. -/
theorem coreTurn_fetches {c : Nat} {s : State} (hc : c ≤ Config.sceip) (hrun : s.coreRuns c = true)
    (hin : s.inside c = true ∨ ((s.core c).stopAsked = false ∧ s.eventReady c = none)) : coreTurn c s = coreFetches c s := by
  have hstart : (s.core c).starting.isSome = false := by
    simp only [State.coreRuns, Bool.and_eq_true] at hrun
    simpa using hrun.1.1.1.1.2
  have hstop : ((s.core c).stopAsked && !s.inside c) = false := by
    rcases hin with h | ⟨h, -⟩ <;> simp [h]
  have hev : ((s.eventReady c).isSome && !s.inside c) = false := by
    rcases hin with h | ⟨-, h⟩ <;> simp [h]
  unfold coreTurn
  rw [if_neg (Nat.not_lt.mpr hc), hstart, hstop, hrun, hev]
  rfl

theorem coreFetches_instr {c n : Nat} {i : Instr} {s s1 : State} (h : s.fetch c = (.ok (.instr i n), s1)) :
    coreFetches c s = exec i s1 := by
  unfold coreFetches
  rw [h]

/-! ## The fetch -/

/-- A word in this package's memory that is not poison is fetched. -/
theorem exec_fetchWordM {w : Who} {pc : DWord} {x : Xlat} {s s1 : State} (h : (accessM w .fetch pc 4).exec s = (.ok x, s1))
    (hmt : x.mt = 0) (hl : s1.isLocal x.pa = true) (hp : s1.poisonedAt (lowOf x.pa) 4 = false) :
    (fetchWordM w pc).exec s = (.ok (BitVec.ofNat 32 (s1.fabNat (lowOf x.pa) 4)), s1) := by
  unfold fetchWordM
  rw [exec_bind_ok h]
  simp [exec_bind, readAtM, hmt, hl, hp]

theorem majOf_of_isXForm {w : Word} (hx : isXForm w = true) :
    (majOf w).toNat = 0x30 ∨ (majOf w).toNat = 0x31 ∨ (majOf w).toNat = 0x32 := by
  simp only [isXForm, Bool.and_eq_true, decide_eq_true_eq] at hx
  omega

/-- The first of two words decodes by the X form. -/
theorem decodeSeq_of_isXForm {w : Word} (hx : isXForm w = true) (v : Word) : decodeSeq w v = decodeX w v := by
  unfold decodeSeq
  rcases majOf_of_isXForm hx with h | h | h <;> rw [h] <;> rfl

theorem need_eq_instr {ok : Bool} {d : Decoded} {i : Instr} {n : Nat} :
    Decoded.need ok d = .instr i n ↔ ok = true ∧ d = .instr i n := by
  cases ok <;> simp [Decoded.need]

/-- A first word that is legal with some second word is legal with zero: every field of the second word may be zero. -/
theorem decodeX_zero_of_instr {w v : Word} {i : Instr} {n : Nat} (hx : isXForm w = true) (h : decodeX w v = .instr i n) :
    ∃ j m, decodeX w 0 = .instr j m := by
  unfold decodeX at h ⊢
  rcases majOf_of_isXForm hx with hm | hm | hm
  all_goals
    simp only [hm, need_eq_instr] at h ⊢
    obtain ⟨hw, h⟩ := h
    split at h <;> simp_all [need_eq_instr, two]

/-- The instruction at pc is fetched: a word that is no first of two. -/
theorem fetch_one {s s1 : State} {c : Nat} {w : Word} {i : Instr} (hx : isXForm w = false) (hd : decodeSeq w 0 = .instr i 4)
    (hw : (fetchWordM (whoCore s c) (s.core c).pc).exec s = (.ok w, s1)) : s.fetch c = (.ok (.instr i 4), s1) := by
  unfold State.fetch fetchM
  rw [exec_bind_ok hw]
  simp only [hd, hx, Bool.false_eq_true, if_false, exec_pure]

/-- The instruction at pc is fetched: a word and the one behind it. -/
theorem fetch_two {s s1 s2 : State} {c : Nat} {w v : Word} {i : Instr} (hx : isXForm w = true) (hd : decodeSeq w v = .instr i 8)
    (hw : (fetchWordM (whoCore s c) (s.core c).pc).exec s = (.ok w, s1))
    (hv : (fetchWordM (whoCore s c) ((s.core c).pc + 4)).exec s1 = (.ok v, s2)) : s.fetch c = (.ok (.instr i 8), s2) := by
  obtain ⟨j, m, h0⟩ := decodeX_zero_of_instr hx ((decodeSeq_of_isXForm hx v).symm.trans hd)
  rw [← decodeSeq_of_isXForm hx] at h0
  unfold State.fetch fetchM
  rw [exec_bind_ok hw]
  simp only [h0, hx, if_true]
  rw [exec_bind_ok hv, hd]
  rfl

/-! ## A step -/

theorem step_core {s : State} {c : Nat} (h : s.nextTurn.actor = .core c) : step s = coreTurn c (s.begin_ s.nextTurn (.core c)) := by
  unfold step takeTurn
  simp only [h]

theorem step_element {s : State} {id e : Nat} (h : s.nextTurn.actor = .element id e) :
    step s = elemTurn id e (s.begin_ s.nextTurn (.elem id e 0)) := by
  unfold step takeTurn
  simp only [h]

theorem step_event {s : State} {i : Instr} (h : s.nextTurn.actor = .event i) (hi : encode i = []) :
    step s = exec i (s.begin_ s.nextTurn .nobody) := by
  unfold step takeTurn
  simp only [h, isEvent, hi, List.isEmpty_nil, if_true]

section
variable {s : State} {id e : Nat} {r : Region} (hid : id < 4096) (hr : s.region? id = some r) (he : e < 4 * r.quads)
  (hm : (r.elem e).isMatrix = false)
include hid hr he hm

theorem elemTurn_static (hs : (r.elem e).isStatic = true) : elemTurn id e s = execStaticOperation id e s := by
  unfold elemTurn
  simp only [if_neg (Nat.not_le.mpr hid), hr, if_neg (Nat.not_le.mpr he), hm, hs, Bool.false_eq_true, if_false, if_true]

theorem elemTurn_idle (hs : (r.elem e).isStatic = false) (hn : elemSlot s r e = none) : elemTurn id e s = .next s := by
  unfold elemTurn
  simp only [if_neg (Nat.not_le.mpr hid), hr, if_neg (Nat.not_le.mpr he), hm, hs, hn, Bool.false_eq_true, if_false]

theorem elemTurn_slot {n : Nat} {i : Instr} (hs : (r.elem e).isStatic = false) (hn : elemSlot s r e = some n)
    (hi : elemInstr ((r.elem e).slots.getD n 0) = some i) : elemTurn id e s = exec i { s with act := .elem id e n } := by
  unfold elemTurn
  simp only [if_neg (Nat.not_le.mpr hid), hr, if_neg (Nat.not_le.mpr he), hm, hs, hn, hi, Bool.false_eq_true, if_false]

end

/-- Settles O56: a step is the turn of its actor, whose instruction is the one fetched, selected or named; the beginning of the turn
moves what the passing of its cycles moves. -/
theorem stepRunsDecodedInstruction : Obligations.StepRunsDecodedInstruction := by
  unfold Obligations.StepRunsDecodedInstruction
  refine ⟨?core, ?fetch, ?element, ?event, ?begin_, fun s n => mayWait_eq_self⟩
  case core =>
    rintro s t c i n s1 s2 rfl hact hc rfl hrun hin hf
    rw [step_core hact, coreTurn_fetches hc hrun hin, coreFetches_instr hf]
  case fetch =>
    rintro s c x s1 w hx hmt hl hp rfl
    have hw := exec_fetchWordM hx hmt hl hp
    refine ⟨fun i h1 hd => fetch_one h1 hd hw, ?_⟩
    rintro y s2 v i h2 hy hmt2 hl2 hp2 rfl hd
    exact fetch_two h2 hd hw (exec_fetchWordM hy hmt2 hl2 hp2)
  case element =>
    rintro s t id e r s1 rfl hact rfl hid hr he hm
    rw [step_element hact]
    exact ⟨elemTurn_static hid hr he hm, elemTurn_idle hid hr he hm, fun n i => elemTurn_slot hid hr he hm⟩
  case event =>
    rintro s t i rfl hact hi
    exact step_event hact hi
  case begin_ =>
    intro s t a h
    obtain ⟨hact, hcyc, hmem, hcores, hctxs⟩ := begin_frame h t a
    exact ⟨hact, hcyc, hmem, hcores, hctxs, fun hw => begin_frame_of_no_wait h hw a⟩

end Sys2Proof.Machine
end

section
/-!
PROOFS. Launches: the judgement of a launch (R23, R24, R203, R205), its placements and its end (R206, R341, R344), and the start of a unit
(R76, R79, R342, R343).
-/
namespace Sys2Proof.Machine

theorem exec_tryCatch_ok {α : Type} {m : Mach α} {a : α} {s t : State} (h : m.exec s = (.ok a, t)) (f : Stop → Mach α) :
    (tryCatch m f).exec s = (.ok a, t) := by
  have hrun : m s = (.ok a, t) := h
  simp only [Mach.exec, tryCatch, tryCatchThe, MonadExceptOf.tryCatch, ExceptT.tryCatch, ExceptT.run, ExceptT.mk, StateT.run, bind,
    StateT.bind, hrun]
  rfl

theorem exec_tryCatch_error {α : Type} {m : Mach α} {e : Stop} {s t : State} (h : m.exec s = (.error e, t)) (f : Stop → Mach α) :
    (tryCatch m f).exec s = (f e).exec t := by
  have hrun : m s = (.error e, t) := h
  simp only [Mach.exec, tryCatch, tryCatchThe, MonadExceptOf.tryCatch, ExceptT.tryCatch, ExceptT.run, ExceptT.mk, StateT.run, bind,
    StateT.bind, hrun]

/-! ## The parameter block (R203) -/

section
variable {l : Launch} {s : State}

theorem readLpbM_of_read (h : l.read = true) (s : State) : (readLpbM l).exec s = (.ok l, s) := by
  simp [readLpbM, h]

theorem readLpbM_misaligned (h : l.read = false) (ha : l.lpb.toNat % 64 ≠ 0) :
    (readLpbM l).exec s = (.error (.raise Cause.misaligned l.lpb), s) := by
  simp [readLpbM, h, ha, exec_bind]

/-- An aligned, canonical block is read as eight doublewords. -/
theorem readLpbM_aligned (h : l.read = false) (ha : l.lpb.toNat % 64 = 0) (hc : canonical l.lpb = true) :
    readLpbM l = (loadWordsM (whoLaunch l) l.lpb 8 >>= fun ws => do
      modify (fun s => s.updLaunch l.id (fun _ => lpbFields l ws))
      pure (lpbFields l ws)) := by
  simp [readLpbM, h, ha, hc]

/-- A launch whose block the reading leaves in the state is judged as that one. -/
theorem judgeM_of_readLpbM {m : Launch} {t : State} (h : (readLpbM l).exec s = (.ok m, t)) (hm : m.read = true) :
    (judgeM l).exec s = (judgeM m).exec t := by
  unfold judgeM
  rw [exec_bind_ok h, exec_bind_ok (readLpbM_of_read hm t)]

theorem judgeM_of_readLpbM_error {e : Stop} {t : State} (h : (readLpbM l).exec s = (.error e, t)) :
    (judgeM l).exec s = (.error e, t) := by
  unfold judgeM
  rw [exec_bind_error h]

end

/-! ## The count (R23, R24) -/

/-- The count a launch is judged by: that of its block, or that of its count word, whose page must be versioned. -/
def launchCountM (l : Launch) : Mach Nat :=
  if l.ind then
    tryCatch (countWordM l) (fun e => match e with
      | .raise c a => raiseM (if c = Cause.notVersioned then Cause.launchUnversioned else c) a
      | e => throw e)
  else pure l.count

section
variable {l : Launch} {s t : State}

theorem launchCountM_direct (h : l.ind = false) (s : State) : (launchCountM l).exec s = (.ok l.count, s) := by
  simp [launchCountM, h]

theorem launchCountM_ok {n : Nat} (h : l.ind = true) (hn : (countWordM l).exec s = (.ok n, t)) :
    (launchCountM l).exec s = (.ok n, t) := by
  rw [launchCountM, if_pos h, exec_tryCatch_ok hn]

theorem launchCountM_raise {c : Byte} {a : DWord} (h : l.ind = true) (hc : (countWordM l).exec s = (.error (.raise c a), t)) :
    (launchCountM l).exec s = (.error (.raise (if c = Cause.notVersioned then Cause.launchUnversioned else c) a), t) := by
  rw [launchCountM, if_pos h, exec_tryCatch_error hc, exec_raiseM]

theorem countWordM_misaligned (h : l.countAddr.toNat % 8 ≠ 0) :
    (countWordM l).exec s = (.error (.raise Cause.misaligned l.countAddr), s) := by
  simp [countWordM, h, exec_bind]

theorem countWordM_translate_error {e : Stop} (h : l.countAddr.toNat % 8 = 0)
    (hx : (translateM (whoLaunch l) .vld l.countAddr).exec s = (.error e, t)) : (countWordM l).exec s = (.error e, t) := by
  simp [countWordM, h, exec_bind, hx]

/-- A count word that is translated and that engines may use is read as its home judges it. -/
theorem countWordM_home {x : Xlat} (h : l.countAddr.toNat % 8 = 0)
    (hx : (translateM (whoLaunch l) .vld l.countAddr).exec s = (.ok x, t)) (ht : targetOk .engine x = true) :
    (countWordM l).exec s = (homeVldM (whoLaunch l) (.launch l.id) l.countAddr x l.countVer >>= fun v => do
      if v.2.1 then raiseM Cause.poisonConsumed l.countAddr
      pure v.1.toNat).exec t := by
  simp [countWordM, h, exec_bind, hx, ht]

end

/-! ## The judgement (R205) -/

/-- What follows the count: complete at once, rejected, or accepted with its image. -/
def judgeCountM (l : Launch) (n : Nat) : Mach Launch :=
  if n = 0 then pure { l with count := n }
  else do
    if 2 ^ 24 < n then raiseM Cause.launchRange 0
    if l.span = 0 || l.span = 7 || l.quads = 0 || 1024 < l.quads || spanQuads l.span < l.quads then raiseM Cause.launchSpan 0
    let im ← readImageM (whoLaunch l) l.image l.quads
    match (im.region l.spanFirst l.ctx l.image false).wordsFault with
    | some c => raiseM c l.image
    | none => pure { l with count := n, img := some im }

section
variable {l : Launch} {s t : State} {n : Nat}

/-- A launch whose block is read is judged by its count. -/
theorem judgeM_of_read (h : l.read = true) : (judgeM l).exec s = (launchCountM l >>= judgeCountM l).exec s := by
  unfold judgeM
  rw [exec_bind_ok (readLpbM_of_read h s)]
  by_cases hi : l.ind = true
  · simp only [launchCountM, if_pos hi] <;> rfl
  · simp only [launchCountM, if_neg hi] <;> rfl

theorem judgeM_of_count (h : l.read = true) (hn : (launchCountM l).exec s = (.ok n, t)) :
    (judgeM l).exec s = (judgeCountM l n).exec t := by
  rw [judgeM_of_read h, exec_bind_ok hn]

theorem judgeM_of_count_error {e : Stop} (h : l.read = true) (he : (launchCountM l).exec s = (.error e, t)) :
    (judgeM l).exec s = (.error e, t) := by
  rw [judgeM_of_read h, exec_bind_error he]

theorem judgeCountM_zero (l : Launch) (t : State) : (judgeCountM l 0).exec t = (.ok { l with count := 0 }, t) := rfl

theorem judgeCountM_large (hn : 2 ^ 24 < n) : (judgeCountM l n).exec t = (.error (.raise Cause.launchRange 0), t) := by
  rw [judgeCountM, if_neg (by omega)]
  simp only [if_pos hn]
  exact exec_bind_error (exec_raiseM ..) _

/-- Where R205 rejects the span or the number of quads. -/
def Launch.badSpan (l : Launch) : Prop := l.span = 0 ∨ l.span = 7 ∨ l.quads = 0 ∨ 1024 < l.quads ∨ spanQuads l.span < l.quads

theorem judgeCountM_badSpan (h0 : n ≠ 0) (hn : n ≤ 2 ^ 24) (hs : l.badSpan) :
    (judgeCountM l n).exec t = (.error (.raise Cause.launchSpan 0), t) := by
  rw [judgeCountM, if_neg h0]
  unfold Launch.badSpan at hs
  simp only [if_neg (Nat.not_lt.mpr hn), Bool.or_eq_true, decide_eq_true_eq, or_assoc, if_pos hs]
  exact exec_bind_error (exec_raiseM ..) _

/-- A launch in range is judged by its image. -/
theorem judgeCountM_image (h0 : n ≠ 0) (hn : n ≤ 2 ^ 24) (hs : ¬ l.badSpan) :
    judgeCountM l n = (readImageM (whoLaunch l) l.image l.quads >>= fun im =>
      match (im.region l.spanFirst l.ctx l.image false).wordsFault with
      | some c => raiseM c l.image
      | none => pure { l with count := n, img := some im }) := by
  rw [judgeCountM, if_neg h0]
  unfold Launch.badSpan at hs
  simp only [if_neg (Nat.not_lt.mpr hn), Bool.or_eq_true, decide_eq_true_eq, or_assoc, if_neg hs]

end

/-! ## Placements and the end of a launch (R206, R341, R344) -/

theorem live_eq_true {p : Placement} : p.live = true ↔ p.st ≠ .gone := by simp [Placement.live]

section
variable {s : State} {l : Launch} (h : Accepted s l)
include h

theorem exec_placementTake (hn : l.next < l.count) (hp : (l.placements.filter Placement.live).length < l.places) {id : Nat} {own : Bool}
    (hc : s.nextCandidate l = some (id, own)) : exec (.placementTake l.id) s = .next
      (let s1 := s.updLaunch l.id (fun m => { m with
        placements := insertPlace (m.placements.filter Placement.live) ⟨id, own, if own then .loading else .idle⟩ })
      if own then { s1 with
        nextId := s.nextId + 1
        cfgops := s.cfgops ++ [⟨s.nextId, .launchLoad, l.core, 0, l.ctx, l.image, placeWord id l.quads, l.id, .queued, l.img, false⟩] }
      else s1) := by
  show execPlacementTake l.id s = _
  have hgo : (!l.accepted || decide (l.count ≤ l.next) || decide (l.places ≤ (l.placements.filter Placement.live).length)) = false := by
    simp [h.accepted, Nat.not_le.mpr hn, Nat.not_le.mpr hp]
  unfold execPlacementTake
  simp only [h.found, hgo, hc, Bool.false_eq_true, if_false]
  cases own <;> rfl

/-- The end of a launch: each stage in the order of R206. -/
theorem exec_launchCompletion : exec (.launchCompletion l.id) s = .next
    (if (∀ p ∈ l.placements, p.st = .gone) ∧ ∀ id ∈ l.candidates, l.dropped.contains id = true then s.endLaunch l true
    else if l.completed + l.abandoned ≠ l.count then s
    else if ∃ p ∈ l.placements, p.own = true ∧ p.st = .idle then unloadOps l l.placements s
    else if ∃ p ∈ l.placements, p.own = true ∧ p.st ≠ .gone then s
    else s.endLaunch l false) := by
  show execLaunchCompletion l.id s = _
  unfold execLaunchCompletion
  simp only [h.found, h.accepted, Bool.not_true, Bool.false_eq_true, if_false, Bool.and_eq_true, Bool.not_eq_true', List.any_eq_false,
    live_eq_true, ne_eq, Decidable.not_not, List.all_eq_true, bne_iff_ne, List.any_eq_true, beq_iff_eq]
  split_ifs <;> rfl

/-- A unit starts on the placement that was chosen, where nothing holds its packets back. -/
theorem exec_unitStart {k : Nat} {p : Placement} {r : Region} (hn : l.next < l.count) (hk : s.choosePlace l = some k)
    (hp : (s.heldPlaces l)[k]? = some p) (hr : s.region? p.region = some r) (htok : r.token = none) (hunit : r.unit = none)
    (hlive : s.regionLive r = true) (hroom : r.startRoom s.cyc = true)
    (hlog : r.wins = [] ∨ r.log.length + r.starters.length < 2048) :
    exec (.unitStart l.id) s = .next ((s.setRegion (r.startUnit s.cyc l.id l.next l.arg)).updLaunch l.id
      (fun m => runPlace p.region l.next s.cyc m k)) := by
  show execUnitStart l.id s = _
  have hgo : (r.token.isSome || r.unit.isSome || !s.regionLive r || !r.startRoom s.cyc
      || (!r.wins.isEmpty && !decide (r.log.length + r.starters.length < 2048))) = false := by
    rcases hlog with hw | hw <;> simp [htok, hunit, hlive, hroom, hw]
  unfold execUnitStart
  simp only [h.found, h.accepted, Bool.not_true, Bool.false_or, decide_eq_true_eq, if_neg (Nat.not_le.mpr hn), hk, hp, hr, hgo,
    Bool.false_eq_true, if_false]

end

/-- A unit that is over frees its placement. -/
theorem exec_unitCompletion {s : State} {r : Region} {u : UnitRun} (hr : s.region? r.id = some r) (hu : r.unit = some u) :
    exec (.unitCompletion r.id) s = .next (if r.unitOver u s.cyc = true
      then (s.setRegion { r with unit := none }).updLaunch u.launch (idlePlace u.ident) else s) := by
  show execUnitCompletion r.id s = _
  unfold execUnitCompletion
  simp only [hr, hu]
  split <;> rfl

/-- A launch that is judged: accepted, complete at once, or rejected with its cause. -/
theorem exec_launchJudgement {s : State} {l : Launch} (hl : s.launch? l.id = some l) (ha : l.accepted = false) (reply : Reply) :
    (∀ l1 s1, (judgeM l).exec s = (.ok l1, s1) → exec (.launchJudgement l.id reply) s = .next (if l1.count = 0
      then ((((s1.endReads (.launch l.id)).putResult l.core l.pend 0 false).launchSignal l1 false).dropLaunch l.id)
      else ((s1.endReads (.launch l.id)).updLaunch l.id (fun _ => { l1 with
        accepted := true, places := (s1.endReads (.launch l.id)).placeCount l1 })).putResult l.core l.pend 0 false)) ∧
    (∀ cause addr s1, (judgeM l).exec s = (.error (.raise cause addr), s1) → exec (.launchJudgement l.id reply) s = .next
      (((s1.putResult l.core l.pend (cause.zeroExtend 64) false).dropLaunch l.id).coreError l.core l.ctx cause addr l.pc)) ∧
    (∀ e s1, (judgeM l).exec s = (.error e, s1) → (∀ cause addr, e ≠ .raise cause addr) →
      exec (.launchJudgement l.id reply) s = .next s1) := by
  have hexec : exec (.launchJudgement l.id reply) s = execLaunchJudgement l.id reply s := rfl
  rw [hexec]
  unfold execLaunchJudgement
  refine ⟨fun l1 s1 hj => ?_, fun cause addr s1 hj => ?_, fun e s1 hj he => ?_⟩
  · simp only [hl, ha, hj, Bool.false_eq_true, if_false]
    split <;> rfl
  · simp only [hl, ha, hj, Bool.false_eq_true, if_false]
  · cases e with
    | raise cause addr => exact absurd rfl (he cause addr)
    | wait => simp only [hl, ha, hj, Bool.false_eq_true, if_false]
    | isolate addr => simp only [hl, ha, hj, Bool.false_eq_true, if_false]

/-! ## The start of a unit (R76, R79) -/

section
variable (r : Region) (w : Arrival)

theorem closeWindow_elems : r.closeWindow.elems = r.elems := by unfold Region.closeWindow; split <;> rfl
theorem closeWindow_sweep : r.closeWindow.sweep = r.sweep := by unfold Region.closeWindow; split <;> rfl
theorem closeWindow_startAt : r.closeWindow.startAt = r.startAt := by unfold Region.closeWindow; split <;> rfl
theorem closeWindow_id : r.closeWindow.id = r.id := by unfold Region.closeWindow; split <;> rfl
theorem closeWindow_ctx : r.closeWindow.ctx = r.ctx := by unfold Region.closeWindow; split <;> rfl

/-- Logging an arrival touches the log and the windows alone. -/
theorem logArrival_cases : ∃ l : List LogEntry, r.logArrival w = { r with log := l } ∨ r.logArrival w = ({ r with log := l } : Region).closeWindow := by
  unfold Region.logArrival
  split
  · exact ⟨r.log, .inl rfl⟩
  · exact ⟨r.log ++ [⟨r.journal.length, w⟩], by dsimp only; split <;> simp⟩

@[simp] theorem logArrival_elem (e : Nat) : (r.logArrival w).elem e = r.elem e := by
  obtain ⟨l, h | h⟩ := logArrival_cases r w <;> simp only [h, Region.elem, closeWindow_elems]
@[simp] theorem logArrival_swept (tag : Byte) : (r.logArrival w).swept tag = r.swept tag := by
  obtain ⟨l, h | h⟩ := logArrival_cases r w <;> simp only [h, Region.swept, Region.exits, closeWindow_sweep]
@[simp] theorem logArrival_startAt : (r.logArrival w).startAt = r.startAt := by
  obtain ⟨l, h | h⟩ := logArrival_cases r w <;> simp only [h, closeWindow_startAt]
@[simp] theorem logArrival_loc (e : Nat) : (r.logArrival w).loc e = r.loc e := by
  obtain ⟨l, h | h⟩ := logArrival_cases r w <;> simp only [h, Region.loc, closeWindow_id]
@[simp] theorem logArrival_ctx : (r.logArrival w).ctx = r.ctx := by
  obtain ⟨l, h | h⟩ := logArrival_cases r w <;> simp only [h, closeWindow_ctx]

end

@[simp] theorem box_setBox_self (x : Elem) {k : Nat} (hk : k < 4) (l : List InboxEntry) : (x.setBox k l).box k = l := by
  simp [Elem.setBox, Elem.box, Vector.getD, hk]

theorem find_map_values {α : Type} (f : α → α) (m : AMap α) (k : Nat) :
    AMap.find? (m.map (fun p => (p.1, f p.2))) k = (AMap.find? m k).map f := by
  induction m with
  | nil => rfl
  | cons p t ih =>
    simp only [List.map_cons, AMap.find?]
    split
    · rfl
    · exact ih

/-- An element that the region holds takes its start values. -/
theorem elem_startElems {r : Region} {e : Nat} {y : Elem} (hy : AMap.find? r.elems e = some y) (now : Nat) :
    (r.startElems now).elem e = (r.elem e).startUnit := by
  simp only [Region.startElems, Region.elem, AMap.getD, find_map_values, hy, Option.map_some]

/-- An element whose k3 inbox has taken its start packet. -/
def Elem.withStart (x : Elem) (p : Packet) (now : Nat) : Elem := x.setBox 3 (x.box 3 ++ [⟨p, 0, now⟩])

section
variable {now ident : Nat} {arg : DWord} {r : Region}

/-- A start packet enters where no sweep is in progress. -/
theorem putPacket_start {e : Nat} {p : Packet} (h : r.swept p.tag = false) :
    r.putPacket now e 3 p = (r.updElem e (fun x => x.withStart p now)).logArrival (.inbox e 3 p) := by
  rw [Region.putPacket, h]
  rfl

/-- Every element of the list takes its own start packet; the others stay as they are. -/
theorem putStarts_elem {l : List Nat} (hl : l.Nodup) (h : r.swept 0 = false) (e : Nat) :
    ((putStarts now ident arg l r).elem e = if e ∈ l then (r.elem e).withStart (startPacket ident (r.loc e) (e / 4) r.ctx arg) now
      else r.elem e) ∧ (putStarts now ident arg l r).startAt = r.startAt := by
  induction l generalizing r with
  | nil => exact ⟨rfl, rfl⟩
  | cons a l ih =>
    obtain ⟨ha, hl⟩ := List.nodup_cons.mp hl
    have hput := putPacket_start (now := now) (e := a) (p := startPacket ident (r.loc a) (a / 4) r.ctx arg) h
    obtain ⟨helem, hat⟩ := ih (r := r.putPacket now a 3 (startPacket ident (r.loc a) (a / 4) r.ctx arg)) hl (by
      rw [hput, logArrival_swept]
      exact h)
    rw [putStarts, helem, hat, hput]
    simp only [logArrival_elem, logArrival_loc, logArrival_ctx, logArrival_startAt]
    refine ⟨?_, rfl⟩
    rcases eq_or_ne e a with rfl | hne
    · simp only [ha, if_false, List.mem_cons_self, if_true, elem_updElem_self]
    · simp only [elem_updElem_ne _ _ (Ne.symm hne), List.mem_cons, hne, false_or]
      rfl

theorem mem_starters {e : Nat} : e ∈ r.starters ↔ e < 4 * r.quads ∧ (r.elem e).start = true := by
  simp [Region.starters]

theorem nodup_starters (r : Region) : r.starters.Nodup := List.nodup_range.filter _

/-- Where no sweep is in progress, a unit starts at every element the region holds, its packet enters the START elements, and its
permissions show from the next cycle. -/
theorem startUnit_spec (hs : r.sweep = none) {e : Nat} (he : e < 4 * r.quads) {y : Elem} (hy : AMap.find? r.elems e = some y)
    (launch : Nat) : (r.startUnit now launch ident arg).elem e = (if (r.elem e).start = true
      then (r.elem e).startUnit.withStart (startPacket ident (r.loc e) (e / 4) r.ctx arg) now else (r.elem e).startUnit) ∧
      (r.startUnit now launch ident arg).startAt = now + 1 := by
  have hsw : ((r.startElems now).logArrival .unit).swept 0 = false := by
    rw [logArrival_swept]
    simp [Region.swept, Region.exits, Region.startElems, hs]
  obtain ⟨helem, hat⟩ := putStarts_elem (now := now) (ident := ident) (arg := arg) (nodup_starters r) hsw e
  rw [logArrival_startAt] at hat
  rw [logArrival_elem, elem_startElems hy, logArrival_loc, logArrival_ctx] at helem
  simp only [mem_starters, he, true_and] at helem
  exact ⟨helem, hat⟩

end

/-! ## The statement -/

theorem withStart_box (x : Elem) (p : Packet) (now : Nat) : (x.withStart p now).box 3 = x.box 3 ++ [⟨p, 0, now⟩] :=
  box_setBox_self x (by decide) _

/-- Settles O32: the judgement by its stages, each event of a launch where its condition holds, and the start packets element by
element. -/
theorem launchesRunAndStartUnits : Obligations.LaunchesRunAndStartUnits := by
  unfold Obligations.LaunchesRunAndStartUnits
  refine ⟨⟨?block, ?fields, ?direct, ?indirect⟩, ⟨?judged, ?taken, ?unitFin, ?unitNoStart, ?ended, ?unloads, ?unloading, ?failed, ?running⟩,
    ⟨?started, ?start⟩⟩
  case block =>
    intro l s hr
    refine ⟨fun ha => judgeM_of_readLpbM_error (readLpbM_misaligned hr ha), fun ha hc => ⟨fun cause addr s1 h => ?_, fun ws s1 h => ?_⟩⟩
    · refine judgeM_of_readLpbM_error ?_
      rw [readLpbM_aligned hr ha hc, exec_bind_error h]
    · refine judgeM_of_readLpbM ?_ rfl
      rw [readLpbM_aligned hr ha hc, exec_bind_ok h]
      rfl
  case fields =>
    rintro l ws m rfl
    simp [lpbFields, bits]
  case direct =>
    intro l s hr hi
    have hcount := launchCountM_direct hi s
    refine ⟨fun h0 => ?_, fun hn => ?_, fun h1 hn => ⟨fun hs => ?_, fun h1s h7 hq hq2 hqs => ?_⟩⟩
    · rw [judgeM_of_count hr hcount, h0, judgeCountM_zero, ← h0]
    · rw [judgeM_of_count hr hcount, judgeCountM_large hn]
    · rw [judgeM_of_count hr hcount, judgeCountM_badSpan (Nat.ne_of_gt h1) hn hs]
    · have hs : ¬ l.badSpan := by
        unfold Launch.badSpan
        omega
      rw [judgeM_of_count hr hcount, judgeCountM_image (Nat.ne_of_gt h1) hn hs, exec_bind]
      rcases (readImageM (whoLaunch l) l.image l.quads).exec s with ⟨e | im, s1⟩
      · rfl
      · dsimp only
        cases (im.region l.spanFirst l.ctx l.image false).wordsFault <;> rfl
  case indirect =>
    intro l s hr hi
    refine ⟨fun ha => ?_, fun ha => ⟨fun cause addr s1 hx => ?_, fun x s1 hx ht => ⟨fun cause addr s2 hv hc => ?_, fun v p n s2 hv => ?_⟩⟩⟩
    · exact judgeM_of_count_error hr (launchCountM_raise hi (countWordM_misaligned ha))
    · exact judgeM_of_count_error hr (launchCountM_raise hi (countWordM_translate_error ha hx))
    · have hcount := launchCountM_raise hi ((countWordM_home ha hx ht).trans (exec_bind_error hv _))
      rw [if_neg hc] at hcount
      exact judgeM_of_count_error hr hcount
    · have hword := (countWordM_home ha hx ht).trans (exec_bind_ok hv _)
      refine ⟨?_, ?_⟩
      · rintro rfl
        exact judgeM_of_count_error hr (launchCountM_raise hi hword)
      · rintro rfl
        have hcount := launchCountM_ok hi hword
        refine ⟨?_, fun hn => ?_⟩
        · rintro rfl
          exact judgeM_of_count hr hcount
        · rw [judgeM_of_count hr hcount, judgeCountM_large hn]
  case judged =>
    intro s l reply hl ha
    obtain ⟨hok, hraise, hstop⟩ := exec_launchJudgement hl ha reply
    rcases hj : (judgeM l).exec s with ⟨(⟨cause, addr⟩ | _ | a) | l1, s1⟩
    · exact hraise cause addr s1 hj
    · exact hstop _ s1 hj (fun _ _ => nofun)
    · exact hstop _ s1 hj (fun _ _ => nofun)
    · exact hok l1 s1 hj
  case taken =>
    intro s l id h hn hp
    exact ⟨exec_placementTake h hn hp, exec_placementTake h hn hp⟩
  case unitFin =>
    intro s r u n hr hu hf
    rw [exec_unitCompletion hr hu]
    cases hun : r.uncommitted n <;> simp [Region.unitOver, hf, hun]
  case unitNoStart =>
    intro s r u hr hu hf hst hlt
    rw [exec_unitCompletion hr hu, if_pos]
    simp only [Region.unitOver, hf, hst, List.isEmpty_nil, Bool.true_and, decide_eq_true_eq]
    exact hlt
  case ended =>
    intro s l h hc hown ⟨p, hp, hlive⟩
    rw [exec_launchCompletion h, if_neg (fun hall => hlive (hall.1 p hp)), if_neg (not_not.mpr hc), if_neg, if_neg]
    · rintro ⟨q, hq, ho, hg⟩
      exact hg (hown q hq ho)
    · rintro ⟨q, hq, ho, hg⟩
      rw [hown q hq ho] at hg
      cases hg
  case unloads =>
    intro s l h hc hown
    obtain ⟨p, hp, ho, hidle⟩ := hown
    rw [exec_launchCompletion h, if_neg, if_neg (not_not.mpr hc), if_pos ⟨p, hp, ho, hidle⟩]
    rintro ⟨hall, -⟩
    rw [hall p hp] at hidle
    cases hidle
  case unloading =>
    intro s l h hc ⟨p, hp, ho, hlive⟩ hidle
    rw [exec_launchCompletion h, if_neg (fun hall => hlive (hall.1 p hp)), if_neg (not_not.mpr hc), if_neg, if_pos ⟨p, hp, ho, hlive⟩]
    rintro ⟨q, hq, hoq, hi⟩
    exact hidle q hq hoq hi
  case failed =>
    intro s l h hgone hdrop
    rw [exec_launchCompletion h, if_pos ⟨hgone, hdrop⟩]
  case running =>
    intro s l h hlt ⟨p, hp, hlive⟩
    rw [exec_launchCompletion h, if_neg (fun hall => hlive (hall.1 p hp)), if_pos (Nat.ne_of_lt hlt)]
  case started =>
    intro s l k p r h hn hk hp hr htok hunit hlive hroom hlog
    exact exec_unitStart h hn hk hp hr htok hunit hlive hroom hlog
  case start =>
    rintro r now launch ident arg q rfl hs
    refine ⟨rfl, fun e he ⟨y, hy⟩ => ?_⟩
    obtain ⟨helem, hat⟩ := startUnit_spec (now := now) (ident := ident) (arg := arg) hs he hy launch
    rw [helem]
    refine ⟨hat, ?_⟩
    split
    · exact ⟨withStart_box _ _ _, rfl⟩
    · exact ⟨(List.append_nil _).symm, rfl⟩

end Sys2Proof.Machine
end

section
/-!
PROOFS. What a translation and what the record of a fault may change (R303, R366).
-/
namespace Sys2Proof.Machine

/-- The state with the parts that a fault record may change taken from another: `OnlyRecorded s t` is `t.recordedAs s = s`. -/
def State.recordedAs (t s : State) : State :=
  { t with mem := s.mem, poison := s.poison, frames := s.frames, modes := s.modes, hostLines := s.hostLines, tlb := s.tlb
           sentMsgs := s.sentMsgs, msixPend := s.msixPend, evlog := s.evlog, evlprod := s.evlprod, remoteReads := s.remoteReads
           reqs := s.reqs, nextId := s.nextId, aports := s.aports, recQueue := s.recQueue }

theorem onlyRecorded_iff {s t : State} : OnlyRecorded s t ↔ t.recordedAs s = s := Iff.rfl

theorem OnlyRecorded.refl (s : State) : OnlyRecorded s s := rfl

theorem OnlyRecorded.trans {s t u : State} (h1 : OnlyRecorded s t) (h2 : OnlyRecorded t u) : OnlyRecorded s u := by
  rw [onlyRecorded_iff] at *
  calc u.recordedAs s = (u.recordedAs t).recordedAs s := rfl
    _ = t.recordedAs s := by rw [h2]
    _ = s := h1

theorem OnlyRecorded.cores {s t : State} (h : OnlyRecorded s t) : t.cores = s.cores := by
  have h := congrArg State.cores (onlyRecorded_iff.1 h)
  exact h

theorem OnlyRecorded.regions {s t : State} (h : OnlyRecorded s t) : t.regions = s.regions := by
  have h := congrArg State.regions (onlyRecorded_iff.1 h)
  exact h

theorem OnlyRecorded.coreCtx {s t : State} (h : OnlyRecorded s t) (c : Nat) : t.coreCtx c = s.coreCtx c := by
  unfold State.coreCtx State.core; rw [h.cores]

theorem onlyRecorded_writeInBlock (s : State) (pa : Nat) (bs : List Byte) (comp : Bool) :
    OnlyRecorded s (s.writeInBlock pa bs comp) := by
  unfold State.writeInBlock
  dsimp only
  split
  · exact .refl s
  · split <;> rfl

theorem onlyRecorded_fabWrite (s : State) (pa : Nat) (bs : List Byte) : OnlyRecorded s (s.fabWrite pa bs) :=
  ((onlyRecorded_writeInBlock ..).trans (onlyRecorded_writeInBlock ..)).trans rfl

theorem onlyRecorded_tlbAdd (s : State) (bay ctx : Nat) (va leaf : DWord) : OnlyRecorded s (s.tlbAdd bay ctx va leaf) := rfl

theorem onlyRecorded_tlbDrop (s : State) (bay ctx : Nat) (va : DWord) : OnlyRecorded s (s.tlbDrop bay ctx va) := rfl

end Sys2Proof.Machine
end

section
/-!
PROOFS. Translation: the walk, the leaf and the tile (R298 to R306).
-/
namespace Sys2Proof.Machine

/-! ## The walk -/

theorem walk_without_root {s : State} {ctx : Nat} (va : DWord) (h : (s.ctxOf ctx).root = none) :
    s.walk ctx va = .bad Cause.pageFault va := by unfold State.walk; rw [h]

theorem walk_from_root {s : State} {ctx root : Nat} (va : DWord) (h : (s.ctxOf ctx).root = some root) :
    s.walk ctx va = s.walkFrom va 5 root := by unfold State.walk; rw [h]

/-- The entry that the walk reads at a level of a node. -/
def entryAt (va : DWord) (level node : Nat) : Nat := node + 8 * vaIndex va level

variable {s : State} {va : DWord} {level node : Nat}

theorem walkFrom_of_poison (h : s.poisonedAt (entryAt va level node) 8 = true) :
    s.walkFrom va level node = .bad Cause.poisonConsumed (BitVec.ofNat 64 (entryAt va level node)) := by
  unfold entryAt at *
  cases level with
  | zero => simp only [State.walkFrom, h, if_true]
  | succ l => simp only [State.walkFrom, h, if_true]

theorem walkFrom_of_invalid (hp : s.poisonedAt (entryAt va level node) 8 = false)
    (h : bit (s.fabNat (entryAt va level node) 8) 0 = false) : s.walkFrom va level node = .bad Cause.pageFault va := by
  unfold entryAt at *
  cases level with
  | zero => simp [State.walkFrom, hp, h]
  | succ l => simp [State.walkFrom, hp, h]

theorem walkFrom_of_leaf (hp : s.poisonedAt (entryAt va level node) 8 = false)
    (h0 : bit (s.fabNat (entryAt va level node) 8) 0 = true) (h1 : bit (s.fabNat (entryAt va level node) 8) 1 = true) :
    s.walkFrom va level node = s.walkLeaf va level node (vaIndex va level) (s.fabNat (entryAt va level node) 8) := by
  unfold entryAt at *
  cases level with
  | zero => simp [State.walkFrom, hp, h0, h1]
  | succ l => simp [State.walkFrom, hp, h0, h1]

theorem walkFrom_of_badPointer (hp : s.poisonedAt (entryAt va level node) 8 = false)
    (h0 : bit (s.fabNat (entryAt va level node) 8) 0 = true) (h1 : bit (s.fabNat (entryAt va level node) 8) 1 = false)
    (hb : level = 0 ∨ s.badPointer (s.fabNat (entryAt va level node) 8) = true) :
    s.walkFrom va level node = .bad Cause.ptFormat va := by
  unfold entryAt at *
  cases level with
  | zero => simp [State.walkFrom, hp, h0, h1]
  | succ l =>
    have hb := hb.resolve_left (Nat.succ_ne_zero l)
    simp [State.walkFrom, hp, h0, h1, hb]

theorem walkFrom_of_pointer {l : Nat} (hp : s.poisonedAt (entryAt va (l + 1) node) 8 = false)
    (h0 : bit (s.fabNat (entryAt va (l + 1) node) 8) 0 = true) (h1 : bit (s.fabNat (entryAt va (l + 1) node) 8) 1 = false)
    (hb : s.badPointer (s.fabNat (entryAt va (l + 1) node) 8) = false) :
    s.walkFrom va (l + 1) node = s.walkFrom va l (lowOf (bits (s.fabNat (entryAt va (l + 1) node) 8) 51 11 * 2048)) := by
  unfold entryAt at *
  simp [State.walkFrom, hp, h0, h1, hb]

variable {i e : Nat}

theorem walkLeaf_of_level (h : 3 < level ∨ bits e 5 2 / 4 ≠ level) : s.walkLeaf va level node i e = .bad Cause.ptFormat va := by
  have hc : (3 < level || bits e 5 2 / 4 != level) = true := by simpa using h
  unfold State.walkLeaf
  rw [if_pos hc]

/-- The first of the entries that hold the leaf's page (R302). -/
def firstEntry (node i e : Nat) : Nat := node + 8 * (i - i % 4 ^ (bits e 5 2 % 4))

theorem walkLeaf_of_poison (hl : level ≤ 3) (hb : bits e 5 2 / 4 = level) (h : s.poisonedAt (firstEntry node i e) 8 = true) :
    s.walkLeaf va level node i e = .bad Cause.poisonConsumed (BitVec.ofNat 64 (firstEntry node i e)) := by
  unfold firstEntry at *
  have hc : ¬ (3 < level || bits e 5 2 / 4 != level) = true := by simp [hb]; omega
  unfold State.walkLeaf
  rw [if_neg hc]
  simp only [h, if_true]

/-- A leaf whose first entry is clean: what the entry itself must be (R302, R303). -/
theorem walkLeaf_of_clean (hl : level ≤ 3) (hb : bits e 5 2 / 4 = level) (hp : s.poisonedAt (firstEntry node i e) 8 = false) :
    s.walkLeaf va level node i e =
      if !bit (s.fabNat (firstEntry node i e) 8) 0 || !bit (s.fabNat (firstEntry node i e) 8) 1
          || bits (s.fabNat (firstEntry node i e) 8) 5 2 != bits e 5 2 then .bad Cause.ptFormat va
      else if s.badLeaf (BitVec.ofNat 64 (s.fabNat (firstEntry node i e) 8)) then .bad Cause.ptFormat va
      else .leaf (firstEntry node i e) (BitVec.ofNat 64 (s.fabNat (firstEntry node i e) 8)) := by
  have hc : ¬ (3 < level || bits e 5 2 / 4 != level) = true := by simp [hb]; omega
  unfold firstEntry at *
  unfold State.walkLeaf
  rw [if_neg hc]
  dsimp only
  rw [hp, if_neg Bool.false_ne_true]

theorem walkLeaf_of_format (hl : level ≤ 3) (hb : bits e 5 2 / 4 = level) (hp : s.poisonedAt (firstEntry node i e) 8 = false)
    {e0 : Nat} (he : e0 = s.fabNat (firstEntry node i e) 8)
    (h : bit e0 0 = false ∨ bit e0 1 = false ∨ bits e0 5 2 ≠ bits e 5 2 ∨ s.badLeaf (BitVec.ofNat 64 e0) = true) :
    s.walkLeaf va level node i e = .bad Cause.ptFormat va := by
  rw [walkLeaf_of_clean hl hb hp, ← he]
  by_cases hf : (!bit e0 0 || !bit e0 1 || bits e0 5 2 != bits e 5 2) = true
  · rw [if_pos hf]
  · rw [if_neg hf, if_pos]
    simp only [Bool.or_eq_true, Bool.not_eq_true', bne_iff_ne, not_or] at hf
    tauto

theorem walkLeaf_of_good (hl : level ≤ 3) (hb : bits e 5 2 / 4 = level) (hp : s.poisonedAt (firstEntry node i e) 8 = false)
    {e0 : Nat} (he : e0 = s.fabNat (firstEntry node i e) 8) (h0 : bit e0 0 = true) (h1 : bit e0 1 = true)
    (h2 : bits e0 5 2 = bits e 5 2) (h3 : s.badLeaf (BitVec.ofNat 64 e0) = false) :
    s.walkLeaf va level node i e = .leaf (firstEntry node i e) (BitVec.ofNat 64 e0) := by
  rw [walkLeaf_of_clean hl hb hp, ← he]
  simp [h0, h1, h2, h3]

end Sys2Proof.Machine
end

section
/-!
PROOFS. Translation of an access and its checks (R35, R144, R173, R283, R284, R303 to R305).
-/
namespace Sys2Proof.Machine

/-! ## Leaves -/

/-- Setting A (bit 10) of a leaf changes none of its other fields. -/
theorem bits_setA (x hi lo : Nat) (h : hi < 10 ∨ 10 < lo) : bits (x ||| 0x400) hi lo = bits x hi lo := by
  unfold bits
  apply Nat.eq_of_testBit_eq
  intro i
  rw [Nat.testBit_mod_two_pow, Nat.testBit_mod_two_pow, Nat.testBit_div_two_pow, Nat.testBit_div_two_pow, Nat.testBit_or,
    show (0x400 : Nat) = 2 ^ 10 from rfl, Nat.testBit_two_pow]
  by_cases hi1 : i < hi + 1 - lo
  · have : 10 ≠ i + lo := by omega
    simp [this]
  · simp [hi1]

theorem leafTarget_setA (quad : Nat) (leaf va : DWord) : leafTarget quad (leaf ||| 0x400) va = leafTarget quad leaf va := by
  have hn : (leaf ||| 0x400 : DWord).toNat = leaf.toNat ||| 0x400 := by rw [BitVec.toNat_or]; rfl
  have h9 : (leaf ||| 0x400 : DWord).getLsbD 9 = leaf.getLsbD 9 := by simp
  unfold leafTarget leafPa pageBytes leafSize leafMt
  rw [hn, bits_setA _ _ _ (by omega), bits_setA _ _ _ (by omega), bits_setA _ _ _ (by omega), h9]

theorem badPointer_iff (s : State) (e : Nat) : s.badPointer e = true ↔
    bits e 63 52 ≠ 0 ∨ bits e 10 2 ≠ 0 ∨ ¬ (s.isLocal (bits e 51 11 * 2048) = true ∧ isNormal (lowOf (bits e 51 11 * 2048)) = true) := by
  unfold State.badPointer
  simp only [Bool.or_eq_true, bne_iff_ne, Bool.not_eq_true', or_assoc, not_and_or, Bool.not_eq_true]

/-! ## Filling a translation -/

/-- The state after the walk set A of the leaf that it found (R303, R305). -/
def State.leafSeen (s : State) (pa0 : Nat) (leaf : DWord) : State :=
  if leaf.getLsbD 10 = true then s else s.fabWriteNat pa0 8 (leaf.toNat ||| 0x400)

variable {s : State} {w : Who} {need : Need} {va : DWord}

theorem exec_fillM_bad {c : Byte} {a : DWord} (h : s.walk w.ctx va = .bad c a) :
    (fillM w need va).exec s = (.error (.raise c a), s) := by
  unfold fillM
  rw [exec_bind, exec_get]
  simp only [h, exec_raiseM]

/-- What the fill does once the walk has found a leaf: A first, then the check, then the tile's entry. -/
theorem exec_fillM_leaf {pa0 : Nat} {leaf : DWord} (h : s.walk w.ctx va = .leaf pa0 leaf) :
    (fillM w need va).exec s =
      if leaf.getLsbD 10 = false ∧ s.writeHeld pa0 8 false = true then (.error .wait, s)
      else (((checkPerm (leaf ||| 0x400) need).elim (.ok (leaf ||| 0x400)) (fun c => .error (.raise c va)) : Except Stop DWord),
        (checkPerm (leaf ||| 0x400) need).elim ((s.leafSeen pa0 leaf).tlbAdd w.bay w.ctx va (leaf ||| 0x400))
          (fun _ => s.leafSeen pa0 leaf)) := by
  unfold fillM State.leafSeen
  rw [exec_bind, exec_get]
  simp only [h]
  cases ha : leaf.getLsbD 10 <;> cases hh : s.writeHeld pa0 8 false <;>
    cases hc : checkPerm (leaf ||| 0x400) need <;> simp [exec_bind, -bind_pure_comp]

theorem onlyRecorded_leafSeen (s : State) (pa0 : Nat) (leaf : DWord) : OnlyRecorded s (s.leafSeen pa0 leaf) := by
  unfold State.leafSeen
  split
  · exact .refl s
  · exact onlyRecorded_fabWrite ..

theorem onlyRecorded_fillM (s : State) (w : Who) (need : Need) (va : DWord) : OnlyRecorded s ((fillM w need va).exec s).2 := by
  cases h : s.walk w.ctx va with
  | bad c a => rw [exec_fillM_bad h]; exact .refl s
  | leaf pa0 leaf =>
    rw [exec_fillM_leaf h]
    split
    · exact .refl s
    · cases checkPerm (leaf ||| 0x400) need
      · exact (onlyRecorded_leafSeen ..).trans (onlyRecorded_tlbAdd ..)
      · exact onlyRecorded_leafSeen ..

/-! ## The tile -/

theorem exec_translateM_noncanonical (h : canonical va = false) :
    (translateM w need va).exec s = (.error (.raise Cause.addrNoncanonical va), s) := by
  simp [translateM, h, exec_bind]

theorem exec_translateM_hit {e : TlbEntry} (hv : canonical va = true) (h : s.tlbFind w.bay w.ctx va = some e)
    (hp : checkPerm e.leaf need = none) : (translateM w need va).exec s = (.ok (leafTarget w.quad e.leaf va), s) := by
  simp [translateM, hv, exec_bind, h, hp]

/-- A miss fills the tile. -/
theorem exec_translateM_miss (hv : canonical va = true) (h : s.tlbFind w.bay w.ctx va = none) :
    (translateM w need va).exec s =
      (((fillM w need va).exec s).1.map (fun leaf => leafTarget w.quad leaf va), ((fillM w need va).exec s).2) := by
  simp only [translateM, hv, exec_bind, exec_get, h, Bool.not_true, Bool.false_eq_true, if_false, exec_pure]
  rcases (fillM w need va).exec s with ⟨_ | _, t⟩ <;> rfl

theorem tlbFind_tlbDrop (s : State) (bay ctx : Nat) (va : DWord) : (s.tlbDrop bay ctx va).tlbFind bay ctx va = none := by
  simp [State.tlbFind, State.tlbDrop, List.find?_eq_none]

/-- A cached translation whose check fails is dropped, and the access is translated again (R305). -/
theorem exec_translateM_recheck {e : TlbEntry} {c : Byte} (hv : canonical va = true) (h : s.tlbFind w.bay w.ctx va = some e)
    (hp : checkPerm e.leaf need = some c) :
    (translateM w need va).exec s = (translateM w need va).exec (s.tlbDrop w.bay w.ctx va) := by
  rw [exec_translateM_miss hv (tlbFind_tlbDrop ..)]
  simp only [translateM, hv, exec_bind, exec_get, h, hp, Bool.not_true, Bool.false_eq_true, if_false, exec_pure, exec_set,
    Option.isNone_some]
  rcases (fillM w need va).exec (s.tlbDrop w.bay w.ctx va) with ⟨_ | _, t⟩ <;> rfl

theorem exec_translateM_bad {c : Byte} {a : DWord} (hv : canonical va = true) (h : s.tlbFind w.bay w.ctx va = none)
    (hw : s.walk w.ctx va = .bad c a) : (translateM w need va).exec s = (.error (.raise c a), s) := by
  rw [exec_translateM_miss hv h, exec_fillM_bad hw]; rfl

theorem exec_translateM_leaf {pa0 : Nat} {leaf : DWord} (hv : canonical va = true) (h : s.tlbFind w.bay w.ctx va = none)
    (hw : s.walk w.ctx va = .leaf pa0 leaf) (hh : leaf.getLsbD 10 = true ∨ s.writeHeld pa0 8 false = false) :
    (∀ c, checkPerm (leaf ||| 0x400) need = some c →
      (translateM w need va).exec s = (.error (.raise c va), s.leafSeen pa0 leaf)) ∧
    (checkPerm (leaf ||| 0x400) need = none → (translateM w need va).exec s =
      (.ok (leafTarget w.quad leaf va), (s.leafSeen pa0 leaf).tlbAdd w.bay w.ctx va (leaf ||| 0x400))) := by
  have hh : ¬ (leaf.getLsbD 10 = false ∧ s.writeHeld pa0 8 false = true) := by
    rcases hh with hh | hh <;> simp [hh]
  rw [exec_translateM_miss hv h, exec_fillM_leaf hw, if_neg hh]
  constructor
  · intro c hc; rw [hc]; rfl
  · intro hc; rw [hc, ← leafTarget_setA]; rfl

theorem onlyRecorded_translateM (s : State) (w : Who) (need : Need) (va : DWord) :
    OnlyRecorded s ((translateM w need va).exec s).2 := by
  cases hv : canonical va with
  | false => rw [exec_translateM_noncanonical hv]; exact .refl s
  | true =>
    cases h : s.tlbFind w.bay w.ctx va with
    | none => rw [exec_translateM_miss hv h]; exact onlyRecorded_fillM ..
    | some e =>
      cases hp : checkPerm e.leaf need with
      | none => rw [exec_translateM_hit hv h hp]; exact .refl s
      | some c =>
        rw [exec_translateM_recheck hv h hp, exec_translateM_miss hv (tlbFind_tlbDrop ..)]
        exact (onlyRecorded_tlbDrop ..).trans (onlyRecorded_fillM ..)

/-! ## The checks -/

theorem quarterCheck_free {a : Nat} (h : s.regionOfQuad (a / 2 ^ 16) = none) :
    quarterCheck s w a va = some (.raise Cause.permFault va) := by
  unfold quarterCheck; rw [h]

theorem quarterCheck_foreign {a : Nat} {r : Region} (h : s.regionOfQuad (a / 2 ^ 16) = some r) (hc : r.ctx ≠ w.ctx) :
    quarterCheck s w a va = some (.isolate va) := by
  unfold quarterCheck; rw [h]; simp [hc]

theorem quarterCheck_other {a : Nat} {r : Region} (h : s.regionOfQuad (a / 2 ^ 16) = some r) (hc : r.ctx = w.ctx)
    (hr : some r.id ≠ w.region) : quarterCheck s w a va = some (.raise Cause.permFault va) := by
  unfold quarterCheck; rw [h]; simp [hc, hr]

theorem quarterCheck_own {a : Nat} {r : Region} (h : s.regionOfQuad (a / 2 ^ 16) = some r) (hc : r.ctx = w.ctx)
    (hr : some r.id = w.region) : quarterCheck s w a va = none := by
  unfold quarterCheck; rw [h]; simp [hc, hr]

variable {n : Nat} {x : Xlat} {t : State}

theorem exec_checkM_noncanonical (h : canonical va = false) :
    (checkM w need va n).exec s = (.error (.raise Cause.addrNoncanonical va), s) := by
  simp [checkM, exec_bind, h]

theorem exec_checkM_misaligned (hv : canonical va = true) (h : va.toNat % n ≠ 0) :
    (checkM w need va n).exec s = (.error (.raise Cause.misaligned va), s) := by
  simp [checkM, exec_bind, hv, h]

theorem exec_checkM_untranslated {e : Stop} (hv : canonical va = true) (ha : va.toNat % n = 0)
    (h : (translateM w need va).exec s = (.error e, t)) : (checkM w need va n).exec s = (.error e, t) := by
  simp [checkM, exec_bind, hv, ha, h]

theorem exec_checkM_unmapped (hv : canonical va = true) (ha : va.toNat % n = 0) (h : (translateM w need va).exec s = (.ok x, t))
    (hx : targetOk w.agent x = false) : (checkM w need va n).exec s = (.error (.raise Cause.addrUnmapped va), t) := by
  simp [checkM, exec_bind, hv, ha, h, hx]

theorem exec_checkM_memory (hv : canonical va = true) (ha : va.toNat % n = 0) (h : (translateM w need va).exec s = (.ok x, t))
    (hx : targetOk w.agent x = true) (hm : x.mt = 0) :
    (checkM w need va n).exec s = (if (need.writes &&
      (t.isLocal x.pa && t.touchesBarrier (lowOf x.pa) n || t.touchesQueue x.pa n)) = true
      then .error (.raise Cause.permFault va) else .ok x, t) := by
  simp only [checkM, exec_bind, hv, ha, h, hx, hm, Bool.not_true, Bool.false_eq_true, if_false, exec_get, bne_self_eq_false,
    Bool.true_and, decide_true, Nat.zero_ne_one]
  split <;> rfl

theorem exec_checkM_scratch {e : Stop} (hv : canonical va = true) (ha : va.toNat % n = 0)
    (h : (translateM w need va).exec s = (.ok x, t)) (hx : targetOk w.agent x = true) (hm : x.mt = 1)
    (hq : quarterCheck t w x.pa va = some e) : (checkM w need va n).exec s = (.error e, t) := by
  simp [checkM, exec_bind, hv, ha, h, hx, hm, hq]

theorem exec_checkM_scratch_own (hv : canonical va = true) (ha : va.toNat % n = 0)
    (h : (translateM w need va).exec s = (.ok x, t)) (hx : targetOk w.agent x = true) (hm : x.mt = 1)
    (hq : quarterCheck t w x.pa va = none) (hz : quarterCheck t w (x.pa + n - 1) va = none) :
    (checkM w need va n).exec s = (.ok x, t) := by
  simp [checkM, exec_bind, hv, ha, h, hx, hm, hq, hz]

theorem exec_checkM_scratch_end {e : Stop} (hv : canonical va = true) (ha : va.toNat % n = 0)
    (h : (translateM w need va).exec s = (.ok x, t)) (hx : targetOk w.agent x = true) (hm : x.mt = 1)
    (hq : quarterCheck t w x.pa va = none) (hz : quarterCheck t w (x.pa + n - 1) va = some e) :
    (checkM w need va n).exec s = (.error e, t) := by
  simp [checkM, exec_bind, hv, ha, h, hx, hm, hq, hz]

theorem exec_checkM_device (hv : canonical va = true) (ha : va.toNat % n = 0)
    (h : (translateM w need va).exec s = (.ok x, t)) (hx : targetOk w.agent x = true) (h0 : x.mt ≠ 0) (h1 : x.mt ≠ 1) :
    (checkM w need va n).exec s = (.ok x, t) := by
  simp [checkM, exec_bind, hv, ha, h, hx, h0, h1, -bind_pure_comp]

/-- The checks change nothing but what the translation changes. -/
theorem checkM_state (s : State) (w : Who) (need : Need) (va : DWord) (n : Nat) :
    ((checkM w need va n).exec s).2 = s ∨ ((checkM w need va n).exec s).2 = ((translateM w need va).exec s).2 := by
  cases hv : canonical va with
  | false => exact .inl (by rw [exec_checkM_noncanonical hv])
  | true =>
    by_cases ha : va.toNat % n = 0
    swap
    · exact .inl (by rw [exec_checkM_misaligned hv ha])
    right
    rcases h : (translateM w need va).exec s with ⟨e | x, t⟩
    · rw [exec_checkM_untranslated hv ha h]
    cases hx : targetOk w.agent x with
    | false => rw [exec_checkM_unmapped hv ha h hx]
    | true =>
      by_cases h0 : x.mt = 0
      · rw [exec_checkM_memory hv ha h hx h0]
      by_cases h1 : x.mt = 1
      swap
      · rw [exec_checkM_device hv ha h hx h0 h1]
      cases hq : quarterCheck t w x.pa va with
      | some e => rw [exec_checkM_scratch hv ha h hx h1 hq]
      | none =>
        cases hz : quarterCheck t w (x.pa + n - 1) va with
        | some e => rw [exec_checkM_scratch_end hv ha h hx h1 hq hz]
        | none => rw [exec_checkM_scratch_own hv ha h hx h1 hq hz]

theorem onlyRecorded_checkM {r : Except Stop Xlat} (h : (checkM w need va n).exec s = (r, t)) : OnlyRecorded s t := by
  have ht : t = ((checkM w need va n).exec s).2 := by rw [h]
  rw [ht]
  rcases checkM_state s w need va n with h1 | h1
  · rw [h1]; exact .refl s
  · rw [h1]; exact onlyRecorded_translateM ..

end Sys2Proof.Machine
end

section
/-!
PROOFS. Loads and stores of a sequencer (R173, R175, R285, R326).
-/
namespace Sys2Proof.Machine

/-! ## Holding an access, and asking another package -/

theorem exec_holdM (c : Nat) (x : CoreSt) (kind : HeldKind) (d : Option (Reg × PendKind)) (va : DWord) (t : Xlat) (n op new : Nat)
    (acq : Bool) (s : State) :
    (holdM c x kind d va t n op new acq).exec s = (.ok (), s.holding c x kind d va t n op new acq) := by
  cases d <;> rfl

theorem exec_askRemote {c : Nat} {x : CoreSt} {kind : ReqKind} {pk : PendKind} {d : Reg} {va : DWord} {dpa n : Nat} {data : Line}
    {acq : Bool} {s : State} (hm : s.maskHeld (pkgOf dpa) = false) (hr : s.reachable (pkgOf dpa) = true) :
    (askRemote c x kind pk d va dpa n data acq).exec s = (.ok (), s.asked c x kind pk d va (s.coreCtx c) dpa n data acq) := by
  simp only [askRemote, exec_bind, exec_get, hm, hr, Bool.not_true, Bool.false_eq_true, if_false, exec_set]
  rfl

/-- An access of another package's memory that need not be held may leave: no new mask waits for its package. -/
theorem maskHeld_of_not_mustHold {s : State} {c ctx n : Nat} {va : DWord} {t : Xlat} (h : s.mustHold c ctx va t n = false)
    (h0 : t.mt = 0) (hl : s.isLocal t.pa = false) : s.maskHeld (pkgOf t.pa) = false := by
  simp only [State.mustHold, State.linkHeld, Bool.or_eq_false_iff] at h
  simpa [h0, hl] using h.2.2

theorem whoCore_ctx (s : State) (c : Nat) : (whoCore s c).ctx = s.coreCtx c := rfl

theorem exec_readAtM_here {s : State} {w : Who} {t : Xlat} {n : Nat} (ht : t.mt = 0) (hl : s.isLocal t.pa = true) :
    (readAtM w t n).exec s = (.ok (leNat (s.fabRead (lowOf t.pa) n), s.poisonedAt (lowOf t.pa) n), s) := by
  simp only [readAtM, exec_bind, exec_get, ht, hl, Nat.zero_ne_one, if_false, if_true, exec_pure]
  rfl

theorem exec_writeAtM_here {s : State} {w : Who} {t : Xlat} {bs : List Byte} {owner : ReqOwner} (ht : t.mt = 0)
    (hl : s.isLocal t.pa = true) (hw : s.writeHeld (lowOf t.pa) bs.length false = false) :
    (writeAtM w t bs owner).exec s = (.ok (), s.fabWrite (lowOf t.pa) bs) := by
  simp only [writeAtM, exec_bind, exec_get, ht, hl, hw, Nat.zero_ne_one, if_false, if_true, Bool.false_eq_true, exec_set]

theorem exec_writeAtM_away {s : State} {w : Who} {t : Xlat} {bs : List Byte} {owner : ReqOwner} (ht : t.mt = 0)
    (hl : s.isLocal t.pa = false) (hm : s.maskHeld (pkgOf t.pa) = false) (hr : s.reachable (pkgOf t.pa) = true) :
    (writeAtM w t bs owner).exec s =
      (.ok (), (s.sendReq .write owner w.ctx t.pa bs.length (BitVec.ofNat 512 (leNat bs))).2) := by
  simp only [writeAtM, exec_bind, exec_get, ht, hl, hm, hr, Nat.zero_ne_one, if_false, Bool.false_eq_true, Bool.not_true, exec_set]

theorem extend_eq_widened {n : Nat} (hn : n ≤ 8) (signed : Bool) (v : Nat) : extend n signed v = widened n signed v := by
  unfold extend widened
  cases signed with
  | false => simp
  | true =>
    by_cases hv : v < 2 ^ (8 * n - 1)
    · simp [hv, Nat.not_le.2 hv]
    · have hp : 2 ^ (8 * n) ≤ 2 ^ 64 := Nat.pow_le_pow_right (by decide) (by omega)
      simp only [hv, Nat.not_lt.1 hv, if_true, if_false, Bool.true_and, decide_true]
      have hc : ((v + 2 ^ 64 - 2 ^ (8 * n) : Nat) : Int) = ((v : Int) - 2 ^ (8 * n)) + (2 ^ 64 : Nat) := by
        rw [Nat.cast_sub (by omega)]
        push_cast
        ring
      rw [← BitVec.ofInt_natCast, hc, BitVec.ofInt_add, BitVec.ofInt_natCast]
      simp

/-! ## A load -/

section Load
variable {s u : State} {c n : Nat} {x : CoreSt} {va : DWord} {t : Xlat} {d : Reg} {signed : Bool} {acq : Option Nat}
  (hq : x.pend.any (fun p => p.acq) = false)
include hq

theorem exec_coreLoad_error {e : Stop} (h : (checkM (whoCore s c) .load va n).exec s = (.error e, u)) :
    (coreLoad c x d va n signed acq).exec s = (.error e, u) := by
  simp only [coreLoad, exec_bind, exec_orderGate hq, exec_get, h]

variable (h : (checkM (whoCore s c) .load va n).exec s = (.ok t, u))
include h

theorem exec_coreLoad_device (ht : t.mt = 2) : (coreLoad c x d va n signed acq).exec s =
    if acq = none ∧ 4 ≤ n then (.ok .next, u.updCore c (fun y => y.wr d (extend n signed (u.devRead (lowOf t.pa) n))))
    else (.error (.raise Cause.permFault va), u) := by
  simp only [coreLoad, exec_bind, exec_orderGate hq, exec_get, h, ht, if_true]
  by_cases ho : acq = none ∧ 4 ≤ n
  · simp [ho, Nat.not_lt.2 ho.2, exec_bind, -bind_pure_comp]
  · have hc : (acq.isSome || decide (n < 4)) = true := by cases acq <;> simp at ho ⊢; omega
    simp only [ho, hc, if_true, if_false, exec_bind, exec_raiseM]

variable (ht : t.mt = 0)
include ht

theorem exec_coreLoad_held (hm : u.mustHold c (s.coreCtx c) va t n = true) : (coreLoad c x d va n signed acq).exec s =
    (.ok .next, u.holding c x .load (some (d, .load n signed)) va t n 0 0 acq.isSome) := by
  simp only [coreLoad, exec_bind, exec_orderGate hq, exec_get, h, ht, (by decide : ¬ (0 = 2)), if_true, if_false, whoCore_ctx, hm,
    exec_holdM, exec_pure]

variable (hm : u.mustHold c (s.coreCtx c) va t n = false)
include hm

theorem exec_coreLoad_here (hl : u.isLocal t.pa = true) : (coreLoad c x d va n signed acq).exec s =
    (.ok .next, if u.poisonedAt (lowOf t.pa) n then u.updCore c (fun y => y.mark d)
      else u.updCore c (fun y => y.wr d (extend n signed (leNat (u.fabRead (lowOf t.pa) n))))) := by
  simp only [coreLoad, exec_bind, exec_orderGate hq, exec_get, h, ht, (by decide : ¬ (0 = 2)), if_false, whoCore_ctx, hm,
    exec_readAtM_here ht hl, hl, Bool.not_true, Bool.false_eq_true]
  cases u.poisonedAt (lowOf t.pa) n <;> rfl

theorem exec_coreLoad_away (hl : u.isLocal t.pa = false) (hr : u.reachable (pkgOf t.pa) = true) :
    (coreLoad c x d va n signed acq).exec s =
      (.ok .next, u.asked c x .load (.load n signed) d va (u.coreCtx c) t.pa n 0 acq.isSome) := by
  simp only [coreLoad, exec_bind, exec_orderGate hq, exec_get, h, ht, (by decide : ¬ (0 = 2)), if_false, whoCore_ctx, hm, hl,
    Bool.not_false, if_true, Bool.false_eq_true, exec_askRemote (maskHeld_of_not_mustHold hm ht hl) hr, exec_pure]

end Load

/-! ## A store -/

section Store
variable {s u : State} {c n : Nat} {x : CoreSt} {va : DWord} {t : Xlat} {v : DWord} {rel : Option Nat}
  (hq : x.pend.any (fun p => p.acq) = false) (hd : rel.isSome = true → drained x = true)
include hq hd

theorem exec_coreStore_error {e : Stop} (h : (checkM (whoCore s c) .store va n).exec s = (.error e, u)) :
    (coreStore c x va n v rel).exec s = (.error e, u) := by
  simp only [coreStore, exec_bind, exec_orderGate hq, exec_drainGate hd, exec_get, h]

variable (h : (checkM (whoCore s c) .store va n).exec s = (.ok t, u))
include h

theorem exec_coreStore_device (ht : t.mt = 2) : (coreStore c x va n v rel).exec s =
    if rel = none ∧ 4 ≤ n then
      (.ok .next, u.devWrite (if c = Config.sceip then .sceip else .sector c (s.coreCtx c)) (lowOf t.pa) n v.toNat)
    else (.error (.raise Cause.permFault va), u) := by
  simp only [coreStore, exec_bind, exec_orderGate hq, exec_drainGate hd, exec_get, h, ht, if_true, whoCore_ctx]
  by_cases ho : rel = none ∧ 4 ≤ n
  · simp [ho, Nat.not_lt.2 ho.2, exec_bind, -bind_pure_comp]
  · have hc : (rel.isSome || decide (n < 4)) = true := by cases rel <;> simp at ho ⊢; omega
    simp only [ho, hc, if_true, if_false, exec_bind, exec_raiseM]

variable (ht : t.mt = 0)
include ht

theorem exec_coreStore_held (hm : u.mustHold c (s.coreCtx c) va t n = true) : (coreStore c x va n v rel).exec s =
    (.ok .next, u.holding c x .store none va t n (v.toNat % 2 ^ (8 * n)) 0 false) := by
  simp only [coreStore, exec_bind, exec_orderGate hq, exec_drainGate hd, exec_get, h, ht, (by decide : ¬ (0 = 2)), if_true, if_false,
    whoCore_ctx, hm, exec_holdM, exec_pure]

variable (hm : u.mustHold c (s.coreCtx c) va t n = false)
include hm

theorem exec_coreStore_here (hl : u.isLocal t.pa = true) (hw : u.writeHeld (lowOf t.pa) n false = false) :
    (coreStore c x va n v rel).exec s = (.ok .next, u.fabWrite (lowOf t.pa) (leBytes v.toNat n)) := by
  simp only [coreStore, exec_bind, exec_orderGate hq, exec_drainGate hd, exec_get, h, ht, (by decide : ¬ (0 = 2)), if_false,
    whoCore_ctx, hm, hl, Bool.not_true, Bool.false_and, Bool.false_eq_true, exec_pure,
    exec_writeAtM_here ht hl ((length_leBytes v.toNat n).symm ▸ hw)]

theorem exec_coreStore_away (hl : u.isLocal t.pa = false) (hr : u.reachable (pkgOf t.pa) = true) :
    (coreStore c x va n v rel).exec s = (.ok .next, ((u.sendReq .write (.core c u.nextId) (s.coreCtx c) t.pa n
      (BitVec.ofNat 512 (leNat (leBytes v.toNat n)))).2).updCore c (fun y => { y with
        remoteWrites := y.remoteWrites ++ [⟨u.nextId, va, x.pc, false⟩] })) := by
  simp only [coreStore, exec_bind, exec_orderGate hq, exec_drainGate hd, exec_get, h, ht, (by decide : ¬ (0 = 2)), if_false,
    whoCore_ctx, hm, hl, hr, Bool.not_false, Bool.true_and, if_true, Bool.false_eq_true, exec_pure, exec_modify, length_leBytes,
    exec_writeAtM_away ht hl (maskHeld_of_not_mustHold hm ht hl) hr]

end Store

end Sys2Proof.Machine
end

section
/-!
PROOFS. The accesses of a sequencer, as its instructions make them (R173, R175, R285, R326).
-/
namespace Sys2Proof.Machine

/-- A ready instruction whose meaning is a load at an address of its registers. -/
theorem exec_of_load {s : State} {c n : Nat} {d a : Reg} {i : Instr} {signed : Bool} {acq : Option Nat} (va : CoreSt → DWord)
    (hr : CoreReady s c [a] [d]) (hi : exec i s = seqRun [a] [d] 4 s (fun c x => coreLoad c x d (va x) n signed acq)) :
    exec i s = .next (finishM c 4 ((coreLoad c (s.core c) d (va (s.core c)) n signed acq).exec s)) := by
  rw [hi, seqRun_ready hr]

/-- A ready instruction whose meaning is a store of register d at an address of its registers. -/
theorem exec_of_store {s : State} {c n : Nat} {d : Reg} {reads : List Reg} {i : Instr} {rel : Option Nat} (va : CoreSt → DWord)
    (hr : CoreReady s c reads []) (hi : exec i s = seqRun reads [] 4 s (fun c x => coreStore c x (va x) n (x.gr d) rel)) :
    exec i s = .next (finishM c 4 ((coreStore c (s.core c) (va (s.core c)) n ((s.core c).gr d) rel).exec s)) := by
  rw [hi, seqRun_ready hr]

/-! ## The loads -/

/-- Every load of the table is `coreLoad` at its address, size, extension and scope. -/
theorem exec_coreLoads {s : State} {c : Nat} {d a : Reg} {o : BitVec 12} {scope : BitVec 3} (hr : CoreReady s c [a] [d])
    {p : Instr × DWord × Nat × Bool × Option Nat} (hp : p ∈ coreLoads d a o scope (s.core c)) :
    exec p.1 s = .next (finishM c 4 ((coreLoad c (s.core c) d p.2.1 p.2.2.1 p.2.2.2.1 p.2.2.2.2).exec s)) := by
  simp only [coreLoads, List.mem_cons, List.not_mem_nil, or_false] at hp
  rcases hp with rfl | rfl | rfl | rfl | rfl | rfl | rfl | rfl | rfl
  · exact exec_of_load (fun x => x.gr a + sext12 o) hr rfl
  · exact exec_of_load (fun x => x.gr a + sext12 o) hr rfl
  · exact exec_of_load (fun x => x.gr a + sext12 o) hr rfl
  · exact exec_of_load (fun x => x.gr a + sext12 o) hr rfl
  · exact exec_of_load (fun x => x.gr a + sext12 o) hr rfl
  · exact exec_of_load (fun x => x.gr a + sext12 o) hr rfl
  · exact exec_of_load (fun x => x.gr a + sext12 o) hr rfl
  · exact exec_of_load (fun x => x.gr a) hr rfl
  · exact exec_of_load (fun x => x.gr a) hr rfl

theorem size_coreLoads {d a : Reg} {o : BitVec 12} {scope : BitVec 3} {x : CoreSt}
    {p : Instr × DWord × Nat × Bool × Option Nat} (hp : p ∈ coreLoads d a o scope x) : p.2.2.1 ≤ 8 := by
  simp only [coreLoads, List.mem_cons, List.not_mem_nil, or_false] at hp
  rcases hp with rfl | rfl | rfl | rfl | rfl | rfl | rfl | rfl | rfl <;> dsimp only <;> omega

section Load
variable {s u : State} {c n : Nat} {va : DWord} {t : Xlat} {d : Reg} {signed : Bool} {acq : Option Nat}
  (hn : n ≤ 8) (h : CoreAccess s c .load va n t u)
include hn h

theorem finish_coreLoad_device (ht : t.mt = 2) :
    finishM c 4 ((coreLoad c (s.core c) d va n signed acq).exec s) = if acq = none ∧ 4 ≤ n
      then u.wrote c d (widened n signed (u.devRead (lowOf t.pa) n)) 4 else u.preciseFault c Cause.permFault va := by
  rw [exec_coreLoad_device h.noAcquire h.ok ht, extend_eq_widened hn]
  split <;> rfl

theorem finish_coreLoad_here (hl : Here t u) (hm : u.mustHold c (s.coreCtx c) va t n = false) :
    finishM c 4 ((coreLoad c (s.core c) d va n signed acq).exec s) = if u.poisonedAt (lowOf t.pa) n
      then (u.updCore c (fun x => x.mark d)).retire c 4 .next
      else u.wrote c d (widened n signed (leNat (u.fabRead (lowOf t.pa) n))) 4 := by
  rw [exec_coreLoad_here h.noAcquire h.ok hl.1 hm hl.2, extend_eq_widened hn]
  cases u.poisonedAt (lowOf t.pa) n <;> rfl

omit hn in
theorem finish_coreLoad_away (hl : Away t u) (hm : u.mustHold c (s.coreCtx c) va t n = false) :
    finishM c 4 ((coreLoad c (s.core c) d va n signed acq).exec s) =
      (u.asked c (s.core c) .load (.load n signed) d va (s.coreCtx c) t.pa n 0 acq.isSome).retire c 4 .next := by
  rw [exec_coreLoad_away h.noAcquire h.ok hl.1 hm hl.2.1 hl.2.2, (onlyRecorded_checkM h.ok).coreCtx c]
  rfl

end Load

/-! ## The stores -/

/-- Every store of the table is `coreStore` at its address, size and scope, of the value in its data register. -/
theorem exec_coreStores {s : State} {c : Nat} {d a : Reg} {o : BitVec 12} {scope : BitVec 3} (hr : CoreReady s c [d, a] [])
    {p : Instr × DWord × Nat × Option Nat} (hp : p ∈ coreStores d a o scope (s.core c)) :
    exec p.1 s = .next (finishM c 4 ((coreStore c (s.core c) p.2.1 p.2.2.1 ((s.core c).gr d) p.2.2.2).exec s)) := by
  have hr' : CoreReady s c [a, d] [] := hr.weaken (by simp) (by simp)
  simp only [coreStores, List.mem_cons, List.not_mem_nil, or_false] at hp
  rcases hp with rfl | rfl | rfl | rfl | rfl | rfl
  · exact exec_of_store (fun x => x.gr a + sext12 o) hr rfl
  · exact exec_of_store (fun x => x.gr a + sext12 o) hr rfl
  · exact exec_of_store (fun x => x.gr a + sext12 o) hr rfl
  · exact exec_of_store (fun x => x.gr a + sext12 o) hr rfl
  · exact exec_of_store (fun x => x.gr a) hr' rfl
  · exact exec_of_store (fun x => x.gr a) hr' rfl

/-! ## The obligation -/

theorem targetOk_memory (a : Agent) {x : Xlat} (h : x.mt = 0) : targetOk a x = isNormal (lowOf x.pa) := by
  unfold targetOk; rw [if_pos h]

theorem targetOk_scratch (a : Agent) {x : Xlat} (h : x.mt = 1) : targetOk a x = true ↔ a = .element := by
  unfold targetOk; rw [if_neg (by omega), if_pos h]; exact beq_iff_eq

theorem targetOk_device (a : Agent) {x : Xlat} (h : x.mt = 2) : targetOk a x = true ↔ a = .core := by
  unfold targetOk; rw [if_neg (by omega), if_neg (by omega)]; exact beq_iff_eq

/-- The walk of an entry, by its V and leaf bits (R300 to R303). -/
theorem walkFrom_cases (s : State) (va : DWord) (level node : Nat) {i a e : Nat} (hi : i = vaIndex va level) (ha : a = node + 8 * i)
    (he : e = s.fabNat a 8) :
    (s.poisonedAt a 8 = true → s.walkFrom va level node = .bad Cause.poisonConsumed (BitVec.ofNat 64 a)) ∧
    (s.poisonedAt a 8 = false →
      (bit e 0 = false → s.walkFrom va level node = .bad Cause.pageFault va) ∧
      (bit e 0 = true → bit e 1 = false →
        (level = 0 ∨ s.badPointer e = true → s.walkFrom va level node = .bad Cause.ptFormat va) ∧
        (∀ l, level = l + 1 → s.badPointer e = false → s.walkFrom va level node = s.walkFrom va l (lowOf (bits e 51 11 * 2048)))) ∧
      (bit e 0 = true → bit e 1 = true → s.walkFrom va level node = s.walkLeaf va level node i e)) := by
  have ha : a = entryAt va level node := by rw [ha, hi]; rfl
  rw [he, hi, ha]
  exact ⟨walkFrom_of_poison, fun hp => ⟨walkFrom_of_invalid hp,
    fun h0 h1 => ⟨walkFrom_of_badPointer hp h0 h1, fun l hl hb => by
      rw [hl] at hp h0 h1 hb ⊢
      exact walkFrom_of_pointer hp h0 h1 hb⟩,
    walkFrom_of_leaf hp⟩⟩

/-- Settles O14: the checks and the walk by their cases, then each load and store through `coreLoad` and `coreStore`. -/
theorem sequencerLoadsAndStores : Obligations.SequencerLoadsAndStores := by
  unfold Obligations.SequencerLoadsAndStores
  refine ⟨⟨?checks, ?target, ?translation, ?noRoot, ?root, ?walk, ?leaf, badPointer_iff, ?perm⟩, ?loads, ?stores⟩
  case checks =>
    intro s w need va n
    refine ⟨exec_checkM_noncanonical, exec_checkM_misaligned, fun hv ha => ⟨fun e s1 => exec_checkM_untranslated hv ha,
      fun x s1 h => ⟨exec_checkM_unmapped hv ha h, ?_, ?_⟩⟩⟩
    · rintro hx hm held rfl
      exact exec_checkM_memory hv ha h hx hm
    · intro hx hm _
      refine ⟨fun hq => exec_checkM_scratch hv ha h hx hm (quarterCheck_free hq), fun r hq => ⟨fun hc => ?_, fun hc hr => ?_,
        fun hc hr hz => ?_⟩⟩
      · exact exec_checkM_scratch hv ha h hx hm (quarterCheck_foreign hq hc)
      · exact exec_checkM_scratch hv ha h hx hm (quarterCheck_other hq hc hr)
      · exact exec_checkM_scratch_own hv ha h hx hm (quarterCheck_own hq hc hr) (quarterCheck_own (hz ▸ hq) hc hr)
  case target => exact fun a x => ⟨targetOk_memory a, targetOk_scratch a, targetOk_device a⟩
  case translation =>
    intro s w need va hv
    refine ⟨fun e => exec_translateM_hit hv, fun e c => exec_translateM_recheck hv, fun hn => ⟨fun c a => exec_translateM_bad hv hn, ?_⟩⟩
    rintro pa0 leaf hw hh s1 rfl
    exact exec_translateM_leaf hv hn hw hh
  case noRoot => exact fun s ctx va => walk_without_root va
  case root => exact fun s ctx va root => walk_from_root va
  case walk =>
    intro s va level node _ i a e hi ha he
    obtain ⟨hpoison, hclean⟩ := walkFrom_cases s va level node hi ha he
    refine ⟨hpoison, fun hp => ?_⟩
    obtain ⟨hinvalid, hpointer, hleaf⟩ := hclean hp
    refine ⟨hinvalid, hpointer, fun h0 h1 => ?_⟩
    rw [hleaf h0 h1]
    refine ⟨walkLeaf_of_level, ?_⟩
    rintro hl hb pa0 e0 rfl he0
    exact ⟨walkLeaf_of_poison hl hb, fun hp0 => ⟨walkLeaf_of_format hl hb hp0 he0, walkLeaf_of_good hl hb hp0 he0⟩⟩
  case leaf =>
    rintro quad leaf va off rfl
    exact ⟨rfl, rfl, rfl⟩
  case perm =>
    rintro leaf rd wr ex ver rfl rfl rfl rfl
    simp [checkPerm]
  case loads =>
    intro d a o scope s c hr p hp
    have hn := size_coreLoads hp
    rw [exec_coreLoads hr hp]
    refine ⟨fun t s1 h => ⟨fun ht hm => ?_, fun hl hm => ?_, fun ht => ?_, fun hl hm => ?_⟩, fun cause addr s1 hq he => ?_⟩
    · rw [exec_coreLoad_held h.noAcquire h.ok ht hm]; rfl
    · rw [finish_coreLoad_here hn h hl hm]
    · rw [finish_coreLoad_device hn h ht]
    · rw [finish_coreLoad_away h hl hm]
    · rw [exec_coreLoad_error hq he]; rfl
  case stores =>
    intro d a o scope s c hr p hp hd
    rw [exec_coreStores hr hp]
    refine ⟨fun t s1 h => ⟨fun ht hm => ?_, fun hl hm hw => ?_, fun ht => ?_, fun hl hm => ?_⟩, fun cause addr s1 hq he => ?_⟩
    · rw [exec_coreStore_held h.noAcquire hd h.ok ht hm]; rfl
    · rw [exec_coreStore_here h.noAcquire hd h.ok hl.1 hm hl.2 hw]; rfl
    · rw [exec_coreStore_device h.noAcquire hd h.ok ht]; split <;> rfl
    · rw [exec_coreStore_away h.noAcquire hd h.ok hl.1 hm hl.2.1 hl.2.2]; rfl
    · rw [exec_coreStore_error hq hd he]; rfl

end Sys2Proof.Machine
end

section
/-!
PROOFS. Reading fields of a byte string that was put together from parts (R3, R360).
-/
namespace Sys2Proof.Machine

/-! ## A field of a word's bytes -/

theorem drop_leBytes (v n k : Nat) : (leBytes v (k + n)).drop k = leBytes (v / 256 ^ k) n := by
  induction k generalizing v with
  | zero => simp
  | succ k ih =>
    rw [show k + 1 + n = k + n + 1 by omega, leBytes, List.drop_succ_cons, ih, Nat.div_div_eq_div_mul, ← Nat.pow_succ']

theorem take_leBytes (v n k : Nat) : (leBytes v (k + n)).take k = leBytes v k := by
  induction k generalizing v with
  | zero => simp [leBytes]
  | succ k ih => rw [show k + 1 + n = k + n + 1 by omega, leBytes, List.take_succ_cons, ih, leBytes]

theorem fld_leBytes (v m : Nat) {o n : Nat} (h : o + n ≤ m) : fld (leBytes v m) o n = v / 256 ^ o % 256 ^ n := by
  obtain ⟨j, rfl⟩ := Nat.exists_eq_add_of_le h
  unfold fld
  rw [Nat.add_assoc, drop_leBytes, take_leBytes, leNat_leBytes]

theorem fld_leBytes_self {v n : Nat} (h : v < 2 ^ (8 * n)) : fld (leBytes v n) 0 n = v := by
  unfold fld
  rw [List.drop_zero, List.take_of_length_le (length_leBytes v n).le, leNat_leBytes_of_lt h]

theorem fld_byte (b : Byte) : fld [b] 0 1 = b.toNat := by simp [fld, leNat]

theorem fld_zeros (m o n : Nat) : fld (zeros m) o n = 0 := by
  have h : ∀ k, leNat (List.replicate k 0) = 0 := fun k => by
    induction k with
    | zero => rfl
    | succ k ih => rw [List.replicate_succ, leNat, ih]; rfl
  unfold fld zeros
  rw [List.drop_replicate, List.take_replicate, h]

/-! ## A field of a string put together from parts -/

variable {a b : List Byte} {m n o : Nat}

theorem fld_append_left (h : o + n ≤ a.length) : fld (a ++ b) o n = fld a o n := by
  unfold fld
  rw [List.drop_append_of_le_length (by omega), List.take_append_of_le_length (by rw [List.length_drop]; omega)]

theorem fld_append_right (h : a.length = m) : fld (a ++ b) (m + o) n = fld b o n := by
  unfold fld
  rw [← h, List.drop_append, List.drop_eq_nil_of_le (by omega), List.nil_append, Nat.add_sub_cancel_left]

@[simp] theorem length_fit (n : Nat) (l : List Byte) : (fit n l).length = n := by simp [fit, zeros]

theorem fit_append (h : a.length ≤ n) : fit n a = a ++ zeros (n - a.length) := by
  unfold fit zeros
  rw [List.take_append, List.take_of_length_le h, List.take_replicate, Nat.min_eq_left (by omega)]

theorem fld_fit (h : o + n ≤ a.length) (hm : o + n ≤ m) : fld (fit m a) o n = fld a o n := by
  unfold fit fld
  rw [List.drop_take, List.take_take, Nat.min_eq_left (by omega)]
  exact fld_append_left h

theorem fld_fit_past (h : a.length ≤ o) (hm : o + n ≤ m) : fld (fit m a) o n = 0 := by
  obtain ⟨j, rfl⟩ := Nat.exists_eq_add_of_le h
  rw [fit_append (by omega), fld_append_right rfl, fld_zeros]

/-- A field of the i-th of several parts. -/
theorem fld_flatten {L : List (List Byte)} {i : Nat} {p : List Byte} (hp : L[i]? = some p) (h : o + n ≤ p.length) :
    fld L.flatten (((L.map List.length).take i).sum + o) n = fld p o n := by
  induction L generalizing i with
  | nil => simp at hp
  | cons q L ih =>
    cases i with
    | zero =>
      obtain rfl : q = p := by simpa using hp
      simp only [List.take_zero, List.sum_nil, Nat.zero_add, List.flatten_cons]
      exact fld_append_left h
    | succ i =>
      rw [List.map_cons, List.take_succ_cons, List.sum_cons, List.flatten_cons, Nat.add_assoc, fld_append_right rfl]
      exact ih (by simpa using hp)

/-- A field of the k-th of several parts of c bytes each. -/
theorem fld_flatMap {α : Type} {f : α → List Byte} {c : Nat} (hf : ∀ x, (f x).length = c) {l : List α} {k : Nat} (hk : k < l.length)
    (h : o + n ≤ c) : fld (l.flatMap f) (c * k + o) n = fld (f l[k]) o n := by
  induction l generalizing k with
  | nil => simp at hk
  | cons x l ih =>
    cases k with
    | zero =>
      rw [List.flatMap_cons, Nat.mul_zero, Nat.zero_add]
      exact fld_append_left (by rw [hf]; exact h)
    | succ k =>
      rw [List.flatMap_cons, Nat.mul_succ, Nat.add_comm (c * k) c, Nat.add_assoc, fld_append_right (hf x)]
      exact ih (by simpa using hk)

theorem length_flatMap_const {α β : Type} {f : α → List β} {c : Nat} (hf : ∀ x, (f x).length = c) (l : List α) :
    (l.flatMap f).length = c * l.length := by
  simp [List.length_flatMap, hf, Nat.mul_comm]

/-- The k-th of several parts of c items each. -/
theorem take_drop_flatMap {α β : Type} {f : α → List β} {c : Nat} (hf : ∀ x, (f x).length = c) {l : List α} {k : Nat}
    (hk : k < l.length) (t : List β) : ((l.flatMap f ++ t).drop (c * k)).take c = f l[k] := by
  induction l generalizing k with
  | nil => simp at hk
  | cons x l ih =>
    cases k with
    | zero => simp [hf]
    | succ k =>
      rw [List.flatMap_cons, Nat.mul_succ, Nat.add_comm (c * k) c, ← List.drop_drop, List.append_assoc,
        List.drop_append_of_le_length (hf x).ge, List.drop_eq_nil_of_le (hf x).le, List.nil_append]
      exact ih (by simpa using hk)

/-! ## Words -/

theorem length_wordBytes (l : List Word) : (wordBytes l).length = 4 * l.length :=
  length_flatMap_const (fun _ => length_leBytes ..) l

theorem fld_wordBytes {l : List Word} {k : Nat} (hk : k < l.length) : fld (wordBytes l) (4 * k) 4 = (l[k]).toNat :=
  (fld_flatMap (o := 0) (fun _ => length_leBytes ..) hk (by omega)).trans (fld_leBytes_self (l[k]).isLt)

theorem wordsBytes_eq_flatMap (l : List Nat) : wordsBytes l = l.flatMap (fun w => leBytes w 8) := by
  induction l with
  | nil => rfl
  | cons w l ih => rw [wordsBytes, ih, List.flatMap_cons]

theorem vecMap_eq {α : Type} {n : Nat} {f : Nat → α} {v : Vector α n} (h : ∀ (k : Nat) (hk : k < n), f k = v[k]) : vecMap n f = v := by
  ext k hk
  rw [vecMap, Vector.getElem_ofFn]
  exact h k hk

end Sys2Proof.Machine
end

section
/-!
PROOFS. The record of a triggered or static element, and what is read back from it (R360, R361).
-/
namespace Sys2Proof.Machine

/-! ## The parts of a record -/

/-- The configuration words of an element (R209). -/
def Elem.cfgWords (e : Elem) : List Word :=
  [e.mode, e.route, e.static, 0, 0, 0, 0, 0] ++ e.consts.toList ++ e.trigs.toList ++ e.slots.toList

/-- A word of a vector that stands between two lists. -/
theorem getD_between {pre post : List Word} {m n : Nat} {v : Vector Word n} (hm : pre.length = m) {k : Nat} (hk : k < n) :
    (pre ++ v.toList ++ post).getD (m + k) 0 = v[k] := by
  rw [← hm, List.getD_eq_getElem?_getD, List.append_assoc, List.getElem?_append_right (by omega), Nat.add_sub_cancel_left,
    List.getElem?_append_left (by simpa using hk)]
  simp [hk]

theorem getD_cfgWords_consts (e : Elem) {k : Nat} (hk : k < 8) : e.cfgWords.getD (8 + k) 0 = e.consts[k] := by
  rw [Elem.cfgWords, List.append_assoc, getD_between (by simp) hk]

theorem getD_cfgWords_trigs (e : Elem) {k : Nat} (hk : k < 64) : e.cfgWords.getD (16 + k) 0 = e.trigs[k] := by
  rw [Elem.cfgWords, getD_between (by simp) hk]

theorem getD_cfgWords_slots (e : Elem) {k : Nat} (hk : k < 32) : e.cfgWords.getD (80 + k) 0 = e.slots[k] := by
  rw [Elem.cfgWords, ← List.append_nil (_ ++ e.slots.toList), getD_between (by simp) hk]

theorem cfgBytes_eq (e : Elem) : e.cfgBytes = fit 512 (wordBytes e.cfgWords) := rfl

theorem length_cfgWords (e : Elem) : e.cfgWords.length = 112 := by simp [Elem.cfgWords]

/-- The parts of an element's record, in order. -/
def elemParts (s : State) (r : Region) (x : Elem) (loc : Nat) : List (List Byte) :=
  [ x.cfgBytes, wordBytes x.x.toList, fit 8 ([x.p] ++ leBytes x.rr.toNat 1 ++ leBytes (bitAt x.held 0) 1), wordBytes x.sb.toList,
    fit 8 [x.sbtag], stageSlot x, x.w.toList.flatMap (fun w => leBytes w.toNat 32),
    (List.range 4).flatMap (fun i => fit 192 ((x.inch i).q.flatMap (r.inSlot (x.inWide i)))),
    (List.range 4).flatMap (fun o => fit 96 ((x.outch o).q.flatMap (fun t => tokSlot (x.outWide o) t.tok))),
    (List.range 4).flatMap (fun k => fit 64 ((x.box k).flatMap (fun b => packetSlot { b.pkt with header := 0 } b.gone true))),
    (List.range 4).flatMap (fun k => fit 256 ((s.landing (landKey loc k)).flatMap (fun l => packetSlot l.pkt 0 true))) ]

/-- The length of each part. -/
def elemPartLengths : List Nat := [512, 64, 8, 16, 8, 32, 256, 768, 384, 256, 1024]

theorem length_packetSlot (p : Packet) (gone : Nat) (header : Bool) : (packetSlot p gone header).length = 32 := by
  cases header <;> simp [packetSlot, zeros]

theorem length_stageSlot (e : Elem) : (stageSlot e).length = 32 := by
  unfold stageSlot
  split
  · split
    · simp [zeros]
    · exact length_packetSlot ..
  · simp [zeros]

theorem map_length_elemParts (s : State) (r : Region) (x : Elem) (loc : Nat) :
    (elemParts s r x loc).map List.length = elemPartLengths := by
  simp [elemParts, elemPartLengths, cfgBytes_eq, length_wordBytes, length_stageSlot, length_flatMap_const (c := 32),
    length_flatMap_const (c := 192), length_flatMap_const (c := 96), length_flatMap_const (c := 64), length_flatMap_const (c := 256)]

theorem elemRecord_eq (s : State) (r : Region) (e : Nat) :
    elemRecord s r e = fit 4096 (elemParts s r (r.elem e) (r.loc e)).flatten := by
  simp only [elemRecord, elemParts, List.flatten_cons, List.flatten_nil, List.append_nil, List.append_assoc]

/-- A field of the i-th part of a record, at the part's place. -/
theorem fld_elemRecord {s : State} {r : Region} {e : Nat} (i m : Nat) {c o n : Nat} {p : List Byte}
    (hp : (elemParts s r (r.elem e) (r.loc e))[i]? = some p) (hm : (elemPartLengths.take i).sum = m)
    (hc : elemPartLengths[i]? = some c) (h : o + n ≤ c) : fld (elemRecord s r e) (m + o) n = fld p o n := by
  have hlen := map_length_elemParts s r (r.elem e) (r.loc e)
  have hp' : p.length = c := by
    have hq := congrArg (fun l => l[i]?) hlen
    simp only [List.getElem?_map, hp, hc] at hq
    simpa using hq
  have hsum : elemPartLengths.sum = 3328 := rfl
  have htotal : m + c ≤ 3328 := by
    obtain ⟨hi, hci⟩ := List.getElem?_eq_some_iff.1 hc
    have h1 := List.sum_take_add_sum_drop elemPartLengths i
    rw [List.drop_eq_getElem_cons hi, List.sum_cons, hci] at h1
    omega
  rw [elemRecord_eq, fld_fit]
  · rw [← hm, ← hlen]
    exact fld_flatten hp (by omega)
  · rw [List.length_flatten, hlen]
    omega
  · omega

/-! ## What is read back -/

section ReadBack
variable (s : State) (r : Region) (e : Nat)

theorem fld_elemRecord_cfg {k : Nat} (hk : k < 112) :
    fld (elemRecord s r e) (4 * k) 4 = ((r.elem e).cfgWords[k]'(by rw [length_cfgWords]; exact hk)).toNat := by
  have h1 := fld_elemRecord (s := s) (r := r) (e := e) 0 0 (o := 4 * k) (n := 4) rfl rfl rfl (by omega)
  rw [Nat.zero_add] at h1
  rw [h1, cfgBytes_eq, fld_fit (by rw [length_wordBytes, length_cfgWords]; omega) (by omega), fld_wordBytes]

theorem getD_wordsAt (bs : List Byte) {n k : Nat} (hk : k < n) : (wordsAt bs 0 n).getD k 0 = BitVec.ofNat 32 (fld bs (4 * k) 4) := by
  simp [wordsAt, hk]

theorem getD_wordsAt_elemRecord {k : Nat} (hk : k < 112) :
    (wordsAt (elemRecord s r e) 0 128).getD k 0 = (r.elem e).cfgWords.getD k 0 := by
  rw [getD_wordsAt _ (by omega), fld_elemRecord_cfg s r e hk, List.getD_eq_getElem _ _ (by rw [length_cfgWords]; exact hk)]
  simp

theorem vecOf_drop {n j : Nat} {ws : List Word} {v : Vector Word n} (h : ∀ (k : Nat) (hk : k < n), ws.getD (j + k) 0 = v[k]) :
    vecOf 0 (ws.drop j) n = v := by
  ext k hk
  rw [vecOf, Vector.getElem_ofFn, ← h k hk]
  simp [List.getD_eq_getElem?_getD]

/-- The configuration of an element is read back from its record. -/
theorem elemOf_elemRecord : (elemOf (wordsAt (elemRecord s r e) 0 128)).mode = (r.elem e).mode ∧
    (elemOf (wordsAt (elemRecord s r e) 0 128)).route = (r.elem e).route ∧
    (elemOf (wordsAt (elemRecord s r e) 0 128)).static = (r.elem e).static ∧
    (elemOf (wordsAt (elemRecord s r e) 0 128)).consts = (r.elem e).consts ∧
    (elemOf (wordsAt (elemRecord s r e) 0 128)).trigs = (r.elem e).trigs ∧
    (elemOf (wordsAt (elemRecord s r e) 0 128)).slots = (r.elem e).slots := by
  have hw := fun k hk => getD_wordsAt_elemRecord s r e (k := k) hk
  refine ⟨(hw 0 (by omega)).trans rfl, (hw 1 (by omega)).trans rfl, (hw 2 (by omega)).trans rfl, vecOf_drop fun k hk => ?_,
    vecOf_drop fun k hk => ?_, vecOf_drop fun k hk => ?_⟩
  · rw [hw _ (by omega), getD_cfgWords_consts _ hk]
  · rw [hw _ (by omega), getD_cfgWords_trigs _ hk]
  · rw [hw _ (by omega), getD_cfgWords_slots _ hk]

theorem readElem_x : (readElem (elemRecord s r e) e).x = (r.elem e).x := by
  show vecMap 16 (fun k => BitVec.ofNat 32 (fld (elemRecord s r e) (512 + 4 * k) 4)) = _
  refine vecMap_eq fun k hk => ?_
  rw [fld_elemRecord 1 512 (o := 4 * k) rfl rfl rfl (by omega), fld_wordBytes (by simpa using hk)]
  simp

theorem readElem_p : (readElem (elemRecord s r e) e).p = (r.elem e).p := by
  show BitVec.ofNat 8 (fld _ (576 + 0) 1) = _
  rw [fld_elemRecord 2 576 rfl rfl rfl (by omega), fld_fit (by simp) (by omega), List.append_assoc, fld_append_left (by simp), fld_byte]
  simp

theorem readElem_rr : (readElem (elemRecord s r e) e).rr = (r.elem e).rr := by
  show BitVec.ofNat 5 (fld _ (576 + 1) 1) = _
  rw [fld_elemRecord 2 576 rfl rfl rfl (by omega), fld_fit (by simp) (by omega), List.append_assoc,
    fld_append_right (m := 1) (o := 0) rfl, fld_append_left (by simp), fld_leBytes_self (by omega)]
  simp

theorem readElem_finished : (readElem (elemRecord s r e) e).finished = (r.elem e).held := by
  show bit (fld _ (576 + 2) 1) 0 = _
  rw [fld_elemRecord 2 576 rfl rfl rfl (by omega), fld_fit (by simp) (by omega),
    fld_append_right (m := 2) (o := 0) (by simp), fld_leBytes_self (by cases (r.elem e).held <;> decide)]
  cases (r.elem e).held <;> rfl

theorem readElem_sb : (readElem (elemRecord s r e) e).sb = (r.elem e).sb := by
  show vecMap 4 (fun k => BitVec.ofNat 32 (fld (elemRecord s r e) (584 + 4 * k) 4)) = _
  refine vecMap_eq fun k hk => ?_
  rw [fld_elemRecord 3 584 (o := 4 * k) rfl rfl rfl (by omega), fld_wordBytes (by simpa using hk)]
  simp

theorem readElem_sbtag : (readElem (elemRecord s r e) e).sbtag = (r.elem e).sbtag := by
  show BitVec.ofNat 8 (fld _ (600 + 0) 1) = _
  rw [fld_elemRecord 4 600 rfl rfl rfl (by omega), fld_fit (by simp) (by omega), fld_byte]
  simp

theorem readElem_w : (readElem (elemRecord s r e) e).w = (r.elem e).w := by
  show vecMap 8 (fun k => BitVec.ofNat 256 (fld (elemRecord s r e) (640 + 32 * k) 32)) = _
  refine vecMap_eq fun k hk => ?_
  have hc : ∀ w : Wide, (leBytes w.toNat 32).length = 32 := fun w => length_leBytes ..
  rw [fld_elemRecord 6 640 (o := 32 * k) rfl rfl rfl (by omega), ← Nat.add_zero (32 * k), fld_flatMap hc (by simpa using hk) (by omega),
    fld_leBytes_self]
  · simp
  · exact BitVec.isLt _

end ReadBack

end Sys2Proof.Machine
end

section
/-!
PROOFS. The output channels of a record, and the region that an area's image gives (R360, R361).
-/
namespace Sys2Proof.Machine

/-! ## A token's slot -/

theorem length_tokSlot (wide : Bool) (t : Token) : (tokSlot wide t).length = 48 := length_fit ..

theorem fld_tokSlot_val (wide : Bool) (t : Token) : fld (tokSlot wide t) 0 32 = t.val.toNat := by
  unfold tokSlot
  rw [fld_fit (by simp) (by omega), List.append_assoc, fld_append_left (by simp), fld_leBytes_self]
  exact t.val.isLt

theorem fld_tokSlot_tag (wide : Bool) (t : Token) : fld (tokSlot wide t) 32 1 = t.tag.toNat := by
  unfold tokSlot
  rw [fld_fit (by simp) (by omega), List.append_assoc, fld_append_right (m := 32) (o := 0) (by simp), fld_append_left (by simp), fld_byte]

theorem fld_tokSlot_flag (wide : Bool) (t : Token) : bit (fld (tokSlot wide t) 33 1) 0 = true := by
  unfold tokSlot
  rw [fld_fit (by simp) (by omega), fld_append_right (m := 33) (o := 0) (by simp), fld_leBytes_self]
  · cases wide <;> rfl
  · cases wide <;> decide

/-! ## An output channel -/

/-- The tokens of an output channel as its record has them. -/
def outSlots (wide : Bool) (q : List Entry) : List Byte := fit 96 (q.flatMap (fun t => tokSlot wide t.tok))

theorem length_slots (wide : Bool) (q : List Entry) : (q.flatMap (fun t => tokSlot wide t.tok)).length = 48 * q.length :=
  length_flatMap_const (fun _ => length_tokSlot ..) q

theorem fld_outSlots {wide : Bool} {q : List Entry} {k j n : Nat} (h2 : q.length ≤ 2) (hk : k < q.length) (hj : j + n ≤ 48) :
    fld (outSlots wide q) (48 * k + j) n = fld (tokSlot wide (q[k]).tok) j n := by
  have hl := length_slots wide q
  unfold outSlots
  rw [fld_fit (by omega) (by omega)]
  exact fld_flatMap (fun _ => length_tokSlot ..) hk hj

theorem fld_outSlots_past {wide : Bool} {q : List Entry} {k j n : Nat} (hk : q.length ≤ k) (h2 : k < 2) (hj : j + n ≤ 48) :
    fld (outSlots wide q) (48 * k + j) n = 0 := by
  have hl := length_slots wide q
  exact fld_fit_past (by omega) (by omega)

section ReadBack
variable (s : State) (r : Region) (e : Nat)

theorem fld_elemRecord_out {o k j n : Nat} (ho : o < 4) (hk : k < 2) (hj : j + n ≤ 48) :
    fld (elemRecord s r e) (1664 + 96 * o + 48 * k + j) n =
      fld (outSlots ((r.elem e).outWide o) ((r.elem e).outch o).q) (48 * k + j) n := by
  have hr : o < (List.range 4).length := by simpa using ho
  rw [show 1664 + 96 * o + 48 * k + j = 1664 + (96 * o + (48 * k + j)) by omega,
    fld_elemRecord 8 1664 rfl rfl rfl (by omega), fld_flatMap (fun _ => length_fit ..) hr (by omega), List.getElem_range]
  rfl

variable {s r e} {o : Nat} (ho : o < 4) (h2 : ((r.elem e).outch o).q.length ≤ 2)
include ho h2

/-- A slot is taken where the channel had a token. -/
theorem outFlag_elemRecord {k : Nat} (hk : k < 2) :
    bit (flagsAt (elemRecord s r e) (0x680 + 96 * o + 48 * k)) 0 = decide (k < ((r.elem e).outch o).q.length) := by
  unfold flagsAt
  rw [fld_elemRecord_out s r e ho hk (by omega)]
  by_cases h : k < ((r.elem e).outch o).q.length
  · rw [fld_outSlots h2 h (by omega), fld_tokSlot_flag, decide_eq_true h]
  · rw [fld_outSlots_past (by omega) hk (by omega), decide_eq_false h]
    rfl

theorem outTok_elemRecord {k : Nat} (hk : k < ((r.elem e).outch o).q.length) :
    tokAt (elemRecord s r e) (0x680 + 96 * o + 48 * k) = (((r.elem e).outch o).q[k]).tok := by
  unfold tokAt
  rw [fld_elemRecord_out s r e ho (by omega) (by omega), ← Nat.add_zero (1664 + 96 * o + 48 * k),
    fld_elemRecord_out s r e ho (by omega) (by omega), fld_outSlots h2 hk (by omega), fld_outSlots h2 hk (by omega),
    fld_tokSlot_val, fld_tokSlot_tag]
  simp

theorem readOut_elemRecord : (readOut (elemRecord s r e) o).map (fun t => t.tok) = ((r.elem e).outch o).q.map (fun t => t.tok) := by
  have hf : (List.range 2).filter (fun k => bit (flagsAt (elemRecord s r e) (0x680 + 96 * o + 48 * k)) 0) =
      List.range ((r.elem e).outch o).q.length := by
    rw [List.filter_congr (q := fun k => decide (k < ((r.elem e).outch o).q.length))
      (fun k hk => outFlag_elemRecord ho h2 (List.mem_range.1 hk))]
    generalize ((r.elem e).outch o).q.length = n at h2
    interval_cases n <;> rfl
  unfold readOut
  rw [hf]
  refine List.ext_getElem (by simp) fun k h1 h3 => ?_
  have hk : k < ((r.elem e).outch o).q.length := by simpa using h3
  simp only [List.getElem_map, List.getElem_range]
  exact outTok_elemRecord ho h2 hk

end ReadBack

/-! ## The region of an area -/

theorem find_map_range' {α : Type} (f : Nat → α) {a n e : Nat} (ha : a ≤ e) (h : e < a + n) :
    AMap.find? ((List.range' a n).map (fun k => (k, f k))) e = some (f e) := by
  induction n generalizing a with
  | zero => omega
  | succ n ih =>
    rw [List.range'_succ, List.map_cons, AMap.find?]
    by_cases hae : a = e
    · rw [if_pos hae, hae]
    · rw [if_neg hae, ih (by omega) (by omega)]

theorem find_map_range {α : Type} (f : Nat → α) {n e : Nat} (h : e < n) :
    AMap.find? ((List.range n).map (fun k => (k, f k))) e = some (f e) := by
  rw [List.range_eq_range']
  exact find_map_range' f (Nat.zero_le e) (by omega)

/-- An element of the region that an area gives is the one of its record. -/
theorem elem_areaImage (hd : List Byte) (recs : List (List Byte)) (mats : AMap Mat) {qc e : Nat} (id ctx : Nat) (he : e < 4 * qc) :
    ((areaImage hd recs mats qc).region id ctx 0 false).elem e = if (elemOf (wordsAt (recs.getD e []) 0 128)).isMatrix
      then readMat (recs.getD e []) (AMap.getD mats e {}) else readElem (recs.getD e []) e := by
  simp only [areaImage, Image.region, Region.elem, AMap.getD]
  rw [find_map_range _ he]

end Sys2Proof.Machine
end

section
/-!
PROOFS. Writing a fault record changes only what a record may change (R366, R367, R451).
-/
namespace Sys2Proof.Machine

/-- A command, run on a state, changes only what a fault record may change. -/
def RecordsAt {α : Type} (m : Mach α) (s : State) : Prop := OnlyRecorded s (m.exec s).2

section Commands
variable {α β : Type} {s : State}

theorem recordsAt_pure (a : α) : RecordsAt (pure a) s := .refl s

theorem recordsAt_raiseM (c : Byte) (a : DWord) : RecordsAt (raiseM c a : Mach α) s := .refl s

theorem recordsAt_waitM : RecordsAt (waitM : Mach α) s := .refl s

theorem recordsAt_set {t : State} (h : OnlyRecorded s t) : RecordsAt (set t : Mach PUnit) s := h

theorem recordsAt_bind {m : Mach α} {f : α → Mach β} (hm : RecordsAt m s) (hf : ∀ a t, RecordsAt (f a) t) : RecordsAt (m >>= f) s := by
  unfold RecordsAt at *
  rw [exec_bind]
  rcases h : m.exec s with ⟨_ | a, t⟩
  · rw [h] at hm; exact hm
  · rw [h] at hm; exact hm.trans (hf a t)

theorem recordsAt_raiseM_bind (c : Byte) (a : DWord) (f : α → Mach β) : RecordsAt (raiseM c a >>= f) s := by
  unfold RecordsAt
  rw [exec_bind, exec_raiseM]
  exact .refl s

theorem recordsAt_get_bind {f : State → Mach β} (hf : RecordsAt (f s) s) : RecordsAt (get >>= f) s := by
  unfold RecordsAt at *
  rw [exec_bind, exec_get]
  exact hf

theorem recordsAt_ite {p : Prop} [Decidable p] {a b : Mach α} (ha : RecordsAt a s) (hb : RecordsAt b s) :
    RecordsAt (if p then a else b) s := by split <;> assumption

end Commands

theorem onlyRecorded_hostLines (s : State) (l : List Nat) : OnlyRecorded s { s with hostLines := l } := rfl

theorem onlyRecorded_remoteReads (s : State) (l : List RemRead) : OnlyRecorded s { s with remoteReads := l } := rfl

theorem onlyRecorded_partWrite (s : State) (pa : Nat) (bs : List Byte) : OnlyRecorded s (s.partWrite pa bs) := by
  unfold State.partWrite
  exact (onlyRecorded_hostLines ..).trans (onlyRecorded_fabWrite ..)

theorem onlyRecorded_sendReq (s : State) (kind : ReqKind) (owner : ReqOwner) (ctx dpa n : Nat) (data : Line) :
    OnlyRecorded s (s.sendReq kind owner ctx dpa n data).2 := by
  unfold OnlyRecorded State.sendReq State.sendAs State.setAport
  rfl

theorem onlyRecorded_evlWrite (s : State) (c : Byte) (ctx src : Nat) (d0 d1 : DWord) : OnlyRecorded s (s.evlWrite c ctx src d0 d1) := rfl

theorem onlyRecorded_endReads (s : State) (r : Reader) : OnlyRecorded s (s.endReads r) := rfl

theorem onlyRecorded_sendMsix (s : State) (v : Nat) : OnlyRecorded s (s.sendMsix v) := by
  unfold State.sendMsix; split <;> rfl

theorem onlyRecorded_partStore (s : State) (ctx : Nat) (x : Xlat) (bs : List Byte) : OnlyRecorded s (s.partStore ctx x bs) := by
  unfold State.partStore
  split
  · exact onlyRecorded_partWrite ..
  · split
    · exact onlyRecorded_sendReq ..
    · exact onlyRecorded_evlWrite ..

theorem recordsAt_partAddr (ctx : Nat) (need : Need) (va : DWord) (s : State) : RecordsAt (partAddr ctx need va) s := by
  unfold partAddr
  refine recordsAt_bind (onlyRecorded_translateM ..) fun x t => recordsAt_get_bind ?_
  refine recordsAt_ite (recordsAt_bind (recordsAt_raiseM ..) fun _ t => ?_) ?_ <;>
    exact recordsAt_ite (recordsAt_bind recordsAt_waitM fun _ _ => recordsAt_pure _) (recordsAt_pure _)

theorem recordsAt_partRead8 (ctx : Nat) (va : DWord) (s : State) : RecordsAt (partRead8 ctx va) s := by
  unfold partRead8
  refine recordsAt_bind (recordsAt_partAddr ..) fun x t => recordsAt_get_bind ?_
  split
  · exact recordsAt_ite (recordsAt_bind (recordsAt_raiseM ..) fun _ _ => recordsAt_pure _) (recordsAt_pure _)
  · split
    · split
      · exact recordsAt_ite (recordsAt_raiseM ..) (recordsAt_pure _)
      · exact recordsAt_waitM
    · refine recordsAt_ite (recordsAt_bind (recordsAt_set (onlyRecorded_evlWrite ..)) fun _ _ => recordsAt_raiseM_bind ..) ?_
      refine recordsAt_bind (recordsAt_set ?_) fun _ _ => recordsAt_waitM
      exact (onlyRecorded_sendReq t .load .other ctx x.pa 8 0).trans (onlyRecorded_remoteReads ..)

theorem recordsAt_fqHeader (ctx : Nat) (fq : DWord) (s : State) : RecordsAt (fqHeader ctx fq) s := by
  unfold fqHeader
  refine recordsAt_bind (recordsAt_partRead8 ..) fun _ _ => ?_
  refine recordsAt_bind (recordsAt_partRead8 ..) fun _ _ => ?_
  refine recordsAt_bind (recordsAt_partRead8 ..) fun _ _ => ?_
  refine recordsAt_bind (recordsAt_partRead8 ..) fun _ _ => ?_
  refine recordsAt_bind (recordsAt_partRead8 ..) fun _ _ => ?_
  refine recordsAt_bind (recordsAt_partAddr ..) fun _ _ => ?_
  exact recordsAt_bind (recordsAt_partAddr ..) fun _ _ => recordsAt_pure _

theorem onlyRecorded_addDrop (s : State) (ctx : Nat) (fq : DWord) (d : Nat) : OnlyRecorded s (s.addDrop ctx fq d) := by
  have ha := recordsAt_partAddr ctx .store (fq + 0x20) s
  unfold RecordsAt at ha
  unfold State.addDrop
  rcases h : (partAddr ctx .store (fq + 0x20)).exec s with ⟨_ | x, t⟩ <;> rw [h] at ha
  · exact ha
  · exact ha.trans (onlyRecorded_partStore ..)

theorem onlyRecorded_tryRecord (s : State) (r : FaultRec) : OnlyRecorded s (s.tryRecord r).2 := by
  unfold State.tryRecord
  dsimp only
  split
  · exact .refl s
  have hh := recordsAt_fqHeader r.ctx (s.ctxOf r.ctx).fqaddr s
  unfold RecordsAt at hh
  split <;> rename_i h <;> rw [h] at hh
  · exact hh
  · exact hh
  rename_i base l p c d s1
  split
  · exact hh.trans (onlyRecorded_addDrop ..)
  split
  · exact hh.trans (onlyRecorded_addDrop ..)
  have ha := recordsAt_partAddr r.ctx .store (BitVec.ofNat 64 (base + 64 * (p % 2 ^ (l % 32)))) s1
  unfold RecordsAt at ha
  split <;> rename_i h2 <;> rw [h2] at ha
  · exact hh.trans (ha.trans (onlyRecorded_addDrop ..))
  · exact hh.trans ha
  rename_i x s2
  have hs := (hh.trans ha).trans (onlyRecorded_partStore s2 r.ctx x (wordsBytes (r.words (r.seen.getD s2.cyc) p)))
  have hp := recordsAt_partAddr r.ctx .store ((s.ctxOf r.ctx).fqaddr + 0x10)
    (s2.partStore r.ctx x (wordsBytes (r.words (r.seen.getD s2.cyc) p)))
  unfold RecordsAt at hp
  split <;> rename_i h3 <;> rw [h3] at hp
  · exact ((hs.trans hp).trans (onlyRecorded_partStore ..)).trans (onlyRecorded_sendMsix ..)
  · exact hs.trans hp

theorem onlyRecorded_recordNow (s : State) (r : FaultRec) : OnlyRecorded s (s.recordNow r).2 := by
  have ht := onlyRecorded_tryRecord s r
  unfold State.recordNow
  split <;> rename_i h <;> rw [h] at ht
  · exact ht
  · exact ht.trans rfl
  · refine ht.trans (OnlyRecorded.trans ?_ (onlyRecorded_endReads ..))
    split
    · exact onlyRecorded_evlWrite ..
    · exact .refl _

theorem onlyRecorded_record (s : State) (r : FaultRec) : OnlyRecorded s (s.record r) := by
  have hr := onlyRecorded_recordNow s r
  unfold State.record
  split
  · split <;> rename_i h <;> rw [h] at hr
    · exact hr.trans rfl
    · exact hr
  · rfl

end Sys2Proof.Machine
end

section
/-!
PROOFS. Configuration operations: the token, the save area and the end of an operation (R40, R210, R359 to R361).
-/
namespace Sys2Proof.Machine

/-! ## Which regions stay -/

theorem regions_markEnd (s : State) (q : QEnd) (ctx : Nat) (on : Bool) : (s.markEnd q ctx on).regions = s.regions := by
  unfold State.markEnd
  split
  · exact (onlyRecorded_partWrite ..).regions
  · split
    · exact (onlyRecorded_sendReq ..).regions
    · exact (onlyRecorded_record ..).regions

theorem regions_markEnds (ctx : Nat) (on : Bool) (l : AMap QEnd) (s : State) : (markEnds ctx on l s).regions = s.regions := by
  induction l generalizing s with
  | nil => rfl
  | cons p l ih => rw [markEnds, ih, regions_markEnd]

theorem regions_dropEnds (r : Region) (l : List DWord) (s : State) : (dropEnds r l s).regions = s.regions := by
  induction l generalizing s with
  | nil => rfl
  | cons w l ih => rw [dropEnds, ih]; split <;> rfl

/-- A region that leaves is the only one that goes. -/
theorem regions_leave (s : State) (r : Region) : (s.leave r).regions = s.regions.filter (fun q => q.id != r.id) := by
  show (markEnds r.ctx false r.qends (dropEnds r r.binds s)).regions.filter _ = _
  rw [regions_markEnds, regions_dropEnds]

theorem regions_clearSides (r : Region) (l : List (Nat × Dir)) (s : State) : (clearSides r l s).regions = s.regions := by
  induction l generalizing s with
  | nil => rfl
  | cons p l ih =>
    rw [clearSides, ih]
    split
    · split <;> rfl
    · rfl

theorem regions_clearLandings (r : Region) (l : List (Nat × List Landed)) (s : State) :
    (clearLandings r l s).regions = s.regions := by
  induction l generalizing s with
  | nil => rfl
  | cons p l ih => rw [clearLandings, ih]; split <;> rfl

/-! ## The token's passage -/

section Passage
variable {s : State} {r : Region} {o : CfgOp} (hr : s.region? r.id = some r) (ht : r.token = some o.id) (ho : s.cfgop? o.id = some o)
  (hst : o.st = .token)
include hr ht ho hst

theorem exec_tokenPassage : exec (.reconfigurationTokenPassage r.id) s = if s.mayPass r o = false then .next (s.closeForToken r)
    else if o.kind = .sv then .next (s.setOp { o with st := .acting })
    else if o.kind = .swp then .next ((s.leave r).setOp { o with st := .acting })
    else .next (((s.leave r).cfgDone o 0).beginNext o.word) := by
  show execReconfigurationTokenPassage r.id s = _
  simp [execReconfigurationTokenPassage, hr, ht, ho, hst]

theorem exec_tokenPassage_waits (hp : s.mayPass r o = false) : exec (.reconfigurationTokenPassage r.id) s = .next
    (if s.regionLive r = true ∧ r.unit = none then s.setRegion r.closeWindow else s) := by
  rw [exec_tokenPassage hr ht ho hst, if_pos hp]
  simp [State.closeForToken]

end Passage

/-- What must hold before a token passes (R40). -/
theorem mayPass_conditions {s : State} {r : Region} {o : CfgOp} (h : s.mayPass r o = true) :
    (o.kind = .sv ∨ r.unit = none) ∧ (r.frozen = none → r.wins = [] ∧ r.raised = []) ∧ r.replay = none ∧
    s.enginesDone r = true ∧ s.outDone r = true ∧ s.drained r = true := by
  simp only [State.mayPass, Region.windowsDone, Bool.and_eq_true, Bool.or_eq_true, Option.isNone_iff_eq_none, beq_iff_eq] at h
  obtain ⟨⟨⟨⟨⟨⟨_, hunit⟩, hreplay, hwins⟩, hengines⟩, hout⟩, hdrained⟩, _⟩ := h
  refine ⟨hunit.symm, fun hf => ?_, hreplay, hengines, hout, hdrained⟩
  simpa [hf] using hwins

/-! ## The end of an operation -/

theorem exec_configurationSave {s : State} {r : Region} {o : CfgOp} (h : Pending s o .acting) (hk : o.kind = .sv)
    (hr : s.regionNamed o.word o.core o.ctx = some r) : exec (.configurationSave o.id) s =
      if s.mayPass r o = true ∧ (s.stillPending r).length ≤ 2048 then .next (s.cfgFinish o (saveM o r)) else .next s := by
  show execConfigurationSave o.id s = _
  simp [execConfigurationSave, h.found, h.first, h.stage, hk, hr]

theorem exec_configurationRestore {s : State} {o : CfgOp} (h : Pending s o .queued) (hk : o.kind = .rst) :
    exec (.configurationRestore o.id) s = .next (s.cfgFinish o (restoreM o)) := by
  show execConfigurationRestore o.id s = _
  simp [execConfigurationRestore, h.found, h.first, hk]

theorem cfgDone_result {s : State} {o : CfgOp} {cause : Byte} (hl : o.kind ≠ .launchLoad) (hu : o.kind ≠ .launchUnload) :
    s.cfgDone o cause = (({ s with cfgops := s.cfgops.filter (fun x => x.id != o.id) } : State).endReads (.cfgop o.id)).putResult
      o.core o.pend (cause.zeroExtend 64) false := by
  unfold State.cfgDone
  split
  · contradiction
  · contradiction
  · rfl

/-! ## The save area -/

theorem length_elemRecord (s : State) (r : Region) (e : Nat) : (elemRecord s r e).length = 4096 := length_fit ..

theorem length_matRecord (x : Elem) : (matRecord x).length = 4096 := length_fit ..

theorem length_sideRecord (s : State) (r : Region) (e : Nat) (d : Dir) : (sideRecord s r e d).length = 256 := by
  unfold sideRecord
  split
  · exact List.length_replicate
  · exact length_fit ..

/-- An element's record, of whichever kind. -/
def recordOf (s : State) (r : Region) (e : Nat) : List Byte :=
  if (r.elem e).isMatrix = true then matRecord (r.elem e) else elemRecord s r e

theorem length_recordOf (s : State) (r : Region) (e : Nat) : (recordOf s r e).length = 4096 := by
  unfold recordOf
  split
  · exact length_matRecord ..
  · exact length_elemRecord ..

theorem length_saveHeader (r : Region) (rolled : Bool) (n : Nat) : (saveHeader r rolled n).length = 4096 := length_fit ..

/-- The area is the header, the records, the sides and the log. -/
theorem saveBytes_eq (s : State) (r : Region) : ∃ rolled n log, log.length = 0x20000 ∧
    saveBytes s r = saveHeader r rolled n ++ ((List.range (4 * r.quads)).flatMap (recordOf s r) ++
      ((List.range r.quads).flatMap (fun q => quadSides.flatMap (fun p => sideRecord s r (4 * q + p.1) p.2)) ++ log)) :=
  ⟨_, _, _, length_fit .., by simp only [saveBytes, List.append_assoc]; rfl⟩

theorem length_saveBytes (s : State) (r : Region) : (saveBytes s r).length = areaSize r.quads := by
  obtain ⟨rolled, n, log, hlog, h⟩ := saveBytes_eq s r
  have hq : ∀ q, (quadSides.flatMap (fun p => sideRecord s r (4 * q + p.1) p.2)).length = 2048 := fun q =>
    length_flatMap_const (fun p => length_sideRecord ..) _
  rw [h, List.length_append, List.length_append, List.length_append, length_saveHeader, hlog,
    length_flatMap_const (length_recordOf s r), length_flatMap_const hq, List.length_range, List.length_range, areaSize]
  omega

theorem record_saveBytes (s : State) (r : Region) {e : Nat} (he : e < 4 * r.quads) :
    ((saveBytes s r).drop (0x1000 + 0x1000 * e)).take 0x1000 = recordOf s r e := by
  obtain ⟨rolled, n, log, _, h⟩ := saveBytes_eq s r
  rw [h, ← List.drop_drop, List.drop_append_of_le_length (length_saveHeader ..).ge, List.drop_eq_nil_of_le (length_saveHeader ..).le,
    List.nil_append, take_drop_flatMap (length_recordOf s r) (by simpa using he), List.getElem_range]

/-! ## The header -/

/-- The first word of the header: the form, the number of quads, the context, and two flags (R360). -/
def headWord (r : Region) (rolled array : Bool) : Nat :=
  1 + 2 ^ 32 * r.quads + 2 ^ 48 * (r.ctx % 64) + bitAt rolled 54 + bitAt array 55

theorem headWord_eq (r : Region) (rolled array : Bool) :
    ∃ z, headWord r rolled array = 1 + 4294967296 * (r.quads + 65536 * z) := by
  refine ⟨r.ctx % 64 + bitAt rolled 6 + bitAt array 7, ?_⟩
  have hr : bitAt rolled 54 = 2 ^ 48 * bitAt rolled 6 := by cases rolled <;> rfl
  have ha : bitAt array 55 = 2 ^ 48 * bitAt array 7 := by cases array <;> rfl
  rw [headWord, hr, ha]
  ring

/-- The parts of the header, in order. -/
def headerParts (r : Region) (rolled array : Bool) (nlog : Nat) : List (List Byte) :=
  [ fit 64 (leBytes (headWord r rolled array) 8 ++ leBytes nlog 8), wordsBytes (r.rtab.toList.map (fun w => w.toNat)),
    (List.range 128).flatMap (fun k => leBytes (AMap.getD r.cred k 0) 1),
    (List.range 128).flatMap (fun k => leBytes (AMap.getD r.rsup k 0) 2) ]

theorem map_length_headerParts (r : Region) (rolled array : Bool) (nlog : Nat) :
    (headerParts r rolled array nlog).map List.length = [64, 1024, 128, 256] := by
  simp [headerParts, wordsBytes_eq_flatMap, length_flatMap_const (c := 8), length_flatMap_const (c := 1), length_flatMap_const (c := 2)]

theorem saveHeader_eq (r : Region) (rolled : Bool) (nlog : Nat) :
    ∃ array, saveHeader r rolled nlog = fit 4096 (headerParts r rolled array nlog).flatten :=
  ⟨(List.range (4 * r.quads)).any (fun e => (r.elem e).isMatrix), by
    simp only [saveHeader, headerParts, headWord, List.flatten_cons, List.flatten_nil, List.append_nil, List.append_assoc]⟩

theorem length_headerParts (r : Region) (rolled array : Bool) (nlog : Nat) :
    (headerParts r rolled array nlog).flatten.length = 1472 := by
  rw [List.length_flatten, map_length_headerParts]; rfl

theorem fld_saveHeader_word (r : Region) (rolled : Bool) (nlog : Nat) : ∃ array, ∀ o n, o + n ≤ 8 →
    fld (saveHeader r rolled nlog) o n = headWord r rolled array / 256 ^ o % 256 ^ n := by
  obtain ⟨array, h⟩ := saveHeader_eq r rolled nlog
  refine ⟨array, fun o n hn => ?_⟩
  have hp := fld_flatten (L := headerParts r rolled array nlog) (i := 0) (o := o) (n := n) rfl (by rw [length_fit]; omega)
  rw [List.take_zero, List.sum_nil, Nat.zero_add] at hp
  rw [h, fld_fit (by rw [length_headerParts]; omega) (by omega), hp, fld_fit (by simp; omega) (by omega),
    fld_append_left (by simpa using hn), fld_leBytes _ _ hn]

theorem fld_saveHeader_route (r : Region) (rolled : Bool) (nlog : Nat) {k : Nat} (hk : k < 128) :
    fld (saveHeader r rolled nlog) (0x40 + 8 * k) 8 = (r.rtab[k]).toNat := by
  obtain ⟨array, h⟩ := saveHeader_eq r rolled nlog
  have hlen : (wordsBytes (r.rtab.toList.map (fun w => w.toNat))).length = 1024 := by
    simp [wordsBytes_eq_flatMap, length_flatMap_const (c := 8)]
  have hp := fld_flatten (L := headerParts r rolled array nlog) (i := 1) (o := 8 * k) (n := 8) rfl (by rw [hlen]; omega)
  rw [map_length_headerParts] at hp
  have hk' : k < (r.rtab.toList.map (fun w => w.toNat)).length := by simpa using hk
  have hw := fld_flatMap (f := fun w => leBytes w 8) (o := 0) (n := 8) (fun _ => length_leBytes ..) hk' (by omega)
  rw [h, fld_fit (by rw [length_headerParts]; omega) (by omega)]
  refine hp.trans ?_
  rw [wordsBytes_eq_flatMap]
  refine hw.trans ?_
  rw [fld_leBytes_self]
  · simp
  · simpa using (r.rtab[k]).isLt

theorem rtab_areaImage (r : Region) (rolled : Bool) (nlog : Nat) (recs : List (List Byte)) (mats : AMap Mat) :
    (areaImage (saveHeader r rolled nlog) recs mats r.quads).rtab = r.rtab := by
  show vecMap 128 (fun k => BitVec.ofNat 64 (fld (saveHeader r rolled nlog) (0x40 + 8 * k) 8)) = _
  refine vecMap_eq fun k hk => ?_
  rw [fld_saveHeader_route r rolled nlog hk]
  simp

theorem head_saveBytes (s : State) (r : Region) : leNat ((saveBytes s r).take 4) = 1 ∧
    (r.quads ≤ 1024 → leNat (((saveBytes s r).drop 4).take 2) % 2048 = r.quads) := by
  obtain ⟨rolled, n, log, _, h⟩ := saveBytes_eq s r
  obtain ⟨array, hw⟩ := fld_saveHeader_word r rolled n
  have h0 : leNat ((saveBytes s r).take 4) = headWord r rolled array / 256 ^ 0 % 256 ^ 4 := by
    rw [← hw 0 4 (by omega), h]
    exact fld_append_left (o := 0) (by rw [length_saveHeader]; omega)
  have h4 : leNat (((saveBytes s r).drop 4).take 2) = headWord r rolled array / 256 ^ 4 % 256 ^ 2 := by
    rw [← hw 4 2 (by omega), h]
    exact fld_append_left (by rw [length_saveHeader]; omega)
  obtain ⟨z, hz⟩ := headWord_eq r rolled array
  rw [h0, h4, hz]
  constructor <;> intros <;> omega

end Sys2Proof.Machine
end

section
/-!
PROOFS. The save and what a restore reads back, and the obligation (R40, R359 to R361).
-/
namespace Sys2Proof.Machine

/-! ## Writing the area -/

theorem exec_saveWriteM_succ {w : Who} {va : DWord} {bs : List Byte} {s s1 : State} {x : Xlat} (n : Nat)
    (h : (saveAtM w va).exec s = (.ok x, s1)) (hw : s1.writeHeld (lowOf x.pa) 64 false = false) :
    (saveWriteM w va (n + 1) bs).exec s =
      (saveWriteM w (va + 64) n (bs.drop 64)).exec (s1.fabWrite (lowOf x.pa) (bs.take 64)) := by
  simp only [saveWriteM, exec_bind, h, exec_get, hw, Bool.false_eq_true, if_false, exec_set]

section Save
variable {o : CfgOp} {r : Region} {s s1 : State}

theorem exec_saveM_unmapped {e : Stop} (h : (saveAtM (whoCfg o) o.addr).exec s = (.error e, s1)) :
    (saveM o r).exec s = (.error e, s1) := by
  simp only [saveM, exec_bind, exec_get, h]

variable {x : Xlat} (h : (saveAtM (whoCfg o) o.addr).exec s = (.ok x, s1))
include h

theorem exec_saveM_stops {e : Stop} {s2 : State}
    (hw : (saveWriteM (whoCfg o) o.addr ((areaSize r.quads + 63) / 64) (saveBytes s r)).exec s1 = (.error e, s2)) :
    (saveM o r).exec s = (.error e, s2) := by
  simp only [saveM, exec_bind, exec_get, h, length_saveBytes, hw]

theorem exec_saveM_saves {s2 : State}
    (hw : (saveWriteM (whoCfg o) o.addr ((areaSize r.quads + 63) / 64) (saveBytes s r)).exec s1 = (.ok (), s2)) :
    ∃ t, (saveM o r).exec s = (.ok (), t) ∧ t.regions = s2.regions.filter (fun q => q.id != r.id) := by
  simp only [saveM, exec_bind, exec_get, h, length_saveBytes, hw, exec_set]
  refine ⟨_, rfl, ?_⟩
  rw [regions_leave]
  show (clearLandings r s2.landings (clearSides r r.boundarySides s2)).regions.filter _ = _
  rw [regions_clearLandings, regions_clearSides]

end Save

/-! ## Reading an element back -/

theorem recordOf_eq (s : State) (r : Region) (e : Nat) (h : (r.elem e).isMatrix = false) : recordOf s r e = elemRecord s r e := by
  simp [recordOf, h]

/-- The element that an area's image has where a triggered or static element was saved. -/
theorem elem_areaImage_saved {s : State} {r : Region} {e : Nat} (hd : List Byte) (mats : AMap Mat) (id ctx : Nat)
    (he : e < 4 * r.quads) (hm : (r.elem e).isMatrix = false) :
    ((areaImage hd ((List.range (4 * r.quads)).map (recordOf s r)) mats r.quads).region id ctx 0 false).elem e =
      readElem (elemRecord s r e) e := by
  have hrec : ((List.range (4 * r.quads)).map (recordOf s r)).getD e [] = elemRecord s r e := by
    rw [List.getD_eq_getElem _ _ (by simpa using he), List.getElem_map, List.getElem_range, recordOf_eq s r e hm]
  have hmode : (elemOf (wordsAt (elemRecord s r e) 0 128)).isMatrix = false := by
    rw [Elem.isMatrix, (elemOf_elemRecord s r e).1]
    exact hm
  rw [elem_areaImage _ _ _ _ _ he, hrec, hmode, if_neg Bool.false_ne_true]

theorem outch_readElem {bs : List Byte} {e o : Nat} (ho : o < 4) : ((readElem bs e).outch o).q = readOut bs o := by
  show ((vecMap 4 (fun k => { q := readOut bs k : OutCh })).getD o default).q = _
  simp [vecMap, Vector.getD, ho]

/-! ## The obligation -/

/-- Settles O31: each stage of a save and a restore by its own lemma, and the read-back field by field through the parts of a record. -/
theorem tokenSaveAndRestore : Obligations.TokenSaveAndRestore := by
  unfold Obligations.TokenSaveAndRestore
  refine ⟨⟨?passage, fun s r o => mayPass_conditions, regions_leave, ?save, ?restore, ?done⟩, ?area, ?readBack,
    rtab_areaImage, fun w va n bs s x s1 => exec_saveWriteM_succ n, ?saveM⟩
  case passage =>
    intro s r o hr ht ho hst
    refine ⟨exec_tokenPassage_waits hr ht ho hst, fun hp => ⟨fun hk => ?_, fun hk => ?_, fun hk => ?_⟩⟩ <;>
      rw [exec_tokenPassage hr ht ho hst, if_neg (by simp [hp])] <;> simp [hk]
  case save =>
    intro s r o h hk hr
    rw [exec_configurationSave h hk hr]
    refine ⟨fun hw => if_neg ?_, fun hp hl => ?_⟩
    · rintro ⟨hp, hl⟩
      rcases hw with hw | hw
      · simp [hp] at hw
      · omega
    · rw [if_pos ⟨hp, hl⟩]
      rfl
  case restore =>
    intro s o h hk
    rw [exec_configurationRestore h hk]
    rfl
  case done =>
    intro s o cause hl hu
    rw [cfgDone_result hl hu]
    refine ⟨rfl, ?_, rfl, rfl⟩
    rw [State.putResult, core_updCore_self]
    rfl
  case area =>
    exact fun s r => ⟨length_saveBytes s r, fun e he => record_saveBytes s r he, head_saveBytes s r⟩
  case readBack =>
    rintro s r hd mats id ctx e he hm hout recs hrecs y rfl
    have hy := elem_areaImage_saved (s := s) hd mats id ctx he hm
    obtain ⟨hmode, hroute, hstatic, hconsts, htrigs, hslots⟩ := elemOf_elemRecord s r e
    rw [show recs = (List.range (4 * r.quads)).map (recordOf s r) from hrecs, hy]
    refine ⟨hmode, hroute, hstatic, hconsts, htrigs, hslots, readElem_x s r e, readElem_w s r e, readElem_p s r e,
      readElem_rr s r e, readElem_sb s r e, readElem_sbtag s r e, rfl, readElem_finished s r e, fun o ho => ?_⟩
    rw [outch_readElem ho, readOut_elemRecord ho (hout o ho)]
  case saveM =>
    intro o r s
    rcases h : (saveAtM (whoCfg o) o.addr).exec s with ⟨e | x, s1⟩
    · exact exec_saveM_unmapped h
    · dsimp only
      rcases hw : (saveWriteM (whoCfg o) o.addr ((areaSize r.quads + 63) / 64) (saveBytes s r)).exec s1 with ⟨e | u, s2⟩
      · exact exec_saveM_stops h hw
      · exact exec_saveM_saves h hw

end Sys2Proof.Machine
end

section
/-!
PROOFS. The encodings (R94 to R102, R161, R162): the words of every well-formed instruction decode to it.
-/
namespace Sys2Proof.Laws.Codec

/-- Settles O58: each instruction with words by its own lemma; an event has none. -/
theorem decodeEncodeAgree : Obligations.DecodeEncodeAgree := by
  unfold Obligations.DecodeEncodeAgree
  intro i
  cases i with
  -- element words (R94 to R102)
  | addI32 f => exact addI32 f | subI32 f => exact subI32 f | mulI32 f => exact mulI32 f | mulhI32 f => exact mulhI32 f
  | and f => exact and f | or f => exact or f | xor f => exact xor f | shl f => exact shl f | shrU32 f => exact shrU32 f
  | shrI32 f => exact shrI32 f | minI32 f => exact minI32 f | maxI32 f => exact maxI32 f | mov f => exact mov f | sel f => exact sel f
  | addsatI32 f => exact addsatI32 f | subsatI32 f => exact subsatI32 f | absI32 f => exact absI32 f | clz f => exact clz f
  | popc f => exact popc f | cmpEq f => exact cmpEq f | cmpLtI32 f => exact cmpLtI32 f | cmpLtU32 f => exact cmpLtU32 f
  | faddF32 f => exact faddF32 f | fsubF32 f => exact fsubF32 f | fmulF32 f => exact fmulF32 f | ffmaF32 f => exact ffmaF32 f
  | fminF32 f => exact fminF32 f | fmaxF32 f => exact fmaxF32 f | fabsF32 f => exact fabsF32 f | fnegF32 f => exact fnegF32 f
  | fcmpEqF32 f => exact fcmpEqF32 f | fcmpLtF32 f => exact fcmpLtF32 f | fcmpLeF32 f => exact fcmpLeF32 f | fdivF32 f => exact fdivF32 f
  | fsqrtF32 f => exact fsqrtF32 f | faddF16x2 f => exact faddF16x2 f | fmulF16x2 f => exact fmulF16x2 f
  | ffmaF16x2 f => exact ffmaF16x2 f | faddBf16x2 f => exact faddBf16x2 f | fmulBf16x2 f => exact fmulBf16x2 f
  | ffmaBf16x2 f => exact ffmaBf16x2 f | cvtF32I32 f => exact cvtF32I32 f | cvtI32F32 f => exact cvtI32F32 f
  | cvtF32F16 f => exact cvtF32F16 f | cvtF32Bf16 f => exact cvtF32Bf16 f | cvtF16F32 f => exact cvtF16F32 f
  | cvtBf16F32 f => exact cvtBf16F32 f | cvtE4m3F32 f => exact cvtE4m3F32 f | cvtE5m2F32 f => exact cvtE5m2F32 f
  | vaddI32 f => exact vaddI32 f | vfaddF32 f => exact vfaddF32 f | vfmulF32 f => exact vfmulF32 f | vfmaF32 f => exact vfmaF32 f
  | vfmaF16 f => exact vfmaF16 f | vfmaBf16 f => exact vfmaBf16 f | vbcast f => exact vbcast f | vext f => exact vext f
  | vins f => exact vins f | vredsumF32 f => exact vredsumF32 f | vredsumF16 f => exact vredsumF16 f | vredmaxF32 f => exact vredmaxF32 f
  | pwr f => exact pwr f | prd f => exact prd f | steer f => exact steer f | merge f => exact merge f | rep f => exact rep f
  | sweep f => exact sweep f | stop f => exact stop f | tagSet f => exact tagSet f | tagGet f => exact tagGet f | send f => exact send f
  | fin f => exact fin f | ldB32 f => exact ldB32 f | ldU8 f => exact ldU8 f | ldW256 f => exact ldW256 f | stB32 f => exact stB32 f
  | stB8 f => exact stB8 f | stW256 f => exact stW256 f | vld f => exact vld f | vst f => exact vst f | vrcl f => exact vrcl f
  | fence f => exact fence f | amoAdd32 f => exact amoAdd32 f | amoAdd64 f => exact amoAdd64 f | amoMinI32 f => exact amoMinI32 f
  | amoMaxI32 f => exact amoMaxI32 f | amoAnd32 f => exact amoAnd32 f | amoOr32 f => exact amoOr32 f | amoXchg32 f => exact amoXchg32 f
  | amoCas32 f => exact amoCas32 f | amoCas64 f => exact amoCas64 f | amoFaddF32 f => exact amoFaddF32 f
  -- sequencer words (R161, R162)
  | addI64 d a b => exact addI64 d a b | subI64 d a b => exact subI64 d a b | mulI64 d a b => exact mulI64 d a b
  | mulhI64 d a b => exact mulhI64 d a b | mulhU64 d a b => exact mulhU64 d a b | divI64 d a b => exact divI64 d a b
  | divU64 d a b => exact divU64 d a b | remI64 d a b => exact remI64 d a b | remU64 d a b => exact remU64 d a b
  | seqAnd d a b => exact seqAnd d a b | seqOr d a b => exact seqOr d a b | seqXor d a b => exact seqXor d a b
  | seqShl d a b => exact seqShl d a b | shrU64 d a b => exact shrU64 d a b | shrI64 d a b => exact shrI64 d a b
  | sltI64 d a b => exact sltI64 d a b | sltU64 d a b => exact sltU64 d a b | minI64 d a b => exact minI64 d a b
  | maxI64 d a b => exact maxI64 d a b | seqAddI32 d a b => exact seqAddI32 d a b | addi d a i => exact addi d a i
  | andi d a i => exact andi d a i | ori d a i => exact ori d a i | xori d a i => exact xori d a i | sltiI64 d a i => exact sltiI64 d a i
  | sltiU64 d a i => exact sltiU64 d a i | shli d a n => exact shli d a n | shriU64 d a n => exact shriU64 d a n
  | shriI64 d a n => exact shriI64 d a n | movz d q i => exact movz d q i | movk d q i => exact movk d q i
  | jalr d a i => exact jalr d a i | br o => exact br o | jal r o => exact jal r o | bz r o => exact bz r o | bnz r o => exact bnz r o
  | bltz r o => exact bltz r o | bgez r o => exact bgez r o | seqLdU8 d a o => exact seqLdU8 d a o | ldI8 d a o => exact ldI8 d a o
  | ldU16 d a o => exact ldU16 d a o | ldI16 d a o => exact ldI16 d a o | ldU32 d a o => exact ldU32 d a o
  | ldI32 d a o => exact ldI32 d a o | ldB64 d a o => exact ldB64 d a o | seqStB8 d a o => exact seqStB8 d a o
  | stB16 d a o => exact stB16 d a o | seqStB32 d a o => exact seqStB32 d a o | stB64 d a o => exact stB64 d a o
  | seqAmoAdd32 d a b scope ord => exact seqAmoAdd32 d a b scope ord | seqAmoAdd64 d a b scope ord => exact seqAmoAdd64 d a b scope ord
  | amoAnd64 d a b scope ord => exact amoAnd64 d a b scope ord | amoOr64 d a b scope ord => exact amoOr64 d a b scope ord
  | amoXchg64 d a b scope ord => exact amoXchg64 d a b scope ord | amoMinI64 d a b scope ord => exact amoMinI64 d a b scope ord
  | amoMaxI64 d a b scope ord => exact amoMaxI64 d a b scope ord | seqAmoCas32 d a b scope ord => exact seqAmoCas32 d a b scope ord
  | seqAmoCas64 d a b scope ord => exact seqAmoCas64 d a b scope ord | seqLdB32Acq d a scope => exact seqLdB32Acq d a scope
  | ldB64Acq d a scope => exact ldB64Acq d a scope | seqStB32Rel a b scope => exact seqStB32Rel a b scope
  | stB64Rel a b scope => exact stB64Rel a b scope | seqVld d a b => exact seqVld d a b | seqVst a b => exact seqVst a b
  | seqVrcl a b => exact seqVrcl a b | seqFence scope => exact seqFence scope | strmLd ra rb port => exact strmLd ra rb port
  | strmSt ra rb port => exact strmSt ra rb port | strmCp ra rb rc => exact strmCp ra rb rc | memHrv ra rb => exact memHrv ra rb
  | semaSig r scope i => exact semaSig r scope i | semaSigR d r scope => exact semaSigR d r scope
  | semaAcq d r scope i => exact semaAcq d r scope i | semaTry d r scope i => exact semaTry d r scope i
  | semaSet r i => exact semaSet r i | semaRd d i => exact semaRd d i | tbarInit a b scope => exact tbarInit a b scope
  | tbarArr d a b scope => exact tbarArr d a b scope | tbarDecl a b scope => exact tbarDecl a b scope
  | tbarWait d a b scope => exact tbarWait d a b scope | tbarTest d a b scope => exact tbarTest d a b scope
  | tbarFini a scope => exact tbarFini a scope | lnch ra rb => exact lnch ra rb | lnchInd ra rb => exact lnchInd ra rb
  | cfgLd ra rb rc => exact cfgLd ra rb rc | cfgSwp ra rb rc => exact cfgSwp ra rb rc | cfgUnl ra rc => exact cfgUnl ra rc
  | cfgSv ra rb rc => exact cfgSv ra rb rc | cfgRst ra rb rc => exact cfgRst ra rb rc | brngGet d a => exact brngGet d a
  | brngRel a => exact brngRel a | mringPut a b => exact mringPut a b | mringGet d => exact mringGet d | mringLd d a => exact mringLd d a
  | mringRel => exact mringRel | bqPush d a b y q => exact bqPush d a b y q | bqPop d b y q => exact bqPop d b y q
  | bqPopW d b y q => exact bqPopW d b y q | bqCnt d y q => exact bqCnt d y q | csrr d i => exact csrr d i | csrw a i => exact csrw a i
  | csrs a i => exact csrs a i | csrc a i => exact csrc a i | wait => exact wait | halt => exact halt | trap i => exact trap i
  | eret => exact eret | sbar => exact sbar | rplBeg d a b => exact rplBeg d a b | rplStep d a b => exact rplStep d a b
  | rplEnd d a b => exact rplEnd d a b | rplDrop d a b => exact rplDrop d a b | ctxTen d a => exact ctxTen d a
  | ctxRoot d a => exact ctxRoot d a | ctxKill d a => exact ctxKill d a | mstFrz d => exact mstFrz d | mstThaw d => exact mstThaw d
  | thrSet d a => exact thrSet d a | snsrRd d a => exact snsrRd d a | evlPut d => exact evlPut d | tlbInv d a => exact tlbInv d a
  | seqRun d a b => exact seqRun d a b | seqStop d => exact seqStop d | seqResume d => exact seqResume d
  -- events
  | _ => exact fun _ => rfl

end Sys2Proof.Laws.Codec
end

section
/-!
PROOFS. The firings of element instructions (R84, R87 to R92, R119 to R127): the firing of each instruction of classes R, U and V by its
table, what poison comes to, and what such a firing can answer.
-/
namespace Sys2Proof.Machine

/-! ## Each element instruction is its firing -/

/-- An instruction with a firing executes as that firing. -/
theorem exec_of_fireOf {i : Instr} {g : FireCtx → Elem → FireRes} (h : fireOf i = some g) (s : State) : exec i s = fireAs g s := by
  cases i <;> cases h <;> rfl

theorem wordKind_of_fireOf {i : Instr} {g : FireCtx → Elem → FireRes} (h : fireOf i = some g) : wordKind i = .element := by
  cases i <;> cases h <;> rfl

theorem exists_fireOf {i : Instr} (h : wordKind i = .element) : ∃ g, fireOf i = some g := by
  cases i <;> cases h <;> exact ⟨_, rfl⟩

/-! ## The firings of classes R, U and V -/

theorem opCmpEq_eq : opCmpEq = fun a b => if a = b then 1 else 0 := by
  funext a b
  simp [opCmpEq, flag]

theorem opCmpLtI32_eq : opCmpLtI32 = fun a b => if a.toInt < b.toInt then 1 else 0 := by
  funext a b
  simp [opCmpLtI32, flag, BitVec.slt]

theorem opCmpLtU32_eq : opCmpLtU32 = fun a b => if a.toNat < b.toNat then 1 else 0 := by
  funext a b
  simp [opCmpLtU32, flag, BitVec.ult]

theorem opAbsI32_eq : opAbsI32 = fun _ a => BitVec.ofNat 32 a.toInt.natAbs := by
  funext _ a
  exact BitVec.ofInt_natCast ..

/-- The count of the bits set among the lowest n. -/
theorem popcFrom_eq (v n : Nat) : popcFrom v n = ((List.range n).filter (fun k => v.testBit k)).length := by
  induction n generalizing v with
  | zero => rfl
  | succ n ih =>
    have hshift : (List.range n).filter ((fun k => v.testBit k) ∘ Nat.succ) = (List.range n).filter (fun k => (v / 2).testBit k) :=
      List.filter_congr fun k _ => by rw [Function.comp_apply, Nat.testBit_succ]
    rw [popcFrom, ih, List.range_succ_eq_map, List.filter_cons, List.filter_map, hshift]
    rcases Nat.mod_two_eq_zero_or_one v with h | h <;> simp [h, Nat.testBit_zero, Nat.add_comm]

theorem opPopc_eq : opPopc = fun _ a => BitVec.ofNat 32 ((List.range 32).filter (fun k => a.getLsbD k)).length := by
  funext _ a
  rw [opPopc, popcFrom_eq]
  rfl

theorem floatCmp_eq (p : Nat → Nat → Bool) : (fun a b : Word => flag (p a.toNat b.toNat)) =
    fun a b => BitVec.ofNat 32 (if p a.toNat b.toNat = true then 1 else 0) := by
  funext a b
  unfold flag
  split <;> rfl

theorem fireOf_integerPairs : ∀ p ∈ integerPairs, ∀ f, fireOf (p.1 f) = some (fireR (fun _ => p.2) f) := by
  simp only [integerPairs, List.forall_mem_cons]
  refine ⟨fun _ => rfl, fun _ => rfl, fun _ => rfl, fun _ => rfl, fun _ => rfl, fun _ => rfl, fun _ => rfl, fun _ => rfl, fun _ => rfl,
    fun _ => rfl, fun _ => rfl, fun _ => rfl, fun _ => rfl, fun _ => rfl, fun _ => ?_, fun _ => ?_, fun _ => ?_, nofun⟩
  · rw [← opCmpEq_eq]; rfl
  · rw [← opCmpLtI32_eq]; rfl
  · rw [← opCmpLtU32_eq]; rfl

theorem fireOf_integerSingles : ∀ p ∈ integerSingles, ∀ f, fireOf (p.1 f) = some (fireU (fun _ => p.2) f) := by
  simp only [integerSingles, List.forall_mem_cons]
  refine ⟨fun _ => rfl, fun _ => ?_, fun _ => rfl, fun _ => ?_, nofun⟩
  · rw [← opAbsI32_eq]; rfl
  · rw [← opPopc_eq]; rfl

theorem fireOf_floatPairs : ∀ p ∈ floatPairs, ∀ f, fireOf (p.1 f) =
    some (fireR (fun _ a b => BitVec.ofNat 32 (p.2 a.toNat b.toNat)) f) := by
  simp only [floatPairs, List.forall_mem_cons]
  refine ⟨fun _ => rfl, fun _ => rfl, fun _ => rfl, fun _ => rfl, fun _ => rfl, fun _ => rfl, fun _ => ?_, fun _ => ?_,
    fun _ => ?_, nofun⟩
  · rw [← floatCmp_eq Fmt.f32.eqBits]; rfl
  · rw [← floatCmp_eq Fmt.f32.ltBits]; rfl
  · rw [← floatCmp_eq Fmt.f32.leBits]; rfl

theorem fireOf_packedPairs : ∀ p ∈ packedPairs, ∀ f, fireOf (p.1 f) =
    some (fireR (fun _ a b => packItems (p.2 (loItem a) (loItem b)) (p.2 (hiItem a) (hiItem b))) f) := by
  unfold packedPairs
  intro p hp
  fin_cases hp <;> exact fun _ => rfl

theorem fireOf_floatSingles : ∀ p ∈ floatSingles, ∀ f, fireOf (p.1 f) = some (fireU p.2 f) := by
  unfold floatSingles
  intro p hp
  fin_cases hp <;> exact fun _ => rfl

section
variable {f : ElemRec} {i : Instr}

theorem fireOf_scalarPair (hi : i ∈ scalarPairs f) : fireOf i = some (fireSel f) ∨ ∃ v, fireOf i = some (fireR v f) := by
  simp only [scalarPairs, List.mem_append, List.mem_map, List.mem_cons, List.not_mem_nil, or_false] at hi
  obtain ((⟨p, hp, rfl⟩ | ⟨p, hp, rfl⟩) | ⟨p, hp, rfl⟩) | rfl | rfl | rfl | rfl := hi
  · exact .inr ⟨_, fireOf_integerPairs p hp f⟩
  · exact .inr ⟨_, fireOf_floatPairs p hp f⟩
  · exact .inr ⟨_, fireOf_packedPairs p hp f⟩
  · exact .inl rfl
  all_goals exact .inr ⟨_, congrArg some (funext₂ fun _ _ => rfl)⟩

theorem fireOf_scalarSingle (hi : i ∈ scalarSingles f) : ∃ v, fireOf i = some (fireU v f) := by
  simp only [scalarSingles, List.mem_append, List.mem_map] at hi
  obtain ⟨p, hp, rfl⟩ | ⟨p, hp, rfl⟩ := hi
  · exact ⟨_, fireOf_integerSingles p hp f⟩
  · exact ⟨_, fireOf_floatSingles p hp f⟩

theorem fireOf_vectorPair (hi : i ∈ vectorPairs f) : ∃ v, fireOf i = some (fireV v f) := by
  simp only [vectorPairs, List.mem_cons, List.not_mem_nil, or_false] at hi
  obtain rfl | rfl | rfl | rfl | rfl | rfl := hi <;> exact ⟨_, congrArg some (funext₂ fun _ _ => rfl)⟩

theorem fireOf_scalarToVector (hi : i ∈ scalarToVector f) : ∃ v, fireOf i = some (fireSV v f) := by
  simp only [scalarToVector, List.mem_cons, List.not_mem_nil, or_false] at hi
  obtain rfl | rfl := hi <;> exact ⟨_, congrArg some (funext₂ fun _ _ => rfl)⟩

theorem fireOf_vectorToScalar (hi : i ∈ vectorToScalar f) : ∃ v, fireOf i = some (fireVS v f) := by
  simp only [vectorToScalar, List.mem_cons, List.not_mem_nil, or_false] at hi
  obtain rfl | rfl | rfl | rfl := hi <;> exact ⟨_, congrArg some (funext₂ fun _ _ => rfl)⟩

end

/-! ## Poison (R90) -/

/-- What poison of level l at a source comes to. -/
def poisonAnswer (f : ElemRec) (c : FireCtx) (e : Elem) (dqb : Bool) (a : Src) (b : Option Nat) (d : Dest) (l : Nat) : FireRes :=
  if f.tp && d.takesTag then .done (finishFire c e f.dqa dqb f.sp a.chan b d ⟨0, mkTag 3 l⟩) [] else .raises Cause.poisonConsumed

theorem fireAs_poisonAnswer {s : State} {r : Region} {e slot l : Nat} {g : FireCtx → Elem → FireRes} {f : ElemRec} {dqb : Bool}
    {a : Src} {b : Option Nat} {d : Dest} (h : Fires s r e slot)
    (hg : g (firing s r e slot) (r.elem e) = poisonAnswer f (firing s r e slot) (r.elem e) dqb a b d l) :
    fireAs g s = .next (poisonOutcome s r e slot f dqb a b d l) := by
  unfold poisonAnswer at hg
  unfold poisonOutcome
  split <;> rename_i ht
  · exact fireAs_done h (hg.trans (if_pos ht))
  · exact fireAs_raises h (hg.trans (if_neg ht))

section
variable {f : ElemRec} {c : FireCtx} {e : Elem} {a b : Src} {l : Nat}

theorem fireSrc_poison {dqb : Bool} {d : Dest} {b : Option Src} (v : Wide) (hd : d.room e c.now = true) (hp : poisonLevel a b = some l) :
    fireSrc c e f.dqa dqb f.sp f.tp d a b v = poisonAnswer f c e dqb a (b.bind Src.chan) d l := by
  unfold fireSrc poisonAnswer
  cases b <;> simp only [hd, hp, Bool.not_true, Bool.false_eq_true, if_false, Option.bind_none, Option.bind_some]

theorem fireR_poison (v : Elem → Word → Word → Word) (ha : e.scalarSrc c.now f.a = some a) (hb : e.scalarSrc c.now f.b = some b)
    (hd : (scalarDest f.d).room e c.now = true) (hp : poisonLevel a (some b) = some l) :
    fireR v f c e = poisonAnswer f c e f.dqb a b.chan (scalarDest f.d) l := by
  unfold fireR
  rw [ha, hb]
  exact fireSrc_poison _ hd hp

theorem fireSel_poison (ha : e.scalarSrc c.now f.a = some a) (hb : e.scalarSrc c.now f.b = some b)
    (hd : (scalarDest f.d).room e c.now = true) (hp : poisonLevel a (some b) = some l) :
    fireSel f c e = poisonAnswer f c e f.dqb a b.chan (scalarDest f.d) l := by
  unfold fireSel poisonAnswer
  simp only [ha, hb, hd, hp, Bool.not_true, Bool.false_eq_true, if_false]

theorem fireU_poison (v : Nat → Word → Word) (ha : e.scalarSrc c.now f.a = some a) (hd : (scalarDest f.d).room e c.now = true)
    (hp : poisonLevel a none = some l) : fireU v f c e = poisonAnswer f c e false a none (scalarDest f.d) l := by
  unfold fireU
  rw [ha]
  exact fireSrc_poison _ hd hp

theorem fireV_poison (v : Elem → Wide → Wide → Wide) (ha : e.vectorSrc c.now f.a = some a) (hb : e.vectorSrc c.now f.b = some b)
    (hd : (vectorDest f.d).room e c.now = true) (hp : poisonLevel a (some b) = some l) :
    fireV v f c e = poisonAnswer f c e f.dqb a b.chan (vectorDest f.d) l := by
  unfold fireV
  rw [ha, hb]
  exact fireSrc_poison _ hd hp

theorem fireSV_poison (v : Elem → Word → Wide) (ha : e.scalarSrc c.now f.a = some a) (hd : (vectorDest f.d).room e c.now = true)
    (hp : poisonLevel a none = some l) : fireSV v f c e = poisonAnswer f c e false a none (vectorDest f.d) l := by
  unfold fireSV
  rw [ha]
  exact fireSrc_poison _ hd hp

theorem fireVS_poison (v : Wide → Word) (ha : e.vectorSrc c.now f.a = some a) (hd : (scalarDest f.d).room e c.now = true)
    (hp : poisonLevel a none = some l) : fireVS v f c e = poisonAnswer f c e false a none (scalarDest f.d) l := by
  unfold fireVS
  rw [ha]
  exact fireSrc_poison _ hd hp

end

/-- Settles O3: by the class of the instruction, each of whose firings answers `poisonAnswer`. -/
theorem poisonHeadPassesOrRaises : Obligations.PoisonHeadPassesOrRaises := by
  unfold Obligations.PoisonHeadPassesOrRaises
  refine ⟨?pairs, ?singles, ?vectors, ?toVector, ?toScalar⟩
  case pairs =>
    intro f i hi s r e slot a b l h ha hb hd hp
    obtain hg | ⟨v, hg⟩ := fireOf_scalarPair hi <;> rw [exec_of_fireOf hg]
    · exact fireAs_poisonAnswer h (fireSel_poison ha hb hd hp)
    · exact fireAs_poisonAnswer h (fireR_poison v ha hb hd hp)
  case singles =>
    intro f i hi s r e slot a l h ha hd hp
    obtain ⟨v, hg⟩ := fireOf_scalarSingle hi
    rw [exec_of_fireOf hg, fireAs_poisonAnswer h (fireU_poison v ha hd hp)]
  case vectors =>
    intro f i hi s r e slot a b l h ha hb hd hp
    obtain ⟨v, hg⟩ := fireOf_vectorPair hi
    rw [exec_of_fireOf hg, fireAs_poisonAnswer h (fireV_poison v ha hb hd hp)]
  case toVector =>
    intro f i hi s r e slot a l h ha hd hp
    obtain ⟨v, hg⟩ := fireOf_scalarToVector hi
    rw [exec_of_fireOf hg, fireAs_poisonAnswer h (fireSV_poison v ha hd hp)]
  case toScalar =>
    intro f i hi s r e slot a l h ha hd hp
    obtain ⟨v, hg⟩ := fireOf_vectorToScalar hi
    rw [exec_of_fireOf hg, fireAs_poisonAnswer h (fireVS_poison v ha hd hp)]

end Sys2Proof.Machine
end

section
/-!
PROOFS. The frame of element firings (R84): what a firing leaves of the part, of its region and of its element.
-/
namespace Sys2Proof.Machine

/-! ## Regions -/

/-- A region without its elements, windows, journal, log, pending arrivals and marks of a raised cause: what neither an arrival nor a
firing without effects changes. -/
def Region.base (r : Region) : Region :=
  { r with elems := [], wins := [], nextSnap := none, journal := [], log := [], pend := [], serial := 0, raised := [], flagAt := none
           startAt := 0 }

section
variable (r : Region) (now e slot : Nat) (static : Bool)

theorem base_closeWindow : r.closeWindow.base = r.base := by unfold Region.closeWindow; split <;> rfl
theorem base_openWindow : r.openWindow.base = r.base := by unfold Region.openWindow; split <;> rfl
theorem pend_closeWindow : r.closeWindow.pend = r.pend := by unfold Region.closeWindow; split <;> rfl
theorem pend_openWindow : r.openWindow.pend = r.pend := by unfold Region.openWindow; split <;> rfl
theorem elems_openWindow : r.openWindow.elems = r.elems := by unfold Region.openWindow; split <;> rfl

theorem closeAfter_cases (fx : List Fx) : r.closeAfter fx = r ∨ r.closeAfter fx = r.closeWindow := by
  unfold Region.closeAfter
  split
  · exact .inl rfl
  · split
    · exact .inr rfl
    · exact .inl rfl

theorem base_closeAfter (fx : List Fx) : (r.closeAfter fx).base = r.base := by
  obtain h | h := closeAfter_cases r fx <;> rw [h]
  exact base_closeWindow r

theorem elems_closeAfter (fx : List Fx) : (r.closeAfter fx).elems = r.elems := by
  obtain h | h := closeAfter_cases r fx <;> rw [h]
  exact closeWindow_elems r

theorem pend_closeAfter (fx : List Fx) : (r.closeAfter fx).pend = r.pend := by
  obtain h | h := closeAfter_cases r fx <;> rw [h]
  exact pend_closeWindow r

theorem base_logArrival (w : Arrival) : (r.logArrival w).base = r.base := by
  obtain ⟨l, h | h⟩ := logArrival_cases r w <;> rw [h]
  · rfl
  · exact base_closeWindow _

theorem base_raising (cause : Byte) : (r.raising now e slot static cause).base = r.base :=
  (base_closeAfter ..).trans (base_openWindow r)

theorem elems_raising (cause : Byte) : (r.raising now e slot static cause).elems = r.elems :=
  (elems_closeAfter ..).trans (elems_openWindow r)

end

/-! ## Arrivals that were pending -/

/-- An element without its input channels and inboxes. -/
def Elem.sansInputs (x : Elem) : Elem :=
  { x with inc := Vector.replicate 4 default, inbox := Vector.replicate 4 [], boxFreed := Vector.replicate 4 [] }

/-- An element without its inputs and without what the start of a unit and the cycle of a firing set: what no arrival changes. -/
def Elem.base (x : Elem) : Elem :=
  { x.sansInputs with p := 0, rr := 0, started := false, finished := false, lastFire := 0 }

/-- Nothing but arrivals lies between two regions. -/
structure Region.Arrived (r q : Region) : Prop where
  base : q.base = r.base
  elem : ∀ k, (q.elem k).base = (r.elem k).base

theorem Region.Arrived.refl (r : Region) : r.Arrived r := ⟨rfl, fun _ => rfl⟩

theorem Region.Arrived.trans {r q t : Region} (h : r.Arrived q) (h' : q.Arrived t) : r.Arrived t :=
  ⟨h'.base.trans h.base, fun k => (h'.elem k).trans (h.elem k)⟩

section
variable (r : Region) (now : Nat)

theorem arrived_updElem (e : Nat) {g : Elem → Elem} (hg : ∀ x, (g x).base = x.base) : r.Arrived (r.updElem e g) where
  base := rfl
  elem k := by
    rcases eq_or_ne e k with rfl | hk
    · rw [elem_updElem_self, hg]
    · rw [elem_updElem_ne r g hk]

theorem arrived_logArrival (w : Arrival) : r.Arrived (r.logArrival w) := ⟨base_logArrival r w, fun k => by rw [logArrival_elem]⟩

theorem arrived_updElem_logArrival (e : Nat) {g : Elem → Elem} (hg : ∀ x, (g x).base = x.base) (w : Arrival) :
    r.Arrived ((r.updElem e g).logArrival w) := (arrived_updElem r e hg).trans (arrived_logArrival ..)

theorem arrived_startElems : r.Arrived (r.startElems now) where
  base := rfl
  elem k := by
    simp only [Region.startElems, Region.elem, AMap.getD, find_map_values]
    cases AMap.find? r.elems k <;> rfl

theorem arrived_putToken (e ch : Nat) (t : Token) (src : Nat) : r.Arrived (r.putToken now e ch t src) := by
  unfold Region.putToken
  split
  · exact arrived_updElem r e (by intro; rfl)
  · dsimp only
    split
    · exact arrived_updElem_logArrival r e (by intro; rfl) _
    · exact arrived_updElem r e (by intro; rfl)

theorem arrived_putPacket (e k : Nat) (p : Packet) : r.Arrived (r.putPacket now e k p) := by
  unfold Region.putPacket
  split
  · exact .refl r
  · exact arrived_updElem_logArrival r e (by intro; rfl) _

theorem arrived_enter (a : Arrival) : r.Arrived (r.enter now a) := by
  cases a with
  | chan e ch t => exact arrived_putToken ..
  | resv e ch acc half t => exact arrived_updElem_logArrival r e (by intro; rfl) _
  | inbox e k p => exact arrived_putPacket ..
  | unit => exact (arrived_startElems ..).trans (arrived_logArrival ..)

theorem arrived_settlePend (ps kept : List LogEntry) : r.Arrived (r.settlePend now ps kept) := by
  induction ps generalizing r kept with
  | nil => exact ⟨rfl, fun _ => rfl⟩
  | cons p ps ih =>
    unfold Region.settlePend
    dsimp only
    split
    · exact (arrived_enter r now p.what).trans (ih ..)
    · exact ih ..

theorem arrived_settle : r.Arrived (r.settle now) := by
  unfold Region.settle
  split
  · exact arrived_settlePend ..
  · exact .refl r

theorem settle_of_pend_nil {r : Region} (h : r.pend = []) : r.settle now = r := by simp [Region.settle, h]

end

/-! ## A firing without effects -/

/-- The region as a firing without effects leaves it, before pending arrivals enter. -/
def Region.taken (r : Region) (now e slot : Nat) (static : Bool) (el : Elem) : Region :=
  let q := r.openWindow.setElem e { el with lastFire := now + 1, rr := if static then el.rr else BitVec.ofNat 5 slot }
  let q1 : Region := { q with
    wins := countLast q.wins, journal := q.journal ++ [⟨q.serial, e, slot, static, now⟩], serial := q.serial + 1 }
  q1.closeAfter []

section
variable (r : Region) (now e slot : Nat) (static : Bool) (el : Elem)

theorem firing_nil : r.firing now e slot static el [] = (r.taken now e slot static el).settle now := rfl

theorem base_taken : (r.taken now e slot static el).base = r.base := (base_closeAfter ..).trans (base_openWindow r)

theorem pend_taken : (r.taken now e slot static el).pend = r.pend := (pend_closeAfter ..).trans (pend_openWindow r)

theorem elems_taken : (r.taken now e slot static el).elems =
    AMap.set r.elems e { el with lastFire := now + 1, rr := if static then el.rr else BitVec.ofNat 5 slot } := by
  refine (elems_closeAfter ..).trans ?_
  show AMap.set r.openWindow.elems _ _ = _
  rw [elems_openWindow]

theorem elem_taken_self : (r.taken now e slot static el).elem e =
    { el with lastFire := now + 1, rr := if static then el.rr else BitVec.ofNat 5 slot } := by
  rw [Region.elem, elems_taken, getD_set_self]

theorem elem_taken_ne {k : Nat} (h : k ≠ e) : (r.taken now e slot static el).elem k = r.elem k := by
  rw [Region.elem, elems_taken, getD_set_ne _ _ _ h.symm]
  rfl

end

/-! ## A firing keeps its region's number -/

theorem id_of_base {r q : Region} (h : q.base = r.base) : q.id = r.id := (congrArg Region.id h :)

theorem id_freePort (r : Region) (now : Nat) (a : Acc) : (r.freePort now a).id = r.id := by
  unfold Region.freePort
  split <;> rfl

theorem id_sweepStores (r : Region) (now exit : Nat) : (r.sweepStores now exit).id = r.id := by
  unfold Region.sweepStores
  generalize r.accs.filter (r.sweepsStore exit) = l
  generalize hq : ({ r with accs := r.accs.filter (fun a => !r.sweepsStore exit a) } : Region) = q
  have hid : q.id = r.id := by rw [← hq]
  rw [← hid]
  clear hq hid
  induction l generalizing q with
  | nil => rfl
  | cons a l ih => exact (ih (q.freePort now a)).trans (id_freePort q now a)

theorem id_applyFx (now e slot : Nat) (r : Region) (x : Fx) : (applyFx now e slot r x).id = r.id := by
  cases x with
  | access a => exact (apply_ite Region.id ..).trans (ite_self _)
  | send k p => exact (apply_ite Region.id ..).trans (ite_self _)
  | fence => rfl
  | fin => exact (apply_ite Region.id ..).trans (ite_self _)
  | sweep x => exact id_sweepStores ..

theorem id_foldl_applyFx (now e slot : Nat) (fx : List Fx) (r : Region) : (fx.foldl (applyFx now e slot) r).id = r.id := by
  induction fx generalizing r with
  | nil => rfl
  | cons x fx ih => exact (ih _).trans (id_applyFx ..)

theorem id_firing (r : Region) (now e slot : Nat) (static : Bool) (el : Elem) (fx : List Fx) :
    (r.firing now e slot static el fx).id = r.id := by
  unfold Region.firing
  dsimp only
  refine (id_of_base ((arrived_settle ..).base.trans (base_closeAfter ..))).trans ((id_foldl_applyFx ..).trans ?_)
  show Region.id (if _ then _ else _) = _
  split
  · exact id_of_base ((base_openWindow _).trans (base_closeWindow r))
  · exact id_of_base (base_openWindow r)

theorem id_applyFire (r : Region) (now e slot : Nat) (static : Bool) (x : FireRes) : (r.applyFire now e slot static x).id = r.id := by
  cases x with
  | notReady => rfl
  | raises cause => exact id_of_base (base_raising ..)
  | done el fx => exact id_firing ..

/-! ## The element after a firing of class R, U or V -/

/-- Two states of an element that differ in no word, tag or configuration field but those at the destinations of `hit`. -/
structure Elem.SameBut (hit : Dest → Prop) (x y : Elem) : Prop where
  consts : y.consts = x.consts
  slots : y.slots = x.slots
  trigs : y.trigs = x.trigs
  mode : y.mode = x.mode
  route : y.route = x.route
  static : y.static = x.static
  xr : ∀ j, hit (.x j) ∨ y.xr j = x.xr j
  wr : ∀ j, hit (.w j) ∨ y.wr j = x.wr j
  sb : ∀ j, hit (.s j) ∨ y.sb.getD j 0 = x.sb.getD j 0
  sbtag : hit (.s 0) ∨ y.sbtag = x.sbtag

theorem sameBut_of_base (hit : Dest → Prop) {x y : Elem} (h : y.base = x.base) : x.SameBut hit y where
  consts := (congrArg Elem.consts h :)
  slots := (congrArg Elem.slots h :)
  trigs := (congrArg Elem.trigs h :)
  mode := (congrArg Elem.mode h :)
  route := (congrArg Elem.route h :)
  static := (congrArg Elem.static h :)
  xr j := .inr (congrArg (Elem.xr · j) h :)
  wr j := .inr (congrArg (Elem.wr · j) h :)
  sb j := .inr (congrArg (fun u : Elem => u.sb.getD j 0) h :)
  sbtag := .inr (congrArg Elem.sbtag h :)

theorem Elem.SameBut.trans {hit : Dest → Prop} {x y z : Elem} (h : x.SameBut hit y) (h' : y.SameBut hit z) : x.SameBut hit z where
  consts := h'.consts.trans h.consts
  slots := h'.slots.trans h.slots
  trigs := h'.trigs.trans h.trigs
  mode := h'.mode.trans h.mode
  route := h'.route.trans h.route
  static := h'.static.trans h.static
  xr j := (h'.xr j).elim .inl fun hz => (h.xr j).imp_right hz.trans
  wr j := (h'.wr j).elim .inl fun hz => (h.wr j).imp_right hz.trans
  sb j := (h'.sb j).elim .inl fun hz => (h.sb j).imp_right hz.trans
  sbtag := h'.sbtag.elim .inl fun hz => h.sbtag.imp_right hz.trans

theorem Elem.SameBut.mono {hit hit' : Dest → Prop} {x y : Elem} (h : x.SameBut hit y) (hm : ∀ i, hit i → hit' i) : x.SameBut hit' y :=
  { h with
    xr := fun j => (h.xr j).imp_left (hm _)
    wr := fun j => (h.wr j).imp_left (hm _)
    sb := fun j => (h.sb j).imp_left (hm _)
    sbtag := h.sbtag.imp_left (hm _) }

theorem getD_setIfInBounds_ne {α : Type} {n i j : Nat} (v : Vector α n) (a d : α) (h : i ≠ j) :
    (v.setIfInBounds i a).getD j d = v.getD j d := by
  simp [Vector.getD, h]

theorem getLsbD_setPred_ne {i j : Nat} (p : Byte) (v : Bool) (h : i ≠ j) : (setPred p i v).getLsbD j = p.getLsbD j := by
  unfold setPred
  split
  · have hbit : (BitVec.ofNat 8 (1 <<< i)).getLsbD j = false := by
      rw [BitVec.getLsbD_ofNat, Nat.one_shiftLeft, Nat.testBit_two_pow_of_ne h, Bool.and_false]
    exact (BitVec.getLsbD_or ..).trans ((congrArg _ hbit).trans (Bool.or_false _))
  · have hbit : ((1 : Byte) <<< i).getLsbD j = false := by
      rw [show (1 : Byte) <<< i = BitVec.twoPow 8 i from (BitVec.twoPow_eq ..).symm, BitVec.getLsbD_twoPow]
      simp [h]
    rw [BitVec.getLsbD_and, BitVec.getLsbD_not, hbit]
    by_cases hj : j < 8
    · simp [hj]
    · simp [BitVec.getLsbD_of_ge p j (by omega)]

section
variable (x : Elem) (now src : Nat) (d : Dest) (t : Token)

theorem sameBut_write : x.SameBut (d = ·) (x.write now src d t) where
  consts := by cases d <;> rfl
  slots := by cases d <;> rfl
  trigs := by cases d <;> rfl
  mode := by cases d <;> rfl
  route := by cases d <;> rfl
  static := by cases d <;> rfl
  xr j := by
    cases d with
    | x i => exact (eq_or_ne i j).imp (congrArg Dest.x) (getD_setIfInBounds_ne _ _ _)
    | _ => exact .inr rfl
  wr j := by
    cases d with
    | w i => exact (eq_or_ne i j).imp (congrArg Dest.w) (getD_setIfInBounds_ne _ _ _)
    | _ => exact .inr rfl
  sb j := by
    cases d with
    | s i => exact (eq_or_ne i j).imp (congrArg Dest.s) (getD_setIfInBounds_ne _ _ _)
    | _ => exact .inr rfl
  sbtag := by
    cases d with
    | s i => exact (eq_or_ne i 0).imp (congrArg Dest.s) fun h => if_neg h
    | _ => exact .inr rfl

theorem write_p (j : Nat) : d = .p j ∨ (x.write now src d t).p.getLsbD j = x.p.getLsbD j := by
  cases d with
  | p i => exact (eq_or_ne i j).imp (congrArg Dest.p) (getLsbD_setPred_ne _ _)
  | _ => exact .inr rfl

theorem write_outch (o : Nat) : d = .out o ∨ (x.write now src d t).outch o = x.outch o := by
  cases d with
  | out i => exact (eq_or_ne i o).imp (congrArg Dest.out) (getD_setIfInBounds_ne _ _ _)
  | _ => exact .inr rfl

theorem write_inc : (x.write now src d t).inc = x.inc := by cases d <;> rfl
theorem write_inbox : (x.write now src d t).inbox = x.inbox := by cases d <;> rfl

end

theorem sansInputs_deq (x : Elem) (now ch : Nat) : (x.deq now ch).sansInputs = x.sansInputs := by
  unfold Elem.deq
  dsimp only
  split
  · rfl
  · split
    · split <;> rfl
    · rfl

theorem sansInputs_deqFlagged (x : Elem) (now : Nat) (dqa dqb : Bool) (a b : Option Nat) :
    (deqFlagged x now dqa dqb a b).sansInputs = x.sansInputs := by
  unfold deqFlagged
  dsimp only
  repeat' split
  all_goals simp only [sansInputs_deq]

/-- The element of a firing as it writes its result: after the dequeues and the set-predicate step. -/
def stepped (c : FireCtx) (e : Elem) (dqa dqb sp : Bool) (a b : Option Nat) : Elem :=
  { deqFlagged e c.now dqa dqb a b with p := spStep sp c.trig (deqFlagged e c.now dqa dqb a b).p }

theorem finishFire_eq (c : FireCtx) (e : Elem) (dqa dqb sp : Bool) (a b : Option Nat) (d : Dest) (t : Token) :
    finishFire c e dqa dqb sp a b d t = (stepped c e dqa dqb sp a b).write c.now c.region.serial d t := rfl

/-- What a firing of class R, U or V leaves of its element's predicates, output channels, input channels and inboxes. -/
structure Elem.Fired (f : ElemRec) (d : Dest) (trig : Word) (x y : Elem) : Prop where
  p : ∃ p0, (p0 = x.p ∨ p0 = spStep f.sp trig x.p) ∧ ∀ j, d = .p j ∨ y.p.getLsbD j = p0.getLsbD j
  outch : ∀ o, d = .out o ∨ y.outch o = x.outch o
  inputs : f.dqa = false → f.dqb = false → y.inc = x.inc ∧ y.inbox = x.inbox

section
variable (f : ElemRec) (c : FireCtx) (e : Elem) (d : Dest)

theorem fired_refl (trig : Word) : e.Fired f d trig e :=
  ⟨⟨_, .inl rfl, fun _ => .inr rfl⟩, fun _ => .inr rfl, fun _ _ => ⟨rfl, rfl⟩⟩

/-- What a firing of class R, U or V with destination d can answer. -/
inductive AluAnswer : FireRes → Prop where
  | notReady : AluAnswer .notReady
  | raises (cause : Byte) : AluAnswer (.raises cause)
  | done (dqb : Bool) (a b : Option Nat) (t : Token) (h : dqb = true → f.dqb = true) :
      AluAnswer (.done (finishFire c e f.dqa dqb f.sp a b d t) [])

variable {f c e d}

theorem sameBut_finishFire (dqb : Bool) (a b : Option Nat) (t : Token) :
    e.SameBut (d = ·) (finishFire c e f.dqa dqb f.sp a b d t) := by
  have h : (stepped c e f.dqa dqb f.sp a b).base = e.base := (congrArg Elem.base (sansInputs_deqFlagged ..) :)
  exact (sameBut_of_base _ h).trans (sameBut_write _ c.now c.region.serial d t)

theorem fired_finishFire (dqb : Bool) (a b : Option Nat) (t : Token) (hb : dqb = true → f.dqb = true) :
    e.Fired f d c.trig (finishFire c e f.dqa dqb f.sp a b d t) where
  p := by
    have h : (deqFlagged e c.now f.dqa dqb a b).p = e.p := (congrArg Elem.p (sansInputs_deqFlagged ..) :)
    exact ⟨_, .inr (congrArg _ h), fun j => write_p (stepped c e f.dqa dqb f.sp a b) ..⟩
  outch o := by
    have h : (stepped c e f.dqa dqb f.sp a b).outch o = e.outch o := (congrArg (Elem.outch · o) (sansInputs_deqFlagged ..) :)
    exact (write_outch (stepped c e f.dqa dqb f.sp a b) ..).imp_right fun ho => ho.trans h
  inputs ha hfb := by
    have hdqb : dqb = false := by simpa [hfb] using hb
    rw [finishFire_eq, write_inc, write_inbox, ha, hdqb]
    exact ⟨rfl, rfl⟩

theorem fireSrc_answer {dqb : Bool} {a : Src} {b : Option Src} {v : Wide} (h : dqb = true → f.dqb = true) :
    AluAnswer f c e d (fireSrc c e f.dqa dqb f.sp f.tp d a b v) := by
  unfold fireSrc
  split
  · exact .notReady
  · dsimp only
    split
    · split
      · exact .done _ _ _ _ h
      · exact .raises _
    · split
      · exact .done _ _ _ _ h
      · exact .done _ _ _ _ h

theorem fireR_answer (v : Elem → Word → Word → Word) : AluAnswer f c e (scalarDest f.d) (fireR v f c e) := by
  unfold fireR
  split
  · exact fireSrc_answer id
  · exact .notReady

theorem fireSel_answer : AluAnswer f c e (scalarDest f.d) (fireSel f c e) := by
  unfold fireSel
  split
  · dsimp only
    split
    · exact .notReady
    · split
      · split
        · exact .done _ _ _ _ id
        · exact .raises _
      · exact .done _ _ _ _ id
  · exact .notReady

theorem fireU_answer (v : Nat → Word → Word) : AluAnswer f c e (scalarDest f.d) (fireU v f c e) := by
  unfold fireU
  split
  · exact fireSrc_answer nofun
  · exact .notReady

theorem fireV_answer (v : Elem → Wide → Wide → Wide) : AluAnswer f c e (vectorDest f.d) (fireV v f c e) := by
  unfold fireV
  split
  · exact fireSrc_answer id
  · exact .notReady

theorem fireVS_answer (v : Wide → Word) : AluAnswer f c e (scalarDest f.d) (fireVS v f c e) := by
  unfold fireVS
  split
  · exact fireSrc_answer nofun
  · exact .notReady

theorem fireSV_answer (v : Elem → Word → Wide) : AluAnswer f c e (vectorDest f.d) (fireSV v f c e) := by
  unfold fireSV
  split
  · exact fireSrc_answer nofun
  · exact .notReady

end

theorem fireOf_aluForm {f : ElemRec} {p : Instr × Dest} (hp : p ∈ aluForms f) :
    ∃ g, fireOf p.1 = some g ∧ ∀ c e, AluAnswer f c e p.2 (g c e) := by
  simp only [aluForms, List.mem_append, List.mem_map] at hp
  obtain ⟨i, (hi | hi) | hi, rfl⟩ | ⟨i, hi | hi, rfl⟩ := hp
  · obtain hg | ⟨v, hg⟩ := fireOf_scalarPair hi
    · exact ⟨_, hg, fun _ _ => fireSel_answer⟩
    · exact ⟨_, hg, fun _ _ => fireR_answer v⟩
  · obtain ⟨v, hg⟩ := fireOf_scalarSingle hi
    exact ⟨_, hg, fun _ _ => fireU_answer v⟩
  · obtain ⟨v, hg⟩ := fireOf_vectorToScalar hi
    exact ⟨_, hg, fun _ _ => fireVS_answer v⟩
  · obtain ⟨v, hg⟩ := fireOf_vectorPair hi
    exact ⟨_, hg, fun _ _ => fireV_answer v⟩
  · obtain ⟨v, hg⟩ := fireOf_scalarToVector hi
    exact ⟨_, hg, fun _ _ => fireSV_answer v⟩

/-! ## The region after a firing of class R, U or V -/

/-- What a firing of class R, U or V of element e leaves of its region. -/
structure Region.Fired (f : ElemRec) (d : Dest) (trig : Word) (e : Nat) (r q : Region) : Prop where
  base : q.base = r.base
  elem : ∀ k, (r.elem k).SameBut (fun i => k = e ∧ d = i) (q.elem k)
  others : r.pend = [] → ∀ k, k ≠ e → q.elem k = r.elem k
  own : r.pend = [] → (r.elem e).Fired f d trig (q.elem e)

section
variable {f : ElemRec} {d : Dest} {r q : Region}

theorem fired_of_elems (trig : Word) (e : Nat) (hb : q.base = r.base) (he : q.elems = r.elems) : r.Fired f d trig e q := by
  have h : ∀ k, q.elem k = r.elem k := fun k => by rw [Region.elem, he]; rfl
  exact ⟨hb, fun k => sameBut_of_base _ (congrArg Elem.base (h k)), fun _ k _ => h k, fun _ => h e ▸ fired_refl ..⟩

theorem fired_firing {el : Elem} {trig : Word} {e : Nat} (now slot : Nat) (static : Bool) (hs : (r.elem e).SameBut (d = ·) el)
    (hf : (r.elem e).Fired f d trig el) : r.Fired f d trig e (r.firing now e slot static el []) := by
  have ha : (r.taken now e slot static el).Arrived (r.firing now e slot static el []) := arrived_settle ..
  refine ⟨ha.base.trans (base_taken ..), fun k => .trans ?_ (sameBut_of_base _ (ha.elem k)), fun hp k hk => ?_, fun hp => ?_⟩
  · rcases eq_or_ne k e with rfl | hk
    · rw [elem_taken_self]
      exact (hs.mono fun _ h => ⟨rfl, h⟩).trans (sameBut_of_base _ rfl)
    · rw [elem_taken_ne _ _ _ _ _ _ hk]
      exact sameBut_of_base _ rfl
  · rw [firing_nil, settle_of_pend_nil _ ((pend_taken ..).trans hp), elem_taken_ne _ _ _ _ _ _ hk]
  · rw [firing_nil, settle_of_pend_nil _ ((pend_taken ..).trans hp), elem_taken_self]
    exact ⟨hf.p, hf.outch, hf.inputs⟩

theorem fired_applyFire {c : FireCtx} {e : Nat} {x : FireRes} (now slot : Nat) (static : Bool) (h : AluAnswer f c (r.elem e) d x) :
    r.Fired f d c.trig e (r.applyFire now e slot static x) := by
  cases h with
  | notReady => exact fired_of_elems _ _ rfl rfl
  | raises cause => exact fired_of_elems _ _ (base_raising ..) (elems_raising ..)
  | done dqb a b t h => exact fired_firing _ _ _ (sameBut_finishFire ..) (fired_finishFire _ _ _ _ h)

end

/-! ## Firings of the part -/

/-- An element that may not fire, or whose trigger does not hold, changes nothing. -/
theorem fireAs_idle {g : FireCtx → Elem → FireRes} {s : State} {id e slot : Nat} (hact : s.act = .elem id e slot)
    (h : ∀ r, s.region? id = some r → (s.triggeredFires r e && trigOk (r.elem e) s.cyc (slotTrig r e slot)) = false) :
    fireAs g s = .next s := by
  unfold fireAs
  rw [hact]
  dsimp only
  split
  · rfl
  · rename_i r hr
    exact if_neg (by rw [show (mkCtx s r e slot (claimsUpTo s r e)).trig = slotTrig r e slot from rfl, h r hr]; decide)

/-- A firing changes no region but its own and nothing else of the part. -/
theorem fireAs_frame {g : FireCtx → Elem → FireRes} {s t : State} {id e slot : Nat} (hact : s.act = .elem id e slot)
    (h : fireAs g s = .next t) : { t with regions := s.regions } = s ∧ ∀ q, q ≠ id → t.region? q = s.region? q := by
  obtain hs | ⟨r, e', slot', hact', hr, hs⟩ := fireAs_cases g s
  · cases hs.symm.trans h
    exact ⟨rfl, fun _ _ => rfl⟩
  · cases hs.symm.trans h
    obtain ⟨rfl, rfl, rfl⟩ := Acting.elem.inj (hact.symm.trans hact')
    exact ⟨rfl, fun q hq => region_setRegion_ne _ _ (by rwa [id_applyFire])⟩

/-- The region whose element has the turn, after a firing. -/
theorem fireAs_region {g : FireCtx → Elem → FireRes} {s t : State} {r : Region} {e slot : Nat} (hact : s.act = .elem r.id e slot)
    (hr : s.region? r.id = some r) (h : fireAs g s = .next t) :
    t.region? r.id = some r ∨
      t.region? r.id = some (r.applyFire s.cyc e slot false (g (firing s r e slot) (r.elem e))) := by
  obtain hs | ⟨r', e', slot', hact', hr', hs⟩ := fireAs_cases g s
  · cases hs.symm.trans h
    exact .inl hr
  · cases hs.symm.trans h
    obtain ⟨hid, rfl, rfl⟩ := Acting.elem.inj (hact.symm.trans hact')
    cases hr.symm.trans (hid ▸ hr')
    refine .inr ?_
    rw [← id_applyFire r s.cyc e slot false (g (firing s r e slot) (r.elem e))]
    exact region_setRegion ..

theorem fireR_notReady {f : ElemRec} {c : FireCtx} {e : Elem} (v : Elem → Word → Word → Word)
    (h : e.scalarSrc c.now f.a = none ∨ e.scalarSrc c.now f.b = none ∨ (scalarDest f.d).room e c.now = false) :
    fireR v f c e = .notReady := by
  unfold fireR fireSrc
  split
  · simp_all
  · rfl

theorem fireSel_notReady {f : ElemRec} {c : FireCtx} {e : Elem}
    (h : e.scalarSrc c.now f.a = none ∨ e.scalarSrc c.now f.b = none ∨ (scalarDest f.d).room e c.now = false) :
    fireSel f c e = .notReady := by
  unfold fireSel
  split
  · simp_all
  · rfl

/-- Settles O4: every element instruction is its firing, and a firing of classes R, U and V answers as `AluAnswer` says. -/
theorem elementFiringFrame : Obligations.ElementFiringFrame := by
  unfold Obligations.ElementFiringFrame
  refine ⟨⟨?idle, ?notReady⟩, ?part, ?region⟩
  case idle =>
    intro i s id e slot hk hact h
    obtain ⟨g, hg⟩ := exists_fireOf hk
    rw [exec_of_fireOf hg, fireAs_idle hact h]
  case notReady =>
    intro f i hi s r e slot h hnone
    obtain hg | ⟨v, hg⟩ := fireOf_scalarPair hi <;> rw [exec_of_fireOf hg, fireAs_fires _ h]
    · rw [fireSel_notReady hnone]
      rfl
    · rw [fireR_notReady v hnone]
      rfl
  case part =>
    intro i s t id e slot hk hact h
    obtain ⟨g, hg⟩ := exists_fireOf hk
    exact fireAs_frame hact ((exec_of_fireOf hg s).symm.trans h)
  case region =>
    intro f p hp s t r e slot hact hr h
    obtain ⟨g, hg, hans⟩ := fireOf_aluForm hp
    obtain ⟨q, hq, hb, helem, hothers, hown⟩ : ∃ q, t.region? r.id = some q ∧ r.Fired f p.2 (slotTrig r e slot) e q := by
      obtain ht | ht := fireAs_region hact hr ((exec_of_fireOf hg s).symm.trans h)
      · exact ⟨_, ht, fired_of_elems _ _ rfl rfl⟩
      · exact ⟨_, ht, fired_applyFire _ _ _ (hans (firing s r e slot) (r.elem e))⟩
    refine ⟨q, hq, (congrArg Region.accs hb :), (congrArg Region.rtab hb :), (congrArg Region.cred hb :),
      (congrArg Region.ctx hb :), fun k => ?_, fun hpend => ?_⟩
    · obtain ⟨hconsts, hslots, htrigs, hmode, hroute, hstatic, hx, hw, hsb, htag⟩ := helem k
      exact ⟨hconsts, hslots, htrigs, hmode, hroute, hstatic, hx, hw, hsb, htag⟩
    · obtain ⟨hpred, hout, hin⟩ := hown hpend
      exact ⟨hothers hpend, hpred, hout, hin⟩

end Sys2Proof.Machine
end

section
/-!
PROOFS. Static elements (R107, R108): the word whose firing gives an opcode its value, the result of an operation, and the operation.
-/
namespace Sys2Proof.Machine

/-! ## The value of an opcode -/

theorem elemInstr_of_decodeElem {w : Word} {i : Instr} {n : Nat} (h : decodeElem w = .instr i n) : elemInstr w = some i := by
  unfold decodeElem at h
  split at h
  · cases h
  · split at h
    · cases h
      assumption
    · cases h

/-- The word of a well-formed element instruction names it. -/
theorem elemInstr_of_encode {i : Instr} {w : Word} (hk : wordKind i = .element) (hi : wellFormed i = true) (he : encode i = [w]) :
    elemInstr w = some i := by
  have h := Laws.Codec.decodeEncodeAgree i hi
  unfold kindRound at h
  rw [hk, he] at h
  exact elemInstr_of_decodeElem h

theorem opcodeOf_of_encode {i : Instr} {k : BitVec 7} {f : ElemRec} (h : encode i = [packR k f]) : opcodeOf i = k.toNat := by
  have hk := congrArg BitVec.toNat (Laws.opcOf_packR k f)
  rw [opcOf, BitVec.extractLsb'_toNat, Nat.shiftRight_eq_div_pow] at hk
  rw [opcodeOf, h]
  exact hk

/-- The fields of the register form x2 = op(x0, x1), or x2 = op(x0) with a modifier field of zero. -/
def staticRec (two : Bool) : ElemRec := ⟨0, 2, 0, if two then 1 else 0, false, false, false, false⟩

theorem stopPasses_staticRec (two : Bool) (d : Dest) (x : Src) : stopPasses (staticRec two).tp d x = false := rfl

/-- The element on whose registers the register form computes. -/
def staticElem (a b : Word) : Elem := (({} : Elem).setX 0 a).setX 1 b

theorem packR_staticRec (k : BitVec 7) (two : Bool) :
    BitVec.ofNat 32 (k.toNat * 2 ^ 19 + 2 * 2 ^ 14 + ite (two = true) 16 0) = packR k (staticRec two) := by
  revert k two
  decide

/-- An instruction of one opcode in the format of class R whose register form an encoding can hold. -/
structure HasStaticForm (mk : ElemRec → Instr) (two : Bool) : Prop where
  words : ∃ k, ∀ f, encode (mk f) = [packR k f]
  legal : wellFormed (mk (staticRec two)) = true

theorem wordFire_static {mk : ElemRec → Instr} {two : Bool} {g : FireCtx → Elem → FireRes} (h : HasStaticForm mk two)
    (hg : fireOf (mk (staticRec two)) = some g) (f : ElemRec) :
    wordFire (BitVec.ofNat 32 (opcodeOf (mk f) * 2 ^ 19 + 2 * 2 ^ 14 + ite (two = true) 16 0)) = some g := by
  obtain ⟨k, hk⟩ := h.words
  have hne : packR k (staticRec two) ≠ 0 := fun h0 => by
    have hd := Laws.packR_d k (staticRec two)
    rw [h0] at hd
    cases two <;> cases hd
  rw [opcodeOf_of_encode (hk f), packR_staticRec, wordFire, if_neg hne,
    elemInstr_of_encode (wordKind_of_fireOf hg) h.legal (hk _)]
  exact hg

@[simp] theorem lane_scalarOf (v : Word) : lane (scalarOf v) 0 = v := by
  ext i hi
  simp [lane, scalarOf, show i < 256 by omega, BitVec.getLsbD_eq_getElem hi]

theorem isPoison_dataTag : isPoison dataTag = false := rfl

theorem staticElem_x0 (a b : Word) (now : Nat) : (staticElem a b).scalarSrc now 0 = some ⟨scalarOf a, dataTag, none⟩ := by
  simp [Elem.scalarSrc, staticElem, Elem.xr, Elem.setX, Vector.getD]

theorem staticElem_x1 (a b : Word) (now : Nat) : (staticElem a b).scalarSrc now 1 = some ⟨scalarOf b, dataTag, none⟩ := by
  simp [Elem.scalarSrc, staticElem, Elem.xr, Elem.setX, Vector.getD]

/-- The register form leaves its value in x2. -/
theorem finishFire_x2 (c : FireCtx) (e : Elem) (v : Word) (tag : Byte) :
    (finishFire c e false false false none none (.x 2) ⟨scalarOf v, tag⟩).xr 2 = v := by
  show (Elem.setX _ 2 (lane (scalarOf v) 0)).xr 2 = v
  simp [Elem.setX, Elem.xr, Vector.getD]

section
variable {mk : ElemRec → Instr} {two : Bool} (c : FireCtx) (f : ElemRec) (a b : Word)

/-- An opcode's value is what its register form leaves in x2. (`scalarOp` is unfolded as a function: to compare its body at given operands
with itself, the kernel would evaluate the word of a variable opcode.) -/
theorem scalarOp_of_done {g : FireCtx → Elem → FireRes} {e : Elem} {fx : List Fx} (h : HasStaticForm mk two)
    (hg : fireOf (mk (staticRec two)) = some g) (hd : g c (staticElem a b) = .done e fx) :
    scalarOp c (opcodeOf (mk f)) two a b = e.xr 2 := by
  generalize hop : scalarOp = value
  delta scalarOp at hop
  rw [← hop]
  beta_reduce
  rw [wordFire_static h hg f]
  dsimp only
  rw [← staticElem, hd]

theorem scalarOp_pair {v : Word → Word → Word} (h : HasStaticForm mk true)
    (hg : ∀ f, fireOf (mk f) = some (fireR (fun _ => v) f)) : scalarOp c (opcodeOf (mk f)) true a b = v a b := by
  have hready := fireR_ready (op := fun _ => v) (f := staticRec true) (c := c) (staticElem_x0 a b c.now) (staticElem_x1 a b c.now) rfl
    (by simp [poisonLevel, isPoison_dataTag])
  rw [scalarOp_of_done c f a b h (hg _) hready, stopPasses_staticRec, if_neg Bool.false_ne_true, lane_scalarOf, lane_scalarOf]
  exact finishFire_x2 ..

theorem scalarOp_single {v : Nat → Word → Word} (h : HasStaticForm mk false)
    (hg : ∀ f, fireOf (mk f) = some (fireU v f)) : scalarOp c (opcodeOf (mk f)) false a b = v 0 a := by
  have hready := fireU_ready (op := v) (f := staticRec false) (c := c) (staticElem_x0 a b c.now) rfl
    (by simp [poisonLevel, isPoison_dataTag])
  rw [scalarOp_of_done c f a b h (hg _) hready, stopPasses_staticRec, if_neg Bool.false_ne_true, lane_scalarOf]
  exact finishFire_x2 ..

end

theorem hasStaticForm_integerPairs : ∀ p ∈ integerPairs, HasStaticForm p.1 true := by
  unfold integerPairs
  intro p hp
  fin_cases hp <;> exact ⟨⟨_, fun _ => rfl⟩, rfl⟩

theorem hasStaticForm_floatPairs : ∀ p ∈ floatPairs, HasStaticForm p.1 true := by
  unfold floatPairs
  intro p hp
  fin_cases hp <;> exact ⟨⟨_, fun _ => rfl⟩, rfl⟩

theorem hasStaticForm_packedPairs : ∀ p ∈ packedPairs, HasStaticForm p.1 true := by
  unfold packedPairs
  intro p hp
  fin_cases hp <;> exact ⟨⟨_, fun _ => rfl⟩, rfl⟩

theorem hasStaticForm_integerSingles : ∀ p ∈ integerSingles, HasStaticForm p.1 false := by
  unfold integerSingles
  intro p hp
  fin_cases hp <;> exact ⟨⟨_, fun _ => rfl⟩, rfl⟩

theorem hasStaticForm_floatSingles : ∀ p ∈ floatSingles, HasStaticForm p.1 false := by
  unfold floatSingles
  intro p hp
  fin_cases hp <;> exact ⟨⟨_, fun _ => rfl⟩, rfl⟩

/-! ## The result of an operation -/

section
variable {c : FireCtx} {op : Nat} {x y : Src} {two : Bool}

theorem staticResult_poison {l : Nat} (h : poisonLevel x (if two = true then some y else none) = some l) :
    staticResult c op x y two = ⟨0, mkTag 3 l⟩ := by simp [staticResult, h]

variable (h : poisonLevel x (if two = true then some y else none) = none)
include h

theorem staticResult_stopA (hx : isStop x.tag = true) : staticResult c op x y two = ⟨x.val, x.tag⟩ := by simp [staticResult, h, hx]

theorem staticResult_stopB (hx : isStop x.tag = false) (h2 : two = true) (hy : isStop y.tag = true) :
    staticResult c op x y two = ⟨y.val, y.tag⟩ := by
  subst h2
  simp_all [staticResult]

theorem staticResult_value (hx : isStop x.tag = false) (hy : two = true → isStop y.tag = false) :
    staticResult c op x y two = ⟨scalarOf (scalarOp c op two (lane x.val 0) (lane y.val 0)),
      outTag true x (if two = true then some y else none)⟩ := by
  have hb : (two && isStop y.tag) = false := by cases two <;> simp_all
  simp [staticResult, h, hx, hb]

end

/-! ## The operation -/

/-- An operation with its operands and room. -/
theorem staticFire_ready {c : FireCtx} {e : Elem} {a b : Src} (ha : e.staticSrc c.now (stA e.static) = some a)
    (hb : e.staticSrc c.now (stB e.static) = some b)
    (hroom : ∀ k ∈ [stPassA e.static, stPassB e.static, stRes e.static],
      e.roomOn c.now k [stPassA e.static, stPassB e.static, stRes e.static] = true) :
    staticFire c e = .done ((((e.staticDeq c.now a b).sendOn c.now c.region.serial (stPassA e.static) ⟨a.val, a.tag⟩).sendOn c.now
      c.region.serial (stPassB e.static) ⟨b.val, b.tag⟩).sendOn c.now c.region.serial (stRes e.static)
      (staticResult c (stOp e.static) a b (stB e.static != 0))) [] := by
  have hall := List.all_eq_true.mpr hroom
  unfold staticFire
  simp only [ha, hb, hall, Bool.not_true, Bool.false_eq_true, if_false]

theorem exec_staticOperation {s : State} {r : Region} {e : Nat} (hr : s.region? r.id = some r) (he : e < 4 * r.quads)
    (hs : (r.elem e).isStatic = true) (hm : (r.elem e).isMatrix = false) (hf : s.elemFires r e = true) :
    exec (.staticOperation r.id e) s = .next (s.setRegion (r.applyFire s.cyc e 0 true (staticFire (mkCtx s r e 0 []) (r.elem e)))) := by
  show execStaticOperation r.id e s = _
  unfold execStaticOperation
  simp [hr, he, hs, hm, hf]

/-- Settles O10: the operation by `staticFire_ready`, its result by the cases of R108, and the value of an opcode by the firing of its
register form. -/
theorem staticElementOperates : Obligations.StaticElementOperates := by
  unfold Obligations.StaticElementOperates
  refine ⟨?operates, fun c op x y two => ⟨fun l => staticResult_poison,
    fun hp => ⟨staticResult_stopA hp, staticResult_stopB hp, ?pairs, ?singles⟩⟩⟩
  case operates =>
    intro s r e a b hr he hs hm hf ha hb hroom
    rw [exec_staticOperation hr he hs hm hf, staticFire_ready (c := mkCtx s r e 0 []) ha hb hroom]
    rfl
  case pairs =>
    rintro hx rfl hy f
    have hvalue := staticResult_value (c := c) (op := op) hp hx fun _ => hy
    refine ⟨fun p hmem hop => ?_, fun p hmem hop => ?_, fun p hmem hop => ?_⟩ <;> rw [hvalue, hop]
    · rw [scalarOp_pair c f _ _ (hasStaticForm_integerPairs p hmem) (fireOf_integerPairs p hmem)]
      rfl
    · rw [scalarOp_pair c f _ _ (hasStaticForm_floatPairs p hmem) (fireOf_floatPairs p hmem)]
      rfl
    · rw [scalarOp_pair c f _ _ (hasStaticForm_packedPairs p hmem) (fireOf_packedPairs p hmem)]
      rfl
  case singles =>
    rintro hx rfl f
    have hvalue := staticResult_value (c := c) (op := op) hp hx nofun
    refine ⟨fun p hmem hop => ?_, fun p hmem hop => ?_⟩ <;> rw [hvalue, hop]
    · rw [scalarOp_single c f _ _ (hasStaticForm_integerSingles p hmem) (fireOf_integerSingles p hmem)]
      rfl
    · rw [scalarOp_single c f _ _ (hasStaticForm_floatSingles p hmem) (fireOf_floatSingles p hmem)]
      rfl

end Sys2Proof.Machine
end

section
/-!
PROOFS. The results of element firings of classes R, U and V (R61, R71, R119 to R127): a firing with its operands, room and no poison, and
the lanes, items and trees of the vector instructions.
-/
namespace Sys2Proof.Machine

/-! ## Firings that are ready (R87, R91) -/

section
variable {f : ElemRec} {c : FireCtx} {e : Elem} {a : Src}

/-- A firing with room and no poison writes its value, or passes the stop of R91. -/
theorem fireSrc_ready {dqb : Bool} {d : Dest} {b : Option Src} (v : Wide) (hd : d.room e c.now = true) (hp : poisonLevel a b = none) :
    fireSrc c e f.dqa dqb f.sp f.tp d a b v = .done (finishFire c e f.dqa dqb f.sp a.chan (b.bind Src.chan) d
      (if stopPasses f.tp d a then ⟨a.val, a.tag⟩ else ⟨v, outTag f.tp a b⟩)) [] := by
  unfold fireSrc
  cases b <;> cases hstop : stopPasses f.tp d a <;> simp [hd, hp]

theorem fireSV_ready {v : Elem → Word → Wide} (ha : e.scalarSrc c.now f.a = some a) (hd : (vectorDest f.d).room e c.now = true)
    (hp : poisonLevel a none = none) :
    fireSV v f c e = .done (finishFire c e f.dqa false f.sp a.chan none (vectorDest f.d)
      (if stopPasses f.tp (vectorDest f.d) a then ⟨a.val, a.tag⟩ else ⟨v e (lane a.val 0), outTag f.tp a none⟩)) [] := by
  unfold fireSV
  rw [ha]
  exact fireSrc_ready _ hd hp

theorem fireVS_ready {v : Wide → Word} (ha : e.vectorSrc c.now f.a = some a) (hd : (scalarDest f.d).room e c.now = true)
    (hp : poisonLevel a none = none) :
    fireVS v f c e = .done (finishFire c e f.dqa false f.sp a.chan none (scalarDest f.d)
      (if stopPasses f.tp (scalarDest f.d) a then ⟨a.val, a.tag⟩ else ⟨scalarOf (v a.val), outTag f.tp a none⟩)) [] := by
  unfold fireVS
  rw [ha]
  exact fireSrc_ready _ hd hp

/-- sel with both operands, room and no poison: the source that p7 chooses counts alone (R120). -/
theorem fireSel_ready {b ch : Src} (ha : e.scalarSrc c.now f.a = some a) (hb : e.scalarSrc c.now f.b = some b)
    (hd : (scalarDest f.d).room e c.now = true) (hp : poisonLevel a (some b) = none) (hch : ch = if e.p.getLsbD 7 then a else b) :
    fireSel f c e = .done (finishFire c e f.dqa f.dqb f.sp a.chan b.chan (scalarDest f.d)
      (if stopPasses f.tp (scalarDest f.d) ch then ⟨ch.val, ch.tag⟩ else ⟨scalarOf (lane ch.val 0), outTag f.tp ch none⟩)) [] := by
  unfold fireSel
  simp only [ha, hb, hd, hp, hch, Bool.not_true, Bool.false_eq_true, if_false]

end

theorem outTag_one (tp : Bool) (a : Src) : outTag tp a none = if tp && a.chan.isSome then a.tag else dataTag := by
  cases tp <;> rfl

/-! ## The firings as the tables of R119 to R127 state them -/

section
variable {f : ElemRec} {i : Instr}

theorem scalarFiring_of_fireOf {v : Elem → Word → Word → Word} (h : fireOf i = some (fireR v f)) : ScalarFiring i f v := by
  intro s r e slot a b hf ha hb hd hp
  rw [exec_of_fireOf h]
  exact fireAs_done hf (fireR_ready ha hb hd hp)

theorem vectorFiring_of_fireOf {v : Elem → Wide → Wide → Wide} (h : fireOf i = some (fireV v f)) : VectorFiring i f v := by
  intro s r e slot a b hf ha hb hd hp
  rw [exec_of_fireOf h]
  exact fireAs_done hf (fireV_ready ha hb hd hp)

theorem unaryFiring_of_fireU {v : Nat → Word → Word} (h : fireOf i = some (fireU v f)) :
    UnaryFiring Elem.scalarSrc scalarDest i f (fun _ a => scalarOf (v f.b.toNat (lane a 0))) := by
  intro s r e slot a hf ha hd hp
  rw [exec_of_fireOf h]
  exact fireAs_done hf (fireU_ready ha hd hp)

theorem unaryFiring_of_fireSV {v : Elem → Word → Wide} (h : fireOf i = some (fireSV v f)) :
    UnaryFiring Elem.scalarSrc vectorDest i f (fun el a => v el (lane a 0)) := by
  intro s r e slot a hf ha hd hp
  rw [exec_of_fireOf h]
  exact fireAs_done hf (fireSV_ready ha hd hp)

theorem unaryFiring_of_fireVS {v : Wide → Word} (h : fireOf i = some (fireVS v f)) :
    UnaryFiring Elem.vectorSrc scalarDest i f (fun _ a => scalarOf (v a)) := by
  intro s r e slot a hf ha hd hp
  rw [exec_of_fireOf h]
  exact fireAs_done hf (fireVS_ready ha hd hp)

end

/-- Settles O1: each instruction is the firing of its class, whose answer with ready operands is stated once; sel by `fireSel_ready`. -/
theorem arithmeticFiringsWriteResult : Obligations.ArithmeticFiringsWriteResult := by
  unfold Obligations.ArithmeticFiringsWriteResult
  refine ⟨⟨?integers, ?integerSingles, ?sel⟩, ?floats, ?packed, ?floatSingles, ?fused, ?fusedPacked⟩
  case integers => exact fun p hp f => scalarFiring_of_fireOf (fireOf_integerPairs p hp f)
  case integerSingles => exact fun p hp f => unaryFiring_of_fireU (v := fun _ => p.2) (fireOf_integerSingles p hp f)
  case sel =>
    intro f s r e slot a b hf ha hb hd hp
    rw [exec_of_fireOf (i := .sel f) rfl, fireAs_done hf (fireSel_ready ha hb hd hp rfl), outTag_one]
  case floats => exact fun p hp f => scalarFiring_of_fireOf (fireOf_floatPairs p hp f)
  case packed => exact fun p hp f => scalarFiring_of_fireOf (fireOf_packedPairs p hp f)
  case floatSingles => exact fun p hp f => unaryFiring_of_fireU (v := p.2) (fireOf_floatSingles p hp f)
  case fused => exact fun f => scalarFiring_of_fireOf (congrArg some (funext₂ fun _ _ => rfl))
  case fusedPacked =>
    simp only [List.forall_mem_cons]
    exact ⟨fun f => scalarFiring_of_fireOf (congrArg some (funext₂ fun _ _ => rfl)),
      fun f => scalarFiring_of_fireOf (congrArg some (funext₂ fun _ _ => rfl)), nofun⟩

/-! ## Lanes, items and trees (R61, R71, R76) -/

theorem toNat_lane (a : Wide) (j : Nat) : (lane a j).toNat = a.toNat / 2 ^ (32 * j) % 2 ^ 32 := by
  rw [lane, BitVec.extractLsb'_toNat, Nat.shiftRight_eq_div_pow]

/-- The 16-bit item k of a wide value is half k mod 2 of its lane k / 2. -/
theorem item16_eq (a : Wide) (k : Nat) : bits a.toNat (16 * k + 15) (16 * k) =
    if k % 2 = 0 then loItem (lane a (k / 2)) else hiItem (lane a (k / 2)) := by
  have hwidth : 16 * k + 15 + 1 - 16 * k = 16 := by omega
  rw [bits, hwidth]
  unfold loItem hiItem
  rw [toNat_lane]
  split
  · have hk : 16 * k = 32 * (k / 2) := by omega
    rw [hk]
    omega
  · have hk : 16 * k = 32 * (k / 2) + 16 := by omega
    rw [hk, Nat.pow_add, ← Nat.div_div_eq_div_mul]
    omega

theorem items16_eq (a : Wide) : items16 a =
    (List.range 16).map (fun k => if k % 2 = 0 then loItem (lane a (k / 2)) else hiItem (lane a (k / 2))) :=
  List.map_congr_left fun k _ => item16_eq a k

/-- Settles O2: each instruction is the firing of its class; a sum's items are the halves of its lanes, and its tree has R71's pairs. -/
theorem vectorFiringWritesLanes : Obligations.VectorFiringWritesLanes := by
  unfold Obligations.VectorFiringWritesLanes
  refine ⟨?lanes, ?fused, ?fusedPacked, fun f => unaryFiring_of_fireSV (v := fun _ a => broadcast a) rfl,
    fun f => unaryFiring_of_fireVS (v := fun a => lane a f.b.toNat) rfl,
    fun f => unaryFiring_of_fireSV (v := fun e a => ofLaneFn fun j => if j = f.b.toNat then a else lane (e.wr f.d.toNat) j) rfl,
    fun f => unaryFiring_of_fireVS (v := redsumF32) rfl, fun f => unaryFiring_of_fireVS (v := redsumF16) rfl,
    fun f => unaryFiring_of_fireVS (v := redmaxF32) rfl, ?trees⟩
  case lanes =>
    simp only [List.forall_mem_cons]
    exact ⟨fun f => vectorFiring_of_fireOf (congrArg some (funext₂ fun _ _ => rfl)),
      fun f => vectorFiring_of_fireOf (congrArg some (funext₂ fun _ _ => rfl)),
      fun f => vectorFiring_of_fireOf (congrArg some (funext₂ fun _ _ => rfl)), nofun⟩
  case fused => exact fun f => vectorFiring_of_fireOf (congrArg some (funext₂ fun _ _ => rfl))
  case fusedPacked =>
    simp only [List.forall_mem_cons]
    exact ⟨fun f => vectorFiring_of_fireOf (congrArg some (funext₂ fun _ _ => rfl)),
      fun f => vectorFiring_of_fireOf (congrArg some (funext₂ fun _ _ => rfl)), nofun⟩
  case trees =>
    refine fun a => ⟨rfl, rfl, fun v hv => ?_⟩
    rw [redsumF16, items16_eq, ← hv]
    rfl

end Sys2Proof.Machine
end

section
/-!
PROOFS. The firings of class C (R130 to R142): predicates, tags and packets, steer and merge, repeat, stop tokens, sweeps and the end of
a unit.
-/
namespace Sys2Proof.Machine

/-! ## What a firing's answer makes of the part -/

section
variable {i : Instr} {g : FireCtx → Elem → FireRes} {s : State} {r : Region} {e slot : Nat} {x : Elem} {fx : List Fx} {cause : Byte}

theorem exec_done (hi : fireOf i = some g) (h : Fires s r e slot) (hg : g (firing s r e slot) (r.elem e) = .done x fx) :
    exec i s = .next (s.fired r e slot x fx) := by
  rw [exec_of_fireOf hi, fireAs_done h hg]

theorem exec_raises (hi : fireOf i = some g) (h : Fires s r e slot) (hg : g (firing s r e slot) (r.elem e) = .raises cause) :
    exec i s = .next (s.raised r e slot cause) := by
  rw [exec_of_fireOf hi, fireAs_raises h hg]

theorem exec_raises_or_done {p : Prop} [Decidable p] (hi : fireOf i = some g) (h : Fires s r e slot)
    (hg : g (firing s r e slot) (r.elem e) = if p then .raises cause else .done x fx) :
    exec i s = .next (if p then s.raised r e slot cause else s.fired r e slot x fx) := by
  by_cases hp : p
  · rw [if_pos hp, exec_raises hi h (hg.trans (if_pos hp))]
  · rw [if_neg hp, exec_done hi h (hg.trans (if_neg hp))]

theorem exec_done_or_raises {p : Prop} [Decidable p] (hi : fireOf i = some g) (h : Fires s r e slot)
    (hg : g (firing s r e slot) (r.elem e) = if p then .done x fx else .raises cause) :
    exec i s = .next (if p then s.fired r e slot x fx else s.raised r e slot cause) := by
  by_cases hp : p
  · rw [if_pos hp, exec_done hi h (hg.trans (if_pos hp))]
  · rw [if_neg hp, exec_raises hi h (hg.trans (if_neg hp))]

end

/-- A stop is no poison. -/
theorem isPoison_of_isStop {t : Byte} (h : isStop t = true) : isPoison t = false := by
  simp_all [isStop, isPoison]

/-- The set-predicate step of a firing (R87). -/
def flipped (c : FireCtx) (sp : Bool) (y : Elem) : Elem := { y with p := spStep sp c.trig y.p }

theorem flip_eq_flipped (s : State) (r : Region) (e slot : Nat) (sp : Bool) (y : Elem) :
    s.flip r e slot sp y = flipped (firing s r e slot) sp y := rfl

section
variable {f : ElemRec} {c : FireCtx} {e : Elem} {a b : Src}

/-! ## Predicates, tags and packets (R130, R131, R141) -/

theorem firePwr_eq (ha : e.scalarSrc c.now f.a = some a) (hb : e.scalarSrc c.now f.b = some b) :
    firePwr f c e = if (poisonLevel a (some b)).isSome then .raises Cause.poisonConsumed
      else .done { deqFlagged e c.now f.dqa f.dqb a.chan b.chan with
        p := pwrStep (deqFlagged e c.now f.dqa f.dqb a.chan b.chan).p (a.val.extractLsb' 0 8) (b.val.extractLsb' 0 8) } [] := by
  unfold firePwr
  rw [ha, hb]

theorem firePrd_eq (hd : (scalarDest f.d).room e c.now = true) :
    firePrd f c e = .done (finishFire c e false false f.sp none none (scalarDest f.d) ⟨e.p.zeroExtend 256, dataTag⟩) [] := by
  simp [firePrd, hd]

theorem fireTagSet_eq (ha : e.scalarSrc c.now f.a = some a) (hb : e.scalarSrc c.now f.b = some b)
    (hd : (scalarDest f.d).room e c.now = true) :
    fireTagSet f c e = if (poisonLevel a (some b)).isSome then .raises Cause.poisonConsumed
      else .done (finishFire c e f.dqa f.dqb f.sp a.chan b.chan (scalarDest f.d)
        ⟨scalarOf (lane a.val 0), mkTag 0 (lane b.val 0).toNat⟩) [] := by
  unfold fireTagSet
  simp only [ha, hb, hd, Bool.not_true, Bool.false_eq_true, if_false]

theorem fireTagGet_eq (ha : e.scalarSrc c.now f.a = some a) (hd : (scalarDest f.d).room e c.now = true) :
    fireTagGet f c e = .done (finishFire c e f.dqa false f.sp a.chan none (scalarDest f.d) ⟨a.tag.zeroExtend 256, dataTag⟩) [] := by
  unfold fireTagGet
  simp only [ha, hd, Bool.not_true, Bool.false_eq_true, if_false]

/-- The packet that send builds of the send buffer (R141). -/
def sentPacket (f : ElemRec) (c : FireCtx) (e : Elem) (k : Nat) : Packet where
  header := headerOf c.region.ctx k (c.region.loc c.elem) e.sbtag (f.d == 31)
  w0 := (e.sb.getD 1 0).zeroExtend 64 <<< 32 ||| (e.sb.getD 0 0).zeroExtend 64
  w1 := if f.d == 31 then (e.sb.getD 3 0).zeroExtend 64 <<< 32 ||| (e.sb.getD 2 0).zeroExtend 64 else 0
  two := f.d == 31
  tag := e.sbtag

section
variable (ha : e.scalarSrc c.now f.a = some a) (hstage : e.stage = none) (hfreed : e.stageFreed ≤ c.now)
include ha hstage hfreed

theorem fireSend_poison (hp : isPoison a.tag = true) : fireSend f c e = .raises Cause.poisonConsumed := by
  unfold fireSend
  simp [ha, hstage, Nat.not_lt.mpr hfreed, hp]

theorem fireSend_badRoute (hp : isPoison a.tag = false) (hk : isPacketRoute (c.region.route ((lane a.val 0).toNat % 128)) = false) :
    fireSend f c e = .raises Cause.routeInvalid := by
  unfold fireSend
  simp [ha, hstage, Nat.not_lt.mpr hfreed, hp, hk]

theorem fireSend_sends {k : Nat} (hp : isPoison a.tag = false) (hk : k = (lane a.val 0).toNat % 128)
    (hroute : isPacketRoute (c.region.route k) = true) (hcredit : 0 < c.credits k ∨ AMap.getD c.region.rsup k 0 ≠ 0)
    (hlive : c.live k = true) :
    fireSend f c e = .done (flipped c f.sp (deqFlagged e c.now f.dqa false a.chan none)) [.send k (sentPacket f c e k)] := by
  subst hk
  have hcred : (c.credits ((lane a.val 0).toNat % 128) = 0 && AMap.getD c.region.rsup ((lane a.val 0).toNat % 128) 0 = 0 : Bool) = false := by
    simp only [Bool.and_eq_false_iff, decide_eq_false_iff_not]
    exact hcredit.imp_left Nat.ne_of_gt
  unfold fireSend
  simp only [ha, hstage, Nat.not_lt.mpr hfreed, hp, hroute, hcred, hlive, Option.isSome_none, Bool.false_or, decide_false, Bool.not_true,
    Bool.false_eq_true, if_false]
  rfl

end

/-! ## Steer and merge (R132 to R134) -/

theorem fireSteer_poison (ha : e.scalarSrc c.now f.a = some a) (hb : e.scalarSrc c.now f.b = some b) (hp : isPoison a.tag = true) :
    fireSteer f c e = .raises Cause.poisonConsumed := by
  unfold fireSteer
  simp [ha, hb, hp]

theorem fireSteer_value (ha : e.scalarSrc c.now f.a = some a) (hb : e.scalarSrc c.now f.b = some b) (hp : isPoison a.tag = false)
    (hs : isStop a.tag = false) {o : Nat} (ho : o = if lane a.val 0 = 0 then f.d.toNat - 16 else f.d.toNat - 16 + 1)
    (hroom : e.outRoom c.now o = true) :
    fireSteer f c e = .done (flipped c f.sp (deqFlagged (e.enq c.now c.region.serial o ⟨b.val, b.tag⟩) c.now f.dqa true a.chan b.chan)) [] := by
  unfold fireSteer
  simp only [ha, hb, hp, hs, ← ho, hroom, Bool.not_true, Bool.false_eq_true, if_false]
  rfl

theorem fireSteer_stop (ha : e.scalarSrc c.now f.a = some a) (hb : e.scalarSrc c.now f.b = some b) (hs : isStop a.tag = true)
    (h0 : e.outRoom c.now (f.d.toNat - 16) = true) (h1 : e.outRoom c.now (f.d.toNat - 16 + 1) = true) :
    fireSteer f c e = if isStop b.tag && levelOf b.tag == levelOf a.tag then
        .done (flipped c f.sp (deqFlagged ((e.enq c.now c.region.serial (f.d.toNat - 16) ⟨b.val, b.tag⟩).enq c.now c.region.serial
          (f.d.toNat - 16 + 1) ⟨b.val, b.tag⟩) c.now f.dqa true a.chan b.chan)) []
      else .raises Cause.stopMismatch := by
  have hflip : (!isStop b.tag || levelOf b.tag != levelOf a.tag) = !(isStop b.tag && levelOf b.tag == levelOf a.tag) := by
    rw [Bool.not_and, bne]
  unfold fireSteer
  simp only [ha, hb, isPoison_of_isStop hs, hs, h0, h1, hflip, Bool.and_true, Bool.not_true, Bool.false_eq_true, if_false, if_true]
  cases isStop b.tag && levelOf b.tag == levelOf a.tag <;> rfl

/-- A merge whose arms `arms` are taken and whose result is t. -/
def merged (f : ElemRec) (c : FireCtx) (e : Elem) (arms : List Nat) (ctl : Option Nat) (t : Token) : FireRes :=
  .done (flipped c f.sp (mergeDeq (e.enq c.now c.region.serial (f.d.toNat - 16) t) c.now arms f.dqa ctl)) []

theorem fireMerge_value (ha : e.scalarSrc c.now f.a = some a) (hroom : e.outRoom c.now (f.d.toNat - 16) = true)
    (hs : isStop a.tag = false) {m : Nat} {t : Token} (hm : m = if lane a.val 0 = 0 then f.b.toNat - 16 else f.b.toNat - 16 + 1)
    (ht : e.head c.now m = some t) :
    fireMerge f c e = if isPoison a.tag then .raises Cause.poisonConsumed else merged f c e [m] a.chan t := by
  unfold fireMerge
  cases hp : isPoison a.tag
  · simp only [ha, hp, hs, ← hm, ht, hroom, Bool.not_true, Bool.false_eq_true, if_false]
    rfl
  · simp only [ha, hp, ← hm, ht, hroom, Option.isSome_some, Bool.and_self, if_true]

theorem fireMerge_stop (ha : e.scalarSrc c.now f.a = some a) (hroom : e.outRoom c.now (f.d.toNat - 16) = true)
    (hs : isStop a.tag = true) {x y : Token} (hx : e.head c.now (f.b.toNat - 16) = some x)
    (hy : e.head c.now (f.b.toNat - 16 + 1) = some y) :
    fireMerge f c e = if isStop x.tag && isStop y.tag && levelOf x.tag == levelOf a.tag && levelOf y.tag == levelOf a.tag
      then merged f c e [f.b.toNat - 16, f.b.toNat - 16 + 1] a.chan x else .raises Cause.stopMismatch := by
  unfold fireMerge
  simp only [ha, isPoison_of_isStop hs, hs, hx, hy, hroom, Bool.not_true, Bool.false_eq_true, if_false, if_true]
  cases isStop x.tag && isStop y.tag && levelOf x.tag == levelOf a.tag && levelOf y.tag == levelOf a.tag <;> rfl

/-! ## Repeat, stop, sweep and fin (R136, R137, R139, R142) -/

/-- The element after the firing of rep that consumes its source. -/
def repConsumed (f : ElemRec) (c : FireCtx) (a : Src) (x : Elem) : Elem := flipped c f.sp (deqFlagged x c.now f.dqa false a.chan none)

section
variable (ha : e.scalarSrc c.now f.a = some a) (hroom : (scalarDest f.d).room e c.now = true)
include ha hroom

theorem fireRep_poison (hp : isPoison a.tag = true) :
    fireRep f c e = if f.tp then .done ((repConsumed f c a e).write c.now c.region.serial (scalarDest f.d) ⟨0, mkTag 3 (levelOf a.tag)⟩) []
      else .raises Cause.poisonConsumed := by
  unfold fireRep
  cases f.tp
  · simp only [ha, hp, Bool.not_false, Bool.false_eq_true, if_false, if_true]
  · simp only [ha, hroom, hp, Bool.not_true, Bool.false_eq_true, if_false, if_true]
    rfl

theorem fireRep_stop (hp : isPoison a.tag = false) (hs : isStop a.tag = true) (htp : f.tp = true) :
    fireRep f c e = .done ((repConsumed f c a e).write c.now c.region.serial (scalarDest f.d) ⟨a.val, a.tag⟩) [] := by
  unfold fireRep
  simp only [ha, hroom, hp, hs, htp, Bool.and_self, Bool.not_true, Bool.false_eq_true, if_false, if_true]
  rfl

omit hroom in
theorem fireRep_zero (hp : isPoison a.tag = false) (hs : (isStop a.tag && f.tp) = false) (hn : e.xr f.b.toNat = 0) :
    fireRep f c e = .done (repConsumed f c a e) [] := by
  unfold fireRep
  simp only [ha, hp, hs, hn, Bool.false_eq_true, if_false, if_true]
  rfl

theorem fireRep_count (hp : isPoison a.tag = false) (hs : (isStop a.tag && f.tp) = false) (hn : e.xr f.b.toNat ≠ 0) {y : Elem}
    (hy : y = (e.write c.now c.region.serial (scalarDest f.d) ⟨scalarOf (lane a.val 0), outTag f.tp a none⟩).setX f.b.toNat
      (e.xr f.b.toNat - 1)) :
    fireRep f c e = .done (if e.xr f.b.toNat = 1 then repConsumed f c a y else y) [] := by
  subst hy
  unfold fireRep
  by_cases h1 : e.xr f.b.toNat = 1
  · simp only [ha, hroom, hp, hs, h1, Bool.not_true, Bool.false_eq_true, if_false, if_true]
    rfl
  · simp only [ha, hroom, hp, hs, hn, h1, Bool.not_true, Bool.false_eq_true, if_false]

end

section
variable (ha : e.scalarSrc c.now f.a = some a) (hb : e.scalarSrc c.now f.b = some b) (hroom : (scalarDest f.d).room e c.now = true)
include ha hb hroom

theorem fireStop_value (hp : poisonLevel a (some b) = none) :
    fireStop f c e = .done (finishFire c e f.dqa f.dqb f.sp a.chan b.chan (scalarDest f.d)
      ⟨scalarOf (lane a.val 0), mkTag 1 (lane b.val 0).toNat⟩) [] := by
  unfold fireStop
  simp only [ha, hb, hroom, hp, Bool.not_true, Bool.false_eq_true, if_false]

theorem fireStop_poison {l : Nat} (hp : poisonLevel a (some b) = some l) :
    fireStop f c e = if f.tp then
        .done (finishFire c e f.dqa f.dqb f.sp a.chan b.chan (scalarDest f.d) ⟨0, mkTag 3 l⟩) []
      else .raises Cause.poisonConsumed := by
  unfold fireStop
  simp only [ha, hb, hroom, hp, Bool.not_true, Bool.false_eq_true, if_false]

end

theorem fireSweep_eq (ha : e.scalarSrc c.now f.a = some a) :
    fireSweep f c e = if isPoison a.tag then .raises Cause.poisonConsumed
      else .done (flipped c f.sp (deqFlagged e c.now f.dqa false a.chan none)) [.sweep (BitVec.ofNat 6 (levelOf a.tag))] := by
  unfold fireSweep
  rw [ha]
  rfl

end

/-! ## The obligations -/

/-- Settles O5: each firing by the lemma that says what it answers. -/
theorem predicateTagAndSendFirings : Obligations.PredicateTagAndSendFirings := by
  unfold Obligations.PredicateTagAndSendFirings
  refine ⟨⟨fun f s r e slot a b h ha hb => ?pwr, fun f s r e slot h hd => ?prd, fun f s r e slot a b h ha hb hd => ?tagSet,
    fun f s r e slot a h ha hd => ?tagGet⟩, ?send⟩
  case pwr => exact exec_raises_or_done rfl h (firePwr_eq ha hb)
  case prd => exact exec_done rfl h (firePrd_eq hd)
  case tagSet => exact exec_raises_or_done rfl h (fireTagSet_eq ha hb hd)
  case tagGet => exact exec_done rfl h (fireTagGet_eq ha hd)
  case send =>
    rintro f s r e slot a h ha hstage hfreed k rfl
    refine ⟨fun hp => ?_, fun hp h1 h2 => ?_, fun hp hk hcredit hlive => ?_⟩
    · exact exec_raises rfl h (fireSend_poison ha hstage hfreed hp)
    · exact exec_raises rfl h (fireSend_badRoute ha hstage hfreed hp (by simp [isPacketRoute, firing, mkCtx, h1, h2]))
    · exact exec_done rfl h (fireSend_sends ha hstage hfreed hp rfl (by simpa [isPacketRoute, firing, mkCtx] using hk) hcredit hlive)

/-- The second channel of a pair. -/
theorem second_of_pair {n : Nat} (h : 16 ≤ n) : n - 15 = n - 16 + 1 := by omega

/-- Settles O6: the cases of R134 by the control head: poison, a value, a stop. -/
theorem steerAndMergeMoveTokens : Obligations.SteerAndMergeMoveTokens := by
  unfold Obligations.SteerAndMergeMoveTokens
  simp only [flip_eq_flipped]
  refine ⟨fun f s r e slot ct d h ha hb => ⟨fun hp => ?poison, fun hp hs o ho hroom hd => ?value, fun hs h0 h1 => ?stop⟩,
    fun f s r e slot ct h ha hroom hb => ⟨fun m t hs hm ht => ?mergeValue, fun x y hs hx hy => ?mergeStop⟩⟩
  case poison => exact exec_raises rfl h (fireSteer_poison ha hb hp)
  case value => exact exec_done rfl h (fireSteer_value (c := firing s r e slot) ha hb hp hs (second_of_pair hd ▸ ho) hroom)
  case stop => exact exec_done_or_raises rfl h (fireSteer_stop ha hb hs h0 h1)
  case mergeValue => exact exec_raises_or_done rfl h (fireMerge_value (c := firing s r e slot) ha hroom hs (second_of_pair hb ▸ hm) ht)
  case mergeStop => exact exec_done_or_raises rfl h (fireMerge_stop (c := firing s r e slot) ha hroom hs hx hy)

/-- Settles O7: rep by its head and its count, stop by poison, sweep and fin as they fire. -/
theorem repeatStopSweepFinFirings : Obligations.RepeatStopSweepFinFirings := by
  unfold Obligations.RepeatStopSweepFinFirings
  simp only [flip_eq_flipped]
  refine ⟨?rep, fun f s r e slot a b h ha hb hd => ⟨fun hp => ?stop, fun l hp => ?stopPoison⟩, fun f s r e slot a h ha => ?sweep,
    fun f s r e slot h => ?fin⟩
  case rep =>
    rintro f s r e slot a h ha hd consume rfl
    refine ⟨fun hp => ?_, fun hp hs htp => ?_, fun hp hs hn => ?_, fun hp hs hn y hy => ?_⟩
    · exact exec_done_or_raises rfl h (fireRep_poison ha hd hp)
    · exact exec_done rfl h (fireRep_stop ha hd hp hs htp)
    · exact exec_done rfl h (fireRep_zero ha hp hs hn)
    · exact exec_done rfl h (fireRep_count (c := firing s r e slot) ha hd hp hs hn hy)
  case stop => exact exec_done rfl h (fireStop_value ha hb hd hp)
  case stopPoison => exact exec_done_or_raises rfl h (fireStop_poison (c := firing s r e slot) ha hb hd hp)
  case sweep => exact exec_raises_or_done rfl h (fireSweep_eq ha)
  case fin => exact exec_done (g := fireFin f) rfl h rfl

end Sys2Proof.Machine
end

section
/-!
PROOFS. The firings of classes M and A (R101, R102, R118, R143 to R152): what each answers, and what the firing of an access leaves in its
region (R144, R353).
-/
namespace Sys2Proof.Machine

/-! ## What the firings answer -/

section
variable {f : MemRec} {c : FireCtx} {e : Elem} {b : Src}

theorem fireLoad_eq {size : Nat} (hb : e.scalarSrc c.now f.b = some b) (hport : c.region.portFree c.now c.elem = true)
    (hroom : e.inRoom c.now f.rsp.toNat ≠ 0) :
    fireLoad size f c e = if isPoison b.tag then .raises Cause.poisonConsumed else issue c e f.dqb f.sp b.chan {
      kind := if f.ord = 1 then .acquire else .load, va := e.pair f.pair.toNat + (lane b.val 0).signExtend 64, size := size
      tag := outTag f.tp b none, rsp := f.rsp.toNat, scope := f.scope.toNat, ord := f.ord.toNat } := by
  unfold fireLoad
  simp [hb, hport, hroom]

theorem fireVld_eq (hb : e.scalarSrc c.now f.b = some b) (hport : c.region.portFree c.now c.elem = true)
    (hroom : 2 ≤ e.inRoom c.now f.rsp.toNat) :
    fireVld f c e = if isPoison b.tag then .raises Cause.poisonConsumed else issue c e f.dqb f.sp b.chan {
      kind := .vld, va := e.pair f.pair.toNat, size := 8, version := lane b.val 0, tag := outTag f.tp b none, rsp := f.rsp.toNat } := by
  unfold fireVld
  simp [hb, hport, Nat.not_lt.mpr hroom]

theorem fireStoreOf_eq {d : Src} {size : Nat} (hport : c.region.portFree c.now c.elem = true)
    (hwindow : f.ord = 2 → c.region.unbufOk c.now = true) :
    fireStoreOf (some d) size f c e = if isPoison d.tag then .raises Cause.poisonConsumed else issue c e f.dqb f.sp d.chan {
      kind := if f.ord = 2 then .release else .store, va := e.pair f.pair.toNat, size := size, data := d.val
      scope := f.scope.toNat, ord := f.ord.toNat
      itag := if d.chan.isSome then some (BitVec.ofNat 6 (levelOf d.tag)) else none } := by
  have hready : (!c.region.portFree c.now c.elem || (f.ord == 2 && !c.region.unbufOk c.now)) = false := by
    rw [hport, Bool.not_true, Bool.false_or, Bool.and_eq_false_imp, beq_iff_eq]
    exact fun hord => by rw [hwindow hord, Bool.not_true]
  simp only [fireStoreOf, hready, Bool.false_eq_true, if_false]

section
variable (hport : c.region.portFree c.now c.elem = true) (hwindow : c.region.unbufOk c.now = true)
include hport hwindow

theorem fireVst_eq : fireVst f c e = issue c e false f.sp none {
    kind := .vst, va := e.pair f.pair.toNat, size := 8, data := (e.pair (f.b.toNat / 4)).zeroExtend 256 } := by
  simp [fireVst, hport, hwindow]

theorem fireVrcl_eq (hb : e.scalarSrc c.now f.b = some b) :
    fireVrcl f c e = if isPoison b.tag then .raises Cause.poisonConsumed else issue c e f.dqb f.sp b.chan {
      kind := .vrcl, va := e.pair f.pair.toNat, size := 8, version := lane b.val 0 } := by
  unfold fireVrcl
  simp [hb, hport, hwindow]

theorem fireAtomic_eq {f : AtomRec} {k : AmoKind} {size : Nat} (hroom : size / 4 ≤ e.inRoom c.now f.rsp.toNat) :
    fireAtomic k size f c e = issue c e false f.sp none {
      kind := .amo k, va := e.pair f.addr.toNat, size := size
      data := if size = 8 then (e.pair f.opnd.toNat).zeroExtend 256 else scalarOf (e.xr (2 * f.opnd.toNat))
      new := if size = 8 then e.pair (f.opnd.toNat + 1) else (e.xr (2 * f.opnd.toNat + 1)).zeroExtend 64
      rsp := f.rsp.toNat, scope := f.scope.toNat, ord := f.ord.toNat } := by
  unfold fireAtomic
  simp only [hport, hwindow, Nat.not_lt.mpr hroom, Bool.not_true, Bool.or_self, decide_false, Bool.false_eq_true, if_false]

end

end

/-! ## What no arrival and no closing of a window changes -/

/-- A region without its elements, windows, log and pending arrivals. -/
def Region.sansArrivals (r : Region) : Region :=
  { r with elems := [], wins := [], nextSnap := none, log := [], pend := [], startAt := 0 }

section
variable (r : Region) (now : Nat)

theorem sansArrivals_closeWindow : r.closeWindow.sansArrivals = r.sansArrivals := by unfold Region.closeWindow; split <;> rfl
theorem sansArrivals_openWindow : r.openWindow.sansArrivals = r.sansArrivals := by unfold Region.openWindow; split <;> rfl

theorem sansArrivals_closeAfter (fx : List Fx) : (r.closeAfter fx).sansArrivals = r.sansArrivals := by
  obtain h | h := closeAfter_cases r fx <;> rw [h]
  exact sansArrivals_closeWindow r

theorem sansArrivals_logArrival (w : Arrival) : (r.logArrival w).sansArrivals = r.sansArrivals := by
  obtain ⟨l, h | h⟩ := logArrival_cases r w <;> rw [h]
  · rfl
  · exact sansArrivals_closeWindow _

theorem sansArrivals_enter (a : Arrival) : (r.enter now a).sansArrivals = r.sansArrivals := by
  cases a with
  | chan e ch t =>
    show (r.putToken now e ch t 0).sansArrivals = _
    unfold Region.putToken
    split
    · rfl
    · dsimp only
      split
      · exact sansArrivals_logArrival ..
      · rfl
  | resv e ch acc half t => exact sansArrivals_logArrival ..
  | inbox e k p =>
    show (r.putPacket now e k p).sansArrivals = _
    unfold Region.putPacket
    split
    · rfl
    · exact sansArrivals_logArrival ..
  | unit => exact sansArrivals_logArrival ..

theorem sansArrivals_settlePend (ps kept : List LogEntry) : (r.settlePend now ps kept).sansArrivals = r.sansArrivals := by
  induction ps generalizing r kept with
  | nil => rfl
  | cons p ps ih =>
    unfold Region.settlePend
    dsimp only
    split
    · exact (ih ..).trans (sansArrivals_enter r now p.what)
    · exact ih ..

theorem sansArrivals_settle : (r.settle now).sansArrivals = r.sansArrivals := by
  unfold Region.settle
  split
  · exact sansArrivals_settlePend ..
  · rfl

end

/-! ## The region after the firing of an access -/

/-- The region as a firing stands in its journal, before its effects. -/
def Region.journaled (r : Region) (now e slot : Nat) (static : Bool) (el : Elem) (fx : List Fx) : Region :=
  let r0 := if fx.any Fx.unbuffered then r.closeWindow.openWindow else r.openWindow
  let r1 := r0.setElem e { el with lastFire := now + 1, rr := if static then el.rr else BitVec.ofNat 5 slot }
  { r1 with wins := countLast r1.wins, journal := r1.journal ++ [⟨r1.serial, e, slot, static, now⟩] }

/-- An access without a kept answer stands last, and its response entries are reserved (R101). -/
theorem applyFx_access {now e slot : Nat} {r : Region} {a : AccReq}
    (h : r.applied.find? (fun p => p.elem == e && p.slot == slot) = none) :
    applyFx now e slot r (.access a) = if (mkAcc r e slot now a).halves = 0 then { r with accs := r.accs ++ [mkAcc r e slot now a] }
      else ({ r with accs := r.accs ++ [mkAcc r e slot now a] } : Region).updElem e
        (fun x => reserveIn x a.rsp r.serial (mkAcc r e slot now a).halves) := by
  have hall : r.applied.filter (fun p => some p != none) = r.applied := List.filter_eq_self.mpr fun _ _ => rfl
  unfold applyFx
  simp only [h, hall]
  rfl

/-- A channel with an entry reserved for each half of an access's response. -/
def InCh.reserving (c : InCh) (acc n : Nat) : InCh := { c with q := c.q ++ (List.range n).map (fun k => InEntry.resv acc k false) }

theorem inch_reserveIn {x : Elem} {ch : Nat} (h : ch < 4) (acc n : Nat) : (reserveIn x ch acc n).inch ch = (x.inch ch).reserving acc n := by
  simp [reserveIn, InCh.reserving, Elem.inch, Elem.setIn, Vector.getD, h]

section
variable (r : Region) (now e slot : Nat) (static : Bool) (el : Elem) (a : AccReq)

theorem sansArrivals_journaled (fx : List Fx) : (r.journaled now e slot static el fx).sansArrivals =
    { r.sansArrivals with journal := r.journal ++ [JEntry.mk r.serial e slot static now] } := by
  have h : (if fx.any Fx.unbuffered then r.closeWindow.openWindow else r.openWindow).sansArrivals = r.sansArrivals := by
    split
    · exact (sansArrivals_openWindow _).trans (sansArrivals_closeWindow r)
    · exact sansArrivals_openWindow r
  exact congrArg (fun q : Region => { q with journal := q.journal ++ [JEntry.mk q.serial e slot static now] }) h

theorem pend_journaled (fx : List Fx) : (r.journaled now e slot static el fx).pend = r.pend := by
  show (if fx.any Fx.unbuffered then r.closeWindow.openWindow else r.openWindow).pend = r.pend
  split
  · exact (pend_openWindow _).trans (pend_closeWindow r)
  · exact pend_openWindow r

theorem elem_journaled (fx : List Fx) : (r.journaled now e slot static el fx).elem e =
    { el with lastFire := now + 1, rr := if static then el.rr else BitVec.ofNat 5 slot } := elem_setElem_self ..

/-- The effect of an access on the region that its firing has entered in the journal. -/
theorem applyFx_journaled (fx : List Fx) (h : r.applied.find? (fun p => p.elem == e && p.slot == slot) = none) :
    (applyFx now e slot (r.journaled now e slot static el fx) (.access a)).accs = r.accs ++ [mkAcc r e slot now a] ∧
    (applyFx now e slot (r.journaled now e slot static el fx) (.access a)).serial = r.serial ∧
    (applyFx now e slot (r.journaled now e slot static el fx) (.access a)).pend = r.pend ∧
    ((mkAcc r e slot now a).halves ≠ 0 → a.rsp < 4 →
      ((applyFx now e slot (r.journaled now e slot static el fx) (.access a)).elem e).inch a.rsp =
        (el.inch a.rsp).reserving r.serial (mkAcc r e slot now a).halves) := by
  have hbase := sansArrivals_journaled r now e slot static el fx
  have haccs : (r.journaled now e slot static el fx).accs = r.accs := (congrArg Region.accs hbase :)
  have hserial : (r.journaled now e slot static el fx).serial = r.serial := (congrArg Region.serial hbase :)
  have happlied : (r.journaled now e slot static el fx).applied = r.applied := (congrArg Region.applied hbase :)
  have hacc : mkAcc (r.journaled now e slot static el fx) e slot now a = mkAcc r e slot now a := by unfold mkAcc; rw [hserial]
  have hpend := pend_journaled r now e slot static el fx
  have helem := elem_journaled r now e slot static el fx
  generalize r.journaled now e slot static el fx = q at haccs hserial happlied hacc hpend helem
  rw [applyFx_access (happlied ▸ h), hacc, haccs]
  split
  · rename_i hz
    exact ⟨rfl, hserial, hpend, fun hn => absurd hz hn⟩
  · refine ⟨rfl, hserial, hpend, fun _ hrsp => ?_⟩
    rw [elem_updElem_self, inch_reserveIn hrsp, hserial]
    exact (congrArg (fun y : Elem => (y.inch a.rsp).reserving r.serial (mkAcc r e slot now a).halves) helem :)

/-- R118, R144, R353: the access stands last in its region's list under the serial of its firing, and its response is reserved. -/
theorem firing_access (h : r.applied.find? (fun p => p.elem == e && p.slot == slot) = none) :
    (r.firing now e slot static el [.access a]).accs = r.accs ++ [mkAcc r e slot now a] ∧
    (r.firing now e slot static el [.access a]).serial = r.serial + 1 ∧
    (r.pend = [] → (mkAcc r e slot now a).halves ≠ 0 → a.rsp < 4 →
      ((r.firing now e slot static el [.access a]).elem e).inch a.rsp =
        (el.inch a.rsp).reserving r.serial (mkAcc r e slot now a).halves) := by
  obtain ⟨haccs, hserial, hpend, hin⟩ := applyFx_journaled r now e slot static el a [.access a] h
  generalize hq : applyFx now e slot (r.journaled now e slot static el [.access a]) (.access a) = q at haccs hserial hpend hin
  have hfiring : r.firing now e slot static el [.access a] = (({ q with serial := q.serial + 1 } : Region).closeAfter [.access a]).settle now := by
    rw [← hq]
    rfl
  have hbase : (r.firing now e slot static el [.access a]).sansArrivals = { q.sansArrivals with serial := q.serial + 1 } := by
    rw [hfiring, sansArrivals_settle, sansArrivals_closeAfter]
    rfl
  refine ⟨(congrArg Region.accs hbase :).trans haccs, (congrArg Region.serial hbase :).trans (congrArg (· + 1) hserial), fun hp hn hrsp => ?_⟩
  have hnone : (({ q with serial := q.serial + 1 } : Region).closeAfter [.access a]).pend = [] := (pend_closeAfter ..).trans (hpend.trans hp)
  rw [hfiring, settle_of_pend_nil now hnone, Region.elem, elems_closeAfter]
  exact hin hn hrsp

end

/-! ## The obligations -/

/-- Settles O8: each load by the lemma that says what its firing answers, and the region after it by `firing_access`. -/
theorem loadFiringsIssueAccesses : Obligations.LoadFiringsIssueAccesses := by
  unfold Obligations.LoadFiringsIssueAccesses
  refine ⟨⟨?loads, ?vld⟩, ?region⟩
  case loads =>
    simp only [List.forall_mem_cons]
    refine ⟨fun f s r e slot b h hb hport hroom => ?_, fun f s r e slot b h hb hport hroom => ?_,
      fun f s r e slot b h hb hport hroom => ?_, nofun⟩
    · exact exec_raises_or_done (g := fireLdB32 f) rfl h (fireLoad_eq hb hport hroom)
    · exact exec_raises_or_done (g := fireLdU8 f) rfl h (fireLoad_eq hb hport hroom)
    · exact exec_raises_or_done (g := fireLdW256 f) rfl h (fireLoad_eq hb hport hroom)
  case vld =>
    intro f s r e slot b h hb hport hroom
    exact exec_raises_or_done rfl h (fireVld_eq hb hport hroom)
  case region =>
    rintro r now e slot el a h r' rfl
    exact firing_access r now e slot false el a h

/-- Settles O9: each store and atomic by the lemma that says what its firing answers. -/
theorem storeAndAtomicFiringsIssue : Obligations.StoreAndAtomicFiringsIssue := by
  unfold Obligations.StoreAndAtomicFiringsIssue
  refine ⟨⟨?stores, fun f s r e slot h hport hwindow => ?vst, fun f s r e slot b h hb hport hwindow => ?vrcl, fun f s r e slot h => ?fence⟩,
    ?atomics⟩
  case stores =>
    have hstore {i : Instr} {f : MemRec} {size : Nat} {src : Elem → Nat → Reg → Option Src} (hi : fireOf i = some fun c e =>
        fireStoreOf (src e c.now f.b) size f c e) {s r e slot d} (h : Fires s r e slot) (hd : src (r.elem e) s.cyc f.b = some d)
        (hport : r.portFree s.cyc e = true) (hwindow : f.ord = 2 → r.unbufOk s.cyc = true) :=
      exec_raises_or_done hi h ((congrArg (fireStoreOf · size f (firing s r e slot) (r.elem e)) hd).trans (fireStoreOf_eq hport hwindow))
    simp only [List.forall_mem_cons]
    exact ⟨fun f s r e slot d => hstore rfl, fun f s r e slot d => hstore rfl, fun f s r e slot d => hstore rfl, nofun⟩
  case vst => exact exec_done rfl h (fireVst_eq hport hwindow)
  case vrcl => exact exec_raises_or_done rfl h (fireVrcl_eq hport hwindow hb)
  case fence => exact exec_done (g := fireFence f) rfl h rfl
  case atomics =>
    have hatomic {i : Instr} {f : AtomRec} {k : AmoKind} {size : Nat} (hi : fireOf i = some (fireAtomic k size f)) {s r e slot}
        (h : Fires s r e slot) (hport : r.portFree s.cyc e = true) (hwindow : r.unbufOk s.cyc = true)
        (hroom : size / 4 ≤ (r.elem e).inRoom s.cyc f.rsp.toNat) := exec_done hi h (fireAtomic_eq hport hwindow hroom)
    intro p hp f s r e slot
    fin_cases hp <;> exact hatomic rfl

end Sys2Proof.Machine
end

section
/-!
PROOFS. Commit windows (R139, R351 to R358): when the oldest window commits and what leaves with it, the first of the raised causes, the
freeze with its rolled-back state, and the end of a sweep.
-/
namespace Sys2Proof.Machine

/-! ## Commit (R352) -/

/-- A window before which nothing was opened commits once it is closed, without a raised cause, and its accesses are settled. -/
theorem commitReady_iff {s : State} {r : Region} {w : Window} {t : List Window} (hw : r.wins = w :: t) :
    s.commitReady r = true ↔ w.closed = true ∧ s.regionLive r = true ∧ (∀ x ∈ r.raised, r.bound ≤ x.serial) ∧
      ∀ a ∈ r.accs, a.serial < r.bound → s.accSettled r a = true := by
  unfold State.commitReady
  simp only [hw, Bool.and_eq_true, Bool.not_eq_true', List.any_eq_false, List.all_eq_true, List.mem_filter, decide_eq_true_eq, not_lt,
    and_imp, and_assoc]

theorem bound_congr {r q : Region} (hw : q.wins = r.wins) (hn : q.nextSnap = r.nextSnap) (hs : q.serial = r.serial) : q.bound = r.bound := by
  unfold Region.bound
  rw [hw, hn, hs]

theorem dropWindow_frame (r : Region) (now : Nat) : (r.dropWindow now).wins.length = r.wins.length - 1 ∧
    (r.dropWindow now).elems = r.elems ∧ (r.dropWindow now).cred = r.cred ∧
    (r.dropWindow now).journal = r.journal.filter (fun j => decide (r.bound ≤ j.serial)) := by
  have hb : ({ r with commitAt := now + 1, wasFull := r.heldBy now } : Region).bound = r.bound := bound_congr rfl rfl rfl
  unfold Region.dropWindow
  simp only [hb]
  rcases hw : r.wins with _ | ⟨v, _ | ⟨w, t⟩⟩ <;> exact ⟨rfl, rfl, rfl, rfl⟩

/-! ## Raised causes (R355) -/

/-- The first of the raised causes comes no later than any other, and of those of its cycle has the lowest serial. -/
theorem firstRaised_least {l : List Raised} {x : Raised} (h : firstRaised l = some x) :
    x ∈ l ∧ ∀ y ∈ l, x.cycle < y.cycle ∨ (x.cycle = y.cycle ∧ x.serial ≤ y.serial) := by
  induction l generalizing x with
  | nil => cases h
  | cons a l ih =>
    cases hl : firstRaised l with
    | none =>
      have hnil : l = [] := by
        cases l with
        | nil => rfl
        | cons b l =>
          unfold firstRaised at hl
          split at hl
          · cases hl
          · split at hl <;> cases hl
      simp only [firstRaised, hl, Option.some.injEq] at h
      subst h hnil
      simp
    | some y =>
      obtain ⟨hmem, hleast⟩ := ih hl
      simp only [firstRaised, hl, Bool.or_eq_true, Bool.and_eq_true, decide_eq_true_eq] at h
      split at h <;> cases h <;> rename_i hlt
      · refine ⟨List.mem_cons_of_mem _ hmem, fun z hz => ?_⟩
        rcases List.mem_cons.mp hz with rfl | hz
        · omega
        · exact hleast z hz
      · refine ⟨List.mem_cons_self, fun z hz => ?_⟩
        rcases List.mem_cons.mp hz with rfl | hz
        · exact .inr ⟨rfl, le_rfl⟩
        · have := hleast z hz
          omega

section
variable {s : State} {r : Region} (hr : s.region? r.id = some r)
include hr

theorem exec_windowCommit : exec (.windowCommit r.id) s = .next (if s.commitReady r = true then s.commitWindow r else s) := by
  show execWindowCommit r.id s = _
  unfold execWindowCommit
  rw [hr]

theorem exec_windowFaultDetect (hlive : s.regionLive r = true) {new : List Raised}
    (hnew : new = (failures s.cyc r.accs).filter (fun x => !r.raised.any (fun y => y.serial == x.serial))) :
    exec (.windowFaultDetect r.id) s = .next (if new = [] then s
      else s.setRegion { r with raised := r.raised ++ new, flagAt := some (r.flagAt.getD s.cyc) }) := by
  show execWindowFaultDetect r.id s = _
  unfold execWindowFaultDetect
  simp only [hr, ← hnew, hlive, Bool.not_true, Bool.or_false, List.isEmpty_iff]
  split <;> rfl

section
variable {d : Nat} {x : Raised} (hd : r.flagAt = some d) (hx : firstRaised r.raised = some x)
include hd hx

theorem exec_regionClockGate_early (h : s.cyc < d + 12) : exec (.regionClockGate r.id) s = .next s := by
  show execRegionClockGate r.id s = _
  unfold execRegionClockGate
  simp [hr, hd, hx, h]

theorem exec_regionClockGate_freezes (h : d + 12 ≤ s.cyc) (hf : r.frozen = none) (ha : r.awayUnbuffered = false) :
    exec (.regionClockGate r.id) s = .next
      (s.freezeRegion r (if x.cause = Cause.isolationFreeze then .isolation else .windowFault) x 1) := by
  show execRegionClockGate r.id s = _
  unfold execRegionClockGate
  simp [hr, hd, hx, Nat.not_lt.mpr h, hf, ha]

end

end

/-! ## The rolled-back state (R353 to R356) -/

theorem unstage_frame (first : Nat) (l : AMap Elem) (r : Region) :
    { unstage first l r with cred := r.cred, rsup := r.rsup } = r := by
  induction l generalizing r with
  | nil => rfl
  | cons p t ih =>
    obtain ⟨k, e⟩ := p
    have hstep {q : Region} (hq : { q with cred := r.cred, rsup := r.rsup } = r) :
        { unstage first t q with cred := r.cred, rsup := r.rsup } = r :=
      (congrArg (fun u : Region => { u with cred := r.cred, rsup := r.rsup }) (ih q)).trans hq
    rw [unstage]
    split
    · split
      · exact hstep rfl
      · split <;> exact hstep rfl
    · exact hstep rfl

theorem find_rollElems (old m : AMap Elem) (k : Nat) :
    AMap.find? (rollElems old m) k = (AMap.find? m k).map (fun e => if e.isMatrix then e else AMap.getD old k e) := by
  induction m with
  | nil => rfl
  | cons p t ih =>
    obtain ⟨j, e⟩ := p
    simp only [rollElems, AMap.find?]
    split
    · rename_i hj
      subst hj
      rfl
    · exact ih

/-- What a freeze leaves of its region: no windows, no log, the journal, and every element but those of matrix mode as the oldest window
found it. -/
structure Region.RolledBack (r : Region) (how : Freeze) (q : Region) : Prop where
  frozen : q.frozen = some how
  wins : q.wins = []
  log : q.log = []
  journal : q.journal = r.journal
  accs : q.accs = r.accs.filter (fun a => decide (a.serial < r.firstSnap.serial))
  elem : ∀ e y, AMap.find? r.elems e = some y → y.isMatrix = false → q.elem e = AMap.getD r.firstSnap.elems e y

theorem rolledBack_rollback (r : Region) (how : Freeze) : r.RolledBack how (r.rollback how) where
  frozen := rfl
  wins := rfl
  log := rfl
  journal := (congrArg Region.journal (unstage_frame r.firstSnap.serial r.elems r) :)
  accs := rfl
  elem e y hy hm := by
    show AMap.getD (rollElems r.firstSnap.elems r.elems) e {} = _
    simp [AMap.getD, find_rollElems, hy, hm]

theorem id_rollback (r : Region) (how : Freeze) : (r.rollback how).id = r.id :=
  (congrArg Region.id (unstage_frame r.firstSnap.serial r.elems r) :)

theorem region_updRegion_self {s : State} {id : Nat} {r : Region} (h : s.region? id = some r) {f : Region → Region} (hf : (f r).id = id) :
    (s.updRegion id f).region? id = some (f r) := by
  unfold State.updRegion
  rw [h]
  exact hf ▸ region_setRegion ..

theorem region_record (s : State) (rec : FaultRec) (id : Nat) : (s.record rec).region? id = s.region? id := by
  unfold State.region?
  rw [(onlyRecorded_record s rec).regions]

theorem region_postFault {s : State} {r q : Region} (x : Raised) (h : s.region? r.id = some q) :
    ∃ u, (s.postFault r x).region? r.id = some { q with unposted := u } := by
  have hid : q.id = r.id := by simpa using List.find?_some h
  unfold State.postFault State.postEvent
  dsimp only
  split
  · exact ⟨q.unposted, h⟩
  · exact ⟨some ⟨r.id, r.word, r.ctx, x.cause, x.addr⟩, region_updRegion_self h hid⟩

/-- A frozen region is its rolled-back state with the cause of the freeze; an event that found no room is kept. -/
theorem region_freezeRegion (s : State) (r : Region) (how : Freeze) (x : Raised) (cls : Nat) :
    ∃ u, (s.freezeRegion r how x cls).region? r.id =
      some { r.rollback how with faultCause := x.cause, faultAddr := x.addr, unposted := u } := by
  have hroll : (s.rollback r how).region? r.id = some (r.rollback how) := by
    have h := region_setRegion (s.withdraw r r.firstSnap.serial) (r.rollback how)
    rwa [id_rollback] at h
  have hcause := region_updRegion_self hroll (f := fun q => { q with faultCause := x.cause, faultAddr := x.addr }) (id_rollback r how)
  have hrec := (region_record _ (regionRecord r x cls) r.id).trans hcause
  unfold State.freezeRegion
  dsimp only
  split
  · exact region_postFault x hrec
  · exact ⟨(r.rollback how).unposted, hrec⟩

/-! ## Sweeps (R139) -/

/-- Sweeps with the given exits have discarded what they name of the output channels of a region. -/
structure Region.Swept (exits : List Nat) (r q : Region) : Prop where
  id : q.id = r.id
  sweep : q.sweep = r.sweep
  sweepDone : q.sweepDone = r.sweepDone
  out : ∀ e c t, c < 4 → t ∈ ((q.elem e).outch c).q → t ∈ ((r.elem e).outch c).q ∧ ∀ x ∈ exits, sweepTok x t.tok = true

theorem Region.Swept.refl (r : Region) : r.Swept [] r := ⟨rfl, rfl, rfl, fun _ _ _ _ h => ⟨h, by simp⟩⟩

theorem Region.Swept.trans {r q t : Region} {l m : List Nat} (h : r.Swept l q) (h' : q.Swept m t) : r.Swept (l ++ m) t where
  id := h'.id.trans h.id
  sweep := h'.sweep.trans h.sweep
  sweepDone := h'.sweepDone.trans h.sweepDone
  out e c x hc hx := by
    obtain ⟨hq, hm⟩ := h'.out e c x hc hx
    obtain ⟨hr, hl⟩ := h.out e c x hc hq
    exact ⟨hr, fun y hy => (List.mem_append.mp hy).elim (hl y) (hm y)⟩

theorem swept_freePort (r : Region) (now : Nat) (a : Acc) : r.Swept [] (r.freePort now a) := by
  unfold Region.freePort
  split
  · refine ⟨rfl, rfl, rfl, fun e c t _ h => ⟨?_, by simp⟩⟩
    rcases eq_or_ne a.elem e with rfl | he
    · rwa [elem_updElem_self] at h
    · rwa [elem_updElem_ne _ _ he] at h
  · exact .refl r

theorem swept_sweepStores (r : Region) (now exit : Nat) : r.Swept [] (r.sweepStores now exit) := by
  have hfold (l : List Acc) (q : Region) (hq : r.Swept [] q) : r.Swept [] (l.foldl (fun q a => q.freePort now a) q) := by
    induction l generalizing q with
    | nil => exact hq
    | cons a l ih => exact ih _ (hq.trans (swept_freePort q now a))
  exact hfold _ _ ⟨rfl, rfl, rfl, fun _ _ _ _ h => ⟨h, by simp⟩⟩

theorem outch_sweepElem (x : Elem) (exit now : Nat) (late : Nat → Bool) {c : Nat} (hc : c < 4) :
    ((x.sweepElem exit now late).outch c).q = (x.outch c).q.filter (fun t => sweepTok exit t.tok) := by
  simp [Elem.outch, Elem.sweepElem, Vector.getD, hc]

theorem outch_empty {c : Nat} (hc : c < 4) : (({} : Elem).outch c).q = [] := by
  simp only [Elem.outch, Vector.getD, Vector.toArray_replicate, Array.getD_eq_getD_getElem?, Array.getElem?_replicate, hc, if_true]
  rfl

theorem AMap.getD_eq_find {α : Type} (m : AMap α) (k : Nat) (d : α) : AMap.getD m k d = (AMap.find? m k).getD d := by
  rw [AMap.getD]
  cases AMap.find? m k <;> rfl

theorem swept_sweepRegion (r : Region) (exit now : Nat) : r.Swept [exit] (r.sweepRegion exit now) := by
  refine ⟨rfl, rfl, rfl, fun e c t hc h => ?_⟩
  have helem : ((r.sweepRegion exit now).elem e) = ((AMap.find? r.elems e).map fun x =>
      x.sweepElem exit now (fun a => (r.lateAccs exit).contains a)).getD {} := by
    rw [← find_map_values]
    exact AMap.getD_eq_find ..
  rw [helem] at h
  rw [Region.elem, AMap.getD_eq_find]
  cases hx : AMap.find? r.elems e with
  | none =>
    rw [hx, Option.map_none, Option.getD_none, outch_empty hc] at h
    cases h
  | some x =>
    rw [hx, Option.map_some, Option.getD_some, outch_sweepElem x exit now _ hc, List.mem_filter] at h
    simpa using h

/-- The discards of one sweep, where no packet waits to land. -/
theorem region_discardSwept {s : State} {r : Region} (exit : Nat) (hl : s.landings = []) :
    ∃ q, (s.discardSwept r exit).region? r.id = some q ∧ r.Swept [exit] q ∧ (s.discardSwept r exit).landings = [] := by
  have hs : r.Swept [exit] ((r.sweepStores s.cyc exit).sweepRegion exit s.cyc) :=
    (swept_sweepStores ..).trans (swept_sweepRegion ..)
  refine ⟨_, ?_, hs, ?_⟩
  · unfold State.discardSwept
    rw [hl, ← hs.id]
    exact region_setRegion ..
  · unfold State.discardSwept
    rw [hl]
    exact hl

theorem region_discardAll {id : Nat} (exits : List Nat) {s : State} {r : Region} (hr : s.region? id = some r) (hl : s.landings = []) :
    ∃ q, (State.discardAll id exits s).region? id = some q ∧ r.Swept exits q := by
  induction exits generalizing s r with
  | nil => exact ⟨r, hr, .refl r⟩
  | cons x xs ih =>
    have hid : r.id = id := by simpa using List.find?_some hr
    obtain ⟨q, hq, hswept, hland⟩ := region_discardSwept (r := r) x hl
    obtain ⟨q', hq', hswept'⟩ := ih (hid ▸ hq) hland
    refine ⟨q', ?_, hswept.trans hswept'⟩
    rw [State.discardAll, hr]
    exact hq'

theorem exec_sweepComplete {s : State} {r : Region} {w : Sweep} (hr : s.region? r.id = some r) (hw : r.sweep = some w) :
    exec (.sweepComplete r.id) s = .next (if w.start + 1 ≤ s.cyc ∧ s.regionLive r = true then s.endSweep r s.cyc else s) := by
  show execSweepComplete r.id s = _
  unfold execSweepComplete
  simp only [hr, hw]
  rcases Nat.lt_or_ge s.cyc (w.start + 1) with ht | ht
  · simp [ht, Nat.not_le.mpr ht]
  · cases s.regionLive r <;> simp [ht, Nat.not_lt.mpr ht]

/-- Settles O36: the commit and the freeze by their conditions, the rolled-back state field by field, and the sweeps by induction on their
exits. -/
theorem windowsCommitOrFreeze : Obligations.WindowsCommitOrFreeze := by
  unfold Obligations.WindowsCommitOrFreeze
  refine ⟨fun s r hr => exec_windowCommit hr, fun s r w t hw => commitReady_iff hw, ?drop,
    fun s r hr hlive new hnew => exec_windowFaultDetect hr hlive hnew,
    fun s r d x hr hd hx => ⟨exec_regionClockGate_early hr hd hx, exec_regionClockGate_freezes hr hd hx⟩,
    fun l x h => firstRaised_least h, ?rollback, ?freeze, fun s r w hr hw => exec_sweepComplete hr hw, ?sweep⟩
  case drop =>
    rintro r q now rfl
    exact dropWindow_frame r now
  case rollback =>
    intro r how
    obtain ⟨hfrozen, hwins, hlog, hjournal, haccs, helem⟩ := rolledBack_rollback r how
    exact ⟨hfrozen, hwins, hlog, hjournal, helem⟩
  case freeze =>
    intro s r how x cls w rest hr hw
    have hsnap : r.firstSnap = w.snap := by rw [Region.firstSnap, hw]
    obtain ⟨hfrozen, hwins, hlog, hjournal, haccs, helem⟩ := rolledBack_rollback r how
    obtain ⟨u, hu⟩ := region_freezeRegion s r how x cls
    exact ⟨_, hu, hfrozen, hwins, hjournal, rfl, rfl, hsnap ▸ haccs, hsnap ▸ helem⟩
  case sweep =>
    intro s r w hr hw hl
    obtain ⟨q, hq, hswept⟩ := region_discardAll r.exits (s := s.setRegion { r with sweep := none, sweepDone := s.cyc + 1 })
      (region_setRegion ..) hl
    refine ⟨q, hq, hswept.sweep, hswept.sweepDone, fun e c he hc t ht => ?_⟩
    obtain ⟨hmem, hall⟩ := hswept.out e c t hc ht
    refine ⟨hmem, fun p hp => hall _ ?_⟩
    rw [Region.exits, hw]
    exact List.mem_map_of_mem hp

end Sys2Proof.Machine
end

section
/-!
PROOFS. The accesses of elements (R101, R114 to R118, R144, R146 to R148, R152, R295, R303, R313, R331): translation, loads and their
responses, accesses that are performed on their own, and versioned loads at their home.
-/
namespace Sys2Proof.Machine

/-! ## Translation and the range scoreboard (R303, R313) -/

/-- Only the entries that an access waits for change as it is checked. -/
theorem checkedAcc_behind (s : State) (r : Region) (a : Acc) : { s.checkedAcc r a with behind := a.behind } = a := by
  unfold State.checkedAcc
  split <;> rfl

theorem behind_checkedAcc {s : State} {r : Region} {a : Acc}
    (h : a.kind = .load ∨ a.kind = .acquire ∨ a.kind = .release ∨ ∃ k, a.kind = .amo k) :
    (s.checkedAcc r a).behind = s.scoreHits (r.sector a.elem) r.ctx a.va a.size := by
  unfold State.checkedAcc
  obtain h | h | h | ⟨k, h⟩ := h <;> rw [h]

section
variable {s : State} {r : Region} {a : Acc} (h : AccessAt s r a .port)
include h

theorem exec_tlbWalk_waits (hu : a.kind.unbuffered = true) (ho : r.inOldest a = false) : exec (.tlbWalk r.id a.serial) s = .next s := by
  show execTlbWalk r.id a.serial s = _
  unfold execTlbWalk
  simp [h.resident, h.access, hu, ho]

theorem mayWalk (ho : a.kind.unbuffered = true → r.inOldest a = true) :
    (a.st != .port || !s.regionLive r || (a.kind.unbuffered && !r.inOldest a)) = false := by
  cases hu : a.kind.unbuffered
  · simp [h.stage, h.live]
  · simp [h.stage, h.live, ho hu]

theorem exec_tlbWalk_ok (ho : a.kind.unbuffered = true → r.inOldest a = true) {x : Xlat} {s1 : State} {b : Acc}
    (hx : (accessM (accWho r a) a.kind.need a.va a.size).exec s = (.ok x, s1)) (hb : b = { a with st := .ready x }) :
    exec (.tlbWalk r.id a.serial) s = .next (s1.updRegion r.id (fun q => if q.behindUnbuffered b then q.setAcc b
      else (q.freePort s.cyc (s1.checkedAcc q b)).setAcc { s1.checkedAcc q b with inPort := false })) := by
  subst hb
  show execTlbWalk r.id a.serial s = _
  unfold execTlbWalk
  simp only [h.resident, h.access, mayWalk h ho, Bool.false_eq_true, if_false, hx]
  rfl

theorem exec_tlbWalk_raises (ho : a.kind.unbuffered = true → r.inOldest a = true) {cause : Byte} {addr : DWord} {s1 : State}
    (hx : (accessM (accWho r a) a.kind.need a.va a.size).exec s = (.error (.raise cause addr), s1)) :
    exec (.tlbWalk r.id a.serial) s = .next (s1.updRegion r.id (fun q =>
      (q.freePort s.cyc a).setAcc { a with st := .failed cause addr, inPort := false })) := by
  show execTlbWalk r.id a.serial s = _
  unfold execTlbWalk
  simp only [h.resident, h.access, mayWalk h ho, Bool.false_eq_true, if_false, hx]
  rfl

end

/-! ## Loads and their responses (R101, R116, R144) -/

/-- A load whose bytes stand in the windows, in a scratchpad or in this package's memory reads them. -/
theorem readLoad_reads {s : State} {r : Region} {a : Acc} {x : Xlat} {bs : List Byte} {p : Bool} (hx : x.mt = 1 ∨ s.isLocal x.pa = true)
    (h : r.covered a.serial x a.size = true ∨ s.waitsScore a = false) (hbs : s.loadBytes r a.serial x a.size 0 = (bs, p)) :
    s.readLoad r a x = s.accNow r { a with st := .done, result := some (BitVec.ofNat 256 (leNat bs), p) } := by
  have hgo : (r.covered a.serial x a.size || !s.waitsScore a) = true := by simpa using h
  have hhere : ¬ (x.mt = 0 && !s.isLocal x.pa && !r.covered a.serial x a.size) = true := by
    rcases hx with hx | hx <;> simp [hx]
  unfold State.readLoad
  rw [if_pos hgo, if_neg hhere, hbs]
  rfl

/-- The load leaves its port, where it still stood there, and reads. -/
theorem performLoad_reads {s s1 : State} {r r1 : Region} {a b : Acc} {x : Xlat} {bs : List Byte} {p : Bool} (reply : Reply)
    (hst : a.st = .ready x) (hread : s.mayRead r a = true) (hx : x.mt = 1 ∨ s.isLocal x.pa = true)
    (hout : a.inPort = false → b = a ∧ r1 = r ∧ s1 = s)
    (hin : a.inPort = true → b = { s.checkedAcc r a with inPort := false } ∧ r1 = (r.freePort s.cyc (s.checkedAcc r a)).setAcc b ∧
      s1 = s.setRegion r1)
    (h : r1.covered a.serial x a.size = true ∨ s1.waitsScore b = false) (hbs : s1.loadBytes r1 a.serial x a.size 0 = (bs, p)) :
    s.performLoad r a reply = s1.accNow r { b with st := .done, result := some (BitVec.ofNat 256 (leNat bs), p) } := by
  unfold State.performLoad
  rw [hst]
  simp only [hread, Bool.not_true, Bool.false_eq_true, if_false]
  cases hport : a.inPort
  · obtain ⟨rfl, rfl, rfl⟩ := hout hport
    exact readLoad_reads hx h hbs
  · obtain ⟨hb, hr1, hs1⟩ := hin hport
    have hserial : b.serial = a.serial := hb ▸ (congrArg Acc.serial (checkedAcc_behind s r a) :)
    have hsize : b.size = a.size := hb ▸ (congrArg Acc.size (checkedAcc_behind s r a) :)
    have hid : r1.id = r.id := hr1 ▸ id_freePort r s.cyc (s.checkedAcc r a)
    have hhere : x.mt = 1 ∨ s1.isLocal x.pa = true := hs1 ▸ hx
    rw [← hserial, ← hsize] at h hbs
    have hreads := readLoad_reads hhere h hbs
    rw [State.accNow, hid] at hreads
    rw [State.accNow, ← hreads]
    subst hs1 hr1 hb
    rfl

theorem exec_loadResponse_reads {s s1 : State} {r r1 : Region} {a b : Acc} {x : Xlat} {bs : List Byte} {p : Bool} (reply : Reply)
    (ha : AccessAt s r a (.ready x)) (hk : a.kind = .load ∨ a.kind = .acquire) (hread : s.mayRead r a = true)
    (hx : x.mt = 1 ∨ s.isLocal x.pa = true) (hout : a.inPort = false → b = a ∧ r1 = r ∧ s1 = s)
    (hin : a.inPort = true → b = { s.checkedAcc r a with inPort := false } ∧ r1 = (r.freePort s.cyc (s.checkedAcc r a)).setAcc b ∧
      s1 = s.setRegion r1)
    (h : r1.covered a.serial x a.size = true ∨ s1.waitsScore b = false) (hbs : s1.loadBytes r1 a.serial x a.size 0 = (bs, p)) :
    exec (.loadResponse r.id a.serial reply) s = .next
      ((s1.accNow r { b with st := .done, result := some (BitVec.ofNat 256 (leNat bs), p) }).deliver r.id a.serial) := by
  have hload : (a.kind == .load || a.kind == .acquire) = true := by simpa using hk
  show execLoadResponse r.id a.serial reply s = _
  unfold execLoadResponse
  simp only [ha.resident, ha.access, ha.live, hload, Bool.not_true, Bool.false_and, Bool.false_eq_true, if_false, if_true]
  rw [performLoad_reads reply ha.stage hread hx hout hin h hbs]

section
variable {s : State} {r : Region} {a : Acc} {v : Wide} {p : Bool} (hr : s.region? r.id = some r) (ha : r.acc? a.serial = some a)
  (hv : a.result = some (v, p))
include hr ha hv

/-- A response waits behind the earlier reservations of its channel. -/
theorem deliver_waits (h : firstResv ((r.elem a.elem).inch a.rsp).q ≠ some (a.serial, 0)) : s.deliver r.id a.serial = s := by
  unfold State.deliver
  simp [hr, ha, hv, h]

/-- A response whose reservation is the first enters it, and its access is over. -/
theorem deliver_enters (h : firstResv ((r.elem a.elem).inch a.rsp).q = some (a.serial, 0)) (hl : r.logs = false)
    (hk : a.kind = .load ∨ a.kind = .acquire ∨ a.kind = .vld) :
    s.deliver r.id a.serial = s.setRegion { deliverHalves s.cyc a v p r a.halves with
      accs := (deliverHalves s.cyc a v p r a.halves).accs.filter (fun b => b.serial != a.serial) } := by
  have hgone : (a.kind == .load || a.kind == .acquire || a.kind == .vld || !r.uncommitted a.serial) = true := by
    obtain hk | hk | hk := hk <;> simp [hk]
  unfold State.deliver
  simp only [hr, ha, hv, h, hl, hgone, bne_self_eq_false, Bool.and_false, Bool.false_and, Bool.false_eq_true, if_false, if_true]

end

/-- A response fills its reservation behind the tokens before it. -/
theorem fillResv_first (now acc : Nat) (t : Token) (pre post : List InEntry) (h : ∀ e ∈ pre, ∃ k, e = .tok k) :
    fillResv now acc 0 t false (pre ++ .resv acc 0 false :: post) = pre ++ .tok ⟨t, now, 0⟩ :: post := by
  induction pre with
  | nil => simp [fillResv]
  | cons e pre ih =>
    obtain ⟨he, hpre⟩ := List.forall_mem_cons.mp h
    obtain ⟨k, rfl⟩ := he
    simp [fillResv, ih hpre]

/-! ## Accesses that are performed on their own (R114, R147, R148, R152) -/

section
variable {s : State} {r : Region} {a : Acc} {x : Xlat}

section
variable (h : AccessAt s r a (.ready x)) (hp : s.mayPerform r a = true)
include h hp

theorem exec_unbufferedAccessPerform (hx : x.mt = 1 ∨ s.isLocal x.pa = true) (hk : a.kind = .release) (hs : s.waitsScore a = false)
    (hb : storeBlocked s x a.size = false) :
    exec (.unbufferedAccessPerform r.id a.serial) s = .next ((s.storeAt x (wideBytes a.data a.size)).performed r.id a) := by
  have hhere : (x.mt = 0 && !s.isLocal x.pa : Bool) = false := by rcases hx with hx | hx <;> simp [hx]
  show execUnbufferedAccessPerform r.id a.serial s = _
  unfold execUnbufferedAccessPerform
  simp only [h.resident, h.access, h.stage, hk, hp, hs, hb, hhere, Bool.not_true, Bool.or_self, Bool.false_eq_true, if_false]

theorem exec_vrclPerform (hk : a.kind = .vrcl) (hl : s.isLocal x.pa = true) :
    exec (.vrclPerform r.id a.serial) s = .next ((s.vrcl (lowOf x.pa) a.version).performed r.id a) := by
  show execVrclPerform r.id a.serial s = _
  unfold execVrclPerform
  simp only [h.resident, h.access, h.stage, hk, hp, hl, Bool.not_true, Bool.false_eq_true, if_false]

theorem exec_vstPerform_held (hk : a.kind = .vst) (hl : s.isLocal x.pa = true) (hv : s.vstHeld (lowOf x.pa) (.region r.id a.serial) = true) :
    exec (.vstPerform r.id a.serial) s = .next
      ((s.vstJoin (lowOf x.pa) (.region r.id a.serial)).setRegion (r.setAcc { a with st := .waiting x, since := s.cyc })) := by
  show execVstPerform r.id a.serial s = _
  unfold execVstPerform
  simp only [h.resident, h.access, h.stage, hk, hp, hl, hv, Bool.not_true, Bool.false_eq_true, if_false, if_true]

theorem exec_vstPerform_creates (hk : a.kind = .vst) (hl : s.isLocal x.pa = true)
    (hv : s.vstHeld (lowOf x.pa) (.region r.id a.serial) = false) (hw : s.writeHeld (lowOf x.pa) 8 false = false) :
    exec (.vstPerform r.id a.serial) s = .next ((s.createVersion (lowOf x.pa) (a.data.extractLsb' 0 64)).performed r.id a) := by
  show execVstPerform r.id a.serial s = _
  unfold execVstPerform
  simp only [h.resident, h.access, h.stage, hk, hp, hl, hv, hw, Bool.not_true, Bool.false_eq_true, if_false]

theorem exec_atomicPerform (hx : x.mt = 1 ∨ s.isLocal x.pa = true) {k : AmoKind} (reply : Reply) (hk : a.kind = .amo k)
    (hs : s.waitsScore a = false) {old : Nat} {p : Bool} {s1 : State}
    (ha : (amoAtM x k a.size (a.data.extractLsb' 0 64).toNat a.new.toNat).exec s = (.ok (old, p), s1)) :
    exec (.atomicPerform r.id a.serial reply) s = .next (s1.performed r.id { a with result := some (BitVec.ofNat 256 old, p) }) := by
  have hhere : (x.mt = 0 && !s.isLocal x.pa : Bool) = false := by rcases hx with hx | hx <;> simp [hx]
  show execAtomicPerform r.id a.serial reply s = _
  unfold execAtomicPerform
  simp only [h.resident, h.access, h.stage, hk, hp, hs, hhere, ha, Bool.not_true, Bool.or_self, Bool.false_eq_true, if_false]

end

section
variable (h : AccessAt s r a (.waiting x)) (hk : a.kind = .vst)
include h hk

theorem exec_versionStall : exec (.versionStall r.id a.serial) s = .next (if a.since + 2 ^ 20 < s.cyc then s.stallVst r a else s) := by
  show execVersionStall r.id a.serial s = _
  unfold execVersionStall
  simp only [h.resident, h.access, h.stage, h.live, hk, State.stalled, Bool.true_and, decide_eq_true_eq]

theorem exec_vstPerform_stalls (hp : s.mayPerform r a = true) (ht : a.since + 2 ^ 20 < s.cyc) :
    exec (.vstPerform r.id a.serial) s = .next (s.stallVst r a) := by
  show execVstPerform r.id a.serial s = _
  unfold execVstPerform
  simp only [h.resident, h.access, h.stage, hk, hp, State.stalled, ht, decide_true, Bool.not_true, Bool.false_eq_true, if_false, if_true]

theorem exec_vstPerform_waited (hp : s.mayPerform r a = true) (ht : s.cyc ≤ a.since + 2 ^ 20)
    (hv : s.vstHeld (lowOf x.pa) (.region r.id a.serial) = false) (hw : s.writeHeld (lowOf x.pa) 8 false = false) :
    exec (.vstPerform r.id a.serial) s = .next (((s.vstGone (lowOf x.pa) (.region r.id a.serial)).createVersion (lowOf x.pa)
      (a.data.extractLsb' 0 64)).performed r.id a) := by
  show execVstPerform r.id a.serial s = _
  unfold execVstPerform
  simp only [h.resident, h.access, h.stage, hk, hp, hv, hw, State.stalled, Nat.not_lt.mpr ht, decide_false, Bool.not_true, Bool.or_self,
    Bool.false_eq_true, if_false]

end

theorem exec_versionStall_remote (h : AccessAt s r a (.remote x)) (hk : a.kind = .vst) (ht : a.since + 2 ^ 20 < s.cyc)
    (hq : ∃ q ∈ s.reqs, q.completed = true ∧ q.kind = .vst ∧ q.owner = .region r.id a.serial) :
    exec (.versionStall r.id a.serial) s = .next (s.stallVst r a) := by
  have hsaid : s.reqs.any (fun q => q.completed && q.kind == .vst && q.owner == .region r.id a.serial) = true := by
    obtain ⟨q, hmem, hdone, hkind, howner⟩ := hq
    exact List.any_eq_true.mpr ⟨q, hmem, by simp [hdone, hkind, howner]⟩
  show execVersionStall r.id a.serial s = _
  unfold execVersionStall
  simp only [h.resident, h.access, h.stage, h.live, hk, hsaid, State.stalled, ht, decide_true, Bool.and_self, if_true]

/-! ## Versioned loads at their home (R146, R294, R331) -/

theorem exec_vldHomeJudge (reply : Reply) (h : AccessAt s r a (.ready x)) (hk : a.kind = .vld) (hl : s.isLocal x.pa = true)
    (hj : s.mayJudge r a = true) : exec (.vldHomeJudge r.id a.serial reply) s = .next (s.judge r a x) := by
  show execVldHomeJudge r.id a.serial reply s = _
  unfold execVldHomeJudge
  simp only [h.resident, h.access, h.stage, h.live, hk, hl, hj, bne_self_eq_false, Bool.not_true, Bool.or_self, Bool.false_eq_true,
    if_false, if_true]

theorem exec_vldResend (h : AccessAt s r a (.refused x)) (hk : a.kind = .vld) (hw : s.wayOpen r a = true) :
    exec (.vldResend r.id a.serial) s = .next (s.judge r a x) := by
  show execVldResend r.id a.serial s = _
  unfold execVldResend
  simp only [h.resident, h.access, h.stage, h.live, hk, hw, beq_self_eq_true, Bool.and_self, if_true]

theorem judge_gone (h : s.judgeVld (lowOf x.pa) a.version = .gone) :
    s.judge r a x = s.accNow r { a with st := .failed Cause.versionGone a.va } := by
  unfold State.judge
  simp only [h]
  rfl

theorem judge_value {v : DWord} {p : Bool} (h : s.judgeVld (lowOf x.pa) a.version = .value v p) :
    s.judge r a x = s.accNow r { a with st := .done, result := some (if a.version = (s.vtag (lowOf x.pa)).newest
      then r.throughWindows a x v p else (v.zeroExtend 256, p)) } := by
  unfold State.judge
  simp only [h, beq_iff_eq]
  rfl

theorem judge_notYet (h : s.judgeVld (lowOf x.pa) a.version = .notYet) :
    s.judge r a x = if s.vldListFull (lowOf x.pa) = true then s.accNow r { a with st := .refused x }
      else ({ s with vldWaits := s.vldWaits ++ [⟨lowOf x.pa / 8, a.version, .region r.id a.serial⟩] } : State).accNow r
        { a with st := .waiting x } := by
  unfold State.judge
  simp only [h]
  rfl

/-! ### The windows where no store is buffered -/

theorem forwarded_of_no_store (h : ∀ b ∈ r.accs, b.kind ≠ .store) (n mt i : Nat) : r.forwarded n mt i = none := by
  unfold Region.forwarded
  generalize r.accs = l at h
  induction l with
  | nil => rfl
  | cons b l ih =>
    obtain ⟨hb, hl⟩ := List.forall_mem_cons.mp h
    rw [List.foldl_cons]
    split
    · rename_i hk _
      exact absurd hk hb
    · exact ih hl

theorem withForward_of_no_store (h : ∀ b ∈ r.accs, b.kind ≠ .store) : r.withForward a x = a := by
  unfold Region.withForward
  simp only [forwarded_of_no_store h]
  exact List.foldl_fixed' (fun _ => rfl) _

/-- The last k bytes of an answer of which the windows hold nothing. -/
theorem leNat_overlay {d : Wide} (hn : a.new = 0) {k : Nat} (hk : k ≤ a.size) :
    leNat (overlay a d k) = d.toNat / 2 ^ (8 * (a.size - k)) % 2 ^ (8 * k) := by
  induction k with
  | zero => simp [overlay, leNat, Nat.mod_one]
  | succ k ih =>
    have hidx : 8 * (a.size - k) = 8 * (a.size - (k + 1)) + 8 := by omega
    have hpow : 2 ^ (8 * (k + 1)) = 2 ^ 8 * 2 ^ (8 * k) := by rw [Nat.mul_succ, Nat.pow_add, Nat.mul_comm]
    have hbit : a.new.getLsbD (a.size - (k + 1)) = false := by simp [hn]
    rw [overlay, leNat, ih (by omega), hidx, Nat.pow_add, ← Nat.div_div_eq_div_mul, hpow, Nat.mod_mul]
    simp only [hbit, Bool.false_eq_true, if_false, BitVec.extractLsb'_toNat, Nat.shiftRight_eq_div_pow, Nat.reducePow]

theorem throughWindows_of_no_store {v : DWord} {p : Bool} (hs : a.size = 8) (h : ∀ b ∈ r.accs, b.kind ≠ .store) :
    r.throughWindows a x v p = (v.zeroExtend 256, p) := by
  have hcov : r.covered a.serial x a.size = false := by simp [hs, Region.covered, natsFrom, forwarded_of_no_store h]
  have hval : (v.zeroExtend 256 : Wide).toNat = v.toNat := by
    rw [BitVec.toNat_setWidth, Nat.mod_eq_of_lt (lt_trans v.isLt (by decide))]
  have hbytes : leNat (overlay { a with data := 0, new := 0 } (v.zeroExtend 256) a.size) = v.toNat := by
    rw [leNat_overlay rfl le_rfl, Nat.sub_self, hval, hs, Nat.mul_zero, Nat.pow_zero, Nat.div_one]
    exact Nat.mod_eq_of_lt v.isLt
  unfold Region.throughWindows
  simp only [withForward_of_no_store h, hbytes, hcov, Bool.not_false, Bool.and_true, Prod.mk.injEq, and_true]
  exact BitVec.eq_of_toNat_eq (by rw [hval, BitVec.toNat_ofNat, Nat.mod_eq_of_lt (lt_trans v.isLt (by decide))])

end

/-- Settles O37: each event of an access where its condition holds, the judgement by its answers, and the windows without a store. -/
theorem elementAccessesPerform : Obligations.ElementAccessesPerform := by
  unfold Obligations.ElementAccessesPerform
  refine ⟨⟨fun s r a h => ⟨exec_tlbWalk_waits h, fun ho => ⟨fun x s1 b hx hb => exec_tlbWalk_ok h ho hx hb,
      fun cause addr s1 hx => exec_tlbWalk_raises h ho hx⟩⟩,
    fun s r a => ⟨checkedAcc_behind s r a, behind_checkedAcc⟩,
    fun s r a x reply h hk hread hx b r1 s1 hout hin hgo bs p hbs => exec_loadResponse_reads reply h hk hread hx hout hin hgo hbs,
    fun s r a v p hr ha hv => ⟨deliver_waits hr ha hv, deliver_enters hr ha hv⟩, fillResv_first⟩,
    ?perform, ?stall, ?stallRemote, fun s r a x reply => exec_vldHomeJudge reply, fun s r a x => exec_vldResend,
    fun s r a x => ⟨judge_gone, fun v p => judge_value, judge_notYet⟩, fun r a x v p => throughWindows_of_no_store⟩
  case perform =>
    intro s r a x h hp hx
    exact ⟨exec_unbufferedAccessPerform h hp hx, exec_vrclPerform h hp,
      fun hk hl => ⟨exec_vstPerform_held h hp hk hl, exec_vstPerform_creates h hp hk hl⟩,
      fun k reply hk hs old p s1 => exec_atomicPerform h hp hx reply hk hs⟩
  case stall =>
    rintro s r a x t h hk rfl
    exact ⟨exec_versionStall h hk, fun hp => ⟨exec_vstPerform_stalls h hk hp, exec_vstPerform_waited h hk hp⟩⟩
  case stallRemote =>
    intro s r a x h hk ht hq
    exact exec_versionStall_remote h hk ht hq

end Sys2Proof.Machine
end

section
/-!
PROOFS. A block in colour-delta form reads back the bytes it was made of (R413, R414), so a write of the fabric within one block reads
back from where it was written (R286, R415).
-/
namespace Sys2Proof.Machine

/-! ## The deltas of a half and their widths -/

theorem halfDeltas_wrap {line : List Byte} (hl : line ≠ []) (ps : List Byte) : halfDeltas line [] ps = halfDeltas line line ps := by
  cases ps with
  | nil => rfl
  | cons p ps =>
    cases line with
    | nil => exact absurd rfl hl
    | cons b bs => rfl

/-- The delta of each byte is against the byte of its channel in the first pixel. -/
theorem getElem?_halfDeltas {line : List Byte} (hl : line.length = 4) (ps : List Byte) {j : Nat} (hj : j ≤ 4) (i : Nat) :
    (halfDeltas line (line.drop j) ps)[i]? = (ps[i]?).map (fun p => deltaOf p (line.getD ((j + i) % 4) 0)) := by
  have hne : line ≠ [] := List.ne_nil_of_length_pos (by omega)
  induction ps generalizing i j with
  | nil => rfl
  | cons p ps ih =>
    have hinner : ∀ j < 4, (halfDeltas line (line.drop j) (p :: ps))[i]? =
        ((p :: ps)[i]?).map (fun p => deltaOf p (line.getD ((j + i) % 4) 0)) := by
      intro j hj
      rw [List.drop_eq_getElem_cons (by omega), halfDeltas]
      cases i with
      | zero => simp [Nat.mod_eq_of_lt hj, List.getD, List.getElem?_eq_getElem (hl ▸ hj)]
      | succ i => rw [List.getElem?_cons_succ, ih (by omega), List.getElem?_cons_succ, Nat.add_right_comm, Nat.add_assoc]
    rcases Nat.lt_or_eq_of_le hj with hlt | rfl
    · exact hinner j hlt
    · rw [List.drop_of_length_le hl.le, halfDeltas_wrap hne]
      simpa using hinner 0 (by omega)

theorem widthOf_le (d : Nat) : widthOf d ≤ 8 := by
  unfold widthOf
  split_ifs <;> omega

theorem maxWidth_le (ds : List Nat) : maxWidth ds ≤ 8 := by
  induction ds with
  | nil => exact Nat.zero_le 8
  | cons d ds ih => exact Nat.max_le.2 ⟨widthOf_le d, ih⟩

theorem widthOf_le_maxWidth {ds : List Nat} {i d : Nat} (h : ds[i]? = some d) : widthOf d ≤ maxWidth ds := by
  induction ds generalizing i with
  | nil => simp at h
  | cons e ds ih =>
    cases i with
    | zero => exact Option.some.inj h ▸ Nat.le_max_left _ _
    | succ i => exact (ih h).trans (Nat.le_max_right _ _)

theorem eq_of_widthOf_eq_zero {d : Nat} (h : widthOf d = 0) : d = 128 := by
  unfold widthOf at h
  split_ifs at h with h0
  exact h0

/-- A delta lies in the range of every number of bits that its width fits in. -/
theorem delta_range {d n : Nat} (h : widthOf d ≤ n + 1) (hn : n < 7) : 128 ≤ d + 2 ^ n ∧ d < 128 + 2 ^ n := by
  unfold widthOf at h
  simp only [Bool.and_eq_true, decide_eq_true_eq] at h
  interval_cases n <;> split_ifs at h <;> simp only [Nat.reducePow] <;> omega

/-- The n low bits of a delta that fits in n bits, sign-extended, are the delta. -/
theorem sextByte_delta {d n : Nat} (h : widthOf d ≤ n) (hn : n ≤ 7) :
    sextByte n ((d + 128) % 2 ^ n) = BitVec.ofNat 8 (d + 128) := by
  cases n with
  | zero => rw [eq_of_widthOf_eq_zero (Nat.le_zero.1 h)]; rfl
  | succ n =>
    have hn : n < 7 := hn
    obtain ⟨hl, hu⟩ := delta_range h hn
    have hmod : (d + 128) % 2 ^ (n + 1) = if d < 128 then d + 2 ^ (n + 1) - 128 else d - 128 := by
      interval_cases n <;> simp only [Nat.reducePow, Nat.reduceAdd] at hl hu ⊢ <;> split_ifs <;> omega
    have hle : 2 ^ n ≤ 2 ^ 6 := Nat.pow_le_pow_right (by decide) (by omega)
    have hsucc : 2 ^ (n + 1) = 2 * 2 ^ n := Nat.pow_succ'
    unfold sextByte
    rw [if_neg n.succ_ne_zero, hmod, Nat.add_sub_cancel, hsucc]
    generalize 2 ^ n = p at *
    apply BitVec.eq_of_toNat_eq
    split_ifs <;> simp only [BitVec.toNat_ofNat] <;> omega

theorem add_deltaOf (p b : Byte) : b + BitVec.ofNat 8 (deltaOf p b + 128) = p := by
  unfold deltaOf
  bv_omega

/-! ## The packed bits -/

/-- The n bits at place n · k of a packed list are those of its k-th delta. -/
theorem packDeltas_field {n k d : Nat} {ds : List Nat} (h : ds[k]? = some d) :
    packDeltas n ds / 2 ^ (n * k) % 2 ^ n = (d + 128) % 2 ^ n := by
  have hp : 0 < 2 ^ n := Nat.two_pow_pos n
  induction ds generalizing k with
  | nil => simp at h
  | cons e ds ih =>
    cases k with
    | zero => simp only [List.getElem?_cons_zero, Option.some.injEq] at h; subst h; simp [packDeltas]
    | succ k =>
      have hdiv : packDeltas n (e :: ds) / 2 ^ n = packDeltas n ds := by
        rw [packDeltas, Nat.add_mul_div_left _ _ hp, Nat.div_eq_of_lt (Nat.mod_lt _ hp), Nat.zero_add]
      rw [Nat.mul_succ, Nat.add_comm, Nat.pow_add, ← Nat.div_div_eq_div_mul, hdiv, ih h]

theorem getElem?_leBytes (v : Nat) {n i : Nat} (h : i < n) : (leBytes v n)[i]? = some (BitVec.ofNat 8 (v / 256 ^ i)) := by
  induction n generalizing v i with
  | zero => omega
  | succ n ih =>
    cases i with
    | zero => simp [leBytes]
    | succ i => rw [leBytes, List.getElem?_cons_succ, ih _ (by omega), Nat.div_div_eq_div_mul, ← Nat.pow_succ']

/-- The bits of a number that memory holds in bytes, lowest first. -/
theorem bitsAt_of_bytes {m : List Host.Cell} {a v L p n : Nat} (hm : ∀ i < L, Mem.read m (a + i) = BitVec.ofNat 8 (v / 256 ^ i))
    (hp : p / 8 + 3 ≤ L) (hn : n ≤ 8) : bitsAt m a p n = v / 2 ^ p % 2 ^ n := by
  have hbytes : leNat (Mem.readList m (a + p / 8) 3) = v / 256 ^ (p / 8) % 2 ^ 24 := by
    simp only [Mem.readList, leNat, Nat.add_assoc, hm (p / 8) (by omega), hm (p / 8 + 1) (by omega), hm (p / 8 + (1 + 1)) (by omega),
      BitVec.toNat_ofNat, Nat.pow_add, ← Nat.div_div_eq_div_mul]
    omega
  have hpow : 2 ^ p = 256 ^ (p / 8) * 2 ^ (p % 8) := by
    rw [show (256 : Nat) = 2 ^ 8 from rfl, ← Nat.pow_mul, ← Nat.pow_add, Nat.div_add_mod]
  rw [bitsAt, hbytes, hpow, ← Nat.div_div_eq_div_mul]
  generalize v / 256 ^ (p / 8) = x
  apply Nat.eq_of_testBit_eq
  intro i
  simp only [Nat.testBit_mod_two_pow, Nat.testBit_div_two_pow]
  by_cases hi : i < n
  · simp [hi, show i + p % 8 < 24 by omega]
  · simp [hi]

/-! ## One half of a block -/

/-- The least width that holds every delta of a half. -/
def halfWidth (half : List Byte) : Nat := maxWidth (halfDeltas (half.take 4) (half.take 4) half)

/-- The stored bytes of a half at n bits a delta. -/
def packedHalf (n : Nat) (half : List Byte) : List Byte :=
  half.take 4 ++ leBytes (packDeltas n ((halfDeltas (half.take 4) (half.take 4) half).drop 4)) 124

theorem compressBlock_eq (bytes : List Byte) : compressBlock bytes =
    if max (halfWidth (bytes.take 128)) (halfWidth (bytes.drop 128)) = 8 then (0, bytes)
    else (0x10 + max (halfWidth (bytes.take 128)) (halfWidth (bytes.drop 128)),
      packedHalf (max (halfWidth (bytes.take 128)) (halfWidth (bytes.drop 128))) (bytes.take 128) ++
      packedHalf (max (halfWidth (bytes.take 128)) (halfWidth (bytes.drop 128))) (bytes.drop 128)) := rfl

theorem halfWidth_le (half : List Byte) : halfWidth half ≤ 8 := maxWidth_le _

section Half
variable {half : List Byte} (hlen : half.length = 128)
include hlen

theorem length_packedHalf (n : Nat) : (packedHalf n half).length = 128 := by simp [packedHalf, hlen]

theorem getElem?_deltas {o : Nat} (ho : o < 128) : (halfDeltas (half.take 4) (half.take 4) half)[o]? =
    some (deltaOf (half[o]'(hlen ▸ ho)) (half[o % 4]'(by omega))) := by
  have h := getElem?_halfDeltas (line := half.take 4) (by simp [hlen]) half (Nat.zero_le 4) o
  rw [List.drop_zero] at h
  rw [h, List.getElem?_eq_getElem (hlen ▸ ho), Option.map_some, Nat.zero_add, List.getD, List.getElem?_take_of_lt (Nat.mod_lt o (by omega)),
    List.getElem?_eq_getElem (by omega), Option.getD_some]

theorem packedHalf_first (n : Nat) {o : Nat} (ho : o < 4) : (packedHalf n half)[o]? = half[o]? := by
  rw [packedHalf, List.getElem?_append_left (by simp [hlen]; omega), List.getElem?_take_of_lt ho]

theorem packedHalf_rest (n : Nat) {i : Nat} (hi : i < 124) : (packedHalf n half)[4 + i]? =
    some (BitVec.ofNat 8 (packDeltas n ((halfDeltas (half.take 4) (half.take 4) half).drop 4) / 256 ^ i)) := by
  have ht : (half.take 4).length = 4 := by simp [hlen]
  rw [packedHalf, List.getElem?_append_right (by omega), ht, Nat.add_sub_cancel_left, getElem?_leBytes _ hi]

/-- A line that holds the packed form of a half reads as the half. -/
theorem decompByte_packedHalf {m : List Host.Cell} {line n o : Nat} (ha : line % 128 = 0) (hn : n ≤ 7) (hw : halfWidth half ≤ n)
    (hm : ∀ i < 128, Mem.read m (line + i) = ((packedHalf n half)[i]?).getD 0) (ho : o < 128) :
    decompByte m (0x10 + n) (line + o) = (half[o]?).getD 0 := by
  have hmod : (line + o) % 128 = o := by omega
  have hbase : Mem.read m (line + o % 4) = half[o % 4]'(by omega) := by
    rw [hm _ (by omega), packedHalf_first hlen n (Nat.mod_lt o (by decide)), List.getElem?_eq_getElem (by omega), Option.getD_some]
  unfold decompByte
  rw [if_neg (by omega)]
  dsimp only
  rw [if_neg (by omega), hmod, Nat.add_sub_cancel, hbase, List.getElem?_eq_getElem (hlen ▸ ho), Option.getD_some]
  split
  · rename_i h4
    simp only [Nat.mod_eq_of_lt h4]
  · rename_i h4
    have hdelta := getElem?_deltas hlen ho
    have hfield : bitsAt m (line + 4) (n * (o - 4)) n = (deltaOf (half[o]'(hlen ▸ ho)) (half[o % 4]'(by omega)) + 128) % 2 ^ n := by
      have hcap : n * (o - 4) ≤ 7 * 123 := Nat.mul_le_mul hn (by omega)
      rw [bitsAt_of_bytes (L := 124) (fun i hi => by rw [Nat.add_assoc, hm _ (by omega), packedHalf_rest hlen n hi]; rfl)
        (by omega) (by omega)]
      exact packDeltas_field (by rw [List.getElem?_drop, show 4 + (o - 4) = o by omega, hdelta])
    rw [show 0x10 + n - 0x10 = n by omega, show 4 * (o / 4 - 1) + o % 4 = o - 4 by omega, hfield,
      sextByte_delta ((widthOf_le_maxWidth hdelta).trans hw) hn, add_deltaOf]

end Half

/-! ## A stored block, and a write within one block -/

theorem find?_erase_self {α : Type} (m : AMap α) (k : Nat) : AMap.find? (AMap.erase m k) k = none := by
  induction m with
  | nil => rfl
  | cons p t ih =>
    obtain ⟨j, w⟩ := p
    unfold AMap.erase
    split
    · exact ih
    · rename_i hne
      rw [AMap.find?, if_neg hne, ih]

section Block
variable {s : State} (h : Mem.wf s.mem = true)
include h

/-- What the memory of a stored block holds. -/
theorem read_storeBlock (blk : Nat) (bytes : List Byte) (i : Nat) : Mem.read (s.storeBlock blk bytes).mem (blk * 256 + i) =
    ((compressBlock bytes).2[i]?).getD (Mem.read s.mem (blk * 256 + i)) := by
  rw [State.storeBlock, read_writeList _ _ h, if_pos (Nat.le_add_right _ _), Nat.add_sub_cancel_left]

/-- Each byte of a stored block reads back, in whichever form the block is stored. -/
theorem byteAt_storeBlock {blk i : Nat} {bytes : List Byte} (hlen : bytes.length = 256) (hi : i < 256) :
    (s.storeBlock blk bytes).byteAt (blk * 256 + i) = (bytes[i]?).getD 0 := by
  have hblk : blockOf (blk * 256 + i) = blk := by unfold blockOf; omega
  have hmem := read_storeBlock h blk bytes
  unfold State.byteAt State.modeOf
  rw [hblk]
  generalize hn : max (halfWidth (bytes.take 128)) (halfWidth (bytes.drop 128)) = n
  have hle : n ≤ 8 := hn ▸ Nat.max_le.2 ⟨halfWidth_le _, halfWidth_le _⟩
  have hc := compressBlock_eq bytes
  rw [hn] at hc
  by_cases h8 : n = 8
  · rw [if_pos h8] at hc
    have hmode : (AMap.getD (s.storeBlock blk bytes).modes blk 0).toNat = 0 := by
      simp [State.storeBlock, hc, AMap.getD, find?_erase_self]
    rw [hmode, decompByte, if_pos rfl, hmem, hc, List.getElem?_eq_getElem (hlen ▸ hi)]
    rfl
  · rw [if_neg h8] at hc
    have hmode : (AMap.getD (s.storeBlock blk bytes).modes blk 0).toNat = 0x10 + n := by
      simp [State.storeBlock, hc]
      omega
    have hl0 : (bytes.take 128).length = 128 := by simp [hlen]
    have hl1 : (bytes.drop 128).length = 128 := by simp [hlen]
    have hp0 := length_packedHalf hl0 n
    have hp1 := length_packedHalf hl1 n
    rw [hmode]
    simp only [hc] at hmem
    by_cases hlow : i < 128
    · have hw : halfWidth (bytes.take 128) ≤ n := hn ▸ Nat.le_max_left _ _
      rw [decompByte_packedHalf hl0 (by omega) (by omega) hw ?_ hlow, List.getElem?_take_of_lt hlow]
      intro j hj
      rw [hmem, List.getElem?_append_left (by omega), List.getElem?_eq_getElem (by omega)]
      rfl
    · obtain ⟨k, rfl⟩ := Nat.exists_eq_add_of_le (Nat.not_lt.1 hlow)
      have hw : halfWidth (bytes.drop 128) ≤ n := hn ▸ Nat.le_max_right _ _
      rw [← Nat.add_assoc, decompByte_packedHalf hl1 (by omega) (by omega) hw ?_ (by omega), List.getElem?_drop]
      intro j hj
      rw [Nat.add_assoc, hmem, List.getElem?_append_right (by omega), hp0, Nat.add_sub_cancel_left,
        List.getElem?_eq_getElem (by omega)]
      rfl

end Block

theorem length_decompList (s : State) (pa n : Nat) : (s.decompList pa n).length = n := by
  induction n generalizing pa with
  | zero => rfl
  | succ n ih => rw [State.decompList, List.length_cons, ih]

/-- A read of the fabric that finds each byte of a list in its place reads the list. -/
theorem fabRead_eq {s : State} {pa : Nat} {bs : List Byte} (h : ∀ i < bs.length, s.byteAt (pa + i) = (bs[i]?).getD 0) :
    s.fabRead pa bs.length = bs := by
  unfold State.fabRead
  induction bs generalizing pa with
  | nil => rfl
  | cons b bs ih =>
    have hhead : s.byteAt pa = b := h 0 (Nat.succ_pos _)
    have htail : ∀ i < bs.length, s.byteAt (pa + 1 + i) = (bs[i]?).getD 0 := by
      intro i hi
      rw [Nat.add_assoc, Nat.add_comm 1 i]
      exact h (i + 1) (Nat.succ_lt_succ hi)
    rw [List.length_cons, State.decompList, ih htail]
    exact congrArg (· :: bs) hhead

/-- A write within one block reads back from where it was written. -/
theorem byteAt_writeInBlock {s : State} {pa i : Nat} {bs : List Byte} (h : Mem.wf s.mem = true) (hb : pa % 256 + bs.length ≤ 256)
    (hi : i < bs.length) : (s.writeInBlock pa bs false).byteAt (pa + i) = (bs[i]?).getD 0 := by
  have hblk : blockOf (pa + i) = blockOf pa := by unfold blockOf; omega
  have hne : bs.isEmpty = false := by cases bs <;> simp at hi ⊢
  unfold State.writeInBlock
  simp only [hne, Bool.false_eq_true, if_false, Bool.not_false, Bool.and_true, decide_eq_true_eq]
  split
  · rename_i h0
    have hmode : s.modeOf (pa + i) = 0 := by unfold State.modeOf; rw [hblk]; exact h0
    unfold State.byteAt
    rw [show ({ s with mem := Mem.writeList s.mem pa bs } : State).modeOf (pa + i) = s.modeOf (pa + i) from rfl, hmode, decompByte,
      if_pos rfl, read_writeList _ _ h, if_pos (Nat.le_add_right _ _), Nat.add_sub_cancel_left, List.getElem?_eq_getElem hi]
    rfl
  · have hold := length_decompList s (blockOf pa * 256) 256
    generalize s.decompList (blockOf pa * 256) 256 = old at hold
    have hat : pa + i = blockOf pa * 256 + (pa % 256 + i) := by unfold blockOf; omega
    rw [hat, byteAt_storeBlock h (by simp [patchAt, hold]; omega) (by omega), patchAt, List.append_assoc,
      List.getElem?_append_right (by simp [hold]), List.getElem?_append_left (by simp [hold]; omega)]
    simp [hold, Nat.min_eq_left (show pa % 256 ≤ 256 by omega)]

/-- A write of the fabric within one block reads back whole. -/
theorem fabRead_fabWrite {s : State} {pa : Nat} {bs : List Byte} (h : Mem.wf s.mem = true) (hb : pa % 256 + bs.length ≤ 256) :
    (s.fabWrite pa bs).fabRead pa bs.length = bs := by
  apply fabRead_eq
  intro i hi
  have hone : s.fabWrite pa bs = (s.writeInBlock pa bs false).noteWrite pa bs.length := by
    unfold State.fabWrite
    dsimp only
    rw [List.take_of_length_le (by omega), List.drop_of_length_le (by omega)]
    rfl
  rw [hone]
  exact byteAt_writeInBlock h hb hi

theorem fabNat_fabWriteNat {s : State} {pa n v : Nat} (h : Mem.wf s.mem = true) (hb : pa % 256 + n ≤ 256) (hv : v < 2 ^ (8 * n)) :
    (s.fabWriteNat pa n v).fabNat pa n = v := by
  have hback := fabRead_fabWrite (pa := pa) (bs := leBytes v n) h (by rwa [length_leBytes])
  rw [length_leBytes] at hback
  rw [State.fabNat, State.fabWriteNat, hback, leNat_leBytes_of_lt hv]

end Sys2Proof.Machine
end

section
/-!
PROOFS. The version store (R146 to R148, R294, R295, R333 to R335): what a vld of each version is answered after a vst, what vrcl
retires, and the answers in the step that creates a version.
-/
namespace Sys2Proof.Machine

/-! ## A vld's judgement by the distance of its version -/

/-- Version v lies ahead of the newest, modulo 2^32 (R146). -/
def laterThan (newest v : Word) : Prop := 1 ≤ (v - newest).toNat ∧ (v - newest).toNat ≤ 2 ^ 31 - 1

/-- The test of a vld and of vrcl, as the model writes it. -/
theorem later_test_iff {newest v : Word} :
    (decide (1 ≤ (v - newest).toNat) && decide ((v - newest).toNat ≤ 2 ^ 31 - 1)) = true ↔ laterThan newest v := by
  rw [Bool.and_eq_true, decide_eq_true_eq, decide_eq_true_eq, laterThan]

theorem later_test_false {newest v : Word} (h : ¬ laterThan newest v) :
    (decide (1 ≤ (v - newest).toNat) && decide ((v - newest).toNat ≤ 2 ^ 31 - 1)) = false :=
  Bool.eq_false_iff.2 (fun ht => h (later_test_iff.1 ht))

theorem not_laterThan_self (v : Word) : ¬ laterThan v v := by simp [laterThan]

theorem not_laterThan_of_back {newest v : Word} (h1 : 1 ≤ (newest - v).toNat) (h2 : (newest - v).toNat ≤ 2 ^ 31) :
    ¬ laterThan newest v := by
  unfold laterThan
  bv_omega

section Judge
variable {s : State} {pa : Nat} {v : Word}

theorem judgeVld_later (h : laterThan (s.vtag pa).newest v) : s.judgeVld pa v = .notYet := by
  unfold State.judgeVld
  simp only [later_test_iff.2 h, if_true]

variable (h : ¬ laterThan (s.vtag pa).newest v)
include h

theorem judgeVld_not_later : s.judgeVld pa v =
    if ((s.vtag pa).newest - v).toNat = 0 then
      .value (BitVec.ofNat 64 (s.fabNat (pa - pa % 8) 8)) (s.poisonedAt pa 8)
    else if ((s.vtag pa).newest - v).toNat ≤ (s.vtag pa).older.length then
      .value ((s.vtag pa).older.getD ((s.vtag pa).older.length - ((s.vtag pa).newest - v).toNat) (0, false)).1
        ((s.vtag pa).older.getD ((s.vtag pa).older.length - ((s.vtag pa).newest - v).toNat) (0, false)).2
    else .gone := by
  unfold State.judgeVld
  simp only [later_test_false h, Bool.false_eq_true, if_false]

theorem judgeVld_older {k : Nat} {y : DWord × Bool} (hk : k = ((s.vtag pa).newest - v).toNat) (h1 : 1 ≤ k)
    (hy : (s.vtag pa).older[(s.vtag pa).older.length - k]? = some y) (hle : k ≤ (s.vtag pa).older.length) :
    s.judgeVld pa v = .value y.1 y.2 := by
  rw [judgeVld_not_later h, ← hk, if_neg (by omega), if_pos hle, List.getD, hy, Option.getD_some]

theorem judgeVld_gone (hlt : (s.vtag pa).older.length < ((s.vtag pa).newest - v).toNat) : s.judgeVld pa v = .gone := by
  rw [judgeVld_not_later h, if_neg (by omega), if_neg (by omega)]

omit h in
theorem judgeVld_newest : s.judgeVld pa (s.vtag pa).newest =
    .value (BitVec.ofNat 64 (s.fabNat (pa - pa % 8) 8)) (s.poisonedAt pa 8) := by
  rw [judgeVld_not_later (not_laterThan_self _), if_pos (by simp)]

/-- An answer with a value is of the newest version or of a retained older one. -/
theorem older_of_judgeVld_value {y : DWord} {p : Bool} (hv : s.judgeVld pa v = .value y p) (hne : v ≠ (s.vtag pa).newest) :
    1 ≤ ((s.vtag pa).newest - v).toNat ∧ ((s.vtag pa).newest - v).toNat ≤ (s.vtag pa).older.length ∧
      (s.vtag pa).older[(s.vtag pa).older.length - ((s.vtag pa).newest - v).toNat]? = some (y, p) := by
  have h0 : ((s.vtag pa).newest - v).toNat ≠ 0 := fun h0 => hne (by bv_omega)
  rw [judgeVld_not_later h, if_neg h0] at hv
  split at hv
  · rename_i hle
    refine ⟨by omega, hle, ?_⟩
    rw [List.getElem?_eq_getElem (by omega)]
    rw [List.getD, List.getElem?_eq_getElem (by omega), Option.getD_some, VldAnswer.value.injEq] at hv
    exact congrArg some (Prod.ext hv.1 hv.2)
  · cases hv

end Judge

/-! ## What a vst does to the store -/

theorem OnlyRecorded.versions {s t : State} (h : OnlyRecorded s t) : t.versions = s.versions :=
  (congrArg State.versions (onlyRecorded_iff.1 h) :)

theorem OnlyRecorded.vldWaits {s t : State} (h : OnlyRecorded s t) : t.vldWaits = s.vldWaits :=
  (congrArg State.vldWaits (onlyRecorded_iff.1 h) :)

section Vst
variable (s : State) (pa : Nat) (v : DWord)

/-- The tag a vst leaves: one version more, whose predecessor keeps the old value. -/
def State.pushedTag : VTag :=
  { newest := (s.vtag pa).newest + 1
    older := (s.vtag pa).older ++ [(BitVec.ofNat 64 (s.fabNat (pa - pa % 8) 8), s.poisonedAt pa 8)] }

theorem vst_versions : (s.vst pa v).versions = AMap.set s.versions (pa / 8) (s.pushedTag pa) :=
  (onlyRecorded_fabWrite ..).versions

theorem vtag_vst : (s.vst pa v).vtag pa = s.pushedTag pa := by
  rw [State.vtag, vst_versions, getD_set_self]

theorem vtag_vst_ne {pb : Nat} (h : pb / 8 ≠ pa / 8) : (s.vst pa v).vtag pb = s.vtag pb := by
  rw [State.vtag, vst_versions, getD_set_ne _ _ _ (Ne.symm h), State.vtag]

variable {s pa}

theorem fabNat_vst (h : Mem.wf s.mem = true) (ha : pa % 8 = 0) : (s.vst pa v).fabNat pa 8 = v.toNat := by
  unfold State.vst
  dsimp only
  rw [ha, Nat.sub_zero]
  exact fabNat_fabWriteNat h (by omega) v.isLt

/-- A write that covers a unit whole clears its poison (R292). -/
theorem poisonedAt_vst (ha : pa % 8 = 0) : (s.vst pa v).poisonedAt pa 8 = false := by
  have hu : unitsOf pa 8 = [pa / 8] := by
    rw [unitsOf, if_neg (by decide), show (pa + 8 - 1) / 8 + 1 - pa / 8 = 1 by omega]
    rfl
  have hw : unitsWithin (pa - pa % 8) (leBytes v.toNat 8).length = [pa / 8] := by
    rw [unitsWithin, length_leBytes, ha, Nat.sub_zero, show (pa + 7) / 8 = pa / 8 by omega, show (pa + 8) / 8 - pa / 8 = 1 by omega]
    rfl
  unfold State.poisonedAt State.vst State.fabWriteNat State.fabWrite State.noteWrite
  dsimp only
  rw [hu, hw]
  simp [NSet.eraseAll]

theorem judgeVld_vst_new (h : Mem.wf s.mem = true) (ha : pa % 8 = 0) :
    (s.vst pa v).judgeVld pa ((s.vtag pa).newest + 1) = .value v false := by
  have hn : ((s.vst pa v).vtag pa).newest = (s.vtag pa).newest + 1 := by rw [vtag_vst]; rfl
  rw [← hn, judgeVld_newest, ha, Nat.sub_zero, fabNat_vst v h ha, poisonedAt_vst v ha, BitVec.ofNat_toNat, BitVec.setWidth_eq]

theorem judgeVld_vst_older {w : Word} {k : Nat} {y : DWord} {p : Bool} (hk : k = ((s.vtag pa).newest - w).toNat)
    (hlen : (s.vtag pa).older.length < 4) (hle : k ≤ (s.vtag pa).older.length)
    (hy : ((s.pushedTag pa).older)[(s.vtag pa).older.length - k]? = some (y, p)) : (s.vst pa v).judgeVld pa w = .value y p := by
  have hback : ((s.pushedTag pa).newest - w).toNat = k + 1 := by
    unfold State.pushedTag
    dsimp only
    bv_omega
  have hl : (s.pushedTag pa).older.length = (s.vtag pa).older.length + 1 := by simp [State.pushedTag]
  have hnot : ¬ laterThan ((s.vst pa v).vtag pa).newest w := by
    rw [vtag_vst]
    exact not_laterThan_of_back (by omega) (by omega)
  refine judgeVld_older hnot (k := k + 1) (y := (y, p)) ?_ (by omega) ?_ ?_
  · rw [vtag_vst, hback]
  · rw [vtag_vst, hl, Nat.add_sub_add_right, hy]
  · rw [vtag_vst, hl]; omega

/-- The version before a new one keeps its value. -/
theorem judgeVld_vst_before (ha : pa % 8 = 0) (hlen : (s.vtag pa).older.length < 4) :
    (s.vst pa v).judgeVld pa (s.vtag pa).newest = .value (BitVec.ofNat 64 (s.fabNat pa 8)) (s.poisonedAt pa 8) := by
  refine judgeVld_vst_older v (k := 0) (by simp) hlen (Nat.zero_le _) ?_
  simp [State.pushedTag, ha]

/-- Every other retained version keeps its value. -/
theorem judgeVld_vst_kept {w : Word} {y : DWord} {p : Bool} (hlen : (s.vtag pa).older.length < 4) (hne : w ≠ (s.vtag pa).newest)
    (hw : s.judgeVld pa w = .value y p) : (s.vst pa v).judgeVld pa w = .value y p := by
  have hnot : ¬ laterThan (s.vtag pa).newest w := fun hl => by rw [judgeVld_later hl] at hw; cases hw
  obtain ⟨h1, hle, hy⟩ := older_of_judgeVld_value hnot hw hne
  refine judgeVld_vst_older v rfl hlen hle ?_
  unfold State.pushedTag
  dsimp only
  rw [List.getElem?_append_left (by omega), hy]

end Vst

/-! ## When a vst waits, and what vrcl retires -/

theorem vstBlocked_iff (s : State) (pa : Nat) :
    s.vstBlocked pa = true ↔ 4 ≤ 1 + (s.vtag pa).older.length ∨ 4096 ≤ olderAt (homeSlice pa) s.versions := by
  rw [State.vstBlocked, Bool.or_eq_true, decide_eq_true_eq, decide_eq_true_eq]
  omega

section Vrcl
variable {s : State} {pa : Nat} {v : Word}

theorem vrcl_later (h : laterThan (s.vtag pa).newest v) :
    s.vrcl pa v = { s with versions := AMap.set s.versions (pa / 8) { s.vtag pa with older := [] } } := by
  unfold State.vrcl
  simp only [later_test_iff.2 h, Bool.or_true, if_true, Nat.sub_zero, List.drop_length]

theorem vrcl_not_later (h : ¬ laterThan (s.vtag pa).newest v) : s.vrcl pa v =
    if ((s.vtag pa).newest - v).toNat ≤ (s.vtag pa).older.length then
      { s with versions := AMap.set s.versions (pa / 8) { s.vtag pa with
          older := (s.vtag pa).older.drop ((s.vtag pa).older.length - ((s.vtag pa).newest - v).toNat) } }
    else s := by
  unfold State.vrcl
  simp only [later_test_false h, Bool.false_eq_true, if_false, Bool.or_false, decide_eq_true_eq]
  split
  · rename_i hle
    rw [Nat.min_eq_left hle]
  · rfl

/-- vrcl leaves the store, or gives the word's tag a new list of older values. -/
theorem vrcl_eq_self_or_set (s : State) (pa : Nat) (v : Word) :
    s.vrcl pa v = s ∨ ∃ t, s.vrcl pa v = { s with versions := AMap.set s.versions (pa / 8) t } := by
  unfold State.vrcl
  dsimp only
  split
  · exact .inr ⟨_, rfl⟩
  · exact .inl rfl

theorem vtag_set_versions (t : VTag) : ({ s with versions := AMap.set s.versions (pa / 8) t } : State).vtag pa = t := by
  rw [State.vtag, getD_set_self]

theorem vtag_vrcl_ne (s : State) {pa pb : Nat} (v : Word) (h : pb / 8 ≠ pa / 8) : (s.vrcl pa v).vtag pb = s.vtag pb := by
  obtain heq | ⟨t, heq⟩ := vrcl_eq_self_or_set s pa v
  · rw [heq]
  · rw [heq, State.vtag, getD_set_ne _ _ _ (Ne.symm h), State.vtag]

theorem vrcl_frame (s : State) (pa : Nat) (v : Word) : { s.vrcl pa v with versions := s.versions } = s := by
  obtain heq | ⟨t, heq⟩ := vrcl_eq_self_or_set s pa v <;> rw [heq]

theorem vtag_vrcl_later (h : laterThan (s.vtag pa).newest v) : (s.vrcl pa v).vtag pa = { s.vtag pa with older := [] } := by
  rw [vrcl_later h, vtag_set_versions]

theorem vtag_vrcl_retires (h : ¬ laterThan (s.vtag pa).newest v) (hlt : ((s.vtag pa).newest - v).toNat < (s.vtag pa).older.length) :
    (s.vrcl pa v).vtag pa = { s.vtag pa with
      older := (s.vtag pa).older.drop ((s.vtag pa).older.length - ((s.vtag pa).newest - v).toNat) } := by
  rw [vrcl_not_later h, if_pos hlt.le, vtag_set_versions]

theorem vtag_vrcl_keeps (h : ¬ laterThan (s.vtag pa).newest v) (hle : (s.vtag pa).older.length ≤ ((s.vtag pa).newest - v).toNat) :
    (s.vrcl pa v).vtag pa = s.vtag pa := by
  rw [vrcl_not_later h]
  split
  · rw [vtag_set_versions, Nat.sub_eq_zero_of_le hle, List.drop_zero]
  · rfl

end Vrcl

/-! ## The answers to those that wait for a version -/

/-- What the answers to waiting vlds leave: the versions, the memory, and those that still wait. -/
def State.vldStore (s : State) : AMap VTag × List Host.Cell × List VldWait := (s.versions, s.mem, s.vldWaits)

theorem vldStore_updRegion (s : State) (id : Nat) (f : Region → Region) : (s.updRegion id f).vldStore = s.vldStore := by
  unfold State.updRegion
  split <;> rfl

theorem vldStore_answerPeer (s : State) (port a : Nat) (k : AnswerKind) (d : Nat) :
    (s.answerPeer port a k d).vldStore = s.vldStore := rfl

theorem vldStore_answerVld (s : State) (w : VldWait) (v : DWord) : (s.answerVld w v).vldStore = s.vldStore := by
  unfold State.answerVld
  split
  · exact vldStore_updRegion ..
  · rfl
  · rfl
  · rfl
  · exact vldStore_answerPeer ..

theorem vldStore_answerAll (s : State) (v : DWord) (ws : List VldWait) : (s.answerAll v ws).vldStore = s.vldStore := by
  induction ws generalizing s with
  | nil => rfl
  | cons w ws ih => rw [State.answerAll, ih, vldStore_answerVld]

theorem vldStore_createVersion (s : State) (pa : Nat) (v : DWord) : (s.createVersion pa v).vldStore =
    ((s.vst pa v).versions, (s.vst pa v).mem,
      s.vldWaits.filter (fun w => !(w.word == pa / 8 && w.version == (s.vtag pa).newest + 1))) := by
  have hn : ((s.vst pa v).vtag pa).newest = (s.vtag pa).newest + 1 := by rw [vtag_vst]; rfl
  have hwaits : (s.vst pa v).vldWaits = s.vldWaits := (onlyRecorded_fabWrite ..).vldWaits
  rw [State.createVersion, vldStore_answerAll, State.vldStore]
  dsimp only
  rw [hn, hwaits]

/-- No vld waits on for the version that has just been created. -/
theorem vldWaits_createVersion {s : State} {pa : Nat} {v : DWord} {w : VldWait} (h : w ∈ (s.createVersion pa v).vldWaits) :
    ¬ (w.word = pa / 8 ∧ w.version = (s.vtag pa).newest + 1) := by
  have hw : (s.createVersion pa v).vldWaits = _ := congrArg (fun x => x.2.2) (vldStore_createVersion s pa v)
  rw [hw, List.mem_filter] at h
  rintro ⟨hword, hversion⟩
  simp [hword, hversion] at h

end Sys2Proof.Machine
end

section
/-!
PROOFS. vld, vst, vrcl and fence of a sequencer (R146 to R150, R178, R179, R337).
-/
namespace Sys2Proof.Machine

/-! ## Waiting for a free version -/

theorem exec_waitStart {s : State} {c since : Nat} (hs : (s.core c).waitFrom = some since) : (waitStart c).exec s = (.ok since, s) := by
  simp only [waitStart, exec_bind, exec_get, hs, exec_pure]

section Wait
variable {s : State} {c since pa : Nat} (hs : (s.core c).waitFrom = some since)
include hs

theorem exec_versionWaitM_within (h : s.cyc ≤ since + 2 ^ 20) :
    (versionWaitM c pa).exec s = (.error .wait, s.vstStay pa (.step c)) := by
  simp only [versionWaitM, exec_bind, exec_waitStart hs, exec_get, h, if_true, exec_modify, exec_waitM]

theorem exec_versionWaitM_stalled (h : ¬ s.cyc ≤ since + 2 ^ 20) : (versionWaitM c pa).exec s = (.ok (), s) := by
  simp only [versionWaitM, exec_bind, exec_waitStart hs, exec_get, h, if_false, exec_pure]

end Wait

section Ready
variable {s s1 : State} {c : Nat} {a b : Reg} {t : Xlat} (hq : (s.core c).pend.any (fun p => p.acq) = false)
include hq

/-! ## vld -/

section Vld
variable {d : Reg} (h : CoreReady s c [a, b] [d])
  (ht : (accessM (whoCore s c) .vld ((s.core c).gr a) 8).exec s = (.ok t, s1)) (hb : s1.behindHeld c t 8 = false)
  (hl : s1.isLocal t.pa = true)
include h ht hb hl

theorem exec_seqVld_value {y : DWord} {bad : Bool}
    (hj : s1.judgeVld (lowOf t.pa) (((s.core c).gr b).extractLsb' 0 32) = .value y bad) :
    exec (.seqVld d a b) s = .next (if bad then (s1.updCore c (fun x => x.mark d)).retire c 4 .next else s1.wrote c d y 4) := by
  show execSeqVld d a b s = _
  rw [execSeqVld, seqRun_ready h]
  simp only [exec_bind, exec_orderGate hq, exec_get, ht, hb, hl, hj, Bool.false_eq_true, if_false, if_true]
  cases bad <;> rfl

theorem exec_seqVld_gone (hj : s1.judgeVld (lowOf t.pa) (((s.core c).gr b).extractLsb' 0 32) = .gone) :
    exec (.seqVld d a b) s = .next (s1.preciseFault c Cause.versionGone ((s.core c).gr a)) := by
  show execSeqVld d a b s = _
  rw [execSeqVld, seqRun_ready h]
  simp only [exec_bind, exec_orderGate hq, exec_get, ht, hb, hl, hj, Bool.false_eq_true, if_false, if_true, exec_raiseM, finishM]

theorem exec_seqVld_notYet (hj : s1.judgeVld (lowOf t.pa) (((s.core c).gr b).extractLsb' 0 32) = .notYet)
    (hfull : s1.vldListFull (lowOf t.pa) = false) :
    exec (.seqVld d a b) s = .next ((({ s1 with
      nextId := s1.nextId + 1
      vldWaits := s1.vldWaits ++ [⟨lowOf t.pa / 8, ((s.core c).gr b).extractLsb' 0 32, .core c s1.nextId⟩] } : State).updCore c
        (fun y => { y with pend := y.pend ++ [⟨s1.nextId, d.toNat, .vld, (s.core c).gr a, none, false,
          some (lowOf t.pa / 8, ((s.core c).gr b).extractLsb' 0 32), (s.core c).pc, s1.cyc, true⟩] })).retire c 4 .next) := by
  show execSeqVld d a b s = _
  rw [execSeqVld, seqRun_ready h]
  simp only [exec_bind, exec_orderGate hq, exec_get, ht, hb, hl, hj, hfull, Bool.false_eq_true, if_false, if_true, exec_pure, exec_set,
    finishM]

end Vld

/-! ## vst -/

section Vst
variable (h : CoreReady s c [a, b] []) (hd : drained (s.core c) = true)
  (ht : (accessM (whoCore s c) .vst ((s.core c).gr a) 8).exec s = (.ok t, s1)) (hl : s1.isLocal t.pa = true)
  (hlost : s1.vstLost (whoCore s c) (lowOf t.pa) = false)
include h hd ht hl hlost

theorem exec_seqVst_creates (hh : s1.vstHeld (lowOf t.pa) (.step c) = false) (hw : s1.writeHeld (lowOf t.pa) 8 false = false) :
    exec (.seqVst a b) s =
      .next (((s1.vstGone (lowOf t.pa) (.step c)).createVersion (lowOf t.pa) ((s.core c).gr b)).retire c 4 .next) := by
  show execSeqVst a b s = _
  rw [execSeqVst, seqRun_ready h]
  simp only [exec_bind, exec_orderGate hq, exec_drainGate (fun _ => hd), exec_get, ht, hl, hlost, hh, hw, Bool.false_eq_true, if_false,
    if_true, exec_pure, exec_set, finishM]

theorem exec_seqVst_held {since : Nat} (hh : s1.vstHeld (lowOf t.pa) (.step c) = true) (hs : (s1.core c).waitFrom = some since) :
    exec (.seqVst a b) s = .next (if s1.cyc ≤ since + 2 ^ 20 then s1.vstStay (lowOf t.pa) (.step c)
      else s1.preciseFault c Cause.versionStall ((s.core c).gr a)) := by
  show execSeqVst a b s = _
  rw [execSeqVst, seqRun_ready h]
  split
  · rename_i hle
    simp only [exec_bind, exec_orderGate hq, exec_drainGate (fun _ => hd), exec_get, ht, hl, hlost, hh, Bool.false_eq_true, if_false,
      if_true, exec_versionWaitM_within hs hle, finishM]
  · rename_i hgt
    simp only [exec_bind, exec_orderGate hq, exec_drainGate (fun _ => hd), exec_get, ht, hl, hlost, hh, Bool.false_eq_true, if_false,
      if_true, exec_versionWaitM_stalled hs hgt, exec_raiseM, finishM]

end Vst

/-! ## vrcl and fence -/

theorem exec_seqVrcl_here (h : CoreReady s c [a, b] [])
    (ht : (accessM (whoCore s c) .vst ((s.core c).gr a) 8).exec s = (.ok t, s1)) (hb : s1.behindHeld c t 8 = false)
    (hl : s1.isLocal t.pa = true) :
    exec (.seqVrcl a b) s = .next ((s1.vrcl (lowOf t.pa) (((s.core c).gr b).extractLsb' 0 32)).retire c 4 .next) := by
  show execSeqVrcl a b s = _
  rw [execSeqVrcl, seqRun_ready h]
  simp only [exec_bind, exec_orderGate hq, exec_get, ht, hb, hl, Bool.false_eq_true, if_false, if_true, exec_pure, exec_set, finishM]

theorem exec_seqFence_drained (scope : BitVec 3) (h : CoreReady s c [] []) (hd : drained (s.core c) = true) :
    exec (.seqFence scope) s = .next (s.retire c 4 .next) := by
  show execSeqFence scope s = _
  rw [execSeqFence, seqRun_ready h]
  simp only [exec_bind, exec_orderGate hq, exec_drainGate (fun _ => hd), exec_pure, finishM]

end Ready

/-- Settles O16: the sequencer's instructions by the judgement and the holds of the store they find, and the store by the distance of a
version from the newest; that the newest value reads back rests on a write of the fabric within one block. -/
theorem sequencerVersionedAccess : Obligations.SequencerVersionedAccess := by
  unfold Obligations.SequencerVersionedAccess
  refine ⟨⟨?vld, ?vst, ?vrcl, ?fence⟩, ?judge, ?created, vstBlocked_iff, ?retired, ?answered⟩
  case vld =>
    rintro d a b s c h hq t s1 ht hb hl v rfl
    exact ⟨fun y bad hj => exec_seqVld_value hq h ht hb hl hj, fun hj => exec_seqVld_gone hq h ht hb hl hj,
      fun hj hfull => exec_seqVld_notYet hq h ht hb hl hj hfull⟩
  case vst =>
    intro a b s c h hq hd t s1 ht hl hlost
    refine ⟨fun hh hw => exec_seqVst_creates hq h hd ht hl hlost hh hw, fun since hh hs => ?_⟩
    rw [exec_seqVst_held hq h hd ht hl hlost hh hs, ← ite_not]
    simp only [Nat.not_le]
  case vrcl =>
    intro a b s c h hq t s1 ht hb hl
    exact exec_seqVrcl_here hq h ht hb hl
  case fence =>
    intro scope s c h hq hd
    exact exec_seqFence_drained hq scope h hd
  case judge =>
    rintro s pa v t rfl
    refine ⟨fun h1 h2 => judgeVld_later ⟨h1, h2⟩, ?_, ?_⟩
    · rintro rfl
      exact judgeVld_newest
    · intro hnot k hk
      exact ⟨fun y h1 hle hy => judgeVld_older hnot hk h1 hy hle, fun hlt => judgeVld_gone hnot (hk ▸ hlt)⟩
  case created =>
    rintro s pa v ha h - t rfl hlen
    exact ⟨judgeVld_vst_new v h ha, judgeVld_vst_before v ha hlen, fun w y p hne hw => judgeVld_vst_kept v hlen hne hw,
      fun pb hne => vtag_vst_ne s pa v hne⟩
  case retired =>
    rintro s pa v t rfl later rfl
    exact ⟨vtag_vrcl_later, vtag_vrcl_retires, vtag_vrcl_keeps, fun pb hne => vtag_vrcl_ne s v hne, vrcl_frame s pa v⟩
  case answered =>
    intro s pa v
    have hstore := vldStore_createVersion s pa v
    exact ⟨fun w hw => vldWaits_createVersion hw, congrArg (fun x => x.1) hstore, congrArg (fun x => x.2.1) hstore⟩

end Sys2Proof.Machine
end

section
/-!
PROOFS. The integer instructions, immediates and branches of a sequencer (R156, R169 to R172).
-/
namespace Sys2Proof.Machine

/-! ## The values of the tables -/

theorem valDivI64_eq : valDivI64 = fun a b => if b = 0 then 0xFFFFFFFFFFFFFFFF else BitVec.ofInt 64 (a.toInt.tdiv b.toInt) := by
  funext a b
  unfold valDivI64
  congr 1
  rw [← BitVec.toInt_inj, BitVec.toInt_sdiv, BitVec.toInt_ofInt]

theorem valRemI64_eq : valRemI64 = fun a b => if b = 0 then a else BitVec.ofInt 64 (a.toInt.tmod b.toInt) := by
  funext a b
  unfold valRemI64
  congr 1
  rw [← BitVec.toInt_srem, BitVec.ofInt_toInt]

theorem valDivU64_eq : valDivU64 = fun a b => if b = 0 then 0xFFFFFFFFFFFFFFFF else BitVec.ofNat 64 (a.toNat / b.toNat) := by
  funext a b
  unfold valDivU64
  congr 1
  rw [← BitVec.toNat_udiv, BitVec.ofNat_toNat, BitVec.setWidth_eq]

theorem valRemU64_eq : valRemU64 = fun a b => if b = 0 then a else BitVec.ofNat 64 (a.toNat % b.toNat) := by
  funext a b
  unfold valRemU64
  congr 1
  rw [← BitVec.toNat_umod, BitVec.ofNat_toNat, BitVec.setWidth_eq]

theorem flag64_slt (a b : DWord) : flag64 (a.slt b) = if a.toInt < b.toInt then 1 else 0 := by
  unfold flag64 BitVec.slt; simp only [decide_eq_true_eq]

theorem flag64_ult (a b : DWord) : flag64 (a.ult b) = if a.toNat < b.toNat then 1 else 0 := by
  unfold flag64 BitVec.ult; simp only [decide_eq_true_eq]

/-- A shift count of six bits is its own residue modulo 64. -/
theorem toNat_shiftCount (n : BitVec 6) : (n.zeroExtend 64).toNat % 64 = n.toNat := by
  have := n.isLt
  simp only [BitVec.truncate_eq_setWidth, BitVec.toNat_setWidth]
  omega

/-! ## Every instruction of a table is `seqAlu` with the table's value -/

theorem exec_seqPairs {p : (Reg → Reg → Reg → Instr) × (DWord → DWord → DWord)} (hp : p ∈ seqPairs) (d a b : Reg) (s : State) :
    exec (p.1 d a b) s = seqAlu [a, b] d (fun x => p.2 (x.gr a) (x.gr b)) s := by
  revert p
  simp only [seqPairs, List.forall_mem_cons, ← flag64_slt, ← flag64_ult, ← congrFun₂ valDivI64_eq, ← congrFun₂ valRemI64_eq,
    ← congrFun₂ valDivU64_eq, ← congrFun₂ valRemU64_eq]
  exact ⟨rfl, rfl, rfl, rfl, rfl, rfl, rfl, rfl, rfl, rfl, rfl, rfl, rfl, rfl, rfl, rfl, rfl, rfl, rfl, rfl, List.forall_mem_nil _⟩

theorem exec_seqImmediates {p : (Reg → Reg → BitVec 16 → Instr) × (DWord → BitVec 16 → DWord)} (hp : p ∈ seqImmediates) (d a : Reg)
    (i : BitVec 16) (s : State) : exec (p.1 d a i) s = seqAlu [a] d (fun x => p.2 (x.gr a) i) s := by
  revert p
  simp only [seqImmediates, List.forall_mem_cons, ← flag64_slt, ← flag64_ult]
  exact ⟨rfl, rfl, rfl, rfl, rfl, rfl, List.forall_mem_nil _⟩

theorem exec_seqShifts {p : (Reg → Reg → BitVec 6 → Instr) × (DWord → Nat → DWord)} (hp : p ∈ seqShifts) (d a : Reg)
    (n : BitVec 6) (s : State) : exec (p.1 d a n) s = seqAlu [a] d (fun x => p.2 (x.gr a) n.toNat) s := by
  revert p
  simp only [seqShifts, List.forall_mem_cons, ← toNat_shiftCount n]
  exact ⟨rfl, rfl, rfl, List.forall_mem_nil _⟩

theorem exec_movz (d : Reg) (q : BitVec 2) (i : BitVec 16) (s : State) :
    exec (.movz d q i) s = seqAlu [] d (fun _ => i.zeroExtend 64 <<< (16 * q.toNat)) s := rfl

theorem exec_movk (d : Reg) (q : BitVec 2) (i : BitVec 16) (s : State) : exec (.movk d q i) s =
    seqAlu [d] d (fun x => (x.gr d &&& ~~~(fieldMask q)) ||| (i.zeroExtend 64 <<< (16 * q.toNat))) s := rfl

/-- Settles O11: each instruction is `seqAlu` with its table's value. -/
theorem sequencerArithmetic : Obligations.SequencerArithmetic := by
  unfold Obligations.SequencerArithmetic
  refine ⟨fun p hp d a b s c h => ?_, fun p hp d a i s c h => ?_, fun p hp d a n s c h => ?_, fun d q i s c h => ?_,
    fun d q i s c h => ?_⟩
  · rw [exec_seqPairs hp, seqAlu_ready h]
  · rw [exec_seqImmediates hp, seqAlu_ready h]
  · rw [exec_seqShifts hp, seqAlu_ready h]
  · rw [exec_movz, seqAlu_ready h]
  · rw [exec_movk, seqAlu_ready h]

end Sys2Proof.Machine
end

section
/-!
PROOFS. Branches and links of a sequencer, its register file, and what retiring an instruction and a precise fault leave unchanged (R156,
R168, R169, R171, R172).
-/
namespace Sys2Proof.Machine

/-! ## Branches and links -/

theorem getLsbD_63_eq (a : DWord) : a.getLsbD 63 = decide (a.toInt < 0) := by
  rw [← BitVec.msb_eq_toInt, BitVec.msb_eq_getLsbD_last]

theorem not_getLsbD_63_eq (a : DWord) : (!a.getLsbD 63) = decide (0 ≤ a.toInt) := by
  rw [getLsbD_63_eq, ← decide_not]; simp only [Int.not_lt]

/-- Every branch of the table is `seqBranch` with the table's condition. -/
theorem exec_seqBranches {p : (Reg → BitVec 21 → Instr) × (DWord → Bool)} (hp : p ∈ seqBranches) (r : Reg) (o : BitVec 21) (s : State) :
    exec (p.1 r o) s = seqBranch [r] (fun x => p.2 (x.gr r)) o s := by
  revert p
  simp only [seqBranches, List.forall_mem_cons, ← getLsbD_63_eq, ← not_getLsbD_63_eq]
  exact ⟨rfl, rfl, rfl, rfl, List.forall_mem_nil _⟩

theorem exec_br (o : BitVec 21) (s : State) : exec (.br o) s = seqBranch [] (fun _ => true) o s := rfl

theorem exec_jal (r : Reg) (o : BitVec 21) (s : State) : exec (.jal r o) s = seqCtl [] [r] s
    (fun c x => (s.setCore c (x.wr r (x.pc + 4))).retire c 4 (.to (branchTo x.pc o))) := rfl

theorem exec_jalr (d a : Reg) (i : BitVec 16) (s : State) : exec (.jalr d a i) s = seqCtl [a] [d] s (fun c x =>
    if (x.gr a + sext16 i).toNat % 4 != 0 then s.preciseFault c Cause.misaligned (x.gr a + sext16 i)
    else (s.setCore c (x.wr d (x.pc + 4))).retire c 4 (.to (x.gr a + sext16 i))) := rfl

theorem seqBranch_ready {s : State} {c : Nat} {reads : List Reg} (h : CoreReady s c reads []) (taken : CoreSt → Bool) (o : BitVec 21) :
    seqBranch reads taken o s =
      .next (s.retire c 4 (if taken (s.core c) then .to ((s.core c).pc + (o.signExtend 64 <<< 2)) else .next)) := by
  unfold seqBranch; rw [seqCtl_ready h]; rfl

theorem exec_jalr_ready {s : State} {c : Nat} {d a : Reg} {i : BitVec 16} (h : CoreReady s c [a] [d]) {t : DWord}
    (ht : t = (s.core c).gr a + i.signExtend 64) : exec (.jalr d a i) s = .next
      (if t.toNat % 4 = 0 then (s.updCore c (fun x => x.wr d (x.pc + 4))).retire c 4 (.to t)
       else s.preciseFault c Cause.misaligned t) := by
  have ht' : (s.core c).gr a + sext16 i = t := ht.symm
  rw [exec_jalr, seqCtl_ready h, ht']
  by_cases h4 : t.toNat % 4 = 0 <;> simp only [h4, bne_iff_ne, ne_eq, not_true, not_false_iff, if_true, if_false] <;> rfl

/-- Settles O12: branches by `seqBranch`, jal and jalr as they execute. -/
theorem branchesAndLinksSetPc : Obligations.BranchesAndLinksSetPc := by
  unfold Obligations.BranchesAndLinksSetPc
  refine ⟨fun o s c h => ?_, fun p hp r o s c h => ?_, fun r o s c h => ?_, fun d a i s c h t ht => exec_jalr_ready h ht⟩
  · rw [exec_br, seqBranch_ready h]; rfl
  · rw [exec_seqBranches hp, seqBranch_ready h]
  · rw [exec_jal, seqCtl_ready h]; rfl

/-! ## The register file (R156, R169) -/

section Registers
variable (x : CoreSt) (v : DWord) {d r : Reg}

theorem toNat_reg_ne (h : r ≠ d) : d.toNat ≠ r.toNat := fun e => h (BitVec.eq_of_toNat_eq e.symm)

theorem wr_of_ne_zero (h : d ≠ 0) :
    x.wr d v = { x with g := x.g.setIfInBounds d.toNat v, marks := x.marks.setIfInBounds d.toNat false } := if_neg h

theorem mark_of_ne_zero (h : d ≠ 0) : x.mark d = { x with marks := x.marks.setIfInBounds d.toNat true } := if_neg h

theorem gr_of_ne_zero (h : d ≠ 0) : x.gr d = x.g.getD d.toNat 0 := if_neg h

theorem marked_of_ne_zero (h : d ≠ 0) : x.marked d = x.marks.getD d.toNat false := if_neg h

theorem getD_setReg_self {α : Type} (g : Vector α 32) (d : Reg) (v z : α) : (g.setIfInBounds d.toNat v).getD d.toNat z = v := by
  have hd : d.toNat < 32 := d.isLt
  simp [Vector.getD, hd]

theorem getD_setReg_ne {α : Type} (g : Vector α 32) (v z : α) (h : r ≠ d) :
    (g.setIfInBounds d.toNat v).getD r.toNat z = g.getD r.toNat z := by
  have hr : r.toNat < 32 := r.isLt
  simp [Vector.getD, hr, toNat_reg_ne h]

@[simp] theorem gr_wr_self (h : d ≠ 0) : (x.wr d v).gr d = v := by
  rw [wr_of_ne_zero x v h, gr_of_ne_zero _ h]; exact getD_setReg_self ..

theorem marked_wr_self (h : d ≠ 0) : (x.wr d v).marked d = false := by
  rw [wr_of_ne_zero x v h, marked_of_ne_zero _ h]; exact getD_setReg_self ..

theorem marked_mark_self (h : d ≠ 0) : (x.mark d).marked d = true := by
  rw [mark_of_ne_zero x h, marked_of_ne_zero _ h]; exact getD_setReg_self ..

theorem gr_mark (r : Reg) : (x.mark d).gr r = x.gr r := by
  unfold CoreSt.mark; split <;> rfl

theorem gr_wr_ne (h : r ≠ d) : (x.wr d v).gr r = x.gr r := by
  by_cases hd : d = 0
  · subst hd; rfl
  by_cases hr : r = 0
  · subst hr; rfl
  rw [wr_of_ne_zero x v hd, gr_of_ne_zero _ hr, gr_of_ne_zero _ hr]; exact getD_setReg_ne _ _ _ h

theorem marked_wr_ne (h : r ≠ d) : (x.wr d v).marked r = x.marked r := by
  by_cases hd : d = 0
  · subst hd; rfl
  by_cases hr : r = 0
  · subst hr; rfl
  rw [wr_of_ne_zero x v hd, marked_of_ne_zero _ hr, marked_of_ne_zero _ hr]; exact getD_setReg_ne _ _ _ h

theorem marked_mark_ne (h : r ≠ d) : (x.mark d).marked r = x.marked r := by
  by_cases hd : d = 0
  · subst hd; rfl
  by_cases hr : r = 0
  · subst hr; rfl
  rw [mark_of_ne_zero x hd, marked_of_ne_zero _ hr, marked_of_ne_zero _ hr]; exact getD_setReg_ne _ _ _ h

theorem wr_frame (d : Reg) : { x.wr d v with g := x.g, marks := x.marks } = x := by
  unfold CoreSt.wr; split <;> rfl

end Registers

/-! ## Putting a core -/

@[simp] theorem core_setCore_self (s : State) (c : Nat) (x : CoreSt) : (s.setCore c x).core c = x := getD_set_self ..

theorem core_setCore_ne (s : State) {c k : Nat} (x : CoreSt) (h : c ≠ k) : (s.setCore c x).core k = s.core k := getD_set_ne _ _ _ h

theorem set_set {α : Type} (m : AMap α) (k : Nat) (v w : α) : AMap.set (AMap.set m k v) k w = AMap.set m k w := by
  induction m with
  | nil => simp [AMap.set]
  | cons p t ih =>
    obtain ⟨j, u⟩ := p
    rcases Nat.lt_trichotomy k j with h | rfl | h
    · simp [AMap.set, h]
    · simp [AMap.set]
    · simp [AMap.set, Nat.not_lt_of_gt h, Nat.ne_of_gt h, ih]

@[simp] theorem setCore_setCore (s : State) (c : Nat) (x y : CoreSt) : (s.setCore c x).setCore c y = s.setCore c y := by
  simp [State.setCore, set_set]

@[simp] theorem updCore_setCore (s : State) (c : Nat) (x : CoreSt) (f : CoreSt → CoreSt) :
    (s.setCore c x).updCore c f = s.setCore c (f x) := by
  simp [State.updCore]

@[simp] theorem updCore_updCore (s : State) (c : Nat) (f g : CoreSt → CoreSt) :
    (s.updCore c f).updCore c g = s.updCore c (fun x => g (f x)) := by
  simp [State.updCore]

@[simp] theorem coreCtx_setCore (s : State) (c k : Nat) (x : CoreSt) (h : x.ctx = (s.core c).ctx) :
    (s.setCore c x).coreCtx k = s.coreCtx k := by
  unfold State.coreCtx
  by_cases hk : c = k
  · subst hk; rw [core_setCore_self, h]
  · rw [core_setCore_ne _ _ hk]

/-! ## Retiring an instruction -/

/-- Where pc stands after an instruction of `len` bytes. -/
def flowPc (len : Nat) (pc : DWord) : Flow → DWord
  | .next => pc + BitVec.ofNat 64 len
  | .to t => t
  | .stay => pc

theorem retire_eq (s : State) (c len : Nat) (fl : Flow) : s.retire c len fl =
    (s.setCore c { s.core c with pc := flowPc len (s.core c).pc fl, waitFrom := none, woken := false }).endReads (.core c) := by
  cases fl <;> rfl

@[simp] theorem core_endReads (s : State) (r : Reader) (k : Nat) : (s.endReads r).core k = s.core k := rfl

theorem core_retire_self (s : State) (c len : Nat) (fl : Flow) : (s.retire c len fl).core c =
    { s.core c with pc := flowPc len (s.core c).pc fl, waitFrom := none, woken := false } := by
  rw [retire_eq, core_endReads, core_setCore_self]

theorem core_retire_ne (s : State) {c k : Nat} (len : Nat) (fl : Flow) (h : k ≠ c) : (s.retire c len fl).core k = s.core k := by
  rw [retire_eq, core_endReads, core_setCore_ne _ _ h.symm]

theorem mem_remoteReads_endReads {s : State} {r : Reader} {q : RemRead} (hq : q ∈ s.remoteReads) (hr : q.reader ≠ r) :
    q ∈ (s.endReads r).remoteReads := List.mem_filter.2 ⟨hq, by simpa using hr⟩

theorem retire_frame (s : State) (c len : Nat) (fl : Flow) :
    { s.retire c len fl with cores := s.cores, remoteReads := s.remoteReads } = s := by cases fl <;> rfl

/-! ## What an instruction that writes one register leaves unchanged -/

/-- Of the whole part, t differs from s in pc, the wait, register d and its mark of core c alone, and in the answers that c held. -/
structure WritesOnly (s t : State) (c : Nat) (d : Reg) : Prop where
  regs : ∀ r, r ≠ d → (t.core c).gr r = (s.core c).gr r ∧ (t.core c).marked r = (s.core c).marked r
  others : ∀ k, k ≠ c → t.core k = s.core k
  own : { t.core c with g := (s.core c).g, marks := (s.core c).marks, pc := (s.core c).pc, waitFrom := (s.core c).waitFrom
                        woken := (s.core c).woken } = s.core c
  rest : { t with cores := s.cores, remoteReads := s.remoteReads } = s

theorem WritesOnly.trans {s t u : State} {c : Nat} {d : Reg} (h : WritesOnly s t c d) (h' : WritesOnly t u c d) : WritesOnly s u c d where
  regs r hr := ⟨(h'.regs r hr).1.trans (h.regs r hr).1, (h'.regs r hr).2.trans (h.regs r hr).2⟩
  others k hk := (h'.others k hk).trans (h.others k hk)
  own := by
    have ht := congrArg (fun y : CoreSt => { y with g := (s.core c).g, marks := (s.core c).marks, pc := (s.core c).pc
                                                    waitFrom := (s.core c).waitFrom, woken := (s.core c).woken }) h'.own
    exact ht.trans h.own
  rest := by
    have ht := congrArg (fun y : State => { y with cores := s.cores, remoteReads := s.remoteReads }) h'.rest
    exact ht.trans h.rest

theorem writesOnly_retire (s : State) (c len : Nat) (fl : Flow) (d : Reg) : WritesOnly s (s.retire c len fl) c d where
  regs r _ := by rw [core_retire_self]; exact ⟨rfl, rfl⟩
  others k hk := core_retire_ne s len fl hk
  own := by rw [core_retire_self]
  rest := retire_frame s c len fl

theorem writesOnly_wr (s : State) (c : Nat) (d : Reg) (v : CoreSt → DWord) :
    WritesOnly s (s.updCore c (fun x => x.wr d (v x))) c d where
  regs r hr := by rw [core_updCore_self]; exact ⟨gr_wr_ne _ _ hr, marked_wr_ne _ _ hr⟩
  others k hk := core_updCore_ne s _ hk.symm
  own := by
    have h := congrArg (fun y : CoreSt => { y with pc := (s.core c).pc, waitFrom := (s.core c).waitFrom, woken := (s.core c).woken })
      (wr_frame (s.core c) (v (s.core c)) d)
    rw [core_updCore_self]
    exact h
  rest := rfl

theorem writesOnly_wrote (s : State) (c : Nat) (d : Reg) (v : DWord) (len : Nat) : WritesOnly s (s.wrote c d v len) c d :=
  (writesOnly_wr s c d (fun _ => v)).trans (writesOnly_retire ..)

/-! ## A precise fault -/

/-- The record of a precise fault of core c (R168, R367). -/
def State.faultRecord (s : State) (c : Nat) (cause : Byte) (addr : DWord) : FaultRec :=
  { cause := cause, cls := 0, mkind := 1, ctx := s.coreCtx c, mid := midCore c, addr := addr, loc := coreSector c, pc := (s.core c).pc }

theorem preciseFault_eq (s : State) (c : Nat) (cause : Byte) (addr : DWord) : s.preciseFault c cause addr =
    ((s.setCore c ((s.core c).faulted cause addr)).leaveInstr c).record (s.faultRecord c cause addr) := rfl

theorem core_record (s : State) (r : FaultRec) (k : Nat) : (s.record r).core k = s.core k := by
  unfold State.core; rw [(onlyRecorded_record s r).cores]

@[simp] theorem core_leaveInstr (s : State) (c k : Nat) : (s.leaveInstr c).core k = s.core k := rfl

theorem core_preciseFault_self (s : State) (c : Nat) (cause : Byte) (addr : DWord) :
    (s.preciseFault c cause addr).core c = (s.core c).faulted cause addr := by
  rw [preciseFault_eq, core_record, core_leaveInstr, core_setCore_self]

theorem core_preciseFault_ne (s : State) {c k : Nat} (cause : Byte) (addr : DWord) (h : k ≠ c) :
    (s.preciseFault c cause addr).core k = s.core k := by
  rw [preciseFault_eq, core_record, core_leaveInstr, core_setCore_ne _ _ h.symm]

theorem onlyRecorded_preciseFault (s : State) (c : Nat) (cause : Byte) (addr : DWord) :
    OnlyRecorded s { s.preciseFault c cause addr with cores := s.cores, vldWaits := s.vldWaits, vstQueue := s.vstQueue } := by
  have h := onlyRecorded_iff.1 (onlyRecorded_record ((s.setCore c ((s.core c).faulted cause addr)).leaveInstr c)
    (s.faultRecord c cause addr))
  exact congrArg (fun z : State => { z with
    cores := s.cores, vldWaits := s.vldWaits, vstQueue := s.vstQueue, remoteReads := s.remoteReads, reqs := s.reqs }) h

/-- Settles O13: the register file by its cases, the frame of each instruction by the register it writes and its retirement, and a precise
fault by its record. -/
theorem sequencerRegisterFrame : Obligations.SequencerRegisterFrame := by
  unfold Obligations.SequencerRegisterFrame
  refine ⟨fun x d r v => ?registers, fun s c len fl => ?retire, ?frame, ?fault, ?misaligned⟩
  case registers =>
    exact ⟨rfl, rfl, rfl, rfl, rfl,
      fun h => ⟨gr_wr_self x v h, marked_wr_self x v h, marked_mark_self x h, gr_mark x d⟩,
      fun h => ⟨gr_wr_ne x v h, marked_wr_ne x v h, marked_mark_ne x h⟩, wr_frame x v d⟩
  case retire =>
    refine ⟨?_, fun k hk => core_retire_ne s len fl hk, fun q hq hr => mem_remoteReads_endReads hq hr, retire_frame s c len fl⟩
    rw [core_retire_self]; cases fl <;> rfl
  case frame =>
    intro i d s c reads hi hr t ht
    have key : WritesOnly s t c d := by
      rcases hi with ⟨p, hp, a, b, rfl, rfl⟩ | ⟨p, hp, a, k, rfl, rfl⟩ | ⟨p, hp, a, n, rfl, rfl⟩ | ⟨q, k, rfl, rfl⟩ | ⟨q, k, rfl, rfl⟩ |
        ⟨p, hp, r, o, rfl, rfl, rfl⟩ | ⟨o, rfl, rfl, rfl⟩ | ⟨o, rfl, rfl⟩ | ⟨a, k, rfl, rfl, h4⟩
      · rw [exec_seqPairs hp, seqAlu_ready hr] at ht
        cases ht; exact writesOnly_wrote ..
      · rw [exec_seqImmediates hp, seqAlu_ready hr] at ht
        cases ht; exact writesOnly_wrote ..
      · rw [exec_seqShifts hp, seqAlu_ready hr] at ht
        cases ht; exact writesOnly_wrote ..
      · rw [exec_movz, seqAlu_ready hr] at ht
        cases ht; exact writesOnly_wrote ..
      · rw [exec_movk, seqAlu_ready hr] at ht
        cases ht; exact writesOnly_wrote ..
      · rw [exec_seqBranches hp, seqBranch_ready (hr.weaken (by simp) (by simp))] at ht
        cases ht; exact writesOnly_retire ..
      · rw [exec_br, seqBranch_ready (hr.weaken (by simp) (by simp))] at ht
        cases ht; exact writesOnly_retire ..
      · rw [exec_jal, seqCtl_ready hr] at ht
        cases ht; exact (writesOnly_wr s c d (fun x => x.pc + 4)).trans (writesOnly_retire ..)
      · rw [exec_jalr_ready hr rfl, if_pos h4] at ht
        cases ht; exact (writesOnly_wr s c d (fun x => x.pc + 4)).trans (writesOnly_retire ..)
    obtain ⟨regs, others, own, rest⟩ := key
    refine ⟨regs, others, own, fun a => ?_, fun a => ?_, rest⟩
    · have hm := congrArg State.mem rest
      exact congrArg (Mem.read · a) hm
    · have hm := congrArg State.scratch rest
      exact congrArg (Mem.read · a) hm
  case fault =>
    rintro s c cause addr t rfl
    refine ⟨core_preciseFault_self s c cause addr, fun k hk => core_preciseFault_ne s cause addr hk, fun a => ?_,
      onlyRecorded_preciseFault s c cause addr⟩
    have hm := congrArg State.scratch (onlyRecorded_preciseFault s c cause addr)
    exact congrArg (Mem.read · a) hm
  case misaligned =>
    intro d a k s c hr h4
    rw [exec_jalr_ready hr rfl, if_neg h4]

end Sys2Proof.Machine
end

section
/-!
PROOFS. The atomics of a sequencer and their new values (R151, R175, R176).
-/
namespace Sys2Proof.Machine

/-! ## The new value -/

section Value
variable {size old op new : Nat} (ho : old < 2 ^ (8 * size)) (hp : op < 2 ^ (8 * size)) (hn : new < 2 ^ (8 * size))

theorem amoResult_add : amoResult .add size old op new = some ((old + op) % 2 ^ (8 * size)) := rfl

include hp in
theorem amoResult_bitwise : amoResult .band size old op new = some (old &&& op) ∧ amoResult .bor size old op new = some (old ||| op) ∧
    amoResult .xchg size old op new = some op := by
  simp only [amoResult, Nat.mod_eq_of_lt hp, and_self]

include hp hn in
theorem amoResult_cas : amoResult .cas size old op new = if old = op then some new else none := by
  simp only [amoResult, Nat.mod_eq_of_lt hp, Nat.mod_eq_of_lt hn]

/-- The two's complement reading of n bytes (R151). -/
def signedOf (size v : Nat) : Int := if v < 2 ^ (8 * size - 1) then (v : Int) else (v : Int) - 2 ^ (8 * size)

include ho hp in
theorem amoResult_signed (hs : 0 < size) :
    amoResult .min size old op new = some (if signedOf size op < signedOf size old then op else old) ∧
    amoResult .max size old op new = some (if signedOf size old < signedOf size op then op else old) := by
  have half : 2 ^ (8 * size) / 2 = 2 ^ (8 * size - 1) := by
    rw [← Nat.pow_div (by omega) (by omega), Nat.pow_one]
  simp only [amoResult, signedOf, Nat.mod_eq_of_lt ho, Nat.mod_eq_of_lt hp, half, Nat.cast_pow, Nat.cast_ofNat]
  exact ⟨rfl, rfl⟩

end Value

/-! ## The access -/

theorem exec_amoAtM_here {s : State} {t : Xlat} {k : AmoKind} {n op new : Nat} (ht : t.mt = 0)
    (hw : s.writeHeld (lowOf t.pa) n false = false) : (amoAtM t k n op new).exec s =
      if s.poisonedAt (lowOf t.pa) n then (.ok (0, true), s.noteFrames (lowOf t.pa) n)
      else (.ok (s.fabNat (lowOf t.pa) n, false), match amoResult k n (s.fabNat (lowOf t.pa) n) op new with
        | some v => s.fabWriteNat (lowOf t.pa) n v
        | none => s.noteFrames (lowOf t.pa) n) := by
  simp only [amoAtM, exec_bind, exec_get, ht, Nat.zero_ne_one, if_false]
  cases s.poisonedAt (lowOf t.pa) n
  · cases amoResult k n (s.fabNat (lowOf t.pa) n) op new <;> simp [exec_bind, hw, -bind_pure_comp]
  · rfl

/-- The operand of an atomic: the compare value of a compare-and-swap stands in gd (R175). -/
def amoOperand (x : CoreSt) (k : AmoKind) (n : Nat) (d b : Reg) : Nat :=
  (if k = .cas then (x.gr d).toNat else (x.gr b).toNat) % 2 ^ (8 * n)

section Access
variable {s u : State} {c n : Nat} {d a b : Reg} {t : Xlat} {k : AmoKind} {scope : BitVec 3} {ord : BitVec 2} {op new : Nat}
  (h : CoreAccess s c .atomic ((s.core c).gr a) n t u) (hd : ord.getLsbD 1 = true → drained (s.core c) = true)
  (hop : op = amoOperand (s.core c) k n d b) (hnew : new = ((s.core c).gr b).toNat % 2 ^ (8 * n))
  (ht : t.mt = 0)
include h hd hop hnew ht

theorem exec_coreAmo_checked : (coreAmo k n d a b scope ord c (s.core c)).exec s =
    (do
      if u.mustHold c (s.coreCtx c) ((s.core c).gr a) t n then
        holdM c (s.core c) (.amo k) (some (d, .amo n)) ((s.core c).gr a) t n op new (ord.getLsbD 0)
      else if !u.isLocal t.pa then
        askRemote c (s.core c) .atomic (.amo n) d ((s.core c).gr a) t.pa n (BitVec.ofNat 512 (op + 2 ^ 64 * new)) (ord.getLsbD 0)
      else
        let (old, p) ← amoAtM t k n op new
        if p then markReg c d else putReg c d (BitVec.ofNat 64 old)
      pure .next : Mach Flow).exec u := by
  have hop' : (if k = .cas then ((s.core c).gr d).toNat % 2 ^ (8 * n) else new) = op := by
    rw [hop, hnew, amoOperand]; split <;> rfl
  simp only [coreAmo, exec_bind, exec_orderGate h.noAcquire, exec_drainGate hd, exec_get, h.ok, ht, (by decide : ¬ (0 = 2)), if_false,
    whoCore_ctx, ← hnew, hop']

theorem exec_coreAmo_held (hm : u.mustHold c (s.coreCtx c) ((s.core c).gr a) t n = true) :
    (coreAmo k n d a b scope ord c (s.core c)).exec s = (.ok .next,
      u.holding c (s.core c) (.amo k) (some (d, .amo n)) ((s.core c).gr a) t n op new (ord.getLsbD 0)) := by
  rw [exec_coreAmo_checked h hd hop hnew ht]
  simp only [hm, if_true, exec_bind, exec_holdM, exec_pure]

variable (hm : u.mustHold c (s.coreCtx c) ((s.core c).gr a) t n = false)
include hm

theorem exec_coreAmo_away (hl : u.isLocal t.pa = false) (hr : u.reachable (pkgOf t.pa) = true) :
    (coreAmo k n d a b scope ord c (s.core c)).exec s = (.ok .next, u.asked c (s.core c) .atomic (.amo n) d ((s.core c).gr a)
      (u.coreCtx c) t.pa n (BitVec.ofNat 512 (op + 2 ^ 64 * new)) (ord.getLsbD 0)) := by
  rw [exec_coreAmo_checked h hd hop hnew ht]
  simp only [hm, hl, Bool.false_eq_true, if_false, Bool.not_false, if_true, exec_bind,
    exec_askRemote (maskHeld_of_not_mustHold hm ht hl) hr, exec_pure]

theorem finish_coreAmo_here (hl : u.isLocal t.pa = true) (hw : u.writeHeld (lowOf t.pa) n false = false) {old : Nat}
    (hold : old = leNat (u.fabRead (lowOf t.pa) n)) :
    finishM c 4 ((coreAmo k n d a b scope ord c (s.core c)).exec s) = if u.poisonedAt (lowOf t.pa) n
      then ((u.noteFrames (lowOf t.pa) n).updCore c (fun x => x.mark d)).retire c 4 .next
      else (match amoResult k n old op new with
        | some v => u.fabWrite (lowOf t.pa) (leBytes v n)
        | none => u.noteFrames (lowOf t.pa) n).wrote c d (BitVec.ofNat 64 old) 4 := by
  have hold' : u.fabNat (lowOf t.pa) n = old := hold.symm
  rw [exec_coreAmo_checked h hd hop hnew ht]
  simp only [hm, hl, Bool.false_eq_true, if_false, Bool.not_true, exec_bind, exec_amoAtM_here ht hw, hold']
  cases u.poisonedAt (lowOf t.pa) n <;> rfl

end Access

/-- Every atomic of the table is `coreAmo` of its operation and size. -/
theorem exec_coreAtomics {s : State} {c : Nat} {d a b : Reg} {scope : BitVec 3} {ord : BitVec 2} {p : Instr × AmoKind × Nat}
    (hp : p ∈ coreAtomics d a b scope ord) (h : CoreReady s c (if p.2.1 = .cas then [d, a, b] else [a, b]) [d]) :
    exec p.1 s = .next (finishM c 4 ((coreAmo p.2.1 p.2.2 d a b scope ord c (s.core c)).exec s)) := by
  have key : exec p.1 s = seqRun (if p.2.1 = .cas then [d, a, b] else [a, b]) [d] 4 s (coreAmo p.2.1 p.2.2 d a b scope ord) := by
    clear h
    revert p
    simp only [coreAtomics, List.forall_mem_cons, reduceCtorEq, if_false, if_true]
    exact ⟨rfl, rfl, rfl, rfl, rfl, rfl, rfl, rfl, rfl, List.forall_mem_nil _⟩
  rw [key, seqRun_ready h]

/-- Settles O15: each atomic through `coreAmo`, whose access is performed here, held or sent; the new values from the table of R151. -/
theorem sequencerAtomics : Obligations.SequencerAtomics := by
  unfold Obligations.SequencerAtomics
  refine ⟨?access, ?value⟩
  case access =>
    intro d a b scope ord s c p hp hr hd t s1 h op new hop hnew
    rw [exec_coreAtomics hp hr]
    refine ⟨fun hl hm hw old hold => ?_, fun ht hm => ?_, fun hl hm => ?_⟩
    · exact congrArg Host.Outcome.next (finish_coreAmo_here h hd hop hnew hl.1 hm hl.2 hw hold)
    · rw [exec_coreAmo_held h hd hop hnew ht hm]; rfl
    · rw [exec_coreAmo_away h hd hop hnew hl.1 hm hl.2.1 hl.2.2, (onlyRecorded_checkM h.ok).coreCtx c]; rfl
  case value =>
    intro size old op new hs ho hp hn sgn hsgn
    obtain rfl : sgn = signedOf size := funext hsgn
    obtain ⟨hmin, hmax⟩ := amoResult_signed (new := new) ho hp (by omega)
    obtain ⟨hand, hor, hxchg⟩ := amoResult_bitwise (old := old) (new := new) hp
    exact ⟨amoResult_add, hmin, hmax, hand, hor, hxchg, amoResult_cas hp hn⟩

end Sys2Proof.Machine
end

section
/-!
PROOFS. The issue of streams, launches and configuration commands (R180 to R186, R203, R205, R210, R213, R312).
-/
namespace Sys2Proof.Machine

/-! ## Gates -/

/-- An instruction that waits leaves the state as it is (R167). -/
@[simp] theorem finishM_wait (c len : Nat) (s : State) : finishM c len ((.error .wait : Except Stop Flow), s) = s := rfl
@[simp] theorem finishM_raise (c len : Nat) (cause : Byte) (a : DWord) (s : State) :
    finishM c len ((.error (.raise cause a) : Except Stop Flow), s) = s.preciseFault c cause a := rfl
@[simp] theorem finishM_next (c len : Nat) (s : State) : finishM c len ((.ok .next : Except Stop Flow), s) = s.retire c len .next := rfl

/-- A drained core passes the gates of order and of completion. -/
theorem CoreDrained.exec_orderGate {s : State} {c : Nat} (h : CoreDrained s c) (u : State) :
    (orderGate (s.core c)).exec u = (.ok (), u) := Machine.exec_orderGate h.noAcquire u

theorem CoreDrained.exec_drainGate {s : State} {c : Nat} (h : CoreDrained s c) (b : Bool) (u : State) :
    (drainGate (s.core c) b).exec u = (.ok (), u) := Machine.exec_drainGate (fun _ => h.done) u

/-! ## Streams -/

@[simp] theorem exec_pushStream (t : Stream) (s : State) : (pushStream t).exec s = (.ok (), s.pushed t) := rfl

section Stream
variable {s : State} {c : Nat} (hd : CoreDrained s c)
include hd

theorem exec_streamGate_room (hq : s.streamCount c < 16) : (streamGate c (s.core c)).exec s = (.ok (), s) := by
  have hq' : ¬ Config.streamQueueSize ≤ (s.streams.filter (fun t => t.core == c)).length := Nat.not_le.2 hq
  simp only [streamGate, exec_bind, hd.exec_orderGate, hd.exec_drainGate, exec_get, hq', if_false, exec_pure]

theorem exec_streamGate_full (hq : 16 ≤ s.streamCount c) : (streamGate c (s.core c)).exec s = (.error .wait, s) := by
  have hq' : Config.streamQueueSize ≤ (s.streams.filter (fun t => t.core == c)).length := hq
  simp only [streamGate, exec_bind, hd.exec_orderGate, hd.exec_drainGate, exec_get, hq', if_true, exec_waitM]

variable {a b : Reg} (p : BitVec 4) {kind : StreamKind}

theorem exec_issuePort_ok (hq : s.streamCount c < 16) {d : Desc} {s1 : State}
    (h : (readDescM (whoCore s c) ((s.core c).gr a)).exec s = (.ok d, s1)) : (issuePort kind a b p c (s.core c)).exec s =
      (.ok .next, s1.pushed (newStream s1 c (s.core c) kind d default ((s.core c).gr b) 0 0 (sectorPort c p.toNat))) := by
  simp only [issuePort, exec_bind, exec_streamGate_room hd hq, exec_get, h, exec_pushStream, exec_pure]

theorem exec_issuePort_error (hq : s.streamCount c < 16) {e : Stop} {s1 : State}
    (h : (readDescM (whoCore s c) ((s.core c).gr a)).exec s = (.error e, s1)) :
    (issuePort kind a b p c (s.core c)).exec s = (.error e, s1) := by
  simp only [issuePort, exec_bind, exec_streamGate_room hd hq, exec_get, h]

theorem exec_issuePort_full (hq : 16 ≤ s.streamCount c) : (issuePort kind a b p c (s.core c)).exec s = (.error .wait, s) := by
  simp only [issuePort, exec_bind, exec_streamGate_full hd hq]

end Stream

theorem exec_strmLd {s : State} {c : Nat} {a b : Reg} (p : BitVec 4) (h : CoreReady s c [a, b] []) :
    exec (.strmLd a b p) s = .next (finishM c 8 ((issuePort .ld a b p c (s.core c)).exec s)) :=
  seqRun_ready h (fun c x => issuePort .ld a b p c x)

theorem exec_strmSt {s : State} {c : Nat} {a b : Reg} (p : BitVec 4) (h : CoreReady s c [a, b] []) :
    exec (.strmSt a b p) s = .next (finishM c 8 ((issuePort .st a b p c (s.core c)).exec s)) :=
  seqRun_ready h (fun c x => issuePort .st a b p c x)

/-- Settles O17: each command passes its gates, reads what it names and is queued; a full queue stops it at the gate. -/
theorem streamIssueQueuesCommand : Obligations.StreamIssueQueuesCommand := by
  unfold Obligations.StreamIssueQueuesCommand
  refine ⟨?ports, ?copy, ?harvest, ?full⟩
  case ports =>
    intro a b p s c hr hd hq k hk
    have key : exec k.1 s = .next (finishM c 8 ((issuePort k.2 a b p c (s.core c)).exec s)) := by
      rcases List.mem_pair.1 hk with rfl | rfl
      · exact exec_strmLd p hr
      · exact exec_strmSt p hr
    rw [key]
    refine ⟨fun d s1 h => ?_, fun cause addr s1 h => ?_⟩
    · rw [exec_issuePort_ok hd p hq h, finishM_next]
    · rw [exec_issuePort_error hd p hq h, finishM_raise]
  case copy =>
    rintro a b r s c hr hd hq hs d e s1 s2 h1 h2 t rfl
    have hs' : ¬ Config.scoreboardSize ≤ (s.score.filter (fun e => e.sector == coreSector c)).length := Nat.not_le.2 hs
    simp only [show exec (.strmCp a b r) s = execStrmCp a b r s from rfl, execStrmCp, seqRun_ready hr, exec_bind,
      exec_streamGate_room hd hq, exec_get, hs', if_false, h1, h2, exec_pushStream, exec_modify, exec_pure, finishM_next]
    rfl
  case harvest =>
    intro a b s c hr hd hq
    simp only [show exec (.memHrv a b) s = execMemHrv a b s from rfl, execMemHrv, seqRun_ready hr, exec_bind,
      exec_streamGate_room hd hq, exec_get, exec_pushStream, exec_pure, finishM_next]
  case full =>
    intro a b p s c hr hd hq
    refine ⟨?_, ?_, ?_⟩
    · rw [exec_strmLd p hr, exec_issuePort_full hd p hq, finishM_wait]
    · rw [exec_strmSt p hr, exec_issuePort_full hd p hq, finishM_wait]
    · simp only [show exec (.memHrv a b) s = execMemHrv a b s from rfl, execMemHrv, seqRun_ready hr, exec_bind,
        exec_streamGate_full hd hq, finishM_wait]

/-! ## Launches and configuration commands -/

theorem exec_issueLaunch {s : State} {c : Nat} (hd : CoreDrained s c) (d : Reg) (lpb : DWord) (ind : Bool) :
    (issueLaunch ind d lpb c (s.core c)).exec s = if 8 ≤ s.launchCount c then (.error .wait, s) else
      (.ok .next, ({ s with
          nextId := s.nextId + 2
          launches := s.launches ++ [{ id := s.nextId, core := c, ctx := s.coreCtx c, pc := (s.core c).pc, pend := s.nextId + 1
                                       lpb := lpb, ind := ind }] } : State).updCore c (fun y => { y with
            pend := y.pend ++ [reservation (s.nextId + 1) d .launch lpb (s.core c).pc s.cyc] })) := by
  simp only [issueLaunch, exec_bind, hd.exec_orderGate, hd.exec_drainGate, exec_get]
  by_cases h : 8 ≤ s.launchCount c
  · have h' : Config.launchQueueSize ≤ (s.launches.filter (fun l => l.core == c)).length := h
    simp only [h, h', if_true, exec_bind, exec_waitM]
  · have h' : ¬ Config.launchQueueSize ≤ (s.launches.filter (fun l => l.core == c)).length := h
    simp only [h, h', if_false, exec_bind, exec_set, exec_pure]
    rfl

theorem exec_issueCfg {s : State} {c : Nat} (hd : CoreDrained s c) (kind : CfgKind) (d : Reg) (addr word : DWord) {o : CfgOp}
    (ho : o = ⟨s.nextId, kind, c, s.nextId + 1, s.coreCtx c, addr, word, 0, .queued, none, false⟩) :
    (issueCfg kind d addr word c (s.core c)).exec s = (.ok .next,
      (({ s with nextId := s.nextId + 2, cfgops := s.cfgops ++ [o] } : State).updCore c (fun y => { y with
        pend := y.pend ++ [reservation (s.nextId + 1) d .cfg addr (s.core c).pc s.cyc] })).beginOp o) := by
  subst ho
  simp only [issueCfg, exec_bind, hd.exec_orderGate, hd.exec_drainGate, exec_get, exec_set, exec_pure]
  rfl

/-- Every configuration command of the table is `issueCfg` of its kind, with its address and its region word. -/
theorem exec_cfgCommands {s : State} {c : Nat} {a b r : Reg} {k : Instr × CfgKind × Bool × List Reg} (hk : k ∈ cfgCommands a b r)
    (h : CoreReady s c k.2.2.2 [a]) : exec k.1 s = .next (finishM c 8
      ((issueCfg k.2.1 a (if k.2.2.1 then (s.core c).gr b else 0) ((s.core c).gr r) c (s.core c)).exec s)) := by
  have key : exec k.1 s = seqRun k.2.2.2 [a] 8 s
      (fun c x => issueCfg k.2.1 a (if k.2.2.1 then x.gr b else 0) (x.gr r) c x) := by
    clear h
    revert k
    simp only [cfgCommands, List.forall_mem_cons, if_true, Bool.false_eq_true, if_false]
    exact ⟨rfl, rfl, rfl, rfl, rfl, List.forall_mem_nil _⟩
  rw [key, seqRun_ready h]

/-- Settles O18: each command is its issue, which reserves gd. -/
theorem launchAndCfgIssue : Obligations.LaunchAndCfgIssue := by
  unfold Obligations.LaunchAndCfgIssue
  refine ⟨fun a b s c hr hd k hk => ?_, ?_⟩
  · have key : exec k.1 s = .next (finishM c 8 ((issueLaunch k.2 a ((s.core c).gr b) c (s.core c)).exec s)) := by
      rcases List.mem_pair.1 hk with rfl | rfl
      · exact seqRun_ready hr (fun c x => issueLaunch false a (x.gr b) c x)
      · exact seqRun_ready hr (fun c x => issueLaunch true a (x.gr b) c x)
    rw [key, exec_issueLaunch hd]
    refine ⟨fun h => ?_, fun h => ?_⟩
    · rw [if_neg (Nat.not_le.2 h), finishM_next]
    · rw [if_pos h, finishM_wait]
  · rintro a b r s c k hk hr hd va o rfl ho
    rw [exec_cfgCommands hk hr, exec_issueCfg hd _ _ _ _ ho, finishM_next]

end Sys2Proof.Machine
end

section
/-!
PROOFS. Semaphores of a sequencer (R192 to R195).
-/
namespace Sys2Proof.Machine

/-! ## A signal -/

section Add
variable (s : State) (c i n : Nat)

theorem core_semaAdd : (s.semaAdd c i n).core c = { s.core c with
    sema := (s.core c).sema.setIfInBounds i (((s.core c).sema.getD i {}).add n), woken := true } := core_updCore_self ..

theorem sema_add (m : Sema) : m.add n = if m.count.toNat + n ≤ 0xFFFFFFFF
    then ⟨m.count + BitVec.ofNat 32 n, m.e⟩ else ⟨0xFFFFFFFF, true⟩ := by
  unfold Sema.add
  by_cases h : m.count.toNat + n ≤ 0xFFFFFFFF
  · rw [if_neg (Nat.not_lt.2 h), if_pos h, BitVec.ofNat_add, BitVec.ofNat_toNat, BitVec.setWidth_eq]
  · rw [if_pos (Nat.not_le.1 h), if_neg h]

theorem getD_setSema_self (v : Vector Sema 64) (m : Sema) {i : Nat} (h : i < 64) : (v.setIfInBounds i m).getD i {} = m := by
  simp [Vector.getD, h]

theorem getD_setSema_ne (v : Vector Sema 64) (m : Sema) {i j : Nat} (h : j ≠ i) :
    (v.setIfInBounds i m).getD j {} = v.getD j {} := by
  by_cases hj : j < 64
  · simp [Vector.getD, hj, h.symm]
  · simp [Vector.getD, hj]

end Add

/-! ## The operations -/

section Operations
variable {s : State} {c : Nat} {d r : Reg} {scope : BitVec 3} {i : BitVec 6}

theorem semaCount_eq (x : CoreSt) (r : Reg) : semaCount x r = if r = 0 then 1 else (x.gr r).toNat % 2 ^ 32 := rfl

theorem exec_semaSig (hr : CoreReady s c [r] []) (hq : (s.core c).pend.any (fun p => p.acq) = false) (hd : drained (s.core c) = true) :
    exec (.semaSig r scope i) s = .next ((s.semaAdd c i.toNat (semaCount (s.core c) r)).retire c 4 .next) := by
  simp only [show exec (.semaSig r scope i) s = execSemaSig r scope i s from rfl, execSemaSig, seqRun_ready hr, exec_bind,
    exec_orderGate hq, exec_drainGate (fun _ => hd), exec_modify, exec_pure, finishM_next]

theorem semaNamed_eq {name : Nat} (h : name < 2 ^ 14) (s : State) (n : Nat) : s.semaNamed name n = s.semaAdd (name / 64) (name % 64) n := by
  rw [State.semaNamed, Nat.mod_eq_of_lt (show name / 64 < 256 by omega)]

theorem exec_semaSigR (hr : CoreReady s c [d, r] []) (hq : (s.core c).pend.any (fun p => p.acq) = false)
    (hd : drained (s.core c) = true) {name : Nat} (hn : name = ((s.core c).gr d).toNat % 2 ^ 14) :
    exec (.semaSigR d r scope) s = .next (if c = Config.sceip ∨ s.coreCtx (name / 64) = s.coreCtx c
      then (s.semaAdd (name / 64) (name % 64) (semaCount (s.core c) r)).retire c 4 .next else s.isolateCore c 0) := by
  have hlt : name < 2 ^ 14 := hn ▸ Nat.mod_lt _ (by decide)
  have hsame : (c != Config.sceip && !s.semaReach (s.coreCtx c) name) = true ↔
      ¬ (c = Config.sceip ∨ s.coreCtx (name / 64) = s.coreCtx c) := by
    simp only [State.semaReach, Bool.and_eq_true, bne_iff_ne, Bool.not_eq_true', beq_eq_false_iff_ne, not_or, ne_eq]
  simp only [show exec (.semaSigR d r scope) s = execSemaSigR d r scope s from rfl, execSemaSigR, seqRun_ready hr, exec_bind,
    exec_orderGate hq, exec_drainGate (fun _ => hd), exec_get, ← hn]
  by_cases h : c = Config.sceip ∨ s.coreCtx (name / 64) = s.coreCtx c
  · simp only [h, hsame, not_true, if_true, if_false, exec_bind, exec_set, exec_pure, finishM_next, semaNamed_eq hlt]
  · simp only [h, hsame, not_false_iff, if_true, if_false, exec_bind, exec_throw]
    rfl

variable {m : Sema} {n : Nat} (hm : m = (s.core c).sema.getD i.toNat {}) (hn : n = semaCount (s.core c) r)
include hm hn

theorem semaTake_enough (h : n ≤ m.count.toNat) : semaTake (s.core c) d i (semaCount (s.core c) r) = some
    ({ s.core c with sema := (s.core c).sema.setIfInBounds i.toNat { m with count := m.count - BitVec.ofNat 32 n } }.wr d
      (if m.e then 1 else 0)) := by
  subst hm hn
  exact if_pos h

theorem semaTake_short (h : m.count.toNat < n) : semaTake (s.core c) d i (semaCount (s.core c) r) = none := by
  subst hm hn
  exact if_neg (Nat.not_le.2 h)

omit hm hn

variable (hr : CoreReady s c [r] [d]) (hq : (s.core c).pend.any (fun p => p.acq) = false)
include hr hq

theorem exec_semaAcq_taken {y : CoreSt} (h : semaTake (s.core c) d i (semaCount (s.core c) r) = some y) :
    exec (.semaAcq d r scope i) s = .next ((s.setCore c y).retire c 4 .next) := by
  simp only [show exec (.semaAcq d r scope i) s = execSemaAcq d r scope i s from rfl, execSemaAcq, seqRun_ready hr, exec_bind,
    exec_orderGate hq, h, exec_modify, exec_pure, finishM_next]

theorem exec_semaAcq_waits (h : semaTake (s.core c) d i (semaCount (s.core c) r) = none) :
    exec (.semaAcq d r scope i) s = .next s := by
  simp only [show exec (.semaAcq d r scope i) s = execSemaAcq d r scope i s from rfl, execSemaAcq, seqRun_ready hr, exec_bind,
    exec_orderGate hq, h, exec_waitM, finishM_wait]

theorem exec_semaTry : exec (.semaTry d r scope i) s =
    .next ((s.setCore c ((semaTake (s.core c) d i (semaCount (s.core c) r)).getD ((s.core c).wr d 2))).retire c 4 .next) := by
  simp only [show exec (.semaTry d r scope i) s = execSemaTry d r scope i s from rfl, execSemaTry, seqRun_ready hr, exec_bind,
    exec_orderGate hq, exec_modify, exec_pure, finishM_next]

end Operations

/-- Settles O19: each operation as it executes, and the signal field by field. -/
theorem semaphores : Obligations.Semaphores := by
  unfold Obligations.Semaphores
  refine ⟨⟨fun r scope i s c hr hq hd => exec_semaSig hr hq hd, ?remote, ?take, ?set, ?read⟩, ?add⟩
  case remote =>
    rintro d r scope s c hr hq hd name n hn rfl
    exact exec_semaSigR hr hq hd hn
  case take =>
    rintro d r scope i s c hr hq m n y hm hn rfl
    refine ⟨fun h => ⟨?_, ?_⟩, fun h => ⟨?_, ?_⟩⟩
    · exact exec_semaAcq_taken hr hq (semaTake_enough hm hn h)
    · rw [exec_semaTry hr hq, semaTake_enough hm hn h, Option.getD_some]
    · exact exec_semaAcq_waits hr hq (semaTake_short hm hn h)
    · rw [exec_semaTry hr hq, semaTake_short hm hn h]; rfl
  case set =>
    intro r i s c hr
    rw [show exec (.semaSet r i) s = execSemaSet r i s from rfl, execSemaSet, seqCtl_ready hr]
    rfl
  case read =>
    rintro d i s c hr m rfl
    exact seqAlu_ready hr (fun x => (x.sm i).count.zeroExtend 64 ||| (if (x.sm i).e then 0x100000000 else 0))
  case add =>
    rintro s c i n hi m rfl
    rw [core_semaAdd]
    refine ⟨?_, rfl, fun j hj => getD_setSema_ne _ _ hj, rfl, fun k hk => core_updCore_ne s _ hk.symm, rfl⟩
    rw [← sema_add]; exact getD_setSema_self _ _ hi

end Sys2Proof.Machine
end

section
/-!
PROOFS. Transaction barriers: the operations on a marked object, the completion step and the status of a phase (R197 to R201).
-/
namespace Sys2Proof.Machine

/-! ## The completion step and the status -/

theorem complete_eq (s : State) (pa : Nat) (t : Tbar) : s.complete pa t =
    if t.arrv = t.quota ∧ t.decl = t.land then
      let u := s.putTbar pa { t with lastp := t.poison, poison := false, gen := (t.gen + 1) % 2 ^ 32, arrv := 0, decl := 0, land := 0 }
      if t.wen then u.wake t else u
    else s.putTbar pa t := by
  unfold State.complete; simp only [Bool.and_eq_true, decide_eq_true_eq]

section Status
variable {t : Tbar} {g : Nat} (ht : t.gen < 2 ^ 32) (hg : g < 2 ^ 32)
include ht hg

/-- A phase is over by the distance, modulo 2^32, of the present generation from it (R199). -/
theorem status_of_distance {k : Nat} (hk : k < 2 ^ 32) (h : t.gen = (g + k) % 2 ^ 32) :
    t.status g = if k = 0 ∨ 2 ^ 31 ≤ k then none else if k = 1 then some (if t.lastp then 1 else 0) else some 2 := by
  have hd : (t.gen + 2 ^ 32 - g % 2 ^ 32) % 2 ^ 32 = k := by omega
  unfold Tbar.status
  simp only [hd, Bool.or_eq_true, decide_eq_true_eq]

theorem status_next (h : t.gen = (g + 1) % 2 ^ 32) : t.status g = some (if t.lastp then 1 else 0) := by
  rw [status_of_distance ht hg (by decide) h]; rfl

theorem status_older {k : Nat} (h2 : 2 ≤ k) (hk : k < 2 ^ 31) (h : t.gen = (g + k) % 2 ^ 32) : t.status g = some 2 := by
  rw [status_of_distance ht hg (by omega) h, if_neg (by omega), if_neg (by omega)]

theorem status_open {k : Nat} (hk : k < 2 ^ 31) (h : g = (t.gen + k) % 2 ^ 32) : t.status g = none := by
  rw [status_of_distance ht hg (k := (2 ^ 32 - k) % 2 ^ 32) (by omega) (by omega), if_pos (by omega)]

end Status

/-! ## The object that an operation names -/

section Object
variable {s s1 : State} {w : Who} {need : Need} {va : DWord}

theorem exec_tbarObj_misaligned (hv : canonical va = true) (ha : va.toNat % 32 ≠ 0) :
    (tbarObj w need va).exec s = (.error (.raise Cause.misaligned va), s) := by
  simp [tbarObj, exec_bind, hv, ha]

theorem exec_tbarObj_untranslated (hv : canonical va = true) (ha : va.toNat % 32 = 0) {e : Stop}
    (h : (translateM w need va).exec s = (.error e, s1)) : (tbarObj w need va).exec s = (.error e, s1) := by
  simp [tbarObj, exec_bind, hv, ha, h]

theorem exec_tbarObj_scratch (hv : canonical va = true) (ha : va.toNat % 32 = 0) {x : Xlat}
    (h : (translateM w need va).exec s = (.ok x, s1)) (hx : x.mt = 1) :
    (tbarObj w need va).exec s = (.error (.raise Cause.addrUnmapped va), s1) := by
  simp [tbarObj, exec_bind, hv, ha, h, hx]

theorem exec_tbarObj_device_or_away (hv : canonical va = true) (ha : va.toNat % 32 = 0) {x : Xlat}
    (h : (translateM w need va).exec s = (.ok x, s1))
    (hx : x.mt = 2 ∨ (x.mt = 0 ∧ isNormal (lowOf x.pa) = true ∧ s1.isLocal x.pa = false)) :
    (tbarObj w need va).exec s = (.error (.raise Cause.tbarRange va), s1) := by
  rcases hx with hx | ⟨h0, hn, hl⟩
  · simp [tbarObj, exec_bind, hv, ha, h, hx]
  · simp [tbarObj, exec_bind, hv, ha, h, h0, hn, hl]

theorem exec_tbarMarked_error {e : Stop} (h : (tbarObj w need va).exec s = (.error e, s1)) :
    (tbarMarked w need va).exec s = (.error e, s1) := by
  simp [tbarMarked, exec_bind, h]

variable {pa : Nat} (h : (tbarObj w need va).exec s = (.ok pa, s1))
include h

theorem exec_tbarMarked_marked (hb : s1.barriers.contains pa = true) : (tbarMarked w need va).exec s = (.ok pa, s1) := by
  simp only [tbarMarked, exec_bind, h, exec_get, hb, Bool.not_true, Bool.false_eq_true, if_false, exec_pure]

theorem exec_tbarMarked_unmarked (hb : s1.barriers.contains pa = false) :
    (tbarMarked w need va).exec s = (.error (.raise Cause.tbarRange va), s1) := by
  simp only [tbarMarked, exec_bind, h, exec_get, hb, Bool.not_false, if_true, exec_raiseM]

end Object

/-! ## The operations -/

/-- The operations with the permission that each asks of the page (log entry 83). -/
def tbarOps (d a b : Reg) (scope : BitVec 3) : List (Instr × Need) :=
  [(.tbarInit a b scope, .atomic), (.tbarArr d a b scope, .atomic), (.tbarDecl a b scope, .atomic),
    (.tbarFini a scope, .atomic), (.tbarWait d a b scope, .load), (.tbarTest d a b scope, .load)]

section Operations
variable {s s1 : State} {c : Nat} {d a b : Reg} (scope : BitVec 3) (hr : CoreReady s c [a, b] [d])
  (hq : (s.core c).pend.any (fun p => p.acq) = false)
include hr hq

theorem exec_tbarInit {pa : Nat} (h : (tbarObj (whoCore s c) .atomic ((s.core c).gr a)).exec s = (.ok pa, s1)) {n : Nat}
    (hn : n = ((s.core c).gr b).toNat) : exec (.tbarInit a b scope) s = .next
      (if n % 2 ^ 16 = 0 ∨ 2 ^ 31 ≤ n then s1.preciseFault c Cause.tbarRange ((s.core c).gr a)
        else { s1.putTbar pa { gen := (s1.tbarAt pa).gen, quota := n % 2 ^ 16, wsem := bits n 29 16, wen := bit n 30, arrv := 0, decl := 0
                               land := 0, poison := false, lastp := false, ctx := s.coreCtx c } with
               barriers := NSet.insert (s1.putTbar pa { gen := (s1.tbarAt pa).gen, quota := n % 2 ^ 16, wsem := bits n 29 16
                                                        wen := bit n 30, arrv := 0, decl := 0, land := 0, poison := false
                                                        lastp := false, ctx := s.coreCtx c }).barriers pa }.retire c 4 .next) := by
  have hbad : (decide (n % 2 ^ 16 = 0) || n / 2 ^ 31 != 0) = true ↔ (n % 2 ^ 16 = 0 ∨ 2 ^ 31 ≤ n) := by
    simp only [Bool.or_eq_true, decide_eq_true_eq, bne_iff_ne]; omega
  simp only [show exec (.tbarInit a b scope) s = execTbarInit a b scope s from rfl, execTbarInit,
    seqRun_ready (hr.weaken (reads' := [a, b]) (writes' := []) (by simp) (by simp)), exec_bind, exec_orderGate hq, exec_get, h, ← hn,
    hbad]
  by_cases hx : n % 2 ^ 16 = 0 ∨ 2 ^ 31 ≤ n
  · simp only [hx, if_true, exec_bind, exec_raiseM, finishM_raise]
  · simp only [hx, if_false, exec_bind, exec_modify, exec_pure, finishM_next]
    rfl

variable {pa : Nat}

section Arrive
variable (hd : drained (s.core c) = true)
include hd

theorem exec_tbarArr_error {e : Stop} (h : (tbarMarked (whoCore s c) .atomic ((s.core c).gr a)).exec s = (.error e, s1)) :
    exec (.tbarArr d a b scope) s = .next (finishM c 4 (.error e, s1)) := by
  simp only [show exec (.tbarArr d a b scope) s = execTbarArr d a b scope s from rfl, execTbarArr, seqRun_ready hr, exec_bind,
    exec_orderGate hq, exec_drainGate (fun _ => hd), exec_get, h]

theorem exec_tbarArr {n : Nat} (hn : n = ((s.core c).gr b).toNat)
    (h : (tbarMarked (whoCore s c) .atomic ((s.core c).gr a)).exec s = (.ok pa, s1)) : exec (.tbarArr d a b scope) s = .next
      (if 2 ^ 48 ≤ n ∨ (s1.tbarAt pa).quota < (s1.tbarAt pa).arrv + n % 2 ^ 16 ∨ 2 ^ 64 ≤ (s1.tbarAt pa).decl + bits n 47 16
        then s1.preciseFault c Cause.tbarRange ((s.core c).gr a)
        else (s1.complete pa { s1.tbarAt pa with
          arrv := (s1.tbarAt pa).arrv + n % 2 ^ 16, decl := (s1.tbarAt pa).decl + bits n 47 16 }).wrote c d
            (BitVec.ofNat 64 (s1.tbarAt pa).gen) 4) := by
  have hbad : (n / 2 ^ 48 != 0 || (s1.tbarAt pa).badArrival (n % 2 ^ 16) (bits n 47 16)) = true ↔
      (2 ^ 48 ≤ n ∨ (s1.tbarAt pa).quota < (s1.tbarAt pa).arrv + n % 2 ^ 16 ∨ 2 ^ 64 ≤ (s1.tbarAt pa).decl + bits n 47 16) := by
    simp only [Tbar.badArrival, Bool.or_eq_true, decide_eq_true_eq, bne_iff_ne]; omega
  simp only [show exec (.tbarArr d a b scope) s = execTbarArr d a b scope s from rfl, execTbarArr, seqRun_ready hr, exec_bind,
    exec_orderGate hq, exec_drainGate (fun _ => hd), exec_get, h, ← hn, hbad]
  split
  · simp only [exec_bind, exec_raiseM, finishM_raise]
  · simp only [exec_bind, exec_set, exec_putReg, exec_pure, finishM_next]
    rfl

end Arrive

theorem exec_tbarDecl_error {e : Stop} (h : (tbarMarked (whoCore s c) .atomic ((s.core c).gr a)).exec s = (.error e, s1)) :
    exec (.tbarDecl a b scope) s = .next (finishM c 4 (.error e, s1)) := by
  simp only [show exec (.tbarDecl a b scope) s = execTbarDecl a b scope s from rfl, execTbarDecl,
    seqRun_ready (hr.weaken (reads' := [a, b]) (writes' := []) (by simp) (by simp)), exec_bind, exec_orderGate hq, exec_get, h]

theorem exec_tbarDecl {n : Nat} (hn : n = ((s.core c).gr b).toNat)
    (h : (tbarMarked (whoCore s c) .atomic ((s.core c).gr a)).exec s = (.ok pa, s1)) : exec (.tbarDecl a b scope) s = .next
      (if 2 ^ 64 ≤ (s1.tbarAt pa).decl + n then s1.preciseFault c Cause.tbarRange ((s.core c).gr a)
        else (s1.complete pa { s1.tbarAt pa with decl := (s1.tbarAt pa).decl + n }).retire c 4 .next) := by
  have hbad : ((s1.tbarAt pa).badArrival 0 n && decide (2 ^ 64 ≤ (s1.tbarAt pa).decl + n)) = true ↔ 2 ^ 64 ≤ (s1.tbarAt pa).decl + n := by
    simp only [Tbar.badArrival, Bool.and_eq_true, Bool.or_eq_true, decide_eq_true_eq]; omega
  simp only [show exec (.tbarDecl a b scope) s = execTbarDecl a b scope s from rfl, execTbarDecl,
    seqRun_ready (hr.weaken (reads' := [a, b]) (writes' := []) (by simp) (by simp)), exec_bind, exec_orderGate hq, exec_get, h,
    ← hn, hbad]
  split
  · simp only [exec_bind, exec_raiseM, finishM_raise]
  · simp only [exec_bind, exec_set, exec_pure, finishM_next]
    rfl

theorem exec_tbarFini_error {e : Stop} (h : (tbarMarked (whoCore s c) .atomic ((s.core c).gr a)).exec s = (.error e, s1)) :
    exec (.tbarFini a scope) s = .next (finishM c 4 (.error e, s1)) := by
  simp only [show exec (.tbarFini a scope) s = execTbarFini a scope s from rfl, execTbarFini,
    seqRun_ready (hr.weaken (reads' := [a]) (writes' := []) (by simp) (by simp)), exec_bind, exec_orderGate hq, exec_get, h]

theorem exec_tbarFini (h : (tbarMarked (whoCore s c) .atomic ((s.core c).gr a)).exec s = (.ok pa, s1)) :
    exec (.tbarFini a scope) s = .next ({ s1 with barriers := s1.barriers.filter (fun u => u != pa) }.retire c 4 .next) := by
  simp only [show exec (.tbarFini a scope) s = execTbarFini a scope s from rfl, execTbarFini,
    seqRun_ready (hr.weaken (reads' := [a]) (writes' := []) (by simp) (by simp)), exec_bind, exec_orderGate hq, exec_get, h,
    exec_modify, exec_pure, finishM_next]

theorem exec_tbarWait_error {e : Stop} (h : (tbarMarked (whoCore s c) .load ((s.core c).gr a)).exec s = (.error e, s1)) :
    exec (.tbarWait d a b scope) s = .next (finishM c 4 (.error e, s1)) := by
  simp only [show exec (.tbarWait d a b scope) s = execTbarWait d a b scope s from rfl, execTbarWait, seqRun_ready hr, exec_bind,
    exec_orderGate hq, exec_get, h]

theorem exec_tbarTest_error {e : Stop} (h : (tbarMarked (whoCore s c) .load ((s.core c).gr a)).exec s = (.error e, s1)) :
    exec (.tbarTest d a b scope) s = .next (finishM c 4 (.error e, s1)) := by
  simp only [show exec (.tbarTest d a b scope) s = execTbarTest d a b scope s from rfl, execTbarTest, seqRun_ready hr, exec_bind,
    exec_orderGate hq, exec_get, h]

theorem exec_tbarInit_error {e : Stop} (h : (tbarObj (whoCore s c) .atomic ((s.core c).gr a)).exec s = (.error e, s1)) :
    exec (.tbarInit a b scope) s = .next (finishM c 4 (.error e, s1)) := by
  simp only [show exec (.tbarInit a b scope) s = execTbarInit a b scope s from rfl, execTbarInit,
    seqRun_ready (hr.weaken (reads' := [a, b]) (writes' := []) (by simp) (by simp)), exec_bind, exec_orderGate hq, exec_get, h]

section Phase
variable (h : (tbarMarked (whoCore s c) .load ((s.core c).gr a)).exec s = (.ok pa, s1))
include h

theorem exec_tbarWait_over {v : Nat} (hv : (s1.tbarAt pa).status ((s.core c).gr b).toNat = some v) :
    exec (.tbarWait d a b scope) s = .next (s1.wrote c d (BitVec.ofNat 64 v) 4) := by
  simp only [show exec (.tbarWait d a b scope) s = execTbarWait d a b scope s from rfl, execTbarWait, seqRun_ready hr, exec_bind,
    exec_orderGate hq, exec_get, h, hv, exec_putReg, exec_pure, finishM_next]
  rfl

theorem exec_tbarWait_open (hv : (s1.tbarAt pa).status ((s.core c).gr b).toNat = none) :
    exec (.tbarWait d a b scope) s = .next s1 := by
  simp only [show exec (.tbarWait d a b scope) s = execTbarWait d a b scope s from rfl, execTbarWait, seqRun_ready hr, exec_bind,
    exec_orderGate hq, exec_get, h, hv, exec_waitM, finishM_wait]

theorem exec_tbarTest : exec (.tbarTest d a b scope) s =
    .next (s1.wrote c d (BitVec.ofNat 64 (((s1.tbarAt pa).status ((s.core c).gr b).toNat).getD 3)) 4) := by
  simp only [show exec (.tbarTest d a b scope) s = execTbarTest d a b scope s from rfl, execTbarTest, seqRun_ready hr, exec_bind,
    exec_orderGate hq, exec_get, h, exec_putReg, exec_pure, finishM_next]
  rfl

end Phase

/-- An object that can not be named stops every operation, which changes no object. -/
theorem exec_tbarOps_error (hd : drained (s.core c) = true) {p : Instr × Need} (hp : p ∈ tbarOps d a b scope) {e : Stop}
    (h : (tbarObj (whoCore s c) p.2 ((s.core c).gr a)).exec s = (.error e, s1)) :
    exec p.1 s = .next (finishM c 4 (.error e, s1)) := by
  have hm := exec_tbarMarked_error h
  simp only [tbarOps, List.mem_cons, List.not_mem_nil, or_false] at hp
  rcases hp with rfl | rfl | rfl | rfl | rfl | rfl
  · exact exec_tbarInit_error scope hr hq h
  · exact exec_tbarArr_error scope hr hq hd hm
  · exact exec_tbarDecl_error scope hr hq hm
  · exact exec_tbarFini_error scope hr hq hm
  · exact exec_tbarWait_error scope hr hq hm
  · exact exec_tbarTest_error scope hr hq hm

end Operations

/-- Settles O20: each operation by what its address names, the completion step by its condition, and the status by the distance of the
phase. -/
theorem tokenBarriers : Obligations.TokenBarriers := by
  unfold Obligations.TokenBarriers
  refine ⟨?operations, ?place, ?completion, fun t g ht hg => ?status⟩
  case operations =>
    rintro d a b scope s c hr hq va n rfl hn
    refine ⟨fun pa s1 h => ⟨exec_tbarInit scope hr hq h hn, fun hb => ?_, fun hb => ?_⟩, fun pa s1 h hb => ?_, fun pa s1 h hb => ?_⟩
    · have hm := exec_tbarMarked_marked h hb
      exact ⟨fun hd => exec_tbarArr scope hr hq hd hn hm, exec_tbarDecl scope hr hq hn hm, exec_tbarFini scope hr hq hm⟩
    · have hm := exec_tbarMarked_unmarked h hb
      refine ⟨fun i hi => ?_, fun hd => exec_tbarArr_error scope hr hq hd hm⟩
      rcases List.mem_pair.1 hi with rfl | rfl
      · exact exec_tbarDecl_error scope hr hq hm
      · exact exec_tbarFini_error scope hr hq hm
    · have hm := exec_tbarMarked_unmarked h hb
      intro i hi
      rcases List.mem_pair.1 hi with rfl | rfl
      · exact exec_tbarWait_error scope hr hq hm
      · exact exec_tbarTest_error scope hr hq hm
    · have hm := exec_tbarMarked_marked h hb
      subst hn
      refine ⟨fun v hv => ⟨exec_tbarWait_over scope hr hq hm hv, ?_⟩, fun hv => ⟨exec_tbarWait_open scope hr hq hm hv, ?_⟩⟩
      · rw [exec_tbarTest scope hr hq hm, hv, Option.getD_some]
      · rw [exec_tbarTest scope hr hq hm, hv]; rfl
  case place =>
    rintro d a b scope s c hr hq hd va rfl hv p hp
    refine ⟨fun ha => ?_, fun ha => ⟨fun cause addr s1 h => ?_, fun x s1 h => ⟨fun hx => ?_, fun hx => ?_⟩⟩⟩
    · exact exec_tbarOps_error scope hr hq hd hp (exec_tbarObj_misaligned hv ha)
    · exact exec_tbarOps_error scope hr hq hd hp (exec_tbarObj_untranslated hv ha h)
    · exact exec_tbarOps_error scope hr hq hd hp (exec_tbarObj_device_or_away hv ha h hx)
    · exact exec_tbarOps_error scope hr hq hd hp (exec_tbarObj_scratch hv ha h hx)
  case completion =>
    intro s pa t
    refine ⟨fun h u hu => ?_, fun h => ?_⟩
    · subst hu
      rw [complete_eq, if_pos h]
      cases t.wen <;> rfl
    · rw [complete_eq, if_neg h]
  case status =>
    exact ⟨status_next ht hg, fun k h2 hk h => status_older ht hg h2 hk h, fun k hk h => status_open ht hg hk h⟩

end Sys2Proof.Machine
end

section
/-!
PROOFS. Byte rings (R214, R215).
-/
namespace Sys2Proof.Machine

/-! ## The search for the next record -/

section Skip
variable {w : Who} {ga : DWord} {v : RingView} {s s1 : State} {k h : Nat}

theorem exec_skipRecords_end : (skipRecords w ga v k v.tail).exec s = (.ok (v.tail, none), s) := by
  cases k <;> simp [skipRecords]

variable (hne : h ≠ v.tail)
include hne

theorem exec_skipRecords_error {e : Stop} (hr : (ringRecord w ga v h).exec s = (.error e, s1)) :
    (skipRecords w ga v (k + 1) h).exec s = (.error e, s1) := by
  simp only [skipRecords, hne, if_false, exec_bind, hr]

variable {at_ : DWord} {len kind : Nat} (hr : (ringRecord w ga v h).exec s = (.ok (at_, len, kind), s1))
include hr

theorem exec_skipRecords_record (hk : kind ≠ 0xFF) : (skipRecords w ga v (k + 1) h).exec s = (.ok (h, some at_), s1) := by
  simp only [skipRecords, hne, if_false, exec_bind, hr, hk, exec_pure]

theorem exec_skipRecords_skip (hk : kind = 0xFF) :
    (skipRecords w ga v (k + 1) h).exec s = (skipRecords w ga v k (h + len)).exec s1 := by
  simp only [skipRecords, hne, if_false, exec_bind, hr, hk, if_true]

end Skip

/-! ## brng.get and brng.rel -/

section Get
variable {s s1 s2 s3 : State} {c : Nat} {d a : Reg} {v : RingView} (hr : CoreReady s c [a] [d])
  (hq : (s.core c).pend.any (fun p => p.acq) = false)
include hr hq

theorem exec_brngGet_noView {e : Stop} (hv : (ringView (whoCore s c) ((s.core c).gr a)).exec s = (.error e, s1)) :
    exec (.brngGet d a) s = .next (finishM c 4 (.error e, s1)) := by
  simp only [show exec (.brngGet d a) s = execBrngGet d a s from rfl, execBrngGet, seqRun_ready hr, exec_bind, exec_orderGate hq,
    exec_get, hv]

theorem exec_brngRel_noView {e : Stop} (hv : (ringView (whoCore s c) ((s.core c).gr a)).exec s = (.error e, s1)) :
    exec (.brngRel a) s = .next (finishM c 4 (.error e, s1)) := by
  simp only [show exec (.brngRel a) s = execBrngRel a s from rfl, execBrngRel,
    seqRun_ready (hr.weaken (reads' := [a]) (writes' := []) (by simp) (by simp)), exec_bind, exec_orderGate hq, exec_get, hv]

variable (hv : (ringView (whoCore s c) ((s.core c).gr a)).exec s = (.ok v, s1))
include hv

theorem exec_brngGet_error {e : Stop} (hk : (skipRecords (whoCore s c) ((s.core c).gr a) v ((v.tail - v.head) / 8 + 1) v.head).exec s1
    = (.error e, s2)) : exec (.brngGet d a) s = .next (finishM c 4 (.error e, s2)) := by
  simp only [show exec (.brngGet d a) s = execBrngGet d a s from rfl, execBrngGet, seqRun_ready hr, exec_bind, exec_orderGate hq,
    exec_get, hv, hk]

/-- Without a skip record nothing is stored. -/
theorem exec_brngGet_found {o : Option DWord} (hk : (skipRecords (whoCore s c) ((s.core c).gr a) v ((v.tail - v.head) / 8 + 1)
    v.head).exec s1 = (.ok (v.head, o), s2)) : exec (.brngGet d a) s = .next (s2.wrote c d (o.getD 0) 4) := by
  simp only [show exec (.brngGet d a) s = execBrngGet d a s from rfl, execBrngGet, seqRun_ready hr, exec_bind, exec_orderGate hq,
    exec_get, hv, hk, bne_self_eq_false, Bool.false_eq_true, if_false, exec_putReg, exec_pure, finishM_next]
  rfl

theorem exec_brngGet_moved {h : Nat} {o : Option DWord} (hk : (skipRecords (whoCore s c) ((s.core c).gr a) v
    ((v.tail - v.head) / 8 + 1) v.head).exec s1 = (.ok (h, o), s2)) (hne : h ≠ v.head)
    (hst : (coreStore c (s.core c) ((s.core c).gr a + 0x18) 8 (BitVec.ofNat 64 h) (some 7)).exec s2 = (.ok .next, s3)) :
    exec (.brngGet d a) s = .next (s3.wrote c d (o.getD 0) 4) := by
  simp only [show exec (.brngGet d a) s = execBrngGet d a s from rfl, execBrngGet, seqRun_ready hr, exec_bind, exec_orderGate hq,
    exec_get, hv, hk, bne_iff_ne, ne_eq, hne, not_false_iff, if_true, storeHead, show Config.scopeSys = 7 from rfl, hst, exec_putReg,
    exec_pure, finishM_next]
  rfl

theorem exec_brngRel_read {hdr : Nat} (hh : (plainM (whoCore s c) (BitVec.ofNat 64 (v.base + v.head % v.size)) 8).exec s1
    = (.ok hdr, s2)) : exec (.brngRel a) s = .next (finishM c 4 ((do
      if v.head = v.tail || bits hdr 39 32 = 0xFF then raiseM Cause.ringFormat ((s.core c).gr a)
      storeHead c (s.core c) ((s.core c).gr a) (v.head + 8 + (hdr % 2 ^ 32 + 7) / 8 * 8)
      pure .next : Mach Flow).exec s2)) := by
  simp only [show exec (.brngRel a) s = execBrngRel a s from rfl, execBrngRel,
    seqRun_ready (hr.weaken (reads' := [a]) (writes' := []) (by simp) (by simp)), exec_bind, exec_orderGate hq, exec_get, hv, hh]

end Get

/-- Settles O21: what the search finds decides brng.get, the header at HEAD brng.rel. -/
theorem byteRingOperations : Obligations.ByteRingOperations := by
  unfold Obligations.ByteRingOperations
  rintro d a s c hr hq ga w rfl rfl
  refine ⟨fun cause addr s1 h => ⟨exec_brngGet_noView hr hq h, exec_brngRel_noView hr hq h⟩,
    fun v s1 hv => ⟨fun he => ?empty, fun at_ len kind s2 hne hrec => ⟨fun hk => ?record, fun hk ht s3 hst => ?skip⟩,
      fun cause addr s2 hne hrec => ?malformed, fun hdr s2 hh => ⟨fun hbad => ?refused, fun hne hk s3 hst => ?released⟩⟩⟩
  case empty =>
    have hk := exec_skipRecords_end (w := whoCore s c) (ga := (s.core c).gr a) (v := v) (s := s1) (k := (v.tail - v.head) / 8 + 1)
    rw [exec_brngGet_found hr hq hv (o := none) (s2 := s1) (by rw [he] at hk ⊢; exact hk), Option.getD_none]
  case record => rw [exec_brngGet_found hr hq hv (exec_skipRecords_record hne hrec hk), Option.getD_some]
  case skip =>
    have hsk := exec_skipRecords_skip (k := (v.tail - v.head) / 8) hne hrec hk
    rw [ht, exec_skipRecords_end] at hsk
    rw [exec_brngGet_moved hr hq hv hsk hne.symm hst, Option.getD_none]
  case malformed => exact exec_brngGet_error hr hq hv (exec_skipRecords_error hne hrec)
  case refused =>
    have hb : (decide (v.head = v.tail) || decide (bits hdr 39 32 = 0xFF)) = true := by simpa using hbad
    rw [exec_brngRel_read hr hq hv hh]
    simp only [exec_bind, hb, if_true, exec_raiseM, finishM_raise]
  case released =>
    have hb : (decide (v.head = v.tail) || decide (bits hdr 39 32 = 0xFF)) = false := by simp [hne, hk]
    rw [exec_brngRel_read hr hq hv hh]
    simp only [exec_bind, hb, Bool.false_eq_true, if_false, storeHead, show Config.scopeSys = 7 from rfl, hst, exec_pure, finishM_next]

end Sys2Proof.Machine
end

section
/-!
PROOFS. Multicast rings (R216, R217) and bushel queues (R218, R219).
-/
namespace Sys2Proof.Machine

/-! ## A read by a command records at most (R366) -/

/-- A command that waits first, if p. -/
theorem recordsAt_waitIf {p : Prop} [Decidable p] {β : Type} {f : PUnit → Mach β} {s : State} (hf : RecordsAt (f ⟨⟩) s) :
    RecordsAt (if p then waitM >>= f else f ⟨⟩) s := by
  refine recordsAt_ite ?_ hf
  simp only [RecordsAt, exec_bind, exec_waitM]
  exact .refl s

/-- A command that raises first, if p. -/
theorem recordsAt_raiseIf {p : Prop} [Decidable p] {β : Type} {f : PUnit → Mach β} {s : State} (cause : Byte) (a : DWord)
    (hf : RecordsAt (f ⟨⟩) s) : RecordsAt (if p then raiseM cause a >>= f else f ⟨⟩) s :=
  recordsAt_ite (recordsAt_raiseM_bind ..) hf

theorem recordsAt_accessM (w : Who) (need : Need) (va : DWord) (n : Nat) (s : State) : RecordsAt (accessM w need va n) s :=
  recordsAt_bind (onlyRecorded_checkM (t := ((checkM w need va n).exec s).2) rfl) fun _ _ =>
    recordsAt_get_bind (recordsAt_waitIf (f := fun _ => pure _) (recordsAt_pure _))

theorem recordsAt_remoteReadM (w : Who) (dpa n : Nat) (s : State) : RecordsAt (remoteReadM w dpa n) s := by
  refine recordsAt_get_bind ?_
  split
  · split
    · exact recordsAt_pure _
    · exact recordsAt_waitM
  · refine recordsAt_waitIf (recordsAt_ite (recordsAt_bind (recordsAt_set ?_) fun _ _ => recordsAt_pure _)
      (recordsAt_bind (recordsAt_set ?_) fun _ _ => recordsAt_waitM))
    · exact (onlyRecorded_record _ _).trans (onlyRecorded_remoteReads ..)
    · exact (onlyRecorded_sendReq s .load .other w.ctx dpa n 0).trans (onlyRecorded_remoteReads ..)

theorem recordsAt_readAtM (w : Who) (x : Xlat) (n : Nat) (s : State) : RecordsAt (readAtM w x n) s :=
  recordsAt_get_bind (recordsAt_ite (recordsAt_pure _) (recordsAt_ite (recordsAt_pure _) (recordsAt_remoteReadM ..)))

theorem recordsAt_plainM (w : Who) (va : DWord) (n : Nat) (s : State) : RecordsAt (plainM w va n) s :=
  recordsAt_bind (recordsAt_accessM ..) fun _ _ => recordsAt_get_bind (recordsAt_ite (recordsAt_pure _) (recordsAt_waitIf
    (recordsAt_bind (recordsAt_readAtM ..) fun _ _ => recordsAt_raiseIf _ _ (recordsAt_pure _))))

theorem recordsAt_plainWordsM (w : Who) (va : DWord) (n : Nat) (s : State) : RecordsAt (plainWordsM w va n) s := by
  induction n generalizing va s with
  | zero => exact recordsAt_pure _
  | succ n ih => exact recordsAt_bind (recordsAt_plainM ..) fun _ _ => recordsAt_bind (ih ..) fun _ _ => recordsAt_pure _

theorem OnlyRecorded.mrings {s t : State} (h : OnlyRecorded s t) : t.mrings = s.mrings := by
  have h := congrArg State.mrings (onlyRecorded_iff.1 h)
  exact h

/-! ## What mring.put writes -/

theorem getD_foldl_set {α : Type} (p : Nat → Bool) (v : Nat → α) (z : α) (i : Nat) (l : List Nat) (m : AMap α) :
    AMap.getD (l.foldl (fun cs j => if p j then AMap.set cs j (v j) else cs) m) i z = if i ∈ l ∧ p i then v i else AMap.getD m i z := by
  induction l generalizing m with
  | nil => simp
  | cons j l ih =>
    rw [List.foldl_cons, ih]
    by_cases hij : i = j
    · subst hij
      by_cases hp : p i <;> simp [hp, getD_set_self]
    · by_cases hp : p j <;> simp [hp, hij, getD_set_ne _ _ _ (Ne.symm hij)]

/-- Waking the sequencers of a ring changes of the part only whether a core is woken. -/
theorem wakeAll_frame (s : State) (q : Nat) (m : BitVec 16) (l : List Nat) (c : Nat) :
    (wakeAll s q m l).mrings = s.mrings ∧ (wakeAll s q m l).mem = s.mem ∧ ((wakeAll s q m l).core c).pc = (s.core c).pc := by
  induction l generalizing s with
  | nil => exact ⟨rfl, rfl, rfl⟩
  | cons b l ih =>
    have hpc : ((s.updCore (16 * q + b) (fun x => { x with woken := true })).core c).pc = (s.core c).pc := by
      by_cases hc : 16 * q + b = c
      · rw [← hc, core_updCore_self]
      · rw [core_updCore_ne _ _ hc]
    unfold wakeAll
    split
    · obtain ⟨h1, h2, h3⟩ := ih (s.updCore (16 * q + b) (fun x => { x with woken := true }))
      exact ⟨h1, h2, h3.trans hpc⟩
    · exact ih s

/-- A ring with a record more, at P (R216). -/
def MRing.produced (r : MRing) (m : BitVec 16) (ctx : Nat) (data : BitVec 512) : MRing where
  p := r.p + 1
  slots := AMap.set r.slots (r.p.toNat % 16) ⟨r.p, m, ctx, (List.range 16).foldl
    (fun cs i => if m.getLsbD i then AMap.set cs i data else cs) (r.slot (r.p.toNat % 16)).copies⟩

/-- The part with ring q written and the sequencers of m woken. -/
def State.ringWritten (s : State) (q : Nat) (r : MRing) (m : BitVec 16) : State :=
  wakeAll { s with mrings := AMap.set s.mrings q r } q m (List.range 16)

theorem mring_ringWritten_self (s : State) (q : Nat) (r : MRing) (m : BitVec 16) : (s.ringWritten q r m).mring q = r := by
  rw [State.mring, State.ringWritten, (wakeAll_frame _ q m _ 0).1, getD_set_self]

theorem mring_ringWritten_ne (s : State) {q j : Nat} (r : MRing) (m : BitVec 16) (h : j ≠ q) :
    (s.ringWritten q r m).mring j = s.mring j := by
  rw [State.mring, State.ringWritten, (wakeAll_frame _ q m _ 0).1, getD_set_ne _ _ _ h.symm]; rfl

theorem slot_produced_self (r : MRing) (m : BitVec 16) (ctx : Nat) (data : BitVec 512) :
    (r.produced m ctx data).slot (r.p.toNat % 16) = ⟨r.p, m, ctx, (List.range 16).foldl
      (fun cs i => if m.getLsbD i then AMap.set cs i data else cs) (r.slot (r.p.toNat % 16)).copies⟩ := getD_set_self ..

theorem slot_produced_ne (r : MRing) (m : BitVec 16) (ctx : Nat) (data : BitVec 512) {j : Nat} (h : j ≠ r.p.toNat % 16) :
    (r.produced m ctx data).slot j = r.slot j := getD_set_ne _ _ _ h.symm

theorem mring_retire (s : State) (c len : Nat) (fl : Flow) (q : Nat) : (s.retire c len fl).mring q = s.mring q := by
  cases fl <;> rfl

theorem core_releaseSlot (s : State) (c : Nat) : (s.releaseSlot c).core c =
    { s.core c with mcix := (s.core c).mcix + 1, slotHeld := false, mrhClear := false } := core_setCore_self ..

theorem mring_releaseSlot (s : State) (c : Nat) : (s.releaseSlot c).mring (coreQuadrant c) =
    ⟨(s.mring (coreQuadrant c)).p, AMap.set (s.mring (coreQuadrant c)).slots ((s.core c).mcix.toNat % 16)
      { (s.mring (coreQuadrant c)).slot ((s.core c).mcix.toNat % 16) with
        mask := ((s.mring (coreQuadrant c)).slot ((s.core c).mcix.toNat % 16)).mask &&& ~~~((1 : BitVec 16) <<< ringBit c) }⟩ :=
  getD_set_self ..

theorem mem_retire (s : State) (c len : Nat) (fl : Flow) : (s.retire c len fl).mem = s.mem := by
  cases fl <;> rfl

/-! ## The loop of mring.get -/

section Seek
variable (r : MRing) (b ctx : Nat)

theorem seq_sub_eq_zero (x y : Word) : (x - y).toNat = 0 ↔ x = y := by
  rw [← BitVec.toNat_inj (x := x)]; bv_omega

theorem ringSeek_succ (n : Nat) (cx : Word) : ringSeek r b ctx (n + 1) cx =
    if slotMine r b ctx cx then some cx else if slotPassed r b ctx cx then ringSeek r b ctx n (cx + 1) else none := by
  have hmine : slotMine r b ctx cx = true ↔ (decide (((r.slot (cx.toNat % 16)).seq - cx).toNat = 0) &&
      (r.slot (cx.toNat % 16)).mask.getLsbD b && (r.slot (cx.toNat % 16)).ctx == ctx) = true := by
    simp only [slotMine, seq_sub_eq_zero, Bool.and_eq_true, decide_eq_true_eq, beq_iff_eq]
  rw [ringSeek]
  by_cases h : slotMine r b ctx cx = true
  · rw [if_pos h, if_pos (hmine.1 h)]
  · rw [if_neg h, if_neg (fun h' => h (hmine.2 h'))]
    have hp : slotPassed r b ctx cx = true ↔ ((r.slot (cx.toNat % 16)).seq - cx).toNat ≤ 2 ^ 31 - 1 := by
      simp only [slotPassed, Bool.eq_false_iff.2 h, Bool.not_false, Bool.true_and, decide_eq_true_eq]; omega
    simp only [hp]

theorem ringSeek_passed (n k : Nat) (cx : Word) (h : ∀ j, j < n → slotPassed r b ctx (cx + BitVec.ofNat 32 j) = true) :
    ringSeek r b ctx (n + k) cx = ringSeek r b ctx k (cx + BitVec.ofNat 32 n) := by
  induction n generalizing cx with
  | zero => simp
  | succ n ih =>
    have h0 : slotPassed r b ctx cx = true := by simpa using h 0 (Nat.succ_pos n)
    have hm : slotMine r b ctx cx = false := by
      by_contra hc
      simp [slotPassed, Bool.eq_true_of_not_eq_false hc] at h0
    have hstep (j : Nat) : cx + 1 + BitVec.ofNat 32 j = cx + BitVec.ofNat 32 (j + 1) := by
      rw [BitVec.add_assoc]; congr 1; apply BitVec.eq_of_toNat_eq; simp; omega
    rw [show n + 1 + k = n + k + 1 by omega, ringSeek_succ, hm, h0, if_neg Bool.false_ne_true, if_pos rfl,
      ih (cx + 1) (fun j hj => by rw [hstep]; exact h (j + 1) (by omega)), hstep]

theorem ringFrom_near {cx : Word} (h : (r.p - cx).toNat ≤ 16) : ringFrom r cx = cx :=
  if_neg (by simp only [Bool.and_eq_true, decide_eq_true_eq]; omega)

end Seek

/-- Settles O22: the store of a record, the loop over the slots passed, and the slot held. -/
theorem multicastRings : Obligations.MulticastRings := by
  unfold Obligations.MulticastRings
  refine ⟨?put, ?get, ?ld, ?rel⟩
  case put =>
    rintro a b s c hr hd q k rfl rfl
    have run : exec (.mringPut a b) s = execMringPut a b s := rfl
    simp only [run, execMringPut, seqRun_ready hr, exec_bind, hd.exec_orderGate, hd.exec_drainGate, exec_get, exec_ite]
    refine ⟨fun hk => ?_, fun hk hcan hal => ?_, fun hk hal ws s1 m hws hring hm => ?_⟩
    · simp only [bne_iff_ne, ne_eq, hk, not_false_eq_true, if_true, exec_waitM, finishM_wait]
    · simp only [hk, hcan, hal, bne_self_eq_false, Bool.false_eq_true, if_false, exec_pure, Bool.true_and, bne_iff_ne, ne_eq,
        not_false_eq_true, if_true, exec_raiseM, finishM_raise]
    · simp only [hk, hal, bne_self_eq_false, Bool.and_false, Bool.false_eq_true, if_false, exec_pure, hws]
      rw [show (whoCore s c).ctx = s.coreCtx c from rfl, ← hm]
      refine ⟨fun h0 => by simp only [h0, if_true, finishM_next], fun h0 => ?_⟩
      simp only [h0, if_false, exec_set, finishM_next]
      refine ⟨(s1.ringWritten (coreQuadrant c) ((s.mring (coreQuadrant c)).produced m (s.coreCtx c)
        (BitVec.ofNat 512 (leNat (wordsBytes ws)))) m).retire c 4 .next, rfl, ?_⟩
      rw [core_retire_self]
      simp only [mring_retire, mem_retire, mring_ringWritten_self]
      refine ⟨rfl, by rw [slot_produced_self], by rw [slot_produced_self], by rw [slot_produced_self], fun i hi hb => ?_,
        fun j hj => slot_produced_ne _ _ _ _ hj, fun j hj => ?_, ?_, ?_⟩
      · rw [slot_produced_self, getD_foldl_set (v := fun _ => _), if_pos ⟨List.mem_range.2 hi, hb⟩]
      · rw [mring_ringWritten_ne _ _ _ hj]
        have hrec := recordsAt_plainWordsM (whoCore s c) ((s.core c).gr a) 8 s
        rw [RecordsAt, hws] at hrec
        exact congrArg (fun l : AMap MRing => AMap.getD l j {}) hrec.mrings
      · exact congrArg (· + 4) (wakeAll_frame _ _ m _ c).2.2
      · exact (wakeAll_frame _ _ m _ c).2.1
  case get =>
    intro d s c hr hp
    simp only [show exec (.mringGet d) s = execMringGet d s from rfl, execMringGet, seqRun_ready hr, exec_bind, exec_orderGate hp,
      exec_get, exec_ite]
    refine ⟨fun h => ?_, fun hh hm r hrr hgap n hn hpass cx hcx => ?_⟩
    · rw [if_pos (by simpa using h)]; rfl
    · subst hrr hcx
      have hseek : ringSeek (s.mring (coreQuadrant c)) (ringBit c) (s.coreCtx c) 18
          (ringFrom (s.mring (coreQuadrant c)) (s.core c).mcix) =
          ringSeek (s.mring (coreQuadrant c)) (ringBit c) (s.coreCtx c) (17 - n + 1) ((s.core c).mcix + BitVec.ofNat 32 n) := by
        rw [ringFrom_near _ hgap, ← ringSeek_passed _ _ _ n _ _ hpass]; congr 1; omega
      rw [hh, hm, if_neg (by simp)]
      simp only [hseek, ringSeek_succ]
      refine ⟨fun hmine => ?_, fun hmine hp => ?_⟩
      · simp only [hmine, if_true, exec_bind, exec_set, exec_pure, finishM_next]; rfl
      · simp only [hmine, hp, Bool.false_eq_true, if_false, exec_waitM, finishM_wait]
  case ld =>
    intro d a s c hr
    simp only [show exec (.mringLd d a) s = execMringLd d a s from rfl, execMringLd, seqRun_ready hr, exec_bind, exec_ite,
      Bool.not_eq_true']
    cases hh : (s.core c).slotHeld
    · rfl
    · simp only [Bool.true_eq_false, if_false, if_true, exec_pure, exec_get, exec_putReg, finishM_next]; rfl
  case rel =>
    intro s c hr
    simp only [show exec .mringRel s = execMringRel s from rfl, execMringRel, seqRun_ready hr, exec_bind, exec_ite,
      Bool.not_eq_true']
    refine ⟨fun hh => by simp only [hh, if_true]; rfl, fun hh => ?_⟩
    simp only [hh, Bool.true_eq_false, if_false, exec_pure, exec_modify, finishM_next]
    refine ⟨_, rfl, ?_⟩
    rintro k r rfl rfl
    rw [core_retire_self, core_releaseSlot, mring_retire, mring_releaseSlot]
    refine ⟨rfl, getD_set_self .., fun j hj => getD_set_ne _ _ _ hj.symm, ?_⟩
    rfl

/-! ## Bushel queues -/

theorem bqInsert_perm (e : BqEntry) (l : List BqEntry) : (bqInsert e l).Perm (e :: l) := by
  induction l with
  | nil => exact .refl _
  | cons h t ih =>
    unfold bqInsert
    split
    · exact .refl _
    · exact (ih.cons h).trans (.swap e h t)

theorem bqInsert_sorted (e : BqEntry) {l : List BqEntry} (hl : l.Pairwise (fun x y => x.key.toNat ≤ y.key.toNat)) :
    (bqInsert e l).Pairwise (fun x y => x.key.toNat ≤ y.key.toNat) := by
  induction l with
  | nil => exact List.pairwise_singleton ..
  | cons h t ih =>
    obtain ⟨hh, ht⟩ := List.pairwise_cons.1 hl
    unfold bqInsert
    split
    next hlt =>
      refine List.pairwise_cons.2 ⟨fun x hx => ?_, hl⟩
      rcases List.mem_cons.1 hx with rfl | hx
      · omega
      · have := hh x hx; omega
    next hle =>
      refine List.pairwise_cons.2 ⟨fun x hx => ?_, ih ht⟩
      rcases List.mem_cons.1 ((bqInsert_perm e t).mem_iff.1 hx) with rfl | hx
      · omega
      · exact hh x hx

/-- Within a key an entry goes behind those that stand already. -/
theorem bqInsert_filter (e : BqEntry) {l : List BqEntry} (hl : l.Pairwise (fun x y => x.key.toNat ≤ y.key.toNat)) (k : DWord) :
    (bqInsert e l).filter (fun x => x.key == k) = (l ++ [e]).filter (fun x => x.key == k) := by
  induction l with
  | nil => rfl
  | cons h t ih =>
    obtain ⟨hh, ht⟩ := List.pairwise_cons.1 hl
    unfold bqInsert
    split
    next hlt =>
      by_cases hk : e.key = k
      · have hnone : (h :: t).filter (fun x => x.key == k) = [] := by
          refine List.filter_eq_nil_iff.2 (fun x hx hc => ?_)
          have hxk : x.key = k := by simpa using hc
          subst hk
          rcases List.mem_cons.1 hx with rfl | hx
          · rw [hxk] at hlt; omega
          · have := hh x hx; rw [hxk] at this; omega
        rw [List.filter_append, hnone, List.filter_cons, hnone, List.filter_cons, List.nil_append, List.filter_nil]
      · simp [List.filter_cons, List.filter_append, hk]
    next => rw [List.filter_cons, ih ht, List.cons_append, List.filter_cons]

/-- The ranking by insertion, of a list ranked already and the entries to come. -/
theorem foldl_bqInsert (l acc : List BqEntry) (hacc : acc.Pairwise (fun x y => x.key.toNat ≤ y.key.toNat)) :
    (l.foldl (fun acc e => bqInsert e acc) acc).Perm (acc ++ l) ∧
    (l.foldl (fun acc e => bqInsert e acc) acc).Pairwise (fun x y => x.key.toNat ≤ y.key.toNat) ∧
    ∀ k : DWord, (l.foldl (fun acc e => bqInsert e acc) acc).filter (fun e => e.key == k) =
      (acc ++ l).filter (fun e => e.key == k) := by
  induction l generalizing acc with
  | nil => simpa using hacc
  | cons e l ih =>
    obtain ⟨hperm, hsort, hfil⟩ := ih (bqInsert e acc) (bqInsert_sorted e hacc)
    refine ⟨hperm.trans ?_, hsort, fun k => (hfil k).trans ?_⟩
    · exact ((bqInsert_perm e acc).append_right l).trans List.perm_middle.symm
    · rw [List.filter_append, bqInsert_filter e hacc, ← List.filter_append, List.append_assoc]; rfl

theorem bqRanked_spec (ctx : Nat) (l : List BqEntry) :
    (bqRanked ctx l).Perm (l.filter (fun e => e.ctx == ctx)) ∧
    (bqRanked ctx l).Pairwise (fun x y => x.key.toNat ≤ y.key.toNat) ∧
    ∀ k : DWord, (bqRanked ctx l).filter (fun e => e.key == k) = (l.filter (fun e => e.ctx == ctx)).filter (fun e => e.key == k) :=
  foldl_bqInsert (l.filter (fun e => e.ctx == ctx)) [] List.Pairwise.nil

theorem bqRanked_eq_nil {ctx : Nat} {l : List BqEntry} : bqRanked ctx l = [] ↔ ∀ e ∈ l, e.ctx ≠ ctx := by
  have h : bqRanked ctx l = [] ↔ l.filter (fun e => e.ctx == ctx) = [] :=
    ⟨fun h => (h ▸ (bqRanked_spec ctx l).1).nil_eq.symm, fun h => (h ▸ (bqRanked_spec ctx l).1).eq_nil⟩
  simp [h, List.filter_eq_nil_iff]

/-- An entry found among the first is the one found in the whole. -/
theorem find?_of_find?_take {α : Type} {p : α → Bool} {l : List α} {n : Nat} {e : α} (h : (l.take n).find? p = some e) :
    l.find? p = some e := by
  rw [← List.take_append_drop n l, List.find?_append, h]; rfl

/-- The entry chosen is of the four lowest ranked, and the oldest of its key. -/
theorem bqChoose_spec (free : Nat) {l : List BqEntry} (hl : l ≠ []) :
    ∃ e, bqChoose free l = some e ∧ e ∈ l.take 4 ∧ l.find? (fun x => x.key == e.key) = some e := by
  unfold bqChoose
  split
  next h => exact absurd h (by cases l <;> simp_all)
  next e h => exact ⟨e, rfl, by simp [h], find?_of_find?_take (n := 4) (by simp [h])⟩
  next e t ht h =>
    have hmem : (e :: t).getD (free % (t.length + 1)) e ∈ e :: t := by
      rw [List.getD_eq_getElem _ _ (by simpa using Nat.mod_lt _ (Nat.succ_pos _))]
      exact List.getElem_mem _
    generalize hpick : (e :: t).getD (free % (t.length + 1)) e = pick at hmem
    have hsome : ((e :: t).find? (fun y => y.key == pick.key)).isSome :=
      List.find?_isSome.2 ⟨pick, hmem, by simp⟩
    obtain ⟨x, hx⟩ := Option.isSome_iff_exists.1 hsome
    have hkey : x.key = pick.key := by simpa using List.find?_some hx
    rw [h]
    refine ⟨x, hx, List.mem_of_find?_eq_some hx, ?_⟩
    rw [hkey]
    exact find?_of_find?_take (n := 4) (h ▸ hx)

section Pop
variable {d : BitVec 4} {b : Reg} {y : BitVec 1} {q : BitVec 4} {s : State} {c : Nat}

theorem exec_bqPop (h : CoreReady s c [] [popLow d, popLow d + 1, b]) :
    exec (.bqPop d b y q) s = .next (finishM c 4 ((bqPopM d b y q false c (s.core c)).exec s)) :=
  seqRun_ready h (bqPopM d b y q false)

theorem exec_bqPopW (h : CoreReady s c [] [popLow d, popLow d + 1, b]) :
    exec (.bqPopW d b y q) s = .next (finishM c 4 ((bqPopM d b y q true c (s.core c)).exec s)) :=
  seqRun_ready h (bqPopM d b y q true)

theorem exec_bqPopM_illegal (h : d = 0 ∨ b = popLow d ∨ b = popLow d + 1) (waits : Bool) (x : CoreSt) :
    (bqPopM d b y q waits c x).exec s = (.error (.raise Cause.illegalOp 0), s) := by
  have h' : (decide (d = 0) || decide (b = popLow d) || decide (b = popLow d + 1)) = true := by simpa [or_assoc] using h
  unfold bqPopM
  simp only [exec_ite]
  exact if_pos h'

theorem exec_bqPopM_legal (h0 : d ≠ 0) (h1 : b ≠ popLow d) (h2 : b ≠ popLow d + 1) (hp : (s.core c).pend.any (fun p => p.acq) = false)
    (waits : Bool) : (bqPopM d b y q waits c (s.core c)).exec s =
      match bqChoose (Config.freePop s.freeNo) (bqRanked (s.coreCtx c) (s.bq (bqIndex c y q))) with
      | some e => (.ok .next, ({ s with
          bushels := AMap.set s.bushels (bqIndex c y q) (eraseBq e (s.bq (bqIndex c y q))), freeNo := s.freeNo + 1 } : State).updCore c
            (fun x => ((x.wr (popLow d) e.key).wr (popLow d + 1) e.value).wr b 0))
      | none => if waits then (.error .wait, s) else (.ok .next, s.updCore c (fun x => x.wr b 1)) := by
  have h' : ¬ (decide (d = 0) || decide (b = popLow d) || decide (b = popLow d + 1)) = true := by
    simpa [or_assoc] using And.intro h0 (And.intro h1 h2)
  unfold bqPopM
  simp only [exec_ite]
  refine (if_neg h').trans ?_
  simp only [exec_bind, exec_orderGate hp, exec_get]
  cases bqChoose (Config.freePop s.freeNo) (bqRanked (s.coreCtx c) (s.bq (bqIndex c y q))) with
  | some e =>
    simp only [exec_bind, exec_set, exec_putReg, exec_pure, updCore_updCore]
    rfl
  | none => cases waits <;> rfl

end Pop

/-- Settles O23: push and cnt by their firing, a pop by the choice among the four lowest ranked, and the ranking by insertion. -/
theorem bushelQueues : Obligations.BushelQueues := by
  unfold Obligations.BushelQueues
  refine ⟨⟨?push, ?cnt, ?pop⟩, bqRanked_spec⟩
  case push =>
    rintro d a b y q s c hr hd i rfl
    simp only [show exec (.bqPush d a b y q) s = execBqPush d a b y q s from rfl, execBqPush, seqRun_ready hr, exec_bind,
      hd.exec_orderGate, hd.exec_drainGate, exec_get, exec_ite]
    by_cases h : 4096 ≤ (s.bq (bqIndex c y q)).length
    · simp only [h, if_true, exec_putReg, exec_pure, finishM_next]; rfl
    · simp only [h, if_false, exec_set, exec_putReg, exec_pure, finishM_next]; rfl
  case cnt =>
    intro d y q s c hr
    simp only [show exec (.bqCnt d y q) s = execBqCnt d y q s from rfl, execBqCnt, seqRun_ready hr, exec_bind, exec_get,
      exec_putReg, exec_pure, finishM_next]
    rfl
  case pop =>
    intro d b y q s c hr
    rw [exec_bqPop hr, exec_bqPopW hr]
    refine ⟨fun h => ?_, fun h0 h1 h2 hp i hi => ?_⟩
    · rw [exec_bqPopM_illegal h, exec_bqPopM_illegal h]
      exact ⟨rfl, rfl⟩
    · subst hi
      rw [exec_bqPopM_legal h0 h1 h2 hp, exec_bqPopM_legal h0 h1 h2 hp]
      refine ⟨fun hnone => ?_, fun hsome => ?_⟩
      · rw [bqRanked_eq_nil.2 hnone]
        exact ⟨rfl, rfl⟩
      · have hne : bqRanked (s.coreCtx c) (s.bq (bqIndex c y q)) ≠ [] := fun h => by
          obtain ⟨e, he, hc⟩ := hsome
          exact bqRanked_eq_nil.1 h e he hc
        obtain ⟨e, hch, hmem, hfind⟩ := bqChoose_spec (Config.freePop s.freeNo) hne
        refine ⟨e, hmem, hfind, fun t ht => ?_⟩
        subst ht
        rw [hch]
        exact ⟨rfl, rfl⟩

end Sys2Proof.Machine
end

section
/-!
PROOFS. System registers and the SYS group (R159, R160, R168, R188, R221, R447).
-/
namespace Sys2Proof.Machine

/-! ## What a register number names -/

/-- A register's value as `csrOf` names it. -/
def Csr.listed (v : DWord) (writable : Bool) : Csr := if writable then .rw v else .ro v

theorem sstOf_eq (c : Nat) (x : CoreSt) : sstOf c x = BitVec.ofNat 64 ((if x.evt then 1 else 0) + (if x.rpl then 2 else 0) +
    (if x.mrh then 4 else 0) + (if c = Config.sceip then 8 else 0)) := by
  simp only [sstOf, bitAt, beq_iff_eq, Nat.reducePow]

theorem csrOf_coreRegisters (s : State) (c : Nat) : ∀ p ∈ coreRegisters s c, csrOf s c p.1 = .listed p.2.1 p.2.2 := by
  simp only [coreRegisters, List.forall_mem_cons]
  exact ⟨rfl, rfl, rfl, congrArg Csr.rw (sstOf_eq c _), rfl, rfl, rfl, rfl, rfl, rfl, rfl, List.forall_mem_nil _⟩

theorem csrOf_mgmtRegisters (s : State) : ∀ p ∈ mgmtRegisters s, csrOf s Config.sceip p.1 = .listed p.2.1 p.2.2 := by
  simp only [mgmtRegisters, List.forall_mem_cons]
  exact ⟨rfl, rfl, rfl, rfl, rfl, rfl, rfl, rfl, rfl, List.forall_mem_nil _⟩

theorem csrOf_listed {s : State} {c : Nat} {p : Nat × DWord × Bool} (h : p ∈ registersOf s c) : csrOf s c p.1 = .listed p.2.1 p.2.2 := by
  rcases List.mem_append.1 h with h | h
  · exact csrOf_coreRegisters s c p h
  · split at h
    next hc => rw [hc]; exact csrOf_mgmtRegisters s p h
    next => exact absurd h (List.not_mem_nil)

theorem csrOf_unlisted {s : State} {c n : Nat} (h : ∀ p ∈ registersOf s c, p.1 ≠ n) : csrOf s c n =
    if c ≠ Config.sceip ∧ 0x100 ≤ n ∧ n < 0x200 then .privileged else .illegal := by
  obtain ⟨hcore, hm⟩ := List.forall_mem_append.1 h
  simp only [coreRegisters, List.forall_mem_cons] at hcore
  obtain ⟨h0, h1, h2, h3, h4, h5, h6, h7, h8, h9, hA, -⟩ := hcore
  unfold csrOf
  dsimp only
  rw [if_neg h0.symm, if_neg h1.symm, if_neg h2.symm, if_neg h3.symm, if_neg h4.symm, if_neg h5.symm, if_neg h6.symm,
    if_neg h7.symm, if_neg h8.symm, if_neg h9.symm, if_neg hA.symm]
  by_cases hr : 0x100 ≤ n ∧ n < 0x200
  · rw [if_pos (by simpa using hr)]
    by_cases hc : c = Config.sceip
    · simp only [hc, if_true, mgmtRegisters, List.forall_mem_cons] at hm
      obtain ⟨m0, m1, m2, m3, m4, m5, m6, m7, m8, -⟩ := hm
      rw [if_neg (by simp [hc]), if_neg m0.symm, if_neg m1.symm, if_neg m2.symm, if_neg m3.symm, if_neg m4.symm, if_neg m5.symm,
        if_neg m6.symm, if_neg m7.symm, if_neg m8.symm, if_neg (fun h => h.1 hc)]
    · rw [if_pos (by simpa using hc), if_pos ⟨hc, hr⟩]
  · rw [if_neg (by simpa using hr), if_neg (fun h => hr h.2)]

/-! ## The register instructions -/

theorem exec_csrr {s : State} {c : Nat} {d : Reg} (n : BitVec 12) (h : CoreReady s c [] [d]) : exec (.csrr d n) s =
    match csrOf s c n.toNat with
    | .ro v | .rw v => .next (s.wrote c d v 4)
    | .privileged => .next (s.preciseFault c Cause.privFault 0)
    | .illegal => .next (s.preciseFault c Cause.illegalOp 0) := by
  rw [show exec (.csrr d n) s = execCsrr d n s from rfl, execCsrr, seqRun_ready h, exec_bind, exec_get]
  cases hv : csrOf s c n.toNat <;> simp only [hv] <;> rfl

theorem exec_csrUpdate (f : DWord → DWord) (n : BitVec 12) (c : Nat) (s : State) : (csrUpdate f n c).exec s =
    match csrOf s c n.toNat with
    | .rw v => (.ok .next, s.csrWrite c n.toNat (f v))
    | .privileged => (.error (.raise Cause.privFault 0), s)
    | _ => (.error (.raise Cause.illegalOp 0), s) := by
  rw [csrUpdate, exec_bind, exec_get]
  cases hv : csrOf s c n.toNat <;> simp only [hv] <;> rfl

section Write
variable {s : State} {c : Nat} {a : Reg} {n : BitVec 12} (h : CoreReady s c [a] [])
include h

theorem exec_csrw : exec (.csrw a n) s = .next (finishM c 4 ((csrUpdate (fun _ => (s.core c).gr a) n c).exec s)) :=
  seqRun_ready h (fun c x => csrUpdate (fun _ => x.gr a) n c)

theorem exec_csrs : exec (.csrs a n) s = .next (finishM c 4 ((csrUpdate (fun v => v ||| (s.core c).gr a) n c).exec s)) :=
  seqRun_ready h (fun c x => csrUpdate (fun v => v ||| x.gr a) n c)

theorem exec_csrc : exec (.csrc a n) s = .next (finishM c 4 ((csrUpdate (fun v => v &&& ~~~((s.core c).gr a)) n c).exec s)) :=
  seqRun_ready h (fun c x => csrUpdate (fun v => v &&& ~~~(x.gr a)) n c)

theorem exec_csrWrites_fault {cause : Byte} (hv : ∀ f, (csrUpdate f n c).exec s = (.error (.raise cause 0), s)) :
    ∀ i ∈ [Instr.csrw a n, .csrs a n, .csrc a n], exec i s = .next (s.preciseFault c cause 0) := by
  simp only [List.forall_mem_cons]
  rw [exec_csrw h, exec_csrs h, exec_csrc h, hv, hv, hv]
  exact ⟨rfl, rfl, rfl, List.forall_mem_nil _⟩

end Write

/-! ## What a write changes -/

theorem and_FFFF_low (v : DWord) : (v &&& 0xFFFF).extractLsb' 0 32 = (v.extractLsb' 0 16).zeroExtend 32 := by
  apply BitVec.eq_of_toNat_eq
  simp only [BitVec.extractLsb'_toNat, BitVec.toNat_and, BitVec.toNat_setWidth, Nat.shiftRight_zero]
  rw [show (0xFFFF : DWord).toNat = 2 ^ 16 - 1 from rfl, Nat.and_two_pow_sub_one_eq_mod]

theorem csrWrite_regWritten (s : State) (c : Nat) (v : DWord) : ∀ p ∈ regWritten s c v, s.csrWrite c p.1 v = p.2 := by
  simp only [regWritten, List.forall_mem_cons]
  exact ⟨rfl, rfl, rfl, rfl, rfl, congrArg (fun w : Word => { s with talert := w }) (and_FFFF_low v),
    congrArg (fun w : Word => { s with thyst := w }) (and_FFFF_low v),
    congrArg (fun w : Word => { s with tstress := w }) (and_FFFF_low v), rfl, rfl, List.forall_mem_nil _⟩

theorem csrWrite_sst (s : State) (c : Nat) (v : DWord) : s.csrWrite c 0x003 v = s.updCore c (fun x => writeSst x v) := rfl

theorem rpl_writeSst (x : CoreSt) (v : DWord) : (writeSst x v).rpl = v.getLsbD 1 := by
  unfold writeSst CoreSt.rpl
  cases h : x.replay.isSome <;> cases h' : x.slotHeld <;> simp [h]

theorem mrh_writeSst (x : CoreSt) (v : DWord) : (writeSst x v).mrh = v.getLsbD 2 := by
  unfold writeSst CoreSt.mrh
  cases h : x.replay.isSome <;> cases h' : x.slotHeld <;> simp

theorem writeSst_frame (x : CoreSt) (v : DWord) : (writeSst x v).evt = v.getLsbD 0 ∧
    { writeSst x v with evt := x.evt, rplSet := x.rplSet, rplClear := x.rplClear, mrhSet := x.mrhSet, mrhClear := x.mrhClear } = x := by
  unfold writeSst
  dsimp only
  split <;> split <;> exact ⟨rfl, rfl⟩

/-- Settles O24: a register's value and kind by the table, its write by cases of its number, and each SYS instruction. -/
theorem systemRegistersAndInstructions : Obligations.SystemRegistersAndInstructions := by
  unfold Obligations.SystemRegistersAndInstructions
  refine ⟨?access, ⟨csrWrite_regWritten, ?sst, ?prst⟩, ?sys⟩
  case access =>
    intro d a n s c hr
    have hread : CoreReady s c [] [d] := hr.weaken (List.forall_mem_nil _) (by simp)
    have hwrite : CoreReady s c [a] [] := hr.weaken (by simp) (by simp)
    refine ⟨fun p hp hn => ?_, fun hn => ?_⟩
    · have hv : csrOf s c n.toNat = .listed p.2.1 p.2.2 := hn ▸ csrOf_listed hp
      refine ⟨?_, fun hw => ?_, fun hw => ?_⟩
      · rw [exec_csrr n hread, hv]
        cases p.2.2 <;> rfl
      · rw [hw] at hv
        rw [exec_csrw hwrite, exec_csrs hwrite, exec_csrc hwrite, exec_csrUpdate, exec_csrUpdate, exec_csrUpdate, hv]
        exact ⟨rfl, rfl, rfl⟩
      · rw [hw] at hv
        exact exec_csrWrites_fault hwrite (fun f => by rw [exec_csrUpdate, hv]; rfl)
    · have hv := csrOf_unlisted hn
      rw [List.forall_mem_cons, exec_csrr n hread, hv]
      split_ifs at hv ⊢ with hc
      · exact ⟨rfl, exec_csrWrites_fault hwrite (fun f => by rw [exec_csrUpdate, hv])⟩
      · exact ⟨rfl, exec_csrWrites_fault hwrite (fun f => by rw [exec_csrUpdate, hv])⟩
  case sst =>
    rintro s c v y rfl
    rw [csrWrite_sst, core_updCore_self]
    obtain ⟨hevt, hrest⟩ := writeSst_frame (s.core c) v
    exact ⟨hevt, rpl_writeSst .., mrh_writeSst .., hrest, fun k hk => core_updCore_ne s _ hk.symm, rfl⟩
  case prst =>
    rintro s c v b rfl
    simp only [← Bool.and_eq_true]
    rfl
  case sys =>
    intro s c hr
    simp only [show exec .wait s = execWait s from rfl, show exec .halt s = execHalt s from rfl,
      show ∀ i, exec (.trap i) s = execTrap i s from fun _ => rfl, show exec .eret s = execEret s from rfl,
      show exec .sbar s = execSbar s from rfl, execWait, execHalt, execTrap, execEret, execSbar, seqCtl_ready hr]
    refine ⟨fun hw => by rw [hw]; rfl, fun w hw => ?_, rfl, fun _ => trivial, ?_, ?_⟩
    · rw [hw]
      simp only [Bool.or_eq_true, decide_eq_true_eq]
      rfl
    · split <;> rfl
    · have hany : s.streams.any (fun t => t.core == c) = true ↔ ¬ s.streamCount c = 0 := by
        simp [State.streamCount, List.filter_eq_nil_iff]
      by_cases h0 : s.streamCount c = 0
      · rw [if_neg (fun h => hany.1 h h0), if_pos h0]
      · rw [if_pos (hany.2 h0), if_neg h0]

end Sys2Proof.Machine
end

section
/-!
PROOFS. Precise faults, events and failed fetches (R158, R164, R168, R221, R222, R450).
-/
namespace Sys2Proof.Machine

/-! ## Leaving an instruction (R167) -/

theorem leftInstr_leaveInstr (s : State) (c : Nat) : LeftInstr s (s.leaveInstr c) c where
  answers q hq hr := List.mem_filter.2 ⟨hq, by simpa using hr⟩
  waits v hv ho := List.mem_filter.2 ⟨hv, by simpa using ho⟩
  queued v hv ho := List.mem_filter.2 ⟨hv, by simpa using ho⟩
  asked q hq hr := List.mem_filter.2 ⟨hq, by
    simp only [Bool.not_eq_true', Bool.and_eq_false_iff, beq_eq_false_iff_ne, List.any_eq_false, List.mem_filter, beq_iff_eq]
    by_cases hk : q.kind = .vst
    · exact .inr (fun r hm => hr hk r hm.1 hm.2)
    · exact .inl hk⟩
  rest := rfl

/-- What is done to the cores besides does not matter. -/
theorem LeftInstr.of_cores {s t u v : State} {c : Nat} (h : LeftInstr t u c) (ht : t = { s with cores := t.cores })
    (hv : v = { u with cores := v.cores }) : LeftInstr s v c := by
  obtain ⟨h1, h2, h3, h4, h5⟩ := h
  rw [hv]
  rw [ht] at h1 h2 h3 h4 h5
  exact ⟨h1, h2, h3, h4, congrArg (fun z : State => { z with cores := s.cores }) h5⟩

theorem leftInstr_leaveInstr_setCore (s : State) (c k : Nat) (x : CoreSt) : LeftInstr s ((s.setCore k x).leaveInstr c) c :=
  (leftInstr_leaveInstr (s.setCore k x) c).of_cores rfl rfl

theorem leftInstr_updCore_leaveInstr (s : State) (c k : Nat) (f : CoreSt → CoreSt) : LeftInstr s ((s.leaveInstr c).updCore k f) c :=
  (leftInstr_leaveInstr s c).of_cores rfl rfl

/-! ## Events and fetches -/

theorem exec_eventTake (c : Nat) (s : State) : exec (.eventTake c) s = execEventTake c s := rfl
theorem exec_fetchFault (c : Nat) (s : State) : exec (.fetchFault c) s = execFetchFault c s := rfl
theorem exec_seqIllegalOp (c : Nat) (s : State) : exec (.seqIllegalOp c) s = execSeqIllegalOp c s := rfl

theorem core_takeEvent_self (s : State) (c : Nat) (e : Event) : (s.takeEvent c e).core c = { s.core c with
    epc := (s.core c).pc, ecause := e.cause.zeroExtend 64, eaddr := e.addr, erg := e.word, evt := true, pc := (s.core c).evec
    events := eraseEvent (s.core c).events e, waitFrom := none, woken := false } := core_updCore_self ..

theorem core_takeEvent_ne (s : State) {c k : Nat} (e : Event) (h : k ≠ c) : (s.takeEvent c e).core k = s.core k :=
  core_updCore_ne _ _ h.symm

theorem eventReady_eq_none {s : State} {c : Nat} (h : s.nextEvent c = none ∨ (s.core c).evec = 0 ∨ (s.core c).evt = true) :
    s.eventReady c = none := by
  unfold State.eventReady
  rcases h with h | h | h <;> simp [h]

theorem fetchesNow_of_idle {s : State} {c : Nat} (h : s.coreRuns c = false ∨ (c ≠ 256 ∧ s.slotOpen c = false)) :
    s.fetchesNow c = false := by
  have hruns : s.coreRuns c = false := by
    rcases h with h | ⟨hc, ho⟩
    · exact h
    · have hc' : (c == Config.sceip) = false := beq_eq_false_iff_ne.2 hc
      simp [State.coreRuns, hc', ho]
  simp [State.fetchesNow, hruns]

/-- Settles O25: a fault by the state it leaves before its record, an event by its conditions, and the two faults of a fetch. -/
theorem faultsAndEventsEnter : Obligations.FaultsAndEventsEnter := by
  unfold Obligations.FaultsAndEventsEnter
  refine ⟨fun s c cause addr => ⟨(s.setCore c ((s.core c).faulted cause addr)).leaveInstr c, ?_, fun k hk => ?_, ?_, ?_⟩,
    fun s c e he hrun hvec hevt => ⟨?_, ?_, fun k hk => ?_, ?_⟩, fun s c h => ?_, fun s c d hd hlim => ?_,
    fun s s1 c cause addr hn hf => ?_, fun s s1 c why hn hf => ?_, fun s c h => ?_⟩
  case refine_1 => rw [core_leaveInstr, core_setCore_self]
  case refine_2 => rw [core_leaveInstr, core_setCore_ne _ _ hk.symm]
  case refine_3 => exact leftInstr_leaveInstr_setCore ..
  case refine_4 => exact preciseFault_eq ..
  case refine_5 =>
    have hready : s.eventReady c = some e := by simpa [State.eventReady, hrun, hevt, he] using hvec
    rw [exec_eventTake, execEventTake, hready]
  case refine_6 => exact core_takeEvent_self ..
  case refine_7 => exact core_takeEvent_ne s e hk
  case refine_8 => exact leftInstr_updCore_leaveInstr ..
  case refine_9 => rw [exec_eventTake, execEventTake, eventReady_eq_none h]
  case refine_10 =>
    rw [show exec (.waitTimeout c) s = execWaitTimeout c s from rfl, execWaitTimeout, hd]
    exact congrArg Host.Outcome.next (if_pos hlim)
  case refine_11 => simp [exec_fetchFault, execFetchFault, hn, hf]
  case refine_12 =>
    simp [exec_seqIllegalOp, execSeqIllegalOp, hn, hf, Cause.illegalOp]
  case refine_13 => simp [exec_fetchFault, exec_seqIllegalOp, execFetchFault, execSeqIllegalOp, fetchesNow_of_idle h]

end Sys2Proof.Machine
end

section
/-!
PROOFS. Asynchronous results of a sequencer (R166, R169, R177, R178, R313, R325, R442).
-/
namespace Sys2Proof.Machine

/-! ## A result and its register -/

theorem core_giveResult (s : State) (c : Nat) (p : Pend) (v : DWord) (poison : Bool) : (s.giveResult c p v poison).core c =
    if poison then ((s.core c).unpend p.id).mark (BitVec.ofNat 5 p.reg) else ((s.core c).unpend p.id).wr (BitVec.ofNat 5 p.reg) v :=
  core_updCore_self ..

theorem pc_mark (x : CoreSt) (r : Reg) : (x.mark r).pc = x.pc := by
  unfold CoreSt.mark; split <;> rfl

theorem pc_wr (x : CoreSt) (r : Reg) (v : DWord) : (x.wr r v).pc = x.pc := by
  unfold CoreSt.wr; split <;> rfl

theorem ctx_mark (x : CoreSt) (r : Reg) : (x.mark r).ctx = x.ctx := by
  unfold CoreSt.mark; split <;> rfl

theorem ctx_wr (x : CoreSt) (r : Reg) (v : DWord) : (x.wr r v).ctx = x.ctx := by
  unfold CoreSt.wr; split <;> rfl

theorem pc_giveResult (s : State) (c : Nat) (p : Pend) (v : DWord) (poison : Bool) :
    ((s.giveResult c p v poison).core c).pc = (s.core c).pc := by
  rw [core_giveResult]
  cases poison
  · exact pc_wr ..
  · exact pc_mark ..

theorem value_load {p : Pend} {n : Nat} {sg : Bool} (hn : n ≤ 8) (h : p.kind = .load n sg) (v : Nat) :
    p.value v = widened n sg (v % 2 ^ (8 * n)) := by
  rw [Pend.value, h]
  exact extend_eq_widened hn sg _

theorem value_amo {p : Pend} {n : Nat} (h : p.kind = .amo n) (v : Nat) : p.value v = BitVec.ofNat 64 (v % 2 ^ (8 * n)) := by
  rw [Pend.value, h]

theorem value_vld {p : Pend} (h : p.kind = .vld) (v : Nat) : p.value v = BitVec.ofNat 64 v := by
  rw [Pend.value, h]

/-! ## A held access -/

section Held
variable {s : State} {c : Nat} {h : Held} {reply : Reply}

theorem exec_arrival_held {id : Nat} (hf : (s.core c).held.find? (fun g => g.id == id) = some h) :
    exec (.seqResultArrival c id reply) s = .next (s.performHeld c h) := by
  rw [show exec (.seqResultArrival c id reply) s = execSeqResultArrival c id reply s from rfl, execSeqResultArrival]
  simp only [hf]

theorem performHeld_waits (hr : s.heldReady c h ((s.core c).held.takeWhile (fun g => g.id != h.id)) = false) :
    s.performHeld c h = s := by
  unfold State.performHeld
  rw [hr]
  rfl

variable (hr : s.heldReady c h ((s.core c).held.takeWhile (fun g => g.id != h.id)) = true)
include hr

theorem performHeld_away (hm : h.mt = 0) (hl : s.isLocal h.pa = false) : s.performHeld c h = s.askHeld c h := by
  unfold State.performHeld
  rw [hr, if_neg (by simp), if_pos (by simp [hm, hl])]

theorem performHeld_here (hh : h.mt ≠ 0 ∨ s.isLocal h.pa = true) {v : Nat} {poison : Bool} {s1 : State}
    (hx : (heldM (whoCore s c) h).exec s = (.ok (v, poison), s1)) : s.performHeld c h =
      match (s.core c).pend.find? (fun q => q.id == h.id) with
      | some q => (s1.updCore c (fun x => { x with held := x.held.filter (fun g => g.id != h.id) })).giveResult c q (q.value v) poison
      | none => s1.updCore c (fun x => { x with held := x.held.filter (fun g => g.id != h.id) }) := by
  have hn : ¬ (decide (h.mt = 0) && !s.isLocal h.pa) = true := by
    rcases hh with hh | hh <;> simp [hh]
  unfold State.performHeld
  rw [hr, if_neg (by simp), if_neg hn, hx] <;> rfl

end Held

theorem askHeld_store {s : State} {c : Nat} {h : Held} (hr : s.reachable (pkgOf h.pa) = true) (hk : h.kind = .store) : s.askHeld c h =
    ((s.updCore c (fun x => { x with held := x.held.filter (fun g => g.id != h.id) })).sendAs h.id .write (.core c h.id) h.ctx h.pa h.size
      (BitVec.ofNat 512 h.op)).updCore c (fun x => { x with remoteWrites := x.remoteWrites ++ [⟨h.id, h.va, h.pc, false⟩] }) := by
  simp only [State.askHeld, hr, Held.line, hk, HeldKind.request, Bool.not_true, Bool.false_eq_true, if_false, if_true]

theorem askHeld_asks {s : State} {c : Nat} {h : Held} (hr : s.reachable (pkgOf h.pa) = true) (hk : h.kind ≠ .store) : s.askHeld c h =
    ((s.updCore c (fun x => { x with held := x.held.filter (fun g => g.id != h.id) })).sendAs h.id
      (if h.kind = .load then .load else .atomic) (.core c h.id) h.ctx h.pa h.size
      (if h.kind = .load then 0 else BitVec.ofNat 512 (h.op + 2 ^ 64 * h.new))).updCore c (fun x => { x with
        pend := x.pend.map (fun p => if p.id = h.id then { p with remote := true } else p) }) := by
  simp only [State.askHeld, hr, Bool.not_true, Bool.false_eq_true, if_false, hk]
  cases hh : h.kind with
  | store => exact absurd hh hk
  | load => simp only [Held.line, hh, HeldKind.request, if_true]; rfl
  | amo k => simp only [Held.line, hh, HeldKind.request, reduceCtorEq, if_false]; rfl

theorem askHeld_unreachable {s : State} {c : Nat} {h : Held} (hr : s.reachable (pkgOf h.pa) = false) : s.askHeld c h =
    match (s.core c).pend.find? (fun q => q.id == h.id) with
    | some q => ((s.updCore c (fun x => { x with held := x.held.filter (fun g => g.id != h.id) })).linkLost h.ctx h.pa).giveResult c q 0 true
    | none => (s.updCore c (fun x => { x with held := x.held.filter (fun g => g.id != h.id) })).linkLost h.ctx h.pa := by
  unfold State.askHeld
  rw [hr, if_pos (by simp)] <;> rfl

/-! ## An answer of another package -/

section Answer
variable {s : State} {c id : Nat} {p : Pend} {reply : Reply} (hh : (s.core c).held.find? (fun g => g.id == id) = none)
  (hp : (s.core c).pend.find? (fun q => q.id == id) = some p)
include hh hp

theorem exec_arrival_known {v : DWord} {poison : Bool} (hv : p.result = some (v, poison)) :
    exec (.seqResultArrival c id reply) s = .next (s.giveResult c p (p.value v.toNat) poison) := by
  rw [show exec (.seqResultArrival c id reply) s = execSeqResultArrival c id reply s from rfl, execSeqResultArrival]
  simp only [hh, hp, hv]

theorem exec_arrival_kill (hv : p.result = none) (hk : p.kind = .kill) : exec (.seqResultArrival c id reply) s = .next
    (if s.killDone id then ({ s with kills := s.kills.filter (fun k => k.pend != id) } : State).giveResult c p 0 false else s) := by
  rw [show exec (.seqResultArrival c id reply) s = execSeqResultArrival c id reply s from rfl, execSeqResultArrival]
  simp only [hh, hp, hv, hk, if_true]

theorem exec_arrival_answer (hv : p.result = none) (hk : p.kind ≠ .kill) {q : Req}
    (hq : s.reqs.find? (fun q => q.completed && !q.kind.isWrite && q.owner == .core c id) = some q) :
    exec (.seqResultArrival c id reply) s = .next (s.remoteResult c p q reply) := by
  rw [show exec (.seqResultArrival c id reply) s = execSeqResultArrival c id reply s from rfl, execSeqResultArrival]
  simp only [hh, hp, hv, hk, if_false, hq]

end Answer

theorem killDone_iff (s : State) (id : Nat) : s.killDone id = true ↔ ∀ k ∈ s.kills, k.pend = id → ∀ q ∈ s.reqs, q.ctx ≠ k.ctx := by
  simp only [State.killDone, List.all_eq_true, Bool.or_eq_true, bne_iff_ne, Bool.not_eq_true', List.any_eq_false, beq_iff_eq]
  exact forall₂_congr fun k _ => ⟨fun h hk => h.resolve_left (fun hn => hn hk), fun h => by
    by_cases hk : k.pend = id
    · exact .inr (h hk)
    · exact .inl hk⟩

/-- The state without the request that was answered. -/
def State.answered (s : State) (q : Req) : State := { s with reqs := s.reqs.filter (fun x => x.id != q.id) }

section Result
variable {s : State} {c : Nat} {p : Pend} {q : Req} {reply : Reply}

theorem remoteResult_plain (hv : p.kind = .vld → reply.version ≠ 1 ∧ reply.version ≠ 2)
    (ha : (∃ n, p.kind = .amo n) → reply.applied = false ∧ reply.refused = false) :
    s.remoteResult c p q reply = (s.answered q).giveResult c p (p.value reply.data.toNat) reply.poison := by
  unfold State.remoteResult
  cases hk : p.kind with
  | amo n =>
    obtain ⟨happ, href⟩ := ha ⟨n, hk⟩
    simp only [happ, href]
    rfl
  | vld =>
    obtain ⟨h1, h2⟩ := hv hk
    simp only [h1, h2]
    rfl
  | _ => rfl

theorem remoteResult_refused {n : Nat} (hk : p.kind = .amo n) (hr : reply.refused = true) : s.remoteResult c p q reply =
    ((s.answered q).updCore c (fun x => x.unpend p.id)).lateFault c q.ctx false p.addr p.pc := by
  unfold State.remoteResult
  simp only [hk, hr]
  rfl

/-- The fault of a refused access, of a core that runs. -/
theorem lateFault_running {s : State} {c ctx k : Nat} {x : CoreSt} {va pc : DWord} (hx : s.core c = x) (hr : x.run = .running)
    (hc : s.coreCtx c = k) : s.lateFault c ctx false va pc = (s.setCore c { x with
      run := .stopped, epc := x.pc, ecause := Cause.permFault.zeroExtend 64, eaddr := va, waitFrom := none, woken := false }).record
      { cause := Cause.permFault, cls := 0, mkind := 1, ctx := k, mid := midCore c, addr := va, loc := coreSector c, pc := pc } := by
  subst hx hc
  unfold State.lateFault
  rw [if_neg (by simp [hr])]

/-- The state of a core whose atomic another package applied, before its record (R177). -/
def State.appliedStop (s : State) (c : Nat) (p : Pend) (r : Reply) : State :=
  (s.giveResult c p (p.value r.data.toNat) (!r.oldSent)).updCore c (fun x => { x with
    run := .stopped, epc := x.pc, ecause := Cause.remoteAppliedErr.zeroExtend 64, eaddr := p.addr, waitFrom := none, woken := false })

theorem core_appliedStop (s : State) (c : Nat) (p : Pend) (r : Reply) : (s.appliedStop c p r).core c =
    { (s.giveResult c p (p.value r.data.toNat) (!r.oldSent)).core c with
      run := .stopped, epc := (s.core c).pc, ecause := 0x41, eaddr := p.addr, waitFrom := none, woken := false } := by
  rw [State.appliedStop, core_updCore_self]
  exact congrArg (fun e : DWord => { (s.giveResult c p (p.value r.data.toNat) (!r.oldSent)).core c with
    run := .stopped, epc := e, ecause := 0x41, eaddr := p.addr, waitFrom := none, woken := false }) (pc_giveResult ..)

theorem remoteResult_applied {n : Nat} (hk : p.kind = .amo n) (hr : reply.refused = false) (ha : reply.applied = true) :
    s.remoteResult c p q reply = (s.answered q).appliedErr c p reply := by
  unfold State.remoteResult
  simp only [hk, hr, ha]
  rfl

theorem remoteResult_gone (hk : p.kind = .vld) (hr : reply.version = 1) (hw : p.vldWait = none) :
    s.remoteResult c p q reply = (s.answered q).vldGone c p := by
  unfold State.remoteResult
  simp only [hk, hr, hw]
  rfl

theorem remoteResult_open (hk : p.kind = .vld) (hr : reply.version = 2) : s.remoteResult c p q reply =
    (s.stillOpen q.id).updCore c (fun x => x.updPend p.id (fun y => { y with vldWait := some (q.addr / 8, q.data.extractLsb' 0 32) })) := by
  unfold State.remoteResult
  simp only [hk, hr]
  rfl

end Result

/-- Settles O29: a held access by its way, a known result by its register, and an answer by the kind of what asked. -/
theorem sequencerResultArrives : Obligations.SequencerResultArrives := by
  unfold Obligations.SequencerResultArrives
  refine ⟨?held, ?known, ?answer, ?kill, ?give, ?value⟩
  case held =>
    intro s c h reply hf
    rw [exec_arrival_held hf]
    refine ⟨fun hr => by rw [performHeld_waits hr], fun hr hm hl s1 hs1 => ?_, fun hr hh v poison s1 s2 hx hs2 => ?_⟩
    · subst hs1
      rw [performHeld_away hr hm hl]
      refine ⟨fun hre hk => by rw [askHeld_store hre hk], fun hre hk => by rw [askHeld_asks hre hk], fun hre => ?_⟩
      exact congrArg Host.Outcome.next (askHeld_unreachable hre)
    · subst hs2
      exact congrArg Host.Outcome.next (performHeld_here hr hh hx)
  case known => exact fun s c id p v poison reply hh hp hv => exec_arrival_known hh hp hv
  case answer =>
    rintro s c id p q reply hh hp hv hk hq s1 rfl
    rw [exec_arrival_answer hh hp hv hk hq]
    refine ⟨fun h1 h2 => by rw [remoteResult_plain h1 h2]; rfl, fun n hn href hrun => ?_, fun n hn href happ => ?_, fun hn hver hw => ?_,
      fun hn hver => by rw [remoteResult_open hn hver]; rfl⟩
    · rw [remoteResult_refused hn href]
      refine ⟨_, rfl, ((s.answered q).updCore c (fun x => x.unpend p.id)).setCore c { (s.core c).unpend p.id with
        run := .stopped, epc := (s.core c).pc, ecause := Cause.permFault.zeroExtend 64, eaddr := p.addr, waitFrom := none
        woken := false }, core_setCore_self .., ?_⟩
      exact lateFault_running (by rw [core_updCore_self]; rfl) hrun (coreCtx_setCore _ _ _ _ rfl)
    · rw [remoteResult_applied hn href happ]
      exact ⟨_, rfl, (s.answered q).appliedStop c p reply, core_appliedStop (s.answered q) c p reply, rfl⟩
    · rw [remoteResult_gone hn hver hw]; rfl
  case kill =>
    intro s c id p reply hh hp hv hk
    rw [exec_arrival_kill hh hp hv hk]
    simp only [killDone_iff]
  case give => exact fun s c p v poison => core_giveResult ..
  case value =>
    refine fun p v => ⟨fun n sg hn hk => value_load ?_ hk v, fun n hk => value_amo hk v, fun hk => value_vld hk v⟩
    rcases hn with rfl | rfl | rfl | rfl <;> decide

end Sys2Proof.Machine
end

section
/-!
PROOFS. The MGMT group, contexts, throttle, sensors and the event log (R224, R225, R393, R451).
-/
namespace Sys2Proof.Machine

/-! ## The MGMT group -/

theorem mgmtRun_privFault {s : State} {c : Nat} (ht : s.act = .core c) (hc : c ≠ Config.sceip) (reads writes : List Reg)
    (m : Nat → CoreSt → Mach Flow) : mgmtRun reads writes s m = .next (s.preciseFault c Cause.privFault 0) := by
  unfold mgmtRun
  rw [ht]
  exact if_pos (bne_iff_ne.2 hc)

theorem mgmtRun_ready {s : State} {reads writes : List Reg} (h : CoreReady s 256 reads writes) (m : Nat → CoreSt → Mach Flow) :
    mgmtRun reads writes s m = .next (finishM 256 4 ((m 256 (s.core 256)).exec s)) := by
  unfold mgmtRun
  rw [h.turn]
  exact seqRun_ready h m

@[simp] theorem exec_mgmtArg {α : Type} (s : State) : (mgmtArg : Mach α).exec s = (.error (.raise Cause.mgmtArg 0), s) := rfl

/-- A command that checks its arguments, which are right if q, and then changes the state. -/
theorem finishM_checked {p q : Prop} [Decidable p] [Decidable q] (hpq : p ↔ ¬ q) (c : Nat) (s : State) (f : State → State) :
    finishM c 4 ((if p then mgmtArg >>= fun (_ : PUnit) => modify f >>= fun _ => pure Flow.next else
      modify f >>= fun _ => pure Flow.next : Mach Flow).exec s) =
      if q then (f s).retire c 4 .next else s.preciseFault c Cause.mgmtArg 0 := by
  by_cases h : q
  · rw [if_neg (fun hp => hpq.1 hp h), if_pos h]; rfl
  · rw [if_pos (hpq.2 h), if_neg h]; rfl

theorem mgmtCommands_privFault (d a b : Reg) {s : State} {c : Nat} (ht : s.act = .core c) (hc : c ≠ Config.sceip) :
    ∀ i ∈ mgmtCommands d a b, exec i s = .next (s.preciseFault c Cause.privFault 0) := by
  simp only [mgmtCommands, List.forall_mem_cons]
  exact ⟨mgmtRun_privFault ht hc _ _ _, mgmtRun_privFault ht hc _ _ _, mgmtRun_privFault ht hc _ _ _, mgmtRun_privFault ht hc _ _ _,
    mgmtRun_privFault ht hc _ _ _, mgmtRun_privFault ht hc _ _ _, mgmtRun_privFault ht hc _ _ _, mgmtRun_privFault ht hc _ _ _,
    mgmtRun_privFault ht hc _ _ _, mgmtRun_privFault ht hc _ _ _, mgmtRun_privFault ht hc _ _ _, mgmtRun_privFault ht hc _ _ _,
    List.forall_mem_nil _⟩

/-! ## Throttle -/

theorem sector_updSector_self (s : State) (n : Nat) (f : SectorSt → SectorSt) : (s.updSector n f).sector n = f (s.sector n) :=
  getD_set_self ..

theorem sector_updSector_ne (s : State) {n m : Nat} (f : SectorSt → SectorSt) (h : n ≠ m) : (s.updSector n f).sector m = s.sector m :=
  getD_set_ne _ _ _ h

/-- The throttle of the sectors named, and nothing else of them or of the part. -/
theorem throttleAll_spec (k : Nat) (l : List Nat) (s : State) :
    (∀ n, ((throttleAll k l s).sector n).k = if n ∈ l then k else (s.sector n).k) ∧
    (∀ n, { (throttleAll k l s).sector n with k := (s.sector n).k } = s.sector n) ∧
    { throttleAll k l s with sectors := s.sectors } = s := by
  induction l generalizing s with
  | nil => exact ⟨fun n => rfl, fun n => rfl, rfl⟩
  | cons m l ih =>
    obtain ⟨hk, hrest, hs⟩ := ih (s.updSector m (fun x => { x with k := k }))
    refine ⟨fun n => ?_, fun n => ?_, ?_⟩
    · rw [throttleAll, hk]
      by_cases hn : n ∈ l
      · simp [hn]
      · by_cases hm : n = m
        · simp [hm, sector_updSector_self]
        · simp [hn, hm, sector_updSector_ne _ _ (Ne.symm hm)]
    · have h := congrArg (fun z : SectorSt => { z with k := (s.sector n).k }) (hrest n)
      by_cases hm : m = n
      · subst hm
        rw [sector_updSector_self] at h
        exact h
      · rw [sector_updSector_ne _ _ hm] at h
        exact h
    · exact congrArg (fun z : State => { z with sectors := s.sectors }) hs

/-- The sectors that thr.set names with v (R225). -/
def throttled (v : Nat) : List Nat := if v % 2 ^ 16 = 0xFFFF then List.range 256 else [v % 256]

theorem mem_throttled {v n : Nat} (hn : n < 256) : n ∈ throttled v ↔ v % 2 ^ 16 = 0xFFFF ∨ v % 256 = n := by
  unfold throttled
  by_cases h : v % 2 ^ 16 = 0xFFFF
  · rw [if_pos h]
    exact iff_of_true (List.mem_range.2 hn) (.inl h)
  · rw [if_neg h, List.mem_singleton]
    exact ⟨fun e => .inr e.symm, fun e => (e.resolve_left h).symm⟩

theorem exec_thrSet {s : State} {d a : Reg} (h : CoreReady s 256 [d, a] []) : exec (.thrSet d a) s = .next
    (if 1 ≤ ((s.core 256).gr a).toNat ∧ ((s.core 256).gr a).toNat ≤ 8
      then (throttleAll ((s.core 256).gr a).toNat (throttled ((s.core 256).gr d).toNat) s).retire 256 4 .next
      else s.preciseFault 256 Cause.mgmtArg 0) := by
  rw [show exec (.thrSet d a) s = execThrSet d a s from rfl, execThrSet, mgmtRun_ready h]
  exact congrArg Host.Outcome.next (finishM_checked (by simp; omega) 256 s _)

/-! ## The event log -/

theorem getLsbD_evlMask (k : Nat) (hk : k < 256) : (~~~(0xFFFFFFFF0000C000 : BitVec 256)).getLsbD k =
    !(k == 14 || k == 15 || (decide (32 ≤ k) && decide (k < 64))) := by
  rw [show (0xFFFFFFFF0000C000 : BitVec 256) =
    (BitVec.allOnes 32).zeroExtend 256 <<< 32 ||| (BitVec.allOnes 2).zeroExtend 256 <<< 14 from rfl]
  rw [Bool.eq_iff_iff]
  simp only [BitVec.getLsbD_not, BitVec.getLsbD_or, BitVec.getLsbD_shiftLeft, BitVec.getLsbD_setWidth, BitVec.getLsbD_allOnes,
    Bool.and_eq_true, Bool.not_eq_true', Bool.or_eq_false_iff, Bool.and_eq_false_iff, decide_eq_true_eq, decide_eq_false_iff_not,
    Bool.not_eq_false', beq_eq_false_iff_ne]
  omega

theorem getLsbD_evlClean (v : BitVec 256) (k : Nat) : (evlClean v).getLsbD k =
    (!(k == 14 || k == 15 || (decide (32 ≤ k) && decide (k < 64))) && v.getLsbD k) := by
  rw [evlClean, BitVec.getLsbD_and, Bool.and_comm]
  by_cases hk : k < 256
  · rw [getLsbD_evlMask k hk]
  · rw [BitVec.getLsbD_of_ge v k (by omega), Bool.and_false, Bool.and_false]

theorem wordsNat_four {w0 w1 w2 w3 : Nat} (h0 : w0 < 2 ^ 64) (h1 : w1 < 2 ^ 64) (h2 : w2 < 2 ^ 64) (h3 : w3 < 2 ^ 64) :
    wordsNat [w0, w1, w2, w3] = w0 + 2 ^ 64 * w1 + 2 ^ 128 * w2 + 2 ^ 192 * w3 := by
  simp only [wordsNat, Nat.mod_eq_of_lt h0, Nat.mod_eq_of_lt h1, Nat.mod_eq_of_lt h2, Nat.mod_eq_of_lt h3]
  omega

/-- Settles O27: the privilege of the group, and each command by its arguments. -/
theorem managementPrivilegeAndContexts : Obligations.ManagementPrivilegeAndContexts := by
  unfold Obligations.ManagementPrivilegeAndContexts
  refine ⟨fun d a b s c ht hc => mgmtCommands_privFault d a b ht hc, ?_⟩
  rintro d a s x v rfl rfl
  refine ⟨fun hr => ⟨?ten, ?root, ?bad, ?thr⟩, fun hr => ?snsr, fun hr => ⟨?put, ?fault⟩⟩
  case ten =>
    rw [show exec (.ctxTen d a) s = execCtxTen d a s from rfl, execCtxTen, mgmtRun_ready hr]
    exact congrArg Host.Outcome.next (finishM_checked (by simp; omega) 256 s _)
  case root =>
    rw [show exec (.ctxRoot d a) s = execCtxRoot d a s from rfl, execCtxRoot, mgmtRun_ready hr]
    exact congrArg Host.Outcome.next (finishM_checked (by simp only [Bool.or_eq_true, decide_eq_true_eq, bne_iff_ne,
      Bool.not_eq_true', not_and_or, not_le, not_lt, Bool.not_eq_true, ne_eq, or_assoc]) 256 s _)
  case bad =>
    intro hv
    rw [exec_thrSet hr, if_neg (by omega)]
  case thr =>
    intro h1 h8
    rw [exec_thrSet hr, if_pos ⟨h1, h8⟩]
    obtain ⟨hk, hrest, hs⟩ := throttleAll_spec ((s.core 256).gr a).toNat (throttled ((s.core 256).gr d).toNat) s
    refine ⟨_, rfl, fun n hn => ?_, fun n => ?_, ?_, ?_⟩
    · exact (hk n).trans (if_congr (mem_throttled hn) rfl rfl)
    · exact hrest n
    · rw [core_retire_self]
      have h := congrArg (fun z : State => (z.core 256).pc + 4) hs
      exact h
    · have h := congrArg (fun z : State => { z with sectors := s.sectors, cores := s.cores, remoteReads := s.remoteReads }) hs
      exact h
  case snsr =>
    rw [show exec (.snsrRd d a) s = execSnsrRd d a s from rfl, execSnsrRd, mgmtRun_ready hr]
    simp only [exec_bind, exec_get, State.sensor]
    split_ifs <;> rfl
  case put =>
    intro w0 w1 w2 w3 s1 hw h0 h1 h2 h3
    rw [show exec (.evlPut d) s = execEvlPut d s from rfl, execEvlPut, mgmtRun_ready hr]
    simp only [exec_bind, exec_get, hw, exec_modify, exec_pure, finishM_next]
    exact ⟨evlClean (BitVec.ofNat 256 (wordsNat [w0, w1, w2, w3])), rfl, fun k => by
      rw [getLsbD_evlClean, wordsNat_four h0 h1 h2 h3]⟩
  case fault =>
    intro cause addr s1 hw
    rw [show exec (.evlPut d) s = execEvlPut d s from rfl, execEvlPut, mgmtRun_ready hr]
    simp only [exec_bind, exec_get, hw, finishM_raise]

end Sys2Proof.Machine
end

section
/-!
PROOFS. The termination of a context (R43, R225).
-/
namespace Sys2Proof.Machine

/-! ## What each part of a termination keeps -/

/-- What every part of a termination keeps: registers, contexts and pcs of the cores; and of the regions, streams and launches nothing is
new. -/
structure KeepsOrDrops (s t : State) : Prop where
  core : ∀ c, (t.core c).g = (s.core c).g ∧ (t.core c).ctx = (s.core c).ctx ∧ (t.core c).pc = (s.core c).pc
  regions : ∀ r ∈ t.regions, ∃ q ∈ s.regions, q.id = r.id ∧ q.ctx = r.ctx ∧ q.elems = r.elems
  streams : ∀ x ∈ t.streams, x ∈ s.streams
  launches : ∀ x ∈ t.launches, ∃ y ∈ s.launches, y.id = x.id ∧ y.ctx = x.ctx

namespace KeepsOrDrops
variable {s t u : State}

theorem refl (s : State) : KeepsOrDrops s s :=
  ⟨fun _ => ⟨rfl, rfl, rfl⟩, fun r h => ⟨r, h, rfl, rfl, rfl⟩, fun _ h => h, fun x h => ⟨x, h, rfl, rfl⟩⟩

theorem trans (h : KeepsOrDrops s t) (h' : KeepsOrDrops t u) : KeepsOrDrops s u where
  core c := by
    obtain ⟨hg, hctx, hpc⟩ := h.core c
    obtain ⟨hg', hctx', hpc'⟩ := h'.core c
    exact ⟨hg'.trans hg, hctx'.trans hctx, hpc'.trans hpc⟩
  regions r hr := by
    obtain ⟨q, hq, hid, hctx, hel⟩ := h'.regions r hr
    obtain ⟨p, hp, hid', hctx', hel'⟩ := h.regions q hq
    exact ⟨p, hp, hid'.trans hid, hctx'.trans hctx, hel'.trans hel⟩
  streams x hx := h.streams x (h'.streams x hx)
  launches x hx := by
    obtain ⟨y, hy, hid, hctx⟩ := h'.launches x hx
    obtain ⟨z, hz, hid', hctx'⟩ := h.launches y hy
    exact ⟨z, hz, hid'.trans hid, hctx'.trans hctx⟩

/-- A change of none of the four. -/
theorem of_eq (hc : t.cores = s.cores) (hr : t.regions = s.regions) (hs : t.streams = s.streams) (hl : t.launches = s.launches) :
    KeepsOrDrops s t where
  core c := by unfold State.core; rw [hc]; exact ⟨rfl, rfl, rfl⟩
  regions r h := ⟨r, hr ▸ h, rfl, rfl, rfl⟩
  streams x h := hs ▸ h
  launches x h := ⟨x, hl ▸ h, rfl, rfl⟩

theorem of_onlyRecorded (h : OnlyRecorded s t) : KeepsOrDrops s t := by
  have h' := onlyRecorded_iff.1 h
  have hs := congrArg State.streams h'
  have hl := congrArg State.launches h'
  exact of_eq h.cores h.regions hs hl

theorem updCore (s : State) (k : Nat) {f : CoreSt → CoreSt} (hf : ∀ x, (f x).g = x.g ∧ (f x).ctx = x.ctx ∧ (f x).pc = x.pc) :
    KeepsOrDrops s (s.updCore k f) where
  core c := by
    by_cases h : k = c
    · subst h; rw [core_updCore_self]; exact hf _
    · rw [core_updCore_ne _ _ h]; exact ⟨rfl, rfl, rfl⟩
  regions r h := ⟨r, h, rfl, rfl, rfl⟩
  streams _ h := h
  launches x h := ⟨x, h, rfl, rfl⟩

theorem foldl {α : Type} {f : State → α → State} (hf : ∀ t x, KeepsOrDrops t (f t x)) (l : List α) (s : State) :
    KeepsOrDrops s (l.foldl f s) := by
  induction l generalizing s with
  | nil => exact refl s
  | cons x l ih => exact (hf s x).trans (ih (f s x))

end KeepsOrDrops

theorem keepsOrDrops_dropLaunch (s : State) (id : Nat) : KeepsOrDrops s (s.dropLaunch id) where
  core _ := ⟨rfl, rfl, rfl⟩
  regions r h := ⟨r, h, rfl, rfl, rfl⟩
  streams _ h := h
  launches x h := ⟨x, List.mem_of_mem_filter h, rfl, rfl⟩

theorem keepsOrDrops_streamGone (s : State) (x : Stream) : KeepsOrDrops s (s.streamGone x) where
  core _ := ⟨rfl, rfl, rfl⟩
  regions r h := ⟨r, h, rfl, rfl, rfl⟩
  streams _ h := List.mem_of_mem_filter h
  launches x h := ⟨x, h, rfl, rfl⟩

theorem keepsOrDrops_putResult (s : State) (c id : Nat) (v : DWord) (p : Bool) : KeepsOrDrops s (s.putResult c id v p) :=
  .updCore s c fun _ => ⟨rfl, rfl, rfl⟩

theorem keepsOrDrops_dropOps (ctx : Nat) (l : List CfgOp) (s : State) : KeepsOrDrops s (dropOps ctx l s) := by
  induction l generalizing s with
  | nil => exact .refl s
  | cons o l ih =>
    rw [dropOps]
    refine .trans ?_ (ih _)
    split
    · dsimp only
      split
      · refine .trans ?_ (keepsOrDrops_putResult ..)
        exact .of_eq rfl rfl rfl rfl
      · exact .of_eq rfl rfl rfl rfl
    · exact .refl s

theorem keepsOrDrops_dropJobs (r : Region) (l : List DWord) (s : State) : KeepsOrDrops s (dropJobs r l s) := by
  induction l generalizing s with
  | nil => exact .refl s
  | cons w l ih =>
    rw [dropJobs]
    refine .trans ?_ (ih _)
    dsimp only
    split_ifs <;> exact .of_eq rfl rfl rfl rfl

theorem keepsOrDrops_markEnds (ctx : Nat) (on : Bool) (l : AMap QEnd) (s : State) : KeepsOrDrops s (markEnds ctx on l s) := by
  induction l generalizing s with
  | nil => exact .refl s
  | cons p l ih =>
    rw [markEnds]
    refine .trans (.of_onlyRecorded ?_) (ih _)
    unfold State.markEnd
    split
    · exact onlyRecorded_partWrite ..
    · split
      · exact onlyRecorded_sendReq ..
      · exact onlyRecorded_record ..

theorem keepsOrDrops_dropEnds (r : Region) (l : List DWord) (s : State) : KeepsOrDrops s (dropEnds r l s) := by
  induction l generalizing s with
  | nil => exact .refl s
  | cons w l ih =>
    rw [dropEnds]
    refine .trans ?_ (ih _)
    split <;> exact .of_eq rfl rfl rfl rfl

theorem keepsOrDrops_forget (s : State) (id : Nat) : KeepsOrDrops s (s.forget id) where
  core _ := ⟨rfl, rfl, rfl⟩
  regions r h := ⟨r, h, rfl, rfl, rfl⟩
  streams _ h := h
  launches x h := by
    obtain ⟨y, hy, rfl⟩ := List.mem_map.1 h
    exact ⟨y, hy, rfl, rfl⟩

theorem keepsOrDrops_dropRegion (s : State) (id : Nat) : KeepsOrDrops s (s.dropRegion id) where
  core _ := ⟨rfl, rfl, rfl⟩
  regions r h := ⟨r, List.mem_of_mem_filter h, rfl, rfl, rfl⟩
  streams _ h := h
  launches x h := ⟨x, h, rfl, rfl⟩

theorem keepsOrDrops_leave (s : State) (r : Region) : KeepsOrDrops s (s.leave r) := by
  unfold State.leave
  refine .trans (.trans (.trans (keepsOrDrops_dropEnds r r.binds s) (keepsOrDrops_markEnds r.ctx false r.qends _)) ?_)
    (keepsOrDrops_forget ..)
  refine .trans ?_ (keepsOrDrops_dropRegion ..)
  exact .of_eq rfl rfl rfl rfl

theorem keepsOrDrops_killRegion (s : State) (r : Region) : KeepsOrDrops s (s.killRegion r) := by
  unfold State.killRegion
  dsimp only
  refine .trans (.trans (.trans ?_ (keepsOrDrops_dropJobs ..)) (keepsOrDrops_leave ..)) (.of_eq rfl rfl rfl rfl)
  split
  · exact .updCore _ _ fun _ => ⟨rfl, rfl, rfl⟩
  · exact .refl s

theorem keepsOrDrops_killRays (ctx : Nat) (l : List Ray) (s : State) : KeepsOrDrops s (killRays ctx l s) := by
  induction l generalizing s with
  | nil => exact .refl s
  | cons x l ih =>
    rw [killRays]
    refine .trans ?_ (ih _)
    split <;> exact .of_eq rfl rfl rfl rfl

/-! ## The cores of the context -/

/-- A core as the end of a context leaves it. -/
def CoreSt.ended (n c : Nat) (x : CoreSt) : CoreSt :=
  if c ≠ Config.sceip ∧ x.ctx.toNat = n then (x.leaveCtx n).kill else x.leaveCtx n

theorem find_killCores (n : Nat) (m : AMap CoreSt) (c : Nat) :
    AMap.find? (killCores n m) c = (AMap.find? m c).map (fun x => x.ended n c) := by
  induction m with
  | nil => rfl
  | cons p m ih =>
    obtain ⟨k, x⟩ := p
    simp only [killCores, AMap.find?]
    by_cases hk : k = c
    · subst hk
      simp only [if_true, Option.map_some, CoreSt.ended, ne_eq, bne_iff_ne, Bool.and_eq_true, decide_eq_true_eq]
      rfl
    · simp only [hk, if_false, ih]

theorem core_killCores {s t : State} {n : Nat} (h : t.cores = killCores n s.cores) (c : Nat) :
    t.core c = (s.core c).ended n c := by
  unfold State.core AMap.getD
  rw [h, find_killCores]
  cases AMap.find? s.cores c with
  | some x => rfl
  | none =>
    show ({} : CoreSt) = CoreSt.ended n c {}
    unfold CoreSt.ended
    split <;> rfl

theorem ended_keeps (n c : Nat) (x : CoreSt) : (x.ended n c).g = x.g ∧ (x.ended n c).ctx = x.ctx ∧ (x.ended n c).pc = x.pc := by
  unfold CoreSt.ended
  split <;> exact ⟨rfl, rfl, rfl⟩

theorem ended_own {n c : Nat} {x : CoreSt} (hc : c ≠ 256) (hx : x.ctx.toNat = n) :
    (x.ended n c).run = .idle ∧ (x.ended n c).pend = [] ∧ (x.ended n c).held = [] ∧ (x.ended n c).frozen = false := by
  rw [CoreSt.ended, if_pos ⟨hc, hx⟩]
  exact ⟨rfl, rfl, rfl, rfl⟩

/-! ## Events held back -/

theorem mem_insertRegion {l : List Region} {r q : Region} (h : q ∈ insertRegion l r) : q = r ∨ q ∈ l := by
  induction l with
  | nil => exact .inl (List.mem_singleton.1 h)
  | cons a l ih =>
    unfold insertRegion at h
    split at h
    · exact List.mem_cons.1 h
    · split at h
      · exact (List.mem_cons.1 h).imp_right (List.mem_cons_of_mem a)
      · rcases List.mem_cons.1 h with rfl | h
        · exact .inr (List.mem_cons_self ..)
        · exact (ih h).imp_right (List.mem_cons_of_mem a)

/-- What the posting of events held back changes: the cores' events and whether they wake, and what the regions hold back. -/
structure Posts (s t : State) : Prop where
  core : ∀ c, { t.core c with events := (s.core c).events, woken := (s.core c).woken } = s.core c
  regions : ∀ r ∈ t.regions, ∃ q ∈ s.regions, q.id = r.id ∧ q.ctx = r.ctx ∧ q.elems = r.elems
  rest : { t with cores := s.cores, regions := s.regions } = s

namespace Posts
variable {s t u : State}

theorem refl (s : State) : Posts s s := ⟨fun _ => rfl, fun r h => ⟨r, h, rfl, rfl, rfl⟩, rfl⟩

theorem trans (h : Posts s t) (h' : Posts t u) : Posts s u where
  core c := by
    have e := congrArg (fun x : CoreSt => { x with events := (s.core c).events, woken := (s.core c).woken }) (h'.core c)
    exact e.trans (h.core c)
  regions r hr := by
    obtain ⟨q, hq, hid, hctx, hel⟩ := h'.regions r hr
    obtain ⟨p, hp, hid', hctx', hel'⟩ := h.regions q hq
    exact ⟨p, hp, hid'.trans hid, hctx'.trans hctx, hel'.trans hel⟩
  rest := by
    have e := congrArg (fun x : State => { x with cores := s.cores, regions := s.regions }) h'.rest
    exact e.trans h.rest

theorem keepsOrDrops (h : Posts s t) : KeepsOrDrops s t where
  core c := by
    have hg := congrArg CoreSt.g (h.core c)
    have hctx := congrArg CoreSt.ctx (h.core c)
    have hpc := congrArg CoreSt.pc (h.core c)
    exact ⟨hg, hctx, hpc⟩
  regions := h.regions
  streams x hx := by
    have e := congrArg State.streams h.rest
    exact e ▸ hx
  launches x hx := by
    have e := congrArg State.launches h.rest
    exact ⟨x, e ▸ hx, rfl, rfl⟩

end Posts

theorem posts_postEvent (s : State) (c : Nat) (e : Event) : Posts s (s.postEvent c e) := by
  unfold State.postEvent
  split
  · refine ⟨fun k => ?_, fun r h => ⟨r, h, rfl, rfl, rfl⟩, rfl⟩
    by_cases hk : c = k
    · subst hk; rw [core_updCore_self]
    · rw [core_updCore_ne _ _ hk]
  · exact .refl s

theorem Posts.setRegion {s t : State} {r q : Region} (h : Posts s t) (hr : r ∈ s.regions)
    (hq : r.id = q.id ∧ r.ctx = q.ctx ∧ r.elems = q.elems) : Posts s (t.setRegion q) where
  core := h.core
  regions p hp := by
    rcases mem_insertRegion hp with rfl | hp
    · exact ⟨r, hr, hq⟩
    · exact h.regions p hp
  rest := by
    have e := congrArg (fun x : State => { x with regions := s.regions }) h.rest
    exact e

theorem posts_postHeld (c : Nat) {s : State} (l : List Region) (hl : ∀ r ∈ l, r ∈ s.regions) {t : State} (h : Posts s t) :
    Posts s (postHeld c l t) := by
  induction l generalizing t with
  | nil => exact h
  | cons r l ih =>
    obtain ⟨hr, hl⟩ := List.forall_mem_cons.1 hl
    unfold postHeld
    split
    · split
      · exact ih hl ((h.trans (posts_postEvent ..)).setRegion hr ⟨rfl, rfl, rfl⟩)
      · exact ih hl h
    · exact ih hl h

theorem posts_foldl_postHeld {α : Type} (l : List (Nat × α)) (s : State) :
    Posts s (l.foldl (fun t p => postHeld p.1 t.regions t) s) := by
  induction l generalizing s with
  | nil => exact .refl s
  | cons p l ih => exact (posts_postHeld p.1 s.regions (fun _ h => h) (.refl s)).trans (ih _)

/-! ## The termination, part by part -/

section Parts
variable (n : Nat) (s : State)

/-- The launches of the context are gone. -/
def State.killLaunches : State := (s.launches.filter (fun l => l.ctx == n)).foldl (fun t l => t.dropLaunch l.id) s

/-- So are its operations of the configuration network and its streams. -/
def State.killStreams : State :=
  let s2 := dropOps n (s.killLaunches n).cfgops (s.killLaunches n)
  (s2.streams.filter (fun t => t.ctx == n)).foldl (fun t x => t.streamGone x) s2

/-- So are its regions, and the reads of its rays. -/
def State.killRegions : State :=
  let s4 := ((s.killStreams n).regions.filter (fun r => r.ctx == n)).foldl (fun t r => t.killRegion r) (s.killStreams n)
  killRays n s4.rays s4

theorem mem_foldl_dropLaunch (l : List Launch) (s : State) {x : Launch} (h : x ∈ (l.foldl (fun t l => t.dropLaunch l.id) s).launches) :
    x ∈ s.launches ∧ ∀ y ∈ l, x.id ≠ y.id := by
  induction l generalizing s with
  | nil => exact ⟨h, List.forall_mem_nil _⟩
  | cons y l ih =>
    obtain ⟨hx, hl⟩ := ih _ h
    obtain ⟨hx, hne⟩ := List.mem_filter.1 hx
    exact ⟨hx, List.forall_mem_cons.2 ⟨by simpa using hne, hl⟩⟩

theorem launches_killLaunches {x : Launch} (h : x ∈ (s.killLaunches n).launches) : x.ctx ≠ n := by
  obtain ⟨hx, hne⟩ := mem_foldl_dropLaunch _ _ h
  exact fun hc => hne x (List.mem_filter.2 ⟨hx, by simpa using hc⟩) rfl

theorem mem_foldl_streamGone (l : List Stream) (s : State) {x : Stream} (h : x ∈ (l.foldl (fun t x => t.streamGone x) s).streams) :
    x ∈ s.streams ∧ ∀ y ∈ l, x.id ≠ y.id := by
  induction l generalizing s with
  | nil => exact ⟨h, List.forall_mem_nil _⟩
  | cons y l ih =>
    obtain ⟨hx, hl⟩ := ih _ h
    obtain ⟨hx, hne⟩ := List.mem_filter.1 hx
    exact ⟨hx, List.forall_mem_cons.2 ⟨by simpa using hne, hl⟩⟩

theorem streams_killStreams {x : Stream} (h : x ∈ (s.killStreams n).streams) : x.ctx ≠ n := by
  obtain ⟨hx, hne⟩ := mem_foldl_streamGone _ _ h
  exact fun hc => hne x (List.mem_filter.2 ⟨hx, by simpa using hc⟩) rfl

theorem regions_killRegion (r : Region) (s : State) {q : Region} (h : q ∈ (s.killRegion r).regions) : q.id ≠ r.id := by
  have h' : q ∈ State.regions (State.leave _ r) := h
  rw [regions_leave] at h'
  simpa using (List.mem_filter.1 h').2

theorem mem_foldl_killRegion (l : List Region) (s : State) {q : Region} (h : q ∈ (l.foldl (fun t r => t.killRegion r) s).regions) :
    ∀ r ∈ l, q.id ≠ r.id := by
  induction l generalizing s with
  | nil => exact List.forall_mem_nil _
  | cons r l ih =>
    obtain ⟨p, hp, hid, -, -⟩ := (KeepsOrDrops.foldl keepsOrDrops_killRegion l (s.killRegion r)).regions q h
    exact List.forall_mem_cons.2 ⟨hid ▸ regions_killRegion r s hp, ih _ h⟩

theorem keepsOrDrops_killLaunches : KeepsOrDrops s (s.killLaunches n) := .foldl (fun _ _ => keepsOrDrops_dropLaunch ..) ..

theorem keepsOrDrops_killStreams : KeepsOrDrops (s.killLaunches n) (s.killStreams n) :=
  (keepsOrDrops_dropOps ..).trans (.foldl keepsOrDrops_streamGone ..)

theorem keepsOrDrops_killRegions : KeepsOrDrops (s.killStreams n) (s.killRegions n) :=
  (KeepsOrDrops.foldl keepsOrDrops_killRegion ..).trans (keepsOrDrops_killRays ..)

theorem regions_killRays (ctx : Nat) (l : List Ray) (t : State) : (killRays ctx l t).regions = t.regions := by
  induction l generalizing t with
  | nil => rfl
  | cons x l ih => rw [killRays, ih]; split <;> rfl

theorem regions_killRegions {r : Region} (h : r ∈ (s.killRegions n).regions) : r.ctx ≠ n := by
  intro hc
  rw [State.killRegions, regions_killRays] at h
  obtain ⟨q, hq, hid, hctx, -⟩ := (KeepsOrDrops.foldl keepsOrDrops_killRegion _ (s.killStreams n)).regions r h
  exact mem_foldl_killRegion _ _ h q (List.mem_filter.2 ⟨hq, by simpa [hctx] using hc⟩) hid.symm

/-- The part as the end of a context leaves it, before events held back are posted. -/
def State.killRest : State :=
  let gone := fun (c : Nat) => c != Config.sceip && (s.core c).ctx.toNat == n && (s.core c).run != .idle
  { s with
    cores := killCores n s.cores
    rays := s.rays.filter (fun x => x.ctx != n)
    blendItems := s.blendItems.filter (fun b => b.ctx != n)
    bushels := s.bushels.map (fun p => (p.1, p.2.filter (fun e => e.ctx != n)))
    saved := s.saved.filter (fun x => x.ctx != n)
    hostQs := s.hostQs.map (fun p => (p.1, if p.2.ctx = n then { p.2 with frz := false } else p.2))
    remoteReads := s.remoteReads.filter (fun x => match x.reader with
      | .core c => !gone c
      | _ => true)
    vldWaits := s.vldWaits.filter (fun w => match w.owner with
      | .core c _ | .step c => !gone c
      | _ => true)
    vstQueue := s.vstQueue.filter (fun w => match w.owner with
      | .core c _ | .step c => !gone c
      | _ => true) }

theorem killCtx_eq : s.killCtx n = (((s.killRegions n).killRest n).cores.foldl (fun t p => postHeld p.1 t.regions t)
    ((s.killRegions n).killRest n)).chainDrop n := rfl

end Parts

end Sys2Proof.Machine
end

section
/-!
PROOFS. Masters, their freeze and thaw, the start of a sequencer and tlb.inv (R43, R157, R225, R307, R358, R363).
-/
namespace Sys2Proof.Machine

/-! ## The end of a context -/

/-- The posting of events held back is the last that happens to the cores and regions of a part whose context ends. -/
theorem killCtx_posts (n : Nat) (s : State) : ∃ t, Posts ((s.killRegions n).killRest n) t ∧ s.killCtx n = t.chainDrop n :=
  ⟨_, posts_foldl_postHeld _ _, killCtx_eq n s⟩

theorem keepsOrDrops_chainDrop (s : State) (n : Nat) : KeepsOrDrops s (s.chainDrop n) := .of_eq rfl rfl rfl rfl

theorem keepsOrDrops_killRest (n : Nat) (s : State) : KeepsOrDrops s (s.killRest n) where
  core c := by rw [core_killCores (s := s) (n := n) rfl]; exact ended_keeps n c _
  regions r h := ⟨r, h, rfl, rfl, rfl⟩
  streams _ h := h
  launches x h := ⟨x, h, rfl, rfl⟩

section Killed
variable (n : Nat) (s : State)

theorem keepsOrDrops_killStreams' : KeepsOrDrops (s.killStreams n) (s.killCtx n) := by
  obtain ⟨t, hp, ht⟩ := killCtx_posts n s
  rw [ht]
  exact (((keepsOrDrops_killRegions n s).trans (keepsOrDrops_killRest n _)).trans hp.keepsOrDrops).trans (keepsOrDrops_chainDrop t n)

theorem keepsOrDrops_killLaunches' : KeepsOrDrops (s.killLaunches n) (s.killCtx n) :=
  (keepsOrDrops_killStreams n s).trans (keepsOrDrops_killStreams' n s)

theorem keepsOrDrops_killCtx : KeepsOrDrops s (s.killCtx n) := (keepsOrDrops_killLaunches n s).trans (keepsOrDrops_killLaunches' n s)

theorem regions_killCtx {r : Region} (h : r ∈ (s.killCtx n).regions) : r.ctx ≠ n := by
  obtain ⟨t, hp, ht⟩ := killCtx_posts n s
  rw [ht] at h
  obtain ⟨q, hq, -, hctx, -⟩ := hp.regions r h
  exact hctx ▸ regions_killRegions n s hq

theorem launches_killCtx {x : Launch} (h : x ∈ (s.killCtx n).launches) : x.ctx ≠ n := by
  obtain ⟨y, hy, -, hctx⟩ := (keepsOrDrops_killLaunches' n s).launches x h
  exact hctx ▸ launches_killLaunches n s hy

theorem streams_killCtx {x : Stream} (h : x ∈ (s.killCtx n).streams) : x.ctx ≠ n :=
  streams_killStreams n s ((keepsOrDrops_killStreams' n s).streams x h)

theorem rest_killCtx : (∀ x ∈ (s.killCtx n).rays, x.ctx ≠ n) ∧ (∀ x ∈ (s.killCtx n).blendItems, x.ctx ≠ n) ∧
    (∀ x ∈ (s.killCtx n).saved, x.ctx ≠ n) ∧ ∀ i, ∀ x ∈ (s.killCtx n).bq i, x.ctx ≠ n := by
  obtain ⟨t, hp, ht⟩ := killCtx_posts n s
  have hrays := congrArg State.rays hp.rest
  have hblend := congrArg State.blendItems hp.rest
  have hsaved := congrArg State.saved hp.rest
  have hbq := congrArg State.bushels hp.rest
  rw [ht]
  refine ⟨fun x hx => ?_, fun x hx => ?_, fun x hx => ?_, fun i x hx => ?_⟩
  · rw [show (t.chainDrop n).rays = _ from hrays] at hx
    simpa using (List.mem_filter.1 hx).2
  · rw [show (t.chainDrop n).blendItems = _ from hblend] at hx
    simpa using (List.mem_filter.1 hx).2
  · rw [show (t.chainDrop n).saved = _ from hsaved] at hx
    simpa using (List.mem_filter.1 hx).2
  · rw [State.bq, show (t.chainDrop n).bushels = ((s.killRegions n).bushels.map (fun p => (p.1, p.2.filter (fun e => e.ctx != n)))) from hbq,
      AMap.getD, find_map_values] at hx
    cases hf : AMap.find? (s.killRegions n).bushels i <;> rw [hf] at hx
    · exact absurd hx (List.not_mem_nil)
    · simpa using (List.mem_filter.1 hx).2

theorem cores_killCtx {c : Nat} (hc : c ≠ 256) (hx : (s.core c).ctx.toNat = n) : ((s.killCtx n).core c).run = .idle ∧
    ((s.killCtx n).core c).pend = [] ∧ ((s.killCtx n).core c).held = [] ∧ ((s.killCtx n).core c).frozen = false := by
  obtain ⟨t, hp, ht⟩ := killCtx_posts n s
  have hbefore : KeepsOrDrops s (s.killRegions n) :=
    ((keepsOrDrops_killLaunches n s).trans (keepsOrDrops_killStreams n s)).trans (keepsOrDrops_killRegions n s)
  have hended : ((s.killRegions n).killRest n).core c = ((s.killRegions n).core c).ended n c := core_killCores rfl c
  obtain ⟨hrun, hpend, hheld, hfrz⟩ := ended_own (x := (s.killRegions n).core c) hc
    ((congrArg BitVec.toNat (hbefore.core c).2.1).trans hx)
  rw [← hended] at hrun hpend hheld hfrz
  have e1 := congrArg CoreSt.run (hp.core c)
  have e2 := congrArg CoreSt.pend (hp.core c)
  have e3 := congrArg CoreSt.held (hp.core c)
  have e4 := congrArg CoreSt.frozen (hp.core c)
  rw [ht]
  exact ⟨Eq.trans e1 hrun, Eq.trans e2 hpend, Eq.trans e3 hheld, Eq.trans e4 hfrz⟩

end Killed

/-! ## Which master a number names (R225) -/

theorem master_region {s : State} {v : DWord} (h : v.toNat / 2 ^ 28 = 0) : s.master v = (s.wordRegion (v.toNat % 2 ^ 28)).map Master.region := by
  unfold State.master
  exact if_pos h

theorem master_core {s : State} {v : DWord} (h : v.toNat / 2 ^ 28 = 1) :
    s.master v = if v.toNat % 2 ^ 28 ≤ 255 then some (.core (v.toNat % 2 ^ 28)) else none := by
  unfold State.master
  dsimp only
  rw [if_neg (by omega), if_pos h]

theorem master_engine {s : State} {v : DWord} (h : v.toNat / 2 ^ 28 = 2) : s.master v =
    match s.wordRegion (v.toNat % 2 ^ 28) with
    | some r => if ∃ w ∈ r.binds, 2 ≤ bindEp w ∧ bindEp w ≤ 5 then some (.engine r) else none
    | none => none := by
  unfold State.master
  dsimp only
  rw [if_neg (by omega), if_neg (by omega), if_pos h]
  simp only [List.any_eq_true, Bool.and_eq_true, decide_eq_true_eq] <;> rfl

theorem master_queue {s : State} {v : DWord} (h : v.toNat / 2 ^ 28 = 3) :
    s.master v = if v.toNat % 2 ^ 28 ≤ 4095 then some (.queue (v.toNat % 2 ^ 28)) else none := by
  unfold State.master
  dsimp only
  rw [if_neg (by omega), if_neg (by omega), if_neg (by omega), if_pos h]

theorem master_none {s : State} {v : DWord} (h : 4 ≤ v.toNat / 2 ^ 28) : s.master v = none := by
  unfold State.master
  dsimp only
  rw [if_neg (by omega), if_neg (by omega), if_neg (by omega), if_neg (by omega)]

/-! ## Freeze and thaw -/

/-- A core that mst.frz has frozen (R363). -/
def CoreSt.frz (x : CoreSt) : CoreSt :=
  if x.run = .running then { x with run := .stopped, frozen := true, epc := x.pc, waitFrom := none, woken := false }
  else { x with frozen := true }

theorem frzCore_eq (s : State) (c : Nat) : s.frzCore c =
    ((s.setCore c (s.core c).frz).leaveInstr c).record (frzRecord 1 (s.coreCtx c) (midCore c) (coreSector c) (s.core c).pc) := rfl

theorem thawCore_of_free {s : State} {c : Nat} (h : (s.core c).frozen = false) : s.thawCore c = s := by
  unfold State.thawCore
  exact if_pos (by rw [h]; rfl)

theorem thawCore_of_stopped {s : State} {c : Nat} (h : (s.core c).frozen = true) (hr : (s.core c).run = .stopped) :
    s.thawCore c = s.setCore c { s.core c with
      frozen := false, run := .running, pc := (s.core c).epc &&& 0xFFFFFFFFFFFFFFFC, stopAsked := false } := by
  unfold State.thawCore
  dsimp only
  rw [h, if_neg (by simp), if_pos hr]
  rfl

theorem thawCore_of_other {s : State} {c : Nat} (h : (s.core c).frozen = true) (hr : (s.core c).run ≠ .stopped) :
    s.thawCore c = s.setCore c { s.core c with frozen := false } := by
  unfold State.thawCore
  dsimp only
  rw [h, if_neg (by simp), if_neg hr]

section Region
variable {s : State} {r : Region}

theorem cores_updRegion (s : State) (id : Nat) (f : Region → Region) : (s.updRegion id f).cores = s.cores := by
  unfold State.updRegion; split <;> rfl

theorem frzRegion_free (h : r.frozen = none) : s.frzRegion r =
    s.freezeRegion r .mgmt ⟨r.serial, 0, 0, Cause.isolationFreeze, 0, s.cyc, false, false, none⟩ 2 := by
  unfold State.frzRegion
  rw [h]
  rfl

theorem frzRegion_frozen {f : Freeze} (h : r.frozen = some f) (hp : r.replay = none) : s.frzRegion r =
    (s.updRegion r.id (fun q => { q with frozen := some .mgmt })).record (frzRecord 0 r.ctx (midRegion r.word) (r.loc 0) 0) := by
  unfold State.frzRegion State.dropReplay
  rw [h, hp]
  rfl

theorem cores_freezeRegion_mgmt (x : Raised) (cls : Nat) : (s.freezeRegion r .mgmt x cls).cores = s.cores := by
  unfold State.freezeRegion
  dsimp only
  rw [if_neg (by decide), (onlyRecorded_record _ _).cores, cores_updRegion]
  rfl

theorem thawRegion_free (h : r.frozen = none) : s.thawRegion r = s := by
  unfold State.thawRegion
  rw [h]
  rfl

theorem thawRegion_frozen {f : Freeze} (hr : s.region? r.id = some r) (h : r.frozen = some f) (hp : r.replay = none) :
    s.thawRegion r = s.setRegion (({ r with frozen := none, journal := [], log := [] } : Region).settle s.cyc) := by
  have hdrop : s.dropReplay r = s := by unfold State.dropReplay; rw [hp]
  unfold State.thawRegion
  rw [if_neg (by rw [h]; exact Bool.false_ne_true), hdrop, State.updRegion, hr]

theorem settle_of_nil (now : Nat) (h : r.pend = []) : r.settle now = r := by
  unfold Region.settle
  rw [h, if_neg (by simp)]

end Region

/-! ## Commands -/

theorem exec_ctxKill {s : State} {d a : Reg} (h : CoreReady s 256 [a] [d]) {n : Nat} (hn : n = ((s.core 256).gr a).toNat) :
    exec (.ctxKill d a) s = .next (if n = 0 ∨ 63 < n then s.preciseFault 256 Cause.mgmtArg 0 else if s.ctxHeld n then s else
      ((({ s with nextId := s.nextId + 1, kills := s.kills ++ [⟨n, 256, s.nextId⟩] } : State).killCtx n).updCore 256 (fun y => { y with
        pend := y.pend ++ [reservation s.nextId d .kill 0 (s.core 256).pc s.cyc] })).retire 256 4 .next) := by
  subst hn
  rw [show exec (.ctxKill d a) s = execCtxKill d a s from rfl, execCtxKill, mgmtRun_ready h]
  simp only [exec_ite, Bool.or_eq_true, decide_eq_true_eq]
  by_cases h1 : ((s.core 256).gr a).toNat = 0 ∨ 63 < ((s.core 256).gr a).toNat
  · rw [if_pos h1, if_pos h1]; rfl
  · rw [if_neg h1, if_neg h1]
    simp only [exec_bind, exec_get, exec_ite]
    cases s.ctxHeld ((s.core 256).gr a).toNat <;> rfl

section Master
variable {s : State} {d : Reg} (h : CoreReady s 256 [d] [])
include h

theorem exec_mstFrz {m : Master} (hm : s.master ((s.core 256).gr d) = some m) {t : State} (ht : (frzM m).exec s = (.ok (), t)) :
    exec (.mstFrz d) s = .next (t.retire 256 4 .next) := by
  rw [show exec (.mstFrz d) s = execMstFrz d s from rfl, execMstFrz, mgmtRun_ready h]
  simp only [exec_bind, exec_get, hm, ht, exec_pure, finishM_next]

theorem exec_mstThaw {m : Master} (hm : s.master ((s.core 256).gr d) = some m) :
    exec (.mstThaw d) s = .next ((s.thaw m).retire 256 4 .next) := by
  rw [show exec (.mstThaw d) s = execMstThaw d s from rfl, execMstThaw, mgmtRun_ready h]
  simp only [exec_bind, exec_get, hm, exec_modify, exec_pure, finishM_next]

theorem exec_mst_none (hm : s.master ((s.core 256).gr d) = none) :
    exec (.mstFrz d) s = .next (s.preciseFault 256 Cause.mgmtArg 0) ∧
    exec (.mstThaw d) s = .next (s.preciseFault 256 Cause.mgmtArg 0) := by
  rw [show exec (.mstFrz d) s = execMstFrz d s from rfl, execMstFrz, show exec (.mstThaw d) s = execMstThaw d s from rfl, execMstThaw,
    mgmtRun_ready h, mgmtRun_ready h]
  simp only [exec_bind, exec_get, hm, exec_mgmtArg, finishM_raise, and_self]

end Master

theorem exec_frzM_core {s : State} {k : Nat} (h : s.inside k = false) : (frzM (.core k)).exec s = (.ok (), s.frzCore k) := by
  simp only [frzM, exec_bind, exec_get, h]
  rfl

theorem exec_frzM_region {s : State} {r : Region} (h : r.frozen ≠ none ∨ r.awayUnbuffered = false) :
    (frzM (.region r)).exec s = (.ok (), s.frzRegion r) := by
  have hc : ¬ (r.frozen.isNone && r.awayUnbuffered) = true := by
    rcases h with h | h
    · obtain ⟨f, hf⟩ := Option.ne_none_iff_exists'.1 h
      simp [hf]
    · simp [h]
  simp only [frzM, exec_bind, exec_get]
  rw [if_neg hc]
  rfl

/-! ## Start and stop of a sequencer; tlb.inv -/

theorem exec_seqRun {s : State} {d a b : Reg} (h : CoreReady s 256 [d, a, b] []) : exec (.seqRun d a b) s = .next
    (if ((s.core 256).gr b).toNat % 4 = 0
      then ((s.updCore (((s.core 256).gr a).toNat % 256) (fun y => { y with
        starting := some (BitVec.ofNat 6 (((s.core 256).gr a).toNat / 256), (s.core 256).gr b, (s.core 256).gr d), run := .idle
        stopAsked := false, waitFrom := none, woken := false })).leaveInstr (((s.core 256).gr a).toNat % 256)).retire 256 4 .next
      else s.preciseFault 256 Cause.mgmtArg 0) := by
  rw [show exec (.seqRun d a b) s = execSeqRun d a b s from rfl, execSeqRun, mgmtRun_ready h]
  exact congrArg Host.Outcome.next (finishM_checked (by simp) 256 s _)

theorem exec_seqStop {s : State} {d : Reg} (h : CoreReady s 256 [d] []) : exec (.seqStop d) s = .next
    ((s.updCore (((s.core 256).gr d).toNat % 256) (fun y =>
      if y.run = .running || y.starting.isSome then { y with stopAsked := true } else y)).retire 256 4 .next) := by
  rw [show exec (.seqStop d) s = execSeqStop d s from rfl, execSeqStop, mgmtRun_ready h]
  rfl

theorem exec_seqResume {s : State} {d : Reg} (h : CoreReady s 256 [d] []) : exec (.seqResume d) s = .next
    ((s.updCore (((s.core 256).gr d).toNat % 256) (fun y =>
      if y.run = .stopped && !y.frozen && y.starting.isNone then { y with run := .running, pc := pcOf y.epc, stopAsked := false }
      else y)).retire 256 4 .next) := by
  rw [show exec (.seqResume d) s = execSeqResume d s from rfl, execSeqResume, mgmtRun_ready h]
  rfl

theorem updCore_of_eq (s : State) (c : Nat) {f : CoreSt → CoreSt} {x : CoreSt} (h : f (s.core c) = x) : s.updCore c f = s.setCore c x := by
  rw [State.updCore, h]

theorem any_eq_false_of_count {α : Type} {p : α → Bool} {l : List α} (h : (l.filter p).length = 0) : l.any p = false := by
  rw [List.length_eq_zero_iff, List.filter_eq_nil_iff] at h
  exact List.any_eq_false.2 h

theorem any_eq_true_of_count {α : Type} {p : α → Bool} {l : List α} (h : 0 < (l.filter p).length) : l.any p = true := by
  obtain ⟨x, hx⟩ := List.exists_mem_of_length_pos h
  obtain ⟨hx, hp⟩ := List.mem_filter.1 hx
  exact List.any_eq_true.2 ⟨x, hx, hp⟩

theorem exec_programStart_busy {s : State} {c : Nat} (h : 0 < s.streamCount c ∨ 0 < s.launchCount c) :
    exec (.seqProgramStart c) s = .next s := by
  rw [show exec (.seqProgramStart c) s = execSeqProgramStart c s from rfl, execSeqProgramStart]
  cases hs : (s.core c).starting with
  | none => rfl
  | some k =>
    have hbusy : (s.streams.any (fun t => t.core == c) || s.launches.any (fun l => l.core == c)) = true := by
      rcases h with h | h
      · rw [any_eq_true_of_count h, Bool.true_or]
      · rw [any_eq_true_of_count h, Bool.or_true]
    exact if_pos (by rw [Bool.or_assoc, hbusy, Bool.or_true])

theorem exec_programStart {s : State} {c : Nat} {ctx : BitVec 6} {pc arg : DWord} (hst : (s.core c).starting = some (ctx, pc, arg))
    (hf : (s.core c).frozen = false) (hp : (s.core c).replay = none) (hh : (s.core c).slotHeld = false)
    (hd : s.downBays.contains (c / 64) = false) (hs : s.streamCount c = 0) (hl : s.launchCount c = 0) : exec (.seqProgramStart c) s =
      .next (s.updCore c (fun y => y.begin_ ctx pc arg (s.mring (coreQuadrant c)).p)) := by
  rw [show exec (.seqProgramStart c) s = execSeqProgramStart c s from rfl, execSeqProgramStart]
  dsimp only
  rw [hst]
  dsimp only
  rw [if_neg (by rw [hf, hd, any_eq_false_of_count hs, any_eq_false_of_count hl]; decide), hp]
  dsimp only
  rw [hh]
  rfl

theorem exec_tlbInv {s : State} {d a : Reg} (h : CoreReady s 256 [d, a] []) (hn : ((s.core 256).gr d).toNat ≤ 63)
    (hv : ∀ v ∈ s.invals, v.core ≠ 256) : exec (.tlbInv d a) s = .next { (s.tlbInv ((s.core 256).gr d).toNat ((s.core 256).gr a)) with
      nextId := s.nextId + 1
      invals := s.invals ++ [⟨s.nextId, ((s.core 256).gr d).toNat, (s.core 256).gr a, 256,
        s.invWaits ((s.core 256).gr d).toNat ((s.core 256).gr a)⟩] } := by
  have hany : s.invals.any (fun v => v.core == 256) = false := by simpa using hv
  rw [show exec (.tlbInv d a) s = execTlbInv d a s from rfl, execTlbInv, mgmtRun_ready h]
  simp only [exec_ite, if_neg (Nat.not_lt.2 hn), exec_bind, exec_get, hany]
  rfl

theorem exec_tlbInvalidateComplete {s : State} {id : Nat} {v : Inval} (hf : s.invals.find? (fun x => x.id == id) = some v)
    (hw : ∀ p ∈ v.waits, s.invDone p = true) : exec (.tlbInvalidateComplete id) s = .next (({ s with
      invals := s.invals.filter (fun x => x.id != id)
      streams := s.streams.map (fun t => if t.ctx = v.ctx then { t with retry := true } else t) } : State).retire v.core 4 .next) := by
  rw [show exec (.tlbInvalidateComplete id) s = execTlbInvalidateComplete id s from rfl, execTlbInvalidateComplete, hf]
  exact if_neg (by rw [List.all_eq_true.2 hw]; decide)

/-- Settles O28: each command by what it finds, a freeze and a thaw by the state they start from, and the end of a context part by part. -/
theorem managementOfMasters : Obligations.ManagementOfMasters := by
  unfold Obligations.ManagementOfMasters
  refine ⟨⟨?kill, ?mst, ?named, fun s v h => master_core h, fun s v h => master_none h⟩,
    ⟨?frzCore, ?thawCore, ?region, ?killed⟩, ?run, ?stop, ?start, fun s c h => exec_programStart_busy h, ?inv,
    fun s v id hf hw => exec_tlbInvalidateComplete hf hw⟩
  case kill =>
    intro d a s hr n hn
    rw [exec_ctxKill hr hn]
    refine ⟨fun h => by rw [if_pos h], fun h1 h2 h => ?_, fun h1 h2 h => ?_⟩
    · rw [if_neg (by omega), h]; rfl
    · rw [if_neg (by omega), h]; rfl
  case mst =>
    rintro d s hr v rfl
    refine ⟨fun h => exec_mst_none hr h, fun k hm hi => ⟨exec_mstFrz hr hm (exec_frzM_core hi), exec_mstThaw hr hm⟩,
      fun r hm ha => ⟨exec_mstFrz hr hm (exec_frzM_region ha), exec_mstThaw hr hm⟩,
      fun r hm => ⟨exec_mstFrz hr hm rfl, exec_mstThaw hr hm⟩, fun q hm => ⟨exec_mstFrz hr hm rfl, exec_mstThaw hr hm⟩⟩
  case named =>
    rintro s v named rfl
    refine ⟨fun h => master_region h, fun h => ⟨fun hn => ?_, fun r hr => ?_⟩, fun h => master_queue h⟩
    · rw [master_engine h, State.wordRegion, hn]
    · rw [master_engine h, State.wordRegion, hr]
  case frzCore =>
    intro s c
    refine ⟨(s.setCore c (s.core c).frz).leaveInstr c, fun k hk => ?_, leftInstr_leaveInstr_setCore .., fun hrun => ?_, fun hrun => ?_,
      frzCore_eq s c⟩
    · rw [core_leaveInstr, core_setCore_ne _ _ hk.symm]
    · rw [core_leaveInstr, core_setCore_self]
      exact if_pos hrun
    · rw [core_leaveInstr, core_setCore_self]
      exact if_neg hrun
  case thawCore => exact fun s c => ⟨thawCore_of_free, thawCore_of_stopped, thawCore_of_other⟩
  case region =>
    intro s r hr
    refine ⟨fun hf => ?_, fun f hf hp => ?_, thawRegion_free, fun f hf hp => thawRegion_frozen hr hf hp, fun now h => settle_of_nil now h⟩
    · rw [frzRegion_free hf]
      obtain ⟨u, hu⟩ := region_freezeRegion s r .mgmt ⟨r.serial, 0, 0, Cause.isolationFreeze, 0, s.cyc, false, false, none⟩ 2
      exact ⟨_, hu, rfl, rfl, rfl, cores_freezeRegion_mgmt .., (rolledBack_rollback r .mgmt).elem⟩
    · rw [frzRegion_frozen hf hp]
      refine ⟨_, (region_record _ _ _).trans (region_updRegion_self hr rfl), rfl, ?_⟩
      rw [(onlyRecorded_record _ _).cores, cores_updRegion]
  case killed =>
    rintro s n - t rfl
    obtain ⟨hrays, hblend, hsaved, hbq⟩ := rest_killCtx n s
    exact ⟨fun r hr => regions_killCtx n s hr, fun x hx => streams_killCtx n s hx, fun x hx => launches_killCtx n s hx, hrays, hblend,
      hsaved, hbq, fun c hc hx => cores_killCtx n s hc hx, (keepsOrDrops_killCtx n s).core, fun r hr => by
        obtain ⟨q, hq, hid, -, hel⟩ := (keepsOrDrops_killCtx n s).regions r hr
        exact ⟨q, hq, hid, hel⟩⟩
  case run =>
    rintro d a b s hr v pc arg rfl rfl rfl
    exact exec_seqRun hr
  case stop =>
    rintro d s hr k rfl
    rw [exec_seqStop hr, exec_seqResume hr]
    refine ⟨fun hrun => ?_, fun hrun hfrz hst => ?_, fun hrun hfrz => ?_⟩
    · exact congrArg (fun t : State => Host.Outcome.next (t.retire 256 4 .next)) (updCore_of_eq s _ (if_pos (by rw [hrun]; rfl)))
    · exact congrArg (fun t : State => Host.Outcome.next (t.retire 256 4 .next))
        (updCore_of_eq s _ (if_pos (by rw [hrun, hfrz, hst]; rfl)))
    · exact congrArg (fun t : State => Host.Outcome.next (t.retire 256 4 .next))
        (updCore_of_eq s _ (if_neg (by rw [hrun, hfrz]; simp)))
  case start =>
    rintro s c x ctx pc arg rfl hst hf hp hh hd hs hl
    exact exec_programStart hst hf hp hh hd hs hl
  case inv =>
    rintro d a s hr n va rfl rfl hn hv
    refine ⟨_, exec_tlbInv hr hn hv, fun e => ?_, rfl, rfl⟩
    refine List.mem_filter.trans (and_congr_right fun _ => ?_)
    rw [Bool.not_eq_true', ← Bool.not_eq_true]
    simp only [Bool.and_eq_true, Bool.or_eq_true, beq_iff_eq, decide_eq_true_eq]

end Sys2Proof.Machine
end

section
/-!
PROOFS. Configuration loads: the operation, the image's words, and what an installed region leaves (R20, R22, R205, R208 to R212).
-/
namespace Sys2Proof.Machine

/-! ## The operation -/

section Operation
variable {s : State} {o : CfgOp}

theorem exec_load (h : Pending s o .queued) (hk : o.kind = .ld) : exec (.configurationLoad o.id) s = .next (s.cfgFinish o (ldM o)) := by
  show execConfigurationLoad o.id s = _
  simp [execConfigurationLoad, h.found, h.first, h.stage, hk]

theorem exec_swapIn (h : Pending s o .acting) (hk : o.kind = .swp) {im : Image} (hi : o.image = some im) :
    exec (.configurationLoad o.id) s = .next (s.swapIn o im) := by
  show execConfigurationLoad o.id s = _
  simp [execConfigurationLoad, h.found, h.first, h.stage, hk, hi]

theorem exec_nameOkM_bad (h : wordBad o.word = true) : (nameOkM o).exec s = (.error (.raise Cause.cfgRange 0), s) := by
  unfold nameOkM
  rw [h]
  rfl

theorem exec_nameOkM_notOwner (h : wordBad o.word = false) (hc : o.core ≠ Config.sceip) (hl : o.launch = 0)
    (hw : wordId o.word / 16 ≠ o.core) : (nameOkM o).exec s = (.error (.raise Cause.cfgNotOwner 0), s) := by
  have hp : (o.core != Config.sceip && decide (o.launch = 0) && wordId o.word / 16 != o.core) = true := by simp [hc, hl, hw]
  unfold nameOkM
  rw [h, hp]
  rfl

theorem exec_nameOkM (h : MayName o) : (nameOkM o).exec s = (.ok (), s) := by
  have hp : (o.core != Config.sceip && decide (o.launch = 0) && wordId o.word / 16 != o.core) = false := by
    rcases h.owner with h | h | h <;> simp [h]
  unfold nameOkM
  rw [h.word, hp]
  rfl

theorem exec_freeM (hd : s.downBays.contains (wordId o.word / 1024) = false) : (freeM o).exec s =
    if s.quadsFree o.id (wordId o.word) (wordQuads o.word) then (.ok (), s) else (.error (.raise Cause.cfgOverlap 0), s) := by
  simp only [freeM, exec_bind, exec_get, hd]
  cases s.quadsFree o.id (wordId o.word) (wordQuads o.word) <;> rfl

end Operation

theorem cfgFinish_raise {s s1 : State} {o : CfgOp} {m : Mach Unit} {cause : Byte} {a : DWord}
    (h : m.exec s = (.error (.raise cause a), s1)) : s.cfgFinish o m = s1.cfgDone o cause := by
  unfold State.cfgFinish
  rw [h]

/-- What a checked image comes to as the operation ends. -/
theorem exec_loadM' (o : CfgOp) (im : Image) (byCfg : Bool) (s : State) : (loadM' o im byCfg).exec s =
    match (loadChecksM (whoCfg o) (im.region (wordId o.word) o.ctx o.addr byCfg)).exec s with
    | (.error e, s1) => (.error e, s1)
    | (.ok r, s1) => (.ok (), s1.install r) := by
  simp only [loadM', exec_bind]
  rcases (loadChecksM (whoCfg o) (im.region (wordId o.word) o.ctx o.addr byCfg)).exec s with ⟨_ | r, s1⟩ <;> rfl

theorem cfgFinish_ldM {s : State} {o : CfgOp} (hn : MayName o) (hd : s.downBays.contains (wordId o.word / 1024) = false)
    (hq : s.quadsFree o.id (wordId o.word) (wordQuads o.word) = true) : s.cfgFinish o (ldM o) =
      match (checkedImageM (whoCfg o) o.addr o.word o.ctx).exec s with
      | (.error (.raise cause _), s1) => s1.cfgDone o cause
      | (.error _, s1) => s1
      | (.ok im, s1) => match (loadChecksM (whoCfg o) (im.region (wordId o.word) o.ctx o.addr true)).exec s1 with
        | (.error (.raise cause _), s2) => s2.cfgDone o cause
        | (.error _, s2) => s2
        | (.ok r, s2) => (s2.install r).cfgDone o 0 := by
  unfold State.cfgFinish
  simp only [ldM, exec_bind, exec_nameOkM hn, exec_freeM hd, hq, if_true, exec_loadM']
  rcases (checkedImageM (whoCfg o) o.addr o.word o.ctx).exec s with ⟨e | im, s1⟩
  · cases e <;> rfl
  · dsimp only
    rcases (loadChecksM (whoCfg o) (im.region (wordId o.word) o.ctx o.addr true)).exec s1 with ⟨e | r, s2⟩
    · cases e <;> rfl
    · rfl

theorem swapIn_ok {s s1 : State} {o : CfgOp} {im : Image} {r : Region}
    (h : (loadChecksM (whoCfg o) (im.region (wordId o.word) o.ctx o.addr false)).exec s = (.ok r, s1)) :
    s.swapIn o im = (s1.install r).cfgDone o 0 := by
  unfold State.swapIn
  rw [exec_loadM', h]

theorem swapIn_raise {s s1 : State} {o : CfgOp} {im : Image} {cause : Byte} {a : DWord}
    (h : (loadChecksM (whoCfg o) (im.region (wordId o.word) o.ctx o.addr false)).exec s = (.error (.raise cause a), s1)) :
    s.swapIn o im = (s1.heldTokens (im.region (wordId o.word) o.ctx o.addr false) false
      (im.region (wordId o.word) o.ctx o.addr false).boundarySides).cfgDone o cause := by
  unfold State.swapIn
  rw [exec_loadM', h]

/-! ## The image (R209, R211) -/

theorem partsPlaced_iff (rt el qc : Nat) : partsPlaced rt el qc = true ↔ rt % 8 = 0 ∧ el % 64 = 0 ∧ 0x40 ≤ rt ∧ 0x40 ≤ el ∧
    (rt + 1024 ≤ el ∨ el + 2048 * qc ≤ rt) ∧ rt + 1024 ≤ 2 ^ 64 ∧ el + 2048 * qc ≤ 2 ^ 64 := by
  simp only [partsPlaced, Bool.and_eq_true, Bool.or_eq_true, beq_iff_eq, decide_eq_true_eq, and_assoc]

theorem exec_readImageM_misaligned (w : Who) {va : DWord} (quads : Nat) (s : State) (h : va.toNat % 64 ≠ 0) :
    (readImageM w va quads).exec s = (.error (.raise Cause.misaligned va), s) := by
  unfold readImageM
  rw [if_pos (by simpa using h)]
  rfl

theorem exec_readImageM_noncanonical (w : Who) {va : DWord} (quads : Nat) (s : State) (h : va.toNat % 64 = 0)
    (hc : canonical va = false) : (readImageM w va quads).exec s = (.error (.raise Cause.addrNoncanonical va), s) := by
  unfold readImageM
  rw [if_neg (by simp [h]), hc]
  rfl

/-- QC of a header. -/
def headerQc (hd : List DWord) : Nat := bits (hd.getD 0 0).toNat 47 32

/-- Its parts are placed correctly for 1 to 1,024 quads. -/
def headerPlaced (hd : List DWord) : Bool :=
  decide (1 ≤ headerQc hd) && decide (headerQc hd ≤ 1024) && partsPlaced (hd.getD 1 0).toNat (hd.getD 2 0).toNat (headerQc hd)

/-- What the words of an image come to once they are read. -/
def judgeImage (va : DWord) (quads : Nat) (hd rtab : List DWord) (es : AMap Elem) (poison ok : Bool) : Except Stop Image :=
  if poison then .error (.raise Cause.poisonConsumed va)
  else if headerQc hd != quads then .error (.raise Cause.cfgRange va)
  else if bits (hd.getD 0 0).toNat 31 0 != 1 || bits (hd.getD 0 0).toNat 63 48 != 0 || !((hd.drop 3).all (fun v => v == 0)) ||
    !headerPlaced hd || !ok then .error (.raise Cause.illegalOp va)
  else .ok ⟨headerQc hd, vecOf 0 rtab 128, es⟩

/-- An image is read, and then judged: header, route table, element records. -/
theorem exec_readImageM {va : DWord} (h : va.toNat % 64 = 0) (hc : canonical va = true) (w : Who) (quads : Nat) (s : State) :
    (readImageM w va quads).exec s = match (cfgDwordsM w va 8).exec s with
      | (.error e, s1) => (.error e, s1)
      | (.ok (hd, p0), s1) =>
        match (cfgDwordsM w (va + BitVec.ofNat 64 (hd.getD 1 0).toNat) (if headerPlaced hd then 128 else 0)).exec s1 with
        | (.error e, s2) => (.error e, s2)
        | (.ok (rtab, p1), s2) =>
          match (cfgElemsM w (va + BitVec.ofNat 64 (hd.getD 2 0).toNat) (if headerPlaced hd then 4 * headerQc hd else 0) 0).exec s2 with
          | (.error e, s3) => (.error e, s3)
          | (.ok (es, ok, p2), s3) => (judgeImage va quads hd rtab es (p0 || p1 || p2) ok, s3) := by
  unfold readImageM
  rw [if_neg (by simp [h]), hc, if_neg (by simp), exec_bind]
  rcases (cfgDwordsM w va 8).exec s with ⟨_ | ⟨hd, p0⟩, s1⟩
  · rfl
  dsimp only
  rw [exec_bind]
  simp only [show (decide (1 ≤ bits (hd.getD 0 0).toNat 47 32) && decide (bits (hd.getD 0 0).toNat 47 32 ≤ 1024) &&
    partsPlaced (hd.getD 1 0).toNat (hd.getD 2 0).toNat (bits (hd.getD 0 0).toNat 47 32)) = headerPlaced hd from rfl]
  rcases (cfgDwordsM w (va + BitVec.ofNat 64 (hd.getD 1 0).toNat) (if headerPlaced hd then 128 else 0)).exec s1
    with ⟨_ | ⟨rtab, p1⟩, s2⟩
  · rfl
  dsimp only
  rw [exec_bind]
  simp only [show bits (hd.getD 0 0).toNat 47 32 = headerQc hd from rfl]
  rcases (cfgElemsM w (va + BitVec.ofNat 64 (hd.getD 2 0).toNat) (if headerPlaced hd then 4 * headerQc hd else 0) 0).exec s2
    with ⟨_ | ⟨es, ok, p2⟩, s3⟩
  · rfl
  unfold judgeImage
  simp only [exec_ite]
  split_ifs <;> rfl

/-- A header whose parts have no place is read alone (log entry 60). -/
theorem exec_readImageM_unplaced {va : DWord} (h : va.toNat % 64 = 0) (hc : canonical va = true) (w : Who) (quads : Nat) {s s1 : State}
    {hd : List DWord} (hx : (cfgDwordsM w va 8).exec s = (.ok (hd, false), s1)) (hp : headerPlaced hd = false) :
    (readImageM w va quads).exec s = (.error (.raise (if headerQc hd = quads then Cause.illegalOp else Cause.cfgRange) va), s1) := by
  rw [exec_readImageM h hc, hx]
  simp only [hp, Bool.false_eq_true, if_false, show ∀ a, cfgDwordsM w a 0 = pure ([], false) from fun _ => rfl,
    show ∀ a, cfgElemsM w a 0 0 = pure ([], true, false) from fun _ => rfl, exec_pure, judgeImage, Bool.or_self, Bool.not_false,
    Bool.or_true, Bool.true_or, if_true, bne_iff_ne, ne_eq, ite_not]
  split <;> rfl

theorem judgeImage_ok {va : DWord} {quads : Nat} {hd rtab : List DWord} {es : AMap Elem} {poison ok : Bool} {im : Image}
    (h : judgeImage va quads hd rtab es poison ok = .ok im) : im.qc = quads ∧ 1 ≤ quads ∧ quads ≤ 1024 := by
  unfold judgeImage at h
  split_ifs at h with h1 h2 h3
  obtain rfl := Except.ok.inj h
  have hq : headerQc hd = quads := by simpa using h2
  have hplaced : headerPlaced hd = true := by
    by_contra hn
    simp [Bool.eq_false_iff.2 hn] at h3
  simp only [headerPlaced, hq, Bool.and_eq_true, decide_eq_true_eq] at hplaced
  exact ⟨hq, hplaced.1⟩

theorem readImageM_ok {w : Who} {va : DWord} {quads : Nat} {s t : State} {im : Image}
    (h : (readImageM w va quads).exec s = (.ok im, t)) : im.qc = quads ∧ 1 ≤ quads ∧ quads ≤ 1024 ∧ va.toNat % 64 = 0 := by
  by_cases ha : va.toNat % 64 = 0
  · cases hc : canonical va with
    | false => rw [exec_readImageM_noncanonical w quads s ha hc] at h; cases h
    | true =>
      rw [exec_readImageM ha hc] at h
      split at h
      · cases h
      · split at h
        · cases h
        · split at h
          · cases h
          · obtain ⟨h1, h2, h3⟩ := judgeImage_ok (congrArg Prod.fst h)
            exact ⟨h1, h2, h3, ha⟩
  · rw [exec_readImageM_misaligned w quads s ha] at h; cases h

theorem exec_checkedImageM (w : Who) (va word : DWord) (ctx : Nat) (s : State) : (checkedImageM w va word ctx).exec s =
    match (readImageM w va (wordQuads word)).exec s with
    | (.error e, s1) => (.error e, s1)
    | (.ok im, s1) => match (im.region (wordId word) ctx va false).staticFault with
      | some cause => (.error (.raise cause va), s1)
      | none => (.ok im, s1) := by
  unfold checkedImageM
  rw [exec_bind]
  rcases (readImageM w va (wordQuads word)).exec s with ⟨_ | im, s1⟩
  · rfl
  · dsimp only
    cases (im.region (wordId word) ctx va false).staticFault <;> rfl

/-! ## The checks of the words (R205, R212) -/

section Words
variable (r : Region)

theorem staticFault_of_edgeTie (h : r.edgeTie = true) : r.staticFault = some Cause.illegalOp := if_pos h

theorem staticFault_of_inner (h : r.edgeTie = false) : r.staticFault = r.wordsFault := if_neg (by simp [h])

theorem wordsFault_of_elem {e : Nat} (he : e < 4 * r.quads) (h : (r.elem e).wordsOk = false) : r.wordsFault = some Cause.illegalOp := by
  have hall : (List.range (4 * r.quads)).all (fun e => (r.elem e).wordsOk) = false :=
    List.all_eq_false.2 ⟨e, List.mem_range.2 he, by simp [h]⟩
  unfold Region.wordsFault
  rw [hall]
  rfl

theorem all_rtab_iff : r.rtab.all (routeEntryOk r.quads) = true ↔ ∀ k, k < 128 → routeEntryOk r.quads (r.rtab.getD k 0) = true := by
  rw [Vector.all_eq_true]
  refine forall₂_congr fun k hk => ?_
  rw [show r.rtab.getD k 0 = r.rtab[k] from by simp [Vector.getD, hk]]

theorem wordsFault_of_route {k : Nat} (hk : k < 128) (h : routeEntryOk r.quads (r.rtab.getD k 0) = false) :
    r.wordsFault = some Cause.illegalOp := by
  have hall : r.rtab.all (routeEntryOk r.quads) = false := by
    by_contra hc
    rw [(all_rtab_iff r).1 (Bool.eq_true_of_not_eq_false hc) k hk] at h
    cases h
  unfold Region.wordsFault
  rw [hall]
  split <;> rfl

theorem wordsFault_of_ok (he : ∀ e, e < 4 * r.quads → (r.elem e).wordsOk = true)
    (hk : ∀ k, k < 128 → routeEntryOk r.quads (r.rtab.getD k 0) = true) (hb : r.bindsOk = true) (hm : r.matrixOk = true)
    (hw : r.widthsOk = true) : r.wordsFault = if r.sharedArm = true then some Cause.cfgSharedArm else none := by
  have hall : (List.range (4 * r.quads)).all (fun e => (r.elem e).wordsOk) = true :=
    List.all_eq_true.2 fun e h => he e (List.mem_range.1 h)
  unfold Region.wordsFault
  rw [hall, (all_rtab_iff r).2 hk, hb, hm, hw]
  rfl

end Words

theorem wordsOk_of_mode {e : Elem} (h : e.mode.extractLsb' 24 5 ≠ 0 ∨ e.mode.extractLsb' 0 8 ≠ 0) : e.wordsOk = false := by
  unfold Elem.wordsOk
  rcases h with h | h
  · rw [beq_eq_false_iff_ne.2 h]; rfl
  · rw [beq_eq_false_iff_ne.2 h]; simp

theorem slotWordOk_of_rejected {e : Elem} {w : Word} {why : Reject} (h0 : w ≠ 0) (h : decodeElem w = .rejected why) :
    e.slotWordOk w = false := by
  unfold Elem.slotWordOk
  rw [if_neg h0, h]

theorem wordsOk_of_rejected {e : Elem} (hs : e.isStatic = false) {k : Nat} (hk : k < 32) (h0 : e.slots.getD k 0 ≠ 0)
    {why : Reject} (h : decodeElem (e.slots.getD k 0) = .rejected why) : e.wordsOk = false := by
  have hall : e.slots.all (fun w => e.slotWordOk w) = false := by
    by_contra hc
    have hok := Vector.all_eq_true.1 (Bool.eq_true_of_not_eq_false hc) k hk
    rw [show e.slots[k] = e.slots.getD k 0 from by simp [Vector.getD, hk], slotWordOk_of_rejected h0 h] at hok
    cases hok
  unfold Elem.wordsOk
  rw [hs, hall]
  simp

/-! ## The image as a region (R20, R76, R209) -/

theorem getD_vecOf {α : Type} (d : α) (l : List α) {n k : Nat} (hk : k < n) : (vecOf d l n).getD k d = l.getD k d := by
  simp [vecOf, Vector.getD, hk]

theorem cred_region (im : Image) (id ctx : Nat) (image : DWord) (b : Bool) {k : Nat} (hk : k < 128) :
    AMap.getD (im.region id ctx image b).cred k 0 =
      if routeType (im.rtab.getD k 0) = 1 ∨ routeType (im.rtab.getD k 0) = 2 then routeCredits (im.rtab.getD k 0) else 0 := by
  refine (getD_foldl_set (fun k => decide (routeType (im.rtab.getD k 0) = 1) || decide (routeType (im.rtab.getD k 0) = 2))
    (fun k => routeCredits (im.rtab.getD k 0)) 0 k (List.range 128) []).trans (if_congr ?_ rfl rfl)
  simp only [List.mem_range, hk, true_and, Bool.or_eq_true, decide_eq_true_eq]

theorem getD_replicate {α : Type} (n j : Nat) (z : α) : (Vector.replicate n z).getD j z = z := by
  simp [Vector.getD, Array.getD]

theorem elemOf_spec (ws : List Word) (e : Elem) (he : e = elemOf ws) : e.mode = ws.getD 0 0 ∧ e.route = ws.getD 1 0 ∧
    e.static = ws.getD 2 0 ∧ e.p = e.pReset ∧ (∀ j, e.xr j = 0 ∧ e.wr j = 0) ∧ (∀ k, k < 8 → e.consts.getD k 0 = ws.getD (8 + k) 0) ∧
    (∀ k, k < 64 → e.trigs.getD k 0 = ws.getD (16 + k) 0) ∧ (∀ k, k < 32 → e.slots.getD k 0 = ws.getD (80 + k) 0) := by
  subst he
  have hdrop (a k : Nat) : (ws.drop a).getD k 0 = ws.getD (a + k) 0 := by simp [List.getD_eq_getElem?_getD]
  exact ⟨rfl, rfl, rfl, rfl, fun j => ⟨getD_replicate _ j _, getD_replicate _ j _⟩, fun k hk => (getD_vecOf _ _ hk).trans (hdrop 8 k),
    fun k hk => (getD_vecOf _ _ hk).trans (hdrop 16 k), fun k hk => (getD_vecOf _ _ hk).trans (hdrop 80 k)⟩

/-! ## What a load leaves (R44, R252, R284) -/

theorem mem_natsFrom (a n k : Nat) : k ∈ natsFrom a n ↔ a ≤ k ∧ k < a + n := by
  induction n generalizing a with
  | zero => simp [natsFrom]
  | succ n ih => rw [natsFrom, List.mem_cons, ih]; omega

/-- Fresh quads are the context's; of the part only scratchpads change besides. -/
theorem freshQuads_spec (ctx : Nat) (l : List Nat) (s : State) :
    (∀ k, AMap.getD (s.freshQuads ctx l).lastCtx k 64 = if k ∈ l then ctx else AMap.getD s.lastCtx k 64) ∧
    { s.freshQuads ctx l with scratch := s.scratch, scratchPoison := s.scratchPoison, lastCtx := s.lastCtx } = s := by
  induction l generalizing s with
  | nil => exact ⟨fun k => rfl, rfl⟩
  | cons q l ih =>
    have hz (p : Prop) [Decidable p] : (if p then s else s.scrZero q).lastCtx = s.lastCtx ∧
        { (if p then s else s.scrZero q) with scratch := s.scratch, scratchPoison := s.scratchPoison, lastCtx := s.lastCtx } = s := by
      split <;> exact ⟨rfl, rfl⟩
    obtain ⟨hctx, hs⟩ := hz (AMap.getD s.lastCtx q ctx = ctx)
    unfold State.freshQuads
    dsimp only
    generalize (if AMap.getD s.lastCtx q ctx = ctx then s else s.scrZero q) = s1 at hctx hs ⊢
    obtain ⟨h1, h2⟩ := ih { s1 with lastCtx := AMap.set s1.lastCtx q ctx }
    refine ⟨fun k => (h1 k).trans ?_, ?_⟩
    · by_cases hk : q = k
      · subst hk; simp [getD_set_self]
      · simp [getD_set_ne _ _ _ hk, Ne.symm hk, hctx]
    · have h := congrArg (fun z : State => { z with scratch := s.scratch, scratchPoison := s.scratchPoison, lastCtx := s.lastCtx }) h2
      exact h.trans hs

theorem OnlyRecorded.landings {s t : State} (h : OnlyRecorded s t) : t.landings = s.landings := by
  have h := congrArg State.landings (onlyRecorded_iff.1 h)
  exact h

theorem OnlyRecorded.lastCtx {s t : State} (h : OnlyRecorded s t) : t.lastCtx = s.lastCtx := by
  have h := congrArg State.lastCtx (onlyRecorded_iff.1 h)
  exact h

theorem onlyRecorded_markEnds (ctx : Nat) (on : Bool) (l : AMap QEnd) (s : State) : OnlyRecorded s (markEnds ctx on l s) := by
  induction l generalizing s with
  | nil => exact .refl s
  | cons p l ih =>
    rw [markEnds]
    refine .trans ?_ (ih _)
    unfold State.markEnd
    split
    · exact onlyRecorded_partWrite ..
    · split
      · exact onlyRecorded_sendReq ..
      · exact onlyRecorded_record ..

/-- Discarding the tokens held at a boundary leaves the regions, the landing queues and the quads' contexts. -/
theorem heldTokens_frame (r : Region) (keep : Bool) (l : List (Nat × Dir)) (s : State) :
    (s.heldTokens r keep l).regions = s.regions ∧ (s.heldTokens r keep l).landings = s.landings ∧
    (s.heldTokens r keep l).lastCtx = s.lastCtx := by
  induction l generalizing s with
  | nil => exact ⟨rfl, rfl, rfl⟩
  | cons p l ih =>
    obtain ⟨e, d⟩ := p
    unfold State.heldTokens
    split
    · exact ih s
    · split
      · exact ih s
      · dsimp only
        split
        · exact ih s
        · exact ⟨(ih _).1.trans (onlyRecorded_record ..).regions, (ih _).2.1.trans (onlyRecorded_record ..).landings,
            (ih _).2.2.trans (onlyRecorded_record ..).lastCtx⟩

/-- The region as it becomes resident, under the number of its configuration. -/
def State.resident (s : State) (r : Region) : State :=
  let s1 := s.freshQuads r.ctx (natsFrom r.id r.quads)
  { s1 with nextId := s1.nextId + 1 }.setRegion { r with inst := s1.nextId }

/-- Where no packet waits at a landing queue. -/
theorem install_eq {s : State} (h : s.landings = []) (r : Region) :
    s.install r = (markEnds r.ctx true r.qends (s.resident r)).heldTokens r true r.boundarySides := by
  have hl : (markEnds r.ctx true r.qends (s.resident r)).landings = [] := by
    have hfresh := congrArg State.landings (freshQuads_spec r.ctx (natsFrom r.id r.quads) s).2
    rw [(onlyRecorded_markEnds r.ctx true r.qends (s.resident r)).landings]
    exact Eq.trans hfresh h
  have hlands : ((markEnds r.ctx true r.qends (s.resident r)).heldTokens r true r.boundarySides).sortLandings r
      (markEnds r.ctx true r.qends (s.resident r)).landings =
      (markEnds r.ctx true r.qends (s.resident r)).heldTokens r true r.boundarySides := by rw [hl]; rfl
  exact hlands

theorem install_spec {s : State} (hl : s.landings = []) (r : Region) :
    (∃ q, (s.install r).region? r.id = some q ∧ { q with inst := r.inst } = r) ∧
    (∀ i, i ≠ r.id → (s.install r).region? i = s.region? i) ∧
    (∀ k, r.id ≤ k → k < r.id + r.quads → AMap.getD (s.install r).lastCtx k 64 = r.ctx) := by
  obtain ⟨hctx, hfresh⟩ := freshQuads_spec r.ctx (natsFrom r.id r.quads) s
  obtain ⟨hreg, -, hlast⟩ := heldTokens_frame r true r.boundarySides (markEnds r.ctx true r.qends (s.resident r))
  have hmark := onlyRecorded_markEnds r.ctx true r.qends (s.resident r)
  have hregs : (s.install r).regions = (s.resident r).regions := by rw [install_eq hl, hreg, hmark.regions]
  have hregion (i : Nat) : (s.install r).region? i = (s.resident r).region? i := by unfold State.region?; rw [hregs]
  refine ⟨⟨{ r with inst := (s.freshQuads r.ctx (natsFrom r.id r.quads)).nextId }, ?_, rfl⟩, fun i hi => ?_, fun k h1 h2 => ?_⟩
  · rw [hregion]
    exact region_setRegion _ { r with inst := (s.freshQuads r.ctx (natsFrom r.id r.quads)).nextId }
  · rw [hregion]
    refine (region_setRegion_ne _ { r with inst := (s.freshQuads r.ctx (natsFrom r.id r.quads)).nextId } hi).trans ?_
    have h := congrArg (fun z : State => z.region? i) hfresh
    exact h
  · rw [install_eq hl, hlast, hmark.lastCtx]
    exact (hctx k).trans (if_pos ((mem_natsFrom ..).2 ⟨h1, h2⟩))

/-- Settles O30: an operation by its checks, an image by what is read of it, and a load by what it leaves. -/
theorem configurationLoads : Obligations.ConfigurationLoads := by
  unfold Obligations.ConfigurationLoads
  refine ⟨⟨fun s o h hk => ⟨fun hw => ?_, fun hw hc hl ho => ?_, fun hn hd => ⟨fun hq => ?_, fun hq => ?_⟩⟩, ?swap, ?fails⟩,
    partsPlaced_iff, fun w va quads s h => exec_readImageM_misaligned w quads s h, ?header, ?image, exec_checkedImageM, ?words, ?elem,
    ?region, elemOf_spec, ?install⟩
  · rw [exec_load h hk, cfgFinish_raise (by rw [ldM, exec_bind, exec_nameOkM_bad hw])]
  · rw [exec_load h hk, cfgFinish_raise (by rw [ldM, exec_bind, exec_nameOkM_notOwner hw hc hl ho])]
  · rw [exec_load h hk, cfgFinish_raise (by rw [ldM, exec_bind, exec_nameOkM hn]; simp only [exec_bind, exec_freeM hd, hq]; rfl)]
  · exact (exec_load h hk).trans (congrArg Host.Outcome.next (cfgFinish_ldM hn hd hq))
  case swap =>
    intro s o im r s1 h hk hi hx
    rw [exec_swapIn h hk hi, swapIn_ok hx]
  case fails =>
    rintro s o im q cause addr s1 h hk hi rfl hx
    rw [exec_swapIn h hk hi, swapIn_raise hx]
  case header =>
    rintro w va quads s hd s1 ha hc hx qc rfl hbad
    refine exec_readImageM_unplaced ha hc w quads hx (Bool.eq_false_iff.2 fun hp => hbad ?_)
    simp only [headerPlaced, Bool.and_eq_true, decide_eq_true_eq] at hp
    exact ⟨hp.1.1, hp.1.2, hp.2⟩
  case image =>
    intro w va quads s
    split
    next im t h => exact readImageM_ok h
    next => trivial
  case words =>
    exact fun r => ⟨staticFault_of_edgeTie r, staticFault_of_inner r, fun e he h => wordsFault_of_elem r he h,
      fun k hk h => wordsFault_of_route r hk h, wordsFault_of_ok r⟩
  case elem => exact fun e => ⟨wordsOk_of_mode, fun hs k hk h0 ⟨why, h⟩ => wordsOk_of_rejected hs hk h0 h⟩
  case region =>
    rintro im id ctx image b r rfl
    exact ⟨rfl, rfl, rfl, rfl, rfl, rfl, fun k hk => cred_region im id ctx image b hk⟩
  case install =>
    rintro s r hl t rfl
    exact install_spec hl r

end Sys2Proof.Machine
end

section
/-!
PROOFS. Streams: retirement, credit, signal, and the dirty harvest (R187, R189, R195, R201, R308).
-/
namespace Sys2Proof.Machine

/-! ## Retirement -/

section Retire
variable {s : State} {t : Stream} (ht : s.stream? t.id = some t) (hw : s.streamWrites t.id = false)
include ht hw

/-- A stream that has moved all its layout without poison. -/
theorem exec_streamRetire_moved (hr : t.st = .running) (hm : t.moved = true) (hp : t.poison = false) :
    exec (.streamRetire t.id) s = match s.streamCredit t false with
      | none => .next s
      | some (s1, none) => .next ((s1.streamSignal t false).streamGone t)
      | some (s1, some cause) => .next (((s1.streamError t cause t.tb).streamSignal t true).streamGone t) := by
  have hover : s.streamOver t = true := by simp [State.streamOver, hw, Stream.isFailed, hr, hm]
  rw [show exec (.streamRetire t.id) s = execStreamRetire t.id s from rfl, execStreamRetire, ht]
  simp only [hover, Bool.not_true, Bool.false_eq_true, if_false, Stream.isFailed, hr, hp, Bool.not_false, Bool.and_false, Bool.false_and,
    Bool.or_self]
  rcases s.streamCredit t false with _ | ⟨s1, _ | cause⟩ <;> rfl

/-- A stream that has failed and has marked what it did not write. -/
theorem exec_streamRetire_failed {cause : Byte} {addr : DWord} (hf : t.st = .failed cause addr) (hm : t.marksLeft = false)
    {s1 : State} {o : Option Byte} (hc : s.streamCredit t true = some (s1, o)) :
    exec (.streamRetire t.id) s = .next ((s1.streamSignal t true).streamGone t) := by
  have hover : s.streamOver t = true := by simp [State.streamOver, hw, Stream.isFailed, hf, hm]
  rw [show exec (.streamRetire t.id) s = execStreamRetire t.id s from rfl, execStreamRetire, ht]
  simp only [hover, Bool.not_true, Bool.false_eq_true, if_false, Stream.isFailed, hf, Bool.false_and, Bool.or_false, hc, if_true,
    Bool.true_or]
  cases o <;> rfl

end Retire

/-! ## Credit and signal -/

section Credit
variable {s : State} {t : Stream} {failed : Bool}

theorem streamCredit_none_due (h : t.kind = .hrv ∨ t.desc1.tbarEn = false) : s.streamCredit t failed = some (s, none) := by
  unfold State.streamCredit
  exact if_pos (by rcases h with h | h <;> simp [h])

theorem streamCredit_due (hk : t.kind ≠ .hrv) (hb : t.desc1.tbarEn = true) : s.streamCredit t failed =
    match (streamObjM t).exec s with
    | (.ok pa, s1) => some (s1.tbarCredit pa t.desc1.bytes t.ctx failed, none)
    | (.error (.raise c _), s1) => some (s1, some c)
    | (.error _, _) => none := by
  unfold State.streamCredit
  exact if_neg (by simp [hk, hb])

theorem exec_streamObjM_error {e : Stop} {s1 : State} (h : (translateM (whoStream t) .atomic t.tb).exec s = (.error e, s1)) :
    (streamObjM t).exec s = (.error e, s1) := by
  simp only [streamObjM, exec_bind, h]

theorem exec_streamObjM_ok {x : Xlat} {s1 : State} (h : (translateM (whoStream t) .atomic t.tb).exec s = (.ok x, s1)) :
    (streamObjM t).exec s =
      if x.mt = 0 ∧ isNormal (lowOf x.pa) = true ∧ s1.isLocal x.pa = true ∧ lowOf x.pa ∈ s1.barriers then (.ok (lowOf x.pa), s1)
      else (.error (.raise Cause.streamDesc t.tb), s1) := by
  simp only [streamObjM, exec_bind, h, exec_get, exec_ite, Bool.or_eq_true, bne_iff_ne, Bool.not_eq_true',
    ← Bool.not_eq_true, List.contains_iff_mem]
  by_cases hx : x.mt = 0 ∧ isNormal (lowOf x.pa) = true ∧ s1.isLocal x.pa = true ∧ lowOf x.pa ∈ s1.barriers
  · rw [if_pos hx, if_neg (by tauto)]; rfl
  · rw [if_neg hx, if_pos (by tauto)]; rfl

theorem streamSignal_reaches (hk : t.kind ≠ .hrv) (he : t.desc1.semaEn = true)
    (hr : t.core = Config.sceip ∨ s.coreCtx (t.desc1.sema / 64) = t.ctx) (hs : t.desc1.sema < 2 ^ 14) :
    s.streamSignal t failed = if failed then (s.semaAdd (t.desc1.sema / 64) (t.desc1.sema % 64) 1).semaErr (t.desc1.sema / 64)
      (t.desc1.sema % 64) else s.semaAdd (t.desc1.sema / 64) (t.desc1.sema % 64) 1 := by
  have hmod : t.desc1.sema / 64 % 256 = t.desc1.sema / 64 := Nat.mod_eq_of_lt (by omega)
  unfold State.streamSignal
  dsimp only
  rw [if_neg (by simp [hk, he]), if_neg (by rcases hr with hr | hr <;> simp [hr, State.semaReach]), State.semaNamed, hmod]

end Credit

/-! ## The dirty harvest -/

section Harvest
variable {s : State} {t : Stream} {root : Nat} {va : DWord}

theorem exec_dirtyHarvest (ht : s.stream? t.id = some t) (hk : t.kind = .hrv) (hr : t.st = .running) (hm : t.moved = false)
    {t1 : Stream} {s1 : State} (h : (harvestM t (t.hva + BitVec.ofNat 64 t.item)).exec s = (.ok t1, s1)) :
    exec (.dirtyHarvest t.id) s = .next ((s1.setStream t1).endReads (.island 10 t.id)) := by
  rw [show exec (.dirtyHarvest t.id) s = execDirtyHarvest t.id s from rfl, execDirtyHarvest, ht]
  simp [hk, hr, hm, h]

/-- The stream past n bytes of its range. -/
def Stream.past (t : Stream) (n : Nat) : Stream := { t with item := t.item + n, stops := 0, spoison := false }

theorem exec_harvestM_skip (hc : canonical va = true) (hroot : (s.ctxOf t.ctx).root = some root) {n : Nat}
    (h : s.harvestFrom va 5 root = .skip n) : (harvestM t va).exec s = (.ok (t.past (n - va.toNat % n)), s) := by
  simp only [harvestM, exec_bind, exec_get, hc, Bool.not_true, Bool.false_eq_true, if_false, hroot, h, exec_pure]
  rfl

/-- The page's leaf once all frames are read: D is set if one was written. -/
def State.harvested (s : State) (pa0 : Nat) (wrote : Bool) : State :=
  if wrote then s.fabWriteNat pa0 8 (s.fabNat pa0 8 ||| 0x800) else s

section Page
variable {pa0 : Nat} {leaf : DWord} (hc : canonical va = true) (hroot : (s.ctxOf t.ctx).root = some root)
  (h : s.harvestFrom va 5 root = .page pa0 leaf) (hmt : leafMt leaf = 0) (hk : t.stops < pageBytes leaf / 4096)
  {t1 : Stream} {s1 : State} (hf : (framesM t (leafPa leaf) (pageBytes leaf / 4096)).exec s = (.ok t1, s1))
include hc hroot h hmt hk hf

theorem exec_harvestM_part (h1 : t1.stops < pageBytes leaf / 4096) : (harvestM t va).exec s = (.ok t1, s1) := by
  simp only [harvestM, exec_bind, exec_get, hc, Bool.not_true, Bool.false_eq_true, if_false, hroot, h, hmt, bne_self_eq_false, hk,
    if_true, hf, h1, exec_pure]

theorem exec_harvestM_whole (h1 : ¬ t1.stops < pageBytes leaf / 4096) (hw : s.writeHeld pa0 8 false = false) :
    (harvestM t va).exec s = (.ok (t.past (pageBytes leaf - va.toNat % pageBytes leaf)), s1.harvested pa0 t1.spoison) := by
  simp only [harvestM, exec_bind, exec_get, hc, Bool.not_true, Bool.false_eq_true, if_false, hroot, h, hmt, bne_self_eq_false, hk,
    if_true, hf, h1, hw]
  cases hs : t1.spoison <;> rfl

end Page

theorem exec_framesM_here {pa k : Nat} (hl : s.isLocal (pa + 4096 * t.stops) = true) {n : Nat}
    (hn : n = min (k - t.stops) (2 ^ 28 - lowOf (pa + 4096 * t.stops) / 4096)) {first : Nat} (hfst : first = lowOf (pa + 4096 * t.stops) / 4096) :
    (framesM t pa k).exec s = (.ok { t with
        stops := t.stops + n, spoison := t.spoison || s.frames.any (fun f => decide (first ≤ f) && decide (f < first + n)) },
      { s with frames := s.frames.filter (fun f => decide (f < first) || decide (first + n ≤ f)) }) := by
  subst hn hfst
  simp only [framesM, exec_bind, exec_get, hl, if_true]
  rfl

theorem exec_framesM_away {pa k : Nat} (hl : s.isLocal (pa + 4096 * t.stops) = false) {wrote : Bool} {s1 : State}
    (h : (remoteFrameM t (pa + 4096 * t.stops)).exec s = (.ok wrote, s1)) :
    (framesM t pa k).exec s = (.ok { t with stops := t.stops + 1, spoison := t.spoison || wrote }, s1) := by
  simp only [framesM, exec_bind, exec_get, hl, Bool.false_eq_true, if_false, h, exec_pure]

end Harvest

/-- Settles O39: a retirement by the credit it finds, the credit by its object, and a harvest by the frames read in the step. -/
theorem streamsRetireAndHarvest : Obligations.StreamsRetireAndHarvest := by
  unfold Obligations.StreamsRetireAndHarvest
  refine ⟨?moved, ?failed, ?credit, ?harvest⟩
  case moved =>
    intro s t ht hw hr hm hp
    rw [exec_streamRetire_moved ht hw hr hm hp]
    exact ⟨fun h => by rw [h], fun s1 h => by rw [h], fun s1 cause h => by rw [h]⟩
  case failed => exact fun s t cause addr s1 o ht hw hf hm hc => exec_streamRetire_failed ht hw hf hm hc
  case credit =>
    intro s t failed hk
    refine ⟨fun h => streamCredit_none_due (.inr h), fun x s1 hb h => ?_, fun cause addr s1 hb h => ?_,
      fun he hr hs => streamSignal_reaches hk he hr hs, rfl, fun e he => ?_⟩
    · rw [streamCredit_due hk hb, exec_streamObjM_ok h]
      split_ifs <;> rfl
    · rw [streamCredit_due hk hb, exec_streamObjM_error h]
    · exact not_and_or.2 (by simpa using (List.mem_filter.1 he).2)
  case harvest =>
    rintro s t root va ht hkind hr hm rfl hc hroot
    refine ⟨fun n h => exec_dirtyHarvest ht hkind hr hm (exec_harvestM_skip hc hroot h), ?_, ?_⟩
    · rintro pa0 leaf first k h hmt hw hl rfl rfl h0 hsp hk hfit s1 rfl
      have hat : leafPa leaf + 4096 * t.stops = leafPa leaf := by rw [h0, Nat.mul_zero, Nat.add_zero]
      have hl' : s.isLocal (leafPa leaf + 4096 * t.stops) = true := by rw [hat]; exact hl
      have hf := exec_framesM_here hl' (n := pageBytes leaf / 4096) (k := pageBytes leaf / 4096)
        (first := lowOf (leafPa leaf) / 4096) (by rw [hat, h0]; omega) (by rw [hat])
      have hx := exec_harvestM_whole hc hroot h hmt (by omega) hf (by simp [h0]) hw
      rw [exec_dirtyHarvest ht hkind hr hm hx, hsp]
      rfl
    · rintro pa0 leaf k h hmt rfl hk at_ rfl
      refine ⟨fun wrote s1 hl hfr => ⟨fun hlt => ?_, fun heq hw => ?_⟩, fun n hl hn hlt => ?_⟩
      · exact exec_dirtyHarvest ht hkind hr hm (exec_harvestM_part hc hroot h hmt hk (exec_framesM_away hl hfr) hlt)
      · exact exec_dirtyHarvest ht hkind hr hm
          (exec_harvestM_whole hc hroot h hmt hk (exec_framesM_away hl hfr) (by simp [heq]) hw)
      · exact exec_dirtyHarvest ht hkind hr hm
          (exec_harvestM_part hc hroot h hmt hk (exec_framesM_here hl (by omega) rfl) hlt)

end Sys2Proof.Machine
end

section
/-!
PROOFS. Streams: start, item moves, pauses and marks (R180 to R185, R190, R310, R364).
-/
namespace Sys2Proof.Machine

/-! ## Start (R310) -/

section Start
variable {s : State} {t : Stream} (ht : s.stream? t.id = some t) (hq : t.st = .queued) {s1 : State} (he : t.empty = true → s1 = s)
  (hn : t.empty = false → s.headStream t.core = some t ∧ s.engineNext (engineOf t) = some (rotaPlace t.core) ∧
    s1 = { s with lastSector := AMap.set s.lastSector (engineOf t) (rotaPlace t.core) })
include ht hq he hn

theorem exec_streamStart_runs (hc : s.streamCheck t = none) :
    exec (.streamStart t.id) s = .next (s1.setStream { t with st := .running }) := by
  rw [show exec (.streamStart t.id) s = execStreamStart t.id s from rfl, execStreamStart, ht]
  cases hempty : t.empty with
  | true =>
    rw [he hempty]
    simp [hq, hempty, hc]
  | false =>
    obtain ⟨hhead, hnext, hs⟩ := hn hempty
    rw [hs]
    simp [hq, hempty, hhead, hnext, hc]

theorem exec_streamStart_fails {cause : Byte} (hc : s.streamCheck t = some cause) :
    exec (.streamStart t.id) s = .next (s1.streamFail t cause 0) := by
  rw [show exec (.streamStart t.id) s = execStreamStart t.id s from rfl, execStreamStart, ht]
  cases hempty : t.empty with
  | true =>
    rw [he hempty]
    simp [hq, hempty, hc]
  | false =>
    obtain ⟨hhead, hnext, hs⟩ := hn hempty
    rw [hs]
    simp [hq, hempty, hhead, hnext, hc]

end Start

theorem hasPlace_iff (s : State) (t : Stream) (blk : List Stream)
    (hb : blk = s.streams.filter (fun x => coreBlock x.core == coreBlock t.core && x.active && !x.empty)) :
    s.hasPlace t = true ↔ (t.onLoad = true → (blk.filter Stream.onLoad).length < 4) ∧
      (t.onStore = true → (blk.filter Stream.onStore).length < 4) := by
  subst hb
  simp only [State.hasPlace, Bool.and_eq_true, Bool.or_eq_true, Bool.not_eq_true', decide_eq_true_eq, ← Bool.not_eq_true,
    ← imp_iff_not_or]
  exact Iff.rfl

/-- The rotation takes the first place, from the one after the last taken, whose head can start. -/
theorem engineNext_spec {s : State} {engine p : Nat} {place : Nat → Nat}
    (hat : place = fun k => (AMap.getD s.lastSector engine 4 + 1 + k) % 5) (h : s.engineNext engine = some p) :
    ∃ k, k < 5 ∧ p = place k ∧ (∃ t, s.headStream (rotaCore (engine / 2) p) = some t ∧ engineOf t = engine ∧ s.hasPlace t = true) ∧
      ∀ j t, j < k → (place j = 4 → engine < 2) → s.headStream (rotaCore (engine / 2) (place j)) = some t →
        ¬ (engineOf t = engine ∧ s.hasPlace t = true) := by
  subst hat
  rw [State.engineNext, List.find?_eq_some_iff_getElem] at h
  obtain ⟨hp, k, hk, hget, hbefore⟩ := h
  have hk5 : k < 5 := by simpa using hk
  refine ⟨k, hk5, by simpa using hget.symm, ?_, fun j t hj h4 ht => ?_⟩
  · cases hh : s.headStream (rotaCore (engine / 2) p) with
    | none => simp [hh] at hp
    | some t =>
      simp only [hh, Bool.and_eq_true, beq_iff_eq] at hp
      exact ⟨t, rfl, hp.2⟩
  · have hno := hbefore j hj
    simp only [List.getElem_map, List.getElem_range] at hno
    simp only [ht] at hno
    rintro ⟨heng, hplace⟩
    by_cases hp4 : (AMap.getD s.lastSector engine 4 + 1 + j) % 5 = 4
    · simp [heng, hplace, hp4, h4 hp4] at hno
    · simp [heng, hplace, hp4] at hno

/-! ## Item moves (R190) -/

theorem exec_streamItemMove {s : State} {t : Stream} (ht : s.stream? t.id = some t) (hr : t.st = .running) (hm : t.moved = false)
    (hk : t.kind ≠ .hrv) (hp : s.portsOk t = none) (reply : Reply) :
    exec (.streamItemMove t.id reply) s = .next (s.streamStep t) := by
  rw [show exec (.streamItemMove t.id reply) s = execStreamItemMove t.id reply s from rfl, execStreamItemMove, ht]
  simp [Stream.isFailed, hr, hm, hk, hp]

theorem streamStep_ok {s s1 : State} {t t1 : Stream} (h : t.stepM.exec s = (.ok t1, s1)) :
    s.streamStep t = (s1.setStream t1).endReads (.island 10 t.id) := by
  unfold State.streamStep
  rw [h]

theorem streamStep_raise {s s1 : State} {t : Stream} {cause : Byte} {addr : DWord}
    (h : t.stepM.exec s = (.error (.raise cause addr), s1)) : s.streamStep t =
      if cause = Cause.pageFault
      then (let s2 := (s1.endReads (.island 10 t.id)).setStream { t with st := .paused addr s.cyc, retry := false, reported := true }
            if t.reported then s2 else s2.streamError t Cause.pageFault addr)
      else (s1.endReads (.island 10 t.id)).streamFail t cause addr := by
  unfold State.streamStep
  rw [h]

theorem exec_itemReadM_here {w : Who} {va : DWord} {n : Nat} {s s1 : State} {x : Xlat}
    (hx : (accessM w .load va n).exec s = (.ok x, s1)) (hm : x.mt = 0) (hl : s1.isLocal x.pa = true) :
    (itemReadM w va n).exec s = (.ok (leBytes (s1.fabNat (lowOf x.pa) n) n, s1.poisonedAt (lowOf x.pa) n), s1) := by
  simp only [itemReadM, exec_bind, hx, exec_readAtM_here hm hl, exec_pure]
  rfl

/-- A copy's item, both ends of which lie in this package. -/
theorem exec_cpStepM_here {t : Stream} {s s1 s2 : State} {x y : Xlat} (he : t.desc.esz ≠ 5) (hi : t.item < t.dst.total)
    (hsize : t.dst.size = t.desc.size) (hx : (accessM (whoStream t) .load (t.desc.itemAt t.item) t.desc.size).exec s = (.ok x, s1))
    (hxm : x.mt = 0) (hxl : s1.isLocal x.pa = true) (hxp : s1.poisonedAt (lowOf x.pa) t.desc.size = false)
    (hy : (accessM (whoStream t) .store (t.dst.itemAt t.item) t.dst.size).exec s1 = (.ok y, s2)) (hym : y.mt = 0)
    (hyl : s2.isLocal y.pa = true) (hyw : s2.writeHeld (lowOf y.pa) t.dst.size false = false) :
    (cpStepM t).exec s = (.ok { t with item := t.item + 1, reported := false },
      s2.fabWrite (lowOf y.pa) (leBytes (s1.fabNat (lowOf x.pa) t.desc.size) t.desc.size)) := by
  have hw : s2.writeHeld (lowOf y.pa) (leBytes (s1.fabNat (lowOf x.pa) t.desc.size) t.desc.size).length false = false := by
    rw [length_leBytes, ← hsize]; exact hyw
  simp only [cpStepM, Nat.not_le.2 hi, if_false, exec_bind, exec_itemReadM_here hx hxm hxl, he, exec_pure, hy, hxp,
    Bool.or_self, Bool.false_eq_true, exec_writeAtM_here hym hyl hw, Bool.or_false]

theorem exec_streamRetry {s : State} {t : Stream} (ht : s.stream? t.id = some t) {va : DWord} {d : Nat} (hst : t.st = .paused va d) :
    exec (.streamRetry t.id) s = .next
      (if t.retry = true ∨ d + 65536 ≤ s.cyc then s.streamStep { t with st := .running, retry := false } else s) := by
  rw [show exec (.streamRetry t.id) s = execStreamRetry t.id s from rfl, execStreamRetry, ht]
  simp only [hst, Bool.or_eq_true, decide_eq_true_eq]
  split <;> rfl

/-! ## Marks of a failed stream (R364) -/

theorem exec_streamItemMove_failed {s s1 : State} {t t1 : Stream} (ht : s.stream? t.id = some t) (hf : t.isFailed = true)
    (hm : t.marksLeft = true) (h : t.markM.exec s = (.ok t1, s1)) (reply : Reply) :
    exec (.streamItemMove t.id reply) s = .next (s1.setStream t1) := by
  rw [show exec (.streamItemMove t.id reply) s = execStreamItemMove t.id reply s from rfl, execStreamItemMove, ht]
  simp [hf, hm, h]

/-- What a command that ends in `pure a` gives. -/
theorem ok_of_bind_pure {α β : Type} {m : Mach α} {a b : β} {s s1 : State} (h : (m >>= fun _ => pure b).exec s = (.ok a, s1)) : a = b := by
  rw [exec_bind] at h
  split at h
  · exact (Except.ok.inj (congrArg Prod.fst h)).symm
  · cases h

theorem markM_ok {s s1 : State} {t t1 : Stream} (h : t.markM.exec s = (.ok t1, s1)) : t1 = { t with item := t.item + 1 } := by
  unfold Stream.markM at h
  rw [exec_bind] at h
  split at h
  · by_cases he : t.desc1.esz = 5
    · rw [if_pos he] at h
      exact ok_of_bind_pure h
    · rw [if_neg he] at h
      exact (Except.ok.inj (congrArg Prod.fst h)).symm
  · cases h

theorem isLocal_markPoison (s : State) (pa n dpa : Nat) : (s.markPoison pa n).isLocal dpa = s.isLocal dpa := rfl

theorem foldl_markUnit_here (t : Stream) (xs : List Xlat) (s : State)
    (h : ∀ x ∈ xs, x.mt = 0 ∧ isNormal (lowOf x.pa) = true ∧ s.isLocal x.pa = true) :
    xs.foldl (State.markUnit t) s = xs.foldl (fun u x => u.markPoison (lowOf x.pa) 8) s := by
  induction xs generalizing s with
  | nil => rfl
  | cons x xs ih =>
    obtain ⟨⟨hm, hn, hl⟩, hxs⟩ := List.forall_mem_cons.1 h
    have hunit : State.markUnit t s x = s.markPoison (lowOf x.pa) 8 := by simp [State.markUnit, hm, hn, hl]
    rw [List.foldl_cons, List.foldl_cons, hunit]
    exact ih _ hxs

theorem exec_markItemM_here {t : Stream} {va : DWord} {n : Nat} {xs : List Xlat} {s s1 : State}
    (hx : (markUnitsM (whoStream t) (BitVec.ofNat 64 (8 * (va.toNat / 8))) ((va.toNat + n - 1) / 8 + 1 - va.toNat / 8)).exec s =
      (.ok xs, s1)) (h : ∀ x ∈ xs, x.mt = 0 ∧ isNormal (lowOf x.pa) = true ∧ s1.isLocal x.pa = true) :
    (markItemM t va n).exec s = (.ok (), xs.foldl (fun u x => u.markPoison (lowOf x.pa) 8) s1) := by
  have hnone : xs.any (fun x => !s1.isLocal x.pa && s1.maskHeld (pkgOf x.pa)) = false :=
    List.any_eq_false.2 fun x hx => by simp [(h x hx).2.2]
  simp only [markItemM, exec_bind, hx, exec_get, hnone, Bool.false_eq_true, if_false, exec_set, foldl_markUnit_here t xs s1 h]

/-- The translation of a unit to mark, where the part has one. -/
def markableM (w : Who) (va : DWord) : Mach (Option Xlat) := fun s =>
  match (translateM w .store va).exec s with
  | (.ok x, s1) => (.ok (some x), s1)
  | (.error .wait, s1) => (.error .wait, s1)
  | (.error _, s1) => (.ok none, s1)

theorem markUnitsM_succ (w : Who) (va : DWord) (n : Nat) : markUnitsM w va (n + 1) = (do
    let x ← markableM w va
    let t ← markUnitsM w (va + 8) n
    pure (x.toList ++ t)) := rfl

section Units
variable {w : Who} {va : DWord} {n : Nat} {s s1 s2 : State} {xs : List Xlat}

theorem exec_markableM_ok {x : Xlat} (h : (translateM w .store va).exec s = (.ok x, s1)) :
    (markableM w va).exec s = (.ok (some x), s1) := by
  show markableM w va s = _
  unfold markableM
  rw [h]

theorem exec_markableM_raise {cause : Byte} {addr : DWord} (h : (translateM w .store va).exec s = (.error (.raise cause addr), s1)) :
    (markableM w va).exec s = (.ok none, s1) := by
  show markableM w va s = _
  unfold markableM
  rw [h]

theorem exec_markUnitsM_ok {x : Xlat} (h : (translateM w .store va).exec s = (.ok x, s1))
    (h2 : (markUnitsM w (va + 8) n).exec s1 = (.ok xs, s2)) : (markUnitsM w va (n + 1)).exec s = (.ok (x :: xs), s2) := by
  simp only [markUnitsM_succ, exec_bind, exec_markableM_ok h, h2]
  rfl

theorem exec_markUnitsM_raise {cause : Byte} {addr : DWord} (h : (translateM w .store va).exec s = (.error (.raise cause addr), s1))
    (h2 : (markUnitsM w (va + 8) n).exec s1 = (.ok xs, s2)) : (markUnitsM w va (n + 1)).exec s = (.ok xs, s2) := by
  simp only [markUnitsM_succ, exec_bind, exec_markableM_raise h, h2]
  rfl

end Units

theorem streamCheck_bad (s : State) {t : Stream} (hk : t.kind = .ld ∨ t.kind = .st) (hb : t.desc.bad = true) :
    s.streamCheck t = some Cause.streamDesc := by
  unfold State.streamCheck
  rcases hk with hk | hk <;> rw [hk] <;> exact if_pos hb

end Sys2Proof.Machine
end

section
/-!
PROOFS. Streams: where an item lies, and the layout of tokens (R180, R182, R183).
-/
namespace Sys2Proof.Machine

/-! ## Where an item lies (R180) -/

theorem mul_add_div_mod {n i : Nat} (h : i < n) (a : Nat) : (a * n + i) / n = a ∧ (a * n + i) % n = i := by
  rw [Nat.mul_comm]
  exact ⟨by rw [Nat.mul_add_div (by omega), Nat.div_eq_of_lt h, Nat.add_zero], by rw [Nat.mul_add_mod, Nat.mod_eq_of_lt h]⟩

theorem itemAt_eq (d : Desc) (i0 i1 i2 i3 : Nat) (h0 : i0 < d.n0) (h1 : i1 < d.n1) (h2 : i2 < d.n2) :
    d.itemAt (((i3 * d.n2 + i2) * d.n1 + i1) * d.n0 + i0) =
    d.base + BitVec.ofNat 64 (i0 * d.size) + BitVec.ofNat 64 i1 * d.s1 + BitVec.ofNat 64 i2 * d.s2 + BitVec.ofNat 64 i3 * d.s3 := by
  unfold Desc.itemAt
  dsimp only
  rw [(mul_add_div_mod h0 _).1, (mul_add_div_mod h0 _).2, (mul_add_div_mod h1 _).1, (mul_add_div_mod h1 _).2,
    (mul_add_div_mod h2 _).1, (mul_add_div_mod h2 _).2]

/-! ## The stops that follow an item (R182) -/

theorem mul_dvd_iff_dvd_div {a b k : Nat} : a * b ∣ k ↔ a ∣ k ∧ b ∣ k / a := by
  constructor
  · intro h
    have ha : a ∣ k := dvd_of_mul_right_dvd h
    exact ⟨ha, (Nat.dvd_div_iff_mul_dvd ha).2 h⟩
  · exact fun ⟨ha, hb⟩ => (Nat.dvd_div_iff_mul_dvd ha).1 hb

/-- The number of dimensions that end with an item that ends a fibre. -/
def Desc.ends (d : Desc) (f : Nat) : Nat :=
  if f % d.n1 != 0 then 1 else if f / d.n1 % d.n2 != 0 then 2 else if f / d.n1 / d.n2 % d.n3 != 0 then 3 else 4

theorem lt_ends_iff (d : Desc) (f l : Nat) (hl : l < 4) : l < d.ends f ↔
    (1 ≤ l → d.n1 ∣ f) ∧ (2 ≤ l → d.n2 ∣ f / d.n1) ∧ (3 ≤ l → d.n3 ∣ f / d.n1 / d.n2) := by
  simp only [Nat.dvd_iff_mod_eq_zero]
  unfold Desc.ends
  by_cases h1 : f % d.n1 = 0
  · by_cases h2 : f / d.n1 % d.n2 = 0
    · by_cases h3 : f / d.n1 / d.n2 % d.n3 = 0
      · simp [h1, h2, h3, hl]
      · simp [h1, h2, h3]
    · simp [h1, h2]; omega
  · simp [h1]; omega

theorem stopsAfter_iff (d : Desc) (k l : Nat) (hk : 0 < k) (hl : l < 4) : l < d.stopsAfter k ↔ l < d.stopd ∧
    ([d.n0, d.n1, d.n2, d.n3].take (l + 1)).prod ∣ k := by
  by_cases h0 : d.n0 ∣ k
  · have hs : d.stopsAfter k = min d.stopd (d.ends (k / d.n0)) := if_neg (by simp [Nat.ne_of_gt hk, Nat.mod_eq_zero_of_dvd h0])
    rw [hs, lt_min_iff, lt_ends_iff d _ _ hl]
    refine and_congr_right fun _ => ?_
    have hprod : (([d.n0, d.n1, d.n2, d.n3].take (l + 1)).prod ∣ k) ↔ (([d.n1, d.n2, d.n3].take l).prod ∣ k / d.n0) := by
      rw [List.take_succ_cons, List.prod_cons, mul_dvd_iff_dvd_div, and_iff_right h0]
    rw [hprod]
    interval_cases l <;> simp only [List.take_zero, List.take_succ_cons, List.prod_cons, List.prod_nil, mul_one, one_dvd,
      mul_dvd_iff_dvd_div, Nat.reduceLeDiff, true_implies, false_implies, and_true, nonpos_iff_eq_zero, Nat.one_ne_zero,
      OfNat.ofNat_ne_zero]
  · have hs : d.stopsAfter k = 0 := if_pos (by simpa using Or.inr fun h => h0 (Nat.dvd_of_mod_eq_zero h))
    rw [hs]
    refine iff_of_false (Nat.not_lt_zero l) fun ⟨_, h⟩ => h0 ?_
    rw [List.take_succ_cons, List.prod_cons] at h
    exact dvd_of_mul_right_dvd h

theorem stopTok_eq (d : Desc) (l n : Nat) (hn : [d.n0, d.n1, d.n2, d.n3][l]? = some n) :
    d.stopTok l = ⟨scalarOf (BitVec.ofNat 32 n), mkTag 1 l⟩ := by
  have hc : d.stopCount l = n := by
    unfold Desc.stopCount
    rcases l with _ | _ | _ | _ | l <;> simp_all
  rw [Desc.stopTok, hc]

/-! ## A load's tokens (R182) -/

section Ld
variable {s : State} {t : Stream} (hk : t.kind = .ld)
include hk

theorem stepM_ld : t.stepM = ldStepM t := by
  unfold Stream.stepM
  rw [hk]

theorem exec_ld_held {k : Token} (hh : t.held = some k) (hr : (s.port t.port).toRegion.length < portRoom)
    (hl : (s.port t.port).toRegion.length + (s.port t.port).fly.length < 4) : t.stepM.exec s = (.ok { t with held := none },
      s.updPort t.port (fun y => { y with toRegion := y.toRegion ++ [k] })) := by
  simp only [stepM_ld hk, ldStepM, exec_bind, exec_get, hh, hr, hl, and_self, decide_true, if_true, exec_set, exec_pure]

theorem exec_ld_stop (hh : t.held = none) (hsh : t.sheld = none) (hs : t.stops < t.desc.stopsAfter t.item)
    (hr : (s.port t.port).toRegion.length < portRoom)
    (hl : (s.port t.port).toRegion.length + (s.port t.port).fly.length < 4) :
    t.stepM.exec s = (.ok { t with stops := t.stops + 1 },
      s.updPort t.port (fun y => { y with toRegion := y.toRegion ++ [t.desc.stopTok t.stops] })) := by
  simp only [stepM_ld hk, ldStepM, exec_bind, exec_get, hh, hsh, hs, hr, hl, and_self, decide_true, if_true, exec_set, exec_pure]

variable (he : t.desc.esz < 5)
include he

/-- The stream after it has read an item. -/
def Stream.read (t : Stream) (bs : List Byte) (p : Bool) : Stream :=
  let full := endsTok t.desc t.desc.per t.item
  { t with
    item := t.item + 1, stops := 0, sstops := 0, reported := false
    buf := if full then [] else t.buf ++ bs
    held := if full then some (packTok (t.buf ++ bs) (t.poison || p)) else none
    poison := if full then false else t.poison || p
    sbuf := t.sbuf ++ [], sheld := none, spoison := t.spoison || false }

theorem exec_ld_read (hh : t.held = none) (hsh : t.sheld = none) (hs : t.desc.stopsAfter t.item ≤ t.stops) (hi : t.item < t.desc.total)
    {bs : List Byte} {p : Bool} {s1 : State}
    (hx : (itemReadM (whoStream t) (t.desc.itemAt t.item) t.desc.size).exec s = (.ok (bs, p), s1)) :
    t.stepM.exec s = (.ok (t.read bs p), s1) := by
  have he' : (t.desc.esz == 5) = false := beq_eq_false_iff_ne.2 (Nat.ne_of_lt he)
  rw [stepM_ld hk]
  simp only [ldStepM, exec_bind, exec_get, hh, hsh, Nat.not_lt.2 hs, Nat.not_le.2 hi, he', Bool.false_and,
    Bool.false_eq_true, if_false, hx, exec_pure]
  rfl

end Ld

theorem endsTok_eq_true {d : Desc} {per k : Nat} : endsTok d per k = true ↔ (k + 1) % d.n0 = 0 ∨ (k % d.n0 + 1) % per = 0 := by
  simp only [endsTok, Bool.or_eq_true, beq_iff_eq]

theorem read_inside {t : Stream} (h : endsTok t.desc t.desc.per t.item = false) (hp : t.poison = false) (bs : List Byte) (p : Bool) :
    (t.read bs p).item = t.item + 1 ∧ (t.read bs p).buf = t.buf ++ bs ∧ (t.read bs p).poison = p ∧ (t.read bs p).held = none ∧
    (t.read bs p).stops = 0 := by
  simp [Stream.read, h, hp]

theorem read_ends {t : Stream} (h : endsTok t.desc t.desc.per t.item = true) (hp : t.poison = false) (bs : List Byte) (p : Bool) :
    (t.read bs p).item = t.item + 1 ∧ (t.read bs p).buf = [] ∧ (t.read bs p).poison = false ∧ (t.read bs p).stops = 0 ∧
    (t.read bs p).held = some (if p = true then ⟨0, mkTag 3 0⟩ else ⟨BitVec.ofNat 256 (leNat (t.buf ++ bs)), dataTag⟩) := by
  simp [Stream.read, h, hp, packTok]

/-! ## A store's tokens (R183) -/

section Take
variable {s : State} {p : Nat} {k : Token} {rest : List Token} (hq : (s.port p).toMem = k :: rest)
include hq

theorem exec_takeStopM_taken {level : Nat} (h : isPoison k.tag = true ∨ (isStop k.tag = true ∧ levelOf k.tag = level)) :
    (takeStopM p level).exec s = (.ok (isPoison k.tag), s.updPort p (fun y => { y with toMem := rest })) := by
  have hc : (isPoison k.tag || (isStop k.tag && levelOf k.tag == level)) = true := by simpa using h
  simp only [takeStopM, exec_bind, exec_get, hq, hc, if_true, exec_set, exec_pure]

theorem exec_takeStopM_mismatch {level : Nat} (hp : isPoison k.tag = false) (h : ¬ (isStop k.tag = true ∧ levelOf k.tag = level)) :
    (takeStopM p level).exec s = (.error (.raise Cause.stopMismatch 0), s) := by
  have hc : (isPoison k.tag || (isStop k.tag && levelOf k.tag == level)) = false := by
    rw [hp, Bool.false_or, Bool.eq_false_iff]; simpa using h
  simp only [takeStopM, exec_bind, exec_get, hq, hc, Bool.false_eq_true, if_false, exec_raiseM]

theorem exec_takeDataM_taken (h : isStop k.tag = false) :
    (takeDataM p).exec s = (.ok k, s.updPort p (fun y => { y with toMem := rest })) := by
  simp only [takeDataM, exec_bind, exec_get, hq, h, Bool.false_eq_true, if_false, exec_set, exec_pure]

theorem exec_takeDataM_mismatch (h : isStop k.tag = true) : (takeDataM p).exec s = (.error (.raise Cause.stopMismatch 0), s) := by
  simp only [takeDataM, exec_bind, exec_get, hq, h, if_true, exec_raiseM]

end Take

section St
variable {s : State} {t : Stream} (hk : t.kind = .st) (he : t.desc.esz < 5)
include hk

theorem stepM_st : t.stepM = stStepM t := by
  unfold Stream.stepM
  rw [hk]

theorem stepM_st_stop (hs : t.stops < t.desc.stopsAfter t.item) : t.stepM = (do
    let p ← takeStopM t.port t.stops
    pure { t with stops := t.stops + 1, poison := t.poison || p }) := by
  rw [stepM_st hk]
  exact if_pos hs

include he

theorem stepM_st_token (hs : t.desc.stopsAfter t.item ≤ t.stops) (hi : t.item < t.desc.total) (hh : t.held = none) : t.stepM = (do
    let k ← takeDataM t.port
    pure { t with held := some k, poison := t.poison || isPoison k.tag }) := by
  have he' : (t.desc.esz == 5) = false := beq_eq_false_iff_ne.2 (Nat.ne_of_lt he)
  rw [stepM_st hk]
  unfold stStepM
  simp only [Nat.not_lt.2 hs, Nat.not_le.2 hi, he', hh, Bool.false_and, Bool.false_eq_true, if_false]

/-- The stream after it has written an item of token k. -/
def Stream.wrote (t : Stream) (k : Token) : Stream :=
  { t with
    item := t.item + 1, stops := 0, sstops := 0, reported := false
    held := if endsTok t.desc t.desc.per t.item then none else some k
    sheld := if endsTok t.desc 32 t.item then none else t.sheld }

theorem exec_st_item {k : Token} (hs : t.desc.stopsAfter t.item ≤ t.stops) (hi : t.item < t.desc.total) (hh : t.held = some k)
    {s1 : State} {m : Mach Unit} (hm : m = if !isPoison k.tag then
        itemWriteM t (t.desc.itemAt t.item) (tokBytes k (t.item % t.desc.n0 % t.desc.per * t.desc.size) t.desc.size)
      else markItemM t (t.desc.itemAt t.item) t.desc.size) (hx : m.exec s = (.ok (), s1)) :
    t.stepM.exec s = (.ok (t.wrote k), s1) := by
  have he' : (t.desc.esz == 5) = false := beq_eq_false_iff_ne.2 (Nat.ne_of_lt he)
  subst hm
  rw [stepM_st hk]
  unfold stStepM
  simp only [Nat.not_lt.2 hs, Nat.not_le.2 hi, he', hh, Bool.false_and, Bool.false_eq_true, if_false]
  cases hp : isPoison k.tag <;> rw [hp] at hx
  · exact exec_bind_ok hx _
  · exact exec_bind_ok hx _

end St

/-- Settles O38: a start by the turn it has, a move by what its step comes to, and the layout by the numbers of the items and the tokens. -/
theorem streamsStartAndMove : Obligations.StreamsStartAndMove := by
  unfold Obligations.StreamsStartAndMove
  refine ⟨⟨?start, hasPlace_iff, fun s engine p at_ hat h => engineNext_spec hat h, ?move,
    fun s t va d ht hst => exec_streamRetry ht hst, fun s t t1 s1 reply ht hf hm h => ⟨exec_streamItemMove_failed ht hf hm h reply, markM_ok h⟩,
    fun s t va n xs s1 hx h => exec_markItemM_here hx h,
    fun s w va n => ⟨fun x s1 xs s2 h h2 => exec_markUnitsM_ok h h2, fun cause addr s1 xs s2 h h2 => exec_markUnitsM_raise h h2⟩,
    fun s t hk hb => streamCheck_bad s hk hb⟩, itemAt_eq, fun d k l hk _ hl => stopsAfter_iff d k l hk hl,
    fun d l n _ hn => stopTok_eq d l n hn, ?ld, ?st, ?write⟩
  case start =>
    exact fun s t s1 ht hq he hn => ⟨exec_streamStart_runs ht hq he hn, fun cause => exec_streamStart_fails ht hq he hn⟩
  case move =>
    intro s t reply ht hr hm hk hp
    rw [exec_streamItemMove ht hr hm hk hp]
    refine ⟨fun t1 s1 h => by rw [streamStep_ok h], fun cause addr s1 h => by rw [streamStep_raise h],
      fun x y s1 s2 hcp he hi hsize hx hxm hxl hxp hy hym hyl hyw => ?_⟩
    have hstep : t.stepM = cpStepM t := by unfold Stream.stepM; rw [hcp]
    rw [streamStep_ok (by rw [hstep]; exact exec_cpStepM_here he hi hsize hx hxm hxl hxp hy hym hyl hyw)]
  case ld =>
    intro s t hk he
    refine ⟨fun k hh hr hl => exec_ld_held hk hh hr hl, fun hh hsh hs hr hl => exec_ld_stop hk hh hsh hs hr hl,
      fun bs p s1 hh hsh hs hi hp hx => ⟨fun hrow htok => ⟨_, exec_ld_read hk he hh hsh hs hi hx, ?_⟩,
        fun hend => ⟨_, exec_ld_read hk he hh hsh hs hi hx, read_ends (endsTok_eq_true.2 hend) hp bs p⟩⟩⟩
    exact read_inside (Bool.eq_false_iff.2 fun h => (endsTok_eq_true.1 h).elim hrow htok) hp bs p
  case st =>
    rintro s t k rest hk he hq s1 rfl
    refine ⟨fun hs => ⟨fun hstop hlev => ?_, fun hp => ?_, fun hp hno => ?_⟩, fun hs hi hh => ⟨fun hstop => ?_, fun hstop => ?_⟩⟩
    · have hp : isPoison k.tag = false := by
        simp only [isStop, beq_iff_eq] at hstop
        simp [isPoison, hstop]
      rw [stepM_st_stop hk hs, exec_bind, exec_takeStopM_taken hq (.inr ⟨hstop, hlev⟩), hp]
      simp only [Bool.or_false, exec_pure]
    · rw [stepM_st_stop hk hs, exec_bind, exec_takeStopM_taken hq (.inl hp), hp]
      simp only [Bool.or_true, exec_pure]
    · rw [stepM_st_stop hk hs, exec_bind, exec_takeStopM_mismatch hq hp hno]
    · rw [stepM_st_token hk he hs hi hh, exec_bind, exec_takeDataM_taken hq hstop]
      rfl
    · rw [stepM_st_token hk he hs hi hh, exec_bind, exec_takeDataM_mismatch hq hstop]
  case write =>
    rintro s t k hk he hh hs hi t1 rfl
    have hwrote : t.wrote k = { t with
        item := t.item + 1, stops := 0, sstops := 0, reported := false
        held := if (t.item + 1) % t.desc.n0 = 0 ∨ (t.item % t.desc.n0 + 1) % (32 / t.desc.size) = 0 then none else some k
        sheld := if (t.item + 1) % t.desc.n0 = 0 ∨ (t.item % t.desc.n0 + 1) % 32 = 0 then none else t.sheld } := by
      simp only [Stream.wrote, endsTok_eq_true]
      rfl
    rw [← hwrote]
    refine ⟨fun s1 hp hx => exec_st_item hk he hs hi hh rfl ?_, fun s1 hp hx => exec_st_item hk he hs hi hh rfl ?_⟩
    · rw [hp]; exact hx
    · rw [hp]; exact hx

end Sys2Proof.Machine
end

section
/-!
PROOFS. The commands of a replay, and the access of a replayed firing (R114, R160, R223, R357, R358).
-/
namespace Sys2Proof.Machine

/-! ## Parts of the commands -/

theorem exec_replayRegionM {s : State} {id : Nat} {r : Region} (h : s.region? id = some r) : (replayRegionM id).exec s = (.ok r, s) := by
  simp only [replayRegionM, exec_bind, exec_get, h, exec_pure]

/-- A replayed firing that faults, as the command leaves it. -/
theorem exec_rplFault (c : Nat) (d : Reg) (cause : Byte) (addr : DWord) (s : State) : (rplFault c d cause addr).exec s =
    (.ok .next, (s.updCore c (fun y => { y with ecause := cause.zeroExtend 64, eaddr := addr })).updCore c (fun x => x.wr d 1)) := rfl

theorem id_of_region {s : State} {id : Nat} {r : Region} (h : s.region? id = some r) : r.id = id := by
  simpa using List.find?_some h

theorem updRegion_some {s : State} {id : Nat} {r : Region} (h : s.region? id = some r) (f : Region → Region) :
    s.updRegion id f = s.setRegion (f r) := by
  rw [State.updRegion, h]

/-! ## RPL_BEG -/

section Beg
variable {s : State} {c : Nat} {a d : Reg} (b : Reg) (h : CoreReady s c [a] [d])
include h

theorem exec_rplBeg_begins {r : Region} (h0 : s.rplStatus c (s.core c) ((s.core c).gr a) = 0)
    (hr : s.region? (wordId ((s.core c).gr a)) = some r) : exec (.rplBeg d a b) s =
      .next (((s.setRegion (r.beginReplay c)).updCore c (fun y => { y with
        replay := some r.id, rplClear := false, rplIdx := 0, rplLen := BitVec.ofNat 16 r.journal.length })).wrote c d 0 4) := by
  rw [show exec (.rplBeg d a b) s = execRplBeg d a b s from rfl, execRplBeg, seqRun_ready h]
  simp only [exec_bind, exec_get, h0, if_true, hr, exec_set, updRegion_some hr, exec_putReg, exec_pure, finishM_next, id_of_region hr]
  rfl

theorem exec_rplBeg_status (h0 : s.rplStatus c (s.core c) ((s.core c).gr a) ≠ 0) : exec (.rplBeg d a b) s =
    .next (s.wrote c d ((s.rplStatus c (s.core c) ((s.core c).gr a)).zeroExtend 64) 4) := by
  rw [show exec (.rplBeg d a b) s = execRplBeg d a b s from rfl, execRplBeg, seqRun_ready h]
  simp only [exec_bind, exec_get, h0, if_false, exec_pure, exec_putReg, finishM_next]
  rfl

end Beg

theorem rpl_eq_rplSet {x : CoreSt} (h : x.replay = none) : x.rpl = x.rplSet := by
  simp [CoreSt.rpl, h]

theorem rplStatus_replaying {s : State} {c : Nat} {x : CoreSt} {w : DWord} (h : x.replay ≠ none ∨ x.rplSet = true) :
    s.rplStatus c x w = Cause.rplState := by
  unfold State.rplStatus
  refine if_pos ?_
  cases hx : x.replay with
  | some i => rfl
  | none => simpa [rpl_eq_rplSet hx, hx] using h

section Status
variable {s : State} {c : Nat} {x : CoreSt} {w : DWord} (h : x.replay = none) (hs : x.rplSet = false)
include h hs

theorem rplStatus_badWord (hw : wordBad w = true) : s.rplStatus c x w = Cause.cfgRegion := by
  unfold State.rplStatus
  rw [rpl_eq_rplSet h, h, hs, if_neg (by decide), if_pos hw]

theorem rplStatus_region (hw : wordBad w = false) : s.rplStatus c x w = if wordId w / 16 ≠ c then Cause.cfgNotOwner
    else match s.regionNamed w c (s.coreCtx c) with
      | some r => if r.frozen = some .windowFault then 0 else Cause.cfgRegion
      | none => Cause.cfgRegion := by
  unfold State.rplStatus
  rw [rpl_eq_rplSet h, h, hs, if_neg (by decide), hw, if_neg (by decide)]
  simp only [bne_iff_ne] <;> rfl

end Status

/-! ## RPL_STEP, RPL_END and RPL_DROP -/

theorem replaySweep_none {s : State} {r : Region} (hs : r.sweep = none) (n : Nat) : s.replaySweep r n = s := by
  unfold State.replaySweep
  rw [hs]

section Step
variable {s : State} {c : Nat} {d : Reg} (a b : Reg) (h : CoreReady s c [] [d])
include h

theorem CoreReady.noWrites : CoreReady s c [] [] := ⟨h.turn, by simp, by simp⟩

theorem exec_rpl_noReplay (hn : (s.core c).replay = none) {i : Instr} (hi : i ∈ [Instr.rplStep d a b, .rplEnd d a b, .rplDrop d a b]) :
    exec i s = .next (s.preciseFault c Cause.rplState 0) := by
  simp only [List.mem_cons, List.not_mem_nil, or_false] at hi
  rcases hi with rfl | rfl | rfl
  · rw [show exec (.rplStep d a b) s = execRplStep d a b s from rfl, execRplStep, seqRun_ready h, hn]; rfl
  · rw [show exec (.rplEnd d a b) s = execRplEnd d a b s from rfl, execRplEnd, seqRun_ready h.noWrites, hn]; rfl
  · rw [show exec (.rplDrop d a b) s = execRplDrop d a b s from rfl, execRplDrop, seqRun_ready h.noWrites, hn]; rfl

variable {id : Nat} {r : Region} (hp : (s.core c).replay = some id)
include hp

theorem exec_rplDrop (hr : s.region? id = some r) : exec (.rplDrop d a b) s = .next ((s.dropReplay r).retire c 4 .next) := by
  rw [show exec (.rplDrop d a b) s = execRplDrop d a b s from rfl, execRplDrop, seqRun_ready h.noWrites, hp]
  simp only [exec_bind, exec_get, hr, exec_set, exec_pure, finishM_next]

theorem exec_rplEnd (hr : s.region? id = some r) (hs : r.sweep = none) : exec (.rplEnd d a b) s = .next (((s.setRegion
    (let q : Region := { r with replay := none, frozen := none, log := if r.wins = [] then [] else r.log }
     (if s.savePending r then q.closeWindow else q).settle s.cyc)).updCore c (fun x => { x with
      replay := none, rplClear := false })).retire c 4 .next) := by
  have hend : s.endReplay id = s.setRegion
      (let q : Region := { r with replay := none, frozen := none, log := if r.wins = [] then [] else r.log }
       (if s.savePending r then q.closeWindow else q).settle s.cyc) := by
    unfold State.endReplay
    simp only [hr, replaySweep_none hs, updRegion_some hr, List.isEmpty_iff]
  rw [show exec (.rplEnd d a b) s = execRplEnd d a b s from rfl, execRplEnd, seqRun_ready h.noWrites, hp]
  simp only [exec_bind, exec_modify, exec_pure, finishM_next, hend] <;> rfl

variable (ha : (s.core c).pend.any (fun p => p.acq) = false) (hd : drained (s.core c) = true)
include ha hd

theorem exec_rplStep_over (hl : (s.core c).rplLen.toNat ≤ (s.core c).rplIdx.toNat) : exec (.rplStep d a b) s = .next (s.wrote c d 2 4) := by
  rw [show exec (.rplStep d a b) s = execRplStep d a b s from rfl, execRplStep, seqRun_ready h, hp]
  simp only [exec_bind, exec_orderGate ha, exec_drainGate (fun _ => hd), hl, if_true, exec_putReg, exec_pure, finishM_next]
  rfl

end Step

/-- What rpl.step makes of the firing of the journal's next slot, in the replayed state. -/
def replayFiredM (c : Nat) (d : Reg) (id idx : Nat) (j : JEntry) (r : Region) : FireRes → Mach Flow
  | .notReady => do
    if r.wins.any (fun w => w.closed) then waitM
    modify (fun s => s.updCore c (fun y => { y with rplLen := y.rplIdx }))
    putReg c d 2
    pure .next
  | .raises cause => rplFault c d cause 0
  | .done el fx => do
    if r.windowsFull then waitM
    replayGoM c d id idx j el fx

/-- The way of rpl.step to the firing of a journaled slot: what can commit commits, a sweep of an earlier cycle ends, the arrivals that
are due enter, and the element's sector has an issue slot. -/
structure ReplayReaches (s : State) (id idx : Nat) (j : JEntry) (s3 : State) (r3 : Region) : Prop where
  named : ∃ r p, s.region? id = some r ∧ r.replay = some p ∧ p.todo[idx]? = some j
  ready : ∃ s1 r1 s2 r2, s1 = s.replayCommit id 3 ∧ s1.region? id = some r1 ∧
    s2 = (if r1.sweep.any (fun w => w.start != j.cycle) then s1.replaySweep r1 idx else s1) ∧ s2.region? id = some r2 ∧
    s3 = s2.replayReady r2 idx
  region : s3.region? id = some r3
  slot : s3.slotOpen (r3.sector j.elem) = true

/-- What rpl.step does once the commits and the sweep before the slot are over. -/
def replayTurnM (c : Nat) (d : Reg) (id idx : Nat) (j : JEntry) : Mach Flow := do
  let r1 ← replayRegionM id
  modify (fun s => s.replayReady r1 idx)
  let r ← replayRegionM id
  if !(← get).slotOpen (r.sector j.elem) then waitM
  replayFiredM c d id idx j r ((← get).replayFire r.aged j)

theorem exec_replayTurnM (c : Nat) (d : Reg) {id idx : Nat} {j : JEntry} {s : State} {r1 r : Region} (h1 : s.region? id = some r1)
    (hr : (s.replayReady r1 idx).region? id = some r) (hs : (s.replayReady r1 idx).slotOpen (r.sector j.elem) = true) :
    (replayTurnM c d id idx j).exec s =
      (replayFiredM c d id idx j r ((s.replayReady r1 idx).replayFire r.aged j)).exec (s.replayReady r1 idx) := by
  simp only [replayTurnM, exec_bind, exec_replayRegionM h1, exec_modify, exec_replayRegionM hr, exec_get, hs]
  rfl

theorem exec_rplStep_fires {s : State} {c : Nat} {d : Reg} (a b : Reg) (h : CoreReady s c [] [d]) {id : Nat}
    (hp : (s.core c).replay = some id) (ha : (s.core c).pend.any (fun p => p.acq) = false) (hd : drained (s.core c) = true)
    (hl : (s.core c).rplIdx.toNat < (s.core c).rplLen.toNat) {j : JEntry} {s3 : State} {r3 : Region}
    (hw : ReplayReaches s id (s.core c).rplIdx.toNat j s3 r3) : exec (.rplStep d a b) s =
      .next (finishM c 4 ((replayFiredM c d id (s.core c).rplIdx.toNat j r3 (s3.replayFire r3.aged j)).exec s3)) := by
  obtain ⟨⟨r, p, hr, hrp, hj⟩, ⟨s1, r1, s2, r2, rfl, h1, h2, h2', rfl⟩, h3, hslot⟩ := hw
  have hj' : p.todo.getD (s.core c).rplIdx.toNat ⟨0, 0, 0, false, 0⟩ = j := by simp [List.getD, hj]
  rw [show exec (.rplStep d a b) s = execRplStep d a b s from rfl, execRplStep, seqRun_ready h, hp]
  simp only [exec_bind, exec_orderGate ha, exec_drainGate (fun _ => hd), Nat.not_le.2 hl, if_false, exec_replayRegionM hr, hrp, hj',
    exec_modify, exec_replayRegionM h1]
  refine congrArg (fun z => Host.Outcome.next (finishM c 4 z)) (Eq.trans ?_ (exec_replayTurnM c d h2' h3 hslot))
  cases hsw : r1.sweep with
  | none =>
    rw [hsw] at h2
    subst h2
    rfl
  | some w =>
    rw [hsw] at h2
    by_cases hc : (w.start != j.cycle) = true
    · obtain rfl := h2.trans (if_pos hc)
      exact congrArg (fun m : Mach Flow => m.exec _) (if_pos hc)
    · obtain rfl := h2.trans (if_neg hc)
      exact congrArg (fun m : Mach Flow => m.exec _) (if_neg hc)

section Fired
variable (c : Nat) (d : Reg) (id idx : Nat) (j : JEntry) (s : State) (r : Region)

theorem exec_replayFiredM_raises (cause : Byte) : finishM c 4 ((replayFiredM c d id idx j r (.raises cause)).exec s) =
    (s.updCore c (fun y => { y with ecause := cause.zeroExtend 64, eaddr := 0 })).wrote c d 1 4 := rfl

theorem exec_replayFiredM_notReady (h : r.wins.any (fun w => w.closed) = false) : finishM c 4 ((replayFiredM c d id idx j r .notReady).exec s) =
    (s.updCore c (fun y => { y with rplLen := y.rplIdx })).wrote c d 2 4 := by
  unfold replayFiredM
  dsimp only
  rw [h]
  rfl

variable {s r} (el : Elem) (fx : List Fx) (hw : r.windowsFull = false)
include hw

theorem exec_replayFiredM_done : (replayFiredM c d id idx j r (.done el fx)).exec s = (replayGoM c d id idx j el fx).exec s := by
  unfold replayFiredM
  dsimp only
  rw [hw]
  rfl

theorem exec_replayFiredM_noAccess (hr : s.region? id = some r) (hn : fxAccess fx = none) :
    finishM c 4 ((replayFiredM c d id idx j r (.done el fx)).exec s) =
      ((s.replayDone id j el fx none).updCore c (fun y => { y with rplIdx := BitVec.ofNat 16 (idx + 1) })).wrote c d 0 4 := by
  rw [exec_replayFiredM_done c d id idx j el fx hw, replayGoM]
  simp only [exec_bind, exec_replayRegionM hr, hn]
  rfl

end Fired

/-! ## The access of a replayed firing -/

/-- What a replayed firing that faults leaves, with its cause and its address. -/
def State.replayFails (s : State) (c : Nat) (d : Reg) (cause : Byte) (addr : DWord) : State :=
  (s.updCore c (fun y => { y with ecause := cause.zeroExtend 64, eaddr := addr })).wrote c d 1 4

section Go
variable {c : Nat} {d : Reg} {id idx : Nat} {j : JEntry} {el : Elem} {fx : List Fx} {s s3 : State} {r r4 : Region} {q : AccReq}
  (hr : s.region? id = some r) (hq : fxAccess fx = some q)
  (ha : r.applied.any (fun x => x.elem == j.elem && x.slot == j.slot) = false)
  (ho : (replayOrderM id j q).exec s = (.ok (), s3)) (h4 : s3.region? id = some r4)
include hr hq ha ho h4

theorem exec_replayGoM_refused {cause : Byte} {addr : DWord} {s4 : State}
    (hx : (accessM { accWho r4 (mkAcc r4 j.elem j.slot s3.cyc q) with reader := .core c } (mkAcc r4 j.elem j.slot s3.cyc q).kind.need
      (mkAcc r4 j.elem j.slot s3.cyc q).va (mkAcc r4 j.elem j.slot s3.cyc q).size).exec s3 = (.error (.raise cause addr), s4)) :
    finishM c 4 ((replayGoM c d id idx j el fx).exec s) = s4.replayFails c d cause addr := by
  simp only [replayGoM, exec_bind, exec_replayRegionM hr, hq, ha, ho, exec_get, exec_replayRegionM h4, hx, Bool.false_eq_true,
    if_false, exec_set]
  rfl

variable {x : Xlat} {s4 : State}
  (hx : (accessM { accWho r4 (mkAcc r4 j.elem j.slot s3.cyc q) with reader := .core c } (mkAcc r4 j.elem j.slot s3.cyc q).kind.need
      (mkAcc r4 j.elem j.slot s3.cyc q).va (mkAcc r4 j.elem j.slot s3.cyc q).size).exec s3 = (.ok x, s4))
include hx

theorem exec_replayGoM_done {st : AccSt} {res : Option (Wide × Bool)} {s5 : State}
    (hp : (replayPerformM c { accWho r4 (mkAcc r4 j.elem j.slot s3.cyc q) with reader := .core c } r4 (mkAcc r4 j.elem j.slot s3.cyc q)
      x).exec s4 = (.ok (.done st res), s5)) : finishM c 4 ((replayGoM c d id idx j el fx).exec s) =
      ((s5.replayDone id j el fx (some (st, res))).updCore c (fun y => { y with rplIdx := BitVec.ofNat 16 (idx + 1) })).wrote c d 0 4 := by
  simp only [replayGoM, exec_bind, exec_replayRegionM hr, hq, ha, ho, exec_get, exec_replayRegionM h4, hx, hp,
    Bool.false_eq_true, if_false, exec_set]
  rfl

theorem exec_replayGoM_fails {cause : Byte} {addr : DWord} {s5 : State}
    (hp : (replayPerformM c { accWho r4 (mkAcc r4 j.elem j.slot s3.cyc q) with reader := .core c } r4 (mkAcc r4 j.elem j.slot s3.cyc q)
      x).exec s4 = (.ok (.fails cause addr), s5)) :
    finishM c 4 ((replayGoM c d id idx j el fx).exec s) = s5.replayFails c d cause addr := by
  simp only [replayGoM, exec_bind, exec_replayRegionM hr, hq, ha, ho, exec_get, exec_replayRegionM h4, hx, hp,
    Bool.false_eq_true, if_false, exec_set]
  rfl

end Go

/-! ## What each kind of access does -/

section Perform
variable {c : Nat} {w : Who} {r : Region} {a : Acc} {x : Xlat} {s : State}

theorem exec_replayPerformM_store (hk : a.kind = .store) (hs : s.scored r a = false) :
    (replayPerformM c w r a x).exec s = (.ok (.done (.ready x) none), s) := by
  simp only [replayPerformM, exec_bind, exec_get, hk, hs]
  rfl

variable (hl : x.mt = 1 ∨ s.isLocal x.pa = true)
include hl

theorem away_here : (decide (x.mt = 0) && !s.isLocal x.pa) = false := by
  rcases hl with hl | hl <;> simp [hl]

theorem exec_replayPerformM_load (hk : a.kind = .load ∨ a.kind = .acquire)
    (hs : r.covered a.serial x a.size = true ∨ s.scored r a = false) {bs : List Byte} {p : Bool}
    (hb : s.loadBytes r a.serial x a.size 0 = (bs, p)) :
    (replayPerformM c w r a x).exec s = (.ok (.done .done (some (BitVec.ofNat 256 (leNat bs), p))), s) := by
  have hload : (replayLoadM w r a x).exec s = (.ok (.done .done (some (BitVec.ofNat 256 (leNat bs), p))), s) := by
    have hscored : (!r.covered a.serial x a.size && s.scored r a) = false := by
      rcases hs with hs | hs <;> simp [hs]
    simp only [replayLoadM, exec_bind, exec_get, hscored, away_here hl, Bool.false_and, hb]
    rfl
  rw [← hload]
  rcases hk with hk | hk <;> simp only [replayPerformM, exec_bind, exec_get, hk]

theorem exec_replayPerformM_release (hk : a.kind = .release) (hs : s.scored r a = false) (hb : storeBlocked s x a.size = false) :
    (replayPerformM c w r a x).exec s = (.ok (.done .done none), s.storeAt x (wideBytes a.data a.size)) := by
  simp only [replayPerformM, exec_bind, exec_get, hk, hs, hb, away_here hl]
  rfl

theorem exec_replayPerformM_vst (hk : a.kind = .vst) (hv : s.vstLost w (lowOf x.pa) = false)
    (hh : s.vstHeld (lowOf x.pa) (.step c) = false) (hw : s.writeHeld (lowOf x.pa) 8 false = false) :
    (replayPerformM c w r a x).exec s = (.ok (.done .done none),
      (s.vstGone (lowOf x.pa) (.step c)).createVersion (lowOf x.pa) (a.data.extractLsb' 0 64)) := by
  simp only [replayPerformM, exec_bind, exec_get, hk, hv, hh, hw, away_here hl]
  rfl

theorem exec_replayPerformM_vrcl (hk : a.kind = .vrcl) :
    (replayPerformM c w r a x).exec s = (.ok (.done .done none), s.vrcl (lowOf x.pa) a.version) := by
  simp only [replayPerformM, exec_bind, exec_get, hk, away_here hl]
  rfl

theorem exec_replayPerformM_amo {k : AmoKind} (hk : a.kind = .amo k) (hs : s.scored r a = false) {old : Nat} {p : Bool} {s1 : State}
    (hm : (amoAtM x k a.size (a.data.extractLsb' 0 64).toNat a.new.toNat).exec s = (.ok (old, p), s1)) :
    (replayPerformM c w r a x).exec s = (.ok (.done .done (some (BitVec.ofNat 256 old, p))), s1) := by
  simp only [replayPerformM, exec_bind, exec_get, hk, hs, away_here hl, Bool.false_eq_true, if_false, hm, exec_pure]

end Perform

section Vld
variable {w : Who} {o : VldOwner} {va : DWord} {ver : Word} {x : Xlat} {s : State}
  (hn : s.remoteReads.any (fun q => q.reader == w.reader) = false)
include hn

theorem find_ownRead_none (at_ : Nat) :
    s.remoteReads.find? (fun r => r.reader == w.reader && r.addr == at_ && r.size == 0) = none := by
  rw [List.find?_eq_none]
  intro q hq
  have := List.any_eq_false.1 hn q hq
  simp_all

variable (hl : s.isLocal x.pa = true)
include hl

theorem exec_homeVldM_gone (hj : s.judgeVld (lowOf x.pa) ver = .gone) :
    (homeVldM w o va x ver).exec s = (.error (.raise Cause.versionGone va), s) := by
  simp only [homeVldM, exec_bind, exec_get, hl, if_true, find_ownRead_none hn, hj, exec_raiseM]

theorem exec_homeVldM_value {v : DWord} {p : Bool} (hj : s.judgeVld (lowOf x.pa) ver = .value v p) :
    (homeVldM w o va x ver).exec s = (.ok (v, p, ver == (s.vtag (lowOf x.pa)).newest), s) := by
  simp only [homeVldM, exec_bind, exec_get, hl, if_true, find_ownRead_none hn, hj, exec_pure]

end Vld

section PerformVld
variable {c : Nat} {w : Who} {r : Region} {a : Acc} {x : Xlat} {s : State} (hk : a.kind = .vld) (hl : s.isLocal x.pa = true)
  (hn : s.remoteReads.any (fun q => q.reader == w.reader) = false)
include hk hl hn

theorem exec_replayPerformM_vld_gone (hj : s.judgeVld (lowOf x.pa) a.version = .gone) :
    (replayPerformM c w r a x).exec s = (.error (.raise Cause.versionGone a.va), s) := by
  simp only [replayPerformM, replayVldM, exec_bind, exec_get, hk, hl, exec_homeVldM_gone hn hl hj, Bool.not_true,
    Bool.false_and, Bool.false_eq_true, if_false]

theorem exec_replayPerformM_vld_value {v : DWord} {p : Bool} (hj : s.judgeVld (lowOf x.pa) a.version = .value v p) :
    (replayPerformM c w r a x).exec s = (.ok (.done .done (some
      (if a.version = (s.vtag (lowOf x.pa)).newest then r.throughWindows a x v p else (v.zeroExtend 256, p)))), s) := by
  simp only [replayPerformM, replayVldM, exec_bind, exec_get, hk, hl, exec_homeVldM_value hn hl hj, beq_iff_eq, Bool.not_true,
    Bool.false_and, Bool.false_eq_true, if_false, exec_pure]

end PerformVld

/-! ## What RPL_DROP makes of the region and of its core -/

theorem mem_dropReplay (s : State) (r : Region) : (s.dropReplay r).mem = s.mem := by
  unfold State.dropReplay; split <;> rfl

section Drop
variable {s : State} {r : Region} {p : Replay} (hp : r.replay = some p)
include hp

theorem region_dropReplay : r.dropReplay = { r.rollback (r.frozen.getD .windowFault) with
    pend := r.log.drop r.firstSnap.logged ++ shiftPend p.committed r.pend, journal := p.todo.drop p.committed, replay := none } := by
  unfold Region.dropReplay; rw [hp]

theorem state_dropReplay : s.dropReplay r =
    ((s.withdraw r r.firstSnap.serial).setRegion r.dropReplay).updCore p.core CoreSt.noReplay := by
  unfold State.dropReplay; rw [hp]

theorem find_dropReplay : (s.dropReplay r).region? r.id = some r.dropReplay := by
  have hid : r.dropReplay.id = r.id := by rw [region_dropReplay hp]; exact id_rollback r (r.frozen.getD .windowFault)
  rw [state_dropReplay hp]
  have h := region_setRegion (s.withdraw r r.firstSnap.serial) r.dropReplay
  rw [hid] at h
  exact h

theorem core_dropReplay_own : ((s.dropReplay r).core p.core).replay = none := by
  rw [state_dropReplay hp, core_updCore_self]; rfl

theorem core_dropReplay_other {k : Nat} (hk : k ≠ p.core) : (s.dropReplay r).core k = s.core k := by
  rw [state_dropReplay hp, core_updCore_ne _ _ hk.symm]; rfl

end Drop

/-- Settles O26: each command by what it finds, the way of rpl.step to its firing once, and what the access of that firing does by its
kind. -/
theorem replayCommands : Obligations.ReplayCommands := by
  unfold Obligations.ReplayCommands
  refine ⟨⟨?beg, ?commands⟩, ⟨?access, ?perform⟩, fun r c => rfl, ?drop⟩
  case beg =>
    intro d a b s c h
    refine ⟨fun r h0 hr => exec_rplBeg_begins b h h0 hr, exec_rplBeg_status b h, ?_, ?_, rplStatus_replaying⟩
    · rintro w rfl hn hs hw; exact rplStatus_region hn hs hw
    · rintro w rfl hn hs hw; exact rplStatus_badWord hn hs hw
  case commands =>
    intro d a b s c h ha
    refine ⟨fun hn i hi => exec_rpl_noReplay a b h hn hi, fun id r hid hr => ⟨fun hd => ⟨exec_rplStep_over a b h hid ha hd, ?_⟩,
      exec_rplEnd a b h hid hr, exec_rplDrop a b h hid hr⟩⟩
    rintro hl p idx j s1 r1 s2 r2 s3 r3 hp rfl hj hs1 h1 hs2 h2 hs3 h3 hslot
    have hfire := exec_rplStep_fires a b h hid ha hd hl
      ⟨⟨r, p, hr, hp, hj⟩, ⟨s1, r1, s2, r2, hs1, h1, hs2, h2, hs3⟩, h3, hslot⟩
    refine ⟨fun cause hf => ?_, fun el fx hf hx hw => ?_, fun hf hw => ?_⟩ <;> rw [hfire, hf]
    · rfl
    · rw [exec_replayFiredM_noAccess c d id _ j el fx hw h3 hx]
    · rw [exec_replayFiredM_notReady c d id _ j s3 r3 hw]
  case access =>
    rintro d a b s c h ha hd id r p idx j s1 s2 r2 s3 r3 el fx q hid hr hp rfl hl hj hs1 h1 hsw hs2 h3 hslot hf hw hx happ ho r4 h4
      acc w rfl rfl fails hfails
    have hfire := exec_rplStep_fires a b h hid ha hd hl (s3 := s2) (r3 := r3)
      ⟨⟨r, p, hr, hp, hj⟩, ⟨s1, r2, s1, r2, hs1, h1, by rw [hsw]; rfl, h1, hs2⟩, h3, hslot⟩
    rw [hf, exec_replayFiredM_done c d id _ j el fx hw] at hfire
    refine ⟨fun cause addr s4 hacc => ?_, fun x s4 hacc => ⟨fun st res s5 hdone => ?_, fun cause addr s5 hdone => ?_⟩⟩ <;> rw [hfire]
    · rw [exec_replayGoM_refused h3 hx happ ho h4 hacc, hfails]; rfl
    · rw [exec_replayGoM_done h3 hx happ ho h4 hacc hdone]
    · rw [exec_replayGoM_fails h3 hx happ ho h4 hacc hdone, hfails]; rfl
  case perform =>
    intro c w r acc x s
    refine ⟨exec_replayPerformM_store, fun hl => ⟨fun hk hs bs p => exec_replayPerformM_load hl hk hs, exec_replayPerformM_release hl,
      exec_replayPerformM_vst hl, exec_replayPerformM_vrcl hl, fun k old p s1 hk hs => exec_replayPerformM_amo hl hk hs,
      fun hk hl hn => ⟨exec_replayPerformM_vld_gone hk hl hn, fun v p => exec_replayPerformM_vld_value hk hl hn⟩⟩⟩
  case drop =>
    intro s r p hr hp
    have hrolled := rolledBack_rollback r (r.frozen.getD .windowFault)
    have hq := find_dropReplay (s := s) hp
    rw [region_dropReplay hp] at hq
    exact ⟨_, hq, rfl, hrolled.frozen, hrolled.wins, rfl, hrolled.accs, hrolled.elem, core_dropReplay_own hp,
      fun k => core_dropReplay_other hp, mem_dropReplay s r⟩

end Sys2Proof.Machine
end

section
/-!
PROOFS. Wires, ends and sinks: what a wire takes and what arrives (R228 to R230, R234, R238, R354).
-/
namespace Sys2Proof.Machine

/-! ## What a wire takes (R228, R230, R234) -/

/-- The token does not reproduce one that left before. -/
theorem notRepeated_of {src sup : Nat} (h : src = 0 ∨ sup = 0) : (src != 0 && sup != 0) = false := by
  rcases h with h | h <;> simp [h]

section Take
variable {s : State} {r : Region} {e : Nat} {side : Dir} {t : Entry} (h : Leaving s r e side t)
include h

/-- Neither the cycle, the element, a fence nor the fathom of an entry holds the token back. -/
theorem Leaving.notHeld : (decide (s.cyc < (s.wire (wireKey (r.loc e) side)).lastTake) || !(s.sideLive r e || s.bypassLive r e side) ||
    s.fenced r e t.src || r.heldAtEntry e side) = false := by
  simp [Nat.not_lt.2 h.idle, h.live, h.unfenced, h.open_]

theorem Leaving.notFathom : (r.crosses e side && isFathom t.tok.tag) = false := by
  cases hc : r.crosses e side
  · rfl
  · exact (h.token hc).1

theorem Leaving.notRepeated : (r.crosses e side && t.src != 0 && AMap.getD r.wsup (wireKey (r.loc e) side) 0 != 0) = false := by
  cases hc : r.crosses e side
  · rfl
  · exact notRepeated_of (h.token hc).2

theorem Leaving.exec_take : exec (.linkTokenArrival r.id e side .take) s = .next (s.wireTake r e side) := by
  rw [show exec (.linkTokenArrival r.id e side .take) s = execLinkTokenArrival r.id e side .take s from rfl, execLinkTokenArrival, h.resident]

theorem Leaving.wireTake_mesh {e2 : Nat} (hf : r.far e side = .mesh e2) : s.wireTake r e side =
    if s.hasCredit r e2 side.opposite (s.wire (wireKey (r.loc e) side)).flight.length (linkLatency (r.loc e) (r.loc e2)) = true ∧
        (r.crosses e side = true → r.logShut = false)
      then (s.takeHead r e side t.src).fly (wireKey (r.loc e) side) t (s.cyc + linkLatency (r.loc e) (r.loc e2))
        (if r.crosses e side then 0 else t.src) r.ctx
      else s := by
  simp only [State.wireTake, h.head, h.notHeld, h.notFathom, h.notRepeated, hf, Bool.false_eq_true, if_false, Bool.and_eq_true,
    Bool.not_eq_true', Bool.and_eq_false_imp]

theorem Leaving.wireTake_sink (hf : r.far e side = .sink) : s.wireTake r e side = s.takeHead r e side t.src := by
  simp only [State.wireTake, h.head, h.notHeld, h.notFathom, h.notRepeated, hf, Bool.false_eq_true, if_false]

theorem Leaving.wireTake_port {p : Nat} (hf : r.far e side = .port p) : s.wireTake r e side =
    if (s.port p).toMem.length < portRoom
      then (s.takeHead r e side t.src).updPort p (fun x => { x with toMem := x.toMem ++ [t.tok] }) else s := by
  simp only [State.wireTake, h.head, h.notHeld, h.notFathom, h.notRepeated, hf, Bool.false_eq_true, if_false]

theorem Leaving.wireTake_island {k : Nat} (hf : r.far e side = .island k) : s.wireTake r e side =
    if (s.link k).inq.length + stamps s.cyc 2 (s.link k).freed < linkSlots k
      then (s.takeHead r e side t.src).updLink k (fun x => { x with inq := x.inq ++ [⟨t.tok, s.cyc + 2, 0⟩] }) else s := by
  simp only [State.wireTake, h.head, h.notHeld, h.notFathom, h.notRepeated, hf, Bool.false_eq_true, if_false]

end Take

/-! ## The head leaves its channel -/

@[simp] theorem wire_updWire_self (s : State) (k : Nat) (f : Wire → Wire) : (s.updWire k f).wire k = f (s.wire k) := by
  simp [State.updWire, State.setWire, State.wire]
theorem wire_updWire_ne (s : State) {j k : Nat} (f : Wire → Wire) (h : k ≠ j) : (s.updWire k f).wire j = s.wire j := by
  simp [State.updWire, State.setWire, State.wire, getD_set_ne _ _ _ h]
@[simp] theorem wire_setRegion (s : State) (r : Region) (k : Nat) : (s.setRegion r).wire k = s.wire k := rfl
@[simp] theorem region_updWire (s : State) (k : Nat) (f : Wire → Wire) (id : Nat) : (s.updWire k f).region? id = s.region? id := rfl

@[simp] theorem outch_setOut_self (x : Elem) {o : Nat} (ho : o < 4) (c : OutCh) : (x.setOut o c).outch o = c := by
  simp [Elem.setOut, Elem.outch, Vector.getD, ho]
@[simp] theorem inch_setIn_self (x : Elem) {i : Nat} (hi : i < 4) (c : InCh) : (x.setIn i c).inch i = c := by
  simp [Elem.setIn, Elem.inch, Vector.getD, hi]
theorem inch_setIn_ne (x : Elem) {i j : Nat} (h : i ≠ j) (c : InCh) : (x.setIn i c).inch j = x.inch j :=
  getD_setIfInBounds_ne _ _ _ h

@[simp] theorem elem_mapSnaps (r : Region) (f : Snap → Snap) (k : Nat) : (r.mapSnaps f).elem k = r.elem k := rfl

theorem leaves_frame (r : Region) (key src : Nat) : (r.leaves key src).id = r.id ∧ (r.leaves key src).elems = r.elems := by
  unfold Region.leaves
  split <;> exact ⟨rfl, rfl⟩

/-- The region and the wires as the departure of an output channel's head leaves them. -/
theorem takeHead_out {s : State} {r : Region} {e o : Nat} {side : Dir} (src : Nat) (hd : (r.elem e).driver side = .out o) (ho : o < 4)
    (hm : (r.elem e).isMatrix = false) : ∃ r', (s.takeHead r e side src).region? r.id = some r' ∧
      ((r'.elem e).outch o).q = ((r.elem e).outch o).q.drop 1 ∧ (∀ k, k ≠ e → r'.elem k = r.elem k) ∧
      (s.takeHead r e side src).wires = (s.updWire (wireKey (r.loc e) side) (fun w => { w with lastTake := s.cyc + 1 })).wires := by
  obtain ⟨q, hq, hid, hself, hne⟩ : ∃ q : Region, s.dropHead r e side src = s.setRegion q ∧ q.id = r.id ∧
      ((q.elem e).outch o).q = ((r.elem e).outch o).q.drop 1 ∧ ∀ k, k ≠ e → q.elem k = r.elem k := by
    generalize hc : ({ q := ((r.elem e).outch o).q.drop 1
                       freed := ((r.elem e).outch o).freed.filter (fun d => decide (s.cyc ≤ d)) ++ [s.cyc] } : OutCh) = c
    refine ⟨(r.updElem e (fun x => x.setOut o c)).mapSnaps (Snap.dropOut e o src), ?_, rfl, ?_, fun k hk => ?_⟩
    · simp only [State.dropHead, hd, hm, hc, Bool.false_eq_true, if_false]
    · rw [elem_mapSnaps, elem_updElem_self, outch_setOut_self _ ho, ← hc]
    · rw [elem_mapSnaps, elem_updElem_ne r _ hk.symm]
  have hreg : ((s.setRegion q).updWire (wireKey (r.loc e) side) (fun w => { w with lastTake := s.cyc + 1 })).region? r.id = some q :=
    hid ▸ region_setRegion s q
  unfold State.takeHead
  dsimp only
  rw [hq]
  split
  · obtain ⟨hid', helems⟩ := leaves_frame q (wireKey (r.loc e) side) src
    have helem : ∀ k, (q.leaves (wireKey (r.loc e) side) src).elem k = q.elem k := fun k => by rw [Region.elem, helems]; rfl
    refine ⟨_, region_updRegion_self hreg (hid'.trans hid), by rw [helem, hself], fun k hk => by rw [helem, hne k hk], ?_⟩
    rw [updRegion_some hreg]
    rfl
  · exact ⟨q, hreg, hself, hne, rfl⟩

/-! ## The credits of the senders outside (R354) -/

theorem endCredit_of_logShut {s : State} {r : Region} {e : Nat} {d : Dir} (h : r.logShut = true) : s.endCredit r e d = false := by
  simp [State.endCredit, h]

theorem logShut_iff {r : Region} : r.logShut = true ↔ (r.wins ≠ [] ∨ r.replay ≠ none) ∧ 2048 ≤ r.log.length := by
  simp [Region.logShut, Region.logs, Region.logRoom, Option.isSome_iff_ne_none]

/-! ## What arrives (R229, R230, R354) -/

theorem exec_arrive {s : State} {r : Region} (hr : s.region? r.id = some r) (e : Nat) (side : Dir) :
    exec (.linkTokenArrival r.id e side .arrive) s = .next (s.wireArrive r e side) := by
  rw [show exec (.linkTokenArrival r.id e side .arrive) s = execLinkTokenArrival r.id e side .arrive s from rfl, execLinkTokenArrival, hr]

/-- The wires of a region lead where they led after arrivals. -/
theorem far_of_base {r q : Region} (h : q.base = r.base) (e : Nat) (side : Dir) : q.far e side = r.far e side :=
  (congrArg (fun x : Region => x.far e side) h :)

/-- The end of a link inside the region sends nothing of its own: the arrival is that of the link. -/
theorem wireArrive_mesh {s : State} {r q : Region} {e e2 : Nat} {side : Dir} (hf : r.far e side = .mesh e2)
    (hq : (s.arriveSide r e side s.cyc).region? r.id = some q) (hb : q.base = r.base) :
    s.wireArrive r e side = s.arriveSide r e side s.cyc := by
  simp [State.wireArrive, hq, State.endSend, far_of_base hb, hf]

section Arrive
variable {s : State} {r : Region} {e i : Nat} {side : Dir} {f : Flight}

theorem arriveMesh_early {id : Nat} (hr : s.region? id = some r) {k from_ : Nat} {rest : List Flight}
    (hd : ∀ g, rest.head? = some g → s.cyc < g.due) :
    arriveMesh id e side k from_ rest s = s := by
  cases rest with
  | nil => rfl
  | cons g rest => simp [arriveMesh, hr, hd g rfl]

theorem arriveMesh_stays (hr : s.region? r.id = some r) {k from_ : Nat} {rest : List Flight}
    (h : s.enterIn r e side f.tok (max f.due from_) f.src = none) : arriveMesh r.id e side k from_ (f :: rest) s = s := by
  simp [arriveMesh, hr, h]

theorem arriveMesh_enters (hr : s.region? r.id = some r) {k from_ : Nat} {rest : List Flight} (hd : f.due ≤ s.cyc) {s1 : State}
    (h : s.enterIn r e side f.tok (max f.due from_) f.src = some s1) : arriveMesh r.id e side k from_ (f :: rest) s =
      arriveMesh r.id e side k from_ rest (s1.updWire k (fun w => { w with flight := rest })) := by
  simp [arriveMesh, hr, h, Nat.not_lt.2 hd]

variable (hc : (r.elem e).consumer side = .chan i) (hm : (r.elem e).isMatrix = false)
include hc hm

/-- A full channel takes nothing. -/
theorem enterIn_full {t : Token} {at_ src : Nat} (hl : ((r.elem e).inch i).q.length = 4) : s.enterIn r e side t at_ src = none := by
  simp [State.enterIn, State.enterAny, hc, hm, hl]

/-- Where nothing stands in its way, the token enters behind the others. -/
theorem enterIn_room {t : Token} {at_ src : Nat} (hi : i < 4) (hlive : s.regionLive r = true) (hl : ((r.elem e).inch i).q.length < 4)
    (hp : r.pendingChan e i = false) (hs : r.sweep = none) (ho : r.logShut = false) :
    ∃ q, s.enterIn r e side t at_ src = some (s.setRegion q) ∧ q.base = r.base ∧
      ((q.elem e).inch i).q = ((r.elem e).inch i).q ++ [.tok ⟨t, at_, src⟩] ∧
      (∀ j, j ≠ i → (q.elem e).inch j = (r.elem e).inch j) ∧ ∀ j, j ≠ e → q.elem j = r.elem j := by
  have hgo : s.linkLive r e side = true := by simp [State.linkLive, hlive]
  have hfull : (decide (4 ≤ ((r.elem e).inch i).q.length) || r.pendingChan e i || (r.logsToken src && r.logShut)) = false := by
    simp [hp, ho, hl]
  set r1 := r.updElem e (fun x => x.setIn i { x.inch i with freed := (x.inch i).freed.filter (fun d => decide (s.cyc < d + 6)) }) with h1
  have harr := (arrived_putToken r1 at_ e i t src).base
  have hput : ∀ k, (r1.putToken at_ e i t src).elem k =
      (r1.updElem e (fun x => x.setIn i { x.inch i with q := (x.inch i).q ++ [.tok ⟨t, at_, src⟩] })).elem k := fun k => by
    have hsw : r1.swept t.tag = false := by
      rw [h1]
      simp [Region.swept, Region.exits, Region.updElem, Region.setElem, hs]
    simp only [Region.putToken, hsw, Bool.false_eq_true, if_false]
    split
    · exact logArrival_elem ..
    · rfl
  refine ⟨r1.putToken at_ e i t src, ?_, harr, ?_, fun j hj => ?_, fun j hj => ?_⟩
  · simp only [State.enterIn, State.enterAny, hgo, hc, hm, hfull, Bool.false_eq_true, if_false, if_true]
    rfl
  · rw [hput, elem_updElem_self, inch_setIn_self _ hi, h1, elem_updElem_self, inch_setIn_self _ hi]
  · rw [hput, elem_updElem_self, inch_setIn_ne _ hj.symm, h1, elem_updElem_self, inch_setIn_ne _ hj.symm]
  · rw [hput, elem_updElem_ne _ _ hj.symm, h1, elem_updElem_ne _ _ hj.symm]

end Arrive

/-! ## The obligation -/

/-- Settles O33: what the wire takes by what stands at its far end, the channel and the wire that the token leaves, the credits under a full
log, and the arrival. -/
theorem tokensTravelOnWires : Obligations.TokensTravelOnWires := by
  unfold Obligations.TokensTravelOnWires
  refine ⟨?take, ?arrive⟩
  case take =>
    rintro s r e side t h key rfl
    refine ⟨fun e2 l hf hl => ?_, fun hf => ?_, fun p hf => ?_, fun k hf => ?_, ?channel, fun d => endCredit_of_logShut, logShut_iff⟩
    · rw [h.exec_take, h.wireTake_mesh hf, hl]
    · rw [h.exec_take, h.wireTake_sink hf]
    · rw [h.exec_take, h.wireTake_port hf]
    · rw [h.exec_take, h.wireTake_island hf]
    case channel =>
      rintro o hd ho hm u rfl
      obtain ⟨r', hr', hq, hne, hw⟩ := takeHead_out (s := s) t.src hd ho hm
      have hwire : ∀ k, (s.takeHead r e side t.src).wire k =
          (s.updWire (wireKey (r.loc e) side) (fun w => { w with lastTake := s.cyc + 1 })).wire k := fun k => by
        rw [State.wire, hw]
        rfl
      exact ⟨r', hr', hq, hne, by rw [hwire, wire_updWire_self], fun k hk => by rw [hwire, wire_updWire_ne _ _ hk.symm]⟩
  case arrive =>
    rintro s r e e2 side f rest i hr hf k rfl hfl
    have hside : s.arriveSide r e side s.cyc = arriveMesh r.id e side (wireKey (r.loc e2) side.opposite) s.cyc (f :: rest) s := by
      simp only [State.arriveSide, hf, hfl]
    have hstay : s.arriveSide r e side s.cyc = s → exec (.linkTokenArrival r.id e side .arrive) s = .next s := fun h => by
      rw [exec_arrive hr, wireArrive_mesh hf (h.symm ▸ hr) rfl, h]
    refine ⟨fun hd => hstay (hside.trans (arriveMesh_early hr (by rintro g ⟨⟩; exact hd))), ?_⟩
    intro hd hnext hlive hc hi hm
    refine ⟨fun hl => hstay (hside.trans (arriveMesh_stays hr (enterIn_full hc hm hl))), fun hl hp hs ho => ?_⟩
    obtain ⟨q, hin, hb, hchan, hother, helem⟩ := enterIn_room (t := f.tok) (at_ := max f.due s.cyc) (src := f.src) hc hm hi hlive hl hp hs ho
    have hid := id_of_base hb
    set s1 := (s.setRegion q).updWire (wireKey (r.loc e2) side.opposite) (fun w => { w with flight := rest }) with hs1
    have hq : s1.region? r.id = some q := hid ▸ region_setRegion s q
    have hend : s.arriveSide r e side s.cyc = s1 := by
      rw [hside, arriveMesh_enters hr hd hin, ← hs1, arriveMesh_early hq hnext]
    refine ⟨s1, q, by rw [exec_arrive hr, wireArrive_mesh hf (hend.symm ▸ hq) hb, hend], hq, ?_, hother, helem, ?_, fun j hj => ?_, rfl⟩
    · rw [hchan, Nat.max_eq_right hd]
    · rw [hs1, wire_updWire_self]
    · rw [hs1, wire_updWire_ne _ _ hj.symm, wire_setRegion]

end Sys2Proof.Machine
end

section
/-!
PROOFS. Task packets: the router, the landing queues and the inboxes (R141, R247, R250 to R254).
-/
namespace Sys2Proof.Machine

/-! ## The landing queues -/

/-- A flight without the destination that a copy of it has reached. -/
def State.copyLands (s : State) (id d : Nat) : State :=
  { s with flights := s.flights.map (fun x => if x.id = id then { x with dests := x.dests.filter (fun y => y != d) } else x) }

section Land
variable {s : State} {f : PacketFlight} {d : Nat}

theorem bothMulti_of_single (hs : f.pkt.header.getLsbD 48 = false) : bothMulti f f = false := by
  rw [bothMulti, hs]
  rfl

/-- Neither the sending order nor a failed bay holds the copy back. -/
theorem copy_notHeld (hd : f.dests.contains d = true) (hm : mayLand f d s.flights = true) (ho : overtakes f s.flights = true)
    (hb : s.downBays.contains (d / 4096) = false) :
    (!f.dests.contains d || !mayLand f d s.flights || !overtakes f s.flights || s.downBays.contains (d / 4096)) = false := by
  rw [hd, hm, ho, hb]
  rfl

variable (hf : s.flights.find? (fun x => x.id == f.id) = some f) (hd : f.dests.contains d = true)
  (hm : mayLand f d s.flights = true) (hs : f.pkt.header.getLsbD 48 = false) (ho : overtakes f s.flights = true)
  (hb : s.downBays.contains (d / 4096) = false)
include hf hd hm hs ho hb

/-- A copy toward no region of another context lands where there is room. -/
theorem landPacket_lands (hq : ∀ q e, s.at? d = some (q, e) → q.ctx = headerCtx f.pkt.header) : s.landPacket f.id d =
    if 8 ≤ (s.landing (landKey d f.inbox)).length then s
    else (s.copyLands f.id d).setLanding (landKey d f.inbox) ((s.copyLands f.id d).landing (landKey d f.inbox) ++
      [⟨{ f.pkt with header := f.pkt.header ||| BitVec.ofNat 64 (2 ^ 25 * (d % 2 ^ 14)) }, f.id, s.cyc⟩]) := by
  simp only [State.landPacket, hf, copy_notHeld hd hm ho hb, bothMulti_of_single hs, Bool.false_eq_true, if_false]
  cases hat : s.at? d with
  | none => rfl
  | some p =>
    simp only [hq p.1 p.2 hat, bne_self_eq_false, Bool.false_eq_true, if_false]
    rfl

/-- A copy toward a region of another context is discarded, with a record. -/
theorem landPacket_discards {q : Region} {e : Nat} (hat : s.at? d = some (q, e)) (hq : q.ctx ≠ headerCtx f.pkt.header) :
    s.landPacket f.id d = ((s.copyLands f.id d).returnCredit f.id).record
      (packetDiscard (f.pkt.header ||| BitVec.ofNat 64 (2 ^ 25 * (d % 2 ^ 14))) d) := by
  have hne : (q.ctx != headerCtx f.pkt.header) = true := bne_iff_ne.2 hq
  simp only [State.landPacket, hf, copy_notHeld hd hm ho hb, bothMulti_of_single hs, hat, hne, Bool.false_eq_true, if_false, if_true]
  rfl

end Land

/-! ## The passage into an inbox -/

section Pass
variable {s : State} {loc k e : Nat} {l : Landed} {rest : List Landed} {r : Region} (hl : s.landing (landKey loc k) = l :: rest)
  (hat : s.at? loc = some (r, e))
include hl hat

theorem exec_landingQueuePass_discards (hc : r.ctx ≠ headerCtx l.pkt.header) : exec (.landingQueuePass loc k) s =
    .next (((s.setLanding (landKey loc k) rest).returnCredit l.flight).record (packetDiscard l.pkt.header loc)) := by
  rw [show exec (.landingQueuePass loc k) s = execLandingQueuePass loc k s from rfl]
  simp only [execLandingQueuePass, hl, hat, bne_iff_ne.2 hc, if_true]

variable (hc : r.ctx = headerCtx l.pkt.header)
include hc

/-- The packet of the region's own context passes unless something holds it in its queue. -/
theorem exec_landingQueuePass : exec (.landingQueuePass loc k) s =
    .next (if (!s.regionLive r || (r.elem e).boxRoom s.cyc k = 0 || r.pendingBox e k || r.logShut
        || ((r.elem e).box k).any (fun b => b.at_ == s.cyc)) = true then s
      else ((s.setLanding (landKey loc k) rest).setRegion (r.putPacket s.cyc e k l.pkt)).returnCredit l.flight) := by
  rw [show exec (.landingQueuePass loc k) s = execLandingQueuePass loc k s from rfl]
  simp only [execLandingQueuePass, hl, hat, hc, bne_self_eq_false, Bool.false_eq_true, if_false, apply_ite Host.Outcome.next]

end Pass

/-! ## The obligation -/

/-- Settles O34: the router, a copy that lands or is discarded, and the passage into an inbox. -/
theorem packetsTravel : Obligations.PacketsTravel := by
  unfold Obligations.PacketsTravel
  refine ⟨?accept, ?deliver, ?pass⟩
  case accept =>
    intro s r e p hr hp hlive hf
    rw [show exec (.packetArrival (.accept r.id e)) s = execPacketArrival (.accept r.id e) s from rfl, execPacketArrival, hr]
    simp only [State.acceptPacket, hp, hlive, hf, Bool.not_true, Bool.or_self, Bool.false_eq_true, if_false]
  case deliver =>
    rintro s f d hf hd hm hs ho hb k h rfl rfl s1 rfl
    rw [show exec (.packetArrival (.deliver f.id d)) s = .next (s.landPacket f.id d) from rfl]
    refine ⟨fun hq => ?_, fun q e hat hq => ?_⟩
    · rw [landPacket_lands hf hd hm hs ho hb hq]
      rfl
    · rw [landPacket_discards hf hd hm hs ho hb hat hq]
      rfl
  case pass =>
    intro s loc k l rest r e hl hat
    refine ⟨exec_landingQueuePass_discards hl hat, fun hc hlive hroom hp ho hone => ?_, fun hc hfull => ?_, fun _ => rfl⟩
    · have hnone : ((r.elem e).box k).any (fun b => b.at_ == s.cyc) = false := by simpa using hone
      rw [exec_landingQueuePass hl hat hc, if_neg (by simp [hlive, hp, ho, hnone, Nat.pos_iff_ne_zero.1 hroom])]
    · have hroom : (r.elem e).boxRoom s.cyc k = 0 := by
        rw [Elem.boxRoom, Nat.sub_eq_zero_of_le hfull, Nat.zero_sub]
      rw [exec_landingQueuePass hl hat hc, if_pos (by simp [hroom])]

end Sys2Proof.Machine
end

section
/-!
PROOFS. The ends of queues in memory, here and in another package (R240 to R243, R441, R442).
-/
namespace Sys2Proof.Machine

/-! ## QOUT ends -/

/-- Neither the cycle, the element nor a fence holds the token back from a QOUT end. -/
theorem Leaving.qoutFree {s : State} {r : Region} {e : Nat} {side : Dir} {t : Entry} (h : Leaving s r e side t) {q : QEnd}
    (hout : q.out = true) : (decide (s.cyc < (s.wire (wireKey (r.loc e) side)).lastTake) || !s.sideLive r e || s.fenced r e t.src ||
      !q.out) = false := by
  simp [Nat.not_lt.2 h.idle, h.live, h.unfenced, hout]

section Qout
variable {s : State} {r : Region} {e : Nat} {side : Dir} {q : QEnd}

/-- The home of a queue in another package hears of the records before the next one leaves. -/
theorem exec_qout_tells (reply : Reply) (hr : s.region? r.id = some r) (hq : AMap.find? r.qends (qKey e side) = some q) (hout : q.out = true)
    (haway : s.isLocal q.desc = false) (ht : q.told ≠ q.produced) :
    exec (.qoutRecordWrite r.id e side reply) s = .next (s.tellProduced r (qKey e side) q) := by
  rw [show exec (.qoutRecordWrite r.id e side reply) s = execQoutRecordWrite r.id e side reply s from rfl]
  simp only [execQoutRecordWrite, hr, hq, hout, haway, Bool.not_false, Bool.and_self, bne_iff_ne.2 ht, if_true]

variable (hq : AMap.find? r.qends (qKey e side) = some q) (hout : q.out = true) {t : Entry} (h : Leaving s r e side t)
  (hk : isFathom t.tok.tag = false) (hn : t.src = 0 ∨ AMap.getD r.wsup (wireKey (r.loc e) side) 0 = 0)
include hq hout h hk hn

/-- The token at a QOUT end whose queue lies here. -/
theorem exec_qout_here (reply : Reply) (hl : s.isLocal q.desc = true) {prod cons : Nat} (hprod : prod = s.fabNat (lowOf q.desc + 0x10) 8)
    (hcons : cons = s.fabNat (lowOf q.desc + 0x18) 8) :
    exec (.qoutRecordWrite r.id e side reply) s = .next (if 2 ^ q.log2n ≤ (prod + 2 ^ 64 - cons) % 2 ^ 64 then s
      else ((s.takeHead r e side t.src).partWrite (lowOf (q.recAt prod)) (recBytes q.wide t.tok)).partWrite
        (lowOf q.desc + 0x10) (leBytes (prod + 1) 8)) := by
  rw [show exec (.qoutRecordWrite r.id e side reply) s = execQoutRecordWrite r.id e side reply s from rfl]
  simp only [execQoutRecordWrite, h.resident, hq, hl, h.head, hk, h.qoutFree hout, notRepeated_of hn, Bool.not_true, Bool.and_false,
    Bool.false_and, Bool.false_eq_true, if_false, ← hprod, ← hcons, apply_ite Host.Outcome.next]

/-- The token at a QOUT end whose queue lies in another package, which has been told of every record. -/
theorem exec_qout_away (reply : Reply) (hl : s.isLocal q.desc = false) (ht : q.told = q.produced) :
    exec (.qoutRecordWrite r.id e side reply) s = .next (if 2 ^ q.log2n ≤ (q.produced + 2 ^ 64 - q.consumedCopy) % 2 ^ 64 then s
      else s.qoutAway (s.takeHead r e side t.src) r q t.tok) := by
  rw [show exec (.qoutRecordWrite r.id e side reply) s = execQoutRecordWrite r.id e side reply s from rfl]
  simp only [execQoutRecordWrite, h.resident, hq, hl, h.head, hk, h.qoutFree hout, notRepeated_of hn, ht, bne_self_eq_false, Bool.and_false,
    Bool.not_false, Bool.false_eq_true, if_false, if_true, apply_ite Host.Outcome.next]

end Qout

/-- A record stays while the package's new route mask waits or a record is on its way. -/
theorem qoutAway_waits {s : State} {r : Region} {q : QEnd} (h : s.maskHeld (pkgOf q.desc) = true ∨
    ∃ x ∈ s.reqs, x.kind = .record ∧ x.owner = .queue r.id r.inst ∧ x.addr = q.recAt q.produced) (s1 : State) (t : Token) :
    s.qoutAway s1 r q t = s := by
  refine if_pos ?_
  rcases h with h | ⟨x, hx, hk, ho, ha⟩
  · rw [h, Bool.true_or]
  · rw [List.any_eq_true.2 ⟨x, hx, by simp [hk, ho, ha]⟩, Bool.or_true]

theorem qoutAway_sends {s : State} {r : Region} {q : QEnd} (hm : s.maskHeld (pkgOf q.desc) = false)
    (hn : ∀ x ∈ s.reqs, x.kind = .record → x.owner ≠ .queue r.id r.inst) (s1 : State) (t : Token) :
    s.qoutAway s1 r q t = if s.reachable (pkgOf q.desc) = true
      then (s1.sendReq .record (.queue r.id r.inst) r.ctx (q.recAt q.produced) q.recSize (BitVec.ofNat 512 (leNat (recBytes q.wide t)))).2
      else s1.linkLost r.ctx (q.recAt q.produced) := by
  have hnone : s.reqs.any (fun x => x.kind == .record && x.owner == .queue r.id r.inst && x.addr == q.recAt q.produced) = false := by
    rw [List.any_eq_false]
    intro x hx
    by_cases hk : x.kind = .record
    · simp [hn x hx hk]
    · simp [hk]
  unfold State.qoutAway
  rw [hm, hnone]
  cases s.reachable (pkgOf q.desc) <;> rfl

/-! ## QIN ends -/

section Qin
variable {s : State} {r : Region} {e : Nat} {side : Dir} {q : QEnd} (hr : s.region? r.id = some r)
  (hq : AMap.find? r.qends (qKey e side) = some q) (reply : Reply)
include hr hq

theorem exec_qin_empty (h : s.fabNat (lowOf q.desc + 0x10) 8 = s.fabNat (lowOf q.desc + 0x18) 8) :
    exec (.qinRecordDeliver r.id e side reply) s = .next s := by
  rw [show exec (.qinRecordDeliver r.id e side reply) s = execQinRecordDeliver r.id e side reply s from rfl]
  simp [execQinRecordDeliver, hr, hq, h]

theorem exec_qin_delivers (hin : q.out = false) {cons : Nat} (hcons : cons = s.fabNat (lowOf q.desc + 0x18) 8)
    (hne : s.fabNat (lowOf q.desc + 0x10) 8 ≠ cons) (hw : (s.wire (wireKey (r.loc e) side)).lastTake ≤ s.cyc)
    (hl : r.linkShut e side = false) (hf : s.farHeld q = false) (hc : s.endCredit r e side = true) {t : Token}
    (ht : t = s.recordTok q (lowOf (q.ring + cons % 2 ^ q.log2n * q.recSize))) {s1 : State}
    (hdata : isFathom t.tag = false → s.enterIn r e side t s.cyc 0 = some s1) (hfathom : isFathom t.tag = true → s1 = s) :
    exec (.qinRecordDeliver r.id e side reply) s = .next ((s1.setConsumed q r.ctx (cons + 1)).updWire
      (wireKey (r.loc e) side) (fun w => { w with lastTake := s.cyc + 1 })) := by
  have hgo : ¬ (q.out || decide (s.fabNat (lowOf q.desc + 0x10) 8 = cons) || s.farHeld q ||
      decide (s.cyc < (s.wire (wireKey (r.loc e) side)).lastTake) || r.linkShut e side || !s.endCredit r e side) = true := by
    simp [hin, hne, hf, Nat.not_lt.2 hw, hl, hc]
  have htaken : (if isFathom t.tag = true then some s else s.enterIn r e side t s.cyc 0) = some s1 := by
    cases hk : isFathom t.tag
    · exact hdata hk
    · rw [hfathom hk]
      rfl
  rw [show exec (.qinRecordDeliver r.id e side reply) s = execQinRecordDeliver r.id e side reply s from rfl]
  simp only [execQinRecordDeliver, hr, hq, ← hcons, if_neg hgo, ← ht, htaken]

end Qin

/-! ## CONSUMED -/

section Consumed
variable {s : State} {q : QEnd} (ctx n : Nat)

/-- A ring whose other end no package has bound. -/
theorem setConsumed_here (h : ∀ f ∈ s.farEnds, ¬ (f.out = true ∧ f.desc = lowOf q.desc)) :
    s.setConsumed q ctx n = s.partWrite (lowOf q.desc + 0x18) (leBytes n 8) := by
  have hnone : s.farEnds.find? (fun f => f.out && f.desc == lowOf q.desc) = none := by
    rw [List.find?_eq_none]
    intro f hf
    simpa using h f hf
  simp only [State.setConsumed, hnone]

theorem setConsumed_tells {f : FarEnd} (hf : s.farEnds.find? (fun g => g.out && g.desc == lowOf q.desc) = some f)
    (hr : s.reachable f.package = true) : s.setConsumed q ctx n = ((s.partWrite (lowOf q.desc + 0x18) (leBytes n 8)).sendReq .consumed .other
      ctx (2 ^ 40 * f.package + lowOf q.desc + 0x18) 8 (BitVec.ofNat 512 n)).2 := by
  simp only [State.setConsumed, hf, hr, if_true]

end Consumed

theorem exec_consumedCopyUpdate {s s1 : State} {r : Region} {e : Nat} {side : Dir} {q : QEnd} (reply : Reply)
    (hr : s.region? r.id = some r) (hq : AMap.find? r.qends (qKey e side) = some q) (hout : q.out = true) (hl : s.isLocal q.desc = false)
    (hp : s.takePeer = some s1) : exec (.consumedCopyUpdate r.id e side reply) s = .next (s1.setRegion { r with
      qends := AMap.set r.qends (qKey e side) { q with consumedCopy := (reply.data.extractLsb' 0 64).toNat } }) := by
  rw [show exec (.consumedCopyUpdate r.id e side reply) s = execConsumedCopyUpdate r.id e side reply s from rfl]
  simp only [execConsumedCopyUpdate, hr, hq, hout, hl, Bool.not_false, Bool.and_self, if_true, hp]

/-! ## A record that its home has -/

/-- An end as the record at an address, once its home has it, leaves it. -/
def QEnd.counted (q : QEnd) (addr : Nat) : QEnd :=
  if q.out && q.recAt q.produced == addr then { q with produced := (q.produced + 1) % 2 ^ 64 } else q

theorem find_qends_recordDone (r : Region) (addr k : Nat) :
    AMap.find? (r.recordDone addr).qends k = (AMap.find? r.qends k).map (fun q => q.counted addr) := by
  have hmap : (r.recordDone addr).qends = r.qends.map (fun p => (p.1, p.2.counted addr)) := List.map_congr_left fun p _ => by
    unfold QEnd.counted
    split <;> rfl
  rw [hmap]
  exact find_map_values (fun q => q.counted addr) r.qends k

theorem counted_self {q : QEnd} (hout : q.out = true) (hp : q.produced < 2 ^ 64 - 1) :
    q.counted (q.recAt q.produced) = { q with produced := q.produced + 1 } := by
  rw [QEnd.counted, hout, beq_self_eq_true, Bool.and_self, if_pos rfl, Nat.mod_eq_of_lt (by omega)]

theorem find_and_of_find {α : Type} {l : List α} {p g : α → Bool} {x : α} (h : l.find? p = some x) (hg : g x = true) :
    l.find? (fun y => p y && g y) = some x := by
  obtain ⟨hp, as, bs, hl, hn⟩ := List.find?_eq_some_iff_append.1 h
  refine List.find?_eq_some_iff_append.2 ⟨by rw [hp, hg]; rfl, as, bs, hl, fun a ha => ?_⟩
  have hpa : p a = false := by simpa using hn a ha
  rw [hpa]
  rfl

/-- The request of a record is over: it goes, and the ends of its region's configuration count it. -/
theorem exec_writeCompletion_record {s : State} {r : Region} {id : Nat} {x : Req} (hx : s.reqs.find? (fun y => y.id == id) = some x)
    (hc : x.completed = true) (hk : x.kind = .record) (ho : x.owner = .queue r.id r.inst) (hr : s.region? r.id = some r) :
    exec (.writeCompletion id true) s = .next ((s.dropReq x.id).setRegion (r.recordDone x.addr)) := by
  have hfind : s.reqs.find? (fun y => y.id == id && y.completed && y.kind.isWrite) = some x :=
    find_and_of_find (find_and_of_find hx hc) (by rw [hk]; rfl)
  have hr' : (s.dropReq x.id).region? r.id = some r := hr
  rw [show exec (.writeCompletion id true) s = execWriteCompletion id true s from rfl]
  simp only [execWriteCompletion, hfind, if_true, State.writeOver, ho, State.recordDone, updRegion_some hr', hk, decide_true, Bool.and_self]

/-! ## The obligation -/

/-- Settles O35: the ends whose queue lies here, CONSUMED and its copy, and the ends whose queue lies in another package. -/
theorem queueEndsMoveRecords : Obligations.QueueEndsMoveRecords := by
  unfold Obligations.QueueEndsMoveRecords
  refine ⟨⟨?out, ?qin, ?consumed, fun s r e side q s1 reply hr hq hout hl hp => exec_consumedCopyUpdate reply hr hq hout hl hp⟩,
    ?tells, ?away, ?counts⟩
  case out =>
    intro s r e side t q reply h hk hn hq hout hl prod cons hprod hcons
    exact exec_qout_here hq hout h hk hn reply hl hprod hcons
  case qin =>
    intro s r e side q reply hr hq hin prod cons hprod hcons
    refine ⟨fun h => exec_qin_empty hr hq reply (hprod.symm.trans (h.trans hcons)), fun t s1 hne hw hl hf hc ht hdata hfathom => ?_⟩
    exact exec_qin_delivers hr hq reply hin hcons (hprod ▸ hne) hw hl hf hc ht hdata hfathom
  case consumed =>
    rintro s q ctx n s1 rfl
    exact ⟨setConsumed_here ctx n, fun f hf hr => setConsumed_tells ctx n hf hr⟩
  case tells =>
    intro s r e side q reply hr hq hout hl ht
    rw [exec_qout_tells reply hr hq hout hl ht, State.tellProduced]
    cases s.reachable (pkgOf q.desc) <;> rfl
  case away =>
    rintro s r e side t q reply h hk hn hq hout hl ht pa rfl
    have hexec := exec_qout_away hq hout h hk hn reply hl ht
    refine ⟨fun hfull => by rw [hexec, if_pos hfull], fun hroom => ⟨fun hw => ?_, fun hm hnone => ?_⟩⟩ <;>
      rw [hexec, if_neg (Nat.not_le.2 hroom)]
    · rw [qoutAway_waits hw]
    · rw [qoutAway_sends hm hnone]
      rfl
  case counts =>
    intro s r k q req hr hq hout hp hreq
    have hdone := exec_writeCompletion_record hreq rfl rfl rfl hr
    refine ⟨_, r.recordDone (q.recAt q.produced), hdone, region_setRegion _ (r.recordDone _), ?_⟩
    rw [find_qends_recordDone, hq, Option.map_some, counted_self hout hp]

end Sys2Proof.Machine
end

section
/-!
PROOFS. Errors that the part detects, and the reset of a partition (R255, R256, R292, R447, R451).
-/
namespace Sys2Proof.Machine

/-! ## Finite maps without some of their keys -/

theorem find_filter_key {α : Type} (m : AMap α) (g : Nat → Bool) (k : Nat) :
    AMap.find? (m.filter (fun p => g p.1)) k = if g k = true then AMap.find? m k else none := by
  induction m with
  | nil => simp [AMap.find?]
  | cons p m ih =>
    obtain ⟨j, v⟩ := p
    rcases eq_or_ne j k with rfl | hj
    · cases hg : g j <;> simp [hg, AMap.find?, ih]
    · cases hg : g j <;> simp [hg, AMap.find?, ih, hj]

theorem find_erase_ne {α : Type} (m : AMap α) {k j : Nat} (h : k ≠ j) : AMap.find? (AMap.erase m k) j = AMap.find? m j := by
  induction m with
  | nil => rfl
  | cons p m ih =>
    obtain ⟨i, v⟩ := p
    rcases eq_or_ne i k with rfl | hi
    · simp only [AMap.erase, if_true, ih, AMap.find?, if_neg h]
    · simp only [AMap.erase, if_neg hi, AMap.find?, ih]

theorem find_foldl_erase {α : Type} (ks : List Nat) (m : AMap α) (j : Nat) :
    AMap.find? (ks.foldl AMap.erase m) j = if j ∈ ks then none else AMap.find? m j := by
  induction ks generalizing m with
  | nil => simp
  | cons k ks ih =>
    rw [List.foldl_cons, ih]
    rcases eq_or_ne k j with rfl | hj
    · simp [find?_erase_self]
    · simp [find_erase_ne m hj, hj.symm]

/-! ## Errors in flight (R255, R256) -/

theorem exec_payloadKill {s : State} {ctx : Nat} {what : InFlight} (hs : s.strikes ctx what = true) (hh : s.ctxHeld ctx = false) :
    exec (.payloadKill ctx what) s = .next (((s.discard ctx what).killCtx ctx).record
      { cause := Cause.payloadKill, cls := 2, mkind := 4, ctx := ctx, srcIs := some (s.strikeSector what) }) := by
  rw [show exec (.payloadKill ctx what) s = execPayloadKill ctx what s from rfl]
  simp only [execPayloadKill, hs, hh, Bool.not_true, Bool.or_self, Bool.false_eq_true, if_false]

theorem exec_payloadKill_misses {s : State} {ctx : Nat} {what : InFlight} (hs : s.strikes ctx what = false) :
    exec (.payloadKill ctx what) s = .next s := by
  rw [show exec (.payloadKill ctx what) s = execPayloadKill ctx what s from rfl]
  simp only [execPayloadKill, hs, Bool.not_false, Bool.true_or, if_true]

theorem dropToken_eq (w : Wire) (n : Nat) : w.dropToken n = { w with
    buffer := w.buffer.eraseIdx n
    flight := if n < w.buffer.length then w.flight else w.flight.eraseIdx (n - w.buffer.length) } := by
  unfold Wire.dropToken
  split
  · rfl
  · next h => rw [List.eraseIdx_of_length_le (Nat.not_lt.1 h)]

@[simp] theorem link_updLink_self (s : State) (k : Nat) (f : Link → Link) : (s.updLink k f).link k = f (s.link k) := by
  simp [State.updLink, State.link]
@[simp] theorem port_updPort_self (s : State) (p : Nat) (f : Port → Port) : (s.updPort p f).port p = f (s.port p) := by
  simp [State.updPort, State.port]

section Discard
variable {s : State} {r : Region} {ctx e : Nat} {side : Dir} (n : Nat) (hr : s.linkOwner ctx r.id e = some r)
include hr

theorem wire_discard : (s.discard ctx (.wire r.id e side n)).wire (wireKey (r.loc e) side) =
    (s.wire (wireKey (r.loc e) side)).dropToken n := by
  simp only [State.discard, hr, State.wire, State.updWire, State.setWire, getD_set_self]

theorem link_discard {k : Nat} (hf : r.far e side = .island k) :
    (s.discard ctx (.inward r.id e side n)).link k = { s.link k with fly := (s.link k).fly.eraseIdx n } ∧
    (s.discard ctx (.outward r.id e side n)).link k = { s.link k with inq := (s.link k).inq.eraseIdx n } := by
  simp only [State.discard, State.linkFar, hr, Option.map_some, hf, State.dropInward, State.dropOutward, link_updLink_self, and_self]

theorem port_discard {p : Nat} (hf : r.far e side = .port p) :
    (s.discard ctx (.inward r.id e side n)).port p = { s.port p with fly := (s.port p).fly.eraseIdx n } ∧
    (s.discard ctx (.outward r.id e side n)).port p = { s.port p with toMem := (s.port p).toMem.eraseIdx n } := by
  simp only [State.discard, State.linkFar, hr, Option.map_some, hf, State.dropInward, State.dropOutward, port_updPort_self, and_self]

end Discard

/-- A corrupt header brings down a bay that is up and whose contexts all can be killed now. -/
theorem exec_headerCorrupt {s : State} {bay : Nat} (hb : bay < 4) (hup : s.downBays.contains bay = false)
    (hh : ∀ c ∈ s.ctxsIn bay, s.ctxHeld c = false) {s1 : State}
    (h1 : s1 = ((s.ctxsIn bay).foldl (fun u n => u.killCtx n) s).emptyBay bay) :
    exec (.headerCorrupt bay) s = .next (if s.ctxsIn bay = [] then
      { s1 with downBays := NSet.insert s1.downBays bay }.evlWrite Cause.headerCorrupt 0 bay 0 0
      else reportDown bay (s.ctxsIn bay) { s1 with downBays := NSet.insert s1.downBays bay }) := by
  have hgo : ¬ (decide (4 ≤ bay) || s.downBays.contains bay || (s.ctxsIn bay).any s.ctxHeld) = true := by
    have hnone : (s.ctxsIn bay).any s.ctxHeld = false := by simpa using hh
    simp only [hup, hnone, Nat.not_le.2 hb, decide_false, Bool.or_self, Bool.false_eq_true, not_false_eq_true]
  rw [show exec (.headerCorrupt bay) s = execHeaderCorrupt bay s from rfl]
  simp only [execHeaderCorrupt, if_neg hgo, List.isEmpty_iff, ← h1]

/-- The wires and the chain table of the bay hold nothing. -/
theorem emptyBay_empty (s : State) {bay k : Nat} (h : k / 16384 = bay) :
    (s.emptyBay bay).wire k = {} ∧ AMap.find? (s.emptyBay bay).chain (4 * k) = none := by
  have h4 : 4 * k / 65536 = bay := by omega
  unfold State.emptyBay
  constructor
  · simp only [State.wire, AMap.getD, find_filter_key _ (fun i => i / 16384 != bay), h, bne_self_eq_false, Bool.false_eq_true, if_false]
  · simp only [find_filter_key _ (fun i => i / 65536 != bay), h4, bne_self_eq_false, Bool.false_eq_true, if_false]

/-! ## Errors in memory, and corrected errors (R292, R451) -/

theorem mem_insert_self (l : List Nat) (k : Nat) : k ∈ NSet.insert l k := by
  induction l with
  | nil => simp [NSet.insert]
  | cons j l ih =>
    unfold NSet.insert
    split
    · simp
    · split
      · next h => simp [h]
      · simp [ih]

/-- The 8 bytes around a byte that is poisoned. -/
theorem poisonedAt_markPoison_unit (s : State) (a : Nat) : (s.markPoison a 1).poisonedAt (a / 8 * 8) 8 = true := by
  have hmark : unitsOf a 1 = [a / 8] := by simp [unitsOf, natsFrom]
  have hunit : a / 8 ∈ unitsOf (a / 8 * 8) 8 := by
    rw [unitsOf, if_neg (by decide), mem_natsFrom]
    omega
  refine List.any_eq_true.2 ⟨a / 8, hunit, List.contains_iff_mem.2 ?_⟩
  show a / 8 ∈ NSet.insertAll s.poison (unitsOf a 1)
  rw [hmark]
  exact mem_insert_self ..

theorem exec_memoryUncorrectableError {s : State} {a : Nat} (ha : a < 2 ^ 40) (hn : isNormal a = true) :
    exec (.memoryUncorrectableError a) s = .next (s.markPoison a 1) := by
  rw [show exec (.memoryUncorrectableError a) s = execMemoryUncorrectableError a s from rfl]
  simp only [execMemoryUncorrectableError, if_pos ha, hn, if_true]

/-! ## The reset of a partition (R256, R447) -/

theorem mem_bayCores {bay c : Nat} : c ∈ bayCores bay ↔ c / 64 = bay := by
  rw [bayCores, mem_natsFrom]
  omega

theorem exec_prstGo {s : State} {bay : Nat} (h : s.prstRun.contains bay = true) : exec (.prstGo bay) s = .next { s with
    cores := (bayCores bay).foldl AMap.erase s.cores
    mrings := s.mrings.filter (fun p => p.1 / 4 != bay)
    score := s.score.filter (fun e => e.sector / 64 != bay) } := by
  rw [show exec (.prstGo bay) s = execPrstGo bay s from rfl, execPrstGo, h]
  rfl

theorem exec_partitionResetComplete {s : State} {bay : Nat} (h : s.prstRun.contains bay = true)
    (hc : ∀ c ∈ bayCores bay, s.core c = {}) : exec (.partitionResetComplete bay) s = .next { s with
      prstRun := s.prstRun.filter (fun b => b != bay), downBays := s.downBays.filter (fun b => b != bay) } := by
  have hall : (bayCores bay).all (fun c => s.core c == {}) = true := List.all_eq_true.2 fun c hm => beq_iff_eq.2 (hc c hm)
  rw [show exec (.partitionResetComplete bay) s = execPartitionResetComplete bay s from rfl, execPartitionResetComplete, h, hall]
  rfl

/-- Where no reset was asked for, nothing changes. -/
theorem exec_reset_idle {s : State} {bay : Nat} (h : s.prstRun.contains bay = false) :
    exec (.prstGo bay) s = .next s ∧ exec (.partitionResetComplete bay) s = .next s := by
  rw [show exec (.prstGo bay) s = execPrstGo bay s from rfl,
    show exec (.partitionResetComplete bay) s = execPartitionResetComplete bay s from rfl, execPrstGo, execPartitionResetComplete, h]
  exact ⟨rfl, rfl⟩

/-! ## The obligation -/

/-- Settles O53: what an error in flight, in a header or in memory does, the count of corrected errors, and the reset of a partition. -/
theorem errorsAndPartitionReset : Obligations.ErrorsAndPartitionReset := by
  unfold Obligations.ErrorsAndPartitionReset
  refine ⟨⟨fun s ctx what => ⟨exec_payloadKill, exec_payloadKill_misses⟩, ?discard,
    fun s bay hb hup hh s1 h1 => exec_headerCorrupt hb hup hh h1, fun s bay k => emptyBay_empty s,
    fun s a ha hn => ⟨exec_memoryUncorrectableError ha hn, poisonedAt_markPoison_unit s a⟩, ?corrected⟩, ?reset⟩
  case discard =>
    intro s r ctx e side n hr
    refine ⟨?_, fun k hf => link_discard n hr hf, fun p hf => port_discard n hr hf⟩
    rintro w rfl -
    rw [wire_discard n hr, dropToken_eq]
  case corrected =>
    rintro s source n rfl s1 rfl
    rfl
  case reset =>
    intro s bay hb
    refine ⟨exec_reset_idle, fun h => ⟨⟨_, exec_prstGo h,
      fun c hc _ => ?_, fun c hc => ?_, fun k hk => ?_, rfl, rfl, rfl⟩, fun hc => ?_⟩⟩
    · simp only [State.core, AMap.getD, find_foldl_erase, if_pos (mem_bayCores.2 hc)]
    · simp only [State.core, AMap.getD, find_foldl_erase, if_neg (fun hm => hc (mem_bayCores.1 hm))]
    · simp only [find_filter_key _ (fun i => i / 4 != bay), hk, bne_self_eq_false, Bool.false_eq_true, if_false]
    · refine exec_partitionResetComplete h fun c hm => hc c (mem_bayCores.1 hm) ?_
      have := mem_bayCores.1 hm
      omega

end Sys2Proof.Machine
end

section
/-!
PROOFS. The steps of a matrix element whose accumulator is empty: beat, close, outer, behind (R265, R266, R271, R272).
-/
namespace Sys2Proof.Machine

/-! ## Heads and reports -/

theorem isStopAt_some {l : Nat} {t : Tile} (hs : isStop t.tag = true) (hl : levelOf t.tag = l) : isStopAt l (some t) = true := by
  simp [isStopAt, hs, hl]

/-- The first poison tile of a region is recorded, a later one is not (R272). -/
theorem reportPoison_of_region {s : State} {r : Region} (hr : s.region? r.id = some r) (e : Nat) :
    s.reportPoison r.id e = if r.mp then s else (s.setRegion { r with mp := true }).matrixRecord r e Cause.matrixPoison := by
  simp only [State.reportPoison, hr]

/-- The first shape error of a region is recorded, a later one is not (R272). -/
theorem reportShape_of_region {s : State} {r : Region} (hr : s.region? r.id = some r) (e : Nat) :
    s.reportShape r.id e = if r.ms then s else (s.setRegion { r with ms := true }).matrixRecord r e Cause.matrixShape := by
  simp only [State.reportShape, hr]

theorem getElem_beatTile (fmt : Nat) (acc : Vector Word 64) (a b : Tile) (i : Fin 64) :
    (beatTile fmt acc a b)[i] = beatRule fmt acc[i] a b (i.val / 8) (i.val % 8) := by
  simp [beatTile, Vector.getD]

/-! ## The open round -/

/-- Element e may step, its accumulator is empty, a and b stand at its operands, and it can forward both. -/
structure State.OpenRound (s : State) (r : Region) (e : Nat) (a b : Tile) : Prop where
  steps : s.matrixAt r.id e = some r
  notFull : (r.elem e).mat.accFull = false
  headA : s.opHead r e (stA (r.elem e).static) = some a
  headB : s.opHead r e (stB (r.elem e).static) = some b
  freeA : (r.elem e).codeFree (stPassA (r.elem e).static) = true
  freeB : (r.elem e).codeFree (stPassB (r.elem e).static) = true

namespace State.OpenRound

variable {s : State} {r : Region} {e : Nat} {a b : Tile} (h : s.OpenRound r e a b)
include h

/-! ### Which step can be performed -/

theorem canBeat (ha : isOperand a = true) (hb : isOperand b = true) : (s.canStep r e).beat = true := by
  simp [State.canStep, h.notFull, h.headA, h.headB, h.freeA, h.freeB, ha, hb]

theorem canClose (ha : isStop a.tag = true) (hb : isStop b.tag = true) (la : levelOf a.tag = 0) (lb : levelOf b.tag = 0) :
    (s.canStep r e).close = true := by
  simp [State.canStep, h.notFull, h.headA, h.headB, h.freeA, h.freeB, la, isStopAt_some ha la, isStopAt_some hb lb]

/-- An outer stop waits for the result channel only where it goes out by it. -/
theorem canOuter (ha : isStop a.tag = true) (hb : isStop b.tag = true) (hl : levelOf a.tag = levelOf b.tag) (h0 : levelOf a.tag ≠ 0)
    (hroom : ((r.elem e).mat.bc != 0 || (!mcRstop ((r.elem e).const 0) || (r.elem e).codeFree (stRes (r.elem e).static))) = true) :
    (s.canStep r e).outer = true := by
  simpa [State.canStep, h.notFull, h.headA, h.headB, h.freeA, h.freeB, isStopAt_some ha rfl, isStopAt_some hb hl.symm, h0] using hroom

theorem canBehind_of_ranks {x y : Nat} (hx : tileRank a = some x) (hy : tileRank b = some y) (hne : x ≠ y) :
    (s.canStep r e).behind = true := by
  simp [State.canStep, h.notFull, h.headA, h.headB, h.freeA, h.freeB, hx, hy, hne]

theorem canBehind_of_result (hres : a.result = true) : (s.canStep r e).behind = true := by
  simp [State.canStep, h.notFull, h.headA, h.headB, h.freeA, hres]

/-! ### What the step does -/

theorem exec_matrixBeat (ha : isOperand a = true) (hb : isOperand b = true) (pa : isPoison a.tag = false) (pb : isPoison b.tag = false) :
    exec (.matrixBeat r.id e) s = .next (s.setRegion ((r.passBoth s.cyc e a b).updMat e (fun m => { m with
      accTile := beatTile (r.elem e).fmt m.accTile a b, bc := if m.bc = 0xFFFF then m.bc else m.bc + 1 }))) := by
  change execMatrixBeat r.id e s = _
  simp only [execMatrixBeat, h.steps, h.headA, h.headB, h.canBeat ha hb, pa, pb, Bool.or_false, Bool.false_eq_true, if_true, if_false]

theorem exec_matrixBeat_poison (ha : isOperand a = true) (hb : isOperand b = true) (hp : isPoison a.tag = true ∨ isPoison b.tag = true) :
    exec (.matrixBeat r.id e) s = .next ((s.setRegion ((r.passBoth s.cyc e a b).updMat e (fun m => { m with
      pz := true, bc := if m.bc = 0xFFFF then m.bc else m.bc + 1 }))).reportPoison r.id e) := by
  have hbad : (isPoison a.tag || isPoison b.tag) = true := by simpa using hp
  change execMatrixBeat r.id e s = _
  simp only [execMatrixBeat, h.steps, h.headA, h.headB, h.canBeat ha hb, hbad, Bool.or_true, if_true]

theorem exec_matrixClose (ha : isStop a.tag = true) (hb : isStop b.tag = true) (la : levelOf a.tag = 0) (lb : levelOf b.tag = 0) :
    exec (.matrixClose r.id e) s =
      .next (s.setRegion ((r.passBoth s.cyc e a b).updMat e (fun m => { m with accFull := true }))) := by
  change execMatrixClose r.id e s = _
  simp only [execMatrixClose, h.steps, h.headA, h.headB, h.canClose ha hb la lb, if_true]

/-- Two outer stops first close a round that has beats, poisoned. -/
theorem exec_matrixOuter_beats (ha : isStop a.tag = true) (hb : isStop b.tag = true) (hl : levelOf a.tag = levelOf b.tag)
    (h0 : levelOf a.tag ≠ 0) (hbc : (r.elem e).mat.bc ≠ 0) : exec (.matrixOuter r.id e) s =
      .next ((s.setRegion (r.updMat e (fun m => { m with accFull := true, pz := true }))).reportShape r.id e) := by
  have hcan := h.canOuter ha hb hl h0 (by rw [bne_iff_ne.2 hbc, Bool.true_or])
  change execMatrixOuter r.id e s = _
  simp only [execMatrixOuter, h.steps, h.headA, h.headB, hcan, if_true, bne_iff_ne.2 hbc]

/-- Two outer stops of an empty round are forwarded, and go out by the result channel where RSTOP says so. -/
theorem exec_matrixOuter_empty (ha : isStop a.tag = true) (hb : isStop b.tag = true) (hl : levelOf a.tag = levelOf b.tag)
    (h0 : levelOf a.tag ≠ 0) (hbc : (r.elem e).mat.bc = 0)
    (hres : (!mcRstop ((r.elem e).const 0) || (r.elem e).codeFree (stRes (r.elem e).static)) = true) :
    exec (.matrixOuter r.id e) s = .next (s.setRegion (if mcRstop ((r.elem e).const 0) = true
      then (r.passBoth s.cyc e a b).placeTile s.cyc e (stRes (r.elem e).static) ⟨mkTag 1 (levelOf a.tag), false, 0, 0⟩
      else r.passBoth s.cyc e a b)) := by
  have hcan := h.canOuter ha hb hl h0 (by rw [hres, Bool.or_true])
  change execMatrixOuter r.id e s = _
  simp only [execMatrixOuter, h.steps, h.headA, h.headB, hcan, hbc, bne_self_eq_false, Bool.false_eq_true, if_true, if_false]

/-- Of two heads of different rank the lower one is shed. -/
theorem exec_matrixBehind {x y : Nat} (hres : a.result = false) (hx : tileRank a = some x) (hy : tileRank b = some y) (hne : x ≠ y)
    {c p : Nat} {t : Tile} (hlow : (c, p, t) = if x < y then (stA (r.elem e).static, stPassA (r.elem e).static, a)
      else (stB (r.elem e).static, stPassB (r.elem e).static, b)) :
    exec (.matrixBehind r.id e) s = .next ((s.setRegion (((r.updElem e (fun q => q.takeOp c)).placeTile s.cyc e p t).updMat e
      (fun m => { m with pz := true }))).reportShape r.id e) := by
  change execMatrixBehind r.id e s = _
  simp only [execMatrixBehind, h.steps, h.canBehind_of_ranks hx hy hne, h.headA, h.headB, hres, hx, hy, Option.getD_some, Bool.false_or,
    decide_eq_true_eq, if_true]
  by_cases hxy : x < y
  · rw [if_pos hxy] at hlow ⊢
    obtain ⟨rfl, rfl, rfl⟩ := hlow
    rfl
  · rw [if_neg hxy] at hlow ⊢
    obtain ⟨rfl, rfl, rfl⟩ := hlow
    rfl

/-- A result tile that comes to an empty accumulator is shed (R271). -/
theorem exec_matrixBehind_result (hres : a.result = true) : exec (.matrixBehind r.id e) s = .next
    ((s.setRegion (((r.updElem e (fun q => q.takeOp (stA (r.elem e).static))).placeTile s.cyc e (stPassA (r.elem e).static) a).updMat e
      (fun m => { m with pz := true }))).reportShape r.id e) := by
  change execMatrixBehind r.id e s = _
  simp only [execMatrixBehind, h.steps, h.canBehind_of_result hres, h.headA, h.headB, hres, Bool.true_or, if_true]

end State.OpenRound

/-- Settles O43: each step of an open round by its condition and its effect, the beat's entries by `beatTile`, the reports by their marks. -/
theorem matrixRoundSteps : Obligations.MatrixRoundSteps := by
  unfold Obligations.MatrixRoundSteps
  refine ⟨?steps, getElem_beatTile, ?reports⟩
  case steps =>
    rintro s r e a b hat _ _ _ rfl rfl rfl hfull hA hB fA fB r1 rfl
    have h : s.OpenRound r e a b := ⟨hat, hfull, hA, hB, fA, fB⟩
    refine ⟨h.exec_matrixBeat, h.exec_matrixBeat_poison, h.exec_matrixClose, fun ha hb hl h0 =>
      ⟨h.exec_matrixOuter_beats ha hb hl h0, fun hbc hm => ?_, fun hbc hm hfree => ?_⟩,
      fun x y hres hx hy hne c p t => h.exec_matrixBehind hres hx hy hne, h.exec_matrixBehind_result⟩
    · rw [h.exec_matrixOuter_empty ha hb hl h0 hbc (by rw [hm]; rfl), if_neg (by rw [hm]; exact Bool.false_ne_true)]
    · rw [h.exec_matrixOuter_empty ha hb hl h0 hbc (by rw [hfree, Bool.or_true]), if_pos hm]
  case reports =>
    intro s r e hr
    rw [reportPoison_of_region hr, reportShape_of_region hr]
    exact ⟨fun hm => if_pos hm, fun hm => if_pos hm, fun hm => if_neg (by simp [hm]), fun hm => if_neg (by simp [hm])⟩

end Sys2Proof.Machine
end

section
/-!
PROOFS. The readout of a full accumulator, the fathom step, and the repeat node (R264, R265, R268, R269, R273, R276).
-/
namespace Sys2Proof.Machine

theorem updMat_congr {r : Region} {e : Nat} {f g : Mat → Mat} (h : f (r.elem e).mat = g (r.elem e).mat) :
    r.updMat e f = r.updMat e g := by
  simp only [Region.updMat, Region.updElem, h]

theorem isFathomHead_eq_false {o : Option Tile} (h : ∀ t, o = some t → isFathom t.tag = false) : isFathomHead o = false := by
  cases o with
  | none => rfl
  | some t => exact h t rfl

/-! ## Tiles placed (R264) -/

/-- A tile that does not leave stands in its output channel. -/
theorem outT_placeTile {r : Region} {e o : Nat} (now : Nat) (t : Tile) (ho : o < 4) (hx : r.isExit e o = false) :
    ((r.placeTile now e (o + 1) t).elem e).mat.outT o = some t := by
  simp [Region.placeTile, hx, Mat.outT, Mat.setOutT, Vector.getD, ho]

/-- At an exit a tile leaves as its tokens. -/
theorem outch_placeTile_exit {r : Region} {e o : Nat} (now : Nat) (t : Tile) (ho : o < 4) (hx : r.isExit e o = true) :
    (((r.placeTile now e (o + 1) t).elem e).outch o).q =
      (tileToks (r.elem e).fmt (mcCpass ((r.elem e).const 0) == o + 1) t).map (fun k => ⟨k, now, 0⟩) := by
  simp [Region.placeTile, hx, ho]

/-! ## The readout (R265, R268, R269) -/

/-- Element e may step, its accumulator is full, and its result channel is free. -/
structure State.Readout (s : State) (r : Region) (e : Nat) : Prop where
  steps : s.matrixAt r.id e = some r
  full : (r.elem e).mat.accFull = true
  free : (r.elem e).codeFree (stRes (r.elem e).static) = true

namespace State.Readout

variable {s : State} {r : Region} {e : Nat} (h : s.Readout r e)
include h

theorem exec_matrixChain {t : Tile} (hrtd : (r.elem e).mat.rtd = false) (hrb : (r.elem e).mat.rb.toNat < r.column e)
    (hA : s.opHead r e (stA (r.elem e).static) = some t) (hres : t.result = true) :
    exec (.matrixChain r.id e) s = .next (s.setRegion
      (((r.updElem e (fun x => x.takeOp (stA (r.elem e).static))).placeTile s.cyc e (stRes (r.elem e).static) t).updMat e
        (fun m => { m with rb := m.rb + 1, pcnt := if isPoison t.tag = true then m.pcnt + 1 else m.pcnt }))) := by
  have hcan : (s.canStep r e).chain = true := by simp [State.canStep, h.full, h.free, hrtd, hrb, hA, hres]
  change execMatrixChain r.id e s = _
  simp only [execMatrixChain, h.steps, hA, hcan, if_true]

/-- The element's own result follows those of the columns before it; a completion token follows where RSTOP says so. -/
theorem exec_matrixEmit (hrtd : (r.elem e).mat.rtd = false) (hrb : (r.elem e).mat.rb.toNat = r.column e) :
    exec (.matrixEmit r.id e) s = .next (s.setRegion ((r.placeTile s.cyc e (stRes (r.elem e).static)
      (resultTile (r.elem e).fmt ((r.elem e).const 0) (r.elem e).mat)).updMat e (fun m => if mcRstop ((r.elem e).const 0) = true
        then { m with rtd := true, pcnt := if m.pz = true then m.pcnt + 1 else m.pcnt } else m.clearAcc))) := by
  have hcan : (s.canStep r e).emit = true := by simp [State.canStep, h.full, h.free, hrtd, hrb]
  change execMatrixEmit r.id e s = _
  simp only [execMatrixEmit, h.steps, hcan, if_true]

theorem exec_matrixToken (hrtd : (r.elem e).mat.rtd = true) :
    exec (.matrixToken r.id e) s = .next (s.setRegion ((r.placeTile s.cyc e (stRes (r.elem e).static)
      ⟨mkTag 1 0, false, BitVec.ofNat 2048 (r.column e + 1 + 2 ^ 16 * (r.elem e).mat.pcnt.toNat), 0⟩).updMat e Mat.clearAcc)) := by
  have hcan : (s.canStep r e).token = true := by simp [State.canStep, h.full, h.free, hrtd]
  change execMatrixToken r.id e s = _
  simp only [execMatrixToken, h.steps, hcan, if_true]

end State.Readout

/-! ## What stays as tiles move through the channels -/

/-- The matrix state of an element without its channels. -/
def Mat.inner (m : Mat) : Mat :=
  { m with inTile := Vector.replicate 4 none, outTile := Vector.replicate 4 none, parts := Vector.replicate 4 [] }

@[simp] theorem Mat.inner_deq (m : Mat) (i : Nat) : (m.deq i).inner = m.inner := by
  unfold Mat.deq
  split
  · split <;> rfl
  · rfl

/-- From r to q nothing but the channels of element e changed. -/
structure Region.MovedTiles (e : Nat) (r q : Region) : Prop where
  id : q.id = r.id
  others : ∀ k, k ≠ e → q.elem k = r.elem k
  inner : (q.elem e).mat.inner = (r.elem e).mat.inner

namespace Region.MovedTiles

variable {e : Nat} {r q p : Region}

theorem refl (e : Nat) (r : Region) : r.MovedTiles e r := ⟨rfl, fun _ _ => rfl, rfl⟩

theorem trans (h : r.MovedTiles e q) (h' : q.MovedTiles e p) : r.MovedTiles e p where
  id := h'.id.trans h.id
  others k hk := (h'.others k hk).trans (h.others k hk)
  inner := h'.inner.trans h.inner

theorem updElem (r : Region) {f : Elem → Elem} (hf : ∀ x, (f x).mat.inner = x.mat.inner) : r.MovedTiles e (r.updElem e f) where
  id := rfl
  others _ hk := elem_updElem_ne r f hk.symm
  inner := by rw [elem_updElem_self, hf]

theorem placeTile (r : Region) (now e c : Nat) (t : Tile) : r.MovedTiles e (r.placeTile now e c t) := by
  unfold Region.placeTile
  split
  · exact refl e r
  · dsimp only
    split
    · exact updElem r fun _ => rfl
    · exact updElem r fun _ => rfl

end Region.MovedTiles

/-! ## The fathom step (R276) -/

/-- A fathom is placed in an output channel that is in use and empty. -/
def Region.placeFathom (q : Region) (now e c : Nat) : Region :=
  if c != 0 && (q.elem e).outFree (c - 1) then q.placeTile now e c fathomTile else q

theorem Region.MovedTiles.placeFathom (q : Region) (now e c : Nat) : q.MovedTiles e (q.placeFathom now e c) := by
  unfold Region.placeFathom
  split
  · exact .placeTile q now e c fathomTile
  · exact .refl e q

/-- The matrix state after the fathoms of its operands, and of its count channel where it repeats, were taken. -/
def Elem.takeFathoms (x : Elem) (m : Mat) : Mat :=
  let m1 := (m.deq (stA x.static - 1)).deq (stB x.static - 1)
  { (if mcRep (x.const 0) = 0 then m1 else m1.deq (mcCin (x.const 0) - 1)) with fathomed := true }

theorem inner_takeFathoms (x : Elem) (m : Mat) : (x.takeFathoms m).inner = { m.inner with fathomed := true } := by
  have hset : ∀ k : Mat, ({ k with fathomed := true } : Mat).inner = { k.inner with fathomed := true } := fun _ => rfl
  unfold Elem.takeFathoms
  rw [hset]
  split <;> simp only [Mat.inner_deq]

/-- The region as the fathom step of element e leaves it. -/
def Region.fathomStep (r : Region) (now e : Nat) : Region :=
  let x := r.elem e
  ((((r.updMat e x.takeFathoms).placeFathom now e (stPassA x.static)).placeFathom now e (stPassB x.static)).placeFathom now e
    (stRes x.static)).placeFathom now e (mcCpass (x.const 0))

theorem exec_matrixFathom {s : State} {r : Region} {e : Nat} (hat : s.matrixAt r.id e = some r) (hcan : s.canFathom r e = true) :
    exec (.matrixFathom r.id e) s = .next (s.setRegion (r.fathomStep s.cyc e)) := by
  change execMatrixFathom r.id e s = _
  simp only [execMatrixFathom, hat, hcan, if_true]
  rfl

theorem fathomStep_movedTiles (r : Region) (now e : Nat) :
    (r.updMat e (r.elem e).takeFathoms).MovedTiles e (r.fathomStep now e) :=
  (((Region.MovedTiles.placeFathom _ now e _).trans (.placeFathom _ now e _)).trans (.placeFathom _ now e _)).trans (.placeFathom _ now e _)

theorem fathomStep_id (r : Region) (now e : Nat) : (r.fathomStep now e).id = r.id := (fathomStep_movedTiles r now e).id

theorem elem_fathomStep_ne (r : Region) (now : Nat) {e k : Nat} (h : k ≠ e) : (r.fathomStep now e).elem k = r.elem k :=
  ((fathomStep_movedTiles r now e).others k h).trans (elem_updElem_ne r _ h.symm)

/-- The fathom step marks its element, and keeps all but the channels. -/
theorem inner_fathomStep (r : Region) (now e : Nat) :
    ((r.fathomStep now e).elem e).mat.inner = { (r.elem e).mat.inner with fathomed := true } := by
  rw [(fathomStep_movedTiles r now e).inner, Region.updMat, elem_updElem_self, inner_takeFathoms]

/-- The accumulator does not move with the fathom. -/
theorem accumulator_fathomStep (r : Region) (now e : Nat) :
    ((r.fathomStep now e).elem e).mat.accTile = (r.elem e).mat.accTile ∧
    ((r.fathomStep now e).elem e).mat.accFull = (r.elem e).mat.accFull ∧
    ((r.fathomStep now e).elem e).mat.pcnt = (r.elem e).mat.pcnt :=
  have hin := inner_fathomStep r now e
  ⟨(congrArg Mat.accTile hin :), (congrArg Mat.accFull hin :), (congrArg Mat.pcnt hin :)⟩

/-- No step of an element follows its fathom step. -/
theorem matrixAt_of_fathomed {s : State} {r : Region} {i e : Nat} (hr : s.region? i = some r) (hf : (r.elem e).mat.fathomed = true) :
    s.matrixAt i e = none := by
  simp [State.matrixAt, hr, hf]

theorem exec_of_matrixAt_none {s : State} {i e : Nat} (h : s.matrixAt i e = none) :
    exec (.matrixBeat i e) s = .next s ∧ exec (.matrixEmit i e) s = .next s ∧ exec (.matrixToken i e) s = .next s ∧
      exec (.matrixFathom i e) s = .next s := by
  change execMatrixBeat i e s = _ ∧ execMatrixEmit i e s = _ ∧ execMatrixToken i e s = _ ∧ execMatrixFathom i e s = _
  simp only [execMatrixBeat, execMatrixEmit, execMatrixToken, execMatrixFathom, h, and_self]

/-! ## The repeat node (R273) -/

theorem exec_repeatNode {s : State} {r : Region} {e : Nat} (hat : s.matrixAt r.id e = some r) :
    exec (.repeatNode r.id e) s = .next ((s.repeatStep r e).getD s) := by
  change execRepeatNode r.id e s = _
  simp only [execRepeatNode, hat]

section Take

variable {s : State} {r : Region} {e : Nat} {h : Tile}

/-- A stop of a higher LEVEL inside a fibre is dropped (log entry 33). -/
theorem takeFibre_outer (x : Nat) (hs : isStop h.tag = true) (hl : levelOf h.tag ≠ 0) :
    s.takeFibre r e x h = s.setRegion (r.updMat e (fun m => m.deq (x - 1))) := by
  simp only [State.takeFibre, hs, bne_iff_ne.2 hl, if_true]

theorem takeFibre_tile (x : Nat) (hs : isStop h.tag = false) (hn : (r.elem e).mat.rbuf.length < 8) :
    s.takeFibre r e x h = s.setRegion (r.updMat e (fun m => { (m.deq (x - 1)) with rbuf := m.rbuf ++ [h] })) := by
  simp only [State.takeFibre, hs, hn, Bool.false_eq_true, if_true, if_false]

/-- What exceeds eight tiles is discarded, with a report. -/
theorem takeFibre_excess (x : Nat) (hs : isStop h.tag = false) (hn : 8 ≤ (r.elem e).mat.rbuf.length) :
    s.takeFibre r e x h =
      (s.setRegion (r.updMat e (fun m => { (m.deq (x - 1)) with rpoison := true }))).reportShape r.id e := by
  simp only [State.takeFibre, hs, if_neg (Nat.not_lt.2 hn), Bool.false_eq_true, if_false]

/-- The stop of LEVEL 0 ends the fibre, which is then presented. -/
theorem takeFibre_end (x : Nat) (hs : isStop h.tag = true) (hl : levelOf h.tag = 0) (hn : (r.elem e).mat.rcount ≠ 0) :
    s.takeFibre r e x h = s.setRegion (r.updMat e (fun m =>
      { (m.deq (x - 1)) with rtaking := false, rlen := BitVec.ofNat 4 m.rbuf.length, rpos := 0 })) := by
  simp only [State.takeFibre, hs, hl, bne_self_eq_false, Bool.false_eq_true, if_true, if_false]
  exact congrArg s.setRegion (updMat_congr (if_neg hn))

/-- A count of 0 consumes the fibre and presents nothing. -/
theorem takeFibre_end_zero (x : Nat) (hs : isStop h.tag = true) (hl : levelOf h.tag = 0) (hn : (r.elem e).mat.rcount = 0) :
    s.takeFibre r e x h = s.setRegion (r.updMat e (fun m =>
      { (m.deq (x - 1)) with rtaking := false, rbuf := [], rlen := 0, rpos := 0, rpoison := false })) := by
  simp only [State.takeFibre, hs, hl, bne_self_eq_false, Bool.false_eq_true, if_true, if_false]
  exact congrArg s.setRegion (updMat_congr (if_pos hn))

end Take

/-- Element e repeats its operand, at which h stands, and no fathom stands there or at its count channel. -/
structure State.Repeats (s : State) (r : Region) (e : Nat) (h : Tile) : Prop where
  repeats : (r.elem e).repCode ≠ 0
  head : s.headTile r e ((r.elem e).repCode - 1) = some h
  notFathom : isFathom h.tag = false
  countNotFathom : isFathomHead (s.headTile r e (mcCin ((r.elem e).const 0) - 1)) = false

namespace State.Repeats

variable {s : State} {r : Region} {e : Nat} {h : Tile} (hr : s.Repeats r e h)
include hr

theorem repeatStep_taking (ht : (r.elem e).mat.rtaking = true) :
    s.repeatStep r e = some (s.takeFibre r e (r.elem e).repCode h) := by
  simp only [State.repeatStep, if_neg hr.repeats, hr.head, hr.notFathom, hr.countNotFathom, ht, Bool.or_self, Bool.false_eq_true,
    if_true, if_false]

/-- A repeat node that presents nothing takes a count and forwards it; a stop at the count channel is forwarded alone. -/
theorem repeatStep_count {t : Tile} (ht : (r.elem e).mat.rtaking = false) (hn : (r.elem e).mat.rcount = 0)
    (hs : isStop h.tag = false ∨ levelOf h.tag = 0) (hcin : s.headTile r e (mcCin ((r.elem e).const 0) - 1) = some t)
    (hfree : (r.elem e).codeFree (mcCpass ((r.elem e).const 0)) = true) {r1 : Region}
    (h1 : r1 = (r.updMat e (fun m => m.deq (mcCin ((r.elem e).const 0) - 1))).placeTile s.cyc e (mcCpass ((r.elem e).const 0)) t) :
    s.repeatStep r e = some (s.setRegion (if isStop t.tag = true then r1 else r1.updMat e (fun m => { m with
      rtaking := true, rbuf := [], rlen := 0, rpos := 0, rpoison := isPoison t.tag,
      rcount := if isPoison t.tag = true then 1 else t.data.extractLsb' 0 32 }))) := by
  have hlow : (isStop h.tag && levelOf h.tag != 0) = false := by
    rcases hs with hs | hs <;> simp [hs]
  have hc := hr.countNotFathom
  rw [hcin] at hc
  simp only [State.repeatStep, if_neg hr.repeats, hr.head, hr.notFathom, hc, ht, hn, hlow, hcin, hfree, h1, bne_self_eq_false,
    Bool.or_self, Bool.not_true, Bool.false_eq_true, if_false]

end State.Repeats

/-- Behind a fathom at its operand or its count channel a repeat node takes nothing (R276). -/
theorem repeatStep_fathom {s : State} {r : Region} {e : Nat} {h t : Tile} (hh : s.headTile r e ((r.elem e).repCode - 1) = some h)
    (ht : s.headTile r e (mcCin ((r.elem e).const 0) - 1) = some t) (hf : isFathom h.tag = true ∨ isFathom t.tag = true) :
    s.repeatStep r e = none := by
  have hany : (isFathom h.tag || isFathomHead (some t)) = true := by simpa [isFathomHead] using hf
  simp only [State.repeatStep, hh, ht, hany, if_true, ite_self]

/-- What a repeat node presents: the tiles of its buffer, then a stop of LEVEL 0. -/
theorem opHead_repeat {s : State} {r : Region} {e : Nat} (ht : (r.elem e).mat.rtaking = false) (hn : (r.elem e).mat.rcount ≠ 0)
    (hh : isFathomHead (s.headTile r e ((r.elem e).repCode - 1)) = false)
    (hc : isFathomHead (s.headTile r e (mcCin ((r.elem e).const 0) - 1)) = false) :
    s.opHead r e (r.elem e).repCode = if (r.elem e).mat.rpos.toNat < (r.elem e).mat.rlen.toNat
      then ((r.elem e).mat.rbuf[(r.elem e).mat.rpos.toNat]?).map (poisoned (r.elem e).mat.rpoison) else some ⟨mkTag 1 0, false, 0, 0⟩ := by
  change (if ((r.elem e).repCode != (r.elem e).repCode) = true then _ else
    if (isFathomHead (s.headTile r e ((r.elem e).repCode - 1)) || isFathomHead (s.headTile r e (mcCin ((r.elem e).const 0) - 1))) = true
    then _ else _) = _
  simp only [bne_self_eq_false, hh, hc, ht, bne_iff_ne.2 hn, Bool.or_self, Bool.false_eq_true, if_true, if_false]

/-- Settles O44: each step of the readout by its condition and its effect, the fathom step by what it moves, and the repeat node by what
it takes and what it presents. -/
theorem matrixReadoutAndRepeat : Obligations.MatrixReadoutAndRepeat := by
  unfold Obligations.MatrixReadoutAndRepeat
  refine ⟨⟨?steps, fun _ => rfl, fun r now e o t ho => ⟨outT_placeTile now t ho, outch_placeTile_exit now t ho⟩⟩,
    ?repeats, ?presents, ?fathom⟩
  case steps =>
    rintro s r e hat _ _ _ rfl rfl rfl
    refine ⟨fun hfull hfree => ?_, fun hA hB hC fA fB fR fC hnone => ?_⟩
    · have h : s.Readout r e := ⟨hat, hfull, hfree⟩
      refine ⟨fun t => h.exec_matrixChain, fun hrtd hrb => ?_, h.exec_matrixToken⟩
      rintro r1 rfl
      rw [h.exec_matrixEmit hrtd hrb]
      refine ⟨fun hm => ?_, fun hm => ?_⟩ <;> rw [hm] <;> rfl
    · have hcin : (mcRep ((r.elem e).const 0) == 0 || isFathomHead (s.headTile r e (mcCin ((r.elem e).const 0) - 1))) = true := by
        by_cases h0 : mcRep ((r.elem e).const 0) = 0
        · rw [h0]; rfl
        · rw [hC h0, Bool.or_true]
      have hcan : s.canFathom r e = true := by simp [State.canFathom, Can.any, hA, hB, hcin, fA, fB, fR, fC, hnone]
      obtain ⟨hacc, hfull, hpcnt⟩ := accumulator_fathomStep r s.cyc e
      have hq : (s.setRegion (r.fathomStep s.cyc e)).region? r.id = some (r.fathomStep s.cyc e) := by
        simpa only [fathomStep_id] using region_setRegion s (r.fathomStep s.cyc e)
      have hf : ((r.fathomStep s.cyc e).elem e).mat.fathomed = true := congrArg Mat.fathomed (inner_fathomStep r s.cyc e)
      exact ⟨_, _, exec_matrixFathom hat hcan, hq, hf, hacc, hfull, hpcnt, fun k hk => elem_fathomStep_ne r s.cyc hk,
        exec_of_matrixAt_none (matrixAt_of_fathomed hq hf)⟩
  case repeats =>
    rintro s r e h _ hat _ _ rfl rfl rfl hx hh hf hcin
    have hr : s.Repeats r e h := ⟨hx, hh, hf, isFathomHead_eq_false hcin⟩
    rw [exec_repeatNode hat]
    refine ⟨fun ht => ?_, fun t r1 ht hn hs hc hfree h1 => ?_⟩
    · rw [hr.repeatStep_taking ht, Option.getD_some]
      exact ⟨fun hs hl => by rw [takeFibre_outer _ hs hl], fun hs hn => by rw [takeFibre_tile _ hs hn],
        fun hs hn => by rw [takeFibre_excess _ hs hn], fun hs hl hn => by rw [takeFibre_end _ hs hl hn],
        fun hs hl hn => by rw [takeFibre_end_zero _ hs hl hn]⟩
    · rw [hr.repeatStep_count ht hn hs hc hfree h1, Option.getD_some]
      exact ⟨fun hstop => by rw [if_pos hstop], fun hstop => by rw [hstop, if_neg Bool.false_ne_true]⟩
  case presents =>
    rintro s r e _ _ rfl _ rfl ht hn hh hc
    rw [opHead_repeat ht hn (isFathomHead_eq_false hh) (isFathomHead_eq_false hc)]
    exact ⟨fun t hlt hb => by rw [if_pos hlt, hb]; rfl, fun hle => if_neg (Nat.not_lt.2 hle)⟩
  case fathom =>
    rintro s r e h t hat _ rfl _ hh ht hf
    rw [exec_repeatNode hat, repeatStep_fathom hh ht hf]
    rfl

end Sys2Proof.Machine
end

section
/-!
PROOFS. Requests from outside: of the host over CXL.mem, and of the other packages of the domain over the Agfel ports (R147, R201, R289,
R334, R436, R437, R444).
-/
namespace Sys2Proof.Machine

/-! ## CXL.mem (R437) -/

section Access
variable {s s1 : State} {h : Hdm} {va : DWord} {q : OuterReq} {x : Xlat}

theorem exec_cxlM_error {e : Stop}
    (ha : (accessM (whoHost h) (if q.write then .store else .load) va q.size).exec s = (.error e, s1)) :
    (cxlM h va q).exec s = (.error e, s1) := exec_bind_error ha _

variable (ha : (accessM (whoHost h) (if q.write then .store else .load) va q.size).exec s = (.ok x, s1)) (hl : s1.isLocal x.pa = true)
  {s2 : State} (hs2 : s2 = if q.cache = true then { s1 with hostLines := NSet.insert s1.hostLines (lowOf x.pa / 128) } else s1)
include ha hl hs2

/-- A write of a line of this package that the host's other copies do not hold up (R438). -/
theorem exec_cxlM_write (hw : q.write = true)
    (hh : ({ s1 with hostLines := s1.hostLines.filter (fun l => l != lowOf x.pa / 128) } : State).writeHeld (lowOf x.pa) q.size false =
      false) :
    (cxlM h va q).exec s = (.ok (0, false), s2.hostWrite (lowOf x.pa) (leBytes q.data.toNat q.size)) := by
  rw [cxlM, exec_bind_ok ha, exec_bind_ok (exec_get s1)]
  simp only [hl, hw, hh, Bool.not_true, Bool.false_eq_true, if_false, if_true, ← hs2]
  rfl

/-- A read of a line of this package: its stored bytes, and whether they are poison (R415). -/
theorem exec_cxlM_read (hw : q.write = false) :
    (cxlM h va q).exec s = (.ok (leNat (s1.hostRead (lowOf x.pa) q.size), s1.poisonedAt (lowOf x.pa) q.size), s2) := by
  rw [cxlM, exec_bind_ok ha, exec_bind_ok (exec_get s1)]
  simp only [hl, hw, Bool.not_true, Bool.false_eq_true, if_false, ← hs2]
  rfl

end Access

section CxlMem
variable {s : State} {q : OuterReq} (hb : s.bootst = 1) (hq : outerOk q = true)
include hb hq

theorem exec_cxlMemRequest_unsupported (hw : s.windowOf q.addr = none) :
    exec (.cxlMemRequest q) s = .next (s.answer false q.addr .unsupported 0) := by
  rw [show exec (.cxlMemRequest q) s = execCxlMemRequest q s from rfl]
  simp only [execCxlMemRequest, hb, hq, hw, bne_self_eq_false, Bool.not_true, Bool.or_self, Bool.false_eq_true, if_false]

variable {h : Hdm} (hw : s.windowOf q.addr = some h) {va : DWord} (hva : va = h.vbase + BitVec.ofNat 64 (q.addr - h.hbase.toNat))
  {s1 : State}
include hw hva

/-- A request that was performed is answered with its data, or with poison. -/
theorem exec_cxlMemRequest_ok {v : Nat} {p : Bool} (hm : (cxlM h va q).exec s = (.ok (v, p), s1)) :
    exec (.cxlMemRequest q) s = .next ((if p = true then s1.answer false q.addr .poison 0
      else s1.answer false q.addr .value (BitVec.ofNat 512 v)).endReads (.island 8 0)) := by
  rw [show exec (.cxlMemRequest q) s = execCxlMemRequest q s from rfl]
  simp only [execCxlMemRequest, hb, hq, hw, ← hva, hm, bne_self_eq_false, Bool.not_true, Bool.or_self, Bool.false_eq_true, if_false]

/-- A failed request leaves its record in the queue of its window's context: a read is answered with poison, a write is dropped. -/
theorem exec_cxlMemRequest_raise {cause : Byte} {addr : DWord} (hm : (cxlM h va q).exec s = (.error (.raise cause addr), s1)) :
    exec (.cxlMemRequest q) s = .next (((s1.record { cause := cause, cls := 2, mkind := 4, ctx := h.ctx, addr := addr }).answer false
      q.addr (if q.write then .value else .poison) 0).endReads (.island 8 0)) := by
  rw [show exec (.cxlMemRequest q) s = execCxlMemRequest q s from rfl]
  simp only [execCxlMemRequest, hb, hq, hw, ← hva, hm, bne_self_eq_false, Bool.not_true, Bool.or_self, Bool.false_eq_true, if_false]
  cases q.write <;> rfl

end CxlMem

/-! ## Peers (R289, R444) -/

theorem peerWaiting_of_ne_vst (s : State) {op : PeerOp} (h : op ≠ .vst) (q : OuterReq) : s.peerWaiting op q = none := if_neg h

theorem peerWaiting_vst_eq_none {s : State} {q : OuterReq} (h : ∀ w ∈ s.peerWaits, ¬ (w.addr = q.addr ∧ w.value = q.data.extractLsb' 0 64)) :
    s.peerWaiting .vst q = none := by
  rw [State.peerWaiting, if_pos rfl, List.find?_eq_none]
  intro w hw
  simpa using h w hw

section Peer
variable {s : State} {op : PeerOp} {q : OuterReq} (hb : s.bootst = 1) (hn : isNormal q.addr = true)
include hb hn

/-- A request that an accepted flit has brought, and that can be performed now. -/
theorem exec_agfelPeerRequest_new (hok : peerOk op q = true) (hw : s.peerWaiting op q = none) {n : Nat} (hp : s.peerPort = some n)
    {s1 s2 : State} (ht : s.takePeer = some s1) (hr : s1.peerRequest n op q = some s2) : exec (.agfelPeerRequest op q) s = .next s2 := by
  rw [show exec (.agfelPeerRequest op q) s = execAgfelPeerRequest op q s from rfl]
  simp only [execAgfelPeerRequest, hb, hok, hn, hw, hp, ht, hr, Option.getD_some, Option.bind_some, bne_self_eq_false, Bool.not_true,
    Bool.or_self, Bool.false_eq_true, if_false]

theorem exec_agfelPeerRequest_again (hok : peerOk op q = true) {w : PeerWait} (hw : s.peerWaiting op q = some w) :
    exec (.agfelPeerRequest op q) s = .next (s.peerVstAgain w) := by
  rw [show exec (.agfelPeerRequest op q) s = execAgfelPeerRequest op q s from rfl]
  simp only [execAgfelPeerRequest, hb, hok, hn, hw, bne_self_eq_false, Bool.not_true, Bool.or_self, Bool.false_eq_true, if_false]

end Peer

/-! ### Reads and writes -/

section Plain
variable {s : State} {n : Nat} {q : OuterReq}

theorem peerRequest_load : s.peerRequest n .load q = some (if s.poisonedAt q.addr q.size = true then s.answerPeer n q.addr .poison 0
    else s.answerPeer n q.addr .value (leNat (s.hostRead q.addr q.size))) := rfl

theorem guarded_iff : s.guarded q = true ↔
    s.touchesBarrier q.addr q.size = true ∨ s.touchesQueue (q.addr + 2 ^ 40 * s.package.toNat) q.size = true := Bool.or_eq_true_iff

theorem peerWrite_free (h : s.writeHeld q.addr q.size false = false) (v : Nat) :
    s.peerWrite q v = some (s.hostWrite q.addr (leBytes v q.size)) := by
  rw [State.peerWrite, h, if_neg Bool.false_ne_true]

/-- A plain store changes no marked barrier and no bound queue (R201, R245). -/
theorem peerRequest_store (h : s.writeHeld q.addr q.size false = false) : s.peerRequest n .store q = some
    (if s.touchesBarrier q.addr q.size = true ∨ s.touchesQueue (q.addr + 2 ^ 40 * s.package.toNat) q.size = true
      then s.answerPeer n q.addr .refused 0 else (s.hostWrite q.addr (leBytes q.data.toNat q.size)).answerPeer n q.addr .value 0) := by
  simp only [State.peerRequest, guarded_iff, peerWrite_free h, Option.map_some]
  split <;> rfl

end Plain

/-! ### Versions (R147, R334) -/

section Vld
variable {s : State} {n pa : Nat} {v : Word}

theorem peerVld_gone (h : s.judgeVld pa v = .gone) : s.peerVld n pa v = some (s.answerPeer n pa .gone 0) := by
  rw [State.peerVld, h]

theorem peerVld_value {y : DWord} {p : Bool} (h : s.judgeVld pa v = .value y p) : s.peerVld n pa v =
    some (if p = true then s.answerPeer n pa .poison 0
      else if v = (s.vtag pa).newest then s.answerPeer n pa .newest (leNat (s.hostRead pa 8))
      else s.answerPeer n pa .value y.toNat) := by
  rw [State.peerVld, h]

theorem peerVld_waits (h : s.judgeVld pa v = .notYet) (hf : s.vldListFull pa = false) : s.peerVld n pa v =
    some (({ s with vldWaits := s.vldWaits ++ [⟨pa / 8, v, .peer n⟩] } : State).answerPeer n pa .waiting 0) := by
  simp only [State.peerVld, h, hf, Bool.false_eq_true, if_false]

end Vld

section Vst
variable {s : State} {n pa : Nat} {v : DWord}

/-- It waits behind those that arrived before it. -/
theorem peerVst_waits (h : s.vstHeld pa (.peer s.nextId) = true) : s.peerVst n pa v =
    some (({ s with nextId := s.nextId + 1
                    peerWaits := s.peerWaits ++ [⟨s.nextId, n, pa, v, s.cyc⟩]
                    vstQueue := s.vstQueue ++ [⟨pa / 8, .peer s.nextId⟩] } : State).answerPeer n pa .waiting 0) := by
  rw [State.peerVst, if_pos h]
  rfl

theorem peerVst_creates (h : s.vstHeld pa (.peer s.nextId) = false) (hw : s.writeHeld pa 8 false = false) :
    s.peerVst n pa v = some (s.peerCreate n pa v) := by
  simp only [State.peerVst, h, hw, Bool.false_eq_true, if_false]

variable {w : PeerWait}

theorem peerVstAgain_stall (h : w.since + 2 ^ 20 < s.cyc) : s.peerVstAgain w =
    ({ s with peerWaits := s.peerWaits.erase w, vstQueue := s.vstQueue.erase ⟨w.addr / 8, .peer w.id⟩ } : State).answerPeer w.port w.addr
      .stall 0 := by
  rw [State.peerVstAgain, if_pos h]
  rfl

theorem peerVstAgain_held (hc : s.cyc ≤ w.since + 2 ^ 20) (h : s.vstHeld w.addr (.peer w.id) = true) : s.peerVstAgain w = s := by
  rw [State.peerVstAgain, if_neg (Nat.not_lt.2 hc), h, Bool.true_or, if_pos rfl]

theorem peerVstAgain_creates (hc : s.cyc ≤ w.since + 2 ^ 20) (h : s.vstHeld w.addr (.peer w.id) = false)
    (hw : s.writeHeld w.addr 8 false = false) : s.peerVstAgain w =
    ({ s with peerWaits := s.peerWaits.erase w, vstQueue := s.vstQueue.erase ⟨w.addr / 8, .peer w.id⟩ } : State).peerCreate w.port w.addr
      w.value := by
  rw [State.peerVstAgain, if_neg (Nat.not_lt.2 hc), h, hw, Bool.or_self, if_neg Bool.false_ne_true]
  rfl

end Vst

theorem peerOk_word {op : PeerOp} (hop : op = .vld ∨ op = .vst) {q : OuterReq} (hs : q.size = 8) (ha : q.addr % 8 = 0) :
    peerOk op q = true := by
  rcases hop with rfl | rfl <;> simp [peerOk, hs, ha]

/-! ## The obligation -/

/-- Settles O41: a request of the host by its window and its access; one of a peer that arrives by what its operation comes to, and a vst
that waits by its age and the versions that are free. -/
theorem outsideRequestsAreServed : Obligations.OutsideRequestsAreServed := by
  unfold Obligations.OutsideRequestsAreServed
  refine ⟨fun s q hb hq hw => exec_cxlMemRequest_unsupported hb hq hw, ?performed, ?failed, ?peer, ?again, fun s n addr kind data => rfl⟩
  case performed =>
    intro s q h va x s1 hb hq hw hva ha hl s2 hs2
    exact ⟨fun hwr hh => exec_cxlMemRequest_ok hb hq hw hva (exec_cxlM_write ha hl hs2 hwr hh),
      fun hrd => exec_cxlMemRequest_ok hb hq hw hva (exec_cxlM_read ha hl hs2 hrd)⟩
  case failed =>
    intro s q h va cause addr s1 hb hq hw hva ha
    exact exec_cxlMemRequest_raise hb hq hw hva (exec_cxlM_error ha)
  case peer =>
    intro s q n s1 hb hn hp ht
    have hnew {op : PeerOp} {s2 : State} (hne : op ≠ .vst) (hok : peerOk op q = true) (hr : s1.peerRequest n op q = some s2) :
        exec (.agfelPeerRequest op q) s = .next s2 :=
      exec_agfelPeerRequest_new hb hn hok (peerWaiting_of_ne_vst s hne q) hp ht hr
    refine ⟨fun hok => hnew (by decide) hok peerRequest_load, fun hok hh => hnew (by decide) hok (peerRequest_store hh),
      fun hok => hnew (by decide) hok rfl, ?vld, ?vst⟩
    case vld =>
      rintro hs ha v rfl
      have hvld {s2 : State} (hr : s1.peerVld n q.addr (q.data.extractLsb' 0 32) = some s2) :
          exec (.agfelPeerRequest .vld q) s = .next s2 := hnew (by decide) (peerOk_word (.inl rfl) hs ha) hr
      refine ⟨fun hj => hvld (peerVld_gone hj), fun y hj => hvld (peerVld_value hj), fun y hj he => ?_, fun y hj he => ?_,
        fun hj hf => hvld (peerVld_waits hj hf)⟩
      · rw [hvld (peerVld_value hj), if_neg Bool.false_ne_true, if_pos he]
      · rw [hvld (peerVld_value hj), if_neg Bool.false_ne_true, if_neg he]
    case vst =>
      rintro hs ha v rfl hfirst
      have hvst {s2 : State} (hr : s1.peerVst n q.addr (q.data.extractLsb' 0 64) = some s2) :
          exec (.agfelPeerRequest .vst q) s = .next s2 :=
        exec_agfelPeerRequest_new hb hn (peerOk_word (.inr rfl) hs ha) (peerWaiting_vst_eq_none hfirst) hp ht hr
      exact ⟨fun hh => hvst (peerVst_waits hh), fun hh hw => hvst (peerVst_creates hh hw)⟩
  case again =>
    rintro s q w hb hn hs ha hw s1 rfl
    have hagain := exec_agfelPeerRequest_again hb hn (peerOk_word (.inr rfl) hs ha) (show s.peerWaiting .vst q = some w from hw)
    exact ⟨fun hc => hagain.trans (congrArg _ (peerVstAgain_stall hc)), fun hc hh => hagain.trans (congrArg _ (peerVstAgain_held hc hh)),
      fun hc hh hf => hagain.trans (congrArg _ (peerVstAgain_creates hc hh hf))⟩

end Sys2Proof.Machine
end

section
/-!
PROOFS. Flits, replays, links that go down and come up, time-outs, and the completion of writes (R147, R201, R245, R364, R443 to R446).
-/
namespace Sys2Proof.Machine

/-! ## A flit that arrives (R444) -/

section Flit
variable {s : State} {n k id : Nat} {reply : Reply}

theorem exec_flitReceive_outOfOrder (hk : k ≠ (s.aport n).accepted) : exec (.flitReceive n k id reply) s = .next s := by
  rw [show exec (.flitReceive n k id reply) s = execFlitReceive n k id reply s from rfl, execFlitReceive]
  simp only [bne_iff_ne.2 hk, Bool.or_true, if_true]

/-- The answer to a request of this package, or else a request of the peer. -/
theorem exec_flitReceive_inOrder (hn : n < 16) (hup : s.linkUp n = true) (hk : k = (s.aport n).accepted) :
    exec (.flitReceive n k id reply) s = .next ((s.reqs.find? (fun q => q.id == id && q.port == n)).elim
      ((s.setAport n ((s.aport n).accept reply.ack)).setAport n
        { (s.aport n).accept reply.ack with peerIn := (s.aport n).peerIn + 1 })
      (fun q => (s.setAport n ((s.aport n).accept reply.ack)).flitAnswer q reply)) := by
  have hreqs : (s.setAport n ((s.aport n).accept reply.ack)).reqs = s.reqs := rfl
  rw [show exec (.flitReceive n k id reply) s = execFlitReceive n k id reply s from rfl]
  simp only [execFlitReceive, hup, hk, hreqs, Nat.not_le.2 hn, bne_self_eq_false, Bool.not_true, Bool.or_self, Bool.false_eq_true, if_false]
  cases s.reqs.find? (fun q => q.id == id && q.port == n) <;> rfl

end Flit

/-! ## The answer that a flit brings -/

section Answer
variable {s : State} {q : Req} {reply : Reply}

/-- The answer to a request has come; what it does waits for an event of its own. -/
def State.markCompleted (s : State) (q : Req) : State :=
  { s with reqs := s.reqs.map (fun x => if x.id = q.id then { x with completed := true } else x) }

theorem flitAnswer_write (hw : q.kind.isWrite = true) (hv : q.kind = .vst → reply.version ≠ 2) :
    s.flitAnswer q reply = s.markCompleted q := by
  have hwait : ¬ (q.kind = .vst && reply.version = 2 : Bool) = true := by simpa using hv
  rw [State.flitAnswer, if_neg hwait, if_pos hw]
  rfl

variable (hw : q.kind.isWrite = false)
include hw

theorem not_vstWaits : ¬ (q.kind = .vst && reply.version = 2 : Bool) = true := by
  have hvst : q.kind ≠ .vst := fun h => by rw [h] at hw; cases hw
  simp [hvst]

theorem flitAnswer_access {i m : Nat} {r : Region} {a : Acc} (ho : q.owner = .region i m) (hr : s.region? i = some r)
    (ha : r.acc? m = some a) : s.flitAnswer q reply = s.markCompleted q := by
  rw [State.flitAnswer, if_neg (not_vstWaits hw), hw, if_neg Bool.false_ne_true, ho]
  exact if_pos (by rw [hr, Option.bind_some, ha, Option.isSome_some])

theorem flitAnswer_pending {c : Nat} {p : Pend} (ho : q.owner = .core c p.id) (hp : p ∈ (s.core c).pend) (hres : p.result = none) :
    s.flitAnswer q reply = s.markCompleted q := by
  rw [State.flitAnswer, if_neg (not_vstWaits hw), hw, if_neg Bool.false_ne_true, ho]
  exact if_pos (List.any_eq_true.2 ⟨p, hp, by rw [hres, beq_self_eq_true]; rfl⟩)

theorem flitAnswer_other (ho : q.owner = .other) : s.flitAnswer q reply = s.answerReq q reply := by
  rw [State.flitAnswer, if_neg (not_vstWaits hw), hw, if_neg Bool.false_ne_true, ho]

end Answer

/-! ## Replays, and a link that goes down (R364, R446) -/

section Link
variable {s : State} {n : Nat}

theorem exec_linkDown_early (h8 : (s.aport n).replays < 8) : exec (.linkDown n) s = .next s := by
  rw [show exec (.linkDown n) s = execLinkDown n s from rfl]
  simp only [execLinkDown, h8, decide_true, Bool.or_true, if_true]

variable (hup : s.linkUp n = true)
include hup

/-- What is unacknowledged on an Agfel port is counted in flits, and on a die-to-die link it is what is outstanding there. -/
theorem exec_flitReplay (hport : n < 16 → (s.aport n).acked < (s.aport n).sent) (hdie : 16 ≤ n → s.dieBusy (n - 16) = true)
    (h8 : (s.aport n).replays < 8) : exec (.flitReplay n) s = .next (s.setAport n { s.aport n with
      replays := (s.aport n).replays + 1, replayTo := (s.aport n).sent }) := by
  have hopen : (if n < 16 then decide ((s.aport n).acked < (s.aport n).sent) else s.dieBusy (n - 16)) = true := by
    split
    · next hn => exact decide_eq_true (hport hn)
    · next hn => exact hdie (Nat.not_lt.1 hn)
  rw [show exec (.flitReplay n) s = execFlitReplay n s from rfl]
  simp only [execFlitReplay, hup, hopen, Nat.not_le.2 h8, decide_false, Bool.not_true, Bool.or_self, Bool.false_eq_true, if_false]

theorem exec_linkDown (h8 : 8 ≤ (s.aport n).replays) {s1 : State} (hs1 : s1 = s.setAport n { s.aport n with
      up := false, train := true, rpl := 8, replays := 0, acked := (s.aport n).sent }) :
    exec (.linkDown n) s = .next (if n < 16 then failReqs (s.reqs.filter (fun q => q.port == n && !q.completed)) s1
      else s1.dieFails (n - 16)) := by
  rw [show exec (.linkDown n) s = execLinkDown n s from rfl]
  simp only [execLinkDown, hup, Nat.not_lt.2 h8, ← hs1, decide_false, Bool.not_true, Bool.or_self, Bool.false_eq_true, if_false]

end Link

/-! ### What a die-to-die link loses -/

/-- A load of an element receives poison. -/
theorem accLost_load {s : State} {b : Nat} {r : Region} {a : Acc} {x : Xlat} (hr : s.region? r.id = some r) (hx : a.xlat = some x)
    (hon : s.accOn b r a = true) (hk : a.kind = .load ∨ a.kind = .acquire ∨ a.kind = .vld) :
    s.accLost b r.id a = (s.setRegion (r.setAcc { a with st := .done, result := some (0, true) })).dieRecord b r.ctx x.pa := by
  simp only [State.accLost, hr, hx, hon, Bool.not_true, Bool.false_eq_true, if_false]
  rcases hk with hk | hk | hk <;> rw [hk]

/-- A load that a core holds receives poison. -/
theorem heldLost_load {s : State} {b c : Nat} {h : Held} {p : Pend} (hk : h.kind = .load) (hon : s.heldOn b c h = true)
    (hp : (s.core c).pend.find? (fun p => p.id == h.id) = some p) :
    s.heldLost b c h = ((s.updCore c (fun x => { x with held := x.held.filter (fun g => g.id != h.id) })).dieRecord b h.ctx
      h.pa).giveResult c p 0 true := by
  simp only [State.heldLost, hk, hon, hp, Bool.not_true, Bool.false_eq_true, if_false]

/-! ## Training, and a load that is not answered (R445, R446) -/

theorem exec_linkRetrainComplete (s : State) {n : Nat} (hn : n < 20) :
    exec (.linkRetrainComplete n) s = .next (s.setAport n { s.aport n with up := true, train := false }) := by
  rw [show exec (.linkRetrainComplete n) s = execLinkRetrainComplete n s from rfl, execLinkRetrainComplete, if_pos hn]

theorem exec_linkTimeout {s : State} {id : Nat} {q : Req}
    (hq : s.reqs.find? (fun x => x.id == id && x.kind == .load && !x.completed) = some q) :
    exec (.linkTimeout id) s = .next
      (if s.cyc ≤ q.since + 2 ^ 22 then s else (s.linkRecord Cause.linkTimeout q).answerReq q failedReply) := by
  rw [show exec (.linkTimeout id) s = execLinkTimeout id s from rfl, execLinkTimeout, hq]

/-! ## The completion of a write -/

section Completion
variable {s : State} {q : Req}

section Event
variable {id : Nat} (hq : s.reqs.find? (fun x => x.id == id && x.completed && x.kind.isWrite) = some q)
include hq

theorem exec_writeCompletion_performed : exec (.writeCompletion id true) s = .next (s.writeOver q true) := by
  rw [show exec (.writeCompletion id true) s = execWriteCompletion id true s from rfl, execWriteCompletion, hq]
  rfl

theorem exec_writeCompletion_stalled (hk : q.kind = .vst) : exec (.writeCompletion id false) s = .next (s.vstStalled q) := by
  rw [show exec (.writeCompletion id false) s = execWriteCompletion id false s from rfl]
  simp only [execWriteCompletion, hq, hk, Bool.false_eq_true, if_false, if_true]

theorem exec_writeCompletion_refused (hk : q.kind ≠ .vst) : exec (.writeCompletion id false) s = .next (s.writeRefused q) := by
  rw [show exec (.writeCompletion id false) s = execWriteCompletion id false s from rfl]
  simp only [execWriteCompletion, hq, hk, Bool.false_eq_true, if_false]

theorem isWrite_of_completion : q.kind.isWrite = true := by
  have hp := List.find?_some hq
  exact (Bool.and_eq_true_iff.1 hp).2

end Event

section Sequencer
variable {c m : Nat} (ho : q.owner = .core c m)
include ho

/-- A write that is over clears its sequencer's wait. -/
theorem writeOver_core (done : Bool) : s.writeOver q done =
    (if done = true then s.dropReq q.id else (s.dropReq q.id).linkRecord Cause.linkReplay q).updCore c (fun x => { x with
      remoteWrites := x.remoteWrites.filter (fun k => k.req != q.id) }) := by
  rw [State.writeOver, ho]

theorem writeRefused_core {f : FarWrite} (hf : (s.core c).remoteWrites.find? (fun k => k.req == q.id) = some f) :
    s.writeRefused q = ((s.dropReq q.id).updCore c (fun x => { x with
      remoteWrites := x.remoteWrites.filter (fun k => k.req != q.id) })).lateFault c q.ctx f.past f.va f.pc := by
  simp only [State.writeRefused, ho, hf]

end Sequencer

section Element
variable {i m : Nat} {r : Region} {a : Acc} (ho : q.owner = .region i m) (hr : s.region? i = some r) (ha : r.acc? m = some a)
include ho hr ha

theorem writeRefused_access {x : Xlat} (hst : a.st = .remote x) : s.writeRefused q =
    (s.dropReq q.id).setRegion (r.setAcc { a with st := .failed Cause.permFault a.va }) := by
  have hr' : (s.dropReq q.id).region? i = some r := hr
  simp only [State.writeRefused, ho, hr', Option.bind_some, ha, Option.map_some, hst]

theorem vstStalled_access (hc : q.since + 2 ^ 20 < s.cyc) : s.vstStalled q = s.stallVst r a := by
  simp only [State.vstStalled, if_neg (Nat.not_le.2 hc), ho, hr, ha]

end Element

end Completion

/-! ## The obligation -/

/-- Settles O42: a flit by its number and by the owner of the request that it answers, replays and the end of a link by their count, what
a failed link answers, and the completion of a write by what its home says. -/
theorem linksDeliverReplayAndFail : Obligations.LinksDeliverReplayAndFail := by
  unfold Obligations.LinksDeliverReplayAndFail
  refine ⟨?flit, ?accept, fun s n _ hup hport hdie h8 => exec_flitReplay hup hport hdie h8,
    fun s n _ hup => ⟨exec_linkDown_early, fun h8 s1 hs1 => exec_linkDown hup h8 hs1⟩, fun s q => rfl,
    fun s b r a x hr hx hon hk => accLost_load hr hx hon hk, fun s b c h p hk hon hp => heldLost_load hk hon hp,
    fun s n hn => exec_linkRetrainComplete s hn, fun s q hq => exec_linkTimeout hq, ?sequencer, ?refused, ?stalled⟩
  case flit =>
    intro s n k id reply hn hup
    refine ⟨exec_flitReceive_outOfOrder, ?_⟩
    rintro hk s1 rfl
    rw [exec_flitReceive_inOrder hn hup hk]
    refine ⟨?answer, fun hq => by rw [hq, Option.elim_none]⟩
    rintro q hq s2 rfl
    rw [hq, Option.elim_some]
    refine ⟨fun hw hv => congrArg _ (flitAnswer_write hw hv), fun hw => ⟨fun i m r a ho hr ha => ?_, ?_,
      fun ho => congrArg _ (flitAnswer_other hw ho)⟩⟩
    · exact congrArg _ (flitAnswer_access hw ho hr ha)
    · rintro c _ p ho hp rfl hres
      exact congrArg _ (flitAnswer_pending hw ho hp hres)
  case accept =>
    rintro p ack a rfl
    rfl
  case sequencer =>
    rintro s q c n hq ho s1 rfl
    refine ⟨?_, fun hk f hf => ?_, ?_⟩
    · rw [exec_writeCompletion_performed hq, writeOver_core ho]
      rfl
    · rw [exec_writeCompletion_refused hq hk, writeRefused_core ho hf]
    · rw [failReqs, isWrite_of_completion hq, if_pos rfl, writeOver_core ho]
      rfl
  case refused =>
    intro s q i m r a x hq hk ho hr ha hst
    rw [exec_writeCompletion_refused hq (by rw [hk]; decide), writeRefused_access ho hr ha hst]
  case stalled =>
    intro s q i m r a hq hk ho hr ha hc
    rw [exec_writeCompletion_stalled hq hk, vstStalled_access ho hr ha hc]
    rfl

end Sys2Proof.Machine
end

section
/-!
PROOFS. Stop tokens and commands of a traversal island (R387, R393, R394), as its link 0 and link 1 bring them.
-/
namespace Sys2Proof.Machine

/-! ## Kinds of a token (R77) -/

theorem isData_of_isStop {t : Byte} (h : isStop t = true) : isData t = false := by
  simp_all [isStop, isData]

theorem isData_of_isPoison {t : Byte} (h : isPoison t = true) : isData t = false := by
  simp_all [isPoison, isData]

/-! ## What an island holds -/

@[simp] theorem island_updIsland_self (s : State) (k : Nat) (f : Island → Island) : (s.updIsland k f).island k = f (s.island k) :=
  getD_set_self ..

@[simp] theorem island_linkTake (s : State) (key k : Nat) : (s.linkTake key).island k = s.island k := rfl

theorem updIsland_congr {s : State} {k : Nat} {f g : Island → Island} (h : f (s.island k) = g (s.island k)) :
    s.updIsland k f = s.updIsland k g := by
  rw [State.updIsland, State.updIsland, h]

@[simp] theorem raysBefore_updIsland (s : State) (k : Nat) (f : Island → Island) (j n : Nat) :
    (s.updIsland k f).raysBefore j n = s.raysBefore j n := rfl

@[simp] theorem raysBefore_linkTake (s : State) (key j n : Nat) : (s.linkTake key).raysBefore j n = s.raysBefore j n := rfl

/-- Every ray of the island in flight was taken at the moment or after it. -/
theorem raysBefore_eq_false {s : State} {k n : Nat} (h : ∀ x ∈ s.rays, x.origin = k → n ≤ x.order) : s.raysBefore k n = false := by
  simp only [State.raysBefore, List.any_eq_false, Bool.and_eq_true, beq_iff_eq, decide_eq_true_eq, not_and, not_lt]
  exact h

/-! ## Stop tokens (R387) -/

theorem passedTok_stop {t : Token} (h : isStop t.tag = true) : passedTok t = t := by
  rw [passedTok, isPoison_of_isStop h, if_neg Bool.false_ne_true]

theorem passedTok_poison {t : Token} (h : isPoison t.tag = true) : passedTok t = ⟨0, mkTag 3 (levelOf t.tag)⟩ := if_pos h

section Stops
variable {s : State} {k n : Nat} {t : Token}

theorem passStops_waits (h : s.raysBefore k n = true) (rest : List (Nat × Token)) :
    s.passStops k ((n, t) :: rest) = s.updIsland k (fun i => { i with stops := (n, t) :: rest }) := if_pos h

theorem passStops_leaves (h : s.raysBefore k n = false) (rest : List (Nat × Token)) :
    s.passStops k ((n, t) :: rest) = (s.linkSend (linkKey 0 k 0) t).passStops k rest := by
  rw [State.passStops, h, if_neg Bool.false_ne_true]

/-- A stop or poison token at the head joins those that wait, with the number of the rays taken before it. -/
theorem exec_traversalStopPass {r : Region} (hb : s.binder 0 k = some r) (hh : s.linkHead (linkKey 0 k 0) = some t)
    (hd : isData t.tag = false) : exec (.traversalStopPass k) s = .next (((s.linkTake (linkKey 0 k 0)).updIsland k (fun i =>
      { i with taken := i.taken + 1, stops := i.stops ++ [(i.taken, passedTok t)] })).passStops k
        ((s.island k).stops ++ [((s.island k).taken, passedTok t)])) := by
  rw [show exec (.traversalStopPass k) s = execTraversalStopPass k s from rfl]
  simp only [execTraversalStopPass, hb, hh, hd, Bool.false_eq_true, if_false, island_updIsland_self, island_linkTake]

end Stops

/-! ## Commands (R393, R394) -/

section Commands
variable {s : State} {k : Nat} {r : Region} {t : Token} (hc : s.traversalCmd k = some (r, t))
include hc

/-- DRAIN is taken, and then waits for the rays taken before it. -/
theorem exec_drain (hd : isData t.tag = true) (ho : cmdOp t = 1) : exec (.drain k) s = .next
    (((s.linkTake (linkKey 0 k 1)).updIsland k (fun i => { i with drains := [(i.taken, t)] })).passDrain k) := by
  rw [show exec (.drain k) s = execDrain k s from rfl]
  simp only [execDrain, hc, hd, ho, beq_self_eq_true, Bool.and_self, if_true]

theorem exec_ctinv (hd : isData t.tag = true) (ho : cmdOp t = 2) : exec (.ctinv k) s = .next
    (({ s.linkTake (linkKey 0 k 1) with
      chain := s.chain.filter (fun p => !(p.1 / 65536 == k / 64 && p.2.key.toNat / 2 ^ 42 == r.ctx)) } : State).linkSend
        (linkKey 0 k 1) (respToken t 2 0)) := by
  rw [show exec (.ctinv k) s = execCtinv k s from rfl]
  simp only [execCtinv, hc, hd, ho, beq_self_eq_true, Bool.and_self, if_true, State.traversalAnswer]
  rfl

theorem exec_traversalUnknownCommand (hd : isData t.tag = true) (h1 : cmdOp t ≠ 1) (h2 : cmdOp t ≠ 2) :
    exec (.traversalUnknownCommand k) s = .next (((s.linkTake (linkKey 0 k 1)).islandError r Cause.islandCmd 0).linkSend
      (linkKey 0 k 1) (respToken t (cmdOp t) 1)) := by
  rw [show exec (.traversalUnknownCommand k) s = execTraversalUnknownCommand k s from rfl]
  simp only [execTraversalUnknownCommand, hc, hd, h1, h2, Bool.not_true, Bool.false_eq_true, decide_false, Bool.or_self, if_false,
    State.traversalAnswer]

/-- No command: a stop or poison token. -/
theorem exec_traversalUnknownCommand_noData (hd : isData t.tag = false) : exec (.traversalUnknownCommand k) s = .next
    ((s.linkTake (linkKey 0 k 1)).islandError r Cause.islandCmd 0) := by
  rw [show exec (.traversalUnknownCommand k) s = execTraversalUnknownCommand k s from rfl]
  simp only [execTraversalUnknownCommand, hc, hd, Bool.not_false, if_true]

end Commands

/-- A command that waits is answered once no ray taken before it is in flight. -/
theorem passDrain_answers {s : State} {k n : Nat} {t : Token} (hd : (s.island k).drains = [(n, t)]) (h : s.raysBefore k n = false) :
    s.passDrain k = (s.updIsland k (fun i => { i with drains := [] })).linkSend (linkKey 0 k 1) (respToken t (cmdOp t) 0) := by
  simp only [State.passDrain, hd, h, Bool.false_eq_true, if_false, State.traversalAnswer]

/-! ## The obligation -/

/-- Settles O49: the token at the head joins the stops that wait, and leaves or waits by the rays in flight; each command by its OP. -/
theorem traversalCommandsAndStops : Obligations.TraversalCommandsAndStops := by
  unfold Obligations.TraversalCommandsAndStops
  refine ⟨?stops, fun t => ⟨passedTok_stop, passedTok_poison⟩, ?commands⟩
  case stops =>
    rintro s k r t hb hh hd hs s1 n rfl rfl
    have hf : (s.linkTake (linkKey 0 k 0)).updIsland k (fun i =>
        { i with taken := i.taken + 1, stops := i.stops ++ [(i.taken, passedTok t)] }) =
        (s.linkTake (linkKey 0 k 0)).updIsland k (fun i =>
          { i with taken := (s.island k).taken + 1, stops := [((s.island k).taken, passedTok t)] }) :=
      updIsland_congr (by rw [island_linkTake, hs, List.nil_append])
    rw [exec_traversalStopPass hb hh hd, hf, hs, List.nil_append]
    exact ⟨fun h => congrArg _ (passStops_waits (by simp [h]) []), fun h => congrArg _ (passStops_leaves (by simp [h]) [])⟩
  case commands =>
    rintro s k r t hc s1 rfl
    refine ⟨fun hd ho hall => ?_, exec_ctinv hc, exec_traversalUnknownCommand hc, exec_traversalUnknownCommand_noData hc⟩
    have hgone := raysBefore_eq_false hall
    rw [exec_drain hc hd ho, passDrain_answers (by rw [island_updIsland_self]) (by simpa using hgone), ho]

end Sys2Proof.Machine
end

section
/-!
PROOFS. Exact numbers: the value of a finite number, of a product and of a sum, and comparison by value (R65, R67, R380).
-/
namespace Sys2Proof.Machine

theorem finite_iff {v : FVal} : v.finite = true ↔ ∃ neg m e, v = .fin neg m e := by
  cases v <;> simp [FVal.finite]

/-- The value of a signed magnitude in units of 2^e. -/
theorem rat_fin (neg : Bool) (m : Nat) (e : Int) : (FVal.fin neg m e).rat = (if neg then -(m : Rat) else m) * 2 ^ e := by
  have hv : (if 0 ≤ e then ((m * 2 ^ e.toNat : Nat) : Rat) else mkRat m (2 ^ (-e).toNat)) = (m : Rat) * 2 ^ e := by
    split
    next h =>
      obtain ⟨n, rfl⟩ := Int.eq_ofNat_of_zero_le h
      simp
    next h =>
      obtain ⟨n, hn⟩ := Int.eq_ofNat_of_zero_le (show 0 ≤ -e by omega)
      obtain rfl : e = -n := by omega
      simp [Rat.mkRat_eq_div, div_eq_mul_inv]
  simp only [FVal.rat, hv]
  cases neg <;> simp

/-- A whole number of units that divide 2^e stands for the same value. -/
theorem signedAt_mul (neg : Bool) (m : Nat) {e lo : Int} (h : lo ≤ e) :
    (signedAt neg m e lo : Rat) * 2 ^ lo = (FVal.fin neg m e).rat := by
  obtain ⟨n, hn⟩ := Int.eq_ofNat_of_zero_le (Int.sub_nonneg.2 h)
  obtain rfl : e = n + lo := by omega
  rw [rat_fin, zpow_add₀ (by norm_num), zpow_natCast]
  cases neg <;> simp [signedAt] <;> ring

/-- A whole number of units as a signed magnitude. -/
theorem rat_ofInt (v lo : Int) : (FVal.fin (v < 0) v.natAbs lo).rat = (v : Rat) * 2 ^ lo := by
  rw [rat_fin, show (v.natAbs : Rat) = |(v : Rat)| by rw [← Int.cast_abs, ← Int.cast_natCast, Int.natCast_natAbs]]
  rcases lt_or_ge v 0 with h | h
  · simp [h, abs_of_neg (Int.cast_lt_zero.2 h)]
  · simp [not_lt.2 h, abs_of_nonneg (Int.cast_nonneg (R := Rat) h)]

section Finite
variable {a b : FVal} (ha : a.finite = true) (hb : b.finite = true)
include ha hb

theorem finite_mul : (a.mul b).finite = true ∧ (a.mul b).rat = a.rat * b.rat := by
  obtain ⟨na, ma, ea, rfl⟩ := finite_iff.1 ha
  obtain ⟨nb, mb, eb, rfl⟩ := finite_iff.1 hb
  refine ⟨rfl, ?_⟩
  rw [FVal.mul, rat_fin, rat_fin, rat_fin, zpow_add₀ (by norm_num)]
  cases na <;> cases nb <;> simp <;> ring

/-- Two finite numbers as whole numbers of one unit. -/
theorem exists_units : ∃ (x y lo : Int), a.rat = x * 2 ^ lo ∧ b.rat = y * 2 ^ lo ∧
    a.cmp b = some (if x - y < 0 then -1 else if x - y = 0 then 0 else 1) ∧
    (a.add .rne b).finite = true ∧ (a.add .rne b).rat = (x + y : Int) * 2 ^ lo := by
  obtain ⟨na, ma, ea, rfl⟩ := finite_iff.1 ha
  obtain ⟨nb, mb, eb, rfl⟩ := finite_iff.1 hb
  have hlo : (if ea ≤ eb then ea else eb) ≤ ea ∧ (if ea ≤ eb then ea else eb) ≤ eb := by split <;> omega
  refine ⟨_, _, _, (signedAt_mul na ma hlo.1).symm, (signedAt_mul nb mb hlo.2).symm, rfl, ?_⟩
  simp only [FVal.add]
  generalize (if ea ≤ eb then ea else eb) = lo
  split
  next h0 => rw [h0]; split <;> exact ⟨rfl, by simp [rat_fin]⟩
  next => exact ⟨rfl, rat_ofInt _ _⟩

theorem finite_add : (a.add .rne b).finite = true ∧ (a.add .rne b).rat = a.rat + b.rat := by
  obtain ⟨x, y, lo, hx, hy, -, hfin, hsum⟩ := exists_units ha hb
  exact ⟨hfin, by rw [hsum, hx, hy]; push_cast; ring⟩

/-- Comparison is by value (R67). -/
theorem cmp_of_finite : a.cmp b = some (if a.rat < b.rat then -1 else if a.rat = b.rat then 0 else 1) := by
  obtain ⟨x, y, lo, hx, hy, hcmp, -⟩ := exists_units ha hb
  have hpos : (0 : Rat) < 2 ^ lo := zpow_pos (by norm_num) lo
  rw [hcmp, hx, hy]
  simp only [mul_lt_mul_iff_left₀ hpos, mul_left_inj' hpos.ne', Int.cast_lt, Int.cast_inj, sub_neg, sub_eq_zero]

end Finite

end Sys2Proof.Machine
end

section
/-!
PROOFS. Candidates in the order of their keys (R381, R382): the key as one value of a linear order, insertion by it, and what it makes of the
best candidate and of the list below it.
-/
namespace Sys2Proof.Machine

/-- The key (T, INST, PRIM, LEAF), T by its value and each field in turn. -/
def Cand.key (c : Cand) : Rat ×ₗ Nat ×ₗ Nat ×ₗ Nat := toLex (ratOf c.t, toLex (c.inst, toLex (c.prim, c.leaf)))

/-- T is a number. -/
def Cand.Timed (c : Cand) : Prop := (decF c.t.toNat).finite = true

theorem key_lt_iff {a b : Cand} : a.key < b.key ↔ ratOf a.t < ratOf b.t ∨ (ratOf a.t = ratOf b.t ∧ (a.inst < b.inst ∨
    (a.inst = b.inst ∧ (a.prim < b.prim ∨ (a.prim = b.prim ∧ a.leaf < b.leaf))))) := by
  simp only [Cand.key, Prod.Lex.toLex_lt_toLex]

theorem below_iff {a b : Cand} (ha : a.Timed) (hb : b.Timed) : a.below b = true ↔ a.key < b.key := by
  simp only [key_lt_iff, ratOf, Cand.below, cmp_of_finite ha hb]
  rcases lt_trichotomy (decF a.t.toNat).rat (decF b.t.toNat).rat with h | h | h
  · simp [h]
  · simp [h]
  · simp [h.not_gt, h.ne']

theorem below_eq_false {a b : Cand} (ha : a.Timed) (hb : b.Timed) : a.below b = false ↔ b.key ≤ a.key := by
  rw [← Bool.not_eq_true, below_iff ha hb, not_lt]

/-! ## Insertion -/

/-- Candidates in the order of their keys. -/
def KeySorted (l : List Cand) : Prop := l.Pairwise (fun x y => x.key ≤ y.key)

theorem insertCand_perm (c : Cand) (l : List Cand) : (insertCand c l).Perm (c :: l) := by
  induction l with
  | nil => exact .refl _
  | cons h t ih =>
    unfold insertCand
    split
    · exact .refl _
    · exact (ih.cons h).trans (.swap c h t)

theorem insertCand_sorted {c : Cand} {l : List Cand} (hc : c.Timed) (ht : ∀ x ∈ l, x.Timed) (hl : KeySorted l) :
    KeySorted (insertCand c l) := by
  induction l with
  | nil => exact List.pairwise_singleton ..
  | cons h t ih =>
    obtain ⟨hh, hsorted⟩ := List.pairwise_cons.1 hl
    have hht := ht h List.mem_cons_self
    unfold insertCand
    split
    next hlt =>
      have hch := ((below_iff hc hht).1 hlt).le
      refine List.pairwise_cons.2 ⟨fun x hx => ?_, hl⟩
      rcases List.mem_cons.1 hx with rfl | hx
      · exact hch
      · exact hch.trans (hh x hx)
    next hge =>
      refine List.pairwise_cons.2 ⟨fun x hx => ?_, ih (fun x hx => ht x (List.mem_cons_of_mem _ hx)) hsorted⟩
      rcases List.mem_cons.1 ((insertCand_perm c t).mem_iff.1 hx) with rfl | hx
      · exact (below_eq_false hc hht).1 (Bool.not_eq_true _ ▸ hge)
      · exact hh x hx

theorem foldl_insertCand {l acc : List Cand} (hl : ∀ x ∈ l, x.Timed) (ht : ∀ x ∈ acc, x.Timed) (hacc : KeySorted acc) :
    (l.foldl (fun acc c => insertCand c acc) acc).Perm (l ++ acc) ∧ KeySorted (l.foldl (fun acc c => insertCand c acc) acc) := by
  induction l generalizing acc with
  | nil => exact ⟨.refl _, hacc⟩
  | cons c l ih =>
    obtain ⟨hc, hl⟩ := List.forall_mem_cons.1 hl
    have htimed : ∀ x ∈ insertCand c acc, x.Timed := fun x hx =>
      (List.mem_cons.1 ((insertCand_perm c acc).mem_iff.1 hx)).elim (fun h => h ▸ hc) (ht x)
    obtain ⟨hperm, hsorted⟩ := ih hl htimed (insertCand_sorted hc ht hacc)
    exact ⟨hperm.trans (((insertCand_perm c acc).append_left l).trans List.perm_middle), hsorted⟩

theorem sortCands_spec {l : List Cand} (hl : ∀ x ∈ l, x.Timed) : (sortCands l).Perm l ∧ KeySorted (sortCands l) := by
  simpa [sortCands] using foldl_insertCand (acc := []) hl (by simp) .nil

/-! ## The result and the list (R382) -/

section Result
variable {l : List Cand} (hl : ∀ c ∈ l, c.Timed)
include hl

theorem sortCands_filter_spec (p : Cand → Bool) :
    (∀ c, c ∈ sortCands (l.filter p) ↔ c ∈ l ∧ p c = true) ∧ KeySorted (sortCands (l.filter p)) := by
  obtain ⟨hperm, hsorted⟩ := sortCands_spec (l := l.filter p) (fun x hx => hl x (List.mem_of_mem_filter hx))
  exact ⟨fun c => hperm.mem_iff.trans List.mem_filter, hsorted⟩

theorem bestOf_eq_none_iff : bestOf l = none ↔ ∀ c ∈ l, c.opaq = false := by
  obtain ⟨hmem, -⟩ := sortCands_filter_spec hl Cand.opaq
  simp only [bestOf, List.head?_eq_none_iff, List.eq_nil_iff_forall_not_mem, hmem, not_and, Bool.not_eq_true]

/-- The best candidate is the opaque one of least key. -/
theorem bestOf_eq_some {b : Cand} (hb : bestOf l = some b) :
    b ∈ l ∧ b.opaq = true ∧ ∀ c ∈ l, c.opaq = true → c.below b = false := by
  obtain ⟨hmem, hsorted⟩ := sortCands_filter_spec hl Cand.opaq
  obtain ⟨t, ht⟩ := List.head?_eq_some_iff.1 hb
  rw [ht] at hmem hsorted
  obtain ⟨hbl, hbo⟩ := (hmem b).1 List.mem_cons_self
  refine ⟨hbl, hbo, fun c hc ho => (below_eq_false (hl c hc) (hl b hbl)).2 ?_⟩
  rcases List.mem_cons.1 ((hmem c).2 ⟨hc, ho⟩) with rfl | hct
  · exact le_rfl
  · exact (List.pairwise_cons.1 hsorted).1 c hct

theorem listOf_spec : (∀ c, c ∈ listOf l ↔ c ∈ l ∧ c.opaq = false ∧ ∀ b, bestOf l = some b → c.below b = true) ∧
    KeySorted (listOf l) := by
  obtain ⟨hmem, hsorted⟩ := sortCands_filter_spec hl (fun c => !c.opaq)
  unfold listOf
  cases bestOf l with
  | none => exact ⟨fun c => by simp [hmem], hsorted⟩
  | some b => exact ⟨fun c => by simp [hmem, and_assoc], hsorted.filter _⟩

/-- The list is in the order of the keys. -/
theorem listOf_pairwise : (listOf l).Pairwise (fun x y => y.below x = false) := by
  obtain ⟨hmem, hsorted⟩ := listOf_spec hl
  exact hsorted.imp_of_mem (fun hx hy h => (below_eq_false (hl _ ((hmem _).1 hy).1) (hl _ ((hmem _).1 hx).1)).2 h)

end Result

end Sys2Proof.Machine
end

section
/-!
PROOFS. What a ray is tested against (R377, R379 to R381, R383): boxes, the test of a triangle, leaves and their primitives, the ray record,
and the end of a search.
-/
namespace Sys2Proof.Machine

/-! ## Where a ray lies in a box -/

/-- A point of the ray lies in an interval that may be empty. -/
def InInterval (i : Option (Rat × Rat)) (q : Rat) : Prop := ∃ a b, i = some (a, b) ∧ a ≤ q ∧ q ≤ b

/-- The interval, where there is one, holds a point. -/
def Proper (i : Option (Rat × Rat)) : Prop := ∀ a b, i = some (a, b) → a ≤ b

theorem inInterval_some {a b q : Rat} : InInterval (some (a, b)) q ↔ a ≤ q ∧ q ≤ b := by
  simp [InInterval]

/-- Dividing the planes of an axis by a direction that is not zero. -/
theorem slab_bounds {o d lo hi : Rat} (hd : d ≠ 0) (h : lo ≤ hi) (q : Rat) :
    (lo ≤ o + q * d ∧ o + q * d ≤ hi) ↔ min ((lo - o) / d) ((hi - o) / d) ≤ q ∧ q ≤ max ((lo - o) / d) ((hi - o) / d) := by
  rcases lt_or_gt_of_ne hd with hn | hp
  · have hle : (hi - o) / d ≤ (lo - o) / d := div_le_div_of_nonpos_of_le hn.le (by linarith)
    rw [min_eq_right hle, max_eq_left hle, div_le_iff_of_neg hn, le_div_iff_of_neg hn, and_comm]
    constructor <;> rintro ⟨h1, h2⟩ <;> constructor <;> linarith
  · have hle : (lo - o) / d ≤ (hi - o) / d := div_le_div_of_nonneg_right (by linarith) hp.le
    rw [min_eq_left hle, max_eq_right hle, div_le_iff₀ hp, le_div_iff₀ hp]
    constructor <;> rintro ⟨h1, h2⟩ <;> constructor <;> linarith

/-- One axis keeps of an interval the points between its two planes. -/
theorem slab_spec {o d lo hi : Rat} (h : lo ≤ hi) (i : Option (Rat × Rat)) (hp : Proper i) :
    Proper (slab o d lo hi i) ∧ ∀ q, InInterval (slab o d lo hi i) q ↔ InInterval i q ∧ lo ≤ o + q * d ∧ o + q * d ≤ hi := by
  cases i with
  | none => exact ⟨hp, fun q => by simp [slab, InInterval]⟩
  | some p =>
    obtain ⟨a, b⟩ := p
    by_cases hd : d = 0
    · subst hd
      by_cases hin : lo ≤ o ∧ o ≤ hi
      · simp [slab, hin, hp]
      · have hin' : (decide (lo ≤ o) && decide (o ≤ hi)) = false := by simpa using hin
        simp [slab, hin', hin, Proper, InInterval]
    · have hnear : slab o d lo hi (some (a, b)) =
          if max a (min ((lo - o) / d) ((hi - o) / d)) ≤ min (max ((lo - o) / d) ((hi - o) / d)) b
            then some (max a (min ((lo - o) / d) ((hi - o) / d)), min (max ((lo - o) / d) ((hi - o) / d)) b) else none := by
        simp only [slab, if_neg hd, max_def, min_def]
      rw [hnear]
      constructor
      · intro x y hxy
        split at hxy
        next hle => cases hxy; exact hle
        next => cases hxy
      · intro q
        rw [slab_bounds hd h, inInterval_some]
        split
        next => rw [inInterval_some, max_le_iff, le_min_iff]; tauto
        next hle =>
          refine ⟨fun hq => by simp [InInterval] at hq, fun ⟨⟨h1, h2⟩, h3, h4⟩ => absurd ?_ hle⟩
          exact (max_le h1 h3).trans (le_min h4 h2)

/-- A point of the ray between TMIN and TMAX that lies in a box. -/
def Ray.LiesIn (x : Ray) (box : List Word) (q : Rat) : Prop :=
  ratOf x.tmin ≤ q ∧ q ≤ ratOf x.tmax ∧ ∀ k, k < 3 → ratOf (box.getD k 0) ≤ ratOf (x.org.getD k 0) + q * ratOf (x.dir.getD k 0) ∧
    ratOf (x.org.getD k 0) + q * ratOf (x.dir.getD k 0) ≤ ratOf (box.getD (k + 3) 0)

/-- The interval of the ray's points in a box, axis by axis. -/
theorem near_spec {x : Ray} {box : List Word} (hlen : box.length = 6) (hfin : ∀ w ∈ box, (decF w.toNat).finite = true)
    (hbox : ∀ k, k < 3 → ratOf (box.getD k 0) ≤ ratOf (box.getD (k + 3) 0)) (ht : ratOf x.tmin ≤ ratOf x.tmax) :
    ∃ i, x.near box = i.map Prod.fst ∧ Proper i ∧ ∀ q, InInterval i q ↔ x.LiesIn box q := by
  have hguard : (box.isEmpty || box.any (fun w => !(decF w.toNat).finite)) = false := by
    have hne : box ≠ [] := by rintro rfl; simp at hlen
    simpa [hne] using hfin
  obtain ⟨p0, h0⟩ := slab_spec (o := ratOf (x.org.getD 0 0)) (d := ratOf (x.dir.getD 0 0)) (hbox 0 (by omega))
    (some (ratOf x.tmin, ratOf x.tmax)) (by rintro a b ⟨⟩; exact ht)
  obtain ⟨p1, h1⟩ := slab_spec (o := ratOf (x.org.getD 1 0)) (d := ratOf (x.dir.getD 1 0)) (hbox 1 (by omega)) _ p0
  obtain ⟨p2, h2⟩ := slab_spec (o := ratOf (x.org.getD 2 0)) (d := ratOf (x.dir.getD 2 0)) (hbox 2 (by omega)) _ p1
  refine ⟨_, by rw [Ray.near, hguard, if_neg Bool.false_ne_true], p2, fun q => ?_⟩
  rw [h2, h1, h0, inInterval_some, Ray.LiesIn, Nat.forall_lt_succ_right, Nat.forall_lt_succ_right, Nat.forall_lt_succ_right]
  simp [and_assoc]

/-- A ray enters a box where it first lies in it. -/
theorem near_first {x : Ray} {box : List Word} (hlen : box.length = 6) (hfin : ∀ w ∈ box, (decF w.toNat).finite = true)
    (hbox : ∀ k, k < 3 → ratOf (box.getD k 0) ≤ ratOf (box.getD (k + 3) 0)) (ht : ratOf x.tmin ≤ ratOf x.tmax) :
    (x.near box = none → ∀ q, ¬ x.LiesIn box q) ∧ ∀ d, x.near box = some d → x.LiesIn box d ∧ ∀ q, x.LiesIn box q → d ≤ q := by
  obtain ⟨i, hnear, hproper, hi⟩ := near_spec hlen hfin hbox ht
  rw [hnear]
  cases i with
  | none => simp [← hi, InInterval]
  | some p =>
    obtain ⟨a, b⟩ := p
    simp only [← hi, inInterval_some, Option.map_some, reduceCtorEq, false_implies, Option.some.injEq, true_and]
    rintro d rfl
    exact ⟨⟨le_rfl, hproper _ _ rfl⟩, fun q hq => hq.1⟩

/-! ## The test of a triangle (R380) -/

/-- A value of the test is NaN, or its determinant is zero. -/
def noTest (e1 e2 s pv qv : Vec3) (det u v t : Nat) : Bool :=
  nan3 e1 || nan3 e2 || nan3 s || nan3 pv || nan3 qv || nan3 (det, u, v) || (decF t).isNan || zeroF det

theorem noTest_iff {e1 e2 s pv qv : Vec3} {det u v t : Nat} : noTest e1 e2 s pv qv det u v t = true ↔ nan3 e1 = true ∨ nan3 e2 = true ∨
    nan3 s = true ∨ nan3 pv = true ∨ nan3 qv = true ∨ nan3 (det, u, v) = true ∨ (decF t).isNan = true ∨ det % 2 ^ 31 = 0 := by
  simp only [noTest, zeroF, Bool.or_eq_true, beq_iff_eq, or_assoc]

/-- What the values of the test come to, their signs turned with that of the determinant. -/
def hitOf (tmin tmax det u v t : Nat) (sg : Nat → Nat) : Option (Nat × Nat × Nat) :=
  if (decF (sg u)).below0 || (decF (sg v)).below0 || ((decF (sg det)).cmp ((decF (sg u)).add .rne (decF (sg v))) == some (-1)) then none
  else if (Fmt.f32.leBits tmin (Fmt.f32.divBits (sg t) (sg det)) && Fmt.f32.leBits (Fmt.f32.divBits (sg t) (sg det)) tmax) = true then
    some (Fmt.f32.divBits (sg t) (sg det), Fmt.f32.divBits (sg u) (sg det), Fmt.f32.divBits (sg v) (sg det))
  else none

section Triangle
variable {org dir v0 v1 v2 e1 e2 s pv qv : Vec3} {tmin tmax det u v t : Nat} (he1 : e1 = sub3 v1 v0) (he2 : e2 = sub3 v2 v0)
  (hs : s = sub3 org v0) (hpv : pv = cross3 dir e2) (hqv : qv = cross3 s e1) (hdet : det = dot3 e1 pv) (hu : u = dot3 s pv)
  (hv : v = dot3 dir qv) (ht : t = dot3 e2 qv)
include he1 he2 hs hpv hqv hdet hu hv ht

theorem triangleHit_eq : triangleHit org dir tmin tmax v0 v1 v2 = if noTest e1 e2 s pv qv det u v t = true then none
    else hitOf tmin tmax det u v t (fun w => if bit det 31 = true then w ^^^ 2 ^ 31 else w) := by
  subst he1 he2 hs hpv hqv hdet hu hv ht
  rfl

end Triangle

theorem hitOf_outside {tmin tmax det u v t : Nat} {sg : Nat → Nat} (h : (decF (sg u)).below0 = true ∨ (decF (sg v)).below0 = true ∨
    (decF (sg det)).cmp ((decF (sg u)).add .rne (decF (sg v))) = some (-1)) : hitOf tmin tmax det u v t sg = none :=
  if_pos (by simpa [or_assoc] using h)

theorem hitOf_inside {tmin tmax det u v t : Nat} {sg : Nat → Nat} (hu : (decF (sg u)).below0 = false) (hv : (decF (sg v)).below0 = false)
    (hd : (decF (sg det)).cmp ((decF (sg u)).add .rne (decF (sg v))) ≠ some (-1)) : hitOf tmin tmax det u v t sg =
    if (Fmt.f32.leBits tmin (Fmt.f32.divBits (sg t) (sg det)) && Fmt.f32.leBits (Fmt.f32.divBits (sg t) (sg det)) tmax) = true then
      some (Fmt.f32.divBits (sg t) (sg det), Fmt.f32.divBits (sg u) (sg det), Fmt.f32.divBits (sg v) (sg det)) else none :=
  if_neg (by simp [hu, hv, hd])

/-! ## Leaves and their primitives (R375 to R377) -/

section Leaf
variable {s s1 : State} {w : Who} {x : Ray} {box : List Word} {leaf : Nat} {f : Found} {ws : List Nat}

section Entry
variable (h : (entryM w (x.addr 1 (16 * leaf)) 2).exec s = (.ok (.ok ws), s1))
include h

theorem exec_leafM_malformed (hbad : bits (ws.getD 0 0) 39 32 = 0 ∨ 16 < bits (ws.getD 0 0) 39 32 ∨
    x.prims < ws.getD 0 0 % 2 ^ 32 + bits (ws.getD 0 0) 39 32 ∨ bits (ws.getD 0 0) 63 40 = 0xFFFFFF ∨ 512 ≤ ws.getD 1 0) :
    (leafM w x box leaf f).exec s = (.ok (f.malformed box (x.addr 1 (16 * leaf))), s1) := by
  rw [leafM, exec_bind_ok h]
  simp only [exec_ite]
  exact if_pos (by simpa [or_assoc] using hbad)

/-- A leaf that passes its checks is tested where its mask passes. -/
theorem exec_leafM_wellFormed (h1 : 1 ≤ bits (ws.getD 0 0) 39 32) (h16 : bits (ws.getD 0 0) 39 32 ≤ 16)
    (hp : ws.getD 0 0 % 2 ^ 32 + bits (ws.getD 0 0) 39 32 ≤ x.prims) (hi : bits (ws.getD 0 0) 63 40 ≠ 0xFFFFFF) (hd : ws.getD 1 0 < 512) :
    (leafM w x box leaf f).exec s = if (ws.getD 1 0 % 256) &&& bits x.state.toNat 15 8 = 0 then (.ok f, s1) else
      (leafPrimsM w x box leaf (bits (ws.getD 0 0) 63 40) (bit (ws.getD 1 0) 8 || x.state.getLsbD 0) (ws.getD 0 0 % 2 ^ 32)
        (List.range (bits (ws.getD 0 0) 39 32)) f).exec s1 := by
  rw [leafM, exec_bind_ok h]
  simp only [exec_ite]
  refine (if_neg ?_).trans rfl
  simp only [Bool.or_eq_true, decide_eq_true_eq]
  omega

end Entry

/-- A primitive that lies in its box is tested, and a hit is a candidate. -/
theorem exec_leafPrimsM_inside {inst first k : Nat} {opaq : Bool} {t : List Nat}
    (h : (entryM w (x.addr 2 (48 * (first + k))) 5).exec s = (.ok (.ok ws), s1)) (h0 : inBox box (vecAt ws 0) = true)
    (h1 : inBox box (vecAt ws 3) = true) (h2 : inBox box (vecAt ws 6) = true) :
    (leafPrimsM w x box leaf inst opaq first (k :: t) f).exec s = (leafPrimsM w x box leaf inst opaq first t
      ((triangleHit (vecWords x.org) (vecWords x.dir) x.tmin.toNat x.tmax.toNat (vecAt ws 0) (vecAt ws 3) (vecAt ws 6)).elim f
        (fun h => { f with cands := addCand f.cands ⟨BitVec.ofNat 32 h.1, inst, first + k, leaf, BitVec.ofNat 32 h.2.1,
            BitVec.ofNat 32 h.2.2, opaq⟩ }))).exec s1 := by
  rw [leafPrimsM, exec_bind_ok h]
  simp only [h0, h1, h2, Bool.and_self, Bool.true_or, if_true]
  cases triangleHit (vecWords x.org) (vecWords x.dir) x.tmin.toNat x.tmax.toNat (vecAt ws 0) (vecAt ws 3) (vecAt ws 6) <;> rfl

end Leaf

/-! ## The ray record (R378, R379) -/

theorem half_lt (ws : List Nat) (k : Nat) : half ws k < 2 ^ 32 :=
  Nat.lt_of_lt_of_le (Nat.mod_lt _ (by positivity)) (Nat.pow_le_pow_right (by decide) (by omega))

theorem toNat_half (ws : List Nat) (k : Nat) : (BitVec.ofNat 32 (half ws k)).toNat = half ws k :=
  Nat.mod_eq_of_lt (half_lt ws k)

theorem withRecord_eq_none {x : Ray} {ws : List Nat} : x.withRecord ws = none ↔ (∃ k, k < 8 ∧ (decF (half ws k)).finite = false) ∨
    (∀ k, k < 3 → half ws (4 + k) % 2 ^ 31 = 0) ∨ (decF (half ws 3)).below0 = true := by
  have hdir : (((List.range 8).map (fun k => BitVec.ofNat 32 (half ws k))).drop 4).take 3 =
      (List.range 3).map (fun k => BitVec.ofNat 32 (half ws (4 + k))) := rfl
  have htmin : ((List.range 8).map (fun k => BitVec.ofNat 32 (half ws k))).getD 3 0 = BitVec.ofNat 32 (half ws 3) := rfl
  simp only [Ray.withRecord, hdir, htmin, toNat_half, List.any_map, List.all_map, ite_eq_left_iff, reduceCtorEq, imp_false, not_not,
    Bool.or_eq_true, List.any_eq_true, List.all_eq_true, List.mem_range, Function.comp_apply, Bool.not_eq_true', zeroF, beq_iff_eq, or_assoc]

/-! ## The end of a search (R383) -/

/-- Which error ends a ray hangs on what the ray leaves open alone. -/
theorem pickErr_congr {x y : Ray} (h : x.free = y.free) (l : List RayErr) : x.pickErr l = y.pickErr l := by
  induction l with
  | nil => rfl
  | cons e t ih => rw [Ray.pickErr, Ray.pickErr, ih, h]

/-- The chain table changes HF, HO and the key of a ray, and nothing of its result. -/
theorem conclude_hint (x : Ray) (hf ho : Bool) (key : Option (BitVec 48)) :
    ({ x with hf := hf, ho := ho, key := key } : Ray).conclude = { x.conclude with hf := hf, ho := ho, key := key } := by
  have hpick := pickErr_congr (x := { x with hf := hf, ho := ho, key := key }) (y := x) rfl
  have hmeets : ({ x with hf := hf, ho := ho, key := key } : Ray).meets = x.meets := rfl
  simp only [Ray.conclude, hpick, hmeets]
  split <;> rfl

end Sys2Proof.Machine
end

section
/-!
PROOFS. Rays at an island: entry, the any-hit exchange, results and migration (R379, R382, R384 to R388), and the tokens of a ray.
-/
namespace Sys2Proof.Machine

/-! ## Tokens (R384) -/

/-- The fields of a candidate or result token. -/
theorem rayToken_fields {tok : Token} {handle : DWord} {t prim u v inst b27 utag b30 b31 : Nat} {level : BitVec 6}
    (htok : tok = rayToken handle t prim u v inst b27 utag b30 b31 level) :
    tok.val.extractLsb' 0 64 = handle ∧ lane tok.val 2 = BitVec.ofNat 32 t ∧ lane tok.val 3 = BitVec.ofNat 32 prim ∧
    lane tok.val 4 = BitVec.ofNat 32 u ∧ lane tok.val 5 = BitVec.ofNat 32 v ∧ tok.tag = mkTag 0 level.toNat := by
  have hh := handle.isLt
  subst htok
  refine ⟨BitVec.eq_of_toNat_eq ?_, BitVec.eq_of_toNat_eq ?_, BitVec.eq_of_toNat_eq ?_, BitVec.eq_of_toNat_eq ?_,
    BitVec.eq_of_toNat_eq ?_, rfl⟩
  all_goals
    simp only [toNat_lane, BitVec.extractLsb'_toNat, Nat.shiftRight_eq_div_pow, rayToken, BitVec.toNat_ofNat]
    omega

theorem resultToken_poisoned {x : Ray} (h : x.poisoned = true) : x.resultToken = ⟨0, mkTag 3 x.level.toNat⟩ := if_pos h

section Result
variable {x : Ray} (hp : x.poisoned = false) (hs : x.status < 2)
include hp hs

theorem resultToken_hit {c : Cand} (hb : x.best = some c) : x.resultToken = rayToken x.handle c.t.toNat c.prim c.u.toNat c.v.toNat c.inst
    ((if x.hf then 16 else 0) + (if x.ho then 32 else 0)) x.utag (min x.nany 255) 0 x.level := by
  simp only [Ray.resultToken, hp, if_neg (Nat.not_le.2 hs), hb, Bool.false_eq_true, if_false]

theorem resultToken_miss (hb : x.best = none) : x.resultToken = rayToken x.handle 0x7F800000 0xFFFFFFFF 0 0 0xFFFFFF
    (1 + ((if x.hf then 16 else 0) + (if x.ho then 32 else 0))) x.utag (min x.nany 255) 0 x.level := by
  simp only [Ray.resultToken, hp, if_neg (Nat.not_le.2 hs), hb, Bool.false_eq_true, if_false]

end Result

/-! ## A ray that its island has taken (R379, R388) -/

section Start
variable {s s1 : State} {x y : Ray} {dup : Bool}

theorem rayStart_waits {e : Stop} (h : (x.startM (whoIsland x.here x.ctx (.ray x.id)) dup).exec s = (.error e, s1)) :
    s.rayStart x dup = s1 := by
  rw [State.rayStart, h]

section Goes
variable (h : (x.startM (whoIsland x.here x.ctx (.ray x.id)) dup).exec s = (.ok y, s1))
include h

/-- A handle that names no record leaves nothing to write to. -/
theorem rayStart_badHandle (hs : y.status = 4) (ha : y.errAddr = x.handle) :
    s.rayStart x dup = (s1.setRay y).endReads (.ray x.id) := by
  simp only [State.rayStart, h, hs, ha, decide_true, Bool.and_self, if_true]

theorem rayStart_goesOn (hs : y.status ≠ 4) :
    s.rayStart x dup = ((s1.setRay y).endReads (.ray x.id)).writeWork (whoIsland x.here x.ctx (.ray x.id)) x.handle := by
  simp only [State.rayStart, h, hs, decide_false, Bool.false_and, Bool.false_eq_true, if_false]

end Goes
end Start

/-- A ray token is taken where the region still injects and an entry is free. -/
theorem exec_rayTake {s : State} {k : Nat} {r : Region} {t : Token} (hr : s.islandRegion 0 k = some r)
    (hh : s.linkHead (linkKey 0 k 0) = some t) (hd : isData t.tag = true) (htok : r.token = none) (hn : s.rayEntries k < 256) :
    exec (.rayTake k) s = .next (({ (s.linkTake (linkKey 0 k 0)).updIsland k (fun i => { i with taken := i.taken + 1 }) with
      nextId := s.nextId + 1, rays := s.rays ++ [newRay s k r.ctx t] } : State).rayStart (newRay s k r.ctx t)
        (s.rays.any (fun z => z.handle == (newRay s k r.ctx t).handle && z.ctx == (newRay s k r.ctx t).ctx &&
          (z.origin == k || (z.here == k && z.entered))))) := by
  rw [show exec (.rayTake k) s = execRayTake k s from rfl]
  simp only [execRayTake, hr, hh, hd, htok, if_neg (Nat.not_le.2 hn), Bool.not_true, Option.isSome_none, Bool.or_self, decide_eq_true_eq,
    Bool.false_or]
  rfl

/-! ## The any-hit exchange (R384, R385) and results (R387) -/

theorem ended_of_held {x : Ray} (hh : x.here = x.origin) (he : x.entered = true) (hst : x.st = .over ∨ (x.st = .invoke ∧ x.list = [])) :
    x.ended = true := by
  rcases hst with h | ⟨h, hl⟩
  · simp [Ray.ended, hh, he, h]
  · simp [Ray.ended, hh, he, h, hl]

section Held
variable {s : State} {id : Nat} {x : Ray} (hx : s.ray? id = some x) (hh : x.here = x.origin) (he : x.entered = true)
include hx hh he

theorem exec_candidateInvoke (hst : x.st = .invoke) {c : Cand} {rest : List Cand} (hl : x.list = c :: rest) :
    exec (.candidateInvoke x.origin id) s = .next { s.linkSend (linkKey 0 x.origin 2) (x.candToken c) with
      rays := s.rays.filter (fun z => z.id != id) ++ [{ x with st := .verdict, nany := x.nany + 1 }] } := by
  rw [show exec (.candidateInvoke x.origin id) s = execCandidateInvoke x.origin id s from rfl]
  simp only [execCandidateInvoke, hx, hl, hh, he, hst, bne_self_eq_false, Bool.not_true, Bool.or_self, Bool.false_eq_true, if_false,
    linkSend_rays]

/-- A result leaves once every stop token that waits was taken after its ray. -/
theorem exec_rayResult {r : Region} (hst : x.st = .over ∨ (x.st = .invoke ∧ x.list = [])) (hb : s.binder 0 x.origin = some r)
    (hstops : ∀ p ∈ (s.island x.origin).stops, x.order ≤ p.1) : exec (.rayResult x.origin id) s = .next
      { ((s.rayRecord r x).chainUpdate x).linkSend (linkKey 0 x.origin 0) x.resultToken with
        rays := (((s.rayRecord r x).chainUpdate x).linkSend (linkKey 0 x.origin 0) x.resultToken).rays.filter (fun y => y.id != id) } := by
  have hnone : (s.island x.origin).stops.any (fun p => decide (p.1 < x.order)) = false := by
    simpa [List.any_eq_false] using hstops
  rw [show exec (.rayResult x.origin id) s = execRayResult x.origin id s from rfl]
  simp only [execRayResult, hx, hb, ended_of_held hh he hst, hnone, bne_self_eq_false, Bool.not_true, Bool.or_self, Bool.false_eq_true,
    if_false]

end Held

section Verdict
variable {s : State} {k : Nat} {r : Region} {t : Token} (hb : s.binder 0 k = some r) (hh : s.linkHead (linkKey 0 k 2) = some t)
include hb hh

theorem exec_verdictTake_data (hd : isData t.tag = true) : exec (.verdictTake k) s = .next
    ((s.waitingRay k (fun y => y.handle == t.val.extractLsb' 0 64)).elim
      ((s.linkTake (linkKey 0 k 2)).islandError r Cause.islandFormat (t.val.extractLsb' 0 64))
      (fun x => (s.linkTake (linkKey 0 k 2)).setRay (x.verdict (t.val.getLsbD 248)))) := by
  rw [show exec (.verdictTake k) s = execVerdictTake k s from rfl]
  simp only [execVerdictTake, hb, hh, hd, if_true]
  cases s.waitingRay k (fun y => y.handle == t.val.extractLsb' 0 64) <;> rfl

theorem exec_verdictTake_stop (hs : isStop t.tag = true) : exec (.verdictTake k) s = .next
    ((s.linkTake (linkKey 0 k 2)).islandError r Cause.islandFormat 0) := by
  rw [show exec (.verdictTake k) s = execVerdictTake k s from rfl]
  simp only [execVerdictTake, hb, hh, isData_of_isStop hs, isPoison_of_isStop hs, Bool.false_eq_true, if_false]

/-- Poison that names a waiting ray ends it. -/
theorem exec_verdictTake_poison (hp : isPoison t.tag = true) {x : Ray}
    (hx : s.waitingRay k (fun y => y.handle == t.val.extractLsb' 0 64) = some x) : exec (.verdictTake k) s = .next
      ((s.linkTake (linkKey 0 k 2)).setRay { x with poisoned := true, st := .over, list := [] }) := by
  rw [show exec (.verdictTake k) s = execVerdictTake k s from rfl]
  simp only [execVerdictTake, hb, hh, isData_of_isPoison hp, hp, hx, Option.isSome_some, Bool.false_eq_true, if_false, if_true]

end Verdict

theorem verdict_cons {x : Ray} {c : Cand} {rest : List Cand} (h : x.list = c :: rest) (accept : Bool) : x.verdict accept =
    if accept = true then { x with best := some c, list := [], st := .invoke } else { x with list := rest, st := .invoke } := by
  rw [Ray.verdict, h]

/-! ## Migration (R386, R388) -/

theorem rayStep_ok {s s1 : State} {x y : Ray} {m : Mach Ray} (h : m.exec s = (.ok y, s1)) :
    s.rayStep x m = (s1.setRay y.settled).endReads (.ray x.id) := by
  rw [State.rayStep, h]

section Migration
variable {s : State} {k id : Nat} {x : Ray} (hx : s.ray? id = some x) (hst : x.st = .search)
include hx hst

/-- A ray leaves for an island that owns a partition it has still to enter, or goes on without that island's partitions. -/
theorem exec_rayMigration_leaves (hh : x.here ≠ k) (ht : x.todo.any (fun p => p.1 == k) = true) : exec (.rayMigration k id) s = .next
    (if s.takesRays k x.ctx = true then
      (s.setRay { x with here := k, entered := false }).writeWork (whoIsland k x.ctx (.ray x.id)) x.handle
    else s.rayStep x (x.absent k).passM) := by
  rw [show exec (.rayMigration k id) s = execRayMigration k id s from rfl]
  simp only [execRayMigration, hx, hst, bne_iff_ne.2 hh, ht, bne_self_eq_false, Bool.not_true, Bool.or_self, Bool.false_eq_true, if_false,
    if_true]
  split <;> rfl

/-- A ray that has left waits without an entry, and enters where one is free. -/
theorem exec_rayMigration_enters (hh : x.here = k) (he : x.entered = false) (ht : s.takesRays k x.ctx = true) :
    exec (.rayMigration k id) s = .next (if 256 ≤ s.rayEntries k then s
      else s.rayStep x (({ x with entered := true } : Ray).enterPartsM (whoIsland k x.ctx (.ray x.id)))) := by
  rw [show exec (.rayMigration k id) s = execRayMigration k id s from rfl]
  simp only [execRayMigration, hx, hst, hh, he, ht, bne_self_eq_false, Bool.not_true, decide_true, Bool.and_false, Bool.false_eq_true,
    if_false, if_true]
  split <;> rfl

/-- A ray whose record or descriptor is still being read goes on with it. -/
theorem exec_rayMigration_fresh (hh : x.here = k) (he : x.entered = true) (hsd : x.sd = []) :
    exec (.rayMigration k id) s = .next (s.rayStart x false) := by
  have hfresh : x.fresh = true := by rw [Ray.fresh, hst, hsd]; rfl
  rw [show exec (.rayMigration k id) s = execRayMigration k id s from rfl]
  simp only [execRayMigration, hx, hh, he, hfresh, bne_self_eq_false, Bool.false_eq_true, if_false, if_true]

end Migration

/-! ## The obligation -/

/-- Settles O48: the events of an island each by its conditions; the exact values and their order by the rational numbers they stand for,
candidates by insertion in the order of their keys, a box by the interval of the ray in it, axis by axis. -/
theorem raysAndMigration : Obligations.RaysAndMigration := by
  unfold Obligations.RaysAndMigration
  refine ⟨⟨?take, ?held, ?verdict, fun x c rest hl => ⟨verdict_cons hl true, verdict_cons hl false⟩, ?token⟩,
    ⟨?exact, fun a b => ⟨rfl, rfl, rfl, rfl⟩, ?triangle, fun a b ha hb => (below_iff ha hb).trans key_lt_iff, ?best, ?leaf, ?primitive, ?box,
      conclude_hint, fun x ws => withRecord_eq_none⟩, ?migration⟩
  case take =>
    rintro s k r t hr hh hd htok hn x dup w rfl rfl rfl s1 rfl
    rw [exec_rayTake hr hh hd htok hn]
    refine ⟨fun s2 hw => congrArg _ (rayStart_waits hw), ?_⟩
    rintro y s2 s3 hok rfl
    exact ⟨fun h4 ha => congrArg _ (rayStart_badHandle hok h4 ha), fun h4 => congrArg _ (rayStart_goesOn hok h4)⟩
  case held =>
    rintro s _ id x c rest hx rfl hh he
    refine ⟨fun hst hl => exec_candidateInvoke hx hh he hst hl, ?_⟩
    rintro r hst hb hstops s1 rfl
    exact exec_rayResult hx hh he hst hb hstops
  case verdict =>
    rintro s k r t hb hh s1 handle rfl rfl
    refine ⟨fun x hd hx => ?_, fun hd hx => ?_, exec_verdictTake_stop hb hh, fun x hp hx => exec_verdictTake_poison hb hh hp hx⟩
    · rw [exec_verdictTake_data hb hh hd, hx, Option.elim_some]
    · rw [exec_verdictTake_data hb hh hd, hx, Option.elim_none]
  case token =>
    refine fun x => ⟨resultToken_poisoned, fun hp hs c hb => ?_, fun hp hs hb => ?_⟩
    · obtain ⟨hhandle, ht, hprim, hu, hv, htag⟩ := rayToken_fields (resultToken_hit hp hs hb)
      rw [ht, hprim, hu, hv, BitVec.ofNat_toNat, BitVec.ofNat_toNat, BitVec.ofNat_toNat]
      exact ⟨BitVec.setWidth_eq _, BitVec.toNat_ofNat .., BitVec.setWidth_eq _, BitVec.setWidth_eq _, hhandle, htag⟩
    · obtain ⟨hhandle, ht, hprim, -⟩ := rayToken_fields (resultToken_miss hp hs hb)
      exact ⟨ht, hprim, hhandle⟩
  case exact =>
    intro a b ha hb
    obtain ⟨hm, hmul⟩ := finite_mul ha hb
    obtain ⟨hs, hadd⟩ := finite_add ha hb
    exact ⟨hm, hmul, hs, hadd⟩
  case triangle =>
    intro org dir tmin tmax v0 v1 v2 e1 e2 s pv qv det u v t he1 he2 hs hpv hqv hdet hu hv ht
    rw [triangleHit_eq he1 he2 hs hpv hqv hdet hu hv ht]
    refine ⟨fun h => if_pos (noTest_iff.2 h), ?_⟩
    intro n1 n2 n3 n4 n5 n6 n7 n8 sg hsg
    have htest : ¬ noTest e1 e2 s pv qv det u v t = true :=
      mt noTest_iff.1 (by simp only [n1, n2, n3, n4, n5, n6, n7, n8, Bool.false_eq_true, or_self, not_false_eq_true])
    rw [if_neg htest, ← hsg]
    refine ⟨hitOf_outside, ?_⟩
    rintro hu0 hv0 hc tt rfl
    exact hitOf_inside hu0 hv0 hc
  case best =>
    exact fun l hl => ⟨bestOf_eq_none_iff hl, fun b => bestOf_eq_some hl, (listOf_spec hl).1, listOf_pairwise hl⟩
  case leaf =>
    rintro s w x box leaf f ws s1 h _ _ _ _ rfl rfl rfl rfl
    refine ⟨exec_leafM_malformed h, fun h1 h16 hp hi hd => ?_⟩
    rw [exec_leafM_wellFormed h h1 h16 hp hi hd]
    exact ⟨fun hm => if_pos hm, fun hm => if_neg hm⟩
  case primitive =>
    intro s w x box leaf inst opaq first k t f ws s1 h h0 h1 h2
    rw [exec_leafPrimsM_inside h h0 h1 h2]
    cases triangleHit (vecWords x.org) (vecWords x.dir) x.tmin.toNat x.tmax.toNat (vecAt ws 0) (vecAt ws 3) (vecAt ws 6) <;> rfl
  case box =>
    rintro x box hlen hfin hbox ht _ rfl
    exact near_first hlen hfin hbox ht
  case migration =>
    intro s k id x hx hst
    refine ⟨fun hh ht => ?leaves, fun hh he ht => ?enters, fun hh he hsd => ?fresh⟩
    case leaves =>
      rw [exec_rayMigration_leaves hx hst hh ht]
      exact ⟨fun hk => by rw [if_pos hk], fun hk y s1 hy => by rw [hk, if_neg Bool.false_ne_true, rayStep_ok hy]⟩
    case enters =>
      rw [exec_rayMigration_enters hx hst hh he ht]
      exact ⟨fun hn => by rw [if_pos hn], fun hn y s1 hy => by rw [if_neg (Nat.not_le.2 hn), rayStep_ok hy]⟩
    case fresh =>
      rintro y s1 s2 w rfl hy rfl
      subst hh
      rw [exec_rayMigration_fresh hx hst rfl he hsd]
      exact ⟨fun h4 ha => congrArg _ (rayStart_badHandle hy h4 ha), fun h4 => congrArg _ (rayStart_goesOn hy h4)⟩

end Sys2Proof.Machine
end

section
/-!
PROOFS. What the fabric reads of blocks in colour-delta form (R286, R290, R413 to R415): a fast-clear block, and every byte after a write.
-/
namespace Sys2Proof.Machine

/-! ## Modes that R413 allocates -/

theorem modeOk_iff (v : Nat) : modeOk v = true ↔ v = 0 ∨ v = 1 ∨ (0x10 ≤ v ∧ v ≤ 0x17) := by
  simp only [modeOk, Bool.or_eq_true, Bool.and_eq_true, beq_iff_eq, decide_eq_true_eq, or_assoc]

/-- A delta form of an allocated width. -/
theorem modeOk_delta {n : Nat} (h : n ≤ 7) : modeOk (0x10 + n) = true := (modeOk_iff _).2 (by omega)

theorem modeOf_congr {s t : State} {a : Nat} (h : AMap.find? t.modes (blockOf a) = AMap.find? s.modes (blockOf a)) :
    t.modeOf a = s.modeOf a := by
  rw [State.modeOf, State.modeOf, AMap.getD, AMap.getD, h]

/-! ## A byte is read from its own block -/

theorem bitsAt_congr {m m' : List Host.Cell} {a p : Nat} (n : Nat)
    (h : ∀ i < 3, Mem.read m' (a + p / 8 + i) = Mem.read m (a + p / 8 + i)) : bitsAt m' a p n = bitsAt m a p n := by
  have h0 := h 0 (by decide)
  have h1 := h 1 (by decide)
  have h2 := h 2 (by decide)
  simp only [bitsAt, Mem.readList, Nat.add_assoc, Nat.add_zero, Nat.reduceAdd] at h0 h1 h2 ⊢
  rw [h0, h1, h2]

theorem decompByte_one (m : List Host.Cell) (a : Nat) : decompByte m 1 a = Mem.read m (a - a % 128 + a % 128 % 4) := rfl

/-- What an allocated mode makes of a byte rests on the bytes of its block alone: no delta lies past the line (R413). -/
theorem decompByte_congr {m m' : List Host.Cell} {mode a : Nat} (hok : modeOk mode = true)
    (h : ∀ k, k / 256 = a / 256 → Mem.read m' k = Mem.read m k) : decompByte m' mode a = decompByte m mode a := by
  have hbase : Mem.read m' (a - a % 128 + a % 128 % 4) = Mem.read m (a - a % 128 + a % 128 % 4) := h _ (by omega)
  rcases (modeOk_iff mode).1 hok with rfl | rfl | ⟨hlo, hhi⟩
  · exact h a rfl
  · rw [decompByte_one, decompByte_one, hbase]
  · have hdelta : bitsAt m' (a - a % 128 + 4) ((mode - 0x10) * (4 * (a % 128 / 4 - 1) + a % 128 % 4)) (mode - 0x10) =
        bitsAt m (a - a % 128 + 4) ((mode - 0x10) * (4 * (a % 128 / 4 - 1) + a % 128 % 4)) (mode - 0x10) := by
      have hcap : (mode - 0x10) * (4 * (a % 128 / 4 - 1) + a % 128 % 4) ≤ 7 * 123 := Nat.mul_le_mul (by omega) (by omega)
      exact bitsAt_congr _ fun i hi => h _ (by omega)
    simp only [decompByte, h a rfl, hbase, hdelta]

/-- A byte whose block keeps its bytes and its mode reads as before. -/
theorem byteAt_congr {s t : State} {a : Nat} (hok : modeOk (s.modeOf a) = true) (hmode : t.modeOf a = s.modeOf a)
    (h : ∀ k, k / 256 = a / 256 → Mem.read t.mem k = Mem.read s.mem k) : t.byteAt a = s.byteAt a := by
  rw [State.byteAt, State.byteAt, hmode, decompByte_congr hok h]

/-- What is read at a byte after bytes were written at pa, where `old` was read before. -/
def patched (pa : Nat) (bs : List Byte) (a : Nat) (old : Byte) : Byte := if pa ≤ a then (bs[a - pa]?).getD old else old

theorem patched_far {pa a : Nat} {bs : List Byte} (old : Byte) (hb : pa % 256 + bs.length ≤ 256) (ha : a / 256 ≠ pa / 256) :
    patched pa bs a old = old := by
  unfold patched
  split
  · rw [List.getElem?_eq_none (by omega), Option.getD_none]
  · rfl

/-- A write within one block leaves the memory of the others. -/
theorem read_writeList_ne {m : List Host.Cell} {pa k : Nat} {bs : List Byte} (h : Mem.wf m = true) (hb : pa % 256 + bs.length ≤ 256)
    (hk : k / 256 ≠ pa / 256) : Mem.read (Mem.writeList m pa bs) k = Mem.read m k :=
  (read_writeList bs k h).trans (patched_far _ hb hk)

theorem getElem?_decompList (s : State) {pa n i : Nat} (hi : i < n) : (s.decompList pa n)[i]? = some (s.byteAt (pa + i)) := by
  induction n generalizing pa i with
  | zero => omega
  | succ n ih =>
    cases i with
    | zero => rfl
    | succ i => rw [State.decompList, List.getElem?_cons_succ, ih (by omega), Nat.add_assoc, Nat.add_comm 1]

/-! ## A fast-clear block (R413, R414) -/

/-- The stored bytes of a line in fast-clear form. -/
def clearLine (v : Nat) : List Byte := leBytes v 4 ++ List.replicate 124 0

theorem length_clearLine (v : Nat) : (clearLine v).length = 128 := by
  rw [clearLine, List.length_append, length_leBytes, List.length_replicate]

theorem getElem?_clearLine (v : Nat) {i : Nat} (h : i < 4) : (clearLine v)[i]? = some (BitVec.ofNat 8 (v / 2 ^ (8 * i))) := by
  rw [clearLine, List.getElem?_append_left (by rwa [length_leBytes]), getElem?_leBytes v h, Nat.pow_mul]

theorem mem_fastClear (s : State) (v blk : Nat) :
    (s.fastClear v blk).mem = Mem.writeList s.mem (blk * 256) (clearLine v ++ clearLine v) := by
  rw [State.fastClear, mem_noteWrite, clearLine]

/-- Both lines of a fast-clear block begin with the value. -/
theorem read_fastClear {s : State} (h : Mem.wf s.mem = true) (v blk : Nat) {j i : Nat} (hj : j < 2) (hi : i < 4) :
    Mem.read (s.fastClear v blk).mem (blk * 256 + (128 * j + i)) = BitVec.ofNat 8 (v / 2 ^ (8 * i)) := by
  have hline : (clearLine v ++ clearLine v)[128 * j + i]? = some (BitVec.ofNat 8 (v / 2 ^ (8 * i))) := by
    obtain rfl | rfl : j = 0 ∨ j = 1 := by omega
    · rw [List.getElem?_append_left (by rw [length_clearLine]; omega), Nat.mul_zero, Nat.zero_add, getElem?_clearLine v hi]
    · rw [List.getElem?_append_right (by rw [length_clearLine]; omega), length_clearLine, Nat.mul_one, Nat.add_sub_cancel_left,
        getElem?_clearLine v hi]
  rw [mem_fastClear, read_writeList _ _ h, if_pos (Nat.le_add_right _ _), Nat.add_sub_cancel_left, hline,
    Option.getD_some]

theorem byteAt_fastClear {s : State} (h : Mem.wf s.mem = true) (v blk : Nat) {k i : Nat} (hk : k < 64) (hi : i < 4) :
    (s.fastClear v blk).byteAt (blk * 256 + 4 * k + i) = BitVec.ofNat 8 (v / 2 ^ (8 * i)) := by
  have hmode : (s.fastClear v blk).modeOf (blk * 256 + 4 * k + i) = 1 := by
    rw [State.modeOf, show blockOf (blk * 256 + 4 * k + i) = blk by unfold blockOf; omega]
    exact congrArg BitVec.toNat (getD_set_self s.modes blk 0x01 0)
  have hbase : blk * 256 + 4 * k + i - (blk * 256 + 4 * k + i) % 128 + (blk * 256 + 4 * k + i) % 128 % 4 =
      blk * 256 + (128 * (k / 32) + i) := by omega
  rw [State.byteAt, hmode, decompByte_one, hbase, read_fastClear h v blk (by omega) hi]

theorem byteAt_fastClear_ne {s : State} (h : Mem.wf s.mem = true) (v : Nat) {blk a : Nat} (ha : a / 256 ≠ blk)
    (hok : modeOk (s.modeOf a) = true) : (s.fastClear v blk).byteAt a = s.byteAt a := by
  refine byteAt_congr hok (modeOf_congr (find_set_ne _ _ (Ne.symm ha))) fun k hk => ?_
  rw [mem_fastClear, read_writeList_ne h (by simp [length_clearLine]) (by omega)]

/-! ## A block that is stored in canonical form (R414) -/

/-- The canonical form of a block is a block in an allocated mode. -/
theorem compressBlock_spec {bytes : List Byte} (hlen : bytes.length = 256) :
    (compressBlock bytes).2.length = 256 ∧ modeOk (compressBlock bytes).1 = true ∧ (compressBlock bytes).1 < 256 := by
  rw [compressBlock_eq]
  split
  · exact ⟨hlen, rfl, Nat.zero_lt_succ _⟩
  · next h8 =>
    have hn := (Nat.max_le.2 ⟨halfWidth_le (bytes.take 128), halfWidth_le (bytes.drop 128)⟩).lt_of_ne h8
    refine ⟨?_, modeOk_delta (Nat.le_of_lt_succ hn), by omega⟩
    rw [List.length_append, length_packedHalf (by simp [hlen]), length_packedHalf (by simp [hlen])]

theorem modeOf_storeBlock (s : State) {bytes : List Byte} (hlen : bytes.length = 256) (blk a : Nat) :
    (s.storeBlock blk bytes).modeOf a = if blockOf a = blk then (compressBlock bytes).1 else s.modeOf a := by
  obtain ⟨-, -, hlt⟩ := compressBlock_spec hlen
  split
  · next hblk =>
    subst hblk
    unfold State.modeOf State.storeBlock
    dsimp only
    split
    · next h0 => rw [AMap.getD, find?_erase_self, h0]; rfl
    · rw [getD_set_self, BitVec.toNat_ofNat, Nat.mod_eq_of_lt hlt]
  · next hblk =>
    refine modeOf_congr ?_
    unfold State.storeBlock
    dsimp only
    split
    · exact find_erase_ne _ (Ne.symm hblk)
    · exact find_set_ne _ _ (Ne.symm hblk)

theorem modeOk_storeBlock {s : State} (hok : ∀ a, modeOk (s.modeOf a) = true) {bytes : List Byte} (hlen : bytes.length = 256)
    (blk a : Nat) : modeOk ((s.storeBlock blk bytes).modeOf a) = true := by
  obtain ⟨-, hmode, -⟩ := compressBlock_spec hlen
  rw [modeOf_storeBlock s hlen]
  split
  · exact hmode
  · exact hok a

theorem byteAt_storeBlock_ne {s : State} (h : Mem.wf s.mem = true) {bytes : List Byte} (hlen : bytes.length = 256) {blk a : Nat}
    (ha : a / 256 ≠ blk) (hok : modeOk (s.modeOf a) = true) : (s.storeBlock blk bytes).byteAt a = s.byteAt a := by
  obtain ⟨hstored, -, -⟩ := compressBlock_spec hlen
  refine byteAt_congr hok (by rw [modeOf_storeBlock s hlen, if_neg (show ¬ blockOf a = blk from ha)]) fun k hk => ?_
  exact read_writeList_ne h (by omega) (by omega)

/-! ## A write of the fabric (R286, R290, R415) -/

theorem length_patchAt {bytes bs : List Byte} {o : Nat} (hb : o + bs.length ≤ bytes.length) :
    (patchAt bytes o bs).length = bytes.length := by
  simp only [patchAt, List.length_append, List.length_take, List.length_drop]
  omega

theorem getElem?_patchAt {bytes bs : List Byte} {o i : Nat} (hb : o + bs.length ≤ bytes.length) :
    (patchAt bytes o bs)[i]? = if o ≤ i then (bs[i - o]?).or bytes[i]? else bytes[i]? := by
  have hto : (bytes.take o).length = o := by rw [List.length_take]; omega
  rw [patchAt, List.append_assoc]
  by_cases ho : o ≤ i
  · rw [if_pos ho, List.getElem?_append_right (by omega), hto]
    by_cases hin : i - o < bs.length
    · rw [List.getElem?_append_left hin, List.getElem?_eq_getElem hin, Option.some_or]
    · have hpast : bs[i - o]? = none := List.getElem?_eq_none (by omega)
      rw [List.getElem?_append_right (by omega), List.getElem?_drop, hpast, Option.none_or,
        show o + bs.length + (i - o - bs.length) = i by omega]
  · rw [if_neg ho, List.getElem?_append_left (by omega), List.getElem?_take_of_lt (by omega)]

section Write
variable {s : State} {pa : Nat} {bs : List Byte}

theorem length_patched_block (s : State) (hb : pa % 256 + bs.length ≤ 256) :
    (patchAt (s.decompList (blockOf pa * 256) 256) (pa % 256) bs).length = 256 := by
  rw [length_patchAt (by rwa [length_decompList]), length_decompList]

/-- The three ways of a write within one block: nothing, plain bytes, or the whole block in canonical form. -/
theorem writeInBlock_cases (s : State) (pa : Nat) (bs : List Byte) (comp : Bool) :
    (bs = [] ∧ s.writeInBlock pa bs comp = s) ∨
    (s.modeOf pa = 0 ∧ s.writeInBlock pa bs comp = { s with mem := Mem.writeList s.mem pa bs }) ∨
    s.writeInBlock pa bs comp = s.storeBlock (blockOf pa) (patchAt (s.decompList (blockOf pa * 256) 256) (pa % 256) bs) := by
  unfold State.writeInBlock
  split
  · next hnil => exact .inl ⟨List.isEmpty_iff.1 hnil, rfl⟩
  · split
    · next hplain =>
      simp only [Bool.and_eq_true, decide_eq_true_eq] at hplain
      exact .inr (.inl ⟨hplain.1, rfl⟩)
    · exact .inr (.inr rfl)

theorem modeOk_writeInBlock (hok : ∀ a, modeOk (s.modeOf a) = true) (hb : pa % 256 + bs.length ≤ 256) (comp : Bool) (a : Nat) :
    modeOk ((s.writeInBlock pa bs comp).modeOf a) = true := by
  obtain ⟨-, he⟩ | ⟨-, he⟩ | he := writeInBlock_cases s pa bs comp <;> rw [he]
  · exact hok a
  · exact hok a
  · exact modeOk_storeBlock hok (length_patched_block s hb) _ a

section Bytes
variable (h : Mem.wf s.mem = true) (hok : ∀ a, modeOk (s.modeOf a) = true) (hb : pa % 256 + bs.length ≤ 256)
include h hok hb

/-- Every byte after plain bytes were written into an uncompressed block. -/
theorem byteAt_plainWrite (h0 : s.modeOf pa = 0) (a : Nat) :
    ({ s with mem := Mem.writeList s.mem pa bs } : State).byteAt a = patched pa bs a (s.byteAt a) := by
  by_cases ha : a / 256 = pa / 256
  · have hmode : s.modeOf a = 0 := by rw [← h0, State.modeOf, State.modeOf, blockOf, ha, blockOf]
    rw [State.byteAt, State.byteAt, show ({ s with mem := Mem.writeList s.mem pa bs } : State).modeOf a = s.modeOf a from rfl, hmode]
    exact read_writeList bs a h
  · rw [patched_far _ hb ha]
    exact byteAt_congr (hok a) rfl fun k hk => read_writeList_ne h hb (by omega)

/-- Every byte after a block was stored with the bytes in their place. -/
theorem byteAt_patchedBlock (a : Nat) : (s.storeBlock (blockOf pa)
    (patchAt (s.decompList (blockOf pa * 256) 256) (pa % 256) bs)).byteAt a = patched pa bs a (s.byteAt a) := by
  by_cases ha : a / 256 = pa / 256
  · have hat : a = blockOf pa * 256 + a % 256 := by unfold blockOf; omega
    have hold := length_decompList s (blockOf pa * 256) 256
    have hbyte := getElem?_decompList s (pa := blockOf pa * 256) (Nat.mod_lt a (show 256 > 0 by decide))
    rw [← hat] at hbyte
    conv_lhs => rw [hat]
    rw [byteAt_storeBlock h (length_patched_block s hb) (Nat.mod_lt a (by decide)), getElem?_patchAt (by omega), hbyte, patched]
    by_cases hle : pa ≤ a
    · rw [if_pos hle, if_pos (by omega), show a % 256 - pa % 256 = a - pa by omega]
      cases bs[a - pa]? <;> rfl
    · rw [if_neg hle, if_neg (by omega)]
      rfl
  · rw [patched_far _ hb ha]
    exact byteAt_storeBlock_ne h (length_patched_block s hb) ha (hok a)

theorem byteAt_writeInBlock_eq (comp : Bool) (a : Nat) : (s.writeInBlock pa bs comp).byteAt a = patched pa bs a (s.byteAt a) := by
  obtain ⟨rfl, he⟩ | ⟨h0, he⟩ | he := writeInBlock_cases s pa bs comp <;> rw [he]
  · simp [patched]
  · exact byteAt_plainWrite h hok hb h0 a
  · exact byteAt_patchedBlock h hok hb a

end Bytes

/-- A write that runs from one block into the next is a write within each. -/
theorem patched_split {k : Nat} (pa : Nat) (bs : List Byte) (a : Nat) (old : Byte) :
    patched (pa + k) (bs.drop k) a (patched pa (bs.take k) a old) = patched pa bs a old := by
  unfold patched
  by_cases h1 : pa ≤ a
  · by_cases h2 : pa + k ≤ a
    · have hpast : (bs.take k)[a - pa]? = none := List.getElem?_eq_none (by rw [List.length_take]; omega)
      rw [if_pos h2, if_pos h1, if_pos h1, hpast, List.getElem?_drop, Option.getD_none, show k + (a - (pa + k)) = a - pa by omega]
    · rw [if_neg h2, if_pos h1, if_pos h1, List.getElem?_take_of_lt (by omega)]
  · rw [if_neg h1, if_neg h1, if_neg (by omega)]

theorem fabWrite_spec (h : Mem.wf s.mem = true) (hok : ∀ a, modeOk (s.modeOf a) = true) (hlen : bs.length ≤ 256) (pa a : Nat) :
    modeOk ((s.fabWrite pa bs).modeOf a) = true ∧ (s.fabWrite pa bs).byteAt a = patched pa bs a (s.byteAt a) := by
  have hfirst : pa % 256 + (bs.take (256 - pa % 256)).length ≤ 256 := by rw [List.length_take]; omega
  have hsecond : (pa + (256 - pa % 256)) % 256 + (bs.drop (256 - pa % 256)).length ≤ 256 := by rw [List.length_drop]; omega
  have hwf := wf_writeInBlock pa (bs.take (256 - pa % 256)) false h
  have hok1 := modeOk_writeInBlock hok hfirst false
  refine ⟨modeOk_writeInBlock hok1 hsecond false a, ?_⟩
  rw [← patched_split (k := 256 - pa % 256), ← byteAt_writeInBlock_eq h hok hfirst false,
    ← byteAt_writeInBlock_eq hwf hok1 hsecond false]
  rfl

end Write

/-! ## The obligation -/

/-- Settles O51: each byte of a block rests on the memory of that block alone, and a block in canonical form reads as its bytes. -/
theorem compressedBlocksReadBack : Obligations.CompressedBlocksReadBack := by
  unfold Obligations.CompressedBlocksReadBack
  refine ⟨⟨modeOk_iff, fun s v blk k _ hk h i hi => byteAt_fastClear h v blk hk hi,
    fun s v blk a ha h hok => byteAt_fastClear_ne h v ha hok⟩, ?writes⟩
  case writes =>
    rintro s pa bs h hok hlen t rfl
    exact ⟨wf_fabWrite pa bs h, fun a => (fabWrite_spec h hok hlen pa a).1, fun a => (fabWrite_spec h hok hlen pa a).2⟩

end Sys2Proof.Machine
end

section
/-!
PROOFS. Blend units (R406 to R410): a fragment is forwarded or discarded, a fragment or close is held, discarded or applied by its tag's
distance from the expected one, and the new value of a pixel.
-/
namespace Sys2Proof.Machine

/-! ## Forwarding (R406) -/

theorem exec_forwardM_poison {w : Who} {slice : Nat} {t : Token} (s : State) (h : isPoison t.tag = true) :
    (forwardM w slice t).exec s = (.error (.raise Cause.poisonConsumed 0), s) := by
  simp only [forwardM, h, if_true, exec_bind, exec_raiseM]

theorem exec_forwardM_stop {w : Who} {slice : Nat} {t : Token} (s : State) (h : isStop t.tag = true) :
    (forwardM w slice t).exec s = (.error (.raise Cause.islandFormat 0), s) := by
  simp only [forwardM, isPoison_of_isStop h, isData_of_isStop h, Bool.not_false, Bool.false_eq_true, if_true, if_false, exec_bind,
    exec_raiseM]

section Forward
variable {s s1 : State} {slice : Nat} {r : Region} {t : Token} (hr : s.islandRegion 3 slice = some r)
  (hh : s.linkHead (linkKey 3 slice 0) = some t)
include hr hh

theorem exec_blendForward_taken {pa : Nat} (hf : (forwardM (whoBlend slice r.ctx) slice t).exec s = (.ok pa, s1)) :
    exec (.blendForward slice) s = .next ((s1.linkTake (linkKey 3 slice 0)).addItems [fragItem r slice t pa]) := by
  rw [show exec (.blendForward slice) s = execBlendForward slice s from rfl]
  simp only [execBlendForward, hr, hh, hf]

theorem exec_blendForward_discarded {c : Byte} {a : DWord}
    (hf : (forwardM (whoBlend slice r.ctx) slice t).exec s = (.error (.raise c a), s1)) :
    exec (.blendForward slice) s = .next ((s1.linkTake (linkKey 3 slice 0)).islandError r c a) := by
  rw [show exec (.blendForward slice) s = execBlendForward slice s from rfl]
  simp only [execBlendForward, hr, hh, hf]

end Forward

/-! ## The window of tags (R408) -/

section Item
variable {s : State} {slice id : Nat} {b : BlendItem}
  (hb : s.blendItems.find? (fun x => x.id == id && x.slice == slice) = some b)
include hb

section Fragment
variable {pa : Nat} (hp : b.pixel = some pa)
include hp

theorem exec_blendApplication_late (hd : 32768 ≤ s.tagAhead b) :
    exec (.blendApplication slice id) s = .next ((s.dropItem id).blendError b Cause.blendWindow) := by
  rw [show exec (.blendApplication slice id) s = execBlendApplication slice id s from rfl]
  simp only [execBlendApplication, hb, hp, if_pos hd]

theorem exec_blendApplication_held (h0 : 0 < s.tagAhead b) (hd : s.tagAhead b < 32768) :
    exec (.blendApplication slice id) s = .next s := by
  rw [show exec (.blendApplication slice id) s = execBlendApplication slice id s from rfl]
  simp only [execBlendApplication, hb, hp, if_neg (Nat.not_le.2 hd), bne_iff_ne.2 h0.ne', Bool.true_or, if_true]

theorem exec_blendApplication_applied (h0 : s.tagAhead b = 0) (hw : b.kill = true ∨ s.writeHeld pa 4 b.comp = false) :
    exec (.blendApplication slice id) s = .next (((s.dropItem id).applyBlend b pa).settleTag
      { ((s.dropItem id).applyBlend b pa).tileTag b.slice b.tile with
        n := (((s.dropItem id).applyBlend b pa).tileTag b.slice b.tile).n + 1 }) := by
  have hfree : (!b.kill && s.writeHeld pa 4 b.comp) = false := by rcases hw with h | h <;> simp [h]
  rw [show exec (.blendApplication slice id) s = execBlendApplication slice id s from rfl]
  simp only [execBlendApplication, hb, hp, h0, hfree, bne_self_eq_false, Bool.or_self, Bool.false_eq_true, if_false,
    if_neg (show ¬ 32768 ≤ 0 by decide)]

end Fragment

section Close
variable (hp : b.pixel = none)
include hp

theorem exec_tagClose_late (hd : 32768 ≤ s.tagAhead b) : exec (.tagClose slice id) s = .next
    (((s.dropItem id).blendError b Cause.blendWindow).tagOver b.slice b.tile b.tag.toNat) := by
  rw [show exec (.tagClose slice id) s = execTagClose slice id s from rfl]
  simp only [execTagClose, hb, hp, Option.isSome_none, Bool.false_eq_true, if_false, if_pos hd]

theorem exec_tagClose_held (h0 : 0 < s.tagAhead b) (hd : s.tagAhead b < 32768) : exec (.tagClose slice id) s = .next s := by
  rw [show exec (.tagClose slice id) s = execTagClose slice id s from rfl]
  simp only [execTagClose, hb, hp, Option.isSome_none, Bool.false_eq_true, if_false, if_neg (Nat.not_le.2 hd), bne_iff_ne.2 h0.ne',
    if_true]

theorem exec_tagClose_taken (h0 : s.tagAhead b = 0) : exec (.tagClose slice id) s = .next
    ((s.dropItem id).settleTag { s.tileTag b.slice b.tile with close := some b.count }) := by
  rw [show exec (.tagClose slice id) s = execTagClose slice id s from rfl]
  simp only [execTagClose, hb, hp, h0, Option.isSome_none, Bool.false_eq_true, if_false, bne_self_eq_false,
    if_neg (show ¬ 32768 ≤ 0 by decide)]

end Close
end Item

/-! ## Applications (R409) -/

section Apply
variable {s : State} {b : BlendItem} (pa : Nat)

theorem applyBlend_kill (hk : b.kill = true) : s.applyBlend b pa = s := if_pos hk

section Live
variable (hk : b.kill = false) (ho : opOk b.fmt b.op = true)
include hk ho

theorem applyBlend_poisoned (h0 : b.op ≠ 0) (hp : s.poisonedAt pa 4 = true) :
    s.applyBlend b pa = s.blendError b Cause.poisonConsumed := by
  simp only [State.applyBlend, hk, ho, bne_iff_ne.2 h0, hp, Bool.not_true, Bool.and_self, Bool.false_eq_true, if_false, if_true]

/-- The pixel is written unless the operation reads poison. -/
theorem applyBlend_written (h : b.op = 0 ∨ s.poisonedAt pa 4 = false) : s.applyBlend b pa =
    s.blendWrite pa b.comp (blendValue b.fmt b.op b.value.toNat (s.fabNat pa 4)) := by
  have hclean : (b.op != 0 && s.poisonedAt pa 4) = false := by rcases h with h | h <;> simp [h]
  simp only [State.applyBlend, hk, ho, hclean, Bool.not_true, Bool.false_eq_true, if_false]

end Live
end Apply

/-! ## Tag state (R407, R408) -/

/-- The state that was put for a tile is the tile's. A state at rest is not listed, and reads as itself. -/
theorem getD_find?_putTag (x : TileTag) (l : List TileTag) :
    ((putTag x l).find? (fun y => y.slice == x.slice && y.tile == x.tile)).getD ⟨x.slice, x.tile, 0, 0, none⟩ = x := by
  have hrest : (l.filter (fun y => !(y.slice == x.slice && y.tile == x.tile))).find? (fun y => y.slice == x.slice && y.tile == x.tile) =
      none := by
    rw [List.find?_eq_none]
    intro y hy
    rw [Bool.not_eq_true, ← Bool.not_eq_true']
    exact (List.mem_filter.1 hy).2
  unfold putTag
  dsimp only
  split
  · next h =>
    simp only [Bool.and_eq_true, decide_eq_true_eq, Option.isNone_iff_eq_none] at h
    obtain ⟨⟨he, hn⟩, hc⟩ := h
    rw [hrest, Option.getD_none, ← he, ← hn, ← hc]
  · rw [List.find?_append, hrest, Option.none_or, List.find?_cons_of_pos (by simp), Option.getD_some]

theorem tileTag_settleTag_over {s : State} {x : TileTag} (h : x.close = some x.n) :
    (s.settleTag x).tileTag x.slice x.tile = { x with e := x.e + 1, n := 0, close := none } := by
  rw [State.settleTag, if_pos h]
  exact getD_find?_putTag { x with e := x.e + 1, n := 0, close := none } s.tileTags

theorem tileTag_settleTag_open {s : State} {x : TileTag} (h : x.close ≠ some x.n) : (s.settleTag x).tileTag x.slice x.tile = x := by
  rw [State.settleTag, if_neg h]
  exact getD_find?_putTag x s.tileTags

/-! ## The values of R410 -/

/-- The number of a channel of a pixel. -/
def channelOf (v k : Nat) : Nat := v / 2 ^ (8 * k) % 256

theorem bits_channel (v k : Nat) : bits v (8 * k + 7) (8 * k) = channelOf v k := by
  rw [bits, show 8 * k + 7 + 1 - 8 * k = 8 by omega]
  rfl

theorem channels_eq (f : Nat → Nat → Nat) (s t : Nat) : channels f s t =
    f (channelOf s 0) (channelOf t 0) + 2 ^ 8 * f (channelOf s 1) (channelOf t 1) + 2 ^ 16 * f (channelOf s 2) (channelOf t 2) +
    2 ^ 24 * f (channelOf s 3) (channelOf t 3) := by
  simp only [channels, bits_channel, List.range, List.range.loop, List.foldl, Nat.mul_zero, Nat.pow_zero, Nat.one_mul, Nat.zero_add,
    Nat.reduceMul]

/-- Each channel of the result is that of the two pixels' channels. -/
theorem channelOf_channels {f : Nat → Nat → Nat} (hf : ∀ x y, f x y < 256) (s t : Nat) {k : Nat} (hk : k < 4) :
    channelOf (channels f s t) k = f (channelOf s k) (channelOf t k) := by
  have h0 := hf (channelOf s 0) (channelOf t 0)
  have h1 := hf (channelOf s 1) (channelOf t 1)
  have h2 := hf (channelOf s 2) (channelOf t 2)
  have h3 := hf (channelOf s 3) (channelOf t 3)
  rw [channels_eq]
  interval_cases k <;> unfold channelOf at * <;> omega

theorem min_lt_256 (n : Nat) : min 255 n < 256 := Nat.lt_succ_of_le (Nat.min_le_left 255 n)

theorem blendValue_over (s t : Nat) {k : Nat} (hk : k < 4) : channelOf (blendValue 0 1 s t) k =
    min 255 (channelOf s k + (channelOf t k * (255 - s / 2 ^ 24 % 256) + 127) / 255) :=
  channelOf_channels (f := fun a b => overlayByte a b (bits s 31 24)) (fun _ _ => min_lt_256 _) s t hk

theorem blendValue_add (s t : Nat) {k : Nat} (hk : k < 4) : channelOf (blendValue 0 2 s t) k =
    min 255 (channelOf s k + channelOf t k) :=
  channelOf_channels (f := fun a b => min 255 (a + b)) (fun _ _ => min_lt_256 _) s t hk

/-! ## The obligation -/

/-- Settles O52: the item's distance from the expected tag decides, and each channel is computed from the two pixels' channels. -/
theorem blendUnits : Obligations.BlendUnits := by
  unfold Obligations.BlendUnits
  refine ⟨⟨?forward, ?items, ?apply, fun s x => ⟨tileTag_settleTag_over, tileTag_settleTag_open⟩⟩, ?values⟩
  case forward =>
    exact fun s slice r t hr hh => ⟨fun pa s1 => exec_blendForward_taken hr hh,
      fun hp => exec_blendForward_discarded hr hh (exec_forwardM_poison s hp),
      fun hs => exec_blendForward_discarded hr hh (exec_forwardM_stop s hs)⟩
  case items =>
    rintro s slice id b hb d rfl
    refine ⟨fun pa hp => ⟨exec_blendApplication_late hb hp, exec_blendApplication_held hb hp, ?_⟩, fun hp =>
      ⟨exec_tagClose_late hb hp, exec_tagClose_held hb hp, exec_tagClose_taken hb hp⟩⟩
    rintro h0 hw s1 rfl
    exact exec_blendApplication_applied hb hp h0 hw
  case apply =>
    refine fun s b pa => ⟨applyBlend_kill pa, fun hk ho h0 => ?_, applyBlend_poisoned pa,
      fun hk ho hp => applyBlend_written pa hk ho (.inr hp)⟩
    rw [applyBlend_written pa hk ho (.inl h0), h0]
    rfl
  case values =>
    refine fun s t _ _ => ⟨fun _ => rfl, ?_, rfl, rfl, rfl⟩
    rintro k hk sc tc sa rfl rfl rfl
    exact ⟨blendValue_over s t hk, blendValue_add s t hk⟩

end Sys2Proof.Machine
end

section
/-!
PROOFS. The pixels that a triangle covers (R401): the test of a pixel's centre against three edges, and two triangles that share an edge.
-/
namespace Sys2Proof.Machine

/-! ## The test of a pixel -/

/-- The centre of a pixel, in units of 2^-149. -/
def centreOf (px py : Nat) : Int × Int := (((2 * px + 1 : Nat) : Int) * 2 ^ 148, ((2 * py + 1 : Nat) : Int) * 2 ^ 148)

/-- A point lies within an edge, or on it where the edge owns its points (R401). -/
def Inside (sg : Int) (a b c : Int × Int) : Prop :=
  0 < sg * edgeFn a b c ∨ (sg * edgeFn a b c = 0 ∧ (b.2 - a.2 < 0 ∨ (b.2 - a.2 = 0 ∧ 0 < b.1 - a.1)))

/-- The vertices i, j, k of R401 and the sign of the area. -/
def turned (p0 p1 p2 : Int × Int) : (Int × Int) × (Int × Int) × (Int × Int) × Int :=
  if 0 < edgeFn p0 p1 p2 then (p1, p2, p0, 1) else (p2, p1, p0, -1)

/-- The edges k→i, i→j, j→k. -/
def edgesOf (o : (Int × Int) × (Int × Int) × (Int × Int) × Int) : List ((Int × Int) × (Int × Int)) :=
  [(o.2.2.1, o.1), (o.1, o.2.1), (o.2.1, o.2.2.1)]

/-- The model's test of one pixel. -/
def covers (p0 p1 p2 : Int × Int) (px py : Nat) : Bool :=
  (if 0 < edgeFn p0 p1 p2 then [(p0, p1), (p1, p2), (p2, p0)] else [(p0, p2), (p2, p1), (p1, p0)]).all (fun e =>
    let s := if 0 < edgeFn p0 p1 p2 then edgeFn e.1 e.2 (centreOf px py) else -edgeFn e.1 e.2 (centreOf px py)
    decide (0 < s) || (s == 0 && ownedEdge e.1 e.2))

/-- A pixel with its weights. -/
def pixelAt (p0 p1 p2 : Int × Int) (px py : Nat) : Pixel :=
  ⟨px, py, ratioF (edgeFn p2 p0 (centreOf px py)) (edgeFn p0 p1 p2), ratioF (edgeFn p0 p1 (centreOf px py)) (edgeFn p0 p1 p2)⟩

/-- The k-th pixel of a tile, where it is covered. -/
def coverAt (p0 p1 p2 : Int × Int) (tx ty k : Nat) : Option Pixel :=
  if covers p0 p1 p2 (32 * tx + k % 32) (32 * ty + k / 32) = true then
    some (pixelAt p0 p1 p2 (32 * tx + k % 32) (32 * ty + k / 32))
  else none

theorem coverPixels_eq (p0 p1 p2 : Int × Int) (tx ty : Nat) :
    coverPixels p0 p1 p2 tx ty = if edgeFn p0 p1 p2 = 0 then [] else (List.range 1024).filterMap (coverAt p0 p1 p2 tx ty) := rfl

theorem coverAt_eq_some {p0 p1 p2 : Int × Int} {tx ty k : Nat} {q : Pixel} : coverAt p0 p1 p2 tx ty k = some q ↔
    covers p0 p1 p2 (32 * tx + k % 32) (32 * ty + k / 32) = true ∧ pixelAt p0 p1 p2 (32 * tx + k % 32) (32 * ty + k / 32) = q := by
  rw [coverAt, Option.ite_none_right_eq_some, Option.some.injEq]

theorem ownedEdge_iff {a b : Int × Int} : ownedEdge a b = true ↔ b.2 - a.2 < 0 ∨ (b.2 - a.2 = 0 ∧ 0 < b.1 - a.1) := by
  simp only [ownedEdge, Bool.or_eq_true, Bool.and_eq_true, decide_eq_true_eq, beq_iff_eq]

theorem covers_iff {p0 p1 p2 : Int × Int} {px py : Nat} : covers p0 p1 p2 px py = true ↔
    ∀ e ∈ edgesOf (turned p0 p1 p2), Inside (turned p0 p1 p2).2.2.2 e.1 e.2 (centreOf px py) := by
  unfold covers turned
  split <;> simp only [List.all_eq_true, Bool.or_eq_true, Bool.and_eq_true, decide_eq_true_eq, beq_iff_eq, ownedEdge_iff, Inside, edgesOf,
    one_mul, neg_one_mul]

/-- Which pixels a triangle covers in a tile, and with which weights. -/
theorem mem_coverPixels {p0 p1 p2 : Int × Int} {tx ty : Nat} {q : Pixel} : q ∈ coverPixels p0 p1 p2 tx ty ↔
    edgeFn p0 p1 p2 ≠ 0 ∧ q.px / 32 = tx ∧ q.py / 32 = ty ∧
    (∀ e ∈ edgesOf (turned p0 p1 p2), Inside (turned p0 p1 p2).2.2.2 e.1 e.2 (centreOf q.px q.py)) ∧
    q.u = ratioF (edgeFn p2 p0 (centreOf q.px q.py)) (edgeFn p0 p1 p2) ∧
    q.v = ratioF (edgeFn p0 p1 (centreOf q.px q.py)) (edgeFn p0 p1 p2) := by
  rw [coverPixels_eq, ← covers_iff]
  by_cases ha : edgeFn p0 p1 p2 = 0
  · simp [ha]
  rw [if_neg ha, List.mem_filterMap]
  constructor
  · rintro ⟨k, hk, hq⟩
    obtain ⟨hcov, rfl⟩ := coverAt_eq_some.1 hq
    have hk := List.mem_range.1 hk
    have hx : (32 * tx + k % 32) / 32 = tx := by omega
    have hy : (32 * ty + k / 32) / 32 = ty := by omega
    exact ⟨ha, hx, hy, hcov, rfl, rfl⟩
  · rintro ⟨-, rfl, rfl, hcov, hu, hv⟩
    have hx : 32 * (q.px / 32) + (32 * (q.py % 32) + q.px % 32) % 32 = q.px := by omega
    have hy : 32 * (q.py / 32) + (32 * (q.py % 32) + q.px % 32) / 32 = q.py := by omega
    refine ⟨32 * (q.py % 32) + q.px % 32, List.mem_range.2 (by omega), coverAt_eq_some.2 ?_⟩
    rw [hx, hy, pixelAt, ← hu, ← hv]
    exact ⟨hcov, rfl⟩

theorem nodup_coverPixels (p0 p1 p2 : Int × Int) (tx ty : Nat) : (coverPixels p0 p1 p2 tx ty).Nodup := by
  rw [coverPixels_eq]
  split
  · exact List.nodup_nil
  refine List.nodup_range.filterMap fun k m q hk hm => ?_
  obtain ⟨-, rfl⟩ := coverAt_eq_some.1 hk
  obtain ⟨-, heq⟩ := coverAt_eq_some.1 hm
  have hx := congrArg Pixel.px heq
  have hy := congrArg Pixel.py heq
  dsimp only [pixelAt] at hx hy
  omega

/-! ## Two triangles on the two sides of an edge -/

theorem edgeFn_swap (a b c : Int × Int) : edgeFn b a c = -edgeFn a b c := by unfold edgeFn; ring

theorem edgeFn_rotate (a b c : Int × Int) : edgeFn b c a = edgeFn a b c := by unfold edgeFn; ring

/-- The three edges of a triangle, seen from any point, sum to its area. -/
theorem edgeFn_sum (a b c p : Int × Int) : edgeFn a b p + edgeFn b c p + edgeFn c a p = edgeFn a b c := by unfold edgeFn; ring

theorem Inside.nonneg {sg : Int} {a b c : Int × Int} (h : Inside sg a b c) : 0 ≤ sg * edgeFn a b c := by
  rcases h with h | ⟨h, -⟩ <;> omega

/-- No point lies within an edge and within the same edge run the other way: one of the two owns its points. -/
theorem Inside.not_swap {a b c : Int × Int} (h : Inside 1 a b c) : ¬ Inside 1 b a c := by
  unfold Inside at *
  rw [edgeFn_swap a b c]
  omega

/-- Only a triangle of positive area covers anything (log entry 46), and its pixels lie within its edges as its vertices run. -/
theorem inside_of_mem_coverPixels {p0 p1 p2 : Int × Int} {tx ty : Nat} {q : Pixel} (h : q ∈ coverPixels p0 p1 p2 tx ty) :
    0 < edgeFn p0 p1 p2 ∧ Inside 1 p0 p1 (centreOf q.px q.py) ∧ Inside 1 p1 p2 (centreOf q.px q.py) ∧
    Inside 1 p2 p0 (centreOf q.px q.py) := by
  obtain ⟨ha, -, -, hin, -, -⟩ := mem_coverPixels.1 h
  simp only [edgesOf, List.forall_mem_cons, List.not_mem_nil, false_imp_iff, implies_true, and_true] at hin
  unfold turned at hin
  by_cases hpos : 0 < edgeFn p0 p1 p2
  · rw [if_pos hpos] at hin
    exact ⟨hpos, hin⟩
  · rw [if_neg hpos] at hin
    obtain ⟨h0, h1, h2⟩ := hin
    have h0 : 0 ≤ -1 * edgeFn p0 p2 (centreOf q.px q.py) := h0.nonneg
    have h1 : 0 ≤ -1 * edgeFn p2 p1 (centreOf q.px q.py) := h1.nonneg
    have h2 : 0 ≤ -1 * edgeFn p1 p0 (centreOf q.px q.py) := h2.nonneg
    have hsum := edgeFn_sum p0 p2 p1 (centreOf q.px q.py)
    rw [edgeFn_swap p2 p0 p1, edgeFn_rotate p1 p2 p0, edgeFn_rotate p0 p1 p2] at hsum
    omega

/-- However its vertices are ordered, a triangle covers only points within the edge a→b as the triangle lies to it. -/
theorem inside_edge_of_mem {a b c : Int × Int} {s : (Int × Int) × (Int × Int) × (Int × Int)} {tx ty : Nat} {q : Pixel}
    (hs : s ∈ [(a, b, c), (b, a, c), (a, c, b), (c, a, b), (b, c, a), (c, b, a)]) (h : q ∈ coverPixels s.1 s.2.1 s.2.2 tx ty) :
    (0 < edgeFn a b c ∧ Inside 1 a b (centreOf q.px q.py)) ∨ (edgeFn a b c < 0 ∧ Inside 1 b a (centreOf q.px q.py)) := by
  obtain ⟨p0, p1, p2⟩ := s
  obtain ⟨hpos, h01, h12, h20⟩ := inside_of_mem_coverPixels (p0 := p0) (p1 := p1) (p2 := p2) h
  have hbac := edgeFn_swap a b c
  have hcab := edgeFn_rotate c a b
  have hbca := edgeFn_rotate a b c
  have hacb := edgeFn_rotate b a c
  have hcba := edgeFn_rotate c b a
  simp only [List.mem_cons, List.not_mem_nil, or_false, Prod.mk.injEq] at hs
  rcases hs with ⟨rfl, rfl, rfl⟩ | ⟨rfl, rfl, rfl⟩ | ⟨rfl, rfl, rfl⟩ | ⟨rfl, rfl, rfl⟩ | ⟨rfl, rfl, rfl⟩ |
    ⟨rfl, rfl, rfl⟩
  · exact .inl ⟨hpos, h01⟩
  · exact .inr ⟨by omega, h01⟩
  · exact .inr ⟨by omega, h20⟩
  · exact .inl ⟨by omega, h12⟩
  · exact .inl ⟨by omega, h20⟩
  · exact .inr ⟨by omega, h12⟩

/-- Two triangles on the two sides of an edge cover no pixel in common. -/
theorem coverPixels_disjoint {a b c d : Int × Int} (hcd : edgeFn a b c * edgeFn a b d < 0) {tx ty : Nat} {q r : Pixel}
    {s t : (Int × Int) × (Int × Int) × (Int × Int)} (hs : s ∈ [(a, b, c), (b, a, c), (a, c, b), (c, a, b), (b, c, a), (c, b, a)])
    (ht : t ∈ [(a, b, d), (b, a, d), (a, d, b), (d, a, b), (b, d, a), (d, b, a)]) (hq : q ∈ coverPixels s.1 s.2.1 s.2.2 tx ty)
    (hr : r ∈ coverPixels t.1 t.2.1 t.2.2 tx ty) : ¬ (q.px = r.px ∧ q.py = r.py) := by
  rintro ⟨hx, hy⟩
  have h1 := inside_edge_of_mem hs hq
  rw [hx, hy] at h1
  rcases h1 with ⟨hc, h1⟩ | ⟨hc, h1⟩ <;> rcases inside_edge_of_mem ht hr with ⟨hd, h2⟩ | ⟨hd, h2⟩
  · exact absurd (Int.mul_pos hc hd) (by omega)
  · exact h1.not_swap h2
  · exact h2.not_swap h1
  · exact absurd (Int.mul_pos_of_neg_of_neg hc hd) (by omega)

end Sys2Proof.Machine
end

section
/-!
PROOFS. What a view of a primitive sends (R402, R403): the fragment token, the fragments in the order the part gives them, and the closes to
the home slices of the tile.
-/
namespace Sys2Proof.Machine

/-! ## The fragment token (R396, R402) -/

theorem fragToken_addr (x : Surface) (p : Prim) (view : Nat) (q : Pixel) : (fragToken x p view q).val.extractLsb' 0 64 =
    BitVec.ofNat 64 (x.base + 4096 * (x.tw * (q.py / 32) + q.px / 32) + pixelOff q.px q.py) := by
  have hva := (BitVec.ofNat 64 (x.base + 4096 * (x.tw * (q.py / 32) + q.px / 32) + pixelOff q.px q.py)).isLt
  apply BitVec.eq_of_toNat_eq
  rw [fragToken]
  generalize BitVec.ofNat 64 (x.base + 4096 * (x.tw * (q.py / 32) + q.px / 32) + pixelOff q.px q.py) = va at *
  simp only [BitVec.extractLsb'_toNat, Nat.shiftRight_eq_div_pow, BitVec.toNat_ofNat]
  omega

/-- The fields of a fragment token, each in its lane. -/
theorem fragToken_lanes (x : Surface) {p : Prim} {view : Nat} {q : Pixel} (hv : view < 128) (ho : p.op < 8) (hx : q.px < 65536)
    (hy : q.py < 65536) (hu : q.u < 2 ^ 32) (hw : q.v < 2 ^ 32) (hp : p.prim < 2 ^ 32) :
    (lane (fragToken x p view q).val 2).toNat = p.seq.toNat + 2 ^ 16 * view + 2 ^ 23 * p.op +
      (if x.comp = true then 2 ^ 27 else 0) + 2 ^ 28 * (x.fmt % 2) ∧
    (lane (fragToken x p view q).val 3).toNat = q.px + 2 ^ 16 * q.py ∧ (lane (fragToken x p view q).val 4).toNat = q.u ∧
    (lane (fragToken x p view q).val 5).toNat = q.v ∧ (lane (fragToken x p view q).val 6).toNat = p.prim ∧
    lane (fragToken x p view q).val 7 = 0 := by
  have hva := (BitVec.ofNat 64 (x.base + 4096 * (x.tw * (q.py / 32) + q.px / 32) + pixelOff q.px q.py)).isLt
  have hseq := p.seq.isLt
  have hzero : (0 : Word).toNat = 0 := rfl
  have hcomp : (if x.comp = true then 2 ^ 27 else 0) ≤ 2 ^ 27 := by split <;> omega
  rw [fragToken]
  generalize BitVec.ofNat 64 (x.base + 4096 * (x.tw * (q.py / 32) + q.px / 32) + pixelOff q.px q.py) = va at *
  generalize (if x.comp = true then 2 ^ 27 else 0) = comp at *
  refine ⟨?_, ?_, ?_, ?_, ?_, BitVec.eq_of_toNat_eq ?_⟩
  all_goals
    simp only [toNat_lane, BitVec.toNat_ofNat]
    omega

/-! ## Home slices of a tile (R403) -/

theorem mem_insert_iff {l : List Nat} {k a : Nat} : a ∈ NSet.insert l k ↔ a = k ∨ a ∈ l := by
  induction l with
  | nil => rw [NSet.insert, List.mem_singleton, or_iff_left List.not_mem_nil]
  | cons j l ih =>
    unfold NSet.insert
    split
    · exact List.mem_cons
    · split
      · next h => rw [h, List.mem_cons, or_self_left]
      · rw [List.mem_cons, ih, List.mem_cons, or_left_comm]

theorem mem_foldl_insert {f : Nat → Nat} {a : Nat} (is acc : List Nat) :
    a ∈ is.foldl (fun l i => NSet.insert l (f i)) acc ↔ (∃ i ∈ is, a = f i) ∨ a ∈ acc := by
  induction is generalizing acc with
  | nil => simp
  | cons i is ih => rw [List.foldl_cons, ih, mem_insert_iff, List.exists_mem_cons_iff, or_left_comm, or_assoc]

theorem mem_tileSlices (pa h : Nat) : h ∈ tileSlices pa ↔ ∃ i, i < 32 ∧ h = homeSlice (pa / 4096 * 4096 + 128 * i) := by
  rw [tileSlices, mem_foldl_insert, or_iff_left List.not_mem_nil]
  simp only [List.mem_range]

/-! ## Items and fragments on their way -/

theorem insertAt_perm {α : Type} (x : α) (n : Nat) (l : List α) : (insertAt x n l).Perm (x :: l) := by
  induction n generalizing l with
  | zero => exact .refl _
  | succ n ih =>
    cases l with
    | nil => exact .refl _
    | cons h t => exact ((ih t).cons h).trans (.swap x h t)

theorem shuffle_perm {α : Type} (n : Nat) (l : List α) : (shuffle n l).Perm l := by
  induction l generalizing n with
  | nil => exact .refl _
  | cons x t ih => exact (insertAt_perm x _ _).trans ((ih (n + 1)).cons x)

/-- An item without the number it is given on its way. -/
def BlendItem.unnumbered (b : BlendItem) : BlendItem := { b with id := 0 }

theorem blendItems_addItems (s : State) (l : List BlendItem) :
    (s.addItems l).blendItems.map BlendItem.unnumbered = s.blendItems.map BlendItem.unnumbered ++ l.map BlendItem.unnumbered := by
  have hnum : (BlendItem.unnumbered ∘ fun p : BlendItem × Nat => { p.1 with id := s.nextId + p.2 }) =
      BlendItem.unnumbered ∘ Prod.fst := rfl
  rw [State.addItems, List.map_append, List.map_map, hnum, ← List.map_map, List.zipIdx_map_fst]

/-- The closes of a view with the pixels l. -/
def closesOf (r : Region) (block : Nat) (x : Surface) (p : Prim) (pa : Nat) (l : List Pixel) : List BlendItem :=
  (tileSlices pa).map (fun h => closeItem r block x p pa h (countAt pa h l))

theorem closesOf_unnumbered (r : Region) (block : Nat) (x : Surface) (p : Prim) (pa : Nat) (l : List Pixel) :
    (closesOf r block x p pa l).map BlendItem.unnumbered = closesOf r block x p pa l := by
  rw [closesOf, List.map_map]
  rfl

theorem flatItems_unnumbered (r : Region) (block : Nat) (x : Surface) (p : Prim) (value : Word) (pa : Nat) (l : List Pixel) :
    (l.map (flatItem r block x p value pa)).map BlendItem.unnumbered = l.map (flatItem r block x p value pa) := by
  rw [List.map_map]
  rfl

theorem OnlyRecorded.links {s t : State} (h : OnlyRecorded s t) : t.links = s.links :=
  (congrArg State.links (onlyRecorded_iff.1 h) :)

theorem OnlyRecorded.blendItems {s t : State} (h : OnlyRecorded s t) : t.blendItems = s.blendItems :=
  (congrArg State.blendItems (onlyRecorded_iff.1 h) :)

theorem onlyRecorded_islandError (s : State) (r : Region) (c : Byte) (a : DWord) : OnlyRecorded s (s.islandError r c a) :=
  onlyRecorded_record s _

/-- Fragments leave on link 1 in the order that the part gives them. -/
def State.sendFragments (s : State) (block n : Nat) (l : List Token) : State :=
  { s.updLink (linkKey 1 block 1) (fun k => { k with outq := k.outq ++ shuffle s.freeNo l }) with freeNo := s.freeNo + n }

theorem outq_sendFragments (s : State) (block n : Nat) (l : List Token) : ((s.sendFragments block n l).link (linkKey 1 block 1)).outq =
    (s.link (linkKey 1 block 1)).outq ++ shuffle s.freeNo l :=
  congrArg Link.outq (link_updLink_self s (linkKey 1 block 1) (fun k => { k with outq := k.outq ++ shuffle s.freeNo l }))

theorem blendItems_sendFragments (s : State) (block n : Nat) (l : List Token) : (s.sendFragments block n l).blendItems = s.blendItems := rfl

theorem link_addItems (s : State) (l : List BlendItem) (k : Nat) : (s.addItems l).link k = s.link k := rfl

theorem links_addItems (s : State) (l : List BlendItem) : (s.addItems l).links = s.links := rfl

section View
variable (s : State) (r : Region) (block : Nat) {p : Prim} (v : Nat) (view vr : List Nat) (x : Surface) (pa : Nat)

/-- What a view does to the state: fragments or items, and the closes. -/
theorem viewSend_eq_fragments (hf : p.flat = false) : (viewSend r block p v view x pa (.ok vr)).2 s =
    (s.sendFragments block (coverage view vr p.tx p.ty).length ((coverage view vr p.tx p.ty).map (fragToken x p v))).addItems
      (closesOf r block x p pa (coverage view vr p.tx p.ty)) := by
  unfold viewSend
  dsimp only
  rw [hf, if_neg Bool.false_ne_true]
  rfl

theorem viewSend_eq_flat (hf : p.flat = true) : (viewSend r block p v view x pa (.ok vr)).2 s =
    s.addItems ((coverage view vr p.tx p.ty).map (flatItem r block x p (BitVec.ofNat 32 (half vr 12)) pa) ++
      closesOf r block x p pa (coverage view vr p.tx p.ty)) := by
  unfold viewSend
  dsimp only
  rw [hf, if_pos rfl]
  rfl

theorem viewSend_eq_malformed (c : Byte) (a : DWord) : (viewSend r block p v view x pa (.error (c, a))).2 s =
    (s.islandError r c a).addItems (closesOf r block x p pa []) := rfl

/-- FLAT = 0: the fragments leave on link 1 in some order, and the closes go to the home slices. -/
theorem viewSend_fragments (hf : p.flat = false) :
    (∃ frags, frags.Perm ((coverage view vr p.tx p.ty).map (fragToken x p v)) ∧
      (((viewSend r block p v view x pa (.ok vr)).2 s).link (linkKey 1 block 1)).outq = (s.link (linkKey 1 block 1)).outq ++ frags) ∧
    ((viewSend r block p v view x pa (.ok vr)).2 s).blendItems.map BlendItem.unnumbered =
      s.blendItems.map BlendItem.unnumbered ++ closesOf r block x p pa (coverage view vr p.tx p.ty) := by
  rw [viewSend_eq_fragments s r block v view vr x pa hf]
  refine ⟨⟨_, shuffle_perm s.freeNo _, ?_⟩, ?_⟩
  · rw [link_addItems, outq_sendFragments]
  · rw [blendItems_addItems, closesOf_unnumbered, blendItems_sendFragments]

/-- FLAT = 1: the island takes the fragments to their home slices itself. -/
theorem viewSend_flat (hf : p.flat = true) :
    ((viewSend r block p v view x pa (.ok vr)).2 s).links = s.links ∧
    ((viewSend r block p v view x pa (.ok vr)).2 s).blendItems.map BlendItem.unnumbered = s.blendItems.map BlendItem.unnumbered ++
      (coverage view vr p.tx p.ty).map (flatItem r block x p (BitVec.ofNat 32 (half vr 12)) pa) ++
      closesOf r block x p pa (coverage view vr p.tx p.ty) := by
  rw [viewSend_eq_flat s r block v view vr x pa hf]
  refine ⟨links_addItems .., ?_⟩
  rw [blendItems_addItems, List.map_append, closesOf_unnumbered, flatItems_unnumbered, List.append_assoc]

/-- A view that fails leaves a record, and closes that count nothing. -/
theorem viewSend_malformed (c : Byte) (a : DWord) :
    ((viewSend r block p v view x pa (.error (c, a))).2 s).links = s.links ∧
    ((viewSend r block p v view x pa (.error (c, a))).2 s).blendItems.map BlendItem.unnumbered =
      s.blendItems.map BlendItem.unnumbered ++ closesOf r block x p pa [] := by
  have hrec := onlyRecorded_islandError s r c a
  rw [viewSend_eq_malformed, links_addItems, hrec.links, blendItems_addItems, closesOf_unnumbered, hrec.blendItems]
  exact ⟨rfl, rfl⟩

end View

end Sys2Proof.Machine
end

section
/-!
PROOFS. The tokens and commands of a raster island (R402 to R404, R407, R411 to R414): primitives, stop tokens, VIEW, CLR, FBEG, FENCE,
MODES, DCMP and MLOAD, and the obligation.
-/
namespace Sys2Proof.Machine

/-! ## The head of link 0 (R402 to R404, R412) -/

section Head
variable {s : State} {block : Nat} {r : Region} {t : Token} (hh : s.rasterHead block = some (r, t))
include hh

theorem exec_primitiveToken {tags : List (Nat × Nat × Nat)} {act : State → State} {s1 : State} (hd : isData t.tag = true)
    (hk : kindOfTok t = 0) (hv : (viewsM (whoRaster block r.ctx) r block (primOf t)
      ((List.range 96).filter (fun v => bit (primOf t).mask v))).exec s = (.ok (tags, act), s1)) :
    exec (.primitiveToken block) s =
      .next ((((act s1).linkTake (linkKey 1 block 0)).updRaster block (addJob tags)).endReads (.island 1 block)) := by
  rw [show exec (.primitiveToken block) s = execPrimitiveToken block s from rfl]
  simp only [execPrimitiveToken, hh, hd, hk, hv, Bool.not_true, bne_self_eq_false, Bool.or_self, Bool.false_eq_true, if_false]

theorem exec_rasterStopPass_waits (hd : isData t.tag = false) (hj : (AMap.getD s.rasters block {}).jobs ≠ []) :
    exec (.rasterStopPass block) s = .next s := by
  rw [show exec (.rasterStopPass block) s = execRasterStopPass block s from rfl]
  simp only [execRasterStopPass, hh, hd, List.isEmpty_eq_false_iff.2 hj, Bool.not_false, Bool.or_true, if_true]

theorem exec_rasterStopPass_leaves (hd : isData t.tag = false) (hj : (AMap.getD s.rasters block {}).jobs = []) :
    exec (.rasterStopPass block) s = .next ((s.linkTake (linkKey 1 block 0)).linkSend (linkKey 1 block 0) (passedTok t)) := by
  rw [show exec (.rasterStopPass block) s = execRasterStopPass block s from rfl]
  simp only [execRasterStopPass, hh, hd, hj, List.isEmpty_nil, Bool.not_true, Bool.or_self, Bool.false_eq_true, if_false]

/-- A command waits until every tag before it is complete. -/
theorem rasterCmd_waits (hj : (AMap.getD s.rasters block {}).jobs ≠ []) (p : Nat → Bool) : s.rasterCmd block p = none := by
  simp only [State.rasterCmd, hh, List.isEmpty_eq_false_iff.2 hj, Bool.and_false, Bool.false_eq_true, if_false]

theorem rasterCmd_head (hd : isData t.tag = true) (hk : kindOfTok t = 1) (hj : (AMap.getD s.rasters block {}).jobs = [])
    {p : Nat → Bool} (hp : p (rasterCmdOf t) = true) : s.rasterCmd block p = some (r, t) := by
  simp only [State.rasterCmd, hh, hd, hk, hj, hp, beq_self_eq_true, List.isEmpty_nil, Bool.and_self, if_true]

theorem exec_rasterUnknownCommand (hd : isData t.tag = true) (hk : kindOfTok t = 1) (hj : (AMap.getD s.rasters block {}).jobs = [])
    (hc : rasterCmdOf t = 0 ∨ 7 < rasterCmdOf t) : exec (.rasterUnknownCommand block) s =
      .next (((s.linkTake (linkKey 1 block 0)).islandError r Cause.islandCmd 0).linkSend
        (linkKey 1 block 0) (respToken t (rasterCmdOf t) 1)) := by
  have hcmd := rasterCmd_head hh hd hk hj (p := fun c => c == 0 || decide (7 < c)) (by simpa using hc)
  rw [show exec (.rasterUnknownCommand block) s = execRasterUnknownCommand block s from rfl]
  simp only [execRasterUnknownCommand, hcmd]

end Head

/-! ## The answer to a command (R411, R412) -/

/-- The command at the head of link 0 is answered. -/
def State.rasterAnswer (s : State) (block code : Nat) (t : Token) (status : Nat) : State :=
  ((s.linkTake (linkKey 1 block 0)).linkSend (linkKey 1 block 0) (respToken t code status)).endReads (.island 1 block)

theorem rasterRun_none {s : State} {block code : Nat} (hc : s.rasterCmd block (fun c => c == code) = none)
    (m : Region → Who → DWord → DWord → Mach Bool) : rasterRun block code s m = .next s := by
  rw [rasterRun, hc]

theorem exec_command_eq_rasterRun {block : Nat} {i : Instr} (s : State) (hi : i ∈ ([.view block, .clr block, .fbeg block,
    .rasterFence block, .modes block, .dcmp block, .mload block] : List Instr)) :
    ∃ code m, exec i s = rasterRun block code s m := by
  simp only [List.mem_cons, List.not_mem_nil, or_false] at hi
  rcases hi with rfl | rfl | rfl | rfl | rfl | rfl | rfl
  · exact ⟨1, _, (rfl : execView block s = _)⟩
  · exact ⟨2, _, (rfl : execClr block s = _)⟩
  · exact ⟨3, _, (rfl : execFbeg block s = _)⟩
  · exact ⟨4, _, (rfl : execRasterFence block s = _)⟩
  · exact ⟨5, _, (rfl : execModes block s = _)⟩
  · exact ⟨6, _, (rfl : execDcmp block s = _)⟩
  · exact ⟨7, _, (rfl : execMload block s = _)⟩

section Command
variable {s s1 : State} {block code : Nat} {r : Region} {t : Token} (hc : s.rasterCmd block (fun c => c == code) = some (r, t))
include hc

theorem rasterRun_ok {m : Region → Who → DWord → DWord → Mach Bool} {good : Bool}
    (h : (m r (whoRaster block r.ctx) (t.val.extractLsb' 0 64) (t.val.extractLsb' 64 64)).exec s = (.ok good, s1)) :
    rasterRun block code s m = .next (s1.rasterAnswer block code t (if good = true then 0 else 2)) := by
  simp only [rasterRun, hc, h]
  rfl

theorem rasterRun_raises {m : Region → Who → DWord → DWord → Mach Bool} {c : Byte} {a : DWord}
    (h : (m r (whoRaster block r.ctx) (t.val.extractLsb' 0 64) (t.val.extractLsb' 64 64)).exec s = (.error (.raise c a), s1)) :
    rasterRun block code s m = .next ((s1.islandError r c a).rasterAnswer block code t 2) := by
  simp only [rasterRun, hc, h]
  rfl

end Command

/-! ## Descriptors and tiles -/

theorem exec_readSurfaceM_misaligned (w : Who) {a : DWord} (s : State) (h : a.toNat % 64 ≠ 0) :
    (readSurfaceM w a).exec s = (.error (.raise Cause.islandFormat a), s) := by
  simp only [readSurfaceM, bne_iff_ne.2 h, if_true, exec_bind, exec_raiseM]

theorem exec_modedM_misaligned (w : Who) (block : Nat) (need : Need) {a : DWord} (s : State) (h : a.toNat % 64 ≠ 0) :
    (modedM w block need a).exec s = (.error (.raise Cause.islandFormat a), s) := by
  rw [modedM, exec_bind, exec_readSurfaceM_misaligned w s h]

theorem exec_modedM {w : Who} {block : Nat} {need : Need} {a : DWord} {s s1 s2 : State} {x : Surface} {tiles : List Nat}
    (hx : (readSurfaceM w a).exec s = (.ok x, s1)) (hf : x.fmt = 0)
    (ht : (surfaceTilesM w block need x).exec s1 = (.ok tiles, s2)) : (modedM w block need a).exec s = (.ok tiles, s2) := by
  simp only [modedM, exec_bind, hx, hf, bne_self_eq_false, Bool.false_eq_true, if_false, ht]

theorem exec_hostGate {l : List Nat} {n : Nat} {s : State} (h : ∀ p ∈ l, s.hostHolds p n = false) :
    (hostGate l n).exec s = (.ok (), s) := by
  have hnone : l.any (fun pa => s.hostHolds pa n) = false := by simpa [List.any_eq_false] using h
  simp only [hostGate, exec_bind, exec_get, hnone, Bool.false_eq_true, if_false, exec_pure]

/-- Mode bytes go to memory of this package (MODES), one a block. -/
theorem exec_putBytesM {w : Who} {s0 : State} {l : List (Xlat × Nat)} (h : ∀ p ∈ l, s0.isLocal p.1.pa = true) (s : State) :
    (putBytesM w s0 l).exec s = (.ok (), l.foldl
      (fun u p => u.fabWrite (lowOf p.1.pa) [BitVec.ofNat 8 (s0.modeOf (p.2 * 256))]) s) := by
  induction l generalizing s with
  | nil => rfl
  | cons p l ih =>
    obtain ⟨hp, hl⟩ := List.forall_mem_cons.1 h
    simp only [putBytesM, hp, if_true, exec_bind, exec_modify, ih hl, List.foldl_cons]

/-! ## The commands (R412) -/

section Commands
variable {s : State} {block : Nat} {r : Region} {t : Token}

theorem exec_view (hc : s.rasterCmd block (fun c => c == 1) = some (r, t)) (ha : (t.val.extractLsb' 0 64).toNat % 128 = 0) :
    exec (.view block) s = .next ((s.updRaster block (fun x => { x with view := t.val.extractLsb' 0 64 })).rasterAnswer block 1 t 0) := by
  rw [show exec (.view block) s = execView block s from rfl]
  refine rasterRun_ok hc (good := true) ?_
  simp only [ha, bne_self_eq_false, Bool.false_eq_true, if_false, exec_bind, exec_pure, exec_modify]

theorem exec_view_misaligned (hc : s.rasterCmd block (fun c => c == 1) = some (r, t)) (ha : (t.val.extractLsb' 0 64).toNat % 128 ≠ 0) :
    exec (.view block) s =
      .next ((s.islandError r Cause.islandFormat (t.val.extractLsb' 0 64)).rasterAnswer block 1 t 2) := by
  rw [show exec (.view block) s = execView block s from rfl]
  refine rasterRun_raises hc ?_
  simp only [bne_iff_ne.2 ha, if_true, exec_bind, exec_raiseM]

/-- The commands that read a descriptor answer STATUS 2 where A is not aligned. -/
theorem exec_surfaceCommand_misaligned {code : Nat} {i : Instr} (hi : (code, i) ∈
      [(2, Instr.clr block), (3, Instr.fbeg block), (5, Instr.modes block), (6, Instr.dcmp block), (7, Instr.mload block)])
    (hc : s.rasterCmd block (fun c => c == code) = some (r, t)) (ha : (t.val.extractLsb' 0 64).toNat % 64 ≠ 0) :
    exec i s = .next ((s.islandError r Cause.islandFormat (t.val.extractLsb' 0 64)).rasterAnswer block code t 2) := by
  have hread := exec_readSurfaceM_misaligned (whoRaster block r.ctx) s ha
  have hmoded := fun need => exec_modedM_misaligned (whoRaster block r.ctx) block need s ha
  simp only [List.mem_cons, List.not_mem_nil, or_false, Prod.mk.injEq] at hi
  rcases hi with ⟨rfl, rfl⟩ | ⟨rfl, rfl⟩ | ⟨rfl, rfl⟩ | ⟨rfl, rfl⟩ | ⟨rfl, rfl⟩
  · exact (show execClr block s = _ from rasterRun_raises hc (exec_bind_error hread _))
  · exact (show execFbeg block s = _ from rasterRun_raises hc (exec_bind_error hread _))
  · exact (show execModes block s = _ from rasterRun_raises hc (exec_bind_error (hmoded .load) _))
  · exact (show execDcmp block s = _ from rasterRun_raises hc (exec_bind_error (hmoded .store) _))
  · exact (show execMload block s = _ from rasterRun_raises hc (exec_bind_error (hmoded .store) _))

section Surface
variable {s1 s2 : State} {x : Surface} {tiles : List Nat}
  (hx : (readSurfaceM (whoRaster block r.ctx) (t.val.extractLsb' 0 64)).exec s = (.ok x, s1))
include hx

theorem exec_clr (hc : s.rasterCmd block (fun c => c == 2) = some (r, t))
    (ht : (surfaceTilesM (whoRaster block r.ctx) block .store x).exec s1 = (.ok tiles, s2))
    (hh : ∀ p ∈ tiles, s2.hostHolds p 4096 = false) : exec (.clr block) s = .next
      (((tiles.flatMap tileBlocks).foldl (fun u k => if x.comp = true then u.fastClear ((t.val.extractLsb' 64 64).toNat % 2 ^ 32) k
        else u.fillBlock ((t.val.extractLsb' 64 64).toNat % 2 ^ 32) k) (s2.resetTiles tiles)).rasterAnswer block 2 t 0) := by
  rw [show exec (.clr block) s = execClr block s from rfl]
  refine rasterRun_ok hc (good := true) ?_
  simp only [exec_bind, hx, ht, exec_hostGate hh, exec_modify, exec_pure]

theorem exec_fbeg (hc : s.rasterCmd block (fun c => c == 3) = some (r, t))
    (ht : (surfaceTilesM (whoRaster block r.ctx) block .load x).exec s1 = (.ok tiles, s2)) :
    exec (.fbeg block) s = .next ((s2.resetTiles tiles).rasterAnswer block 3 t 0) := by
  rw [show exec (.fbeg block) s = execFbeg block s from rfl]
  refine rasterRun_ok hc (good := true) ?_
  simp only [exec_bind, hx, ht, exec_modify, exec_pure]

section Moded
variable (hf : x.fmt = 0)
include hf

theorem exec_dcmp (hc : s.rasterCmd block (fun c => c == 6) = some (r, t))
    (ht : (surfaceTilesM (whoRaster block r.ctx) block .store x).exec s1 = (.ok tiles, s2))
    (hh : ∀ p ∈ tiles, s2.hostHolds p 4096 = false) :
    exec (.dcmp block) s = .next (((tiles.flatMap tileBlocks).foldl State.dcmpBlock s2).rasterAnswer block 6 t 0) := by
  rw [show exec (.dcmp block) s = execDcmp block s from rfl]
  refine rasterRun_ok hc (good := true) ?_
  simp only [exec_bind, exec_modedM hx hf ht, exec_hostGate hh, exec_modify, exec_pure]

theorem exec_modes (hc : s.rasterCmd block (fun c => c == 5) = some (r, t))
    (ht : (surfaceTilesM (whoRaster block r.ctx) block .load x).exec s1 = (.ok tiles, s2)) {xs : List Xlat} {s3 : State}
    (hb : (bytesM (whoRaster block r.ctx) .store (t.val.extractLsb' 64 64) (tiles.flatMap tileBlocks).length).exec s2 = (.ok xs, s3))
    (hw : ∀ y ∈ xs, s3.isLocal y.pa = true ∧ s3.writeHeld (lowOf y.pa) 1 false = false) :
    exec (.modes block) s = .next (((xs.zip (tiles.flatMap tileBlocks)).foldl
      (fun u p => u.fabWrite (lowOf p.1.pa) [BitVec.ofNat 8 (s3.modeOf (p.2 * 256))]) s3).rasterAnswer block 5 t 0) := by
  have hfree : xs.any (fun y => y.mt = 0 && s3.isLocal y.pa && s3.writeHeld (lowOf y.pa) 1 false) = false := by
    rw [List.any_eq_false]
    intro y hy
    rw [(hw y hy).2, Bool.and_false]
    exact Bool.false_ne_true
  have hlocal : ∀ p ∈ xs.zip (tiles.flatMap tileBlocks), s3.isLocal p.1.pa = true := fun p hp => (hw _ (List.of_mem_zip hp).1).1
  rw [show exec (.modes block) s = execModes block s from rfl]
  refine rasterRun_ok hc (good := true) ?_
  simp only [exec_bind, exec_modedM hx hf ht, hb, exec_get, hfree, Bool.false_eq_true, if_false, exec_putBytesM hlocal, exec_pure]

theorem exec_mload (hc : s.rasterCmd block (fun c => c == 7) = some (r, t))
    (ht : (surfaceTilesM (whoRaster block r.ctx) block .store x).exec s1 = (.ok tiles, s2)) {s3 s4 : State} {good : Bool}
    (hp : (probeM (whoRaster block r.ctx) (t.val.extractLsb' 64 64) (tiles.flatMap tileBlocks).length).exec s2 = (.ok (), s3))
    (hl : (loadModesM (whoRaster block r.ctx) r (t.val.extractLsb' 64 64) (tiles.flatMap tileBlocks).zipIdx).exec s3 =
      (.ok good, s4)) : exec (.mload block) s = .next (s4.rasterAnswer block 7 t (if good = true then 0 else 2)) := by
  rw [show exec (.mload block) s = execMload block s from rfl]
  refine rasterRun_ok hc ?_
  simp only [exec_bind, exec_modedM hx hf ht, hp, hl]

end Moded
end Surface

/-! ## FENCE -/

section Fence
variable (hc : s.rasterCmd block (fun c => c == 4) = some (r, t))
include hc

theorem exec_rasterFence_zero (ha : t.val.extractLsb' 0 64 = 0) :
    exec (.rasterFence block) s = .next (s.rasterAnswer block 4 t 0) := by
  rw [show exec (.rasterFence block) s = execRasterFence block s from rfl]
  refine rasterRun_ok hc (good := true) ?_
  simp only [ha, bne_self_eq_false, Bool.false_eq_true, if_false, exec_pure]

variable (ha : t.val.extractLsb' 0 64 ≠ 0) {s1 : State}
include ha

theorem exec_rasterFence_arrives {pa : Nat}
    (hm : (tbarMarked (whoRaster block r.ctx) .atomic (t.val.extractLsb' 0 64)).exec s = (.ok pa, s1))
    (hb : (s1.tbarAt pa).badArrival 1 0 = false) :
    exec (.rasterFence block) s = .next ((s1.tbarArrive pa 1 0).rasterAnswer block 4 t 0) := by
  rw [show exec (.rasterFence block) s = execRasterFence block s from rfl]
  refine rasterRun_ok hc (good := true) ?_
  simp only [bne_iff_ne.2 ha, if_true, exec_bind, hm, exec_get, hb, Bool.false_eq_true, if_false, exec_set, exec_pure]

theorem exec_rasterFence_raises {c : Byte} {d : DWord}
    (hm : (tbarMarked (whoRaster block r.ctx) .atomic (t.val.extractLsb' 0 64)).exec s = (.error (.raise c d), s1)) :
    exec (.rasterFence block) s = .next ((s1.islandError r c d).rasterAnswer block 4 t 2) := by
  rw [show exec (.rasterFence block) s = execRasterFence block s from rfl]
  refine rasterRun_raises hc ?_
  simp only [bne_iff_ne.2 ha, if_true, exec_bind, hm]

end Fence
end Commands

/-! ## The obligation -/

/-- Settles O50: a pixel is covered as its centre lies within the three edges, each view sends its pixels and closes, and each command does
what its row of R412 says once its reads are answered. -/
theorem rasterCommands : Obligations.RasterCommands := by
  unfold Obligations.RasterCommands
  refine ⟨⟨?head, ?operands⟩, ⟨?pixels, ?shared, ?token, mem_tileSlices, ?sends⟩, ?commands⟩
  case head =>
    rintro s block r t hh x rfl
    refine ⟨fun hd hk tags act s1 => exec_primitiveToken hh hd hk,
      fun hd => ⟨exec_rasterStopPass_waits hh hd, exec_rasterStopPass_leaves hh hd⟩, exec_rasterUnknownCommand hh, ?_⟩
    intro _ _ hj i hi
    obtain ⟨code, m, hrun⟩ := exec_command_eq_rasterRun s hi
    rw [hrun, rasterRun_none (rasterCmd_waits hh hj _)]
  case operands =>
    rintro s block code r t hc a rfl ans rfl
    refine ⟨?_, ?_, fun i hi => exec_surfaceCommand_misaligned hi hc⟩
    · rintro rfl
      exact exec_view hc
    · rintro rfl
      exact exec_view_misaligned hc
  case pixels =>
    refine fun p0 p1 p2 tx ty => ⟨nodup_coverPixels p0 p1 p2 tx ty, fun q => mem_coverPixels.trans ⟨?_, ?_⟩⟩
    · rintro ⟨ha, hx, hy, hin, hu, hv⟩
      refine ⟨_, (turned p0 p1 p2).1, (turned p0 p1 p2).2.1, (turned p0 p1 p2).2.2.1, (turned p0 p1 p2).2.2.2, rfl, ha, hx, hy, rfl, ?_⟩
      rintro c rfl
      exact ⟨hin, hu, hv⟩
    · rintro ⟨a, i, j, k, sg, rfl, ha, hx, hy, ho, h⟩
      obtain ⟨hin, hu, hv⟩ := h _ rfl
      have ho : turned p0 p1 p2 = (i, j, k, sg) := ho.symm
      exact ⟨ha, hx, hy, by rw [ho]; exact hin, hu, hv⟩
  case shared =>
    exact fun a b c d hcd tx ty q r s hs t ht => coverPixels_disjoint hcd hs ht
  case token =>
    rintro x p view q hv ho hx hy hu hw hp t rfl
    exact ⟨rfl, (fragToken_addr x p view q).trans (by rw [pixelOff, Nat.add_assoc _ (256 * _)]), fragToken_lanes x hv ho hx hy hu hw hp⟩
  case sends =>
    rintro s r block p v view x pa vr l rfl plain rfl closes rfl
    refine ⟨fun hf t ht => ?_, fun hf t ht => ?_, fun c a t ht => ?_⟩ <;> subst ht
    · exact viewSend_fragments s r block v view vr x pa hf
    · exact viewSend_flat s r block v view vr x pa hf
    · exact viewSend_malformed s r block v view x pa c a
  case commands =>
    rintro s block code r t hc w a b rfl rfl rfl ans rfl
    refine ⟨fun x s1 tiles s2 hx => ⟨?clr, ?fbeg, ?dcmp, ?modes, ?mload⟩, ?zero, ?arrives, ?raises⟩
    case clr => rintro rfl; exact exec_clr hx hc
    case fbeg => rintro rfl; exact exec_fbeg hx hc
    case dcmp => rintro rfl hf; exact exec_dcmp hx hf hc
    case modes => rintro rfl hf ht xs s3; exact exec_modes hx hf hc ht
    case mload => rintro rfl hf ht s3 good s4; exact exec_mload hx hf hc ht
    case zero => rintro rfl; exact exec_rasterFence_zero hc
    case arrives => rintro rfl ha pa s1; exact exec_rasterFence_arrives hc ha
    case raises => rintro rfl ha c d s1; exact exec_rasterFence_raises hc ha

end Sys2Proof.Machine
end

section
/-!
PROOFS. Facts that an evaluation of the model gives: the words that the spec's encoding tables print (R94 to R102, R161, R162), and the
state after reset (R76, R156, R452).
-/
namespace Sys2Proof.Machine

/-- Settles O57: each word is a closed one, and its decoder evaluates to the instruction. -/
theorem decodeSpecWords : Obligations.DecodeSpecWords := by
  unfold Obligations.DecodeSpecWords
  decide

/-- After reset only the Sceip core is listed, and every core is in ctx 0. -/
theorem coreCtx_reset (c : Nat) : State.reset.coreCtx c = 0 := by
  unfold State.coreCtx
  split
  · rfl
  · next h =>
    have hcore : State.reset.core c = {} := getD_set_ne [] CoreSt.sceipReset {} (Ne.symm h)
    rw [hcore]
    rfl

/-- Settles O60: the registers by their values, and each table by what an empty one reads as. -/
theorem resetStateAsStated : Obligations.ResetStateAsStated := by
  unfold Obligations.ResetStateAsStated
  refine ⟨wf_reset, rfl, rfl, rfl, rfl, rfl, rfl, rfl, rfl, rfl, rfl, rfl, rfl, ?fqaddr, ?mask, ?sector, ?mode, ?tag,
    rfl, rfl, rfl, rfl, rfl, coreCtx_reset⟩
  case fqaddr => exact fun n => rfl
  case mask => exact fun p => rfl
  case sector => exact fun n => ⟨rfl, rfl, rfl⟩
  case mode => exact fun a => rfl
  case tag => exact fun slice tile => rfl

end Sys2Proof.Machine
end

section
/-!
PROOFS. The items that two rising fibres give (R421, R424), as the walk of their coordinates yields them.
-/
namespace Sys2Proof.Machine

/-! ## The walk of two fibres -/

/-- A fibre whose coordinates rise. -/
abbrev Rising (l : List (Nat × Nat)) : Prop := l.Pairwise (fun p q => p.1 < q.1)

/-- How a list of items comes of two rising fibres: each step takes the lowest coordinate that is left. One that only one fibre holds
gives an item of a UNION, and none of an ISECT (R424). -/
inductive Merged (both : Bool) : List (Nat × Nat) → List (Nat × Nat) → List Item → Prop
  | nil : Merged both [] [] []
  | pair {a b ta tb l} (h : a.1 = b.1) (ha : ∀ p ∈ ta, a.1 < p.1) (hb : ∀ p ∈ tb, b.1 < p.1) (hl : Merged both ta tb l) :
      Merged both (a :: ta) (b :: tb) ((a.1, a.2, b.2) :: l)
  | left {a ta fb l} (ha : ∀ p ∈ ta, a.1 < p.1) (hb : ∀ p ∈ fb, a.1 < p.1) (hl : Merged both ta fb l) :
      Merged both (a :: ta) fb (if both = true then (a.1, a.2, 0) :: l else l)
  | right {b fa tb l} (ha : ∀ p ∈ fa, b.1 < p.1) (hb : ∀ p ∈ tb, b.1 < p.1) (hl : Merged both fa tb l) :
      Merged both fa (b :: tb) (if both = true then (b.1, 0, b.2) :: l else l)

theorem below_cons {a b : Nat × Nat} {l : List (Nat × Nat)} (h : a.1 < b.1) (hl : ∀ p ∈ l, b.1 < p.1) : ∀ p ∈ b :: l, a.1 < p.1 :=
  List.forall_mem_cons.2 ⟨h, fun p hp => h.trans (hl p hp)⟩

theorem not_mem_of_below {k v : Nat} {l : List (Nat × Nat)} (h : ∀ p ∈ l, k < p.1) : (k, v) ∉ l := fun hm => Nat.lt_irrefl _ (h (_, v) hm)

theorem mergeFibres_isect_nil_right (n : Nat) (t : List (Nat × Nat)) : mergeFibres false n t [] = [] := by
  cases n <;> cases t <;> rfl

theorem mergeFibres_isect_nil_left (n : Nat) (t : List (Nat × Nat)) : mergeFibres false n [] t = [] := by
  cases n <;> cases t <;> rfl

theorem mergeFibres_left (both : Bool) (n : Nat) (a : Nat × Nat) (t : List (Nat × Nat)) : mergeFibres both (n + 1) (a :: t) [] =
    if both = true then (a.1, a.2, 0) :: mergeFibres both n t [] else mergeFibres both n t [] := by
  cases both with
  | true => rfl
  | false => exact (mergeFibres_isect_nil_right n t).symm

theorem mergeFibres_right (both : Bool) (n : Nat) (b : Nat × Nat) (t : List (Nat × Nat)) : mergeFibres both (n + 1) [] (b :: t) =
    if both = true then (b.1, 0, b.2) :: mergeFibres both n [] t else mergeFibres both n [] t := by
  cases both with
  | true => rfl
  | false => exact (mergeFibres_isect_nil_left n t).symm

/-- The walk of two rising fibres takes their coordinates in order. -/
theorem merged_mergeFibres {both : Bool} {n : Nat} {fa fb : List (Nat × Nat)} (ha : Rising fa) (hb : Rising fb)
    (hn : fa.length + fb.length ≤ n) : Merged both fa fb (mergeFibres both n fa fb) := by
  induction n generalizing fa fb with
  | zero =>
    obtain ⟨rfl, rfl⟩ : fa = [] ∧ fb = [] := by simpa using hn
    exact .nil
  | succ n ih =>
    match fa, fb with
    | [], [] => exact .nil
    | a :: ta, [] =>
      obtain ⟨hla, hta⟩ := List.pairwise_cons.1 ha
      rw [mergeFibres_left]
      exact .left hla (List.forall_mem_nil _) (ih hta hb (Nat.le_of_succ_le_succ hn))
    | [], b :: tb =>
      obtain ⟨hlb, htb⟩ := List.pairwise_cons.1 hb
      rw [mergeFibres_right]
      exact .right (List.forall_mem_nil _) hlb (ih ha htb (Nat.le_of_succ_le_succ hn))
    | a :: ta, b :: tb =>
      obtain ⟨hla, hta⟩ := List.pairwise_cons.1 ha
      obtain ⟨hlb, htb⟩ := List.pairwise_cons.1 hb
      simp only [List.length_cons] at hn
      rw [mergeFibres]
      split
      · next h => exact .pair h hla hlb (ih hta htb (by omega))
      · next hne =>
        split
        · next hlt => exact .left hla (below_cons hlt hlb) (ih hta hb (by simp only [List.length_cons]; omega))
        · next hge => exact .right (below_cons (by omega) hla) hlb (ih ha htb (by simp only [List.length_cons]; omega))

/-- What a merge is to hold (R424): what both fibres hold, and of a UNION what one of them holds, with +0 beside it. -/
def MergeItem (both : Bool) (fa fb : List (Nat × Nat)) (c x y : Nat) : Prop := ((c, x) ∈ fa ∧ (c, y) ∈ fb) ∨
  (both = true ∧ (((c, x) ∈ fa ∧ y = 0 ∧ ∀ v, (c, v) ∉ fb) ∨ ((c, y) ∈ fb ∧ x = 0 ∧ ∀ v, (c, v) ∉ fa)))

namespace MergeItem
variable {both : Bool} {a b : Nat × Nat} {ta tb fa fb : List (Nat × Nat)} {c x y : Nat}

theorem cons_cons (h : a.1 = b.1) (ha : ∀ p ∈ ta, a.1 < p.1) (hb : ∀ p ∈ tb, b.1 < p.1) :
    MergeItem both (a :: ta) (b :: tb) c x y ↔ (c, x, y) = (a.1, a.2, b.2) ∨ MergeItem both ta tb c x y := by
  obtain ⟨k, v⟩ := a
  obtain ⟨k', w⟩ := b
  obtain rfl : k = k' := h
  by_cases hc : c = k
  · subst hc
    simp [MergeItem, not_mem_of_below ha, not_mem_of_below hb]
  · simp [MergeItem, hc]

theorem comm : MergeItem both fa fb c x y ↔ MergeItem both fb fa c y x := by
  simp only [MergeItem, and_comm, or_comm]

theorem cons_left (ha : ∀ p ∈ ta, a.1 < p.1) (hb : ∀ p ∈ fb, a.1 < p.1) :
    MergeItem both (a :: ta) fb c x y ↔ (both = true ∧ (c, x, y) = (a.1, a.2, 0)) ∨ MergeItem both ta fb c x y := by
  obtain ⟨k, v⟩ := a
  by_cases hc : c = k
  · subst hc
    simp [MergeItem, not_mem_of_below ha, not_mem_of_below hb]
  · simp [MergeItem, hc]

theorem cons_right (ha : ∀ p ∈ fa, b.1 < p.1) (hb : ∀ p ∈ tb, b.1 < p.1) :
    MergeItem both fa (b :: tb) c x y ↔ (both = true ∧ (c, x, y) = (b.1, 0, b.2)) ∨ MergeItem both fa tb c x y := by
  rw [comm, cons_left hb ha, comm]
  simp only [Prod.mk.injEq, and_comm]

end MergeItem

namespace Merged
variable {both : Bool} {fa fb : List (Nat × Nat)} {l : List Item} {k c x y : Nat}

/-- Its items stand at coordinates of the fibres: above what is below both. -/
theorem coord_lt (h : Merged both fa fb l) (ha : ∀ p ∈ fa, k < p.1) (hb : ∀ p ∈ fb, k < p.1) : ∀ i ∈ l, k < i.1 := by
  induction h with
  | nil => exact List.forall_mem_nil _
  | pair _ _ _ _ ih =>
    obtain ⟨hka, hta⟩ := List.forall_mem_cons.1 ha
    exact List.forall_mem_cons.2 ⟨hka, ih hta (List.forall_mem_cons.1 hb).2⟩
  | left _ _ _ ih =>
    obtain ⟨hka, hta⟩ := List.forall_mem_cons.1 ha
    split
    · exact List.forall_mem_cons.2 ⟨hka, ih hta hb⟩
    · exact ih hta hb
  | right _ _ _ ih =>
    obtain ⟨hkb, htb⟩ := List.forall_mem_cons.1 hb
    split
    · exact List.forall_mem_cons.2 ⟨hkb, ih ha htb⟩
    · exact ih ha htb

theorem pairwise (h : Merged both fa fb l) : l.Pairwise (fun i j => i.1 < j.1) := by
  induction h with
  | nil => exact .nil
  | pair h ha hb hl ih => exact List.pairwise_cons.2 ⟨hl.coord_lt ha (h ▸ hb), ih⟩
  | left ha hb hl ih =>
    split
    · exact List.pairwise_cons.2 ⟨hl.coord_lt ha hb, ih⟩
    · exact ih
  | right ha hb hl ih =>
    split
    · exact List.pairwise_cons.2 ⟨hl.coord_lt ha hb, ih⟩
    · exact ih

theorem mem_iff (h : Merged both fa fb l) : (c, x, y) ∈ l ↔ MergeItem both fa fb c x y := by
  induction h with
  | nil => simp [MergeItem]
  | pair h ha hb _ ih => rw [MergeItem.cons_cons h ha hb, List.mem_cons, ih]
  | left ha hb _ ih =>
    rw [MergeItem.cons_left ha hb]
    split
    · next h => rw [List.mem_cons, ih, and_iff_right h]
    · next h => rw [ih, iff_false_intro (not_and_of_not_left _ h), false_or]
  | right ha hb _ ih =>
    rw [MergeItem.cons_right ha hb]
    split
    · next h => rw [List.mem_cons, ih, and_iff_right h]
    · next h => rw [ih, iff_false_intro (not_and_of_not_left _ h), false_or]

end Merged

/-! ## The obligation -/

/-- Settles O45: the walk takes the coordinates of both fibres in order, and each step keeps the items that the rest is to hold. -/
theorem mergedFibresHoldTheirItems : Obligations.MergedFibresHoldTheirItems := by
  unfold Obligations.MergedFibresHoldTheirItems
  intro fa fb ha hb n hn
  have hmerge (both : Bool) : Merged both fa fb (mergeFibres both n fa fb) := merged_mergeFibres ha hb (Nat.le_of_eq hn.symm)
  refine ⟨fun c x y => ?_, fun c x y => ?_, fun both => (hmerge both).pairwise⟩
  · rw [(hmerge false).mem_iff, MergeItem, iff_false_intro (not_and_of_not_left _ Bool.false_ne_true), or_false]
  · rw [(hmerge true).mem_iff, MergeItem, and_iff_right rfl]

end Sys2Proof.Machine
end

section
/-!
PROOFS. The sparse accumulator tile (R429): what its pairs make of its entries, and the tokens that a flush sends.
-/
namespace Sys2Proof.Machine

/-! ## Lanes of a token (R76) -/

theorem ofLanes_cons (x : Word) (l : List Word) : ofLanes (x :: l) = (ofLanes l <<< 32) ||| x.zeroExtend 256 := by
  rw [ofLanes, List.reverse_cons, List.foldl_append, ← ofLanes, List.foldl_cons, List.foldl_nil]

theorem lane_push_zero (v : Wide) (x : Word) : lane ((v <<< 32) ||| x.zeroExtend 256) 0 = x := by
  apply BitVec.eq_of_getLsbD_eq
  intro i hi
  have hin : i < 256 := by omega
  simp [lane, hi, hin]

theorem lane_push_succ (v : Wide) (x : Word) {j : Nat} (hj : j + 1 < 8) : lane ((v <<< 32) ||| x.zeroExtend 256) (j + 1) = lane v j := by
  apply BitVec.eq_of_getLsbD_eq
  intro i hi
  have hlow : ¬ 32 * (j + 1) + i < 32 := by omega
  have hin : 32 * (j + 1) + i < 256 := by omega
  have hsub : 32 * (j + 1) + i - 32 = 32 * j + i := by omega
  have hx : x.getLsbD (32 * (j + 1) + i) = false := BitVec.getLsbD_of_ge _ _ (by omega)
  simp only [lane, BitVec.getLsbD_extractLsb', hi, decide_true, Bool.true_and, BitVec.getLsbD_or, BitVec.getLsbD_shiftLeft, hin, hlow,
    decide_false, Bool.not_false, hsub, BitVec.truncate_eq_setWidth, BitVec.getLsbD_setWidth, hx, Bool.and_false, Bool.or_false]

/-- A wide value reads back the lanes it was made of. -/
theorem lane_ofLanes (l : List Word) {j : Nat} (hj : j < 8) : lane (ofLanes l) j = l.getD j 0 := by
  induction l generalizing j with
  | nil =>
    apply BitVec.eq_of_getLsbD_eq
    intro i hi
    simp [lane, ofLanes]
  | cons x l ih =>
    rw [ofLanes_cons]
    cases j with
    | zero => exact lane_push_zero ..
    | succ j => rw [lane_push_succ _ _ hj, ih (by omega), List.getD_cons_succ]

/-! ## The state of the tile -/

@[simp] theorem isect_updIsect_self (s : State) (k : Nat) (f : Isect → Isect) : (s.updIsect k f).isect k = f (s.isect k) :=
  getD_set_self ..

theorem OnlyRecorded.isect {s t : State} (h : OnlyRecorded s t) (k : Nat) : t.isect k = s.isect k := by
  have hi : t.isects = s.isects := (congrArg State.isects (onlyRecorded_iff.1 h) :)
  rw [State.isect, hi, State.isect]

/-! ## Pairs -/

section Pair
variable {s : State} {r : Region} {cluster c v : Nat}

theorem accPair_none : accPair r cluster 0xFFFFFFFF v s = s := by
  rw [accPair, if_pos rfl]

theorem accPair_high (h : 4096 ≤ c) (hc : c ≠ 0xFFFFFFFF) :
    accPair r cluster c v s = s.islandError r Cause.islandFormat (BitVec.ofNat 64 c) := by
  rw [accPair, if_neg hc, if_pos h]

/-- The value that a pair leaves at its coordinate: the sum, or the pair's own (R429). -/
def accSum (m : AMap Word) (c v : Nat) : Word :=
  match AMap.find? m c with
  | some y => BitVec.ofNat 32 (Fmt.f32.addBits y.toNat (if (decF v).isNan = true then 0x7FC00000 else v))
  | none => BitVec.ofNat 32 (if (decF v).isNan = true then 0x7FC00000 else v)

theorem accPair_low (h : c < 4096) : accPair r cluster c v s =
    s.updIsect cluster (fun i => { i with accVal := AMap.set i.accVal c (accSum i.accVal c v) }) := by
  rw [accPair, if_neg (by omega), if_neg (by omega)]
  rfl

theorem accVal_accPair (h : c < 4096) : ((accPair r cluster c v s).isect cluster).accVal =
    AMap.set (s.isect cluster).accVal c (accSum (s.isect cluster).accVal c v) := by
  rw [accPair_low h, isect_updIsect_self]

end Pair

theorem mem_set {α : Type} {m : AMap α} {k : Nat} {v : α} {p : Nat × α} (h : p ∈ AMap.set m k v) : p = (k, v) ∨ p ∈ m := by
  induction m with
  | nil => exact .inl (List.mem_singleton.1 h)
  | cons q t ih =>
    obtain ⟨j, w⟩ := q
    unfold AMap.set at h
    split at h
    · exact List.mem_cons.1 h
    · split at h
      · exact (List.mem_cons.1 h).imp_right (List.mem_cons_of_mem _)
      · rcases List.mem_cons.1 h with rfl | h
        · exact .inr List.mem_cons_self
        · exact (ih h).imp_right (List.mem_cons_of_mem _)

/-- A map with rising keys keeps that form. -/
theorem set_pairwise {α : Type} {m : AMap α} (h : m.Pairwise (fun x y => x.1 < y.1)) (k : Nat) (v : α) :
    (AMap.set m k v).Pairwise (fun x y => x.1 < y.1) := by
  induction m with
  | nil => exact List.pairwise_singleton _ _
  | cons q t ih =>
    obtain ⟨j, w⟩ := q
    obtain ⟨hj, ht⟩ := List.pairwise_cons.1 h
    unfold AMap.set
    split
    · next hk => exact List.pairwise_cons.2 ⟨List.forall_mem_cons.2 ⟨hk, fun p hp => hk.trans (hj p hp)⟩, h⟩
    · split
      · next hk => exact List.pairwise_cons.2 ⟨hk ▸ hj, ht⟩
      · next hk hne =>
        refine List.pairwise_cons.2 ⟨fun p hp => ?_, ih ht⟩
        rcases mem_set hp with rfl | hp
        · exact Nat.lt_of_le_of_ne (Nat.not_lt.1 hk) (Ne.symm hne)
        · exact hj p hp

theorem accPair_pairwise {s : State} (r : Region) {cluster : Nat} (c v : Nat)
    (h : (s.isect cluster).accVal.Pairwise (fun x y => x.1 < y.1)) :
    ((accPair r cluster c v s).isect cluster).accVal.Pairwise (fun x y => x.1 < y.1) := by
  by_cases hc : c < 4096
  · rw [accVal_accPair hc]
    exact set_pairwise h ..
  · by_cases hn : c = 0xFFFFFFFF
    · rw [hn, accPair_none]
      exact h
    · rw [accPair_high (Nat.not_lt.1 hc) hn, (onlyRecorded_islandError ..).isect]
      exact h

/-! ## The tokens of a flush -/

/-- The two lanes of an entry; those that no entry is left for hold the reserved coordinate (R429). -/
def coordLane : Option (Nat × Word) → Word
  | some p => BitVec.ofNat 32 p.1
  | none => 0xFFFFFFFF
def valueLane : Option (Nat × Word) → Word
  | some p => p.2
  | none => 0

/-- A token of up to four entries. -/
def pairToken (l : AMap Word) : Token := ⟨ofLanes ((List.range 4).flatMap (fun k => [coordLane l[k]?, valueLane l[k]?])), dataTag⟩

theorem lane_pairToken_coord (l : AMap Word) {k : Nat} (hk : k < 4) : lane (pairToken l).val (2 * k) = coordLane l[k]? := by
  rw [pairToken, lane_ofLanes _ (by omega)]
  interval_cases k <;> rfl

theorem lane_pairToken_value (l : AMap Word) {k : Nat} (hk : k < 4) : lane (pairToken l).val (2 * k + 1) = valueLane l[k]? := by
  rw [pairToken, lane_ofLanes _ (by omega)]
  interval_cases k <;> rfl

theorem accTokens_succ (n : Nat) (p : Nat × Word) (l : AMap Word) :
    accTokens (n + 1) (p :: l) = pairToken ((p :: l).take 4) :: accTokens n ((p :: l).drop 4) := by
  rw [accTokens, pairToken]
  · congr 4
    funext k
    cases ((p :: l).take 4)[k]? <;> rfl
  · exact List.cons_ne_nil p l

theorem length_accTokens {n : Nat} {l : AMap Word} (h : l.length < n) : (accTokens n l).length = (l.length + 3) / 4 := by
  induction n generalizing l with
  | zero => omega
  | succ n ih =>
    cases l with
    | nil => rfl
    | cons p l =>
      have hdrop : ((p :: l).drop 4).length = (p :: l).length - 4 := List.length_drop
      rw [accTokens_succ, List.length_cons, ih (by simp only [List.length_cons] at *; omega), hdrop]
      simp only [List.length_cons]
      omega

/-- Token q of a flush holds the entries from 4q on. -/
theorem getElem?_accTokens {n q : Nat} {l : AMap Word} (h : l.length < n) (hq : 4 * q < l.length) :
    (accTokens n l)[q]? = some (pairToken ((l.drop (4 * q)).take 4)) := by
  induction n generalizing l q with
  | zero => omega
  | succ n ih =>
    cases l with
    | nil => simp at hq
    | cons p l =>
      rw [accTokens_succ]
      cases q with
      | zero => rfl
      | succ q =>
        have hdrop : ((p :: l).drop 4).length = (p :: l).length - 4 := List.length_drop
        simp only [List.length_cons] at *
        rw [List.getElem?_cons_succ, ih (by omega) (by omega), List.drop_drop, Nat.mul_succ, Nat.add_comm]

/-! ## The instructions -/

section Instructions
variable {s : State} {cluster : Nat} {r : Region} {t : Token} (h : s.accHead cluster = some (r, t))
include h

theorem exec_accumulatorPair (hd : isData t.tag = true) : exec (.accumulatorPair cluster) s = .next ((List.range 4).foldl
    (fun u m => accPair r cluster (lane t.val (2 * m)).toNat (lane t.val (2 * m + 1)).toNat u) (s.linkTake (linkKey 2 cluster 3))) := by
  rw [show exec (.accumulatorPair cluster) s = execAccumulatorPair cluster s from rfl]
  simp only [execAccumulatorPair, h, hd, Bool.not_true, Bool.false_eq_true, if_false]

theorem exec_accumulatorPoison (hp : isPoison t.tag = true) : exec (.accumulatorPoison cluster) s = .next
    ((s.linkTake (linkKey 2 cluster 3)).updIsect cluster (fun i =>
      { i with accVal := [], poisoned := true, lp := BitVec.ofNat 6 (levelOf t.tag) })) := by
  rw [show exec (.accumulatorPoison cluster) s = execAccumulatorPoison cluster s from rfl]
  simp only [execAccumulatorPoison, h, hp, Bool.not_true, Bool.false_eq_true, if_false]

theorem exec_accumulatorFlush (hs : isStop t.tag = true) (hl : levelOf t.tag = 0) : exec (.accumulatorFlush cluster) s = .next
    (((s.linkTake (linkKey 2 cluster 3)).sendAll (linkKey 2 cluster 3) (if (s.isect cluster).poisoned = true
      then [poisonTok (s.isect cluster).lp.toNat, stopTok 0 0]
      else accTokens ((s.isect cluster).accVal.length + 1) (s.isect cluster).accVal ++ [stopTok 0 (s.isect cluster).accVal.length])).updIsect
        cluster (fun j => { j with accVal := [], poisoned := false })) := by
  rw [show exec (.accumulatorFlush cluster) s = execAccumulatorFlush cluster s from rfl]
  simp only [execAccumulatorFlush, h, hs, hl, Bool.not_true, bne_self_eq_false, Bool.or_self, Bool.false_eq_true, if_false]

theorem exec_accumulatorStopPass (hs : isStop t.tag = true) (hl : levelOf t.tag ≠ 0) : exec (.accumulatorStopPass cluster) s = .next
    ((s.linkTake (linkKey 2 cluster 3)).linkSend (linkKey 2 cluster 3) t) := by
  rw [show exec (.accumulatorStopPass cluster) s = execAccumulatorStopPass cluster s from rfl]
  simp only [execAccumulatorStopPass, h, hs, hl, Bool.not_true, decide_false, Bool.or_self, Bool.false_eq_true, if_false]

end Instructions

/-! ## The obligation -/

/-- Settles O47: the head of link 3 by its kind, a pair by its coordinate, and a flush by the entries that each of its tokens takes. -/
theorem sparseAccumulatorTile : Obligations.SparseAccumulatorTile := by
  unfold Obligations.SparseAccumulatorTile
  refine ⟨?instructions, ?pair, fun s r cluster c v h => accPair_pairwise r c v h, ?tokens⟩
  case instructions =>
    rintro s cluster r t h s1 l rfl rfl
    refine ⟨exec_accumulatorPair h, exec_accumulatorPoison h, ?_, exec_accumulatorStopPass h⟩
    rintro hs hl i rfl
    exact exec_accumulatorFlush h hs hl
  case pair =>
    intro s r cluster c v
    refine ⟨fun hc => hc ▸ accPair_none, accPair_high, ?_⟩
    rintro hc x rfl s1 rfl
    rw [accVal_accPair hc]
    refine ⟨find_set_self .., fun k hk => find_set_ne _ _ (Ne.symm hk), ?_⟩
    rw [accPair_low hc]
    exact ⟨rfl, rfl, rfl⟩
  case tokens =>
    refine fun l => ⟨length_accTokens (Nat.lt_succ_self _), fun k hk => ?_⟩
    have hq : 4 * (k / 4) < l.length := by omega
    have hmod : k % 4 < 4 := Nat.mod_lt _ (by decide)
    have hentry : ((l.drop (4 * (k / 4))).take 4)[k % 4]? = l[k]? := by
      rw [List.getElem?_take_of_lt hmod, List.getElem?_drop, Nat.div_add_mod]
    refine ⟨_, getElem?_accTokens (Nat.lt_succ_self _) hq, rfl, fun p hp => ?_, fun hp => ?_⟩
    all_goals
      rw [lane_pairToken_coord _ hmod, lane_pairToken_value _ hmod, hentry, hp]
      exact ⟨rfl, rfl⟩

end Sys2Proof.Machine
end

section
/-!
PROOFS. Merge commands (R421 to R428): how a command is judged and walked, when it is answered, and what its fibres and tokens hold.
-/
namespace Sys2Proof.Machine

/-! ## Commands that may stop: a check, and what a command that ended has done -/

theorem exec_tryM_ok {α : Type} {m : Mach α} {a : α} {s t : State} (h : m.exec s = (.ok a, t)) : (tryM m).exec s = (.ok (.ok a), t) := by
  unfold tryM
  rw [Mach.exec] at *
  simp only [ExceptT.run, StateT.run] at *
  rw [h]

theorem exec_tryM_raise {α : Type} {m : Mach α} {c : Byte} {a : DWord} {s t : State} (h : m.exec s = (.error (.raise c a), t)) :
    (tryM m).exec s = (.ok (.error (c, a)), t) := by
  unfold tryM
  rw [Mach.exec] at *
  simp only [ExceptT.run, StateT.run] at *
  rw [h]

/-- Two steps in a row end where both end. -/
theorem of_exec_bind_ok {α β : Type} {m : Mach α} {f : α → Mach β} {b : β} {s t : State} (h : (m >>= f).exec s = (.ok b, t)) :
    ∃ a u, m.exec s = (.ok a, u) ∧ (f a).exec u = (.ok b, t) := by
  rw [exec_bind] at h
  split at h
  · next a u hm => exact ⟨a, u, hm, h⟩
  · cases h

/-- A command behind a check ends where the check passes. -/
theorem of_exec_raiseIf_ok {β : Type} {p : Prop} [Decidable p] {c : Byte} {a : DWord} {f : PUnit → Mach β} {b : β} {s t : State}
    (h : (if p then raiseM c a >>= f else f ⟨⟩).exec s = (.ok b, t)) : ¬ p ∧ (f ⟨⟩).exec s = (.ok b, t) := by
  by_cases hp : p
  · rw [if_pos hp, exec_bind, exec_raiseM] at h
    cases h
  · rw [if_neg hp] at h
    exact ⟨hp, h⟩

/-! ## Fibres (R421) -/

/-- The entries of a fibre rise from the bound on, and none has the reserved coordinate. -/
theorem entriesM_rising {w : Who} {d : FibreSet} {e low n : Nat} {s t : State} {l : List (Nat × Nat)}
    (h : (entriesM w d e low n).exec s = (.ok l, t)) : Rising l ∧ ∀ p ∈ l, low ≤ p.1 ∧ p.1 ≠ 0xFFFFFFFF := by
  induction n generalizing e low s t l with
  | zero =>
    cases h
    exact ⟨.nil, List.forall_mem_nil _⟩
  | succ n ih =>
    obtain ⟨c, s1, -, h⟩ := of_exec_bind_ok h
    obtain ⟨hc, h⟩ := of_exec_raiseIf_ok h
    obtain ⟨v, s2, -, h⟩ := of_exec_bind_ok h
    obtain ⟨t, s3, ht, h⟩ := of_exec_bind_ok h
    obtain ⟨hlow, hne⟩ : low ≤ c ∧ c ≠ 0xFFFFFFFF := by simpa using hc
    obtain ⟨hrise, hall⟩ := ih ht
    cases h
    exact ⟨List.pairwise_cons.2 ⟨fun p hp => (hall p hp).1, hrise⟩,
      List.forall_mem_cons.2 ⟨⟨hlow, hne⟩, fun p hp => ⟨Nat.le_of_lt (hlow.trans_lt (hall p hp).1), (hall p hp).2⟩⟩⟩

theorem fibreM_rising {w : Who} {set : Except (Byte × DWord) FibreSet} {f : Nat} {s t : State} {l : List (Nat × Nat)}
    (h : (fibreM w set f).exec s = (.ok l, t)) : Rising l ∧ ∀ p ∈ l, p.1 ≠ 0xFFFFFFFF := by
  cases set with
  | error e => cases h
  | ok d =>
  obtain ⟨d, s1, -, h⟩ := of_exec_bind_ok h
  obtain ⟨p0, s2, -, h⟩ := of_exec_bind_ok h
  obtain ⟨p1, s3, -, h⟩ := of_exec_bind_ok h
  obtain ⟨-, h⟩ := of_exec_raiseIf_ok h
  obtain ⟨hrise, hall⟩ := entriesM_rising h
  exact ⟨hrise, fun p hp => (hall p hp).2⟩

theorem exec_fibreM_error (w : Who) (e : Byte × DWord) (f : Nat) (s : State) :
    (fibreM w (.error e) f).exec s = (.error (.raise e.1 e.2), s) := rfl

/-- An entry that does not rise, or has the reserved coordinate, fails at its address. -/
theorem exec_entriesM_bad {w : Who} {d : FibreSet} {e low n c : Nat} {s s1 : State}
    (h : (loadM w (BitVec.ofNat 64 (d.crd + 4 * e)) 4).exec s = (.ok c, s1)) (hc : c < low ∨ c = 0xFFFFFFFF) :
    (entriesM w d e low (n + 1)).exec s = (.error (.raise Cause.islandFormat (BitVec.ofNat 64 (d.crd + 4 * e))), s1) := by
  have hbad : (decide (c < low) || decide (c = 0xFFFFFFFF)) = true := by simpa using hc
  rw [entriesM, exec_bind_ok h, if_pos hbad, exec_bind, exec_raiseM]

/-! ## Tokens (R425) -/

theorem lane_laneTok (fill : Nat) (l : List Nat) {j : Nat} (hj : j < 8) : lane (laneTok fill l).val j = BitVec.ofNat 32 (l.getD j fill) := by
  rw [laneTok, lane_ofLanes _ hj]
  simp [hj]

/-! ## The walk (R424, R425, R427) -/

section Walk
variable {w : Who} {c : MergeCmd} {a b : Nat} {l : List Nat} {x : Walk} {s s1 s2 : State}

theorem exec_walkRowM_pair {fa fb : List (Nat × Nat)} (ha : (fibreM w c.a a).exec s = (.ok fa, s1))
    (hb : (fibreM w c.b b).exec s1 = (.ok fb, s2)) :
    (walkRowM w c a (b :: l) x).exec s = (walkRowM w c a l (x.pair c.both fa fb)).exec s2 := by
  rw [walkRowM, exec_bind_ok (exec_tryM_ok (by rw [exec_bind_ok ha, exec_bind_ok hb, exec_pure]))]

theorem exec_walkRowM_fails {cause : Byte} {addr : DWord} (h : (do
    let fa ← fibreM w c.a a
    let fb ← fibreM w c.b b
    pure (fa, fb)).exec s = (.error (.raise cause addr), s1)) :
    (walkRowM w c a (b :: l) x).exec s = (.ok { x with out := x.out.poison, bad := some (cause, addr) }, s1) := by
  rw [walkRowM, exec_bind_ok (exec_tryM_raise h)]
  rfl

theorem exec_walkM_stops {y : Walk} (h : (walkRowM w c a (natsFrom c.bfirst c.bcnt) x).exec s = (.ok y, s1)) (hb : y.bad ≠ none) :
    (walkM w c (a :: l) x).exec s = (.ok y, s1) := by
  rw [walkM, exec_bind_ok h, if_pos (Option.isSome_iff_ne_none.2 hb), exec_pure]

theorem exec_walkM_continues {y : Walk} (h : (walkRowM w c a (natsFrom c.bfirst c.bcnt) x).exec s = (.ok y, s1)) (hb : y.bad = none) :
    (walkM w c (a :: l) x).exec s = (walkM w c l y).exec s1 := by
  rw [walkM, exec_bind_ok h, hb]
  rfl

theorem natsFrom_pos (k : Nat) {n : Nat} (h : 0 < n) : ∃ t, natsFrom k n = k :: t := by
  cases n with
  | zero => exact absurd h (Nat.lt_irrefl _)
  | succ n => exact ⟨_, rfl⟩

/-- A set that cannot be read fails at the first pair (R427; log entry 47). -/
theorem exec_walkM_noSet {e : Byte × DWord} (he : c.a = .error e) (ha : 0 < c.acnt) (hb : 0 < c.bcnt) :
    (walkM w c (natsFrom c.afirst c.acnt) {}).exec s = (.ok { out := ⟨[poisonTok 0], [poisonTok 0]⟩, bad := some e }, s) := by
  obtain ⟨ta, hta⟩ := natsFrom_pos c.afirst ha
  obtain ⟨tb, htb⟩ := natsFrom_pos c.bfirst hb
  rw [hta]
  refine exec_walkM_stops (y := { out := ⟨[poisonTok 0], [poisonTok 0]⟩, bad := some e }) ?_ (Option.some_ne_none e)
  rw [htb]
  exact exec_walkRowM_fails (exec_bind_error (by rw [he, exec_fibreM_error]) _)

end Walk

/-! ## Judgement (R423) -/

section Judge
variable {w : Who} {r : Region} {cluster : Nat} {t : Token} {s s1 s2 : State}

theorem exec_mergeM_refused {c : Byte} {a : DWord} (h : (judgeMergeM w r cluster t).exec s = (.error (.raise c a), s1)) :
    (mergeM w r cluster t).exec s = (.ok { bad := some (c, a) }, s1) := by
  rw [mergeM, exec_bind_ok (exec_tryM_raise h), exec_pure]

theorem exec_mergeM_walk {c : MergeCmd} (h : (judgeMergeM w r cluster t).exec s = (.ok c, s1)) :
    (mergeM w r cluster t).exec s = (walkM w c (natsFrom c.afirst c.acnt) {}).exec s1 := by
  rw [mergeM, exec_bind_ok (exec_tryM_ok h)]

end Judge

/-! ## Links and responses (R426) -/

@[simp] theorem outq_sendAll_self (s : State) (k : Nat) (l : List Token) : ((s.sendAll k l).link k).outq = (s.link k).outq ++ l :=
  congrArg Link.outq (link_updLink_self s k fun x => { x with outq := x.outq ++ l })

theorem link_sendAll_ne (s : State) {k j : Nat} (l : List Token) (h : k ≠ j) : (s.sendAll k l).link j = s.link j :=
  getD_set_ne _ _ _ h

theorem linkKey_ne {k c i j : Nat} (h : i ≠ j) : linkKey k c i ≠ linkKey k c j := fun he => h (Nat.add_left_cancel he)

theorem OnlyRecorded.link {s t : State} (h : OnlyRecorded s t) (k : Nat) : t.link k = s.link k := by
  rw [State.link, h.links, State.link]

/-- The tokens of a walk, on link 1 and where they are asked for on link 2. -/
def State.sendWalk (s : State) (cluster : Nat) (t : Token) (x : Walk) : State :=
  if bit (lane t.val 5).toNat 24 = true then (s.sendAll (linkKey 2 cluster 1) x.out.one).sendAll (linkKey 2 cluster 2) x.out.two
  else s.sendAll (linkKey 2 cluster 1) x.out.one

/-- The record of the check that ended a walk. -/
def State.recordWalk (s : State) (r : Region) : Option (Byte × DWord) → State
  | some (c, a) => s.islandError r c a
  | none => s

@[simp] theorem isect_endReads (s : State) (r : Reader) (k : Nat) : (s.endReads r).isect k = s.isect k := rfl

section Done
variable (s : State) (r : Region) (cluster : Nat) (t : Token) (x : Walk)

theorem onlyRecorded_recordWalk (bad : Option (Byte × DWord)) : OnlyRecorded s (s.recordWalk r bad) :=
  match bad with
  | some _ => onlyRecorded_islandError ..
  | none => .refl s

theorem mergeDone_eq : s.mergeDone r cluster t x = (((s.sendWalk cluster t x).recordWalk r x.bad).updIsect cluster (fun i => { i with
    cmd := none, response := some (mergeResp (mergeOp t) (if x.bad.isSome then 2 else 0) x.sent) })).endReads (.island 2 cluster) := by
  rw [State.mergeDone, State.sendWalk]
  cases x.bad <;> rfl

theorem link_mergeDone (k : Nat) : (s.mergeDone r cluster t x).link k = (s.sendWalk cluster t x).link k := by
  rw [mergeDone_eq]
  exact (onlyRecorded_recordWalk ..).link k

theorem isect_mergeDone : (s.mergeDone r cluster t x).isect cluster = { s.isect cluster with
    cmd := none, response := some (mergeResp (mergeOp t) (if x.bad.isSome = true then 2 else 0) x.sent) } := by
  have hs : ((s.sendWalk cluster t x).recordWalk r x.bad).isect cluster = s.isect cluster := by
    rw [(onlyRecorded_recordWalk ..).isect, State.sendWalk]
    split <;> rfl
  rw [mergeDone_eq, isect_endReads, isect_updIsect_self, hs]

theorem outq_mergeDone_one : ((s.mergeDone r cluster t x).link (linkKey 2 cluster 1)).outq =
    (s.link (linkKey 2 cluster 1)).outq ++ x.out.one := by
  rw [link_mergeDone, State.sendWalk]
  split
  · rw [link_sendAll_ne _ _ (linkKey_ne (by decide)), outq_sendAll_self]
  · rw [outq_sendAll_self]

theorem outq_mergeDone_two : ((s.mergeDone r cluster t x).link (linkKey 2 cluster 2)).outq =
    (s.link (linkKey 2 cluster 2)).outq ++ (if bit (lane t.val 5).toNat 24 = true then x.out.two else []) := by
  rw [link_mergeDone, State.sendWalk]
  split
  · rw [outq_sendAll_self, link_sendAll_ne _ _ (linkKey_ne (by decide))]
  · rw [link_sendAll_ne _ _ (linkKey_ne (by decide)), List.append_nil]

end Done

section Response
variable {s : State} {cluster : Nat} {r : Region} {t : Token}

theorem placeResponse_none (h : (s.isect cluster).response = none) : s.placeResponse cluster = s := by
  rw [State.placeResponse, h]
  cases s.binder 2 cluster <;> rfl

variable (hb : s.binder 2 cluster = some r) (hr : (s.isect cluster).response = some t)
include hb hr

theorem placeResponse_waits (h : (s.linkEntered r (linkKey 2 cluster 1) && s.linkEntered r (linkKey 2 cluster 2)) = false) :
    s.placeResponse cluster = s := by
  simp only [State.placeResponse, hb, hr, h, Bool.false_eq_true, if_false]

theorem placeResponse_placed (h : (s.linkEntered r (linkKey 2 cluster 1) && s.linkEntered r (linkKey 2 cluster 2)) = true) :
    s.placeResponse cluster = (s.updIsect cluster (fun x => { x with response := none })).linkSend (linkKey 2 cluster 0) t := by
  simp only [State.placeResponse, hb, hr, h, if_true]

end Response

/-! ## The instructions (R423, R428) -/

theorem of_isectHead {s : State} {cluster link : Nat} {r : Region} {t : Token} (h : s.isectHead cluster link = some (r, t)) :
    s.islandRegion 2 cluster = some r := by
  rw [State.isectHead] at h
  split at h
  · next hr _ =>
    split at h
    · cases h
      exact hr
    · cases h
  · cases h

/-- A command is at the head where none is under way and none waits for its answer. -/
theorem of_mergeHead {s : State} {cluster : Nat} {r : Region} {t : Token} (h : s.mergeHead cluster = some (r, t)) :
    (s.isect cluster).response = none ∧ (s.isect cluster).cmd = none ∧ s.islandRegion 2 cluster = some r := by
  rw [State.mergeHead] at h
  split at h
  · cases h
  · next hc =>
    simp only [Bool.or_eq_true, not_or, Bool.not_eq_true, Option.isSome_eq_false_iff, Option.isNone_iff_eq_none] at hc
    obtain ⟨⟨hresp, hcmd⟩, -⟩ := hc
    exact ⟨hresp, hcmd, of_isectHead h⟩

/-- ISECT and UNION: one meaning, by the number of their OP. -/
theorem exec_mergeRun {i : Instr} {cluster op : Nat} (h : (op, i) ∈ [(1, Instr.isect cluster), (2, Instr.union cluster)]) (s : State) :
    exec i s = mergeRun cluster op s := by
  rcases List.mem_pair.1 h with h | h <;> cases h <;> rfl

theorem mergeTake_takes {s : State} {cluster : Nat} {r : Region} {t : Token} (h : s.mergeHead cluster = some (r, t))
    (hd : isData t.tag = true) : s.mergeTake cluster (mergeOp t) =
      (s.linkTake (linkKey 2 cluster 0)).updIsect cluster (fun i => { i with cmd := some t }) := by
  simp only [State.mergeTake, h, hd, Bool.not_true, bne_self_eq_false, Bool.or_self, Bool.false_eq_true, if_false]

theorem mergeTake_busy {s : State} {cluster : Nat} {t : Token} (h : (s.isect cluster).cmd = some t) (op : Nat) :
    s.mergeTake cluster op = s := by
  have hh : s.mergeHead cluster = none := by
    rw [State.mergeHead, h]
    simp
  rw [State.mergeTake, hh]

section Run
variable {s s1 s2 : State} {cluster : Nat} {r : Region} {t : Token} {i : Instr}
  (hi : (mergeOp t, i) ∈ [(1, Instr.isect cluster), (2, Instr.union cluster)])
  (hs : (s.placeResponse cluster).mergeTake cluster (mergeOp t) = s1) (hr : s1.islandRegion 2 cluster = some r)
  (hc : (s1.isect cluster).cmd = some t)
include hi hs hr hc

/-- A command under way whose walk ends. -/
theorem exec_mergeRun_ok {x : Walk} (hm : (mergeM (whoIsect cluster r.ctx) r cluster t).exec s1 = (.ok x, s2)) :
    exec i s = .next ((s2.mergeDone r cluster t x).placeResponse cluster) := by
  rw [exec_mergeRun hi]
  simp only [mergeRun, hs, hr, hc, hm, bne_self_eq_false, Bool.false_eq_true, if_false]

/-- A command under way whose reads wait. -/
theorem exec_mergeRun_error {e : Stop} (hm : (mergeM (whoIsect cluster r.ctx) r cluster t).exec s1 = (.error e, s2)) :
    exec i s = .next s2 := by
  rw [exec_mergeRun hi]
  simp only [mergeRun, hs, hr, hc, hm, bne_self_eq_false, Bool.false_eq_true, if_false]

end Run

section Unknown
variable {s : State} {cluster : Nat} {r : Region} {t : Token} (h : s.mergeHead cluster = some (r, t))
include h

theorem exec_intersectUnknownCommand (hd : isData t.tag = true) (h1 : mergeOp t ≠ 1) (h2 : mergeOp t ≠ 2) :
    exec (.intersectUnknownCommand cluster) s = .next (((s.linkTake (linkKey 2 cluster 0)).islandError r Cause.islandCmd 0).linkSend
      (linkKey 2 cluster 0) (mergeResp (mergeOp t) 1 0)) := by
  rw [show exec (.intersectUnknownCommand cluster) s = execIntersectUnknownCommand cluster s from rfl]
  simp only [execIntersectUnknownCommand, h, hd, h1, h2, Bool.not_true, Bool.false_eq_true, decide_false, Bool.or_self, if_false]

theorem exec_intersectUnknownCommand_noData (hd : isData t.tag = false) : exec (.intersectUnknownCommand cluster) s = .next
    ((s.linkTake (linkKey 2 cluster 0)).islandError r Cause.islandCmd 0) := by
  rw [show exec (.intersectUnknownCommand cluster) s = execIntersectUnknownCommand cluster s from rfl]
  simp only [execIntersectUnknownCommand, h, hd, Bool.not_false, if_true]

end Unknown

/-! ## The obligation -/

/-- Settles O46: a command by its head or by what is under way, its walk by its judgement and, pair by pair, by its fibres. -/
theorem mergeCommandsAnswer : Obligations.MergeCommandsAnswer := by
  unfold Obligations.MergeCommandsAnswer
  refine ⟨⟨?head, ?again, fun s w r cluster t => ⟨fun c a s1 h => exec_mergeM_refused h, ?empty, fun c s1 x s2 hj h =>
      (exec_mergeM_walk hj).trans h, fun c e he ha hb => exec_walkM_noSet he ha hb⟩, ?done, fun s cluster r t hb hr =>
      ⟨placeResponse_waits hb hr, placeResponse_placed hb hr⟩⟩,
    fun s w c x => rfl, fun s w c a t x y s1 h => ⟨exec_walkM_stops h, exec_walkM_continues h⟩, fun s w c a x => rfl, ?pairs,
    fun x n => by cases n <;> rfl, fun x n l hl => ?items, fun fill l j hj => ⟨rfl, lane_laneTok fill l hj⟩,
    fun s w set f l s1 h => fibreM_rising h, fun s w d e low n c s1 h hc => exec_entriesM_bad h hc⟩
  case head =>
    rintro s cluster r t h w rfl
    obtain ⟨hresp, -, hr⟩ := of_mergeHead h
    refine ⟨?_, exec_intersectUnknownCommand h, exec_intersectUnknownCommand_noData h⟩
    rintro hd i hi s1 rfl
    have htake : (s.placeResponse cluster).mergeTake cluster (mergeOp t) =
        (s.linkTake (linkKey 2 cluster 0)).updIsect cluster (fun i => { i with cmd := some t }) := by
      rw [placeResponse_none hresp, mergeTake_takes h hd]
    have hcmd := congrArg Isect.cmd (isect_updIsect_self (s.linkTake (linkKey 2 cluster 0)) cluster fun i => { i with cmd := some t })
    exact ⟨fun x s2 => exec_mergeRun_ok hi htake hr hcmd, fun s2 => exec_mergeRun_error hi htake hr hcmd⟩
  case again =>
    intro s cluster r t x s2 hr hcmd hresp hm i hi
    have htake : (s.placeResponse cluster).mergeTake cluster (mergeOp t) = s := by
      rw [placeResponse_none hresp, mergeTake_busy hcmd]
    exact exec_mergeRun_ok hi htake hr hcmd hm
  case empty =>
    intro c s1 hj h0
    rw [exec_mergeM_walk hj, h0, natsFrom, walkM, exec_pure, h0]
    rfl
  case done =>
    rintro s cluster r t x s1 rfl
    rw [isect_mergeDone]
    exact ⟨rfl, rfl, outq_mergeDone_one .., outq_mergeDone_two ..⟩
  case pairs =>
    intro s w c a b t x
    refine ⟨?_, fun cause addr s1 ha => exec_walkRowM_fails (exec_bind_error ha _), fun fa s1 cause addr s2 ha hb =>
      exec_walkRowM_fails ((exec_bind_ok ha _).trans (exec_bind_error hb _))⟩
    rintro fa fb s1 s2 l g ha hb rfl rfl
    exact exec_walkRowM_pair ha hb
  case items =>
    cases l with
    | nil => exact absurd rfl hl
    | cons i l => rfl

end Sys2Proof.Machine
end

section
/-!
PROOFS. Host queues and messages (R432 to R435, R438, R442): how a queue is enabled and fetched, and when a message or a mask takes effect.
-/
namespace Sys2Proof.Machine

/-! ## Host queues (R432, R433) -/

@[simp] theorem hostQ_setHostQ_self (s : State) (q : Nat) (x : HostQ) : (s.setHostQ q x).hostQ q = x := getD_set_self ..

theorem setHostQ_setHostQ (s : State) (q : Nat) (x y : HostQ) : (s.setHostQ q x).setHostQ q y = s.setHostQ q y := by
  simp only [State.setHostQ, set_set]

section Enable
variable {s s1 : State} {q : Nat}

theorem queueEnable_ok {h : Nat} (hl : (loadM (whoQueue s q) ((s.hostQ q).qcb + 0x18) 8).exec s = (.ok h, s1)) : s.queueEnable q =
    (s1.setHostQ q { s1.hostQ q with en := true, enabling := false, fetch := BitVec.ofNat 64 h }).endReads (.island 9 q) := by
  rw [State.queueEnable, hl]

theorem queueEnable_raise {c : Byte} {a : DWord}
    (hl : (loadM (whoQueue s q) ((s.hostQ q).qcb + 0x18) 8).exec s = (.error (.raise c a), s1)) :
    s.queueEnable q = (s1.queueError q c a).endReads (.island 9 q) := by
  rw [State.queueEnable, hl]

theorem exec_hostQueueEnable (hq : q < 4096) (he : (s.hostQ q).en = false) :
    exec (.hostQueueEnable q) s = .next (s.queueEnable q) := by
  rw [show exec (.hostQueueEnable q) s = execHostQueueEnable q s from rfl, execHostQueueEnable, he]
  simp only [Nat.not_le.2 hq, decide_false, Bool.or_self, Bool.false_eq_true, if_false]

end Enable

theorem doorbell_eq (s : State) (q : Nat) : s.doorbell q = if (s.hostQ q).en = false ∨ (s.hostQ q).frz = true then s
    else if (s.hostQ q).fetching = true then s.setHostQ q { s.hostQ q with again := true }
    else s.setHostQ q { s.hostQ q with fetching := true } := by
  simp only [State.doorbell, Bool.or_eq_true, Bool.not_eq_true']

/-! ## The fetch of a queue (R433) -/

section Fetch
variable {s s1 s2 : State} {q : Nat}

theorem exec_fetchLoopM_end {v : RingView} (h : (s.hostQ q).fetch.toNat = v.tail) (n : Nat) :
    (fetchLoopM q v n).exec s = (.ok (), s) := by
  cases n with
  | zero => rfl
  | succ n =>
    rw [fetchLoopM, exec_bind_ok (exec_get s)]
    simp only [h, bne_self_eq_false, Bool.false_eq_true, if_false, exec_pure]

theorem exec_fetchLoopM_record {v : RingView} (h : (s.hostQ q).fetch.toNat ≠ v.tail)
    (hr : (fetchRecordM q v).exec s = (.ok (), s1)) (n : Nat) : (fetchLoopM q v (n + 1)).exec s = (fetchLoopM q v n).exec s1 := by
  have hne : ((s.hostQ q).fetch.toNat != v.tail) = true := bne_iff_ne.2 h
  rw [fetchLoopM, exec_bind_ok (exec_get s), if_pos hne, exec_bind_ok hr]

/-- A record that is no padding signals once, and F moves behind it. -/
theorem exec_fetchRecordM {v : RingView} {at_ : DWord} {len kind : Nat}
    (hr : (ringRecord (whoQueue s q) (s.hostQ q).qcb v (s.hostQ q).fetch.toNat).exec s = (.ok (at_, len, kind), s2)) (hk : kind ≠ 0xFF)
    (hs : s.semaReach (s.hostQ q).ctx (s.hostQ q).sema = true) (h2 : s2.hostQ q = s.hostQ q) :
    (fetchRecordM q v).exec s = (.ok (), (s2.semaNamed (s.hostQ q).sema 1).setHostQ q { s.hostQ q with
      fetch := (s.hostQ q).fetch + BitVec.ofNat 64 len }) := by
  have hne : (kind != 0xFF) = true := bne_iff_ne.2 hk
  have h2' : (s2.semaNamed (s.hostQ q).sema 1).hostQ q = s.hostQ q := h2
  rw [fetchRecordM, exec_bind_ok (exec_get s), exec_bind_ok hr]
  simp only [hne, hs, if_true, Bool.not_true, Bool.false_eq_true, if_false, exec_bind, exec_modify, h2']

variable (he : (s.hostQ q).en = true) (hn : (s.hostQ q).enabling = false) (hf : (s.hostQ q).frz = false)
  (hg : (s.hostQ q).fetching = true)
include he hn hf hg

theorem exec_hostQueueFetch_ok (h : (queueFetchM q).exec s = (.ok (), s1)) : exec (.hostQueueFetch q) s = .next
    ((s1.setHostQ q { s1.hostQ q with fetching := (s.hostQ q).again, again := false }).endReads (.island 9 q)) := by
  rw [show exec (.hostQueueFetch q) s = execHostQueueFetch q s from rfl]
  simp only [execHostQueueFetch, he, hn, hf, hg, h, Bool.not_true, Bool.or_self, Bool.false_eq_true, if_false]

theorem exec_hostQueueFetch_raise {c : Byte} {a : DWord} (h : (queueFetchM q).exec s = (.error (.raise c a), s1)) :
    exec (.hostQueueFetch q) s = .next ((s1.queueError q c a).endReads (.island 9 q)) := by
  rw [show exec (.hostQueueFetch q) s = execHostQueueFetch q s from rfl]
  simp only [execHostQueueFetch, he, hn, hf, hg, h, Bool.not_true, Bool.or_self, Bool.false_eq_true, if_false]

end Fetch

/-- F behind a record that ends at TAIL. -/
theorem fetch_add_len {f : DWord} {len tail : Nat} (h : f.toNat + len = tail) : f + BitVec.ofNat 64 len = BitVec.ofNat 64 tail := by
  rw [← h, BitVec.ofNat_add, BitVec.ofNat_toNat, BitVec.setWidth_eq]

/-- A fetch of the one record up to TAIL. -/
theorem exec_queueFetchM_one {s s1 s2 : State} {q : Nat} {v : RingView} {at_ : DWord} {len kind : Nat}
    (hv : (ringView (whoQueue s q) (s.hostQ q).qcb).exec s = (.ok v, s1)) (h1 : s1.hostQ q = s.hostQ q)
    (hr : (ringRecord (whoQueue s1 q) (s.hostQ q).qcb v (s.hostQ q).fetch.toNat).exec s1 = (.ok (at_, len, kind), s2))
    (h2 : s2.hostQ q = s.hostQ q) (hk : kind ≠ 0xFF) (hs : s1.semaReach (s.hostQ q).ctx (s.hostQ q).sema = true)
    (ht : (s.hostQ q).fetch.toNat + len = v.tail) (hlt : v.tail < 2 ^ 64) (hlen : 1 ≤ len) :
    (queueFetchM q).exec s = (.ok (), (s2.semaNamed (s.hostQ q).sema 1).setHostQ q { s.hostQ q with fetch := BitVec.ofNat 64 v.tail }) := by
  rw [← h1] at hr hs ht h2
  have hne : (s1.hostQ q).fetch.toNat ≠ v.tail := by omega
  have hend : (((s2.semaNamed (s1.hostQ q).sema 1).setHostQ q { s1.hostQ q with
      fetch := BitVec.ofNat 64 v.tail }).hostQ q).fetch.toNat = v.tail := by
    rw [hostQ_setHostQ_self]
    exact Nat.mod_eq_of_lt hlt
  have hrec := exec_fetchRecordM hr hk hs h2
  rw [fetch_add_len ht] at hrec
  rw [queueFetchM, exec_bind_ok (exec_get s), exec_bind_ok hv, exec_fetchLoopM_record (h1 ▸ hne) hrec, exec_fetchLoopM_end hend, h1]

/-! ## The obligation -/

/-- Settles O40: a queue by the read of its HEAD and by its records, a message by the accesses before it, a mask by its requests. -/
theorem hostQueuesAndMessages : Obligations.HostQueuesAndMessages := by
  unfold Obligations.HostQueuesAndMessages
  refine ⟨fun s q h s1 hq he hl => ?_, fun s q cause addr s1 hq he hl => ?_, fun s q hq => ?doorbell, fun s q he hn hf hg =>
    ⟨fun s1 => exec_hostQueueFetch_ok he hn hf hg, fun cause addr s1 => exec_hostQueueFetch_raise he hn hf hg, ?record⟩,
    fun s k m h => ?message, fun s v => rfl, fun s l => rfl, fun s p m h => ?mask⟩
  · rw [exec_hostQueueEnable hq he, queueEnable_ok hl]
  · rw [exec_hostQueueEnable hq he, queueEnable_raise hl]
  case doorbell =>
    rw [show exec (.doorbell q) s = execDoorbell q s from rfl, execDoorbell, if_pos hq, doorbell_eq]
  case record =>
    intro v s1 at_ len kind s2 hv h1 hr h2 hk hs ht hlt hlen
    rw [exec_hostQueueFetch_ok he hn hf hg (exec_queueFetchM_one hv h1 hr h2 hk hs ht hlt hlen), hostQ_setHostQ_self, setHostQ_setHostQ]
  case message =>
    rw [show exec (.intr k) s = execIntr k s from rfl]
    simp only [execIntr, h]
    split <;> rfl
  case mask =>
    rw [show exec (.agfelRouteMaskWrite p m) s = execAgfelRouteMaskWrite p m s from rfl]
    simp only [execAgfelRouteMaskWrite, h, State.writeMask]
    cases s.inFlightTo p <;> rfl

end Sys2Proof.Machine
end

section
/-!
PROOFS. Sensors and alerts (R448, R449): when a refresh comes, and what a sector's reading reports.
-/
namespace Sys2Proof.Machine

/-! ## The readings of a sector -/

section Reading
variable (s : State) (n t : Nat)

@[simp] theorem sector_evlWrite (c : Byte) (ctx src : Nat) (d0 d1 : DWord) (k : Nat) :
    (s.evlWrite c ctx src d0 d1).sector k = s.sector k := rfl

@[simp] theorem sector_sceipSignal (i k : Nat) : (s.sceipSignal i).sector k = s.sector k := rfl

/-- The temperature is read, and the latch follows it: an armed one to the alert, another to the end of it (R449). -/
theorem sector_readTemp : (s.readTemp n t).sector n = { s.sector n with
    temp := t
    armed := ((s.sector n).armed && !decide (s.talert.toNat % 2 ^ 16 < t)) ||
      (!(s.sector n).armed && decide (t + s.thyst.toNat % 2 ^ 16 < s.talert.toNat % 2 ^ 16)) } := by
  simp only [State.readTemp]
  split
  · rw [sector_sceipSignal, sector_evlWrite, sector_updSector_self]
  · rw [sector_updSector_self]

variable {s n t}

theorem evlprod_readTemp_quiet (h : (s.sector n).armed = false ∨ t ≤ s.talert.toNat % 2 ^ 16) :
    (s.readTemp n t).evlprod = s.evlprod := by
  have hq : ((s.sector n).armed && decide (s.talert.toNat % 2 ^ 16 < t)) = false := by
    simpa [← Bool.not_eq_true, or_iff_not_imp_left] using h
  simp only [State.readTemp, hq, Bool.false_eq_true, if_false]
  rfl

/-- An armed sector that is too hot writes one record and signals sm0. -/
theorem readTemp_alert (ha : (s.sector n).armed = true) (ht : s.talert.toNat % 2 ^ 16 < t) : (s.readTemp n t).evlprod = s.evlprod + 1 ∧
    (s.readTemp n t).core Config.sceip = (s.semaAdd Config.sceip 0 1).core Config.sceip := by
  simp only [State.readTemp, ha, ht, decide_true, Bool.and_self, if_true, State.sceipSignal, core_semaAdd]
  exact ⟨rfl, rfl⟩

theorem readDroops_none (h : (s.sector n).droopsSeen = (s.sector n).droops) : s.readDroops n = s := if_pos h

/-- New droop events write one record and signal sm1. -/
theorem readDroops_new (h : (s.sector n).droopsSeen ≠ (s.sector n).droops) :
    ((s.readDroops n).sector n).droopsSeen = (s.sector n).droops ∧ (s.readDroops n).evlprod = s.evlprod + 1 ∧
      (s.readDroops n).core Config.sceip = (s.semaAdd Config.sceip 1 1).core Config.sceip := by
  simp only [State.readDroops, h, if_false]
  refine ⟨?_, rfl, ?_⟩
  · rw [sector_sceipSignal, sector_evlWrite, sector_updSector_self]
  · rw [State.sceipSignal, core_semaAdd, core_semaAdd]
    rfl

end Reading

/-! ## The refresh -/

theorem refreshSectors_eq_foldl (temps l : List Nat) (s : State) : refreshSectors temps l s =
    l.foldl (fun u n => (u.readTemp n (temps.getD n 0 % 2 ^ 16)).readDroops n) s := by
  induction l generalizing s with
  | nil => rfl
  | cons n l ih => rw [refreshSectors, ih, List.foldl_cons]

theorem sensorDue_eq (s : State) : s.sensorDue = s.lastRefresh + 4096 := rfl

/-- The cycles at which a refresh may come: the first of all, or 4,096 after the one before it. -/
theorem exec_sensorRefresh_due {s : State} (h : (s.lastRefresh = 0 ∧ 1 ≤ s.cyc) ∨ s.cyc = s.lastRefresh + 4096) (temps : List Nat)
    (power : Nat) : exec (.sensorRefresh temps power) s = .next ((List.range 256).foldl
      (fun u n => (u.readTemp n (temps.getD n 0 % 2 ^ 16)).readDroops n) { s with power := power, lastRefresh := s.cyc }) := by
  have hdue : (decide (s.lastRefresh = 0) && decide (1 ≤ s.cyc) || decide (s.cyc = s.sensorDue)) = true := by
    rw [← sensorDue_eq] at h
    simpa using h
  rw [show exec (.sensorRefresh temps power) s = execSensorRefresh temps power s from rfl, execSensorRefresh, if_pos hdue,
    refreshSectors_eq_foldl]

theorem exec_sensorRefresh_early {s : State} (h0 : s.lastRefresh = 0 → s.cyc = 0) (h : s.cyc ≠ s.lastRefresh + 4096) (temps : List Nat)
    (power : Nat) : exec (.sensorRefresh temps power) s = .next s := by
  have hdue : ¬ (decide (s.lastRefresh = 0) && decide (1 ≤ s.cyc) || decide (s.cyc = s.sensorDue)) = true := by
    rw [← sensorDue_eq] at h
    simp only [Bool.or_eq_true, Bool.and_eq_true, decide_eq_true_eq]
    omega
  rw [show exec (.sensorRefresh temps power) s = execSensorRefresh temps power s from rfl, execSensorRefresh, if_neg hdue]

/-- No cycle passes over a refresh that is due (log entry 51). -/
theorem cyc_passTime_le {s : State} (n : Nat) (h : s.cyc ≤ s.lastRefresh + 4096) : (s.passTime n).cyc ≤ s.lastRefresh + 4096 := by
  obtain ⟨ls, hst⟩ := still_passTime s n
  have hcyc : (s.passTime n).cyc = s.cyc + s.mayWait n := (congrArg State.cyc hst :)
  have hle : s.mayWait n ≤ s.sensorDue - s.cyc := Nat.min_le_right ..
  rw [sensorDue_eq] at hle
  omega

/-! ## The obligation -/

/-- Settles O54: a refresh by its cycle, a sector by its latch and its counters. -/
theorem sensorsAndAlerts : Obligations.SensorsAndAlerts := by
  unfold Obligations.SensorsAndAlerts
  refine ⟨fun s n hn => ?droop, fun s temps power h => exec_sensorRefresh_due h temps power,
    fun s temps power h0 h => exec_sensorRefresh_early h0 h temps power, fun s n h => cyc_passTime_le n h, ?temp,
    fun s n => ⟨readDroops_none, fun h u hu => hu ▸ readDroops_new h⟩⟩
  case droop =>
    rw [show exec (.droopEvent n) s = execDroopEvent n s from rfl, execDroopEvent, if_neg (Nat.not_le.2 hn)]
  case temp =>
    rintro s n t u rfl
    rw [sector_readTemp]
    refine ⟨rfl, rfl, fun ha => ?_, fun ha => ?_, evlprod_readTemp_quiet, readTemp_alert⟩
    · simp only [ha, Bool.true_and, Bool.not_true, Bool.false_and, Bool.or_false, ← decide_not, Nat.not_lt]
    · simp only [ha, Bool.false_and, Bool.not_false, Bool.true_and, Bool.false_or]

end Sys2Proof.Machine
end

section
/-!
PROOFS. Boot, recovery and attestation (R452 to R454), and the host's accesses of registers through BAR0 (R430).
-/
namespace Sys2Proof.Machine

/-! ## An image that runs (R452, R454) -/

theorem onlyRecorded_placeCells (l : List (Nat × Byte)) (s : State) : OnlyRecorded s (placeCells l s) := by
  induction l generalizing s with
  | nil => exact .refl s
  | cons p l ih =>
    unfold placeCells
    split
    · exact (onlyRecorded_fabWrite ..).trans (ih _)
    · exact ih s

/-- The state in which an image runs, before its bytes are placed. -/
def State.imageStarted (s : State) (image : List Byte) : State :=
  ({ s with fwImage := some image, bootst := 1
            ctxs := AMap.set s.ctxs 0 { s.ctxOf 0 with root := (Config.firmwareOf image).root } } : State).setCore Config.sceip
    { CoreSt.sceipReset with pc := pcOf (Config.firmwareOf image).pc }

/-- The bytes of an image change memory alone. -/
theorem onlyRecorded_runImage (s : State) (image : List Byte) : OnlyRecorded (s.imageStarted image) (s.runImage image) := by
  have h := onlyRecorded_placeCells (Config.firmwareOf image).cells { s with
    fwImage := some image, bootst := 1, ctxs := AMap.set s.ctxs 0 { s.ctxOf 0 with root := (Config.firmwareOf image).root } }
  exact onlyRecorded_iff.2 (congrArg (State.setCore · Config.sceip
    { CoreSt.sceipReset with pc := pcOf (Config.firmwareOf image).pc }) (onlyRecorded_iff.1 h))

theorem OnlyRecorded.core {s t : State} (h : OnlyRecorded s t) (c : Nat) : t.core c = s.core c := by
  rw [State.core, h.cores, State.core]

theorem OnlyRecorded.ctxOf {s t : State} (h : OnlyRecorded s t) (n : Nat) : t.ctxOf n = s.ctxOf n := by
  have hc : t.ctxs = s.ctxs := (congrArg State.ctxs (onlyRecorded_iff.1 h) :)
  rw [State.ctxOf, hc, State.ctxOf]

/-! ## Package reset (R452) -/

/-- The state after reset with the straps of a package. -/
def State.strapped (s : State) (b : BootInput) : State := { State.reset with
  turns := s.turns, turnNo := s.turnNo, freeNo := s.freeNo, package := b.package, recovery := b.recovery
  blobImage := if ecdsaVerify Config.vendorKey b.blob b.blobSig then some b.blob else none }

section Boot
variable (s : State) (b : BootInput)

/-- Both signatures are right, and no recovery is strapped. -/
def bootRuns (b : BootInput) : Bool :=
  ecdsaVerify Config.vendorKey b.image b.imageSig && ecdsaVerify Config.vendorKey b.blob b.blobSig && !b.recovery

theorem exec_packageReset : exec (.packageReset b) s = .next (if bootRuns b = true
    then ((s.strapped b).bootRegs (Config.blobOf b.blob)).runImage b.image
    else ({ s.strapped b with bootst := 2 } : State).setCore Config.sceip {}) := rfl

variable {t : State} (h : OnlyRecorded (((s.strapped b).bootRegs (Config.blobOf b.blob)).imageStarted b.image) t)
include h

/-- What the registers of the blob and the image leave as the reset and the straps have it. -/
theorem booted_straps : t.package = b.package ∧ t.recovery = b.recovery ∧ t.regions = State.reset.regions ∧
    t.attst = State.reset.attst ∧ t.blobImage = (if ecdsaVerify Config.vendorKey b.blob b.blobSig = true then some b.blob else none) := by
  have h := onlyRecorded_iff.1 h
  exact ⟨(congrArg State.package h :), (congrArg State.recovery h :), (congrArg State.regions h :), (congrArg State.attst h :),
    (congrArg State.blobImage h :)⟩

theorem core_booted_ne {c : Nat} (hc : c < 256) : t.core c = State.reset.core c := by
  rw [h.core]
  exact core_setCore_ne (c := Config.sceip) _ _ (Ne.symm (Nat.ne_of_lt hc))

theorem ctxOf_booted_ne {n : Nat} (hn : n ≠ 0) : t.ctxOf n = State.reset.ctxOf n := by
  rw [h.ctxOf]
  exact getD_set_ne _ _ _ (Ne.symm hn)

/-- The registers are those of the blob, each at its default where it has none. -/
theorem booted_settings {v : Settings} (hv : v = Config.blobOf b.blob) : t.bootst = 1 ∧ t.talert = (v.talert.getD 0x05F0) &&& 0xFFFF ∧
    t.thyst = (v.thyst.getD 0x0050) &&& 0xFFFF ∧ t.tstress = (v.tstress.getD 0x0550) &&& 0xFFFF ∧ t.masks = setMasks v.masks [] := by
  subst hv
  have h := onlyRecorded_iff.1 h
  exact ⟨(congrArg State.bootst h :), (congrArg State.talert h :), (congrArg State.thyst h :), (congrArg State.tstress h :),
    (congrArg State.masks h :)⟩

/-- The image runs on the Sceip core, and ctx 0 has its root. -/
theorem booted_image : t.fwImage = some b.image ∧ (t.core 256).run = .running ∧ (t.core 256).pc = pcOf (Config.firmwareOf b.image).pc ∧
    (t.ctxOf 0).root = (Config.firmwareOf b.image).root := by
  have hcore : t.core 256 = { CoreSt.sceipReset with pc := pcOf (Config.firmwareOf b.image).pc } := by
    rw [h.core]
    exact core_setCore_self ..
  have hctx : t.ctxOf 0 = { State.reset.ctxOf 0 with root := (Config.firmwareOf b.image).root } := by
    rw [h.ctxOf]
    exact getD_set_self ..
  rw [hcore, hctx]
  exact ⟨(congrArg State.fwImage (onlyRecorded_iff.1 h) :), rfl, rfl, rfl⟩

end Boot

/-! ## Attestation and recovery (R453, R454) -/

section Attest
variable {s : State}

theorem attgo_busy (h : s.attst = 1) : s.attgo = s := if_pos h

theorem attgo_starts (h : s.attst ≠ 1) : s.attgo = { s with attst := 1, nonceHeld := s.nonce } := if_neg h

theorem exec_attestationComplete_idle (h : s.attst ≠ 1) : exec .attestationComplete s = .next s := if_pos (bne_iff_ne.2 h)

theorem exec_attestationComplete (h : s.attst = 1) {m : List Byte} (hm : s.attestBytes = m) :
    exec .attestationComplete s = .next (match ecdsaSign identityD (Config.signNonce s.freeNo) m with
      | some v => { s with freeNo := s.freeNo + 1, attst := 2, sig := v }
      | none => { s with freeNo := s.freeNo + 1 }) := by
  rw [show exec .attestationComplete s = execAttestationComplete s from rfl, execAttestationComplete, h, hm]
  rfl

theorem attestBytes_eq {f b : List Byte} (hf : s.fwImage = some f) (hb : s.blobImage = some b) :
    s.attestBytes = leBytes s.nonceHeld.toNat 32 ++ sha256 f ++ sha256 b ++ leBytes s.package.toNat 8 := by
  rw [State.attestBytes, hf, hb, hashBytes, hashBytes]

theorem exec_recoveryComplete (h : s.rcvRun = true) (b : BootInput) {s1 : State} (hs : s1 = { s with
      rcvRun := false, hostReads := s.hostReads ++ linesOf s.rcvaddr.toNat b.image.length }) :
    exec (.recoveryComplete b) s = .next (if ecdsaVerify Config.vendorKey b.image b.imageSig = true
      then (s1.bootRegs (Config.firmwareOf b.image).settings).runImage b.image else { s1 with bootst := 3 }) := by
  subst hs
  rw [show exec (.recoveryComplete b) s = execRecoveryComplete b s from rfl, execRecoveryComplete, h]
  rfl

end Attest

/-! ## Accesses through BAR0 (R430) -/

section Access
variable {s : State} {a n : Nat}

/-- An access of another form than R430 has it. -/
theorem exec_registerWrite_ignored (ha : a ≠ msixCap)
    (h : a < 0xF000000000 ∨ 0x10000000000 ≤ a ∨ (n ≠ 4 ∧ n ≠ 8) ∨ a % n ≠ 0) (v : Option DWord) :
    exec (.registerWrite a n v) s = .next s := by
  rw [show exec (.registerWrite a n v) s = execRegisterWrite a n v s from rfl]
  unfold execRegisterWrite
  by_cases hform : ((n != 4 && n != 8) || a % n != 0) = true
  · rw [if_pos hform]
  · have hout : (decide (a < 0xF000000000) || decide (0x10000000000 ≤ a)) = true := by
      simp at hform ⊢
      omega
    rw [if_neg hform, if_neg (by simp [ha]), if_pos hout]

section Bar0
variable (hlo : 0xF000000000 ≤ a) (hhi : a < 0x10000000000) (hn : n = 4 ∨ n = 8) (ha : a % n = 0)
include hlo hhi hn ha

/-- An aligned access of 4 or 8 bytes through BAR0 has the form of R430. -/
theorem bar0_form : ((n != 4 && n != 8) || a % n != 0) = false ∧ a ≠ msixCap ∧
    (decide (a < 0xF000000000) || decide (0x10000000000 ≤ a)) = false := by
  refine ⟨?_, fun h => ?_, ?_⟩
  · rcases hn with rfl | rfl <;> simp [ha]
  · rw [h, msixCap] at hlo
    omega
  · simp
    omega

theorem exec_registerWrite_some (v : DWord) : exec (.registerWrite a n (some v)) s = .next (s.devWrite .host a n v.toNat) := by
  obtain ⟨hform, hcap, hin⟩ := bar0_form hlo hhi hn ha
  rw [show exec (.registerWrite a n (some v)) s = execRegisterWrite a n (some v) s from rfl]
  unfold execRegisterWrite
  simp only [hform, hcap, hin, Bool.false_eq_true, decide_false, Bool.false_and, if_false]

theorem exec_registerWrite_none : exec (.registerWrite a n none) s =
    .next (s.answer false a .register (BitVec.ofNat 512 (s.devRead a n))) := by
  obtain ⟨hform, hcap, hin⟩ := bar0_form hlo hhi hn ha
  rw [show exec (.registerWrite a n none) s = execRegisterWrite a n none s from rfl]
  unfold execRegisterWrite
  simp only [hform, hcap, hin, Bool.false_eq_true, decide_false, Bool.false_and, if_false]

end Bar0

end Access

/-! ## Registers (R430, R454) -/

section Registers
variable (s : State) (v : DWord)

/-- A write of a whole doubleword. -/
theorem mergeWord_dword (old off : Nat) : mergeWord old off 8 v.toNat = v.toNat := by
  rw [mergeWord, if_pos rfl, Nat.mod_eq_of_lt v.isLt]

theorem devWrite_rcvaddr : s.devWrite .host 0xF000000008 8 v.toNat = { s with rcvaddr := v } := by
  simp [State.devWrite, DevAgent.rw, mergeWord_dword]

theorem devWrite_rcvgo : s.devWrite .host 0xF000000010 8 v.toNat = s.rcvgo := by
  simp [State.devWrite]

theorem devWrite_attgo : s.devWrite .host 0xF000000120 8 v.toNat = s.attgo := by
  simp [State.devWrite]

/-- BOOTST and ATTST are not written. -/
theorem devWrite_readOnly {a : Nat} (h : a = 0xF000000000 ∨ a = 0xF000000128) : s.devWrite .host a 8 v.toNat = s := by
  rcases h with rfl | rfl <;> simp [State.devWrite]

theorem dwordAt_zero (n : Nat) : dwordAt n 0 = n % 2 ^ 64 := by
  simp [dwordAt, bits]

/-- A write of the first doubleword of NONCE. -/
theorem devWrite_nonce : s.devWrite .host 0xF000000100 8 v.toNat =
    { s with nonce := BitVec.ofNat 256 (s.nonce.toNat - s.nonce.toNat % 2 ^ 64 + v.toNat) } := by
  simp [State.devWrite, DevAgent.rw, mergeWord_dword, dwordAt_zero]

theorem extract_lowDword (x : BitVec 256) :
    (BitVec.ofNat 256 (x.toNat - x.toNat % 2 ^ 64 + v.toNat)).extractLsb' 0 64 = v ∧
    (BitVec.ofNat 256 (x.toNat - x.toNat % 2 ^ 64 + v.toNat)).extractLsb' 64 192 = x.extractLsb' 64 192 := by
  have hx := x.isLt
  have hv := v.isLt
  constructor
  all_goals
    apply BitVec.eq_of_toNat_eq
    simp only [BitVec.extractLsb'_toNat, BitVec.toNat_ofNat, Nat.shiftRight_eq_div_pow]
    omega

/-- No register of the management block stands from 0x200 on that the host may write. -/
theorem devWrite_none {a n : Nat} (hlo : 0xF000000200 ≤ a) (hhi : a ≤ 0xF000FFFFF8) : s.devWrite .host a n v.toNat = s := by
  have hoff : 0x200 ≤ (a - 0xF000000000) / 8 * 8 ∧ (a - 0xF000000000) / 8 * 8 < 0x1000000 := by omega
  simp only [State.devWrite]
  generalize (a - 0xF000000000) / 8 * 8 = o at *
  obtain ⟨hblock, h8, h10, hnonce, h120⟩ : o < 0x1000000 ∧ o ≠ 8 ∧ o ≠ 0x10 ∧ ¬ o < 0x120 ∧ o ≠ 0x120 := by omega
  simp only [hblock, h8, h10, hnonce, h120, decide_false, Bool.and_false, Bool.false_eq_true, if_true, if_false]

theorem devRead_bootst : s.devRead 0xF000000000 8 = s.bootst.toNat := by
  simp [State.devRead, State.devWord]

theorem devRead_rcvaddr : s.devRead 0xF000000008 8 = s.rcvaddr.toNat := by
  simp [State.devRead, State.devWord]

theorem devRead_attst : s.devRead 0xF000000128 8 = s.attst.toNat := by
  simp [State.devRead, State.devWord]

theorem devRead_unlisted : s.devRead 0xF000000018 8 = 0 := by
  simp [State.devRead, State.devWord]

theorem devRead_fwhash {f : List Byte} (h : s.fwImage = some f) : s.devRead 0xF0000001C0 8 = leNat ((sha256 f).take 8) := by
  simp [State.devRead, State.devWord, hashWord, h]

end Registers

/-! ## The obligation -/

/-- Settles O55: a reset by the signatures and the strap, attestation and recovery by their registers, an access of the host by its form
and its address. -/
theorem bootAndHostRegisters : Obligations.BootAndHostRegisters := by
  unfold Obligations.BootAndHostRegisters
  refine ⟨⟨fun s b => ?reset, fun s => ⟨fun h => ?busy, fun h => ⟨?starts, exec_attestationComplete_idle h⟩⟩, ?complete,
      fun s => ⟨fun h => ?none, fun h => ?recovers⟩, fun s b h s1 hs => exec_recoveryComplete h b hs⟩,
    fun s a n v ha h => exec_registerWrite_ignored ha h v, ?writes, ?ignored,
    fun s n a hlo hhi hn ha => exec_registerWrite_none hlo hhi hn ha,
    fun s => ⟨devRead_bootst s, devRead_rcvaddr s, devRead_attst s, devRead_unlisted s, fun f => devRead_fwhash s⟩⟩
  case reset =>
    by_cases hb : bootRuns b = true
    · have h := onlyRecorded_runImage ((s.strapped b).bootRegs (Config.blobOf b.blob)) b.image
      obtain ⟨hpackage, hrecovery, hregions, hattst, hblob⟩ := booted_straps s b h
      refine ⟨_, (exec_packageReset s b).trans (congrArg _ (if_pos hb)), hpackage, hrecovery, hregions, hattst,
        fun c hc => core_booted_ne s b h hc, fun n hn => ctxOf_booted_ne s b h hn, hblob, fun v hv => ?_⟩
      obtain ⟨hbootst, htalert, hthyst, htstress, hmasks⟩ := booted_settings s b h hv
      show if bootRuns b = true then _ else _
      rw [if_pos hb]
      exact ⟨hbootst, htalert, hthyst, htstress, hmasks, booted_image s b h⟩
    · refine ⟨_, (exec_packageReset s b).trans (congrArg _ (if_neg hb)), rfl, rfl, rfl, rfl, fun c hc => ?_, fun n hn => rfl, rfl,
        fun v hv => ?_⟩
      · exact core_setCore_ne (c := Config.sceip) _ _ (Ne.symm (Nat.ne_of_lt hc))
      · show if bootRuns b = true then _ else _
        rw [if_neg hb]
        exact ⟨rfl, rfl, rfl, rfl, rfl, rfl, rfl, congrArg CoreSt.run (core_setCore_self ..)⟩
  case busy => exact congrArg Host.Outcome.next (attgo_busy h)
  case starts => exact congrArg Host.Outcome.next (attgo_starts h)
  case complete =>
    rintro s f b ha hf hb m rfl
    exact exec_attestationComplete ha (attestBytes_eq hf hb)
  case none => exact congrArg Host.Outcome.next (if_pos h)
  case recovers => exact congrArg Host.Outcome.next (if_neg (Nat.not_lt.2 h))
  case writes =>
    intro s v
    obtain ⟨hlow, hhigh⟩ := extract_lowDword v s.nonce
    have hwrite {a : Nat} {t : State} (hin : 0xF000000000 ≤ a ∧ a < 0x10000000000 ∧ a % 8 = 0)
        (h : s.devWrite .host a 8 v.toNat = t) : exec (.registerWrite a 8 (some v)) s = .next t := by
      obtain ⟨hlo, hhi, ha⟩ := hin
      rw [exec_registerWrite_some hlo hhi (.inr rfl) ha, h]
    exact ⟨hwrite (by decide) (devWrite_rcvaddr s v), ⟨_, hwrite (by decide) (devWrite_nonce s v), hlow, hhigh, rfl, rfl⟩,
      hwrite (by decide) (devWrite_rcvgo s v), hwrite (by decide) (devWrite_attgo s v),
      hwrite (by decide) (devWrite_readOnly s v (.inl rfl)), hwrite (by decide) (devWrite_readOnly s v (.inr rfl))⟩
  case ignored =>
    intro s n v a hhi hlo hn ha
    rw [exec_registerWrite_some (by omega) (by omega) hn ha, devWrite_none s v hlo hhi]

end Sys2Proof.Machine
end
